-- ==== Sys2Proof/Word.lean ====
section
/-! DEFINITION. The word types of the NT-840 model: bytes, register words, hashes and keys. -/

namespace Sys2Proof

/-- One byte of memory, of a packet or of a buffer. -/
abbrev Byte := BitVec 8

/-- One management register: every register is 64 bits wide (R14). -/
abbrev Word := BitVec 64

/-- A 256-bit digest, key or nonce (R51, R345). -/
abbrev W256 := BitVec 256

/-- An F32 code or an I32 integer as stored (R73, R137). -/
abbrev W32 := BitVec 32

end Sys2Proof
end

