-- ==== Sys2Proof/Syntax.lean ====
section
/-! DEFINITION. The commands of the NT-840, one constructor of `Instr` per row of spec/opcode_table.json,
with the operands that the outside supplies: what a frame or packet carries, and what the world
outside the module answers (a self-test's result, a tag's check, a measured figure). -/

namespace Sys2Proof

/-- The two Lemlix ports (R40). -/
inductive Port where
  | a | b
deriving DecidableEq, Repr

/-- The level of the straps and sense pins of the low-speed header (R25, R28, R29, R36). -/
structure Straps where
  slotId : BitVec 6 := 0
  twinSense : Bool := false
  jbypEn : Bool := false
deriving DecidableEq, Repr

/-- What the hardware meets while it runs the power-up steps of Table 01-7: the outcome of every
step that can fail under R33, and the pins sampled at step 1. -/
structure Boot where
  strap : Straps := {}
  railsOk : Bool := true
  entropyOk : Bool := true
  trainFail : BitVec 8 := 0
  slow : BitVec 8 := 0
  hbmOk : BitVec 8 := 0xFF
  checkerOk : Bool := true
  sramOk : Bool := true
  fillOk : Bool := true
  failUnit : Nat := 0
deriving DecidableEq, Repr

/-- The supply whose fall starts a power-down (R37). -/
inductive Rail where
  | main | stby
deriving DecidableEq, Repr

/-- A 256-bit SRAM word that differs from a good one (R294): in the accumulator memory or the staging buffer of the command's engine,
its number there, and the data and check bits that are wrong. -/
structure SramWord where
  acc : Bool
  word : Nat
  data : BitVec 256
  chk : BitVec 40
deriving DecidableEq, Repr

/-- Words with errors of a buffer whose words carry the 8-row code (R294): each by its number, with its wrong data and check bits. -/
abbrev BufErr := List (Nat × BitVec 256 × BitVec 40)

/-- The SRAM words with errors that a command meets while it runs (R118, R124, R294). -/
abbrev SramErr := List SramWord

/-- What the far end of a link answers while the link trains (R214, Table 08-2). -/
structure PeerInfo where
  answers : Bool
  nt420 : Bool
  maxMode : Nat
  okMode : Nat
  peerId : Nat
  laneFault : BitVec 4
deriving DecidableEq, Repr

/-- The FEC's verdict on a received codeword (R217). -/
inductive Fec where
  | clean | corrected | failed
deriving DecidableEq, Repr

/-- A received codeword: its FEC verdict, its link control field (Table 08-3), and flits_m1 of each packet that starts in it, in slot
order (Table 08-5). -/
structure Codeword where
  fec : Fec
  seq : Nat
  ack : Nat
  nak : Bool
  credit : Nat
  sop : BitVec 16
  idle : BitVec 16
  lens : List Nat
deriving DecidableEq, Repr

/-- A fabric packet: header (Table 08-5), request block (Table 08-7) and data, as a key holder deciphers them. -/
structure Packet where
  type : Nat
  flitsM1 : Nat
  dst : Nat
  src : Nat
  ownerSet : BitVec 8
  txn : Nat
  keyGen : Bool
  hops : Nat
  seq : Nat
  range : Nat
  offset : Nat
  bytes : Nat
  party : Nat
  system : Bool
  echo : Nat
  status : Nat
  srcOwners : BitVec 8
  first : Nat
  count : Nat
  fmt : Nat
  mailbox : Nat
  data : List Byte
deriving DecidableEq, Repr

/-- The content of a collective's join message (R248). -/
structure Join where
  digest : W256
  seq : Nat
  op : Nat
  count : Nat
  srcFmt : Nat
  outFmt : Nat
  ofr : Bool
  eW : Int
  comp : Nat
  compK : Nat
  compVfmt : Nat
  root : Nat
  party : Nat
  system : Bool
  landRange : Nat
  landOff : Nat
  dstRange : Nat
  dstOff : Nat
deriving DecidableEq, Repr

/-- What a heartbeat says of the sender's staging hold: held lines, the largest open interval since pairing, the lines it has room for,
whether a print holds its mirror frozen (R274, R282; log entry 53), and whether the pair has lapsed there (R273). -/
structure HoldReport where
  held : Nat := 0
  high : Nat := 0
  cap : Nat := 0
  printing : Bool := false
  lapsed : Bool := false
deriving DecidableEq, Repr

/-- A pair offer (Table 10-1, step 2) with its quote; `sigOk` says whether the quote's signature verifies under the offering module's
certified identity key, `namesUs` whether its rig names this module. -/
structure PairOffer where
  moduleId : Nat
  primary : Bool
  namesUs : Bool
  rigDigest : W256
  compactDigest : W256
  rangesDigest : W256
  committed : Nat
  epoch : Nat
  quote : List Byte
  sigOk : Bool
deriving DecidableEq, Repr

/-- The rushes fields of a context (R176). -/
structure Rushes where
  en : Bool
  n : Nat
  ref : Nat
  thresh : Nat
deriving DecidableEq, Repr

/-- The owner named by a request: a context of the space or the space itself (R375, R383). -/
inductive Owner where
  | ctx (id : Nat) | space
deriving DecidableEq, Repr

/-- The space-channel requests of Table 14-9a. -/
inductive SpaceReq where
  | ctxCreate (r : Rushes)
  | ctxDestroy (ctx : Nat)
  | ctxSet (ctx : Nat) (r : Rushes)
  | ctxQuery (ctx : Nat)
  | qCreate (ringAddr entries compAddr version : Nat)
  | qDestroy (q : BitVec 32)
  | doorbell (q : BitVec 32) (idx : BitVec 32)
  | objAlloc (range size addr : Nat) (owner : Owner) (zero : Bool)
  | objFree (obj : BitVec 32)
  | fenceCreate (owner : Owner) (value : Word)
  | fenceDestroy (f : BitVec 32)
  | fenceSignal (f : BitVec 32) (value : Word)
  | fenceFail (f : BitVec 32)
  | fenceQuery (f : BitVec 32)
  | fenceNotify (f : BitVec 32) (value : Word)
deriving DecidableEq, Repr

/-- How a message came on a party channel: its message counter, and whether its tag verifies under k_in (R344). -/
structure MsgAuth where
  counter : Nat := 0
  ok : Bool := true
deriving DecidableEq, Repr

/-- Where a space-channel request comes from: port, space slot, and the message tag its reply carries (R404, R407). `auth` is the party index
and the state of the PARTY message that brought it; none for a request that came under the port session alone. -/
structure Chan where
  port : Port
  slot : Nat
  tag : Nat
  auth : Option (Nat × MsgAuth) := none
deriving DecidableEq, Repr

/-- A key message on a party channel (Table 13-7). -/
structure KeyMsg where
  op : Nat
  use : Nat
  slot : Nat
  target : Nat
  kind : Nat
  material : W256
  generation : Nat
  reservedZero : Bool
deriving DecidableEq, Repr

/-- What a party-channel message carries inside (R347, R407). -/
inductive PartyInner where
  | key (m : KeyMsg)
  | space (slot : Nat) (r : SpaceReq)
deriving DecidableEq, Repr

/-- One chunk of a print with its slate, as a restore receives them, and the printing module's identity public key with its certificate
chain (R283 to R285). -/
structure Chunk where
  chunk : List Byte
  slate : List Byte
  pub : List Byte
  idCert : List Byte
  interCert : List Byte
deriving DecidableEq, Repr

/-- What the sensors, the island energy counters and the counters of cycles report when the Gaffer retunes (R420, R437, R441):
figures the module measures and no rule computes. `isl` holds each island's cycles awake and energy in µJ since the last retune;
`energy100` and `draw10` hold, by space slot, the energy of the last 100 ms in µJ and the mean draw of the last 10 ms in W. Since
the last retune, `linkDown` holds each link's cycles down or training (Table 08-14), `stall` the cycles CUTs waited at step 1
(Table 10-13), `nodeErr` the words with errors of resident counter-cache lines, by stack and place in the cache (R294, Table 12-7), and
`mergeErr` those of merge-buffer entries, by the line they hold. `optics` holds the received power of
the four lanes of each port (Table 15-8), `portWait` the band-cycles each engine waited for its write port since the last
retune (R117, Table 04-9), and `busy` the cycles that each running command was busy on its island since then (R420). -/
structure Measured where
  inputW : Nat
  peakW : Nat
  inputMj : Nat
  mainMv : Nat
  stbyMv : Nat
  boardDc : BitVec 16
  reelA : BitVec 12
  reelB : BitVec 12
  basecamp : BitVec 12
  hbm : BitVec 12
  isl : List (Nat × Nat)
  energy100 : List Nat
  draw10 : List Nat
  linkDown : List Nat
  stall : Nat
  nodeErr : List (Nat × Nat × BufErr)
  mergeErr : List (Nat × BufErr) := []
  optics : List (BitVec 16)
  portWait : List Nat
  busy : List (Nat × Nat) := []
deriving DecidableEq, Repr

/-- The four bridge directions: from and to Reel A, from and to Reel B (R42, R43). -/
inductive BridgeDir where
  | aToBase | baseToA | bToBase | baseToB
deriving DecidableEq, Repr

/-- What a grip debug access does (Table 17-5, GRIP_DBG). -/
inductive GripOp where
  | halt | step | resume | trace
deriving DecidableEq, Repr

/-- A frame's header (Table 15-4). -/
structure FrameHdr where
  type : Nat := 0
  dst : Nat := 0
  src : Nat := 0
  channel : Nat := 0
  length : Nat := 0
  resv : Nat := 0
  seq : Nat := 0
  ack : Nat := 0
  credit : Nat := 0
  session : BitVec 32 := 0
deriving DecidableEq, Repr

/-- The commands of the block: one constructor per row of the opcode table. An operand with a default stands last: it is what the
surroundings bring beside the row's own operands, and its meaning takes it after the state. -/
inductive Instr where
  -- power, pins and sideband (files 01, 15, 16)
  | stbyValid (st : Straps)
  | i3cTargetLive
  | i3cEntdaa (addr : BitVec 7)
  | powerUp (b : Boot)
  | warmReset (st : Straps)
  | resetNRelease (b : Boot)
  | functionReset (p : Port) (tag : Nat) (key : Word) (b : Boot)
  | strikeNLow
  | strikeRestart (b : Boot)
  | tamperStrike (cause : Nat)
  | powerDown (r : Rail)
  | pinClamp
  | pinClampEnd (cycles : Nat)
  | junctionClamp
  | junctionClampEnd (cycles : Nat)
  | overdraw
  | overdrawEnd (cycles : Nat)
  | i3cRead (off : BitVec 24) (cmd : Byte := 0x10)
  | i3cBudget (v : Word)
  | i3cReset (key : BitVec 16) (b : Boot)
  | i3cStrike (key : BitVec 16)
  -- bridges (file 02)
  | bridgeBurstClose (d : BridgeDir) (data : List Byte) (idle : Nat)
  | bridgeBurstReceive (d : BridgeDir) (seq : Nat) (tagOk : Bool)
  | bridgeKeyRenew (d : BridgeDir)
  -- rig (file 02)
  | rigBufPtrWrite (p : Port) (tag : Nat) (v : Word)
  | rigBufDataWrite (p : Port) (tag : Nat) (v : Word)
  | rigBufLenWrite (p : Port) (tag : Nat) (v : Word)
  | verify (p : Port) (tag : Nat)
  | rigVerifyDone
  | commit (p : Port) (tag : Nat)
  | rigRefillDone
  | discard (p : Port) (tag : Nat)
  -- matrix array (file 04)
  | matmul (cid : Nat) (e : SramErr) (overlap : Nat := 0)
  | matmulResume (cid : Nat) (e : SramErr) (overlap : Nat := 0)
  | bandWatchdog (engine band : Nat)
  | rushesCheckDone (cid : Nat)
  | mxeCntClear (p : Port) (tag : Nat) (engine : Nat) (v : Word)
  -- reductions, vector, layout (files 05, 06)
  | redInit (cid : Nat)
  | redAdd (cid : Nat) (e : SramErr)
  | redRead (cid : Nat)
  | vector (cid : Nat) (e : SramErr)
  | quantize (cid : Nat) (e : SramErr)
  | random (cid : Nat) (e : SramErr)
  | gripWatchdog (grip : Nat)
  | transpose (cid : Nat)
  | gather (cid : Nat)
  | scatter (cid : Nat)
  | repack (cid : Nat)
  | nop (cid : Nat)
  | copy (cid : Nat)
  | stageIn (cid : Nat) (share : BufErr := [])
  | stageOut (cid : Nat) (e : SramErr) (share : BufErr := [])
  | releaseCopy (cid : Nat)
  -- parameter update (file 07)
  | update (cid : Nat) (e : SramErr)
  | normAcc (cid : Nat)
  -- fabric links (file 08)
  | linkTrain (link : Nat) (peer : PeerInfo)
  | linkCapabilityRetry (link : Nat) (peer : PeerInfo)
  | codewordReceive (link : Nat) (cw : Codeword)
  | transitForward (link : Nat) (pkt : Packet) (buf : BufErr := [])
  | requestReceive (link : Nat) (pkt : Packet) (tagOk : Bool) (buf : BufErr := [])
  | responseReceive (link : Nat) (pkt : Packet) (tagOk : Bool) (buf : BufErr := [])
  | transactionTimeout (txn : Nat)
  | egressRequest (link requester : Nat)
  | egressBackoffExpire (link requester : Nat)
  | linkWatchdog (link : Nat)
  | linkCtrlReset (p : Port) (tag : Nat) (link : Nat) (v : Word)
  | linkHoldDown (p : Port) (tag : Nat) (link : Nat) (v : Word)
  -- collectives (file 09)
  | collective (cid : Nat)
  | normReduce (cid : Nat)
  | collectiveSeqReady (cid : Nat)
  | collectiveJoinReceive (src : Nat) (j : Join)
  | collectiveCreditReceive (src : Nat) (digest : W256) (seq : Nat)
  | collectiveAbortReceive (src : Nat) (digest : W256) (seq : Nat)
  | collectiveTimeout (cid : Nat)
  -- twins, cuts, prints (file 10)
  | pairingStart (peerNonce : W256 := 0) (peerRanges : BitVec 32 := 0)
  | pairOfferReceive (o : PairOffer)
  | continuityKeyReceive (key : W256) (epoch gen : Nat)
  | resilverCopyReceive (src link range offset : Nat) (data : List Byte)
  | resilverCopyDone
  | mirrorStreamSend (n : Nat)
  | cut (cid : Nat)
  | cutHoldRelease
  | sealReceive (gen step : Nat)
  | sealedReceive (gen : Nat) (isSealed : Bool := true)
  | cutVerdictReceive (member gen : Nat) (ready : Bool)
  | cutCommitReceive (gen : Nat) (check : Bool := false)
  | cutAbortReceive (gen : Nat)
  | commitAckReceive (gen : Nat) (digests : List (Nat × W256))
  | heartbeatSend
  | heartbeatReceive (r : HoldReport := {})
  | partnerSuspect
  | probeReceive (src : Nat)
  | probeAnswerReceive (src : Nat)
  | probeTimeout
  | leaveReceive (src : Nat)
  | detach (p : Port) (tag : Nat)
  | resolve (p : Port) (tag : Nat) (toCommit : Bool)
  | rewind (p : Port) (tag : Nat)
  | rewindDone (lines : List (Nat × List Byte))
  | takeBegin (p : Port) (tag : Nat)
  | takeRecord (cid : Nat)
  | takeLogReceive (step : Nat) (digest : W256)
  | check (p : Port) (tag : Nat)
  | print (p : Port) (tag : Nat) (ranges : BitVec 32)
  | printChunkSend
  | printSlateSend
  | printComplete
  | printAbandon (p : Port) (tag : Nat)
  | restoreBegin (p : Port) (tag : Nat)
  | restoreChunk (p : Port) (tag : Nat) (c : Chunk)
  | restoreEnd (p : Port) (tag : Nat)
  -- memory (file 11)
  | mergeWriteback (stack : Nat) (key : Nat := 0)
  | memFlipArm (p : Port) (tag : Nat) (v : Word)
  | scrub (cid : Nat) (part : Option Nat := none)
  | scrubRangeStart (p : Port) (tag : Nat) (range pace : Nat)
  | scrubRangeStop (p : Port) (tag : Nat)
  | scrubRangeDone (units : Nat := 0)
  -- memory encryption (file 12)
  | rekey (p : Port) (tag : Nat) (range newSlot pace : Nat)
  | rekeyWalkDone (range : Nat) (units : List Nat := [])
  | reinit (p : Port) (tag : Nat) (range : Nat)
  | rangeFillDone (range : Nat)
  | ciphWinRead (p : Port) (tag : Nat)
  | ciphWinWrite (p : Port) (tag : Nat) (v : Word)
  -- keys and parties (file 13)
  | quote (p : Port) (tag : Nat)
  | quoteComplete
  | cert (p : Port) (tag : Nat) (intermediate : Bool)
  | draw (p : Port) (tag : Nat) (slot : Nat) (ownerSet : BitVec 8)
  | keyZeroize (p : Port) (tag : Nat) (slot : Nat)
  | fabActivate (p : Port) (tag : Nat)
  | fabRetire (p : Port) (tag : Nat)
  | keyOutRead (p : Port) (tag : Nat)
  | drbgReseed
  | entropyHealthFail
  | drawTimeout
  | bind (via : Port) (tag : Nat) (party : Nat) (nonce : W256)
  | bindConfirm (via : Port) (tag : Nat) (party : Nat) (ct sig : List Byte)
  | partyMessage (via : Port) (tag : Nat) (party counter : Nat) (authOk : Bool) (inner : PartyInner)
  | deliver (via : Port) (tag : Nat) (party : Nat) (m : KeyMsg) (auth : MsgAuth := {})
  | partyZeroize (via : Port) (tag : Nat) (party : Nat) (m : KeyMsg) (auth : MsgAuth := {})
  | query (via : Port) (tag : Nat) (party : Nat) (m : KeyMsg) (auth : MsgAuth := {})
  | spaceBind (via : Port) (tag : Nat) (party : Nat) (m : KeyMsg) (auth : MsgAuth := {})
  -- spaces, contexts, queues, objects, fences (file 14)
  | spaceCreate (p : Port) (tag : Nat) (slot : Nat)
  | spaceCreateDone (slot : Nat)
  | spaceDestroy (p : Port) (tag : Nat) (slot : Nat)
  | spaceDestroyDone (slot : Nat)
  | ctxCreate (ch : Chan) (r : Rushes)
  | ctxDestroy (ch : Chan) (ctx : Nat)
  | ctxSet (ch : Chan) (ctx : Nat) (r : Rushes)
  | ctxQuery (ch : Chan) (ctx : Nat)
  | qCreate (ch : Chan) (ringAddr entries compAddr version : Nat)
  | qDestroy (ch : Chan) (q : BitVec 32)
  | doorbell (ch : Chan) (q : BitVec 32) (idx : BitVec 32)
  | objAlloc (ch : Chan) (range size addr : Nat) (owner : Owner) (zero : Bool)
  | objFree (ch : Chan) (obj : BitVec 32)
  | fenceCreate (ch : Chan) (owner : Owner) (value : Word)
  | fenceDestroy (ch : Chan) (f : BitVec 32)
  | fenceSignal (ch : Chan) (f : BitVec 32) (value : Word)
  | fenceFail (ch : Chan) (f : BitVec 32)
  | fenceQuery (ch : Chan) (f : BitVec 32)
  | fenceNotify (ch : Chan) (f : BitVec 32) (value : Word)
  | commandComplete (cid busy energyUj : Nat)
  -- Lemlix control port (file 15)
  | hello (p : Port) (h : FrameHdr) (nonce : W256)
  | kemCt (p : Port) (ct : List Byte) (h : FrameHdr := {})
  | close (p : Port) (h : FrameHdr := {}) (tagOk : Bool := true)
  | rollCall (p : Port) (gen2 : Bool) (serials : List Word) (total : Nat) (h : FrameHdr := {})
  | ringLockLoss (p : Port)
  | dataFrame (p : Port) (h : FrameHdr) (tagOk : Bool)
  | sessionTimeout (p : Port)
  | frameResendTimeout (p : Port)
  | endSession (p : Port) (tag : Nat) (target : Port)
  | mgmtLockWrite (p : Port) (tag : Nat) (v : Word)
  | regRead (p : Port) (tag : Nat) (off : BitVec 24) (count : Nat)
  | regWrite (p : Port) (tag : Nat) (off : BitVec 24) (v : Word) (b : Boot := {})
  | spaceReq (p : Port) (tag : Nat) (r : SpaceReq)
  | firmwareImage (p : Port) (tag : Nat) (image sig : List Byte)
  -- Gaffer (file 16)
  | gafBudgetWrite (p : Port) (tag : Nat) (v : Word)
  | admissionPass (leftNs : Nat := 0)
  | retune (m : Measured)
  | pendingPriority (cid : Nat)
  | sliceEnd
  | strictWindowStart (slot : Nat)
  | islandSleep (island : Nat)
  | islandFault (island : Nat) (selftestOk : Bool) (b : Boot)
  -- life cycle and debug (file 17)
  | lcField (p : Port) (tag : Nat) (b : Boot)
  | lcScrap (p : Port) (tag : Nat) (confirm : BitVec 32)
  | lcPort (target : Nat) (confirm : BitVec 32) (b : Boot)
  | challenge (p : Port) (tag : Nat) (purpose scope : Nat)
  | challengeDone
  | accept (p : Port) (tag : Nat) (b : Boot)
  | dbgClose (p : Port) (tag : Nat)
  | dbgBufAccess (p : Port) (tag : Nat) (write : Option Word)
  | jtagIrUpdate (ir : BitVec 8)
  | extest (cells : List Bool)
  | idcode
  | samplePreload (cells : List Bool)
  | bypass (tdi : Bool)
  | dbgRead
  | memPort (addr : Nat) (write : Option Word)
  | regPort (off : BitVec 24) (write : Option Word) (b : Boot := {})
  | gripDbg (grip : Nat) (op : GripOp)
  | intScan (island : Nat)
  | intScanRelease (island : Nat) (selftestOk : Bool) (b : Boot)
  | jtagTestReset
  | rcRegisterRead (p : Port) (tag : Nat) (off : BitVec 24)
  -- rows added at the end of the table
  | stby3v3Loss
  | entropyHealthPass
  | cutTimeout (cid : Nat)
deriving DecidableEq, Repr

end Sys2Proof
end

