-- ==== Sys2Proof/Machine/State.lean ====
section
/-! DEFINITION. The state of the module as plain data, grouped by unit, with the values the spec's
register tables give for reset, and the state right after reset. Where the spec gives no reset value the
field's docstring names the log entry. -/

namespace Sys2Proof.Machine

/-- Why a step can stop with a fault. Nothing in this model faults: a failed command completes with a status
of Table 18-1 and the module goes on (R299, R388). The constructor names the one stop a memory model could need:
an address outside the 768 GiB of device memory; no meaning raises it (safe). -/
inductive Fault where
  /-- raised by no row: an access outside device memory gets a status of Table 18-1 (safe). -/
  | noSuchAddress (addr : Nat)
deriving DecidableEq, Repr

/-- Why a step can answer without a meaning. -/
inductive Refusal where
  /-- raised by the dispatch for a row that has no meaning yet (safe: the run ends). -/
  | notModelled (mnemonic : String)
deriving DecidableEq, Repr

/-- The status codes of Table 18-1 (R460). -/
inductive Status where
  | ok | okWithEvents | aborted | depFailed | busy | badDescriptor | badShape | objectStruck
  | memUncorrectable | memIntegrity | memUnverifiable | counterExhausted | flowDenied | keyAbsent
  | linkDown | peerLost | twinLost | continuityFail | watchdog | budgetRefused | frozenParam | rigMismatch
deriving DecidableEq, Repr

/-- Standby domain: supplies, header pins, straps, sampled slot, budget latch, bypasses, TAP and power-up outcome (files 01, 02).
`i3cData` holds the 8 bytes that the sideband's next private read returns (R414), `image` the firmware image that step 4 started. -/
structure Power where
  stbyValid : Bool := false
  mainValid : Bool := false
  resetN : Bool := true
  strikeN : Bool := true
  thermPinLow : Bool := false
  thermDrive : Bool := false
  strap : Straps := ⟨63#6, true, false⟩
  slotId : BitVec 6 := 63#6
  ready : Bool := false
  bypAOpen : Bool := false
  bypBOpen : Bool := false
  jbypClosed : Bool := false
  tapLive : Bool := false
  i3cLive : Bool := false
  i3cAddr : Option (BitVec 7) := none
  i3cPid : BitVec 48 := 0
  i3cData : Word := 0
  i3cResetReq : Nat := 0
  i3cStrikeReq : Nat := 0
  i3cRefused : Nat := 0
  budgetW : Nat := 2000
  budgetClamped : Bool := false
  serial : Word := 0
  orderVariant : Byte := 0x43
  bootStep : Nat := 0
  bootFailed : Bool := false
  failUnit : Nat := 0
  stackSlow : BitVec 8 := 0
  selftestOk : Bool := false
  scrapStop : Bool := false
  idkeyFp : W256 := 0
  fwVersion : Nat := 0
  golden : Bool := false
  image : List Byte := []
  fwMeas : W256 := 0
  strikeHeld : Bool := false
  resetHeld : Bool := false
  hbmOk : BitVec 8 := 0
  checkerOk : Bool := false
  sramOk : Bool := false
  selftestDone : Bool := false
deriving DecidableEq, Repr

/-- A bridge burst the sender keeps until it is acknowledged (R45). -/
structure Burst where
  seq : Nat
  data : List Byte
  fails : Nat
deriving DecidableEq, Repr

/-- One direction of a bridge (R43, R44): key, next sequence number, bursts sent and not acknowledged, bursts held until the key is
renewed, bytes released at the receiver. -/
structure Bridge where
  key : W256 := 0
  keyed : Bool := false
  seq : Nat := 0
  unacked : List Burst := []
  held : List (List Byte) := []
  delivered : List Byte := []
deriving DecidableEq, Repr

/-- A RANGES entry (Table 02-7), or the staging hold in the same shape (R306). -/
structure RangeCfg where
  base : Nat := 0
  size : Nat := 0
  mode : Nat := 0
  ownerSet : BitVec 8 := 0
  mirrored : Bool := false
  keySource : Nat := 0
deriving DecidableEq, Repr

/-- A release clause of the compact (R56). -/
structure Clause where
  id : Nat
  source : Nat
  subset : BitVec 8
deriving DecidableEq, Repr

/-- A party entry of the compact: index and public key (R56). -/
structure Party where
  index : Nat
  key : List Byte
deriving DecidableEq, Repr

/-- A SPACES entry (R57). -/
structure SpaceCfg where
  creatable : Bool := false
  party : Nat := 0
  share : Nat := 0
deriving DecidableEq, Repr

/-- A route entry (Table 02-8). -/
structure Route where
  primary : BitVec 48 := 0
  alternate : BitVec 48 := 0
deriving DecidableEq, Repr

/-- A rig in force, or one that has been verified (R48 to R62). -/
structure Rig where
  version : Nat := 3
  house : Bool := true
  moduleId : Nat := 0
  serial : Word := 0
  digest : W256 := 0
  bands : List (Nat × BitVec 16) := List.replicate 64 (0, 0xFFFF#16)
  caps : List Nat := List.replicate 125 7
  ranges : List RangeCfg := { base := 0, size := 768 * 2 ^ 30, mode := 2 } :: List.replicate 31 {}
  compactBytes : List Byte := List.replicate 8 0
  parties : List Party := []
  clauses : List Clause := []
  strict : Bool := false
  spaces : List SpaceCfg := { creatable := true, party := 255, share := 1000 } :: List.replicate 15 {}
  routeCount : Nat := 0
  twinNamed : Bool := false
  twinId : Nat := 0
  twinLinks : BitVec 48 := 0
  holdBase : Nat := 0
  holdSize : Nat := 0
  laneModes : List Nat := List.replicate 48 3
  classes : List (BitVec 32) := List.replicate 48 0
  routes : List Route := []
  replayable : Bool := false
  nonfiniteFail : Bool := false
  shared : Bool := false
  preauth : Bool := false
deriving DecidableEq, Repr

/-- The state of the rig buffer (Table 02-20). -/
inductive RigState where
  | empty | loading | verifying | verified | committing | rejected
deriving DecidableEq, Repr

/-- The rig registers and buffer (R63, R68). `buf` holds the non-zero bytes written, by offset. -/
structure RigBlock where
  active : Rig := {}
  staged : Option Rig := none
  next : Option Rig := none
  state : RigState := .empty
  lastStatus : Status := .ok
  reason : Nat := 0
  signer : Nat := 0
  buf : List Host.Cell := []
  ptr : Nat := 0
  len : Nat := 0
  overrun : Bool := false
  stagedDigest : W256 := 0
  reinitMask : BitVec 33 := 0
deriving DecidableEq, Repr

/-- One matrix engine with its vector engine: the registers of R124, the holding masks of R358, the space that holds it (R431,
R435), whether a command has written it since its last fill (R435), the context whose contents each band's staging
region and tiles hold (R140, R394), and the band-cycles of work since the last retune. -/
structure Engine where
  wdog : BitVec 8 := 0
  tileKind : BitVec 16 := 0
  macs : Nat := 0
  cycStream : Nat := 0
  cycLoad : Nat := 0
  cycFill : Nat := 0
  cycPort : Nat := 0
  cycIdle : Nat := 0
  cycBusy : Nat := 0
  stgCorr : Nat := 0
  stgUnc : Nat := 0
  accCorr : Nat := 0
  accUnc : Nat := 0
  holdStg : List (BitVec 8) := List.replicate 8 0
  holdTile : List (BitVec 8) := List.replicate 8 0
  holder : Option Nat := none
  written : Bool := false
  stgCtx : List (Option Nat) := List.replicate 8 none
  tileCtx : List (Option Nat) := List.replicate 8 none
deriving DecidableEq, Repr

/-- What a command ended with: the fields of its completion record that its run decides (Table 14-8). -/
structure Result where
  status : Status := .ok
  events : BitVec 16 := 0
  engine : Nat := 0
  tile : Nat := 0
  row : Nat := 0
  col : Nat := 0
  invalid : Nat := 0
  clip : Nat := 0
  floor : Nat := 0
  range : Nat := 255
  band : Nat := 0
deriving DecidableEq, Repr

/-- Where an accepted command stands: not yet admitted, admitted, begun and waiting for an event of its own, pre-empted with
its state saved, or run to its end with a result. -/
inductive Phase where
  | accepted | admitted | waiting | preempted | finished (r : Result)
deriving DecidableEq, Repr

/-- What a scrub has found: counts, and its findings as addresses and kinds of Table 11-6, newest first. -/
structure ScrubSum where
  lines : Nat := 0
  corr : Nat := 0
  unc : Nat := 0
  mac : Nat := 0
  unver : Nat := 0
  key : Nat := 0
  bad : List (Nat × Nat) := []
  mild : List (Nat × Nat) := []
deriving DecidableEq, Repr

/-- An accepted command (R378, R379). `body` is read when the wait fence is met; `point` is the operating point granted at
admission (R425); `door` counts the doorbells up to its own; `noFence` marks a header that could not be read (R381); `rush`
holds the rushes settings and the sampled tiles of an admitted MATMUL (R176), `asked` whether its checks were asked for (R177). `met` marks
a wait that was met (R384), `considered` a command that the Gaffer has considered (R421), `lower` the points that an overdraw took from
its grant (R433), `pj` the energy attributed to it so far in pJ (R420), `scrubbed` how far a SCRUB has got (R301). -/
structure Cmd where
  id : Nat
  space : Nat
  queue : Nat
  index : BitVec 32
  ctx : Nat
  opcode : Nat
  serial : Bool
  quiet : Bool
  notify : Bool
  energy : Nat
  v1 : Bool
  waitFence : BitVec 32
  waitValue : Word
  sigFence : BitVec 32
  sigValue : Word
  body : Option (BitVec 288)
  phase : Phase
  point : Nat
  door : Nat
  noFence : Bool
  rush : Option (Rushes × List Nat) := none
  asked : Bool := false
  met : Bool := false
  considered : Bool := false
  lower : Nat := 0
  pj : Nat := 0
  scrubbed : Option (Nat × ScrubSum) := none
deriving DecidableEq, Repr

/-- The running tally of a command's events. `seen` holds the coordinates of the first element that set one (R114, R393). -/
structure Tally where
  events : BitVec 16 := 0
  seen : Option (Nat × Nat × Nat) := none
  invalid : Nat := 0
  clip : Nat := 0
  floor : Nat := 0
deriving DecidableEq, Repr

/-- Where a pre-empted MATMUL goes on: its chunk, the next row it streams, and its counts and first-event coordinates (R139). -/
structure Progress where
  chunk : Nat := 0
  row : Nat := 0
  tally : Tally := {}
deriving DecidableEq, Repr

/-- A save image (R139, R428): of a band for context `ctx`, with the pre-empted command `cid` and its A20 partials, chain slots and
progress where there is one, or of an engine for a space (`ctx` none). `loaded` marks a pre-empted command's image whose tiles are
already back in the band as well. `stgCtx` and `tileCtx` name the contexts whose contents an engine's image holds, by band. -/
structure Image where
  cid : Option Nat
  ctx : Option Nat := none
  space : Nat
  engine : Nat
  band : Nat
  tiles : List (Nat × W32)
  staging : List Host.Cell := []
  tileKind : BitVec 16
  partials : List (BitVec 20) := []
  chains : List W32 := []
  progress : Progress := {}
  loaded : Bool := false
  holdStg : List (BitVec 8)
  holdTile : List (BitVec 8)
  stgCtx : List (Option Nat) := []
  tileCtx : List (Option Nat) := []
  epoch : Nat
  pages : List Nat := []
deriving DecidableEq, Repr

/-- A rushes check in flight: the checked command, its context and output tile, the reference engine, the wake epoch of its island that
the check's requests carry (R436), and once the tile is done its values and the reference values (R177). -/
structure RushJob where
  cid : Nat
  ctx : Nat
  tile : Nat
  refEngine : Nat
  epoch : Nat
  vals : List (W32 × W32)
deriving DecidableEq, Repr

/-- Matrix engines, tiles and staging buffers. Tiles are keyed engine·2^20 + tile·2^16 + row·256 + column,
staging bytes engine·2^23 + offset; an unlisted element is +0, an unlisted byte 0 (R105). -/
structure Array where
  engines : List Engine := List.replicate 64 {}
  tiles : List (Nat × W32) := []
  staging : List Host.Cell := []
  images : List Image := []
  rush : List RushJob := []
  stepKeys : List ((Nat × Word) × W256) := []
deriving DecidableEq, Repr

/-- One packet at a requester of a link's egress arbiter: the tracker it belongs to, the space it is sent for, and the ingress link of
a transit packet (R234). -/
structure Outgoing where
  pkt : Packet
  txn : Option Nat
  space : Nat
  via : Option Nat := none
deriving DecidableEq, Repr

/-- A codeword sent (R216): the fields of its link control (Table 08-3), and its 16 flit slots, each idle or a flit of a packet by its
number. -/
structure SentCw where
  seq : Nat
  ack : Nat
  nak : Bool
  credit : Nat
  slots : List (Option (Outgoing × Nat))
deriving DecidableEq, Repr

/-- A requester of an egress arbiter: packets ready, consecutive losses, and whether a backoff runs (R234 to R236). -/
structure Requester where
  queue : List Outgoing := []
  losses : Nat := 0
  backoff : Bool := false
deriving DecidableEq, Repr

/-- One fabric link (R212 to R219, R234 to R242). `sending` is the requester and packet that hold the link and the flits of it already in
slots, `build` the slots filled of the next codeword, `replay` the codewords sent and not acknowledged, oldest first, `resend` those of them
that a nak asks for again, `last` the codeword sent last. `credit` counts the flits the peer's ingress buffer has room for. `occ` counts
the flits in this end's ingress buffer, `rxHave` and `rxLeft` those come and to come of the packet coming in, `freed` the flits freed and
not yet returned as credit. -/
structure Link where
  state : Nat := 0
  mode : Nat := 0
  peerId : Nat := 0
  peerNt420 : Bool := false
  laneFault : BitVec 4 := 0
  mismatch : Bool := false
  wdog : Bool := false
  holdDown : Bool := false
  rxSeq : Nat := 0
  txSeq : Nat := 0
  nakDue : Bool := false
  build : List (Option (Outgoing × Nat)) := []
  replay : List SentCw := []
  resend : List SentCw := []
  last : Option SentCw := none
  fails : Nat := 0
  credit : Nat := 512
  occ : Nat := 0
  rxHave : Nat := 0
  rxLeft : Nat := 0
  freed : Nat := 0
  sending : Option (Nat × Outgoing × Nat) := none
  lastWin : List Nat := List.replicate 4 13
  lastIn : Nat := 47
  reqs : List Requester := List.replicate 14 {}
  cntTx : Nat := 0
  cntRx : Nat := 0
  cntCorr : Nat := 0
  cntRetry : Nat := 0
  cntCut : Nat := 0
  cntWdog : Nat := 0
  cntTrain : Nat := 0
  cntDown : Nat := 0
deriving DecidableEq, Repr

/-- What a fabric transaction was issued for. A `message` is one whose answer changes nothing here. -/
inductive TxnOwner where
  | command (cid : Nat) | mirror (addr lines : Nat) | resilver (addr lines : Nat) | collective (cid : Nat)
  | takeLog (cid : Nat) | message
deriving DecidableEq, Repr

/-- An outstanding transaction (R231, R232). -/
structure Tracker where
  txn : Nat
  seq : Nat
  dst : Nat
  link : Nat
  acked : Bool
  reserved : Bool
  space : Nat
  owner : TxnOwner
deriving DecidableEq, Repr

/-- A request that waits for a free tracker (R231). -/
structure Waiting where
  pkt : Packet
  requester : Nat
  twinOnly : Bool
  owner : TxnOwner
  space : Nat
deriving DecidableEq, Repr

/-- The fabric's module-wide registers and state (R224, R225, R231, R242). `windows` holds, per source and key generation bit, the
sequence numbers accepted; `ended` the transactions that have ended and whose owner has not acted on it yet. -/
structure Fabric where
  links : List Link := List.replicate 48 {}
  timeout : Nat := 2048
  trackers : List Tracker := []
  waiting : List Waiting := []
  ended : List (TxnOwner × Status) := []
  highWater : Nat := 0
  seq : Nat := 0
  windows : List ((Nat × Bool) × List Nat) := []
  tagFail : Nat := 0
  replayed : Nat := 0
  hopLimit : Nat := 0
  noRoute : Nat := 0
  late : Nat := 0
  foreign : Nat := 0
  noKey : Nat := 0
  resetDrop : Nat := 0
  routeSel : Nat := 0
deriving DecidableEq, Repr

/-- One operation of a collective on this member, in the order it runs (R247, R248, R255): partials of elements [lo, hi), final bytes,
compressed blocks of a segment or a whole reduced segment, sent to or taken from the member of a rank. `idx` is the position of a
landing buffer's data among those that the receiver takes. -/
inductive ColOp where
  | send (peer lo hi idx : Nat) | add (peer lo hi : Nat)
  | sendFinal (peer lo hi : Nat) | sendOut (peer lo hi : Nat) | take (peer lo hi : Nat)
  | sendBlocks (peer seg idx : Nat) | addBlocks (peer seg : Nat)
  | sendSeg (peer seg idx : Nat) | takeSeg (peer seg : Nat)
  | readOut (lo hi : Nat) | readSeg (seg : Nat)
deriving DecidableEq, Repr

/-- One collective slot (R243, R248, R263): the command, what it joined with, and its progress. Element values are F32 bits, window
codes of R144 or a norm cell's value; `landed` and `finals` hold the runs of bytes received into the landing area and the
destination; `recvs` the senders of the landing data in the order it is taken, of which `taken` have been. `stride` is the distance of the landing buffers,
`area` the landing bytes that R248 asks for. -/
structure ColSlot where
  cid : Nat
  space : Nat
  mine : Join
  ranks : List Nat
  rank : Nat
  norm : Bool
  group : Nat
  src : Nat
  dst : Nat
  comp : Nat
  resid : Nat
  upd : Nat
  landing : Nat
  stride : Nat
  area : Nat
  joins : List (Nat × Join) := []
  credits : List (Nat × Nat) := []
  prog : List ColOp := []
  recvs : List Nat := []
  taken : Nat := 0
  landed : List (Nat × Nat) := []
  finals : List (Nat × Nat) := []
  vals : List (BitVec 256) := []
  flags : Nat := 0
  chosen : List Nat := []
  segs : List (Nat × List Byte) := []
  blocks : List (Nat × List Byte) := []
  sent : Nat := 0
  nonfinite : Nat := 0
  tally : Tally := {}
deriving DecidableEq, Repr

/-- The collective engine (R243, R263). -/
structure ColEngine where
  slots : List ColSlot := []
  early : List (Nat × Join) := []
  highWater : Nat := 0
  timeout : Nat := 4096
  done : Nat := 0
  failed : Nat := 0
  tx : Nat := 0
  rx : Nat := 0
  nonfinite : Nat := 0
  abortsRx : Nat := 0
  slotSel : Nat := 0
deriving DecidableEq, Repr

/-- The states of a pair (Table 10-8); `guarded` is PROTECTED. -/
inductive PairState where
  | unpaired | pairing | resilvering | guarded | inDoubt | orphaned | copied
deriving DecidableEq, Repr

/-- The role of a module in its pair (R264). -/
inductive Role where
  | none | primary | twin
deriving DecidableEq, Repr

/-- A CUT in progress on a primary (Table 10-3): 0 held at step 1, 1 draining, 2 waiting for SEALED, 3 waiting for verdicts, 4 waiting
for the twin to acknowledge the COMMIT. `check` says that the COMMIT asked for the continuity check (R279). -/
structure CutRun where
  cid : Nat
  gen : Nat
  step : Nat
  group : Nat
  seq : Nat
  members : List Nat
  stage : Nat
  isSealed : Bool
  verdicts : List (Nat × Bool)
  check : Bool := false
deriving DecidableEq, Repr

/-- The print in progress or last done (R281, R287), with the tag and digests of each chunk that has left: 0 idle, 1 freezing, 2 chunks, 3 slates, 4 done, 5 abandoned. -/
structure PrintRun where
  state : Nat := 0
  sent : Nat := 0
  id : Nat := 0
  ranges : List Nat := []
  keys : List (Nat × W256) := []
  wrapKeys : List (Nat × W256) := []
  gen : Nat := 0
  tags : List (Nat × List Byte) := []
deriving DecidableEq, Repr

/-- A chunk that a restore has written: its range, index and count, and the print and generation it is of. -/
structure GotChunk where
  range : Nat
  index : Nat
  total : Nat
  printId : Nat
  gen : Nat
deriving DecidableEq, Repr

/-- The restore in progress (R285): the chunks written, the last of each range and index, and the print wrap keys derived at its start
(Table 13-9). -/
structure RestoreRun where
  active : Bool := false
  wrapKeys : List (Nat × W256) := []
  got : List GotChunk := []
deriving DecidableEq, Repr

/-- Dailies: pair, mirror, generations, cuts, takes, prints, restores (R264 to R287). Held lines are keyed by range·2^40 + byte
offset in the range, with the number of the hold's 128-byte place that has the line, plus 1: `opened` the open interval, `sealed` the
intervals not yet committed, `ready` those committed and not yet applied. `mirrorIds` are a twin's mirror ranges; `barred` stands after a
refused pairing until a twin link next comes up; `offerOut` says that this module's own offer has gone; `report` is the partner's last
heartbeat; `lapseDue` says that the twin has lapsed and the primary has not been told. The mirror map holds runs [lo, hi) of line
numbers; `mirrorPos` is where its stream goes on, `failed` the lines that it could not read. `sealedGen` is the generation and step of a seal with no decision yet.
`early` are verdicts that came before this module's own CUT, `stale` the members whose verdict was still to come when a cut aborted, with its
generation: that verdict is of no later cut (R272). -/
structure Dailies where
  role : Role := .none
  state : PairState := .unpaired
  partner : Nat := 0
  promoted : Bool := false
  take : Bool := false
  rewinding : Bool := false
  epoch : Nat := 0
  epochs : List (Nat × Nat) := []
  offer : Option PairOffer := none
  nonceDraw : Nat := 0
  committed : Nat := 0
  applied : Nat := 0
  mirrorIds : BitVec 32 := 0
  barred : Bool := false
  offerOut : Bool := false
  report : HoldReport := {}
  lapseDue : Bool := false
  opened : List (Nat × Nat) := []
  sealed : List (Nat × Nat) := []
  ready : List (Nat × Nat) := []
  sealedIntervals : Nat := 0
  sealedGen : Option (Nat × Nat) := none
  frozen : Bool := false
  holdHigh : Nat := 0
  stepHigh : Nat := 0
  map : List (Nat × Nat) := []
  mirrorPos : Nat := 0
  failed : List (Nat × Nat) := []
  arg : Nat := 0
  lastStatus : Status := .ok
  pairEvent : Status := .ok
  reason : Nat := 0
  suspected : Bool := false
  resilverPos : Nat := 0
  doneMib : Nat := 0
  totalMib : Nat := 0
  matched : BitVec 32 := 0
  mismatched : BitVec 32 := 0
  checkArmed : Bool := false
  log : List (Nat × W256) := []
  cut : Option CutRun := none
  early : List (Nat × Nat × Bool) := []
  stale : List (Nat × Nat) := []
  print : PrintRun := {}
  restore : RestoreRun := {}
  cntMirror : Nat := 0
  cntCommitted : Nat := 0
  cntAborted : Nat := 0
  cntStall : Nat := 0
  cntLapse : Nat := 0
  cntPromote : Nat := 0
deriving DecidableEq, Repr

/-- An entry of a controller's merge buffer: the line or frame held, the mask of the bytes merged into it (R295), and its words with errors
(R294). -/
structure MergeEntry where
  stack : Nat
  key : Nat
  lines : Nat
  sealed : Bool
  mask : BitVec 256 := 0
  err : BufErr := []
deriving DecidableEq, Repr

/-- A line resident in a controller's counter cache (R317): a MAC line, or the node of a level. `bad` holds its wrong bits
that the code did not see. -/
structure CacheLine where
  range : Nat
  stack : Nat
  mac : Bool
  level : Nat
  index : Nat
  dirty : Bool := false
  bad : Nat := 0
deriving DecidableEq, Repr

/-- A node of a counter tree that can no longer be trusted (R322). Level 0 is a leaf; `mac` marks a MAC line. -/
structure FailedNode where
  range : Nat
  stack : Nat
  mac : Bool
  level : Nat
  index : Nat
deriving DecidableEq, Repr

/-- The error counters of one stack (Table 11-8). -/
structure StackErr where
  corrected : Nat := 0
  uncorrectable : Nat := 0
  chkOnly : Nat := 0
  tagFail : Nat := 0
deriving DecidableEq, Repr

/-- The management scrub (R303). -/
structure ScrubRun where
  state : Nat := 0
  range : Nat := 0
  pace : Nat := 0
  pos : Nat := 0
  doneMib : Nat := 0
  read : Nat := 0
  corr : Nat := 0
  unc : Nat := 0
  mac : Nat := 0
  unver : Nat := 0
  key : Nat := 0
deriving DecidableEq, Repr

/-- Main memory as the line ciphers see it. `cells` holds the plaintext of every byte that is not zero: a filled
line reads as zero bytes (R296). `faults` holds, by line number, the stored bits that differ from a good line: data and
metadata (R290, R298). `counters` holds the counters that are not 0: a frame's at its frame number, a tree node's at 2^40
plus its line number (R314). -/
structure Mem where
  cells : List Host.Cell := []
  faults : List (Nat × (BitVec 512 × BitVec 64)) := []
  counters : List (Nat × Nat) := []
  nodes : List FailedNode := []
  allFailed : List (Nat × Nat) := []
  merge : List MergeEntry := []
  cache : List CacheLine := []
  mergeHigh : Nat := 0
  errs : List StackErr := List.replicate 8 {}
  flipMask : List Word := List.replicate 9 0
  flipStack : Nat := 0
  flipArm : Bool := false
  flipDone : Bool := false
  flipRefused : Bool := false
  flipAddr : Nat := 0
  scrub : ScrubRun := {}
deriving DecidableEq, Repr

/-- What the module keeps for a key range or the staging hold (Table 12-1, R332). `fresh` holds the runs of lines written
under the current key since a rotation began, `walkPos` the units that each controller's walk has taken (R325). `subkeys` and `prevSub` are the working
subkeys of the current and the previous key, `tree` the tree key of each stack (Table 12-2). -/
structure RangeKey where
  curSlot : Nat := 0
  prevSlot : Nat := 0
  prevValid : Bool := false
  prevStruck : Bool := false
  keyless : Bool := false
  gen : Nat := 0
  salt : BitVec 128 := 0
  walk : Nat := 0
  pace : Nat := 0
  doneMib : Nat := 0
  fresh : List (Nat × Nat) := []
  walkPos : List Nat := List.replicate 8 0
  subkeys : List Byte := []
  prevSub : List Byte := []
  tree : List W256 := []
  dead : Nat := 0
  macFail : Nat := 0
  unver : Nat := 0
  exhausted : Nat := 0
  debug : Nat := 0
deriving DecidableEq, Repr

/-- The CIPH_ block: ranges 0 to 31 and the hold as 32 (R332). `waiting` holds the accesses that wait for a fill (R308). -/
structure Cipher where
  waiting : List Instr := []
  ranges : List RangeKey := List.replicate 33 {}
  lastStatus : Status := .ok
  lastRange : Nat := 0
  winAddr : Nat := 0
  winStatus : Status := .ok
  outsideKey : W256 := 0
  hits : List Nat := List.replicate 8 0
  misses : List Nat := List.replicate 8 0
deriving DecidableEq, Repr

/-- The USE of a key slot, in the order of its codes in KEY_SLOT (Table 13-17). -/
inductive Use where
  | memRange | fabric | port | wrap | sign | kdf
deriving DecidableEq, Repr

/-- One key slot (Tables 13-5, 13-17). `ext` is what the identity key of slot 0 has beyond 256 bits: its PK.seed (R334). -/
structure KeySlot where
  valid : Bool := false
  use : Use := .memRange
  ownerSet : BitVec 8 := 0
  prev : Bool := false
  locked : Bool := false
  origin : Nat := 0
  target : Nat := 0
  party : Nat := 0
  key : W256 := 0
  ext : BitVec 128 := 0
deriving DecidableEq, Repr

/-- A joint derivation waiting for contributions (R348, R349). -/
structure Derivation where
  use : Nat
  slot : Nat
  target : Nat
  generation : Nat
  parts : List (Nat × W256)
deriving DecidableEq, Repr

/-- A party channel (R342 to R344, R408): bound or being bound, with its message counters. -/
structure Channel where
  bound : Bool := false
  ek : Option (List Byte) := none
  dk : List Byte := []
  quote : List Byte := []
  lastIn : Option Nat := none
  nextOut : Nat := 0
  via : Port := .a
deriving DecidableEq, Repr

/-- Who a signature was requested for (R338, R454): management, a party channel being bound, a session, the partner in a pair offer, a debug
challenge. -/
inductive QuoteFor where
  | mgmt | bind (party : Nat) (via : Port) (tag : Nat) | session (p : Port) | pair | challenge
deriving DecidableEq, Repr

/-- A queued signature request: nonce, vouched encapsulation key, and requester (R338). -/
structure QuoteReq where
  nonce : W256
  ek : List Byte
  dest : QuoteFor
deriving DecidableEq, Repr

/-- Keys, parties and attestation (R333 to R366). -/
structure Keys where
  slots : List KeySlot := List.replicate 256 {}
  lastStatus : Status := .ok
  vaultOk : Bool := false
  entropyOk : Bool := false
  drbgReqs : Nat := 0
  waiting : List Instr := []
  quotes : List QuoteReq := []
  outPtr : Nat := 0
  out : List Byte := []
  outReady : Bool := false
  nonce : List Word := List.replicate 4 0
  compactEnded : Bool := false
  channels : List Channel := List.replicate 8 {}
  pendings : List Derivation := []
  fabCur : Option Nat := none
  fabOther : Option Nat := none
  fabStaged : Bool := false
  fabGen : Nat := 0
  fabOtherGen : Nat := 0
  strikeCause : Nat := 0
  strikeCount : Nat := 0
  tamperLive : BitVec 4 := 0
  tamperLatched : BitVec 4 := 0
deriving DecidableEq, Repr

/-- One space slot (R369 to R372, R396, R407, R426): `energy100` is its energy in the last 100 ms in µJ, `draw10` its mean draw over the
last 10 ms in W (R425, R439); with the holding masks of its shares of the two shared buffers (R358). -/
structure Space where
  state : Nat := 0
  bound : Bool := false
  party : Nat := 0
  ctlRange : Nat := 0
  ctlOffset : Nat := 0
  qCtx : Nat := 0
  qQueue : Nat := 0
  qObj : Nat := 0
  qFence : Nat := 0
  qL2 : Nat := 0
  aborted : Nat := 0
  depFailed : Nat := 0
  port : Port := .a
  pending : Option Nat := none
  refused : Nat := 0
  energy100 : Nat := 0
  draw10 : Nat := 0
  lastQueue : Nat := 0
  reserved : List Nat := []
  shareMask : List (BitVec 8) := [0, 0]
deriving DecidableEq, Repr

/-- A measured estimate of a pair of opcode and energy class in a context (R420): mean in mW, samples, and their busy cycles, whose mean
R432 asks for. -/
structure Estimate where
  opcode : Nat
  energy : Nat
  mw : Nat
  n : Nat
  busy : Nat
deriving DecidableEq, Repr

/-- A context entry (R391, R394). `age` counts the slice ends since it became resident or stopped being it; `leaving` marks one that
leaves residency when its last running command completes (R429). -/
structure Ctx where
  id : Nat
  space : Nat
  dying : Bool := false
  resident : Bool := false
  age : Nat := 0
  leaving : Bool := false
  mask : BitVec 8 := 0
  rushes : Rushes
  samples : Nat := 0
  checked : Nat := 0
  skipped : Nat := 0
  bins : List Nat := List.replicate 16 0
  busy : List Nat := List.replicate 5 0
  energyUj : Nat := 0
  hbmRead : Nat := 0
  hbmWritten : Nat := 0
  ests : List Estimate := []
deriving DecidableEq, Repr

/-- A queue (R377, R378). `doneIdx` is the completed index; `doneAhead` holds later indices already completed. -/
structure Queue where
  idx : Nat
  space : Nat
  ring : Nat
  entries : Nat
  comp : Nat
  version : Nat
  producer : BitVec 32
  doneIdx : BitVec 32
  doneAhead : List (BitVec 32)
  grip : Nat
  dying : Bool := false
deriving DecidableEq, Repr

/-- A run of 2 MiB pages of an object: first virtual page, first physical page, count (R373 to R375). -/
structure Extent where
  vpn : Nat
  ppn : Nat
  n : Nat
deriving DecidableEq, Repr

/-- A memory object (R375, R390). `struck` holds the doorbell count at the free. -/
structure Obj where
  idx : Nat
  space : Nat
  owner : Owner
  range : Nat
  vpn : Nat
  pages : List Extent
  struck : Option Nat
deriving DecidableEq, Repr

/-- A fence (R383, R386): value, state, owner, the record of its failure, notices asked for, and the doorbell count when it was struck
(R389). -/
structure Fence where
  idx : Nat
  space : Nat
  owner : Owner
  value : Word
  failed : Bool
  record : List Byte
  struck : Bool
  notifies : List Word
  door : Nat := 0
deriving DecidableEq, Repr

/-- A notice to a space: a completion record, also that of an emergency's start or end, or a fence notice (R393, R434, R387). -/
inductive Note where
  | record (bytes : List Byte)
  | fence (f : BitVec 32) (value : Word) (status : Status)
deriving DecidableEq, Repr

/-- Spaces, contexts, queues, objects, fences and commands (R367 to R396). -/
structure Spaces where
  slots : List Space := List.replicate 16 {}
  arg0 : Word := 0
  arg1 : Word := 0
  arg2 : Word := 0
  lastStatus : Status := .ok
  lastSlot : Nat := 0
  ctxs : List Ctx := []
  queues : List Queue := []
  objs : List Obj := []
  fences : List Fence := []
  cmds : List Cmd := []
  nextCid : Nat := 0
  doors : Nat := 0
  notices : List (Nat × Note) := []
  cmpAccepted : Nat := 0
  cmpRefused : Nat := 0
deriving DecidableEq, Repr

/-- What goes toward the control node (R404, R407): a reply on a channel, a party's reply under k_out, a notice (`sealed` is the party
index and message counter of one that travels under k_out), a HELLO_REPLY, a serial appended to a roll call, a piece of a print. -/
inductive Msg where
  | reply (chan : Nat) (tag : Nat) (status : Status) (data : List Byte)
  | party (chan : Nat) (index : Nat) (counter : Nat) (tag : Nat) (status : Status) (data : List Byte)
  | notice (slot : Nat) (sealed : Option (Nat × Nat)) (n : Note)
  | helloReply (quote ek : List Byte)
  | rollCall (serial : Word)
  | bulk (stream target : Nat) (data : List Byte)
deriving DecidableEq, Repr

/-- A DATA frame of a session: its sequence number, and which part of which message it carries (R403). -/
structure OutFrame where
  seq : Nat
  msg : Msg
  part : Nat
deriving DecidableEq, Repr

/-- One Lemlix port (R397 to R405, R415). `unacked` are the frames of the session that are not acknowledged, sent or not yet: those below
`txHigh` have gone out at least once. `setup` are the setup frames sent, `setupWait` those that wait for credit (R401). -/
structure PortSt where
  ring : Nat := 3
  gen2 : Bool := false
  genCap : Bool := false
  position : Nat := 0
  members : Nat := 0
  session : Nat := 0
  sessionId : BitVec 32 := 0
  ek : List Byte := []
  dk : List Byte := []
  quote : List Byte := []
  rxSeq : Nat := 0
  txSeq : Nat := 0
  txHigh : Nat := 0
  txAck : Nat := 0
  credit : Nat := 0
  unacked : List OutFrame := []
  setup : List Msg := []
  setupWait : List Msg := []
  opt : List (BitVec 16) := List.replicate 4 0
  cntTx : Nat := 0
  cntRx : Nat := 0
  cntTag : Nat := 0
  cntResent : Nat := 0
  cntRelock : Nat := 0
  cntSessions : Nat := 0
  cntRefused : Nat := 0
  cntDrop : Nat := 0
deriving DecidableEq, Repr

/-- Both ports and what they share (R412, R415). `held` are the chunks and slates of a print that a session left unacknowledged when it
ended while no other was live (R411). -/
structure Lemlix where
  a : PortSt := {}
  b : PortSt := {}
  lock : Nat := 0
  held : List Msg := []
deriving DecidableEq, Repr

/-- One clock island (R440, R435, R436). `granted` is its point but for a clamp; `held` stops its feeders (R425);
`stopped` its clock, in INT_SCAN (R452); `lower` are the points that an overdraw took from `granted` (R433). -/
structure Island where
  point : Nat := 0
  granted : Nat := 0
  lower : Nat := 0
  asleep : Bool := false
  held : Bool := false
  stopped : Bool := false
  epoch : Nat := 0
  cyc : Nat := 0
  energyUj : Nat := 0
deriving DecidableEq, Repr

/-- The Gaffer, the islands and telemetry (R416 to R441). `hot`, `pin` and `overdraw` say which emergency is in force, `above` whether a
junction is above 105 °C (R433). `window` is the slot whose strict window it is, 16 before the first (R432). -/
structure Gaffer where
  islands : List Island := List.replicate 125 {}
  sliceUs : Nat := 2000
  frameMs : Nat := 20
  idleUs : Nat := 1000
  preempts : Nat := 0
  handovers : Nat := 0
  sleeps : Nat := 0
  emergencies : Nat := 0
  hot : Bool := false
  above : Bool := false
  pin : Bool := false
  overdraw : Bool := false
  clamps : Nat := 0
  overdraws : Nat := 0
  window : Nat := 16
  mainMv : Nat := 0
  stbyMv : Nat := 0
  boardDc : BitVec 16 := 0
  inputW : Nat := 0
  peakW : Nat := 0
  tempA : BitVec 12 := 0
  tempB : BitVec 12 := 0
  tempBase : BitVec 12 := 0
  tempHbm : BitVec 12 := 0
  inputMj : Nat := 0
  haltedGrips : List Nat := []
deriving DecidableEq, Repr

/-- A debug challenge that is held (R454): its bytes [127:0], and the digest of all of them once it is signed. -/
structure Challenge where
  purpose : Nat
  scope : Nat
  body : List Byte
  digest : Option W256
deriving DecidableEq, Repr

/-- A life-cycle transition or scrap that is being programmed (Tables 17-3, 17-6): its target code, its progress record where one was free,
the half-steps done (each fuse step, then its mark), and what the restart at its end meets. -/
structure LcRun where
  target : Nat
  slot : Option Nat
  pos : Nat := 0
  boot : Boot := {}
deriving DecidableEq, Repr

/-- A firmware image that is being written to the flash (R406): where its reply goes, the image and its signature. -/
structure FlashRun where
  port : Port
  tag : Nat
  image : List Byte
  sig : List Byte
deriving DecidableEq, Repr

/-- Life-cycle fuses and the debug block (R442 to R459). Fuses and flash are non-volatile. `going` and `flashing` are the transition and
the flash write that proceed while the queue is empty (log entry 128). -/
structure LifeCycle where
  copies : List (BitVec 16) := [0x0FFF, 0x0FFF, 0x0FFF]
  records : List (BitVec 16) := [0x8079, 0x80FB, 0x807C, 0, 0, 0, 0, 0]
  tokens : BitVec 16 := 0
  vault0 : W256 := 0
  vault1 : W256 := 0
  vaultCheck : Word := 0xDE87949EEAF2A57E
  trimsWiped : Bool := false
  flashErased : Bool := false
  flashImage : List Byte := []
  flashSig : List Byte := []
  flashCal : List Byte := []
  going : Option LcRun := none
  flashing : Option FlashRun := none
  state : Nat := 0
  word : BitVec 16 := 0
  agree : BitVec 3 := 0
  invalid : Bool := false
  resumed : Bool := false
  testOpen : Bool := false
  lastStatus : Status := .ok
  chal : Option Challenge := none
  buf : List Host.Cell := []
  bufPtr : Nat := 0
  bufLen : Nat := 0
  dbgStatus : Status := .ok
  dbgReason : Nat := 0
  refused : Nat := 0
  grant : Option (BitVec 4) := none
deriving DecidableEq, Repr

/-- The JTAG TAP (R413, R452): instruction register, selected data register's captured value, boundary cells. -/
structure Jtag where
  ir : BitVec 8 := 1
  dr : Word := 0
  cells : List Bool := []
  driving : Bool := false
  bypassBit : Bool := false
  status : Status := .ok
deriving DecidableEq, Repr

/-- One entry of the error log (Table 18-6). -/
structure LogEntry where
  seq : Nat
  status : Status
  kind : Nat
  unit : Nat
  space : Nat
  range : Nat
  stack : Nat
  cause : Nat
  context : Nat
  epoch : Nat
  count : Nat
  detail : Nat
deriving DecidableEq, Repr

/-- The error log and its counters (R469, R472). The newest entry comes first. -/
structure ErrLog where
  entries : List LogEntry := []
  nextSeq : Nat := 1
  overwritten : Nat := 0
  recordsLost : Nat := 0
  sel : Nat := 0
  lastKind : Nat := 1
  lastCause : Nat := 1
  epoch : Nat := 0
  warms : Nat := 0
  resendA : Nat := 0
  resendB : Nat := 0
  islFailed : Word := 0
  islResets : Nat := 0
  gripResets : Nat := 0
deriving DecidableEq, Repr

/-- The module's whole state, the queue of waiting commands, and the two counters that keep free values
and random draws fresh. -/
structure State where
  power : Power
  bridges : List Bridge
  rig : RigBlock
  array : Array
  fabric : Fabric
  col : ColEngine
  dly : Dailies
  mem : Mem
  ciph : Cipher
  keys : Keys
  sp : Spaces
  lmx : Lemlix
  gaf : Gaffer
  lc : LifeCycle
  jtag : Jtag
  err : ErrLog
  draws : Nat
  freeCtr : Nat
  pending : List Instr
deriving DecidableEq, Repr

/-- The module right after reset: every register at the value of its Reset column, nothing powered,
no command waiting. -/
def State.reset : State :=
  { power := {}, bridges := List.replicate 4 {}, rig := {}, array := {}, fabric := {}, col := {}, dly := {},
    mem := {}, ciph := {}, keys := {}, sp := {}, lmx := {}, gaf := {}, lc := {}, jtag := {}, err := {},
    draws := 0, freeCtr := 0, pending := [] }

end Sys2Proof.Machine
end

