-- ==== Sys2Proof/Machine/Flags.lean ====
section
/-! DEFINITION. Status codes and event bits as numbers, and the running tally of a command's events: event bits,
first-event coordinates, invalid, clip and floor counts (R393, R460, R462). -/

namespace Sys2Proof.Machine

/-- The 16-bit code of a status (Table 18-1). -/
def statusCode : Status → Nat
  | .ok => 0x0000
  | .okWithEvents => 0x0001
  | .aborted => 0x0101
  | .depFailed => 0x0102
  | .busy => 0x0103
  | .badDescriptor => 0x0201
  | .badShape => 0x0202
  | .objectStruck => 0x0203
  | .memUncorrectable => 0x0301
  | .memIntegrity => 0x0302
  | .memUnverifiable => 0x0303
  | .counterExhausted => 0x0304
  | .flowDenied => 0x0401
  | .keyAbsent => 0x0402
  | .linkDown => 0x0501
  | .peerLost => 0x0502
  | .twinLost => 0x0503
  | .continuityFail => 0x0504
  | .watchdog => 0x0601
  | .budgetRefused => 0x0602
  | .frozenParam => 0x0701
  | .rigMismatch => 0x0801

/-- The status of a code, for the codes of Table 18-1; a code outside it reads as PEER_LOST (log entry 8). -/
def statusOfCode (n : Nat) : Status :=
  if n = 0x0000 then .ok else if n = 0x0001 then .okWithEvents else if n = 0x0101 then .aborted
  else if n = 0x0102 then .depFailed else if n = 0x0103 then .busy else if n = 0x0201 then .badDescriptor
  else if n = 0x0202 then .badShape else if n = 0x0203 then .objectStruck
  else if n = 0x0301 then .memUncorrectable else if n = 0x0302 then .memIntegrity
  else if n = 0x0303 then .memUnverifiable else if n = 0x0304 then .counterExhausted
  else if n = 0x0401 then .flowDenied else if n = 0x0402 then .keyAbsent
  else if n = 0x0501 then .linkDown else if n = 0x0502 then .peerLost else if n = 0x0503 then .twinLost
  else if n = 0x0504 then .continuityFail else if n = 0x0601 then .watchdog
  else if n = 0x0602 then .budgetRefused else if n = 0x0701 then .frozenParam
  else if n = 0x0801 then .rigMismatch else .peerLost

/-- A status that signals its fence (R384, R460). -/
def statusGood (s : Status) : Bool := s == .ok || s == .okWithEvents

/-- The event bits of Table 18-2. -/
def evInvalid : BitVec 16 := 0x0001
def evDivZero : BitVec 16 := 0x0002
def evOverflow : BitVec 16 := 0x0004
def evUnderflow : BitVec 16 := 0x0008
def evScaleOvf : BitVec 16 := 0x0010
def evScaleUnf : BitVec 16 := 0x0020
def evClip : BitVec 16 := 0x0040
def evWindowOvf : BitVec 16 := 0x0080
def evNonfinite : BitVec 16 := 0x0100
def evFrozen : BitVec 16 := 0x0200
def evPivot : BitVec 16 := 0x0400
def evRushes : BitVec 16 := 0x0800

/-- Saturation of a count of w bits (R14 RC fields, R113, R96). -/
def satAdd (w a b : Nat) : Nat := min (a + b) (2 ^ w - 1)

/-- Add the events of one element at (tile, row, column): the element's bits, and `inv` invalid operations. The clip
count rises once for an element that clipped (R92, R96). -/
def tallyAdd (t : Tally) (ev : BitVec 16) (inv : Nat) (at_ : Nat × Nat × Nat) : Tally :=
  if ev = 0 then t
  else { t with
    events := t.events ||| ev
    seen := match t.seen with
      | none => some at_
      | some c => some c
    invalid := satAdd 32 t.invalid inv
    clip := satAdd 32 t.clip (if ev &&& evClip = 0 then 0 else 1) }

/-- The status of a command that ran to its end with a tally: SCALE_OVF and SCALE_UNF count only when strict (R112). -/
def tallyStatus (t : Tally) (strict : Bool) : Status :=
  let soft := if strict then 0 else evScaleOvf ||| evScaleUnf
  if t.events &&& ~~~soft = 0 then .ok else .okWithEvents

/-- The result record of a tally (R114, R167). -/
def tallyResult (t : Tally) (strict : Bool) (engine : Nat) : Result :=
  let c := t.seen.getD (0, 0, 0)
  { status := tallyStatus t strict, events := t.events,
    engine := if t.seen.isSome then engine else 0,
    tile := c.1, row := c.2.1, col := c.2.2,
    invalid := t.invalid, clip := t.clip, floor := t.floor }

/-- A result that only carries a status. -/
def resultOf (st : Status) : Result := { status := st }

/-- A failure that names a range (R393 byte 56). -/
def resultRange (st : Status) (range : Nat) : Result := { status := st, range := range }

end Sys2Proof.Machine
end

