-- ==== Sys2Proof/Machine/Num.lean ====
section
/-! DEFINITION. Exact numbers: a value is NaN, an infinity, or a signed integer times a power of two. Every
rounding of the module is a function from such a value (R86 to R91, R126, R127). A quotient or a root is
carried with a sticky last bit, so that rounding it once gives the rounding of the exact value (R91). -/

namespace Sys2Proof.Machine

/-- An exact value: `fin neg m e` is (−1)^neg · m · 2^e; zeros keep their sign (R87). -/
inductive Num where
  | nan
  | inf (neg : Bool)
  | fin (neg : Bool) (m : Nat) (e : Int)
deriving DecidableEq, Repr

/-- The number of bits of a natural number. -/
def bitLen (n : Nat) : Nat := if n = 0 then 0 else Nat.log2 n + 1

/-- m · 2^e as a natural number for e ≥ 0, and the floor for e < 0. -/
def scaleNat (m : Nat) (e : Int) : Nat :=
  if 0 ≤ e then m * 2 ^ e.toNat else m / 2 ^ (-e).toNat

/-- Order of the magnitudes m1 · 2^e1 and m2 · 2^e2. -/
def magCmp (m1 : Nat) (e1 : Int) (m2 : Nat) (e2 : Int) : Ordering :=
  if e1 ≤ e2 then compare m1 (m2 * 2 ^ (e2 - e1).toNat) else compare (m1 * 2 ^ (e1 - e2).toNat) m2

/-- −x. -/
def numNeg : Num → Num
  | .nan => .nan
  | .inf s => .inf (!s)
  | .fin s m e => .fin (!s) m e

/-- |x|. -/
def numAbs : Num → Num
  | .nan => .nan
  | .inf _ => .inf false
  | .fin _ m e => .fin false m e

/-- The sign bit of a value; NaN counts as positive. -/
def numSign : Num → Bool
  | .nan => false
  | .inf s => s
  | .fin s _ _ => s

/-- Whether a value is a zero of either sign. -/
def numIsZero : Num → Bool
  | .fin _ m _ => m == 0
  | _ => false

/-- Whether a value is finite. -/
def numIsFin : Num → Bool
  | .fin _ _ _ => true
  | _ => false

/-- Whether a value is NaN. -/
def numIsNan : Num → Bool
  | .nan => true
  | _ => false

/-- The signed integer n. -/
def numOfInt (n : Int) : Num := .fin (decide (n < 0)) n.natAbs 0

/-- Exact product, and whether the operation is invalid: 0 × ∞ (R86, R87). -/
def numMul : Num → Num → Num × Bool
  | .nan, _ => (.nan, false)
  | _, .nan => (.nan, false)
  | .inf s, .inf t => (.inf (s != t), false)
  | .inf s, .fin t m _ => if m = 0 then (.nan, true) else (.inf (s != t), false)
  | .fin s m _, .inf t => if m = 0 then (.nan, true) else (.inf (s != t), false)
  | .fin s m e, .fin t n f => (.fin (s != t) (m * n) (e + f), false)

/-- Exact sum, and whether the operation is invalid: +∞ + −∞. An exact zero sum of opposite signs is +0; the sum of
two zeros of one sign keeps it (R87). -/
def numAdd : Num → Num → Num × Bool
  | .nan, _ => (.nan, false)
  | _, .nan => (.nan, false)
  | .inf s, .inf t => if s = t then (.inf s, false) else (.nan, true)
  | .inf s, .fin _ _ _ => (.inf s, false)
  | .fin _ _ _, .inf t => (.inf t, false)
  | .fin s m e, .fin t n f =>
    let g := min e f
    let a : Int := (m * 2 ^ (e - g).toNat : Nat)
    let b : Int := (n * 2 ^ (f - g).toNat : Nat)
    let r := (if s then -a else a) + (if t then -b else b)
    if r = 0 then (.fin (s && t) 0 g, false) else (.fin (decide (r < 0)) r.natAbs g, false)

/-- Exact difference. -/
def numSub (x y : Num) : Num × Bool := numAdd x (numNeg y)

/-- x < y for values that are not NaN; zeros are equal (R88). -/
def numLt : Num → Num → Bool
  | .nan, _ => false
  | _, .nan => false
  | .inf s, .inf t => s && !t
  | .inf s, .fin _ _ _ => s
  | .fin _ _ _, .inf t => !t
  | .fin s m e, .fin t n f =>
    if m = 0 && n = 0 then false
    else if m = 0 then !t
    else if n = 0 then s
    else match s, t with
      | true, false => true
      | false, true => false
      | false, false => magCmp m e n f == .lt
      | true, true => magCmp m e n f == .gt

/-- Ordered equality (R88). -/
def numEq (x y : Num) : Bool :=
  !(numIsNan x) && !(numIsNan y) && !(numLt x y) && !(numLt y x)

/-- Quotient of finite non-zero values with at least 64 significant bits and a sticky last bit. -/
def stickyDiv (m : Nat) (e : Int) (n : Nat) (f : Int) : Nat × Int :=
  let k := bitLen n + 64
  let q := m * 2 ^ k / n
  let r := m * 2 ^ k % n
  (2 * q + (if r = 0 then 0 else 1), e - f - k - 1)

/-- The events of a division: none, division by zero, or invalid (Table 06-2). -/
inductive DivEv where
  | none | divZero | invalid
deriving DecidableEq, Repr

/-- Quotient for rounding, with its event (R161, Table 06-2). -/
def numDiv : Num → Num → Num × DivEv
  | .nan, _ => (.nan, .none)
  | _, .nan => (.nan, .none)
  | .inf _, .inf _ => (.nan, .invalid)
  | .inf s, .fin t _ _ => (.inf (s != t), .none)
  | .fin s _ _, .inf t => (.fin (s != t) 0 0, .none)
  | .fin s m e, .fin t n f =>
    if n = 0 then (if m = 0 then (.nan, .invalid) else (.inf (s != t), .divZero))
    else if m = 0 then (.fin (s != t) 0 0, .none)
    else
      let q := stickyDiv m e n f
      (.fin (s != t) q.1 q.2, .none)

/-- Integer square root from bit `i` down: the largest r' ≥ r built from lower bits with r'² ≤ n. -/
def isqrtFrom : Nat → Nat → Nat → Nat
  | 0, r, _ => r
  | i + 1, r, n =>
    let r' := r + 2 ^ i
    isqrtFrom i (if r' * r' ≤ n then r' else r) n

/-- Square root of a finite non-zero magnitude with a sticky last bit. -/
def stickySqrt (m : Nat) (e : Int) : Nat × Int :=
  let k0 := 128 - min 128 (bitLen m)
  let k := if (e - k0) % 2 = 0 then k0 else k0 + 1
  let m' := m * 2 ^ k
  let r := isqrtFrom (bitLen m' / 2 + 1) 0 m'
  (2 * r + (if r * r = m' then 0 else 1), (e - k) / 2 - 1)

/-- Square root for rounding, and whether it is invalid (Table 06-2): −0 gives −0, a negative value NaN. -/
def numSqrt : Num → Num × Bool
  | .nan => (.nan, false)
  | .inf false => (.inf false, false)
  | .inf true => (.nan, true)
  | .fin s m e =>
    if m = 0 then (.fin s 0 0, false)
    else if s then (.nan, true)
    else let r := stickySqrt m e; (.fin false r.1 r.2, false)

/-- m · 2^e rounded to a multiple of 2^lsb, to nearest, ties to even: the multiple. -/
def roundMul (lsb : Int) (m : Nat) (e : Int) : Nat :=
  if lsb ≤ e then m * 2 ^ (e - lsb).toNat
  else
    let k := (lsb - e).toNat
    let q := m / 2 ^ k
    let r := m % 2 ^ k
    let h := 2 ^ (k - 1)
    if r > h || (r = h && q % 2 = 1) then q + 1 else q

/-- m · 2^e rounded to `p` significant bits with no bit below 2^lo, nearest even: multiple and its unit (R91 steps 1, 2). -/
def roundSig (p : Nat) (lo : Int) (m : Nat) (e : Int) : Nat × Int :=
  let lsb := max (e + bitLen m - p) lo
  (roundMul lsb m e, lsb)

/-- The floor of log2 of a non-zero magnitude m · 2^e. -/
def log2Mag (m : Nat) (e : Int) : Int := e + bitLen m - 1

/-- A20_MAX = (2 − 2^−11) · 2^127 (Table 05-1). -/
def a20Max (neg : Bool) : Num := .fin neg 4095 116

/-- The 20-bit code of an A20 value (Table 05-1). -/
def encodeA20 : Num → BitVec 20
  | .nan => 0x7FC00
  | .inf s => BitVec.ofNat 20 ((if s then 2 ^ 19 else 0) + 255 * 2 ^ 11)
  | .fin s m e =>
    let sign : Nat := if s then 2 ^ 19 else 0
    if m = 0 then BitVec.ofNat 20 sign
    else
      let l := log2Mag m e
      let lsb := l - 11
      let sig : Nat := if lsb ≤ e then m * 2 ^ (e - lsb).toNat else m / 2 ^ (lsb - e).toNat
      BitVec.ofNat 20 (sign + (l + 127).toNat * 2 ^ 11 + sig % 2 ^ 11)

/-- The value of a 20-bit code (Table 05-1). -/
def decodeA20 (c : BitVec 20) : Num :=
  let s := c.getLsbD 19
  let e : Nat := c.toNat / 2 ^ 11 % 2 ^ 8
  let f : Nat := c.toNat % 2 ^ 11
  if e = 0 then .fin s 0 0
  else if e = 255 then (if f = 0 then .inf s else .nan)
  else .fin s (2 ^ 11 + f) ((e : Int) - 138)

/-- trunc_a20 of an exact value, with SCALE_OVF and SCALE_UNF (R126). -/
def truncA20 : Num → Num × Bool × Bool
  | .nan => (.nan, false, false)
  | .inf s => (.inf s, false, false)
  | .fin s m e =>
    if m = 0 then (.fin s 0 0, false, false)
    else
      let l := log2Mag m e
      if 128 ≤ l then (a20Max s, true, false)
      else if l < -126 then (.fin s 0 0, false, true)
      else
        let lsb := l - 11
        if lsb ≤ e then (.fin s m e, false, false)
        else (.fin s (m / 2 ^ (lsb - e).toNat) lsb, false, false)

/-- Rounding to a binary format of `p` significant bits, smallest normal exponent `emin` and largest normal exponent
`emax`, nearest even, subnormals included; the second component tells a finite value that rounded to ±∞. -/
def roundFmt (p : Nat) (emin emax : Int) : Num → Num × Bool
  | .nan => (.nan, false)
  | .inf s => (.inf s, false)
  | .fin s m e =>
    if m = 0 then (.fin s 0 0, false)
    else
      let r := roundSig p (emin - (p - 1 : Nat)) m e
      if r.1 = 0 then (.fin s 0 0, false)
      else if emax < log2Mag r.1 r.2 then (.inf s, true)
      else (.fin s r.1 r.2, false)

/-- Round to F32, nearest even (R127); the flag tells an overflow of a finite value. -/
def rneF32 (x : Num) : Num × Bool := roundFmt 24 (-126) 127 x

/-- Round to BF16, nearest even. -/
def rneBf16 (x : Num) : Num × Bool := roundFmt 8 (-126) 127 x

/-- The value of an F32 operation, with overflow dropped: used where only the value is wanted. -/
def f32 (x : Num) : Num := (rneF32 x).1

/-- The code of an exactly representable value in a format of `eb` exponent and `mb` fraction bits (R73);
NaN takes the canonical code (R86), an infinity the all-ones exponent. -/
def encodeIeee (eb mb : Nat) (x : Num) : Nat :=
  let bias : Int := 2 ^ (eb - 1) - 1
  let sgn := fun (s : Bool) => if s then 2 ^ (eb + mb) else 0
  match x with
  | .nan => (2 ^ eb - 1) * 2 ^ mb + 2 ^ (mb - 1)
  | .inf s => sgn s + (2 ^ eb - 1) * 2 ^ mb
  | .fin s m e =>
    if m = 0 then sgn s
    else
      let l := log2Mag m e
      if l < 1 - bias then sgn s + scaleNat m (e + bias - 1 + mb)
      else sgn s + (l + bias).toNat * 2 ^ mb + (scaleNat m (e - l + mb) - 2 ^ mb)

/-- The value of a code of a format with `eb` exponent bits, `mb` fraction bits and bias `bias`, every code taken as
finite (R73). -/
def decodeFin (eb mb : Nat) (bias : Int) (code : Nat) : Num :=
  let f := code % 2 ^ mb
  let ex := code / 2 ^ mb % 2 ^ eb
  let s := code / 2 ^ (eb + mb) % 2 = 1
  if ex = 0 then .fin (decide s) f (1 - bias - mb)
  else .fin (decide s) (2 ^ mb + f) (ex - bias - mb)

/-- The value of a code of a format with infinities and NaNs in the all-ones exponent (R73). -/
def decodeIeee (eb mb : Nat) (code : Nat) : Num :=
  let f := code % 2 ^ mb
  let ex := code / 2 ^ mb % 2 ^ eb
  if ex = 2 ^ eb - 1 then
    (if f = 0 then .inf (decide (code / 2 ^ (eb + mb) % 2 = 1)) else .nan)
  else decodeFin eb mb (2 ^ (eb - 1) - 1) code

/-- The F32 code of a value after rounding (R86, R91). -/
def toF32 (x : Num) : W32 := BitVec.ofNat 32 (encodeIeee 8 23 (rneF32 x).1)

/-- The value of an F32 code. -/
def ofF32 (w : W32) : Num := decodeIeee 8 23 w.toNat

/-- x^n exactly, then rounded once to F32: pw of R196, for finite x. -/
def pwF32 (x : Num) (n : Nat) : Num :=
  match x with
  | .fin s m e =>
    if n = 0 then .fin false 1 0
    else if m = 0 then .fin false 0 0
    else f32 (.fin (s && n % 2 == 1) (m ^ n) (e * n))
  | y => if n = 0 then .fin false 1 0 else y

/-- IEEE maximum: NaN if either operand is NaN, −0 below +0 (R162). -/
def numMax (x y : Num) : Num :=
  if numIsNan x || numIsNan y then .nan
  else if numLt x y then y else if numLt y x then x
  else if numSign x then y else x

/-- IEEE minimum (R162). -/
def numMin (x y : Num) : Num :=
  if numIsNan x || numIsNan y then .nan
  else if numLt x y then x else if numLt y x then y
  else if numSign x then x else y

/-- IEEE maximumNumber: the other operand when exactly one is NaN (R162). -/
def numMaxNum (x y : Num) : Num :=
  if numIsNan x then y else if numIsNan y then x else numMax x y

/-- IEEE minimumNumber (R162). -/
def numMinNum (x y : Num) : Num :=
  if numIsNan x then y else if numIsNan y then x else numMin x y

end Sys2Proof.Machine
end

