-- ==== Sys2Proof/Machine/Operands.lean ====
section
/-! DEFINITION. Number formats and operand forms (file 03): element and scale codes, their values, packing in
memory, format words, and every conversion with its events. -/

namespace Sys2Proof.Machine

/-- The 15 element formats (Table 03-1). -/
inductive Fmt where
  | f32 | bf16 | f16 | e5m2 | e4m3 | i8 | e3m2 | e2m3 | e2m1 | i4 | l4 | c4 | t2 | b1 | i2
deriving DecidableEq, Repr

/-- The format of a code; none for a reserved code (R69). -/
def fmtOfCode (n : Nat) : Option Fmt :=
  match n with
  | 0x00 => some .f32 | 0x01 => some .bf16 | 0x02 => some .f16
  | 0x04 => some .e5m2 | 0x05 => some .e4m3 | 0x06 => some .i8
  | 0x08 => some .e3m2 | 0x09 => some .e2m3
  | 0x0C => some .e2m1 | 0x0D => some .i4 | 0x0E => some .l4 | 0x0F => some .c4
  | 0x10 => some .t2 | 0x11 => some .b1 | 0x12 => some .i2
  | _ => none

/-- Width in bits (Table 03-1). -/
def fmtWidth : Fmt → Nat
  | .f32 => 32
  | .bf16 | .f16 => 16
  | .e5m2 | .e4m3 | .i8 => 8
  | .e3m2 | .e2m3 => 6
  | .e2m1 | .i4 | .l4 | .c4 => 4
  | .t2 | .i2 => 2
  | .b1 => 1

/-- The operand classes of Table 03-1. -/
inductive FmtClass where
  | wide | bit8 | bit6 | bit4 | sub4
deriving DecidableEq, Repr

/-- The class of a format. -/
def fmtClass : Fmt → FmtClass
  | .f32 | .bf16 | .f16 => .wide
  | .e5m2 | .e4m3 | .i8 => .bit8
  | .e3m2 | .e2m3 => .bit6
  | .e2m1 | .i4 | .l4 | .c4 => .bit4
  | .t2 | .b1 | .i2 => .sub4

/-- Elements held per cell in the classes with p ≥ 1; 1 in the wide classes (R98). -/
def classPack : FmtClass → Nat
  | .wide => 1
  | .bit8 => 1
  | .bit6 => 2
  | .bit4 => 4
  | .sub4 => 8

/-- Cycles per streamed row of one operand (R98, Table 04-1). -/
def fmtCycles : Fmt → Nat
  | .f32 => 16
  | .bf16 | .f16 => 4
  | _ => 1

/-- The integer-like formats (R78, R85). -/
def fmtIsInt : Fmt → Bool
  | .i8 | .i4 | .i2 | .t2 | .b1 => true
  | _ => false

/-- Two's complement value of the low w bits. -/
def sext (w n : Nat) : Int :=
  let m := n % 2 ^ w
  if m < 2 ^ (w - 1) then m else (m : Int) - 2 ^ w

/-- The value of an L4 code (Table 03-6). -/
def decodeL4 (c : Nat) : Num :=
  let k := c % 8
  if k = 0 then .fin (decide (c / 8 % 2 = 1)) 0 0 else .fin (decide (c / 8 % 2 = 1)) 1 (k - 4)

/-- The value of a BF16 code. -/
def ofBf16 (n : Nat) : Num := decodeIeee 8 7 n

/-- The value of an element code; a C4 code reads its codebook entry (R73 to R78). -/
def decodeElem (f : Fmt) (cb : List Nat) (c : Nat) : Num :=
  match f with
  | .f32 => decodeIeee 8 23 c
  | .bf16 => decodeIeee 8 7 c
  | .f16 => decodeIeee 5 10 c
  | .e5m2 => decodeIeee 5 2 c
  | .e4m3 => if c % 128 = 127 then .nan else decodeFin 4 3 7 c
  | .e3m2 => decodeFin 3 2 3 c
  | .e2m3 => decodeFin 2 3 1 c
  | .e2m1 => decodeFin 2 1 1 c
  | .l4 => decodeL4 c
  | .c4 => ofBf16 (cb.getD (c % 16) 0)
  | .i8 => numOfInt (sext 8 c)
  | .i4 => numOfInt (sext 4 c)
  | .i2 => numOfInt (sext 2 c)
  | .t2 => if c % 4 = 1 then numOfInt 1 else if c % 4 = 3 then numOfInt (-1) else numOfInt 0
  | .b1 => if c % 2 = 0 then numOfInt 1 else numOfInt (-1)

/-- The integer an integer-like code stands for (R78). -/
def decodeInt (f : Fmt) (c : Nat) : Int :=
  match f with
  | .i8 => sext 8 c
  | .i4 => sext 4 c
  | .i2 => sext 2 c
  | .t2 => if c % 4 = 1 then 1 else if c % 4 = 3 then -1 else 0
  | .b1 => if c % 2 = 0 then 1 else -1
  | _ => 0

/-- The three scale formats and none (R70, R79). -/
inductive ScaleFmt where
  | none | ue8m0 | ue4m3 | bf16
deriving DecidableEq, Repr

/-- Bytes of one scale (R81). -/
def scaleBytes : ScaleFmt → Nat
  | .none => 0
  | .ue8m0 | .ue4m3 => 1
  | .bf16 => 2

/-- The value of a scale code (R79). -/
def decodeScale (f : ScaleFmt) (c : Nat) : Num :=
  match f with
  | .none => .fin false 1 0
  | .ue8m0 => if c % 256 = 255 then .nan else .fin false 1 ((c % 256 : Nat) - 127)
  | .ue4m3 => if c % 128 = 127 then .nan else decodeFin 4 3 7 (c % 128)
  | .bf16 => ofBf16 c

/-- A checked format word (Table 03-2). -/
structure FmtWord where
  fmt : Fmt
  scale : ScaleFmt
  block : Nat
  share : Nat
  ovfNan : Bool
deriving DecidableEq, Repr

/-- Reading of a format word; none when a code or value is reserved, or when scale_fmt is 0 and block or share is not
(R70, R71). -/
def fmtWordOf (w : Nat) : Option FmtWord :=
  match fmtOfCode (w % 32) with
  | none => none
  | some f =>
    let sc := w / 32 % 4
    let bl := w / 128 % 8
    let sh := w / 1024 % 4
    let ov := w / 4096 % 2
    if 5 < bl || sh = 3 || w / 8192 % 8 ≠ 0 then none
    else if sc = 0 && (bl ≠ 0 || sh ≠ 0) then none
    else some
      { fmt := f
        scale := if sc = 0 then .none else if sc = 1 then .ue8m0 else if sc = 2 then .ue4m3 else .bf16
        block := if bl = 0 then 1 else 2 ^ (bl + 2)
        share := sh
        ovfNan := ov = 1 }

/-- ovf_nan may be set on an E4M3 output only (R71). -/
def ovfOk (w : FmtWord) (isOutput : Bool) : Bool := !w.ovfNan || (isOutput && w.fmt == .e4m3)

/-- Scales along the inner (K or N) dimension, or along the outer one: the index of the scale of element (r, c) in a
scale tensor stored in the element tensor's dimension order (R80, R81). `inner` tells the direction. -/
def scaleIndex (inner : Bool) (block q r c : Nat) : Nat :=
  if inner then r * ((q + block - 1) / block) + c / block else (r / block) * q + c

/-- The number of scales of a P × Q tensor (R81). -/
def scaleCount (inner : Bool) (block p q : Nat) : Nat :=
  if inner then p * ((q + block - 1) / block) else ((p + block - 1) / block) * q

/-- Bytes of one row of n elements (R72): 6-bit rows fill whole 3-byte groups. -/
def rowBytes (f : Fmt) (n : Nat) : Nat :=
  if fmtWidth f = 6 then (n + 3) / 4 * 3 else (n * fmtWidth f + 7) / 8

/-- Bits [lo + n − 1 : lo] of a number. -/
def fld (v lo n : Nat) : Nat := v / 2 ^ lo % 2 ^ n

/-- A little-endian number from bytes. -/
def leNat : List Byte → Nat
  | [] => 0
  | b :: bs => b.toNat + 256 * leNat bs

/-- The n low bytes of a number, little-endian. -/
def natLe : Nat → Nat → List Byte
  | 0, _ => []
  | n + 1, v => BitVec.ofNat 8 (v % 256) :: natLe n (v / 256)

/-- The code of element i of a row's bytes (R72): packed from the least significant bit upward, which for six-bit
elements in groups of three bytes is again bit 6·i of the row. -/
def elemCode (f : Fmt) (row : Nat) (i : Nat) : Nat :=
  row / 2 ^ (fmtWidth f * i) % 2 ^ fmtWidth f

/-- A written row followed by another: its bits up to the next row start are zero (R72, log entry 112). -/
def padRow (last : Bool) (pitch : Nat) (bs : List Byte) : List Byte :=
  if last then bs else bs ++ List.replicate (pitch - bs.length) 0

/-- A row of codes packed into its bytes, the bits after the last element written as zero (R72). -/
def packRow (f : Fmt) (codes : List Nat) : List Byte :=
  natLe (rowBytes f codes.length)
    (codes.foldr (fun c acc => c % 2 ^ fmtWidth f + 2 ^ fmtWidth f * acc) 0)

/-- The result of converting one element: its code and the one event it sets (R96). -/
structure Conv where
  code : Nat
  ev : BitVec 16
deriving DecidableEq, Repr

/-- Largest finite magnitude of a small floating format as m · 2^e (Table 03-3). -/
def fmtMax : Fmt → Nat × Int
  | .e4m3 => (7, 6)
  | .e3m2 => (7, 2)
  | .e2m3 => (15, -1)
  | .e2m1 => (3, 1)
  | .l4 => (1, 3)
  | _ => (1, 0)

/-- Conversion to F32, BF16, F16 or E5M2: overflow to ±∞ sets OVERFLOW, a flush to zero UNDERFLOW (R91, R92, R95). -/
def convIeee (eb mb : Nat) (x : Num) : Conv :=
  let bias : Int := 2 ^ (eb - 1) - 1
  let r := roundFmt (mb + 1) (1 - bias) bias x
  let code := encodeIeee eb mb r.1
  if r.2 then ⟨code, evOverflow⟩
  else if numIsZero r.1 && !(numIsZero x) && numIsFin x then ⟨code, evUnderflow⟩
  else ⟨code, 0⟩

/-- The code of a value in a format whose all-ones exponent holds normal values. -/
def encodeSmall (eb mb : Nat) (bias : Int) (x : Num) : Nat :=
  match x with
  | .fin s m e =>
    let sg := if s then 2 ^ (eb + mb) else 0
    if m = 0 then sg
    else
      let l := log2Mag m e
      if l < 1 - bias then sg + scaleNat m (e + bias - 1 + mb)
      else sg + (l + bias).toNat * 2 ^ mb + (scaleNat m (e - l + mb) - 2 ^ mb)
  | _ => 0

/-- Conversion to E4M3, E3M2, E2M3 or E2M1 (R91 to R93, R95). -/
def convSmall (f : Fmt) (eb mb : Nat) (bias : Int) (ovfNan : Bool) (x : Num) : Conv :=
  let mx := fmtMax f
  let top := fun s => encodeSmall eb mb bias (.fin s mx.1 mx.2)
  let ovf := fun s =>
    if f = .e4m3 && ovfNan then Conv.mk 127 evOverflow else Conv.mk (top s) evClip
  match x with
  | .nan => if f = .e4m3 then ⟨127, 0⟩ else ⟨0, evInvalid⟩
  | .inf s => ovf s
  | .fin s m e =>
    if m = 0 then ⟨encodeSmall eb mb bias (.fin s 0 0), 0⟩
    else
      let r := roundSig (mb + 1) (1 - bias - mb) m e
      if r.1 = 0 then ⟨encodeSmall eb mb bias (.fin s 0 0), evUnderflow⟩
      else if magCmp r.1 r.2 mx.1 mx.2 == .gt then ovf s
      else ⟨encodeSmall eb mb bias (.fin s r.1 r.2), 0⟩

/-- The magnitude code of L4: distance measured linearly, ties to the even code (R91); 8 stands for a value beyond. -/
def l4Code (m : Nat) (e : Int) : Nat :=
  let above : Nat → Bool := fun c =>  -- m·2^e lies above the midpoint of codes c − 1 and c, or on it with c even
    let mid : Nat × Int := if c = 1 then (1, -4) else (3, (c : Int) - 6)
    match magCmp m e mid.1 mid.2 with
    | .gt => true
    | .eq => c % 2 == 0
    | .lt => false
  ((List.range 8).map (fun i => if above (i + 1) then 1 else 0)).foldl (· + ·) 0

/-- Conversion to L4 (R91 to R93, R95). -/
def convL4 (x : Num) : Conv :=
  let sg := fun (s : Bool) => if s then 8 else 0
  match x with
  | .nan => ⟨0, evInvalid⟩
  | .inf s => ⟨sg s + 7, evClip⟩
  | .fin s m e =>
    if m = 0 then ⟨sg s, 0⟩
    else
      let c := l4Code m e
      if c = 8 then ⟨sg s + 7, evClip⟩
      else if c = 0 then ⟨sg s, evUnderflow⟩
      else ⟨sg s + c, 0⟩

/-- Conversion to an integer format with bounds lo and hi: code of the clamped integer (R91 to R93). -/
def convInt (w : Nat) (lo hi : Int) (x : Num) : Conv :=
  let enc := fun (n : Int) => (n % 2 ^ w).toNat
  match x with
  | .nan => ⟨0, evInvalid⟩
  | .inf s => ⟨enc (if s then lo else hi), evClip⟩
  | .fin s m e =>
    let q : Int := roundMul 0 m e
    let n := if s then -q else q
    if n < lo then ⟨enc lo, evClip⟩ else if hi < n then ⟨enc hi, evClip⟩ else ⟨enc n, 0⟩

/-- Conversion to T2, whose zero code is 0b00 (R93). -/
def convT2 (x : Num) : Conv :=
  convInt 2 (-1) 1 x

/-- Conversion to B1: the sign of the source; NaN gives +1 with INVALID (R93). -/
def convB1 (x : Num) : Conv :=
  match x with
  | .nan => ⟨0, evInvalid⟩
  | y => ⟨if numSign y then 1 else 0, 0⟩

/-- The codebook has a finite entry (R93). -/
def cbHasFinite (cb : List Nat) : Bool := cb.any fun c => numIsFin (ofBf16 c)

/-- The lowest index in a codebook whose value satisfies p. -/
def cbFind (cb : List Nat) (p : Num → Bool) : Option Nat := cb.findIdx? fun c => p (ofBf16 c)

/-- |x − y| for finite values. -/
def numDist (x y : Num) : Num := numAbs (numSub x y).1

/-- Index of the finite codebook entry c for which |x − c·s| is least, lowest index on a tie; with s = 1 the nearest
entry, and for a scale s the entry nearest x / s, by exact distances (R93, R94). -/
def cbNearest (cb : List Nat) (x s : Num) : Nat :=
  let go := fun (best : Option (Num × Nat)) (ic : Nat × Nat) =>
    let v := ofBf16 ic.2
    if numIsFin v then
      let d := numDist x (numMul v s).1
      match best with
      | none => some (d, ic.1)
      | some b => if numLt d b.1 then some (d, ic.1) else some b
    else best
  match ((List.range cb.length).zip cb).foldl go none with
  | some b => b.2
  | none => 0

/-- The largest and the smallest finite entry of a codebook. -/
def cbExtreme (cb : List Nat) (largest : Bool) : Num :=
  let fins := (cb.map ofBf16).filter numIsFin
  match fins with
  | [] => .fin false 0 0
  | v :: vs => vs.foldl (fun a b => if largest then (if numLt a b then b else a) else (if numLt b a then b else a)) v

/-- Conversion of x / s to C4, s finite and not zero (R93, R94): exact distances, saturation at the extreme entries counts
a clip, a NaN takes the lowest NaN entry, an infinity equal to an infinite entry takes it. -/
def convC4 (cb : List Nat) (x s : Num) : Conv :=
  match x with
  | .nan =>
    match cbFind cb numIsNan with
    | some i => ⟨i, 0⟩
    | none => ⟨0, evInvalid⟩
  | .inf t =>
    let want := t != numSign s
    match cbFind cb (fun v => v == .inf want) with
    | some i => ⟨i, 0⟩
    | none => ⟨(cbFind cb (fun v => numEq v (cbExtreme cb (!want)))).getD 0, evClip⟩
  | .fin _ _ _ =>
    let big := (numMul (cbExtreme cb true) s).1
    let small := (numMul (cbExtreme cb false) s).1
    let above := if numSign s then numLt x big else numLt big x
    let below := if numSign s then numLt small x else numLt x small
    if above then ⟨(cbFind cb (fun v => numEq v (cbExtreme cb true))).getD 0, evClip⟩
    else if below then ⟨(cbFind cb (fun v => numEq v (cbExtreme cb false))).getD 0, evClip⟩
    else ⟨cbNearest cb x s, 0⟩

/-- Conversion of an unscaled value to an element format: rounds once, saturates or overflows by format, one event at
most (R91 to R93, R95, R96). -/
def convert (f : Fmt) (ovfNan : Bool) (cb : List Nat) (x : Num) : Conv :=
  match f with
  | .f32 => convIeee 8 23 x
  | .bf16 => convIeee 8 7 x
  | .f16 => convIeee 5 10 x
  | .e5m2 => convIeee 5 2 x
  | .e4m3 => convSmall .e4m3 4 3 7 ovfNan x
  | .e3m2 => convSmall .e3m2 3 2 3 false x
  | .e2m3 => convSmall .e2m3 2 3 1 false x
  | .e2m1 => convSmall .e2m1 2 1 1 false x
  | .l4 => convL4 x
  | .c4 => convC4 cb x (.fin false 1 0)
  | .i8 => convInt 8 (-128) 127 x
  | .i4 => convInt 4 (-8) 7 x
  | .i2 => convInt 2 (-2) 1 x
  | .t2 => convT2 x
  | .b1 => convB1 x

/-- Conversion of x / s with one rounding from the exact quotient, and the special scales of Table 03-11 (R94). The second
component tells that the scale is zero, which sets DIVZERO once per block. -/
def convertScaled (f : Fmt) (ovfNan : Bool) (cb : List Nat) (x s : Num) : Conv × Bool :=
  let asNan := fun (inv : Bool) =>
    let c := convert f ovfNan cb .nan
    Conv.mk c.code (if inv then evInvalid else c.ev)
  match s with
  | .nan => (asNan false, false)
  | .inf t =>
    match x with
    | .nan => (asNan false, false)
    | .inf _ => (asNan true, false)
    | .fin u _ _ =>
      let c := convert f ovfNan cb (.fin (u != t) 0 0)
      (⟨c.code, 0⟩, false)
  | .fin t n e =>
    if n = 0 then
      match x with
      | .nan => (asNan false, true)
      | .inf _ => (asNan true, true)
      | .fin u _ _ =>
        let c := convert f ovfNan cb (.fin (u != t) 0 0)
        (⟨c.code, 0⟩, true)
    else if f = .c4 then (convC4 cb x (.fin t n e), false)
    else (convert f ovfNan cb (numDiv x (.fin t n e)).1, false)

/-- The exact scaled value x · s of an element, and whether the product is invalid (R83, R84). -/
def scaledElem (x s : Num) : Num × Bool := numMul x s

end Sys2Proof.Machine
end

