-- ==== Sys2Proof/Machine/Keccak.lean ====
section
/-! DEFINITION. SHAKE256 (FIPS 202), which the spec names for every digest, measurement and key derivation (R51, R336,
R402). Log entry 5: the function is taken from the public standard. -/

namespace Sys2Proof.Machine

/-- Round constants of Keccak-f[1600]. -/
def keccakRc : List Word :=
  [0x0000000000000001, 0x0000000000008082, 0x800000000000808A, 0x8000000080008000, 0x000000000000808B,
   0x0000000080000001, 0x8000000080008081, 0x8000000000008009, 0x000000000000008A, 0x0000000000000088,
   0x0000000080008009, 0x000000008000000A] ++
  [0x000000008000808B, 0x800000000000008B, 0x8000000000008089, 0x8000000000008003, 0x8000000000008002,
   0x8000000000000080, 0x000000000000800A, 0x800000008000000A, 0x8000000080008081, 0x8000000000008080,
   0x0000000080000001, 0x8000000080008008]

/-- Rotation offsets of lane x + 5y. -/
def keccakRot : List Nat :=
  [0, 1, 62, 28, 27, 36, 44, 6, 55, 20, 3, 10, 43, 25, 39, 41, 45, 15, 21, 8, 18, 2, 61, 56, 14]

/-- One round over 25 lanes. -/
def keccakRound (a : List Word) (rc : Word) : List Word :=
  let g := fun (l : List Word) (i : Nat) => l.getD i 0
  let c := (List.range 5).map fun x => g a x ^^^ g a (x + 5) ^^^ g a (x + 10) ^^^ g a (x + 15) ^^^ g a (x + 20)
  let d := (List.range 5).map fun x => g c ((x + 4) % 5) ^^^ (g c ((x + 1) % 5)).rotateLeft 1
  let t := (List.range 25).map fun i => g a i ^^^ g d (i % 5)
  -- lane (x, y) of the result of rho and pi is the rotated lane (x + 3y, x)
  let b := (List.range 25).map fun i =>
    let x := i % 5
    let y := i / 5
    let j := (x + 3 * y) % 5 + 5 * x
    (g t j).rotateLeft (keccakRot.getD j 0)
  let e := (List.range 25).map fun i =>
    let y := i / 5
    g b i ^^^ (~~~(g b ((i + 1) % 5 + 5 * y)) &&& g b ((i + 2) % 5 + 5 * y))
  (g e 0 ^^^ rc) :: e.drop 1

/-- Keccak-f[1600]. -/
def keccakF (a : List Word) : List Word := keccakRc.foldl keccakRound a

/-- The lanes of a block of bytes. -/
def lanesOf : Nat → List Byte → List Word
  | 0, _ => []
  | n + 1, bs => BitVec.ofNat 64 (leNat (bs.take 8)) :: lanesOf n (bs.drop 8)

/-- XOR a block of at most 200 bytes into the state and permute. -/
def absorb (st : List Word) (block : List Byte) : List Word :=
  let ls := lanesOf ((block.length + 7) / 8) block
  keccakF ((List.range 25).map fun i => st.getD i 0 ^^^ ls.getD i 0)

/-- Absorb whole blocks of `rate` bytes; `fuel` bounds their number. -/
def absorbAll (rate : Nat) : Nat → List Word → List Byte → List Word
  | 0, st, _ => st
  | fuel + 1, st, bs => if bs.isEmpty then st else absorbAll rate fuel (absorb st (bs.take rate)) (bs.drop rate)

/-- The padding of a message of n bytes: the domain's bits, zeros, and 0x80 in the block's last byte. -/
def spongePad (rate : Nat) (dom : Byte) (n : Nat) : List Byte :=
  let k := rate - n % rate
  if k = 1 then [dom ||| 0x80] else dom :: (List.replicate (k - 2) 0 ++ [0x80])

/-- The first `rate` bytes of a state. -/
def squeezeBlock (rate : Nat) (st : List Word) : List Byte := (st.take (rate / 8)).flatMap fun w => natLe 8 w.toNat

/-- Squeeze blocks. -/
def squeeze (rate : Nat) : Nat → List Word → List Byte
  | 0, _ => []
  | n + 1, st => squeezeBlock rate st ++ squeeze rate n (keccakF st)

/-- The Keccak sponge: rate in bytes, domain bits, output length, message. -/
def sponge (rate : Nat) (dom : Byte) (n : Nat) (m : List Byte) : List Byte :=
  let p := m ++ spongePad rate dom m.length
  (squeeze rate ((n + rate - 1) / rate) (absorbAll rate (p.length / rate) (List.replicate 25 0) p)).take n

/-- SHAKE256 of a message, n bytes of output. -/
def shake256 (n : Nat) (m : List Byte) : List Byte := sponge 136 0x1F n m

/-- SHAKE128, SHA3-256 and SHA3-512, which FIPS 203 uses beside SHAKE256. -/
def shake128 (n : Nat) (m : List Byte) : List Byte := sponge 168 0x1F n m
def sha3_256 (m : List Byte) : List Byte := sponge 136 0x06 32 m
def sha3_512 (m : List Byte) : List Byte := sponge 72 0x06 64 m

/-- A 256-bit SHAKE256 digest, its first byte least significant. -/
def shakeW (m : List Byte) : W256 := BitVec.ofNat 256 (leNat (shake256 32 m))

/-- The 32 bytes of a 256-bit value. -/
def w256Bytes (w : W256) : List Byte := natLe 32 w.toNat

/-- The bytes of an ASCII string that the spec quotes. -/
def ascii (s : String) : List Byte := s.toList.map fun c => BitVec.ofNat 8 c.toNat

end Sys2Proof.Machine
end

