-- ==== Sys2Proof/Config.lean ====
section
/-! DEFINITION. What the spec leaves open: uninterpreted constants with no body. Nothing can evaluate them, so
every claim holds for every value. -/

namespace Sys2Proof.Config

/-- A value the spec leaves unspecified, undefined or unstated: fresh for every count (R118, R168, R195, R261, R311). -/
opaque freeBits : Nat → BitVec 64

/-- The n-th 256-bit value drawn from the random source (R336). -/
opaque draw : Nat → W256

/-- Which of the results within the bound of Table 06-1 an operation returns: op code, F32 operand (R160). -/
opaque approx : Nat → W32 → W32

/-- The firmware version field of a signed image (R67): the spec gives no layout of the image. -/
opaque fwVersion : List Byte → Nat

/-- The SHAKE256 measurement that a signed image states of itself (Table 01-7, step 4; R406): image, signature block. -/
opaque fwMeasured : List Byte → List Byte → W256

/-- Bits [47:6] of the I3C provisioned ID; R27 gives its low six. -/
opaque i3cIdHigh : BitVec 42

/-- The image the boot ROM holds as its golden image (Table 01-7, step 4). -/
opaque goldenImage : List Byte

/-- The grip microcode part of a firmware image (R180, R339). -/
opaque microcode : List Byte → List Byte

/-- The digest of the house rig that a firmware image holds (R34). -/
opaque houseDigest : List Byte → W256

/-- The bytes of the vendor root's public key, whose fingerprint the boot ROM fixes (R337, R455). -/
opaque vendorRoot : Nat → Byte

/-- The bytes of the vendor intermediate's public key, and its certificate serial (R337). -/
opaque intermediateKey : Nat → Byte
opaque intermediateSerial : Word

/-- The bytes of the issuers' signatures in the two certificates that the flash stores: of the intermediate, of the identity (R337). -/
opaque certSign : Bool → Nat → Byte

/-- The bytes of the firmware signing key (R337, Table 01-7 step 4). -/
opaque fwKey : Nat → Byte

/-- The IV of the GMAC of a frame under the continuity key, by the frame's address: R279 gives none. -/
opaque frameIv : Nat → Nat → Byte

end Sys2Proof.Config
end

