-- ==== Sys2Proof/Machine/Ops.lean ====
section
/-! DEFINITION. The named operations that several families share: bit fields, sparse maps, the error log, frames and
notices, free values and draws, and the life of a command. -/

namespace Sys2Proof.Machine

/-! ### Bit fields and lists -/

/-- Fields laid out from bit 0 up, each with its width. -/
def packBits : List (Nat × Nat) → Nat
  | [] => 0
  | (v, w) :: r => v % 2 ^ w + 2 ^ w * packBits r

/-- A register value from its fields. -/
def packWord (l : List (Nat × Nat)) : Word := BitVec.ofNat 64 (packBits l)

/-- 1 for true. -/
def b2n (b : Bool) : Nat := if b then 1 else 0

/-- The list with entry i changed by f; unchanged where there is no entry i. -/
def modAt {α : Type} (l : List α) (i : Nat) (f : α → α) : List α := l.modify i f

/-- The bits of a mask that are set, below n, rising. -/
def bitList (n mask : Nat) : List Nat := (List.range n).filter fun i => mask.testBit i

/-- The number of bits set below n. -/
def popCount (n mask : Nat) : Nat := (bitList n mask).length

/-- The mask of a list of bit numbers. -/
def maskOf : List Nat → Nat
  | [] => 0
  | i :: r => maskOf r ||| 2 ^ i

/-! ### Sparse maps: strictly rising keys, no default value listed -/

/-- The value at a key; `d` where the map lists none. -/
def smGet {β : Type} (d : β) : List (Nat × β) → Nat → β
  | [], _ => d
  | (k, v) :: r, a => if a = k then v else smGet d r a

/-- Set the value at a key; setting the default removes the entry. -/
def smPut {β : Type} [DecidableEq β] (d : β) (m : List (Nat × β)) (a : Nat) (x : β) : List (Nat × β) :=
  match m with
  | [] => if x = d then [] else [(a, x)]
  | (k, v) :: r =>
    if a < k then (if x = d then (k, v) :: r else (a, x) :: (k, v) :: r)
    else if a = k then (if x = d then r else (a, x) :: r)
    else (k, v) :: smPut d r a x

/-- The canonical form: keys strictly rising from `lo`, no default value. -/
def smWfFrom {β : Type} [DecidableEq β] (d : β) (lo : Nat) : List (Nat × β) → Bool
  | [] => true
  | (k, v) :: r => decide (lo ≤ k) && decide (v ≠ d) && smWfFrom d (k + 1) r

/-- The canonical form of a sparse map. -/
def smWf {β : Type} [DecidableEq β] (d : β) (m : List (Nat × β)) : Bool := smWfFrom d 0 m

/-- Put a run of values from a key up. -/
def smPutRun {β : Type} [DecidableEq β] (d : β) (m : List (Nat × β)) (a : Nat) : List β → List (Nat × β)
  | [] => m
  | x :: r => smPutRun d (smPut d m a x) (a + 1) r

/-- The values at n keys from a up. -/
def smRun {β : Type} (d : β) (m : List (Nat × β)) (a n : Nat) : List β :=
  (List.range n).map fun i => smGet d m (a + i)

/-- Drop every entry whose key lies in [lo, hi). -/
def smDrop {β : Type} (m : List (Nat × β)) (lo hi : Nat) : List (Nat × β) :=
  m.filter fun e => e.1 < lo || hi ≤ e.1

/-- The entries whose key lies in [lo, hi), with keys counted from lo. -/
def smPart {β : Type} (m : List (Nat × β)) (lo hi : Nat) : List (Nat × β) :=
  (m.filter fun e => decide (lo ≤ e.1) && decide (e.1 < hi)).map fun e => (e.1 - lo, e.2)

/-- Put entries whose keys count from lo. -/
def smPlace {β : Type} [DecidableEq β] (d : β) (m : List (Nat × β)) (lo : Nat) (l : List (Nat × β)) : List (Nat × β) :=
  l.foldl (fun m e => smPut d m (lo + e.1) e.2) m

/-- Bytes from a sparse byte map. -/
def cellBytes (m : List Host.Cell) (a n : Nat) : List Byte := smRun 0 m a n

/-- Write bytes into a sparse byte map. -/
def putBytes (m : List Host.Cell) (a : Nat) (bs : List Byte) : List Host.Cell := smPutRun 0 m a bs

/-- An association list's value. -/
def assocGet {α β : Type} [DecidableEq α] (l : List (α × β)) (k : α) : Option β :=
  (l.find? fun e => decide (e.1 = k)).map (·.2)

/-- An association list with a key's value set, at the front. -/
def assocPut {α β : Type} [DecidableEq α] (l : List (α × β)) (k : α) (v : β) : List (α × β) :=
  (k, v) :: l.filter fun e => decide (e.1 ≠ k)

/-! ### Free values and draws -/

/-- The n-th free value of 64 bits counted from the state's counter. -/
def freeAt (s : State) (n : Nat) : BitVec 64 := Config.freeBits (s.freeCtr + n)

/-- n free bytes. -/
def freeBytes (s : State) (n : Nat) : List Byte := (List.range n).map fun i => (freeAt s i).truncate 8

/-- n free 32-bit words. -/
def freeWords (s : State) (n : Nat) : List W32 := (List.range n).map fun i => (freeAt s i).truncate 32

/-- The counter after n free values have been used. -/
def freeUse (s : State) (n : Nat) : State := { s with freeCtr := s.freeCtr + n }

/-- Insert into a list sorted by `le`. -/
def sortIn {α : Type} (le : α → α → Bool) (x : α) : List α → List α
  | [] => [x]
  | y :: ys => if le x y then x :: y :: ys else y :: sortIn le x ys

/-- A list sorted by `le`; equal elements keep their order. -/
def sortBy {α : Type} (le : α → α → Bool) (l : List α) : List α := l.foldr (sortIn le) []

/-- A list in a free order: by free values that its elements number. The spec leaves the order among equals open (log entry 90). -/
def shuffle {α : Type} (s : State) (n : α → Nat) (l : List α) : List α :=
  sortBy (fun a b => decide ((freeAt s (n a)).toNat ≤ (freeAt s (n b)).toNat)) l

/-- A free choice among the numbers below `bound` that `used`, which holds of at most n of them, leaves: the spec says only that
the number is not in use (log entry 107). -/
def freeIndex (s : State) (bound n : Nat) (used : Nat → Bool) : Nat :=
  (((List.range (n + 1)).map fun k => ((freeAt s 0).toNat + k) % bound).find? fun i => !(used i)).getD 0

/-- The draw that comes k after the next. -/
def drawAt (s : State) (k : Nat) : W256 := Config.draw (s.draws + k)

/-- The state after n draws; one DRBG request each (R336). -/
def drawUse (s : State) (n : Nat) : State :=
  { s with draws := s.draws + n, keys := { s.keys with drbgReqs := s.keys.drbgReqs + n } }

/-- Whether a management request or event that draws must wait: a health test of the entropy source fails (R336). -/
def drawsWait (s : State) : Bool := !s.keys.entropyOk

/-- Hold a request whose draw waits, or that waits its turn behind one (R336, R412). -/
def holdDraw (s : State) (i : Instr) : State := { s with keys := { s.keys with waiting := s.keys.waiting ++ [i] } }

/-- Whether a quote request can be queued: KEY_ABSENT without an identity, BUSY for a 65th (R335, R338). -/
def quoteCheck (s : State) : Option Status :=
  if !s.keys.vaultOk then some .keyAbsent else if 64 ≤ s.keys.quotes.length then some .busy else none

/-- Queue a quote request. -/
def quoteAsk (s : State) (q : QuoteReq) : State := { s with keys := { s.keys with quotes := s.keys.quotes ++ [q] } }

/-! ### The error log -/

/-- An empty log entry: no unit, space, range, stack or context. -/
def logBlank : LogEntry :=
  { seq := 0, status := .ok, kind := 0, unit := 0xFF, space := 0xFF, range := 0xFF, stack := 0xFF, cause := 0,
    context := 0xFFFF, epoch := 0, count := 1, detail := 0 }

/-- The fields of which a match with the newest entry counts and does not append (R469). -/
def logSame (x y : LogEntry) : Bool :=
  x.kind == y.kind && x.unit == y.unit && x.status == y.status && x.space == y.space && x.range == y.range &&
    x.stack == y.stack

/-- Append a new entry, the oldest lost when 1,024 are held (R469). -/
def logPush (l : ErrLog) (e : LogEntry) : ErrLog :=
  { l with
    entries := ({ e with seq := l.nextSeq, epoch := l.epoch } :: l.entries).take 1024
    nextSeq := l.nextSeq + 1
    overwritten := if 1024 ≤ l.entries.length then satAdd 32 l.overwritten 1 else l.overwritten }

/-- Log an event (R469). -/
def logAdd (l : ErrLog) (e : LogEntry) : ErrLog :=
  match l.entries with
  | [] => logPush l e
  | x :: r =>
    if logSame x e then { l with entries := { x with count := satAdd 32 x.count e.count } :: r } else logPush l e

/-- Log an event in the state. -/
def stLog (s : State) (e : LogEntry) : State := { s with err := logAdd s.err e }

/-! ### Ports, frames, replies, notices -/

/-- The state of a port. -/
def portOf (x : Lemlix) (p : Port) : PortSt :=
  match p with
  | .a => x.a
  | .b => x.b

/-- Set the state of a port. -/
def portSet (x : Lemlix) (p : Port) (v : PortSt) : Lemlix :=
  match p with
  | .a => { x with a := v }
  | .b => { x with b := v }

/-- Change a port. -/
def portMod (s : State) (p : Port) (f : PortSt → PortSt) : State := { s with lmx := portSet s.lmx p (f (portOf s.lmx p)) }

/-- The other port. -/
def otherPort : Port → Port
  | .a => .b
  | .b => .a

/-- The number of a port: 0 for LMX_A, 1 for LMX_B. -/
def portNum : Port → Nat
  | .a => 0
  | .b => 1

/-- Bytes of a message: its 8-byte header and body (Table 15-5); party messages carry 28 bytes of IV and tag. -/
def msgBytes : Msg → Nat
  | .reply _ _ _ d => 10 + d.length
  | .party _ _ _ _ _ d => 8 + 1 + 28 + 10 + d.length
  | .notice _ _ (.record b) => 8 + b.length
  | .notice _ _ _ => 24
  | .helloReply q ek => q.length + ek.length
  | .rollCall _ => 8
  | .bulk _ _ d => 21 + d.length

/-- Data bytes of a BULK message in one frame: 8,192 bytes of payload less the message's header and 13 bytes of stream, target and
offset (Tables 15-4, 15-5). -/
def bulkPart : Nat := 8171

/-- The frames that a message takes. -/
def msgParts : Msg → Nat
  | .bulk _ _ d => max 1 ((d.length + bulkPart - 1) / bulkPart)
  | m => max 1 ((msgBytes m + 8191) / 8192)

/-- Payload bytes of part k of a message: each part of a BULK stream is a message of its own. -/
def payloadBytes (m : Msg) (k : Nat) : Nat :=
  match m with
  | .bulk _ _ d => 21 + min bulkPart (d.length - bulkPart * k)
  | m => min 8192 (msgBytes m - 8192 * k)

/-- Bytes of a DATA frame: 32 of header and 16 of tag beside its payload (R403). -/
def frameBytes (f : OutFrame) : Nat := 48 + payloadBytes f.msg f.part

/-- The sequence number of the next new frame of a port. -/
def nextFrameSeq (v : PortSt) : Nat :=
  match v.unacked.getLast? with
  | none => v.txSeq
  | some f => f.seq + 1

/-- Bytes of the frames sent and not acknowledged. -/
def sentBytes (v : PortSt) : Nat := ((v.unacked.filter fun f => decide (f.seq < v.txSeq)).map frameBytes).foldl (· + ·) 0

/-- Bytes of a setup frame: 32 of header, a clear payload and no tag (R403). -/
def setupBytes (m : Msg) : Nat := 32 + msgBytes m

/-- Send the setup frames that wait, in order, as far as the credit goes: `fuel` frames at most (R401). -/
def pumpSetup : Nat → PortSt → PortSt
  | 0, v => v
  | fuel + 1, v =>
    match v.setupWait with
    | [] => v
    | m :: r =>
      if setupBytes m ≤ v.credit then
        pumpSetup fuel { v with credit := v.credit - setupBytes m, setup := v.setup ++ [m], setupWait := r }
      else v

/-- Send the frames that are ready and fit the credit held (R401) and the 2 MiB of unacknowledged frames (R405): `fuel` frames at
most. -/
def pumpPort : Nat → PortSt → PortSt
  | 0, v => v
  | fuel + 1, v =>
    match v.unacked.find? fun f => f.seq == v.txSeq with
    | none => v
    | some f =>
      if frameBytes f ≤ v.credit && decide (sentBytes v + frameBytes f ≤ 2 ^ 21) then
        pumpPort fuel { v with
          credit := v.credit - frameBytes f, txSeq := v.txSeq + 1, txHigh := max v.txHigh (v.txSeq + 1)
          cntTx := (v.cntTx + 1) % 2 ^ 64 }
      else v

/-- A setup frame toward the control node: sent within the credit held, or kept until it lasts (R401). -/
def setupSend (s : State) (p : Port) (m : Msg) : State :=
  portMod s p fun v => pumpSetup (v.setupWait.length + 1) { v with setupWait := v.setupWait ++ [m] }

/-- The frames of a message, numbered from a sequence number. -/
def framesOf (n : Nat) (m : Msg) : List OutFrame := (List.range (msgParts m)).map fun k => { seq := n + k, msg := m, part := k }

/-- Queue a message of the live session of a port, and send what its credit allows; nothing where no session is live. -/
def portSend (v : PortSt) (m : Msg) : PortSt :=
  if v.session = 2 then
    pumpPort (v.unacked.length + msgParts m) { v with unacked := v.unacked ++ framesOf (nextFrameSeq v) m }
  else v

/-- Send a message on a port. -/
def lmxSend (x : Lemlix) (p : Port) (m : Msg) : Lemlix := portSet x p (portSend (portOf x p) m)

/-- Whether a live session can number the frames of a message: none may reach 2^64 − 1 (R402). -/
def portFits (v : PortSt) (m : Msg) : Bool := decide (nextFrameSeq v + msgParts m < 2 ^ 64)

/-- Whether a frame carries a piece of a print. -/
def isBulk (m : Msg) : Bool :=
  match m with
  | .bulk _ _ _ => true
  | _ => false

/-- Whether a frame carries a notice. -/
def isNotice (m : Msg) : Bool :=
  match m with
  | .notice _ _ _ => true
  | _ => false

/-- What a session that ends leaves to be sent elsewhere, in order: its unacknowledged pieces of a print, each once, and the notices that
have not gone out (R410, R411; log entry 129). The parts of one message are neighbours. -/
def leftover (v : PortSt) : List Msg :=
  (v.unacked.filter fun f =>
    (isBulk f.msg && (f.part == 0 || v.unacked.head? == some f)) || (isNotice f.msg && f.part == 0 && decide (v.txHigh ≤ f.seq))).map
    (·.msg)

/-- Send the held pieces of a print on a live port, as far as its sequence numbers go (R411). -/
def flushHeld (x : Lemlix) : Lemlix :=
  let go := fun (p : Port) => x.held.foldl
    (fun (y : Lemlix) m => if portFits (portOf y p) m then lmxSend y p m else { y with held := y.held ++ [m] }) { x with held := [] }
  if x.a.session = 2 then go .a else if x.b.session = 2 then go .b else x

/-- The first of a port's two session key slots (Table 13-6). -/
def sessionSlot (p : Port) : Nat := 1 + 2 * portNum p

/-- Add one to the notices dropped on a port. -/
def dropCount (x : Lemlix) (p : Port) : Lemlix :=
  portSet x p { portOf x p with cntDrop := satAdd 32 (portOf x p).cntDrop 1 }

/-- Hold a notice while neither port has a session: the oldest of 4,096 is dropped and counted (R410). -/
def noticeHold (s : State) (p : Port) (slot : Nat) (n : Note) : State :=
  if 4096 ≤ s.sp.notices.length then
    { s with sp := { s.sp with notices := s.sp.notices.drop 1 ++ [(slot, n)] }, lmx := dropCount s.lmx p }
  else { s with sp := { s.sp with notices := s.sp.notices ++ [(slot, n)] } }

/-- A message that the session of a port could not send: a piece of a print and a notice go out on the other port, or are held; a notice
whose party channel has ended, and anything else, is lost with its session (R407, R410, R411). -/
def moveMsg (s : State) (p : Port) (m : Msg) : State :=
  match m with
  | .bulk _ _ _ => { s with lmx := flushHeld { s.lmx with held := s.lmx.held ++ [m] } }
  | .notice slot sealed n =>
    if sealed.all fun e => (s.keys.channels.getD e.1 {}).bound then
      if (portOf s.lmx (otherPort p)).session == 2 && portFits (portOf s.lmx (otherPort p)) m then
        { s with lmx := lmxSend s.lmx (otherPort p) m }
      else noticeHold s p slot n
    else s
  | _ => s

/-- End the session or the attempt of a port: its slots zeroized, the lock it held released, and what it leaves of prints and notices
sent on the other port or held (R402, R410, R411, R412). -/
def endSess (s : State) (p : Port) : State :=
  let v := portOf s.lmx p
  if v.session = 0 then s
  else
    let x := portSet s.lmx p { v with
      session := 0, sessionId := 0, ek := [], dk := [], quote := [], rxSeq := 0, txSeq := 0, txHigh := 0, txAck := 0, credit := 0
      unacked := [], setup := [], setupWait := [] }
    (leftover v).foldl (fun t m => moveMsg t p m) { s with
      keys := { s.keys with slots := (s.keys.slots.set (sessionSlot p) {}).set (sessionSlot p + 1) {} }
      lmx := { x with lock := if x.lock = portNum p + 1 then 0 else x.lock } }

/-- Send a message on a port; a live session with a frame that would be numbered 2^64 − 1 ends instead (R402). -/
def sendMsg (s : State) (p : Port) (m : Msg) : State :=
  if (portOf s.lmx p).session == 2 && !(portFits (portOf s.lmx p) m) then moveMsg (endSess s p) p m
  else { s with lmx := lmxSend s.lmx p m }

/-- The reply of a management request (R404). -/
def mgmtReply (s : State) (p : Port) (tag : Nat) (st : Status) (data : List Byte) : State :=
  sendMsg s p (.reply 0 tag st data)

/-- A management request with its outcome: the state it leaves, the status and the data of its reply. -/
structure Answer where
  st : State
  status : Status
  data : List Byte := []

/-- Whether the port's management writes are turned away because the other port holds the lock (R412). -/
def lockedOut (x : Lemlix) (p : Port) : Bool := x.lock != 0 && x.lock != portNum p + 1

/-- Whether a message reaches the module on a port: the ring is locked and the session is live (R400, R402). -/
def heard (x : Lemlix) (p : Port) : Bool := (portOf x p).ring == 2 && (portOf x p).session == 2

/-- The effect and the reply of a management request that has arrived; nothing once its session has ended. -/
def mgmtRun (p : Port) (tag : Nat) (f : State → Answer) (s : State) : State :=
  if (portOf s.lmx p).session = 2 then
    mgmtReply (f s).st p tag (f s).status (f s).data
  else s

/-- The slot whose window of strict slicing management work, Dailies, the twin streams, walks and scrubs use (R239, R432). -/
def systemSlot (s : State) : Nat := (s.sp.slots.findIdx? fun x => x.state != 0 && x.party == 255).getD 0

/-- Whether what a slot does may run now: in its own window under strict slicing (R432). -/
def windowOpen (s : State) (slot : Nat) : Bool := !s.rig.active.strict || s.gaf.window == slot

/-- Whether management work may run now: in the system space's window under strict slicing; a rig that gives that space no window leaves it
to any (R432, log entry 131). -/
def systemOpen (s : State) : Bool :=
  windowOpen s (systemSlot s) || !((s.rig.active.spaces.getD (systemSlot s) {}).creatable)

/-- Whether a row that waits is a management request, which later ones may not overtake (R412). -/
def turnRow (i : Instr) : Bool :=
  match i with
  | .bind _ _ _ _ => false
  | .hello _ _ _ => false
  | .pairOfferReceive _ => false
  | .lcPort _ _ _ => false
  | .regPort _ _ _ => false
  | .memPort _ _ => false
  | .requestReceive _ _ _ _ => false
  | .resilverCopyReceive _ _ _ _ _ => false
  | .doorbell _ _ _ => false
  | _ => true

/-- Whether a management request waits its turn: an earlier one waits for a draw or for a fill, or the system space's window is not open
(R412, R432). -/
def mgmtHeld (s : State) : Bool := s.keys.waiting.any turnRow || s.ciph.waiting.any turnRow || !(systemOpen s)

/-- A write that is refused with BUSY while the other port holds the lock (R412). -/
def lockTest (p : Port) (f : State → Answer) (s : State) : Answer := if lockedOut s.lmx p then ⟨s, .busy, []⟩ else f s

/-- A management request as it arrives on a port, with its row: lost while the ring is not locked (R400), held while it waits its turn. -/
def mgmtTurn (p : Port) (row : Instr) (f : State → State) (s : State) : State :=
  if !(heard s.lmx p) then s else if mgmtHeld s then holdDraw s row else f s

/-- A management read as it arrives. -/
def mgmtRead (p : Port) (tag : Nat) (row : Instr) (f : State → Answer) (s : State) : State := mgmtTurn p row (mgmtRun p tag f) s

/-- A management write that has its turn. -/
def mgmtAgain (p : Port) (tag : Nat) (f : State → Answer) (s : State) : State := mgmtRun p tag (lockTest p f) s

/-- A management write as it arrives. -/
def mgmtWrite (p : Port) (tag : Nat) (row : Instr) (f : State → Answer) (s : State) : State := mgmtTurn p row (mgmtAgain p tag f) s

/-- A management write whose effect draws: it waits while the entropy source fails (R336). -/
def mgmtDraw (p : Port) (tag : Nat) (row : Instr) (f : State → Answer) (s : State) : State :=
  if drawsWait s && heard s.lmx p && !lockedOut s.lmx p then holdDraw s row else mgmtWrite p tag row f s

/-- The party that owns a space, none for the system space (index 255). -/
def spaceParty (s : State) (slot : Nat) : Option Nat :=
  match s.sp.slots[slot]? with
  | some v => if v.party = 255 then none else some v.party
  | none => none

/-- End a party channel: its slots are zeroized and the bindings of its space end (R344, R407). -/
def endChannel (s : State) (q : Nat) : State :=
  { s with
    keys := { s.keys with
      slots := (s.keys.slots.set (8 + 2 * q) {}).set (9 + 2 * q) {}
      channels := s.keys.channels.set q {} }
    sp := { s.sp with
      slots := s.sp.slots.map fun x => if x.state != 0 && x.party == q then { x with bound := false } else x } }

/-- Take a message of a party channel (R344): discarded unless the channel is bound, its tag verifies and its counter exceeds the last one
accepted; a channel whose counter would reach 2^64 − 1 ends. -/
def partyTake (q : Nat) (m : MsgAuth) (f : State → State) (s : State) : State :=
  let c := s.keys.channels.getD q {}
  if !c.bound || !m.ok || c.lastIn.any (fun n => decide (m.counter ≤ n)) then s
  else if 2 ^ 64 - 1 ≤ m.counter then endChannel s q
  else f { s with keys := { s.keys with channels := s.keys.channels.set q { c with lastIn := some m.counter } } }

/-- Count a message discarded under R407. -/
def refuseMsg (s : State) (p : Port) : State :=
  { s with lmx := portSet s.lmx p { portOf s.lmx p with cntRefused := satAdd 32 (portOf s.lmx p).cntRefused 1 } }

/-- Count a message sent under k_out of a channel; a channel whose counter would reach 2^64 − 1 ends (R344). -/
def chanSent (s : State) (q : Nat) : State :=
  match s.keys.channels[q]? with
  | some c =>
    if 2 ^ 64 - 1 ≤ c.nextOut + 1 then endChannel s q
    else { s with keys := { s.keys with channels := s.keys.channels.set q { c with nextOut := c.nextOut + 1 } } }
  | none => s

/-- Send a notice of a space on a port with a live session; a party space's travels under k_out, and one whose binding has
ended is dropped (R407, R410). -/
def noticeOn (s : State) (p : Port) (slot : Nat) (n : Note) : State :=
  match spaceParty s slot with
  | none => sendMsg s p (.notice slot none n)
  | some q =>
    match s.keys.channels[q]? with
    | some c => if c.bound then chanSent (sendMsg s p (.notice slot (some (q, c.nextOut)) n)) q else s
    | none => s

/-- Send a notice to a space: on the port of its last accepted request, else on the other port, else held, the oldest of
4,096 dropped (R410). -/
def sendNotice (s : State) (slot : Nat) (n : Note) : State :=
  let p := ((s.sp.slots[slot]?).map (·.port)).getD .a
  if (portOf s.lmx p).session = 2 then noticeOn s p slot n
  else if (portOf s.lmx (otherPort p)).session = 2 then noticeOn s (otherPort p) slot n
  else noticeHold s p slot n

/-- Send the notices held while no port had a session: when a session comes up (R410). -/
def flushNotices (s : State) : State :=
  s.sp.notices.foldl (fun t e => sendNotice t e.1 e.2) { s with sp := { s.sp with notices := [] } }

/-! ### Commands -/

/-- The command with a number. -/
def cmdGet (s : State) (cid : Nat) : Option Cmd := s.sp.cmds.find? fun c => c.id == cid

/-- Change a command. -/
def cmdMod (sp : Spaces) (cid : Nat) (f : Cmd → Cmd) : Spaces :=
  { sp with
    cmds := sp.cmds.map fun c => if c.id = cid then f c else c }

/-- End a command's run with a result; the record and fences follow at COMMAND_COMPLETE. A command that has ended keeps the
result of the first failure (R461). -/
def cmdEnd (s : State) (cid : Nat) (r : Result) : State :=
  { s with sp := cmdMod s.sp cid fun c =>
      match c.phase with
      | .finished _ => c
      | _ => { c with phase := .finished r } }

/-- A collective or NORM_REDUCE. -/
def isCollective (c : Cmd) : Bool := c.opcode == 0x50 || c.opcode == 0x51

/-- End a command that has not begun, with a failure; a collective's is counted (R263). -/
def cmdFail (s : State) (c : Cmd) (r : Result) : State :=
  cmdEnd (if isCollective c then { s with col := { s.col with failed := s.col.failed + 1 } } else s) c.id r

/-- The body of a command as a number: bytes 28 to 63 of its descriptor (R379). -/
def cmdBody (c : Cmd) : Nat := (c.body.getD 0).toNat

/-- Commands that run on an engine island. -/
def onEngine (opcode : Nat) : Bool := [0x08, 0x09, 0x10, 0x20, 0x21, 0x22, 0x40].contains opcode

/-- The engine that a command names; RED_ADD names one when its source is tiles. -/
def engineNamed (c : Cmd) : Option Nat :=
  if onEngine c.opcode then some (fld (cmdBody c) 0 6)
  else if c.opcode = 0x15 && !(cmdBody c).testBit 0 then some (fld (cmdBody c) 1 6) else none

/-- The grip that holds a queue is halted: the commands it holds wait (R452). -/
def gripHalted (s : State) (q : Nat) : Bool := s.sp.queues.any fun x => x.idx == q && s.gaf.haltedGrips.contains x.grip

/-- The clock of an island is stopped for a scan (R452). -/
def clockStopped (s : State) (n : Nat) : Bool := (s.gaf.islands.getD n {}).stopped

/-- A command stands still: its grip is halted, or the clock of its engine or of an HBM controller is stopped. -/
def cmdStalled (s : State) (c : Cmd) : Bool :=
  gripHalted s c.queue || (engineNamed c).any (clockStopped s) || (List.range 8).any fun k => clockStopped s (64 + k)

/-- The admitted command with a number, if it has the opcode and does not stand still. -/
def cmdReady (s : State) (cid opcode : Nat) : Option Cmd :=
  match cmdGet s cid with
  | some c => if c.phase = .admitted && c.opcode = opcode && !(cmdStalled s c) then some c else none
  | none => none

/-- A command whose run has not ended. -/
def cmdLive (c : Cmd) : Bool :=
  match c.phase with
  | .finished _ => false
  | _ => true

/-- Whether a command has begun to run. -/
def cmdRunning (c : Cmd) : Bool :=
  match c.phase with
  | .admitted => true
  | .waiting => true
  | _ => false

/-- Whether a command has been admitted, is not pre-empted and has not completed. -/
def cmdBusy (c : Cmd) : Bool :=
  match c.phase with
  | .accepted => false
  | .preempted => false
  | _ => true

/-- End every live command that a test picks with a status. -/
def endCmds (sp : Spaces) (f : Cmd → Bool) (st : Status) : Spaces :=
  { sp with
    cmds := sp.cmds.map fun c => if f c && cmdLive c then { c with phase := .finished (resultOf st) } else c }

/-- The command's context entry. -/
def ctxGet (s : State) (id : Nat) : Option Ctx := s.sp.ctxs.find? fun c => c.id == id

/-- Change a context. -/
def ctxMod (sp : Spaces) (id : Nat) (f : Ctx → Ctx) : Spaces :=
  { sp with ctxs := sp.ctxs.map fun c => if c.id = id then f c else c }

/-! ### The rig's global flags -/

/-- A Shared rig (R60, R355 and following). -/
def isShared (s : State) : Bool := s.rig.active.shared

/-- The owner set a command's outputs must carry: its context's mask (R357). -/
def ctxMask (s : State) (id : Nat) : BitVec 8 := ((ctxGet s id).map (·.mask)).getD 0

end Sys2Proof.Machine
end

