-- ==== Sys2Proof/Machine/Access.lean ====
section
/-! DEFINITION. Access to main memory (files 11 and 12): interleave, the parity code, counter trees, key selection,
the merge buffer, reads and writes by physical address, and the translation of space addresses (file 14). -/

namespace Sys2Proof.Machine

/-! ### Runs of numbers -/

/-- Add the run [lo, hi) to a rising list of disjoint runs. -/
def runAdd (l : List (Nat × Nat)) (lo hi : Nat) : List (Nat × Nat) :=
  let before := l.filter fun r => decide (r.2 < lo)
  let after := l.filter fun r => decide (hi < r.1)
  let mid := l.filter fun r => !(decide (r.2 < lo)) && !(decide (hi < r.1))
  before ++ [(mid.foldl (fun a r => min a r.1) lo, mid.foldl (fun a r => max a r.2) hi)] ++ after

/-- Take the run [lo, hi) out of a list of runs. -/
def runDel (l : List (Nat × Nat)) (lo hi : Nat) : List (Nat × Nat) :=
  l.flatMap fun r =>
    (if r.1 < min r.2 lo then [(r.1, min r.2 lo)] else []) ++ (if max r.1 hi < r.2 then [(max r.1 hi, r.2)] else [])

/-- Whether a number lies in a run of the list. -/
def runHas (l : List (Nat × Nat)) (x : Nat) : Bool := l.any fun r => decide (r.1 ≤ x) && decide (x < r.2)

/-- How many numbers a list of disjoint runs holds. -/
def runSize (l : List (Nat × Nat)) : Nat := l.foldl (fun a r => a + (r.2 - r.1)) 0

/-! ### Interleave (R289) -/

/-- The stack of a device physical address. -/
def stackOf (a : Nat) : Nat :=
  let g := a / 1024
  Nat.xor (Nat.xor (g % 8) (g / 8 % 8)) (g / 64 % 8)

/-- The stack-local byte offset of a device physical address. -/
def stackOffset (a : Nat) : Nat := a / 8192 * 1024 + a % 1024

/-- The channel and pseudo-channel of a device physical address; they affect only timing. -/
def pseudoChannel (a : Nat) : Nat × Nat :=
  let l := a / 8192
  let q := Nat.xor (l % 64) (l / 64 % 64)
  (q / 2, q % 2)

/-- Bytes of main memory: 768 GiB. -/
def memSize : Nat := 768 * 2 ^ 30

/-! ### Ranges (R54, R305, R312) -/

/-- Bytes of the data region of a range: all of a Veiled one, ⌊N · 949 / 2⌋ · 2 MiB of a Sealed one. -/
def dataSize (c : RangeCfg) : Nat := if c.mode = 2 then c.size / 2 ^ 30 * 949 / 2 * 2 ^ 21 else c.size

/-- The staging hold in a range's shape: ID 32, Sealed, owner set 0 (R306). -/
def holdCfg (r : Rig) : RangeCfg := { base := r.holdBase, size := r.holdSize, mode := if r.holdSize = 0 then 0 else 2 }

/-- The configuration of range n; 32 is the staging hold. -/
def rangeCfg (s : State) (n : Nat) : RangeCfg :=
  if n = 32 then holdCfg s.rig.active else s.rig.active.ranges.getD n {}

/-- Whether a used range covers an address. -/
def cfgHas (c : RangeCfg) (a : Nat) : Bool := c.mode != 0 && decide (c.base ≤ a) && decide (a < c.base + c.size)

/-- The used range 0 to 31 that covers an address. -/
def rangeAt (s : State) (a : Nat) : Option Nat := (List.range 32).find? fun n => cfgHas (rangeCfg s n) a

/-- The used range, the staging hold as 32 among them, that covers an address. -/
def rangeAny (s : State) (a : Nat) : Option Nat := (List.range 33).find? fun n => cfgHas (rangeCfg s n) a

/-- What the module keeps for range n. -/
def rangeKey (s : State) (n : Nat) : RangeKey := s.ciph.ranges.getD n {}

/-- Change what the module keeps for range n. -/
def rangeKeyMod (x : Cipher) (n : Nat) (f : RangeKey → RangeKey) : Cipher := { x with ranges := modAt x.ranges n f }

/-- Whether an access to n bytes at an address may reach memory: some status where it may not (R307, R308, R312). -/
def accessCheck (s : State) (a n : Nat) : Option Status :=
  match rangeAt s a with
  | none => some .flowDenied
  | some r =>
    let c := rangeCfg s r
    if c.base + dataSize c < a + n then some .flowDenied
    else if (rangeKey s r).keyless then some .keyAbsent else none

/-- Bytes of the unit that is ciphered together: a line, or a frame of a Sealed range. -/
def unitBytes (c : RangeCfg) : Nat := if c.mode = 2 then 256 else 64

/-! ### The parity code (R290 to R293) -/

/-- What a controller makes of a stored line: data bits still wrong, and what it counts. -/
structure LineSt where
  data : Nat
  corr : Bool
  chkOnly : Bool
  bad : Bool
  tagBad : Bool
  kgenFlip : Bool
deriving DecidableEq, Repr

/-- Whether the parity of n bits of a mask, `step` apart from bit `lo`, is odd. -/
def oddBits (v lo step n : Nat) : Bool := ((List.range n).filter fun i => v.testBit (lo + step * i)).length % 2 == 1

/-- owner_id of a line (Table 11-2): its range, 32 for the hold, 63 elsewhere. -/
def ownerId (s : State) (line : Nat) : Nat := (rangeAny s (64 * line)).getD 63

/-- addr_chk of a line (Table 11-2): a hash of its stack-local index. -/
def addrChk (line : Nat) : Nat :=
  let x := stackOffset (64 * line) / 64
  Nat.xor x (Nat.xor (x / 2 ^ 7) (Nat.xor (x / 2 ^ 14) (Nat.xor (x / 2 ^ 21) (x / 2 ^ 28)))) % 128

/-- The tag of a good line, bits [63:48] of its metadata: three copies of kgen, owner_id, addr_chk. The faults of a line are the bits by
which its stored form differs from it. -/
def lineTag (s : State) (line : Nat) (kgen : Bool) : Nat := packBits [(if kgen then 7 else 0, 3), (ownerId s line, 6), (addrChk line, 7)]

/-- The disagreeing row parities, by Table 11-3, for a word of `rows` rows with its check bits from bit 0 of `chk`. -/
def badRows (rows data chk : Nat) : List Nat :=
  (List.range rows).filter fun r => oddBits data (32 * r) 1 32 != chk.testBit r

/-- The disagreeing column parities. -/
def badCols (rows data chk : Nat) : List Nat :=
  (List.range 32).filter fun c => oddBits data c 32 rows != chk.testBit (rows + c)

/-- What the code of a 256-bit SRAM word makes of its wrong data and check bits (R292, R294): the data bits still wrong, whether it was
corrected, and whether it is uncorrectable. -/
def wordClass (d chk : Nat) : Nat × Bool × Bool :=
  match badRows 8 d chk, badCols 8 d chk with
  | [], [] => (d, false, false)
  | [r], [c] => (d ^^^ 2 ^ (32 * r + c), true, false)
  | [_], [] => (d, true, false)
  | [], [_] => (d, true, false)
  | _, _ => (d, false, true)

/-- A buffer word is uncorrectable. -/
def bufLost (w : Nat × BitVec 256 × BitVec 40) : Bool := (wordClass w.2.1.toNat w.2.2.toNat).2.2

/-- The data bits of a buffer word that stay wrong unseen. -/
def bufMissed (w : Nat × BitVec 256 × BitVec 40) : Nat := if bufLost w then 0 else (wordClass w.2.1.toNat w.2.2.toNat).1

/-- An uncorrectable word among those met in a buffer. -/
def bufBad (x : BufErr) : Bool := x.any bufLost

/-- Whether a word among them carries wrong data that the code does not see. -/
def bufWrong (x : BufErr) : Bool := x.any fun w => bufMissed w != 0

/-- Bytes that start at an offset of a buffer, with the wrong bits that the code does not see. -/
def bufFlip (x : BufErr) (off : Nat) (bs : List Byte) : List Byte :=
  if x.isEmpty then bs
  else ((List.range bs.length).zip bs).map fun e =>
    x.foldl (fun (b : Byte) w =>
      if w.1 = (off + e.1) / 32 then b ^^^ BitVec.ofNat 8 (bufMissed w / 2 ^ (8 * ((off + e.1) % 32))) else b) e.2

/-- The reading of a line whose stored bits differ from a good line by `f`. -/
def lineClass (f : BitVec 512 × BitVec 64) : LineSt :=
  let d := f.1.toNat
  let m := f.2.toNat
  let copies := popCount 3 (m / 2 ^ 48 % 8)
  let kflip := decide (2 ≤ copies)
  let kone := decide (copies = 1) || decide (copies = 2)
  let tag := decide (m / 2 ^ 51 ≠ 0)
  match badRows 16 d m, badCols 16 d m with
  | [], [] => ⟨d, kone, false, false, tag, kflip⟩
  | [r], [c] => ⟨d ^^^ 2 ^ (32 * r + c), true, false, false, tag, kflip⟩
  | [_], [] => ⟨d, true, true, false, tag, kflip⟩
  | [], [_] => ⟨d, true, true, false, tag, kflip⟩
  | _, _ => ⟨d, false, false, true, tag, kflip⟩

/-- The bits by which a line written back after mending differs from a good one: wrong data left by the code gets
fresh check bits, and the three kgen copies agree. -/
def mended (l : LineSt) : BitVec 512 × BitVec 64 :=
  let chk := maskOf (badRows 16 l.data 0) + 2 ^ 16 * maskOf (badCols 16 l.data 0)
  (BitVec.ofNat 512 l.data, BitVec.ofNat 64 (chk + if l.kgenFlip then 7 * 2 ^ 48 else 0))

/-- The canonical form of main memory: bytes, line faults and unit counters each with strictly rising keys and no default listed. -/
def Memory.wf (m : Mem) : Bool := smWf 0 m.cells && smWf (0, 0) m.faults && smWf 0 m.counters

/-- The bits by which a line's stored form differs from a good line. -/
def faultOf (m : Mem) (line : Nat) : BitVec 512 × BitVec 64 := smGet (0, 0) m.faults line

/-- Set the bits by which a line differs. -/
def setFault (m : Mem) (line : Nat) (f : BitVec 512 × BitVec 64) : Mem :=
  { m with faults := smPut (0, 0) m.faults line f }

/-- Change the error counters of a stack. -/
def errMod (m : Mem) (stack : Nat) (f : StackErr → StackErr) : Mem := { m with errs := modAt m.errs stack f }

/-- The controller writes a line that would differ from a good one by `f`: the armed flip mask of its stack hits it (R298). -/
def linePut (m : Mem) (line : Nat) (f : BitVec 512 × BitVec 64) : Mem :=
  if m.flipArm && m.flipStack == stackOf (line * 64) then
    let d := (m.flipMask.take 8).foldr (fun w acc => w.toNat + 2 ^ 64 * acc) 0
    { setFault m line (f.1 ^^^ BitVec.ofNat 512 d, f.2 ^^^ m.flipMask.getD 8 0) with
      flipArm := false, flipDone := true, flipAddr := stackOffset (line * 64) }
  else setFault m line f

/-- The controller writes a good line. -/
def lineWritten (m : Mem) (line : Nat) : Mem := linePut m line (0, 0)

/-- Count a wrong tag (R293). -/
def tagCount (m : Mem) (stack : Nat) (l : LineSt) : Mem :=
  if l.tagBad then errMod m stack fun e => { e with tagFail := satAdd 16 e.tagFail 1 } else m

/-- Count and write back what a read of a line found (R291, R293). The write-backs of a scrub (`quiet`) do not count as the line that an
armed flip hits (R298). A wrong tag is counted on an uncorrectable line too. -/
def lineRead (quiet : Bool) (m : Mem) (line : Nat) : Mem × LineSt :=
  let l := lineClass (faultOf m line)
  let stack := stackOf (line * 64)
  let m1 := tagCount m stack l
  if l.bad then (errMod m1 stack fun e => { e with uncorrectable := satAdd 16 e.uncorrectable 1 }, l)
  else if l.tagBad then (m1, l)
  else if l.corr then
    let m2 := errMod m1 stack fun e =>
      { e with corrected := satAdd 16 e.corrected 1, chkOnly := satAdd 16 e.chkOnly (b2n l.chkOnly) }
    (if quiet then setFault m2 line (mended l) else linePut m2 line (mended l), l)
  else (m1, l)

/-! ### Counter trees (R313 to R322) -/

/-- The frames of a Sealed range on one stack. -/
def framesPerStack (c : RangeCfg) : Nat := dataSize c / 8 / 256

/-- The local index of a frame on its stack (R313). -/
def frameIndex (c : RangeCfg) (a : Nat) : Nat := (a - c.base) / 8192 * 4 + a / 256 % 4

/-- Sizes of the tree's levels from the leaves to the top level, at most 7 nodes. -/
def treeLevels : Nat → Nat → List Nat
  | 0, n => [n]
  | fuel + 1, n => if n ≤ 7 then [n] else n :: treeLevels fuel ((n + 6) / 7)

/-- The levels of a range's tree on one stack. -/
def levelsOf (c : RangeCfg) : List Nat := treeLevels 20 ((framesPerStack c + 6) / 7)

/-- The k-th line of the metadata region that lies on a stack: its line number. -/
def metaLine (c : RangeCfg) (stack k : Nat) : Nat :=
  let g := c.base + dataSize c + k / 16 * 8192
  let j := ((List.range 8).find? fun j => stackOf (g + j * 1024) == stack).getD 0
  (g + j * 1024) / 64 + k % 16

/-- The lines of MACs of a range on one stack. -/
def macLines (c : RangeCfg) : Nat := (framesPerStack c + 7) / 8

/-- The line number of a MAC line or tree node; level 0 is a leaf. -/
def nodeLine (c : RangeCfg) (stack : Nat) (mac : Bool) (level index : Nat) : Nat :=
  if mac then metaLine c stack index
  else metaLine c stack (macLines c + ((levelsOf c).take level).foldl (· + ·) 0 + index)

/-- The node of a level above a frame. -/
def nodeOf (i level : Nat) : Nat := i / 7 ^ (level + 1)

/-- Whether a failed node lies above a frame. -/
def nodeCovers (f : FailedNode) (n stack i : Nat) : Bool :=
  f.range == n && f.stack == stack && (if f.mac then i / 8 == f.index else nodeOf i f.level == f.index)

/-- The level that a failed node is logged with: a leaf is level 1, and a MAC line 0 (R323: a node of 7^3 frames is level 3). -/
def logLevel (f : FailedNode) : Nat := if f.mac then 0 else f.level + 1

/-- The failed node above a frame, as the level it is logged with; none where the path is sound (R322). -/
def failedAbove (s : State) (n stack i : Nat) : Option Nat :=
  if s.mem.allFailed.contains (n, stack) then some 0
  else (s.mem.nodes.find? fun f => nodeCovers f n stack i).map logLevel

/-- Frames beneath a node. -/
def framesUnder (c : RangeCfg) (mac : Bool) (level index : Nat) : Nat :=
  let w := if mac then 8 else 7 ^ (level + 1)
  min w (framesPerStack c - index * w)

/-- Enter a node in the failed-node list; one that would overflow it marks every frame of the range on the stack (R322). -/
def failNode (s : State) (n : Nat) (f : FailedNode) : State :=
  let m := s.mem
  let m' :=
    if 64 ≤ (m.nodes.filter fun x => x.stack == f.stack).length then
      { m with allFailed := if m.allFailed.contains (n, f.stack) then m.allFailed else (n, f.stack) :: m.allFailed }
    else { m with nodes := f :: m.nodes }
  stLog { s with mem := m' }
    { logBlank with
      status := .memUnverifiable, kind := 2, unit := 64 + f.stack, range := n, stack := f.stack
      count := framesUnder (rangeCfg s n) f.mac f.level f.index, detail := logLevel f }

/-! ### The counter cache (R317) -/

/-- Lines that the counter cache of one controller holds: 16 MiB. -/
def cacheLines : Nat := 2 ^ 18

/-- Whether an entry of the cache is a given line. -/
def cacheIs (n stack : Nat) (mac : Bool) (level index : Nat) (x : CacheLine) : Bool :=
  x.range == n && x.stack == stack && x.mac == mac && x.level == level && x.index == index

/-- The resident entry of a line. -/
def cacheGet (m : Mem) (n stack : Nat) (mac : Bool) (level index : Nat) : Option CacheLine := m.cache.find? (cacheIs n stack mac level index)

/-- Change the resident entry of a line. -/
def cacheMod (m : Mem) (n stack : Nat) (mac : Bool) (level index : Nat) (f : CacheLine → CacheLine) : Mem :=
  { m with cache := m.cache.map fun x => if cacheIs n stack mac level index x then f x else x }

/-- The key of the counter that a node's parent, or the root, holds for it. -/
def nodeCounter (s : State) (n stack level index : Nat) : Nat := 2 ^ 40 + nodeLine (rangeCfg s n) stack false level index

/-- The frame that a merge entry holds, as its local index, where it lies in a range on a stack. -/
def heldFrame (s : State) (n stack : Nat) (e : MergeEntry) : Option Nat :=
  if e.sealed && e.stack == stack && rangeAny s (64 * e.key) == some n then some (frameIndex (rangeCfg s n) (64 * e.key)) else none

/-- Whether a resident line may be evicted: no node beneath it is resident, no frame beneath it is held in the merge buffer, and its
parent's counter for it is not all ones (R317, log entry 24). -/
def evictable (s : State) (x : CacheLine) : Bool :=
  (x.mac || smGet 0 s.mem.counters (nodeCounter s x.range x.stack x.level x.index) != 2 ^ 64 - 1) &&
  !(s.mem.cache.any fun y => !x.mac && !y.mac && y.range == x.range && y.stack == x.stack && y.level + 1 == x.level && y.index / 7 == x.index) &&
  !(s.mem.merge.any fun e =>
    match heldFrame s x.range x.stack e with
    | some i => if x.mac then i / 8 == x.index else x.level == 0 && nodeOf i 0 == x.index
    | none => false)

/-- Raise a counter. -/
def counterUp (m : Mem) (k : Nat) : Mem := { m with counters := smPut 0 m.counters k (smGet 0 m.counters k + 1) }

/-- Drop a line from the cache. -/
def cacheDrop (m : Mem) (x : CacheLine) : Mem :=
  { m with cache := m.cache.filter fun y => !(cacheIs x.range x.stack x.mac x.level x.index y) }

/-- A resident line written back with the bits of it that are wrong, under fresh check bits. -/
def badPut (m : Mem) (line bad : Nat) : Mem :=
  linePut m line (BitVec.ofNat 512 bad, BitVec.ofNat 64 (maskOf (badRows 16 bad 0) + 2 ^ 16 * maskOf (badCols 16 bad 0)))

/-- Memory after a dirty line has been written back: a node raises its parent's counter for it first; a MAC line has none (R317). -/
def lineBack (s : State) (x : CacheLine) (m : Mem) : Mem :=
  let line := nodeLine (rangeCfg s x.range) x.stack x.mac x.level x.index
  if x.mac then badPut m line x.bad
  else
    badPut (cacheMod (counterUp m (nodeCounter s x.range x.stack x.level x.index)) x.range x.stack false (x.level + 1) (x.index / 7)
      fun y => { y with dirty := true }) line x.bad

/-- Evict a line: written back if it is dirty, and dropped. -/
def evict (s : State) (x : CacheLine) : State :=
  { s with mem := if x.dirty then lineBack s x (cacheDrop s.mem x) else cacheDrop s.mem x }

/-- Whether a stack's cache is full. -/
def cacheFull (m : Mem) (stack : Nat) : Bool := decide (cacheLines ≤ (m.cache.filter fun y => y.stack == stack).length)

/-- Whether a resident node lies on the path of a frame: it stays while the rest of the path is fetched (R317). -/
def onPath (n stack frame : Nat) (y : CacheLine) : Bool :=
  y.range == n && y.stack == stack && !y.mac && y.index == nodeOf frame y.level

/-- Make room in a full cache for a line of the path of a frame: evict a line that it may, which one no rule says. -/
def cacheRoom (s : State) (n stack frame : Nat) : State :=
  let cands := s.mem.cache.filter fun y => y.stack == stack && evictable s y && !(onPath n stack frame y)
  if cacheFull s.mem stack then
    match cands[(freeAt s 0).toNat % cands.length]? with
    | some v => freeUse (evict s v) 1
    | none => s
  else s

/-- Enter a line in the cache unless it is full. -/
def cachePut (m : Mem) (x : CacheLine) : Mem := if cacheFull m x.stack then m else { m with cache := m.cache ++ [x] }

/-- Bring a line of the path of a frame into the cache of its stack. -/
def cacheAdd (s : State) (frame : Nat) (x : CacheLine) : State :=
  let t := cacheRoom s x.range x.stack frame
  { t with mem := cachePut t.mem x }

/-- Count a look-up of the counter cache. -/
def cacheCount (s : State) (stack : Nat) (hit : Bool) : State :=
  { s with ciph := if hit then { s.ciph with hits := modAt s.ciph.hits stack fun k => (k + 1) % 2 ^ 64 }
                   else { s.ciph with misses := modAt s.ciph.misses stack fun k => (k + 1) % 2 ^ 64 } }

/-- Whether the resident parent of a node holds wrong counters. -/
def parentBad (m : Mem) (n stack level index : Nat) : Bool :=
  (cacheGet m n stack false (level + 1) (index / 7)).any fun y => y.bad != 0

/-- Fetch one metadata line of the path of a frame into the cache: the wrong bits it holds, or none where it cannot be trusted. A bad counter
line or a node whose MAC no longer fits fails; a MAC line fails only when the code cannot mend it (Table 12-7). -/
def fetchNode (quiet : Bool) (s : State) (n stack frame : Nat) (mac : Bool) (level index : Nat) : State × Option Nat :=
  let r := lineRead quiet s.mem (nodeLine (rangeCfg s n) stack mac level index)
  let s' := cacheCount { s with mem := r.1 } stack false
  if r.2.bad || r.2.tagBad || (!mac && (r.2.data != 0 || parentBad s.mem n stack level index)) then (failNode s' n ⟨n, stack, mac, level, index⟩, none)
  else (cacheAdd s' frame { range := n, stack := stack, mac := mac, level := level, index := index, bad := if mac then r.2.data else 0 }, some r.2.data)

/-- Make the node of a level above a frame resident: from the highest level missing down (R317, R318). `k` counts the levels from it to
the top one. The second component tells whether it can be trusted. -/
def ensureNode (quiet : Bool) (n stack i : Nat) : Nat → Nat → State → State × Bool
  | 0, _, s => (s, true)
  | k + 1, level, s =>
    match cacheGet s.mem n stack false level (nodeOf i level) with
    | some _ => (cacheCount s stack true, true)
    | none =>
      let r := ensureNode quiet n stack i k (level + 1) s
      if r.2 then
        let t := fetchNode quiet r.1 n stack i false level (nodeOf i level)
        (t.1, t.2.isSome)
      else (r.1, false)

/-- The path of a frame: the level of the failed node above it, if there is one, and the wrong bits of its MAC line (R318). A resident
leaf or MAC line is used at once. -/
def fetchPath (quiet : Bool) (s : State) (n a : Nat) : State × Option Nat × Nat :=
  let c := rangeCfg s n
  let stack := stackOf a
  let i := frameIndex c a
  match failedAbove s n stack i with
  | some l => (s, some l, 0)
  | none =>
    let d := ensureNode quiet n stack i (levelsOf c).length 0 s
    if d.2 then
      match cacheGet d.1.mem n stack true 0 (i / 8) with
      | some x => (cacheCount d.1 stack true, none, x.bad)
      | none =>
        let r := fetchNode quiet d.1 n stack i true 0 (i / 8)
        match r.2 with
        | some b => (r.1, none, b)
        | none => (r.1, some 0, 0)
    else (d.1, some ((failedAbove d.1 n stack i).getD 0), 0)

/-- A word of a resident line is uncorrectable (Table 12-7): the line is dropped without write-back and entered as failed. -/
def cacheLost (s : State) (stack place : Nat) : State :=
  match (s.mem.cache.filter fun x => x.stack == stack)[place]? with
  | none => s
  | some x =>
    failNode { s with mem := cacheDrop s.mem x } x.range
      ⟨x.range, x.stack, x.mac, x.level, x.index⟩

/-- A word with errors of a resident line is met (R294): corrected, lost with its line, or wrong data that the code does not see; of a node those
are wrong counters. -/
def cacheWord (stack place : Nat) (s : State) (w : Nat × BitVec 256 × BitVec 40) : State :=
  if bufLost w then cacheLost s stack place
  else
    match (s.mem.cache.filter fun x => x.stack == stack)[place]? with
    | none => s
    | some x =>
      { s with mem := cacheMod s.mem x.range x.stack x.mac x.level x.index fun y =>
          { y with bad := y.bad ^^^ bufMissed w * 2 ^ (256 * (w.1 % 2)) } }

/-- The counters on a frame's path: the frame's own, and each node's held by its parent. -/
def pathCounters (s : State) (n a : Nat) : List Nat :=
  let c := rangeCfg s n
  let i := frameIndex c a
  a / 256 :: (List.range (levelsOf c).length).map fun l => 2 ^ 40 + nodeLine c (stackOf a) false l (nodeOf i l)

/-- Whether a counter on the path is all ones (R319). -/
def pathExhausted (s : State) (n a : Nat) : Bool :=
  (pathCounters s n a).any fun k => smGet 0 s.mem.counters k == 2 ^ 64 - 1

/-! ### Key selection (R326) -/

/-- Whether a line carries the current key's generation bit. -/
def lineFresh (k : RangeKey) (line : Nat) : Bool := k.walk != 2 || runHas k.fresh line

/-- The key a read selects: some true for the key the line is enciphered under, some false for the other held key, none
where no held key carries its generation bit. -/
def keySelect (k : RangeKey) (line : Nat) (flip : Bool) : Option Bool :=
  let fresh := lineFresh k line
  let current := fresh != flip
  if current then some (!flip)
  else if k.prevValid && !k.prevStruck then some (!flip) else none

/-! ### Reads of a unit -/

/-- Who makes an access, for the error log. -/
structure Who where
  space : Nat := 0xFF
  ctx : Nat := 0xFFFF
deriving DecidableEq, Repr

/-- The context a log entry may show: none for a party range in a Shared rig (R470). -/
def logCtx (s : State) (n : Nat) (w : Who) : Nat :=
  if isShared s && (rangeCfg s n).ownerSet != 0 then 0xFFFF else w.ctx

/-- Log a failed read or write of memory (R299, R469). -/
def logMem (s : State) (w : Who) (n stack : Nat) (st : Status) (level : Nat) : State :=
  stLog s { logBlank with
    status := st, kind := if st = .counterExhausted then 3 else 1, unit := 64 + stack, space := w.space, range := n
    stack := stack, context := logCtx s n w, detail := if st = .memUnverifiable then level else 0 }

/-- What a read of a unit gave: the state after it, a status, and the 16-byte blocks whose data no rule gives. -/
structure UnitRead where
  st : State
  status : Status
  level : Nat
  open_ : List Nat

/-- Read the lines of a unit from line `line`, `k` of them: the parity code first (R291 to R293). -/
def readLines (quiet : Bool) : Nat → Nat → Mem → Mem × List LineSt
  | 0, _, m => (m, [])
  | k + 1, line, m =>
    let x := lineRead quiet m line
    let r := readLines quiet k (line + 1) x.1
    (r.1, x.2 :: r.2)

/-- The blocks of 16 bytes that a wrong data mask touches, numbered from `b`. -/
def openBlocks (b data : Nat) : List Nat := ((List.range 4).filter fun j => data / 2 ^ (128 * j) % 2 ^ 128 != 0).map (b + ·)

/-- Read a unit of range n at an address (R293, R299, R318, R326), for a scrub where `quiet` is set; the merge buffer is consulted by the
caller. -/
def readUnit (quiet : Bool) (s : State) (n a : Nat) : UnitRead :=
  let c := rangeCfg s n
  let k := rangeKey s n
  let line := a / 64
  let r := readLines quiet (unitBytes c / 64) line s.mem
  let s1 := { s with mem := r.1 }
  if r.2.any fun l => l.bad || l.tagBad then ⟨s1, .memUncorrectable, 0, []⟩
  else if c.mode = 2 then
    let p := fetchPath quiet s1 n a
    match p.2.1 with
    | some lvl => ⟨p.1, .memUnverifiable, lvl, []⟩
    | none =>
      let flips := r.2.map (·.kgenFlip)
      let agree := flips.all (· == true) || flips.all (· == false)
      let macBits := p.2.2 / 2 ^ (64 * (frameIndex c a % 8)) % 2 ^ 64
      let sel := keySelect k line (flips.headD false)
      let leafBad := (cacheGet p.1.mem n (stackOf a) false 0 (nodeOf (frameIndex c a) 0)).any fun y => y.bad != 0
      if !agree || leafBad then ⟨p.1, .memIntegrity, 0, []⟩
      else if sel = none then ⟨p.1, .keyAbsent, 0, []⟩
      else if sel = some false || r.2.any (fun l => l.data != 0) || macBits != 0 then ⟨p.1, .memIntegrity, 0, []⟩
      else ⟨p.1, .ok, 0, []⟩
  else
    match keySelect k line ((r.2.map (·.kgenFlip)).headD false) with
    | none => ⟨s1, .keyAbsent, 0, []⟩
    | some true => ⟨s1, .ok, 0, openBlocks 0 ((r.2.map (·.data)).headD 0)⟩
    | some false => ⟨s1, .ok, 0, [0, 1, 2, 3]⟩

/-- Whether the merge buffer holds a unit. -/
def mergeHas (m : Mem) (key : Nat) : Bool := m.merge.any fun e => e.key == key

/-- Wrong bits of held words that the code does not see: their bytes are wrong from then on. -/
def mergeFlip (m : Mem) (key : Nat) (x : BufErr) : Mem :=
  { m with cells := x.foldl (fun c w =>
      if bufMissed w = 0 then c
      else putBytes c (64 * key + 32 * w.1) (bufFlip [w] (32 * w.1) (cellBytes c (64 * key + 32 * w.1) 32))) m.cells }

/-- Read n bytes from offset `off` of a held unit: its words with errors there are mended, or are uncorrectable, which the second
component tells (R294). -/
def mergeMeet (m : Mem) (key off n : Nat) : Mem × Bool :=
  match m.merge.find? fun e => e.key == key with
  | none => (m, false)
  | some e =>
    let hit := e.err.filter fun w => decide (32 * w.1 < off + n) && decide (off < 32 * w.1 + 32)
    ({ m with merge := m.merge.map fun x =>
        if x.key = key then { x with err := x.err.filter fun w => !(hit.contains w) || bufLost w } else x }, bufBad hit)

/-- Words of a held unit go wrong (R294): the code will see some of them, and the others let wrong data through. -/
def mergeUpset (m : Mem) (key : Nat) (x : BufErr) : Mem :=
  if mergeHas m key then
    let m1 := mergeFlip m key x
    { m1 with merge := m1.merge.map fun e => if e.key = key then { e with err := e.err ++ x.filter fun w => bufMissed w = 0 } else e }
  else m

/-- Count a failed access in its range's registers and log it. -/
def failRange (s : State) (w : Who) (n a : Nat) (st : Status) (level : Nat) : State :=
  let s' := { s with ciph := rangeKeyMod s.ciph n fun k =>
    match st with
    | .memIntegrity => { k with macFail := satAdd 16 k.macFail 1 }
    | .memUnverifiable => { k with unver := satAdd 16 k.unver 1 }
    | .counterExhausted => { k with exhausted := satAdd 16 k.exhausted 1 }
    | _ => k }
  if st = .keyAbsent then s' else logMem s' w n (stackOf a) st level

/-! ### Control areas (R369, R373, R386) -/

/-- The pages that n bytes at an address touch. -/
def pagesOf (v n : Nat) : List Nat :=
  if n = 0 then [] else (List.range ((v + n - 1) / 2 ^ 21 - v / 2 ^ 21 + 1)).map fun i => v / 2 ^ 21 + i

/-- The object of a space whose extents cover a page, and the page's frame. -/
def objAt (s : State) (space vpn : Nat) : Option (Obj × Nat) :=
  s.sp.objs.findSome? fun o =>
    if o.space = space then
      (o.pages.find? fun e => decide (e.vpn ≤ vpn) && decide (vpn < e.vpn + e.n)).map fun e => (o, e.ppn + (vpn - e.vpn))
    else none

/-- Bytes of a space's control area, a multiple of 2 MiB (R369). -/
def ctlBytes (qCtx qQueue qObj qFence qL2 : Nat) : Nat :=
  (2 ^ 21 + 4096 * qL2 + 64 * qCtx + 64 * qQueue + 32 * qObj + 128 * qFence + 2 ^ 21 - 1) / 2 ^ 21 * 2 ^ 21

/-- Pages [first, last) of a space's control area. -/
def ctlPages (s : State) (x : Space) : Nat × Nat :=
  let a := ((rangeCfg s x.ctlRange).base + x.ctlOffset * 2 ^ 21) / 2 ^ 21
  (a, a + ctlBytes x.qCtx x.qQueue x.qObj x.qFence x.qL2 / 2 ^ 21)

/-- Whether a run of pages maps the whole GiB g of space addresses as one aligned GiB (R374). -/
def wholeGib (e : Extent) (g : Nat) : Bool :=
  decide (e.vpn ≤ g * 512) && decide ((g + 1) * 512 ≤ e.vpn + e.n) && (e.ppn + (g * 512 - e.vpn)) % 512 == 0

/-- The GiB of its space addresses for which a space needs a second-level table, rising: those that hold a 2 MiB leaf (R373, R374). A 1 GiB
leaf takes none. -/
def l2Regions (objs : List Obj) (slot : Nat) : List Nat :=
  let es := (objs.filter fun o => o.space == slot).flatMap (·.pages)
  sortBy (fun a b => decide (a ≤ b)) ((es.flatMap fun e =>
    ((List.range ((e.vpn + e.n - 1) / 512 - e.vpn / 512 + 1)).map (e.vpn / 512 + ·)).filter fun g => !(wholeGib e g)).eraseDups)

/-- Second-level tables that a space's objects need. -/
def l2Used (objs : List Obj) (slot : Nat) : Nat := (l2Regions objs slot).length

/-- A leaf entry (Table 14-4) of the page whose first 2 MiB are at physical page `ppn`, by the index of its object. -/
def pageLeaf (o : Obj) (ppn : Nat) : Word := packWord [(1, 1), (0, 1), (o.range, 5), (0, 5), (ppn * 2 ^ 9, 36), (o.idx % 2 ^ 16, 16)]

/-- An entry of a second-level table: the 2 MiB leaf of a page of a space, 0 where it is not valid (R373). -/
def pageEntry (s : State) (slot vpn : Nat) : Word := ((objAt s slot vpn).map fun e => pageLeaf e.1 e.2).getD 0

/-- An entry of the root table of a space (R373): a 1 GiB leaf where the GiB is mapped whole and aligned, the pointer to its second-level
table where it holds 2 MiB leaves; 0 where it is not valid. The tables stand in the order of their GiB (log entry 119). -/
def rootEntry (s : State) (slot g : Nat) : Word :=
  let x := s.sp.slots.getD slot {}
  match (l2Regions s.sp.objs slot).findIdx? (· == g) with
  | some k => packWord [(1, 1), (1, 1), (x.ctlRange, 5), (0, 5), ((ctlPages s x).1 * 2 ^ 9 + 2 ^ 9 + k, 36), (0, 16)]
  | none => pageEntry s slot (512 * g)

/-- The 128 bytes of a fence's entry (R386). -/
def fenceEntry (f : Fence) : List Byte :=
  let owner := match f.owner with
    | .ctx id => id
    | .space => 0xFFFF
  natLe 8 f.value.toNat ++ natLe 1 (b2n f.failed) ++ natLe 2 owner ++ List.replicate 53 0 ++ f.record

/-- Byte `o` of a table of entries of which the first `used` are in use: no rule gives what such an entry of a context, a queue or an object
holds (R369; log entry 119). -/
def entryByte (s : State) (used size o : Nat) : Byte := if o / size < used then (freeAt s o).truncate 8 else 0

/-- Byte `o` of the control area of a live space: root table, second-level tables, then the entries of contexts, queues, objects and fences,
in the order of R369 (log entry 119). -/
def ctlByte (s : State) (slot o : Nat) : Byte :=
  let x := s.sp.slots.getD slot {}
  let t1 := 2 ^ 21
  let t2 := t1 + 4096 * x.qL2
  let t3 := t2 + 64 * x.qCtx
  let t4 := t3 + 64 * x.qQueue
  let t5 := t4 + 32 * x.qObj
  let wordByte := fun (w : Word) => (natLe 8 w.toNat).getD (o % 8) 0
  if o < t1 then wordByte (rootEntry s slot (o / 8))
  else if o < t2 then
    match (l2Regions s.sp.objs slot)[(o - t1) / 4096]? with
    | some g => wordByte (pageEntry s slot (512 * g + (o - t1) % 4096 / 8))
    | none => 0
  else if o < t3 then entryByte s (s.sp.ctxs.filter fun c => c.space == slot).length 64 (o - t2)
  else if o < t4 then entryByte s (s.sp.queues.filter fun q => q.space == slot).length 64 (o - t3)
  else if o < t5 then entryByte s (s.sp.objs.filter fun y => y.space == slot).length 32 (o - t4)
  else
    match (s.sp.fences.filter fun f => f.space == slot)[(o - t5) / 128]? with
    | some f => (fenceEntry f).getD ((o - t5) % 128) 0
    | none => 0

/-- The slot in whose control area an address lies. -/
def ctlSlot (s : State) (a : Nat) : Option Nat := s.sp.slots.findIdx? fun x => x.state != 0 && runHas [ctlPages s x] (a / 2 ^ 21)

/-- Whether n bytes at an address touch a control area, which only the module reads or writes (R369). -/
def ctlHit (s : State) (a n : Nat) : Bool := (pagesOf a n).any fun p => (ctlSlot s (p * 2 ^ 21)).isSome

/-- The plaintext of n bytes of one unit: in the control area of a live space, its tables. -/
def storedBytes (s : State) (a n : Nat) : List Byte :=
  match ctlSlot s a with
  | none => cellBytes s.mem.cells a n
  | some slot =>
    let x := s.sp.slots.getD slot {}
    if x.state = 3 then cellBytes s.mem.cells a n
    else (List.range n).map fun i => ctlByte s slot (a + i - (ctlPages s x).1 * 2 ^ 21)

/-- The bytes of a unit with the blocks that no rule gives replaced by free bytes. -/
def unitBytesOf (s : State) (a size : Nat) (blocks : List Nat) : List Byte :=
  let good := storedBytes s a size
  let free := freeBytes s size
  (List.range size).map fun i => if blocks.contains (i / 16) then free.getD i 0 else good.getD i 0

/-- What a read of bytes gave. -/
structure MemRead where
  st : State
  status : Status
  bytes : List Byte
  range : Nat

/-- Read `size` bytes at `a`, all in one unit of range n. -/
def readInUnit (s : State) (w : Who) (n a size : Nat) : MemRead :=
  let c := rangeCfg s n
  let base := a / unitBytes c * unitBytes c
  if mergeHas s.mem (base / 64) then
    let h := mergeMeet s.mem (base / 64) (a - base) size
    let t := { s with mem := h.1 }
    if h.2 then ⟨failRange t w n base .memUncorrectable 0, .memUncorrectable, [], n⟩ else ⟨t, .ok, cellBytes h.1.cells a size, n⟩
  else
    let r := readUnit false s n base
    if r.status = .ok then
      if r.open_.isEmpty then ⟨r.st, .ok, storedBytes r.st a size, n⟩
      else
        ⟨freeUse r.st (unitBytes c), .ok,
          ((unitBytesOf r.st base (unitBytes c) r.open_).drop (a - base)).take size, n⟩
    else ⟨failRange r.st w n base r.status r.level, r.status, [], n⟩

/-- Read bytes by physical address, unit by unit, up to the first failure; `fuel` bounds the units. -/
def readPhysF (w : Who) : Nat → Nat → Nat → State → MemRead
  | 0, _, _, s => ⟨s, .ok, [], 255⟩
  | fuel + 1, a, size, s =>
    if size = 0 then ⟨s, .ok, [], 255⟩
    else
      match accessCheck s a 1, rangeAt s a with
      | none, some n =>
        let u := unitBytes (rangeCfg s n)
        let k := min size (u - a % u)
        let r := readInUnit s w n a k
        if r.status = .ok then
          let t := readPhysF w fuel (a + k) (size - k) r.st
          ⟨t.st, t.status, r.bytes ++ t.bytes, if t.status = .ok then n else t.range⟩
        else r
      | some st, r => ⟨s, st, [], r.getD 255⟩
      | none, none => ⟨s, .flowDenied, [], 255⟩

/-- Read bytes by physical address. -/
def readPhys (s : State) (w : Who) (a size : Nat) : MemRead := readPhysF w (size + 1) a size s

/-! ### Writes -/

/-- The controller writes k lines from a line on. -/
def linesWritten : Nat → Nat → Mem → Mem
  | 0, _, m => m
  | k + 1, line, m => linesWritten k (line + 1) (lineWritten m line)

/-- Raise a frame's counter; its leaf is left dirty in the cache, and its MAC is updated in the MAC line (R319). -/
def frameCounted (m : Mem) (c : RangeCfg) (n a : Nat) : Mem :=
  let i := frameIndex c a
  let m2 := cacheMod (counterUp m (a / 256)) n (stackOf a) false 0 (nodeOf i 0) fun x => { x with dirty := true }
  cacheMod m2 n (stackOf a) true 0 (i / 8) fun x =>
    { x with dirty := true, bad := x.bad - x.bad / 2 ^ (64 * (i % 8)) % 2 ^ 64 * 2 ^ (64 * (i % 8)) }

/-- Encipher a unit of range n and write it to HBM (R295 rule 6, R319): check bits fresh, counter raised, current key. -/
def storeUnit (s : State) (n a : Nat) : State :=
  let c := rangeCfg s n
  let k := unitBytes c / 64
  let line := a / 64
  let m := linesWritten k line { s.mem with merge := s.mem.merge.filter fun e => e.key != line }
  { s with
    mem := if c.mode = 2 then frameCounted m c n a else m
    ciph := rangeKeyMod s.ciph n fun x =>
      if x.walk = 2 then { x with fresh := runAdd x.fresh line (line + k) } else x }

/-- Lines of merge entries in use on a stack. -/
def mergeUse (m : Mem) (stack : Nat) : Nat := (m.merge.filter fun e => e.stack == stack).foldl (fun a e => a + e.lines) 0

/-- The lines of a unit that hold an uncorrectable word of its merge entry: written back, the code finds them uncorrectable too (log entry
130). -/
def poison (m : Mem) (key : Nat) (x : BufErr) : Mem :=
  (x.filter bufLost).foldl (fun m w => setFault m (key + w.1 / 2) (3, 0)) m

/-- Write a merge entry back, enciphered with fresh check bits (R295 rule 6). -/
def mergeStore (s : State) (e : MergeEntry) : State :=
  match rangeAny s (e.key * 64) with
  | some n =>
    let t := storeUnit s n (e.key * 64)
    { t with mem := poison t.mem e.key e.err }
  | none => { s with mem := { s.mem with merge := s.mem.merge.filter fun x => x.key != e.key } }

/-- Write back the oldest merge entry of a stack; nothing where it holds none. -/
def mergeOldest (s : State) (stack : Nat) : State :=
  match s.mem.merge.find? fun e => e.stack == stack with
  | none => s
  | some e => mergeStore s e

/-- Enter a unit in the merge buffer. -/
def mergeEnter (s : State) (stack key lines : Nat) : State :=
  let m := { s.mem with merge := s.mem.merge ++ [({ stack := stack, key := key, lines := lines, sealed := lines == 4 } : MergeEntry)] }
  { s with mem := { m with mergeHigh := max m.mergeHigh (mergeUse m stack) } }

/-- Hold a unit in the merge buffer, writing back the oldest entries while 448 are in use (R295). -/
def mergeHold : Nat → State → Nat → Nat → Nat → State
  | 0, s, stack, key, lines => mergeEnter s stack key lines
  | fuel + 1, s, stack, key, lines =>
    if 448 ≤ mergeUse s.mem stack then mergeHold fuel (mergeOldest s stack) stack key lines
    else mergeEnter s stack key lines

/-- Mark n bytes from offset `off` of a held unit as merged; a word written whole is good again. -/
def mergeMark (s : State) (key off n : Nat) : State :=
  { s with mem := { s.mem with merge := s.mem.merge.map fun e =>
      if e.key = key then
        { e with
          mask := e.mask ||| BitVec.ofNat 256 ((2 ^ n - 1) * 2 ^ off)
          err := e.err.filter fun w => !(decide (off ≤ 32 * w.1) && decide (32 * w.1 + 32 ≤ off + n)) }
      else e } }

/-- A mirrored range: flagged in the active rig; after a promotion, a mirror range of the twin that was (R264, R276). -/
def isMirrored (s : State) (n : Nat) : Bool :=
  decide (n < 32) && (rangeCfg s n).mode != 0 && (if s.dly.promoted then s.dly.mirrorIds.getLsbD n else (rangeCfg s n).mirrored)

/-- Set the mirror-map bits of the lines of a completed write, in a mirrored range of a primary (R267). -/
def markMirror (s : State) (n a size : Nat) : State :=
  if s.dly.role = .primary && isMirrored s n then
    { s with dly := { s.dly with
        map := runAdd s.dly.map (a / 64) ((a + size - 1) / 64 + 1), failed := runDel s.dly.failed (a / 64) ((a + size - 1) / 64 + 1) } }
  else s

/-- Put plaintext bytes in place. -/
def putPlain (s : State) (a : Nat) (bs : List Byte) : State :=
  { s with mem := { s.mem with cells := putBytes s.mem.cells a bs } }

/-- Bytes merged into a held unit. -/
def mergeBytes (s : State) (n a : Nat) (bs : List Byte) : State :=
  let u := unitBytes (rangeCfg s n)
  markMirror (mergeMark (putPlain s a bs) (a / u * u / 64) (a % u) bs.length) n a bs.length

/-- Free bytes in address runs whose contents a failure left unspecified (R195, R261). -/
def spoilRuns (s : State) (runs : List (Nat × Nat)) : State :=
  runs.foldl
    (fun t r =>
      let u := freeUse (putPlain t r.1 (freeBytes t r.2)) r.2
      match rangeAt u r.1 with
      | some n => markMirror u n r.1 r.2
      | none => u) s

/-- Write bytes, all in one unit of range n (R295, R319): the state and the status. A contribution (`via`) passes through the merge buffer
however wide it is. -/
def writeInUnit (via : Bool) (s : State) (w : Who) (n a : Nat) (bs : List Byte) : State × Status :=
  let c := rangeCfg s n
  let u := unitBytes c
  let base := a / u * u
  let full := decide (bs.length = u) && !via
  let held := mergeHas s.mem (base / 64)
  if held && !full then (mergeBytes s n a bs, .ok)
  else
    let p := if c.mode = 2 then fetchPath false s n base else (s, none, 0)
    match p.2.1 with
    | some lvl => (failRange p.1 w n base .memUnverifiable lvl, .memUnverifiable)
    | none =>
      if c.mode = 2 && pathExhausted p.1 n base then
        (failRange p.1 w n base .counterExhausted 0, .counterExhausted)
      else if full then (markMirror (storeUnit (putPlain p.1 a bs) n base) n a bs.length, .ok)
      else
        let r := readUnit false p.1 n base
        if r.status = .ok then
          let filled :=
            if r.open_.isEmpty then r.st
            else freeUse (putPlain r.st base (unitBytesOf r.st base u r.open_)) u
          (mergeBytes (mergeHold 512 filled (stackOf base) (base / 64) (u / 64)) n a bs, .ok)
        else (failRange r.st w n base r.status r.level, r.status)

/-- What a write of bytes gave. -/
structure MemWrite where
  st : State
  status : Status
  range : Nat

/-- Write bytes by physical address, unit by unit, up to the first failure. -/
def writePhysF (via : Bool) (w : Who) : Nat → Nat → List Byte → State → MemWrite
  | 0, _, _, s => ⟨s, .ok, 255⟩
  | fuel + 1, a, bs, s =>
    match bs with
    | [] => ⟨s, .ok, 255⟩
    | b :: bs' =>
      match accessCheck s a 1, rangeAt s a with
      | none, some n =>
        let u := unitBytes (rangeCfg s n)
        let k := min (bs'.length + 1) (u - a % u)
        let r := writeInUnit via s w n a ((b :: bs').take k)
        if r.2 = .ok then
          let t := writePhysF via w fuel (a + k) ((b :: bs').drop k) r.1
          ⟨t.st, t.status, if t.status = .ok then n else t.range⟩
        else ⟨r.1, r.2, n⟩
      | some st, r => ⟨s, st, r.getD 255⟩
      | none, none => ⟨s, .flowDenied, 255⟩

/-- Write bytes by physical address. -/
def writePhys (s : State) (w : Who) (a : Nat) (bs : List Byte) : MemWrite := writePhysF false w (bs.length + 1) a bs s

/-- Write contributions by physical address: all of them pass through the merge buffer (R295). -/
def mergePhys (s : State) (w : Who) (a : Nat) (bs : List Byte) : MemWrite := writePhysF true w (bs.length + 1) a bs s

/-! ### Fills (R296, R308, R328) -/

/-- The number of draws a fill takes: a salt, and for a Sealed range or the hold eight tree keys (Table 12-2). -/
def fillDraws (c : RangeCfg) : Nat := if c.mode = 2 then 9 else 1

/-- The working subkeys of a range key (Table 12-2): K1 ‖ K2 of a Veiled range, K_enc and K_mac of a Sealed one. -/
def subKeys (c : RangeCfg) (key : W256) (salt : BitVec 128) : List Byte :=
  let x := fun (label : String) => w256Bytes key ++ ascii label ++ natLe 16 salt.toNat
  if c.mode = 2 then shake256 32 (x "nirnus-seal-enc") ++ shake256 32 (x "nirnus-seal-mac") else shake256 64 (x "nirnus-veil")

/-- Wipe the memory of a range: zero plaintext, good lines, counters at 0, no failed node, no merge entry. -/
def wipeMem (m : Mem) (n : Nat) (c : RangeCfg) : Mem :=
  let lo := c.base / 64
  let hi := (c.base + c.size) / 64
  { m with
    cells := smDrop m.cells c.base (c.base + c.size)
    faults := smDrop m.faults lo hi
    counters := smDrop (smDrop m.counters (c.base / 256) ((c.base + c.size) / 256)) (2 ^ 40 + lo) (2 ^ 40 + hi)
    nodes := m.nodes.filter fun f => f.range != n
    allFailed := m.allFailed.filter fun f => f.1 != n
    cache := m.cache.filter fun x => x.range != n
    merge := m.merge.filter fun e => !(decide (lo ≤ e.key) && decide (e.key < hi)) }

/-- The key state of a range after a fill: a new salt; generation 1 with a key once the fill has
ended, 0 without (R305, R328). `walk` is the state that
CIPH_RANGE_WALK then shows. -/
def filledKey (k : RangeKey) (slot : Option Nat) (salt : BitVec 128) (walk doneMib : Nat) : RangeKey :=
  { k with
    curSlot := slot.getD 0, prevSlot := 0, prevValid := false, prevStruck := false, keyless := slot.isNone
    gen := if slot.isSome && walk != 1 then 1 else 0, salt := salt, walk := walk, doneMib := doneMib, fresh := [], walkPos := List.replicate 8 0
    subkeys := [], prevSub := [], tree := [] }

/-- The subkeys and tree keys that a fill derives and draws (R309, Table 12-2). -/
def fillSubs (s : State) (c : RangeCfg) (slot : Option Nat) (salt : BitVec 128) (k : RangeKey) : RangeKey :=
  { k with
    subkeys := (slot.map fun i => subKeys c (s.keys.slots.getD i {}).key salt).getD []
    tree := (List.range (fillDraws c - 1)).map fun i => drawAt s (i + 1) }

/-- Fill range n under the key in a slot, or keyless (R296, R308, R328). -/
def fillRange (s : State) (n : Nat) (slot : Option Nat) (walk : Nat) : State :=
  let c := rangeCfg s n
  let salt : BitVec 128 := (drawAt s 0).truncate 128
  let s' := drawUse s (fillDraws c)
  { s' with
    mem := wipeMem s'.mem n c
    ciph := rangeKeyMod s'.ciph n fun k =>
      fillSubs s c slot salt (filledKey k slot salt walk (if walk = 1 then 0 else dataSize c / 2 ^ 20)) }

/-! ### Drawn range keys and refills (R308, R328, R346) -/

/-- The lowest free slot of 128 to 255 (R346). -/
def freeDrawn (s : State) : Option Nat :=
  ((List.range 128).map (128 + ·)).find? fun i => !(s.keys.slots.getD i {}).valid

/-- A drawn range key in its slot (Tables 13-5, 13-17). -/
def drawnRangeKey (owner : BitVec 8) (n : Nat) (key : W256) : KeySlot :=
  { valid := true, use := .memRange, ownerSet := owner, locked := true, origin := 1, target := n, key := key }

/-- Set a key slot. -/
def slotPut (s : State) (i : Nat) (k : KeySlot) : State :=
  { s with keys := { s.keys with slots := s.keys.slots.set i k } }

/-- Change a key slot. -/
def slotMod (s : State) (i : Nat) (f : KeySlot → KeySlot) : State :=
  { s with keys := { s.keys with slots := modAt s.keys.slots i f } }

/-- Refill a range for which a key of its own is drawn where its key_source is 0 (R328); the walk state reads filling. -/
def refill (s : State) (n : Nat) : State :=
  let c := rangeCfg s n
  let k := rangeKey s n
  if c.keySource = 0 then
    let s1 := if k.keyless then s else slotPut s k.curSlot {}
    match freeDrawn s1 with
    | none => fillRange s1 n none 1
    | some slot =>
      fillRange (drawUse (slotPut s1 slot (drawnRangeKey c.ownerSet n (drawAt s1 0))) 1) n (some slot) 1
  else fillRange s n (if k.keyless then none else some k.curSlot) 1

/-! ### Space addresses (R373, R374) -/

/-- Whether an object still serves a command: not struck, or struck after the command's doorbell (R390). -/
def objServes (o : Obj) (door : Nat) : Bool :=
  match o.struck with
  | none => true
  | some d => decide (door ≤ d)

/-- The check of an address that a command names: BAD_DESCRIPTOR for a page that is not valid, OBJECT_STRUCK for one of an object
struck before its doorbell (R374, R381). -/
def addrCheck (s : State) (c : Cmd) (v n : Nat) : Option Status :=
  (pagesOf v n).findSome? fun p =>
    match objAt s c.space p with
    | none => some .badDescriptor
    | some (o, _) => if objServes o c.door then none else some .objectStruck

/-- The physical address of a space address; none where its page is not valid. -/
def xlate (s : State) (space v : Nat) : Option Nat := (objAt s space (v / 2 ^ 21)).map fun e => e.2 * 2 ^ 21 + v % 2 ^ 21

/-- Physical runs of n bytes at a space address, page by page. -/
def xlateRuns (s : State) (space v n : Nat) : List (Nat × Nat) :=
  (pagesOf v n).filterMap fun p =>
    let lo := max v (p * 2 ^ 21)
    let hi := min (v + n) ((p + 1) * 2 ^ 21)
    (xlate s space lo).map fun a => (a, hi - lo)

/-- The ranges that n bytes at a space address lie in. -/
def rangesOf (s : State) (space v n : Nat) : List Nat :=
  ((xlateRuns s space v n).filterMap fun r => rangeAt s r.1).eraseDups

/-- The OR of the owner sets of a list of ranges. -/
def ownersOf (s : State) (rs : List Nat) : BitVec 8 := rs.foldl (fun a r => a ||| (rangeCfg s r).ownerSet) 0

/-- Whether every range of a list may be written by a context that holds a mask (R360). -/
def ownersAllow (s : State) (rs : List Nat) (mask : BitVec 8) : Bool :=
  rs.all fun r => mask &&& ~~~(rangeCfg s r).ownerSet == 0

/-- Read physical runs in order, up to the first failure. -/
def readRuns (w : Who) : List (Nat × Nat) → State → MemRead
  | [], s => ⟨s, .ok, [], 255⟩
  | (a, n) :: rs, s =>
    let r := readPhys s w a n
    if r.status = .ok then
      let t := readRuns w rs r.st
      ⟨t.st, t.status, r.bytes ++ t.bytes, if t.status = .ok then r.range else t.range⟩
    else r

/-- Write physical runs in order, up to the first failure; contributions pass through the merge buffer (`via`). -/
def writeRuns (via : Bool) (w : Who) : List (Nat × Nat) → List Byte → State → MemWrite
  | [], _, s => ⟨s, .ok, 255⟩
  | (a, n) :: rs, bs, s =>
    let r := writePhysF via w (n + 1) a (bs.take n) s
    if r.status = .ok then
      let t := writeRuns via w rs (bs.drop n) r.st
      ⟨t.st, t.status, if t.status = .ok then r.range else t.range⟩
    else r

/-- The accessor of a command. -/
def whoOf (c : Cmd) : Who := { space := c.space, ctx := c.ctx }

/-- The die of the unit that runs a command (Table 02-1): a Reel, or 2 for Basecamp; none for work that each controller does on its own
stack. -/
def cmdDie (c : Cmd) : Option Nat :=
  if [0x02, 0x30, 0x31, 0x32, 0x33, 0x34].contains c.opcode then some (fld (cmdBody c) 0 1)
  else if [0x50, 0x51, 0x60, 0x61].contains c.opcode then some 2
  else (engineNamed c).map (· / 32)

/-- The bridges that a line of a stack crosses on its way to or from a die (R42). -/
def bridgesTo (die : Option Nat) (stack : Nat) : Nat :=
  match die with
  | none => 0
  | some d => if d = 2 then 1 else if d = stack / 4 then 0 else 2

/-- The charge, in pJ, for the line at an address that a command reads or writes (R420): 18 pJ a byte of line data, 4 pJ a byte
enciphered or deciphered by its range's line cipher, and at both ends of each bridge crossed. -/
def lineCharge (s : State) (die : Option Nat) (a : Nat) : Nat :=
  64 * (18 + (if (rangeAt s a).isSome then 4 else 0) + 8 * bridgesTo die (stackOf a))

/-- The charge for physical runs of bytes, line by line. -/
def runCharge (s : State) (die : Option Nat) (runs : List (Nat × Nat)) : Nat :=
  (runs.flatMap fun r => if r.2 = 0 then [] else (List.range ((r.1 + r.2 - 1) / 64 - r.1 / 64 + 1)).map fun i =>
    lineCharge s die (64 * (r.1 / 64 + i))).foldl (· + ·) 0

/-- Attribute energy to a command, in pJ (R420). -/
def chargePj (s : State) (cid pj : Nat) : State := { s with sp := cmdMod s.sp cid fun x => { x with pj := x.pj + pj } }

/-- Count the HBM bytes of a command in its context, and charge the command for their lines (R394, R420). -/
def countHbm (s : State) (c : Cmd) (runs : List (Nat × Nat)) (rd wr : Nat) : State :=
  chargePj { s with sp := ctxMod s.sp c.ctx fun x => { x with hbmRead := x.hbmRead + rd, hbmWritten := x.hbmWritten + wr } } c.id
    (runCharge s (cmdDie c) runs)

/-- Read n bytes at a space address for a command. -/
def readSpace (s : State) (c : Cmd) (v n : Nat) : MemRead :=
  let r := readRuns (whoOf c) (xlateRuns s c.space v n) s
  { r with st := countHbm r.st c (xlateRuns s c.space v n) n 0 }

/-- Write bytes at a space address for a command, as contributions or not. -/
def putSpace (via : Bool) (s : State) (c : Cmd) (v : Nat) (bs : List Byte) : MemWrite :=
  let r := writeRuns via (whoOf c) (xlateRuns s c.space v bs.length) bs s
  { r with st := countHbm r.st c (xlateRuns s c.space v bs.length) 0 bs.length }

/-- Write bytes at a space address for a command. -/
def writeSpace (s : State) (c : Cmd) (v : Nat) (bs : List Byte) : MemWrite := putSpace false s c v bs

/-- Write a contribution at a space address for a command (R295). -/
def mergeSpace (s : State) (c : Cmd) (v : Nat) (bs : List Byte) : MemWrite := putSpace true s c v bs

/-- Read several spans of space addresses in order, up to the first failure: the bytes of each. -/
def readSpans (c : Cmd) : List (Nat × Nat) → State → State × Status × Nat × List (List Byte)
  | [], s => (s, .ok, 255, [])
  | (v, n) :: rest, s =>
    let r := readSpace s c v n
    if r.status = .ok then
      let t := readSpans c rest r.st
      (t.1, t.2.1, t.2.2.1, r.bytes :: t.2.2.2)
    else (r.st, r.status, r.range, [])

/-- Write several spans in order, up to the first failure. -/
def writeSpans (c : Cmd) : List (Nat × List Byte) → State → MemWrite
  | [], s => ⟨s, .ok, 255⟩
  | (v, bs) :: rest, s =>
    let r := writeSpace s c v bs
    if r.status = .ok then
      let t := writeSpans c rest r.st
      t
    else r

/-- OR owner sets into a context's provenance mask (R357). -/
def addMask (s : State) (ctx : Nat) (m : BitVec 8) : State :=
  { s with sp := ctxMod s.sp ctx fun x => { x with mask := x.mask ||| m } }

/-- The owner sets of what several spans lie in. -/
def spanOwners (s : State) (slot : Nat) (spans : List (Nat × Nat)) : BitVec 8 :=
  spans.foldl (fun a p => a ||| ownersOf s (rangesOf s slot p.1 p.2)) 0

/-- The address check of several spans. -/
def spansAddr (s : State) (c : Cmd) (spans : List (Nat × Nat)) : Option Status := spans.findSome? fun p => addrCheck s c p.1 p.2

/-- The check of the spans a command reads and writes, before it reads anything (R374, R381, R360): an address that is not valid,
or struck; then a destination whose owner set does not contain the mask the command will hold. `extra` is the mask of the
on-die storage it reads. -/
def spansCheck (s : State) (c : Cmd) (extra : BitVec 8) (reads writes : List (Nat × Nat)) : Option Result :=
  match spansAddr s c (reads ++ writes) with
  | some st => some (resultOf st)
  | none =>
    let mask := ctxMask s c.ctx ||| extra ||| spanOwners s c.space reads
    match (writes.flatMap fun p => rangesOf s c.space p.1 p.2).find? fun r => mask &&& ~~~(rangeCfg s r).ownerSet != 0 with
    | some r => some (resultRange .flowDenied r)
    | none => none

/-- Read a span for a command, its owner sets ORed into the context's mask as it is read (R360). -/
def readTake (s : State) (c : Cmd) (v n : Nat) : MemRead :=
  readSpace (addMask s c.ctx (spanOwners s c.space [(v, n)])) c v n

/-! ### Accesses that wait for a fill (R308) -/

/-- A range is being filled under a key: accesses to it wait (R308). -/
def filling (s : State) (n : Nat) : Bool := (rangeKey s n).walk == 1 && !(rangeKey s n).keyless

/-- Hold an access until the fill of its range ends (R308). -/
def holdAccess (s : State) (i : Instr) : State := { s with ciph := { s.ciph with waiting := s.ciph.waiting ++ [i] } }

/-- Whether spans of a space reach a range that is being filled. -/
def spansFill (s : State) (space : Nat) (spans : List (Nat × Nat)) : Bool :=
  spans.any fun p => (rangesOf s space p.1 p.2).any (filling s)

/-- The admitted command with a number, if it has the opcode, does not stand still, and none of the memory it names is being filled. -/
def cmdServed (s : State) (cid opcode : Nat) (names : State → Cmd → List (Nat × Nat)) : Option Cmd :=
  (cmdReady s cid opcode).filter fun c => !(spansFill s c.space (names s c))

/-- Rows of a tensor in memory: row i at v + i · pitch. -/
def rowSpans (v pitch row m : Nat) : List (Nat × Nat) := (List.range m).map fun i => (v + i * pitch, row)

/-- Read several spans with their owner sets, up to the first failure. -/
def takeSpans (c : Cmd) : List (Nat × Nat) → State → State × Status × Nat × List (List Byte)
  | [], s => (s, .ok, 255, [])
  | (v, n) :: rest, s =>
    let r := readTake s c v n
    if r.status = .ok then
      let t := takeSpans c rest r.st
      (t.1, t.2.1, t.2.2.1, r.bytes :: t.2.2.2)
    else (r.st, r.status, r.range, [])

end Sys2Proof.Machine
end

