-- ==== Sys2Proof/Machine/Aes.lean ====
section
/-! DEFINITION. AES-256 (FIPS 197), which RANDOM and stochastic rounding name (R170, R174); GCM (NIST SP 800-38D), which prints and
the continuity check name (R279, R283); AES key wrap (RFC 3394, R284). Log entry 5: the functions are taken from the public standards. -/

namespace Sys2Proof.Machine

/-- Doubling in the field of AES. -/
def xtime (b : Byte) : Byte := if b.msb then (b <<< 1) ^^^ 0x1B else b <<< 1

/-- Product in the field of AES, over the bits of the second factor from bit 0. -/
def gmulFrom : Nat → Byte → Byte → Byte
  | 0, _, _ => 0
  | n + 1, a, b => (if b.getLsbD 0 then a else 0) ^^^ gmulFrom n (xtime a) (b >>> 1)

/-- Product in the field of AES. -/
def gmul (a b : Byte) : Byte := gmulFrom 8 a b

/-- a^(2^n − 2)-style power: the inverse as a^254, 0 for 0. -/
def ginv (a : Byte) : Byte :=
  let a2 := gmul a a
  let a4 := gmul a2 a2
  let a8 := gmul a4 a4
  let a16 := gmul a8 a8
  let a32 := gmul a16 a16
  let a64 := gmul a32 a32
  let a128 := gmul a64 a64
  gmul a128 (gmul a64 (gmul a32 (gmul a16 (gmul a8 (gmul a4 a2)))))

/-- The S-box: inverse and affine map. -/
def sboxOf (a : Byte) : Byte :=
  let i := ginv a
  i ^^^ i.rotateLeft 1 ^^^ i.rotateLeft 2 ^^^ i.rotateLeft 3 ^^^ i.rotateLeft 4 ^^^ 0x63

/-- One step of the key schedule: word i from the words before it, newest first. -/
def keyWord (ws : List (List Byte)) (i : Nat) (rcon : Byte) : List Byte :=
  let prev := ws.getD 0 []
  let back := ws.getD 7 []
  let t :=
    if i % 8 = 0 then
      match prev with
      | [a, b, c, d] => [sboxOf b ^^^ rcon, sboxOf c, sboxOf d, sboxOf a]
      | l => l
    else if i % 8 = 4 then prev.map sboxOf else prev
  (back.zip t).map fun p => p.1 ^^^ p.2

/-- Expand the key words, newest first, from word i up to 60. -/
def keyExpand : Nat → Nat → Byte → List (List Byte) → List (List Byte)
  | 0, _, _, ws => ws
  | n + 1, i, rcon, ws =>
    keyExpand n (i + 1) (if i % 8 = 0 then xtime rcon else rcon) (keyWord ws i rcon :: ws)

/-- Groups of n bytes. -/
def chunksOf (n : Nat) : Nat → List Byte → List (List Byte)
  | 0, _ => []
  | k + 1, bs => bs.take n :: chunksOf n k (bs.drop n)

/-- The 15 round keys of a 32-byte key. -/
def roundKeys (key : List Byte) : List (List Byte) :=
  let ws := (keyExpand 52 8 1 (chunksOf 4 8 key).reverse).reverse
  chunksOf 16 15 ws.flatten

/-- XOR of two byte lists. -/
def xorBytes (a b : List Byte) : List Byte := (a.zip b).map fun p => p.1 ^^^ p.2

/-- ShiftRows: byte r + 4c takes byte r + 4(c + r). -/
def shiftRows (b : List Byte) : List Byte :=
  (List.range 16).map fun i => b.getD (i % 4 + 4 * ((i / 4 + i % 4) % 4)) 0

/-- MixColumns on one column. -/
def mixColumn (c : List Byte) : List Byte :=
  match c with
  | [a, b, d, e] =>
    [xtime a ^^^ xtime b ^^^ b ^^^ d ^^^ e, a ^^^ xtime b ^^^ xtime d ^^^ d ^^^ e,
     a ^^^ b ^^^ xtime d ^^^ xtime e ^^^ e, xtime a ^^^ a ^^^ b ^^^ d ^^^ xtime e]
  | l => l

/-- The middle rounds. -/
def aesRounds : List (List Byte) → List Byte → List Byte
  | [], b => b
  | [k], b => xorBytes (shiftRows (b.map sboxOf)) k
  | k :: ks, b =>
    aesRounds ks (xorBytes ((chunksOf 4 4 (shiftRows (b.map sboxOf))).flatMap mixColumn) k)

/-- AES-256 of one 16-byte block under a 32-byte key. -/
def aes256 (key block : List Byte) : List Byte :=
  match roundKeys key with
  | [] => []
  | k :: ks => aesRounds ks (xorBytes block k)

/-! ### The inverse cipher -/

/-- The inverse of the S-box: the inverse affine map, then the inverse in the field. -/
def invSbox (a : Byte) : Byte := ginv (a.rotateLeft 1 ^^^ a.rotateLeft 3 ^^^ a.rotateLeft 6 ^^^ 0x05)

/-- Inverse ShiftRows: byte r + 4c takes byte r + 4(c − r). -/
def invShiftRows (b : List Byte) : List Byte :=
  (List.range 16).map fun i => b.getD (i % 4 + 4 * ((i / 4 + 4 - i % 4) % 4)) 0

/-- Inverse MixColumns on one column. -/
def invMixColumn (c : List Byte) : List Byte :=
  match c with
  | [a, b, d, e] =>
    [gmul 14 a ^^^ gmul 11 b ^^^ gmul 13 d ^^^ gmul 9 e, gmul 9 a ^^^ gmul 14 b ^^^ gmul 11 d ^^^ gmul 13 e,
     gmul 13 a ^^^ gmul 9 b ^^^ gmul 14 d ^^^ gmul 11 e, gmul 11 a ^^^ gmul 13 b ^^^ gmul 9 d ^^^ gmul 14 e]
  | l => l

/-- The rounds of the inverse cipher, round keys from the last but one to the first. -/
def invRounds : List (List Byte) → List Byte → List Byte
  | [], b => b
  | [k], b => xorBytes ((invShiftRows b).map invSbox) k
  | k :: ks, b => invRounds ks ((chunksOf 4 4 (xorBytes ((invShiftRows b).map invSbox) k)).flatMap invMixColumn)

/-- AES-256 deciphering of one block. -/
def aes256Inv (key block : List Byte) : List Byte :=
  match (roundKeys key).reverse with
  | [] => []
  | k :: ks => invRounds ks (xorBytes block k)

/-! ### GCM -/

/-- The n big-endian bytes of a number. -/
def natBe (n v : Nat) : List Byte := (natLe n v).reverse

/-- A number from big-endian bytes. -/
def beNat (bs : List Byte) : Nat := leNat bs.reverse

/-- The product of GHASH's field: bit 127 of a number is the field's coefficient of x^0. `n` bits of x are left, the first highest. -/
def ghashMul : Nat → Nat → Nat → Nat → Nat
  | 0, _, _, z => z
  | n + 1, x, v, z =>
    ghashMul n x (if v.testBit 0 then Nat.xor (v / 2) (225 * 2 ^ 120) else v / 2) (if x.testBit n then Nat.xor z v else z)

/-- GHASH over whole blocks: `fuel` bounds their number. -/
def ghashGo (h : Nat) : Nat → List Byte → Nat → Nat
  | 0, _, y => y
  | fuel + 1, bs, y => if bs.isEmpty then y else ghashGo h fuel (bs.drop 16) (ghashMul 128 (Nat.xor y (beNat (bs.take 16))) h 0)

/-- Bytes padded with zeros to whole blocks. -/
def padBlocks (bs : List Byte) : List Byte := bs ++ List.replicate ((16 - bs.length % 16) % 16) 0

/-- GHASH over additional data and ciphertext. -/
def ghash (h : Nat) (aad c : List Byte) : Nat :=
  let p := padBlocks aad ++ padBlocks c ++ natBe 8 (8 * aad.length) ++ natBe 8 (8 * c.length)
  ghashGo h (p.length / 16 + 1) p 0

/-- Counter mode from a counter value on: `fuel` bounds the blocks. -/
def gcmCtr (key iv : List Byte) : Nat → Nat → List Byte → List Byte
  | 0, _, _ => []
  | fuel + 1, ctr, bs =>
    if bs.isEmpty then [] else xorBytes (bs.take 16) (aes256 key (iv ++ natBe 4 ctr)) ++ gcmCtr key iv fuel (ctr + 1) (bs.drop 16)

/-- The 16-byte tag of AES-256-GCM under a 12-byte IV. -/
def gcmTag (key iv aad c : List Byte) : List Byte :=
  xorBytes (natBe 16 (ghash (beNat (aes256 key (List.replicate 16 0))) aad c)) (aes256 key (iv ++ natBe 4 1))

/-- Encipher, or decipher, under AES-256-GCM. -/
def gcmCrypt (key iv bs : List Byte) : List Byte := gcmCtr key iv (bs.length / 16 + 1) 2 bs

/-! ### Key wrap -/

/-- The six passes of RFC 3394 wrapping over the registers: t counts the steps. -/
def wrapGo (kek : List Byte) : Nat → Nat → List Byte → List (List Byte) → List Byte
  | 0, _, a, rs => a ++ rs.flatten
  | _ + 1, _, a, [] => a
  | n + 1, t, a, r :: rs =>
    let b := aes256 kek (a ++ r)
    wrapGo kek n (t + 1) (xorBytes (b.take 8) (natBe 8 t)) (rs ++ [b.drop 8])

/-- Wrap a key: 8 bytes longer than the key. -/
def keyWrap (kek key : List Byte) : List Byte :=
  wrapGo kek (6 * (key.length / 8)) 1 (List.replicate 8 0xA6) (chunksOf 8 (key.length / 8) key)

/-- The passes of unwrapping, from the last step back. -/
def unwrapGo (kek : List Byte) : Nat → List Byte → List (List Byte) → List Byte × List (List Byte)
  | 0, a, rs => (a, rs)
  | t + 1, a, rs =>
    let b := aes256Inv kek (xorBytes a (natBe 8 (t + 1)) ++ rs.getLastD [])
    unwrapGo kek t (b.take 8) (b.drop 8 :: rs.dropLast)

/-- Unwrap a key; none where the check value differs. -/
def keyUnwrap (kek w : List Byte) : Option (List Byte) :=
  let n := w.length / 8 - 1
  let r := unwrapGo kek (6 * n) (w.take 8) (chunksOf 8 n (w.drop 8))
  if r.1 = List.replicate 8 0xA6 then some r.2.flatten else none

end Sys2Proof.Machine
end

