-- ==== Sys2Proof/Machine/Approx.lean ====
section
/-! DEFINITION. The bounded operations of Table 06-1 (R159, R160): the exact result to more than 200 bits, and the F32 codes
within the bound around it. Which of those codes the silicon returns is open: `Config.approx` picks one. -/

namespace Sys2Proof.Machine

/-! ### Fixed point with 512 fraction bits -/

/-- The fraction bits. -/
def fxBits : Nat := 512

/-- 1. -/
def fxOne : Nat := 2 ^ fxBits

/-- Product. -/
def fxMul (a b : Nat) : Nat := a * b / 2 ^ fxBits

/-- Quotient; 0 for a zero divisor. -/
def fxDiv (a b : Nat) : Nat := a * 2 ^ fxBits / b

/-- A magnitude m · 2^e. -/
def fxOf (m : Nat) (e : Int) : Nat := scaleNat m (e + fxBits)

/-- Square root. -/
def fxSqrt (a : Nat) : Nat := isqrtFrom (bitLen (a * 2 ^ fxBits) / 2 + 1) 0 (a * 2 ^ fxBits)

/-- Taylor sum of e^y from term n on, `term` being y^(n−1)/(n−1)!. -/
def expTerms : Nat → Nat → Nat → Nat → Nat
  | 0, _, _, _ => 0
  | fuel + 1, n, y, term => term + expTerms fuel (n + 1) y (fxMul term y / n)

/-- Repeated squaring. -/
def fxSquares : Nat → Nat → Nat
  | 0, a => a
  | k + 1, a => fxSquares k (fxMul a a)

/-- e^y for y below 1,025. -/
def fxExp (y : Nat) : Nat := fxSquares 12 (expTerms 70 1 (y / 2 ^ 12) fxOne)

/-- e^−y. -/
def fxExpNeg (y : Nat) : Nat := fxDiv fxOne (fxExp y)

/-- Sum of z^(2k+1)/(2k+1) from k on, `p` being z^(2k+1): the inverse hyperbolic tangent of z. -/
def atanhTerms : Nat → Nat → Nat → Nat → Nat
  | 0, _, _, _ => 0
  | fuel + 1, k, zz, p => p / (2 * k + 1) + atanhTerms fuel (k + 1) zz (fxMul p zz)

/-- ln of a fixed-point number in [1, 2). -/
def fxLn1 (a : Nat) : Nat :=
  let z := fxDiv (a - fxOne) (a + fxOne)
  2 * atanhTerms 170 0 (fxMul z z) z

/-- ln 2. -/
def fxLn2 : Nat :=
  let z := fxDiv fxOne (3 * fxOne)
  2 * atanhTerms 170 0 (fxMul z z) z

/-- 2/√π to 60 digits. -/
def fxTwoRootPi : Nat := 112837916709551257389615890312154517168810125865799771368817144 * 2 ^ fxBits / 10 ^ 62

/-- Alternating sum of z^(2n+1)/(n!(2n+1)), `p` being z^(2n+1)/n!: even terms less odd ones. -/
def erfTerms : Nat → Nat → Nat → Nat → Int
  | 0, _, _, _ => 0
  | fuel + 1, n, zz, p =>
    let t : Int := p / (2 * n + 1)
    (if n % 2 = 0 then t else -t) + erfTerms fuel (n + 1) zz (fxMul p zz / (n + 1))

/-- erf z for z ≥ 0; beyond 13 it is within 2^−200 of 1. -/
def fxErf (z : Nat) : Nat :=
  if 13 * fxOne ≤ z then fxOne else min fxOne (fxMul (erfTerms 1000 0 (fxMul z z) z).toNat fxTwoRootPi)

/-! ### The exact results -/

/-- A magnitude taken as at most 1,024. -/
def fxCap (m : Nat) (e : Int) : Nat := if magCmp m e 1024 0 == .gt then 1024 * fxOne else fxOf m e

/-- e^x in fixed point. -/
def expOf (s : Bool) (m : Nat) (e : Int) : Nat := if s then fxExpNeg (fxCap m e) else fxExp (fxCap m e)

/-- The sigmoid of x. -/
def sigmoidOf (s : Bool) (m : Nat) (e : Int) : Nat := fxDiv fxOne (fxOne + expOf (!s) m e)

/-- A fixed-point number with a sign. -/
def fxNum (s : Bool) (a : Nat) : Num := .fin s a (-(fxBits : Int))

/-- The exact result of a bounded operation on a finite operand other than the special cases of Table 06-2. -/
def approxExact (op : Nat) (s : Bool) (m : Nat) (e : Int) : Num :=
  let x : Num := .fin s m e
  if op = 0x07 then (numSqrt (numDiv (.fin false 1 0) x).1).1
  else if op = 0x08 then fxNum false (expOf s m e)
  else if op = 0x09 then
    let l := log2Mag m e
    let a := fxLn1 (fxOf m (e - l))
    let k : Int := (l.natAbs * fxLn2 : Nat)
    let r : Int := (if 0 ≤ l then k else -k) + a
    fxNum (decide (r < 0)) r.natAbs
  else if op = 0x0A then
    let t := fxExp (2 * min (fxCap m e) (512 * fxOne))
    fxNum s (fxDiv (t - fxOne) (t + fxOne))
  else if op = 0x0B then fxNum s (fxErf (fxCap m e))
  else if op = 0x0C then fxNum false (sigmoidOf s m e)
  else if op = 0x0D then
    let z := fxMul (fxCap m e) (fxSqrt (fxOne / 2))
    let h := if s then fxOne - fxErf z else fxOne + fxErf z
    (numMul x (.fin false h (-(fxBits : Int) - 1))).1
  else (numMul x (fxNum false (sigmoidOf s m e))).1

/-- The bound of an operation, in ulp (Table 06-1). -/
def approxUlp (op : Nat) : Nat :=
  if op = 0x07 then 1 else if op = 0x08 || op = 0x09 then 2 else if op = 0x0D || op = 0x0E then 4 else 3

/-! ### The codes within the bound -/

/-- The largest F32 code of a magnitude not above m · 2^e; the code of ∞ from 2^128 on. -/
def f32Floor (m : Nat) (e : Int) : Nat :=
  if m = 0 then 0
  else
    let l := log2Mag m e
    if 128 ≤ l then 0x7F800000
    else
      let lsb := max (l - 23) (-149)
      encodeIeee 8 23 (.fin false (scaleNat m (e - lsb)) lsb)

/-- The F32 value of a magnitude code, ∞ read as 2^128. -/
def f32Mag (c : Nat) : Num := if c = 0x7F800000 then .fin false 1 128 else decodeIeee 8 23 c

/-- The largest signed code (magnitude code, negative below zero) of a value not above x. -/
def codeFloor (x : Num) : Int :=
  match x with
  | .fin false m e => f32Floor m e
  | .fin true m e =>
    let c := f32Floor m e
    if numEq (f32Mag c) (.fin false m e) then -(c : Int) else -((min (c + 1) 0x7F800000 : Nat) : Int)
  | _ => 0

/-- The code of a signed code. -/
def codeOfInt (n : Int) : Nat := if n < 0 then 2 ^ 31 + n.natAbs else n.natAbs

/-- An ulp of an exact value (R160). -/
def ulpOf (m : Nat) (e : Int) : Int := if m = 0 then -149 else max (log2Mag m e - 23) (-149)

/-- A bounded operation on a finite operand: one of the codes within the bound, the same for the same operand. -/
def approxCode (op : Nat) (x : W32) (y : Num) : Nat :=
  match y with
  | .fin s m e =>
    let u : Num := .fin false (approxUlp op) (ulpOf m e)
    let lo := -(codeFloor (numNeg (numSub y u).1))
    let hi := codeFloor (numAdd (.fin s m e) u).1
    codeOfInt (lo + ((Config.approx op x).toNat % (hi - lo + 1).toNat : Nat))
  | _ => 0

/-- A bounded operation: the special cases of Table 06-2, NaN in giving NaN, else a code within the bound. The second component is
its event: 1 INVALID, 2 DIVZERO, 3 OVERFLOW, 4 UNDERFLOW. -/
def approxOp (op : Nat) (x : Num) : Num × Nat :=
  match x with
  | .nan => (.nan, 0)
  | .inf s =>
    if op = 0x07 then (if s then (.nan, 1) else (.fin false 0 0, 0))
    else if op = 0x08 then (if s then .fin false 0 0 else .inf false, 0)
    else if op = 0x09 then (if s then (.nan, 1) else (.inf false, 0))
    else if op = 0x0A || op = 0x0B then (.fin s 1 0, 0)
    else if op = 0x0C then (if s then .fin false 0 0 else .fin false 1 0, 0)
    else (if s then .fin true 0 0 else .inf false, 0)
  | .fin s m e =>
    if m = 0 && op = 0x07 then (.inf s, 2)
    else if m = 0 && op = 0x09 then (.inf true, 2)
    else if m = 0 && (op = 0x0A || op = 0x0B || op = 0x0D || op = 0x0E) then (.fin s 0 0, 0)
    else if s && (op = 0x07 || op = 0x09) then (.nan, 1)
    else
      let one := numEq x (.fin false 1 0)
      let c := approxCode op (toF32 x) (approxExact op s m e)
      let v := decodeIeee 8 23 c
      (v, if !(numIsFin v) then 3 else if numIsZero v && !(op = 0x09 && one) then 4 else 0)

end Sys2Proof.Machine
end

