-- ==== Sys2Proof/Machine/Band.lean ====
section
/-! DEFINITION. Bands of a matrix engine: what a band owns, its staging region and tiles, holding masks, SRAM errors,
and the power estimates of the commands that run (files 04, 13, 16). -/

namespace Sys2Proof.Machine

/-! ### Geometry (R115) -/

/-- A band of an engine that the rig splits into `n`. -/
structure Band where
  engine : Nat
  band : Nat
  n : Nat
deriving DecidableEq, Repr

/-- The number of bands of an engine (R52). -/
def bandCount (s : State) (e : Nat) : Nat := 2 ^ (s.rig.active.bands.getD e (0, 0)).1

/-- The band that a command names. -/
def bandAt (s : State) (e b : Nat) : Band := ⟨e, b, bandCount s e⟩

/-- The space mask of an engine admits a slot. -/
def engineAllows (s : State) (e slot : Nat) : Bool := (s.rig.active.bands.getD e (0, 0)).2.getLsbD slot

/-- Engine, band and space mask are in order (Table 04-2). -/
def bandOk (s : State) (slot : Nat) (x : Band) : Bool := decide (x.engine < 64) && decide (x.band < x.n) && engineAllows s x.engine slot

/-- Physical rows of a band. -/
def bandRows (x : Band) : Nat := 256 / x.n

/-- Tiles of a band. -/
def bandTiles (x : Band) : Nat := 16 / x.n

/-- Bytes of a band's staging region. -/
def bandBytes (x : Band) : Nat := 2 ^ 23 / x.n

/-- The key of the first byte of a band's staging region. -/
def bandStg (x : Band) : Nat := x.engine * 2 ^ 23 + x.band * bandBytes x

/-- The engine-level index of a band's local tile. -/
def bandTile (x : Band) (t : Nat) : Nat := x.band * bandTiles x + t

/-- The key of an element of an engine's tile. -/
def tileKey (e t r c : Nat) : Nat := e * 2 ^ 20 + t * 2 ^ 16 + r * 256 + c

/-- The key of element (i, j) of rows that start at a band's local tile (R104). -/
def tileAt (x : Band) (base i j : Nat) : Nat := tileKey x.engine (bandTile x (base + i / 256)) (i % 256) j

/-- The number of tiles that m rows take. -/
def tilesFor (m : Nat) : Nat := (m + 255) / 256

/-- Whether a tile holds I32 elements (R105). -/
def tileIsInt (s : State) (x : Band) (t : Nat) : Bool :=
  (s.array.engines.getD x.engine {}).tileKind.getLsbD (bandTile x t)

/-- Change an engine. -/
def engineMod (a : Array) (e : Nat) (f : Engine → Engine) : Array := { a with engines := modAt a.engines e f }

/-! ### Staging and tiles -/

/-- Bytes of a band's staging region. -/
def stgBytes (s : State) (x : Band) (off n : Nat) : List Byte := cellBytes s.array.staging (bandStg x + off) n

/-- Write bytes of a band's staging region. -/
def stgPut (s : State) (x : Band) (off : Nat) (bs : List Byte) : State :=
  { s with array := { s.array with staging := putBytes s.array.staging (bandStg x + off) bs } }

/-- Element (i, j) of the tiles from a band's local tile on. -/
def tileGet (s : State) (x : Band) (base i j : Nat) : W32 := smGet 0 s.array.tiles (tileAt x base i j)

/-- Write a row of elements. -/
def tilePutRow (s : State) (x : Band) (base i : Nat) (ws : List W32) : State :=
  { s with array := { s.array with tiles := smPutRun 0 s.array.tiles (tileAt x base i 0) ws } }

/-- Write rows of elements from row i on. -/
def tilePutRows (x : Band) (base : Nat) : Nat → List (List W32) → State → State
  | _, [], s => s
  | i, r :: rs, s => tilePutRows x base (i + 1) rs (tilePutRow s x base i r)

/-- The value of a tile element: F32, or an I32 integer exactly (R105, R133). -/
def tileNum (s : State) (x : Band) (base i j : Nat) : Num :=
  let w := tileGet s x base i j
  if tileIsInt s x (base + i / 256) then numOfInt w.toInt else ofF32 w

/-- Set the kind of the tiles of m rows. -/
def tileKinds (s : State) (x : Band) (base m : Nat) (int : Bool) : State :=
  { s with array := engineMod s.array x.engine fun e =>
      { e with
        tileKind := (List.range (tilesFor m)).foldl (fun k i =>
          let b : BitVec 16 := BitVec.ofNat 16 (2 ^ bandTile x (base + i))
          if int then k ||| b else k &&& ~~~b) e.tileKind } }

/-- A tensor operand lies inside a band's region: n bytes at an offset; nothing to lie for n = 0 (Table 04-2). -/
def stgFits (x : Band) (off n : Nat) : Bool := n = 0 || decide (off + n ≤ bandBytes x)

/-- Bytes from the first byte of m rows to the end of the last one. -/
def spanOf (m pitch row : Nat) : Nat := if m = 0 || row = 0 then 0 else (m - 1) * pitch + row

/-! ### Holding masks (R358) -/

/-- OR the holding masks of what a command reads into its context's mask. -/
def holdRead (s : State) (ctx : Nat) (x : Band) (stg tile : Bool) : State :=
  let e := s.array.engines.getD x.engine {}
  addMask s ctx ((if stg then e.holdStg.getD x.band 0 else 0) ||| (if tile then e.holdTile.getD x.band 0 else 0))

/-- OR the context's mask into the holding masks of what a command wrote; the engine then holds its space's contents. -/
def holdWrite (s : State) (c : Cmd) (x : Band) (stg tile : Bool) : State :=
  if stg || tile then
    { s with array := engineMod s.array x.engine fun e =>
        { e with
          holdStg := if stg then modAt e.holdStg x.band (· ||| ctxMask s c.ctx) else e.holdStg
          holdTile := if tile then modAt e.holdTile x.band (· ||| ctxMask s c.ctx) else e.holdTile
          holder := some c.space, written := true
          stgCtx := if stg then e.stgCtx.set x.band (some c.ctx) else e.stgCtx
          tileCtx := if tile then e.tileCtx.set x.band (some c.ctx) else e.tileCtx } }
  else s

/-! ### SRAM errors (R118, R124, R294) -/

/-- What the code makes of a word of an engine's SRAM. -/
def sramClass (w : SramWord) : Nat × Bool × Bool := wordClass w.data.toNat w.chk.toNat

/-- Turn the bits of a mask in a word of an engine's accumulator memory or staging buffer. -/
def sramFlip (s : State) (e : Nat) (w : SramWord) (d : Nat) : State :=
  if d = 0 then s
  else if w.acc then
    let k := e * 2 ^ 20 + 8 * (w.word % 2 ^ 17)
    let vs := (List.range 8).map fun i => smGet 0 s.array.tiles (k + i) ^^^ BitVec.ofNat 32 (d / 2 ^ (32 * i))
    { s with array := { s.array with tiles := smPutRun 0 s.array.tiles k vs } }
  else
    let k := e * 2 ^ 23 + 32 * (w.word % 2 ^ 18)
    let vs := (List.range 32).map fun i => smGet 0 s.array.staging (k + i) ^^^ BitVec.ofNat 8 (d / 2 ^ (8 * i))
    { s with array := { s.array with staging := smPutRun 0 s.array.staging k vs } }

/-- Read a word with wrong bits: count it, and let through the wrong data that the code does not see. -/
def sramMeet (e : Nat) (s : State) (w : SramWord) : State :=
  let r := sramClass w
  let t := if r.2.2 then s else sramFlip s e w r.1
  let c := b2n r.2.1
  let u := b2n r.2.2
  { t with array := engineMod t.array e fun y =>
      if w.acc then { y with accCorr := satAdd 16 y.accCorr c, accUnc := satAdd 16 y.accUnc u }
      else { y with stgCorr := satAdd 16 y.stgCorr c, stgUnc := satAdd 16 y.stgUnc u } }

/-- Read the SRAM words with errors that a command meets. -/
def sramCount (s : State) (e : Nat) (x : SramErr) : State := x.foldl (sramMeet e) s

/-- No SRAM word with an error. -/
def noSramErr : SramErr := []

/-- An uncorrectable word was met. -/
def sramBad (x : SramErr) : Bool := x.any fun w => (sramClass w).2.2

/-- Free values in the elements of an output in tiles (R118). -/
def tileSpoil (s : State) (x : Band) (base m n : Nat) : State :=
  let rows := (List.range m).map fun i => (List.range n).map fun j => ((freeAt s (i * n + j)).truncate 32 : W32)
  freeUse (tilePutRows x base 0 rows s) (m * n)

/-- Free bytes in rows of an output in staging (log entry 42). -/
def stgSpoil (s : State) (x : Band) (off pitch row : Nat) : Nat → State
  | 0 => s
  | m + 1 =>
    let t := stgSpoil s x off pitch row m
    freeUse (stgPut t x (off + m * pitch) (freeBytes t row)) row

/-! ### Power (R417 to R422) -/

/-- Power of an energy class at point 6, in mW (R419). -/
def classMw (c : Nat) : Nat :=
  [250, 354, 500, 707, 1000, 1414, 2000, 2828, 4000, 5657, 8000, 11314, 16000, 22627, 32000, 45255].getD c 45255

/-- Relative power of an engine island's point, in thousandths (Table 16-1). -/
def relPower (k : Nat) : Nat := [280, 350, 430, 520, 630, 820, 1000, 1170].getD k 1000

/-- Clock of an engine island's point, in MHz (Table 16-1). -/
def engineMhz (k : Nat) : Nat := [400, 500, 600, 700, 800, 950, 1100, 1200].getD k 1100

/-- Whether the feeders of an engine's island stand still (R425, R452). -/
def feedersStopped (s : State) (e : Nat) : Bool :=
  let x := s.gaf.islands.getD e {}
  x.held || x.stopped

/-- What a command's context has measured of its pair of opcode and energy class. -/
def estimateOf (s : State) (c : Cmd) : Option Estimate :=
  (((ctxGet s c.ctx).map (·.ests)).getD []).find? fun e => e.opcode == c.opcode && e.energy == c.energy

/-- How many commands of a context have been measured. -/
def ctxSamples (s : State) (ctx : Nat) : Nat := (((ctxGet s ctx).map (·.ests)).getD []).foldl (fun a e => a + e.n) 0

/-- The estimate of a command at point 6, in mW: measured once 16 commands of its pair have completed, else that of its class; of a
version-1 descriptor, whose class is 15, measured once 16 commands of its context have been (R380, R420; log entry 133). -/
def estimateMw (s : State) (c : Cmd) : Nat :=
  let need := if c.v1 then decide (16 ≤ ctxSamples s c.ctx) else (estimateOf s c).any fun e => decide (16 ≤ e.n)
  match estimateOf s c with
  | some e => if need then e.mw else classMw c.energy
  | none => classMw c.energy

/-- The estimate of a command at a point. -/
def estimateAt (s : State) (c : Cmd) (k : Nat) : Nat :=
  if onEngine c.opcode then estimateMw s c * relPower k / 1000 else estimateMw s c

/-- Whether a running command draws power: a MATMUL on a held island does not. -/
def cmdDraws (s : State) (c : Cmd) : Bool :=
  cmdRunning c && !(c.opcode == 0x10 && (s.gaf.islands.getD (fld (cmdBody c) 0 6) {}).held)

/-- The draw of the references that run for a slot's rushes checks (R427). -/
def refDraw (s : State) (slot : Nat) : Nat :=
  ((s.array.rush.filterMap fun j => (cmdGet s j.cid).filter (·.space == slot)).map fun c => estimateAt s c 0).foldl (· + ·) 0

/-- The draw of a space: the estimates of its running commands at their granted points, and of its references, in mW. -/
def spaceDraw (s : State) (slot : Nat) : Nat :=
  ((s.sp.cmds.filter fun c => c.space == slot && cmdDraws s c).map fun c => estimateAt s c c.point).foldl (· + ·) (refDraw s slot)

/-- The base draw in watts (R417). -/
def baseDraw (s : State) : Nat := 300 + 3 * (s.rig.active.laneModes.filter (· != 0)).length

/-- What the budget leaves for commands, in watts. -/
def poolWatts (s : State) : Nat := s.power.budgetW - baseDraw s

/-- The allowance of a slot in mW: its share of the pool in a Shared rig, the pool in a Solo rig (R418). -/
def allowanceMw (s : State) (slot : Nat) : Nat :=
  if isShared s then
    let x := s.rig.active.spaces.getD slot {}
    if x.creatable then poolWatts s * x.share else 0
  else poolWatts s * 1000

/-- The headroom of a slot in mW (R425). -/
def headroomMw (s : State) (slot : Nat) : Nat :=
  allowanceMw s slot -
    (if isShared s then spaceDraw s slot else ((List.range 16).map (spaceDraw s)).foldl (· + ·) 0)

end Sys2Proof.Machine
end

