-- ==== Sys2Proof/Machine/Links.lean ====
section
/-! DEFINITION. Fabric links as shared operations (file 08): training, codewords, routing, the egress arbiter, link resets,
trackers and the sending of packets. -/

namespace Sys2Proof.Machine

/-! ### Links and training (R212 to R215) -/

/-- A link's state. -/
def linkOf (s : State) (n : Nat) : Link := s.fabric.links.getD n {}

/-- Change a link. -/
def linkMod (s : State) (n : Nat) (f : Link → Link) : State :=
  { s with fabric := { s.fabric with links := modAt s.fabric.links n f } }

/-- The highest mode the active rig allows a link. -/
def linkCap (s : State) (n : Nat) : Nat := s.rig.active.laneModes.getD n 0

/-- A twin link of the active rig. -/
def isTwinLink (s : State) (n : Nat) : Bool := s.rig.active.twinNamed && s.rig.active.twinLinks.getLsbD n

/-- The peer a twin link must reach: the rig's twin; a promoted module takes any peer until it is paired again (R215, R276). -/
def twinPeer (s : State) : Option Nat :=
  if s.dly.promoted then (if s.dly.state = .unpaired then none else some s.dly.partner) else some s.rig.active.twinId

/-- A link with its buffers empty that starts training, or stays down where it may not train (R214, R240). -/
def linkFresh (l : Link) (may : Bool) : Link :=
  { l with
    state := if may then 1 else 3, mode := 0, mismatch := false, rxSeq := 0, txSeq := 0, nakDue := false, build := [], replay := []
    resend := [], last := none, fails := 0, credit := 512, occ := 0, rxHave := 0, rxLeft := 0, freed := 0, sending := none, lastWin := List.replicate 4 13, lastIn := 47
    reqs := List.replicate 14 {} }

/-- Whether a link may train: not held down, and not disabled by the rig (R214). -/
def linkMay (s : State) (n : Nat) : Bool := !(linkOf s n).holdDown && linkCap s n != 0

/-- The mode a link comes up in: the highest that the rig, both capability words and the error-rate test allow; 0 where it stays
down (R213, R214). An NT-420 runs at 32 Gbit/s (R228). -/
def trainMode (cap : Nat) (p : PeerInfo) : Nat :=
  if p.laneFault ≠ 0 then 0 else min cap (min (if p.nt420 then min 1 p.maxMode else p.maxMode) p.okMode)

/-- An island that slept wakes, with a new wake epoch (R435, R436). -/
def islandWoken (s : State) (n : Nat) : State :=
  { s with gaf := { s.gaf with
      islands := modAt s.gaf.islands n fun x => if x.asleep then { x with asleep := false, epoch := (x.epoch + 1) % 2 ^ 16 } else x } }

/-- A twin link that comes up lets a refused pairing be tried again (Table 10-1, step 3). -/
def twinRaised (s : State) (n : Nat) (up : Bool) : State :=
  if up && isTwinLink s n then { s with dly := { s.dly with barred := false } } else s

/-- The steps of Table 08-2 on a link that is training. -/
def linkTrain (s : State) (n : Nat) (p : PeerInfo) : State :=
  if (linkOf s n).state = 1 && linkMay s n && p.answers then
    if isTwinLink s n && (twinPeer s).any (· != p.peerId % 4096) then
      linkMod s n fun l => { l with state := 3, mismatch := true, peerId := p.peerId % 4096, peerNt420 := p.nt420 }
    else
      let m := trainMode (linkCap s n) p
      linkMod (islandWoken (twinRaised s n (m != 0)) (72 + n)) n fun l =>
        if m = 0 then { l with state := 0, mode := 0, peerId := p.peerId % 4096, peerNt420 := p.nt420, laneFault := p.laneFault }
        else { linkFresh l true with
          state := 2, mode := m, peerId := p.peerId % 4096, peerNt420 := p.nt420, laneFault := 0, cntTrain := l.cntTrain + 1 }
  else s

/-! ### Packets -/

/-- Flits of a packet. -/
def flitsOf (p : Packet) : Nat := p.flitsM1 + 1

/-- Flits of a packet with n data bytes (R221). -/
def flitsFor (n : Nat) : Nat := 2 + (n + 31) / 32

/-- A packet with every field 0. -/
def blankPacket : Packet :=
  { type := 0, flitsM1 := 1, dst := 0, src := 0, ownerSet := 0, txn := 0, keyGen := false, hops := 0, seq := 0, range := 0
    offset := 0, bytes := 0, party := 0, system := true, echo := 0, status := 0, srcOwners := 0, first := 0, count := 0
    fmt := 0, mailbox := 0, data := [] }

/-- A MSG to a mailbox of a module (Table 08-6). Its content is the list of bytes given (log entry 50). -/
def msgPacket (dst mailbox : Nat) (data : List Byte) : Packet :=
  { blankPacket with type := 0xD, dst := dst, mailbox := mailbox, bytes := data.length, flitsM1 := flitsFor data.length - 1, data := data }

/-! ### The egress arbiter (R234 to R239) -/

/-- The class of a requester on a link (R58). -/
def linkClass (s : State) (n r : Nat) : Nat := fld (s.rig.active.classes.getD n 0).toNat (2 * r) 2

/-- Flits queued for egress on a link. -/
def queuedFlits (l : Link) : Nat :=
  l.reqs.foldl (fun a r => r.queue.foldl (fun a o => a + flitsOf o.pkt) a) 0 + (l.sending.map fun x => flitsOf x.2.1.pkt - x.2.2).getD 0

/-- A requester of a link. -/
def reqOf (l : Link) (r : Nat) : Requester := l.reqs.getD r {}

/-- Change a requester. -/
def reqMod (l : Link) (r : Nat) (f : Requester → Requester) : Link := { l with reqs := modAt l.reqs r f }

/-- The packet a requester sends next: the first of its queue; of transit packets that have not been cut, the first of the next
ingress link in round-robin order (Table 08-9). -/
def nextOut (l : Link) (r : Nat) : Option Outgoing :=
  let q := reqOf l r
  if r = 12 && q.losses = 0 then
    match (List.range 48).findSome? fun i => q.queue.find? fun o => o.via == some ((l.lastIn + 1 + i) % 48) with
    | some o => some o
    | none => q.queue.head?
  else q.queue.head?

/-- The window of the egress frame that a requester's next packet belongs to: none for transit and management (R239). -/
def windowOf (l : Link) (r : Nat) : Option Nat := if 12 ≤ r then none else (nextOut l r).map (·.space)

/-- Whether a requester can be granted: it holds a whole packet, and no backoff runs. Under strict slicing only the requesters of the
window of the one that asked count; where none asked, no packet starts. -/
def canSend (s : State) (l : Link) (asker : Option Nat) (r : Nat) : Bool :=
  !(reqOf l r).queue.isEmpty && !(reqOf l r).backoff &&
    (!s.rig.active.strict ||
      match asker with
      | some a => windowOf l r == windowOf l a
      | none => false)

/-- The winner: the highest class, and within it the next after the class's last winner (R235). -/
def egressWinner (s : State) (n : Nat) (l : Link) (asker : Option Nat) : Option Nat :=
  let cand := (List.range 14).filter fun r => canSend s l asker r
  let top := cand.foldl (fun a r => max a (linkClass s n r)) 0
  ((List.range 14).map fun i => (l.lastWin.getD top 13 + 1 + i) % 14).find? fun r => cand.contains r && linkClass s n r == top

/-- Give the link to a requester, if the peer has room for its whole packet (R219): a packet that stopped for want of credit would be cut
short. -/
def egressGrant (l : Link) (r : Nat) : Link :=
  match nextOut l r with
  | none => l
  | some o =>
    if flitsOf o.pkt ≤ l.credit then { reqMod l r fun q => { q with queue := q.queue.erase o } with sending := some (r, o, 0) } else l

/-- The arbiter on an idle link. -/
def egressArb (s : State) (n : Nat) (asker : Option Nat) (l : Link) : Link :=
  if l.state = 2 && l.sending.isNone then
    match egressWinner s n l asker with
    | some r => egressGrant l r
    | none => l
  else l

/-- Flits leave a link's ingress buffer, and their room is the peer's again (R219). -/
def ingressFree (s : State) (n flits : Nat) : State := linkMod s n fun l => { l with occ := l.occ - flits, freed := l.freed + min l.occ flits }

/-- The packet being sent has been sent whole: the pointer of its class advances, its requester's losses return to 0, and a transit packet
leaves its ingress buffer (R219, R235, R236). -/
def egressDone (s : State) (n : Nat) : State :=
  match (linkOf s n).sending with
  | none => s
  | some (r, o, _) =>
    let t := linkMod s n fun l => { reqMod l r fun q => { q with losses := 0 } with
      sending := none, lastWin := l.lastWin.set (linkClass s n r) r, lastIn := o.via.getD l.lastIn }
    match o.via with
    | some m => ingressFree t m (flitsOf o.pkt)
    | none => t

/-- One flit slot of the codeword being built: the next flit of the packet that holds the link, or of the one that wins an idle link,
else idle fill (R216, R219, R235). -/
def egressSlot (s : State) (n : Nat) : State :=
  let l := egressArb s n none (linkOf s n)
  match l.sending with
  | none => linkMod s n fun _ => { l with build := l.build ++ [none] }
  | some (r, o, k) =>
    let t := linkMod s n fun _ => { l with
      build := l.build ++ [some (o, k)], credit := l.credit - 1, sending := some (r, o, k + 1) }
    if k + 1 = flitsOf o.pkt then egressDone t n else t

/-- Several flit slots. -/
def egressSlots (n : Nat) : Nat → State → State
  | 0, s => s
  | k + 1, s => egressSlots n k (egressSlot s n)

/-- The packet being sent is cut at a flit boundary (R236). -/
def egressCut (l : Link) : Link :=
  match l.sending with
  | none => l
  | some (r, o, _) =>
    { reqMod l r fun q => { q with queue := o :: q.queue, losses := min 10 (q.losses + 1), backoff := true } with
      sending := none, cntCut := l.cntCut + 1 }

/-- Flit slots that have gone by in the codeword being built when a request comes: none says how many, but fewer than the packet being
sent has left (log entry 51). -/
def slotsGone (s : State) (l : Link) : Nat :=
  match l.sending with
  | none => 0
  | some (_, o, k) => (freeAt s 0).toNat % max 1 (min (flitsOf o.pkt - k) (17 - l.build.length))

/-- EGRESS_REQUEST (R235, R236): an idle link is granted at once, a request of a strictly higher class cuts the packet being sent at the
next flit boundary, and any other request waits for its last flit. -/
def egressRequest (s : State) (n r : Nat) : State :=
  let l := linkOf s n
  if l.state = 2 && decide (r < 14) && canSend s l (some r) r then
    match l.sending with
    | none => linkMod s n (egressArb s n (some r))
    | some (q, o, _) =>
      if linkClass s n q < linkClass s n r && (!s.rig.active.strict || (if 12 ≤ q then none else some o.space) == windowOf l r) then
        let t := egressSlots n (slotsGone s l) (freeUse s 1)
        linkMod t n fun l => egressArb t n (some r) (egressCut l)
      else s
  else s

/-- EGRESS_BACKOFF_EXPIRE (R236). -/
def egressBackoff (s : State) (n r : Nat) : State :=
  if decide (r < 14) && (reqOf (linkOf s n) r).backoff then
    linkMod s n fun l => egressArb s n (some r) (reqMod l r fun q => { q with backoff := false })
  else s

/-! ### Routing (R226) -/

/-- The up link among those that a test picks with the fewest flits queued, the lowest on a tie. -/
def bestLink (s : State) (pick : Nat → Bool) : Option Nat :=
  ((List.range 48).filter fun n => pick n && (linkOf s n).state == 2).foldl (fun best n =>
    match best with
    | none => some n
    | some b => if queuedFlits (linkOf s n) < queuedFlits (linkOf s b) then some n else some b) none

/-- The route entry of a destination; an entry with no link counts as none. -/
def routeOf (s : State) (dst : Nat) : Option Route := s.rig.active.routes[dst]?

/-- The link for a packet to a destination. -/
def pickLink (s : State) (dst : Nat) : Option Nat :=
  match routeOf s dst with
  | none => none
  | some r => (bestLink s r.primary.getLsbD).orElse fun _ => bestLink s r.alternate.getLsbD

/-- The link for a twin stream: a twin link to the partner (R215, R276). -/
def pickTwinLink (s : State) : Option Nat :=
  bestLink s fun n => isTwinLink s n && (linkOf s n).peerId == s.dly.partner

/-- Put a packet in a requester's queue on a link. -/
def enqueue (s : State) (n r : Nat) (o : Outgoing) : State :=
  linkMod s n fun l => reqMod l r fun q => { q with queue := q.queue ++ [o] }

/-! ### Trackers and sending (R222, R224, R231) -/

/-- Space slots the rig lets be created. -/
def creatableSlots (s : State) : Nat := (s.rig.active.spaces.filter (·.creatable)).length

/-- Whether a tracker is free for a share: the reserved ones, or those of the rest that a space may take. -/
def trackerFree (s : State) (reserved : Bool) (space : Nat) : Bool :=
  if reserved then decide ((s.fabric.trackers.filter (·.reserved)).length < 16384)
  else if isShared s then
    decide ((s.fabric.trackers.filter fun t => !t.reserved && t.space == space).length < 245760 / max 1 (creatableSlots s))
  else decide ((s.fabric.trackers.filter fun t => !t.reserved).length < 245760)

/-- A tracker number not in use. -/
def freeTxn (s : State) : Nat :=
  freeIndex s 262144 s.fabric.trackers.length fun i => s.fabric.trackers.any fun t => t.txn == i

/-- The key generation bit of packets sent now. -/
def sendGen (s : State) : Bool := s.keys.fabGen % 2 == 1

/-- Whether packets can be sent: a current fabric key, and a sequence number left (R224, R241). -/
def canOriginate (s : State) : Bool := s.keys.fabCur.isSome && decide (s.fabric.seq < 2 ^ 64 - 1)

/-- Note how a transaction ended, for its owner. -/
def noteEnd (f : Fabric) (o : TxnOwner) (st : Status) : Fabric :=
  if o = .message then f else { f with ended := f.ended ++ [(o, st)] }

/-- A packet with its sender's fields. -/
def stampPacket (s : State) (p : Packet) (txn : Nat) : Packet :=
  { p with src := s.rig.active.moduleId, txn := txn, keyGen := sendGen s, hops := 0, seq := s.fabric.seq }

/-- Requesters 8 to 11 use the reserved trackers. -/
def reservedReq (r : Nat) : Bool := decide (8 ≤ r) && decide (r ≤ 11)

/-- Issue a request for which a tracker is free. -/
def issue (s : State) (w : Waiting) : State :=
  if canOriginate s then
    match if w.twinOnly then pickTwinLink s else pickLink s w.pkt.dst with
    | none => { s with fabric := noteEnd s.fabric w.owner .linkDown }
    | some n =>
      let txn := freeTxn s
      let t : Tracker :=
        { txn := txn, seq := s.fabric.seq, dst := w.pkt.dst, link := n, acked := false, reserved := reservedReq w.requester
          space := w.space, owner := w.owner }
      let s1 := enqueue s n w.requester { pkt := stampPacket s w.pkt txn, txn := some txn, space := w.space }
      freeUse { s1 with fabric := { s1.fabric with
          trackers := s1.fabric.trackers ++ [t], seq := s1.fabric.seq + 1
          highWater := max s1.fabric.highWater (s1.fabric.trackers.length + 1) } } 1
  else { s with fabric := noteEnd s.fabric w.owner .keyAbsent }

/-- Issue a request, or let it wait for a tracker. -/
def request (s : State) (w : Waiting) : State :=
  if trackerFree s (reservedReq w.requester) w.space then issue s w
  else { s with fabric := { s.fabric with waiting := s.fabric.waiting ++ [w] } }

/-- Issue the requests that wait, as far as trackers allow. -/
def issueWaiting (s : State) : State :=
  s.fabric.waiting.foldl request { s with fabric := { s.fabric with waiting := [] } }

/-- Free the trackers that a test picks, and note how their transactions ended. -/
def endTxns (s : State) (f : Tracker → Bool) (st : Status) : State :=
  let gone := s.fabric.trackers.filter f
  if gone.isEmpty then s
  else
    let fab := gone.foldl (fun x t => noteEnd x t.owner st)
      { s.fabric with trackers := s.fabric.trackers.filter fun t => !(f t) }
    issueWaiting { s with fabric := fab }

/-- Send the answer of a request: RD_RSP for a read, ACK otherwise; nothing without a current key or a link (R222, R229). -/
def respond (s : State) (q : Packet) (st : Nat) (data : List Byte) (owners : BitVec 8) (requester : Nat) (space : Nat) : State :=
  if canOriginate s then
    match pickLink s q.src with
    | none => { s with fabric := { s.fabric with noRoute := satAdd 16 s.fabric.noRoute 1 } }
    | some n =>
      let p := { blankPacket with
        type := if q.type = 8 then 9 else 0xE, dst := q.src, flitsM1 := flitsFor data.length - 1, echo := q.seq, status := st
        srcOwners := owners, bytes := data.length, data := data }
      let s1 := enqueue s n requester { pkt := stampPacket s p q.txn, txn := none, space := space }
      { s1 with fabric := { s1.fabric with seq := s1.fabric.seq + 1 } }
  else s

/-! ### Codewords (R216 to R219) -/

/-- The link control field of a codeword sent (Table 08-3). -/
def controlWord (c : SentCw) : Word :=
  let bits := fun (f : Option (Outgoing × Nat) → Bool) => maskOf ((List.range 16).filter fun i => f (c.slots.getD i none))
  packWord [(c.seq, 12), (c.ack, 12), (b2n c.nak, 1), (c.credit, 7), (bits fun x => x.any fun y => y.2 == 0, 16), (bits (·.isNone), 16)]

/-- Flits of packets in a codeword. -/
def packetFlits (c : SentCw) : Nat := (c.slots.filter (·.isSome)).length

/-- The highest codeword received in order. -/
def ackNow (l : Link) : Nat := (l.rxSeq + 4095) % 4096

/-- Send the next codeword (R216, R218): one that a nak asked for again, else the one being built, its slots filled up. With 128
codewords unacknowledged the sender waits. -/
def codewordSend (s : State) (n : Nat) : State :=
  match (linkOf s n).resend with
  | c :: cs => linkMod s n fun l =>
      { l with resend := cs, nakDue := false, last := some { c with ack := ackNow l, nak := l.nakDue }, cntTx := l.cntTx + packetFlits c }
  | [] =>
    if 128 ≤ (linkOf s n).replay.length then s
    else
      linkMod (egressSlots n (16 - (linkOf s n).build.length) s) n fun l =>
        let c : SentCw := { seq := l.txSeq, ack := ackNow l, nak := l.nakDue, credit := min 127 (l.freed / 4), slots := l.build }
        { l with
          build := [], replay := l.replay ++ [c], last := some c, txSeq := (l.txSeq + 1) % 4096, nakDue := false
          freed := l.freed - 4 * c.credit, cntTx := l.cntTx + packetFlits c }

/-- The packets whose last flit a codeword holds. -/
def endsIn (c : SentCw) : List Outgoing :=
  c.slots.filterMap fun x => x.bind fun y => if y.2 = y.1.pkt.flitsM1 then some y.1 else none

/-- Mark trackers acknowledged at codeword level. -/
def ackTxns (f : Fabric) (os : List Outgoing) : Fabric :=
  { f with
    trackers := f.trackers.map fun t => if os.any fun o => o.txn == some t.txn then { t with acked := true } else t }

/-- Take an acknowledgement: codewords up to `ack` leave the replay buffer; a nak asks for all those after it again. -/
def codewordAck (s : State) (n ack : Nat) (nak : Bool) : State :=
  let l := linkOf s n
  let k := match l.replay.findIdx? fun c => c.seq == ack with
    | none => 0
    | some i => i + 1
  let rest := l.replay.drop k
  let t := linkMod s n fun l => { l with replay := rest, resend := if nak then rest else l.resend.filter rest.contains }
  { t with fabric := ackTxns t.fabric ((l.replay.take k).flatMap endsIn) }

/-- The packet coming in is cut short and discarded (R219). -/
def rxDiscard (l : Link) : Link :=
  { l with occ := l.occ - l.rxHave, freed := l.freed + l.rxHave, rxHave := 0, rxLeft := 0 }

/-- One more flit of the packet coming in; a whole packet stays in the buffer until it is consumed or has left. -/
def rxFlit (l : Link) : Link :=
  if l.rxLeft ≤ 1 then { l with occ := l.occ + 1, rxHave := 0, rxLeft := 0 }
  else { l with occ := l.occ + 1, rxHave := l.rxHave + 1, rxLeft := l.rxLeft - 1 }

/-- The flit slots of a received codeword from slot i on (R219): idle fill or a packet start cuts short the packet before it; a flit of no
packet is freed at once. `lens` gives flits_m1 of the packets that start. -/
def rxSlots (cw : Codeword) : Nat → Nat → List Nat → Link → Link
  | 0, _, _, l => l
  | k + 1, i, lens, l =>
    if cw.idle.getLsbD i then rxSlots cw k (i + 1) lens (rxDiscard l)
    else if cw.sop.getLsbD i then rxSlots cw k (i + 1) (lens.drop 1) (rxFlit { rxDiscard l with rxLeft := lens.headD 1 + 1 })
    else if l.rxLeft = 0 then rxSlots cw k (i + 1) lens { l with freed := l.freed + 1 }
    else rxSlots cw k (i + 1) lens (rxFlit l)

/-- A codeword received in order and intact (R216 to R219). -/
def codewordTake (s : State) (n : Nat) (cw : Codeword) : State :=
  linkMod (codewordAck s n (cw.ack % 4096) cw.nak) n fun l => rxSlots cw 16 0 cw.lens { l with
    rxSeq := (l.rxSeq + 1) % 4096, nakDue := false, fails := 0, credit := min 512 (l.credit + 4 * (cw.credit % 128))
    cntRx := l.cntRx + (16 - popCount 16 cw.idle.toNat) }

/-- A codeword that is not taken: a resend is asked for. -/
def codewordNak (l : Link) : Link := { l with nakDue := true, cntRetry := l.cntRetry + 1 }

/-! ### Link resets (R240) -/

/-- The log entry of a link reset. -/
def linkLog (s : State) (n : Nat) (watchdog : Bool) : State :=
  stLog s { logBlank with kind := 6, unit := 72 + n, detail := n + if watchdog then 256 else 0 }

/-- Transit packets a reset of link n discards: those waiting to leave by it, and those held in its ingress buffer. -/
def transitHeld (s : State) (n : Nat) : Nat :=
  ((List.range 48).zip s.fabric.links).foldl (fun a e =>
    let os := (reqOf e.2 12).queue ++ (match e.2.sending with
      | some (r, o, _) => if r = 12 then [o] else []
      | none => [])
    a + if e.1 = n then os.length else (os.filter fun o => o.via == some n).length) 0

/-- A link without the transit packets that came in by link n. -/
def dropVia (n : Nat) (l : Link) : Link :=
  { reqMod l 12 fun q => { q with queue := q.queue.filter fun o => o.via != some n } with
    sending := l.sending.filter fun x => !(x.1 == 12 && x.2.1.via == some n) }

/-- Take a link down: buffers emptied, transit packets dropped and counted, transactions queued on it or not acknowledged failed
with LINK_DOWN. `may` tells that it trains again; else it is held down. -/
def linkFlush (s : State) (n : Nat) (may : Bool) : State :=
  let drops := transitHeld s n
  let s1 := { s with fabric := { s.fabric with
    links := (s.fabric.links.map (dropVia n)), resetDrop := satAdd 16 s.fabric.resetDrop drops } }
  let left := (reqOf (linkOf s1 n) 12).queue ++ (match (linkOf s1 n).sending with
    | some (12, o, _) => [o]
    | _ => [])
  let s2 := linkMod (left.foldl (fun t o => ingressFree t (o.via.getD 48) (flitsOf o.pkt)) s1) n fun l => linkFresh l may
  endTxns s2 (fun t => t.link == n && !t.acked) .linkDown

/-- A link reset: logged; the link retrains unless it is held down or disabled. -/
def linkReset (s : State) (n : Nat) (watchdog : Bool) : State := linkFlush (linkLog s n watchdog) n (linkMay s n)

/-- Every link starts training at step 5 of Table 01-7. -/
def linksStart (s : State) : State :=
  { s with fabric := { s.fabric with
      links := ((List.range 48).zip s.fabric.links).map fun e => linkFresh e.2 (linkCap s e.1 != 0 && !e.2.holdDown) } }

end Sys2Proof.Machine
end

