-- ==== Sys2Proof/Machine/Slh.lean ====
section
/-! DEFINITION. SLH-DSA over SHAKE256 (FIPS 205), which the spec names for every identity, party and certificate signature (R334, R337,
R340, R343). Log entry 5: the scheme is taken from the public standard. -/

namespace Sys2Proof.Machine

/-- A parameter set: n, the height of one tree, the layers, the height and number of the FORS trees, the digest's bytes. -/
structure SlhSet where
  n : Nat
  hp : Nat
  d : Nat
  a : Nat
  k : Nat
  m : Nat
deriving DecidableEq, Repr

/-- SLH-DSA-SHAKE-128f: modules' identity keys. -/
def slh128f : SlhSet := ⟨16, 3, 22, 6, 33, 34⟩

/-- SLH-DSA-SHAKE-256s: parties, the vendor's keys. -/
def slh256s : SlhSet := ⟨32, 8, 8, 14, 22, 47⟩

/-- WOTS+ chains: 2n for the message, 3 for its checksum. -/
def slhLen (x : SlhSet) : Nat := 2 * x.n + 3

/-- Bytes of a signature. -/
def slhSigLen (x : SlhSet) : Nat := x.n * (1 + x.k * (x.a + 1) + x.d * (x.hp + slhLen x))

/-- An address: layer, tree, type, and the three words that the type gives a meaning. -/
structure SlhAdrs where
  layer : Nat
  tree : Nat
  type : Nat
  w1 : Nat
  w2 : Nat
  w3 : Nat

/-- The 32 bytes of an address. -/
def adrsBytes (x : SlhAdrs) : List Byte := natBe 4 x.layer ++ natBe 12 x.tree ++ natBe 4 x.type ++ natBe 4 x.w1 ++ natBe 4 x.w2 ++ natBe 4 x.w3

/-- What a tree's functions share: parameter set, PK.seed. -/
structure SlhCtx where
  x : SlhSet
  pk : List Byte

/-- F, H, T and PRF: SHAKE256 over PK.seed, address and message. -/
def slhHash (c : SlhCtx) (a : SlhAdrs) (m : List Byte) : List Byte := shake256 c.x.n (c.pk ++ adrsBytes a ++ m)

/-- Digits of b bits, from the most significant bit of the bytes on. -/
def baseDigits (b count : Nat) (bs : List Byte) : List Nat :=
  (List.range count).map fun i => fld (beNat bs) (8 * bs.length - b * (i + 1)) b

/-! ### WOTS+ -/

/-- s steps of a chain from position i. -/
def slhChain (c : SlhCtx) (a : SlhAdrs) : Nat → Nat → List Byte → List Byte
  | 0, _, v => v
  | s + 1, i, v => slhChain c a s (i + 1) (slhHash c { a with w3 := i } v)

/-- The digits that a WOTS+ signature of n bytes reveals. -/
def wotsDigits (x : SlhSet) (m : List Byte) : List Nat :=
  let ds := baseDigits 4 (2 * x.n) m
  ds ++ baseDigits 4 3 (natBe 2 (16 * (ds.map (15 - ·)).sum))

/-- The secret value of chain i. -/
def wotsSecret (c : SlhCtx) (sk : List Byte) (a : SlhAdrs) (i : Nat) : List Byte := slhHash c { a with type := 5, w2 := i, w3 := 0 } sk

/-- Compress the chain ends to a public key. -/
def wotsRoot (c : SlhCtx) (a : SlhAdrs) (ends : List (List Byte)) : List Byte := slhHash c { a with type := 1, w2 := 0, w3 := 0 } ends.flatten

/-- A WOTS+ public key; `a` names layer, tree and key pair. -/
def wotsPublic (c : SlhCtx) (sk : List Byte) (a : SlhAdrs) : List Byte :=
  wotsRoot c a ((List.range (slhLen c.x)).map fun i => slhChain c { a with type := 0, w2 := i } 15 0 (wotsSecret c sk a i))

/-- A WOTS+ signature. -/
def wotsSign (c : SlhCtx) (sk : List Byte) (a : SlhAdrs) (m : List Byte) : List Byte :=
  let ds := wotsDigits c.x m
  ((List.range ds.length).zip ds).flatMap fun e => slhChain c { a with type := 0, w2 := e.1 } e.2 0 (wotsSecret c sk a e.1)

/-- The public key that a WOTS+ signature gives. -/
def wotsFromSig (c : SlhCtx) (a : SlhAdrs) (m sig : List Byte) : List Byte :=
  let ds := wotsDigits c.x m
  wotsRoot c a (((List.range ds.length).zip ds).map fun e =>
    slhChain c { a with type := 0, w2 := e.1 } (15 - e.2) e.2 ((sig.drop (e.1 * c.x.n)).take c.x.n))

/-! ### Merkle trees -/

/-- A node of a tree at a height, from its leaves. -/
def treeNode (c : SlhCtx) (a : SlhAdrs) (leaf : Nat → List Byte) : Nat → Nat → List Byte
  | 0, i => leaf i
  | z + 1, i => slhHash c { a with w2 := z + 1, w3 := i } (treeNode c a leaf z (2 * i) ++ treeNode c a leaf z (2 * i + 1))

/-- The authentication path of leaf i, `h` nodes. -/
def treePath (c : SlhCtx) (a : SlhAdrs) (leaf : Nat → List Byte) (h i : Nat) : List Byte :=
  (List.range h).flatMap fun j => treeNode c a leaf j (if i / 2 ^ j % 2 = 0 then i / 2 ^ j + 1 else i / 2 ^ j - 1)

/-- The root that a leaf and its path give. -/
def pathRoot (c : SlhCtx) (a : SlhAdrs) : Nat → Nat → Nat → List Byte → List Byte → List Byte
  | 0, _, _, _, v => v
  | h + 1, z, i, path, v =>
    let q := path.take c.x.n
    pathRoot c a h (z + 1) (i / 2) (path.drop c.x.n)
      (slhHash c { a with w2 := z + 1, w3 := i / 2 } (if i % 2 = 0 then v ++ q else q ++ v))

/-- The address of the nodes of tree `t` of a layer. -/
def xmssAt (layer t : Nat) : SlhAdrs := ⟨layer, t, 2, 0, 0, 0⟩

/-- The address of key pair i of a tree. -/
def wotsAt (layer t i : Nat) : SlhAdrs := ⟨layer, t, 0, i, 0, 0⟩

/-- A leaf of a tree. -/
def xmssLeaf (c : SlhCtx) (sk : List Byte) (layer t i : Nat) : List Byte := wotsPublic c sk (wotsAt layer t i)

/-- The root that an XMSS signature gives. -/
def xmssRoot (c : SlhCtx) (layer t i : Nat) (m sig : List Byte) : List Byte :=
  let w := slhLen c.x * c.x.n
  pathRoot c (xmssAt layer t) c.x.hp 0 i (sig.drop w) (wotsFromSig c (wotsAt layer t i) m (sig.take w))

/-- The hypertree's signatures from a layer on. -/
def htSign (c : SlhCtx) (sk : List Byte) : Nat → Nat → Nat → Nat → List Byte → List Byte
  | 0, _, _, _, _ => []
  | n + 1, layer, t, i, m =>
    let sig := wotsSign c sk (wotsAt layer t i) m ++ treePath c (xmssAt layer t) (xmssLeaf c sk layer t) c.x.hp i
    sig ++ htSign c sk n (layer + 1) (t / 2 ^ c.x.hp) (t % 2 ^ c.x.hp) (xmssRoot c layer t i m sig)

/-- The root that a hypertree signature gives. -/
def htRoot (c : SlhCtx) : Nat → Nat → Nat → Nat → List Byte → List Byte → List Byte
  | 0, _, _, _, m, _ => m
  | n + 1, layer, t, i, m, sig =>
    let w := (slhLen c.x + c.x.hp) * c.x.n
    htRoot c n (layer + 1) (t / 2 ^ c.x.hp) (t % 2 ^ c.x.hp) (xmssRoot c layer t i m (sig.take w)) (sig.drop w)

/-! ### FORS -/

/-- The secret value of FORS leaf i. -/
def forsSecret (c : SlhCtx) (sk : List Byte) (a : SlhAdrs) (i : Nat) : List Byte := slhHash c { a with type := 6, w2 := 0, w3 := i } sk

/-- FORS leaf i. -/
def forsLeaf (c : SlhCtx) (sk : List Byte) (a : SlhAdrs) (i : Nat) : List Byte := slhHash c { a with w2 := 0, w3 := i } (forsSecret c sk a i)

/-- A FORS signature of a digest; leaf numbers count over all trees. -/
def forsSign (c : SlhCtx) (sk : List Byte) (a : SlhAdrs) (md : List Byte) : List Byte :=
  let ds := baseDigits c.x.a c.x.k md
  ((List.range c.x.k).zip ds).flatMap fun e =>
    let i := e.1 * 2 ^ c.x.a + e.2
    forsSecret c sk a i ++ treePath c a (forsLeaf c sk a) c.x.a i

/-- The FORS public key that a signature gives. -/
def forsRoot (c : SlhCtx) (a : SlhAdrs) (md sig : List Byte) : List Byte :=
  let ds := baseDigits c.x.a c.x.k md
  let w := (c.x.a + 1) * c.x.n
  slhHash c { a with type := 4, w2 := 0, w3 := 0 } (((List.range c.x.k).zip ds).flatMap fun e =>
    let i := e.1 * 2 ^ c.x.a + e.2
    let s := (sig.drop (e.1 * w)).take w
    pathRoot c a c.x.a 0 i (s.drop c.x.n) (slhHash c { a with w2 := 0, w3 := i } (s.take c.x.n)))

/-! ### The scheme -/

/-- The public key of the seeds SK.seed and PK.seed: PK.seed and the top tree's root. -/
def slhPublic (x : SlhSet) (sk pk : List Byte) : List Byte :=
  let c : SlhCtx := ⟨x, pk⟩
  pk ++ treeNode c (xmssAt (x.d - 1) 0) (xmssLeaf c sk (x.d - 1) 0) x.hp 0

/-- A message of the pure mode with its context string. -/
def slhPure (ctx m : List Byte) : List Byte := 0 :: natBe 1 ctx.length ++ ctx ++ m

/-- The message digest cut into FORS digest, tree and leaf. -/
def slhCut (x : SlhSet) (r pub m : List Byte) : List Byte × Nat × Nat :=
  let h := x.hp * x.d
  let g := shake256 x.m (r ++ pub ++ m)
  let b1 := (x.k * x.a + 7) / 8
  let b2 := (h - x.hp + 7) / 8
  let b3 := (x.hp + 7) / 8
  (g.take b1, beNat ((g.drop b1).take b2) % 2 ^ (h - x.hp), beNat ((g.drop (b1 + b2)).take b3) % 2 ^ x.hp)

/-- A hedged signature in the pure mode: SK.seed, SK.prf, PK.seed, context string, message, random input. -/
def slhSign (x : SlhSet) (sk prf pk ctx msg rnd : List Byte) : List Byte :=
  let c : SlhCtx := ⟨x, pk⟩
  let m := slhPure ctx msg
  let r := shake256 x.n (prf ++ rnd ++ m)
  let g := slhCut x r (slhPublic x sk pk) m
  let a : SlhAdrs := ⟨0, g.2.1, 3, g.2.2, 0, 0⟩
  let fors := forsSign c sk a g.1
  r ++ fors ++ htSign c sk x.d 0 g.2.1 g.2.2 (forsRoot c a g.1 fors)

/-- Verification in the pure mode: public key, context string, message, signature. -/
def slhVerify (x : SlhSet) (pub ctx msg sig : List Byte) : Bool :=
  let c : SlhCtx := ⟨x, pub.take x.n⟩
  let r := sig.take x.n
  let g := slhCut x r pub (slhPure ctx msg)
  let w := x.k * (x.a + 1) * x.n
  let fors := (sig.drop x.n).take w
  sig.length == slhSigLen x && pub.length == 2 * x.n &&
    htRoot c x.d 0 g.2.1 g.2.2 (forsRoot c ⟨0, g.2.1, 3, g.2.2, 0, 0⟩ g.1 fors) (sig.drop (x.n + w)) == pub.drop x.n

/-! ### Keys of the module and the vendor -/

/-- n bytes that the spec leaves open. -/
def openBytes (n : Nat) (f : Nat → Byte) : List Byte := (List.range n).map f

/-- The 64-byte SLH-DSA-SHAKE-256s public keys of the vendor root, the vendor intermediate and the firmware signer (R337). -/
def vendorRootKey : List Byte := openBytes 64 Config.vendorRoot
def intermediatePub : List Byte := openBytes 64 Config.intermediateKey
def firmwareKey : List Byte := openBytes 64 Config.fwKey

/-- An identity signature with the private key in a slot: SLH-DSA-SHAKE-128f, pure mode, hedged with 16 bytes of a draw (R334). -/
def identitySign (k : KeySlot) (ctx : String) (msg : List Byte) (rnd : W256) : List Byte :=
  let b := w256Bytes k.key
  slhSign slh128f (b.take 16) (b.drop 16) (natLe 16 k.ext.toNat) (ascii ctx) msg ((w256Bytes rnd).take 16)

/-- Whether a certificate of a kind and key algorithm is good under its issuer's public key (Table 13-1). -/
def certGood (cert issuer : List Byte) (kind alg : Nat) : Bool :=
  leNat (cert.take 4) == 0x54524543 && leNat ((cert.drop 4).take 1) == kind && leNat ((cert.drop 5).take 1) == alg &&
    (cert.drop 24).take 32 == w256Bytes (shakeW issuer) && slhVerify slh256s issuer (ascii "nirnus-cert") (cert.take 128) (cert.drop 128)

end Sys2Proof.Machine
end

