-- ==== Sys2Proof/Machine/Reset.lean ====
section
/-! DEFINITION. Strikes, resets, the power-up sequence and the life-cycle fuses as shared operations
(files 01, 13, 17, 18). -/

namespace Sys2Proof.Machine

/-! ### Life-cycle fuses (R442 to R450) -/

/-- The stored word of a state code (Table 17-1). -/
def lcWord (code : Nat) : BitVec 16 :=
  if code = 0 then 0x0000 else if code = 1 then 0x000F else if code = 3 then 0x00FF else if code = 4 then 0x0FFF
  else if code = 5 then 0x3FFF else if code = 6 then 0xFFFF else 0

/-- The state code of a stored word; none for a word that Table 17-1 does not list. -/
def lcCode (w : BitVec 16) : Option Nat :=
  if w = 0x0000 then some 0 else if w = 0x000F then some 1 else if w = 0x00FF then some 3
  else if w = 0x0FFF then some 4 else if w = 0x3FFF then some 5 else if w = 0xFFFF then some 6 else none

/-- The value at least two copies hold (R443). -/
def lcVote (l : List (BitVec 16)) : Option (BitVec 16) :=
  match l with
  | [a, b, c] => if a = b || a = c then some a else if b = c then some b else none
  | _ => none

/-- The 64-bit SHAKE256 check value over two vault copies (R333). -/
def vaultCheckOf (a b : W256) : Word := BitVec.ofNat 64 (leNat (shake256 8 (w256Bytes a ++ w256Bytes b)))

/-- The state code that LC_STATE and quotes report: TEST_OPEN while its session lasts (R442, R449). -/
def lcNow (x : LifeCycle) : Nat := if x.testOpen then 2 else x.state

/-- A record is pending: begun set, done clear (R446). -/
def recPending (r : BitVec 16) : Bool := r.getLsbD 3 && !r.getLsbD 15

/-- A STOCK record that was finished without its action mark: its vault could not be completed (R447). -/
def recVaultless (r : BitVec 16) : Bool := r.toNat % 8 == 3 && r.getLsbD 15 && !r.getLsbD 7

/-- Whether the vault is sound (R335, R447). -/
def vaultSound (x : LifeCycle) : Bool :=
  x.vault0 == x.vault1 && x.vaultCheck == vaultCheckOf x.vault0 x.vault1 && !(x.records.any recVaultless)

/-- The index of the first free record (R446). -/
def recFree (x : LifeCycle) : Option Nat := x.records.findIdx? (· == 0)

/-- Set bits of a progress record, where there is one. -/
def recSet (x : LifeCycle) (slot : Option Nat) (bits : BitVec 16) : LifeCycle :=
  match slot with
  | some i => { x with records := x.records.set i (x.records.getD i 0 ||| bits) }
  | none => x

/-- Program a state copy to the word of a code: set bits stay set. -/
def copySet (code k : Nat) (x : LifeCycle) : LifeCycle := { x with copies := modAt x.copies k (· ||| lcWord code) }

/-- Write the vault (R333). -/
def vaultSet (secret : W256) (x : LifeCycle) : LifeCycle :=
  { x with vault0 := secret, vault1 := secret, vaultCheck := vaultCheckOf secret secret }

/-- Set the vault to all ones. -/
def vaultWipe (x : LifeCycle) : LifeCycle :=
  { x with vault0 := BitVec.allOnes 256, vault1 := BitVec.allOnes 256, vaultCheck := BitVec.allOnes 64 }

/-- Erase the flash. -/
def flashWipe (x : LifeCycle) : LifeCycle := { x with flashErased := true, flashImage := [], flashSig := [], flashCal := [] }

/-- The steps of a transition after begun, with the bit that marks each (Tables 17-3, 17-4, 17-6). -/
def lcSteps (target : Nat) (secret : W256) : List (Nat × (LifeCycle → LifeCycle)) :=
  [(4, copySet target 0), (5, copySet target 1), (6, copySet target 2)] ++
  (if target = 3 then [(7, vaultSet secret)]
    else if target = 6 then [(8, vaultWipe), (9, fun x => { x with trimsWiped := true }), (10, flashWipe)]
    else []) ++ [(15, id)]

/-- Whether the vault holds set bits. -/
def vaultUsed (x : LifeCycle) : Bool := x.vault0 != 0 || x.vault1 != 0 || x.vaultCheck != 0

/-- Finish a pending record: every step whose mark is clear, in order; a vault that already holds set bits cannot be completed, and gets no
mark (R447). `secret` is the root secret drawn for STOCK. -/
def recFinish (secret : W256) (x : LifeCycle) (i : Nat) : LifeCycle :=
  (lcSteps ((x.records.getD i 0).toNat % 8) secret).foldl (fun y e =>
    if (y.records.getD i 0).getLsbD e.1 || (e.1 == 7 && vaultUsed y) then y
    else recSet (e.2 y) (some i) (BitVec.ofNat 16 (2 ^ e.1))) x

/-- The records that are pending. -/
def pendingRecs (x : LifeCycle) : List Nat := (List.range 8).filter fun i => recPending (x.records.getD i 0)

/-- The wipe of a module whose state copies hold 0xFFFF (R450). -/
def scrapWipe (x : LifeCycle) : LifeCycle := flashWipe { vaultWipe x with trimsWiped := true }

/-! ### What survives a warm reset or a strike (R464) -/

/-- The standby domain's registers, with READY low and both optical bypasses closed. The drive of THERM_ALERT_N stays: the junction is
still hot (R26). -/
def powerKeep (x : Power) : Power :=
  { x with
    ready := false, bypAOpen := false, bypBOpen := false
    hbmOk := 0, checkerOk := false, sramOk := false, selftestDone := false }

/-- The key unit's register in the standby domain, KEY_STRIKE (R366). KEY_TAMPER clears; a condition that is present latches at once
again. -/
def keysKeep (x : Keys) : Keys :=
  { strikeCause := x.strikeCause, strikeCount := x.strikeCount, tamperLive := x.tamperLive
    tamperLatched := x.tamperLive }

/-- The Gaffer's state at its Reset column but for the standby-domain sensors of TEL_SUPPLY (R27, R464). -/
def gafKeep (g : Gaffer) : Gaffer := { mainMv := g.mainMv, stbyMv := g.stbyMv, boardDc := g.boardDc }

/-- Fuses, flash and the session flag of TEST_OPEN; the challenge, the buffer and any grant are lost (R454, R457). -/
def lcKeep (x : LifeCycle) : LifeCycle :=
  { copies := x.copies, records := x.records, tokens := x.tokens, vault0 := x.vault0, vault1 := x.vault1
    vaultCheck := x.vaultCheck, trimsWiped := x.trimsWiped, flashErased := x.flashErased
    flashImage := x.flashImage, flashSig := x.flashSig, flashCal := x.flashCal
    state := x.state, word := x.word, agree := x.agree, invalid := x.invalid, resumed := x.resumed }

/-- The state after everything outside the standby domain is lost: keys struck, spaces, sessions, channels, pair, print,
walks and memory gone (R31, R353, R464, R468). The error log stays. -/
def standbyKeep (s : State) : State :=
  { State.reset with
    power := powerKeep s.power, keys := keysKeep s.keys, gaf := gafKeep s.gaf, lc := lcKeep s.lc, jtag := s.jtag, err := s.err
    draws := s.draws, freeCtr := s.freeCtr, pending := s.pending }

/-- A print in progress is logged as abandoned (R282, Table 18-7 kind 12 bit 12). -/
def logAbandoned (s : State) : State :=
  if s.dly.print.state = 1 || s.dly.print.state = 2 || s.dly.print.state = 3 then
    stLog s { logBlank with kind := 12, unit := 122, detail := s.dly.partner + 2 ^ 12 }
  else s

/-- Count one more warm reset or strike since power-up. -/
def bumpEpoch (s : State) : State := { s with err := { s.err with epoch := (s.err.epoch + 1) % 2 ^ 16 } }

/-- Record a strike's cause in KEY_STRIKE (R352). -/
def recordStrike (s : State) (cause : Nat) : State :=
  { s with keys := { s.keys with strikeCause := cause, strikeCount := (s.keys.strikeCount + 1) % 2 ^ 32 } }

/-- Steps 1 to 3 of a warm reset (R31), logged as kind 7 with its cause: READY falls, every key slot is struck with cause 9,
every space is aborted, both bypasses close. -/
def warmStart (s : State) (cause : Nat) : State :=
  let s1 := bumpEpoch (logAbandoned s)
  let s2 := { s1 with err := { s1.err with warms := s1.err.warms + 1 } }
  let s3 := stLog s2 { logBlank with kind := 7, cause := cause, detail := s2.err.warms }
  let s4 := standbyKeep (recordStrike s3 9)
  { s4 with err := { s4.err with lastKind := 2, lastCause := cause, islFailed := 0 } }

/-- A strike (R352, R353), logged as kind 8 with its cause; the restart follows as STRIKE_RESTART. -/
def strike (s : State) (cause : Nat) : State :=
  let s1 := bumpEpoch (logAbandoned s)
  let s2 := stLog s1 { logBlank with kind := 8, unit := 0xFE, cause := cause }
  let s3 := standbyKeep (recordStrike s2 cause)
  { s3 with
    err := { s3.err with lastKind := 2, lastCause := 7, islFailed := 0 }
    power := { s3.power with strikeHeld := true } }

/-! ### The power-up sequence (Table 01-7) -/

/-- Record that power-up stopped at a step (R33). -/
def bootFail (s : State) (step unit : Nat) : State :=
  { s with power := { s.power with bootStep := step - 1, bootFailed := true, failUnit := unit } }

/-- Record a completed step. -/
def bootDone (s : State) (step : Nat) : State := { s with power := { s.power with bootStep := step } }

/-- Step 3: finish the pending records, then vote the state, and finish a wipe that no record holds (R443, R447, R450). The second
component says that the boot ROM goes on. -/
def bootStep3 (s : State) : State × Bool :=
  let pend := pendingRecs s.lc
  let draws := pend.any fun i => (s.lc.records.getD i 0).toNat % 8 == 3 && !(vaultUsed s.lc)
  let s1 := { s with lc := pend.foldl (recFinish (drawAt s 0)) s.lc }
  let s1 := if draws then drawUse s1 1 else s1
  let vote := lcVote s1.lc.copies
  let word := vote.getD (s1.lc.copies.headD 0)
  let agree := maskOf ((List.range 3).filter fun k => s1.lc.copies.getD k 0 == word)
  let code := match vote with
    | some w => lcCode w
    | none => none
  let lc := { (if code = some 6 then scrapWipe s1.lc else s1.lc) with
    resumed := !pend.isEmpty, word := word, agree := BitVec.ofNat 3 agree, invalid := code.isNone
    state := code.getD 6 }
  let s2 := { s1 with lc := lc }
  match code with
  | none =>
    ({ s2 with power := { s2.power with bootStep := 3, scrapStop := true, failUnit := 0xFE } }, false)
  | some c =>
    ({ s2 with power := { s2.power with bootStep := 3, scrapStop := c == 6, failUnit := 0 } }, c != 6 && c != 0)

/-- Whether an image is one that the module starts and writes (step 4 of Table 01-7, R39, R406): at most 16 MiB, with the SHAKE256
measurement that it states and a signature that verifies. -/
def imageGood (image sig : List Byte) : Bool :=
  !image.isEmpty && decide (image.length ≤ 2 ^ 24) && shakeW image == Config.fwMeasured image sig &&
    slhVerify slh256s firmwareKey [] image sig

/-- Whether the flash holds a good image (step 4, R39). -/
def flashGood (x : LifeCycle) : Bool := !x.flashErased && imageGood x.flashImage x.flashSig

/-- The image that step 4 starts: the flash's, or the golden image. -/
def startImage (x : LifeCycle) : List Byte := if flashGood x then x.flashImage else Config.goldenImage

/-- The running image: the one that step 4 started; before that step, the one that it would start. A new image in the flash acts at the next
reset (R406). -/
def runningImage (s : State) : List Byte := if s.power.bootStep < 4 then startImage s.lc else s.power.image

/-- The digest of the rig in force: the house rig's of the running release from reset on (R34, Table 02-22). -/
def activeDigest (s : State) : W256 := if s.rig.active.house then Config.houseDigest (runningImage s) else s.rig.active.digest

/-- Step 4: which image starts. -/
def bootStep4 (s : State) : State :=
  bootDone { s with power := { s.power with golden := !flashGood s.lc, image := startImage s.lc } } 4

/-- The 48 identity seed bytes of a root secret (R334). -/
def identitySeed (root : W256) : List Byte := shake256 48 (w256Bytes root ++ ascii "nirnus-identity")

/-- The identity slot (Table 13-6). -/
def identitySlot (root : W256) : KeySlot :=
  { valid := true, use := .sign, ownerSet := 0, prev := false, locked := true, origin := 0, target := 0, party := 0
    key := BitVec.ofNat 256 (leNat ((identitySeed root).take 32)), ext := BitVec.ofNat 128 (leNat ((identitySeed root).drop 32)) }

/-- The identity public key of a root secret (R334). -/
def identityPublic (root : W256) : List Byte := slhPublic slh128f ((identitySeed root).take 16) ((identitySeed root).drop 32)

/-- Step 5: firmware, identity, DRBG, bridge keys, the house-rig range key and the outside-range key; the fabric
links start training. -/
def bootStep5 (s : State) : State :=
  let img := s.power.image
  let sound := vaultSound s.lc && s.lc.state != 1
  let houseKey : KeySlot :=
    { valid := true, use := .memRange, ownerSet := 0, locked := true, origin := 1, key := drawAt s 4 }
  let slots := (List.replicate 256 {} : List KeySlot)
  let slots := if sound then slots.set 0 (identitySlot s.lc.vault0) else slots
  let s1 := drawUse { s with
    power := { s.power with
      fwVersion := Config.fwVersion img, fwMeas := shakeW img
      idkeyFp := if sound then shakeW (identityPublic s.lc.vault0) else 0 }
    bridges := (List.range 4).map fun d => { key := drawAt s d, keyed := true }
    ciph := { s.ciph with outsideKey := drawAt s 5 }
    keys := { s.keys with slots := slots.set 128 houseKey, vaultOk := sound, entropyOk := true } } 6
  bootDone (linksStart s1) 5

/-- Step 7's results in MEM_SELFTEST and ID_BOOT_STATUS. -/
def bootSelftest (s : State) (b : Boot) (ok : Bool) : State :=
  { s with power := { s.power with
      hbmOk := b.hbmOk, checkerOk := b.checkerOk, sramOk := b.sramOk, selftestDone := true, selftestOk := ok } }

/-- Step 9: the house rig in force, range 0 keyed from slot 128, the Gaffer started with the Basecamp core and Reel service islands at
their caps (R34, R423). -/
def bootStep9 (s : State) : State :=
  let digest := Config.houseDigest s.power.image
  let s1 := { s with rig := { active := { digest := digest } } }
  let s2 := fillRange s1 0 (some 128) 3
  bootDone { s2 with gaf := { s2.gaf with
    islands := (List.range 125).map fun n => if 122 ≤ n then { point := 7, granted := 7 } else {} } } 9

/-! ### Emergencies as the Gaffer starts (R26, R433) -/

/-- An island clamp is in force. -/
def clampOn (g : Gaffer) : Bool := g.hot || g.pin

/-- The point in use of an island granted point k: 0 under a clamp. -/
def loweredPoint (g : Gaffer) (k : Nat) : Nat := if clampOn g then 0 else k

/-- Every island at its granted point, or at 0 under a clamp. -/
def applyPoints (g : Gaffer) : Gaffer :=
  { g with islands := g.islands.map fun x => { x with point := loweredPoint g x.granted } }

/-- Bits [3:0] of TEL_CLAMP. -/
def clampBits (s : State) : Nat :=
  packBits [(b2n (clampOn s.gaf), 1), (b2n (s.power.thermPinLow || s.power.thermDrive), 1), (b2n s.gaf.above, 1), (b2n s.gaf.overdraw, 1)]

/-- An emergency starts: points, counts and the log. `g` holds its mark and its own count. -/
def emergencyMark (s : State) (g : Gaffer) : State :=
  let s1 := { s with gaf := applyPoints { g with emergencies := satAdd 32 g.emergencies 1 } }
  stLog s1 { logBlank with kind := 11, detail := clampBits s1 }

/-- A junction above 105 °C clamps every island. -/
def hotMark (g : Gaffer) : Gaffer := { g with hot := true, above := true, clamps := satAdd 16 g.clamps 1 }

/-- A pin held low by another device clamps every island. -/
def pinMark (g : Gaffer) : Gaffer := { g with pin := true, clamps := satAdd 16 g.clamps 1 }

/-- The Gaffer starts clamped while a junction is hot, or while another device holds THERM_ALERT_N low (R26). -/
def bootClamp (s : State) : State :=
  if s.power.thermDrive then emergencyMark s (hotMark s.gaf)
  else if s.power.thermPinLow then emergencyMark s (pinMark s.gaf)
  else s

/-- Step 10: READY, both optical bypasses open, both rings training (R400). -/
def bootStep10 (s : State) : State :=
  bootClamp (bootDone { s with
    power := { s.power with ready := true, bypAOpen := true, bypBOpen := true }
    lmx := { s.lmx with a := { s.lmx.a with ring := 1 }, b := { s.lmx.b with ring := 1 } } } 10)

/-- The lowest bit set in a stack mask. -/
def lowestBit (m : BitVec 8) : Nat := ((List.range 8).find? fun i => m.getLsbD i).getD 0

/-- Steps 6 to 11. -/
def bootFrom6 (s : State) (b : Boot) : State :=
  if b.trainFail ≠ 0 then
    bootFail { s with power := { s.power with stackSlow := b.slow &&& ~~~b.trainFail } } 6 (64 + lowestBit b.trainFail)
  else
    let s6 := bootDone { s with power := { s.power with stackSlow := b.slow } } 6
    let ok := b.hbmOk == 0xFF && b.checkerOk && b.sramOk
    let s7 := bootSelftest s6 b ok
    if !ok then bootFail s7 7 b.failUnit
    else if !b.fillOk then bootFail (bootDone s7 7) 8 b.failUnit
    else bootStep10 (bootStep9 (bootDone s7 8))

/-- Power-up stopped at step 2: a rail was out of tolerance (R33). -/
def railsFailed (x : Power) : Bool := x.bootFailed && x.bootStep == 1

/-- The straps are sampled (R28). -/
def sampleStraps (s : State) (st : Straps) : State := { s with power := { s.power with slotId := st.slotId, strap := st } }

/-- Steps 3 to 11 (R31, R32). While RESET_N is low the module waits before step 3; while STRIKE_N is low it holds at step 5 and draws no
key. A start that had stopped at step 2 stops there again while a rail is out of tolerance. -/
def bootFrom3 (s : State) (b : Boot) : State :=
  let s0 := { s with power := { s.power with
    bootFailed := false, failUnit := 0, scrapStop := false, selftestOk := false, stackSlow := 0
    idkeyFp := 0, fwVersion := 0, golden := false, fwMeas := 0
    resetHeld := false, strikeHeld := false, bootStep := 2 } }
  if !s0.power.resetN then { s0 with power := { s0.power with resetHeld := true, bootFailed := s.power.bootFailed, bootStep := s.power.bootStep } }
  else if railsFailed s.power && !b.railsOk then bootFail s0 2 0xFF
  else
    let r := bootStep3 s0
    if !r.2 then r.1
    else
      let s4 := bootStep4 r.1
      if !s4.power.strikeN then { s4 with power := { s4.power with strikeHeld := true } }
      else if !b.entropyOk then bootFail s4 5 122
      else bootFrom6 (bootStep5 s4) b

/-! ### Commands of the pins and supplies (file 01) -/

/-- STBY_VALID (R23): the standby domain powers up; the JTAG bypass closes if JBYP_EN is high (R36). -/
def execStbyValid (st : Straps) (s : State) : Host.Outcome State Fault Refusal :=
  .next (if s.power.stbyValid then s
    else { s with power := { s.power with stbyValid := true, strap := st, jbypClosed := st.jbypEn } })

/-- I3C_TARGET_LIVE (R27). -/
def execI3cTargetLive (s : State) : Host.Outcome State Fault Refusal :=
  .next (if s.power.stbyValid then { s with power := { s.power with i3cLive := true } } else s)

/-- The 48-bit provisioned ID: SLOT_ID in its low six bits (R27). Before step 1 of the first power-up the latch holds 63, and an ENTDAA there
sends that, not the strap (DESIGN CHOICE, log entry 127). -/
def provisionedId (x : Power) : BitVec 48 := Config.i3cIdHigh ++ x.slotId

/-- I3C_ENTDAA (R27): the target sends its provisioned ID and takes the dynamic address. -/
def execI3cEntdaa (addr : BitVec 7) (s : State) : Host.Outcome State Fault Refusal :=
  .next (if s.power.i3cLive then { s with power := { s.power with i3cAddr := some addr, i3cPid := provisionedId s.power } } else s)

/-- The power group as the rails ramp up (steps 1, 2): straps sampled, TAP live, JTAG bypass open. -/
def railsUp (x : Power) (b : Boot) : Power :=
  { x with
    mainValid := true, strap := b.strap, slotId := b.strap.slotId, ready := false, bypAOpen := false, bypBOpen := false
    tapLive := true, jbypClosed := false, bootStep := 2, bootFailed := false, failUnit := 0, resetHeld := false
    strikeHeld := false }

/-- POWER_UP (R30): the sequence of Table 01-7 from step 1; a cold start, logged with cause 1. A rail out of tolerance stops it at
step 2 with the TAP live (R36 has it live from step 2; whether a failed step 2 counts is left open, log entry 111). -/
def execPowerUp (b : Boot) (s : State) : Host.Outcome State Fault Refusal :=
  .next (if s.power.stbyValid && !s.power.tapLive then
      if b.railsOk then
        let s1 := stLog { s with power := railsUp s.power b } { logBlank with kind := 7, cause := 1, detail := 0 }
        bootFrom3 s1 b
      else bootFail { s with power := railsUp s.power b } 2 0xFF
    else s)

/-- WARM_RESET (R31, R28): RESET_N low; the straps are sampled and the module waits while the pin stays low. -/
def execWarmReset (st : Straps) (s : State) : Host.Outcome State Fault Refusal :=
  .next (if s.power.resetN then
      if s.power.tapLive then
        let s1 := sampleStraps (warmStart s 2) st
        { s1 with power := { s1.power with resetN := false, resetHeld := true, strikeHeld := false } }
      else { s with power := { s.power with resetN := false } }
    else s)

/-- RESET_N_RELEASE (R31). -/
def execResetNRelease (b : Boot) (s : State) : Host.Outcome State Fault Refusal :=
  .next (if s.power.resetN then s
    else
      let s1 := { s with power := { s.power with resetN := true } }
      if s1.power.resetHeld then bootFrom3 s1 b else s1)

/-- Restart from step 3 with what the hardware meets; the straps are sampled first (R28, Table 18-3). -/
def restart (s : State) (b : Boot) : State := bootFrom3 (sampleStraps s b.strap) b

/-- A warm reset that restarts at once (FUNCTION_RESET, I3C RESET, a life-cycle transition, an escalation). -/
def resetAtOnce (s : State) (cause : Nat) (b : Boot) : State :=
  restart (warmStart s cause) b

/-- FUNCTION_RESET (R31, Table 02-18): a write to GLB_RESET; any key but 0xC0DE is ignored. The reset ends the session before its reply. -/
def execFunctionReset (p : Port) (tag : Nat) (key : Word) (b : Boot) (s : State) : Host.Outcome State Fault Refusal :=
  .next (mgmtWrite p tag (.functionReset p tag key b) (fun t => ⟨if key = 0xC0DE then resetAtOnce t 3 b else t, .ok, []⟩) s)

/-- STRIKE_N_LOW (R32). With no rail up there is nothing to strike; the cause is recorded. -/
def execStrikeNLow (s : State) : Host.Outcome State Fault Refusal :=
  .next (if s.power.strikeN && s.power.stbyValid then
      let s1 := { s with power := { s.power with strikeN := false } }
      if s1.power.tapLive then strike s1 1 else recordStrike s1 1
    else s)

/-- STRIKE_RESTART (R32, Table 13-11): the restart condition holds, and steps 3 to 11 run. -/
def execStrikeRestart (b : Boot) (s : State) : Host.Outcome State Fault Refusal :=
  .next (if s.power.tapLive then
      let s1 := { s with
        power := { s.power with strikeN := true }
        keys := { s.keys with tamperLive := 0 } }
      if s1.power.strikeHeld then restart s1 b else s1
    else { s with power := { s.power with strikeN := true } })

/-- TAMPER_STRIKE (R352): causes 2 to 5, recorded live and latched in KEY_TAMPER. -/
def execTamperStrike (cause : Nat) (s : State) : Host.Outcome State Fault Refusal :=
  .next (if 2 ≤ cause && cause ≤ 5 && s.power.stbyValid then
      let bit : BitVec 4 := BitVec.ofNat 4 (2 ^ (cause - 2))
      let s1 := { s with keys := { s.keys with
        tamperLive := s.keys.tamperLive ||| bit, tamperLatched := s.keys.tamperLatched ||| bit } }
      if s1.power.tapLive then strike s1 cause else recordStrike s1 cause
    else s)

/-- The power group after STBY_3V3 is lost: every latch at its default, fused values kept (R38). -/
def powerDead (x : Power) : Power := { serial := x.serial, orderVariant := x.orderVariant }

/-- Everything but fuses and flash is gone: STBY_3V3 lost. -/
def stbyGone (s : State) : State :=
  let t := standbyKeep s
  { t with power := powerDead s.power, keys := {}, gaf := {}, err := {}, jtag := {}, lc := { lcKeep s.lc with
      state := 0, word := 0, agree := 0, invalid := false, resumed := false } }

/-- The power group after a power-down with STBY_3V3 still valid: the budget stays (R38). -/
def powerOff (x : Power) : Power :=
  { powerDead x with
    stbyValid := true, resetN := x.resetN, strikeN := x.strikeN, thermPinLow := x.thermPinLow, strap := x.strap
    slotId := x.slotId, jbypClosed := x.strap.jbypEn, i3cLive := x.i3cLive, i3cAddr := x.i3cAddr, i3cPid := x.i3cPid
    budgetW := x.budgetW, budgetClamped := x.budgetClamped }

/-- POWER_DOWN (R37, Table 01-9): READY low, every slot struck with cause 10, all work abandoned, the TAP dead. -/
def powerDown (r : Rail) (s : State) : State :=
  match r with
  | .stby => stbyGone s
  | .main =>
    let t := stbyGone s
    { t with
      power := powerOff s.power
      gaf := gafKeep s.gaf
      keys := { keysKeep (recordStrike s 10).keys with tamperLive := s.keys.tamperLive } }

/-- POWER_DOWN. -/
def execPowerDown (r : Rail) (s : State) : Host.Outcome State Fault Refusal :=
  .next (if s.power.mainValid then powerDown r s else s)

/-- STBY_3V3_LOSS (R38): the budget returns to 2,000 W; with MAIN_54V valid it is the power-down of R37. -/
def execStby3v3Loss (s : State) : Host.Outcome State Fault Refusal :=
  .next (if s.power.stbyValid then stbyGone s else s)

/-! ### The sideband's reset and strike (R414) -/

/-- Whether the sideband target answers: live, with a dynamic address (R27). -/
def i3cUp (x : Power) : Bool := x.i3cLive && x.i3cAddr.isSome

/-- Count a refused sideband request. -/
def i3cRefuse (s : State) : State := { s with power := { s.power with i3cRefused := satAdd 16 s.power.i3cRefused 1 } }

/-- I3C_RESET (R414): key 0xC0DE. During a warm reset in progress the sequence restarts from step 5 of R31. -/
def execI3cReset (key : BitVec 16) (b : Boot) (s : State) : Host.Outcome State Fault Refusal :=
  .next (if !i3cUp s.power then s
    else if key = 0xC0DE && !s.power.scrapStop then
      let s1 := { s with power := { s.power with i3cResetReq := satAdd 16 s.power.i3cResetReq 1 } }
      if s1.power.resetHeld then bootFrom3 s1 b
      else if s1.power.tapLive then resetAtOnce s1 4 b
      else s1
    else i3cRefuse s)

/-- I3C_STRIKE (R414): key 0x5354, strike cause 6. -/
def execI3cStrike (key : BitVec 16) (s : State) : Host.Outcome State Fault Refusal :=
  .next (if !i3cUp s.power then s
    else if key = 0x5354 && !s.power.scrapStop then
      let s1 := { s with power := { s.power with i3cStrikeReq := satAdd 16 s.power.i3cStrikeReq 1 } }
      if s1.power.tapLive then strike s1 6 else recordStrike s1 6
    else i3cRefuse s)

end Sys2Proof.Machine
end

