-- ==== Sys2Proof/Machine/Bridges.lean ====
section
/-! DEFINITION. The bridges between the Reels and Basecamp (R42 to R45). -/

namespace Sys2Proof.Machine

/-- The number of a bridge direction. -/
def dirNum : BridgeDir → Nat
  | .aToBase => 0
  | .baseToA => 1
  | .bToBase => 2
  | .baseToB => 3

/-- The bridge a direction belongs to: 0 for Reel A's, 1 for Reel B's. -/
def dirReel (d : BridgeDir) : Nat := dirNum d / 2

/-- A bridge direction. -/
def bridgeOf (s : State) (d : BridgeDir) : Bridge := s.bridges.getD (dirNum d) {}

/-- Change a bridge direction. -/
def bridgeMod (s : State) (d : BridgeDir) (f : Bridge → Bridge) : State := { s with bridges := modAt s.bridges (dirNum d) f }

/-- Whether a sender closes a burst (R44): 4 KiB are queued, or no data has come for 8 cycles of the sending island. -/
def burstCloses (b : Bridge) (n idle : Nat) : Bool :=
  b.keyed && decide (0 < n) && decide (n ≤ 4096) && (decide (n = 4096) || decide (8 ≤ idle))

/-- The bytes of a burst: 64 at least, padded with zeros where fewer are queued (R44 gives 64 as the minimum and no padding, log
entry 85). -/
def burstData (data : List Byte) : List Byte := data ++ List.replicate (64 - data.length) 0

/-- Send a burst under the direction's next sequence number; it is kept until it is acknowledged. One that finds the sequence number
at 2^62 is held until the key is renewed (R44). -/
def burstSend (b : Bridge) (data : List Byte) : Bridge :=
  if b.seq < 2 ^ 62 then { b with seq := b.seq + 1, unacked := b.unacked ++ [⟨b.seq, data, 0⟩] }
  else { b with held := b.held ++ [data] }

/-- BRIDGE_BURST_CLOSE. -/
def execBridgeBurstClose (d : BridgeDir) (data : List Byte) (idle : Nat) (s : State) : Host.Outcome State Fault Refusal :=
  .next (if burstCloses (bridgeOf s d) data.length idle then bridgeMod s d fun b => burstSend b (burstData data)
    else s)

/-- Log a resend or tampering of a bridge (Table 18-7). -/
def logBridge (s : State) (d : BridgeDir) : State :=
  stLog s { logBlank with kind := 5, unit := 123 + dirReel d, detail := dirReel d }

/-- Count a resend of a bridge in ERR_CNT_BRIDGE. -/
def countResend (s : State) (d : BridgeDir) : State :=
  if dirReel d = 0 then { s with err := { s.err with resendA := satAdd 32 s.err.resendA 1 } }
  else { s with err := { s.err with resendB := satAdd 32 s.err.resendB 1 } }

/-- A burst's tag failed: a resend, or at the third failure in a row a strike with cause 8 (R45). -/
def burstFail (s : State) (d : BridgeDir) (x : Burst) : State :=
  if 3 ≤ x.fails + 1 then strike (logBridge s d) 8
  else
    countResend (logBridge (bridgeMod s d fun b => { b with
      unacked := b.unacked.map fun y => if y.seq = x.seq then { y with fails := y.fails + 1 } else y }) d) d

/-- BRIDGE_BURST_RECEIVE: a burst whose tag verifies is released and acknowledged. -/
def execBridgeBurstReceive (d : BridgeDir) (seq : Nat) (tagOk : Bool) (s : State) : Host.Outcome State Fault Refusal :=
  .next (match (bridgeOf s d).unacked.find? fun x => x.seq == seq with
    | none => s
    | some x =>
      if tagOk then
        bridgeMod s d fun b => { b with
          unacked := b.unacked.filter fun y => y.seq != seq, delivered := b.delivered ++ x.data }
      else burstFail s d x)

/-- The direction takes a new key and starts at sequence number 0 again; the bursts that were held are sent in their order (R44). -/
def bridgeRenew (b : Bridge) (key : W256) : Bridge := b.held.foldl burstSend { b with key := key, seq := 0, held := [] }

/-- BRIDGE_KEY_RENEW: at sequence number 2^62, under a newly drawn key. -/
def execBridgeKeyRenew (d : BridgeDir) (s : State) : Host.Outcome State Fault Refusal :=
  .next (if (bridgeOf s d).keyed && decide (2 ^ 62 ≤ (bridgeOf s d).seq) && s.keys.entropyOk then
      drawUse (bridgeMod s d fun b => bridgeRenew b (drawAt s 0)) 1
    else s)

end Sys2Proof.Machine
end

