-- ==== Sys2Proof/Machine/Matrix.lean ====
section
/-! DEFINITION. The matrix array: MATMUL's body and checks (Tables 04-2, 04-5), A20 rungs, carry chain and integer chain
(file 05), the epilogue (R157, R158), pre-emption, watchdog and the rushes check (R176 to R178). -/

namespace Sys2Proof.Machine

/-! ### The body (Table 04-5) -/

/-- A MATMUL body with its format words read; a format word that is not valid reads as none. -/
structure MmBody where
  engine : Nat
  band : Nat
  base : Nat
  acc : Bool
  strict : Bool
  m : Nat
  n : Nat
  k : Nat
  fa : Option FmtWord
  fb : Option FmtWord
  aOff : Nat
  aPitch : Nat
  bOff : Nat
  bPitch : Nat
  saOff : Nat
  sbOff : Nat
  cbA : Nat
  cbB : Nat
  epi : Nat
  bcast : Nat
  epiBf16 : Bool
  epiOff : Nat
  outOff : Nat
  outPitch : Nat
  fo : Option FmtWord
  resv : Nat
deriving DecidableEq, Repr

/-- The body's fields; offsets and pitches in bytes. -/
def mmBody (v : Nat) : MmBody :=
  { engine := fld v 0 6, band := fld v 6 3, base := fld v 9 4, acc := v.testBit 13, strict := v.testBit 14
    m := fld v 15 13, n := fld v 28 9, k := fld v 37 20, fa := fmtWordOf (fld v 57 16), fb := fmtWordOf (fld v 73 16)
    aOff := 64 * fld v 89 17, aPitch := 64 * fld v 106 12, bOff := 64 * fld v 118 17, bPitch := 64 * fld v 135 12
    saOff := 64 * fld v 147 17, sbOff := 64 * fld v 164 17, cbA := 64 * fld v 181 17, cbB := 64 * fld v 198 17
    epi := fld v 215 2, bcast := fld v 217 2, epiBf16 := v.testBit 219, epiOff := 64 * fld v 220 17
    outOff := 64 * fld v 237 17, outPitch := 64 * fld v 254 12, fo := fmtWordOf (fld v 266 16), resv := fld v 282 6 }

/-- Bytes of a codebook (R77). -/
def cbBytes : Nat := 32

/-- Codes of a codebook of 16 BF16 entries. -/
def cbCodes (bs : List Byte) : List Nat := (List.range 16).map fun i => leNat ((bs.drop (2 * i)).take 2)

/-- The codebook at an offset, for a C4 format. -/
def cbRead (s : State) (x : Band) (f : Fmt) (off : Nat) : List Nat :=
  if f = .c4 then cbCodes (stgBytes s x off cbBytes) else []

/-- Bytes of the scale tensor of a P × Q tensor; `inner` for sharing along Q (R81). -/
def scaleSize (w : FmtWord) (inner : Bool) (p q : Nat) : Nat :=
  if w.scale = .none then 0 else scaleBytes w.scale * scaleCount inner w.block p q

/-- Whether an input with its scales and codebook lies in the region. -/
def inputFits (x : Band) (w : FmtWord) (inner : Bool) (rows cols off pitch sOff cb : Nat) : Bool :=
  stgFits x off (spanOf rows pitch (rowBytes w.fmt cols)) && stgFits x sOff (scaleSize w inner rows cols) &&
    (w.fmt != .c4 || stgFits x cb cbBytes)

/-- Bytes of the epilogue operand (R158). -/
def epiSpan (b : MmBody) : Nat :=
  let w := if b.epiBf16 then 2 else 4
  if b.bcast = 0 then spanOf b.m b.outPitch (b.n * w) else if b.bcast = 1 then b.n * w else b.m * w

/-- The rows of Table 04-2 on the epilogue and output, with epi_op 1 to 3 (R109). -/
def epiCheck (s : State) (x : Band) (b : MmBody) : Option Status :=
  match b.fo with
  | none => some .badDescriptor
  | some fo =>
    if !(ovfOk fo true) || fo.scale != .none || !(stgFits x b.outOff (spanOf b.m b.outPitch (rowBytes fo.fmt b.n))) then
      some .badDescriptor
    else if 2 ≤ b.epi && (b.bcast = 3 || !(stgFits x b.epiOff (epiSpan b))) then some .badDescriptor
    else if fo.fmt = .c4 && (!(stgFits x b.cbB cbBytes) || !(cbHasFinite (cbRead s x .c4 b.cbB))) then some .badDescriptor
    else none

/-- Both operands are integer-like (R85). -/
def mmInt (fa fb : FmtWord) : Bool := fmtIsInt fa.fmt && fmtIsInt fb.fmt

/-- Table 04-2 and R133, in the table's order: none where the command may run. -/
def mmCheck (s : State) (slot : Nat) (b : MmBody) : Option Status :=
  let x := bandAt s b.engine b.band
  match b.fa, b.fb with
  | some fa, some fb =>
    if b.resv ≠ 0 || !(ovfOk fa false) || !(ovfOk fb false) || fmtClass fa.fmt ≠ fmtClass fb.fmt ||
        (mmInt fa fb && (fa.scale != .none || fb.scale != .none)) || !(bandOk s slot x) ||
        !(inputFits x fa (fa.share = 0) b.m b.k b.aOff b.aPitch b.saOff b.cbA) ||
        !(inputFits x fb (fb.share = 2) b.k b.n b.bOff b.bPitch b.sbOff b.cbB) || fa.share = 2 || fb.share = 1 then
      some .badDescriptor
    else if b.epi ≠ 0 && (epiCheck s x b).isSome then some .badDescriptor
    else if b.acc && (List.range (tilesFor b.m)).any
        (fun i => b.base + i < bandTiles x && tileIsInt s x (b.base + i) != mmInt fa fb) then some .badDescriptor
    else if b.m = 0 || b.n = 0 || 256 < b.n then some .badShape
    else if bandTiles x < b.base + tilesFor b.m then some .badShape
    else if b.aPitch < rowBytes fa.fmt b.k || b.bPitch < rowBytes fb.fmt b.n ||
        (b.epi ≠ 0 && b.outPitch < rowBytes ((b.fo.map (·.fmt)).getD .f32) b.n) then some .badShape
    else none
  | _, _ => some .badDescriptor

/-! ### Operands -/

/-- An operand as the feeders and loads see it: row codes, scales and codebook, read once at the start. -/
structure Operand where
  w : FmtWord
  rows : List Nat
  scales : List Byte
  cb : List Nat
  inner : Bool
  cols : Nat
deriving Repr

/-- Read an operand from staging. -/
def operandRead (s : State) (x : Band) (w : FmtWord) (inner : Bool) (rows cols off pitch sOff cb : Nat) : Operand :=
  { w := w
    rows := (List.range rows).map fun i => leNat (stgBytes s x (off + i * pitch) (rowBytes w.fmt cols))
    scales := stgBytes s x sOff (scaleSize w inner rows cols)
    cb := cbRead s x w.fmt cb, inner := inner, cols := cols }

/-- The code of element (r, c). -/
def opCode (o : Operand) (r c : Nat) : Nat := elemCode o.w.fmt (o.rows.getD r 0) c

/-- The element value of (r, c). -/
def opElem (o : Operand) (r c : Nat) : Num := decodeElem o.w.fmt o.cb (opCode o r c)

/-- The scale value of (r, c); 1 without scales. -/
def opScale (o : Operand) (r c : Nat) : Num :=
  if o.w.scale = .none then .fin false 1 0
  else
    let z := scaleBytes o.w.scale
    decodeScale o.w.scale (leNat ((o.scales.drop (z * scaleIndex o.inner o.w.block o.cols r c)).take z))

/-- The scaled value of (r, c), and whether forming it is invalid (R83, R84). -/
def opScaled (o : Operand) (r c : Nat) : Num × Bool := numMul (opElem o r c) (opScale o r c)

/-! ### One output element (R110 to R113, R126 to R132) -/

/-- A partial value with the events and invalid operations met so far. -/
structure Acc where
  val : Num
  ev : BitVec 16
  inv : Nat
deriving DecidableEq, Repr

/-- Event bits of an invalid operation and of leaving a range upward and downward. -/
def accEv (inv ovf unf : Bool) : BitVec 16 :=
  (if inv then evInvalid else 0) ||| (if ovf then evScaleOvf else 0) ||| (if unf then evScaleUnf else 0)

/-- trunc_a20 of a product of two scaled elements (R110, R111, R84); an invalid product counts once. -/
def a20Product (a b : Num × Bool) : Acc :=
  let p := numMul a.1 b.1
  let t := truncA20 p.1
  let inv := a.2 || b.2 || p.2
  ⟨t.1, accEv inv t.2.1 t.2.2, b2n inv⟩

/-- trunc_a20 of an exact sum (R129). -/
def a20Add (x y : Acc) : Acc :=
  let p := numAdd x.val y.val
  let t := truncA20 p.1
  ⟨t.1, x.ev ||| y.ev ||| accEv p.2 t.2.1 t.2.2, x.inv + y.inv + b2n p.2⟩

/-- An F32 addition of the carry chain or of a tile (R127). -/
def f32Add (x y : Acc) : Acc :=
  let p := numAdd x.val y.val
  let t := rneF32 p.1
  ⟨t.1, x.ev ||| y.ev ||| accEv p.2 t.2 false, x.inv + y.inv + b2n p.2⟩

/-- Fold a non-empty list with an addition, the first entering as it is; +0 for the empty list. -/
def foldFirst (add : Acc → Acc → Acc) : List Acc → Acc
  | [] => ⟨.fin false 0 0, 0, 0⟩
  | a :: l => l.foldl add a

/-- An exact 32-bit addition that saturates with SCALE_OVF (R132). -/
def i32Add (x y : Int × BitVec 16) : Int × BitVec 16 :=
  let r := x.1 + y.1
  if r < -2147483648 then (-2147483648, x.2 ||| y.2 ||| evScaleOvf)
  else if 2147483647 < r then (2147483647, x.2 ||| y.2 ||| evScaleOvf)
  else (r, x.2 ||| y.2)

/-- Fold integers with the saturating addition. -/
def foldInt : List (Int × BitVec 16) → Int × BitVec 16
  | [] => (0, 0)
  | a :: l => l.foldl i32Add a

/-- K elements per cell and K elements of a rung: 32 physical rows (R98, R99). -/
def rungK (f : Fmt) : Nat := 32 * classPack (fmtClass f)

/-- Stationary depth of a band of R rows (R98). -/
def depthOf (f : Fmt) (rows : Nat) : Nat := rows * classPack (fmtClass f)

/-- The real K indices of rung g of chunk j, ascending. -/
def rungIndices (depth rk k j g : Nat) : List Nat :=
  let lo := j * depth + g * rk
  let hi := min k (min (lo + rk) ((j + 1) * depth))
  (List.range (hi - lo)).map (lo + ·)

/-- Rungs that chunk j loads. -/
def rungCount (depth rk k j : Nat) : Nat := (min depth (k - j * depth) + rk - 1) / rk

/-- The chain of output element (m, n) in chunk j, by the pseudocode of R129. -/
def chainOf (a b : Operand) (depth rk k j m n : Nat) : Acc :=
  foldFirst f32Add ((List.range (rungCount depth rk k j)).map fun g =>
    foldFirst a20Add ((rungIndices depth rk k j g).map fun i => a20Product (opScaled a m i) (opScaled b i n)))

/-- The integer chain of output element (m, n) in chunk j (R132). -/
def intChain (a b : Operand) (depth rk k j m n : Nat) : Int × BitVec 16 :=
  foldInt ((List.range (rungCount depth rk k j)).map fun g =>
    foldInt ((rungIndices depth rk k j g).map fun i =>
      (decodeInt a.w.fmt (opCode a m i) * decodeInt b.w.fmt (opCode b i n), 0)))

/-- An output element in the tile: an F32 value or an I32 integer. -/
inductive Cell where
  | f (v : Num) | i (v : Int)
deriving DecidableEq, Repr

/-- The 32 bits of a tile element. -/
def cellWord : Cell → W32
  | .f v => toF32 v
  | .i v => BitVec.ofInt 32 v

/-- The value of a tile element for the epilogue: exact. -/
def cellNum : Cell → Num
  | .f v => v
  | .i v => numOfInt v

/-- One chunk's effect on one output element: overwrite at chunk 0 without accumulate, else add (R105, R129). -/
def chunkCell (int : Bool) (a b : Operand) (depth rk k j m n : Nat) (fresh : Bool) (old : Cell) : Cell × BitVec 16 × Nat :=
  if int then
    let c := intChain a b depth rk k j m n
    if fresh then (.i c.1, c.2, 0)
    else
      let t := i32Add ((match old with
        | .i v => v
        | .f _ => 0), 0) c
      (.i t.1, t.2, 0)
  else
    let c := chainOf a b depth rk k j m n
    if fresh then (.f c.val, c.ev, c.inv)
    else
      let t := f32Add ⟨cellNum old, 0, 0⟩ c
      (.f t.val, t.ev, t.inv)

/-- The positions of an M × N output in the order of R114: rows, then columns. -/
def positions (m n : Nat) : List (Nat × Nat) := (List.range m).flatMap fun i => (List.range n).map fun j => (i, j)

/-- One chunk over the rows [lo, hi) of the output: the elements and the tally. -/
def chunkRun (int : Bool) (a b : Operand) (depth rk k j lo hi : Nat) (fresh : Bool) (at_ : Nat → Nat → Nat × Nat × Nat)
    (xs : List ((Nat × Nat) × Cell)) (t : Tally) : List ((Nat × Nat) × Cell) × Tally :=
  match xs with
  | [] => ([], t)
  | (p, old) :: rest =>
    if lo ≤ p.1 && p.1 < hi then
      let c := chunkCell int a b depth rk k j p.1 p.2 fresh old
      let r := chunkRun int a b depth rk k j lo hi fresh at_ rest (tallyAdd t c.2.1 c.2.2 (at_ p.1 p.2))
      ((p, c.1) :: r.1, r.2)
    else
      let r := chunkRun int a b depth rk k j lo hi fresh at_ rest t
      ((p, old) :: r.1, r.2)

/-- The chunks from `j` on, `count` of them, each over the rows that `win` gives. -/
def chunksRun (int : Bool) (a b : Operand) (depth rk k : Nat) (acc : Bool) (at_ : Nat → Nat → Nat × Nat × Nat) (win : Nat → Nat × Nat) :
    Nat → Nat → List ((Nat × Nat) × Cell) → Tally → List ((Nat × Nat) × Cell) × Tally
  | 0, _, xs, t => (xs, t)
  | count + 1, j, xs, t =>
    let r := chunkRun int a b depth rk k j (win j).1 (win j).2 (j == 0 && !acc) at_ xs t
    chunksRun int a b depth rk k acc at_ win count (j + 1) r.1 r.2

/-! ### The epilogue (R157, R158) -/

/-- The epilogue operand of output element (i, j). -/
def epiOperand (s : State) (x : Band) (b : MmBody) (i j : Nat) : Num :=
  let w := if b.epiBf16 then 2 else 4
  let off := if b.bcast = 0 then i * b.outPitch + j * w else if b.bcast = 1 then j * w else i * w
  let v := leNat (stgBytes s x (b.epiOff + off) w)
  if b.epiBf16 then ofBf16 v else decodeIeee 8 23 v

/-- One output element: exact operation, one rounding to out_fmt; its code, its event, and whether its product or addition was invalid,
which alone the invalid count takes (R113). -/
def epiElem (epi : Nat) (fo : FmtWord) (cb : List Nat) (t e : Num) : Nat × BitVec 16 × Bool :=
  let r := if epi = 2 then numAdd t e else if epi = 3 then numMul t e else (t, false)
  let c := convert fo.fmt fo.ovfNan cb r.1
  (c.code, if r.2 then evInvalid else c.ev, r.2)

/-- An event's invalid operation. -/
def invOf (ev : BitVec 16) : Nat := if ev &&& evInvalid = 0 then 0 else 1

/-- The codes of the output in order, and the tally. -/
def epiRun (s : State) (x : Band) (b : MmBody) (fo : FmtWord) (cb : List Nat) (at_ : Nat → Nat → Nat × Nat × Nat) :
    List ((Nat × Nat) × Cell) → Tally → List Nat × Tally
  | [], t => ([], t)
  | (p, v) :: rest, t =>
    let e := epiElem b.epi fo cb (cellNum v) (if 2 ≤ b.epi then epiOperand s x b p.1 p.2 else .fin false 0 0)
    let r := epiRun s x b fo cb at_ rest (tallyAdd t e.2.1 (b2n e.2.2) (at_ p.1 p.2))
    (e.1 :: r.1, r.2)

/-- Write rows of codes into staging, from row i on. -/
def putCodeRows (x : Band) (f : Fmt) (off pitch n : Nat) : Nat → Nat → List Nat → State → State
  | 0, _, _, s => s
  | m + 1, i, cs, s =>
    putCodeRows x f off pitch n m (i + 1) (cs.drop n) (stgPut s x (off + i * pitch) (padRow (m == 0) pitch (packRow f (cs.take n))))

/-! ### Time and counters (R102, R103, R124) -/

/-- c of a pair (R98). -/
def pairCycles (fa fb : FmtWord) : Nat := max (fmtCycles fa.fmt) (fmtCycles fb.fmt)

/-- Chunks of a command. -/
def chunkCount (depth k : Nat) : Nat := (k + depth - 1) / depth

/-- Stationary rows of chunk j. -/
def loadRows (p depth k j : Nat) : Nat := (min depth (k - j * depth) + p - 1) / p

/-- Cycles in which the words of one physical row of B share a bank: the largest number in one bank (R102). -/
def bankConflict (b : MmBody) (row p depth j r : Nat) : Nat :=
  let ks := (List.range p).filter fun i => decide (j * depth + r * p + i < b.k)
  let words := (ks.flatMap fun i =>
    let a := b.bOff + (j * depth + r * p + i) * b.bPitch
    (List.range ((a + row + 63) / 64 - a / 64)).map fun w => a / 64 + w)
  ((List.range 32).map fun bank => (words.eraseDups.filter fun w => w % 32 == bank).length).foldl max 1

/-- Load cycles of chunk j: a row's words take as many cycles as the busiest bank beyond what a single B row needs. -/
def loadCycles (b : MmBody) (row p depth j : Nat) : Nat :=
  ((List.range (loadRows p depth b.k j)).map (bankConflict b row p depth j)).foldl (· + ·) 0

/-- Cycles for which the band is not free (R103). -/
def mmOccupancy (b : MmBody) (c row p depth : Nat) : Nat :=
  ((List.range (chunkCount depth b.k)).map fun j => c * b.m + loadCycles b row p depth j + 12).foldl (· + ·) 0

/-- Whether a command has streamed nothing yet. -/
def freshAt (p : Progress) : Bool := p.chunk == 0 && p.row == 0

/-- The rows of chunk j that a MATMUL of m rows streams between two points of its stream: chunk, and row in it. -/
def rowWindow (m : Nat) (start stop : Nat × Nat) (j : Nat) : Nat :=
  (if j < stop.1 then m else if j = stop.1 then stop.2 else 0) - (if j < start.1 then m else if j = start.1 then start.2 else 0)

/-- The counters after a MATMUL has streamed from one point to another (R124): MACs on real positions, streaming, the loads of the chunks
met (Table 05-5 loads a resumed chunk once more), fill, and at the end of the last chunk the drain but for the cycles that the next
command's load overlaps (R103). `cycBusy` adds them all up, for the idle count of the next retune. -/
def mmCount (e : Engine) (b : MmBody) (c row p depth rows overlap : Nat) (start stop : Nat × Nat) : Engine :=
  let chunks := chunkCount depth b.k
  let met := (List.range chunks).filter fun j => rowWindow b.m start stop j != 0
  let sum := fun (f : Nat → Nat) => (met.map f).foldl (· + ·) 0
  let macs := sum fun j => rowWindow b.m start stop j * b.n * min depth (b.k - j * depth)
  let stream := sum fun j => c * rowWindow b.m start stop j
  let load := sum (loadCycles b row p depth)
  let drain := if chunks ≠ 0 && stop = (chunks, 0) then c * (rows + 255) - overlap else 0
  let fill := drain + sum fun j => if j = start.1 && start.2 ≠ 0 then 0 else 12
  { e with
    macs := (e.macs + macs) % 2 ^ 64
    cycStream := (e.cycStream + stream) % 2 ^ 64
    cycLoad := (e.cycLoad + load) % 2 ^ 64
    cycFill := (e.cycFill + fill) % 2 ^ 64
    cycBusy := e.cycBusy + stream + load + fill }

/-- The band-cycles that an engine split n ways has waited for its write port, of the `port` that are reported: none with four bands or
fewer; with eight, a chunk waits no longer than it streams (R117). -/
def portWaited (e : Engine) (n port : Nat) : Nat := if n ≤ 4 then 0 else min port ((2 ^ 64 + e.cycStream - e.cycPort) % 2 ^ 64)

/-- The two counters of R124 that time alone drives, at a retune: `port` band-cycles waited for the write port (R117), and the rest of
`total` band-cycles idle. -/
def mmIdle (e : Engine) (total port : Nat) : Engine :=
  { e with
    cycPort := (e.cycPort + port) % 2 ^ 64
    cycIdle := (e.cycIdle + (total - (e.cycBusy + port))) % 2 ^ 64
    cycBusy := e.cycBusy + port - total }

/-! ### The rushes check (R176 to R178) -/

/-- Rank of an operand class, narrower first. -/
def classRank : FmtClass → Nat
  | .sub4 => 0
  | .bit4 => 1
  | .bit6 => 2
  | .bit8 => 3
  | .wide => 4

/-- The format of a rushes reference. -/
def refFmt (ref : Nat) : Fmt := if ref = 0 then .bf16 else .e4m3

/-- Whether the tiles of a MATMUL are eligible (R176). -/
def rushEligible (b : MmBody) (r : Rushes) : Bool :=
  match b.fa, b.fb with
  | some fa, some fb =>
    r.en && !b.acc && !(mmInt fa fb) && decide (b.k ≤ 2 ^ 20) &&
      decide (classRank (fmtClass fa.fmt) < classRank (fmtClass (refFmt r.ref)))
  | _, _ => false

/-- The sampled tiles among `count` eligible ones, after `samples` samples (R176). -/
def rushSampled (n samples count : Nat) : List Nat :=
  (List.range count).filter fun i => (samples + i + 1) % 2 ^ n == 2 ^ n - 1

/-- The reference chain sums of one element: scaled elements rounded to the reference format, on a whole engine's path. -/
def refElem (f : Fmt) (a b : Operand) (k m n : Nat) : Num :=
  let depth := depthOf f 256
  let rk := rungK f
  let rnd := fun (v : Num) => decodeElem f [] (convert f false [] v).code
  let chain := fun (j : Nat) => foldFirst f32Add ((List.range (rungCount depth rk k j)).map fun g =>
    foldFirst a20Add ((rungIndices depth rk k j g).map fun i =>
      a20Product (rnd (opScaled a m i).1, false) (rnd (opScaled b i n).1, false)))
  (foldFirst f32Add ((List.range (chunkCount depth k)).map chain)).val

/-- Whether an engine computes a reference. -/
def refEngine (s : State) (e : Nat) : Bool := s.array.rush.any fun j => j.refEngine == e

/-- An engine that may take a reference: same Reel, open to the space, no command admitted on it, holding no context's tiles (R177); none
marked failed (R466), and no sleeping one whose image would come back with it (R435). -/
def refFree (s : State) (slot e cand : Nat) : Bool :=
  let y := s.array.engines.getD cand {}
  cand / 32 == e / 32 && cand != e && engineAllows s cand slot && !(y.tileCtx.any fun o => o.any fun x => (ctxGet s x).isSome) &&
    !(s.err.islFailed.getLsbD cand) && !(refEngine s cand) && !(feedersStopped s cand) &&
    !((s.gaf.islands.getD cand {}).asleep && s.array.images.any fun i => i.ctx.isNone && i.engine == cand) &&
    (!(isShared s) || y.holder == some slot) &&
    !(s.sp.cmds.any fun c => (cmdBusy c || c.phase == .preempted) && engineNamed c == some cand)

/-- A reference takes the context's mask into its space's share of the Reel's shared buffer, through which the operands pass, and into the
tiles of its engine (R177, R358). -/
def refHold (s : State) (c : Cmd) (ref : Nat) : State :=
  let m := ctxMask s c.ctx
  { s with
    array := engineMod s.array ref fun e => { e with holdTile := e.holdTile.map (· ||| m) }
    sp := { s.sp with slots := modAt s.sp.slots c.space fun x =>
      { x with shareMask := modAt x.shareMask (ref / 32) (· ||| m) } } }

/-- The values of the sampled tiles of a command that are to be checked, with the reference values (R177). -/
def rushFill (s : State) (c : Cmd) (b : MmBody) (a w : Operand) (cells : List ((Nat × Nat) × Cell)) : State :=
  match c.rush with
  | none => s
  | some (r, _) =>
    let vals := fun (t : Nat) => (cells.filter fun x => x.1.1 / 256 == t).map fun x =>
      (cellWord x.2, toF32 (refElem (refFmt r.ref) a w b.k x.1.1 x.1.2))
    let mine := s.array.rush.filter fun j => j.cid == c.id
    mine.foldl (fun t j => refHold t c j.refEngine) { s with array := { s.array with
      rush := s.array.rush.map fun j => if j.cid = c.id then { j with vals := vals j.tile } else j } }

/-- The deviation bin of a pair of values (Table 06-9). DESIGN CHOICE: a NaN against an infinity, which the table does not name, lands in bin
15 (log entry 132). -/
def rushBin (c r : Num) : Nat :=
  match c, r with
  | .nan, .nan => 0
  | .inf x, .inf y => if x = y then 0 else 15
  | .fin _ _ _, .fin _ rm re =>
    let d := numDist c r
    let base : Num := if magCmp rm re 1 (-126) == .lt then .fin false 1 (-126) else .fin false rm re
    let below := fun (b : Nat) => numLt d (numMul base (.fin false 1 ((b : Int) - 20))).1
    ((List.range 15).find? below).getD 15
  | _, _ => 15

/-- The tiles of a reference engine are set to +0, of kind F32 (R177). -/
def refZero (a : Array) (e : Nat) : Array :=
  engineMod { a with tiles := smDrop a.tiles (e * 2 ^ 20) ((e + 1) * 2 ^ 20) } e fun y =>
    { y with tileKind := 0, tileCtx := List.replicate 8 none }

/-- RUSHES_CHECK_DONE (R178), once the command's run has ended: the histogram, and RUSHES_DEVIATION on the checked command. An answer
that carries an older wake epoch is discarded (R436). -/
def rushDone (s : State) (cid : Nat) : State :=
  let jobs := s.array.rush.filter fun j => j.cid == cid
  if (cmdGet s cid).any cmdLive then s
  else
    let now := jobs.filter fun j => j.epoch == (s.gaf.islands.getD j.refEngine {}).epoch
    let bins := now.flatMap fun j => j.vals.map fun v => rushBin (ofF32 v.1) (ofF32 v.2)
    let thresh := match (cmdGet s cid).map (·.rush) with
      | some (some r) => r.1.thresh
      | _ => 15
    let bad := bins.any fun b => decide (thresh ≤ b)
    let mark := fun (r : Result) =>
      if bad then { r with
        events := r.events ||| evRushes
        status := if r.status = .ok then .okWithEvents else r.status } else r
    let sp1 := match jobs.head? with
      | some j => ctxMod s.sp j.ctx fun x => { x with bins := bins.foldl (fun l b => modAt l b fun n => satAdd 32 n 1) x.bins }
      | none => s.sp
    { s with
      array := jobs.foldl (fun a j => refZero a j.refEngine) { s.array with rush := s.array.rush.filter fun j => j.cid != cid }
      sp := cmdMod sp1 cid fun c =>
        match c.phase with
        | .finished r => { c with phase := .finished (mark r) }
        | _ => c }

/-! ### MATMUL -/

/-- The output elements of a MATMUL become unspecified: tiles, and the rows of its epilogue's output (R118, log entry 42). -/
def mmLose (s : State) (c : Cmd) : State :=
  let b := mmBody (cmdBody c)
  let x := bandAt s b.engine b.band
  let t := holdWrite (tileSpoil s x b.base b.m b.n) c x (b.epi ≠ 0) true
  if b.epi = 0 then t else stgSpoil t x b.outOff b.outPitch (rowBytes ((b.fo.map (·.fmt)).getD .f32) b.n) b.m

/-- Count what a MATMUL streams of its engine's work between two points of its stream. -/
def mmWorked (s : State) (b : MmBody) (fa fb : FmtWord) (overlap : Nat) (start stop : Nat × Nat) : State :=
  let x := bandAt s b.engine b.band
  let depth := depthOf fa.fmt (bandRows x)
  let count := fun e => mmCount e b (pairCycles fa fb) (rowBytes fb.fmt b.n) (classPack (fmtClass fb.fmt)) depth (bandRows x) overlap start stop
  { s with array := engineMod s.array b.engine count }

/-- A MATMUL that passed its checks ends before its stream does: its outputs become unspecified, and what it streamed from its progress
on, up to a point that a free value picks, is counted. -/
def mmSpoil (s : State) (c : Cmd) (p : Progress := {}) : State :=
  let b := mmBody (cmdBody c)
  match c.opcode == 0x10 && (mmCheck s c.space b).isNone, b.fa, b.fb with
  | true, some fa, some fb =>
    let n := chunkCount (depthOf fa.fmt (bandRows (bandAt s b.engine b.band))) b.k * b.m
    let done := p.chunk * b.m + p.row
    let k := if n = 0 then 0 else done + (freeAt s 0).toNat % (n - done + 1)
    mmLose (mmWorked (freeUse s 1) b fa fb 0 (p.chunk, p.row) (k / b.m, k % b.m)) c
  | _, _, _ => s

/-- The old elements of the output, read as the command's kind. -/
def oldCells (s : State) (x : Band) (b : MmBody) (int : Bool) : List ((Nat × Nat) × Cell) :=
  (positions b.m b.n).map fun p =>
    let w := tileGet s x b.base p.1 p.2
    (p, if int then .i w.toInt else .f (ofF32 w))

/-- What a MATMUL that passed its checks streams: its band, operands, kind, depth and rung, and the place of an element in the record. -/
structure MmRun where
  x : Band
  int : Bool
  a : Operand
  w : Operand
  depth : Nat
  rk : Nat

/-- The operands of a MATMUL as its band's staging region holds them. -/
def mmOpen (s : State) (b : MmBody) (fa fb : FmtWord) : MmRun :=
  let x := bandAt s b.engine b.band
  { x := x, int := mmInt fa fb
    a := operandRead s x fa (fa.share = 0) b.m b.k b.aOff b.aPitch b.saOff b.cbA
    w := operandRead s x fb (fb.share = 2) b.k b.n b.bOff b.bPitch b.sbOff b.cbB
    depth := depthOf fa.fmt (bandRows x), rk := rungK fa.fmt }

/-- The engine-level tile, row and column of an output element (R114). -/
def mmPlace (x : Band) (base i j : Nat) : Nat × Nat × Nat := (bandTile x (base + i / 256), i % 256, j)

/-- The output elements and the tally after the chunks and rows from one point of the stream to another, chunk by chunk and row by
row (R97 to R108, R129, R139). -/
def mmStream (s : State) (b : MmBody) (r : MmRun) (p : Progress) (chunk row : Nat) : List ((Nat × Nat) × Cell) × Tally :=
  let zero : Cell := if r.int then .i 0 else .f (.fin false 0 0)
  let start := if b.acc || !freshAt p then oldCells s r.x b r.int else (positions b.m b.n).map fun q => (q, zero)
  let win := fun j => (if j = p.chunk then p.row else 0, if j = chunk then row else b.m)
  chunksRun r.int r.a r.w r.depth r.rk b.k b.acc (mmPlace r.x b.base) win (chunk + (if row = 0 then 0 else 1) - p.chunk) p.chunk start p.tally

/-- Write the first rows of the output to the tiles; a command with accumulate clear sets their kind (R105). -/
def mmStore (s : State) (b : MmBody) (r : MmRun) (cells : List ((Nat × Nat) × Cell)) (rows : Nat) : State :=
  let words := cells.map fun q => cellWord q.2
  let rs := (List.range rows).map fun i => (words.drop (i * b.n)).take b.n
  tilePutRows r.x b.base 0 rs (if b.acc then s else tileKinds s r.x b.base b.m r.int)

/-- The chunks that are left and the epilogue of a MATMUL that passed its checks (R97 to R108, R123). With K = 0 and accumulate set the
output elements stay as they are (R108). -/
def mmCompute (s : State) (c : Cmd) (b : MmBody) (fa fb : FmtWord) (p : Progress) (overlap : Nat) : State :=
  let r := mmOpen s b fa fb
  let d := mmStream s b r p (chunkCount r.depth b.k) 0
  let s1 := holdRead s c.ctx r.x (b.k ≠ 0 || 2 ≤ b.epi || (b.epi ≠ 0 && b.fo.any fun f => f.fmt == .c4)) (b.acc && b.k ≠ 0 || b.epi ≠ 0)
  let s2 := if b.acc && b.k = 0 then s1 else mmStore s1 b r d.1 b.m
  let s3 := mmWorked s2 b fa fb overlap (p.chunk, p.row) (chunkCount r.depth b.k, 0)
  let s4 := rushFill s3 c b r.a r.w d.1
  let fo := b.fo.getD ⟨.f32, .none, 1, 0, false⟩
  let e := if b.epi = 0 then ([], d.2) else epiRun s r.x b fo (cbRead s r.x fo.fmt b.cbB) (mmPlace r.x b.base) d.1 d.2
  let s5 := if b.epi = 0 then s4 else putCodeRows r.x fo.fmt b.outOff b.outPitch b.n b.m 0 e.1 s4
  cmdEnd (holdWrite s5 c r.x (b.epi ≠ 0) (!b.acc || b.k ≠ 0)) c.id (tallyResult e.2 b.strict b.engine)

/-- Run an admitted MATMUL from where it stands: checks, SRAM errors, arithmetic. -/
def mmRun (s : State) (c : Cmd) (e : SramErr) (p : Progress) (overlap : Nat) : State :=
  let b := mmBody (cmdBody c)
  match mmCheck s c.space b, b.fa, b.fb with
  | none, some fa, some fb =>
    let t := sramCount s b.engine e
    if sramBad e then
      cmdEnd (mmSpoil (holdRead t c.ctx (bandAt t b.engine b.band) true true) c p) c.id { status := .memUncorrectable, band := b.band }
    else mmCompute t c b fa fb p overlap
  | some st, _, _ => cmdEnd s c.id { status := st, band := b.band }
  | none, _, _ => cmdEnd s c.id { status := .badDescriptor, band := b.band }

/-- MATMUL: an admitted command of opcode 0x10 runs, unless its island is held (R425). The next command's load overlaps `overlap` cycles
of its drain (R103). -/
def execMatmul (cid : Nat) (e : SramErr) (s : State) (overlap : Nat := 0) : Host.Outcome State Fault Refusal :=
  .next (match cmdReady s cid 0x10 with
    | some c => if feedersStopped s (fld (cmdBody c) 0 6) then s else mmRun s c e {} overlap
    | none => s)

/-- The MATMUL in progress on a band. -/
def bandCmd (s : State) (engine band : Nat) : Option Cmd :=
  s.sp.cmds.find? fun c => c.opcode == 0x10 && cmdRunning c && fld (cmdBody c) 0 6 == engine && fld (cmdBody c) 6 3 == band

/-! ### Pre-emption (R121, R139, R140) -/

/-- Whether a MATMUL of the band may be cut at chunk and row, and what it leaves there: tiles, kinds, masks and the tally. -/
def mmPart (s : State) (c : Cmd) (b : MmBody) (fa fb : FmtWord) (chunk row : Nat) : State × Tally :=
  let r := mmOpen s b fa fb
  let d := mmStream s b r {} chunk row
  let rows := if chunk = 0 then row else b.m
  if rows = 0 then (s, {})
  else (holdWrite (mmStore (holdRead s c.ctx r.x true b.acc) b r d.1 rows) c r.x false true, d.2)

/-- The last row streamed before a point: its chunk and row. -/
def lastRow (m chunk row : Nat) : Option (Nat × Nat) :=
  if row ≠ 0 then some (chunk, row - 1) else if chunk ≠ 0 then some (chunk - 1, m - 1) else none

/-- The partial that the cell of physical row q and column n holds after a row: the sum so far of its rung (R129, R132). DESIGN CHOICE: for
an integer-like pair, of which Table 05-4 does not speak, the slot holds the low 20 bits of the integer partial (log entry 114). -/
def cellPartial (r : MmRun) (k j i q n : Nat) : BitVec 20 :=
  let pack := r.rk / 32
  if loadRows pack r.depth k j ≤ q then 0
  else
    let ks := (rungIndices r.depth r.rk k j (q / 32)).filter fun x => decide (x < j * r.depth + (q + 1) * pack)
    if r.int then
      BitVec.ofInt 20 (foldInt (ks.map fun x => (decodeInt r.a.w.fmt (opCode r.a i x) * decodeInt r.w.w.fmt (opCode r.w x n), 0))).1
    else encodeA20 (foldFirst a20Add (ks.map fun x => a20Product (opScaled r.a i x) (opScaled r.w x n))).val

/-- The slot of rung g and column n after a row: the chain through that rung. -/
def chainSlot (r : MmRun) (k j i g n : Nat) : W32 :=
  if rungCount r.depth r.rk k j ≤ g then 0
  else if r.int then
    BitVec.ofInt 32 (foldInt ((List.range (g + 1)).map fun h => foldInt ((rungIndices r.depth r.rk k j h).map fun x =>
      (decodeInt r.a.w.fmt (opCode r.a i x) * decodeInt r.w.w.fmt (opCode r.w x n), 0)))).1
  else
    toF32 (foldFirst f32Add ((List.range (g + 1)).map fun h => foldFirst a20Add ((rungIndices r.depth r.rk k j h).map fun x =>
      a20Product (opScaled r.a i x) (opScaled r.w x n)))).val

/-- The A20 partials and chain slots of a band cut at chunk and row (Table 05-4): what the last row streamed has left in its cells
(log entry 114). -/
def bandCells (r : MmRun) (b : MmBody) (chunk row : Nat) : List (BitVec 20) × List W32 :=
  match lastRow b.m chunk row with
  | none => (List.replicate (bandRows r.x * 256) 0, List.replicate (bandRows r.x / 32 * 256) 0)
  | some (j, i) =>
    ((List.range (bandRows r.x)).flatMap fun q => (List.range 256).map fun n => if n < b.n then cellPartial r b.k j i q n else 0,
      (List.range (bandRows r.x / 32)).flatMap fun g => (List.range 256).map fun n => if n < b.n then chainSlot r b.k j i g n else 0)

/-- Restore a save image: tiles and staging bytes of its part of the engine, kinds and holding masks. A pre-empted command's image keeps
the command's progress until it resumes. -/
def imageRestore (s : State) (i : Image) (x : Band) (withStaging : Bool) : State :=
  let lo := tileKey i.engine (bandTile x 0) 0 0
  let hi := lo + bandTiles x * 2 ^ 16
  let mask : BitVec 16 := BitVec.ofNat 16 ((2 ^ bandTiles x - 1) * 2 ^ bandTile x 0)
  let a := { s.array with
    tiles := smPlace 0 (smDrop s.array.tiles lo hi) lo i.tiles
    staging := if withStaging then smPlace 0 (smDrop s.array.staging (bandStg x) (bandStg x + bandBytes x)) (bandStg x) i.staging
      else s.array.staging
    images := if i.cid.isSome then s.array.images.map fun y => if y = i then { i with loaded := true } else y
      else s.array.images.erase i }
  { s with array := engineMod a i.engine fun e =>
      { e with
        tileKind := (e.tileKind &&& ~~~mask) ||| (i.tileKind &&& mask)
        holdTile := if withStaging then i.holdTile else e.holdTile.set x.band (i.holdTile.getD x.band 0)
        holdStg := if withStaging then i.holdStg else e.holdStg
        stgCtx := if withStaging then i.stgCtx else e.stgCtx
        tileCtx := if withStaging then i.tileCtx else e.tileCtx.set x.band i.ctx
        holder := some i.space, written := true } }

/-- Bytes of the save image of a band of an engine split n ways (Table 05-4). -/
def bandImageBytes (n : Nat) : Nat := (4194304 + 163840 + 8192) / n + 8 + 64

/-- Where an image lies in its pages: a band's among those of its engine's other bands, three pages in all (R428, R432); a space's staging
image fills six. -/
def imagePlace (s : State) (i : Image) : Nat × Nat :=
  let k := bandImageBytes (bandCount s i.engine)
  if i.ctx.isSome then (i.band * k, k) else (0, 6 * 2 ^ 21)

/-- Read n bytes from an offset of save pages: the status of the first failing read. -/
def saveGet (slot : Nat) : List Nat → Nat → Nat → State → State × Status
  | [], _, _, s => (s, .ok)
  | p :: ps, off, n, s =>
    if 2 ^ 21 ≤ off then saveGet slot ps (off - 2 ^ 21) n s
    else
      let k := min n (2 ^ 21 - off)
      let x := readPhys s { space := slot } (p * 2 ^ 21 + off) k
      if x.status = .ok then saveGet slot ps 0 (n - k) x.st else (x.st, x.status)

/-- Whether a save image can be read (R140, R435). -/
def imageStatus (s : State) (i : Image) : State × Status := saveGet i.space i.pages (imagePlace s i).1 (imagePlace s i).2 s

/-- Whether a space may run on an engine now: in its own window under strict slicing, and with the engine handed to it in a Shared
rig (R431, R432). -/
def engineOurs (s : State) (slot e : Nat) : Bool :=
  windowOpen s slot && (!isShared s || (s.array.engines.getD e {}).holder == some slot)

/-! ### Watchdog and counters (R120, R124) -/

/-- BAND_WATCHDOG (R120). DESIGN CHOICE: a fault in the band's feeders, cells or output port (R118), whose status the spec does not give,
shows as the band's watchdog (log entry 132). A held band's watchdog does not count (R425); else the band's command fails with WATCHDOG, its outputs become unspecified, the band's bit is set. -/
def bandWatchdog (engine band : Nat) (s : State) : State :=
  match bandCmd s engine band with
  | some c =>
    if feedersStopped s engine then s else
    let t := { s with array := engineMod s.array engine fun e => { e with wdog := e.wdog ||| BitVec.ofNat 8 (2 ^ band) } }
    cmdEnd (mmSpoil t c) c.id { status := .watchdog, band := band }
  | none => s

/-- BAND_WATCHDOG. -/
def execBandWatchdog (engine band : Nat) (s : State) : Host.Outcome State Fault Refusal := .next (bandWatchdog engine band s)

/-- RUSHES_CHECK_DONE. -/
def execRushesCheckDone (cid : Nat) (s : State) : Host.Outcome State Fault Refusal := .next (rushDone s cid)

/-- Every counter of an engine's block at 0. -/
def mxeClear (e : Engine) : Engine :=
  { e with
    macs := 0, cycStream := 0, cycLoad := 0, cycFill := 0, cycPort := 0, cycIdle := 0
    stgCorr := 0, stgUnc := 0, accCorr := 0, accUnc := 0 }

/-- MXE_CNT_CLEAR (R124): writing 1 to bit 0. -/
def mxeCntClear (engine : Nat) (v : Word) (s : State) : Answer :=
  ⟨if v.getLsbD 0 then { s with array := engineMod s.array engine mxeClear } else s, .ok, []⟩

/-- MXE_CNT_CLEAR. -/
def execMxeCntClear (p : Port) (tag engine : Nat) (v : Word) (s : State) : Host.Outcome State Fault Refusal :=
  .next (mgmtWrite p tag (.mxeCntClear p tag engine v) (mxeCntClear engine v) s)

end Sys2Proof.Machine
end

