-- ==== Sys2Proof/Machine/Vector.lean ====
section
/-! DEFINITION. The vector engine's VECTOR command: operand specs, the operations of Table 06-1, row reductions and norms
(R155 to R167). -/

namespace Sys2Proof.Machine

/-! ### Bodies (Table 06-3, R165) -/

/-- An operand spec. -/
structure OpSpec where
  tile : Bool
  bf16 : Bool
  shape : Nat
  off : Nat
  pitch : Nat
  resv : Nat
deriving DecidableEq, Repr

/-- The fields of an operand spec of 36 bits; the pitch in bytes. -/
def opSpec (v : Nat) : OpSpec :=
  { tile := v.testBit 0, bf16 := v.testBit 1, shape := fld v 2 2, off := fld v 4 17, pitch := 64 * fld v 21 12, resv := fld v 33 3 }

/-- VECTOR's body. -/
structure VecBody where
  engine : Nat
  band : Nat
  op : Nat
  m : Nat
  n : Nat
  pred : Nat
  imm : Nat
  x : OpSpec
  y : OpSpec
  z : OpSpec
  o : OpSpec
  fo : Option FmtWord
  scOff : Nat
  resv : Nat
deriving DecidableEq, Repr

/-- VECTOR's fields. -/
def vecBody (v : Nat) : VecBody :=
  { engine := fld v 0 6, band := fld v 6 3, op := fld v 9 6, m := fld v 15 13, n := fld v 28 13, pred := fld v 41 4
    imm := fld v 45 32, x := opSpec (fld v 77 36), y := opSpec (fld v 113 36), z := opSpec (fld v 149 36)
    o := opSpec (fld v 185 36), fo := fmtWordOf (fld v 221 16), scOff := 64 * fld v 237 17, resv := fld v 254 34 }

/-- The operations of Table 06-1. -/
def vecOpKnown (op : Nat) : Bool :=
  (decide (1 ≤ op) && decide (op ≤ 0x0E)) || (decide (0x10 ≤ op) && decide (op ≤ 0x18)) ||
    (decide (0x20 ≤ op) && decide (op ≤ 0x24)) || op == 0x28 || op == 0x29

/-- The ROW_ reductions. -/
def vecIsRow (op : Nat) : Bool := decide (0x20 ≤ op) && decide (op ≤ 0x24)

/-- How many of X, Y, Z an operation reads. -/
def vecArity (op : Nat) : Nat :=
  if op = 0x04 || op = 0x17 || op = 0x29 then 3
  else if [0x01, 0x02, 0x03, 0x05, 0x10, 0x11, 0x12, 0x13, 0x16, 0x28].contains op then 2 else 1

/-- The operands an operation reads. -/
def vecInputs (b : VecBody) : List OpSpec := [b.x, b.y, b.z].take (vecArity b.op)

/-- CONVERT. -/
def vecIsConvert (b : VecBody) : Bool := b.op == 0x18

/-- Bytes of an element of a staging operand. -/
def specWidth (p : OpSpec) : Nat := if p.bf16 then 2 else 4

/-- Bytes of one row of a staging operand: of a column vector a row is one element (log entry 45). -/
def specRow (p : OpSpec) (n : Nat) : Nat := (if p.shape = 2 then 1 else n) * specWidth p

/-- Rows of a staging operand: one of a row vector. -/
def specRows (p : OpSpec) (m : Nat) : Nat := if p.shape = 1 then 1 else m

/-- Whether a staging input lies in the band's region. -/
def specFits (x : Band) (p : OpSpec) (m n : Nat) : Bool :=
  p.tile || p.shape = 3 || stgFits x (64 * p.off) (spanOf (specRows p m) p.pitch (specRow p n))

/-- Bytes of one output row in staging. -/
def outRow (b : VecBody) : Nat :=
  if vecIsConvert b then rowBytes ((b.fo.map (·.fmt)).getD .f32) b.n else specRow b.o b.n

/-- A tile operand of a command: not the scalar. -/
def specTile (p : OpSpec) : Bool := p.tile && p.shape != 3

/-- The tiles a tile operand takes. -/
def specTiles (p : OpSpec) (m : Nat) : Nat := if p.shape = 1 then 1 else tilesFor m

/-- A tile operand of a command whose n is above 256, or past the band's last tile (Table 06-4). -/
def tileOver (x : Band) (p : OpSpec) (m n : Nat) : Bool :=
  specTile p && (decide (256 < n) || decide (bandTiles x < p.off % 16 + specTiles p m))

/-- A staging operand whose pitch is below one of its rows (Table 06-4); the scalar has no rows. -/
def pitchShort (p : OpSpec) (row : Nat) : Bool := !p.tile && p.shape != 3 && decide (p.pitch < row)

/-- The scale tensor and codebook of CONVERT: codebook offset, scale offset (Table 06-3). -/
def convOffs (fo : FmtWord) (sc : Nat) : Nat × Nat := (sc, if fo.fmt = .c4 then sc + 64 else sc)

/-- A format word outside a matrix command: valid under R71, its share along K or M (R80). -/
def fwOk (w : FmtWord) (isOutput : Bool) : Bool := ovfOk w isOutput && w.share != 2

/-- CONVERT's checks on its format word, scales and codebook: true where they are in order. -/
def convOk (s : State) (x : Band) (b : VecBody) : Bool :=
  match b.fo with
  | none => false
  | some fo =>
    let p := convOffs fo b.scOff
    fwOk fo true && !(b.o.tile && (fo.fmt != .f32 || fo.scale != .none)) &&
      (fo.fmt != .c4 || (stgFits x p.1 cbBytes && cbHasFinite (cbRead s x .c4 p.1))) &&
      stgFits x p.2 (scaleSize fo (fo.share = 0) b.m b.n)

/-- Table 06-4 for VECTOR, in the table's order. -/
def vecCheck (s : State) (slot : Nat) (b : VecBody) : Option Status :=
  let x := bandAt s b.engine b.band
  let ins := vecInputs b
  if b.resv ≠ 0 || [b.x, b.y, b.z, b.o].any (fun p => p.resv != 0) || !(vecOpKnown b.op) ||
      (b.pred ≠ 0 && (b.op ≠ 0x16 || 5 < b.pred)) || (vecIsConvert b && !(convOk s x b)) then some .badDescriptor
  else if b.o.shape ≠ (if vecIsRow b.op then 2 else 0) then some .badDescriptor
  else if (b.o :: ins).any (fun p => specTile p && 16 ≤ p.off) then some .badDescriptor
  else if !(bandOk s slot x) then some .badDescriptor
  else if b.o.tile && (List.range (tilesFor b.m)).any
      (fun i => b.o.off % 16 + i < bandTiles x && tileIsInt s x (b.o.off % 16 + i)) then some .badDescriptor
  else if !(ins.all fun p => specFits x p b.m b.n) ||
      (!b.o.tile && !(stgFits x (64 * b.o.off) (spanOf b.m b.o.pitch (outRow b)))) then
    some .badDescriptor
  else if (b.o :: ins).any (fun p => tileOver x p b.m b.n) then some .badShape
  else if ins.any (fun p => pitchShort p (specRow p b.n)) || pitchShort b.o (outRow b) then some .badShape
  else if b.m = 0 || 4096 < b.m || b.n = 0 || 4096 < b.n then some .badShape
  else none

/-! ### Operands -/

/-- The value of an operand at (i, j); an I32 tile element rounds to F32 (R156). -/
def specGet (s : State) (x : Band) (imm : Nat) (p : OpSpec) (i j : Nat) : Num :=
  let i' := if p.shape = 1 then 0 else i
  let j' := if p.shape = 2 then 0 else j
  if p.shape = 3 then decodeIeee 8 23 imm
  else if p.tile then f32 (tileNum s x (p.off % 16) i' j')
  else
    let a := i' * p.pitch + j' * specWidth p
    let v := leNat (stgBytes s x (64 * p.off + a) (specWidth p))
    if p.bf16 then ofBf16 v else decodeIeee 8 23 v

/-! ### Operations (R159 to R162) -/

/-- A value with its events and invalid operations: the steps of a computation. -/
structure Val where
  v : Num
  ev : BitVec 16
  inv : Nat
deriving DecidableEq, Repr

/-- A value with no event. -/
def valOf (v : Num) : Val := ⟨v, 0, 0⟩

/-- An operation with its invalid flag. -/
def valInv (p : Num × Bool) : Val := ⟨p.1, if p.2 then evInvalid else 0, b2n p.2⟩

/-- The event of a division. -/
def valDiv (p : Num × DivEv) : Val :=
  match p.2 with
  | .none => ⟨p.1, 0, 0⟩
  | .divZero => ⟨p.1, evDivZero, 0⟩
  | .invalid => ⟨p.1, evInvalid, 1⟩

/-- The event of a bounded operation. -/
def valApprox (p : Num × Nat) : Val :=
  ⟨p.1, if p.2 = 1 then evInvalid else if p.2 = 2 then evDivZero else if p.2 = 3 then evOverflow
    else if p.2 = 4 then evUnderflow else 0, b2n (p.2 == 1)⟩

/-- Round a step to F32: OVERFLOW and UNDERFLOW (R161). -/
def valRound (x : Val) : Val :=
  let c := convIeee 8 23 x.v
  ⟨decodeIeee 8 23 c.code, x.ev ||| c.ev, x.inv⟩

/-- A step after others: their events stay. -/
def valAfter (x : Val) (ev : BitVec 16) (inv : Nat) : Val := { x with ev := x.ev ||| ev, inv := x.inv + inv }

/-- Whether a predicate of CMP holds (R88). -/
def cmpHolds (pred : Nat) (x y : Num) : Bool :=
  if pred = 0 then numEq x y else if pred = 1 then !(numEq x y) else if pred = 2 then numLt x y
  else if pred = 3 then numLt x y || numEq x y else if pred = 4 then numLt y x else numLt y x || numEq x y

/-- 1.0. -/
def numOne : Num := .fin false 1 0

/-- An element-wise operation: exact for the correctly rounded and exact ones, an F32 value for the bounded ones. -/
def vecElem (op pred : Nat) (x y z : Num) : Val :=
  if op = 0x01 then valInv (numAdd x y)
  else if op = 0x02 then valInv (numSub x y)
  else if op = 0x03 then valInv (numMul x y)
  else if op = 0x04 then
    let p := numMul x y
    let q := numAdd p.1 z
    ⟨q.1, if p.2 || q.2 then evInvalid else 0, b2n p.2 + b2n q.2⟩
  else if op = 0x05 then valDiv (numDiv x y)
  else if op = 0x06 then valInv (numSqrt x)
  else if op ≤ 0x0E then valApprox (approxOp op x)
  else if op = 0x10 then valOf (numMax x y)
  else if op = 0x11 then valOf (numMin x y)
  else if op = 0x12 then valOf (numMaxNum x y)
  else if op = 0x13 then valOf (numMinNum x y)
  else if op = 0x14 then valOf (numAbs x)
  else if op = 0x15 then valOf (numNeg x)
  else if op = 0x16 then valOf (if cmpHolds pred x y then numOne else .fin false 0 0)
  else if op = 0x17 then valOf (if numIsZero x then z else y)
  else valOf x

/-! ### Row reductions and norms (R163, R164) -/

/-- One addition of a row sum, rounded. -/
def sumStep (x y : Val) : Val :=
  let p := valInv (numAdd x.v y.v)
  valAfter (valRound p) (x.ev ||| y.ev) (x.inv + y.inv)

/-- One level of the tree: pairs added, an odd last value passes through. -/
def sumPairs : List Val → List Val
  | a :: b :: r => sumStep a b :: sumPairs r
  | l => l

/-- The eight levels over a segment. -/
def sumLevels : Nat → List Val → List Val
  | 0, l => l
  | k + 1, l => sumLevels k (sumPairs l)

/-- A segment of at most 256 values. -/
def sumSegment (l : List Val) : Val := (sumLevels 8 l).headD (valOf (.fin false 0 0))

/-- Segments of 256, added from left to right. -/
def rowSum (l : List Val) : Val :=
  let segs := (List.range ((l.length + 255) / 256)).map fun k => sumSegment ((l.drop (256 * k)).take 256)
  match segs with
  | [] => valOf (.fin false 0 0)
  | a :: r => r.foldl sumStep a

/-- The sum of squares, each square rounded. -/
def rowSumSq (l : List Val) : Val :=
  rowSum (l.map fun x => valAfter (valRound (valInv (numMul x.v x.v))) x.ev x.inv)

/-- A ROW_ reduction (R162, R163): AMAX skips NaN elements, MAX and MIN propagate them. -/
def rowReduce (op : Nat) (xs : List Num) : Val :=
  if op = 0x20 then rowSum (xs.map valOf)
  else if op = 0x21 then rowSumSq (xs.map valOf)
  else
    match xs with
    | [] => valOf (.fin false 0 0)
    | a :: r =>
      if op = 0x22 then valOf (r.foldl (fun u v => numMaxNum u (numAbs v)) (numAbs a))
      else if op = 0x23 then valOf (r.foldl numMax a)
      else valOf (r.foldl numMin a)

/-- The rounded quotient by a row's length. -/
def divLen (x : Val) (n : Nat) : Val := valAfter (valRound (valDiv (numDiv x.v (numOfInt n)))) x.ev x.inv

/-- rsqrt(rne(rne(s / n) + eps)), with the events of the per-row steps. -/
def normScale (sq : Val) (n : Nat) (eps : Num) : Val :=
  let a := divLen sq n
  let b := valAfter (valRound (valInv (numAdd a.v eps))) a.ev a.inv
  let r := valApprox (approxOp 0x07 b.v)
  valAfter r b.ev b.inv

/-- RMSNORM of a row: its per-row steps and its elements. -/
def rmsNorm (xs gs : List Num) (eps : Num) : Val × List Val :=
  let r := normScale (rowSumSq (xs.map valOf)) xs.length eps
  (r, (xs.zip gs).map fun p =>
    let q := valRound (valInv (numMul p.1 r.v))
    let t := valRound (valInv (numMul q.v p.2))
    valAfter t q.ev q.inv)

/-- LAYERNORM of a row; the final multiply-add rounds once. -/
def layerNorm (xs gs bs : List Num) (eps : Num) : Val × List Val :=
  let sum := rowSum (xs.map valOf)
  let mu := divLen sum xs.length
  let ds := xs.map fun x => valRound (valInv (numSub x mu.v))
  let r := normScale (rowSumSq (ds.map fun d => valOf d.v)) xs.length eps
  (valAfter r mu.ev mu.inv, (ds.zip (gs.zip bs)).map fun p =>
    let q := valRound (valInv (numMul p.1.v r.v))
    let f := vecElem 0x04 0 q.v p.2.1 p.2.2
    let t := valRound f
    valAfter t (p.1.ev ||| q.ev) (p.1.inv + q.inv))

/-! ### Output rows -/

/-- One output element: its code, events and invalid operations. -/
structure OutEl where
  code : Nat
  ev : BitVec 16
  inv : Nat
deriving DecidableEq, Repr

/-- The output of a value in F32 or BF16: rounded once more from what the operation gives (R160). -/
def outEl (bf16 : Bool) (x : Val) : OutEl :=
  let c := if bf16 then convIeee 8 7 x.v else convIeee 8 23 x.v
  ⟨c.code, x.ev ||| c.ev, x.inv⟩

/-- What a row gives: the events of its per-row steps, and its elements. -/
structure OutRow where
  ev : BitVec 16
  inv : Nat
  els : List OutEl
deriving DecidableEq, Repr

/-- A tally in which an element's clips, invalid operations and events are added; `at_` is its place. -/
def tallyRow (at_ : Nat → Nat × Nat × Nat) (r : OutRow) (t : Tally) : Tally :=
  ((List.range r.els.length).zip r.els).foldl (fun t e => tallyAdd t e.2.ev e.2.inv (at_ e.1)) (tallyAdd t r.ev r.inv (at_ 0))

/-- Conversion of an element to a format word with its scale; the block's DIVZERO is not an event of it (`convAt`). -/
def convEl (fo : FmtWord) (cb : List Nat) (scale : Num) (v : Num) : OutEl :=
  let c := if fo.scale = .none then convert fo.fmt fo.ovfNan cb v else (convertScaled fo.fmt fo.ovfNan cb v scale).1
  ⟨c.code, c.ev, invOf c.ev⟩

/-- The elements of the block of (i, j) before it. -/
def blockBefore (fo : FmtWord) (i j : Nat) : List (Nat × Nat) :=
  if fo.share = 0 then (List.range (j % fo.block)).map fun k => (i, j - j % fo.block + k)
  else (List.range (i % fo.block)).map fun k => (i - i % fo.block + k, j)

/-- A zero scale. -/
def zeroScale : Num → Bool
  | .fin _ 0 _ => true
  | _ => false

/-- Element (i, j) of a conversion whose elements are `el`: under a zero scale the block's one DIVZERO goes to its first element with no
event of its own (R94, R96, log entry 113). -/
def convAt (fo : FmtWord) (scale : Num) (el : Nat → Nat → OutEl) (i j : Nat) : OutEl :=
  let e := el i j
  if fo.scale != .none && zeroScale scale && e.ev == 0 && (blockBefore fo i j).all (fun p => (el p.1 p.2).ev != 0) then
    { e with ev := evDivZero }
  else e

/-- The scale of element (i, j) of a tensor in staging. -/
def scaleAt (s : State) (x : Band) (fo : FmtWord) (off n i j : Nat) : Num :=
  let z := scaleBytes fo.scale
  decodeScale fo.scale (leNat (stgBytes s x (off + z * scaleIndex (fo.share = 0) fo.block n i j) z))

/-- Row i of CONVERT. -/
def convRow (s : State) (x : Band) (b : VecBody) (fo : FmtWord) (i : Nat) : OutRow :=
  let p := convOffs fo b.scOff
  let cb := cbRead s x fo.fmt p.1
  let sc := fun i j => if fo.scale = .none then numOne else scaleAt s x fo p.2 b.n i j
  let el := fun i j => convEl fo cb (sc i j) (specGet s x b.imm b.x i j)
  { ev := 0, inv := 0, els := (List.range b.n).map fun j => convAt fo (sc i j) el i j }

/-- Row i of a VECTOR command. -/
def vecRow (s : State) (x : Band) (b : VecBody) (i : Nat) : OutRow :=
  let get := fun p => (List.range b.n).map fun j => specGet s x b.imm p i j
  let bf := b.o.bf16 && !b.o.tile
  if vecIsConvert b then convRow s x b (b.fo.getD ⟨.f32, .none, 1, 0, false⟩) i
  else if vecIsRow b.op then
    let r := outEl bf (rowReduce b.op (get b.x))
    { ev := r.ev, inv := r.inv, els := [⟨r.code, 0, 0⟩] }
  else if b.op = 0x28 || b.op = 0x29 then
    let eps := decodeIeee 8 23 b.imm
    let r := if b.op = 0x28 then rmsNorm (get b.x) (get b.y) eps else layerNorm (get b.x) (get b.y) (get b.z) eps
    { ev := r.1.ev, inv := r.1.inv, els := r.2.map (outEl bf) }
  else
    { ev := 0, inv := 0
      els := (List.range b.n).map fun j =>
        let g := fun p => specGet s x b.imm p i j
        outEl bf (vecElem b.op b.pred (g b.x) (g b.y) (g b.z)) }

/-- The format of the output's codes in staging. -/
def outFmtOf (b : VecBody) : Fmt :=
  if vecIsConvert b then (b.fo.map (·.fmt)).getD .f32 else if b.o.bf16 then .bf16 else .f32

/-- Write row i of the output. -/
def vecWriteRow (x : Band) (b : VecBody) (i : Nat) (r : OutRow) (s : State) : State :=
  let codes := r.els.map (·.code)
  if b.o.tile then tilePutRow s x (b.o.off % 16) i (codes.map fun c => BitVec.ofNat 32 c)
  else
    stgPut s x (64 * b.o.off + i * b.o.pitch) (padRow (i + 1 == b.m) b.o.pitch (packRow (outFmtOf b) codes))

/-- Write rows from i on. -/
def vecWriteRows (x : Band) (b : VecBody) : Nat → List OutRow → State → State
  | _, [], s => s
  | i, r :: rs, s => vecWriteRows x b (i + 1) rs (vecWriteRow x b i r s)

/-- Whether a command reads staging and tiles. -/
def vecReads (b : VecBody) : Bool × Bool :=
  let ins := vecInputs b
  (ins.any (fun p => !p.tile && p.shape != 3) ||
      (vecIsConvert b && (b.fo.any fun f => f.scale != .none || f.fmt == .c4)),
    ins.any specTile)

/-- The output of a command that failed on an SRAM word is unspecified (log entry 42). -/
def vecSpoil (s : State) (x : Band) (b : VecBody) : State :=
  if b.o.tile then tileSpoil s x (b.o.off % 16) b.m (if b.o.shape = 2 then 1 else b.n)
  else stgSpoil s x (64 * b.o.off) b.o.pitch (outRow b) b.m

/-- A VECTOR command that passed its checks. Every input is read before the output is written (log entry 46). DESIGN CHOICE: an event is
placed by the output's location, tile 0 and the plain row for an output in staging even where an input is a tile; R167 does not say which
where they differ (log entry 132). -/
def vecGo (s : State) (c : Cmd) (b : VecBody) : State :=
  let x := bandAt s b.engine b.band
  let rows := (List.range b.m).map (vecRow s x b)
  let at_ := fun i j => if b.o.tile then (bandTile x (b.o.off % 16 + i / 256), i % 256, j) else (0, i, j)
  let t := ((List.range b.m).zip rows).foldl (fun t p => tallyRow (at_ p.1) p.2 t) {}
  cmdEnd (holdWrite (vecWriteRows x b 0 rows s) c x (!b.o.tile) b.o.tile) c.id (tallyResult t true b.engine)

/-- Run an admitted VECTOR command. -/
def vecRun (s : State) (c : Cmd) (e : SramErr) : State :=
  let b := vecBody (cmdBody c)
  let x := bandAt s b.engine b.band
  match vecCheck s c.space b with
  | some st => cmdEnd s c.id (resultOf st)
  | none =>
    let s1 := holdRead (sramCount s b.engine e) c.ctx x (vecReads b).1 (vecReads b).2
    if sramBad e then
      cmdEnd (holdWrite (vecSpoil s1 x b) c x (!b.o.tile) b.o.tile) c.id (resultOf .memUncorrectable)
    else vecGo s1 c b

/-- VECTOR: an admitted command of opcode 0x20 runs. -/
def execVector (cid : Nat) (e : SramErr) (s : State) : Host.Outcome State Fault Refusal :=
  .next (match cmdReady s cid 0x20 with
    | some c => vecRun s c e
    | none => s)

end Sys2Proof.Machine
end

