-- ==== Sys2Proof/Machine/Quantize.lean ====
section
/-! DEFINITION. QUANTIZE (R168 to R172), RANDOM (R173 to R175) and the grip watchdog (R181). -/

namespace Sys2Proof.Machine

/-! ### Scale selection (R169 to R171) -/

/-- The largest finite magnitude of an output format: m · 2^e (Table 06-5); C4 takes its codebook's. -/
def quantMax (f : Fmt) (cb : List Nat) : Nat × Int :=
  match f with
  | .e5m2 => (7, 13)
  | .i8 => (127, 0)
  | .i4 => (7, 0)
  | .c4 =>
    match (cb.map fun c => numAbs (ofBf16 c)).foldl (fun a v => if numIsFin v && numLt a v then v else a) (.fin false 0 0) with
    | .fin _ m e => (m, e)
    | _ => (0, 0)
  | .i2 | .t2 => (1, 0)
  | g => fmtMax g

/-- Round a positive value up to a multiple of 2^lsb. -/
def ceilMul (lsb : Int) (m : Nat) (e : Int) : Nat :=
  if lsb ≤ e then m * 2 ^ (e - lsb).toNat else (m + 2 ^ (lsb - e).toNat - 1) / 2 ^ (lsb - e).toNat

/-- A positive value rounded to p significant bits with no bit below 2^lo: to nearest even, or up. -/
def scaleRound (up : Bool) (p : Nat) (lo : Int) (m : Nat) (e : Int) : Nat × Int :=
  if up then
    let lsb := max (e + bitLen m - p) lo
    (ceilMul lsb m e, lsb)
  else roundSig p lo m e

/-- The code of a positive scale in UE4M3 or BF16, clamped to the format's finite nonzero range (R170). -/
def scaleCode (bf16 up : Bool) (m : Nat) (e : Int) : Nat :=
  if bf16 then
    let r := scaleRound up 8 (-133) m e
    if r.1 = 0 then 1
    else if magCmp r.1 r.2 255 120 == .gt then 0x7F7F
    else encodeIeee 8 7 (.fin false r.1 r.2)
  else
    let r := scaleRound up 4 (-9) m e
    if r.1 = 0 then 1
    else if magCmp r.1 r.2 7 6 == .gt then 0x7E
    else encodeSmall 4 3 7 (.fin false r.1 r.2)

/-- A UE8M0 code of an exponent, clamped to 0 to 254. -/
def ue8Code (k : Int) : Nat := (max 0 (min 254 (k + 127))).toNat

/-- The ceiling of log2 of a positive magnitude. -/
def ceilLog2 (m : Nat) (e : Int) : Int := if m = 2 ^ (bitLen m - 1) then log2Mag m e else log2Mag m e + 1

/-- Scale 1.0. -/
def unitScale (f : ScaleFmt) : Nat :=
  match f with
  | .none => 0
  | .ue8m0 => 127
  | .ue4m3 => 0x38
  | .bf16 => 0x3F80

/-- The scale of a block by Table 06-6; `amax` of 0 or NaN, or `mx` of 0, gives 1.0, and +∞ counts as the largest finite F32. -/
def pickScale (f : ScaleFmt) (rule1 : Bool) (mx : Nat × Int) (amax : Num) : Nat :=
  let go := fun (m : Nat) (e : Int) =>
    if m = 0 || mx.1 = 0 then unitScale f
    else
      match f with
      | .none => 0
      | .ue8m0 =>
        let k0 := log2Mag m e - log2Mag mx.1 mx.2
        if rule1 then ue8Code (if magCmp m e mx.1 (mx.2 + k0) == .gt then k0 + 1 else k0) else ue8Code k0
      | g =>
        let q := stickyDiv m e mx.1 mx.2
        scaleCode (g == .bf16) rule1 q.1 q.2
  match amax with
  | .nan => unitScale f
  | .inf _ => go (2 ^ 24 - 1) 104
  | .fin _ m e => go m e

/-- The scale of a B1 block: the mean of |x| over its finite elements (R171). -/
def b1Scale (f : ScaleFmt) (rule1 : Bool) (xs : List Num) : Nat :=
  let fins := (xs.filter numIsFin).map numAbs
  let sum := fins.foldl (fun a v => (numAdd a v).1) (.fin false 0 0)
  match (if fins.isEmpty then (.fin false 0 0, DivEv.none) else numDiv sum (numOfInt fins.length)).1 with
  | .fin _ m e =>
    if m = 0 then unitScale f
    else
      match f with
      | .none => 0
      | .ue8m0 => ue8Code (if rule1 then ceilLog2 m e else log2Mag m e)
      | g => scaleCode (g == .bf16) rule1 m e
  | _ => unitScale f

/-- The amax of a block (R169). -/
def blockAmax (xs : List Num) : Num := xs.foldl (fun u v => numMaxNum u (numAbs v)) .nan

/-! ### QUANTIZE's body (Table 06-7) -/

/-- QUANTIZE's body. -/
structure QuantBody where
  engine : Nat
  band : Nat
  src : OpSpec
  m : Nat
  n : Nat
  fo : Option FmtWord
  out : OpSpec
  scOff : Nat
  rule1 : Bool
  cbOff : Nat
  amaxEn : Bool
  amaxOff : Nat
  clipEn : Bool
  clipOff : Nat
  resv : Nat
deriving DecidableEq, Repr

/-- QUANTIZE's fields. -/
def quantBody (v : Nat) : QuantBody :=
  { engine := fld v 0 6, band := fld v 6 3
    src := { tile := v.testBit 9, bf16 := v.testBit 10, shape := 0, off := fld v 11 17, pitch := 64 * fld v 28 12, resv := 0 }
    m := fld v 40 13, n := fld v 53 13, fo := fmtWordOf (fld v 66 16)
    out := { tile := false, bf16 := false, shape := 0, off := fld v 82 17, pitch := 64 * fld v 99 12, resv := 0 }
    scOff := 64 * fld v 111 17, rule1 := v.testBit 128, cbOff := 64 * fld v 129 17, amaxEn := v.testBit 146
    amaxOff := 64 * fld v 147 17, clipEn := v.testBit 164, clipOff := 64 * fld v 165 17, resv := fld v 182 106 }

/-- The number of blocks. -/
def quantBlocks (fo : FmtWord) (m n : Nat) : Nat := scaleCount (fo.share = 0) fo.block m n

/-- The checks of Table 06-4 as R172 takes them, in order. -/
def quantCheck (s : State) (slot : Nat) (b : QuantBody) : Option Status :=
  let x := bandAt s b.engine b.band
  match b.fo with
  | none => some .badDescriptor
  | some fo =>
    let row := rowBytes fo.fmt b.n
    if b.resv ≠ 0 || !(fwOk fo true) || fo.scale = .none || 8 < fmtWidth fo.fmt || (b.src.tile && 16 ≤ b.src.off) ||
        (fo.fmt = .c4 && !(stgFits x b.cbOff cbBytes && cbHasFinite (cbRead s x .c4 b.cbOff))) || !(bandOk s slot x) then
      some .badDescriptor
    else if !(specFits x b.src b.m b.n) || !(stgFits x (64 * b.out.off) (spanOf b.m b.out.pitch row)) ||
        !(stgFits x b.scOff (scaleSize fo (fo.share = 0) b.m b.n)) || (b.amaxEn && !(stgFits x b.amaxOff 4)) ||
        (b.clipEn && !(stgFits x b.clipOff (quantBlocks fo b.m b.n))) then some .badDescriptor
    else if tileOver x b.src b.m b.n || pitchShort b.src (specRow b.src b.n) || pitchShort b.out row then some .badShape
    else if b.m = 0 || 4096 < b.m || b.n = 0 || 4096 < b.n then some .badShape
    else none

/-- The elements of block k, in order. -/
def blockElems (fo : FmtWord) (m n k : Nat) : List (Nat × Nat) :=
  if fo.share = 0 then
    let per := (n + fo.block - 1) / fo.block
    let lo := k % per * fo.block
    (List.range (min fo.block (n - lo))).map fun j => (k / per, lo + j)
  else
    let lo := k / n * fo.block
    (List.range (min fo.block (m - lo))).map fun i => (lo + i, k % n)

/-- Write scale codes densely. -/
def scaleBytesOf (f : ScaleFmt) (codes : List Nat) : List Byte := codes.flatMap fun c => natLe (scaleBytes f) c

/-- Count of a row's clips by block, for the clip map. -/
def clipCount (els : List OutEl) : Nat := min 255 (els.filter fun e => e.ev &&& evClip != 0).length

/-- A QUANTIZE that passed its checks. -/
def quantGo (s : State) (c : Cmd) (b : QuantBody) (fo : FmtWord) : State :=
  let x := bandAt s b.engine b.band
  let cb := cbRead s x fo.fmt b.cbOff
  let get := fun (i j : Nat) => specGet s x 0 b.src i j
  let blocks := (List.range (quantBlocks fo b.m b.n)).map (blockElems fo b.m b.n)
  let amaxs := blocks.map fun l => blockAmax (l.map fun p => get p.1 p.2)
  let codes := ((List.range blocks.length).zip blocks).map fun p =>
    if fo.fmt = .b1 then b1Scale fo.scale b.rule1 (p.2.map fun q => get q.1 q.2)
    else pickScale fo.scale b.rule1 (quantMax fo.fmt cb) (amaxs.getD p.1 .nan)
  let sc := fun (i j : Nat) => decodeScale fo.scale (codes.getD (scaleIndex (fo.share = 0) fo.block b.n i j) 0)
  let el := fun (i j : Nat) => convAt fo (sc i j) (fun i j => convEl fo cb (sc i j) (get i j)) i j
  let rows := (List.range b.m).map fun i => (⟨0, 0, (List.range b.n).map (el i)⟩ : OutRow)
  let at_ := fun i j => if b.src.tile then (bandTile x (b.src.off + i / 256), i % 256, j) else (0, i, j)
  let t := ((List.range b.m).zip rows).foldl (fun t p => tallyRow (at_ p.1) p.2 t) {}
  let s1 := putCodeRows x fo.fmt (64 * b.out.off) b.out.pitch b.n b.m 0 (rows.flatMap fun r => r.els.map (·.code)) s
  let s2 := stgPut s1 x b.scOff (scaleBytesOf fo.scale codes)
  let s3 :=
    if b.clipEn then
      stgPut s2 x b.clipOff (blocks.map fun l => BitVec.ofNat 8 (clipCount (l.map fun q => el q.1 q.2)))
    else s2
  let s4 := if b.amaxEn then stgPut s3 x b.amaxOff (natLe 4 (toF32 (amaxs.foldl numMaxNum .nan)).toNat) else s3
  cmdEnd (holdWrite s4 c x true false) c.id (tallyResult t true b.engine)

/-- Run an admitted QUANTIZE. After an uncorrectable SRAM word its outputs are unspecified (log entry 42). -/
def quantRun (s : State) (c : Cmd) (e : SramErr) : State :=
  let b := quantBody (cmdBody c)
  let x := bandAt s b.engine b.band
  match quantCheck s c.space b, b.fo with
  | none, some fo =>
    let s1 := holdRead (sramCount s b.engine e) c.ctx x (!b.src.tile || fo.fmt == .c4) b.src.tile
    if sramBad e then
      let s2 := stgSpoil s1 x (64 * b.out.off) b.out.pitch (rowBytes fo.fmt b.n) b.m
      let s3 := stgSpoil s2 x b.scOff 0 (scaleSize fo (fo.share = 0) b.m b.n) 1
      let s4 := if b.clipEn then stgSpoil s3 x b.clipOff 0 (quantBlocks fo b.m b.n) 1 else s3
      let s5 := if b.amaxEn then stgSpoil s4 x b.amaxOff 0 4 1 else s4
      cmdEnd (holdWrite s5 c x true false) c.id (resultOf .memUncorrectable)
    else quantGo s1 c b fo
  | some st, _ => cmdEnd s c.id (resultOf st)
  | none, none => cmdEnd s c.id (resultOf .badDescriptor)

/-- QUANTIZE: an admitted command of opcode 0x21 runs. -/
def execQuantize (cid : Nat) (e : SramErr) (s : State) : Host.Outcome State Fault Refusal :=
  .next (match cmdReady s cid 0x21 with
    | some c => quantRun s c e
    | none => s)

/-! ### RANDOM (Table 06-8) -/

/-- RANDOM's body. -/
structure RandBody where
  engine : Nat
  band : Nat
  mode : Nat
  slot : Nat
  step : Nat
  stream : Nat
  base : Nat
  m : Nat
  n : Nat
  rowLen : Nat
  x : OpSpec
  out : OpSpec
  keep : Nat
  resv : Nat
deriving DecidableEq, Repr

/-- RANDOM's fields. -/
def randBody (v : Nat) : RandBody :=
  let pitch := 64 * fld v 247 12
  { engine := fld v 0 6, band := fld v 6 3, mode := fld v 9 2, slot := fld v 11 8, step := fld v 19 64, stream := fld v 83 32
    base := fld v 115 48, m := fld v 163 13, n := fld v 176 13, rowLen := fld v 189 24
    x := { tile := false, bf16 := v.testBit 259, shape := 0, off := fld v 213 17, pitch := pitch, resv := 0 }
    out := { tile := false, bf16 := v.testBit 260 && fld v 9 2 != 0, shape := 0, off := fld v 230 17, pitch := pitch, resv := 0 }
    keep := fld v 261 24, resv := fld v 285 3 }

/-- The checks of Table 06-4 for RANDOM, in order. -/
def randCheck (s : State) (slot : Nat) (b : RandBody) : Option Status :=
  let x := bandAt s b.engine b.band
  let drop := b.mode == 2
  if b.resv ≠ 0 || b.mode = 3 || !(bandOk s slot x) || !(specFits x b.out b.m b.n) || (drop && !(specFits x b.x b.m b.n)) then
    some .badDescriptor
  else if pitchShort b.out (specRow b.out b.n) || (drop && pitchShort b.x (specRow b.x b.n)) then some .badShape
  else if b.m = 0 || 4096 < b.m || b.n = 0 || 4096 < b.n || b.rowLen = 0 || b.rowLen < b.n then some .badShape
  else none

/-- Whether a space may use the key of a slot (R173): in a Shared rig the owner set holds its party; owner set 0 for the system
space. -/
def kdfAllowed (s : State) (space : Nat) (k : KeySlot) : Bool :=
  k.valid && k.use == .kdf && (!isShared s ||
    match spaceParty s space with
    | some p => k.ownerSet.getLsbD p
    | none => k.ownerSet == 0)

/-- The step key of a slot's key and a step. -/
def stepKeyOf (key : W256) (step : Nat) : W256 := shakeW (w256Bytes key ++ ascii "nirnus-rand" ++ natLe 8 step)

/-- The 32 random bits of index i (R174). -/
def randBits (key : W256) (stream i : Nat) : Nat :=
  let block := aes256 (w256Bytes key) (natLe 8 (i / 4) ++ natLe 4 stream ++ [0, 0, 0, 0])
  leNat ((block.drop (4 * (i % 4))).take 4)

/-- One output element: bits b of RANDOM in a mode, X's value and its stored sign (R175). -/
def randEl (b : RandBody) (bits : Nat) (v : Num) (sign : Bool) : OutEl :=
  if b.mode = 0 then ⟨bits, 0, 0⟩
  else if b.mode = 1 then outEl b.out.bf16 (valOf (.fin false (bits / 256) (-24)))
  else if bits / 256 ≤ b.keep then
    outEl b.out.bf16 (valDiv (numDiv (numMul v (.fin false 1 24)).1 (numOfInt (b.keep + 1))))
  else outEl b.out.bf16 (valOf (.fin sign 0 0))

/-- The stored sign bit of element (i, j) of X. -/
def specSign (s : State) (x : Band) (p : OpSpec) (i j : Nat) : Bool :=
  ((stgBytes s x (64 * p.off + i * p.pitch + j * specWidth p + (specWidth p - 1)) 1).headD 0).msb

/-- A RANDOM that passed its checks, under a step key. -/
def randGo (s : State) (c : Cmd) (b : RandBody) (key : W256) : State :=
  let x := bandAt s b.engine b.band
  let el := fun (i j : Nat) =>
    let v := if b.mode = 2 then specGet s x 0 b.x i j else .nan
    randEl b (randBits key b.stream (b.base + i * b.rowLen + j)) v (b.mode == 2 && specSign s x b.x i j)
  let rows := (List.range b.m).map fun i => (⟨0, 0, (List.range b.n).map (el i)⟩ : OutRow)
  let t := ((List.range b.m).zip rows).foldl (fun t p => tallyRow (fun j => (0, p.1, j)) p.2 t) {}
  let s1 := putCodeRows x (if b.out.bf16 then .bf16 else .f32) (64 * b.out.off) b.out.pitch b.n b.m 0
    (rows.flatMap fun r => r.els.map (·.code)) s
  cmdEnd (holdWrite s1 c x true false) c.id (tallyResult t true b.engine)

/-- The step key held for a slot and step, derived on its first use (R173). -/
def stepKeyGet (s : State) (slot step : Nat) : State × W256 :=
  let id : Nat × Word := (slot, BitVec.ofNat 64 step)
  match assocGet s.array.stepKeys id with
  | some k => (s, k)
  | none =>
    let k := stepKeyOf (s.keys.slots.getD slot {}).key step
    ({ s with array := { s.array with stepKeys := assocPut s.array.stepKeys id k } }, k)

/-- Run an admitted RANDOM. -/
def randRun (s : State) (c : Cmd) (e : SramErr) : State :=
  let b := randBody (cmdBody c)
  let x := bandAt s b.engine b.band
  match randCheck s c.space b with
  | some st => cmdEnd s c.id (resultOf st)
  | none =>
    if kdfAllowed s c.space (s.keys.slots.getD b.slot {}) then
      let k := stepKeyGet (holdRead (sramCount s b.engine e) c.ctx x (b.mode == 2) false) b.slot b.step
      if sramBad e then
        cmdEnd (holdWrite (stgSpoil k.1 x (64 * b.out.off) b.out.pitch (specRow b.out b.n) b.m) c x true false) c.id
          (resultOf .memUncorrectable)
      else randGo k.1 c b k.2
    else cmdEnd s c.id (resultOf .keyAbsent)

/-- RANDOM: an admitted command of opcode 0x22 runs. -/
def execRandom (cid : Nat) (e : SramErr) (s : State) : Host.Outcome State Fault Refusal :=
  .next (match cmdReady s cid 0x22 with
    | some c => randRun s c e
    | none => s)

/-! ### The grip watchdog (R181) -/

/-- The first grip and the number of grips of a grip's die (Table 06-10). -/
def gripDie (g : Nat) : Nat × Nat := if g < 32 then (0, 32) else if g < 64 then (32, 32) else (64, 16)

/-- Another grip of the same die, picked by a free value (log entry 33). -/
def gripNext (g x : Nat) : Nat := (gripDie g).1 + (g - (gripDie g).1 + 1 + x % ((gripDie g).2 - 1)) % (gripDie g).2

/-- The island of a grip: a Reel service island or the Basecamp core. -/
def gripIsland (g : Nat) : Nat := if g < 32 then 123 else if g < 64 then 124 else 122

end Sys2Proof.Machine
end

