-- ==== Sys2Proof/Machine/Reduce.lean ====
section
/-! DEFINITION. Reduction-add at memory: targets, arrival-order and order-free contributions, and the three reduction commands
(R141 to R154). -/

namespace Sys2Proof.Machine

/-! ### The target header (Table 05-6) -/

/-- A target header's fields. -/
structure RedHeader where
  ofr : Bool
  ew : Int
  count : Nat
deriving DecidableEq, Repr

/-- The magic number of a target. -/
def redMagic : Nat := 0x54444552

/-- The 64 bytes of a header. -/
def redHeaderBytes (h : RedHeader) : List Byte :=
  natLe 4 redMagic ++ [BitVec.ofNat 8 (b2n h.ofr), 0] ++ natLe 2 (h.ew % 2 ^ 16).toNat ++ natLe 4 h.count ++ List.replicate 52 0

/-- Whether a window exponent is in range for a mode (R153). -/
def ewOk (ofr : Bool) (ew : Int) : Bool := decide (-126 ≤ ew) && decide (ew ≤ 127) && (ofr || ew == 0)

/-- A header as read; none where Table 05-8 refuses it. -/
def redHeaderOf (bs : List Byte) : Option RedHeader :=
  let mode := leNat ((bs.drop 4).take 1)
  let ew := sext 16 (leNat ((bs.drop 6).take 2))
  let count := leNat ((bs.drop 8).take 4)
  if leNat (bs.take 4) = redMagic && mode ≤ 1 && bs.getD 5 0 == 0 && (bs.drop 12).all (· == 0) && 1 ≤ count && count ≤ 1048576 &&
      ewOk (mode = 1) ew then some ⟨mode = 1, ew, count⟩
  else none

/-- Bytes of one element. -/
def redWidth (h : RedHeader) : Nat := if h.ofr then 8 else 4

/-- Bytes of a target (R141). -/
def redSize (h : RedHeader) : Nat := (64 + h.count * redWidth h + 63) / 64 * 64

/-! ### Contributions (R143 to R146) -/

/-- A mode-0 contribution: t := rne_f32(t + x). -/
def arrivalAdd (t x : Num) : Num × BitVec 16 :=
  let p := numAdd t (f32 x)
  let r := rneF32 p.1
  (r.1, if p.2 then evInvalid else if r.2 then evWindowOvf else 0)

/-- The special codes of an OFR element (R144). -/
def ofrPos : Int := 2 ^ 63 - 1
def ofrNeg : Int := -(2 ^ 63 - 1)
def ofrNan : Int := -(2 ^ 63)

/-- The largest magnitude of an ordinary code. -/
def ofrMax : Int := 2 ^ 63 - 2

/-- The saturated code of a sign. -/
def ofrSat (neg : Bool) : Int := if neg then ofrNeg else ofrPos

/-- An OFR contribution (R145). -/
def ofrAdd (ew : Int) (q : Int) (x : Num) : Int × BitVec 16 :=
  if q = ofrNan then (q, 0)
  else
    match x with
    | .nan => (ofrNan, 0)
    | .inf s => if q = ofrPos || q = ofrNeg then (q, 0) else (ofrSat s, evWindowOvf)
    | .fin s m e =>
      if q = ofrPos || q = ofrNeg then (q, 0)
      else
        let a : Int := roundMul 0 m (e + 62 - ew)
        let c := if s then -a else a
        if ofrMax < a then (ofrSat s, evWindowOvf)
        else if ofrMax < (q + c).natAbs then (ofrSat (decide (q + c < 0)), evWindowOvf)
        else (q + c, 0)

/-- One contribution to an element's stored bits. -/
def redAddCode (h : RedHeader) (code : Nat) (x : Num) : Nat × BitVec 16 :=
  if h.ofr then
    let r := ofrAdd h.ew (sext 64 code) x
    ((r.1 % 2 ^ 64).toNat, r.2)
  else
    let r := arrivalAdd (decodeIeee 8 23 code) x
    (encodeIeee 8 23 r.1, r.2)

/-- RED_READ's conversion of an element's stored bits (R147). -/
def redReadCode (h : RedHeader) (bf16 : Bool) (code : Nat) : Conv :=
  let f := if bf16 then Fmt.bf16 else Fmt.f32
  if h.ofr then
    let q := sext 64 code
    if q = ofrNan then convert f false [] .nan
    else if q = ofrPos || q = ofrNeg then
      let c := convert f false [] (.inf (decide (q < 0)))
      ⟨c.code, evWindowOvf⟩
    else convert f false [] (.fin (decide (q < 0)) q.natAbs (h.ew - 62))
  else convert f false [] (decodeIeee 8 23 code)

/-! ### Bodies (Table 05-7) -/

/-- RED_INIT's body. -/
structure RedInit where
  tgt : Nat
  hdr : RedHeader
  resv : Nat
deriving DecidableEq, Repr

/-- RED_INIT's fields. -/
def redInitBody (v : Nat) : RedInit :=
  { tgt := fld v 0 48, hdr := ⟨v.testBit 68, sext 9 (fld v 69 9), fld v 48 20 + 1⟩, resv := fld v 78 210 }

/-- RED_ADD's body; pitch in bytes. -/
structure RedAdd where
  mem : Bool
  engine : Nat
  band : Nat
  base : Nat
  src : Nat
  fmt : Nat
  m : Nat
  n : Nat
  pitch : Nat
  tgt : Nat
  first : Nat
  tgtPitch : Nat
  resv : Nat
deriving DecidableEq, Repr

/-- RED_ADD's fields. -/
def redAddBody (v : Nat) : RedAdd :=
  { mem := v.testBit 0, engine := fld v 1 6, band := fld v 7 3, base := fld v 10 4, src := fld v 14 48, fmt := fld v 62 2
    m := fld v 64 13, n := fld v 77 9, pitch := 64 * fld v 86 20, tgt := fld v 106 48, first := fld v 154 20
    tgtPitch := fld v 174 20, resv := fld v 194 94 }

/-- RED_READ's body. -/
structure RedRead where
  tgt : Nat
  out : Nat
  bf16 : Bool
  clear : Bool
  first : Nat
  count : Nat
  resv : Nat
deriving DecidableEq, Repr

/-- RED_READ's fields. -/
def redReadBody (v : Nat) : RedRead :=
  { tgt := fld v 0 48, out := fld v 48 48, bf16 := v.testBit 96, clear := v.testBit 97, first := fld v 98 20
    count := fld v 118 20 + 1, resv := fld v 138 150 }

/-! ### RED_INIT -/

/-- Mode 0 is refused under REPLAYABLE (R148). -/
def modeAllowed (s : State) (h : RedHeader) : Bool := h.ofr || !s.rig.active.replayable

/-- End a command with a tally, or with a failure that keeps the events met before it (R154). -/
def endTally (s : State) (c : Cmd) (st : Status) (range : Nat) (r : Result) : State :=
  cmdEnd s c.id (if st = .ok then r else { r with status := st, range := range })

/-- End a command with a status, and with a failure's range. -/
def endRange (s : State) (c : Cmd) (st : Status) (range : Nat) : State :=
  cmdEnd s c.id (resultRange st (if st = .ok then 255 else range))

/-- The memory of a target as its header tells it; the header alone where it tells none. -/
def redTarget (s : State) (c : Cmd) (tgt : Nat) : Nat × Nat :=
  (tgt, ((redHeaderOf (readSpace s c tgt 64).bytes).map redSize).getD 64)

/-- The memory that RED_INIT names. -/
def redInitNames (_ : State) (c : Cmd) : List (Nat × Nat) :=
  let b := redInitBody (cmdBody c)
  [(b.tgt, redSize b.hdr)]

/-- RED_INIT (R141, R153). -/
def redInitRun (s : State) (c : Cmd) : State :=
  let b := redInitBody (cmdBody c)
  if b.resv ≠ 0 || b.tgt % 64 ≠ 0 || !(ewOk b.hdr.ofr b.hdr.ew) || !(modeAllowed s b.hdr) then
    cmdEnd s c.id (resultOf .badDescriptor)
  else
    match spansCheck s c 0 [] [(b.tgt, redSize b.hdr)] with
    | some r => cmdEnd s c.id r
    | none =>
      let w := writeSpace s c b.tgt (redHeaderBytes b.hdr ++ List.replicate (redSize b.hdr - 64) 0)
      endRange w.st c w.status w.range

/-- RED_INIT: an admitted command of opcode 0x14 runs. -/
def execRedInit (cid : Nat) (s : State) : Host.Outcome State Fault Refusal :=
  .next (match cmdServed s cid 0x14 redInitNames with
    | some c => redInitRun s c
    | none => s)

/-! ### The header as a command reads it -/

/-- What a read of a target's header gave: a failure, or the header. The addresses that the descriptor names are checked before (R374); the
owner sets come last, once the header has told the target's elements (Table 05-8). -/
def redHeader (s : State) (c : Cmd) (tgt : Nat) (spans : List (Nat × Nat)) : State × Except Result RedHeader :=
  match spansAddr s c ((tgt, 64) :: spans) with
  | some st => (s, .error (resultOf st))
  | none =>
    let r := readSpace s c tgt 64
    if r.status = .ok then
      match redHeaderOf r.bytes with
      | some h => (r.st, if modeAllowed r.st h then .ok h else .error (resultOf .badDescriptor))
      | none => (r.st, .error (resultOf .badDescriptor))
    else (r.st, .error (resultRange r.status r.range))

/-! ### RED_ADD -/

/-- The checks of Table 05-8 that need no header. -/
def redAddStatic (b : RedAdd) : Bool :=
  b.resv == 0 && b.tgt % 64 == 0 && b.fmt != 3 && (b.mem || b.fmt == 0) && (!b.mem || b.src % 4 == 0)

/-- Bytes of one source element. -/
def redSrcWidth (b : RedAdd) : Nat := if b.fmt = 1 then 2 else 4

/-- The checks of Table 05-8 after the header: engine and band, then shape. -/
def redAddShape (s : State) (slot : Nat) (b : RedAdd) (h : RedHeader) : Option Status :=
  let x := bandAt s b.engine b.band
  if !b.mem && !(bandOk s slot x) then some .badDescriptor
  else if b.m = 0 || 4096 < b.m || b.n = 0 || 256 < b.n then some .badShape
  else if h.count < b.first + (b.m - 1) * b.tgtPitch + b.n then some .badShape
  else if !b.mem && bandTiles x < b.base + tilesFor b.m then some .badShape
  else if b.mem && b.pitch < b.n * redSrcWidth b then some .badShape
  else none

/-- The value of a source element in memory. -/
def redSrcNum (fmt code : Nat) : Num :=
  if fmt = 0 then decodeIeee 8 23 code else if fmt = 1 then ofBf16 code else numOfInt (sext 32 code)

/-- Source element (i, j): what a read of it gave and its value. -/
def redSource (s : State) (c : Cmd) (b : RedAdd) (i j : Nat) : MemRead × Num :=
  if b.mem then
    let w := redSrcWidth b
    let r := readTake s c (b.src + i * b.pitch + j * w) w
    (r, redSrcNum b.fmt (leNat r.bytes))
  else (⟨s, .ok, [], 255⟩, tileNum s (bandAt s b.engine b.band) b.base i j)

/-- The new bytes and events of a target row. -/
def redRow (h : RedHeader) : List Num → List Byte → List Byte × List (BitVec 16)
  | [], _ => ([], [])
  | x :: xs, old =>
    let w := redWidth h
    let r := redAddCode h (leNat (old.take w)) x
    let t := redRow h xs (old.drop w)
    (natLe w r.1 ++ t.1, r.2 :: t.2)

/-- Add one source element into its target element: one read and one write of that element (R142). -/
def redAddOne (s : State) (c : Cmd) (b : RedAdd) (h : RedHeader) (p : Nat × Nat) : State × Status × Nat × BitVec 16 :=
  let src := redSource s c b p.1 p.2
  if src.1.status = .ok then
    let w := redWidth h
    let a := b.tgt + 64 + (b.first + p.1 * b.tgtPitch + p.2) * w
    let old := readSpace src.1.st c a w
    if old.status = .ok then
      let r := redAddCode h (leNat old.bytes) src.2
      let z := mergeSpace old.st c a (natLe w r.1)
      (z.st, z.status, z.range, if z.status = .ok then r.2 else 0)
    else (old.st, old.status, old.range, 0)
  else (src.1.st, src.1.status, src.1.range, 0)

/-- Add source elements in a given order, up to the first failure, with the events of those added. -/
def redAddAll (c : Cmd) (b : RedAdd) (h : RedHeader) : List (Nat × Nat) → State → State × Status × Nat × List ((Nat × Nat) × BitVec 16)
  | [], s => (s, .ok, 255, [])
  | p :: ps, s =>
    let r := redAddOne s c b h p
    if r.2.1 = .ok then
      let t := redAddAll c b h ps r.1
      (t.1, t.2.1, t.2.2.1, (p, r.2.2.2) :: t.2.2.2)
    else (r.1, r.2.1, r.2.2.1, [])

/-- The order in which source elements reach the target: in rows where no two of them share a target element, else open (R142): an
order of free values. -/
def redOrder (s : State) (b : RedAdd) : List (Nat × Nat) :=
  if b.n ≤ b.tgtPitch || b.m ≤ 1 then positions b.m b.n else shuffle s (fun p => p.1 * b.n + p.2) (positions b.m b.n)

/-- The tally of RED_ADD's events, the first being that of the lowest row, then column, of its source (R154, log entry 115). -/
def redTally (at_ : Nat → Nat → Nat × Nat × Nat) (evs : List ((Nat × Nat) × BitVec 16)) : Tally :=
  (sortBy (fun (x y : (Nat × Nat) × BitVec 16) => decide (x.1.1 < y.1.1) || (x.1.1 == y.1.1 && decide (x.1.2 ≤ y.1.2)))
    (evs.filter fun e => e.2 != 0)).foldl (fun t e => tallyAdd t e.2 (invOf e.2) (at_ e.1.1 e.1.2)) {}

/-- RED_ADD once its checks have passed. An uncorrectable tile word ends it after some of its elements (R154): how many is open. The
source row of an event counts within its tile, as in the record of a MATMUL (R114, log entry 115). -/
def redAddGo (s : State) (c : Cmd) (b : RedAdd) (h : RedHeader) (bad : Bool) : State :=
  let x := bandAt s b.engine b.band
  let order := redOrder s b
  let s1 := freeUse s (b.m * b.n + 1)
  let some_ := if bad then order.take ((freeAt s (b.m * b.n)).toNat % (b.m * b.n + 1)) else order
  let s2 := if b.mem then s1 else holdRead s1 c.ctx x false true
  let r := redAddAll c b h some_ s2
  let at_ := fun i j => if b.mem then (0, i, j) else (bandTile x (b.base + i / 256), i % 256, j)
  endTally r.1 c (if r.2.1 = .ok && bad then .memUncorrectable else r.2.1) r.2.2.1
    (tallyResult (redTally at_ r.2.2.2) true (if b.mem then 0 else b.engine))

/-- The holding mask of the tiles a RED_ADD reads. -/
def redExtra (s : State) (b : RedAdd) : BitVec 8 :=
  if b.mem then 0 else (s.array.engines.getD b.engine {}).holdTile.getD b.band 0

/-- The memory that RED_ADD names. -/
def redAddNames (s : State) (c : Cmd) : List (Nat × Nat) :=
  let b := redAddBody (cmdBody c)
  redTarget s c b.tgt :: (if b.mem then rowSpans b.src b.pitch (b.n * redSrcWidth b) b.m else [])

/-- RED_ADD (R152, R153). -/
def redAddRun (s : State) (c : Cmd) (e : SramErr) : State :=
  let b := redAddBody (cmdBody c)
  if redAddStatic b then
    let reads := if b.mem then rowSpans b.src b.pitch (b.n * redSrcWidth b) b.m else []
    let h := redHeader s c b.tgt reads
    match h.2 with
    | .error r => cmdEnd h.1 c.id r
    | .ok hd =>
      match redAddShape h.1 c.space b hd with
      | some st => cmdEnd h.1 c.id (resultOf st)
      | none =>
        let w := redWidth hd
        let writes := rowSpans (b.tgt + 64 + b.first * w) (b.tgtPitch * w) (b.n * w) b.m
        match spansCheck h.1 c (redExtra h.1 b) reads writes with
        | some r => cmdEnd h.1 c.id r
        | none =>
          if b.mem then redAddGo h.1 c b hd false
          else redAddGo (sramCount h.1 b.engine e) c b hd (sramBad e)
  else cmdEnd s c.id (resultOf .badDescriptor)

/-- RED_ADD: an admitted command of opcode 0x15 runs. -/
def execRedAdd (cid : Nat) (e : SramErr) (s : State) : Host.Outcome State Fault Refusal :=
  .next (match cmdServed s cid 0x15 redAddNames with
    | some c => redAddRun s c e
    | none => s)

/-! ### RED_READ -/

/-- Read element i of the span, reset it at once if clear is set, and write its output (R147). -/
def redReadOne (s : State) (c : Cmd) (b : RedRead) (h : RedHeader) (i : Nat) : State × Status × Nat × BitVec 16 :=
  let w := redWidth h
  let a := b.tgt + 64 + (b.first + i) * w
  let r := readSpace s c a w
  if r.status = .ok then
    let z := if b.clear then writeSpace r.st c a (List.replicate w 0) else ⟨r.st, .ok, 255⟩
    if z.status = .ok then
      let v := redReadCode h b.bf16 (leNat r.bytes)
      let k := if b.bf16 then 2 else 4
      let o := writeSpace z.st c (b.out + i * k) (natLe k v.code)
      (o.st, o.status, o.range, v.ev)
    else (z.st, z.status, z.range, 0)
  else (r.st, r.status, r.range, 0)

/-- Read the elements from i on, up to the first failure; events by element index as row and column (R154). -/
def redReadAll (c : Cmd) (b : RedRead) (h : RedHeader) : Nat → Nat → Tally → State → State × Status × Nat × Tally
  | 0, _, t, s => (s, .ok, 255, t)
  | n + 1, i, t, s =>
    let r := redReadOne s c b h i
    let u := tallyAdd t r.2.2.2 (invOf r.2.2.2) (0, (b.first + i) / 256, (b.first + i) % 256)
    if r.2.1 = .ok then redReadAll c b h n (i + 1) u r.1 else (r.1, r.2.1, r.2.2.1, u)

/-- RED_READ once its checks have passed. -/
def redReadGo (s : State) (c : Cmd) (b : RedRead) (h : RedHeader) : State :=
  let r := redReadAll c b h b.count 0 {} s
  endTally r.1 c r.2.1 r.2.2.1 (tallyResult r.2.2.2 true 0)

/-- The memory that RED_READ names. -/
def redReadNames (s : State) (c : Cmd) : List (Nat × Nat) :=
  let b := redReadBody (cmdBody c)
  [redTarget s c b.tgt, (b.out, b.count * (if b.bf16 then 2 else 4))]

/-- RED_READ (R152, R153). -/
def redReadRun (s : State) (c : Cmd) : State :=
  let b := redReadBody (cmdBody c)
  if b.resv = 0 && b.tgt % 64 = 0 && b.out % 4 = 0 then
    let out := (b.out, b.count * (if b.bf16 then 2 else 4))
    let h := redHeader s c b.tgt [out]
    match h.2 with
    | .error r => cmdEnd h.1 c.id r
    | .ok hd =>
      if hd.count < b.first + b.count then cmdEnd h.1 c.id (resultOf .badShape)
      else
        let span := (b.tgt + 64 + b.first * redWidth hd, b.count * redWidth hd)
        match spansCheck h.1 c 0 [(b.tgt, redSize hd)] (out :: (if b.clear then [span] else [])) with
        | some r => cmdEnd h.1 c.id r
        | none => redReadGo (addMask h.1 c.ctx (spanOwners h.1 c.space [(b.tgt, redSize hd)])) c b hd
  else cmdEnd s c.id (resultOf .badDescriptor)

/-- RED_READ: an admitted command of opcode 0x16 runs. -/
def execRedRead (cid : Nat) (s : State) : Host.Outcome State Fault Refusal :=
  .next (match cmdServed s cid 0x16 redReadNames with
    | some c => redReadRun s c
    | none => s)

end Sys2Proof.Machine
end

