-- ==== Sys2Proof/Machine/Layout.lean ====
section
/-! DEFINITION. The layout engines (R182 to R186), NOP, COPY and staging moves (R382), and RELEASE_COPY (R362). A move goes row by row,
in order, and stops at the first failure (log entry 47). -/

namespace Sys2Proof.Machine

/-! ### Moves -/

/-- Whether two spans of addresses overlap. -/
def spansMeet (x y : Nat × Nat) : Bool := decide (x.1 < y.1 + y.2) && decide (y.1 < x.1 + x.2)

/-- The total span of rows. -/
def rowsTotal (v pitch row m : Nat) : Nat × Nat := (v, spanOf m pitch row)

/-- Copy rows, each read and then written, up to the first failure. `take` tells whether the reads count for the context's mask. -/
def moveRows (c : Cmd) (take : Bool) : List (Nat × Nat × Nat) → State → State × Status × Nat
  | [], s => (s, .ok, 255)
  | (src, dst, n) :: rest, s =>
    let r := if take then readTake s c src n else readSpace s c src n
    if r.status = .ok then
      let w := writeSpace r.st c dst r.bytes
      if w.status = .ok then moveRows c take rest w.st else (w.st, w.status, w.range)
    else (r.st, r.status, r.range)

/-- End a command with the outcome of a move. -/
def endMove (c : Cmd) (r : State × Status × Nat) : State := endRange r.1 c r.2.1 r.2.2

/-- A failed span check, or the rest of a command. -/
def afterCheck (s : State) (c : Cmd) (extra : BitVec 8) (reads writes : List (Nat × Nat)) (go : State → State) : State :=
  match spansCheck s c extra reads writes with
  | some r => cmdEnd s c.id r
  | none => go s

/-! ### NOP and COPY (R382) -/

/-- NOP has no body fields. -/
def nopRun (s : State) (c : Cmd) : State := cmdEnd s c.id (resultOf (if cmdBody c = 0 then .ok else .badDescriptor))

/-- NOP: an admitted command of opcode 0x00 runs. -/
def execNop (cid : Nat) (s : State) : Host.Outcome State Fault Refusal :=
  .next (match cmdReady s cid 0x00 with
    | some c => nopRun s c
    | none => s)

/-- The lines of a copy. -/
def copyLines (src dst n : Nat) : List (Nat × Nat × Nat) := (List.range n).map fun i => (src + 64 * i, dst + 64 * i, 64)

/-- The memory that COPY and RELEASE_COPY name. -/
def copyNames (_ : State) (c : Cmd) : List (Nat × Nat) :=
  let v := cmdBody c
  let n := 64 * (fld v 97 36 + 1)
  [(fld v 1 48, n), (fld v 49 48, n)]

/-- COPY. -/
def copyRun (s : State) (c : Cmd) : State :=
  let v := cmdBody c
  let src := fld v 1 48
  let dst := fld v 49 48
  let n := fld v 97 36 + 1
  if fld v 133 155 ≠ 0 || src % 64 ≠ 0 || dst % 64 ≠ 0 || spansMeet (src, 64 * n) (dst, 64 * n) then
    cmdEnd s c.id (resultOf .badDescriptor)
  else afterCheck s c 0 [(src, 64 * n)] [(dst, 64 * n)] fun t => endMove c (moveRows c true (copyLines src dst n) t)

/-- COPY: an admitted command of opcode 0x02 runs. -/
def execCopy (cid : Nat) (s : State) : Host.Outcome State Fault Refusal :=
  .next (match cmdServed s cid 0x02 copyNames with
    | some c => copyRun s c
    | none => s)

/-! ### STAGE_IN and STAGE_OUT (R382) -/

/-- A staging move's body, in bytes. -/
structure StageBody where
  engine : Nat
  band : Nat
  off : Nat
  addr : Nat
  rows : Nat
  row : Nat
  memPitch : Nat
  stgPitch : Nat
  resv : Nat
deriving DecidableEq, Repr

/-- The fields of STAGE_IN and STAGE_OUT. -/
def stageBody (v : Nat) : StageBody :=
  { engine := fld v 0 6, band := fld v 6 3, off := 64 * fld v 9 17, addr := fld v 26 48, rows := fld v 74 13 + 1
    row := 64 * fld v 87 12, memPitch := 64 * fld v 99 20, stgPitch := 64 * fld v 119 12, resv := fld v 131 157 }

/-- The memory that STAGE_IN and STAGE_OUT name. -/
def stageNames (_ : State) (c : Cmd) : List (Nat × Nat) :=
  let b := stageBody (cmdBody c)
  rowSpans b.addr b.memPitch b.row b.rows

/-- The checks of R382 but for the owner-set rule. -/
def stageCheck (s : State) (slot : Nat) (b : StageBody) : Option Status :=
  let x := bandAt s b.engine b.band
  if b.resv ≠ 0 || b.addr % 64 ≠ 0 || !(bandOk s slot x) || !(stgFits x b.off (spanOf b.rows b.stgPitch b.row)) then
    some .badDescriptor
  else if b.memPitch < b.row || b.stgPitch < b.row then some .badShape else none

/-- The holding mask of a space's share of an engine's shared buffer (R358). -/
def shareMask (s : State) (slot engine : Nat) : BitVec 8 :=
  ((s.sp.slots.getD slot {}).shareMask).getD (engine / 32) 0

/-- Data pass through the share: its mask takes the context's and gives its own (R358, R382). -/
def sharePass (s : State) (c : Cmd) (engine : Nat) : State :=
  let m := ctxMask s c.ctx ||| shareMask s c.space engine
  let t := addMask s c.ctx m
  { t with sp := { t.sp with
      slots := modAt t.sp.slots c.space fun x => { x with shareMask := x.shareMask.set (engine / 32) m } } }

/-- Copy rows from memory to staging, from row i on, through the share with its words with errors. -/
def stageInRows (c : Cmd) (x : Band) (b : StageBody) (share : BufErr) : Nat → Nat → State → State × Status × Nat
  | 0, _, s => (s, .ok, 255)
  | k + 1, i, s =>
    let r := readTake s c (b.addr + i * b.memPitch) b.row
    if r.status = .ok then
      stageInRows c x b share k (i + 1) (stgPut r.st x (b.off + i * b.stgPitch) (bufFlip share (i * b.row) r.bytes))
    else (r.st, r.status, r.range)

/-- STAGE_IN; an uncorrectable word of the share ends it after some of its rows: how many is open (R294, log entry 124). -/
def stageInRun (s : State) (c : Cmd) (share : BufErr) : State :=
  let b := stageBody (cmdBody c)
  let x := bandAt s b.engine b.band
  match stageCheck s c.space b with
  | some st => cmdEnd s c.id (resultOf st)
  | none =>
    afterCheck s c 0 (rowSpans b.addr b.memPitch b.row b.rows) [] fun t =>
      let lost := bufBad share
      let r := stageInRows c x b share (if lost then (freeAt t 0).toNat % (b.rows + 1) else b.rows) 0 (if lost then freeUse t 1 else t)
      endMove c (holdWrite (sharePass r.1 c b.engine) c x true false, if lost && r.2.1 == .ok then (.memUncorrectable, 255) else r.2)

/-- STAGE_IN: an admitted command of opcode 0x08 runs. -/
def execStageIn (cid : Nat) (s : State) (share : BufErr := []) : Host.Outcome State Fault Refusal :=
  .next (match cmdServed s cid 0x08 stageNames with
    | some c => stageInRun s c share
    | none => s)

/-- Copy rows from staging to memory, through the share with its words with errors. -/
def stageOutRows (c : Cmd) (x : Band) (b : StageBody) (share : BufErr) : Nat → Nat → State → State × Status × Nat
  | 0, _, s => (s, .ok, 255)
  | k + 1, i, s =>
    let w := writeSpace s c (b.addr + i * b.memPitch) (bufFlip share (i * b.row) (stgBytes s x (b.off + i * b.stgPitch) b.row))
    if w.status = .ok then stageOutRows c x b share k (i + 1) w.st else (w.st, w.status, w.range)

/-- STAGE_OUT; an uncorrectable word of staging or the share ends it after some of its rows: how many is open. -/
def stageOutRun (s : State) (c : Cmd) (e : SramErr) (share : BufErr) : State :=
  let b := stageBody (cmdBody c)
  let x := bandAt s b.engine b.band
  match stageCheck s c.space b with
  | some st => cmdEnd s c.id (resultOf st)
  | none =>
    let extra := (s.array.engines.getD b.engine {}).holdStg.getD b.band 0 ||| shareMask s c.space b.engine
    afterCheck s c extra [] (rowSpans b.addr b.memPitch b.row b.rows) fun t =>
      let t1 := sharePass (holdRead (sramCount t b.engine e) c.ctx x true false) c b.engine
      if sramBad e || bufBad share then
        let r := stageOutRows c x b share ((freeAt t1 0).toNat % (b.rows + 1)) 0 (freeUse t1 1)
        if r.2.1 = .ok then cmdEnd r.1 c.id (resultOf .memUncorrectable) else endMove c r
      else endMove c (stageOutRows c x b share b.rows 0 t1)

/-- STAGE_OUT: an admitted command of opcode 0x09 runs. -/
def execStageOut (cid : Nat) (e : SramErr) (s : State) (share : BufErr := []) : Host.Outcome State Fault Refusal :=
  .next (match cmdServed s cid 0x09 stageNames with
    | some c => stageOutRun s c e share
    | none => s)

/-! ### TRANSPOSE (R183) -/

/-- Row j of the transposed tensor: element j of every source row. -/
def transposeRow (f : Fmt) (rows : List Nat) (j : Nat) : List Byte := packRow f (rows.map fun r => elemCode f r j)

/-- The rows of the transposed tensor with their addresses. -/
def transposeOut (f : Fmt) (dst pitch cols : Nat) (rows : List (List Byte)) : List (Nat × List Byte) :=
  let ns := rows.map leNat
  (List.range cols).map fun j => (dst + j * pitch, padRow (j + 1 == cols) pitch (transposeRow f ns j))

/-- The memory that TRANSPOSE names. -/
def transposeNames (_ : State) (c : Cmd) : List (Nat × Nat) :=
  let v := cmdBody c
  let f := (fmtOfCode (fld v 137 5)).getD .f32
  let rows := fld v 97 20 + 1
  let cols := fld v 117 20 + 1
  rowSpans (fld v 1 48) (64 * fld v 142 20) (rowBytes f cols) rows ++ rowSpans (fld v 49 48) (64 * fld v 162 20) (rowBytes f rows) cols

/-- TRANSPOSE. -/
def transposeRun (s : State) (c : Cmd) : State :=
  let v := cmdBody c
  let src := fld v 1 48
  let dst := fld v 49 48
  let rows := fld v 97 20 + 1
  let cols := fld v 117 20 + 1
  let sp := 64 * fld v 142 20
  let dp := 64 * fld v 162 20
  match fmtOfCode (fld v 137 5) with
  | none => cmdEnd s c.id (resultOf .badDescriptor)
  | some f =>
    let srow := rowBytes f cols
    let drow := rowBytes f rows
    if fld v 182 106 ≠ 0 || src % 64 ≠ 0 || dst % 64 ≠ 0 || spansMeet (rowsTotal src sp srow rows) (rowsTotal dst dp drow cols) then
      cmdEnd s c.id (resultOf .badDescriptor)
    else if sp < srow || dp < drow then cmdEnd s c.id (resultOf .badShape)
    else
      let reads := rowSpans src sp srow rows
      afterCheck s c 0 reads ((List.range cols).map fun j => (dst + j * dp, if j + 1 = cols then drow else dp)) fun t =>
        let r := takeSpans c reads t
        if r.2.1 = .ok then
          let w := writeSpans c (transposeOut f dst dp cols r.2.2.2) r.1
          endRange w.st c w.status w.range
        else endRange r.1 c r.2.1 r.2.2.1

/-- TRANSPOSE: an admitted command of opcode 0x30 runs. -/
def execTranspose (cid : Nat) (s : State) : Host.Outcome State Fault Refusal :=
  .next (match cmdServed s cid 0x30 transposeNames with
    | some c => transposeRun s c
    | none => s)

/-! ### GATHER and SCATTER (R184) -/

/-- The body of GATHER and SCATTER. -/
structure IndexBody where
  src : Nat
  dst : Nat
  idx : Nat
  count : Nat
  row : Nat
  table : Nat
  resv : Nat
deriving DecidableEq, Repr

/-- The fields of GATHER and SCATTER. -/
def indexBody (v : Nat) : IndexBody :=
  { src := fld v 1 48, dst := fld v 49 48, idx := fld v 97 48, count := fld v 145 24 + 1, row := 64 * fld v 169 16
    table := fld v 185 24 + 1, resv := fld v 209 79 }

/-- The memory that GATHER (table first) or SCATTER names. -/
def indexNames (gather : Bool) (_ : State) (c : Cmd) : List (Nat × Nat) :=
  let b := indexBody (cmdBody c)
  [(b.src, (if gather then b.table else b.count) * b.row), (b.dst, (if gather then b.count else b.table) * b.row), (b.idx, 4 * b.count)]

/-- The index of list position j. -/
def indexAt (bs : List Byte) (j : Nat) : Nat := leNat ((bs.drop (4 * j)).take 4)

/-- A move by an index list: checks, the list read, and rows moved in list order (so that the highest position of a repeated index
in a SCATTER is the one that stays). -/
def indexRun (s : State) (c : Cmd) (gather : Bool) : State :=
  let b := indexBody (cmdBody c)
  let table := b.table * b.row
  let dense := b.count * b.row
  let src := (b.src, if gather then table else dense)
  let dst := (b.dst, if gather then dense else table)
  if b.resv ≠ 0 || b.src % 64 ≠ 0 || b.dst % 64 ≠ 0 || b.idx % 64 ≠ 0 || b.row = 0 || spansMeet src dst then
    cmdEnd s c.id (resultOf .badDescriptor)
  else
    afterCheck s c 0 [src, (b.idx, 4 * b.count)] [dst] fun t =>
      let l := readTake t c b.idx (4 * b.count)
      if l.status = .ok then
        let ids := (List.range b.count).map (indexAt l.bytes)
        if ids.any fun i => decide (b.table ≤ i) then cmdEnd l.st c.id (resultOf .badShape)
        else
          let rows := ((List.range b.count).zip ids).map fun p =>
            if gather then (b.src + p.2 * b.row, b.dst + p.1 * b.row, b.row) else (b.src + p.1 * b.row, b.dst + p.2 * b.row, b.row)
          endMove c (moveRows c true rows l.st)
      else endRange l.st c l.status l.range

/-- GATHER: an admitted command of opcode 0x31 runs. -/
def execGather (cid : Nat) (s : State) : Host.Outcome State Fault Refusal :=
  .next (match cmdServed s cid 0x31 (indexNames true) with
    | some c => indexRun s c true
    | none => s)

/-- SCATTER: an admitted command of opcode 0x32 runs. -/
def execScatter (cid : Nat) (s : State) : Host.Outcome State Fault Refusal :=
  .next (match cmdServed s cid 0x32 (indexNames false) with
    | some c => indexRun s c false
    | none => s)

/-! ### REPACK (R185) -/

/-- REPACK's body. -/
structure RepackBody where
  src : Nat
  dst : Nat
  rows : Nat
  cols : Nat
  fs : Option FmtWord
  fd : Option FmtWord
  srcAux : Nat
  dstAux : Nat
  resv : Nat
deriving DecidableEq, Repr

/-- REPACK's fields. -/
def repackBody (v : Nat) : RepackBody :=
  { src := fld v 1 48, dst := fld v 49 48, rows := fld v 97 20 + 1, cols := fld v 117 20 + 1, fs := fmtWordOf (fld v 137 16)
    fd := fmtWordOf (fld v 153 16), srcAux := fld v 169 48, dstAux := fld v 217 48, resv := fld v 265 23 }

/-- The codebook and scale spans of a REPACK tensor: codebook first, scales 64 bytes later (R185). -/
def auxSpans (w : FmtWord) (aux rows cols : Nat) : (Nat × Nat) × (Nat × Nat) :=
  ((aux, if w.fmt = .c4 then cbBytes else 0),
    (if w.fmt = .c4 then aux + 64 else aux, scaleSize w (w.share = 0) rows cols))

/-- The spans of an aux that hold bytes. -/
def auxList (w : FmtWord) (aux rows cols : Nat) : List (Nat × Nat) :=
  let p := auxSpans w aux rows cols
  [p.1, p.2].filter fun q => q.2 != 0

/-- The scale of element (i, j) from a scale tensor's bytes. -/
def scaleOf (w : FmtWord) (bs : List Byte) (cols i j : Nat) : Num :=
  if w.scale = .none then numOne
  else
    let z := scaleBytes w.scale
    decodeScale w.scale (leNat ((bs.drop (z * scaleIndex (w.share = 0) w.block cols i j)).take z))

/-- Read an aux: codebook codes and scale bytes. -/
def auxRead (c : Cmd) (w : FmtWord) (aux rows cols : Nat) (s : State) : State × Status × Nat × List Nat × List Byte :=
  let p := auxSpans w aux rows cols
  let r := takeSpans c [p.1, p.2] s
  match r.2.2.2 with
  | [cb, sc] => (r.1, r.2.1, r.2.2.1, if w.fmt = .c4 then cbCodes cb else [], sc)
  | _ => (r.1, r.2.1, r.2.2.1, [], [])

/-- Row i converted; `src` gives the rows up to it. -/
def repackRow (fs fd : FmtWord) (a d : List Nat × List Byte) (cols : Nat) (src : Nat → Nat) (i : Nat) : OutRow :=
  let el := fun i j =>
    let v := numMul (decodeElem fs.fmt a.1 (elemCode fs.fmt (src i) j)) (scaleOf fs a.2 cols i j)
    let e := convEl fd d.1 (scaleOf fd d.2 cols i j) v.1
    if v.2 then ⟨e.code, evInvalid, 1⟩ else e
  { ev := 0, inv := 0, els := (List.range cols).map fun j => convAt fd (scaleOf fd d.2 cols i j) el i j }

/-- Convert and write rows from row i on, up to the first failure; `done` holds the source rows before it. -/
def repackRows (c : Cmd) (b : RepackBody) (fs fd : FmtWord) (a d : List Nat × List Byte) :
    Nat → List Nat → Tally → State → State × Status × Nat × Tally
  | 0, _, t, s => (s, .ok, 255, t)
  | k + 1, done, t, s =>
    let i := done.length
    let sr := rowBytes fs.fmt b.cols
    let r := readTake s c (b.src + i * sr) sr
    if r.status = .ok then
      let rows := done ++ [leNat r.bytes]
      let o := repackRow fs fd a d b.cols (rows.getD · 0) i
      let w := writeSpace r.st c (b.dst + i * rowBytes fd.fmt b.cols) (packRow fd.fmt (o.els.map (·.code)))
      if w.status = .ok then repackRows c b fs fd a d k rows (tallyRow (fun j => (0, i, j)) o t) w.st
      else (w.st, w.status, w.range, t)
    else (r.st, r.status, r.range, t)

/-- REPACK once its descriptor is in order. -/
def repackGo (s : State) (c : Cmd) (b : RepackBody) (fs fd : FmtWord) : State :=
  let a := auxRead c fs b.srcAux b.rows b.cols s
  if a.2.1 = .ok then
    let d := auxRead c fd b.dstAux b.rows b.cols a.1
    if d.2.1 = .ok then
      if fd.fmt = .c4 && !(cbHasFinite d.2.2.2.1) then cmdEnd d.1 c.id (resultOf .badDescriptor)
      else
        let r := repackRows c b fs fd a.2.2.2 d.2.2.2 b.rows [] {} d.1
        if r.2.1 = .ok then cmdEnd r.1 c.id (tallyResult r.2.2.2 true 0) else endRange r.1 c r.2.1 r.2.2.1
    else endRange d.1 c d.2.1 d.2.2.1
  else endRange a.1 c a.2.1 a.2.2.1

/-- The memory that REPACK names. -/
def repackNames (_ : State) (c : Cmd) : List (Nat × Nat) :=
  let b := repackBody (cmdBody c)
  match b.fs, b.fd with
  | some fs, some fd =>
    (b.src, b.rows * rowBytes fs.fmt b.cols) :: (b.dst, b.rows * rowBytes fd.fmt b.cols) ::
      (auxList fs b.srcAux b.rows b.cols ++ auxList fd b.dstAux b.rows b.cols)
  | _, _ => []

/-- REPACK. -/
def repackRun (s : State) (c : Cmd) : State :=
  let b := repackBody (cmdBody c)
  match b.fs, b.fd with
  | some fs, some fd =>
    let src := (b.src, b.rows * rowBytes fs.fmt b.cols)
    let dst := (b.dst, b.rows * rowBytes fd.fmt b.cols)
    if b.resv ≠ 0 || !(fwOk fs false) || !(fwOk fd true) || b.src % 64 ≠ 0 || b.dst % 64 ≠ 0 || b.srcAux % 2 ≠ 0 ||
        b.dstAux % 2 ≠ 0 || spansMeet src dst then cmdEnd s c.id (resultOf .badDescriptor)
    else
      afterCheck s c 0 (src :: (auxList fs b.srcAux b.rows b.cols ++ auxList fd b.dstAux b.rows b.cols)) [dst]
        fun t => repackGo t c b fs fd
  | _, _ => cmdEnd s c.id (resultOf .badDescriptor)

/-- REPACK: an admitted command of opcode 0x33 runs. -/
def execRepack (cid : Nat) (s : State) : Host.Outcome State Fault Refusal :=
  .next (match cmdServed s cid 0x33 repackNames with
    | some c => repackRun s c
    | none => s)

/-! ### RELEASE_COPY (R362) -/

/-- The clause checks of Table 13-12b: the status and the range of a refusal. The system space's is found first, since its record names only
a range that it maps (R364). -/
def releaseCheck (s : State) (c : Cmd) (src dst n id : Nat) : Option Result :=
  match s.rig.active.clauses.find? fun x => x.id == id with
  | none => some (resultOf .flowDenied)
  | some x =>
    let out := rangesOf s c.space dst n
    if s.keys.compactEnded then some (resultOf .flowDenied)
    else
      match spaceParty s c.space with
      | none => some (resultRange .flowDenied (out.headD 255))
      | some p =>
        if !(rangesOf s c.space src n).all (· == x.source) then some (resultRange .flowDenied x.source)
        else
          match out.find? fun r => (rangeCfg s r).ownerSet != x.subset with
          | some r => some (resultRange .flowDenied r)
          | none => if x.subset.getLsbD p then none else some (resultRange .flowDenied (out.headD 255))

/-- RELEASE_COPY. -/
def releaseRun (s : State) (c : Cmd) : State :=
  let v := cmdBody c
  let src := fld v 1 48
  let dst := fld v 49 48
  let n := fld v 97 36 + 1
  if fld v 141 147 ≠ 0 || src % 64 ≠ 0 || dst % 64 ≠ 0 || spansMeet (src, 64 * n) (dst, 64 * n) then
    cmdEnd s c.id (resultOf .badDescriptor)
  else
    match [(src, 64 * n), (dst, 64 * n)].findSome? fun p => addrCheck s c p.1 p.2 with
    | some st => cmdEnd s c.id (resultOf st)
    | none =>
      match releaseCheck s c src dst (64 * n) (fld v 133 8) with
      | some r => cmdEnd s c.id r
      | none => endMove c (moveRows c false (copyLines src dst n) s)

/-- RELEASE_COPY: an admitted command of opcode 0x34 runs. -/
def execReleaseCopy (cid : Nat) (s : State) : Host.Outcome State Fault Refusal :=
  .next (match cmdServed s cid 0x34 copyNames with
    | some c => releaseRun s c
    | none => s)

end Sys2Proof.Machine
end

