-- ==== Sys2Proof/Machine/Memory.lean ====
section
/-! DEFINITION. The merge buffer's write-backs, the flip registers, SCRUB and the management scrub (file 11). -/

namespace Sys2Proof.Machine

/-! ### Merge buffer and flip registers -/

/-- Write back the entry of a stack that holds a line or frame; nothing where it holds none such. -/
def mergeRetire (s : State) (stack key : Nat) : State :=
  match s.mem.merge.find? fun e => e.stack == stack && e.key == key with
  | none => s
  | some e => mergeStore s e

/-- MERGE_WRITEBACK (R295 rule 6): an entry of a stack, idle for 64 cycles, is written back. -/
def execMergeWriteback (stack : Nat) (s : State) (key : Nat := 0) : Host.Outcome State Fault Refusal := .next (mergeRetire s stack key)

/-- A write of MEM_FLIP_CTRL (R298, Table 11-9): in a Shared rig arm stays clear and refused sets. -/
def flipCtrl (v : Word) (s : State) : State :=
  let n := v.toNat
  let arm := n.testBit 3
  { s with mem := { s.mem with
      flipStack := fld n 0 3
      flipArm := arm && !isShared s
      flipDone := s.mem.flipDone && !n.testBit 4
      flipRefused := (s.mem.flipRefused && !n.testBit 5) || (arm && isShared s) } }

/-- MEM_FLIP_ARM. -/
def execMemFlipArm (p : Port) (tag : Nat) (v : Word) (s : State) : Host.Outcome State Fault Refusal :=
  .next (mgmtWrite p tag (.memFlipArm p tag v) (fun t => ⟨flipCtrl v t, .ok, []⟩) s)

/-! ### The walk of a scrub (R301) -/

/-- Add what one unit's read found, at address v: the lines with their readings, and the status of the unit. A unit counts once,
under the first finding of its read; a corrected line counts where the unit has no finding of its own. -/
def scrubNote (x : ScrubSum) (v : Nat) (ls : List LineSt) (st : Status) : ScrubSum :=
  let at_ := fun (f : LineSt → Bool) => (((List.range ls.length).zip ls).filter fun e => f e.2).map fun e => v + 64 * e.1
  let bad := at_ fun l => l.bad || l.tagBad
  let mild := at_ fun l => l.corr && !l.bad && !l.tagBad
  let y := { x with lines := satAdd 64 x.lines ls.length }
  match st with
  | .ok => { y with corr := satAdd 64 y.corr mild.length, mild := (mild.map fun a => (a, 1)).reverse ++ y.mild }
  | .memUncorrectable =>
    { y with
      unc := satAdd 64 y.unc bad.length, bad := (bad.map fun a => (a, 2)).reverse ++ y.bad
      corr := satAdd 64 y.corr mild.length, mild := (mild.map fun a => (a, 1)).reverse ++ y.mild }
  | .memUnverifiable => { y with unver := satAdd 64 y.unver 1, bad := (v, 4) :: y.bad }
  | .keyAbsent => { y with key := satAdd 64 y.key 1, bad := (v, 5) :: y.bad }
  | _ => { y with mac := satAdd 64 y.mac 1, bad := (v, 3) :: y.bad }

/-- What a scrub's read of a unit of a keyless range finds: the code first, then the path of a frame, a failed or damaged node of which makes
it unverifiable; no line of it selects a key. -/
def scrubKeyless (s : State) (n a : Nat) : UnitRead :=
  let r := readLines true (unitBytes (rangeCfg s n) / 64) (a / 64) s.mem
  let t := { s with mem := r.1 }
  if r.2.any fun l => l.bad || l.tagBad then ⟨t, .memUncorrectable, 0, []⟩
  else if (rangeCfg s n).mode = 2 then
    let p := fetchPath true t n a
    match p.2.1 with
    | some lvl => ⟨p.1, .memUnverifiable, lvl, []⟩
    | none => ⟨p.1, .keyAbsent, 0, []⟩
  else ⟨t, .keyAbsent, 0, []⟩

/-- Scrub the unit of range n at physical address a, which the scrub lists as address v. A held entry reads as its contents (R295
rule 4). -/
def scrubUnit (w : Who) (n a v : Nat) (r : State × ScrubSum) : State × ScrubSum :=
  let s := r.1
  let k := unitBytes (rangeCfg s n) / 64
  let ls := (List.range k).map fun j => lineClass (faultOf s.mem (a / 64 + j))
  if mergeHas s.mem (a / 64) then (s, { r.2 with lines := satAdd 64 r.2.lines k })
  else
    let u := if (rangeKey s n).keyless then scrubKeyless s n a else readUnit true s n a
    if u.status = .ok then (u.st, scrubNote r.2 v ls .ok)
    else (failRange u.st w n a u.status u.level, scrubNote r.2 v ls u.status)

/-- The units of `n` lines from space address v: whole frames where the page lies in a Sealed range, else lines. -/
def scrubUnits (s : State) (space v n : Nat) : List (Nat × Nat × Nat) :=
  (List.range ((v + 64 * n - 1) / 256 - v / 256 + 1)).flatMap fun i =>
    let f := (v / 256 + i) * 256
    match xlate s space f with
    | none => []
    | some a =>
      match rangeAt s a with
      | none => []
      | some g =>
        if (rangeCfg s g).mode = 2 then [(g, a, f)]
        else ((List.range 4).filter fun j => decide (v ≤ f + 64 * j) && decide (f + 64 * j < v + 64 * n)).map fun j =>
          (g, a + 64 * j, f + 64 * j)

/-- Scrub a list of units in order. -/
def scrubAll (w : Who) (us : List (Nat × Nat × Nat)) (r : State × ScrubSum) : State × ScrubSum :=
  us.foldl (fun r u => scrubUnit w u.1 u.2.1 u.2.2 r) r

/-- The summary record (Table 11-6). -/
def scrubRecord (x : ScrubSum) : List Byte :=
  let l := (x.bad.reverse ++ x.mild.reverse).take 16
  natLe 4 0x42524353 ++ natLe 4 0 ++ natLe 8 x.lines ++ natLe 8 x.corr ++ natLe 8 x.unc ++ natLe 8 x.mac ++
  natLe 8 x.unver ++ natLe 1 l.length ++ natLe 7 0 ++ natLe 8 x.key ++
  (l.flatMap fun e => natLe 8 (e.1 + 2 ^ 48 * e.2)) ++ List.replicate (8 * (16 - l.length)) 0

/-- Whether a Shared rig denies a scrub of the region to a space: some range's owner set lacks its party (R301). -/
def scrubDenied (s : State) (c : Cmd) (v n : Nat) : Bool :=
  isShared s && (rangesOf s c.space v n).any fun r =>
    match spaceParty s c.space with
    | none => true
    | some p => !((rangeCfg s r).ownerSet.getLsbD p)

/-- The memory that SCRUB names. -/
def scrubNames (_ : State) (c : Cmd) : List (Nat × Nat) :=
  let v := cmdBody c
  [(fld v 0 48, 64 * (fld v 48 36 + 1)), (fld v 84 48, 192)]

/-- The check of a SCRUB before it starts (R301). -/
def scrubCheck (s : State) (c : Cmd) : Option Status :=
  let v := cmdBody c
  let addr := fld v 0 48
  let n := fld v 48 36 + 1
  let sum := fld v 84 48
  if fld v 134 154 ≠ 0 || addr % 64 ≠ 0 || sum % 64 ≠ 0 then some .badDescriptor
  else
    match (addrCheck s c addr (64 * n)).or (addrCheck s c sum 192) with
    | some st => some st
    | none =>
      if (xlateRuns s c.space addr (64 * n)).any fun r => (rangeAt s r.1).isNone then some .badDescriptor
      else if scrubDenied s c addr (64 * n) then some .flowDenied else none

/-- A SCRUB takes its next units, all that are left where `part` names none; the last ones end it with its summary. Between two of them an
abort finds it (R301). -/
def scrubPart (s : State) (c : Cmd) (part : Option Nat) : State :=
  let v := cmdBody c
  let us := scrubUnits s c.space (fld v 0 48) (fld v 48 36 + 1)
  let at_ := c.scrubbed.getD (0, {})
  let k := min (part.getD us.length) (us.length - at_.1)
  let r := scrubAll (whoOf c) ((us.drop at_.1).take k) (s, at_.2)
  let t := countHbm r.1 c [] (64 * (r.2.lines - at_.2.lines)) 0
  let t1 := chargePj t c.id (18 * (64 * (r.2.lines - at_.2.lines)))
  if at_.1 + k = us.length then
    let w := writeSpace t1 c (fld v 84 48) (scrubRecord r.2)
    cmdEnd w.st c.id (if w.status = .ok then resultOf .ok else resultRange w.status w.range)
  else { t1 with sp := cmdMod t1.sp c.id fun x => { x with scrubbed := some (at_.1 + k, r.2) } }

/-- The run of a SCRUB: its checks when it starts. -/
def scrubRun (s : State) (c : Cmd) (part : Option Nat) : State :=
  match if c.scrubbed.isNone then scrubCheck s c else none with
  | some st => cmdEnd s c.id (resultOf st)
  | none => scrubPart s c part

/-- SCRUB: an admitted command of opcode 0x70 runs (R301, R302), or goes on from where it is. -/
def execScrub (cid : Nat) (s : State) (part : Option Nat := none) : Host.Outcome State Fault Refusal :=
  .next (match cmdServed s cid 0x70 scrubNames with
    | some c => scrubRun s c part
    | none => s)

/-! ### The management scrub (R303) -/

/-- Start a management scrub; ignored while one runs. -/
def scrubStart (range pace : Nat) (s : State) : State :=
  if s.mem.scrub.state = 1 || 32 ≤ range then s
  else { s with mem := { s.mem with scrub := { state := 1, range := range, pace := pace % 4 } } }

/-- Stop the management scrub (state 3). -/
def scrubStop (s : State) : State :=
  if s.mem.scrub.state = 1 then { s with mem := { s.mem with scrub := { s.mem.scrub with state := 3 } } } else s

/-- How many units the data region of a range has. -/
def unitCount (s : State) (n : Nat) : Nat := dataSize (rangeCfg s n) / unitBytes (rangeCfg s n)

/-- k units of the data region of a range from unit i on, with their addresses. -/
def rangeUnits (s : State) (n i k : Nat) : List (Nat × Nat × Nat) :=
  let c := rangeCfg s n
  (List.range k).map fun j => (n, c.base + unitBytes c * (i + j), c.base + unitBytes c * (i + j))

/-- What a management scrub has counted, as sums that its walk goes on from (R303). -/
def scrubSoFar (x : ScrubRun) : ScrubSum :=
  { lines := x.read, corr := x.corr, unc := x.unc, mac := x.mac, unver := x.unver, key := x.key }

/-- The management scrub takes its next units, and ends with the last of its range (R303). It waits for a fill (R308). -/
def scrubGo (units : Nat) (s : State) : State :=
  let x := s.mem.scrub
  if x.state = 1 && !(filling s x.range) && systemOpen s then
    let total := if (rangeCfg s x.range).mode = 0 then 0 else unitCount s x.range
    let k := min units (total - x.pos)
    let r := scrubAll {} (rangeUnits s x.range x.pos k) (s, scrubSoFar x)
    { r.1 with mem := { r.1.mem with scrub := { r.1.mem.scrub with
        state := if x.pos + k = total then 2 else 1, pos := x.pos + k, doneMib := (x.pos + k) * unitBytes (rangeCfg s x.range) / 2 ^ 20
        read := r.2.lines, corr := r.2.corr, unc := r.2.unc, mac := r.2.mac, unver := r.2.unver, key := r.2.key } } }
  else s

/-- SCRUB_RANGE_START: a write of SCRB_CTRL with cmd 1. -/
def execScrubRangeStart (p : Port) (tag range pace : Nat) (s : State) : Host.Outcome State Fault Refusal :=
  .next (mgmtWrite p tag (.scrubRangeStart p tag range pace) (fun t => ⟨scrubStart range pace t, .ok, []⟩) s)

/-- SCRUB_RANGE_STOP: a write of SCRB_CTRL with cmd 2. -/
def execScrubRangeStop (p : Port) (tag : Nat) (s : State) : Host.Outcome State Fault Refusal :=
  .next (mgmtWrite p tag (.scrubRangeStop p tag) (fun t => ⟨scrubStop t, .ok, []⟩) s)

/-- SCRUB_RANGE_DONE: the controllers have scrubbed their next units; the last ones end the scrub (log entry 48). -/
def execScrubRangeDone (s : State) (units : Nat := 0) : Host.Outcome State Fault Refusal := .next (scrubGo units s)

end Sys2Proof.Machine
end

