-- ==== Sys2Proof/Machine/Update.lean ====
section
/-! DEFINITION. The parameter update (file 07): parameter descriptors, the four rules, catch-up, BLOCK8's factorisation, norm cells,
and the commands UPDATE and NORM_ACC. -/

namespace Sys2Proof.Machine

/-! ### Rounded F32 steps that record their events (R198) -/

/-- Event bits and invalid operations met. -/
structure Evs where
  ev : BitVec 16 := 0
  inv : Nat := 0
deriving DecidableEq, Repr

/-- A computation that records events. -/
abbrev Calc := StateM Evs

/-- Take the value of a step and record its events. -/
def noteVal (x : Val) : Calc Num := fun e => (x.v, { ev := e.ev ||| x.ev, inv := e.inv + x.inv })

/-- rne(a × b). -/
def cMul (a b : Num) : Calc Num := noteVal (valRound (valInv (numMul a b)))

/-- rne(a + b). -/
def cAdd (a b : Num) : Calc Num := noteVal (valRound (valInv (numAdd a b)))

/-- rne(a − b). -/
def cSub (a b : Num) : Calc Num := noteVal (valRound (valInv (numSub a b)))

/-- rne(a / b). -/
def cDiv (a b : Num) : Calc Num := noteVal (valRound (valDiv (numDiv a b)))

/-- fma(a, b, c). -/
def cFma (a b c : Num) : Calc Num := noteVal (valRound (vecElem 0x04 0 a b c))

/-- The correctly rounded square root. -/
def cSqrt (a : Num) : Calc Num := noteVal (valRound (valInv (numSqrt a)))

/-- rne of an exact value, with no event recorded: the values formed once per command. -/
def rneOf (p : Num × Bool) : Num := f32 p.1

/-! ### Parameter descriptors (Table 07-1) -/

/-- A parameter descriptor's fields. -/
structure ParamDesc where
  rule : Nat
  nesterov : Bool
  strict : Bool
  bf16 : Bool
  reel : Nat
  count : Nat
  lastStep : Nat
  w : Nat
  state : Nat
  steps : Nat
  beta1 : Num
  beta2 : Num
  eps : Num
  lambda : Num
  delta : Num
  period : Nat
  clip : Num
  frozen : List (Nat × Nat)
  sound : Bool
deriving DecidableEq, Repr

/-- A little-endian field of bytes. -/
def byteField (bs : List Byte) (lo n : Nat) : Nat := leNat ((bs.drop lo).take n)

/-- An F32 field. -/
def f32Field (bs : List Byte) (lo : Nat) : Num := decodeIeee 8 23 (byteField bs lo 4)

/-- The magic number of a parameter descriptor. -/
def pdMagic : Nat := 0x4D524150

/-- The fields of a descriptor; `sound` tells that the second row of Table 07-5 does not hold. -/
def paramDesc (bs : List Byte) : ParamDesc :=
  let f := byteField bs
  let w := f 16 6
  let st := f 24 6
  let sw := f 32 6
  let n := f 8 4
  { rule := f 4 1, nesterov := (f 5 1).testBit 0, strict := (f 5 1).testBit 1, bf16 := (f 5 1).testBit 2, reel := f 6 1
    count := n, lastStep := f 12 4, w := w, state := st, steps := sw, beta1 := f32Field bs 40, beta2 := f32Field bs 44
    eps := f32Field bs 48, lambda := f32Field bs 52, delta := f32Field bs 56, period := f 60 4, clip := f32Field bs 64
    frozen := (List.range 4).map fun i => (f (72 + 8 * i) 4, f (76 + 8 * i) 4)
    sound := f 0 4 == pdMagic && decide (f 4 1 ≤ 3) && decide (f 6 1 ≤ 1) && decide (f 5 1 < 8) && f 7 1 == 0 && f 22 2 == 0 &&
      f 30 2 == 0 && f 38 2 == 0 && f 68 4 == 0 && w % 64 == 0 && st % 64 == 0 && sw % 64 == 0 && decide (1 ≤ n) &&
      decide (n ≤ 2 ^ 30) }

/-- A value in [0, 1). -/
def inUnitInterval (x : Num) : Bool := numIsFin x && !(numLt x (.fin false 0 0)) && numLt x numOne

/-- A value finite and not negative. -/
def finNonneg (x : Num) : Bool := numIsFin x && !(numLt x (.fin false 0 0))

/-- A value finite and above zero. -/
def finPos (x : Num) : Bool := numIsFin x && numLt (.fin false 0 0) x

/-- The hyperparameters a rule and norm mode use are in range (Table 07-5, third row). -/
def hyperOk (d : ParamDesc) (lr : Num) (normMode : Nat) : Bool :=
  inUnitInterval d.beta1 && (d.rule == 0 || inUnitInterval d.beta2) && (d.rule != 1 || finNonneg d.eps) &&
    finNonneg d.lambda && numLt (rneOf (numMul lr d.lambda)) numOne &&
    (d.rule != 3 || (finPos d.delta && decide (1 ≤ d.period) && decide (d.period ≤ 65535))) && (normMode != 2 || finPos d.clip)

/-- The granules of a shard (R188). -/
def granules (d : ParamDesc) : Nat := (d.count + 63) / 64

/-- The parameters of granule j. -/
def granuleLen (d : ParamDesc) (j : Nat) : Nat := min 64 (d.count - 64 * j)

/-- A granule lies in a frozen run (R209). -/
def isFrozen (d : ParamDesc) (j : Nat) : Bool := d.frozen.any fun r => decide (r.1 ≤ j) && decide (j < r.1 + r.2)

/-- Stride of a granule's state (Table 07-2). -/
def stateStride (rule : Nat) : Nat := if rule = 1 then 512 else if rule = 3 then 2560 else 256

/-- The state spans of granule j's parameters. -/
def stateSpans (d : ParamDesc) (j : Nat) : List (Nat × Nat) :=
  let a := d.state + j * stateStride d.rule
  let n := granuleLen d j
  if d.rule = 1 then [(a, 4 * n), (a + 256, 4 * n)] else if d.rule = 3 then [(a, 320 * (n / 8))] else [(a, 4 * n)]

/-- Bytes of a weight. -/
def weightBytes (d : ParamDesc) : Nat := if d.bf16 then 2 else 4

/-! ### UPDATE's body (Table 07-4) -/

/-- UPDATE's body. -/
structure UpdBody where
  engine : Nat
  band : Nat
  scratch : Nat
  pd : Nat
  step : Nat
  lr : Num
  sparse : Bool
  gBf16 : Bool
  g : Nat
  list : Nat
  listCount : Nat
  normMode : Nat
  norm : Nat
  resv : Nat
deriving DecidableEq, Repr

/-- UPDATE's fields. -/
def updBody (v : Nat) : UpdBody :=
  { engine := fld v 0 6, band := fld v 6 3, scratch := 64 * fld v 9 17, pd := 64 * fld v 26 42, step := fld v 68 32
    lr := decodeIeee 8 23 (fld v 100 32), sparse := v.testBit 132, gBf16 := v.testBit 133, g := 64 * fld v 134 42
    list := 64 * fld v 176 42, listCount := fld v 218 25, normMode := fld v 243 2, norm := 64 * fld v 245 42, resv := fld v 287 1 }

/-- Bytes of a gradient element. -/
def gradBytes (b : UpdBody) : Nat := if b.gBf16 then 2 else 4

/-- The gradient's span. -/
def gradSpan (b : UpdBody) (d : ParamDesc) : Nat × Nat :=
  (b.g, (if b.sparse then 64 * b.listCount else d.count) * gradBytes b)

/-- The scratch area (Table 07-4). -/
def scratchBytes : Nat := 2 ^ 18

/-! ### Norm cells (Table 07-7) -/

/-- A norm cell. -/
structure NormCell where
  ok : Bool
  global : Bool
  nonfinite : Bool
  saturated : Bool
  step : Nat
  value : Nat
deriving DecidableEq, Repr

/-- The magic number of a norm cell. -/
def cellMagic : Nat := 0x4D524F4E

/-- A norm cell as read. -/
def normCell (bs : List Byte) : NormCell :=
  { ok := byteField bs 0 4 == cellMagic, global := byteField bs 4 1 == 1, nonfinite := (byteField bs 5 1).testBit 0
    saturated := (byteField bs 5 1).testBit 1, step := byteField bs 8 4, value := byteField bs 32 32 }

/-- The 64 bytes of a norm cell. -/
def normCellBytes (c : NormCell) : List Byte :=
  natLe 4 cellMagic ++ natLe 1 (b2n c.global) ++ natLe 1 (b2n c.nonfinite + 2 * b2n c.saturated) ++ [0, 0] ++ natLe 4 c.step ++
    List.replicate 20 0 ++ natLe 32 c.value

/-- Add to a norm value, saturating at all ones (R205). -/
def normAdd (c : NormCell) (v : Nat) : NormCell :=
  if 2 ^ 256 ≤ c.value + v then { c with saturated := true, value := 2 ^ 256 - 1 } else { c with value := c.value + v }

/-- The square of an element as a multiple of 2^−192; none for NaN and infinities. -/
def normSquare (x : Num) : Option Nat :=
  match x with
  | .fin _ m e => some (roundMul (-192) (m * m) (2 * e))
  | _ => none

/-- One element into a norm cell. -/
def normElem (c : NormCell) (x : Num) : NormCell :=
  match normSquare x with
  | some v => normAdd c v
  | none => { c with nonfinite := true }

/-! ### What an UPDATE computes once (R196, R198, R200, R207) -/

/-- The constants of a command. -/
structure UpdConst where
  rule : Nat
  nesterov : Bool
  step : Nat
  lr : Num
  kdec : Num
  b1 : Num
  b2 : Num
  omb1 : Num
  omb2 : Num
  eps : Num
  bc1 : Num
  bc2 : Num
  delta : Num
  period : Nat
  f : Num
deriving DecidableEq, Repr

/-- The clipping factor (R207). -/
def clipFactor (mode : Nat) (clip : Num) (value : Nat) : Num :=
  let n := f32 (numSqrt (f32 (.fin false value (-192)))).1
  if mode = 2 && numLt clip n then f32 (numDiv clip n).1 else numOne

/-- rne(1 − x). -/
def oneMinus (x : Num) : Num := rneOf (numSub numOne x)

/-- The constants of an UPDATE. -/
def updConst (b : UpdBody) (d : ParamDesc) (f : Num) : UpdConst :=
  { rule := d.rule, nesterov := d.nesterov, step := b.step, lr := b.lr, kdec := oneMinus (rneOf (numMul b.lr d.lambda))
    b1 := d.beta1, b2 := d.beta2, omb1 := oneMinus d.beta1, omb2 := oneMinus d.beta2, eps := d.eps
    bc1 := if d.rule = 1 then oneMinus (pwF32 d.beta1 b.step) else numOne
    bc2 := if d.rule = 1 then oneMinus (pwF32 d.beta2 b.step) else numOne
    delta := d.delta, period := d.period, f := f }

/-! ### The element-wise rules (R199 to R201) -/

/-- One element: weight, first and second state value; `pk`, `p1`, `p2` are pw of kdec, β1 and β2 over the skipped steps. -/
def elemUpdate (k : UpdConst) (pk p1 p2 w m v g0 : Num) : Calc (Num × Num × Num) := do
  let g ← cMul g0 k.f
  let w ← cMul w pk
  if k.rule = 0 then
    let m ← cMul m p1
    let m ← cFma k.b1 m g
    let upd ← if k.nesterov then cFma k.b1 m g else pure m
    let w ← cMul w k.kdec
    let q ← cMul k.lr upd
    let w ← cSub w q
    return (w, m, v)
  else if k.rule = 1 then
    let m ← cMul m p1
    let v ← cMul v p2
    let a ← cMul k.omb1 g
    let m ← cFma k.b1 m a
    let gg ← cMul g g
    let a ← cMul k.omb2 gg
    let v ← cFma k.b2 v a
    let q ← cDiv v k.bc2
    let r ← cSqrt q
    let den ← cAdd r k.eps
    let w ← cMul w k.kdec
    let mh ← cDiv m k.bc1
    let u ← cDiv mh den
    let q ← cMul k.lr u
    let w ← cSub w q
    return (w, m, v)
  else
    let m ← cMul m p2
    let a ← cMul k.omb1 g
    let c ← cFma k.b1 m a
    let zero : Num := .fin false 0 0
    let u := if numIsNan c then .nan else if numLt zero c then numOne else if numLt c zero then numNeg numOne else zero
    let w ← cMul w k.kdec
    let q ← cMul k.lr u
    let w ← cSub w q
    let a ← cMul k.omb2 g
    let m ← cFma k.b2 m a
    return (w, m, v)

/-! ### BLOCK8 (R202, R203) -/

/-- The index of entry (i, k) of a lower triangle stored row by row (R190). -/
def tri (i k : Nat) : Nat := i * (i + 1) / 2 + k

/-- Entry i of a list of values. -/
def nth (l : List Num) (i : Nat) : Num := l.getD i (.fin false 0 0)

/-- Run a computation with its own event record. -/
def calcRun {α : Type} (x : Calc α) : α × Evs := x {}

/-- fma(−a, b, ·) folded over pairs: the inner loops of R202 and R203. -/
def fmaDown (q : Num) (ab : List (Num × Num)) : Calc Num := ab.foldlM (fun q p => cFma (numNeg p.1) p.2 q) q

/-- What a refresh gives: the factor, floored pivots, whether it fell back to the diagonal. -/
structure Factor where
  l : List Num
  floored : Nat
  fallback : Bool
deriving DecidableEq, Repr

/-- The pivot floor. -/
def pivotFloor (s : List Num) (delta : Num) : Calc Num := do
  let tr ← ((List.range 7).map (· + 1)).foldlM (fun t j => cAdd t (nth s (tri j j))) (nth s 0)
  let e ← cDiv tr (numOfInt 8)
  let p ← cMul delta e
  return numMaxNum p (.fin false 1 (-126))

/-- One column of the factorisation. -/
def factorColumn (s : List Num) (delta phi : Num) (st : List Num × Nat) (j : Nat) : Calc (List Num × Nat) := do
  let l := st.1
  let p ← cAdd (nth s (tri j j)) delta
  let p ← fmaDown p ((List.range j).map fun k => (nth l (tri j k), nth l (tri j k)))
  let low := numIsNan p || numLt p phi
  let d ← cSqrt (if low then phi else p)
  let l := l.set (tri j j) d
  let l ← ((List.range (7 - j)).map (· + j + 1)).foldlM (fun l i => do
    let q ← fmaDown (nth s (tri i j)) ((List.range j).map fun k => (nth l (tri i k), nth l (tri j k)))
    let q ← cDiv q d
    return l.set (tri i j) q) l
  return (l, st.2 + b2n low)

/-- A refresh (R203). -/
def factor8 (s : List Num) (delta : Num) : Calc Factor := do
  let phi ← pivotFloor s delta
  let r ← (List.range 8).foldlM (factorColumn s delta phi) (List.replicate 36 (.fin false 0 0), 0)
  if 4 < r.2 then
    let l ← (List.range 8).foldlM (fun l j => do
      let a ← cAdd (nth s (tri j j)) delta
      let d ← cSqrt (numMaxNum a phi)
      return l.set (tri j j) d) (List.replicate 36 (.fin false 0 0))
    return ⟨l, r.2, true⟩
  else return ⟨r.1, r.2, false⟩

/-- A block's state. -/
structure Block8 where
  s : List Num
  l : List Num
  m : List Num
deriving DecidableEq, Repr

/-- What one block gives: new weights and state, the events of each element, and its refresh. -/
structure BlockOut where
  w : List Num
  b : Block8
  evs : List Evs
  refresh : Option Factor
deriving Repr

/-- Join two event records. -/
def evsJoin (a b : Evs) : Evs := { ev := a.ev ||| b.ev, inv := a.inv + b.inv }

/-- The statistics of row i: catch-up, then the update by g[i] · g[k]. -/
def statRow (k : UpdConst) (p2 : Num) (s g : List Num) (i : Nat) : Calc (List Num) :=
  (List.range (i + 1)).mapM fun c => do
    let x ← cMul (nth s (tri i c)) p2
    let gg ← cMul (nth g i) (nth g c)
    let a ← cMul k.omb2 gg
    cFma k.b2 x a

/-- Entry i of the forward substitution, from the entries before it. -/
def solveRow (l m us : List Num) (i : Nat) : Calc Num := do
  let q ← fmaDown (nth m i) ((List.range i).map fun c => (nth l (tri i c), nth us c))
  cDiv q (nth l (tri i i))

/-- One block of 8 at step word `sw`. -/
def block8 (k : UpdConst) (sw : Nat) (pk p1 p2 : Num) (w g0 : List Num) (b : Block8) : BlockOut :=
  let ix := List.range 8
  let gs := ix.map fun i => calcRun (cMul (nth g0 i) k.f)
  let g := gs.map (·.1)
  let ss := ix.map fun i => calcRun (statRow k p2 b.s g i)
  let s := ss.flatMap (·.1)
  let ms := ix.map fun i => calcRun (do
    let m ← cMul (nth b.m i) p1
    let a ← cMul k.omb1 (nth g i)
    cFma k.b1 m a)
  let m := ms.map (·.1)
  let due := decide (sw / k.period < k.step / k.period) || nth b.l 0 == .fin false 0 (-149)
  let f := if due then some (calcRun (factor8 s k.delta)) else none
  let l := match f with
    | some r => r.1.l
    | none => b.l
  let us := ix.foldl (fun (us : List (Num × Evs)) i => us ++ [calcRun (solveRow l m (us.map (·.1)) i)]) []
  let ws := ix.map fun i => calcRun (do
    let x ← cMul (nth w i) pk
    let x ← cMul x k.kdec
    let q ← cMul k.lr (nth (us.map (·.1)) i)
    cSub x q)
  let at_ := fun {α : Type} (l : List (α × Evs)) (i : Nat) => ((l[i]?).map (·.2)).getD {}
  { w := ws.map (·.1), b := ⟨s, l, m⟩, refresh := f.map (·.1)
    evs := ix.map fun i =>
      let e := evsJoin (at_ gs i) (evsJoin (at_ ss i) (evsJoin (at_ ms i) (evsJoin (at_ us i) (at_ ws i))))
      match f with
      | some r =>
        let floor : Evs := { ev := if r.1.floored = 0 then 0 else evPivot }
        if i = 0 then evsJoin (evsJoin r.2 floor) e else e
      | none => e }

/-! ### Granules (R194) -/

/-- F32 values of bytes. -/
def f32List (bs : List Byte) : List Num := (List.range (bs.length / 4)).map fun i => f32Field bs (4 * i)

/-- The bytes of F32 values. -/
def f32Bytes (l : List Num) : List Byte := l.flatMap fun x => natLe 4 (toF32 x).toNat

/-- Elements of bytes, BF16 widened. -/
def elemList (bf16 : Bool) (bs : List Byte) : List Num :=
  if bf16 then (List.range (bs.length / 2)).map fun i => ofBf16 (byteField bs (2 * i) 2) else f32List bs

/-- What a granule gives: weights, state bytes by span, events of each element, floored pivots, fallbacks, refreshes. -/
structure GranOut where
  w : List Num
  st : List (List Byte)
  evs : List Evs
  floored : Nat
  fallbacks : Nat
  refreshes : Nat
deriving Repr

/-- A block's state from its 320 bytes. -/
def blockOf (bs : List Byte) : Block8 :=
  let l := f32List bs
  ⟨l.take 36, (l.drop 36).take 36, (l.drop 72).take 8⟩

/-- Compute a granule whose step word is `sw` from its weights, state and gradient. -/
def granCompute (k : UpdConst) (sw : Nat) (w g : List Num) (st : List (List Byte)) : GranOut :=
  let d := k.step - sw
  let pk := pwF32 k.kdec (d - 1)
  let p1 := pwF32 k.b1 (d - 1)
  let p2 := pwF32 k.b2 (d - 1)
  if k.rule = 3 then
    let bs := st.headD []
    let outs := (List.range (w.length / 8)).map fun b =>
      block8 k sw pk p1 p2 ((w.drop (8 * b)).take 8) ((g.drop (8 * b)).take 8) (blockOf ((bs.drop (320 * b)).take 320))
    let fs := outs.filterMap (·.refresh)
    { w := outs.flatMap (·.w), st := [outs.flatMap fun o => f32Bytes (o.b.s ++ o.b.l ++ o.b.m)], evs := outs.flatMap (·.evs)
      floored := (fs.map (·.floored)).foldl (· + ·) 0, fallbacks := (fs.filter (·.fallback)).length, refreshes := fs.length }
  else
    let m := f32List (st.getD 0 [])
    let v := f32List (st.getD 1 [])
    let rs := (List.range w.length).map fun i => calcRun (elemUpdate k pk p1 p2 (nth w i) (nth m i) (nth v i) (nth g i))
    let ms := f32Bytes (rs.map fun r => r.1.2.1)
    { w := rs.map fun r => r.1.1, st := if k.rule = 1 then [ms, f32Bytes (rs.map fun r => r.1.2.2)] else [ms]
      evs := rs.map (·.2), floored := 0, fallbacks := 0, refreshes := 0 }

/-- The weights' bytes, BF16 rounded once more, with that rounding's events. -/
def weightOut (bf16 : Bool) (o : GranOut) : List Byte × List Evs :=
  let cs := o.w.map fun x => convert (if bf16 then .bf16 else .f32) false [] x
  (cs.flatMap fun c => natLe (if bf16 then 2 else 4) c.code,
    ((List.range cs.length).zip cs).map fun p => evsJoin (o.evs.getD p.1 {}) { ev := p.2.ev, inv := 0 })

/-- The running totals of an UPDATE. -/
structure UpdRun where
  t : Tally := {}
  updated : Nat := 0
  frozen : Nat := 0
  floored : Nat := 0
  fallbacks : Nat := 0
  refreshes : Nat := 0
  current : Nat := 0
deriving DecidableEq, Repr

/-- Free bytes in spans whose contents a failed write left unspecified (R195). -/
def spanSpoil (s : State) (slot : Nat) (spans : List (Nat × Nat)) : State :=
  spoilRuns s (spans.flatMap fun p => xlateRuns s slot p.1 p.2)

/-- The gradient of the granule at position `pos`: its span. -/
def granGrad (b : UpdBody) (d : ParamDesc) (j pos : Nat) : Nat × Nat :=
  (b.g + (if b.sparse then 64 * pos else 64 * j) * gradBytes b, granuleLen d j * gradBytes b)

/-- One granule: skipped when frozen or current, else read, computed and written, the step word last. -/
def granUpdate (s : State) (c : Cmd) (b : UpdBody) (d : ParamDesc) (k : UpdConst) (pos j : Nat) (r : UpdRun) :
    State × Status × Nat × UpdRun :=
  if isFrozen d j then (s, .ok, 255, { r with frozen := r.frozen + 1, t := tallyAdd r.t evFrozen 0 (0, pos, 0) })
  else
    let sw := readTake s c (d.steps + 4 * j) 4
    if sw.status ≠ .ok then (sw.st, sw.status, sw.range, r)
    else
      let s0 := leNat sw.bytes
      if b.step ≤ s0 then (sw.st, .ok, 255, { r with current := r.current + 1 })
      else
        let wspan := (d.w + 64 * j * weightBytes d, granuleLen d j * weightBytes d)
        let ss := stateSpans d j
        let rd := takeSpans c (wspan :: (ss ++ [granGrad b d j pos])) sw.st
        if rd.2.1 ≠ .ok then (rd.1, rd.2.1, rd.2.2.1, r)
        else
          let data := rd.2.2.2
          let o := granCompute k s0 (elemList d.bf16 (data.headD [])) (elemList b.gBf16 (data.getD (ss.length + 1) []))
            ((data.drop 1).take ss.length)
          let wo := weightOut d.bf16 o
          let spans := (wspan.1, wo.1) :: ((ss.map (·.1)).zip o.st)
          let z := writeSpans c (spans ++ [(d.steps + 4 * j, natLe 4 b.step)]) rd.1
          if z.status = .ok then
            let t := ((List.range wo.2.length).zip wo.2).foldl
              (fun t p => tallyAdd t p.2.ev p.2.inv (0, pos, p.1)) r.t
            (z.st, .ok, 255, { r with
              t := t, updated := r.updated + 1, floored := r.floored + o.floored, fallbacks := r.fallbacks + o.fallbacks
              refreshes := r.refreshes + o.refreshes })
          else (spanSpoil z.st c.space (wspan :: ss), z.status, z.range, r)

/-- Granules in order, up to the first failure. -/
def granRun (c : Cmd) (b : UpdBody) (d : ParamDesc) (k : UpdConst) : Nat → List Nat → UpdRun → State → State × Status × Nat × UpdRun
  | _, [], r, s => (s, .ok, 255, r)
  | pos, j :: js, r, s =>
    let x := granUpdate s c b d k pos j r
    if x.2.1 = .ok then granRun c b d k (pos + 1) js x.2.2.2 x.1 else x

/-! ### UPDATE -/

/-- Strictly ascending. -/
def ascending : List Nat → Bool
  | a :: b :: r => decide (a < b) && ascending (b :: r)
  | _ => true

/-- The checks of Table 07-5 on the body and the descriptor, up to the step (rows 1 to 5). -/
def updStatic (s : State) (slot : Nat) (b : UpdBody) (d : ParamDesc) : Bool :=
  let x := bandAt s b.engine b.band
  d.sound && hyperOk d b.lr b.normMode && b.engine / 32 == d.reel && bandOk s slot x && stgFits x b.scratch scratchBytes &&
    decide (d.lastStep < b.step)

/-- The checks on shape and frozen runs (rows 8 and 9). -/
def updShape (b : UpdBody) (d : ParamDesc) (js : List Nat) : Option Status :=
  if (d.rule = 3 && d.count % 8 ≠ 0) || js.any (fun j => decide (granules d ≤ j)) || (b.sparse && 2 ^ 24 < b.listCount) then
    some .badShape
  else if d.strict && js.any (isFrozen d) then some .frozenParam else none

/-- The spans an UPDATE reads besides those it writes, and the spans it writes (row 10). -/
def updSpans (b : UpdBody) (d : ParamDesc) : List (Nat × Nat) × List (Nat × Nat) :=
  let own := [(b.pd, 128), (d.w, d.count * weightBytes d), (d.state, granules d * stateStride d.rule), (d.steps, 4 * granules d)]
  (gradSpan b d :: (if b.sparse then [(b.list, 4 * b.listCount)] else []) ++ (if b.normMode = 0 then [] else [(b.norm, 64)]) ++ own,
    own)

/-- The summary and the last step written at completion (Table 07-9). -/
def updSummary (r : UpdRun) : List Byte :=
  natLe 4 r.updated ++ natLe 4 r.frozen ++ natLe 4 r.floored ++ natLe 4 r.fallbacks ++ natLe 4 r.refreshes ++ natLe 4 r.current

/-- The granules of a command that ran out: last_step and the summary, then its record; where one of them cannot be written, neither
is (R195). -/
def updFinish (s : State) (c : Cmd) (b : UpdBody) (r : UpdRun) : State :=
  let w := writeSpans c [(b.pd + 12, natLe 4 b.step), (b.pd + 104, updSummary r)] s
  if w.status = .ok then cmdEnd w.st c.id (tallyResult { r.t with floor := satAdd 32 0 r.floored } true b.engine)
  else endRange { w.st with mem := { w.st.mem with cells := s.mem.cells } } c w.status w.range

/-- The outcome of a nonfinite or saturated norm (R208). -/
def updNonfinite (s : State) (c : Cmd) (b : UpdBody) : State :=
  cmdEnd s c.id
    { status := if s.rig.active.nonfiniteFail then .aborted else .okWithEvents, events := evNonfinite, engine := b.engine }

/-- An UPDATE that passed its checks; the scratch area is unspecified afterwards (R195). A status in `cut`, of an uncorrectable SRAM word
or of an abort, ends it after some of its granules: how many is open. -/
def updGo (s : State) (c : Cmd) (b : UpdBody) (d : ParamDesc) (js : List Nat) (cell : Option NormCell) (e : SramErr)
    (cut : Option Status) : State :=
  let x := bandAt s b.engine b.band
  let s1 := addMask (sramCount s b.engine e) c.ctx
    (spanOwners s c.space ((b.pd, 128) :: (if b.sparse then [(b.list, 4 * b.listCount)] else []) ++
      (if b.normMode = 0 then [] else [(b.norm, 64)])))
  let s2 := stgSpoil s1 x b.scratch 0 scratchBytes 1
  let done := fun t => holdWrite t c x true false
  let bad := match cell with
    | some n => n.nonfinite || n.saturated
    | none => false
  if bad then updNonfinite (done s2) c b
  else
    let f := match cell with
      | some n => clipFactor b.normMode d.clip n.value
      | none => numOne
    let k := updConst b d f
    match if sramBad e then some .memUncorrectable else cut with
    | some st =>
      let r := granRun c b d k 0 (js.take ((freeAt s2 0).toNat % (js.length + 1))) {} (freeUse s2 1)
      if r.2.1 = .ok then cmdEnd (done r.1) c.id (resultOf st) else endRange (done r.1) c r.2.1 r.2.2.1
    | none =>
      let r := granRun c b d k 0 js {} s2
      if r.2.1 = .ok then updFinish (done r.1) c b r.2.2.2 else endRange (done r.1) c r.2.1 r.2.2.1

/-- Read a structure that the check needs: nothing is added to the mask until the check has passed (R360). -/
def checkRead (s : State) (c : Cmd) (v n : Nat) : MemRead :=
  match addrCheck s c v n with
  | some st => ⟨s, st, [], 255⟩
  | none => readSpace s c v n

/-- The rest of the check once descriptor, list and norm cell are read: norm cell, shape, frozen runs, owner sets. -/
def updRest (s : State) (c : Cmd) (b : UpdBody) (d : ParamDesc) (js : List Nat) (cell : Option NormCell) (e : SramErr)
    (cut : Option Status) : State :=
  let cellBad := match cell with
    | some n => !n.ok || n.step != b.step || !n.global
    | none => false
  if cellBad then cmdEnd s c.id (resultOf .badDescriptor)
  else
    match updShape b d js with
    | some st => cmdEnd s c.id (resultOf st)
    | none =>
      let p := updSpans b d
      match spansCheck s c 0 p.1 p.2 with
      | some r => cmdEnd s c.id r
      | none => updGo s c b d js cell e cut

/-- The norm cell of an UPDATE, if its mode has one. -/
def updNorm (s : State) (c : Cmd) (b : UpdBody) (d : ParamDesc) (js : List Nat) (e : SramErr) (cut : Option Status) : State :=
  if b.normMode = 0 then updRest s c b d js none e cut
  else
    let r := checkRead s c b.norm 64
    if r.status = .ok then updRest r.st c b d js (some (normCell r.bytes)) e cut else endRange r.st c r.status r.range

/-- The memory that UPDATE names, some of it through its descriptor. -/
def updNames (s : State) (c : Cmd) : List (Nat × Nat) :=
  let b := updBody (cmdBody c)
  (updSpans b (paramDesc (readSpace s c b.pd 128).bytes)).1

/-- UPDATE (R193). -/
def updRun (s : State) (c : Cmd) (e : SramErr) (cut : Option Status) : State :=
  let b := updBody (cmdBody c)
  if b.resv ≠ 0 || b.normMode = 3 || !(finNonneg b.lr) then cmdEnd s c.id (resultOf .badDescriptor)
  else
    let p := checkRead s c b.pd 128
    if p.status ≠ .ok then endRange p.st c p.status p.range
    else
      let d := paramDesc p.bytes
      if !(updStatic p.st c.space b d) then cmdEnd p.st c.id (resultOf .badDescriptor)
      else if b.sparse then
        let l := checkRead p.st c b.list (4 * b.listCount)
        if l.status ≠ .ok then endRange l.st c l.status l.range
        else
          let js := (List.range b.listCount).map (indexAt l.bytes)
          if ascending js then updNorm l.st c b d js e cut else cmdEnd l.st c.id (resultOf .badDescriptor)
      else updNorm p.st c b d (List.range (granules d)) e cut

/-- UPDATE: an admitted command of opcode 0x40 runs. -/
def execUpdate (cid : Nat) (e : SramErr) (s : State) : Host.Outcome State Fault Refusal :=
  .next (match cmdServed s cid 0x40 updNames with
    | some c => updRun s c e none
    | none => s)

/-! ### NORM_ACC (R205, Table 07-8) -/

/-- NORM_ACC's body. -/
structure NormBody where
  src : Nat
  bf16 : Bool
  init : Bool
  count : Nat
  cell : Nat
  step : Nat
  resv : Nat
deriving DecidableEq, Repr

/-- NORM_ACC's fields. -/
def normBody (v : Nat) : NormBody :=
  { src := fld v 0 48, bf16 := v.testBit 48, init := v.testBit 49, count := fld v 50 32, cell := 64 * fld v 82 42
    step := fld v 124 32, resv := fld v 157 131 }

/-- The memory that NORM_ACC names. -/
def normAccNames (_ : State) (c : Cmd) : List (Nat × Nat) :=
  let b := normBody (cmdBody c)
  [(b.src, b.count * (if b.bf16 then 2 else 4)), (b.cell, 64)]

/-- NORM_ACC: the source is read, and its total is added into the cell. -/
def normAccRun (s : State) (c : Cmd) : State :=
  let b := normBody (cmdBody c)
  let src := (b.src, b.count * (if b.bf16 then 2 else 4))
  if b.resv ≠ 0 || b.src % 4 ≠ 0 then cmdEnd s c.id (resultOf .badDescriptor)
  else
    afterCheck s c 0 [src] [(b.cell, 64)] fun t =>
      let cur := if b.init then ⟨t, .ok, normCellBytes ⟨true, false, false, false, b.step, 0⟩, 255⟩ else readSpace t c b.cell 64
      if cur.status ≠ .ok then endRange cur.st c cur.status cur.range
      else
        let n := normCell cur.bytes
        if !n.ok || n.step ≠ b.step || n.global then cmdEnd cur.st c.id (resultOf .badDescriptor)
        else
          let i := if b.init then writeSpace cur.st c b.cell cur.bytes else ⟨cur.st, .ok, 255⟩
          if i.status ≠ .ok then endRange i.st c i.status i.range
          else
            let r := readTake i.st c src.1 src.2
            if r.status ≠ .ok then endRange r.st c r.status r.range
            else
              let w := writeSpace r.st c b.cell (normCellBytes ((elemList b.bf16 r.bytes).foldl normElem n))
              endRange w.st c w.status w.range

/-- NORM_ACC: an admitted command of opcode 0x41 runs. -/
def execNormAcc (cid : Nat) (s : State) : Host.Outcome State Fault Refusal :=
  .next (match cmdServed s cid 0x41 normAccNames with
    | some c => normAccRun s c
    | none => s)

end Sys2Proof.Machine
end

