-- ==== Sys2Proof/Machine/Group.lean ====
section
/-! DEFINITION. Groups of collectives: descriptors, segments, and the operations each member runs by the group's kind
(R244 to R247, R255). -/

namespace Sys2Proof.Machine

/-! ### Group descriptors (Table 09-2) -/

/-- A group descriptor as read. -/
structure ColGroup where
  magic : Bool
  kind : Nat
  fanout : Nat
  dimX : Nat
  dimY : Nat
  dimZ : Nat
  resv : Bool
  ranks : List Nat
  landing : Nat
  landSize : Nat
  nextSeq : Nat
  digest : W256
deriving DecidableEq, Repr

/-- The magic number of a group descriptor. -/
def groupMagic : Nat := 0x50554F52

/-- A group descriptor from its header and its member entries. The digest covers bytes [15:0] and the entries (R244). -/
def groupOf (h es : List Byte) : ColGroup :=
  { magic := byteField h 0 4 == groupMagic, kind := byteField h 4 1, fanout := byteField h 5 1, dimX := byteField h 8 1
    dimY := byteField h 9 1, dimZ := byteField h 10 1
    resv := byteField h 11 5 == 0 && byteField h 22 2 == 0 && byteField h 36 28 == 0
    ranks := (List.range (byteField h 6 2)).map fun i => byteField es (2 * i) 2
    landing := byteField h 16 6, landSize := byteField h 24 8, nextSeq := byteField h 32 4
    digest := shakeW (h.take 16 ++ es) }

/-- The shape fields of a kind (Table 09-2, R245). -/
def groupShape (g : ColGroup) : Bool :=
  let p := g.ranks.length
  if g.kind = 1 then
    g.fanout == 0 && decide (1 ≤ g.dimX) && decide (g.dimX ≤ 16) && decide (1 ≤ g.dimY) && decide (g.dimY ≤ 16) && decide (1 ≤ g.dimZ) &&
      decide (g.dimZ ≤ 16) && g.dimX * g.dimY * g.dimZ == p
  else if g.kind = 2 then decide (2 ≤ g.fanout) && decide (g.fanout ≤ 8) && g.dimX == 0 && g.dimY == 0 && g.dimZ == 0
  else g.kind == 0 && g.fanout == 0 && g.dimX == 0 && g.dimY == 0 && g.dimZ == 0

/-- The validity of a group descriptor (R245): bits [15:12] of an entry are zero, so an entry above 4,095 is invalid. -/
def groupValid (s : State) (g : ColGroup) : Bool :=
  let me := s.rig.active.moduleId
  g.magic && g.resv && groupShape g && decide (1 ≤ g.ranks.length) && decide (g.ranks.length ≤ 4096) && g.landing % 64 == 0 &&
    g.ranks.all (fun i => decide (i < 4096)) && g.ranks.eraseDups.length == g.ranks.length && g.ranks.contains me &&
    g.ranks.all (fun i => i == me || (routeOf s i).isSome)

/-- What a read of a group descriptor gave. -/
structure GroupRead where
  st : State
  status : Status
  range : Nat
  group : ColGroup

/-- Read a group descriptor: header and entries; the padding is not read. -/
def groupRead (s : State) (c : Cmd) (v : Nat) : GroupRead :=
  let h := checkRead s c v 64
  if h.status ≠ .ok then ⟨h.st, h.status, h.range, groupOf [] []⟩
  else
    let n := byteField h.bytes 6 2
    if byteField h.bytes 0 4 ≠ groupMagic || n = 0 || 4096 < n then ⟨h.st, .badDescriptor, 255, groupOf [] []⟩
    else
      let e := checkRead h.st c (v + 64) (2 * n)
      ⟨e.st, e.status, e.range, groupOf h.bytes e.bytes⟩

/-! ### Segments (R246) -/

/-- Elements of a block. -/
def colUnit (comp : Nat) : Nat := if comp = 1 then 1024 else if comp = 2 then 256 else 64

/-- Blocks of a tensor. -/
def colBlocks (comp count : Nat) : Nat := (count + colUnit comp - 1) / colUnit comp

/-- The first block of segment s of p. -/
def segBlock (comp count p s : Nat) : Nat := s * colBlocks comp count / p

/-- The first element of segment s of p; of segment p, the count. -/
def segLo (comp count p s : Nat) : Nat := min count (segBlock comp count p s * colUnit comp)

/-- The elements of segments [a, b). -/
def segSpan (comp count p : Nat) (ab : Nat × Nat) : Nat × Nat := (segLo comp count p ab.1, segLo comp count p ab.2)

/-- Elements of segment s. -/
def segLen (comp count p s : Nat) : Nat := segLo comp count p (s + 1) - segLo comp count p s

/-- The largest of a list. -/
def maxOf (l : List Nat) : Nat := l.foldl max 0

/-- W of R248: the elements a landing buffer must hold. -/
def colW (g : ColGroup) (op comp count : Nat) : Nat :=
  let p := g.ranks.length
  let part := fun n => maxOf ((List.range (p / max 1 n)).map fun j =>
    (segSpan comp count p (n * j, n * (j + 1))).2 - (segSpan comp count p (n * j, n * (j + 1))).1)
  if comp ≠ 0 then part 1
  else if g.kind = 2 then count
  else if 2 ≤ op then 0
  else if g.kind = 1 then
    (if 1 < g.dimZ then part (g.dimX * g.dimY) else if 1 < g.dimY then part g.dimX else part 1)
  else part 1

/-! ### The operations of a member (R247, R255) -/

/-- What a program is made for: the tensor, whether whole segments travel as blocks (TOPK, NORM_REDUCE) instead of final bytes. -/
structure ColPlan where
  g : ColGroup
  op : Nat
  comp : Nat
  count : Nat
  root : Nat
  segMode : Bool

/-- Members. -/
def planP (x : ColPlan) : Nat := x.g.ranks.length

/-- Send a partial of segments [a, b). -/
def opSend (x : ColPlan) (peer : Nat) (ab : Nat × Nat) : List ColOp :=
  let e := segSpan x.comp x.count (planP x) ab
  if e.1 < e.2 then [.send peer e.1 e.2 0] else []

/-- Take a partial and add it. -/
def opAdd (x : ColPlan) (peer : Nat) (ab : Nat × Nat) : List ColOp :=
  let e := segSpan x.comp x.count (planP x) ab
  if e.1 < e.2 then [.add peer e.1 e.2] else []

/-- The segments of [a, b) that are not empty. -/
def fullSegs (x : ColPlan) (ab : Nat × Nat) : List Nat :=
  ((List.range (ab.2 - ab.1)).map (ab.1 + ·)).filter fun s => segLen x.comp x.count (planP x) s != 0

/-- Send the result of segments [a, b). -/
def opGive (x : ColPlan) (peer : Nat) (ab : Nat × Nat) : List ColOp :=
  if x.segMode then (fullSegs x ab).map fun s => .sendSeg peer s 0
  else
    let e := segSpan x.comp x.count (planP x) ab
    if e.1 < e.2 then [.sendFinal peer e.1 e.2] else []

/-- Take the result of segments [a, b). -/
def opTake (x : ColPlan) (peer : Nat) (ab : Nat × Nat) : List ColOp :=
  if x.segMode then (fullSegs x ab).map fun s => .takeSeg peer s
  else
    let e := segSpan x.comp x.count (planP x) ab
    if e.1 < e.2 then [.take peer e.1 e.2] else []

/-- One ring reduce-scatter stage of n members, this one at position p: part j is the segments `part j`. -/
def ringReduce (x : ColPlan) (n p : Nat) (id : Nat → Nat) (part : Nat → Nat × Nat) : List ColOp :=
  (List.range (n - 1)).flatMap fun i =>
    opSend x (id ((p + 1) % n)) (part ((p + 2 * n - 1 - i) % n)) ++ opAdd x (id ((p + n - 1) % n)) (part ((p + 2 * n - 2 - i) % n))

/-- One ring all-gather stage. -/
def ringGather (x : ColPlan) (n p : Nat) (id : Nat → Nat) (part : Nat → Nat × Nat) : List ColOp :=
  (List.range (n - 1)).flatMap fun i =>
    opGive x (id ((p + 1) % n)) (part ((p + n - i) % n)) ++ opTake x (id ((p + n - 1) % n)) (part ((p + 2 * n - 1 - i) % n))

/-- One ring broadcast stage from position r: the root's segments pipelined. -/
def ringBcast (x : ColPlan) (n p r : Nat) (id : Nat → Nat) : List ColOp :=
  let d := (p + n - r) % n
  (List.range (planP x)).flatMap fun s =>
    (if d = 0 then [] else opTake x (id ((p + n - 1) % n)) (s, s + 1)) ++
      (if d + 1 < n then opGive x (id ((p + 1) % n)) (s, s + 1) else [])

/-- Coordinates of a rank in a torus. -/
def torusAt (g : ColGroup) (r : Nat) : Nat × Nat × Nat := (r % g.dimX, r / g.dimX % g.dimY, r / (g.dimX * g.dimY))

/-- The stages of a torus for a rank, Z first: size, position, ranks, parts. -/
def torusStages (g : ColGroup) (r : Nat) : List (Nat × Nat × (Nat → Nat) × (Nat → Nat × Nat)) :=
  let c := torusAt g r
  let xy := g.dimX * g.dimY
  [(g.dimZ, c.2.2, fun j => r % xy + xy * j, fun j => (xy * j, xy * (j + 1))),
   (g.dimY, c.2.1, fun j => c.1 + g.dimX * j + xy * c.2.2, fun j => (xy * c.2.2 + g.dimX * j, xy * c.2.2 + g.dimX * (j + 1))),
   (g.dimX, c.1, fun j => j + g.dimX * c.2.1 + xy * c.2.2,
     fun j => (xy * c.2.2 + g.dimX * c.2.1 + j, xy * c.2.2 + g.dimX * c.2.1 + j + 1))]

/-- The parent of a rank of a tree. -/
def treeParent (f r : Nat) : Nat := (r - 1) / f

/-- The children of a rank of a tree. -/
def treeKids (f p r : Nat) : List Nat := ((List.range f).map fun i => f * r + i + 1).filter fun c => decide (c < p)

/-- Whether rank q lies in the subtree of rank r. -/
def treeUnder (f r : Nat) : Nat → Nat → Bool
  | 0, q => q == r
  | fuel + 1, q => q == r || (decide (r < q) && treeUnder f r fuel (treeParent f q))

/-- The ranks of a subtree. -/
def treeSub (f p r : Nat) : List Nat := (List.range p).filter fun q => treeUnder f r p q

/-- Reduction along the group's path: partials only. -/
def planReduce (x : ColPlan) (r : Nat) : List ColOp :=
  let p := planP x
  if x.g.kind = 1 then (torusStages x.g r).flatMap fun t => ringReduce x t.1 t.2.1 t.2.2.1 t.2.2.2
  else if x.g.kind = 2 then
    (treeKids x.g.fanout p r).flatMap (fun c => opAdd x c (0, p)) ++ (if r = 0 then [] else opSend x (treeParent x.g.fanout r) (0, p))
  else ringReduce x p r id fun j => (j, j + 1)

/-- All-gather of the members' segments along the group's path. -/
def planGather (x : ColPlan) (r : Nat) : List ColOp :=
  let p := planP x
  if x.g.kind = 1 then (torusStages x.g r).reverse.flatMap fun t => ringGather x t.1 t.2.1 t.2.2.1 t.2.2.2
  else if x.g.kind = 2 then
    let f := x.g.fanout
    (treeKids f p r).flatMap (fun c => (treeSub f p c).flatMap fun q => opTake x c (q, q + 1)) ++
      (if r = 0 then []
       else (treeSub f p r).flatMap (fun q => opGive x (treeParent f r) (q, q + 1)) ++ opTake x (treeParent f r) (0, p)) ++
      (treeKids f p r).flatMap fun c => opGive x c (0, p)
  else ringGather x p r id fun j => (j, j + 1)

/-- The tensor sent down a tree from its root. -/
def planDown (x : ColPlan) (r : Nat) : List ColOp :=
  let p := planP x
  (if r = 0 then [] else opTake x (treeParent x.g.fanout r) (0, p)) ++ (treeKids x.g.fanout p r).flatMap fun c => opGive x c (0, p)

/-- BROADCAST: rings, a torus dimension by dimension, or up the tree to its root and then down. -/
def planBcast (x : ColPlan) (r : Nat) : List ColOp :=
  let p := planP x
  if x.g.kind = 1 then
    let c := torusAt x.g r
    let o := torusAt x.g x.root
    let st := torusStages x.g r
    let stage := fun (i pos : Nat) => match st[i]? with
      | some t => ringBcast x t.1 t.2.1 pos t.2.2.1
      | none => []
    (if c.2.1 = o.2.1 && c.2.2 = o.2.2 then stage 2 o.1 else []) ++ (if c.2.2 = o.2.2 then stage 1 o.2.1 else []) ++ stage 0 o.2.2
  else if x.g.kind = 2 then
    let f := x.g.fanout
    let onPath := fun q => treeUnder f q p x.root
    (if x.root ≠ r && onPath r then
        ((treeKids f p r).filter onPath).flatMap fun c => opTake x c (0, p) else []) ++
      (if r ≠ 0 && onPath r then opGive x (treeParent f r) (0, p) else []) ++ planDown x r
  else ringBcast x p r x.root id

/-- Every member sends each segment's blocks to the segment's owner, by distance (R255). -/
def planExchange (x : ColPlan) (r : Nat) : List ColOp :=
  let p := planP x
  (List.range (p - 1)).flatMap fun i =>
    let t := (r + i + 1) % p
    (if segLen x.comp x.count p t = 0 then [] else [.sendBlocks t t 0]) ++
      (if segLen x.comp x.count p r = 0 then [] else [.addBlocks ((r + p - 1 - i) % p) r])

/-- The read-out of segment r as final bytes, or as a whole segment. -/
def opRead (x : ColPlan) (ab : Nat × Nat) : List ColOp :=
  if x.segMode then (fullSegs x ab).map fun s => .readSeg s
  else
    let e := segSpan x.comp x.count (planP x) ab
    if e.1 < e.2 then [.readOut e.1 e.2] else []

/-- Final segments sent by the root of a tree straight from its sums (Table 09-3). -/
def treeScatter (x : ColPlan) (r : Nat) : List ColOp :=
  let p := planP x
  if r = 0 then
    opRead x (0, 1) ++ (List.range (p - 1)).flatMap fun i =>
      let e := segSpan x.comp x.count p (i + 1, i + 2)
      if e.1 < e.2 then [ColOp.sendOut (i + 1) e.1 e.2] else []
  else opTake x 0 (r, r + 1)

/-- A member's operations, landing positions not yet filled in. -/
def planRaw (x : ColPlan) (r : Nat) : List ColOp :=
  let p := planP x
  let tree := x.g.kind = 2
  if x.op = 3 then planBcast x r
  else if x.op = 2 then planGather x r
  else if x.comp ≠ 0 then
    planExchange x r ++ opRead x (r, r + 1) ++ (if x.op = 0 then planGather x r else [])
  else
    planReduce x r ++
      (if tree then
        (if x.op = 0 then (if r = 0 then opRead x (0, p) else []) ++ planDown x r else treeScatter x r)
       else opRead x (r, r + 1) ++ (if x.op = 0 then planGather x r else []))

/-- The senders of the landing data of a list of operations, in order. -/
def landingFrom : List ColOp → List Nat
  | [] => []
  | .add q _ _ :: r => q :: landingFrom r
  | .addBlocks q _ :: r => q :: landingFrom r
  | .takeSeg q _ :: r => q :: landingFrom r
  | _ :: r => landingFrom r

/-- The position of the n-th entry of a list that equals a value. -/
def nthIndex (q : Nat) : Nat → Nat → List Nat → Nat
  | _, _, [] => 0
  | n, i, x :: xs => if x = q then (if n = 0 then i else nthIndex q (n - 1) (i + 1) xs) else nthIndex q n (i + 1) xs

/-- Fill in landing positions: the n-th landing send of member r to a peer is the n-th that the peer takes from r. -/
def planIdx (x : ColPlan) (r : Nat) : List Nat → List ColOp → List ColOp
  | _, [] => []
  | seen, op :: ops =>
    let pos := fun t => nthIndex r (seen.count t) 0 (landingFrom (planRaw x t))
    match op with
    | .send t lo hi _ => .send t lo hi (pos t) :: planIdx x r (t :: seen) ops
    | .sendBlocks t g _ => .sendBlocks t g (pos t) :: planIdx x r (t :: seen) ops
    | .sendSeg t g _ => .sendSeg t g (pos t) :: planIdx x r (t :: seen) ops
    | o => o :: planIdx x r seen ops

/-- A member's operations. -/
def planOps (x : ColPlan) (r : Nat) : List ColOp := planIdx x r [] (planRaw x r)

end Sys2Proof.Machine
end

