-- ==== Sys2Proof/Machine/Collective.lean ====
section
/-! DEFINITION. The collective engine (R243 to R262): bodies and checks, joins, compression, the run of a member's operations, and
how a collective ends. -/

namespace Sys2Proof.Machine

/-! ### Bodies (Tables 09-5, 09-6, 09-4) -/

/-- A COLLECTIVE or NORM_REDUCE body; a NORM_REDUCE's op reads as 4, as COL_SLOT_INFO shows it. Addresses in bytes. -/
structure ColBody where
  norm : Bool
  op : Nat
  ofr : Bool
  ew : Int
  comp : Nat
  srcFmt : Nat
  outFmt : Nat
  root : Nat
  count : Nat
  seq : Nat
  group : Nat
  src : Nat
  dst : Nat
  block : Nat
  step : Nat
  resv : Nat
deriving DecidableEq, Repr

/-- COLLECTIVE's fields. -/
def colBody (v : Nat) : ColBody :=
  { norm := false, op := fld v 0 4, ofr := v.testBit 4, ew := sext 9 (fld v 5 9), comp := fld v 14 2, srcFmt := fld v 16 2, outFmt := fld v 18 1
    root := fld v 19 12, count := fld v 31 32, seq := fld v 63 32, group := 64 * fld v 95 42, src := 64 * fld v 137 42
    dst := 64 * fld v 179 42, block := 64 * fld v 221 42, step := 0, resv := fld v 263 25 }

/-- NORM_REDUCE's fields: source and destination are the cell. -/
def colNormBody (v : Nat) : ColBody :=
  { norm := true, op := 4, ofr := true, ew := 0, comp := 0, srcFmt := 0, outFmt := 0, root := 0, count := 1, seq := fld v 42 32
    group := 64 * fld v 0 42, src := 64 * fld v 74 42, dst := 64 * fld v 74 42, block := 0, step := fld v 116 32, resv := fld v 148 140 }

/-- A command's body by its opcode. -/
def bodyOfCol (c : Cmd) : ColBody := if c.opcode = 0x51 then colNormBody (cmdBody c) else colBody (cmdBody c)

/-- A compression block's fields (Table 09-4). -/
structure CompBlock where
  ok : Bool
  k : Nat
  bf16 : Bool
  resid : Nat
  upd : Nat
deriving DecidableEq, Repr

/-- A compression block as read for comp 1 (TOPK) or 2 (SIGN). -/
def compBlock (comp : Nat) (bs : List Byte) : CompBlock :=
  let k := byteField bs 4 1
  let f := byteField bs 5 1
  let resid := byteField bs 8 6
  let upd := byteField bs 16 6
  { ok := byteField bs 0 4 == 0x504D4F43 && (if comp = 1 then decide (1 ≤ k) && decide (k ≤ 64) && decide (f ≤ 1) else k == 0 && f == 0) &&
      byteField bs 6 2 == 0 && byteField bs 14 2 == 0 && byteField bs 22 2 == 0 && byteField bs 36 28 == 0 && resid % 64 == 0 && upd % 64 == 0
    k := k, bf16 := f == 1, resid := resid, upd := upd }

/-- Bytes of a source element; of an element of the result. -/
def colSrcW (srcFmt : Nat) : Nat := if srcFmt = 1 then 2 else 4
def colOutW (op srcFmt outFmt : Nat) : Nat := if op = 2 || op = 3 then colSrcW srcFmt else if outFmt = 1 then 2 else 4

/-! ### The slot in use -/

/-- The slot of a command. -/
def slotOf (s : State) (cid : Nat) : Option ColSlot := s.col.slots.find? fun x => x.cid == cid

/-- Change a slot. -/
def colMod (s : State) (cid : Nat) (f : ColSlot → ColSlot) : State :=
  { s with col := { s.col with slots := s.col.slots.map fun x => if x.cid = cid then f x else x } }

/-- Members of a slot's group. -/
def slotP (x : ColSlot) : Nat := x.ranks.length

/-- The first element of this member's own segment. -/
def ownLo (x : ColSlot) : Nat := segLo x.mine.comp x.mine.count (slotP x) x.rank

/-- Elements of this member's own segment. -/
def ownLen (x : ColSlot) : Nat := segLen x.mine.comp x.mine.count (slotP x) x.rank

/-- Whether the result is a sparse gradient (R256). -/
def slotTopk (x : ColSlot) : Bool := x.mine.comp == 1

/-- The first element that a member's destination holds. -/
def dstBase (x : ColSlot) (r : Nat) : Nat := if x.mine.op = 1 then segLo x.mine.comp x.mine.count (slotP x) r else 0

/-- Elements that this member's destination holds. -/
def dstLen (x : ColSlot) : Nat := if x.mine.op = 1 then ownLen x else x.mine.count

/-- Bytes of one element of the result. -/
def slotOutW (x : ColSlot) : Nat := colOutW x.mine.op x.mine.srcFmt x.mine.outFmt

/-- 64-element granules of n elements. -/
def granuleCount (n : Nat) : Nat := (n + 63) / 64

/-- Bytes of a list of n granule indices, padded (R192, R256). -/
def listBytes (n : Nat) : Nat := (4 * n + 63) / 64 * 64

/-- Bytes of the destination. -/
def dstBytes (x : ColSlot) : Nat :=
  if x.norm then 64
  else if slotTopk x then listBytes (granuleCount (dstLen x)) + granuleCount (dstLen x) * 64 * slotOutW x
  else dstLen x * slotOutW x

/-- Bytes of the landing area that the collective may write (R248, R261). -/
def landBytes (x : ColSlot) : Nat := x.area

/-- The arithmetic of a slot, as a reduction target's header. -/
def slotHdr (x : ColSlot) : RedHeader := ⟨x.mine.ofr, x.mine.eW, x.mine.count⟩

/-- Bytes of one partial on the fabric: a norm cell's value and flags travel as 64 bytes. -/
def partW (x : ColSlot) : Nat := if x.norm then 64 else redWidth (slotHdr x)

/-- The command behind a slot. -/
def slotCmd (s : State) (x : ColSlot) : Option Cmd := cmdGet s x.cid

/-! ### Checks (Table 09-7) -/

/-- The first two rows: the body alone. -/
def colStatic (s : State) (b : ColBody) : Bool :=
  b.resv == 0 &&
    (b.norm ||
      (decide (b.op ≤ 3) && b.comp != 3 && b.srcFmt != 3 && ewOk b.ofr b.ew && (b.ofr || !s.rig.active.replayable) && b.count != 0 &&
        (b.comp == 0 || (decide (b.op ≤ 1) && decide (b.srcFmt ≤ 1))) && (decide (b.op ≤ 1) || b.outFmt == 0) && (b.op == 3 || b.root == 0) &&
        (b.comp != 0 || b.block == 0)))

/-- The slot a checked command would take. A landing buffer holds 8 × W bytes, but at least one SIGN block (log entry 136). -/
def colMake (s : State) (c : Cmd) (b : ColBody) (g : ColGroup) (k : CompBlock) : ColSlot :=
  let party := (spaceParty s c.space).getD 0
  let at_ := fun v => match xlate s c.space v with
    | some a => match rangeAt s a with
      | some n => (n, a - (rangeCfg s n).base)
      | none => (0, 0)
    | none => (0, 0)
  let w := colW g b.op b.comp b.count
  { cid := c.id, space := c.space, norm := b.norm, ranks := g.ranks, rank := (g.ranks.idxOf s.rig.active.moduleId)
    group := b.group, src := b.src, dst := b.dst, comp := b.block, resid := k.resid, upd := k.upd, landing := g.landing
    stride := if b.norm then 64 else if b.comp = 2 then max (8 * w) 34 else 8 * w
    area := (if b.norm then 0 else 24 * w) + 4096
    mine := { digest := g.digest, seq := b.seq, op := b.op, count := b.count, srcFmt := b.srcFmt, outFmt := b.outFmt, ofr := b.ofr
              eW := b.ew, comp := b.comp, compK := k.k, compVfmt := b2n k.bf16, root := b.root, party := party
              system := (spaceParty s c.space).isNone, landRange := (at_ g.landing).1, landOff := (at_ g.landing).2
              dstRange := (at_ b.dst).1, dstOff := (at_ b.dst).2 } }

/-- Bytes of the source that this member reads (R246). -/
def srcBytes (x : ColSlot) : Nat :=
  if x.norm then 64
  else
    let n := if x.mine.op = 2 then ownLen x else if x.mine.op = 3 && x.mine.root != x.rank then 0 else x.mine.count
    n * colSrcW x.mine.srcFmt

/-- What a check gave: the state after its reads, and the slot to take or the failure; `turn` tells that the command's seq is the
group's next, `ahead` that it is one of the 64 after it. -/
structure ColCheck where
  st : State
  result : Except Result ColSlot
  turn : Bool
  ahead : Bool

/-- How far a seq lies above a group's next one. -/
def seqAbove (seq : Nat) (g : ColGroup) : Nat := (seq + 2 ^ 32 - g.nextSeq) % 2 ^ 32

/-- The spans that a collective reads (its source) and writes: next_seq, landing area, destination, residual, and what it leaves in the
compression block and the UPDATE it names (R360). -/
def colSpans (x : ColSlot) : List (Nat × Nat) :=
  [(x.group + 32, 4), (x.landing, landBytes x), (x.dst, dstBytes x)] ++
    (if x.mine.comp = 0 then [] else [(x.resid, 4 * x.mine.count), (x.comp + 24, 12)]) ++ if slotTopk x && x.upd != 0 then [(x.upd, 64)] else []

/-- The memory that a collective names, some of it through its group descriptor and compression block. -/
def colNames (s : State) (c : Cmd) : List (Nat × Nat) :=
  let b := bodyOfCol c
  let g := (groupRead s c b.group).group
  let x := colMake s c b g (if b.comp = 0 then ⟨true, 0, false, 0, 0⟩ else compBlock b.comp (readSpace s c b.block 64).bytes)
  (b.group, 64 + 2 * g.ranks.length) :: (if b.comp = 0 then [] else [(b.block, 64)]) ++ (x.src, srcBytes x) :: colSpans x

/-- The rows of Table 09-7 from the compression block on, for a command whose body, group and seq are good. -/
def colCheckRest (s : State) (c : Cmd) (b : ColBody) (g : ColGroup) : State × Except Result ColSlot :=
  let bad := fun (t : State) (st : Status) => (t, (Except.error (resultOf st) : Except Result ColSlot))
  let fail := fun (r : MemRead) => (r.st, (Except.error (resultRange r.status r.range) : Except Result ColSlot))
  let k := if b.comp = 0 then MemRead.mk s .ok [] 255 else checkRead s c b.block 64
  if k.status ≠ .ok then fail k
  else
    let kb := if b.comp = 0 then CompBlock.mk true 0 false 0 0 else compBlock b.comp k.bytes
    let u := if kb.ok && kb.upd != 0 then checkRead k.st c kb.upd 64 else ⟨k.st, .ok, [0x40], 255⟩
    let n := if b.norm then checkRead u.st c b.src 64 else ⟨u.st, .ok, [], 255⟩
    let cell := normCell n.bytes
    if !kb.ok then bad k.st .badDescriptor
    else if u.status ≠ .ok then fail u
    else if byteField u.bytes 0 1 ≠ 0x40 then bad u.st .badDescriptor
    else if n.status ≠ .ok then fail n
    else if b.norm && (!cell.ok || byteField n.bytes 4 1 != 0 || cell.step != b.step) then bad n.st .badDescriptor
    else
      let x := colMake n.st c b g kb
      if g.landSize < landBytes x then bad n.st .badShape
      else
        match spansCheck n.st c 0 [(x.src, srcBytes x)] (colSpans x) with
        | some f => (n.st, .error f)
        | none =>
          let plan : ColPlan := ⟨g, if b.norm then 0 else b.op, b.comp, b.count, b.root, b.norm || decide (b.comp = 1)⟩
          let ops := planOps plan x.rank
          (n.st, .ok { x with prog := ops, recvs := landingFrom ops })

/-- The checks of Table 09-7: the body, the group and seq, and the rest. The group is read first, so that a command that fails at its
turn moves next_seq on whatever it fails by (R245). -/
def colCheck (s : State) (c : Cmd) : ColCheck :=
  let b := bodyOfCol c
  let r := groupRead s c b.group
  if r.status ≠ .ok then
    ⟨r.st, .error (if colStatic s b then resultRange r.status r.range else resultOf .badDescriptor), false, false⟩
  else
    let d := seqAbove b.seq r.group
    if !(colStatic s b) || !(groupValid r.st r.group) || (b.op = 3 && decide (r.group.ranks.length ≤ b.root)) || decide (64 < d) then
      ⟨r.st, .error (resultOf .badDescriptor), decide (d = 0), false⟩
    else
      let k := colCheckRest r.st c b r.group
      ⟨k.1, k.2, decide (d = 0), decide (d ≠ 0)⟩

/-! ### Messages and data -/

/-- The bytes that stand for a message: its kind, then its fields (log entry 50). -/
def joinBytes (j : Join) : List Byte :=
  natLe 1 1 ++ natLe 32 j.digest.toNat ++ natLe 4 j.seq ++ natLe 1 j.op ++ natLe 4 j.count ++ natLe 1 j.srcFmt ++ natLe 1 j.outFmt ++
    natLe 1 (b2n j.ofr) ++ natLe 2 (j.eW % 2 ^ 16).toNat ++ natLe 1 j.comp ++ natLe 1 j.compK ++ natLe 1 j.compVfmt ++ natLe 2 j.root ++
    natLe 1 j.party ++ natLe 1 (b2n j.system) ++ natLe 1 j.landRange ++ natLe 5 j.landOff ++ natLe 1 j.dstRange ++ natLe 5 j.dstOff

/-- A credit (kind 2) or an abort (kind 3) of a collective. -/
def colNote (kind : Nat) (j : Join) : List Byte := natLe 1 kind ++ natLe 32 j.digest.toNat ++ natLe 4 j.seq

/-- A packet of a collective with the sending space's fields. -/
def colPacket (s : State) (x : ColSlot) (p : Packet) : Packet :=
  { p with
    ownerSet := match slotCmd s x with
      | some c => ctxMask s c.ctx
      | none => 0
    party := x.mine.party, system := x.mine.system }

/-- Send a message to the member of a rank. -/
def colMsg (x : ColSlot) (data : List Byte) (owner : TxnOwner) (s : State) (rank : Nat) : State :=
  request s { pkt := colPacket s x (msgPacket (x.ranks.getD rank 0) 0 data), requester := 8, twinOnly := false, owner := owner, space := x.space }

/-- The ranks of the other members. -/
def otherRanks (x : ColSlot) : List Nat := (List.range (slotP x)).filter fun r => r != x.rank

/-- Cut bytes into packets of at most 448 data bytes (R222). -/
def pieces : Nat → Nat → List Byte → List (Nat × List Byte)
  | 0, _, _ => []
  | fuel + 1, off, bs => if bs.isEmpty then [] else (off, bs.take 448) :: pieces fuel (off + 448) (bs.drop 448)

/-- Send data to a range of a member as WR_REQ packets. -/
def colWrite (s : State) (x : ColSlot) (rank range off : Nat) (bs : List Byte) : State :=
  let s1 := (pieces (bs.length + 1) off bs).foldl (fun t e =>
    request t { pkt := colPacket t x { blankPacket with
                  type := 0xA, dst := x.ranks.getD rank 0, range := range, offset := e.1, bytes := e.2.length
                  flitsM1 := flitsFor e.2.length - 1, data := e.2 }
                requester := 8, twinOnly := false, owner := .collective x.cid, space := x.space }) s
  { s1 with col := { s1.col with tx := s1.col.tx + bs.length } }

/-! ### Ends -/

/-- A write of a command, checked against the mask its context holds by now (R251, R360). -/
def colPut (s : State) (c : Cmd) (v : Nat) (bs : List Byte) : State × Option Result :=
  match (rangesOf s c.space v bs.length).find? fun r => ctxMask s c.ctx &&& ~~~(rangeCfg s r).ownerSet != 0 with
  | some r => (s, some (resultRange .flowDenied r))
  | none =>
    let w := writeSpace s c v bs
    (w.st, if w.status = .ok then none else some (resultRange w.status w.range))

/-- Write the group's next sequence number (R245). -/
def groupPut (s : State) (c : Cmd) (group seq : Nat) : State × Option Result := colPut s c (group + 32) (natLe 4 ((seq + 1) % 2 ^ 32))

/-- The group's next sequence number after a command that fails: its status is the command's own, whatever the write gives. -/
def groupNext (s : State) (c : Cmd) (group seq : Nat) : State := (groupPut s c group seq).1

/-- Fill bytes at a space address with free values (R261). -/
def spoilSpace (s : State) (space v n : Nat) : State :=
  spoilRuns s (xlateRuns s space v n)

/-- What a collective that failed after its check leaves unspecified: destination, residual and the landing area it may have written;
a NORM_REDUCE's cell keeps its contents (R261). -/
def colSpoil (s : State) (x : ColSlot) : State :=
  let s1 := if x.norm then s else spoilSpace s x.space x.dst (dstBytes x)
  let s2 := if x.mine.comp = 0 then s1 else spoilSpace s1 x.space x.resid (4 * x.mine.count)
  spoilSpace s2 x.space x.landing (landBytes x)

/-- A collective fails on this member; `tell` sends an abort to every other member (Table 09-8). -/
def colFail (s : State) (x : ColSlot) (r : Result) (tell : Bool) : State :=
  let s1 := { s with
    col := { s.col with slots := s.col.slots.filter fun y => y.cid != x.cid, failed := s.col.failed + 1 }
    fabric := { s.fabric with waiting := s.fabric.waiting.filter fun w => w.owner != .collective x.cid } }
  let s2 := if tell then (otherRanks x).foldl (colMsg x (colNote 3 x.mine) .message) s1 else s1
  let s3 := colSpoil s2 x
  let s4 := match slotCmd s3 x with
    | some c => groupNext s3 c x.group x.mine.seq
    | none => s3
  cmdEnd s4 x.cid r

/-- Whether joins agree in all that every member must say alike, and name parties and system alike (R251, R261). -/
def joinsAgree (a b : Join) : Bool :=
  a.digest == b.digest && a.seq == b.seq && a.op == b.op && a.count == b.count && a.srcFmt == b.srcFmt && a.outFmt == b.outFmt &&
    a.ofr == b.ofr && a.eW == b.eW && a.comp == b.comp && a.compK == b.compK && a.compVfmt == b.compVfmt && a.root == b.root && a.system == b.system

/-! ### Arithmetic (R249, R252 to R255) -/

/-- One partial added to another (R143, R145). -/
def ofrJoin (q c : Int) : Int × BitVec 16 :=
  if q = ofrNan then (q, 0)
  else if c = ofrNan then (c, 0)
  else if q = ofrPos || q = ofrNeg then (q, 0)
  else if c = ofrPos || c = ofrNeg then (c, evWindowOvf)
  else if ofrMax < (q + c).natAbs then (ofrSat (decide (q + c < 0)), evWindowOvf)
  else (q + c, 0)

/-- A partial's code added to an element's. -/
def partJoin (h : RedHeader) (a b : Nat) : Nat × BitVec 16 :=
  if h.ofr then
    let r := ofrJoin (sext 64 a) (sext 64 b)
    ((r.1 % 2 ^ 64).toNat, r.2)
  else redAddCode h a (decodeIeee 8 23 b)

/-- Coordinates of an element in a completion record (R262). -/
def colAt (e : Nat) : Nat × Nat × Nat := (0, e / 256, e % 256)

/-- Add the events of a run of elements from `e`. -/
def colTally (t : Tally) (e : Nat) (evs : List (BitVec 16)) : Tally :=
  ((List.range evs.length).zip evs).foldl (fun t x => tallyAdd t x.2 (invOf x.2) (colAt (e + x.1))) t

/-- Element codes and events after partials from element `lo` have been added; `base` is the first element held. -/
def addParts (x : ColSlot) (base lo : Nat) (ps : List Nat) : ColSlot :=
  let old := (x.vals.drop (lo - base)).take ps.length
  let r := (old.zip ps).map fun e => partJoin (slotHdr x) e.1.toNat e.2
  { x with
    vals := x.vals.take (lo - base) ++ r.map (fun e => BitVec.ofNat 256 e.1) ++ x.vals.drop (lo - base + ps.length)
    tally := colTally x.tally lo (r.map (·.2)) }

/-- Contributions added to elements of the own segment. -/
def addNums (x : ColSlot) (es : List (Nat × Num)) : ColSlot :=
  es.foldl (fun x e =>
    let i := e.1 - ownLo x
    let r := redAddCode (slotHdr x) (x.vals.getD i 0).toNat e.2
    { x with vals := x.vals.set i (BitVec.ofNat 256 r.1), tally := tallyAdd x.tally r.2 (invOf r.2) (colAt e.1) }) x

/-- A norm cell's value added to another's (R258). -/
def addNorm (x : ColSlot) (bs : List Byte) : ColSlot :=
  let v := (x.vals.getD 0 0).toNat + byteField bs 0 32
  let fl := x.flags ||| byteField bs 32 1
  { x with
    vals := [BitVec.ofNat 256 (if 2 ^ 256 ≤ v then 2 ^ 256 - 1 else v)]
    flags := if 2 ^ 256 ≤ v then fl ||| 2 else fl }

/-- The bytes of partials of elements [lo, hi). -/
def partBytes (x : ColSlot) (lo hi : Nat) : List Byte :=
  if x.norm then natLe 32 (x.vals.getD 0 0).toNat ++ natLe 32 x.flags
  else ((x.vals.drop lo).take (hi - lo)).flatMap fun v => natLe (partW x) v.toNat

/-- The element codes of partials. -/
def partCodes (x : ColSlot) (bs : List Byte) (n : Nat) : List Nat := (List.range n).map fun i => byteField bs (partW x * i) (partW x)

/-- The rank of TOPK's order: NaN, then infinity, then magnitude; true where h goes before k (R252). -/
def topkBefore (h k : Num) : Bool :=
  match h, k with
  | .nan, .nan => false
  | .nan, _ => true
  | _, .nan => false
  | x, y => numLt (numAbs y) (numAbs x)

/-- Insert an element into a list in TOPK's order, after its equals. -/
def topkInsert (i : Nat) (h : Num) : List (Nat × Num) → List (Nat × Num)
  | [] => [(i, h)]
  | e :: r => if topkBefore h e.2 then (i, h) :: e :: r else e :: topkInsert i h r

/-- The k elements of a block that TOPK sends, ascending. -/
def topkPick (k : Nat) (hs : List Num) : List (Nat × Num) :=
  let sorted := ((List.range hs.length).zip hs).foldl (fun l e => topkInsert e.1 e.2 l) []
  let chosen := (sorted.take k).map (·.1)
  ((List.range hs.length).zip hs).filter fun e => chosen.contains e.1

/-- A compressed block: its bytes, the decompressed value of each element, the events by element, and which were chosen. -/
structure ColBlock where
  bytes : List Byte
  vals : List Num
  evs : List (Nat × BitVec 16)
  chosen : List Nat

/-- A TOPK block (R252). -/
def topkBlock (k : Nat) (bf16 : Bool) (hs : List Num) : ColBlock :=
  let f := if bf16 then Fmt.bf16 else Fmt.e5m2
  let es := (topkPick k hs).map fun e => (e.1, convert f false [] e.2)
  let idx := es.foldr (fun e acc => e.1 + 1024 * acc) 0
  { bytes := natLe ((10 * es.length + 7) / 8) idx ++ es.flatMap fun e => natLe (if bf16 then 2 else 1) e.2.code
    vals := (List.range hs.length).map fun i => match assocGet es i with
      | some c => decodeElem f [] c.code
      | none => .fin false 0 0
    evs := es.map fun e => (e.1, e.2.ev), chosen := es.map (·.1) }

/-- The BF16 scale of a SIGN block: the exact mean of the finite magnitudes, rounded once (R253). -/
def signScale (hs : List Num) : Conv :=
  let fs := (hs.filter numIsFin).map numAbs
  if fs.isEmpty then ⟨0, 0⟩
  else convert .bf16 false [] (numDiv (fs.foldl (fun a h => (numAdd a h).1) (.fin false 0 0)) (numOfInt fs.length)).1

/-- The sign bit of an element: 1 for a negative value, 0 for NaN (R253). -/
def signBit (h : Num) : Bool := !(numIsNan h) && numSign h

/-- A SIGN block (R253). The event of its scale's conversion has the block's first element (log entry 116). -/
def signBlock (hs : List Num) : ColBlock :=
  let sc := (signScale hs).code
  { bytes := natLe 32 (maskOf ((List.range hs.length).filter fun i => signBit (hs.getD i .nan))) ++ natLe 2 sc
    vals := hs.map fun h => if signBit h then numNeg (ofBf16 sc) else ofBf16 sc
    evs := [(0, (signScale hs).ev)], chosen := [] }

/-- A block by the compression in force. -/
def compressBlock (x : ColSlot) (hs : List Num) : ColBlock :=
  if slotTopk x then topkBlock x.mine.compK (x.mine.compVfmt == 1) hs else signBlock hs

/-- A residual after a block (R254): +0 where h or d is not finite. -/
def residAfter (h d : Num) : Num := if numIsFin h && numIsFin d then f32 (numSub h d).1 else .fin false 0 0

/-- Whether a residual is reset. -/
def residReset (h d : Num) : Bool := !(numIsFin h && numIsFin d)

/-- The blocks of segment s: first element and length of each. -/
def segBlocks (x : ColSlot) (s : Nat) : List (Nat × Nat) :=
  let c := x.mine.comp
  let n := x.mine.count
  let lo := segBlock c n (slotP x) s
  (List.range (segBlock c n (slotP x) (s + 1) - lo)).map fun i =>
    ((lo + i) * colUnit c, min (colUnit c) (n - (lo + i) * colUnit c))

/-- Bytes of a compressed block of n elements. -/
def blockBytes (x : ColSlot) (n : Nat) : Nat :=
  if slotTopk x then (10 * min x.mine.compK n + 7) / 8 + min x.mine.compK n * (if x.mine.compVfmt = 1 then 2 else 1) else 34

/-- Bytes of the compressed blocks of segment s. -/
def segBlocksBytes (x : ColSlot) (s : Nat) : Nat := (segBlocks x s).foldl (fun a b => a + blockBytes x b.2) 0

/-- The decompressed entries of one block: element and value (R255). -/
def blockNums (x : ColSlot) (at_ n : Nat) (bs : List Byte) : List (Nat × Num) :=
  if slotTopk x then
    let k := min x.mine.compK n
    let w := if x.mine.compVfmt = 1 then 2 else 1
    let ib := (10 * k + 7) / 8
    (List.range k).map fun i =>
      (at_ + fld (byteField bs 0 ib) (10 * i) 10,
        decodeElem (if x.mine.compVfmt = 1 then .bf16 else .e5m2) [] (byteField bs (ib + w * i) w))
  else
    let sc := ofBf16 (byteField bs 32 2)
    (List.range n).map fun i => (at_ + i, if (byteField bs 0 32).testBit i then numNeg sc else sc)

/-- The entries of a run of blocks. -/
def blocksNums (x : ColSlot) : List (Nat × Nat) → List Byte → List (Nat × Num)
  | [], _ => []
  | (a, n) :: r, bs => blockNums x a n (bs.take (blockBytes x n)) ++ blocksNums x r (bs.drop (blockBytes x n))

/-- Add the blocks of a member to the own segment, with the elements it chose. -/
def addBlocks (x : ColSlot) (bs : List Byte) : ColSlot :=
  let es := blocksNums x (segBlocks x x.rank) bs
  let y := addNums x es
  if slotTopk x then { y with chosen := (y.chosen ++ es.map (·.1)).eraseDups } else y

/-- A whole reduced segment as one run of bytes: a bit per granule that holds a chosen element, then its elements in out_fmt; for a
NORM_REDUCE, value and flags. The second component gives the read-out's events. -/
def segBlob (x : ColSlot) (s : Nat) : List Byte × List (BitVec 16) :=
  if x.norm then (partBytes x 0 1, [])
  else
    let lo := segLo x.mine.comp x.mine.count (slotP x) s
    let n := segLen x.mine.comp x.mine.count (slotP x) s
    let cs := (List.range n).map fun i =>
      if x.chosen.contains (lo + i) then redReadCode (slotHdr x) (x.mine.outFmt == 1) (x.vals.getD i 0).toNat else ⟨0, 0⟩
    let bits := maskOf ((List.range (granuleCount n)).filter fun g => x.chosen.any fun e => decide (lo + 64 * g ≤ e) && decide (e < lo + 64 * g + 64))
    (natLe ((granuleCount n + 7) / 8) bits ++ cs.flatMap fun c => natLe (slotOutW x) c.code, cs.map (·.ev))

/-- Bytes of a whole reduced segment. -/
def segBlobBytes (x : ColSlot) (s : Nat) : Nat :=
  if x.norm then 64
  else
    let n := segLen x.mine.comp x.mine.count (slotP x) s
    (granuleCount n + 7) / 8 + n * slotOutW x

/-! ### Running a member's operations -/

/-- One operation failed, or it is done. -/
def colNext (s : State) (x : ColSlot) (r : Option Result) (f : ColSlot → ColSlot) : State :=
  match r with
  | some e => colFail s x e true
  | none => colMod s x.cid fun y => f { y with prog := y.prog.drop 1 }

/-- The member that an operation sends to. -/
def opPeer : ColOp → Option Nat
  | .send t _ _ _ | .sendFinal t _ _ | .sendOut t _ _ | .sendBlocks t _ _ | .sendSeg t _ _ => some t
  | _ => none

/-- Whether the join of every member that data still goes to is held (R248). -/
def joinsHeld (x : ColSlot) : Bool := (x.prog.filterMap opPeer).all fun r => (assocGet x.joins r).isSome

/-- Whether landing data may go to a peer: the joins are held, and a credit for every buffer after the third (R248). -/
def maySend (x : ColSlot) (peer idx : Nat) : Bool :=
  joinsHeld x && (decide (idx < 3) || (assocGet x.credits peer).any (0 < ·))

/-- Send landing data to a peer. -/
def landSend (s : State) (x : ColSlot) (peer idx : Nat) (bs : List Byte) : Option State :=
  match assocGet x.joins peer with
  | some j =>
    if maySend x peer idx then
      let s1 := colWrite s x peer j.landRange (j.landOff + idx % 3 * x.stride) bs
      some (colNext s1 x none fun y =>
        if idx < 3 then y
        else { y with credits := assocPut y.credits peer ((assocGet y.credits peer).getD 0 - 1) })
    else none
  | none => none

/-- The member that a freed landing buffer's credit goes to: the one that fills it next, or, once none does, the one that filled it. -/
def creditPeer (x : ColSlot) : Option Nat :=
  match x.recvs[x.taken + 3]? with
  | some q => some q
  | none => x.recvs[x.taken]?

/-- Take landing data of n bytes once all of it has arrived: the bytes, with the buffer freed and its credit sent (R248). -/
def landTake (s : State) (x : ColSlot) (c : Cmd) (n : Nat) (f : List Byte → ColSlot → ColSlot) : Option State :=
  let lo := x.taken % 3 * x.stride
  if runSize (x.landed.filterMap fun r => if max r.1 lo < min r.2 (lo + n) then some (max r.1 lo, min r.2 (lo + n)) else none) = n then
    let r := readSpace s c (x.landing + lo) n
    if r.status ≠ .ok then some (colFail r.st x (resultRange r.status r.range) true)
    else
      let s1 := match creditPeer x with
        | some q => colMsg x (colNote 2 x.mine) (.collective x.cid) r.st q
        | none => r.st
      some (colNext s1 x none fun y => f r.bytes { y with landed := runDel y.landed lo (lo + n), taken := y.taken + 1 })
  else none

/-- Send final bytes to a peer's destination from element lo. -/
def finalSend (s : State) (x : ColSlot) (peer lo : Nat) (bs : List Byte) : Option State :=
  match if joinsHeld x then assocGet x.joins peer else none with
  | some j => some (colNext (colWrite s x peer j.dstRange (j.dstOff + (lo - dstBase x peer) * slotOutW x) bs) x none id)
  | none => none

/-- The read-out of elements [lo, hi). -/
def readOuts (x : ColSlot) (lo hi : Nat) : List Conv :=
  let base := if x.mine.comp = 0 then 0 else ownLo x
  ((x.vals.drop (lo - base)).take (hi - lo)).map fun v => redReadCode (slotHdr x) (x.mine.outFmt == 1) v.toNat

/-- One operation; none where it has to wait. -/
def colStep (s : State) (x : ColSlot) (c : Cmd) (op : ColOp) : Option State :=
  let w := slotOutW x
  match op with
  | .send t lo hi idx => landSend s x t idx (partBytes x lo hi)
  | .add _ lo hi =>
    landTake s x c ((hi - lo) * partW x) fun bs y => if y.norm then addNorm y bs else addParts y 0 lo (partCodes y bs (hi - lo))
  | .sendBlocks t g idx => landSend s x t idx ((assocGet x.blocks g).getD [])
  | .addBlocks _ g => landTake s x c (segBlocksBytes x g) fun bs y => addBlocks y bs
  | .sendSeg t g idx => landSend s x t idx ((assocGet x.segs g).getD [])
  | .takeSeg _ g => landTake s x c (segBlobBytes x g) fun bs y => { y with segs := y.segs ++ [(g, bs)] }
  | .readSeg g =>
    let b := segBlob x g
    some (colNext s x none fun y => { y with
      segs := y.segs ++ [(g, b.1)], tally := colTally y.tally (segLo x.mine.comp x.mine.count (slotP x) g) b.2 })
  | .readOut lo hi =>
    let cs := readOuts x lo hi
    let p := colPut s c (x.dst + (lo - dstBase x x.rank) * w) (cs.flatMap fun k => natLe w k.code)
    some (colNext p.1 x p.2 fun y => { y with tally := colTally y.tally lo (cs.map (·.ev)) })
  | .sendOut t lo hi =>
    if joinsHeld x then
      let cs := readOuts x lo hi
      finalSend (colMod s x.cid fun y => { y with tally := colTally y.tally lo (cs.map (·.ev)) }) x t lo (cs.flatMap fun k => natLe w k.code)
    else none
  | .sendFinal t lo hi =>
    if joinsHeld x then
      let r := readSpace s c (x.dst + (lo - dstBase x x.rank) * w) ((hi - lo) * w)
      if r.status ≠ .ok then some (colFail r.st x (resultRange r.status r.range) true) else finalSend r.st x t lo r.bytes
    else none
  | .take _ lo hi =>
    let a := (lo - dstBase x x.rank) * w
    let b := a + (hi - lo) * w
    if runSize (x.finals.filterMap fun r => if max r.1 a < min r.2 b then some (max r.1 a, min r.2 b) else none) = b - a then
      some (colNext s x none fun y => { y with finals := runDel y.finals a b })
    else none

/-- The listed granules and their values over the destination's segments (R256). -/
def sparseOut (x : ColSlot) : List Nat × List Byte :=
  let segs := if x.mine.op = 1 then [x.rank] else List.range (slotP x)
  segs.foldl (fun acc g =>
    let n := segLen x.mine.comp x.mine.count (slotP x) g
    let base := (segLo x.mine.comp x.mine.count (slotP x) g - dstBase x x.rank) / 64
    match assocGet x.segs g with
    | none => acc
    | some bs =>
      let nb := (granuleCount n + 7) / 8
      let bits := byteField bs 0 nb
      let w := slotOutW x
      ((List.range (granuleCount n)).filter fun i => bits.testBit i).foldl (fun acc i =>
        let v := (bs.drop (nb + 64 * i * w)).take (64 * w)
        (acc.1 ++ [base + i], acc.2 ++ v ++ List.replicate (64 * w - v.length) 0)) acc) ([], [])

/-- The number put in place of list_count in an UPDATE descriptor's 64 bytes: body bits [242:218]. -/
def patchList (bs : List Byte) (n : Nat) : List Byte :=
  let v := leNat bs
  natLe 64 (v - fld v 442 25 * 2 ^ 442 + n % 2 ^ 25 * 2 ^ 442)

/-- Write several spans, up to the first failure. -/
def colPuts (c : Cmd) : List (Nat × List Byte) → State → State × Option Result
  | [], s => (s, none)
  | (v, bs) :: r, s =>
    if bs.isEmpty then colPuts c r s
    else
      let p := colPut s c v bs
      match p.2 with
      | some e => (p.1, some e)
      | none => colPuts c r p.1

/-- What a collective writes at its end: a sparse result, the norm cell; then the compression block and the UPDATE it names. -/
def colWrites (s : State) (x : ColSlot) (c : Cmd) : State × Option Result :=
  if x.norm then
    match x.segs.head? with
    | none => (s, none)
    | some g =>
      let r := readSpace s c x.dst 64
      if r.status ≠ .ok then (r.st, some (resultRange r.status r.range))
      else
        let fl := byteField g.2 32 1
        colPut r.st c x.dst
          (normCellBytes { normCell r.bytes with global := true, nonfinite := fl.testBit 0, saturated := fl.testBit 1, value := byteField g.2 0 32 })
  else
    let sp := if slotTopk x then sparseOut x else ([], [])
    let p := colPuts c [(x.dst, sp.1.flatMap (natLe 4 ·)), (x.dst + listBytes (granuleCount (dstLen x)), sp.2)] s
    match p.2 with
    | some e => (p.1, some e)
    | none =>
      if x.mine.comp = 0 then (p.1, none)
      else
        let w := colPut p.1 c (x.comp + 24) (natLe 4 (if slotTopk x then sp.1.length else 0) ++ natLe 4 x.nonfinite ++ natLe 4 x.sent)
        match w.2 with
        | some e => (w.1, some e)
        | none =>
          if x.upd = 0 || !(slotTopk x) then (w.1, none)
          else
            let u := readSpace w.1 c x.upd 64
            if u.status ≠ .ok then (u.st, some (resultRange u.status u.range))
            else colPut u.st c x.upd (patchList u.bytes sp.1.length)

/-- Whether transactions of a command are still out. -/
def txnsOut (s : State) (cid : Nat) : Bool :=
  (s.fabric.trackers.any fun t => t.owner == .collective cid) || (s.fabric.waiting.any fun w => w.owner == .collective cid) ||
    (s.fabric.ended.any fun e => e.1 == .collective cid)

/-- A collective that has run all its operations ends (R245, R262): the group's next_seq first, then what it writes, so that a NORM_REDUCE that
fails leaves its cell at state 0 (R261). -/
def colFinish (s : State) (x : ColSlot) (c : Cmd) : State :=
  let g := groupPut s c x.group x.mine.seq
  match g.2 with
  | some e => colFail g.1 x e true
  | none =>
    let p := colWrites g.1 x c
    match p.2 with
    | some e => colFail p.1 x e true
    | none =>
      let s1 := { p.1 with col := { p.1.col with slots := p.1.col.slots.filter fun y => y.cid != x.cid, done := p.1.col.done + 1 } }
      cmdEnd s1 x.cid (if x.norm then resultOf .ok else tallyResult x.tally true 0)

/-- Run a member's operations until one has to wait. -/
def colRun (cid : Nat) : Nat → State → State
  | 0, s => s
  | fuel + 1, s =>
    match slotOf s cid with
    | none => s
    | some x =>
      match slotCmd s x with
      | none => s
      | some c =>
        match x.prog with
        | [] => if (otherRanks x).all (fun r => (assocGet x.joins r).isSome) && !(txnsOut s cid) then colFinish s x c else s
        | op :: _ =>
          match colStep s x c op with
          | some t => colRun cid fuel t
          | none => s

/-- Run a collective's operations as far as they go. -/
def colGo (s : State) (cid : Nat) : State :=
  match slotOf s cid with
  | some x => colRun cid (x.prog.length + 1) s
  | none => s

/-! ### Starting -/

/-- The values of a source tensor. -/
def srcNums (x : ColSlot) (bs : List Byte) : List Num :=
  let w := colSrcW x.mine.srcFmt
  (List.range (bs.length / w)).map fun i => redSrcNum x.mine.srcFmt (byteField bs (w * i) w)

/-- Own contributions of an uncompressed reduction (R249). -/
def loadPlain (x : ColSlot) (ns : List Num) : ColSlot :=
  let r := ns.map fun n => redAddCode (slotHdr x) 0 n
  { x with vals := r.map fun e => BitVec.ofNat 256 e.1, tally := colTally x.tally 0 (r.map (·.2)) }

/-- h := rne(g + e) with the event of its sum: INVALID or OVERFLOW (R254, R262). -/
def residSum (g e : Num) : Num × BitVec 16 :=
  let p := numAdd g e
  let t := rneF32 p.1
  (t.1, (if p.2 then evInvalid else 0) ||| if t.2 then evOverflow else 0)

/-- Compress every block of one segment: its bytes, residuals and events (R252 to R254). -/
def loadSeg (hs : List (Num × BitVec 16)) (x : ColSlot) (s : Nat) : ColSlot × List (Nat × List Num) :=
  (segBlocks x s).foldl (fun acc b =>
    let y := acc.1
    let p := (hs.drop b.1).take b.2
    let h := p.map (·.1)
    let k := compressBlock y h
    let evs := ((List.range p.length).zip p).map fun e => e.2.2 ||| (assocGet k.evs e.1).getD 0
    ({ y with
        blocks := assocPut y.blocks s ((assocGet y.blocks s).getD [] ++ k.bytes)
        nonfinite := y.nonfinite + ((h.zip k.vals).filter fun e => residReset e.1 e.2).length
        tally := colTally y.tally b.1 evs },
      acc.2 ++ [(b.1, (h.zip k.vals).map fun e => residAfter e.1 e.2)])) (x, [])

/-- The whole tensor compressed: the slot with its blocks, own segment added, and the residuals. -/
def loadComp (x : ColSlot) (gs es : List Num) : ColSlot × List (Nat × List Num) :=
  let hs := (gs.zip es).map fun e => residSum e.1 e.2
  let r := (List.range (slotP x)).foldl (fun acc s =>
    let t := loadSeg hs acc.1 s
    (t.1, acc.2 ++ t.2)) ({ x with vals := List.replicate (ownLen x) 0 }, [])
  let sent := ((otherRanks x).map fun q => segBlocksBytes x q).foldl (· + ·) 0
  (addBlocks { r.1 with sent := sent } ((assocGet r.1.blocks x.rank).getD []), r.2)

/-- Write residuals. -/
def putResid (x : ColSlot) (c : Cmd) (rs : List (Nat × List Num)) (s : State) : State × Option Result :=
  colPuts c (rs.map fun e => (x.resid + 4 * e.1, e.2.flatMap fun v => natLe 4 (encodeIeee 8 23 v))) s

/-- Load the source: values, compressed blocks and residuals, or a local copy of bytes that are already final. -/
def colLoad (s : State) (x : ColSlot) (c : Cmd) : State :=
  let r := if srcBytes x = 0 then MemRead.mk s .ok [] 255 else readTake s c x.src (srcBytes x)
  if r.status ≠ .ok then colFail r.st x (resultRange r.status r.range) true
  else if x.norm then
    let n := normCell r.bytes
    colMod r.st x.cid fun y => { y with vals := [BitVec.ofNat 256 n.value], flags := b2n n.nonfinite + 2 * b2n n.saturated }
  else if 2 ≤ x.mine.op then
    let v := x.dst + (if x.mine.op = 2 then ownLo x else 0) * slotOutW x
    let p := if r.bytes.isEmpty then (r.st, none) else colPut r.st c v r.bytes
    match p.2 with
    | some e => colFail p.1 x e true
    | none => p.1
  else if x.mine.comp = 0 then colMod r.st x.cid fun y => loadPlain y (srcNums x r.bytes)
  else
    let e := readSpace r.st c x.resid (4 * x.mine.count)
    if e.status ≠ .ok then colFail e.st x (resultRange e.status e.range) true
    else
      let l := loadComp x (srcNums x r.bytes) ((List.range x.mine.count).map fun i => decodeIeee 8 23 (byteField e.bytes (4 * i) 4))
      let t := { e.st with col := { e.st.col with nonfinite := satAdd 32 e.st.col.nonfinite l.1.nonfinite } }
      let p := putResid x c l.2 t
      match p.2 with
      | some f => colFail p.1 x f true
      | none => colMod p.1 x.cid fun _ => l.1

/-- Joins that came before the collective began (R248). -/
def earlyJoins (s : State) (x : ColSlot) : List (Nat × Join) :=
  s.col.early.filterMap fun e =>
    if e.2.digest == x.mine.digest && e.2.seq == x.mine.seq && x.ranks.contains e.1 then some (x.ranks.idxOf e.1, e.2) else none

/-- Start a checked collective: it takes a slot, sends its join, loads its source and runs (R248). -/
def colStart (s : State) (x0 : ColSlot) (c : Cmd) : State :=
  let x := { x0 with joins := earlyJoins s x0 }
  let s1 := { s with
    sp := cmdMod s.sp c.id fun k => { k with phase := .waiting }
    col := { s.col with
      slots := s.col.slots ++ [x], highWater := max s.col.highWater (s.col.slots.length + 1)
      early := s.col.early.filter fun e => !(e.2.digest == x.mine.digest && e.2.seq == x.mine.seq && x.ranks.contains e.1) } }
  let s2 := (otherRanks x).foldl (colMsg x (joinBytes x.mine) (.collective x.cid)) s1
  if x.joins.all fun e => joinsAgree x.mine e.2 then colGo (colLoad s2 x c) x.cid
  else colFail s2 x (resultOf .badDescriptor) false

/-- A collective of the group that has not ended on this member: collectives of one group run one at a time (R245). -/
def groupBusy (s : State) (c : Cmd) : Bool := s.col.slots.any fun x => x.space == c.space && x.group == (bodyOfCol c).group

/-- A command that fails before it takes a slot: where it is a collective at its turn, the group's next_seq moves on (R245). -/
def colSkip (s : State) (c : Cmd) : State :=
  if isCollective c && c.body.isSome && !(groupBusy s c) then
    let r := groupRead s c (bodyOfCol c).group
    if r.status = .ok && decide (seqAbove (bodyOfCol c).seq r.group = 0) then groupNext r.st c (bodyOfCol c).group (bodyOfCol c).seq else s
  else s

/-- COLLECTIVE or NORM_REDUCE considered: refused, started, or waiting for its turn or for a slot (R243, R245, R260). While another of
the group runs, that one holds the group's next seq. -/
def colBegin (s : State) (c : Cmd) : State :=
  let k := colCheck s c
  let busy := groupBusy s c
  match k.result with
  | .error r => cmdFail (if k.turn && !busy then groupNext k.st c (bodyOfCol c).group (bodyOfCol c).seq else k.st) c r
  | .ok x =>
    if busy || k.ahead || decide (64 ≤ k.st.col.slots.length) then
      { k.st with sp := cmdMod k.st.sp c.id fun k => { k with phase := .waiting } }
    else colStart k.st x c

/-- A collective that waits for its turn. -/
def colWaiting (s : State) (cid : Nat) : Option Cmd :=
  match cmdGet s cid with
  | some c => if c.phase = .waiting && (c.opcode = 0x50 || c.opcode = 0x51) && (slotOf s cid).isNone then some c else none
  | none => none

/-! ### Events from other members -/

/-- The slot a message names. -/
def slotFor (s : State) (src : Nat) (digest : W256) (seq : Nat) : Option ColSlot :=
  s.col.slots.find? fun x => x.mine.digest == digest && x.mine.seq == seq && x.ranks.contains src && src != s.rig.active.moduleId

/-- A join arrives (R248, R261). -/
def joinReceive (s : State) (src : Nat) (j : Join) : State :=
  match slotFor s src j.digest j.seq with
  | none => { s with col := { s.col with early := s.col.early ++ [(src, j)] } }
  | some x =>
    if joinsAgree x.mine j then colGo (colMod s x.cid fun y => { y with joins := assocPut y.joins (y.ranks.idxOf src) j }) x.cid
    else colFail s x (resultOf .badDescriptor) false

/-- A credit arrives. -/
def creditReceive (s : State) (src : Nat) (digest : W256) (seq : Nat) : State :=
  match slotFor s src digest seq with
  | none => s
  | some x =>
    colGo (colMod s x.cid fun y =>
      { y with credits := assocPut y.credits (y.ranks.idxOf src) ((assocGet y.credits (y.ranks.idxOf src)).getD 0 + 1) }) x.cid

/-- An abort arrives: PEER_LOST (Table 09-8). -/
def abortReceive (s : State) (src : Nat) (digest : W256) (seq : Nat) : State :=
  let s1 := { s with col := { s.col with abortsRx := satAdd 32 s.col.abortsRx 1 } }
  match slotFor s1 src digest seq with
  | none => s1
  | some x => colFail s1 x (resultOf .peerLost) false

/-- Whether a join is one of another collective that this module has yet to start: of a sibling group's stream, or of a later one (R245). -/
def siblingJoin (s : State) (j : Join) : Bool :=
  s.sp.cmds.any fun c => isCollective c && cmdLive c && c.body.isSome && (slotOf s c.id).isNone && (bodyOfCol c).seq == j.seq &&
    (groupRead s c (bodyOfCol c).group).group.digest == j.digest

/-- Joins kept from members of a slot's group that have not joined it, of no other collective of this module: they differ from the slot's own
in digest or seq (Table 09-8, log entry 116). -/
def unlikeJoins (s : State) (x : ColSlot) : List (Nat × Join) :=
  s.col.early.filter fun e =>
    x.ranks.contains e.1 && (assocGet x.joins (x.ranks.idxOf e.1)).isNone && !(siblingJoin s e.2)

/-- A collective waits for a peer past COL_TIMEOUT: PEER_LOST, or BAD_DESCRIPTOR where the member it waits for has sent a join that
differs in digest or seq (R261). -/
def colTimeout (s : State) (cid : Nat) : State :=
  match slotOf s cid with
  | none => s
  | some x =>
    if (unlikeJoins s x).isEmpty then colFail s x (resultOf .peerLost) true
    else
      colFail { s with col := { s.col with early := s.col.early.filter fun e => !((unlikeJoins s x).contains e) } } x (resultOf .badDescriptor) false

/-- The slot whose landing area or destination a write of a member reaches, with the run it covers there: true for landing. -/
def colRegion (s : State) (src range off n : Nat) : Option (ColSlot × Bool × Nat) :=
  s.col.slots.findSome? fun x =>
    if !(x.ranks.contains src) then none
    else if x.mine.landRange = range && decide (x.mine.landOff ≤ off) && decide (off + n ≤ x.mine.landOff + landBytes x) then
      some (x, true, off - x.mine.landOff)
    else if !x.norm && x.mine.dstRange = range && decide (x.mine.dstOff ≤ off) && decide (off + n ≤ x.mine.dstOff + dstBytes x) then
      some (x, false, off - x.mine.dstOff)
    else none

/-- Data of a collective has been written to this member's memory: the packet's owner set reaches its context, and the operations
that wait for the data run (R251). -/
def colData (s : State) (src range off n : Nat) (owners : BitVec 8) : State :=
  match colRegion s src range off n with
  | none => s
  | some (x, land, a) =>
    let s1 := match slotCmd s x with
      | some c => addMask s c.ctx owners
      | none => s
    let s2 := { s1 with col := { s1.col with rx := s1.col.rx + n } }
    colGo (colMod s2 x.cid fun y =>
      if land then { y with landed := runAdd y.landed a (a + n) } else { y with finals := runAdd y.finals a (a + n) }) x.cid

/-- A transaction of a collective has ended. -/
def colTxnEnd (s : State) (cid : Nat) (st : Status) : State :=
  match slotOf s cid with
  | none => s
  | some x => if st = .ok then colGo s cid else colFail s x (resultOf st) true

/-- Slots whose command has ended, because its context or space was destroyed: aborts go to the other members (Table 09-8). -/
def colSweep (s : State) : State :=
  s.col.slots.foldl (fun t x =>
    match slotCmd t x with
    | some c => if cmdLive c then t else colFail t x (resultOf .aborted) true
    | none => colFail t x (resultOf .aborted) true) s

/-- The commands that a test picks among those that run fail with WATCHDOG: a MATMUL's outputs become unspecified, a collective's slot is
given up and the other members are told (R245, R263). -/
def watchdogCmds (s : State) (f : Cmd → Bool) : State :=
  let hit := s.sp.cmds.filter fun c => f c && cmdRunning c
  hit.foldl (fun t c =>
    match slotOf t c.id with
    | some x => colFail t x (resultOf .watchdog) true
    | none => if isCollective c then cmdFail (colSkip t c) c (resultOf .watchdog) else cmdEnd (mmSpoil t c) c.id (resultOf .watchdog)) s

end Sys2Proof.Machine
end

