-- ==== Sys2Proof/Machine/Twin.lean ====
section
/-! DEFINITION. Dailies as shared operations (file 10): pairing, mirroring, held lines, cuts, loss and promotion, rewinds,
resilvering. -/

namespace Sys2Proof.Machine

/-! ### Pairs (R264 to R266) -/

/-- The role an active rig gives (R264). -/
def rigRole (r : Rig) : Role :=
  if !r.twinNamed then .none else if r.ranges.any fun c => c.mode != 0 && c.mirrored then .primary else .twin

/-- A module whose pair stands: resilvering, copied or protected. -/
def paired (s : State) : Bool := s.dly.state == .resilvering || s.dly.state == .copied || s.dly.state == .guarded

/-- Change Dailies. -/
def dlyMod (s : State) (f : Dailies → Dailies) : State := { s with dly := f s.dly }

/-- The mirrored ranges of a primary, or the mirror ranges of a twin (R264, log entry 52), by ID. -/
def pairRanges (s : State) : List Nat :=
  (List.range 32).filter fun n => (rangeCfg s n).mode != 0 && (if s.dly.role == .twin then s.dly.mirrorIds.getLsbD n else isMirrored s n)

/-- The same in address order: bases need not rise with IDs (R54, R280). -/
def byAddress (s : State) (l : List Nat) : List Nat := sortBy (fun a b => decide ((rangeCfg s a).base ≤ (rangeCfg s b).base)) l

/-- A RANGES entry with the mirrored flag taken as 0 (Table 02-7). -/
def entryBytes (c : RangeCfg) : List Byte :=
  natLe 6 c.base ++ [0, 0] ++ natLe 8 c.size ++ natLe 1 c.mode ++ [c.ownerSet.setWidth 8] ++ [0] ++ natLe 1 c.keySource ++ List.replicate 12 0

/-- The digest of this module's mirrored or mirror entries (Table 10-1, step 2): a twin's are the entries with the IDs of its partner's
mirrored ranges. -/
def entriesDigest (s : State) : W256 :=
  shakeW ((if s.dly.role == .twin then bitList 32 s.dly.mirrorIds.toNat else pairRanges s).flatMap fun n => entryBytes (rangeCfg s n))

/-- The data of a message's packets: one of up to 448 bytes, or pieces that each carry the kind and their number (R222; the layout is log entry
53's). -/
def msgPieces (kind : Nat) (data : List Byte) : List (List Byte) :=
  if data.length ≤ 447 then [natLe 1 kind ++ data]
  else (List.range ((data.length + 444) / 445)).map fun i => natLe 1 kind ++ natLe 2 i ++ (data.drop (445 * i)).take 445

/-- Send a Dailies message over a twin link to the partner, or by route to a module. -/
def dlyMsg (dst : Nat) (twin : Bool) (kind : Nat) (data : List Byte) (owner : TxnOwner) (s : State) : State :=
  (msgPieces kind data).foldl (fun t d =>
    request t { pkt := msgPacket dst 1 d, requester := 9, twinOnly := twin, owner := owner, space := systemSlot s }) s

/-- A message to the partner whose answer changes nothing. -/
def partnerMsg (kind : Nat) (data : List Byte) (s : State) : State := dlyMsg s.dly.partner true kind data .message s

/-- Log a pairing event, a lapse or an abandoned print (Table 18-7). -/
def logPair (s : State) (st : Status) (bit12 : Bool) : State :=
  stLog s { logBlank with kind := 12, unit := 122, status := st, detail := s.dly.partner + if bit12 then 2 ^ 12 else 0 }

/-- Record a pairing event in DLY_STATUS and the error log. -/
def pairEvent (s : State) (st : Status) : State := logPair (dlyMod s fun d => { d with pairEvent := st }) st false

/-- Whether a twin link is up. -/
def twinUp (s : State) : Bool := (bestLink s (isTwinLink s)).isSome

/-- Pairing is refused (Table 10-1, step 3): the reason is recorded, and no pairing starts until a twin link next comes up. -/
def pairRefuse (s : State) (reason : Nat) : State :=
  pairEvent (dlyMod s fun d => { d with state := .unpaired, reason := reason, offer := none, offerOut := false, barred := true }) .rigMismatch

/-- The module that pairing is tried with: the rig's twin; by a promoted module, the peer of a twin link that is up. -/
def pairPeer (s : State) : Nat :=
  if s.dly.promoted then
    ((List.range 48).findSome? fun n => if isTwinLink s n && (linkOf s n).state == 2 then some (linkOf s n).peerId else none).getD s.dly.partner
  else s.rig.active.twinId

/-- PAIRING_START (R266): with a role, unpaired and not barred, and a twin link up. A nonce is drawn and goes to the partner, and a quote over
the partner's nonce is asked for; the offer goes with it (log entry 117). A module with no identity refuses (R335). -/
def pairingStart (nonce : W256) (ids : BitVec 32) (s : State) : State :=
  if s.dly.role = .none || s.dly.state ≠ .unpaired || s.dly.barred || !(twinUp s) || drawsWait s || quoteCheck s == some .busy then s
  else if !s.keys.vaultOk then pairRefuse s 4
  else
    let s1 := drawUse (dlyMod s fun d => { d with
      state := .pairing, nonceDraw := s.draws, partner := pairPeer s, offerOut := false
      mirrorIds := if d.role = .twin then ids else d.mirrorIds }) 1
    quoteAsk (partnerMsg 0x0F (natLe 32 (drawAt s 0).toNat ++ natLe 4 (if s1.dly.role == .twin then 0 else maskOf (pairRanges s1))) s1)
      ⟨nonce, [], .pair⟩

/-- The offer's quote is over this module's nonce, in life-cycle state FIELD (Tables 10-14, 13-2). -/
def quoteFits (s : State) (o : PairOffer) : Bool :=
  o.sigOk && decide (o.quote.length = 17664) && byteField o.quote 0 4 == 0x544F5551 && byteField o.quote 5 1 == 4 &&
    byteField o.quote 32 32 == (Config.draw s.dly.nonceDraw).toNat

/-- The reason Table 10-14 gives against an offer. -/
def offerReason (s : State) (o : PairOffer) : Option Nat :=
  if o.primary = (s.dly.role == .primary) then some 1
  else if o.compactDigest ≠ shakeW s.rig.active.compactBytes then some 2
  else if o.rangesDigest ≠ entriesDigest s then some 3
  else if !(quoteFits s o) then some 4
  else if !o.namesUs && !(s.dly.promoted && (s.dly.state == .unpaired || s.dly.state == .pairing)) then some 5
  else if (assocGet s.dly.epochs o.moduleId).any (o.epoch < ·) then some 6
  else if s.dly.role = .twin && ((pairRanges s).any fun n => (rangeKey s n).keyless) then some 7
  else none

/-- Lines of the data regions of the mirrored ranges. -/
def mirrorLines (s : State) : Nat := (pairRanges s).foldl (fun a n => a + dataSize (rangeCfg s n) / 64) 0

/-- Start a resilver (R280). -/
def resilverStart (s : State) : State :=
  dlyMod s fun d => { d with
    state := .resilvering, resilverPos := 0, doneMib := 0, totalMib := mirrorLines s * 64 / 2 ^ 20 }

/-- Twin links to any but the new partner are held down (Table 10-5, step 4; R215). -/
def holdOthers (s : State) : State :=
  { s with fabric := { s.fabric with
      links := ((List.range 48).zip s.fabric.links).map fun e =>
        if isTwinLink s e.1 && e.2.state == 2 && e.2.peerId != s.dly.partner then { linkFresh e.2 false with mismatch := true } else e.2 } }

/-- The continuity key in slot 5 (Table 13-6). -/
def continuitySlot (key : W256) : KeySlot := { valid := true, use := .kdf, ownerSet := 0, key := key }

/-- Steps 3 and 4 of Table 10-1 on an offer while pairing. -/
def offerCheck (s : State) (o : PairOffer) : State :=
  match offerReason s o with
  | some r => pairRefuse s r
  | none =>
    let s1 := holdOthers (dlyMod s fun d => { d with
      partner := o.moduleId % 4096, offer := some o, opened := [], sealed := [], ready := [], sealedIntervals := 0, sealedGen := none
      stepHigh := 0, suspected := false, lapseDue := false, rewinding := false, report := {}, map := [], mirrorPos := 0, failed := []
      stale := [] })
    if s1.dly.role = .primary then
      let e := 1 + max s1.dly.epoch o.epoch
      let key := drawAt s1 0
      let s2 := drawUse { s1 with keys := { s1.keys with slots := s1.keys.slots.set 5 (continuitySlot key) } } 1
      let s3 := dlyMod s2 fun d => { d with epoch := e, epochs := assocPut d.epochs d.partner e }
      resilverStart (partnerMsg 0x11 (natLe 32 key.toNat ++ natLe 4 e ++ natLe 6 s3.dly.committed) s3)
    else s1

/-- PAIR_OFFER_RECEIVE: an offer that comes before this module's own has gone out is kept until then; one whose answer draws the
continuity key waits while the entropy source fails. -/
def offerReceive (s : State) (o : PairOffer) : State :=
  if s.dly.role = .none then s
  else if s.dly.state = .unpaired || (s.dly.state = .pairing && !s.dly.offerOut) then dlyMod s fun d => { d with offer := some o }
  else if s.dly.state = .pairing then
    if drawsWait s && s.dly.role == .primary then holdDraw s (.pairOfferReceive o) else offerCheck s o
  else s

/-- The quote of a pair offer is signed: the offer goes out, and one that has come from the partner is checked (Table 10-1, steps 2, 3). -/
def offerSend (quote : List Byte) (s : State) : State :=
  let d := s.dly
  if d.state ≠ .pairing || d.offerOut then s
  else
    let s1 := partnerMsg 0x10 (natLe 2 s.rig.active.moduleId ++ natLe 1 (b2n (d.role == .primary)) ++ natLe 32 s.rig.active.digest.toNat ++
      natLe 32 (shakeW s.rig.active.compactBytes).toNat ++ natLe 32 (entriesDigest s).toNat ++ natLe 6 d.committed ++ natLe 4 d.epoch ++ quote)
      (dlyMod s fun d => { d with offerOut := true, offer := none })
    match d.offer with
    | some o => offerCheck s1 o
    | none => s1

/-- CONTINUITY_KEY_RECEIVE on a twin whose pairing has passed step 3. -/
def continuityKey (s : State) (key : W256) (epoch gen : Nat) : State :=
  if s.dly.role = .twin && s.dly.state = .pairing && s.dly.offer.isSome then
    let s1 := { s with keys := { s.keys with slots := s.keys.slots.set 5 (continuitySlot key) } }
    resilverStart (dlyMod s1 fun d => { d with
      epoch := epoch % 2 ^ 32, epochs := assocPut d.epochs d.partner (epoch % 2 ^ 32), committed := gen % 2 ^ 48, applied := gen % 2 ^ 48 })
  else s

/-! ### Held lines (R268, R272) -/

/-- The key of a held line: range and byte offset. -/
def heldKey (range off : Nat) : Nat := range * 2 ^ 40 + off

/-- Held lines in all. -/
def heldLines (d : Dailies) : Nat := d.opened.length + d.sealed.length + d.ready.length

/-- Lines the hold has room for (R268). -/
def holdCapacity (s : State) : Nat := s.rig.active.holdSize / 128

/-- The range and the offset of a held line. -/
def heldRange (k : Nat) : Nat := k / 2 ^ 40
def heldOffset (k : Nat) : Nat := k % 2 ^ 40

/-- Cut bytes into lines from an offset. -/
def linesOf : Nat → Nat → Nat → List Byte → List (Nat × List Byte)
  | 0, _, _, _ => []
  | n + 1, range, off, bs => (heldKey range off, bs.take 64) :: linesOf n range (off + 64) (bs.drop 64)

/-- Where the hold's place for a line lies: three in each frame of its data region, so that every place of R268 lies there and the 128 bytes
of each take in its share of the region's metadata (log entry 118). -/
def holdAddr (s : State) (place : Nat) : Nat := s.rig.active.holdBase + 256 * (place / 3) + 80 * (place % 3)

/-- Store a held line in its place: its 64 bytes, then its range and offset, through the hold's cipher (R268, R306). -/
def holdStore (s : State) (place key : Nat) (bs : List Byte) : State × Status :=
  writeInUnit false s {} 32 (holdAddr s place) (bs ++ natLe 1 (heldRange key) ++ natLe 6 (heldOffset key) ++ List.replicate 9 0)

/-- Read the held line of a place. -/
def holdLoad (s : State) (place : Nat) : State × Status × List Byte :=
  let r := readInUnit s {} 32 (holdAddr s place) 64
  (r.st, r.status, r.bytes)

/-- The lowest free place of the hold. -/
def holdFree (d : Dailies) : Nat :=
  let used := (d.opened ++ d.sealed ++ d.ready).map (·.2)
  ((List.range (used.length + 1)).find? fun i => !(used.contains (i + 1))).getD 0

/-- Entries of a later interval over those of an earlier one: a line of both keeps the later value, and the older place is free. -/
def holdMerge (old new : List (Nat × Nat)) : List (Nat × Nat) := new.foldl (fun m e => smPut 0 m e.1 e.2) old

/-- A lapse on the twin (R273): the open interval is discarded; `tell` where the primary has yet to hear of it, by the answer to its next
MIRROR. -/
def lapseTwin (tell : Bool) (s : State) : State :=
  logPair (resilverStart (dlyMod s fun d => { d with opened := [], lapseDue := tell, cntLapse := satAdd 32 d.cntLapse 1 })) .busy false

/-- A walk or a fill runs on a range: a REINIT of it is BUSY (R329). -/
def walking (s : State) (n : Nat) : Bool := (rangeKey s n).walk == 1 || (rangeKey s n).walk == 2

/-- The twin's own REINIT of a range (R323, R329): nothing while a walk or a fill runs on it. -/
def ownReinit (s : State) (n : Nat) : State := if walking s n then s else refill s n

/-- The hold cannot be read or written: the pair lapses and the hold is refilled, which ends its lines (R323). -/
def holdFails (tell : Bool) (s : State) : State :=
  ownReinit (lapseTwin tell (dlyMod s fun d => { d with sealed := [], ready := [], sealedIntervals := 0, sealedGen := none })) 32

/-- Join runs of bytes that follow one another in one frame. -/
def joinRuns : List (Nat × List Byte) → List (Nat × List Byte)
  | [] => []
  | e :: r =>
    match joinRuns r with
    | [] => [e]
    | f :: q => if f.1 = e.1 + e.2.length && f.1 / 256 == e.1 / 256 then (e.1, e.2 ++ f.2) :: q else e :: f :: q

/-- Write lines to their ranges, by ascending range and offset, those of a frame together so that whole frames are written whole (R272, step 7;
R299): the state, and the first line and status of each failure. -/
def putLines (s : State) (ls : List (Nat × List Byte)) : State × List (Nat × Status) :=
  (joinRuns (sortBy (fun a b => decide (a.1 ≤ b.1)) ls)).foldl (fun t l =>
    let w := writePhys t.1 {} ((rangeCfg t.1 (heldRange l.1)).base + heldOffset l.1) l.2
    (w.st, if w.status = .ok then t.2 else (l.1, w.status) :: t.2)) (s, [])

/-- Read the lines of an interval from the hold; none where one cannot be read. -/
def loadLines (s : State) (m : List (Nat × Nat)) : State × Option (List (Nat × List Byte)) :=
  m.foldl (fun t e =>
    let r := holdLoad t.1 (e.2 - 1)
    (r.1, if r.2.1 = .ok then t.2.map (· ++ [(e.1, r.2.2)]) else none)) (s, some [])

/-- A twin could not write lines of its mirror ranges: the pair lapses, and a range with an unverifiable or exhausted node is refilled at
once (R319, R323). -/
def mirrorFails (s : State) (fs : List (Nat × Status)) : State :=
  if fs.isEmpty || s.dly.role ≠ .twin then s
  else
    ((fs.filter fun e => e.2 == .memUnverifiable || e.2 == .counterExhausted).map fun e => heldRange e.1).eraseDups.foldl ownReinit
      (lapseTwin true s)

/-- The mirror ranges of a twin, and its hold, beneath a failed node. -/
def brokenRanges (s : State) : List Nat :=
  (32 :: pairRanges s).filter fun n => s.mem.nodes.any (fun f => f.range == n) || s.mem.allFailed.any fun f => f.1 == n

/-- A failed node of a mirror range or of the hold, however it was met: the twin's Dailies REINITs what may be, and the pair lapses (R323,
R329). -/
def twinRecover (s : State) : State :=
  if s.dly.role = .twin && paired s && !(brokenRanges s).isEmpty then
    let due := (brokenRanges s).filter fun n => !(walking s n)
    if due.isEmpty && s.dly.state == .resilvering then s
    else
      let t := if (brokenRanges s).contains 32 then holdFails true s else lapseTwin true s
      due.foldl (fun t n => if n = 32 then t else ownReinit t n) t
  else s

/-- Apply the committed intervals: the applied generation becomes the committed one. -/
def applyReady (s : State) : State :=
  let r := loadLines s s.dly.ready
  match r.2 with
  | none => holdFails true (dlyMod r.1 fun d => { d with applied := d.committed })
  | some ls =>
    let w := putLines r.1 ls
    mirrorFails (dlyMod w.1 fun d => { d with ready := [], applied := d.committed }) w.2

/-- Every bit of the mirror map: the lines of the mirrored ranges' data regions. -/
def fullMap (s : State) : List (Nat × Nat) :=
  (pairRanges s).foldl (fun m n => runAdd m ((rangeCfg s n).base / 64) (((rangeCfg s n).base + dataSize (rangeCfg s n)) / 64)) []

/-- A lapse on the primary: every map bit set, and a resilver starts (R273). -/
def lapsePrimary (s : State) : State :=
  logPair (resilverStart (dlyMod s fun d => { d with
    map := fullMap s, mirrorPos := 0, failed := [], cntLapse := satAdd 32 d.cntLapse 1 })) .busy false

/-- Hold one line in the open interval, in place where it is held already (R268). -/
def holdLine (s : State) (key : Nat) (bs : List Byte) : State × Status :=
  let place := match smGet 0 s.dly.opened key with
    | 0 => holdFree s.dly
    | k + 1 => k
  let w := holdStore s place key bs
  if w.2 = .ok then (dlyMod w.1 fun d => { d with opened := smPut 0 d.opened key (place + 1) }, .ok) else w

/-- Hold lines one after another; the first failure stops. -/
def holdLinesGo : List (Nat × List Byte) → State → State × Status
  | [], s => (s, .ok)
  | l :: r, s =>
    let w := holdLine s l.1 l.2
    if w.2 = .ok then holdLinesGo r w.1 else w

/-- A MIRROR admitted at the twin (R268): its lines join the open interval, or the answer is BUSY and the pair lapses. BUSY too where the pair
is not standing, or has lapsed without the primary's knowledge. -/
def mirrorReceive (s : State) (range off : Nat) (bs : List Byte) : State × Status :=
  let ls := linesOf (bs.length / 64) range off bs
  let new := (ls.filter fun l => smGet 0 s.dly.opened l.1 == 0).length
  if !(paired s) then (s, .busy)
  else if s.dly.lapseDue then (dlyMod s fun d => { d with lapseDue := false }, .busy)
  else if holdCapacity s < heldLines s.dly + new then (lapseTwin false s, .busy)
  else
    let w := holdLinesGo ls s
    if w.2 = .ok then
      (dlyMod w.1 fun d => { d with holdHigh := max d.holdHigh (heldLines d), stepHigh := max d.stepHigh d.opened.length }, .ok)
    else (holdFails false w.1, .busy)

/-- The value of a line at the committed generation: as held where it is committed and not yet applied, else the range's (R277). -/
def lineValue (s : State) (key : Nat) : State × Status × List Byte :=
  match smGet 0 s.dly.ready key with
  | 0 =>
    let r := readPhys s {} ((rangeCfg s (heldRange key)).base + heldOffset key) 64
    (r.st, r.status, r.bytes)
  | k + 1 => holdLoad s k

/-- SEAL on the twin: the open interval joins the sealed ones, and SEALED goes back; a twin whose primary has yet to hear of a lapse says so
instead (R273). -/
def sealReceive (s : State) (gen step : Nat) : State :=
  if s.dly.role = .twin && paired s then
    if s.dly.lapseDue then partnerMsg 0x13 (natLe 6 gen ++ natLe 1 0) (dlyMod s fun d => { d with lapseDue := false })
    else
      partnerMsg 0x13 (natLe 6 gen ++ natLe 1 1) (dlyMod s fun d => { d with
      sealed := holdMerge d.sealed d.opened, opened := [], sealedIntervals := d.sealedIntervals + 1
      sealedGen := some (gen % 2 ^ 48, step % 2 ^ 32) })
  else s

/-- What every commit does on either module: the generation, the end of take mode, the take log up to the cut's step, the count (R272, step 6;
R278, R279). -/
def genCommit (gen step : Nat) (d : Dailies) : Dailies :=
  { d with
    committed := gen, take := false, checkArmed := false, log := d.log.filter (fun e => decide (step < e.1))
    cntCommitted := satAdd 32 d.cntCommitted 1 }

/-- The sealed intervals are committed on a twin and become ready; unless the mirror is frozen they are applied. -/
def commitSealed (s : State) (gen : Nat) : State :=
  let step := (s.dly.sealedGen.map (·.2)).getD 0
  let s1 := dlyMod s fun d => { genCommit gen step d with
    ready := holdMerge d.ready d.sealed, sealed := [], sealedIntervals := 0, sealedGen := none }
  if s1.dly.frozen then s1 else applyReady s1

/-! ### The continuity check (R279) -/

/-- The plaintext of a 256-byte frame at the committed generation. -/
def framePlain (s : State) (key : Nat) : State × Option (List Byte) :=
  (List.range 4).foldl (fun t i =>
    let r := lineValue t.1 (key + 64 * i)
    (r.1, if r.2.1 = .ok then t.2.map (· ++ r.2.2) else none)) (s, some [])

/-- The GMAC of a frame under the continuity key: its plaintext and address are the additional data. -/
def frameGmac (key : W256) (addr : Nat) (plain : List Byte) : List Byte :=
  gcmTag (w256Bytes key) (openBytes 12 (Config.frameIv addr)) (plain ++ natLe 8 addr) []

/-- The GMACs of a range's frames in address order: `left` frames from an offset; none where a frame cannot be read. -/
def gmacsGo (n : Nat) : Nat → Nat → State → State × Option (List Byte)
  | 0, _, s => (s, some [])
  | left + 1, off, s =>
    let p := framePlain s (heldKey n off)
    let r := gmacsGo n left (off + 256) p.1
    (r.1, match p.2, r.2 with
      | some b, some rest => some (frameGmac (s.keys.slots.getD 5 {}).key ((rangeCfg s n).base + off) b ++ rest)
      | _, _ => none)

/-- A range's digest; none where it cannot be formed. -/
def ownDigest (s : State) (n : Nat) : State × Option W256 :=
  let r := gmacsGo n (dataSize (rangeCfg s n) / 256) 0 s
  (r.1, r.2.map shakeW)

/-- The digests of every range of the pair. -/
def ownDigests (s : State) : State × List (Nat × Option W256) :=
  (pairRanges s).foldl (fun t n =>
    let r := ownDigest t.1 n
    (r.1, t.2 ++ [(n, r.2)])) (s, [])

/-- COMMIT on the twin (Table 10-3, step 7), with its acknowledgement, which carries the digests where the check runs (R279). -/
def commitReceive (s : State) (gen : Nat) (check : Bool) : State :=
  if s.dly.role = .twin && paired s && s.dly.sealedGen.any (·.1 == gen) then
    let run := check || s.dly.take || s.dly.checkArmed
    let s1 := commitSealed (dlyMod s fun d => { d with state := if d.state = .copied then .guarded else d.state }) gen
    let r := if run then ownDigests s1 else (s1, [])
    partnerMsg 0x17 (natLe 6 gen ++ r.2.flatMap fun e => natLe 1 e.1 ++ natLe 32 ((e.2.map (·.toNat)).getD 0)) r.1
  else s

/-- ABORT on the twin: the sealed intervals are kept. -/
def abortSealed (s : State) (gen : Nat) : State :=
  if s.dly.role = .twin && s.dly.sealedGen.any (·.1 == gen) then
    dlyMod s fun d => { d with sealedGen := none, cntAborted := satAdd 32 d.cntAborted 1 }
  else s

/-! ### Prints (R282) -/

/-- A print is running. -/
def printing (s : State) : Bool := decide (1 ≤ s.dly.print.state) && decide (s.dly.print.state ≤ 3)

/-- End a print: the mirror unfreezes, intervals committed meanwhile are applied, its keys are gone. -/
def printEnd (s : State) (state : Nat) : State :=
  applyReady (dlyMod s fun d => { d with
    frozen := false, print := { d.print with state := state, keys := [], wrapKeys := [], tags := [] } })

/-- Whether a frame of a print has left the module. -/
def frameSent (v : PortSt) (f : OutFrame) : Bool := decide (f.seq < v.txHigh)

/-- Take the frames of a print that have not been sent off a port, and number the rest anew (R282). -/
def dropBulk (v : PortSt) : PortSt :=
  let rest := v.unacked.filter fun f => !(isBulk f.msg) && !(frameSent v f)
  { v with unacked := v.unacked.filter (frameSent v) ++ ((List.range rest.length).zip rest).map fun e => { e.2 with seq := v.txHigh + e.1 } }

/-- Abandon the print in progress: no chunk or slate of it is emitted any more. -/
def printDrop (s : State) : State :=
  if printing s then
    let t := logPair (printEnd s 5) .ok true
    { t with lmx := { t.lmx with a := dropBulk t.lmx.a, b := dropBulk t.lmx.b, held := [] } }
  else s

/-! ### Cuts on a primary (Table 10-3) -/

/-- CUT's body (Table 10-2). -/
structure CutBody where
  group : Nat
  seq : Nat
  gen : Nat
  step : Nat
  resv : Nat
deriving DecidableEq, Repr

/-- CUT's fields. -/
def cutBody (v : Nat) : CutBody :=
  { group := 64 * fld v 0 42, seq := fld v 42 32, gen := fld v 74 48, step := fld v 122 32, resv := fld v 154 134 }

/-- Set the cut's stage and fields. -/
def cutMod (s : State) (f : CutRun → CutRun) : State := dlyMod s fun d => { d with cut := d.cut.map f }

/-- The members whose verdict on a cut has not come, with its generation. -/
def verdictsDue (s : State) (k : CutRun) : List (Nat × Nat) :=
  (k.members.filter fun m => m != s.rig.active.moduleId && (assocGet k.verdicts m).isNone).map fun m => (m, k.gen)

/-- A cut ends on this primary with a status: a verdict on it that is still to come is of no later cut. -/
def cutEnd (s : State) (k : CutRun) (st : Status) : State :=
  let s1 := dlyMod s fun d => { d with
    cut := none, early := d.early.filter fun e => e.2.1 != k.gen, stale := d.stale ++ verdictsDue s k }
  let s2 := match cmdGet s1 k.cid with
    | some c => groupNext s1 c k.group k.seq
    | none => s1
  cmdEnd s2 k.cid (resultOf st)

/-- Send the decision to the twin, where there is one. -/
def cutTell (s : State) (kind gen : Nat) : State := if paired s then partnerMsg kind (natLe 6 gen) s else s

/-- An aborted cut: ABORT to the twin, and the CUT ends (Table 10-3, steps 5 and 6). -/
def cutAbort (s : State) (k : CutRun) (st : Status) : State :=
  cutEnd (dlyMod (cutTell s 0x16 k.gen) fun d => { d with cntAborted := satAdd 32 d.cntAborted 1 }) k st

/-- Decide a cut once every verdict is in, or one is not ready. The COMMIT says whether the continuity check runs (R279). -/
def cutDecide (s : State) : State :=
  match s.dly.cut with
  | none => s
  | some k =>
    if k.stage ≠ 3 then s
    else if k.verdicts.any fun v => !v.2 then cutAbort s k .busy
    else if k.members.all fun m => (assocGet k.verdicts m).isSome then
      let check := s.dly.take || s.dly.checkArmed
      cutMod (if paired s then partnerMsg 0x15 (natLe 6 k.gen ++ natLe 1 (b2n check)) s else s) fun k => { k with stage := 4, check := check }
    else s

/-- Step 4: this primary's verdict goes to every member. -/
def cutVerdict (s : State) (k : CutRun) : State :=
  let ready := (s.dly.state == .guarded || s.dly.state == .copied) && k.isSealed
  let me := s.rig.active.moduleId
  let s1 := (k.members.filter fun m => m != me).foldl
    (fun t m => dlyMsg m false 0x14 (natLe 6 k.gen ++ natLe 1 (b2n ready)) .message t) s
  cutDecide (cutMod s1 fun k => { k with stage := 3, verdicts := assocPut k.verdicts me ready })

/-- Whether mirrored lines are on their way and not acknowledged. -/
def mirrorFlying (s : State) : Bool :=
  let mine := fun (o : TxnOwner) => match o with
    | .mirror _ _ => true
    | _ => false
  (s.fabric.trackers.any fun t => mine t.owner) || (s.fabric.waiting.any fun w => mine w.owner) || (s.fabric.ended.any fun e => mine e.1)

/-- Lines of the map that are still to be tried. -/
def mirrorLeft (s : State) : List (Nat × Nat) := s.dly.failed.foldl (fun m r => runDel m r.1 r.2) s.dly.map

/-- Go on from the drain once it is complete. A primary with no pair has no SEAL to send, and one with a line that it cannot read sends
none (R300): it is not ready. -/
def cutAdvance (s : State) : State :=
  match s.dly.cut with
  | none => s
  | some k =>
    if k.stage = 1 then
      if !(paired s) then cutVerdict s k
      else if !(mirrorLeft s).isEmpty || mirrorFlying s then s
      else if !s.dly.map.isEmpty then cutVerdict s k
      else cutMod (partnerMsg 0x12 (natLe 6 k.gen ++ natLe 4 k.step) s) fun k => { k with stage := 2 }
    else s

/-- The memory that a CUT names: its group descriptor. -/
def cutNames (s : State) (c : Cmd) : List (Nat × Nat) :=
  let v := (cutBody (cmdBody c)).group
  [(v, 64 + 2 * (groupRead s c v).group.ranks.length)]

/-- The fields of a CUT that do not depend on its turn (R271). -/
def cutStatic (s : State) (c : Cmd) : Bool :=
  (cutBody (cmdBody c)).resv == 0 && s.dly.role == .primary && (spaceParty s c.space).isNone

/-- The checks of a CUT (R271, R260): the group first, so that a command that fails at its turn moves next_seq on (R245); the generation at
the turn, once no other cut runs. -/
def cutCheck (s : State) (c : Cmd) : State × Except Result (CutRun × Bool) × Bool :=
  let b := cutBody (cmdBody c)
  let r := groupRead s c b.group
  if r.status ≠ .ok then (r.st, .error (if cutStatic s c then resultRange r.status r.range else resultOf .badDescriptor), false)
  else
    let d := (b.seq + 2 ^ 32 - r.group.nextSeq) % 2 ^ 32
    if !(cutStatic s c) || !(groupValid r.st r.group) || decide (64 < d) ||
        (d == 0 && s.dly.cut.isNone && (b.gen != s.dly.committed + 1 || decide (2 ^ 48 ≤ b.gen))) then
      (r.st, .error (resultOf .badDescriptor), decide (d = 0))
    else
      (r.st, .ok ({ cid := c.id, gen := b.gen, step := b.step, group := b.group, seq := b.seq, members := r.group.ranks, stage := 1
                    isSealed := false
                    verdicts := s.dly.early.filterMap fun e =>
                      if e.2.1 = b.gen && r.group.ranks.contains e.1 then some (e.1, e.2.2) else none },
        decide (d = 0)), decide (d = 0))

/-- Whether hold pressure holds a cut at step 1, by the twin's last heartbeat (R282): while a print holds its mirror frozen, held lines and
the largest open interval exceed the hold's room. -/
def holdPressure (s : State) : Bool :=
  paired s && s.dly.report.printing && decide (s.dly.report.cap < s.dly.report.held + s.dly.report.high)

/-- CUT considered: refused, waiting for its turn, or begun, at step 1 while hold pressure holds it. The drain tries every line of the map
(R300). -/
def cutBegin (s : State) (c : Cmd) : State :=
  let wait := fun (t : State) => { t with sp := cmdMod t.sp c.id fun k => { k with phase := .waiting } }
  let k := cutCheck s c
  match k.2.1 with
  | .error r =>
    cmdEnd (if k.2.2 && s.dly.cut.isNone then groupNext k.1 c (cutBody (cmdBody c)).group (cutBody (cmdBody c)).seq else k.1) c.id r
  | .ok (run, turn) =>
    if turn && s.dly.cut.isNone then
      cutAdvance (dlyMod (wait k.1) fun d => { d with
        cut := some { run with stage := if holdPressure s then 0 else 1 }, mirrorPos := 0, failed := [] })
    else wait k.1

/-- CUT_HOLD_RELEASE (R282): the pressure is gone. -/
def cutRelease (s : State) : State :=
  match s.dly.cut with
  | some k => if k.stage = 0 && !(holdPressure s) then cutAdvance (cutMod s fun k => { k with stage := 1 }) else s
  | none => s

/-- SEALED arrives, or the twin's word that the pair has lapsed. -/
def sealedReceive (s : State) (gen : Nat) (isSealed : Bool) : State :=
  match s.dly.cut with
  | some k =>
    if k.stage = 2 && k.gen = gen then
      if isSealed then cutVerdict s { k with isSealed := true } else cutVerdict (lapsePrimary s) k
    else s
  | none => s

/-- A member's verdict arrives; one that comes before the CUT reaches step 4 is kept, and one on a cut that has aborted is dropped. -/
def verdictReceive (s : State) (member gen : Nat) (ready : Bool) : State :=
  if s.dly.stale.contains (member, gen) then dlyMod s fun d => { d with stale := d.stale.erase (member, gen) }
  else match s.dly.cut with
  | some k =>
    if k.gen = gen then
      if k.members.contains member then cutDecide (cutMod s fun k => { k with verdicts := assocPut k.verdicts member ready }) else s
    else dlyMod s fun d => { d with early := (member, gen, ready) :: d.early }
  | none => dlyMod s fun d => { d with early := (member, gen, ready) :: d.early }

/-- Ranges whose digests agree, and those that differ or that one module could not form. -/
def digestSplit (own : List (Nat × Option W256)) (ds : List (Nat × W256)) : List Nat × List Nat :=
  let good := fun (e : Nat × Option W256) => e.2.isSome && assocGet ds e.1 == e.2
  ((own.filter good).map (·.1), (own.filter fun e => !(good e)).map (·.1))

/-- The generation is committed on this primary. -/
def cutCommitted (s : State) (k : CutRun) : State := dlyMod s (genCommit k.gen k.step)

/-- The twin acknowledges COMMIT: the generation is committed, and the CUT completes (Table 10-3, step 6; R279). -/
def commitAck (s : State) (gen : Nat) (ds : List (Nat × W256)) : State :=
  match s.dly.cut with
  | none => s
  | some k =>
    if k.stage = 4 && k.gen = gen then
      let s1 := dlyMod (cutCommitted s k) fun d => { d with state := if d.state = .copied then .guarded else d.state }
      if k.check then
        let own := ownDigests s1
        let p := digestSplit own.2 ds
        let s2 := dlyMod own.1 fun d => { d with
          matched := BitVec.ofNat 32 (maskOf p.1), mismatched := BitVec.ofNat 32 (maskOf p.2) }
        if p.2.isEmpty then cutEnd s2 k .ok else lapsePrimary (cutEnd (pairEvent s2 .continuityFail) k .continuityFail)
      else cutEnd s1 k .ok
    else s

/-- A verdict of not ready to every other member. -/
def notReady (s : State) (k : CutRun) : State :=
  (k.members.filter fun m => m != s.rig.active.moduleId).foldl
    (fun t m => dlyMsg m false 0x14 (natLe 6 k.gen ++ natLe 1 0) .message t) s

/-- CUT_TIMEOUT (R272): before the decision the cut aborts with PEER_LOST, every member told where this module's own verdict is still out;
after a COMMIT went out unacknowledged the generation stands. -/
def cutTimeout (s : State) (cid : Nat) : State :=
  match s.dly.cut with
  | none => s
  | some k =>
    if k.cid ≠ cid then s
    else if k.stage = 1 || k.stage = 2 then cutAbort (notReady s k) k .peerLost
    else if k.stage = 3 then cutAbort s k .peerLost
    else if k.stage = 4 then cutEnd (cutCommitted s k) k .peerLost
    else s

/-- The cut in progress when its own twin is lost: not ready for every member, and TWIN_LOST here; a generation whose COMMIT went out
stands. -/
def cutTwinLost (s : State) : State :=
  match s.dly.cut with
  | none => s
  | some k =>
    if k.stage = 4 then cutEnd (cutCommitted s k) k .twinLost
    else
      cutEnd (dlyMod (if k.stage < 3 then notReady s k else s) fun d => { d with cntAborted := satAdd 32 d.cntAborted 1 }) k .twinLost

/-- A cut whose command has been aborted: the twin is told, and the cut is gone. -/
def cutSweep (s : State) : State :=
  match s.dly.cut with
  | none => s
  | some k =>
    match cmdGet s k.cid with
    | some c => if cmdLive c then s else cutAbort s k .aborted
    | none => cutAbort s k .aborted

/-- A CUT that waits for its turn on its group. -/
def cutWaiting (s : State) (cid : Nat) : Option Cmd :=
  match cmdGet s cid with
  | some c => if c.phase = .waiting && c.opcode = 0x60 && !(s.dly.cut.any fun k => k.cid == cid) then some c else none
  | none => none

/-! ### Loss and promotion (R274 to R276) -/

/-- A primary that has lost its twin trains on unprotected. -/
def primaryAlone (s : State) : State :=
  cutTwinLost (dlyMod (pairEvent s .twinLost) fun d => { d with state := .unpaired, suspected := false, rewinding := false, offer := none })

/-- The steps of Table 10-5. -/
def promote (s : State) : State :=
  let s1 := printDrop (dlyMod s fun d => { d with opened := [], sealed := [], sealedIntervals := 0, sealedGen := none })
  let s2 := applyReady s1
  let s3 := dlyMod s2 fun d => { d with
    role := .primary, promoted := true, map := [], mirrorPos := 0, failed := [], epoch := (d.epoch + 1) % 2 ^ 32, state := .unpaired
    suspected := false, offer := none, frozen := false, lapseDue := false, cntPromote := satAdd 32 d.cntPromote 1 }
  { s3 with fabric := { s3.fabric with
      links := ((List.range 48).zip s3.fabric.links).map fun e => if e.2.mismatch then linkFresh e.2 (linkMay s3 e.1) else e.2 } }

/-- A twin that decides to promote: in doubt while a seal has no decision (R275). -/
def decidePromote (s : State) (st : Status) : State :=
  let s1 := pairEvent s st
  if s1.dly.sealedGen.isSome then dlyMod (printDrop s1) fun d => { d with state := .inDoubt, suspected := false } else promote s1

/-- The probe went unanswered (Table 10-4). -/
def probeTimeout (s : State) : State :=
  if s.dly.suspected then
    if s.dly.role = .twin then decidePromote s .peerLost else if s.dly.role = .primary then primaryAlone s else s
  else s

/-- The probe was answered. -/
def probeAnswer (s : State) (src : Nat) : State :=
  if s.dly.suspected && src = s.dly.partner then
    if s.dly.role = .twin then
      dlyMod (printDrop (pairEvent s .twinLost)) fun d => { d with state := .orphaned, suspected := false, offer := none }
    else if s.dly.role = .primary then primaryAlone s else s
  else s

/-- A leave message from the partner. -/
def leaveReceive (s : State) (src : Nat) : State :=
  if paired s && src = s.dly.partner then
    if s.dly.role = .twin then decidePromote s .twinLost else if s.dly.role = .primary then primaryAlone s else s
  else s

/-- A planned departure of this module: a primary says so first (R274). -/
def depart (s : State) : State :=
  let s1 := if s.dly.role = .primary && paired s then partnerMsg 0x1B [] s else s
  let s2 := printDrop s1
  dlyMod (cutTwinLost s2) fun d => { d with
    state := .unpaired, suspected := false, rewinding := false, offer := none, opened := [], sealed := [], sealedIntervals := 0, sealedGen := none }

/-! ### DLY_CTRL commands (R274, R275, R277 to R279) -/

/-- A DLY_CTRL command's answer: its status stands in DLY_STATUS too. -/
def dlyAnswer (s : State) (st : Status) : Answer := ⟨dlyMod s fun d => { d with lastStatus := st }, st, []⟩

/-- Any space is live. -/
def anySpace (s : State) : Bool := s.sp.slots.any fun x => x.state != 0

/-- DETACH. -/
def detach (s : State) : Answer :=
  if !(paired s) || (s.dly.role = .primary && anySpace s) then dlyAnswer s .busy else dlyAnswer (depart s) .ok

/-- RESOLVE (R275). -/
def resolve (toCommit : Bool) (s : State) : Answer :=
  if s.dly.state ≠ .inDoubt then dlyAnswer s .busy
  else
    match s.dly.sealedGen with
    | some g => dlyAnswer (promote (if toCommit then commitSealed s g.1 else s)) .ok
    | none => dlyAnswer (promote s) .ok

/-- REWIND (R277). The lines in all are those of the map and those that the twin's last heartbeat gave as held. -/
def rewind (s : State) : Answer :=
  if s.dly.role ≠ .primary then dlyAnswer s .busy
  else if s.dly.arg ≠ s.dly.committed then dlyAnswer s .badDescriptor
  else if s.dly.state ≠ .guarded || s.dly.rewinding then dlyAnswer s .busy
  else
    dlyAnswer (partnerMsg 0x1D (natLe 6 s.dly.arg) (dlyMod s fun d => { d with
      rewinding := true, doneMib := 0, totalMib := (runSize d.map + d.report.held) * 64 / 2 ^ 20 })) .ok

/-- A line that a mirrored range of this module holds. -/
def lineMirrored (s : State) (key : Nat) : Bool :=
  (pairRanges s).contains (heldRange key) && heldOffset key % 64 == 0 && decide (heldOffset key + 64 ≤ dataSize (rangeCfg s (heldRange key)))

/-- Whether lines cover every line of the mirror map. -/
def coversMap (s : State) (ls : List (Nat × List Byte)) : Bool :=
  (ls.foldl (fun m l =>
    let a := ((rangeCfg s (heldRange l.1)).base + heldOffset l.1) / 64
    runDel m a (a + 1)) s.dly.map).isEmpty

/-- The lines that a twin gives back at a rewind: those of its open and sealed intervals, and those that the primary asks for. -/
def rewindKeys (s : State) (asked : List (Nat × List Byte)) : List Nat :=
  (s.dly.opened.map (·.1) ++ s.dly.sealed.map (·.1) ++ (asked.map (·.1)).filter (lineMirrored s)).eraseDups

/-- Send the value of a line at the committed generation to the primary. -/
def rewindSend (s : State) (key : Nat) : State :=
  let v := lineValue s key
  if v.2.1 = .ok then partnerMsg 0x1E (natLe 1 (heldRange key) ++ natLe 6 (heldOffset key) ++ v.2.2) v.1 else v.1

/-- The lines of the frame that a line of a Sealed range lies in; of a Veiled one, the line alone. -/
def frameLines (s : State) (key : Nat) : Nat × Nat :=
  let c := rangeCfg s (heldRange key)
  let l := (c.base + heldOffset key) / 64
  if c.mode = 2 then (l / 4 * 4, l / 4 * 4 + 4) else (l, l + 1)

/-- A rewind that could not write some lines: a frame that cannot be read is replaced only whole, so the twin is asked for all of it; lines
beneath an unverifiable node stay in the map, unreadable (R299, R300). -/
def rewindFailed (s : State) (fs : List (Nat × Status)) (d : Dailies) : Dailies :=
  let bad := fun (e : Nat × Status) => e.2 == .memUncorrectable || e.2 == .memIntegrity
  let runs := fun (l : List (Nat × Status)) => l.foldl (fun m e => runAdd m (frameLines s e.1).1 (frameLines s e.1).2) []
  { d with rewinding := fs.any bad, map := runs fs, failed := runs (fs.filter fun e => !(bad e)) }

/-- REWIND_DONE: the primary, with every line of its map and those that its twin holds, writes them and clears its map; the twin gives each
line's value, then discards its open and sealed intervals (R277). -/
def rewindDone (s : State) (ls : List (Nat × List Byte)) : State :=
  if s.dly.role = .primary && s.dly.rewinding then
    if (ls.all fun l => lineMirrored s l.1 && decide (l.2.length = 64)) && coversMap s ls then
      let w := putLines s ls
      dlyMod w.1 fun d => rewindFailed s w.2 { d with
        mirrorPos := 0, doneMib := ls.length * 64 / 2 ^ 20, totalMib := ls.length * 64 / 2 ^ 20 }
    else s
  else if s.dly.role = .twin && paired s then
    dlyMod ((rewindKeys s ls).foldl rewindSend s) fun d => { d with opened := [], sealed := [], sealedIntervals := 0, sealedGen := none }
  else s

/-- TAKE_BEGIN (R278). -/
def takeBegin (s : State) : Answer := dlyAnswer (dlyMod s fun d => { d with take := true }) .ok

/-- CHECK (R279). -/
def checkArm (s : State) : Answer := dlyAnswer (dlyMod s fun d => { d with checkArmed := true }) .ok

/-! ### The take log (R278) -/

/-- Append to the take log. -/
def takeAppend (s : State) (step : Nat) (digest : W256) : State := dlyMod s fun d => { d with log := d.log ++ [(step, digest)] }

/-- An entry to be appended: refused, appended, or sent to the twin first. -/
def takeRecordAppend (s : State) (c : Cmd) (step : Nat) (digest : W256) : State :=
  if (assocGet s.dly.log step).isSome then cmdEnd s c.id (resultOf .badDescriptor)
  else if 1024 ≤ s.dly.log.length then cmdEnd s c.id (resultOf .busy)
  else
    let s1 := takeAppend s step digest
    if s.dly.role = .primary && paired s then
      dlyMsg s.dly.partner true 0x1C (natLe 4 step ++ natLe 32 digest.toNat) (.takeLog c.id)
        { s1 with sp := cmdMod s1.sp c.id fun k => { k with phase := .waiting } }
    else cmdEnd s1 c.id (resultOf .ok)

/-- TAKE_RECORD. -/
def takeRecord (s : State) (c : Cmd) : State :=
  let v := cmdBody c
  let step := fld v 0 32
  let digest : W256 := BitVec.ofNat 256 (fld v 32 256)
  if (spaceParty s c.space).isSome then cmdEnd s c.id (resultOf .badDescriptor)
  else if s.dly.take && (s.dly.log.any fun e => decide (step ≤ e.1)) then
    cmdEnd s c.id (resultOf (if assocGet s.dly.log step = some digest then .ok else .continuityFail))
  else takeRecordAppend s c step digest

/-- A take-log entry arrives at the twin. -/
def takeLogReceive (s : State) (step : Nat) (digest : W256) : State :=
  if s.dly.role = .twin && paired s && (assocGet s.dly.log step).isNone && decide (s.dly.log.length < 1024) then takeAppend s step digest else s

/-! ### The twin streams (R267, R280) -/

/-- Twin-stream packets go over twin links as system packets. -/
def streamPacket (s : State) (type dst range off : Nat) (bs : List Byte) : Packet :=
  { blankPacket with
    type := type, dst := dst, ownerSet := (rangeCfg s range).ownerSet, range := range, offset := off, bytes := bs.length, mailbox := 1
    flitsM1 := flitsFor bs.length - 1, system := true, data := bs }

/-- The lines of MIRROR packets that have not been answered: a second write of one waits for the first's answer (R233). -/
def mirrorAway (s : State) : List (Nat × Nat) :=
  let mine := fun (o : TxnOwner) => match o with
    | .mirror a n => [(a / 64, a / 64 + n)]
    | _ => []
  (s.fabric.trackers.flatMap fun t => mine t.owner) ++ (s.fabric.waiting.flatMap fun w => mine w.owner) ++
    (s.fabric.ended.flatMap fun e => mine e.1)

/-- The next line of the map that may go, from a position, and the end of its run; from the start again past the end of the map. -/
def mirrorNext (s : State) : Option (Nat × Nat) :=
  let at_ := fun (m : List (Nat × Nat)) (p : Nat) => m.findSome? fun r => if p < r.2 then some (max r.1 p, r.2) else none
  let free := (mirrorAway s).foldl (fun m r => runDel m r.1 r.2) s.dly.map
  (at_ free s.dly.mirrorPos).orElse fun _ => at_ free 0

/-- The lines of a packet from line l of range n, in a run that ends at hi: up to 7, and up to the end of the frame in a Sealed range, whose
frames are read whole. -/
def mirrorTake (s : State) (n l hi : Nat) : Nat :=
  let c := rangeCfg s n
  min (if c.mode = 2 then 4 - l % 4 else 7) (min (hi - l) ((c.base + dataSize c) / 64 - l))

/-- Lines that the stream could not read: their bits stay set, and the stream goes on behind them (R300). -/
def mirrorSkip (s : State) (l k : Nat) : State := dlyMod s fun d => { d with mirrorPos := l + k, failed := runAdd d.failed l (l + k) }

/-- Lines that the stream has read leave in a MIRROR packet, their bits cleared. -/
def mirrorPacket (s : State) (n l k : Nat) (bs : List Byte) : State :=
  let s1 := dlyMod s fun d => { d with map := runDel d.map l (l + k), mirrorPos := l + k, cntMirror := d.cntMirror + k }
  request s1 { pkt := streamPacket s1 0xC s1.dly.partner n (l * 64 - (rangeCfg s n).base) bs, requester := 10, twinOnly := true
               owner := .mirror (l * 64) k, space := systemSlot s1 }

/-- Send the next MIRROR packet (R267), but of a range that is being filled (R308); where several lines cannot be read together, the first
alone. -/
def mirrorSend (s : State) : State :=
  match mirrorNext s with
  | none => s
  | some r =>
    match rangeAt s (r.1 * 64) with
    | none => dlyMod s fun d => { d with map := runDel d.map r.1 (r.1 + 1) }
    | some n =>
      if filling s n then s
      else
      let k := mirrorTake s n r.1 r.2
      let x := readPhys s {} (r.1 * 64) (64 * k)
      if x.status = .ok then mirrorPacket x.st n r.1 k x.bytes
      else if (rangeCfg s n).mode = 2 then mirrorSkip x.st r.1 k
      else
        let y := readPhys x.st {} (r.1 * 64) 64
        if y.status = .ok then mirrorPacket y.st n r.1 1 y.bytes else mirrorSkip y.st r.1 1

/-- The range and byte offset of line i of the resilver, and the lines left in that range. -/
def resilverAt (s : State) : List Nat → Nat → Option (Nat × Nat × Nat)
  | [], _ => none
  | n :: r, i =>
    let k := dataSize (rangeCfg s n) / 64
    if i < k then some (n, 64 * i, k - i) else resilverAt s r (i - k)

/-- Send the next copy of the resilver stream: a MSG of up to 7 lines (R280). -/
def resilverSend (s : State) : State :=
  if s.dly.state ≠ .resilvering then s
  else
    match resilverAt s (byAddress s (pairRanges s)) s.dly.resilverPos with
    | none => s
    | some (n, off, left) =>
      if filling s n then s
      else
      let k := min 7 left
      let a := (rangeCfg s n).base + off
      let x := readPhys s {} a (64 * k)
      if x.status ≠ .ok then x.st
      else
        let s1 := dlyMod x.st fun d => { d with resilverPos := d.resilverPos + k, doneMib := (d.resilverPos + k) * 64 / 2 ^ 20 }
        request s1 { pkt := streamPacket s1 0xD s1.dly.partner n off x.bytes, requester := 11, twinOnly := true
                     owner := .resilver a k, space := systemSlot s1 }

/-- n packets of each twin stream of a primary. -/
def streamSend : Nat → State → State
  | 0, s => s
  | n + 1, s => streamSend n (resilverSend (mirrorSend s))

/-- MIRROR_STREAM_SEND: in the system space's window (R432). -/
def mirrorStream (s : State) (n : Nat) : State := if s.dly.role = .primary && paired s && systemOpen s then cutAdvance (streamSend n s) else s

/-- RESILVER_COPY_RECEIVE: only from the partner over a twin link that is up; a copy to a protected pair means that it has lapsed. -/
def resilverReceive (s : State) (src link range off : Nat) (bs : List Byte) : State :=
  if s.dly.role = .twin && paired s && src = s.dly.partner && isTwinLink s link && (linkOf s link).state = 2 && (pairRanges s).contains range &&
      decide (off + bs.length ≤ dataSize (rangeCfg s range)) then
    let s1 := if s.dly.state = .resilvering then s else lapseTwin false s
    let w := writePhys s1 {} ((rangeCfg s1 range).base + off) bs
    if w.status = .ok then
      dlyMod w.st fun d => { d with resilverPos := d.resilverPos + bs.length / 64, doneMib := (d.resilverPos + bs.length / 64) * 64 / 2 ^ 20 }
    else mirrorFails w.st [(heldKey range off, w.status)]
  else s

/-- Copies of the resilver that have not been answered. -/
def resilverBusy (s : State) : Bool :=
  let mine := fun (o : TxnOwner) => match o with
    | .resilver _ _ => true
    | _ => false
  (s.fabric.trackers.any fun t => mine t.owner) || (s.fabric.waiting.any fun w => mine w.owner) || (s.fabric.ended.any fun e => mine e.1)

/-- RESILVER_COPY_DONE: on a primary once every line has been copied and answered. -/
def resilverDone (s : State) : State :=
  if s.dly.state = .resilvering && (s.dly.role = .twin || (decide (mirrorLines s ≤ s.dly.resilverPos) && !(resilverBusy s))) then
    dlyMod s fun d => { d with state := .copied, doneMib := d.totalMib }
  else s

/-! ### Heartbeats and probes (R274) -/

/-- HEARTBEAT_SEND: a lapse that the primary has yet to hear of goes with it. -/
def heartbeatSend (s : State) : State :=
  if paired s then
    partnerMsg 0x18 (natLe 4 (heldLines s.dly) ++ natLe 4 s.dly.stepHigh ++ natLe 4 (holdCapacity s) ++ natLe 1 (b2n (printing s)) ++
      natLe 1 (b2n s.dly.lapseDue)) (dlyMod s fun d => { d with lapseDue := false })
  else s

/-- HEARTBEAT_RECEIVE: it restarts the 4 ms in which PARTNER_SUSPECT may come; what it says of the hold is kept, and a lapse is acted on. -/
def heartbeatReceive (s : State) (r : HoldReport) : State :=
  if paired s then
    let t := dlyMod s fun d => { d with report := r }
    if r.lapsed && s.dly.role == .primary then lapsePrimary t else t
  else s

/-- PARTNER_SUSPECT: the probe goes over the routed fabric. -/
def partnerSuspect (s : State) : State :=
  if paired s && !s.dly.suspected then dlyMsg s.dly.partner false 0x19 [] .message (dlyMod s fun d => { d with suspected := true }) else s

/-- PROBE_RECEIVE: a probe from the partner is answered. -/
def probeReceive (s : State) (src : Nat) : State :=
  if s.dly.role ≠ .none && src = s.dly.partner then dlyMsg src false 0x1A [] .message s else s

/-! ### Transactions of Dailies that have ended -/

/-- A MIRROR or a copy was answered: BUSY lapses the pair (R273); on any other failure its lines are set in the map again, to be sent
again (log entry 54). -/
def streamTxnEnd (s : State) (addr lines : Nat) (isMirror : Bool) (st : Status) : State :=
  if !(s.dly.role = .primary && paired s) then s
  else if st = .ok then cutAdvance s
  else if isMirror && st = .busy then lapsePrimary s
  else dlyMod s fun d => { d with map := runAdd d.map (addr / 64) (addr / 64 + lines) }

/-- A take-log entry was answered: TAKE_RECORD completes; an entry that the twin has not taken goes out of the log again, so that both
logs stay the same (R278). -/
def takeTxnEnd (s : State) (cid : Nat) (st : Status) : State :=
  match cmdGet s cid with
  | some c =>
    if c.phase = .waiting then
      cmdEnd (if st = .ok then s else dlyMod s fun d => { d with log := d.log.filter fun e => decide (e.1 ≠ fld (cmdBody c) 0 32) }) cid (resultOf st)
    else s
  | none => s

/-! ### Settling transactions -/

/-- Act on one transaction that has ended. -/
def settleOne (s : State) (o : TxnOwner) (st : Status) : State :=
  match o with
  | .command cid => if st = .ok then s else cmdEnd s cid (resultOf st)
  | .mirror a n => streamTxnEnd s a n true st
  | .resilver a n => streamTxnEnd s a n false st
  | .collective cid => colTxnEnd s cid st
  | .takeLog cid => takeTxnEnd s cid st
  | .message => s

/-- Act on the transactions that have ended, `fuel` at most: each may end others. -/
def settleF : Nat → State → State
  | 0, s => s
  | fuel + 1, s =>
    match s.fabric.ended with
    | [] => s
    | e :: r => settleF fuel (settleOne { s with fabric := { s.fabric with ended := r } } e.1 e.2)

/-- Act on every transaction that has ended: a transaction ends once, so the trackers, the requests that wait and the ends noted bound
the number, and what their owners send adds at most its aborts and joins. A twin then mends what it has met broken. -/
def settle (s : State) : State :=
  twinRecover <| settleF (s.fabric.ended.length + s.fabric.trackers.length + s.fabric.waiting.length + 4096 * s.col.slots.length + 4096) s

/-- What the fabric engines do once commands have been aborted, and every transaction that ends by it. -/
def sweep (s : State) : State := settle (cutSweep (colSweep s))

end Sys2Proof.Machine
end

