-- ==== Sys2Proof/Machine/Space.lean ====
section
/-! DEFINITION. Spaces, contexts, queues, memory objects, fences and completion (file 14), and the slot strikes of
space destruction (R354, R356). -/

namespace Sys2Proof.Machine

/-! ### Slot strikes (R354) -/

/-- What a slot strike does to a range: a struck current key leaves it keyless and ends a walk; a struck previous key leaves the
lines not yet walked without a key (R308, Table 12-9). -/
def rangeStruck (used : Bool) (hit : Nat → Bool) (k : RangeKey) : RangeKey :=
  if used && !k.keyless && hit k.curSlot then
    { k with
      keyless := true, gen := 0, prevValid := false, prevStruck := false, curSlot := 0, prevSlot := 0, fresh := []
      subkeys := [], prevSub := [], tree := []
      walk := if k.walk = 1 || k.walk = 2 then 4 else k.walk }
  else if k.prevValid && hit k.prevSlot then { k with prevStruck := true, prevSub := [] } else k

/-- Zeroize the key slots that a test picks, and what they served. -/
def slotStrike (s : State) (f : Nat → KeySlot → Bool) : State :=
  let hit := fun i => (s.keys.slots.getD i {}).valid && f i (s.keys.slots.getD i {})
  { s with
    keys := { s.keys with
      slots := (List.range 256).map fun i => if hit i then {} else s.keys.slots.getD i {}
      fabCur := s.keys.fabCur.filter fun i => !hit i
      fabOther := s.keys.fabOther.filter fun i => !hit i
      channels := (List.range 8).map fun p => if hit (8 + 2 * p) then {} else s.keys.channels.getD p {} }
    ciph := { s.ciph with
      ranges := (List.range 33).map fun n =>
        rangeStruck ((rangeCfg s n).mode != 0) hit (s.ciph.ranges.getD n {}) } }

/-- Whether an owner set has two or more members. -/
def isJoint (o : BitVec 8) : Bool := decide (2 ≤ popCount 8 o.toNat)

/-- The end of the compact (R356): joint keys struck, contributions zeroized; ranges keyed by a joint key become keyless. -/
def endCompact (s : State) : State :=
  let s1 := slotStrike s fun _ k => isJoint k.ownerSet
  { s1 with keys := { s1.keys with compactEnded := true, pendings := [] } }

/-- The slot strike of a space's destruction (R354, R356). -/
def strikeForSpace (s : State) (party : Nat) : State :=
  if party = 255 then slotStrike s fun i k => decide (32 ≤ i) && decide (i ≤ 127) && k.ownerSet == 0
  else
    let own : BitVec 8 := BitVec.ofNat 8 (2 ^ party)
    let s1 := slotStrike s fun _ k => k.ownerSet == own
    let s2 := endChannel s1 party
    if isShared s2 then endCompact s2 else s2

/-! ### Pages (R375, R376, R428) -/

/-- The page runs in use: objects, control areas, save images and reserved save pages. -/
def usedPages (s : State) : List (Nat × Nat) :=
  (s.sp.objs.flatMap fun o => o.pages.map fun e => (e.ppn, e.ppn + e.n)) ++
  ((s.sp.slots.filter fun x => x.state != 0).map (ctlPages s)) ++
  (s.array.images.flatMap fun i => i.pages.map fun p => (p, p + 1)) ++
  (s.sp.slots.flatMap fun x => x.reserved.map fun p => (p, p + 1))

/-- Whether a page of range n holds a frame beneath a failed node (R376). -/
def pageFailed (s : State) (n ppn : Nat) : Bool :=
  (rangeCfg s n).mode == 2 && (!(s.mem.nodes.isEmpty) || !(s.mem.allFailed.isEmpty)) &&
    (List.range 8192).any fun k =>
      let a := ppn * 2 ^ 21 + k * 256
      (failedAbove s n (stackOf a) (frameIndex (rangeCfg s n) a)).isSome

/-- The pages of a range's data region. -/
def rangePages (c : RangeCfg) : List Nat := (List.range (dataSize c / 2 ^ 21)).map fun i => c.base / 2 ^ 21 + i

/-- The free pages of range n, in ascending order. -/
def freePages (s : State) (n : Nat) : List Nat :=
  let used := usedPages s
  (rangePages (rangeCfg s n)).filter fun p => !(runHas used p) && !(pageFailed s n p)

/-- Rising page numbers joined to runs, mapped from virtual page `v` up. -/
def extentsOf : Nat → List Nat → List Extent
  | _, [] => []
  | v, p :: ps =>
    match extentsOf (v + 1) ps with
    | e :: es => if e.ppn = p + 1 then { vpn := v, ppn := p, n := e.n + 1 } :: es else { vpn := v, ppn := p, n := 1 } :: e :: es
    | [] => [{ vpn := v, ppn := p, n := 1 }]

/-- Whether a space may map a range (R359). -/
def mayMap (s : State) (slot n : Nat) : Bool :=
  let c := rangeCfg s n
  decide (n < 32) && c.mode != 0 &&
    (!isShared s ||
      match spaceParty s slot with
      | some p => c.ownerSet.getLsbD p
      | none => c.ownerSet == 0)

/-! ### Slots, quotas and use -/

/-- The entry of a space slot. -/
def spaceGet (s : State) (slot : Nat) : Space := s.sp.slots.getD slot {}

/-- Change a space slot. -/
def spaceMod (x : Spaces) (slot : Nat) (f : Space → Space) : Spaces := { x with slots := modAt x.slots slot f }

/-- Number of contexts, queues, objects and fences of a space. -/
def useOf (s : State) (slot : Nat) : Nat × Nat × Nat × Nat :=
  ((s.sp.ctxs.filter fun c => c.space == slot).length, (s.sp.queues.filter fun q => q.space == slot).length,
    (s.sp.objs.filter fun o => o.space == slot).length, (s.sp.fences.filter fun f => f.space == slot).length)

/-! ### SPACE_CREATE and SPACE_DESTROY (R369 to R371) -/

/-- Sums of the quotas of the slots in use. -/
def quotaSum (s : State) (f : Space → Nat) : Nat := ((s.sp.slots.filter fun x => x.state != 0).map f).foldl (· + ·) 0

/-- The engines whose space mask admits a slot (R52). -/
def slotEngines (s : State) (slot : Nat) : List Nat :=
  (List.range 64).filter fun e => (s.rig.active.bands.getD e (0, 0)).2.getLsbD slot

/-- Save pages that strict slicing reserves for a slot: 6 for a staging image and 3 for band images of each engine (R432). -/
def strictPages (s : State) (slot : Nat) : Nat := 9 * (slotEngines s slot).length

/-- The space that SPC_ARG0 to SPC_ARG2 describe. -/
def argSpace (s : State) (slot : Nat) : Space :=
  let a0 := s.sp.arg0.toNat
  let a1 := s.sp.arg1.toNat
  let a2 := s.sp.arg2.toNat
  { state := 3, party := (s.rig.active.spaces.getD slot {}).party, ctlRange := fld a0 0 5, ctlOffset := fld a0 5 19
    qCtx := fld a1 0 13, qQueue := fld a1 13 11, qObj := fld a1 24 21, qFence := fld a2 0 21, qL2 := fld a2 21 19 }

/-- Whether two runs overlap. -/
def runsMeet (x y : Nat × Nat) : Bool := decide (x.1 < y.2) && decide (y.1 < x.2)

/-- The range of SPACE_CREATE's control area may be mapped by the slot's party (R359). -/
def mayMapParty (s : State) (party n : Nat) : Bool :=
  let c := rangeCfg s n
  c.mode != 0 && (!isShared s || (if party = 255 then c.ownerSet == 0 else c.ownerSet.getLsbD party))

/-- The first condition of Table 14-2 that holds; none where the space may be created. -/
def spaceCreateCheck (s : State) (slot : Nat) : Option Status :=
  let x := argSpace s slot
  let cfg := s.rig.active.spaces.getD slot {}
  let c := rangeCfg s x.ctlRange
  let area := ctlPages s x
  let bytes := ctlBytes x.qCtx x.qQueue x.qObj x.qFence x.qL2
  if s.rig.state = .committing || s.dly.role = .twin || (spaceGet s slot).state != 0 then some .busy
  else if !cfg.creatable then some .badDescriptor
  else if x.qCtx = 0 || x.qQueue = 0 || x.qObj = 0 || x.qFence = 0 || x.qL2 = 0 || 4096 < x.qCtx || 1024 < x.qQueue ||
      1048576 < x.qObj || 1048576 < x.qFence || 262144 < x.qL2 then some .badDescriptor
  else if 4096 < quotaSum s (·.qCtx) + x.qCtx || 1024 < quotaSum s (·.qQueue) + x.qQueue ||
      1048576 < quotaSum s (·.qObj) + x.qObj || 1048576 < quotaSum s (·.qFence) + x.qFence then some .busy
  else if c.mode = 0 || (rangeKey s x.ctlRange).keyless || dataSize c < x.ctlOffset * 2 ^ 21 + bytes then
    some .badDescriptor
  else if !(mayMapParty s cfg.party x.ctlRange) || (usedPages s).any (runsMeet area) then some .flowDenied
  else if s.rig.active.strict &&
      decide (((freePages s x.ctlRange).filter fun p => !(runHas [area] p)).length < strictPages s slot) then some .busy
  else none

/-- Record the outcome of an SPC_CTRL command. -/
def spcStatus (s : State) (slot : Nat) (st : Status) : State :=
  { s with sp := { s.sp with lastStatus := st, lastSlot := slot } }

/-- SPACE_CREATE: the slot reads state 3 until the creation is done; strict slicing reserves its save pages. -/
def spaceCreate (slot : Nat) (s : State) : Answer :=
  match spaceCreateCheck s slot with
  | some st =>
    let s1 := spcStatus s slot st
    ⟨if st = .flowDenied then
        stLog s1 { logBlank with status := .flowDenied, kind := 4, unit := 122, space := slot, range := (argSpace s slot).ctlRange }
      else s1, st, []⟩
  | none =>
    let x := argSpace s slot
    let keep := if s.rig.active.strict then
        (((freePages s x.ctlRange).filter fun p => !(runHas [ctlPages s x] p)).take (strictPages s slot))
      else []
    ⟨spcStatus { s with sp := spaceMod s.sp slot fun y => { x with reserved := keep, aborted := y.aborted, depFailed := y.depFailed, refused := y.refused } } slot .ok, .ok, []⟩

/-- Write zero units over pages, up to the first failure (R370, R376). -/
def zeroPages (w : Who) : List Nat → State → MemWrite
  | [], s => ⟨s, .ok, 255⟩
  | p :: ps, s =>
    let r := writePhys s w (p * 2 ^ 21) (List.replicate (2 ^ 21) 0)
    if r.status = .ok then zeroPages w ps r.st else r

/-- The creation is done: zero entries are written over the control area, and the slot is live; the system space's channel is bound (R407).
Where they cannot be written nothing is left of the space (log entry 119). -/
def spaceCreateDone (slot : Nat) (s : State) : State :=
  let x := spaceGet s slot
  if x.state = 3 && !(filling s x.ctlRange) then
    let area := ctlPages s x
    let z := zeroPages { space := slot } ((List.range (area.2 - area.1)).map (area.1 + ·)) s
    if z.status = .ok then { z.st with sp := spaceMod z.st.sp slot fun y => { y with state := 1, bound := y.party == 255 } }
    else spcStatus { z.st with sp := spaceMod z.st.sp slot fun y => { aborted := y.aborted, depFailed := y.depFailed, refused := y.refused } } slot z.status
  else s

/-! ### Fences (R383 to R389) -/

/-- The fence of a space that a handle names. -/
def fenceGet (s : State) (slot : Nat) (h : BitVec 32) : Option Fence :=
  if h.toNat / 2 ^ 28 = 2 then s.sp.fences.find? fun f => f.idx == h.toNat % 2 ^ 28 && f.space == slot else none

/-- Change a fence. -/
def fenceMod (x : Spaces) (idx : Nat) (f : Fence → Fence) : Spaces :=
  { x with fences := x.fences.map fun y => if y.idx = idx then f y else y }

/-- The handle of a fence. -/
def fenceHandle (idx : Nat) : BitVec 32 := BitVec.ofNat 32 (2 * 2 ^ 28 + idx)

/-- Send the notices a fence owes and forget them: those whose value is reached, all of them once it has failed. -/
def fenceNotices (s : State) (f : Fence) : State :=
  let due := if f.failed then f.notifies else f.notifies.filter fun v => decide (v ≤ f.value)
  let st := if f.failed then Status.aborted else Status.ok
  let s1 := { s with sp := fenceMod s.sp f.idx fun y => { y with notifies := y.notifies.filter fun v => !(due.contains v) } }
  due.foldl (fun t v => sendNotice t f.space (.fence (fenceHandle f.idx) v st)) s1

/-- Signal a value (R383): the maximum stands; a failed fence ignores it. -/
def fenceSignal (s : State) (idx : Nat) (v : Word) : State :=
  let sp := fenceMod s.sp idx fun f => if f.failed || v ≤ f.value then f else { f with value := v }
  let s1 := { s with sp := sp }
  match sp.fences.find? fun f => f.idx == idx with
  | some f => fenceNotices s1 f
  | none => s1

/-- Fail a fence with a record; the first failure's record stays (R388). -/
def fenceFail (s : State) (idx : Nat) (rec : List Byte) : State :=
  let sp := fenceMod s.sp idx fun f => if f.failed then f else { f with failed := true, record := rec }
  let s1 := { s with sp := sp }
  match sp.fences.find? fun f => f.idx == idx with
  | some f => fenceNotices s1 f
  | none => s1

/-- A record with status ABORTED and tag 0 (R387). -/
def abortRecord : List Byte := natLe 2 0x0101 ++ List.replicate 54 0 ++ [0xFF] ++ List.replicate 7 0

/-- Whether an incomplete command of its space, accepted no later than doorbell `door`, names a fence. -/
def fenceNamed (s : State) (f : Fence) (door : Nat) : Bool :=
  s.sp.cmds.any fun c => c.space == f.space && decide (c.door ≤ door) && !c.noFence &&
    (c.waitFence == fenceHandle f.idx || c.sigFence == fenceHandle f.idx)

/-- Destroy a fence (R389): released at once where nothing names it and no notice is pending, else struck. A pending notice goes out
with status ABORTED. -/
def fenceDestroy (s : State) (f : Fence) : State :=
  let held := fenceNamed s f s.sp.doors
  if held || !(f.notifies.isEmpty) then
    let s1 := f.notifies.foldl (fun t v => sendNotice t f.space (.fence (fenceHandle f.idx) v .aborted)) s
    if held then { s1 with sp := fenceMod s1.sp f.idx fun y => { y with struck := true, notifies := [], door := s.sp.doors } }
    else { s1 with sp := { s1.sp with fences := s1.sp.fences.filter fun y => y.idx != f.idx } }
  else { s with sp := { s.sp with fences := s.sp.fences.filter fun y => y.idx != f.idx } }

/-! ### Objects (R375, R390) -/

/-- The memory that a command names (R390); commands on staging and tiles, NOP and TAKE_RECORD name none. -/
def cmdNames (s : State) (c : Cmd) : List (Nat × Nat) :=
  match c.opcode with
  | 0x02 | 0x34 => copyNames s c
  | 0x08 | 0x09 => stageNames s c
  | 0x14 => redInitNames s c
  | 0x15 => redAddNames s c
  | 0x16 => redReadNames s c
  | 0x30 => transposeNames s c
  | 0x31 => indexNames true s c
  | 0x32 => indexNames false s c
  | 0x33 => repackNames s c
  | 0x40 => updNames s c
  | 0x41 => normAccNames s c
  | 0x50 | 0x51 => colNames s c
  | 0x60 => cutNames s c
  | 0x70 => scrubNames s c
  | _ => []

/-- Whether n bytes at a space address touch an object. -/
def objMeets (o : Obj) (v n : Nat) : Bool :=
  n != 0 && o.pages.any fun e => decide (e.vpn ≤ (v + n - 1) / 2 ^ 21) && decide (v / 2 ^ 21 < e.vpn + e.n)

/-- Whether a command may still name an object: its body is not read yet, or some of the memory it names lies in the object. -/
def cmdMayName (s : State) (c : Cmd) (o : Obj) : Bool := c.body.isNone || (cmdNames s c).any fun p => objMeets o p.1 p.2

/-- Whether a command accepted before the free still holds a struck object. -/
def objHeld (s : State) (o : Obj) (door : Nat) : Bool :=
  s.sp.cmds.any fun c => c.space == o.space && decide (c.door ≤ door) && cmdMayName s c o

/-- Release the struck objects and fences that no command holds any more, and the dying queues without commands (R389, R390, R392). -/
def releaseStruck (s : State) : State :=
  { s with sp := { s.sp with
      objs := s.sp.objs.filter fun o =>
        match o.struck with
        | some d => objHeld s o d
        | none => true
      fences := s.sp.fences.filter fun f => !f.struck || fenceNamed s f f.door
      queues := s.sp.queues.filter fun q => !q.dying || s.sp.cmds.any fun c => c.queue == q.idx } }

/-- Free an object (R390). -/
def objFree (s : State) (o : Obj) : State :=
  if objHeld s o s.sp.doors then
    { s with sp := { s.sp with objs := s.sp.objs.map fun y => if y.idx = o.idx then { y with struck := some s.sp.doors } else y } }
  else { s with sp := { s.sp with objs := s.sp.objs.filter fun y => y.idx != o.idx } }

/-- Whether an owner of a request is of the space; some status where the request fails (R375, R387). -/
def ownerCheck (s : State) (slot : Nat) (o : Owner) : Option Status :=
  match o with
  | .space => none
  | .ctx id =>
    match ctxGet s id with
    | some x => if x.space ≠ slot then some .badDescriptor else if x.dying then some .busy else none
    | none => some .badDescriptor

/-- The pages of a space's address that are mapped or struck. -/
def vpnUsed (s : State) (slot vpn : Nat) : Bool := (objAt s slot vpn).isSome

/-- The lowest nonzero space address at which n pages fit (R375). -/
def chooseVpn (s : State) (slot n : Nat) : Option Nat :=
  let step := if 512 ≤ n then 512 else 1
  let used := (s.sp.objs.filter fun o => o.space == slot).flatMap fun o => o.pages.map fun e => (e.vpn, e.vpn + e.n)
  -- the lowest fit starts at the first step or at the first step at or above the end of a used run
  let starts := (step :: (used.map fun r => (r.2 + step - 1) / step * step)).filter fun v => decide (v ≠ 0)
  let ok := starts.filter fun v => decide (v + n ≤ 2 ^ 27) && !(used.any (runsMeet (v, v + n)))
  ok.foldl (fun a v => match a with
    | none => some v
    | some b => some (min b v)) none

/-- OBJ_ALLOC (R375, R376, R390). -/
def objAlloc (slot range size addr : Nat) (owner : Owner) (zero : Bool) (s : State) : Answer :=
  let x := spaceGet s slot
  let n := size / 2 ^ 21
  let bad := ownerCheck s slot owner
  if size = 0 || size % 2 ^ 21 ≠ 0 || addr % 2 ^ 21 ≠ 0 || 2 ^ 48 < addr + size || 31 < range || (rangeCfg s range).mode = 0 ||
      bad = some .badDescriptor then
    ⟨s, .badDescriptor, []⟩
  else if !(mayMap s slot range) then
    ⟨stLog s { logBlank with status := .flowDenied, kind := 4, unit := 122, space := slot, range := range }, .flowDenied, []⟩
  else
    match (if addr = 0 then chooseVpn s slot n else some (addr / 2 ^ 21)) with
    | none => ⟨s, .busy, []⟩
    | some v =>
      let laps := (s.sp.objs.filter fun o => o.space == slot && o.pages.any fun e => runsMeet (v, v + n) (e.vpn, e.vpn + e.n))
      let free := (freePages s range).take n
      let idx := freeIndex s (2 ^ 28) s.sp.objs.length fun i => s.sp.objs.any fun o => o.idx == i
      let o : Obj := { idx := idx, space := slot, owner := owner, range := range, vpn := v, pages := extentsOf v free, struck := none }
      if laps.any (fun y => y.struck.isSome) then ⟨s, .objectStruck, []⟩
      else if !laps.isEmpty then ⟨s, .badDescriptor, []⟩
      else if bad.isSome || decide (x.qObj ≤ (useOf s slot).2.2.1) || decide (free.length < n) ||
          decide (x.qL2 < l2Used (o :: s.sp.objs) slot) then ⟨s, .busy, []⟩
      else
        let z := if zero then zeroPages { space := slot } free s else ⟨s, .ok, 255⟩
        if z.status ≠ .ok then ⟨z.st, z.status, []⟩
        else
          ⟨freeUse { z.st with sp := { z.st.sp with objs := o :: z.st.sp.objs } } 1, .ok,
            natLe 4 (2 ^ 28 + idx) ++ natLe 8 (v * 2 ^ 21)⟩

/-- The object of a space that a handle names. -/
def objGet (s : State) (slot : Nat) (h : BitVec 32) : Option Obj :=
  if h.toNat / 2 ^ 28 = 1 then s.sp.objs.find? fun o => o.idx == h.toNat % 2 ^ 28 && o.space == slot else none

/-! ### Contexts (R391, R392, R479) -/

/-- The rushes fields are in range (R479). -/
def rushesOk (r : Rushes) : Bool := decide (r.n ≤ 20) && decide (r.ref ≤ 1) && decide (1 ≤ r.thresh) && decide (r.thresh ≤ 15)

/-- CTX_CREATE. -/
def ctxCreate (slot : Nat) (r : Rushes) (s : State) : Answer :=
  if !(rushesOk r) then ⟨s, .badDescriptor, []⟩
  else if (spaceGet s slot).qCtx ≤ (useOf s slot).1 then ⟨s, .busy, []⟩
  else
    let id := freeIndex s 4096 s.sp.ctxs.length fun i => s.sp.ctxs.any fun c => c.id == i
    let res := decide ((s.sp.ctxs.filter (·.resident)).length < 64)
    ⟨freeUse { s with sp := { s.sp with ctxs := s.sp.ctxs ++ [{ id := id, space := slot, rushes := r, resident := res }] } } 1, .ok, natLe 2 id⟩

/-- The context of a space that a request names, or the status with which the request fails (R387). -/
def ctxNamed (s : State) (slot id : Nat) : Except Status Ctx :=
  match ctxGet s id with
  | some x => if x.space ≠ slot then .error .badDescriptor else if x.dying then .error .busy else .ok x
  | none => .error .badDescriptor

/-- CTX_SET: the rushes fields of tiles admitted afterwards. -/
def ctxSet (slot id : Nat) (r : Rushes) (s : State) : Answer :=
  match ctxNamed s slot id with
  | .error .badDescriptor => ⟨s, .badDescriptor, []⟩
  | .error st => if rushesOk r then ⟨s, st, []⟩ else ⟨s, .badDescriptor, []⟩
  | .ok _ =>
    if rushesOk r then ⟨{ s with sp := ctxMod s.sp id fun x => { x with rushes := r } }, .ok, []⟩ else ⟨s, .badDescriptor, []⟩

/-- Bytes of the objects a context owns. -/
def ctxBytes (s : State) (id : Nat) : Nat :=
  ((s.sp.objs.filter fun o => o.owner == .ctx id).flatMap fun o => o.pages.map fun e => e.n * 2 ^ 21).foldl (· + ·) 0

/-- Bytes resident for a context (R394, R428): its band images' parts of their save pages, and the staging
regions and tiles, on die or in a staging image, that hold its contents. -/
def ctxResident (s : State) (x : Ctx) : Nat :=
  let part := fun (e : Nat) (stg tile : List (Option Nat)) =>
    ((List.range (bandCount s e)).map fun b =>
      (if stg.getD b none = some x.id then 2 ^ 23 / bandCount s e else 0) +
        if tile.getD b none = some x.id then 2 ^ 22 / bandCount s e else 0).foldl (· + ·) 0
  let images := s.array.images.map fun i =>
    if i.ctx = some x.id then i.pages.length * 2 ^ 21 / bandCount s i.engine
    else if i.ctx.isNone then part i.engine i.stgCtx i.tileCtx else 0
  let held := s.array.engines.zipIdx.map fun e => part e.2 e.1.stgCtx e.1.tileCtx
  (images ++ held).foldl (· + ·) 0

/-- The 256-byte record of CTX_QUERY (R394). -/
def ctxRecord (s : State) (x : Ctx) : List Byte :=
  ((List.range 5).flatMap fun k => natLe 8 (x.busy.getD k 0)) ++ natLe 8 x.energyUj ++ natLe 8 (ctxBytes s x.id) ++
  natLe 8 (ctxResident s x) ++ natLe 8 x.hbmRead ++ natLe 8 x.hbmWritten ++ natLe 1 x.mask.toNat ++
  natLe 4 x.checked ++ natLe 4 x.skipped ++ List.replicate 39 0 ++
  ((List.range 16).flatMap fun k => natLe 4 (x.bins.getD k 0)) ++ List.replicate 64 0

/-- CTX_QUERY. -/
def ctxQuery (slot id : Nat) (s : State) : Answer :=
  match ctxNamed s slot id with
  | .error st => ⟨s, st, []⟩
  | .ok x => ⟨s, .ok, ctxRecord s x⟩

/-! ### Queues and doorbells (R377 to R381) -/

/-- Whether n bytes at a space address lie in objects of the space. -/
def spanMapped (s : State) (slot v n : Nat) : Bool := decide (v + n ≤ 2 ^ 48) && (pagesOf v n).all fun p => (objAt s slot p).isSome

/-- Whether part of a span lies in a struck object. -/
def spanStruck (s : State) (slot v n : Nat) : Bool :=
  (pagesOf v n).any fun p => (objAt s slot p).any fun e => e.1.struck.isSome

/-- Powers of two from 64 to 65,536. -/
def entriesOk (n : Nat) : Bool := (List.range 11).any fun k => n == 2 ^ (k + 6)

/-- Q_CREATE (R377, R479). Which grip the Gaffer assigns to it is free (R181, log entry 33). -/
def qCreate (slot ringAddr entries compAddr version : Nat) (s : State) : Answer :=
  if !(entriesOk entries) || (version != 1 && version != 2) || ringAddr % 64 != 0 || compAddr % 64 != 0 ||
      !(spanMapped s slot ringAddr (entries * 64)) || !(spanMapped s slot compAddr (entries * 64)) then ⟨s, .badDescriptor, []⟩
  else if spanStruck s slot ringAddr (entries * 64) || spanStruck s slot compAddr (entries * 64) then ⟨s, .objectStruck, []⟩
  else if (spaceGet s slot).qQueue ≤ (useOf s slot).2.1 then ⟨s, .busy, []⟩
  else
    let idx := freeIndex s 1024 s.sp.queues.length fun i => s.sp.queues.any fun q => q.idx == i
    let q : Queue := { idx := idx, space := slot, ring := ringAddr, entries := entries, comp := compAddr, version := version
                       producer := 0, doneIdx := 0, doneAhead := [], grip := (freeAt s 1).toNat % 80 }
    ⟨freeUse { s with sp := { s.sp with queues := s.sp.queues ++ [q] } } 2, .ok, natLe 4 (3 * 2 ^ 28 + idx)⟩

/-- The queue of a space that a handle names. -/
def queueGet (s : State) (slot : Nat) (h : BitVec 32) : Option Queue :=
  if h.toNat / 2 ^ 28 = 3 then s.sp.queues.find? fun q => q.idx == h.toNat % 2 ^ 28 && q.space == slot else none

/-- Change a queue. -/
def queueMod (x : Spaces) (idx : Nat) (f : Queue → Queue) : Spaces :=
  { x with queues := x.queues.map fun q => if q.idx = idx then f q else q }

/-- The opcodes of Table 14-6. -/
def opcodeKnown (o : Nat) : Bool :=
  [0x00, 0x02, 0x08, 0x09, 0x10, 0x14, 0x15, 0x16, 0x20, 0x21, 0x22, 0x30, 0x31, 0x32, 0x33, 0x34, 0x40, 0x41, 0x50, 0x51,
    0x60, 0x61, 0x70].contains o

/-- The opcodes marked v1. -/
def opcodeV1 (o : Nat) : Bool := [0x00, 0x02, 0x08, 0x09].contains o

/-- A command from a descriptor header of version 2 (Table 14-5) or 1 (R380), and whether a reserved bit is set. -/
def headerOf (v1 : Bool) (h : Nat) : Cmd × Bool :=
  let base : Cmd :=
    { id := 0, space := 0, queue := 0, index := 0, ctx := fld h 16 12, opcode := fld h 0 8, serial := h.testBit 8
      quiet := h.testBit 9, notify := h.testBit 10, energy := fld h 28 4, v1 := false
      waitFence := BitVec.ofNat 32 (fld h 32 32), waitValue := BitVec.ofNat 64 (fld h 64 64)
      sigFence := BitVec.ofNat 32 (fld h 128 32), sigValue := BitVec.ofNat 64 (fld h 160 64)
      body := none, phase := .accepted, point := 0, door := 0, noFence := false }
  if v1 then
    ({ base with
      ctx := fld h 16 10, notify := false, energy := 15, v1 := true, waitValue := BitVec.ofNat 64 (fld h 64 32)
      sigValue := BitVec.ofNat 64 (fld h 160 32) },
      fld h 10 6 != 0 || fld h 26 6 != 0 || fld h 96 32 != 0 || fld h 192 32 != 0)
  else (base, fld h 11 5 != 0)

/-- A fence handle of a header: none where it is in order (R381). -/
def handleCheck (s : State) (slot : Nat) (h : BitVec 32) : Option Status :=
  if h = 0 then none
  else
    match fenceGet s slot h with
    | none => some .badDescriptor
    | some f => if f.struck then some .objectStruck else none

/-- The check of a header at acceptance (R381, R380, R392): the status with which the command ends without running. -/
def headerCheck (s : State) (slot : Nat) (c : Cmd) (resv : Bool) : Option Status :=
  match ctxGet s c.ctx with
  | some x =>
    if resv || !(opcodeKnown c.opcode) || (c.v1 && !(opcodeV1 c.opcode)) || x.space ≠ slot then some .badDescriptor
    else
      match handleCheck s slot c.waitFence, handleCheck s slot c.sigFence with
      | some .badDescriptor, _ => some .badDescriptor
      | _, some .badDescriptor => some .badDescriptor
      | some st, _ => some st
      | none, some st => some st
      | none, none => if x.dying then some .aborted else none
  | none => some .badDescriptor

/-- Read one descriptor's bytes [lo, lo + n), all in one page; BAD_DESCRIPTOR where the page is not valid any more (R374). -/
def ringRead (s : State) (q : Queue) (i : BitVec 32) (lo n : Nat) : MemRead :=
  let runs := xlateRuns s q.space (q.ring + 64 * (i.toNat % q.entries) + lo) n
  if runs.isEmpty then ⟨s, .badDescriptor, [], 255⟩ else readRuns { space := q.space } runs s

/-- Accept the descriptor at producer index i (R378, R381). On a queue that is being destroyed a command in order ends ABORTED (R392, step
1). -/
def acceptOne (s : State) (q : Queue) (i : BitVec 32) : State :=
  let r := ringRead s q i 0 28
  let id := r.st.sp.nextCid
  let put := fun (c : Cmd) (t : State) =>
    { t with sp := { t.sp with
        cmds := t.sp.cmds ++ [{ c with id := id, space := q.space, queue := q.idx, index := i, door := t.sp.doors }]
        nextCid := id + 1 } }
  if r.status = .ok then
    let h := headerOf (q.version = 1) (leNat r.bytes)
    let v1bad := q.version = 1 && !(opcodeV1 h.1.opcode)
    let t := if q.version = 1 then
        { r.st with sp := { r.st.sp with
            cmpAccepted := if v1bad then r.st.sp.cmpAccepted else satAdd 32 r.st.sp.cmpAccepted 1
            cmpRefused := if v1bad then satAdd 32 r.st.sp.cmpRefused 1 else r.st.sp.cmpRefused } }
      else r.st
    match (headerCheck t q.space h.1 h.2).or (if q.dying then some .aborted else none) with
    | none => put h.1 t
    | some st =>
      put { h.1 with phase := .finished (resultOf st) }
        (if isCollective h.1 then { t with col := { t.col with failed := t.col.failed + 1 } } else t)
  else
    let dead := (headerOf false 0xFE).1
    put { dead with noFence := true, phase := .finished (resultRange r.status r.range) } r.st

/-- Accept n descriptors from an index up. -/
def acceptRun : Nat → Queue → BitVec 32 → State → State
  | 0, _, _, s => s
  | n + 1, q, i, s => acceptRun n q (i + 1) (acceptOne s q i)

/-- Whether a command's wait is met, with the fence as it stands: none where it is not yet decided (R384). -/
def waitState (s : State) (c : Cmd) : Option Bool :=
  if c.waitFence = 0 then some true
  else
    match s.sp.fences.find? fun f => fenceHandle f.idx == c.waitFence with
    | none => some false
    | some f => if f.failed then some false else if c.waitValue ≤ f.value then some true else none

/-- Evaluate the wait of one accepted command: its body is read when the wait is met; a failed fence ends it with DEP_FAILED
(R378, R384, R388). A wait that is met while the ring is being filled stays met. -/
def evalWait (s : State) (cid : Nat) : State :=
  match cmdGet s cid with
  | none => s
  | some c =>
    if c.phase = .accepted && c.body.isNone then
      match if c.met then some true else waitState s c with
      | none => s
      | some false => cmdFail s c (resultOf .depFailed)
      | some true =>
        match s.sp.queues.find? fun q => q.idx == c.queue with
        | none => s
        | some q =>
          let r := ringRead s q c.index 28 36
          if spansFill s q.space [(q.ring, 64 * q.entries)] then { s with sp := cmdMod s.sp cid fun x => { x with met := true } }
          else if r.status = .ok then
            { r.st with sp := cmdMod r.st.sp cid fun x => { x with body := some (BitVec.ofNat 288 (leNat r.bytes)) } }
          else cmdFail r.st c (resultRange r.status r.range)
    else s

/-- Evaluate every wait: at a doorbell, at a signal or failure, and at an admission pass (R384, R425). -/
def evalWaits (s : State) : State := (s.sp.cmds.map (·.id)).foldl evalWait s

/-- DOORBELL (R378). -/
def doorbell (slot : Nat) (h : BitVec 32) (j : BitVec 32) (s : State) : Answer :=
  match queueGet s slot h with
  | none => ⟨s, .badDescriptor, []⟩
  | some q =>
    let n := (j - q.producer).toNat
    if q.entries < (j - q.doneIdx).toNat || n = 0 || q.entries < n then ⟨s, .busy, []⟩
    else
      let s1 := { s with sp := { queueMod s.sp q.idx (fun x => { x with producer := j }) with doors := s.sp.doors + 1 } }
      ⟨evalWaits (acceptRun n q q.producer s1), .ok, []⟩

/-! ### Completion (R384, R388, R393, R420) -/

/-- The clock of a point of a Basecamp core or Reel service island, in MHz (Table 16-2). -/
def coreMhz (k : Nat) : Nat := [500, 600, 700, 800, 900, 1000, 1100, 1250].getD k 1250

/-- The clock, in MHz, of the island that runs a command, an engine's at point k: an engine's, the Basecamp core's, or an HBM
controller's. -/
def cmdMhz (s : State) (c : Cmd) (k : Nat) : Nat :=
  if onEngine c.opcode then engineMhz k
  else if [0x50, 0x51, 0x60, 0x61].contains c.opcode then coreMhz (s.gaf.islands.getD 122 {}).point else 2000

/-- The point in use on the island of a command's engine. -/
def cmdPoint (s : State) (c : Cmd) : Nat := (s.gaf.islands.getD ((engineNamed c).getD 0) {}).point

/-- Power of a completed command in mW at point 6: its energy over its busy time (R420). -/
def cmdPower (s : State) (c : Cmd) (busy energyUj : Nat) : Nat :=
  if busy = 0 then 0
  else
    let mw := energyUj * cmdMhz s c (cmdPoint s c) * 1000 / busy
    if onEngine c.opcode then mw * 1000 / relPower (cmdPoint s c) else mw

/-- The estimate after one more sample: E + (p − E)/16, from P(c) at the start. -/
def estUpdate (l : List Estimate) (opcode energy p busy : Nat) : List Estimate :=
  match l.find? fun e => e.opcode == opcode && e.energy == energy with
  | some e =>
    l.map fun x => if x.opcode = opcode && x.energy = energy then { x with mw := (15 * e.mw + p) / 16, n := e.n + 1, busy := e.busy + busy } else x
  | none => { opcode := opcode, energy := energy, mw := (15 * classMw energy + p) / 16, n := 1, busy := busy } :: l

/-- Which of the five busy counts of CTX_QUERY a command's cycles go to (R394). -/
def busyKind (opcode : Nat) : Option Nat :=
  if opcode = 0x10 then some 0
  else if [0x20, 0x21, 0x22, 0x40, 0x41].contains opcode then some 1
  else if [0x02, 0x08, 0x09, 0x30, 0x31, 0x32, 0x33, 0x34].contains opcode then some 2
  else if [0x14, 0x15, 0x16].contains opcode then some 3
  else if [0x50, 0x51].contains opcode then some 4 else none

/-- The 64 bytes of a completion record (Table 14-8). -/
def recordOf (c : Cmd) (r : Result) (busy energyUj : Nat) : List Byte :=
  let tag := packBits [(c.index.toNat, 32), (c.queue, 10), (if c.noFence then 0 else c.ctx, 12), (c.opcode, 8), (0, 2)]
  let fence := if r.status = .depFailed then c.waitFence.toNat else c.sigValue.toNat
  natLe 2 (statusCode r.status) ++ natLe 2 r.events.toNat ++ natLe 8 tag ++ natLe 8 fence ++ natLe 1 r.engine ++
    natLe 1 r.tile ++ natLe 4 r.row ++ natLe 2 r.col ++ natLe 4 r.invalid ++ natLe 4 r.clip ++ natLe 4 r.floor ++
    natLe 8 energyUj ++ natLe 8 busy ++ natLe 1 r.range ++ natLe 1 r.band ++ List.replicate 6 0

/-- A memory status (Table 18-1, 0x03xx). -/
def memStatus (st : Status) : Bool :=
  st == .memUncorrectable || st == .memIntegrity || st == .memUnverifiable || st == .counterExhausted

/-- The completed index after index i completes: it moves past every index already completed (log entry 32). -/
def queueDone : Nat → Queue → Queue
  | 0, q => q
  | fuel + 1, q =>
    if q.doneAhead.contains q.doneIdx then
      queueDone fuel { q with doneIdx := q.doneIdx + 1, doneAhead := q.doneAhead.filter (· != q.doneIdx) }
    else q

/-- Log a command that failed by WATCHDOG, BUDGET_REFUSED, a memory status or the owner-set rule (Table 18-7). -/
def logCmd (s : State) (c : Cmd) (r : Result) : State :=
  let base := { logBlank with
    status := r.status, space := c.space, range := r.range
    context := if r.range < 33 then logCtx s r.range (whoOf c) else if c.noFence then 0 else c.ctx }
  if r.status = .watchdog || r.status = .budgetRefused || memStatus r.status || (c.noFence && r.status = .keyAbsent) then
    stLog s { base with kind := 15, detail := c.opcode }
  else if r.status = .flowDenied then stLog s { base with kind := 4, detail := (ctxMask s c.ctx).toNat }
  else s

/-- Write a record to the completion ring; one that cannot be written is lost and logged (R393). -/
def putRecord (s : State) (c : Cmd) (rec : List Byte) : State :=
  match s.sp.queues.find? fun q => q.idx == c.queue with
  | none => s
  | some q =>
    let v := q.comp + 64 * (c.index.toNat % q.entries)
    let runs := xlateRuns s q.space v 64
    let w := writeRuns false { space := q.space, ctx := c.ctx } runs rec s
    if w.status = .ok && decide (runs ≠ []) then w.st
    else
      let t := { w.st with err := { w.st.err with recordsLost := satAdd 32 w.st.err.recordsLost 1 } }
      stLog t { logBlank with status := w.status, kind := 14, space := c.space, context := c.ctx, detail := c.queue }

/-- A context chosen to leave residency leaves it when its last running command has completed (R429). -/
def leaveResidency (sp : Spaces) (ctx : Nat) : Spaces :=
  if sp.cmds.any fun c => c.ctx == ctx && cmdBusy c then sp
  else ctxMod sp ctx fun x => if x.leaving then { x with leaving := false, resident := false, age := 0 } else x

/-- Fences and objects that a context owns end with it (R392 step 4). -/
def ctxOwned (s : State) (id : Nat) : State :=
  let fs := s.sp.fences.filter fun f => f.owner == .ctx id
  let s1 := fs.foldl (fun t f => fenceFail t f.idx abortRecord) s
  let s2 := fs.foldl (fun t f => fenceDestroy t { f with notifies := [] }) s1
  let os := s2.sp.objs.filter fun o => o.owner == .ctx id && o.struck.isNone
  os.foldl objFree s2

/-- Steps 4 and 5 of Table 14-7 for a context: what it owns ends, its save images and what the engines hold for it are discarded, and it
is released. -/
def ctxGone (s : State) (x : Ctx) : State :=
  let t := ctxOwned s x.id
  let drop := fun (l : List (Option Nat)) => l.map fun o => if o = some x.id then none else o
  { t with
    sp := { t.sp with ctxs := t.sp.ctxs.filter fun y => y.id != x.id }
    array := { t.array with
      images := t.array.images.filter fun i => i.ctx != some x.id
      engines := t.array.engines.map fun e => { e with stgCtx := drop e.stgCtx, tileCtx := drop e.tileCtx } } }

/-- Destroy the dying contexts of which no command is left (R392). -/
def endContexts (s : State) : State :=
  (s.sp.ctxs.filter fun x => x.dying && !(s.sp.cmds.any fun c => c.ctx == x.id && c.space == x.space)).foldl ctxGone s

/-- The effects of a command's completion (R384, R388, R393): record, notice, fence, counts, estimates, release of struck
objects, and the queue's completed index. -/
def completeCmd (s : State) (c : Cmd) (r : Result) (busy energyUj : Nat) : State :=
  let rec_ := recordOf c r busy energyUj
  let silent := c.quiet && r.status = .ok && r.events = 0
  let s1 := if silent then s else putRecord s c rec_
  let s2 := logCmd s1 c r
  let s3 := { s2 with sp := { s2.sp with cmds := s2.sp.cmds.filter fun x => x.id != c.id } }
  let s4 :=
    if c.noFence || c.sigFence = 0 then s3
    else
      match fenceGet s3 c.space c.sigFence with
      | none => s3
      | some f => if statusGood r.status then fenceSignal s3 f.idx c.sigValue else fenceFail s3 f.idx rec_
  let s5 := if c.notify then sendNotice s4 c.space (.record rec_) else s4
  let p := cmdPower s c busy energyUj
  let sp := ctxMod s5.sp c.ctx fun x =>
    { x with
      energyUj := x.energyUj + energyUj
      busy := match busyKind c.opcode with
        | some k => modAt x.busy k (· + busy)
        | none => x.busy
      ests := if busy = 0 then x.ests else estUpdate x.ests c.opcode c.energy p busy }
  let sp := spaceMod sp c.space fun x =>
    { x with
      aborted := if r.status = .aborted then satAdd 32 x.aborted 1 else x.aborted
      depFailed := if r.status = .depFailed then satAdd 32 x.depFailed 1 else x.depFailed
      pending := if x.pending = some c.id then none else x.pending }
  let sp := queueMod sp c.queue fun q =>
    queueDone (q.doneAhead.length + 1) { q with doneAhead := c.index :: q.doneAhead }
  let s6 := { s5 with sp := leaveResidency sp c.ctx }
  evalWaits (releaseStruck (endContexts (evalWaits s6)))

/-- Whether a command's record lies in a range that is being filled: it waits for the end of the fill (R308). -/
def recordWaits (s : State) (c : Cmd) : Bool :=
  s.sp.queues.any fun q => q.idx == c.queue && spansFill s q.space [(q.comp + 64 * (c.index.toNat % q.entries), 64)]

/-- COMMAND_COMPLETE: only a command that has ended completes, and a checked one after its rushes check (R179). `energyUj` is its share of its
island's energy since the last crossing sample, `busy` its busy cycles; what earlier samples and the charges per byte attributed to it is
added (R420). -/
def commandComplete (cid busy energyUj : Nat) (s : State) : State :=
  match cmdGet s cid with
  | some c =>
    match c.phase with
    | .finished r =>
      if (s.array.rush.any fun j => j.cid == cid) || recordWaits s c then s else completeCmd s c r busy (c.pj / 10 ^ 6 + energyUj)
    | _ => s
  | none => s

/-! ### Destruction of contexts and queues (R392) -/

/-- The image of a pre-empted command that ends without resuming: its output elements become unspecified (R118, R119), in the band where
its tiles are back there, else in the image, which stays for its context. -/
def dropImage (s : State) (c : Cmd) : State :=
  match s.array.images.find? fun i => i.cid == some c.id with
  | none => s
  | some i =>
    let rest := s.array.images.erase i
    if i.loaded then mmLose { s with array := { s.array with images := rest } } c
    else
      let b := mmBody (cmdBody c)
      let x := bandAt s b.engine b.band
      let lo := tileKey x.engine (bandTile x 0) 0 0
      let t := tileSpoil { s with array := { s.array with tiles := smPlace 0 [] lo i.tiles } } x b.base b.m b.n
      { s with
        freeCtr := t.freeCtr
        array := { s.array with images := rest ++ [{ i with
          cid := none, tiles := smPart t.array.tiles lo (lo + bandTiles x * 2 ^ 16), partials := [], chains := [], progress := {} }] } }

/-- What commands that a test picks have saved or running goes with them: save images and rushes checks. -/
def dropWork (s : State) (f : Cmd → Bool) : State :=
  let gone := s.sp.cmds.filter f
  let t := gone.foldl dropImage s
  { t with array := { t.array with rush := t.array.rush.filter fun j => !(gone.any fun c => c.id == j.cid) } }

/-- A running command meets its abort: an UPDATE at a granule boundary (R195), a MATMUL with unspecified output elements (R119). -/
def abortRun (s : State) (c : Cmd) : State := if c.opcode = 0x40 then updRun s c noSramErr (some .aborted) else mmSpoil s c

/-- An aborted command that had not started completes at once, with no cycle and no energy used (R392, step 2). -/
def abortIdle (s : State) (c : Cmd) : State :=
  match cmdGet s c.id with
  | some x => if x.phase = .accepted then completeCmd s x (resultOf .aborted) 0 0 else s
  | none => s

/-- Abort the commands that a test picks (R392, steps 2 and 3): those not started complete ABORTED in producer-index order; those in flight
end ABORTED, each with what a unit leaves of it. Other partial writes stand as they are (log entry 41). -/
def abortCmds (s : State) (f : Cmd → Bool) : State :=
  let s0 := (s.sp.cmds.filter fun c => f c && cmdRunning c).foldl abortRun s
  let s1 := dropWork s0 fun c => f c && cmdLive c
  let idle := s1.sp.cmds.filter fun c => f c && cmdLive c && isCollective c && (slotOf s1 c.id).isNone
  let t := idle.foldl colSkip s1
  let s2 := sweep { t with
    sp := endCmds t.sp (fun c => f c && c.phase != .accepted) .aborted, col := { t.col with failed := t.col.failed + idle.length } }
  (s2.sp.cmds.filter fun c => f c && c.phase == .accepted).foldl abortIdle s2

/-- CTX_DESTROY (Table 14-7): the context is dying until its last command has completed. -/
def ctxDestroy (slot id : Nat) (s : State) : Answer :=
  match ctxNamed s slot id with
  | .error st => ⟨s, st, []⟩
  | .ok _ =>
    let s1 := { s with sp := ctxMod s.sp id fun x => { x with dying := true } }
    ⟨evalWaits (releaseStruck (endContexts (abortCmds s1 fun c => c.ctx == id && c.space == slot))), .ok, []⟩

/-- Q_DESTROY: its commands end as at CTX_DESTROY, and the queue is gone when the last of them has completed; until then another Q_DESTROY of
it is BUSY (log entry 134). -/
def qDestroy (slot : Nat) (h : BitVec 32) (s : State) : Answer :=
  match queueGet s slot h with
  | none => ⟨s, .badDescriptor, []⟩
  | some q =>
    if q.dying then ⟨s, .busy, []⟩ else
    let s1 := { s with sp := { s.sp with
      queues := s.sp.queues.map fun x => if x.idx = q.idx then { x with dying := true } else x } }
    ⟨evalWaits (releaseStruck (endContexts (abortCmds s1 fun c => c.queue == q.idx && c.space == slot))), .ok, []⟩

/-! ### Fence requests (R387) -/

/-- FENCE_CREATE (R383). -/
def fenceCreate (slot : Nat) (owner : Owner) (v : Word) (s : State) : Answer :=
  match ownerCheck s slot owner with
  | some st => ⟨s, st, []⟩
  | none =>
    if (spaceGet s slot).qFence ≤ (useOf s slot).2.2.2 then ⟨s, .busy, []⟩
    else
      let idx := freeIndex s (2 ^ 28) s.sp.fences.length fun i => s.sp.fences.any fun f => f.idx == i
      let f : Fence := { idx := idx, space := slot, owner := owner, value := v, failed := false, record := List.replicate 64 0
                         struck := false, notifies := [] }
      ⟨freeUse { s with sp := { s.sp with fences := s.sp.fences ++ [f] } } 1, .ok, natLe 4 (2 * 2 ^ 28 + idx)⟩

/-- The fence a request names, struck ones refused (R387). -/
def fenceNamedBy (s : State) (slot : Nat) (h : BitVec 32) : Except Status Fence :=
  match fenceGet s slot h with
  | none => .error .badDescriptor
  | some f => if f.struck then .error .objectStruck else .ok f

/-- FENCE_DESTROY. -/
def fenceDestroyReq (slot : Nat) (h : BitVec 32) (s : State) : Answer :=
  match fenceNamedBy s slot h with
  | .error st => ⟨s, st, []⟩
  | .ok f => ⟨fenceDestroy s f, .ok, []⟩

/-- FENCE_SIGNAL: to a failed fence DEP_FAILED, and nothing changes. -/
def fenceSignalReq (slot : Nat) (h : BitVec 32) (v : Word) (s : State) : Answer :=
  match fenceNamedBy s slot h with
  | .error st => ⟨s, st, []⟩
  | .ok f => if f.failed then ⟨s, .depFailed, []⟩ else ⟨evalWaits (fenceSignal s f.idx v), .ok, []⟩

/-- FENCE_FAIL. -/
def fenceFailReq (slot : Nat) (h : BitVec 32) (s : State) : Answer :=
  match fenceNamedBy s slot h with
  | .error st => ⟨s, st, []⟩
  | .ok f => ⟨evalWaits (fenceFail s f.idx abortRecord), .ok, []⟩

/-- FENCE_QUERY: value, state, and the copied record of a failed fence. -/
def fenceQuery (slot : Nat) (h : BitVec 32) (s : State) : Answer :=
  match fenceGet s slot h with
  | none => ⟨s, .badDescriptor, []⟩
  | some f => ⟨s, .ok, natLe 8 f.value.toNat ++ natLe 1 (b2n f.failed) ++ if f.failed then f.record else []⟩

/-- FENCE_NOTIFY: one notice when the value is reached or the fence fails. -/
def fenceNotify (slot : Nat) (h : BitVec 32) (v : Word) (s : State) : Answer :=
  match fenceNamedBy s slot h with
  | .error st => ⟨s, st, []⟩
  | .ok f =>
    let f' := { f with notifies := f.notifies ++ [v] }
    ⟨fenceNotices { s with sp := fenceMod s.sp f.idx fun _ => f' } f', .ok, []⟩

/-! ### Requests on a space channel (R395, R407) -/

/-- The effect of a request of a space (Table 14-9a). -/
def spaceDo (slot : Nat) (r : SpaceReq) (s : State) : Answer :=
  match r with
  | .ctxCreate x => ctxCreate slot x s
  | .ctxDestroy c => ctxDestroy slot c s
  | .ctxSet c x => ctxSet slot c x s
  | .ctxQuery c => ctxQuery slot c s
  | .qCreate ra n ca v => qCreate slot ra n ca v s
  | .qDestroy q => qDestroy slot q s
  | .doorbell q j => doorbell slot q j s
  | .objAlloc rg sz a o z => objAlloc slot rg sz a o z s
  | .objFree h =>
    match objGet s slot h with
    | none => ⟨s, .badDescriptor, []⟩
    | some o => if o.struck.isSome then ⟨s, .objectStruck, []⟩ else ⟨objFree s o, .ok, []⟩
  | .fenceCreate o v => fenceCreate slot o v s
  | .fenceDestroy f => fenceDestroyReq slot f s
  | .fenceSignal f v => fenceSignalReq slot f v s
  | .fenceFail f => fenceFailReq slot f s
  | .fenceQuery f => fenceQuery slot f s
  | .fenceNotify f v => fenceNotify slot f v s

/-- The reply of a space request: under the port session for the system space, as a PARTY message under k_out for a party's. -/
def spaceReply (s : State) (ch : Chan) (st : Status) (data : List Byte) : State :=
  match spaceParty s ch.slot with
  | none => sendMsg s ch.port (.reply (1 + ch.slot) ch.tag st data)
  | some q =>
    match s.keys.channels[q]? with
    | some c => chanSent (sendMsg s ch.port (.party (1 + ch.slot) q c.nextOut ch.tag st data)) q
    | none => s

/-- The effect of a request and its reply. -/
def requestDo (ch : Chan) (r : SpaceReq) (s : State) : State :=
  let a := spaceDo ch.slot r s
  spaceReply a.st ch a.status a.data

/-- Whether a queue's ring lies in a range that is being filled: its doorbells wait for the end of the fill (R308). -/
def ringFills (s : State) (slot : Nat) (h : BitVec 32) : Bool :=
  (queueGet s slot h).any fun q => spansFill s slot [(q.ring, 64 * q.entries)]

/-- The row that a request waits as: a doorbell whose ring is being filled. -/
def waitingRow (s : State) (ch : Chan) (r : SpaceReq) : Option Instr :=
  match r with
  | .doorbell q j => if ringFills s ch.slot q then some (.doorbell ch q j) else none
  | _ => none

/-- A request of a bound space, once its message is taken: BUSY while the space is being destroyed; else its effect and its reply. -/
def requestTaken (ch : Chan) (r : SpaceReq) (s : State) : State :=
  if (spaceGet s ch.slot).state ≠ 1 then spaceReply s ch .busy []
  else
    let s1 := { s with sp := spaceMod s.sp ch.slot fun x => { x with port := ch.port } }
    match waitingRow s ch r with
    | some row => holdAccess s1 row
    | none => requestDo ch r s1

/-- A request on a space channel (R371, R407, R410, R413): nothing unless the ring is locked and the session live; discarded and counted on an
unbound channel. The system space takes requests under the port session alone, a party's space those in a PARTY message of its party; any
other message is discarded and counted. -/
def spaceRequest (ch : Chan) (r : SpaceReq) (s : State) : State :=
  if !(heard s.lmx ch.port) then s
  else if !(spaceGet s ch.slot).bound then refuseMsg s ch.port
  else
    match spaceParty s ch.slot, ch.auth with
    | none, none => requestTaken ch r s
    | some q, some (p, m) => if p = q then partyTake q m (requestTaken ch r) s else refuseMsg s ch.port
    | _, _ => refuseMsg s ch.port

/-! ### Destruction of a space (R371) -/

/-- SPACE_DESTROY steps 1 and 2: the slot reads state 2; every context is destroyed. -/
def spaceDestroy (slot : Nat) (s : State) : Answer :=
  let x := spaceGet s slot
  if x.state = 0 then ⟨spcStatus s slot .badDescriptor, .badDescriptor, []⟩
  else if x.state ≠ 1 then ⟨spcStatus s slot .busy, .busy, []⟩
  else
    let s1 := spcStatus { s with sp := spaceMod s.sp slot fun y => { y with state := 2 } } slot .ok
    let s2 := { s1 with sp := { s1.sp with
        ctxs := s1.sp.ctxs.map fun c => if c.space = slot then { c with dying := true } else c } }
    ⟨evalWaits (releaseStruck (endContexts (abortCmds s2 fun c => c.space == slot))), .ok, []⟩

/-- Steps 3 to 5, once no command of the space remains: its objects, queues and fences are released, slots are struck, the slot is free. What
the space left on an engine is held by no space, and neither saved nor handed over (R371, R431, R435). The counts of its slot stay until
they are read (Tables 14-11, 16-5); notices still held are dropped and counted (R410). -/
def spaceDestroyDone (slot : Nat) (s : State) : State :=
  let x := spaceGet s slot
  if x.state = 2 && !(s.sp.cmds.any fun c => c.space == slot) then
    let s1 := (s.sp.fences.filter fun f => f.space == slot).foldl fenceDestroy s
    let s2 := { s1 with
      sp := { spaceMod s1.sp slot (fun y => { aborted := y.aborted, depFailed := y.depFailed, refused := y.refused }) with
        ctxs := s1.sp.ctxs.filter fun c => c.space != slot
        queues := s1.sp.queues.filter fun q => q.space != slot
        objs := s1.sp.objs.filter fun o => o.space != slot
        fences := s1.sp.fences.filter fun f => f.space != slot
        notices := s1.sp.notices.filter fun n => n.1 != slot }
      lmx := (s1.sp.notices.filter fun n => n.1 == slot).foldl (fun y _ => dropCount y x.port) s1.lmx
      array := { s1.array with
        images := s1.array.images.filter fun i => i.space != slot
        engines := s1.array.engines.map fun e => if e.holder = some slot then { e with holder := none } else e } }
    strikeForSpace s2 x.party
  else s

/-! ### The commands -/

/-- SPACE_CREATE (R370). -/
def execSpaceCreate (p : Port) (tag slot : Nat) (s : State) : Host.Outcome State Fault Refusal :=
  .next (mgmtWrite p tag (.spaceCreate p tag slot) (spaceCreate slot) s)

/-- SPACE_CREATE_DONE (R370, R407). -/
def execSpaceCreateDone (slot : Nat) (s : State) : Host.Outcome State Fault Refusal := .next (spaceCreateDone slot s)

/-- SPACE_DESTROY (R371). -/
def execSpaceDestroy (p : Port) (tag slot : Nat) (s : State) : Host.Outcome State Fault Refusal :=
  .next (mgmtWrite p tag (.spaceDestroy p tag slot) (spaceDestroy slot) s)

/-- SPACE_DESTROY_DONE (R371). -/
def execSpaceDestroyDone (slot : Nat) (s : State) : Host.Outcome State Fault Refusal := .next (spaceDestroyDone slot s)

/-- CTX_CREATE (R391). -/
def execCtxCreate (ch : Chan) (r : Rushes) (s : State) : Host.Outcome State Fault Refusal :=
  .next (spaceRequest ch (.ctxCreate r) s)

/-- CTX_DESTROY (R392). -/
def execCtxDestroy (ch : Chan) (ctx : Nat) (s : State) : Host.Outcome State Fault Refusal :=
  .next (spaceRequest ch (.ctxDestroy ctx) s)

/-- CTX_SET (R391). -/
def execCtxSet (ch : Chan) (ctx : Nat) (r : Rushes) (s : State) : Host.Outcome State Fault Refusal :=
  .next (spaceRequest ch (.ctxSet ctx r) s)

/-- CTX_QUERY (R394). -/
def execCtxQuery (ch : Chan) (ctx : Nat) (s : State) : Host.Outcome State Fault Refusal :=
  .next (spaceRequest ch (.ctxQuery ctx) s)

/-- Q_CREATE (R377). -/
def execQCreate (ch : Chan) (ringAddr entries compAddr version : Nat) (s : State) : Host.Outcome State Fault Refusal :=
  .next (spaceRequest ch (.qCreate ringAddr entries compAddr version) s)

/-- Q_DESTROY (R392). -/
def execQDestroy (ch : Chan) (q : BitVec 32) (s : State) : Host.Outcome State Fault Refusal :=
  .next (spaceRequest ch (.qDestroy q) s)

/-- DOORBELL (R378). -/
def execDoorbell (ch : Chan) (q idx : BitVec 32) (s : State) : Host.Outcome State Fault Refusal :=
  .next (spaceRequest ch (.doorbell q idx) s)

/-- OBJ_ALLOC (R375). -/
def execObjAlloc (ch : Chan) (range size addr : Nat) (owner : Owner) (zero : Bool) (s : State) :
    Host.Outcome State Fault Refusal :=
  .next (spaceRequest ch (.objAlloc range size addr owner zero) s)

/-- OBJ_FREE (R390). -/
def execObjFree (ch : Chan) (obj : BitVec 32) (s : State) : Host.Outcome State Fault Refusal :=
  .next (spaceRequest ch (.objFree obj) s)

/-- FENCE_CREATE (R383). -/
def execFenceCreate (ch : Chan) (owner : Owner) (value : Word) (s : State) : Host.Outcome State Fault Refusal :=
  .next (spaceRequest ch (.fenceCreate owner value) s)

/-- FENCE_DESTROY (R389). -/
def execFenceDestroy (ch : Chan) (f : BitVec 32) (s : State) : Host.Outcome State Fault Refusal :=
  .next (spaceRequest ch (.fenceDestroy f) s)

/-- FENCE_SIGNAL (R387). -/
def execFenceSignal (ch : Chan) (f : BitVec 32) (value : Word) (s : State) : Host.Outcome State Fault Refusal :=
  .next (spaceRequest ch (.fenceSignal f value) s)

/-- FENCE_FAIL (R387). -/
def execFenceFail (ch : Chan) (f : BitVec 32) (s : State) : Host.Outcome State Fault Refusal :=
  .next (spaceRequest ch (.fenceFail f) s)

/-- FENCE_QUERY (R387). -/
def execFenceQuery (ch : Chan) (f : BitVec 32) (s : State) : Host.Outcome State Fault Refusal :=
  .next (spaceRequest ch (.fenceQuery f) s)

/-- FENCE_NOTIFY (R387). -/
def execFenceNotify (ch : Chan) (f : BitVec 32) (value : Word) (s : State) : Host.Outcome State Fault Refusal :=
  .next (spaceRequest ch (.fenceNotify f value) s)

/-- COMMAND_COMPLETE (R384). -/
def execCommandComplete (cid busy energyUj : Nat) (s : State) : Host.Outcome State Fault Refusal :=
  .next (commandComplete cid busy energyUj s)

end Sys2Proof.Machine
end

