-- ==== Sys2Proof/Machine/Cipher.lean ====
section
/-! DEFINITION. Key rotation, refills and the memory window (file 12). -/

namespace Sys2Proof.Machine

/-! ### REKEY (R324, R325) -/

/-- Record the last CIPH_CTRL command's status (Table 12-10). -/
def ciphStatus (s : State) (n : Nat) (st : Status) : State :=
  { s with ciph := { s.ciph with lastStatus := st, lastRange := n } }

/-- Whether a slot holds a key that a REKEY of range n may take: a delivered or derived mem-range key with the range's owner set
that serves nothing yet (R324, R349). -/
def slotFits (s : State) (n slot : Nat) : Bool :=
  let k := s.keys.slots.getD slot {}
  k.valid && k.use == .memRange && k.ownerSet == (rangeCfg s n).ownerSet && decide (2 ≤ k.origin) && !k.locked

/-- The check of a REKEY, in the order of R324. -/
def rekeyCheck (s : State) (n newSlot : Nat) : Option Status :=
  let c := rangeCfg s n
  let k := rangeKey s n
  if c.mode = 0 || k.keyless then some .keyAbsent
  else if k.walk = 1 || k.walk = 2 then some .busy
  else if c.keySource ≠ 0 && !slotFits s n newSlot then some .keyAbsent
  else if 2 ^ 32 - 1 ≤ k.gen then some .busy
  else if c.keySource = 0 && (freeDrawn s).isNone then some .busy
  else none

/-- Step 1 of Table 12-8 with the slot of the new key: the current slot becomes the previous one, kgen flips. -/
def rekeyStart (s : State) (n slot pace : Nat) : State :=
  let old := (rangeKey s n).curSlot
  let s1 := slotMod (slotMod s old fun k => { k with prev := true }) slot fun k => { k with locked := true }
  { s1 with ciph := rangeKeyMod s1.ciph n fun k =>
      { k with
        curSlot := slot, prevSlot := old, prevValid := true, prevStruck := false, gen := k.gen + 1, walk := 2
        pace := pace % 4, doneMib := 0, fresh := [], walkPos := List.replicate 8 0
        prevSub := k.subkeys, subkeys := subKeys (rangeCfg s n) (s1.keys.slots.getD slot {}).key k.salt } }

/-- REKEY of a range 0 to 31; other ranges are ignored (Table 12-10). -/
def rekey (n newSlot pace : Nat) (s : State) : Answer :=
  if 32 ≤ n then ⟨s, .ok, []⟩
  else
    match rekeyCheck s n newSlot with
    | some st => ⟨ciphStatus s n st, st, []⟩
    | none =>
      if (rangeCfg s n).keySource = 0 then
        let slot := (freeDrawn s).getD 128
        let s1 := drawUse (slotPut s slot (drawnRangeKey (rangeCfg s n).ownerSet n (drawAt s 0))) 1
        ⟨ciphStatus (rekeyStart s1 n slot pace) n .ok, .ok, []⟩
      else ⟨ciphStatus (rekeyStart s n newSlot pace) n .ok, .ok, []⟩

/-- REKEY: a write of CIPH_CTRL with cmd 1. A request that needs a draw waits while the entropy source fails. -/
def execRekey (p : Port) (tag range newSlot pace : Nat) (s : State) : Host.Outcome State Fault Refusal :=
  .next (if (rangeCfg s range).keySource = 0 then mgmtDraw p tag (.rekey p tag range newSlot pace) (rekey range newSlot pace) s
    else mgmtWrite p tag (.rekey p tag range newSlot pace) (rekey range newSlot pace) s)

/-- The metadata bits that a dead mark inverts: addr_chk (Table 11-2, R325). -/
def deadMask : BitVec 64 := 0xFE00000000000000

/-- Write k lines back with their addr_chk inverted (R325). -/
def deadLines : Nat → Nat → Mem → Mem
  | 0, _, m => m
  | k + 1, line, m =>
    let m1 := lineWritten m line
    let f := faultOf m1 line
    deadLines k (line + 1) (setFault m1 line (f.1, f.2 ^^^ deadMask))

/-- The walk dead-marks the unit at an address and counts it. -/
def walkDead (s : State) (n a : Nat) : State :=
  { s with
    mem := deadLines (unitBytes (rangeCfg s n) / 64) (a / 64) s.mem
    ciph := rangeKeyMod s.ciph n fun k => { k with dead := satAdd 16 k.dead 1 } }

/-- The walk's read of a unit: a failing one is read once more (R325). -/
def walkRead (s : State) (n a : Nat) : UnitRead :=
  let r := readUnit false s n a
  if r.status = .ok then r else readUnit false (failRange r.st {} n a r.status r.level) n a

/-- The walk takes one unit as a merge-buffer entry (Table 12-8, step 3): a unit that is current or held already is passed, one that
verifies is held and so written back under the current key, a unit under a failed node stays, every other is dead-marked. -/
def walkUnit (n a : Nat) (s : State) : State :=
  let u := unitBytes (rangeCfg s n)
  let take := fun (t : State) => mergeHold 512 t (stackOf a) (a / 64) (u / 64)
  if lineFresh (rangeKey s n) (a / 64) || mergeHas s.mem (a / 64) then s
  else
    let r := walkRead s n a
    if r.status = .ok then
      if (rangeCfg s n).mode = 2 && pathExhausted r.st n a then walkDead r.st n a
      else if r.open_.isEmpty then take r.st
      else take (freeUse (putPlain r.st a (unitBytesOf r.st a u r.open_)) u)
    else
      let t := failRange r.st {} n a r.status r.level
      if r.status = .memUnverifiable then t else walkDead t n a

/-- The walks of a range end (Table 12-8, step 4): the entries that the merge buffer holds for it are written back, and the previous slot
and its subkeys zeroized. -/
def walkEnd (n : Nat) (s : State) : State :=
  let t := (s.mem.merge.filter fun e => rangeAny s (64 * e.key) == some n).foldl mergeStore s
  let t1 := if (rangeKey s n).prevStruck then t else slotPut t (rangeKey s n).prevSlot {}
  { t1 with ciph := rangeKeyMod t1.ciph n fun k =>
      { k with prevSlot := 0, prevValid := false, prevStruck := false, walk := 3, fresh := [], prevSub := [] } }

/-- The units of a range's data region that each controller's stack holds (R289). -/
def shareUnits (s : State) (n : Nat) : Nat := unitCount s n / 8

/-- Unit k of a stack's share of a range's data region, in rising addresses: of each 8 KiB the stack holds 1 KiB (R289). -/
def shareUnit (s : State) (n stack k : Nat) : Nat :=
  let c := rangeCfg s n
  let per := 1024 / unitBytes c
  let a := c.base + k / per * 8192
  a + 1024 * ((List.range 8).findIdx fun i => stackOf (a + 1024 * i) == stack) + k % per * unitBytes c

/-- The walk of one controller takes its next units of its stack's share (Table 12-8, step 3). -/
def walkStack (n stack units : Nat) (s : State) : State :=
  let pos := (rangeKey s n).walkPos.getD stack 0
  let k := min units (shareUnits s n - pos)
  let t := ((List.range k).map fun i => shareUnit s n stack (pos + i)).foldl (fun t a => walkUnit n a t) s
  { t with ciph := rangeKeyMod t.ciph n fun x => { x with walkPos := x.walkPos.set stack (pos + k) } }

/-- The walks of a range take their next units, as many as are named for each controller; when all eight have ended the rotation ends. -/
def walkGo (n : Nat) (units : List Nat) (s : State) : State :=
  if (rangeKey s n).walk = 2 && systemOpen s then
    let t := (List.range 8).foldl (fun t st => walkStack n st (units.getD st 0) t) s
    let done := (rangeKey t n).walkPos.foldl (· + ·) 0
    let t1 := { t with ciph := rangeKeyMod t.ciph n fun x => { x with doneMib := done * unitBytes (rangeCfg s n) / 2 ^ 20 } }
    if (rangeKey t n).walkPos.all (· == shareUnits s n) then walkEnd n t1 else t1
  else s

/-- REKEY_WALK_DONE (R325): the walks have taken their next units (log entry 48). -/
def execRekeyWalkDone (range : Nat) (s : State) (units : List Nat := []) : Host.Outcome State Fault Refusal := .next (walkGo range units s)

/-! ### Refills (R308, R328, R329) -/

/-- The check of a REINIT (R329). An unused range answers as an unused range of a REKEY does. -/
def reinitCheck (s : State) (n : Nat) : Option Status :=
  if s.sp.slots.any fun x => x.state != 0 then some .busy
  else if s.dly.role == .twin then some .busy
  else if (rangeCfg s n).mode = 0 then some .keyAbsent
  else if (rangeKey s n).walk = 1 || (rangeKey s n).walk = 2 then some .busy
  else none

/-- REINIT of a range 0 to 31, or the staging hold as 32; other values are ignored. -/
def reinit (n : Nat) (s : State) : Answer :=
  if 33 ≤ n then ⟨s, .ok, []⟩
  else
    match reinitCheck s n with
    | some st => ⟨ciphStatus s n st, st, []⟩
    | none => ⟨ciphStatus (refill s n) n .ok, .ok, []⟩

/-- REINIT: a write of CIPH_CTRL with cmd 2. Its draws wait while the entropy source fails. -/
def execReinit (p : Port) (tag range : Nat) (s : State) : Host.Outcome State Fault Refusal :=
  .next (mgmtDraw p tag (.reinit p tag range) (reinit range) s)

/-- The fill of a range ends (R308): its generation is 1 where it holds a key, 0 where it is keyless (R305). A fill whose salt's draw
waits does not end. -/
def fillFinish (n : Nat) (s : State) : State :=
  if (rangeKey s n).walk = 1 && !drawsWait s then
    { s with ciph := rangeKeyMod s.ciph n fun k =>
        { k with gen := if k.keyless then 0 else 1, walk := 3, doneMib := dataSize (rangeCfg s n) / 2 ^ 20 } }
  else s

/-! ### Debug and DMA masters (R330, R331) -/

/-- The range, or the hold, that an address lies in. -/
def debugRange (s : State) (a : Nat) : Option Nat :=
  (rangeAt s a).or (if cfgHas (rangeCfg s 32) a then some 32 else none)

/-- Whether the policy of the active rig lets a debug or DMA master reach an address: a used range in Solo, but for a
control area (R369, log entry 119); nothing in Shared. -/
def debugReaches (s : State) (a : Nat) : Bool := !isShared s && (rangeAt s a).isSome && !(ctlHit s a 8)

/-- Count a debug access in its range, and log it with its range ID. An accepted access has no kind in Table 18-7: a free one. -/
def debugCount (s : State) (a : Nat) : State :=
  let s1 := match debugRange s a with
    | some n => { s with ciph := rangeKeyMod s.ciph n fun k => { k with debug := satAdd 16 k.debug 1 } }
    | none => s
  if debugReaches s a then
    stLog (freeUse s1 1) { logBlank with
      kind := (freeAt s 0).toNat % 256, range := (rangeAt s a).getD 0xFF }
  else stLog s1 { logBlank with status := .flowDenied, kind := 4, range := (debugRange s a).getD 0xFF }

/-- Whether a debug or DMA access of 8 bytes must wait for a fill (R308). -/
def debugWaits (s : State) (a : Nat) : Bool := debugReaches s a && ((rangeAt s a).any (filling s) || (rangeAt s (a + 7)).any (filling s))

/-- What denies an access of 8 bytes that the policy lets through; one whose bytes leave a data region moves none (R312). -/
def debugDenied (s : State) (a : Nat) : Option Status := (List.range 8).findSome? fun i => accessCheck s (a + i) 1

/-- A read of 8 bytes by a debug or DMA master. -/
def debugRead (s : State) (a : Nat) : MemRead :=
  let s1 := debugCount s a
  if debugReaches s a then
    match debugDenied s a with
    | some st => ⟨s1, st, [], 255⟩
    | none => readPhys s1 {} a 8
  else ⟨s1, .flowDenied, [], 255⟩

/-- A write of 8 bytes by a debug or DMA master. -/
def debugWrite (s : State) (a : Nat) (v : Word) : MemWrite :=
  let s1 := debugCount s a
  if debugReaches s a then
    match debugDenied s a with
    | some st => ⟨s1, st, 255⟩
    | none => writePhys s1 {} a (natLe 8 v.toNat)
  else ⟨s1, .flowDenied, 255⟩

/-- Record the status of the last window access (Table 12-15). -/
def winStatusPut (s : State) (st : Status) : State := { s with ciph := { s.ciph with winStatus := st } }

/-- A read of CIPH_WIN_DATA: the 8 bytes, or zeros where the access failed. -/
def winRead (s : State) : Answer :=
  let r := debugRead s s.ciph.winAddr
  ⟨winStatusPut r.st r.status, .ok, if r.status = .ok then r.bytes else List.replicate 8 0⟩

/-- A write of CIPH_WIN_DATA. -/
def winWrite (v : Word) (s : State) : Answer :=
  let r := debugWrite s s.ciph.winAddr v
  ⟨winStatusPut r.st r.status, r.status, []⟩

/-- CIPH_WIN_READ as it has its turn: one of a range that is being filled waits (R308). -/
def winReadTurn (p : Port) (tag : Nat) (s : State) : State :=
  if debugWaits s s.ciph.winAddr then holdAccess s (.ciphWinRead p tag) else mgmtRun p tag winRead s

/-- CIPH_WIN_WRITE as it has its turn. -/
def winWriteTurn (p : Port) (tag : Nat) (v : Word) (s : State) : State :=
  if debugWaits s s.ciph.winAddr && !(lockedOut s.lmx p) then holdAccess s (.ciphWinWrite p tag v) else mgmtAgain p tag (winWrite v) s

/-- CIPH_WIN_READ. -/
def execCiphWinRead (p : Port) (tag : Nat) (s : State) : Host.Outcome State Fault Refusal :=
  .next (mgmtTurn p (.ciphWinRead p tag) (winReadTurn p tag) s)

/-- CIPH_WIN_WRITE. -/
def execCiphWinWrite (p : Port) (tag : Nat) (v : Word) (s : State) : Host.Outcome State Fault Refusal :=
  .next (mgmtTurn p (.ciphWinWrite p tag v) (winWriteTurn p tag v) s)

end Sys2Proof.Machine
end

