-- ==== Sys2Proof/Machine/Dailies.lean ====
section
/-! DEFINITION. The commands of Dailies (file 10): pairing, mirroring, cuts, loss, rewinds, takes, prints and restores. -/

namespace Sys2Proof.Machine

/-! ### Pairing and the twin streams -/

/-- PAIRING_START (R266). -/
def execPairingStart (s : State) (peerNonce : W256 := 0) (peerRanges : BitVec 32 := 0) : Host.Outcome State Fault Refusal :=
  .next (settle (pairingStart peerNonce peerRanges s))

/-- PAIR_OFFER_RECEIVE (R266). -/
def execPairOfferReceive (o : PairOffer) (s : State) : Host.Outcome State Fault Refusal := .next (settle (offerReceive s o))

/-- CONTINUITY_KEY_RECEIVE (R266). -/
def execContinuityKeyReceive (key : W256) (epoch gen : Nat) (s : State) : Host.Outcome State Fault Refusal :=
  .next (continuityKey s key epoch gen)

/-- RESILVER_COPY_RECEIVE (R280); a copy into a range that is being filled waits (R308). -/
def execResilverCopyReceive (src link range offset : Nat) (data : List Byte) (s : State) : Host.Outcome State Fault Refusal :=
  .next (if paired s && filling s range then holdAccess s (.resilverCopyReceive src link range offset data)
    else settle (resilverReceive s src link range offset data))

/-- RESILVER_COPY_DONE (R280). -/
def execResilverCopyDone (s : State) : Host.Outcome State Fault Refusal := .next (resilverDone s)

/-- MIRROR_STREAM_SEND (R267): n packets. -/
def execMirrorStreamSend (n : Nat) (s : State) : Host.Outcome State Fault Refusal := .next (settle (mirrorStream s n))

/-! ### Cuts -/

/-- CUT: an admitted command of opcode 0x60 is considered (R271, R272). -/
def execCut (cid : Nat) (s : State) : Host.Outcome State Fault Refusal :=
  .next (match cmdServed s cid 0x60 cutNames with
    | some c => settle (cutBegin s c)
    | none => s)

/-- CUT_HOLD_RELEASE (R282). -/
def execCutHoldRelease (s : State) : Host.Outcome State Fault Refusal := .next (settle (cutRelease s))

/-- SEAL_RECEIVE (R272). -/
def execSealReceive (gen step : Nat) (s : State) : Host.Outcome State Fault Refusal := .next (settle (sealReceive s gen step))

/-- SEALED_RECEIVE (R272, R273). -/
def execSealedReceive (gen : Nat) (s : State) (isSealed : Bool := true) : Host.Outcome State Fault Refusal :=
  .next (settle (sealedReceive s gen isSealed))

/-- CUT_VERDICT_RECEIVE (R272). -/
def execCutVerdictReceive (member gen : Nat) (ready : Bool) (s : State) : Host.Outcome State Fault Refusal :=
  .next (settle (verdictReceive s member gen ready))

/-- CUT_COMMIT_RECEIVE (R272). -/
def execCutCommitReceive (gen : Nat) (s : State) (check : Bool := false) : Host.Outcome State Fault Refusal :=
  .next (settle (commitReceive s gen check))

/-- CUT_ABORT_RECEIVE (R272). -/
def execCutAbortReceive (gen : Nat) (s : State) : Host.Outcome State Fault Refusal := .next (abortSealed s gen)

/-- COMMIT_ACK_RECEIVE (R272, R279). -/
def execCommitAckReceive (gen : Nat) (digests : List (Nat × W256)) (s : State) : Host.Outcome State Fault Refusal :=
  .next (settle (commitAck s gen digests))

/-- CUT_TIMEOUT (R272). -/
def execCutTimeout (cid : Nat) (s : State) : Host.Outcome State Fault Refusal := .next (settle (cutTimeout s cid))

/-! ### Loss and promotion -/

/-- HEARTBEAT_SEND (R274). -/
def execHeartbeatSend (s : State) : Host.Outcome State Fault Refusal := .next (settle (heartbeatSend s))

/-- HEARTBEAT_RECEIVE (R274). -/
def execHeartbeatReceive (s : State) (r : HoldReport := {}) : Host.Outcome State Fault Refusal := .next (heartbeatReceive s r)

/-- PARTNER_SUSPECT (R274). -/
def execPartnerSuspect (s : State) : Host.Outcome State Fault Refusal := .next (settle (partnerSuspect s))

/-- PROBE_RECEIVE (R274). -/
def execProbeReceive (src : Nat) (s : State) : Host.Outcome State Fault Refusal := .next (settle (probeReceive s src))

/-- PROBE_ANSWER_RECEIVE (R274). -/
def execProbeAnswerReceive (src : Nat) (s : State) : Host.Outcome State Fault Refusal := .next (settle (probeAnswer s src))

/-- PROBE_TIMEOUT (R274, R275, R276). -/
def execProbeTimeout (s : State) : Host.Outcome State Fault Refusal := .next (settle (probeTimeout s))

/-- LEAVE_RECEIVE (R274). -/
def execLeaveReceive (src : Nat) (s : State) : Host.Outcome State Fault Refusal := .next (settle (leaveReceive s src))

/-- DETACH (R274). -/
def execDetach (p : Port) (tag : Nat) (s : State) : Host.Outcome State Fault Refusal :=
  .next (mgmtTurn p (.detach p tag) (fun t => settle (mgmtAgain p tag detach t)) s)

/-- RESOLVE (R275). -/
def execResolve (p : Port) (tag : Nat) (toCommit : Bool) (s : State) : Host.Outcome State Fault Refusal :=
  .next (mgmtTurn p (.resolve p tag toCommit) (fun t => settle (mgmtAgain p tag (resolve toCommit) t)) s)

/-! ### Rewinds and takes -/

/-- REWIND (R277). -/
def execRewind (p : Port) (tag : Nat) (s : State) : Host.Outcome State Fault Refusal := .next (mgmtTurn p (.rewind p tag) (fun t => settle (mgmtAgain p tag rewind t)) s)

/-- REWIND_DONE (R277). -/
def execRewindDone (lines : List (Nat × List Byte)) (s : State) : Host.Outcome State Fault Refusal :=
  .next (settle (rewindDone s lines))

/-- TAKE_BEGIN (R278). -/
def execTakeBegin (p : Port) (tag : Nat) (s : State) : Host.Outcome State Fault Refusal := .next (mgmtWrite p tag (.takeBegin p tag) takeBegin s)

/-- TAKE_RECORD: an admitted command of opcode 0x61 runs (R278). -/
def execTakeRecord (cid : Nat) (s : State) : Host.Outcome State Fault Refusal :=
  .next (match cmdReady s cid 0x61 with
    | some c => settle (takeRecord s c)
    | none => s)

/-- TAKE_LOG_RECEIVE (R278). -/
def execTakeLogReceive (step : Nat) (digest : W256) (s : State) : Host.Outcome State Fault Refusal := .next (takeLogReceive s step digest)

/-- CHECK (R279). -/
def execCheck (p : Port) (tag : Nat) (s : State) : Host.Outcome State Fault Refusal := .next (mgmtWrite p tag (.check p tag) checkArm s)

/-! ### Prints (R281 to R284) -/

/-- Bytes of a chunk: 256 MiB. -/
def chunkMax : Nat := 2 ^ 28

/-- The wrap key that a party delivered. -/
def wrapKeyOf (s : State) (party : Nat) : Option W256 :=
  (s.keys.slots.find? fun k => k.valid && k.use == .wrap && k.ownerSet == BitVec.ofNat 8 (2 ^ party)).map (·.key)

/-- A party's public key. -/
def partyPublic (s : State) (party : Nat) : List Byte := ((s.rig.active.parties.find? fun p => p.index == party).map (·.key)).getD []

/-- The print wrap key of a range (Table 13-9); none where an owner's wrap key is absent, or the range has no owner. -/
def printWrapKey (s : State) (n : Nat) : Option W256 :=
  let owners := bitList 8 (rangeCfg s n).ownerSet.toNat
  if owners.isEmpty || owners.any fun p => (wrapKeyOf s p).isNone then none
  else some (shakeW (ascii "nirnus-print-wrap" ++ natLe 1 n ++ owners.flatMap fun p => partyPublic s p ++ w256Bytes ((wrapKeyOf s p).getD 0)))

/-- Bytes that a print takes of a range: its data region. -/
def printSize (s : State) (n : Nat) : Nat := dataSize (rangeCfg s n)

/-- Chunks of a range. -/
def printChunks (s : State) (n : Nat) : Nat := (printSize s n + chunkMax - 1) / chunkMax

/-- The chunks of a print, in address order: range and index. -/
def chunkList (s : State) : List (Nat × Nat) := (byAddress s s.dly.print.ranges).flatMap fun n => (List.range (printChunks s n)).map fun i => (n, i)

/-- Plaintext bytes in a chunk. -/
def chunkLen (s : State) (n i : Nat) : Nat := min chunkMax (printSize s n - i * chunkMax)

/-- A chunk's header (Table 10-6). -/
def chunkHeader (s : State) (n i : Nat) : List Byte :=
  natLe 4 0x4B4E4843 ++ natLe 1 n ++ [(rangeCfg s n).ownerSet.setWidth 8, 0, 0] ++ natLe 6 s.dly.print.gen ++ [0, 0] ++ natLe 8 s.dly.print.id ++
    natLe 4 i ++ natLe 4 (printChunks s n) ++ natLe 4 (chunkLen s n i) ++ List.replicate 28 0

/-- A chunk's GCM tag, then its ciphertext, under its range's print key; the IV is the index, then 64 zero bits, the header the additional
authenticated data (R283). -/
def chunkSeal (s : State) (n i : Nat) (plain : List Byte) : List Byte :=
  let k := w256Bytes ((assocGet s.dly.print.keys n).getD 0)
  let iv := natLe 4 i ++ natLe 8 0
  let c := gcmCrypt k iv plain
  gcmTag k iv (chunkHeader s n i) c ++ c

/-- PRINT's checks (R281): a twin in state PROTECTED with no print running, and every wrap key present. -/
def print (mask : BitVec 32) (s : State) : Answer :=
  let rs := bitList 32 mask.toNat
  if s.dly.role ≠ .twin || s.dly.state ≠ .guarded || printing s then dlyAnswer s .busy
  else if rs.any fun n => (printWrapKey s n).isNone then dlyAnswer s .keyAbsent
  else
    let keys := ((List.range rs.length).zip rs).map fun e => (e.2, drawAt s (e.1 + 1))
    dlyAnswer (drawUse (dlyMod s fun d => { d with
      frozen := true
      print := { state := 1, sent := 0, id := (drawAt s 0).toNat % 2 ^ 64, ranges := rs, keys := keys
                 wrapKeys := rs.map fun n => (n, (printWrapKey s n).getD 0), gen := d.applied, tags := [] } }) (rs.length + 1)) .ok

/-- PRINT: a write of DLY_CTRL with cmd 5. Its draws wait while the entropy source fails. -/
def execPrint (p : Port) (tag : Nat) (ranges : BitVec 32) (s : State) : Host.Outcome State Fault Refusal :=
  .next (mgmtDraw p tag (.print p tag ranges) (print ranges) s)

/-- The port that chunk i of a range, and its slate, leaves by: both in turn, or the one that has a session (R411). -/
def printPort (s : State) (i : Nat) : Option Port :=
  let p := if i % 2 = 0 then Port.a else Port.b
  if (portOf s.lmx p).session = 2 then some p else if (portOf s.lmx (otherPort p)).session = 2 then some (otherPort p) else none

/-- Send one piece of a print. -/
def printBulk (s : State) (p : Port) (stream target : Nat) (bs : List Byte) : State :=
  sendMsg s p (.bulk stream target bs)

/-- The digests of a ciphertext: 128 bits of SHAKE256 for each 65,536 bytes. -/
def cipherDigests : Nat → List Byte → List Byte
  | 0, _ => []
  | fuel + 1, bs => if bs.isEmpty then [] else shake256 16 (bs.take 65536) ++ cipherDigests fuel (bs.drop 65536)

/-- What a chunk's slate says of it: its tag, then the digests of its ciphertext (Table 10-7). -/
def chunkProof (e : List Byte) : List Byte := e.take 16 ++ cipherDigests ((e.length - 16) / 65536 + 1) (e.drop 16)

/-- PRINT_CHUNK_SEND (R283): the next chunk; after the last, slates follow. A chunk that cannot be read abandons the print; one of a range that
is being filled waits (R308). -/
def printChunk (s : State) : State :=
  if (s.dly.print.state ≠ 1 && s.dly.print.state ≠ 2) || !(systemOpen s) then s
  else
    match (chunkList s)[s.dly.print.sent]? with
    | none => dlyMod s fun d => { d with print := { d.print with state := 3, sent := 0 } }
    | some (n, i) =>
      match printPort s i with
      | none => s
      | some p =>
        let r := readPhys s {} ((rangeCfg s n).base + i * chunkMax) (chunkLen s n i)
        if filling s n then s
        else if r.status ≠ .ok then printDrop r.st
        else
          let e := chunkSeal r.st n i r.bytes
          let s1 := printBulk r.st p r.st.dly.print.sent 1 (chunkHeader r.st n i ++ e.drop 16 ++ e.take 16)
          let k := s1.dly.print.sent + 1
          dlyMod s1 fun d => { d with print := { d.print with
            state := if (chunkList s1).length ≤ k then 3 else 2, sent := if (chunkList s1).length ≤ k then 0 else k
            tags := d.print.tags ++ [(n * 2 ^ 32 + i, chunkProof e)] } }

/-- PRINT_CHUNK_SEND. -/
def execPrintChunkSend (s : State) : Host.Outcome State Fault Refusal := .next (settle (printChunk s))

/-- A slate before its signature (Table 10-7), from what its chunk left as it went. -/
def slateBytes (s : State) (n i : Nat) (proof : List Byte) : List Byte :=
  chunkHeader s n i ++ proof.take 16 ++ keyWrap (w256Bytes ((assocGet s.dly.print.wrapKeys n).getD 0)) (w256Bytes ((assocGet s.dly.print.keys n).getD 0)) ++
    List.replicate 8 0 ++ w256Bytes s.power.idkeyFp ++ proof.drop 16

/-- PRINT_SLATE_SEND (R284): the next slate, in chunk order; its signature's draw waits while the entropy source fails. -/
def printSlate (s : State) : State :=
  if s.dly.print.state ≠ 3 || drawsWait s || !(systemOpen s) then s
  else
    match (chunkList s)[s.dly.print.sent]? with
    | none => s
    | some (n, i) =>
      match printPort s i with
      | none => s
      | some p =>
        let b := slateBytes s n i ((assocGet s.dly.print.tags (n * 2 ^ 32 + i)).getD [])
        let sig := identitySign (s.keys.slots.getD 0 {}) "nirnus-slate" b (drawAt s 0)
        let s1 := printBulk (drawUse s 1) p s.dly.print.sent 2 (b ++ sig)
        dlyMod s1 fun d => { d with print := { d.print with sent := d.print.sent + 1 } }

/-- PRINT_SLATE_SEND. -/
def execPrintSlateSend (s : State) : Host.Outcome State Fault Refusal := .next (printSlate s)

/-- PRINT_COMPLETE (R281, step 5): after the last slate. -/
def execPrintComplete (s : State) : Host.Outcome State Fault Refusal :=
  .next (if s.dly.print.state = 3 && decide ((chunkList s).length ≤ s.dly.print.sent) then settle (printEnd s 4) else s)

/-- PRINT_ABANDON (R282). -/
def printAbandon (s : State) : Answer := if printing s then dlyAnswer (printDrop s) .ok else dlyAnswer s .busy

/-- PRINT_ABANDON. -/
def execPrintAbandon (p : Port) (tag : Nat) (s : State) : Host.Outcome State Fault Refusal := .next (mgmtWrite p tag (.printAbandon p tag) printAbandon s)

/-! ### Restores (R285) -/

/-- The print wrap keys of the ranges whose owners' wrap keys are all present. -/
def wrapKeys (s : State) : List (Nat × W256) := (List.range 32).filterMap fun n => (printWrapKey s n).map fun k => (n, k)

/-- RESTORE_BEGIN: on an unpaired module with no live space. The print wrap keys are derived and held till the restore ends (R349). -/
def restoreBegin (s : State) : Answer :=
  if s.dly.state ≠ .unpaired || anySpace s then dlyAnswer s .busy
  else dlyAnswer (dlyMod s fun d => { d with restore := { active := true, wrapKeys := wrapKeys s }, doneMib := 0, totalMib := 0 }) .ok

/-- RESTORE_BEGIN. -/
def execRestoreBegin (p : Port) (tag : Nat) (s : State) : Host.Outcome State Fault Refusal := .next (mgmtWrite p tag (.restoreBegin p tag) restoreBegin s)

/-- Fields of a chunk's header (Table 10-6). -/
def chunkRange (c : Chunk) : Nat := byteField c.chunk 4 1
def chunkGen (c : Chunk) : Nat := byteField c.chunk 8 6
def chunkPrintId (c : Chunk) : Nat := byteField c.chunk 16 8
def chunkIndex (c : Chunk) : Nat := byteField c.chunk 24 4
def chunkTotal (c : Chunk) : Nat := byteField c.chunk 28 4
def chunkBytes (c : Chunk) : Nat := byteField c.chunk 32 4

/-- The ciphertext of a chunk, and its tag. -/
def chunkCipher (c : Chunk) : List Byte := (c.chunk.drop 64).take (chunkBytes c)
def chunkTag (c : Chunk) : List Byte := c.chunk.drop (64 + chunkBytes c)

/-- Bytes of a slate before its signature (Table 10-7). -/
def slateSigned (c : Chunk) : Nat := 160 + 16 * ((chunkBytes c + 65535) / 65536)

/-- Check 1 of R285: the identity public key is certified up to the vendor root and has the slate's fingerprint, and it signed the slate. -/
def chunkSigned (c : Chunk) : Bool :=
  certGood c.interCert vendorRootKey 2 1 && certGood c.idCert ((c.interCert.drop 56).take 64) 3 2 &&
    (c.idCert.drop 56).take 32 == c.pub && (c.slate.drop 128).take 32 == w256Bytes (shakeW c.pub) &&
    slhVerify slh128f c.pub (ascii "nirnus-slate") (c.slate.take (slateSigned c)) (c.slate.drop (slateSigned c))

/-- Check 2 of R285: the header equals the slate's copy, and the range can hold the chunks. -/
def chunkFits (s : State) (c : Chunk) : Bool :=
  let k := rangeCfg s (chunkRange c)
  let len := chunkBytes c
  byteField c.chunk 0 4 == 0x4B4E4843 && c.chunk.take 64 == c.slate.take 64 && decide (c.chunk.length = 64 + len + 16) &&
    decide (chunkRange c < 32) && k.mode != 0 && k.ownerSet.toNat == byteField c.chunk 5 1 && decide (chunkIndex c < chunkTotal c) &&
    decide (1 ≤ len) && (if chunkIndex c + 1 < chunkTotal c then len == chunkMax else decide (len ≤ chunkMax)) &&
    decide (chunkIndex c * chunkMax + len ≤ dataSize k) && decide ((chunkTotal c - 1) * chunkMax < dataSize k)

/-- Check 3: every digest matches. -/
def chunkDigests (c : Chunk) : Bool :=
  (c.slate.take (slateSigned c)).drop 160 == cipherDigests (chunkBytes c / 65536 + 1) (chunkCipher c)

/-- Check 4: the print key unwraps under the range's print wrap key. -/
def chunkUnwrap (c : Chunk) (wrap : W256) : Option (List Byte) := keyUnwrap (w256Bytes wrap) ((c.slate.drop 80).take 40)

/-- Check 4: the GCM tag, which the slate holds too, verifies. -/
def chunkTagOk (c : Chunk) (k : List Byte) : Bool :=
  gcmTag k (natLe 4 (chunkIndex c) ++ natLe 8 0) (c.chunk.take 64) (chunkCipher c) == chunkTag c && (c.slate.drop 64).take 16 == chunkTag c

/-- The checks of a chunk, in order: the status of the first that fails, or the plaintext. A print key that does not unwrap is KEY_ABSENT,
as where an owner's wrap key was missing. -/
def chunkCheck (s : State) (c : Chunk) : Except Status (List Byte) :=
  if !(chunkSigned c) || !(chunkFits s c) || !(chunkDigests c) then .error .memIntegrity
  else
    match (assocGet s.dly.restore.wrapKeys (chunkRange c)).bind (chunkUnwrap c) with
    | none => .error .keyAbsent
    | some k =>
      if chunkTagOk c k then .ok (gcmCrypt k (natLe 4 (chunkIndex c) ++ natLe 8 0) (chunkCipher c)) else .error .memIntegrity

/-- What a restore has done (R287): its MiB done and in all count each chunk, and each range touched, once; of a chunk sent again the last
stands. -/
def restoreNote (s : State) (c : Chunk) (d : Dailies) : Dailies :=
  let same := fun (g : GotChunk) => g.range == chunkRange c && g.index == chunkIndex c
  let again := d.restore.got.any same
  let known := d.restore.got.any fun g => g.range == chunkRange c
  { d with
    doneMib := if again then d.doneMib else d.doneMib + chunkBytes c / 2 ^ 20
    totalMib := if known then d.totalMib else d.totalMib + min (chunkTotal c * 256) (dataSize (rangeCfg s (chunkRange c)) / 2 ^ 20)
    restore := { d.restore with
      got := ⟨chunkRange c, chunkIndex c, chunkTotal c, chunkPrintId c, chunkGen c⟩ :: d.restore.got.filter fun g => !(same g) } }

/-- A chunk that passes is written under the range's current key. -/
def restoreChunk (c : Chunk) (s : State) : Answer :=
  if !s.dly.restore.active then ⟨s, .busy, []⟩
  else
    match chunkCheck s c with
    | .error st => ⟨s, st, []⟩
    | .ok plain =>
      let w := writePhys s {} ((rangeCfg s (chunkRange c)).base + chunkIndex c * chunkMax) plain
      if w.status ≠ .ok then ⟨w.st, w.status, []⟩ else ⟨dlyMod w.st (restoreNote s c), .ok, []⟩

/-- RESTORE_CHUNK as it has its turn; one of a range that is being filled waits (R308). -/
def restoreTurn (p : Port) (tag : Nat) (c : Chunk) (s : State) : State :=
  if filling s (chunkRange c) && s.dly.restore.active && !(lockedOut s.lmx p) then holdAccess s (.restoreChunk p tag c)
  else mgmtAgain p tag (restoreChunk c) s

/-- RESTORE_CHUNK. -/
def execRestoreChunk (p : Port) (tag : Nat) (c : Chunk) (s : State) : Host.Outcome State Fault Refusal :=
  .next (mgmtTurn p (.restoreChunk p tag c) (restoreTurn p tag c) s)

/-- Every range touched has all of its chunks, with one print ID and one generation. -/
def restoreWhole (r : RestoreRun) : Bool :=
  !r.got.isEmpty && r.got.all fun g =>
    (r.got.all fun h => h.printId == g.printId && h.gen == g.gen && (h.range != g.range || h.total == g.total)) &&
      (List.range g.total).all fun i => r.got.any fun h => h.range == g.range && h.index == i

/-- RESTORE_END: the committed generation becomes the print's. -/
def restoreEnd (s : State) : Answer :=
  if !s.dly.restore.active then dlyAnswer s .busy
  else if restoreWhole s.dly.restore then
    dlyAnswer (dlyMod s fun d => { d with committed := (d.restore.got.head?.map (·.gen)).getD 0, restore := {} }) .ok
  else dlyAnswer s .badDescriptor

/-- RESTORE_END. -/
def execRestoreEnd (p : Port) (tag : Nat) (s : State) : Host.Outcome State Fault Refusal := .next (mgmtWrite p tag (.restoreEnd p tag) restoreEnd s)

end Sys2Proof.Machine
end

