-- ==== Sys2Proof/Machine/Fabric.lean ====
section
/-! DEFINITION. The commands of the fabric links (file 08) and of the collective engine (file 09). -/

namespace Sys2Proof.Machine

/-! ### Received packets (R224, R225, R228, R229) -/

/-- A link that carries packets. -/
def linkUp (s : State) (n : Nat) : Bool := decide (n < 48) && (linkOf s n).state == 2 && !(clockStopped s (72 + n))

/-- Whether a fabric key of a generation bit is held: the current one, or the previous or staged one (R350, R351). -/
def holdsGen (s : State) (g : Bool) : Bool :=
  (s.keys.fabCur.isSome && (s.keys.fabGen % 2 == 1) == g) || (s.keys.fabOther.isSome && (s.keys.fabOtherGen % 2 == 1) == g)

/-- No fabric key is held at all (R241). -/
def noFabKey (s : State) : Bool := s.keys.fabCur.isNone && s.keys.fabOther.isNone

/-- The replay window of a source and generation (R225). -/
def windowGet (f : Fabric) (src : Nat) (g : Bool) : List Nat := (assocGet f.windows (src, g)).getD []

/-- Whether a sequence number passes a window: not marked in it, and not below it once it is full. -/
def windowPass (w : List Nat) (q : Nat) : Bool := !(w.contains q) && (decide (w.length < 1024) || (w.head?.any (· < q)))

/-- A window with a number accepted: rising, the 1,024 highest. -/
def windowPut (w : List Nat) (q : Nat) : List Nat :=
  let x := (w.filter (· < q)) ++ q :: w.filter (q < ·)
  x.drop (x.length - 1024)

/-- Accept a sequence number. -/
def windowTake (s : State) (p : Packet) : State :=
  { s with fabric := { s.fabric with
      windows := assocPut s.fabric.windows (p.src, p.keyGen) (windowPut (windowGet s.fabric p.src p.keyGen) p.seq) } }

/-- The request types (Table 08-6). -/
def isRequest (t : Nat) : Bool := [0x8, 0xA, 0xB, 0xC, 0xD].contains t

/-- Data bytes that a request of a type carries; none where its fields are out of range (Table 08-7). -/
def dataLen (p : Packet) : Option Nat :=
  if p.type = 0xB then
    let w := if p.fmt = 1 then 2 else 4
    if 1 ≤ p.count && p.count ≤ 448 / w && p.fmt ≤ 2 then some (p.count * w) else none
  else if 1 ≤ p.bytes && p.bytes ≤ 448 then some (if p.type = 0x8 then 0 else p.bytes)
  else none

/-- Table 08-8, step 1: the length agrees with the type. -/
def lengthOk (p : Packet) : Bool :=
  match dataLen p with
  | some n => flitsOf p == flitsFor n && p.data.length == n
  | none => false

/-- Where a response leaves: the Reel port of the stack for an operation that ran, Management for a refusal (Table 08-9). -/
structure Reply where
  st : State
  status : Status
  data : List Byte := []
  owners : BitVec 8 := 0
  port : Nat := 13

/-- The local slot whose window a response uses under strict slicing (R239). -/
def partySlot (s : State) (p : Packet) : Nat :=
  if p.system then systemSlot s else (s.sp.slots.findIdx? fun x => x.state != 0 && x.party == p.party).getD 0

/-- The bytes of its range that a request covers from its offset; for ADD_REQ, the target's header. -/
def reqSpan (p : Packet) : Nat := if p.type = 0xB then 64 else p.bytes

/-- Table 08-8, step 5, without the reduction target: the range is used and the span lies in its data region, touching no
control area (R369, log entry 119); MIRROR comes from the
rig's twin over a twin link to a module in role twin with a staging hold, in whole lines; of a pair that stands it names a mirror
range. -/
def rangeFits (s : State) (link : Nat) (p : Packet) : Bool :=
  let c := rangeCfg s p.range
  decide (p.range < 32) && c.mode != 0 && decide (p.offset + reqSpan p ≤ dataSize c) && !(ctlHit s (c.base + p.offset) (reqSpan p)) && (p.type != 0xB || p.offset % 64 == 0) &&
    (p.type != 0xC || (s.dly.role == .twin && p.src == s.rig.active.twinId && isTwinLink s link && holdCapacity s != 0 &&
      p.offset % 64 == 0 && p.bytes % 64 == 0 && (!(paired s) || (pairRanges s).contains p.range)))

/-- Table 08-8, step 6: the range's key is there; for a MIRROR, the key of every mirror range (R265). -/
def keysThere (s : State) (p : Packet) : Bool :=
  !(rangeKey s p.range).keyless && (p.type != 0xC || (pairRanges s).all fun n => !(rangeKey s n).keyless)

/-- Table 08-8, step 7. In a Solo rig a request of the system is held to the owner-set tag alone; in a Shared rig it reaches no range,
only MIRROR targets. With system clear the range's owners must hold the party too. -/
def ownersPass (s : State) (p : Packet) : Bool :=
  let own := (rangeCfg s p.range).ownerSet
  let party := own.getLsbD p.party
  if p.type = 0x8 then if p.system then !(isShared s) else party
  else if p.type = 0xC then p.ownerSet &&& ~~~own == 0 && (p.system || party)
  else p.ownerSet &&& ~~~own == 0 && (if p.system then !(isShared s) else party)

/-- A packet's contributions to a reduction target. -/
def addNumsOf (p : Packet) : List Num :=
  let w := if p.fmt = 1 then 2 else 4
  (List.range p.count).map fun i => redSrcNum p.fmt (byteField p.data (w * i) w)

/-- Whether a target that ADD_REQ names is valid (Table 05-8): its header is good, and its elements lie in it and in the range. -/
def addTargetOk (s : State) (p : Packet) (h : RedHeader) : Bool :=
  let c := rangeCfg s p.range
  modeAllowed s h && decide (p.first + p.count ≤ h.count) && decide (p.offset + redSize h ≤ dataSize c) &&
    !(ctlHit s (c.base + p.offset) (redSize h))

/-- ADD_REQ applied element by element (R230, R142 to R147). -/
def addRun (s : State) (p : Packet) (h : RedHeader) (a : Nat) : State × Status :=
  let w := redWidth h
  let x := a + 64 + p.first * w
  let old := readPhys s {} x (p.count * w)
  if old.status ≠ .ok then (old.st, old.status)
  else
    let z := mergePhys old.st {} x (redRow h (addNumsOf p) old.bytes).1
    (z.st, z.status)

/-- Steps 7 and 8 of Table 08-8 for a range at base address `a`; `h` is the target's header for ADD_REQ. -/
def requestRun (s : State) (p : Packet) (a : Nat) (h : Option RedHeader) : Reply :=
  if !(ownersPass s p) then
    ⟨stLog s { logBlank with kind := 4, unit := 122, status := .flowDenied, range := p.range, detail := p.ownerSet.toNat }, .flowDenied, [], 0, 13⟩
  else
    let port := stackOf a
    if p.type = 0x8 then
      let r := readPhys s {} a p.bytes
      ⟨r.st, r.status, if r.status = .ok then r.bytes else [], if r.status = .ok then (rangeCfg s p.range).ownerSet else 0, port⟩
    else if p.type = 0xA then
      let w := writePhys s {} a p.data
      ⟨if w.status = .ok then colData w.st p.src p.range p.offset p.bytes p.ownerSet else w.st, w.status, [], 0, port⟩
    else if p.type = 0xC then
      let m := mirrorReceive s p.range p.offset p.data
      ⟨m.1, m.2, [], 0, 9⟩
    else
      match h with
      | some hd =>
        let r := addRun s p hd a
        ⟨r.1, r.2, [], 0, port⟩
      | none => ⟨s, .flowDenied, [], 0, 13⟩

/-- Steps 4 to 8 of Table 08-8 for a request from a module with a route. -/
def requestServe (s : State) (link : Nat) (p : Packet) : Reply :=
  if s.rig.state = .committing then ⟨s, .flowDenied, [], 0, 13⟩
  else if p.type = 0xD then ⟨s, .ok, [], 0, 13⟩
  else if !(rangeFits s link p) then ⟨s, .flowDenied, [], 0, 13⟩
  else
    let a := (rangeCfg s p.range).base + p.offset
    if !(keysThere s p) then ⟨s, .keyAbsent, [], 0, 13⟩
    else if p.type = 0xB then
      let r := readPhys s {} a 64
      if r.status ≠ .ok then ⟨r.st, r.status, [], 0, stackOf a⟩
      else
        match redHeaderOf r.bytes with
        | some h => if addTargetOk r.st p h then requestRun r.st p a (some h) else ⟨r.st, .flowDenied, [], 0, 13⟩
        | none => ⟨r.st, .flowDenied, [], 0, 13⟩
    else requestRun s p a none

/-- Whether a request waits: for the end of a fill of its range, a MIRROR also of the hold (R308); under strict slicing, for the window of
its space (R432). -/
def requestWaits (s : State) (link : Nat) (p : Packet) : Bool :=
  s.rig.state != .committing && p.type != 0xD && rangeFits s link p &&
    (filling s p.range || (p.type == 0xC && filling s 32) || !(if p.system then systemOpen s else windowOpen s (partySlot s p)))

/-- Steps 4 to 8 and the answer. -/
def requestAnswer (s : State) (link : Nat) (p : Packet) : State :=
  let r := requestServe s link p
  settle (respond r.st p (statusCode r.status) r.data r.owners r.port (partySlot r.st p))

/-- Count a dropped packet. -/
def dropFab (s : State) (f : Fabric → Fabric) : State := { s with fabric := f s.fabric }

/-- Steps 1 to 8 of Table 08-8 and the answer. -/
def requestCheck (s : State) (link : Nat) (p : Packet) (tagOk : Bool) (buf : BufErr) : State :=
  if bufBad buf then s
  else if !(isRequest p.type) || !(lengthOk p) then dropFab s fun f => { f with foreign := satAdd 16 f.foreign 1 }
  else if noFabKey s then dropFab s fun f => { f with noKey := satAdd 16 f.noKey 1 }
  else if !(holdsGen s p.keyGen) || !tagOk || bufWrong buf then dropFab s fun f => { f with tagFail := satAdd 16 f.tagFail 1 }
  else if !(windowPass (windowGet s.fabric p.src p.keyGen) p.seq) then dropFab s fun f => { f with replayed := satAdd 16 f.replayed 1 }
  else
    let s1 := windowTake s p
    if (routeOf s1 p.src).isNone then dropFab s1 fun f => { f with noRoute := satAdd 16 f.noRoute 1 }
    else
      if requestWaits s1 link p then holdAccess s1 (.requestReceive link p true)
      else requestAnswer s1 link p

/-- Whether a held access is a request. -/
def heldRequest (i : Instr) : Bool :=
  match i with
  | .requestReceive _ _ _ _ => true
  | _ => false

/-- The requests that waited and need wait no longer are answered, in their order (R308, R432). -/
def requestsGo (s : State) : State :=
  let free := fun (i : Instr) => match i with
    | .requestReceive link p _ _ => !(requestWaits s link p)
    | _ => false
  (s.ciph.waiting.filter free).foldl
    (fun t i => match i with
      | .requestReceive link p _ _ => requestAnswer t link p
      | _ => t)
    { s with ciph := { s.ciph with waiting := s.ciph.waiting.filter fun i => !(free i) } }

/-- The requests that wait when a rig change starts are refused, as at step 4 of Table 08-8 (R241). -/
def requestsRefuse (s : State) : State :=
  s.ciph.waiting.foldl
    (fun t i => match i with
      | .requestReceive _ p _ _ => respond t p (statusCode .flowDenied) [] 0 13 (partySlot t p)
      | _ => t)
    { s with ciph := { s.ciph with waiting := s.ciph.waiting.filter fun i => !(heldRequest i) } }

/-- REQUEST_RECEIVE (R229): a packet on an up link, addressed to this module, of any type but a response. It is consumed here, so it leaves
the ingress buffer; one that an uncorrectable word of the buffer holds is discarded (R241), and wrong
data that the code does not see fail the tag (R294). -/
def requestReceive (s : State) (link : Nat) (p : Packet) (tagOk : Bool) (buf : BufErr) : State :=
  if !(linkUp s link) || p.dst ≠ s.rig.active.moduleId || p.type = 0x9 || p.type = 0xE then s
  else requestCheck (ingressFree s link (flitsOf p)) link p tagOk buf

/-- REQUEST_RECEIVE. -/
def execRequestReceive (link : Nat) (pkt : Packet) (tagOk : Bool) (s : State) (buf : BufErr := []) : Host.Outcome State Fault Refusal :=
  .next (requestReceive s link pkt tagOk buf)

/-- A response discarded under R232; one whose tag fails counts there too (Table 08-11). -/
def dropLate (s : State) (tag : Bool) : State :=
  dropFab s fun f => { f with late := satAdd 16 f.late 1, tagFail := satAdd 16 f.tagFail (b2n tag) }

/-- A response taken: src_owners of a read reach the mask of the context that issued it before the transaction ends (R230, R232). -/
def responseCheck (s : State) (p : Packet) (tagOk : Bool) (buf : BufErr) : State :=
  if bufBad buf then s
  else if !(holdsGen s p.keyGen) || !tagOk || bufWrong buf then dropLate s true
  else if !(windowPass (windowGet s.fabric p.src p.keyGen) p.seq) then dropFab s fun f => { f with replayed := satAdd 16 f.replayed 1 }
  else
    let s1 := windowTake s p
    match s1.fabric.trackers.find? fun t => t.txn == p.txn && t.seq == p.echo with
    | none => dropLate s1 false
    | some t =>
      let s2 := match t.owner with
        | .command cid => match cmdGet s1 cid with
          | some c => if p.type = 0x9 then addMask s1 c.ctx p.srcOwners else s1
          | none => s1
        | _ => s1
      settle (endTxns s2 (fun u => u.txn == p.txn) (statusOfCode p.status))

/-- RESPONSE_RECEIVE (R232, R241): consumed here, so it leaves the ingress buffer. -/
def responseReceive (s : State) (link : Nat) (p : Packet) (tagOk : Bool) (buf : BufErr) : State :=
  if !(linkUp s link) || p.dst ≠ s.rig.active.moduleId || !(p.type = 0x9 || p.type = 0xE) then s
  else responseCheck (ingressFree s link (flitsOf p)) p tagOk buf

/-- RESPONSE_RECEIVE. -/
def execResponseReceive (link : Nat) (pkt : Packet) (tagOk : Bool) (s : State) (buf : BufErr := []) : Host.Outcome State Fault Refusal :=
  .next (responseReceive s link pkt tagOk buf)

/-- TRANSACTION_TIMEOUT (R232): the transaction fails with PEER_LOST. -/
def execTransactionTimeout (txn : Nat) (s : State) : Host.Outcome State Fault Refusal :=
  .next (settle (endTxns s (fun t => t.txn == txn) .peerLost))

/-! ### Transit (R220, R226 to R228) -/

/-- Discard a transit packet: its flits leave the ingress buffer. -/
def transitDrop (s : State) (link : Nat) (p : Packet) (f : Fabric → Fabric) : State := dropFab (ingressFree s link (flitsOf p)) f

/-- TRANSIT_FORWARD: a packet for another module. A path over an NT-420 carries module IDs up to 1,023 only. One that an uncorrectable word
of the ingress buffer holds is discarded (R241); wrong data that the code does not see go on with it (R294). -/
def transitForward (s : State) (link : Nat) (p : Packet) (buf : BufErr) : State :=
  if !(linkUp s link) || p.dst = s.rig.active.moduleId then s
  else if bufBad buf then transitDrop s link p id
  else if 31 ≤ p.hops then transitDrop s link p fun f => { f with hopLimit := satAdd 16 f.hopLimit 1 }
  else
    match pickLink s p.dst with
    | none => transitDrop s link p fun f => { f with noRoute := satAdd 16 f.noRoute 1 }
    | some n =>
      if ((linkOf s link).peerNt420 || (linkOf s n).peerNt420) && (decide (1023 < p.dst) || decide (1023 < p.src)) then
        transitDrop s link p fun f => { f with noRoute := satAdd 16 f.noRoute 1 }
      else enqueue s n 12 { pkt := { p with hops := p.hops + 1, data := bufFlip buf 0 p.data }, txn := none, space := 0, via := some link }

/-- TRANSIT_FORWARD. -/
def execTransitForward (link : Nat) (pkt : Packet) (s : State) (buf : BufErr := []) : Host.Outcome State Fault Refusal :=
  .next (transitForward s link pkt buf)

/-! ### Link layer -/

/-- LINK_TRAIN (R214). -/
def execLinkTrain (link : Nat) (peer : PeerInfo) (s : State) : Host.Outcome State Fault Refusal := .next (if clockStopped s (72 + link) then s else linkTrain s link peer)

/-- LINK_CAPABILITY_RETRY (R214): step 1 again, and the rest where the peer answers now. -/
def execLinkCapabilityRetry (link : Nat) (peer : PeerInfo) (s : State) : Host.Outcome State Fault Refusal :=
  .next (if clockStopped s (72 + link) then s else linkTrain s link peer)

/-- A codeword as the receiver takes it (R217 to R219): one that fails the FEC 8 times in succession resets the link. -/
def codewordIn (s : State) (n : Nat) (cw : Codeword) : State :=
  if cw.fec = .failed then
    if 8 ≤ (linkOf s n).fails + 1 then linkReset (linkMod s n codewordNak) n false
    else linkMod s n fun l => codewordNak { l with fails := l.fails + 1 }
  else
    let s1 := if cw.fec = .corrected then linkMod s n fun l => { l with cntCorr := l.cntCorr + 1 } else s
    if cw.seq % 4096 = (linkOf s1 n).rxSeq then codewordTake s1 n cw else linkMod s1 n codewordNak

/-- CODEWORD_RECEIVE: both directions run at one rate, so the link sends one codeword for each that comes in (R216, log entry 51). -/
def codewordReceive (s : State) (n : Nat) (cw : Codeword) : State :=
  if !(linkUp s n) then s
  else
    let t := codewordIn s n cw
    if linkUp t n then codewordSend t n else t

/-- CODEWORD_RECEIVE. -/
def execCodewordReceive (link : Nat) (cw : Codeword) (s : State) : Host.Outcome State Fault Refusal :=
  .next (settle (codewordReceive s link cw))

/-- EGRESS_REQUEST (R235). -/
def execEgressRequest (link requester : Nat) (s : State) : Host.Outcome State Fault Refusal :=
  .next (if link < 48 && !(clockStopped s (72 + link)) then egressRequest s link requester else s)

/-- EGRESS_BACKOFF_EXPIRE (R236). -/
def execEgressBackoffExpire (link requester : Nat) (s : State) : Host.Outcome State Fault Refusal :=
  .next (if link < 48 && !(clockStopped s (72 + link)) then egressBackoff s link requester else s)

/-- LINK_WATCHDOG (R237, R240). -/
def execLinkWatchdog (link : Nat) (s : State) : Host.Outcome State Fault Refusal :=
  .next (if linkUp s link then
      settle (linkReset (linkMod s link fun l => { l with wdog := true, cntWdog := l.cntWdog + 1 }) link true)
    else s)

/-- A write to FAB_LINK_CTRLn (Table 08-13): hold_down keeps the link down or lets it train; reset resets it. -/
def linkCtrl (n : Nat) (v : Word) (s : State) : Answer :=
  if 48 ≤ n then ⟨s, .ok, []⟩
  else
    let old := (linkOf s n).holdDown
    let hold := v.getLsbD 1
    let s1 := linkMod s n fun l => { l with holdDown := hold }
    if v.getLsbD 0 then ⟨settle (linkReset s1 n false), .ok, []⟩
    else if hold = old then ⟨s1, .ok, []⟩
    else ⟨settle (linkFlush s1 n (linkMay s1 n)), .ok, []⟩

/-- LINK_CTRL_RESET (R240). -/
def execLinkCtrlReset (p : Port) (tag link : Nat) (v : Word) (s : State) : Host.Outcome State Fault Refusal :=
  .next (mgmtWrite p tag (.linkCtrlReset p tag link v) (linkCtrl link v) s)

/-- LINK_HOLD_DOWN (R214). -/
def execLinkHoldDown (p : Port) (tag link : Nat) (v : Word) (s : State) : Host.Outcome State Fault Refusal :=
  .next (mgmtWrite p tag (.linkHoldDown p tag link v) (linkCtrl link v) s)

/-! ### Collectives (file 09) -/

/-- COLLECTIVE: an admitted command of opcode 0x50 is considered (R243, R260). -/
def execCollective (cid : Nat) (s : State) : Host.Outcome State Fault Refusal :=
  .next (match cmdServed s cid 0x50 colNames with
    | some c => settle (colBegin s c)
    | none => s)

/-- NORM_REDUCE: an admitted command of opcode 0x51 is considered (R258). -/
def execNormReduce (cid : Nat) (s : State) : Host.Outcome State Fault Refusal :=
  .next (match cmdServed s cid 0x51 colNames with
    | some c => settle (colBegin s c)
    | none => s)

/-- COLLECTIVE_SEQ_READY (R245): a command that waits for its turn on its group, or for a slot, is checked again. -/
def execCollectiveSeqReady (cid : Nat) (s : State) : Host.Outcome State Fault Refusal :=
  .next (match (colWaiting s cid).filter fun c => !(spansFill s c.space (colNames s c)) with
    | some c => settle (colBegin s c)
    | none =>
      match (cutWaiting s cid).filter fun c => !(spansFill s c.space (cutNames s c)) with
      | some c => settle (cutBegin s c)
      | none => s)

/-- COLLECTIVE_JOIN_RECEIVE (R248). -/
def execCollectiveJoinReceive (src : Nat) (j : Join) (s : State) : Host.Outcome State Fault Refusal := .next (settle (joinReceive s src j))

/-- COLLECTIVE_CREDIT_RECEIVE (R248). -/
def execCollectiveCreditReceive (src : Nat) (digest : W256) (seq : Nat) (s : State) : Host.Outcome State Fault Refusal :=
  .next (settle (creditReceive s src digest seq))

/-- COLLECTIVE_ABORT_RECEIVE (R261). -/
def execCollectiveAbortReceive (src : Nat) (digest : W256) (seq : Nat) (s : State) : Host.Outcome State Fault Refusal :=
  .next (settle (abortReceive s src digest seq))

/-- COLLECTIVE_TIMEOUT (R261). -/
def execCollectiveTimeout (cid : Nat) (s : State) : Host.Outcome State Fault Refusal := .next (settle (colTimeout s cid))

end Sys2Proof.Machine
end

