-- ==== Sys2Proof/Machine/Kem.lean ====
section
/-! DEFINITION. ML-KEM-1024 (FIPS 203), which the spec names for party channels and sessions (R343, R402). Log entry 5: the scheme is taken
from the public standard. -/

namespace Sys2Proof.Machine

/-- The modulus. -/
def kemQ : Nat := 3329

/-- A polynomial, or its transform: 256 coefficients below q. -/
abbrev Poly := List Nat

/-- Coefficient i. -/
def pAt (f : Poly) (i : Nat) : Nat := f.getD i 0

/-- Sum and difference. -/
def pAdd (f g : Poly) : Poly := (List.range 256).map fun i => (pAt f i + pAt g i) % kemQ
def pSub (f g : Poly) : Poly := (List.range 256).map fun i => (pAt f i + kemQ - pAt g i) % kemQ

/-- The powers of 17, the 256th root of unity. -/
def zetaFrom : Nat → Nat → List Nat
  | 0, _ => []
  | n + 1, z => z :: zetaFrom n (z * 17 % kemQ)

/-- ζ to a power. -/
def zeta (zs : List Nat) (e : Nat) : Nat := zs.getD (e % 256) 1

/-- The 7-bit reversal. -/
def bitRev7 (i : Nat) : Nat := ((List.range 7).map fun b => i / 2 ^ b % 2 * 2 ^ (6 - b)).sum

/-- The transform: pair i holds the polynomial modulo X² − ζ^(2·BitRev(i) + 1). -/
def ntt (f : Poly) : Poly :=
  let zs := zetaFrom 256 1
  (List.range 256).map fun n =>
    let e := 2 * bitRev7 (n / 2) + 1
    ((List.range 128).foldl (fun a j => a + pAt f (2 * j + n % 2) * zeta zs (e * j)) 0) % kemQ

/-- The inverse transform; 3303 is the inverse of 128. -/
def nttInv (f : Poly) : Poly :=
  let zs := zetaFrom 256 1
  (List.range 256).map fun n =>
    let s := (List.range 128).foldl (fun a i => a + pAt f (2 * i + n % 2) * zeta zs (256 * 128 - (2 * bitRev7 i + 1) * (n / 2))) 0
    s % kemQ * 3303 % kemQ

/-- The product of transforms, pair by pair. -/
def nttMul (f g : Poly) : Poly :=
  let zs := zetaFrom 256 1
  (List.range 256).map fun n =>
    let i := n / 2
    let z := zeta zs (2 * bitRev7 i + 1)
    if n % 2 = 0 then (pAt f n * pAt g n + pAt f (n + 1) * pAt g (n + 1) % kemQ * z) % kemQ
    else (pAt f (n - 1) * pAt g n + pAt f n * pAt g (n - 1)) % kemQ

/-- ByteEncode with d bits a coefficient. -/
def polyBytes (d : Nat) (f : Poly) : List Byte := natLe (32 * d) (f.foldr (fun x acc => x + 2 ^ d * acc) 0)

/-- ByteDecode with d bits a coefficient; 12 bits are taken modulo q. -/
def polyOf (d : Nat) (bs : List Byte) : Poly :=
  let v := leNat bs
  (List.range 256).map fun i => if d = 12 then fld v (d * i) d % kemQ else fld v (d * i) d

/-- Compress to d bits, and back. -/
def polySmall (d : Nat) (f : Poly) : Poly := f.map fun x => (2 * 2 ^ d * x + kemQ) / (2 * kemQ) % 2 ^ d
def polyLarge (d : Nat) (f : Poly) : Poly := f.map fun y => (kemQ * y + 2 ^ (d - 1)) / 2 ^ d

/-- The coefficients that rejection sampling takes from a byte stream. -/
def sampleFrom : Nat → List Byte → List Nat
  | 0, _ => []
  | n + 1, bs =>
    let v := leNat (bs.take 3)
    (if v % 4096 < kemQ then [v % 4096] else []) ++ (if v / 4096 < kemQ then [v / 4096] else []) ++ sampleFrom n (bs.drop 3)

/-- SampleNTT: a uniform transform from a seed and two indices. -/
def sampleNtt (rho : List Byte) (j i : Nat) : Poly := (sampleFrom 448 (shake128 1344 (rho ++ natLe 1 j ++ natLe 1 i))).take 256

/-- SamplePolyCBD with η = 2, from a seed and a counter. -/
def sampleCbd (seed : List Byte) (n : Nat) : Poly :=
  let v := leNat (shake256 128 (seed ++ natLe 1 n))
  (List.range 256).map fun i =>
    let b := fld v (4 * i) 4
    (b % 2 + b / 2 % 2 + kemQ - b / 4 % 2 - b / 8) % kemQ

/-- The inner product of vectors of transforms. -/
def dotNtt (f g : List Poly) : Poly := (f.zip g).foldl (fun a e => pAdd a (nttMul e.1 e.2)) []

/-- The public matrix, by row and column. -/
def kemRow (rho : List Byte) (i : Nat) : List Poly := (List.range 4).map fun j => sampleNtt rho j i
def kemCol (rho : List Byte) (i : Nat) : List Poly := (List.range 4).map fun j => sampleNtt rho i j

/-- Polynomials from consecutive parts of bytes. -/
def polysOf (d : Nat) (bs : List Byte) : List Poly := (List.range 4).map fun i => polyOf d ((bs.drop (32 * d * i)).take (32 * d))

/-- A key pair from d and z: encapsulation key (1,568 bytes) and decapsulation key (3,168 bytes). -/
def kemKeys (d z : List Byte) : List Byte × List Byte :=
  let g := sha3_512 (d ++ [4])
  let rho := g.take 32
  let s := (List.range 4).map fun i => ntt (sampleCbd (g.drop 32) i)
  let t := (List.range 4).map fun i => pAdd (dotNtt (kemRow rho i) s) (ntt (sampleCbd (g.drop 32) (4 + i)))
  let ek := t.flatMap (polyBytes 12) ++ rho
  (ek, s.flatMap (polyBytes 12) ++ ek ++ sha3_256 ek ++ z)

/-- K-PKE encryption of 32 bytes. -/
def kemEncrypt (ek m r : List Byte) : List Byte :=
  let rho := ek.drop 1536
  let y := (List.range 4).map fun i => ntt (sampleCbd r i)
  let u := (List.range 4).map fun i => pAdd (nttInv (dotNtt (kemCol rho i) y)) (sampleCbd r (4 + i))
  let v := pAdd (pAdd (nttInv (dotNtt (polysOf 12 (ek.take 1536)) y)) (sampleCbd r 8)) (polyLarge 1 (polyOf 1 m))
  u.flatMap (fun f => polyBytes 11 (polySmall 11 f)) ++ polyBytes 5 (polySmall 5 v)

/-- K-PKE decryption. -/
def kemDecrypt (dk c : List Byte) : List Byte :=
  let u := (polysOf 11 (c.take 1408)).map fun f => ntt (polyLarge 11 f)
  let v := polyLarge 5 (polyOf 5 (c.drop 1408))
  polyBytes 1 (polySmall 1 (pSub v (nttInv (dotNtt (polysOf 12 (dk.take 1536)) u))))

/-- Bytes of a ciphertext. -/
def kemCtLen : Nat := 1568

/-- The shared secret and ciphertext for a message of 32 bytes: the other end's part. -/
def kemEncaps (ek m : List Byte) : List Byte × List Byte :=
  let g := sha3_512 (m ++ sha3_256 ek)
  (g.take 32, kemEncrypt ek m (g.drop 32))

/-- The shared secret that a decapsulation key recovers: pseudo-random where the ciphertext does not encrypt back. -/
def kemDecaps (dk c : List Byte) : List Byte :=
  let ek := (dk.drop 1536).take 1568
  let m := kemDecrypt dk c
  let g := sha3_512 (m ++ (dk.drop 3104).take 32)
  if kemEncrypt ek m (g.drop 32) = c then g.take 32 else shake256 32 ((dk.drop 3136).take 32 ++ c)

end Sys2Proof.Machine
end

