-- ==== Sys2Proof/Machine/Keys.lean ====
section
/-! DEFINITION. Quotes, certificates, the key-slot commands of KEY_CTRL, fabric key rotation and the random source (file 13). -/

namespace Sys2Proof.Machine

/-! ### Registers that quotes report -/

/-- ID_PART (Table 02-12). -/
def idPart (s : State) : Word :=
  packWord [(0x504C, 16), (0x0840, 16), (0x0, 4), (0xB, 4), (s.power.orderVariant.toNat, 8)]

/-- The code of a USE in KEY_SLOT (Table 13-17). -/
def useCode : Use → Nat
  | .memRange => 0
  | .fabric => 1
  | .port => 2
  | .wrap => 3
  | .sign => 4
  | .kdf => 5

/-- KEY_SLOTn (Table 13-17). -/
def keySlotWord (k : KeySlot) : Word :=
  packWord [(b2n k.valid, 1), (useCode k.use, 3), (k.ownerSet.toNat, 8), (b2n k.prev, 1), (b2n k.locked, 1), (k.origin, 2),
    (k.target, 6), (k.party, 3)]

/-- The digest of the active COMPACT section body. -/
def compactDigest (s : State) : W256 := shakeW s.rig.active.compactBytes

/-- The code of a role in DLY_PAIR. -/
def roleCode : Role → Nat
  | .none => 0
  | .primary => 1
  | .twin => 2

/-! ### Quotes (R338 to R340) -/

/-- A range entry of a quote (Table 13-3). -/
def quoteRange (s : State) (n : Nat) : List Byte :=
  let c := rangeCfg s n
  natLe 2 (c.base / 2 ^ 30) ++ natLe 2 (c.size / 2 ^ 30) ++ natLe 1 c.mode ++ natLe 1 c.ownerSet.toNat ++
  natLe 1 (b2n c.mirrored + 2 * c.keySource + 8 * b2n (c.mode != 0 && (rangeKey s n).keyless)) ++ natLe 1 0

/-- The flags byte of a quote (Table 13-2). -/
def quoteFlags (s : State) : Nat :=
  packBits [(b2n s.power.golden, 1), (b2n s.rig.active.house, 1), (b2n s.rig.active.shared, 1), (b2n s.lc.grant.isSome, 1),
    (b2n s.rig.active.preauth, 1), (b2n s.keys.compactEnded, 1)]

/-- The 576-byte body of a quote (Table 13-2). -/
def quoteBody (s : State) (nonce : W256) (ek : List Byte) : List Byte :=
  natLe 4 0x544F5551 ++ natLe 1 1 ++ natLe 1 (lcNow s.lc) ++ natLe 1 (quoteFlags s) ++ natLe 1 (roleCode s.dly.role) ++
  natLe 8 s.power.serial.toNat ++ natLe 6 ((idPart s).toNat % 2 ^ 48) ++ natLe 2 (s.rig.active.moduleId % 2 ^ 12) ++
  natLe 4 s.power.fwVersion ++ natLe 4 0 ++ w256Bytes nonce ++ w256Bytes s.power.fwMeas ++
  w256Bytes (shakeW (Config.microcode (runningImage s))) ++ w256Bytes (activeDigest s) ++
  w256Bytes (compactDigest s) ++ w256Bytes (if ek.isEmpty then 0 else shakeW ek) ++
  w256Bytes (shakeW (s.keys.slots.flatMap fun k => natLe 8 (keySlotWord k).toNat)) ++
  ((List.range 33).flatMap (quoteRange s)) ++ natLe 6 s.dly.committed ++ List.replicate 50 0

/-- A quote: its body, then the identity signature over it with the next draw as its hedge (R334, R340). -/
def quoteOf (s : State) (nonce : W256) (ek : List Byte) : List Byte :=
  let b := quoteBody s nonce ek
  b ++ identitySign (s.keys.slots.getD 0 {}) "nirnus-quote" b (drawAt s 0)

/-- Record the last KEY_CTRL command's status. -/
def keyStatus (s : State) (st : Status) : Answer := ⟨{ s with keys := { s.keys with lastStatus := st } }, st, []⟩

/-- The nonce of KEY_NONCE0 to 3. -/
def keyNonce (s : State) : W256 := BitVec.ofNat 256 (leNat (s.keys.nonce.flatMap fun w => natLe 8 w.toNat))

/-- QUOTE over KEY_NONCE. -/
def quoteReq (s : State) : Answer :=
  match quoteCheck s with
  | some st => keyStatus s st
  | none =>
    let s1 := quoteAsk s ⟨keyNonce s, [], .mgmt⟩
    keyStatus { s1 with keys := { s1.keys with outPtr := 0, out := [], outReady := false } } .ok

/-- QUOTE. -/
def execQuote (p : Port) (tag : Nat) (s : State) : Host.Outcome State Fault Refusal := .next (mgmtWrite p tag (.quote p tag) quoteReq s)

/-- An ML-KEM-1024 key pair from the next two draws: encapsulation and decapsulation key (R343, R402). -/
def kemDraw (s : State) : List Byte × List Byte := kemKeys (w256Bytes (drawAt s 0)) (w256Bytes (drawAt s 1))

/-- Hand a finished quote to its requester: the output window, a BIND reply, a HELLO_REPLY, or the pair offer (Tables 10-1, 13-4,
15-3). -/
def quoteDeliver (s : State) (r : QuoteReq) (q : List Byte) : State :=
  match r.dest with
  | .mgmt => { s with keys := { s.keys with out := q, outReady := true } }
  | .bind p via tag =>
    let c := s.keys.channels.getD p {}
    if c.ek = some r.ek && !c.bound then
      mgmtReply { s with keys := { s.keys with channels := s.keys.channels.set p { c with quote := q } } } via tag .ok
        (q ++ r.ek)
    else s
  | .session p =>
    let v := portOf s.lmx p
    if v.session = 1 && v.ek = r.ek then
      setupSend (portMod s p fun v => { v with quote := q }) p (.helloReply q r.ek)
    else s
  | .pair => offerSend q s
  | .challenge => s

/-- QUOTE_COMPLETE (R339): the oldest request's signing ends. The signature's draw waits while the entropy source fails; a challenge at the
front ends as CHALLENGE_DONE. -/
def quoteFinish (s : State) : State :=
  match s.keys.quotes with
  | [] => s
  | r :: rest =>
    if drawsWait s || r.dest == .challenge then s
    else
      quoteDeliver (drawUse { s with keys := { s.keys with quotes := rest } } 1) r (quoteOf s r.nonce r.ek)

/-- QUOTE_COMPLETE. -/
def execQuoteComplete (s : State) : Host.Outcome State Fault Refusal := .next (settle (quoteFinish s))

/-! ### Certificates and the output window (R337, R366) -/

/-- The module's identity certificate, or the vendor intermediate (Table 13-1). -/
def certBytes (s : State) (inter : Bool) : List Byte :=
  let body :=
    if inter then
      natLe 4 0x54524543 ++ natLe 1 2 ++ natLe 1 1 ++ natLe 2 0 ++ natLe 8 Config.intermediateSerial.toNat ++ natLe 6 0 ++
      natLe 2 0 ++ w256Bytes (shakeW vendorRootKey) ++ intermediatePub ++ natLe 8 0
    else
      natLe 4 0x54524543 ++ natLe 1 3 ++ natLe 1 2 ++ natLe 2 0 ++ natLe 8 s.power.serial.toNat ++
      natLe 6 ((idPart s).toNat % 2 ^ 48) ++ natLe 2 0 ++ w256Bytes (shakeW intermediatePub) ++
      identityPublic s.lc.vault0 ++ natLe 32 0 ++ natLe 8 0
  body ++ openBytes 29792 (Config.certSign inter)

/-- CERT: the certificate is placed in the output window. -/
def certReq (inter : Bool) (s : State) : Answer :=
  keyStatus { s with keys := { s.keys with outPtr := 0, out := certBytes s inter, outReady := true } } .ok

/-- CERT. -/
def execCert (p : Port) (tag : Nat) (intermediate : Bool) (s : State) : Host.Outcome State Fault Refusal :=
  .next (mgmtWrite p tag (.cert p tag intermediate) (certReq intermediate) s)

/-- A read of KEY_OUT_DATA: 8 bytes at ptr, which advances by 8; 0 at or beyond len (Table 13-15). -/
def keyOutRead (s : State) : Answer :=
  let p := s.keys.outPtr
  let b := (s.keys.out.drop p).take 8
  ⟨{ s with keys := { s.keys with outPtr := (p + 8) % 2 ^ 15 } }, .ok, b ++ List.replicate (8 - b.length) 0⟩

/-- KEY_OUT_READ. -/
def execKeyOutRead (p : Port) (tag : Nat) (s : State) : Host.Outcome State Fault Refusal := .next (mgmtRead p tag (.keyOutRead p tag) keyOutRead s)

/-! ### DRAW, ZEROIZE -/

/-- Whether a slot lies among those that deliveries and requests name (Table 13-6). -/
def namedSlot (slot : Nat) : Bool := decide (32 ≤ slot) && decide (slot ≤ 127)

/-- Every party of the compact as an owner set. -/
def compactOwners (s : State) : BitVec 8 := BitVec.ofNat 8 (maskOf (s.rig.active.parties.map (·.index)))

/-- Whether DRAW may set an owner set: 0, or in a Solo rig the compact's one party (Table 13-14). -/
def drawOwnerOk (s : State) (o : BitVec 8) : Bool := o == 0 || (!isShared s && o == compactOwners s)

/-- DRAW: a drawn kdf key in the named slot. -/
def drawKey (slot : Nat) (o : BitVec 8) (s : State) : Answer :=
  if !namedSlot slot then keyStatus s .badDescriptor
  else if !drawOwnerOk s o then keyStatus s .flowDenied
  else if (s.keys.slots.getD slot {}).valid then keyStatus s .busy
  else
    keyStatus (drawUse (slotPut s slot { valid := true, use := .kdf, ownerSet := o, origin := 1, key := drawAt s 0 }) 1) .ok

/-- DRAW; the draw waits while the entropy source fails (R336). -/
def execDraw (p : Port) (tag slot : Nat) (ownerSet : BitVec 8) (s : State) : Host.Outcome State Fault Refusal :=
  .next (mgmtDraw p tag (.draw p tag slot ownerSet) (drawKey slot ownerSet) s)

/-- KEY_CTRL ZEROIZE: one unlocked slot is struck (R354, Table 13-14). -/
def zeroizeKey (slot : Nat) (s : State) : Answer :=
  let k := s.keys.slots.getD slot {}
  if !namedSlot slot then keyStatus s .badDescriptor
  else if k.locked || (isShared s && k.ownerSet != 0) then keyStatus s .flowDenied
  else keyStatus (slotStrike s fun i _ => i == slot) .ok

/-- KEY_ZEROIZE. -/
def execKeyZeroize (p : Port) (tag slot : Nat) (s : State) : Host.Outcome State Fault Refusal :=
  .next (mgmtWrite p tag (.keyZeroize p tag slot) (zeroizeKey slot) s)

/-! ### Fabric key generations (R350, R351) -/

/-- Empty the replay windows of a fabric key generation bit. -/
def windowsDrop (s : State) (g : Bool) : State :=
  { s with fabric := { s.fabric with windows := s.fabric.windows.filter fun w => w.1.2 != g } }

/-- FAB_ACTIVATE: the staged key becomes current, the old one is accepted on receive only, seq restarts at 0, the replay windows
are emptied; KEY_ABSENT with nothing staged (Table 13-10, step 2). -/
def fabActivate (s : State) : Answer :=
  match s.keys.fabOther with
  | some i =>
    if s.keys.fabStaged then
      let s1 := slotMod s i fun k => { k with prev := false }
      let s2 := match s.keys.fabCur with
        | some j => slotMod s1 j fun k => { k with prev := true }
        | none => s1
      keyStatus { s2 with
        keys := { s2.keys with
          fabCur := some i, fabOther := s.keys.fabCur, fabStaged := false, fabGen := s.keys.fabOtherGen
          fabOtherGen := s.keys.fabGen }
        fabric := { s2.fabric with seq := 0, windows := [] } } .ok
    else keyStatus s .keyAbsent
  | none => keyStatus s .keyAbsent

/-- FAB_ACTIVATE. -/
def execFabActivate (p : Port) (tag : Nat) (s : State) : Host.Outcome State Fault Refusal :=
  .next (mgmtWrite p tag (.fabActivate p tag) fabActivate s)

/-- FAB_RETIRE: the previous slot is zeroized and its windows are emptied; nothing where no previous is held (step 4). -/
def fabRetire (s : State) : Answer :=
  match s.keys.fabOther with
  | some i =>
    if s.keys.fabStaged then keyStatus s .ok
    else
      let s1 := windowsDrop (slotPut s i {}) (s.keys.fabOtherGen % 2 == 1)
      keyStatus { s1 with keys := { s1.keys with fabOther := none, fabOtherGen := 0 } } .ok
  | none => keyStatus s .ok

/-- FAB_RETIRE. -/
def execFabRetire (p : Port) (tag : Nat) (s : State) : Host.Outcome State Fault Refusal :=
  .next (mgmtWrite p tag (.fabRetire p tag) fabRetire s)

/-! ### The random source (R336) -/

/-- DRBG_RESEED: after 2^16 requests the DRBG is reseeded. -/
def execDrbgReseed (s : State) : Host.Outcome State Fault Refusal :=
  .next (if 2 ^ 16 ≤ s.keys.drbgReqs && s.keys.entropyOk then { s with keys := { s.keys with drbgReqs := 0 } } else s)

/-- ENTROPY_HEALTH_FAIL: draws wait and entropy_ok reads 0. -/
def execEntropyHealthFail (s : State) : Host.Outcome State Fault Refusal :=
  .next { s with keys := { s.keys with entropyOk := false } }

end Sys2Proof.Machine
end

