-- ==== Sys2Proof/Machine/Rigs.lean ====
section
/-! DEFINITION. The rig buffer, the check of a rig (R48 to R62, R474, R475) and the rig change (R63 to R65). -/

namespace Sys2Proof.Machine

/-! ### Reading a rig -/

/-- A little-endian field of n bytes at an offset; bytes beyond the end read as 0. -/
def rb (b : List Byte) (o n : Nat) : Nat := leNat ((b.drop o).take n)

/-- Whether n bytes at an offset are all zero. -/
def zeros (b : List Byte) (o n : Nat) : Bool := ((b.drop o).take n).all (· == 0)

/-- A section: type, flags, body offset and body length (Table 02-4). -/
structure Section where
  type : Nat
  flags : Nat
  body : Nat
  len : Nat
deriving DecidableEq, Repr

/-- Walk the section headers from an offset; none where they do not end exactly at the end of the rig. -/
def sectionsFrom : Nat → List Byte → Nat → Option (List Section)
  | 0, _, _ => none
  | fuel + 1, b, o =>
    if o = b.length then some []
    else if b.length < o + 8 then none
    else
      let n := rb b (o + 4) 4
      if b.length < o + 8 + n then none
      else (sectionsFrom fuel b (o + 8 + n)).map (Section.mk (rb b o 2) (rb b (o + 2) 2) (o + 8) n :: ·)

/-- The sections of a rig. -/
def sectionsOf (b : List Byte) : Option (List Section) := sectionsFrom (b.length + 1) b 0

/-- The body offset of the k-th section. -/
def secAt (l : List Section) (k : Nat) : Nat := (l.getD k ⟨0, 0, 0, 0⟩).body

/-- The reason of the first check that fails. -/
def firstBad : List (Bool × Nat) → Option Nat
  | [] => none
  | (bad, r) :: rest => if bad then some r else firstBad rest

/-- The types and lengths that a version-3 rig's sections must have (Table 02-5), as read from its own counts. -/
def shapeV3 (b : List Byte) (l : List Section) : List (Nat × Nat) :=
  let compact := secAt l 4
  [(1, 80), (2, 256), (3, 128), (4, 1024), (5, 8 + 72 * rb b compact 1 + 8 * rb b (compact + 1) 1), (6, 136),
    (7, 424 + 16 * rb b (secAt l 6 + 2) 2), (8, 8), (9, 8), (15, 8 + 29800 * rb b (secAt l 9) 1)]

/-- The same for version 2 (Table 02-9a). -/
def shapeV2 (b : List Byte) (l : List Section) : List (Nat × Nat) :=
  [(1, 56), (4, 576), (7, 48 + 16 * rb b (secAt l 2 + 2) 2), (15, 29808)]

/-- The sections stand as a shape asks, with flags 0. -/
def shapeOk (l : List Section) (shape : List (Nat × Nat)) : Bool :=
  (l.map fun x => (x.type, x.len)) == shape && l.all fun x => x.flags == 0

/-- The rig digest (R51, R61): every byte before the SIGNATURES header, with the digest field taken as zero. -/
def rigDigest (b : List Byte) (sig field : Nat) : W256 :=
  shakeW (b.take field ++ List.replicate 32 0 ++ (b.take (sig - 8)).drop (field + 32))

/-! ### RANGES (R54, R55) -/

/-- A RANGES entry. -/
def rangeEntry (b : List Byte) (o : Nat) : RangeCfg :=
  { base := rb b o 6, size := rb b (o + 8) 8, mode := rb b (o + 16) 1, ownerSet := BitVec.ofNat 8 (rb b (o + 17) 1)
    mirrored := rb b (o + 18) 1 % 2 == 1, keySource := rb b (o + 19) 1 }

/-- Whether an entry breaks a rule that needs no other section. Reserved bytes and bits that are set, codes that Table 02-7 does not list and
extents off the GiB grid count as broken (DESIGN CHOICE, log entry 121). -/
def rangeBad (b : List Byte) (o : Nat) : Bool :=
  let c := rangeEntry b o
  let n := popCount 8 c.ownerSet.toNat
  !zeros b (o + 6) 2 || !zeros b (o + 20) 12 || c.base % 2 ^ 30 != 0 || c.size % 2 ^ 30 != 0 || 3 ≤ c.mode ||
    2 ≤ rb b (o + 18) 1 || 3 ≤ c.keySource || ((c.mode == 0 || c.size == 0) && !zeros b o 32) ||
    768 * 2 ^ 30 < c.base + c.size || (c.keySource == 1 && n != 1) || (c.keySource == 2 && n < 2)

/-- Whether two used extents overlap. -/
def extentsMeet (x y : RangeCfg) : Bool :=
  x.size != 0 && y.size != 0 && decide (x.base < y.base + y.size) && decide (y.base < x.base + x.size)

/-- Whether two entries of a list overlap. -/
def rangesMeet : List RangeCfg → Bool
  | [] => false
  | x :: r => r.any (extentsMeet x) || rangesMeet r

/-! ### The sections of version 3 -/

/-- BANDS (R52). -/
def bandsBad (b : List Byte) (o : Nat) : Bool := (List.range 64).any fun i => rb b (o + 4 * i) 2 / 4 != 0

/-- ISLANDS (R53). -/
def islandsBad (b : List Byte) (o : Nat) : Bool :=
  (List.range 125).any (fun i => 8 ≤ rb b (o + i) 1 || (64 ≤ i && i ≤ 121 && rb b (o + i) 1 != 7)) || !zeros b (o + 125) 3

/-- The party entries of COMPACT. -/
def partiesOf (b : List Byte) (o : Nat) : List Party :=
  (List.range (rb b o 1)).map fun i => ⟨rb b (o + 8 + 72 * i) 1, (b.drop (o + 16 + 72 * i)).take 64⟩

/-- The clauses of COMPACT. -/
def clausesOf (b : List Byte) (o : Nat) : List Clause :=
  (List.range (rb b (o + 1) 1)).map fun i =>
    let c := o + 8 + 72 * rb b o 1 + 8 * i
    ⟨rb b c 1, rb b (c + 1) 1, BitVec.ofNat 8 (rb b (c + 2) 1)⟩

/-- Whether a clause breaks R362 for its ranges. -/
def clauseBad (ranges : List RangeCfg) (c : Clause) : Bool :=
  let r := ranges.getD c.source {}
  r.mode == 0 || popCount 8 r.ownerSet.toNat < 2 || c.subset == 0 || c.subset &&& ~~~r.ownerSet != 0

/-- COMPACT (R56). Nothing is read from bytes [7:2] of its prefix, which the spec gives no content (DESIGN CHOICE, log entry 121). -/
def compactBad (b : List Byte) (o : Nat) (shared : Bool) (ranges : List RangeCfg) : Bool :=
  let n := rb b o 1
  let c := rb b (o + 1) 1
  let ps := partiesOf b o
  let cs := clausesOf b o
  n == 0 || (if shared then 9 ≤ n else n != 1) || 17 ≤ c || ps.any (fun p => 8 ≤ p.index) ||
    (ps.map (·.index)).eraseDups.length != n || (List.range n).any (fun i => !zeros b (o + 9 + 72 * i) 7) ||
    (cs.map (·.id)).eraseDups.length != c || cs.any (clauseBad ranges) ||
    (List.range c).any fun i => !zeros b (o + 8 + 72 * n + 8 * i + 3) 5

/-- A SPACES entry. -/
def spaceEntry (b : List Byte) (o : Nat) : SpaceCfg :=
  { creatable := rb b o 1 % 2 == 1, party := rb b (o + 1) 1, share := rb b (o + 2) 2 }

/-- SPACES (R57). -/
def spacesBad (b : List Byte) (o : Nat) (shared : Bool) (ps : List Party) : Bool :=
  let es := (List.range 16).map fun i => spaceEntry b (o + 8 + 8 * i)
  2 ≤ rb b o 8 || (List.range 16).any (fun i => 2 ≤ rb b (o + 8 + 8 * i) 1 || !zeros b (o + 12 + 8 * i) 4) ||
    (es.headD {}).party != 255 || (es.drop 1).any (fun e => e.party == 255) ||
    (es.drop 1).any (fun e => e.creatable && !ps.any fun p => p.index == e.party) ||
    1000 < ((es.filter (·.creatable)).map (·.share)).foldl (· + ·) 0 ||
    (shared && ps.any fun p => (es.filter fun e => e.creatable && e.party == p.index).length != 1)

/-- Route entries. -/
def routesOf (b : List Byte) (o n : Nat) : List Route :=
  (List.range n).map fun i => ⟨BitVec.ofNat 48 (rb b (o + 16 * i) 6), BitVec.ofNat 48 (rb b (o + 16 * i + 6) 6)⟩

/-- FABRIC of version 3 (R58). -/
def fabricBad (b : List Byte) (o moduleId : Nat) : Bool :=
  let named := (rb b (o + 4) 2).testBit 15
  let links := popCount 48 (rb b (o + 8) 6)
  rb b o 2 != moduleId || 4096 < rb b (o + 2) 2 || rb b (o + 4) 2 / 2 ^ 12 % 8 != 0 || !zeros b (o + 6) 2 ||
    !zeros b (o + 14) 2 || !zeros b (o + 22) 2 || !zeros b (o + 44) 4 || !zeros b (o + 240) 184 ||
    (if named then decide (links < 4) || decide (12 < links) else links != 0) ||
    (List.range (rb b (o + 2) 2)).any fun i => !zeros b (o + 424 + 16 * i + 12) 4

/-- The staging hold (R55, Table 02-8): with a twin named it has a size, of a primary's mirrored ranges at least 1/512 (R264). A mirrored
range with no twin named breaks it too (DESIGN CHOICE, log entry 117). -/
def holdBad (b : List Byte) (o : Nat) (ranges : List RangeCfg) : Bool :=
  let h : RangeCfg := { base := rb b (o + 16) 6, size := rb b (o + 24) 8, mode := 2 }
  h.base % 2 ^ 30 != 0 || h.size % 2 ^ 30 != 0 || 768 * 2 ^ 30 < h.base + h.size ||
    (rb b (o + 4) 2).testBit 15 == (h.size == 0) || ranges.any (extentsMeet h) ||
    decide (512 * h.size < (ranges.filter fun c => c.mode != 0 && c.mirrored).foldl (fun a c => a + c.size) 0)

/-- REDUCE and DEBUG (R59). -/
def flagsBad (b : List Byte) (reduce debug : Nat) : Bool := 4 ≤ rb b reduce 8 || 4 ≤ rb b debug 8 || rb b debug 8 == 3

/-- The ranges of a version-3 rig. -/
def rangesV3 (b : List Byte) (o : Nat) : List RangeCfg := (List.range 32).map fun i => rangeEntry b (o + 32 * i)

/-- Whether an owner set names a party that the compact lacks (R55). -/
def ownersBad (ranges : List RangeCfg) (ps : List Party) : Bool :=
  ranges.any fun c => (bitList 8 c.ownerSet.toNat).any fun p => !ps.any fun q => q.index == p

/-- Steps 3 to 6 of R475 after the version is known to be 3. -/
def reasonV3 (s : State) (b : List Byte) (l : List Section) : Option Nat :=
  let ranges := rangesV3 b (secAt l 3)
  let shared := (rb b (secAt l 8) 8).testBit 0
  let ps := partiesOf b (secAt l 4)
  firstBad [(rb b 8 4 != 0x4749524E || 4096 ≤ rb b 14 2, 0x02), (!shapeOk l (shapeV3 b l), 0x01),
    (rb b 56 32 != (rigDigest b (secAt l 9) 56).toNat, 0x03), (rb b 24 32 != s.power.idkeyFp.toNat, 0x04),
    (bandsBad b (secAt l 1) || islandsBad b (secAt l 2), 0x07),
    ((List.range 32).any (fun i => rangeBad b (secAt l 3 + 32 * i)) || rangesMeet ranges, 0x08),
    (compactBad b (secAt l 4) shared ranges, 0x09), (ownersBad ranges ps, 0x08),
    (spacesBad b (secAt l 5) shared ps, 0x09), (fabricBad b (secAt l 6) (rb b 14 2), 0x0B),
    (holdBad b (secAt l 6) ranges, 0x08), (flagsBad b (secAt l 7) (secAt l 8), 0x07)]

/-- The rig that a version-3 rig's bytes describe. -/
def rigV3 (b : List Byte) (l : List Section) : Rig :=
  let f := secAt l 6
  let named := (rb b (f + 4) 2).testBit 15
  let compact := l.getD 4 ⟨0, 0, 0, 0⟩
  { version := 3, house := false, moduleId := rb b 14 2, serial := BitVec.ofNat 64 (rb b 16 8)
    digest := BitVec.ofNat 256 (rb b 56 32)
    bands := (List.range 64).map fun i => (rb b (secAt l 1 + 4 * i) 2 % 4, BitVec.ofNat 16 (rb b (secAt l 1 + 4 * i + 2) 2))
    caps := (List.range 125).map fun i => rb b (secAt l 2 + i) 1
    ranges := rangesV3 b (secAt l 3)
    compactBytes := (b.drop compact.body).take compact.len
    parties := partiesOf b compact.body, clauses := clausesOf b compact.body
    strict := (rb b (secAt l 5) 8).testBit 0
    spaces := (List.range 16).map fun i => spaceEntry b (secAt l 5 + 8 + 8 * i)
    routeCount := rb b (f + 2) 2, twinNamed := named, twinId := rb b (f + 4) 2 % 2 ^ 12
    twinLinks := BitVec.ofNat 48 (rb b (f + 8) 6), holdBase := rb b (f + 16) 6, holdSize := rb b (f + 24) 8
    laneModes := (List.range 48).map fun i => fld (rb b (f + 32) 12) (2 * i) 2
    classes := (List.range 48).map fun i => BitVec.ofNat 32 (rb b (f + 48 + 4 * i) 4)
    routes := routesOf b (f + 424) (rb b (f + 2) 2)
    replayable := (rb b (secAt l 7) 8).testBit 0, nonfiniteFail := (rb b (secAt l 7) 8).testBit 1
    shared := (rb b (secAt l 8) 8).testBit 0, preauth := (rb b (secAt l 8) 8).testBit 1 }

/-! ### Version 2 (R61, R62) -/

/-- The ranges of a version-2 rig, with the defaults of Table 02-9. -/
def rangesV2 (b : List Byte) (o : Nat) : List RangeCfg :=
  ((List.range 16).map fun i =>
    let c := rangeEntry b (o + 32 * i)
    if c.mode = 0 then ({} : RangeCfg)
    else { c with ownerSet := 1, mirrored := false, keySource := 0 }) ++ List.replicate 16 ({} : RangeCfg)

/-- Steps 3 to 6 of R475 for version 2. -/
def reasonV2 (s : State) (b : List Byte) (l : List Section) : Option Nat :=
  let o := secAt l 1
  let f := secAt l 2
  firstBad [(rb b 8 4 != 0x4749524E || 1024 ≤ rb b 14 2 || !zeros b 56 8, 0x02), (!shapeOk l (shapeV2 b l), 0x01),
    (rb b 24 32 != (rigDigest b (secAt l 3) 24).toNat, 0x03), (rb b 16 8 != s.power.serial.toNat, 0x04),
    ((List.range 16).any (fun i => rangeBad b (o + 32 * i) || !zeros b (o + 32 * i + 17) 3) || rangesMeet (rangesV2 b o), 0x08),
    (rb b f 2 != rb b 14 2 || 1023 < rb b f 2 || 1024 < rb b (f + 2) 2 ||
      (List.range (rb b (f + 2) 2)).any (fun i => !zeros b (f + 48 + 16 * i + 12) 4), 0x0B)]

/-- The rig that a version-2 rig's bytes describe, with the defaults of Table 02-9. -/
def rigV2 (b : List Byte) (l : List Section) : Rig :=
  let f := secAt l 2
  let key := (b.drop (secAt l 1 + 512)).take 64
  { version := 2, house := false, moduleId := rb b 14 2, serial := 0, digest := BitVec.ofNat 256 (rb b 24 32)
    ranges := rangesV2 b (secAt l 1)
    compactBytes := natLe 8 1 ++ natLe 8 0 ++ key, parties := [⟨0, key⟩]
    spaces := { creatable := true, party := 255, share := 500 } :: { creatable := true, party := 0, share := 500 } ::
      List.replicate 14 {}
    routeCount := rb b (f + 2) 2, routes := routesOf b (f + 48) (rb b (f + 2) 2) }

/-! ### Signatures (R60) -/

/-- A signature of the SIGNATURES body: signer's index and signature bytes. -/
def sigAt (b : List Byte) (o i : Nat) : Nat × List Byte :=
  (rb b (o + 8 + 29800 * i) 1, (b.drop (o + 16 + 29800 * i)).take 29792)

/-- The signer of the first signature that is not a valid one by a party of its own. -/
def badSigner (r : Rig) (sigs : List (Nat × List Byte)) : Option Nat :=
  ((List.range sigs.length).zip sigs).findSome? fun e =>
    let good := match r.parties.find? fun p => p.index == e.2.1 with
      | some p => slhVerify slh256s p.key (ascii "nirnus-rig") (w256Bytes r.digest) e.2.2 &&
          !((sigs.take e.1).any fun x => x.1 == e.2.1)
      | none => false
    if good then none else some e.2.1

/-- Step 7 of R475: the count (0x05), then each signature (0x06, with its signer). -/
def sigReason (b : List Byte) (o : Nat) (r : Rig) : Option (Nat × Nat) :=
  if rb b o 1 != r.parties.length then some (0x05, 0)
  else (badSigner r ((List.range (rb b o 1)).map (sigAt b o))).map fun p => (0x06, p)

/-! ### The check of the buffer -/

/-- The outcome of a check: the rig, or a reason of Table 02-23 and a signer. -/
inductive RigCheck where
  | good (r : Rig) | bad (reason signer : Nat)
deriving DecidableEq, Repr

/-- Check a rig of a version: its fields, then its signatures. -/
def rigFields (reason : Option Nat) (b : List Byte) (sig : Nat) (r : Rig) : RigCheck :=
  match reason with
  | some x => .bad x 0
  | none =>
    match sigReason b sig r with
    | some x => .bad x.1 x.2
    | none => .good r

/-- Whether a buffer is too short to hold the HEADER section of the version it names (R474). -/
def rigShort (b : List Byte) : Bool := b.length < 8 + (if rb b 12 2 = 2 then 56 else 80)

/-- The check of the first RIG_BUF_LEN bytes (R474, R475). -/
def rigCheck (s : State) : RigCheck :=
  let b := cellBytes s.rig.buf 0 (min s.rig.len 524288)
  if s.rig.overrun || 524288 < s.rig.len then .bad 0x0A 0
  else if rigShort b then .bad 0x01 0
  else
    match sectionsOf b with
    | none => .bad 0x0A 0
    | some l =>
      if (l.headD ⟨0, 0, 0, 0⟩).type ≠ 1 then .bad 0x01 0
      else if rb b 12 2 = 3 then rigFields (reasonV3 s b l) b (secAt l 9) (rigV3 b l)
      else if rb b 12 2 = 2 then rigFields (reasonV2 s b l) b (secAt l 3) (rigV2 b l)
      else .bad 0x02 0

/-! ### The rig buffer's registers (R65, Table 02-21) -/

/-- Change the rig block. -/
def rigMod (s : State) (f : RigBlock → RigBlock) : State := { s with rig := f s.rig }

/-- Whether a check or a change is running. -/
def rigBusy (s : State) : Bool := s.rig.state == .verifying || s.rig.state == .committing

/-- Record a status of the RIG_ block as the answer to a write. -/
def rigAnswer (s : State) (st : Status) : Answer := ⟨rigMod s fun r => { r with lastStatus := st }, st, []⟩

/-- A write of a buffer register: BUSY and ignored while VERIFYING or COMMITTING; else it takes effect, the state is LOADING and
any verification is discarded (R65). -/
def rigBufWrite (f : RigBlock → RigBlock) (s : State) : Answer :=
  if rigBusy s then rigAnswer s .busy
  else ⟨rigMod s fun r => { f r with state := .loading, staged := none, stagedDigest := 0 }, .ok, []⟩

/-- RIG_BUF_PTR. -/
def rigPtr (v : Word) (r : RigBlock) : RigBlock := { r with ptr := min (fld v.toNat 0 20 / 8 * 8) 524288 }

/-- RIG_BUF_DATA: 8 bytes at ptr; at or beyond 512 KiB the write is ignored and marked. -/
def rigData (v : Word) (r : RigBlock) : RigBlock :=
  if 524288 ≤ r.ptr then { r with overrun := true }
  else { r with buf := putBytes r.buf r.ptr (natLe 8 v.toNat), ptr := min (r.ptr + 8) 524288 }

/-- RIG_BUF_LEN. -/
def rigLen (v : Word) (r : RigBlock) : RigBlock := { r with len := fld v.toNat 0 20 }

/-- RIG_BUF_PTR_WRITE. -/
def execRigBufPtrWrite (p : Port) (tag : Nat) (v : Word) (s : State) : Host.Outcome State Fault Refusal :=
  .next (mgmtWrite p tag (.rigBufPtrWrite p tag v) (rigBufWrite (rigPtr v)) s)

/-- RIG_BUF_DATA_WRITE. -/
def execRigBufDataWrite (p : Port) (tag : Nat) (v : Word) (s : State) : Host.Outcome State Fault Refusal :=
  .next (mgmtWrite p tag (.rigBufDataWrite p tag v) (rigBufWrite (rigData v)) s)

/-- RIG_BUF_LEN_WRITE. -/
def execRigBufLenWrite (p : Port) (tag : Nat) (v : Word) (s : State) : Host.Outcome State Fault Refusal :=
  .next (mgmtWrite p tag (.rigBufLenWrite p tag v) (rigBufWrite (rigLen v)) s)

/-! ### VERIFY and DISCARD -/

/-- VERIFY (Table 02-10, step 2; R474). -/
def rigVerify (s : State) : Answer :=
  if rigBusy s then rigAnswer s .busy
  else rigAnswer (rigMod s fun r => { r with state := .verifying, staged := none, stagedDigest := 0, reason := 0, signer := 0 }) .ok

/-- VERIFY. -/
def execVerify (p : Port) (tag : Nat) (s : State) : Host.Outcome State Fault Refusal := .next (mgmtWrite p tag (.verify p tag) rigVerify s)

/-- The check ends (Table 02-10, step 3): VERIFIED with the staged digest, or REJECTED with its reason, which is logged. -/
def rigVerified (s : State) : State :=
  if s.rig.state = .verifying then
    match rigCheck s with
    | .good r => rigMod s fun x => { x with
        state := .verified, staged := some r, stagedDigest := r.digest, lastStatus := .ok, reason := 0, signer := 0 }
    | .bad reason signer =>
      stLog (rigMod s fun x => { x with
        state := .rejected, staged := none, stagedDigest := 0, lastStatus := .rigMismatch, reason := reason, signer := signer })
        { logBlank with kind := 13, unit := 122, status := .rigMismatch, detail := reason }
  else s

/-- RIG_VERIFY_DONE. -/
def execRigVerifyDone (s : State) : Host.Outcome State Fault Refusal := .next (rigVerified s)

/-- DISCARD (R65). -/
def rigDiscard (s : State) : Answer :=
  if s.rig.state = .committing then rigAnswer s .busy
  else rigAnswer (rigMod s fun r => { r with
    state := .empty, buf := [], ptr := 0, len := 0, overrun := false, staged := none, stagedDigest := 0 }) .ok

/-- DISCARD. -/
def execDiscard (p : Port) (tag : Nat) (s : State) : Host.Outcome State Fault Refusal := .next (mgmtWrite p tag (.discard p tag) rigDiscard s)

/-! ### COMMIT (R63, R64) -/

/-- Whether range n, or the hold as 32, keeps its contents and key from one rig to the next (R64). -/
def rangeKept (old new : Rig) (n : Nat) : Bool :=
  let x := if n = 32 then holdCfg old else old.ranges.getD n {}
  let y := if n = 32 then holdCfg new else new.ranges.getD n {}
  x.mode != 0 && x == y && (y.keySource == 0 || old.compactBytes == new.compactBytes)

/-- The ranges, and the hold as 32, that are used in a rig. -/
def rigUsed (r : Rig) : List Nat :=
  (List.range 33).filter fun n => (if n = 32 then holdCfg r else r.ranges.getD n {}).mode != 0

/-- The key slots of ranges that change: current and previous ones (Table 02-10, step 5). -/
def lostSlots (s : State) (new : Rig) : List Nat :=
  ((rigUsed s.rig.active).filter fun n => !rangeKept s.rig.active new n).flatMap fun n =>
    let k := rangeKey s n
    (if k.keyless then [] else [k.curSlot]) ++ if k.prevValid then [k.prevSlot] else []

/-- Whether a pair cannot stand across a rig change: another twin or none (R65), another role, or a changed pair range or hold. -/
def pairEnds (s : State) (new : Rig) : Bool :=
  !new.twinNamed || !s.rig.active.twinNamed || new.twinId != s.rig.active.twinId || rigRole new != rigRole s.rig.active ||
    (pairRanges s).any (fun n => !rangeKept s.rig.active new n) ||
    (s.rig.active.holdSize != 0 && !rangeKept s.rig.active new 32)

/-- Too few slots among 128 to 255 for the keys that a rig's ranges and hold will be filled under, those struck at step 5 counted as free
(R346). -/
def slotsShort (s : State) (new : Rig) : Bool :=
  let need := (rigUsed new).filter fun n =>
    !rangeKept s.rig.active new n && (if n = 32 then holdCfg new else new.ranges.getD n {}).keySource == 0
  let free := ((List.range 128).map (128 + ·)).filter fun i => !(s.keys.slots.getD i {}).valid || (lostSlots s new).contains i
  decide (free.length < need.length)

/-- The refusal of a COMMIT (R65, R474, R449, Table 12-9). A slot that is being created, whose space is not live yet, refuses it as a live one
does (DESIGN CHOICE, log entry 87). -/
def commitBusy (s : State) : Bool :=
  s.rig.state != .verified || s.rig.staged.any (slotsShort s) || s.sp.slots.any (fun x => x.state != 0) || s.lc.testOpen ||
    s.ciph.ranges.any fun k => k.walk == 2

/-- Step 5 of Table 02-10: COMMITTING; slots of changed ranges struck; the management scrub abandoned (R303); the pair ended; party
channels and pending contributions ended where the COMPACT differs (R344); a grant ended by a Shared policy (R457); requests that waited refused (R241). -/
def commitStart (s : State) (new : Rig) : State :=
  let s1 := slotStrike s fun i _ => (lostSlots s new).contains i
  let s2 := if s.mem.scrub.state = 1 then { s1 with mem := { s1.mem with scrub := { s1.mem.scrub with state := 3 } } } else s1
  let s3 := if s.dly.role != .none && s.dly.state != .unpaired && pairEnds s new then depart s2 else s2
  let s4 :=
    if s.rig.active.compactBytes == new.compactBytes then s3
    else (List.range 8).foldl endChannel { s3 with keys := { s3.keys with pendings := [] } }
  let s5 := if new.shared then { s4 with lc := { s4.lc with grant := none } } else s4
  requestsRefuse (rigMod s5 fun r => { r with state := .committing, next := some new, stagedDigest := 0, lastStatus := .ok })

/-- COMMIT. -/
def rigCommit (s : State) : Answer :=
  if commitBusy s then rigAnswer s .busy
  else
    match s.rig.staged with
    | some new => ⟨commitStart s new, .ok, []⟩
    | none => rigAnswer s .busy

/-- COMMIT. -/
def execCommit (p : Port) (tag : Nat) (s : State) : Host.Outcome State Fault Refusal := .next (mgmtWrite p tag (.commit p tag) rigCommit s)

/-- Wipe all memory outside the kept ranges (Table 02-10, step 7). -/
def wipeUnkept (m : Mem) (kept : List (Nat × RangeCfg)) : Mem :=
  let inLine := fun (l : Nat) => kept.any fun e => decide (e.2.base / 64 ≤ l) && decide (l < (e.2.base + e.2.size) / 64)
  { m with
    cells := m.cells.filter fun c => inLine (c.1 / 64)
    faults := m.faults.filter fun f => inLine f.1
    counters := m.counters.filter fun c => if c.1 < 2 ^ 40 then inLine (c.1 * 4) else inLine (c.1 - 2 ^ 40)
    nodes := m.nodes.filter fun f => kept.any fun e => e.1 == f.range
    allFailed := m.allFailed.filter fun f => kept.any fun e => e.1 == f.1
    cache := m.cache.filter fun x => kept.any fun e => e.1 == x.range
    merge := m.merge.filter fun e => inLine e.key }

/-- Refill range n at a rig change: under a new drawn key where key_source is 0, else keyless (R308). -/
def refillNew (s : State) (n : Nat) : State :=
  let c := rangeCfg s n
  if c.keySource = 0 then
    match freeDrawn s with
    | some slot =>
      fillRange (drawUse (slotPut s slot (drawnRangeKey c.ownerSet n (drawAt s 0))) 1) n (some slot) 3
    | none => fillRange s n none 3
  else fillRange s n none 3

/-- Links whose lane-mode field changed retrain (Table 02-10, step 6). -/
def relinkAll (old : Rig) (s : State) : State :=
  (List.range 48).foldl (fun t n =>
    if old.laneModes.getD n 0 == linkCap t n then t else linkFlush t n (linkMay t n)) s

/-- Points above the new caps come down to them; the Basecamp core and Reel service islands run at theirs (R53, R423). -/
def capIslands (s : State) : State :=
  { s with gaf := { s.gaf with
      islands := ((List.range 125).zip s.gaf.islands).map fun e =>
        let cap := s.rig.active.caps.getD e.1 7
        if 122 ≤ e.1 then { e.2 with granted := cap, point := if s.gaf.hot || s.gaf.pin then 0 else cap }
        else { e.2 with point := min e.2.point cap, granted := min e.2.granted cap } } }

/-- Dailies under the new rig: its role and partner; a pair that stood stays (R264). A primary starts at generation 0 (R270). -/
def rerole (old : Rig) (s : State) : State :=
  let r := s.rig.active
  if s.dly.state != .unpaired && s.dly.state != .orphaned then s
  else if old.twinNamed == r.twinNamed && old.twinId == r.twinId && rigRole old == rigRole r && !s.dly.promoted then
    dlyMod s fun d => { d with committed := if d.role = .primary then 0 else d.committed }
  else dlyMod s fun d => { d with
    role := rigRole r, state := .unpaired, partner := if r.twinNamed then r.twinId else 0, promoted := false, take := false, map := []
    mirrorPos := 0, failed := [], mirrorIds := 0, barred := false, committed := if rigRole r = .primary then 0 else d.committed }

/-- Steps 6 to 8 of Table 02-10. -/
def rigRefilled (s : State) : State :=
  match s.rig.next with
  | none => s
  | some new =>
    if s.rig.state ≠ .committing || drawsWait s then s
    else
      let old := s.rig.active
      let used := rigUsed new
      let kept := used.filter (rangeKept old new)
      let fresh := used.filter fun n => !rangeKept old new n
      let cfg := fun (n : Nat) => if n = 32 then holdCfg new else new.ranges.getD n {}
      let s1 := rigMod { s with gaf := { s.gaf with window := 16 } } fun r => { r with
        active := new, next := none, staged := none, state := .empty, reinitMask := BitVec.ofNat 33 (maskOf fresh) }
      let s2 := { s1 with
        mem := wipeUnkept s1.mem (kept.map fun n => (n, cfg n))
        ciph := { s1.ciph with
          ranges := ((List.range 33).zip s1.ciph.ranges).map fun e =>
            if used.contains e.1 then e.2
            else { filledKey e.2 none e.2.salt 0 0 with keyless := false } }
        keys := { s1.keys with compactEnded := false } }
      rerole old (capIslands (relinkAll old (fresh.foldl refillNew s2)))

end Sys2Proof.Machine
end

