-- ==== Sys2Proof/Machine/Gaffer.lean ====
section
/-! DEFINITION. The Gaffer: the budget, emergencies, admission, retuning, residency, handover, sleep and island resets
(files 16, 18). -/

namespace Sys2Proof.Machine

/-! ### The budget (R416, R22) -/

/-- A write of GAF_BUDGET: below 1,000 is taken as 1,000, above 2,400 as 2,400. -/
def budgetWrite (v : Nat) (s : State) : State :=
  { s with power := { s.power with budgetW := max 1000 (min 2400 v), budgetClamped := decide (v < 1000) || decide (2400 < v) } }

/-- I3C_BUDGET (R414); a scrapped module refuses it (R451). -/
def execI3cBudget (v : Word) (s : State) : Host.Outcome State Fault Refusal :=
  .next (if !i3cUp s.power then s else if s.power.scrapStop then i3cRefuse s else budgetWrite (fld v.toNat 0 12) s)

/-- GAF_BUDGET_WRITE (R416). -/
def execGafBudgetWrite (p : Port) (tag : Nat) (v : Word) (s : State) : Host.Outcome State Fault Refusal :=
  .next (mgmtWrite p tag (.gafBudgetWrite p tag v) (fun t => ⟨budgetWrite (fld v.toNat 0 12) t, .ok, []⟩) s)

/-! ### Package emergencies (R26, R433, R434) -/

/-- The record that reports an emergency: status OK, opcode 0xFF in the tag, its length in busy at the end (R434). -/
def emergencyRecord (cycles : Nat) : List Byte :=
  List.replicate 4 0 ++ natLe 8 (0xFF * 2 ^ 54) ++ List.replicate 36 0 ++ natLe 8 cycles ++ List.replicate 8 0

/-- Report an emergency's start or end to every live space alike. -/
def emergencyNotice (s : State) (cycles : Nat) : State :=
  ((List.range 16).filter fun n => (spaceGet s n).state == 1).foldl (fun t n => sendNotice t n (.record (emergencyRecord cycles))) s

/-- The start of an emergency: points, counts, the log and the notices. -/
def emergencyStart (s : State) (g : Gaffer) : State := emergencyNotice (emergencyMark s g) 0

/-- The end of an emergency. -/
def emergencyEnd (s : State) (g : Gaffer) (cycles : Nat) : State := emergencyNotice { s with gaf := applyPoints g } cycles

/-- PIN_CLAMP (R26): a pin that the module drives is ignored. -/
def execPinClamp (s : State) : Host.Outcome State Fault Refusal :=
  .next (if s.power.thermDrive || !s.power.stbyValid then s
    else
      let s1 := { s with power := { s.power with thermPinLow := true } }
      if s1.power.ready && !s1.gaf.pin then emergencyStart s1 (pinMark s1.gaf)
      else s1)

/-- PIN_CLAMP_END: the pin has read high for 10 µs; the module does not read it while it drives it (R26). -/
def execPinClampEnd (cycles : Nat) (s : State) : Host.Outcome State Fault Refusal :=
  .next (if s.power.thermDrive then s else
    let s1 := { s with power := { s.power with thermPinLow := false } }
    if s1.gaf.pin then emergencyEnd s1 { s1.gaf with pin := false } cycles else s1)

/-- JUNCTION_CLAMP (R26, R433): the module drives THERM_ALERT_N low, and clamps every island once the Gaffer runs. -/
def execJunctionClamp (s : State) : Host.Outcome State Fault Refusal :=
  .next (if !s.power.tapLive then s
    else
      let s1 := { s with power := { s.power with thermDrive := true } }
      if s1.power.ready && !s1.gaf.hot then emergencyStart s1 (hotMark s1.gaf) else s1)

/-- JUNCTION_CLAMP_END: the pin is released, and sampled again: one that another device still holds low clamps (R26). -/
def execJunctionClampEnd (cycles : Nat) (s : State) : Host.Outcome State Fault Refusal :=
  .next (
    let s1 := { s with power := { s.power with thermDrive := false } }
    let s2 := if s1.gaf.hot then emergencyEnd s1 { s1.gaf with hot := false, above := false } cycles else s1
    if s2.power.thermPinLow && s2.power.ready && !s2.gaf.pin then emergencyStart s2 (pinMark s2.gaf) else s2)

/-- The lowest point granted to the running commands of an engine; none where none runs. -/
def lowestGrant (s : State) (e : Nat) : Option Nat :=
  match (s.sp.cmds.filter fun c => cmdRunning c && engineNamed c == some e).map (·.point) with
  | [] => none
  | k :: ks => some (ks.foldl min k)

/-- An island runs at the lowest point granted to its running commands (R425). -/
def islandRefresh (s : State) (e : Nat) : State :=
  match lowestGrant s e with
  | none => s
  | some g =>
    { s with gaf := { s.gaf with
        islands := modAt s.gaf.islands e fun x => { x with granted := g, lower := 0, point := loweredPoint s.gaf g } } }

/-- Change what an overdraw takes from every engine island's grant and from its running commands': `f` gives the point and what is taken
from it. -/
def lowerEngines (f : Nat × Nat → Nat × Nat) (s : State) : State :=
  let island := fun (e : Island × Nat) =>
    let x := f (e.1.granted, e.1.lower)
    if e.2 < 64 then { e.1 with granted := x.1, lower := x.2 } else e.1
  let cmd := fun (c : Cmd) =>
    let x := f (c.point, c.lower)
    if cmdRunning c && (engineNamed c).isSome then { c with point := x.1, lower := x.2 } else c
  { s with
    gaf := { s.gaf with islands := s.gaf.islands.zipIdx.map island }
    sp := { s.sp with cmds := s.sp.cmds.map cmd } }

/-- Two points taken, no lower than 0 (R433). -/
def takeTwo (x : Nat × Nat) : Nat × Nat := (x.1 - 2, min 2 x.1)

/-- What was taken given back. -/
def giveBack (x : Nat × Nat) : Nat × Nat := (x.1 + x.2, 0)

/-- OVERDRAW (R433): every engine island is lowered by two points. -/
def execOverdraw (s : State) : Host.Outcome State Fault Refusal :=
  .next (if s.power.ready && !s.gaf.overdraw then
      let t := lowerEngines takeTwo s
      emergencyStart t { t.gaf with overdraw := true, overdraws := satAdd 16 t.gaf.overdraws 1 }
    else s)

/-- OVERDRAW_END. -/
def execOverdrawEnd (cycles : Nat) (s : State) : Host.Outcome State Fault Refusal :=
  .next (if s.gaf.overdraw then
      let t := (List.range 64).foldl islandRefresh (lowerEngines giveBack s)
      emergencyEnd t { t.gaf with overdraw := false } cycles
    else s)

/-! ### Save pages and images (R139, R428) -/

/-- n save pages of a space: those reserved for it, then free pages of its control range; none where there are not enough. -/
def savePages (s : State) (slot n : Nat) : Option (List Nat) :=
  let x := spaceGet s slot
  let taken := s.array.images.flatMap (·.pages)
  let own := (x.reserved.filter fun p => !(taken.contains p)).take n
  let all := own ++ ((freePages s x.ctlRange).filter fun p => !(own.contains p)).take (n - own.length)
  if x.state ≠ 0 && all.length = n then some all else none

/-- Write the bytes of an image into its pages from an offset on; none where a write fails. -/
def savePut (slot : Nat) : List Nat → Nat → List Byte → State → Option State
  | [], _, _, s => some s
  | p :: ps, off, bs, s =>
    if 2 ^ 21 ≤ off then savePut slot ps (off - 2 ^ 21) bs s
    else
      let r := writePhys s { space := slot } (p * 2 ^ 21 + off) (bs.take (2 ^ 21 - off))
      if r.status = .ok then savePut slot ps 0 (bs.drop (2 ^ 21 - off)) r.st else none

/-- The tiles [key, key + n elements) as bytes. -/
def tileBytes (s : State) (key n : Nat) : List Byte := (smRun 0 s.array.tiles key n).flatMap fun w => natLe 4 w.toNat

/-- The pages of an image: those in which other band images of its engine and space lie and its band's place is free, else pages of its own;
none where there are not enough (R428, R432). -/
def imagePages (s : State) (i : Image) : Option (List Nat) :=
  let mates := s.array.images.filter fun y => y.ctx.isSome && y.space == i.space && y.engine == i.engine
  match if i.ctx.isSome then mates.find? fun y => !(mates.any fun z => z.pages == y.pages && z.band == i.band) else none with
  | some y => some y.pages
  | none => savePages s i.space (if i.ctx.isSome then 3 else 6)

/-- Save a part of an engine: its pages are written, then the image is kept. -/
def saveImage (s : State) (i : Image) (bytes : List Byte) : Option State :=
  match imagePages s i with
  | none => none
  | some ps =>
    (savePut i.space ps (imagePlace s i).1 bytes s).map fun t =>
      { t with array := { t.array with images := t.array.images ++ [{ i with pages := ps }] } }

/-- Codes of 20 bits packed from the least significant bit up. -/
def packA20 (l : List (BitVec 20)) : List Byte :=
  natLe ((l.length * 20 + 7) / 8) (l.foldr (fun (c : BitVec 20) acc => c.toNat + 2 ^ 20 * acc) 0)

/-- The 64 bytes of a band's progress; their order is the model's (log entry 114). -/
def progressBytes (p : Progress) : List Byte :=
  let at_ := p.tally.seen.getD (0, 0, 0)
  (natLe 4 p.chunk ++ natLe 4 p.row ++ natLe 2 p.tally.events.toNat ++ natLe 4 p.tally.invalid ++ natLe 4 p.tally.clip ++
    natLe 4 p.tally.floor ++ natLe 1 (b2n p.tally.seen.isSome) ++ natLe 1 at_.1 ++ natLe 1 at_.2.1 ++ natLe 1 at_.2.2) ++ List.replicate 38 0

/-- The bytes of a band's save image (Table 05-4): tiles, kinds, partials, chain slots, progress. -/
def imageBytes (s : State) (x : Band) (i : Image) : List Byte :=
  tileBytes s (tileKey x.engine (bandTile x 0) 0 0) (bandTiles x * 2 ^ 16) ++ natLe 8 i.tileKind.toNat ++ packA20 i.partials ++
    (i.chains.flatMap fun w => natLe 4 w.toNat) ++ progressBytes i.progress

/-- The tile kinds of a band. -/
def bandKinds (x : Band) : BitVec 16 := BitVec.ofNat 16 ((2 ^ bandTiles x - 1) * 2 ^ bandTile x 0)

/-- The image of a band's tiles for a context, without its pages. -/
def bandImage (s : State) (x : Band) (space ctx : Nat) : Image :=
  let lo := tileKey x.engine (bandTile x 0) 0 0
  let e := s.array.engines.getD x.engine {}
  { cid := none, ctx := some ctx, space := space, engine := x.engine, band := x.band
    tiles := smPart s.array.tiles lo (lo + bandTiles x * 2 ^ 16), tileKind := e.tileKind &&& bandKinds x
    holdStg := e.holdStg, holdTile := e.holdTile, epoch := (s.gaf.islands.getD x.engine {}).epoch }

/-- A band with +0 tiles of kind F32 that hold nothing. -/
def bandZero (s : State) (x : Band) : State :=
  let lo := tileKey x.engine (bandTile x 0) 0 0
  { s with array := engineMod { s.array with tiles := smDrop s.array.tiles lo (lo + bandTiles x * 2 ^ 16) } x.engine fun y =>
      { y with
        tileKind := y.tileKind &&& ~~~(bandKinds x)
        holdTile := if isShared s then y.holdTile.set x.band 0 else y.holdTile
        tileCtx := y.tileCtx.set x.band none } }

/-- Cut a MATMUL at a row boundary of its stream, which a free value picks: the state with what it has streamed, and its image. -/
def mmCut (s : State) (c : Cmd) : State × Image :=
  let b := mmBody (cmdBody c)
  let x := bandAt s b.engine b.band
  let blank := { bandImage s x c.space c.ctx with cid := some c.id }
  match mmCheck s c.space b, b.fa, b.fb with
  | none, some fa, some fb =>
    let r := mmOpen s b fa fb
    let n := chunkCount r.depth b.k * b.m
    let k := if n = 0 then 0 else (freeAt s 0).toNat % n
    let p := mmPart (mmWorked (freeUse s 1) b fa fb 0 (0, 0) (k / b.m, k % b.m)) c b fa fb (k / b.m) (k % b.m)
    let cells := bandCells r b (k / b.m) (k % b.m)
    (p.1, { bandImage p.1 x c.space c.ctx with
      cid := some c.id, partials := cells.1, chains := cells.2, progress := { chunk := k / b.m, row := k % b.m, tally := p.2 } })
  | _, _, _ => (s, blank)

/-- Pre-empt a running MATMUL (R121, R139, Table 05-5): it stops at a row boundary, its band's state is saved, and the band's tiles read
+0 of kind F32 afterwards. Nothing is pre-empted where a save page is missing (R428). -/
def preempt (s : State) (c : Cmd) : State :=
  let x := bandAt s (mmBody (cmdBody c)).engine (mmBody (cmdBody c)).band
  let r := mmCut s c
  match saveImage r.1 r.2 (imageBytes r.1 x r.2) with
  | none => s
  | some t =>
    let u := bandZero t x
    { u with
      sp := cmdMod u.sp c.id fun y => { y with phase := .preempted }
      gaf := { u.gaf with preempts := satAdd 32 u.gaf.preempts 1 } }

/-- Save what a band holds for the context that wrote it (Table 05-5, step 2); none where it cannot be saved. -/
def bandSave (s : State) (x : Band) : Option State :=
  let e := s.array.engines.getD x.engine {}
  match (e.tileCtx.getD x.band none).bind fun y => s.sp.ctxs.find? fun z => z.id == y with
  | none => some (bandZero s x)
  | some y =>
    let i := bandImage s x y.space y.id
    (saveImage s i (imageBytes s x i)).map fun t => bandZero t x

/-- A save image that cannot be read is discarded; a pre-empted command whose image it was fails with MEM_UNCORRECTABLE, its outputs
unspecified (R140). -/
def imageLost (s : State) (i : Image) : State :=
  let t := { s with array := { s.array with images := s.array.images.erase i } }
  match i.cid.bind (cmdGet t) with
  | some c => cmdEnd (mmLose t c) c.id { status := .memUncorrectable, band := i.band }
  | none => t

/-- Give a band to a context that has an image of it: what the band holds is saved, the image read back (Table 05-5, steps 2 and 3). False
where the image cannot be read; none where the outgoing contents cannot be saved, and the work waits (R428). DESIGN CHOICE: after an
image that cannot be read, the band's tiles that are no output of a failed command stay +0 of kind F32, and a command that is being
admitted fails as the resumed one does (log entry 132). -/
def bandSwitch (s : State) (x : Band) (ctx : Nat) : Option (State × Bool) :=
  match s.array.images.find? fun i => i.ctx == some ctx && i.engine == x.engine && i.band == x.band && !i.loaded with
  | none => some (s, true)
  | some i =>
    (bandSave s x).map fun t =>
      let r := imageStatus t i
      if r.2 = .ok then (imageRestore r.1 i x false, true) else (imageLost r.1 i, false)

/-- MATMUL_RESUME: the band is given back to the command's context, and the command goes on from its saved progress (Table 05-5). An
image that cannot be read fails it with MEM_UNCORRECTABLE, an engine marked failed with WATCHDOG (R466). DESIGN CHOICE: a codebook, which
R77 lets the module read once, is read again with the other operands (R139), in whose place R430 keeps it (log entry 132). -/
def mmResume (s : State) (c : Cmd) (e : SramErr) (overlap : Nat) : State :=
  match s.array.images.find? fun i => i.cid == some c.id with
  | none => s
  | some i =>
    let b := mmBody (cmdBody c)
    if s.err.islFailed.getLsbD b.engine then
      cmdEnd { s with array := { s.array with images := s.array.images.erase i } } c.id { status := .watchdog, band := b.band }
    else
      match bandSwitch s (bandAt s b.engine b.band) c.ctx with
      | none => s
      | some (t, false) => t
      | some (t, true) =>
        mmRun { t with
            array := { t.array with images := t.array.images.filter fun y => y.cid != some c.id }
            sp := cmdMod t.sp c.id fun y => { y with phase := .admitted } }
          { c with phase := .admitted } e i.progress overlap

/-- MATMUL_RESUME: only a pre-empted command whose context is resident and whose queue's grip runs, on a band with no other MATMUL. -/
def execMatmulResume (cid : Nat) (e : SramErr) (s : State) (overlap : Nat := 0) : Host.Outcome State Fault Refusal :=
  .next (match cmdGet s cid with
    | some c =>
      let v := cmdBody c
      if c.phase = .preempted && c.opcode = 0x10 && (ctxGet s c.ctx).any (·.resident) && !(gripHalted s c.queue) &&
          engineOurs s c.space (fld v 0 6) && !(feedersStopped s (fld v 0 6)) && (bandCmd s (fld v 0 6) (fld v 6 3)).isNone &&
          !(refEngine s (fld v 0 6)) then
        mmResume s c e overlap
      else s
    | none => s)

/-- An engine with zero staging bytes, +0 tiles of kind F32 and holding masks 0. -/
def engineZero (a : Array) (e : Nat) : Array :=
  engineMod { a with
      tiles := smDrop a.tiles (e * 2 ^ 20) ((e + 1) * 2 ^ 20), staging := smDrop a.staging (e * 2 ^ 23) ((e + 1) * 2 ^ 23) } e fun y =>
    { y with
      tileKind := 0, holdStg := List.replicate 8 0, holdTile := List.replicate 8 0, written := false
      stgCtx := List.replicate 8 none, tileCtx := List.replicate 8 none }

/-- The staging image of an engine for a space, without its pages (R428). -/
def stagingImage (s : State) (e slot : Nat) : Image :=
  let y := s.array.engines.getD e {}
  { cid := none, space := slot, engine := e, band := 0, tiles := smPart s.array.tiles (e * 2 ^ 20) ((e + 1) * 2 ^ 20)
    staging := smPart s.array.staging (e * 2 ^ 23) ((e + 1) * 2 ^ 23), tileKind := y.tileKind, holdStg := y.holdStg
    holdTile := y.holdTile, stgCtx := y.stgCtx, tileCtx := y.tileCtx, epoch := (s.gaf.islands.getD e {}).epoch }

/-- Whether the engine holds contents of a space that still exists. -/
def engineKept (s : State) (e : Nat) : Option Nat :=
  let y := s.array.engines.getD e {}
  if y.written then y.holder.filter fun h => (spaceGet s h).state != 0 else none

/-- Save the staging image of an engine, where there is anything to save; none where it cannot be saved (R428, R435). -/
def saveEngine (s : State) (e : Nat) : Option State :=
  match engineKept s e with
  | none => some s
  | some h =>
    let i := stagingImage s e h
    let masks := ((i.holdStg ++ i.holdTile).map fun (m : BitVec 8) => m.toNat).flatMap (natLe 1)
    saveImage s i (cellBytes s.array.staging (e * 2 ^ 23) (2 ^ 23) ++ tileBytes s (e * 2 ^ 20) (2 ^ 20) ++
      natLe 8 i.tileKind.toNat ++ masks)

/-- Restore a space's staging image of an engine, if it has one; false where the image cannot be read (R435). -/
def restoreEngine (s : State) (e slot : Nat) : State × Bool :=
  match s.array.images.find? fun i => i.ctx.isNone && i.space == slot && i.engine == e with
  | none => (s, true)
  | some i =>
    let r := imageStatus s i
    if r.2 = .ok then (imageRestore r.1 i ⟨e, 0, 1⟩ true, true) else (imageLost r.1 i, false)

/-- Hand an engine to a space (R431): none where the outgoing space's image cannot be saved. -/
def handover (s : State) (e slot : Nat) : Option (State × Bool) :=
  (if (s.gaf.islands.getD e {}).asleep then some s else saveEngine s e).map fun t =>
    let z := { t with
      array := engineMod (engineZero t.array e) e fun y => { y with holder := some slot }
      gaf := { t.gaf with handovers := satAdd 32 t.gaf.handovers 1 } }
    restoreEngine z e slot

/-- Wake a sleeping engine (R435, R436): its SRAM filled, the image of its space restored. -/
def wakeEngine (s : State) (e : Nat) : State × Bool :=
  let t := islandWoken { s with array := engineZero s.array e } e
  match (t.array.engines.getD e {}).holder with
  | some h => restoreEngine t e h
  | none => (t, true)

/-! ### Choosing what runs (R425) -/

/-- The fairness weight of a slot: its share, a share of 0 counting as 1 (R418). -/
def slotWeight (s : State) (slot : Nat) : Nat := max 1 (s.rig.active.spaces.getD slot {}).share

/-- The live spaces in ascending order of energy over weight. -/
def spaceOrder (s : State) : List Nat :=
  sortBy (fun a b => decide ((spaceGet s a).energy100 * slotWeight s b ≤ (spaceGet s b).energy100 * slotWeight s a))
    (shuffle s id ((List.range 16).filter fun n => (spaceGet s n).state == 1))

/-- The queues of a space, round robin from after the last queue admitted. -/
def queueOrder (s : State) (slot : Nat) : List Queue :=
  let qs := sortBy (fun a b => decide (a.idx ≤ b.idx)) (s.sp.queues.filter fun q => q.space == slot)
  let last := (spaceGet s slot).lastQueue
  qs.filter (fun q => decide (last < q.idx)) ++ qs.filter fun q => decide (q.idx ≤ last)

/-- A command that keeps those behind it in its queue from starting: not admitted, or a collective or a cut still waiting for its
turn (R248, R385). -/
def cmdBlocks (s : State) (c : Cmd) : Bool :=
  match c.phase with
  | .accepted => true
  | .waiting =>
    ((c.opcode == 0x50 || c.opcode == 0x51) && (slotOf s c.id).isNone) ||
      (c.opcode == 0x60 && !(s.dly.cut.any fun r => r.cid == c.id))
  | _ => false

/-- The head of a queue: its first command that has not been admitted. -/
def queueHead (s : State) (q : Nat) : Option Cmd :=
  match s.sp.cmds.find? fun c => c.queue == q && cmdBlocks s c with
  | some c => if c.phase = .accepted && !(gripHalted s q) then some c else none
  | none => none

/-- The staging spans that a MATMUL reads, and the tiles that it names (R430). -/
def mmTouches (b : MmBody) : List (Nat × Nat) × List Nat :=
  match b.fa, b.fb with
  | some fa, some fb =>
    ([(b.aOff, spanOf b.m b.aPitch (rowBytes fa.fmt b.k)), (b.bOff, spanOf b.k b.bPitch (rowBytes fb.fmt b.n)),
      (b.saOff, scaleSize fa (fa.share = 0) b.m b.k), (b.sbOff, scaleSize fb (fb.share = 2) b.k b.n)] ++
      (if fa.fmt = .c4 then [(b.cbA, cbBytes)] else []) ++
      (if fb.fmt = .c4 || (b.epi ≠ 0 && b.fo.any fun f => f.fmt == .c4) then [(b.cbB, cbBytes)] else []) ++
      (if 2 ≤ b.epi then [(b.epiOff, epiSpan b)] else []),
      (List.range (tilesFor b.m)).map (b.base + ·))
  | _, _ => ([], [])

/-- The staging span of an output operand. -/
def specSpan (p : OpSpec) (m row : Nat) : Nat × Nat := (64 * p.off, spanOf m p.pitch row)

/-- The staging spans and the tiles of its band that a command writes. -/
def bandWrites (c : Cmd) : List (Nat × Nat) × List Nat :=
  let v := cmdBody c
  if c.opcode = 0x10 then
    let b := mmBody v
    (if b.epi = 0 then [] else [(b.outOff, spanOf b.m b.outPitch (rowBytes ((b.fo.map (·.fmt)).getD .f32) b.n))],
      (List.range (tilesFor b.m)).map (b.base + ·))
  else if c.opcode = 0x20 then
    let b := vecBody v
    if b.o.tile then ([], (List.range (tilesFor b.m)).map (b.o.off % 16 + ·)) else ([specSpan b.o b.m (outRow b)], [])
  else if c.opcode = 0x21 then
    let b := quantBody v
    match b.fo with
    | none => ([], [])
    | some fo =>
      ([specSpan b.out b.m (rowBytes fo.fmt b.n), (b.scOff, scaleSize fo (fo.share = 0) b.m b.n)] ++
        (if b.amaxEn then [(b.amaxOff, 4)] else []) ++ (if b.clipEn then [(b.clipOff, quantBlocks fo b.m b.n)] else []), [])
  else if c.opcode = 0x22 then
    let b := randBody v
    ([specSpan b.out b.m (specRow b.out b.n)], [])
  else if c.opcode = 0x08 then
    let b := stageBody v
    ([(b.off, spanOf b.rows b.stgPitch b.row)], [])
  else if c.opcode = 0x40 then ([((updBody v).scratch, scratchBytes)], [])
  else ([], [])

/-- A pre-empted MATMUL keeps a command off its band (R430). -/
def bandKept (s : State) (c : Cmd) : Bool :=
  let v := cmdBody c
  onEngine c.opcode && s.sp.cmds.any fun p =>
    p.phase == .preempted && fld (cmdBody p) 0 6 == fld v 0 6 && fld (cmdBody p) 6 3 == fld v 6 3 &&
      (let r := mmTouches (mmBody (cmdBody p))
       let w := bandWrites c
       w.1.any (fun x => r.1.any fun y => spansMeet x y) || w.2.any (fun t => r.2.contains t))

/-- Opcodes that run on a vector engine. -/
def onVector (o : Nat) : Bool := [0x20, 0x21, 0x22, 0x40].contains o

/-- Whether the unit that a command names is free (R156, R182, R189, R243); an engine that computes a reference is not (R177). -/
def unitFree (s : State) (c : Cmd) : Bool :=
  let v := cmdBody c
  let busy := fun (f : Cmd → Bool) => s.sp.cmds.any fun x => cmdRunning x && f x
  if c.opcode = 0x10 then (bandCmd s (fld v 0 6) (fld v 6 3)).isNone && !(refEngine s (fld v 0 6))
  else if onVector c.opcode then
    !(refEngine s (fld v 0 6)) && !(busy fun x => onVector x.opcode && fld (cmdBody x) 0 6 == fld v 0 6) &&
      !(c.opcode == 0x40 && busy (fun x => x.opcode == 0x40 && x.space == c.space && (updBody (cmdBody x)).pd == (updBody v).pd))
  else if [0x02, 0x30, 0x31, 0x32, 0x33, 0x34].contains c.opcode then
    !(busy fun x => [0x02, 0x30, 0x31, 0x32, 0x33, 0x34].contains x.opcode && (cmdBody x).testBit 0 == v.testBit 0)
  else if c.opcode = 0x50 || c.opcode = 0x51 then decide (s.col.slots.length < 64)
  else if c.opcode = 0x60 || c.opcode = 0x61 then !(busy fun x => x.opcode == 0x60 || x.opcode == 0x61)
  else if c.opcode = 0x70 then !(busy fun x => x.opcode == 0x70)
  else true

/-- The engine of a command whose island may take it: none for a command without one, or one the space mask keeps off the engine,
whose own check fails it. -/
def engineOf (s : State) (c : Cmd) : Option Nat := (engineNamed c).filter fun e => engineAllows s e c.space

/-- In a Shared rig an engine that another space holds is free to change hands only once that space has no command on it (R431). -/
def engineFree (s : State) (c : Cmd) : Bool :=
  match engineOf s c with
  | none => true
  | some e =>
    let h := (s.array.engines.getD e {}).holder
    !(s.gaf.islands.getD e {}).stopped &&
      (!(isShared s) || h == some c.space || !(refEngine s e) &&
        !(s.sp.cmds.any fun x => x.space != c.space && engineNamed x == some e && (cmdBusy x || x.phase == .preempted)))

/-- A command is ready (R425). Its body has been read, so its wait is met. -/
def cmdIsReady (s : State) (c : Cmd) : Bool :=
  c.phase == .accepted && c.body.isSome &&
    !(c.serial && s.sp.cmds.any fun x => x.queue == c.queue && decide (x.id < c.id)) &&
    (ctxGet s c.ctx).any (fun x => x.resident && !x.leaving) && unitFree s c && engineFree s c

/-- The point that an engine island may be granted at most (R422, R433): its cap; 7 only for vector engine work while its array is idle, with
neither a MATMUL nor a reference on it; lowered by the emergencies in force. -/
def islandLimit (s : State) (e : Nat) (vec : Bool) : Nat :=
  let idle := !(s.sp.cmds.any fun x => cmdRunning x && x.opcode == 0x10 && fld (cmdBody x) 0 6 == e) && !(refEngine s e)
  let top := min (s.rig.active.caps.getD e 7) (if vec && idle then 7 else 6)
  if clampOn s.gaf then 0 else if s.gaf.overdraw then top - 2 else top

/-- The highest point at which a command fits its space's headroom; none where it does not fit (R425). -/
def bestPoint (s : State) (c : Cmd) : Option Nat :=
  let top := match engineNamed c with
    | some e => islandLimit s e (onVector c.opcode)
    | none => 7
  ((List.range (top + 1)).reverse).find? fun k => decide (estimateAt s c k ≤ headroomMw s c.space)

/-- The estimate at point 0 exceeds the space's allowance, or the pool (R421). -/
def budgetRefuses (s : State) (c : Cmd) : Bool := decide (allowanceMw s c.space < estimateAt s c 0)

/-- The command names an engine that an island reset marked failed (R466). -/
def islandDead (s : State) (c : Cmd) : Bool := (engineNamed c).any fun e => s.err.islFailed.getLsbD e

/-- Ask for the check of a sampled tile (R177): it runs where the reference fits the space's headroom and an engine is free for it, else the
sample is skipped. A sleeping engine wakes. -/
def rushTile (c : Cmd) (s : State) (t : Nat) : State :=
  let pick := if estimateAt s c 0 ≤ headroomMw s c.space then (List.range 64).find? (refFree s c.space (fld (cmdBody c) 0 6)) else none
  match pick with
  | none => { s with sp := ctxMod s.sp c.ctx fun x => { x with skipped := x.skipped + 1 } }
  | some e =>
    let w := if (s.gaf.islands.getD e {}).asleep then (wakeEngine s e).1 else s
    { w with
      array := { w.array with rush := w.array.rush ++ [{
        cid := c.id, ctx := c.ctx, tile := t, refEngine := e, epoch := (w.gaf.islands.getD e {}).epoch, vals := [] }] }
      sp := ctxMod w.sp c.ctx fun x => { x with checked := x.checked + 1 } }

/-- Ask for the checks of the MATMULs of a space that the pass has admitted, once it has considered every ready command of the space
(R427). -/
def rushAsk (slot : Nat) (s : State) : State :=
  (s.sp.cmds.filter fun c => c.space == slot && c.phase == .admitted && !c.asked).foldl (fun t c =>
    ((c.rush.map (·.2)).getD []).foldl (rushTile c) { t with sp := cmdMod t.sp c.id fun y => { y with asked := true } }) s

/-- The rushes settings of a MATMUL that will run, with its sampled tiles; its eligible tiles are counted as samples (R176). -/
def sampleRushes (s : State) (c : Cmd) : State :=
  let b := mmBody (cmdBody c)
  match ctxGet s c.ctx with
  | none => s
  | some x =>
    if c.opcode = 0x10 && (mmCheck s c.space b).isNone && rushEligible b x.rushes then
      let n := tilesFor b.m
      let sp := cmdMod s.sp c.id fun y => { y with rush := some (x.rushes, rushSampled x.rushes.n x.samples n) }
      { s with sp := ctxMod sp c.ctx fun y => { y with samples := y.samples + n } }
    else s

/-- Make an engine ready for a space's command: handed over, or woken; none where it cannot be handed over yet. -/
def engineReady (s : State) (e slot : Nat) : Option (State × Bool) :=
  let asleep := (s.gaf.islands.getD e {}).asleep
  if isShared s && (s.array.engines.getD e {}).holder != some slot then (handover s e slot).map fun r => (islandWoken r.1 e, r.2)
  else if asleep then some (wakeEngine s e)
  else some (s, true)

/-- The band whose tiles a command may use: MATMUL, VECTOR, QUANTIZE and RANDOM, and RED_ADD with its source in tiles. -/
def bandNamed (s : State) (c : Cmd) : Option Band :=
  let v := cmdBody c
  if [0x10, 0x20, 0x21, 0x22].contains c.opcode then some (bandAt s (fld v 0 6) (fld v 6 3))
  else if c.opcode = 0x15 && !v.testBit 0 then some (bandAt s (fld v 1 6) (fld v 7 3)) else none

/-- Give the engine of a command to its space and its band to its context; none where that has to wait, false where an image cannot be
read. -/
def placeReady (s : State) (c : Cmd) (e : Nat) : Option (State × Bool) :=
  match engineReady s e c.space, bandNamed s c with
  | some (t, true), some x => bandSwitch t x c.ctx
  | r, _ => r

/-- Admit a command at a point. Where its engine's image cannot be read it ends with MEM_UNCORRECTABLE (R435). -/
def admitCmd (s : State) (c : Cmd) (k : Nat) : State :=
  let go := fun (t : State) =>
    let sp := cmdMod t.sp c.id fun x => { x with phase := .admitted, point := k }
    { t with sp := spaceMod sp c.space fun x =>
        { x with lastQueue := c.queue, pending := if x.pending = some c.id then none else x.pending } }
  match engineOf s c with
  | none => sampleRushes (go s) c
  | some e =>
    match placeReady s c e with
    | none => s
    | some (t, true) => islandRefresh (sampleRushes (go t) c) e
    | some (t, false) => cmdEnd (go t) c.id (resultOf .memUncorrectable)

/-- How long a command keeps its unit at a point, in ns: a MATMUL's occupancy (R103), else the mean it has measured. A command that
fails its checks, or whose pair has no sample yet, takes none. -/
def cmdNs (s : State) (c : Cmd) (k : Nat) : Nat :=
  let b := mmBody (cmdBody c)
  let cycles :=
    if c.opcode = 0x10 then
      match mmCheck s c.space b, b.fa, b.fb with
      | none, some fa, some fb =>
        mmOccupancy b (pairCycles fa fb) (rowBytes fb.fmt b.n) (classPack (fmtClass fb.fmt)) (depthOf fa.fmt (bandRows (bandAt s b.engine b.band)))
      | _, _, _ => 0
    else match estimateOf s c with
      | some e => e.busy / e.n
      | none => 0
  cycles * 1000 / cmdMhz s c k

/-- A command ends before the strict window does (R432); any does without strict slicing. -/
def windowFits (s : State) (c : Cmd) (k leftNs : Nat) : Bool := !s.rig.active.strict || decide (cmdNs s c k ≤ leftNs)

/-- Consider the head of a queue (R421, R425, R426, R430, R432, R466), `leftNs` before the window's end. A command that its space could
never fit fails the first time. -/
def considerQueue (leftNs slot q : Nat) (s : State) : State :=
  match queueHead s q with
  | none => s
  | some c =>
    if c.body.isNone then s
    else if !c.considered && budgetRefuses s c then
      cmdFail { colSkip s c with sp := spaceMod (colSkip s c).sp slot fun x => { x with refused := satAdd 23 x.refused 1 } } c
        (resultOf .budgetRefused)
    else
      let t := { s with sp := cmdMod s.sp c.id fun x => { x with considered := true } }
      if islandDead t c then cmdFail (colSkip t c) c (resultOf .watchdog)
      else if !(cmdIsReady t c) || (spaceGet t slot).pending.any (· != c.id) || bandKept t c then t
      else
        match bestPoint t c with
        | none => t
        | some k => if windowFits t c k leftNs then admitCmd t c k else t

/-- Runnable contexts have a command that has not ended. -/
def ctxRunnable (s : State) (x : Ctx) : Bool := s.sp.cmds.any fun c => c.ctx == x.id && c.space == x.space && cmdLive c

/-- The number of resident contexts. -/
def residentCount (s : State) : Nat := (s.sp.ctxs.filter (·.resident)).length

/-- Take residency from contexts that have nothing to run, up to `n` of them, the longest resident first. -/
def leaveIdle (s : State) (n : Nat) : State :=
  let order := sortBy (fun (a b : Ctx) => decide (b.age ≤ a.age)) (shuffle s (·.id) (s.sp.ctxs.filter fun x => x.resident && !(ctxRunnable s x)))
  (order.take n).foldl (fun t x => { t with sp := ctxMod t.sp x.id fun y => { y with resident := false, leaving := false, age := 0 } })
    (freeUse s (4096 * order.length))

/-- Make runnable contexts resident, the longest waiting first (R429): in the free places, and in those of contexts that have nothing to
run (log entry 91). -/
def residencyFill (s : State) : State :=
  let wait := sortBy (fun (a b : Ctx) => decide (b.age ≤ a.age)) (shuffle s (·.id) (s.sp.ctxs.filter fun x => !x.resident && ctxRunnable s x))
  let t := leaveIdle (freeUse s (4096 * wait.length)) (wait.length - (64 - residentCount s))
  (wait.take (64 - residentCount t)).foldl
    (fun t x => { t with sp := ctxMod t.sp x.id fun y => { y with resident := true, age := 0 } }) t

/-- An admission pass (R425), the rushes checks of each space after its commands (R427). Under strict slicing only the space whose window it
is has admission, and `leftNs` is what the window has left (R432). -/
def admissionPass (leftNs : Nat) (s : State) : State :=
  let s1 := residencyFill (evalWaits s)
  ((spaceOrder s1).filter fun n => windowOpen s1 n).foldl
    (fun t n => rushAsk n ((queueOrder t n).foldl (fun u q => considerQueue leftNs n q.idx u) t)) (freeUse s1 16)

/-- ADMISSION_PASS. -/
def execAdmissionPass (s : State) (leftNs : Nat := 0) : Host.Outcome State Fault Refusal := .next (admissionPass leftNs s)

/-- PENDING_PRIORITY (R426): a ready command that does not fit, in a space without one. -/
def execPendingPriority (cid : Nat) (s : State) : Host.Outcome State Fault Refusal :=
  .next (match cmdGet s cid with
    | none => s
    | some c =>
      if (queueHead s c.queue).any (fun x => x.id == cid) && cmdIsReady s c && (spaceGet s c.space).pending.isNone &&
          c.considered && !(islandDead s c) && (bestPoint s c).isNone then
        { s with sp := spaceMod s.sp c.space fun x => { x with pending := some cid } }
      else s)

/-! ### Retuning (R425) -/

/-- The commands that share one allowance with a slot: its own in a Shared rig, every space's in a Solo rig. -/
def samePurse (s : State) (slot : Nat) (c : Cmd) : Bool := !(isShared s) || c.space == slot

/-- The draw against a slot's allowance. -/
def purseDraw (s : State) (slot : Nat) : Nat :=
  if isShared s then spaceDraw s slot else ((List.range 16).map (spaceDraw s)).foldl (· + ·) 0

/-- Whether the draw exceeds the allowance. -/
def purseOver (s : State) (slot : Nat) : Bool := decide (allowanceMw s slot < purseDraw s slot)

/-- The engine islands on which a slot's purse has running commands. -/
def purseEngines (s : State) (slot : Nat) : List Nat :=
  (List.range 64).filter fun e => s.sp.cmds.any fun c => samePurse s slot c && cmdRunning c && engineNamed c == some e

/-- Change the points of the running commands of an engine. -/
def repoint (s : State) (e : Nat) (f : Nat → Nat) : State :=
  let move := fun (c : Cmd) =>
    if cmdRunning c && engineNamed c = some e && f c.point ≠ c.point then { c with point := f c.point, lower := 0 } else c
  islandRefresh { s with sp := { s.sp with cmds := s.sp.cmds.map move } } e

/-- The granted point of an engine island. -/
def grantedOf (s : State) (e : Nat) : Nat := (s.gaf.islands.getD e {}).granted

/-- Lower points, the highest first, until the draw fits or every island is at point 0. -/
def retuneLower : Nat → Nat → State → State
  | 0, _, s => s
  | fuel + 1, slot, s =>
    if purseOver s slot then
      match sortBy (fun a b => decide (grantedOf s b ≤ grantedOf s a)) (shuffle s id (purseEngines s slot)) with
      | [] => s
      | e :: _ =>
        if grantedOf s e = 0 then s else retuneLower fuel slot (freeUse (repoint s e fun k => min k (grantedOf s e - 1)) 64)
    else s

/-- Mark an island held or free. -/
def setHeld (s : State) (e : Nat) (h : Bool) : State :=
  { s with gaf := { s.gaf with islands := modAt s.gaf.islands e fun x => { x with held := h } } }

/-- Hold islands that are still over at point 0, until the draw fits. -/
def retuneHold (slot : Nat) : List Nat → State → State
  | [], s => s
  | e :: es, s => if purseOver s slot then retuneHold slot es (setHeld s e true) else s

/-- Let held islands go on, in order, as long as the draw fits. -/
def retuneFree (slot : Nat) : List Nat → State → State
  | [], s => s
  | e :: es, s =>
    let t := setHeld s e false
    retuneFree slot es (if (s.gaf.islands.getD e {}).held && !(purseOver t slot) then t else s)

/-- Raise an island to the highest point that fits, no higher than its limit; a held one stays at point 0. -/
def retuneRaise (slot e : Nat) (s : State) : State :=
  let vec := s.sp.cmds.all fun c => !(cmdRunning c && engineNamed c == some e) || onVector c.opcode
  let top := if (s.gaf.islands.getD e {}).held then 0 else islandLimit s e vec
  match ((List.range (top + 1)).reverse).find? fun k => decide (grantedOf s e < k) && !(purseOver (repoint s e (max k)) slot) with
  | some k => repoint s e (max k)
  | none => s

/-- Retune one space: lower and hold, or free and raise. -/
def retuneSpace (slot : Nat) (s : State) : State :=
  if purseOver s slot then
    let t := retuneLower 512 slot s
    retuneHold slot (shuffle t id (purseEngines t slot)) (freeUse t 64)
  else
    let es := (List.range 64).filter fun e => s.sp.cmds.any fun c => c.space == slot && cmdRunning c && engineNamed c == some e
    let fs := shuffle s id es
    fs.foldl (fun t e => retuneRaise slot e t) (retuneFree slot fs (freeUse s 64))

/-- The engines with the cycles that their islands were awake counted (R124). -/
def retuneEngines (s : State) (m : Measured) : Array :=
  let f := fun (e : Engine × Nat) =>
    mmIdle e.1 ((m.isl.getD e.2 (0, 0)).1 * bandCount s e.2) (portWaited e.1 (bandCount s e.2) (m.portWait.getD e.2 0))
  { s.array with engines := s.array.engines.zipIdx.map f }

/-- The islands of the units that run a command: its engine's; the Basecamp core's; the controllers' of its Reel for a layout command, of all
stacks for other work at memory. -/
def cmdIslands (c : Cmd) : List Nat :=
  match engineNamed c with
  | some e => [e]
  | none =>
    match cmdDie c with
    | some d => if d = 2 then [122] else (List.range 4).map (64 + 4 * d + ·)
    | none => (List.range 8).map (64 + ·)

/-- Divide the energy of each island since the last sample among the commands that ran on it, in proportion to their busy cycles there
(R420); where none was busy nobody is charged. -/
def splitEnergy (m : Measured) (s : State) : State :=
  let busyOf := fun (c : Cmd) => if cmdRunning c then (assocGet m.busy c.id).getD 0 else 0
  let total := fun (n : Nat) => ((s.sp.cmds.filter fun c => (cmdIslands c).contains n).map busyOf).foldl (· + ·) 0
  let share := fun (c : Cmd) => ((cmdIslands c).map fun n => (m.isl.getD n (0, 0)).2 * 10 ^ 6 * busyOf c / total n).foldl (· + ·) 0
  { s with sp := { s.sp with cmds := s.sp.cmds.map fun c => { c with pj := c.pj + share c } } }

/-- What the sensors and counters report (R420, R437, R441). Before READY only the standby sensors are read (R27). -/
def takeMeasured (s0 : State) (m : Measured) : State :=
  let s1 := if s0.power.ready then m.nodeErr.foldl (fun t e => e.2.2.foldl (cacheWord e.1 e.2.1) t) (splitEnergy m s0) else s0
  let s := if s0.power.ready then { s1 with mem := m.mergeErr.foldl (fun y e => mergeUpset y e.1 e.2) s1.mem } else s1
  let g := { s.gaf with mainMv := m.mainMv % 2 ^ 16, stbyMv := m.stbyMv % 2 ^ 16, boardDc := m.boardDc }
  if s.power.ready then
    { s with
      gaf := { g with
        inputW := m.inputW % 2 ^ 16, peakW := max g.peakW (m.peakW % 2 ^ 16), inputMj := (g.inputMj + m.inputMj) % 2 ^ 64
        tempA := m.reelA, tempB := m.reelB, tempBase := m.basecamp, tempHbm := m.hbm
        above := [m.reelA, m.reelB, m.basecamp, m.hbm].any fun t => decide (1050 < t.toInt)
        islands := ((List.range 125).zip g.islands).map fun e =>
          let d := m.isl.getD e.1 (0, 0)
          { e.2 with cyc := (e.2.cyc + d.1) % 2 ^ 64, energyUj := (e.2.energyUj + d.2) % 2 ^ 64 } }
      array := retuneEngines s m
      sp := { s.sp with slots := ((List.range 16).zip s.sp.slots).map fun e =>
        if e.2.state = 0 then e.2
        else { e.2 with energy100 := m.energy100.getD e.1 0, draw10 := m.draw10.getD e.1 0 % 2 ^ 12 } }
      fabric := { s.fabric with links := s.fabric.links.zipIdx.map fun e =>
        { e.1 with cntDown := (e.1.cntDown + m.linkDown.getD e.2 0) % 2 ^ 64 } }
      dly := { s.dly with cntStall := (s.dly.cntStall + m.stall) % 2 ^ 64 }
      lmx := { s.lmx with
        a := { s.lmx.a with opt := (List.range 4).map fun i => m.optics.getD i 0 }
        b := { s.lmx.b with opt := (List.range 4).map fun i => m.optics.getD (4 + i) 0 } } }
  else { s with gaf := g }

/-- Islands on which nothing runs any more are not held. -/
def freeIdle (s : State) : State :=
  (List.range 64).foldl (fun t e => if (lowestGrant t e).isNone then setHeld t e false else t) s

/-- RETUNE (R425). -/
def execRetune (m : Measured) (s : State) : Host.Outcome State Fault Refusal :=
  .next (let t := freeIdle (takeMeasured s m)
    (spaceOrder t).foldl (fun u n => retuneSpace n u) (freeUse t (16 * (spaceOrder t).length)))

/-! ### Time slices (R429) and strict windows (R432) -/

/-- Take a context from residency: its MATMULs are pre-empted; with other work running it leaves when that completes. -/
def ctxLeave (s : State) (x : Ctx) : State :=
  let t := (s.sp.cmds.filter fun c => c.ctx == x.id && c.opcode == 0x10 && c.phase == .admitted).foldl preempt s
  { t with sp := leaveResidency (ctxMod t.sp x.id fun y => { y with leaving := true }) x.id }

/-- Residency at the end of a slice, with more than 64 runnable contexts: as many resident contexts leave as runnable ones wait, the longest
resident first, and among them first those with no command in flight; the runnable ones take the places (R429). -/
def sliceSwap (s : State) : State :=
  let aged := { s with sp := { s.sp with ctxs := s.sp.ctxs.map fun x => { x with age := x.age + 1 } } }
  let waiting := (aged.sp.ctxs.filter fun x => !x.resident && ctxRunnable aged x).length
  let flight := fun (x : Ctx) => b2n (aged.sp.cmds.any fun c => c.ctx == x.id && cmdBusy c)
  let order := sortBy (fun (a b : Ctx) => decide (b.age < a.age) || (a.age == b.age && decide (flight a ≤ flight b)))
    (shuffle aged (·.id) (aged.sp.ctxs.filter fun x => x.resident && !x.leaving))
  if 64 < (aged.sp.ctxs.filter (ctxRunnable aged)).length then
    residencyFill ((order.take (min 64 waiting)).foldl ctxLeave (freeUse aged (4096 * waiting)))
  else aged

/-- The first ready command, in the order of an admission pass, that names an engine. -/
def engineWant (s : State) (e : Nat) : Option Cmd :=
  (spaceOrder s).findSome? fun n => (queueOrder s n).findSome? fun q =>
    (queueHead s q.idx).filter fun c => engineOf s c == some e && cmdIsReady s c

/-- Hand an engine to a space, awake; nothing changes where what it holds cannot be saved, or the space's image cannot be read: an
admission then fails its command. -/
def engineGive (slot e : Nat) (s : State) : State :=
  if (s.array.engines.getD e {}).holder == some slot then s
  else
    match handover s e slot with
    | some (t, true) => islandWoken t e
    | _ => s

/-- The engines of a Shared rig at a slice end: each goes to the space of the first command that is ready for it, once no command of the
outgoing space is on it (R431, log entry 135). -/
def sliceEngines (s : State) : State :=
  if isShared s && !s.rig.active.strict then
    (List.range 64).foldl (fun t e => ((engineWant t e).map fun c => engineGive c.space e t).getD t) (freeUse s 16)
  else s

/-- SLICE_END (R429, R431). -/
def sliceEnd (s : State) : State := sliceEngines (sliceSwap s)

/-- SLICE_END. -/
def execSliceEnd (s : State) : Host.Outcome State Fault Refusal := .next (sliceEnd s)

/-- Hand an engine over at a window's start, unless a command of another space, or a reference for one, is still on it. -/
def windowEngine (slot e : Nat) (s : State) : State :=
  if s.sp.cmds.any (fun c => c.space != slot && cmdBusy c && engineNamed c == some e) || refEngine s e then s else engineGive slot e s

/-- The slot whose strict window comes next: one per creatable slot, in slot order, frame after frame (R432). -/
def nextWindow (s : State) : Option Nat :=
  let open_ := (List.range 16).filter fun n => (s.rig.active.spaces.getD n {}).creatable
  (open_.find? fun n => decide (s.gaf.window < n)).or open_.head?

/-- STRICT_WINDOW_START (R432): the MATMULs of other spaces are pre-empted, every engine that the space may use is handed to
it, and the requests that waited for the window are served. -/
def strictWindow (slot : Nat) (s : State) : State :=
  let t := (s.sp.cmds.filter fun c => c.space != slot && c.opcode == 0x10 && c.phase == .admitted).foldl preempt s
  let u := { t with gaf := { t.gaf with window := slot } }
  requestsGo (if (spaceGet u slot).state = 1 then (slotEngines u slot).foldl (fun x e => windowEngine slot e x) u else u)

/-! ### Sleep and island resets (R435, R465 to R467) -/

/-- An engine with no command, no pre-empted command and no reference. -/
def engineIdle (s : State) (e : Nat) : Bool :=
  !(s.sp.cmds.any fun c => engineNamed c == some e && (cmdRunning c || c.phase == .preempted)) &&
    !(refEngine s e)

/-- Put an island to sleep: an idle engine whose image is saved, or a link's while the link is disabled or held down (state 3,
Table 08-13). -/
def islandSleep (n : Nat) (s : State) : State :=
  let nap := fun (t : State) => { t with gaf := { t.gaf with
    islands := modAt t.gaf.islands n fun x => { x with asleep := true }, sleeps := satAdd 32 t.gaf.sleeps 1 } }
  if !s.power.ready || (s.gaf.islands.getD n {}).asleep then s
  else if n < 64 then
    if s.gaf.idleUs != 0 && engineIdle s n && !(s.gaf.islands.getD n {}).stopped then
      match saveEngine s n with
      | some t => nap { t with array := engineZero t.array n }
      | none => s
    else s
  else if n < 72 || 120 ≤ n then s
  else if (linkOf s (n - 72)).state = 3 then nap s else s

/-- ISLAND_SLEEP. -/
def execIslandSleep (island : Nat) (s : State) : Host.Outcome State Fault Refusal := .next (islandSleep island s)

/-- GRIP_WATCHDOG (R181): a halted grip's does not count (R452); else the grip's commands in flight fail, its queues move to another grip of its die, the reset is logged. -/
def gripWatchdog (grip : Nat) (s : State) : State :=
  if grip < 80 && !(s.gaf.haltedGrips.contains grip) then
    let held := fun (c : Cmd) => s.sp.queues.any fun q => q.idx == c.queue && q.grip == grip
    let s1 := watchdogCmds s held
    let s2 := freeUse { s1 with
      sp := { s1.sp with queues := s1.sp.queues.map fun q =>
        if q.grip = grip then { q with grip := gripNext grip (freeAt s1 q.idx).toNat } else q }
      err := { s1.err with gripResets := satAdd 32 s1.err.gripResets 1 } } 1024
    stLog s2 { logBlank with kind := 10, unit := gripIsland grip, detail := grip }
  else s

/-- GRIP_WATCHDOG. -/
def execGripWatchdog (grip : Nat) (s : State) : Host.Outcome State Fault Refusal := .next (settle (gripWatchdog grip s))

/-- A save image that an island reset of engine n leaves in its pages: one whose tiles were back in their band is to be read again, unless its
context has a newer image of the band (R465). -/
def imageAgain (s : State) (n : Nat) (i : Image) : Image :=
  let newer := s.array.images.any fun y => y.ctx == i.ctx && y.engine == n && y.band == i.band && !y.loaded
  if i.engine = n && i.loaded && !newer then { i with loaded := false } else i

/-- The steps of Table 18-4 on an engine island, logged with a detail. -/
def islandReset (s : State) (n detail : Nat) (ok : Bool) : State :=
  let s1 := watchdogCmds s fun c => engineNamed c == some n
  let a := engineZero { s1.array with rush := s1.array.rush.filter fun j => j.refEngine != n, images := s1.array.images.map (imageAgain s1 n) } n
  let s2 := { s1 with
    array := a
    gaf := { s1.gaf with islands := modAt s1.gaf.islands n fun x =>
      { x with epoch := (x.epoch + 1) % 2 ^ 16, held := false, stopped := false, asleep := false } }
    err := { s1.err with
      islResets := satAdd 32 s1.err.islResets 1
      islFailed := if ok then s1.err.islFailed else s1.err.islFailed ||| BitVec.ofNat 64 (2 ^ n) } }
  stLog s2 { logBlank with kind := 9, unit := n, detail := if ok then detail else 3 }

/-- A fault of an island, or its release from INT_SCAN: an engine's island reset, a link's reset, else a warm reset with cause 6. -/
def islandFault (s : State) (n detail : Nat) (ok : Bool) (b : Boot) : State :=
  if n < 64 then islandReset s n detail ok
  else if 72 ≤ n && n < 120 then
    linkReset { s with gaf := { s.gaf with islands := modAt s.gaf.islands n fun x => { x with stopped := false } } } (n - 72) false
  else if n < 125 then resetAtOnce s 6 b else s

/-- ISLAND_FAULT. -/
def execIslandFault (island : Nat) (selftestOk : Bool) (b : Boot) (s : State) : Host.Outcome State Fault Refusal :=
  .next (if s.power.ready then settle (islandFault s island 1 selftestOk b) else s)

end Sys2Proof.Machine
end

