-- ==== Sys2Proof/Machine/Debug.lean ====
section
/-! DEFINITION. Life-cycle transitions, the debug challenge and grant, and the JTAG instructions (file 17). -/

namespace Sys2Proof.Machine

/-! ### Life-cycle transitions (R444 to R451) -/

/-- Record the status of the last LC_CTRL command. -/
def lcStatus (s : State) (st : Status) : State := { s with lc := { s.lc with lastStatus := st } }

/-- A transition to a stored state is accepted (R445): no live space (one being created is none yet, R407), no pair, no rig in the buffer, no
walk or fill, a free progress record, and no transition under way. -/
def lcFree (s : State) : Bool :=
  !(s.sp.slots.any fun x => x.state == 1 || x.state == 2) && s.dly.role == .none && s.rig.state == .empty &&
    !(s.ciph.ranges.any fun k => k.walk == 1 || k.walk == 2) && (recFree s.lc).isSome && s.lc.going.isNone

/-- Accept a transition (Table 17-3): a grant ends at its start (R457), and its steps follow while the queue is empty. -/
def lcGo (s : State) (target : Nat) (b : Boot) : State :=
  { s with lc := { s.lc with grant := none, going := some { target := target, slot := recFree s.lc, boot := b } } }

/-- LC_FIELD: STOCK to FIELD; BUSY from any other state, or where R445 does not hold. -/
def lcField (b : Boot) (s : State) : Answer :=
  if lcNow s.lc = 3 && lcFree s then ⟨lcStatus (lcGo s 4 b) .ok, .ok, []⟩ else ⟨lcStatus s .busy, .busy, []⟩

/-- LC_FIELD: a write of LC_CTRL with cmd 1. -/
def execLcField (p : Port) (tag : Nat) (b : Boot) (s : State) : Host.Outcome State Fault Refusal :=
  .next (mgmtWrite p tag (.lcField p tag b) (lcField b) s)

/-- SCRAP (Table 17-6, step 1): keys zeroized with cause 9, READY low, bypasses closed; the fuse steps follow while the queue is empty. -/
def scrapNow (s : State) : State :=
  let t := strike s 9
  { t with
    lc := { t.lc with going := some { target := 6, slot := recFree t.lc } }
    power := { t.power with
      strikeHeld := false, resetHeld := false, bootStep := 2, bootFailed := false, failUnit := 0
      selftestOk := false, stackSlow := 0, idkeyFp := 0, fwVersion := 0, golden := false, fwMeas := 0 } }

/-- The end of a transition: the warm reset of cause 5, or the stop of a scrapped module as at step 3 (Tables 17-3, 17-6). -/
def lcEnd (s : State) (g : LcRun) : State :=
  if g.target = 6 then
    { s with
      lc := { s.lc with going := none, state := 6, word := 0xFFFF, agree := 7, invalid := false, resumed := false }
      power := { s.power with bootStep := 3, scrapStop := true } }
  else resetAtOnce s 5 g.boot

/-- One half-step of a transition: the target code, then begun; of each later step the fuses, then its mark. The root secret's draw waits while
the entropy source fails (R336). A vault that holds set bits is not written again (R333). -/
def lcTick (s : State) (g : LcRun) : State :=
  let next := fun (x : LifeCycle) => { s with lc := { x with going := some { g with pos := g.pos + 1 } } }
  if g.pos = 0 then next (recSet s.lc g.slot (BitVec.ofNat 16 g.target))
  else if g.pos = 1 then next (recSet s.lc g.slot 8)
  else
    match (lcSteps g.target (drawAt s 0))[g.pos / 2 - 1]? with
    | none => lcEnd s g
    | some e =>
      if e.1 = 7 && vaultUsed s.lc && g.pos % 2 == 0 then { s with lc := { s.lc with going := some { g with pos := g.pos + 2 } } }
      else if g.pos % 2 = 1 then next (recSet s.lc g.slot (BitVec.ofNat 16 (2 ^ e.1)))
      else if e.1 = 7 then (if drawsWait s then s else drawUse (next (e.2 s.lc)) 1)
      else next (e.2 s.lc)

/-- The end of a flash write: the image is whole, and the BULK reply goes (R406). -/
def flashTick (s : State) (w : FlashRun) : State :=
  mgmtReply { s with lc := { s.lc with flashImage := w.image, flashSig := w.sig, flashing := none } } w.port w.tag .ok []

/-- What proceeds while the queue is empty: a transition by one half-step, else a flash write (log entry 128). -/
def tick (s : State) : State :=
  match s.lc.going with
  | some g => lcTick s g
  | none =>
    match s.lc.flashing with
    | some w => flashTick s w
    | none => s

/-- confirm equals bits [31:0] of ID_SERIAL. -/
def confirmOk (s : State) (confirm : BitVec 32) : Bool := confirm.toNat == s.power.serial.toNat % 2 ^ 32

/-- LC_SCRAP: accepted in any condition; a wrong confirm is recorded as BAD_DESCRIPTOR. -/
def lcScrap (confirm : BitVec 32) (s : State) : Answer :=
  if confirmOk s confirm then ⟨scrapNow s, .ok, []⟩ else ⟨lcStatus s .badDescriptor, .badDescriptor, []⟩

/-- LC_SCRAP: a write of LC_CTRL with cmd 2. -/
def execLcScrap (p : Port) (tag : Nat) (confirm : BitVec 32) (s : State) : Host.Outcome State Fault Refusal :=
  .next (mgmtWrite p tag (.lcScrap p tag confirm) (lcScrap confirm) s)

/-! ### Challenge and token (R454 to R457) -/

/-- Bytes of the debug buffer. -/
def dbgBytes (s : State) (lo n : Nat) : List Byte := cellBytes s.lc.buf lo n

/-- Record the status of the last DBG_CTRL command, and its reason. -/
def dbgStatus (s : State) (st : Status) (reason : Nat) : State := { s with lc := { s.lc with dbgStatus := st, dbgReason := reason } }

/-- Test tokens left. -/
def tokensLeft (x : LifeCycle) : Nat := 16 - popCount 16 x.tokens.toNat

/-- Bytes [127:0] of a challenge (Table 17-7). -/
def challengeBody (s : State) (purpose scope : Nat) (random : W256) : List Byte :=
  natLe 4 0x4C484344 ++ natLe 1 purpose ++ natLe 1 (lcNow s.lc) ++ natLe 1 scope ++
  natLe 1 (b2n (isShared s) + 2 * b2n s.rig.active.preauth) ++ natLe 8 s.power.serial.toNat ++
  natLe 6 ((idPart s).toNat % 2 ^ 48) ++ natLe 2 0 ++ w256Bytes random ++ w256Bytes (activeDigest s) ++
  natLe 1 (tokensLeft s.lc) ++ List.replicate 39 0

/-- The queue of signatures without a challenge: a new one replaces it, and ACCEPT consumes it (R454, R456). -/
def challengeDrop (s : State) : State :=
  { s with
    lc := { s.lc with chal := none }
    keys := { s.keys with quotes := s.keys.quotes.filter fun r => r.dest != .challenge } }

/-- CHALLENGE: BAD_DESCRIPTOR for a purpose outside 1 to 3, BUSY while the signing queue is full (R338). The challenge takes its place in the
queue, but for a module with no identity, which signs nothing. -/
def challenge (purpose scope : Nat) (s : State) : Answer :=
  let t := challengeDrop s
  if purpose = 0 || 3 < purpose then ⟨dbgStatus s .badDescriptor 0, .badDescriptor, []⟩
  else if 64 ≤ t.keys.quotes.length && s.keys.vaultOk then ⟨dbgStatus s .busy 0, .busy, []⟩
  else
    let sc := if purpose = 1 then scope % 16 else 0
    let body := challengeBody s purpose sc (drawAt s 0)
    let s1 := dbgStatus (drawUse t 1) .ok 0
    let s2 := if s.keys.vaultOk then quoteAsk s1 ⟨0, [], .challenge⟩ else s1
    ⟨{ s2 with lc := { s2.lc with
        chal := some { purpose := purpose, scope := sc, body := body, digest := none }
        buf := putBytes [] 0 body, bufPtr := 0, bufLen := 17216 } }, .ok, []⟩

/-- CHALLENGE: a write of DBG_CTRL with cmd 1. Its draw waits while the entropy source fails. -/
def execChallenge (p : Port) (tag purpose scope : Nat) (s : State) : Host.Outcome State Fault Refusal :=
  .next (mgmtDraw p tag (.challenge p tag purpose scope) (challenge purpose scope) s)

/-- Whether a challenge's signature is the next of the queue; a module with no identity has none to wait for. -/
def challengeNext (s : State) : Bool := !s.keys.vaultOk || (s.keys.quotes.head?.any fun r => r.dest == .challenge)

/-- CHALLENGE_DONE: the signature over bytes [127:0], zeros for a module with no identity, in the order of the queue (R338, R454). -/
def challengeDone (s : State) : State :=
  match s.lc.chal with
  | none => s
  | some c =>
    if c.digest.isSome || !(challengeNext s) || (s.keys.vaultOk && drawsWait s) then s
    else
      let sig := if s.keys.vaultOk then
          identitySign (s.keys.slots.getD 0 {}) "nirnus-dbg-challenge" c.body (drawAt s 0)
        else List.replicate 17088 0
      let s1 := if s.keys.vaultOk then drawUse { s with keys := { s.keys with quotes := s.keys.quotes.drop 1 } } 1 else s
      { s1 with lc := { s1.lc with
          chal := some { c with digest := some (shakeW (c.body ++ sig)) }
          buf := putBytes s1.lc.buf 128 sig } }

/-- CHALLENGE_DONE. -/
def execChallengeDone (s : State) : Host.Outcome State Fault Refusal := .next (challengeDone s)

/-- The purposes that a state admits (R456). -/
def purposeAdmitted (state purpose : Nat) : Bool :=
  (state == 3 && purpose == 1) || (state == 4 && (purpose == 1 || purpose == 2)) || (state == 5 && (purpose == 1 || purpose == 3)) ||
    (state == 1 && purpose == 3)

/-- Step 2 of ACCEPT: the rejection reason of Table 17-12; none for a good token. -/
def tokenReason (s : State) (c : Challenge) : Option Nat :=
  let token := dbgBytes s 0 29920
  let cert := dbgBytes s 29920 29920
  let at_ := fun (l : List Byte) lo n => (l.drop lo).take n
  let num := fun l lo n => leNat (at_ l lo n)
  let key := at_ cert 56 64
  let scope := num token 5 1
  if !(certGood cert vendorRootKey 2 1) then some 1
  else if at_ token 48 32 ≠ w256Bytes (shakeW key) then some 2
  else if num token 0 4 ≠ 0x4E4B5444 ||
      !(slhVerify slh256s key (ascii "nirnus-dbg-token") (token.take 128) (token.drop 128)) then some 3
  else if num token 8 8 ≠ s.power.serial.toNat || !(c.digest.any fun d => at_ token 16 32 == w256Bytes d) then some 4
  else if num token 4 1 ≠ c.purpose || scope &&& c.scope ≠ scope || (scope.testBit 3 && lcNow s.lc != 5) then some 5
  else none

/-- A strike with cause 7 and the restart at once, with what is kept across that restart only (R449, R456). -/
def debugStrike (s : State) (keep : LifeCycle → LifeCycle) (b : Boot) : State :=
  let t := strike s 7
  restart { t with lc := keep t.lc } b

/-- Set the lowest clear token bit (R448). -/
def tokenUse (x : LifeCycle) : LifeCycle :=
  { x with tokens := x.tokens ||| BitVec.ofNat 16 (2 ^ (((List.range 16).find? fun i => !(x.tokens.getLsbD i)).getD 0)) }

/-- A Shared rig is in force, or is being committed: no grant may stand beside it (R457). -/
def sharedSoon (s : State) : Bool := isShared s || (s.rig.state == .committing && s.rig.next.any (·.shared))

/-- The effect of a good token (steps 3a to 3d), with its status. -/
def acceptGo (s : State) (c : Challenge) (b : Boot) : State × Status :=
  let scope : BitVec 4 := BitVec.ofNat 4 (leNat (dbgBytes s 5 1))
  if c.purpose = 1 then
    if sharedSoon s then (debugStrike s (fun x => { x with grant := some scope }) b, .ok)
    else ({ s with lc := { s.lc with grant := some scope } }, .ok)
  else if c.purpose = 2 then (if lcFree s then (lcGo s 5 b, .ok) else (s, .busy))
  else if tokensLeft s.lc = 0 then (s, .busy)
  else (debugStrike { s with lc := tokenUse s.lc } (fun x => { x with testOpen := true }) b, .ok)

/-- ACCEPT (Table 17-9): the challenge is consumed whatever the outcome. A restart leaves DBG_STATUS at its reset value. -/
def acceptToken (b : Boot) (s : State) : Answer :=
  let s1 := challengeDrop s
  match s.lc.chal with
  | none => ⟨dbgStatus s .busy 0, .busy, []⟩
  | some c =>
    if !(purposeAdmitted (lcNow s.lc) c.purpose) then ⟨dbgStatus s1 .busy 0, .busy, []⟩
    else
      match tokenReason s c with
      | some r => ⟨dbgStatus s1 .flowDenied r, .flowDenied, []⟩
      | none => ⟨dbgStatus (acceptGo s1 c b).1 (acceptGo s1 c b).2 0, (acceptGo s1 c b).2, []⟩

/-- ACCEPT: a write of DBG_CTRL with cmd 2; one that restarts the module ends the session before its reply. -/
def execAccept (p : Port) (tag : Nat) (b : Boot) (s : State) : Host.Outcome State Fault Refusal :=
  .next (mgmtWrite p tag (.accept p tag b) (acceptToken b) s)

/-- CLOSE: the grant ends (R457). -/
def dbgClose (s : State) : Answer := ⟨dbgStatus { s with lc := { s.lc with grant := none } } .ok 0, .ok, []⟩

/-- DBG_CLOSE: a write of DBG_CTRL with cmd 3. -/
def execDbgClose (p : Port) (tag : Nat) (s : State) : Host.Outcome State Fault Refusal := .next (mgmtWrite p tag (.dbgClose p tag) dbgClose s)

/-- Bytes of the debug buffer (Table 17-11): accesses at or beyond it are ignored. -/
def dbgLimit : Nat := 59840

/-- A read of DBG_BUF_DATA. -/
def dbgDataRead (s : State) : Answer :=
  if s.lc.bufPtr < dbgLimit then
    ⟨{ s with lc := { s.lc with bufPtr := s.lc.bufPtr + 8 } }, .ok, dbgBytes s s.lc.bufPtr 8⟩
  else ⟨s, .ok, List.replicate 8 0⟩

/-- A write of DBG_BUF_DATA. -/
def dbgDataWrite (v : Word) (s : State) : Answer :=
  ⟨if s.lc.bufPtr < dbgLimit then
      { s with lc := { s.lc with buf := putBytes s.lc.buf s.lc.bufPtr (natLe 8 v.toNat), bufPtr := s.lc.bufPtr + 8 } }
    else s, .ok, []⟩

/-- A write of DBG_BUF_PTR: a multiple of 8. -/
def dbgPtrWrite (v : Word) (s : State) : State := { s with lc := { s.lc with bufPtr := fld v.toNat 3 13 * 8 } }

/-- DBG_BUF_ACCESS. -/
def execDbgBufAccess (p : Port) (tag : Nat) (write : Option Word) (s : State) : Host.Outcome State Fault Refusal :=
  .next (match write with
    | none => mgmtRead p tag (.dbgBufAccess p tag write) dbgDataRead s
    | some v => mgmtWrite p tag (.dbgBufAccess p tag write) (dbgDataWrite v) s)

/-! ### JTAG (R413, R452, R453, R457, R458) -/

/-- Every scope is open: in BLANK, and in a TEST_OPEN session. -/
def scopesAll (s : State) : Bool :=
  s.lc.testOpen || (s.power.scrapStop == false && decide (3 ≤ s.power.bootStep) && s.lc.state == 0 && !s.lc.invalid)

/-- Owner pre-authorisation is active: a Solo rig whose DEBUG bit 1 is set, in a FIELD module (Table 17-1, R458). -/
def preauthOn (s : State) : Bool := s.rig.active.preauth && !(isShared s) && lcNow s.lc == 4

/-- The scopes that are open (Table 17-11). -/
def openScopes (s : State) : BitVec 4 :=
  if scopesAll s then 15 else (s.lc.grant.getD 0) ||| (if preauthOn s then 3 else 0)

/-- A JTAG instruction is open (Table 17-5); a scrapped module keeps the public ones alone (R451, Table 17-1). -/
def jtagOpen (s : State) (ir : Nat) : Bool :=
  if ir = 0x21 then (openScopes s).getLsbD 0
  else if ir = 0x22 then (openScopes s).getLsbD 1
  else if ir = 0x23 then (openScopes s).getLsbD 2
  else if ir = 0x24 then (openScopes s).getLsbD 3
  else if ir = 0x30 then scopesAll s
  else if ir = 0x20 then !s.power.scrapStop
  else true

/-- The instructions of Table 17-5; every other code acts as BYPASS. -/
def jtagKnown (ir : Nat) : Bool := [0x00, 0x01, 0x02, 0xFF, 0x20, 0x21, 0x22, 0x23, 0x24, 0x30].contains ir

/-- Load an instruction: one that is not open selects the bypass register and counts. -/
def jtagLoad (ir : Nat) (s : State) : State :=
  if jtagKnown ir && jtagOpen s ir then { s with jtag := { s.jtag with ir := BitVec.ofNat 8 ir, driving := decide (ir = 0) } }
  else
    let t := { s with jtag := { s.jtag with ir := 0xFF, driving := false } }
    if jtagKnown ir then { t with lc := { t.lc with refused := satAdd 15 t.lc.refused 1 } } else t

/-- A command of the TAP: nothing while it is not live; the instruction is loaded, and its data scan runs where it is open. -/
def jtagRun (ir : Nat) (f : State → State) (s : State) : State :=
  if !s.power.tapLive then s
  else
    let t := jtagLoad ir s
    if t.jtag.ir = BitVec.ofNat 8 ir then f t else t

/-- JTAG_IR_UPDATE. -/
def execJtagIrUpdate (ir : BitVec 8) (s : State) : Host.Outcome State Fault Refusal := .next (jtagRun ir.toNat id s)

/-- EXTEST: the boundary cells drive the pins. -/
def execExtest (cells : List Bool) (s : State) : Host.Outcome State Fault Refusal :=
  .next (jtagRun 0x00 (fun t => { t with jtag := { t.jtag with cells := cells } }) s)

/-- IDCODE: version 0xB, part 0x0840, manufacturer code 0x4A1 (R413). -/
def execIdcode (s : State) : Host.Outcome State Fault Refusal :=
  .next (jtagRun 0x01 (fun t => { t with jtag := { t.jtag with dr := 0xB0840943 } }) s)

/-- SAMPLE/PRELOAD: the boundary cells take the levels sampled or shifted in; no pin is driven. -/
def execSamplePreload (cells : List Bool) (s : State) : Host.Outcome State Fault Refusal :=
  .next (jtagRun 0x02 (fun t => { t with jtag := { t.jtag with cells := cells } }) s)

/-- BYPASS: one bit is shifted through. -/
def execBypass (tdi : Bool) (s : State) : Host.Outcome State Fault Refusal :=
  .next (jtagRun 0xFF (fun t => { t with jtag := { t.jtag with bypassBit := tdi } }) s)

/-- DBG_GRANT (Table 17-11). -/
def grantWord (s : State) : Word :=
  packWord [(b2n s.lc.grant.isSome, 1), ((openScopes s).toNat, 4), (b2n (preauthOn s), 1), (b2n s.lc.testOpen, 1)]

/-- DBG_READ: DBG_GRANT. -/
def execDbgRead (s : State) : Host.Outcome State Fault Refusal :=
  .next (jtagRun 0x20 (fun t => { t with jtag := { t.jtag with dr := grantWord t } }) s)

/-- What a data scan leaves: the data register and the status. -/
def jtagDone (t : State) (dr : Word) (st : Status) : State := { t with jtag := { t.jtag with dr := dr, status := st } }

/-- A memory access of the JTAG memory port that does not wait (R330, R331). -/
def memPortGo (addr : Nat) (write : Option Word) (s : State) : State :=
  match write with
  | none =>
    let r := debugRead s addr
    jtagDone r.st (if r.status = .ok then BitVec.ofNat 64 (leNat r.bytes) else 0) r.status
  | some v =>
    let r := debugWrite s addr v
    jtagDone r.st v r.status

/-- A memory access of the JTAG memory port; before READY there is no memory to reach, and one of a range that is being filled waits
(R308). -/
def memPort (addr : Nat) (write : Option Word) (s : State) : State :=
  if !s.power.ready then jtagDone s 0 .busy
  else if debugWaits s addr then holdAccess s (.memPort addr write)
  else memPortGo addr write s

/-- MEM_PORT. -/
def execMemPort (addr : Nat) (write : Option Word) (s : State) : Host.Outcome State Fault Refusal :=
  .next (jtagRun 0x21 (memPort addr write) s)

/-- A grip debug access: halt, step, resume, or a trace read of a free value. A step of a halted grip changes nothing else here. -/
def gripDbg (grip : Nat) (op : GripOp) (s : State) : State :=
  if 80 ≤ grip then jtagDone s 0 .badDescriptor
  else
    match op with
    | .halt => jtagDone { s with gaf := { s.gaf with haltedGrips := grip :: s.gaf.haltedGrips.filter (· != grip) } } 0 .ok
    | .resume => jtagDone { s with gaf := { s.gaf with haltedGrips := s.gaf.haltedGrips.filter (· != grip) } } 0 .ok
    | .step => jtagDone s 0 .ok
    | .trace => jtagDone (freeUse s 1) (freeAt s 0) .ok

/-- GRIP_DBG. -/
def execGripDbg (grip : Nat) (op : GripOp) (s : State) : Host.Outcome State Fault Refusal := .next (jtagRun 0x23 (gripDbg grip op) s)

/-- Scan an engine, controller or link island: its clock stops, and a free value is scanned out. -/
def intScan (n : Nat) (s : State) : State :=
  if 120 ≤ n then jtagDone s 0 .badDescriptor
  else
    jtagDone (freeUse { s with gaf := { s.gaf with islands := modAt s.gaf.islands n fun x => { x with stopped := true } } } 1)
      (freeAt s 0) .ok

/-- INT_SCAN. -/
def execIntScan (island : Nat) (s : State) : Host.Outcome State Fault Refusal := .next (jtagRun 0x24 (intScan island) s)

/-- INT_SCAN_RELEASE: a scanned island recovers according to its kind (R452, R467). -/
def execIntScanRelease (island : Nat) (selftestOk : Bool) (b : Boot) (s : State) : Host.Outcome State Fault Refusal :=
  .next (if clockStopped s island then settle (islandFault s island 2 selftestOk b) else s)

/-- JTAG_TEST_RESET: the TAP is reset, with IDCODE selected. -/
def execJtagTestReset (s : State) : Host.Outcome State Fault Refusal :=
  .next (if s.power.tapLive then { s with jtag := {} } else s)

/-- LC_PORT (Table 17-2): BLANK to TEST_LOCKED, TEST_OPEN over TEST_LOCKED to STOCK, either to SCRAP. -/
def lcPort (target : Nat) (confirm : BitVec 32) (b : Boot) (s : State) : State :=
  if target = 6 then (if confirmOk s confirm then scrapNow s else jtagDone s 0 .badDescriptor)
  else if (target = 1 && s.lc.state == 0 && !s.lc.testOpen) || (target = 3 && s.lc.testOpen && s.lc.state == 1) then
    if lcFree s then jtagDone (lcGo s target b) 0 .ok else jtagDone s 0 .busy
  else jtagDone s 0 .badDescriptor

/-- LC_PORT. The root secret's draw waits while the entropy source fails. -/
def execLcPort (target : Nat) (confirm : BitVec 32) (b : Boot) (s : State) : Host.Outcome State Fault Refusal :=
  .next (jtagRun 0x30 (fun t => if target = 3 && drawsWait t then holdDraw t (.lcPort target confirm b) else lcPort target confirm b t) s)

end Sys2Proof.Machine
end

