-- ==== Sys2Proof/Machine/Parties.lean ====
section
/-! DEFINITION. Party channels: binding, key messages, deliveries and joint derivations (file 13), and space binding (R408). -/

namespace Sys2Proof.Machine

/-! ### Binding a party channel (R343) -/

/-- The channel of a party. -/
def chanOf (s : State) (p : Nat) : Channel := s.keys.channels.getD p {}

/-- Set the channel of a party. -/
def chanPut (s : State) (p : Nat) (c : Channel) : State :=
  { s with keys := { s.keys with channels := s.keys.channels.set p c } }

/-- The refusal of a BIND (Table 13-4, step 2; R335, R338); an index above 7 names no party. -/
def bindCheck (s : State) (p : Nat) : Option Status :=
  if 8 ≤ p then some .badDescriptor
  else if (chanOf s p).bound || s.rig.state == .committing then some .busy
  else quoteCheck s

/-- BIND: an ML-KEM key pair is drawn, and a quote over the nonce that vouches for it is asked for. The reply follows with the quote. -/
def bindStart (via : Port) (tag p : Nat) (nonce : W256) (s : State) : State :=
  match bindCheck s p with
  | some st => mgmtReply s via tag st []
  | none =>
    let k := kemDraw s
    let s1 := chanPut s p { ek := some k.1, dk := k.2, via := via }
    quoteAsk (drawUse s1 2) ⟨nonce, k.1, .bind p via tag⟩

/-- BIND; nothing without a live session. The key pair's draw waits while the entropy source fails (R336). -/
def execBind (via : Port) (tag party : Nat) (nonce : W256) (s : State) : Host.Outcome State Fault Refusal :=
  .next (if !(heard s.lmx via) then s
    else if drawsWait s && (bindCheck s party).isNone then holdDraw s (.bind via tag party nonce)
    else bindStart via tag party nonce s)

/-- The public key of a party in the compact. -/
def partyKey (s : State) (p : Nat) : Option (List Byte) := (s.rig.active.parties.find? fun q => q.index == p).map (·.key)

/-- A party channel key in its slot (Table 13-6). -/
def channelSlot (p : Nat) (key : List Byte) : KeySlot :=
  { valid := true, use := .port, ownerSet := BitVec.ofNat 8 (2 ^ p), locked := true
    key := BitVec.ofNat 256 (leNat key) }

/-- Step 4 of Table 13-4: the ciphertext of 1,568 bytes is decapsulated, T recomputed and the party's signature over it verified. -/
def bindConfirm (p : Nat) (ct sig : List Byte) (s : State) : Answer :=
  let c := chanOf s p
  match c.ek with
  | none => ⟨s, .badDescriptor, []⟩
  | some ek =>
    if c.bound || c.quote.isEmpty then ⟨s, .badDescriptor, []⟩
    else
      let t := shakeW (c.quote ++ ek ++ ct ++ [BitVec.ofNat 8 p])
      let ok := match partyKey s p with
        | some key => decide (ct.length = kemCtLen) && slhVerify slh256s key (ascii "nirnus-bind") (w256Bytes t) sig
        | none => false
      if ok then
        let ks := shake256 64 (kemDecaps c.dk ct ++ w256Bytes t ++ ascii "nirnus-party")
        let s1 := slotPut (slotPut s (8 + 2 * p) (channelSlot p (ks.take 32))) (9 + 2 * p) (channelSlot p (ks.drop 32))
        ⟨chanPut s1 p { bound := true, via := c.via }, .ok, []⟩
      else ⟨chanPut s p {}, .flowDenied, []⟩

/-- BIND_CONFIRM. -/
def execBindConfirm (via : Port) (tag party : Nat) (ct sig : List Byte) (s : State) : Host.Outcome State Fault Refusal :=
  .next (if heard s.lmx via then mgmtRun via tag (bindConfirm party ct sig) s else s)

/-! ### Key messages (R347 to R350) -/

/-- The USE of a code of Table 13-7. -/
def useOfCode (u : Nat) : Option Use :=
  if u = 0 then some .memRange else if u = 1 then some .fabric else if u = 3 then some .wrap
  else if u = 5 then some .kdf else none

/-- The derivation that a contribution belongs to: one per range, one for the fabric, one per slot for kdf keys. -/
def pendingOf (s : State) (m : KeyMsg) : Option Derivation :=
  s.keys.pendings.find? fun d => d.use == m.use && (m.use != 0 || d.target == m.target) && (m.use != 5 || d.slot == m.slot)

/-- The generation that a staged or installed fabric key must carry while a current key is held (R350). -/
def fabGenBad (s : State) (m : KeyMsg) : Bool :=
  m.use == 1 && s.keys.fabCur.isSome && m.generation != s.keys.fabGen + 1

/-- Whether a contribution conflicts with the pending derivations: its slot named by another, its own derivation under another slot,
or a second contribution of the party (Table 13-8). -/
def contribBusy (s : State) (p : Nat) (m : KeyMsg) : Bool :=
  match pendingOf s m with
  | some d => d.slot != m.slot || d.parts.any fun x => x.1 == p
  | none => s.keys.pendings.any fun d => d.slot == m.slot

/-- A space of a party that is being destroyed (R355). -/
def partyEnding (s : State) (p : Nat) : Bool := s.sp.slots.any fun x => x.state == 2 && x.party == p

/-- The first condition of Table 13-8 that holds of a DELIVER by party p. -/
def deliverCheck (s : State) (p : Nat) (m : KeyMsg) : Option Status :=
  let c := rangeCfg s m.target
  let own : BitVec 8 := BitVec.ofNat 8 (2 ^ p)
  if !m.reservedZero || (useOfCode m.use).isNone || 2 ≤ m.kind || !namedSlot m.slot || (m.generation != 0 && m.use != 1) then
    some .badDescriptor
  else if fabGenBad s m || (m.kind == 1 && (pendingOf s m).any fun d => d.generation != m.generation) then some .badDescriptor
  else if s.rig.state == .committing || partyEnding s p || decide (64 ≤ s.keys.pendings.length) then some .busy
  else if s.keys.compactEnded && (m.kind == 1 || (m.use == 1 && isShared s)) then some .flowDenied
  else if m.use == 0 && m.kind == 0 && (c.keySource != 1 || c.ownerSet != own) then some .flowDenied
  else if m.use == 0 && m.kind == 1 && (c.keySource != 2 || !c.ownerSet.getLsbD p) then some .flowDenied
  else if (m.use == 1 && ((m.kind == 0) == isShared s)) || (m.use == 3 && m.kind == 1) then some .flowDenied
  else if (s.keys.slots.getD m.slot {}).valid || (m.kind == 1 && contribBusy s p m) then some .busy
  else if (m.use == 3 && s.keys.slots.any fun k => k.valid && k.use == .wrap && k.ownerSet == own) ||
      (m.use == 1 && s.keys.fabOther.isSome) then some .busy
  else none

/-- Install a mem-range key: current key of a keyless range, which is then filled; else it waits in its slot (R349). -/
def installRange (s : State) (slot n : Nat) (k : KeySlot) : State :=
  if (rangeKey s n).keyless then fillRange (slotPut s slot { k with locked := true }) n (some slot) 1
  else slotPut s slot k

/-- Install a complete fabric key: current where none is held, with seq at 0 and no window; else staged (R350). -/
def installFabric (s : State) (slot gen : Nat) (k : KeySlot) : State :=
  match s.keys.fabCur with
  | none =>
    let s1 := slotPut s slot { k with locked := true }
    { s1 with
      keys := { s1.keys with fabCur := some slot, fabGen := gen }
      fabric := { s1.fabric with seq := 0, windows := [] } }
  | some _ =>
    let s1 := windowsDrop (slotPut s slot { k with locked := true, prev := true }) (gen % 2 == 1)
    { s1 with keys := { s1.keys with fabOther := some slot, fabOtherGen := gen, fabStaged := true } }

/-- Put a complete key of a USE into force (R349, Table 13-9). -/
def installKey (s : State) (m : KeyMsg) (owner : BitVec 8) (origin party : Nat) (key : W256) : State :=
  let k : KeySlot :=
    { valid := true, use := (useOfCode m.use).getD .kdf, ownerSet := owner, origin := origin
      target := if m.use = 0 then m.target else 0, party := party, key := key }
  if m.use = 0 then installRange s m.slot m.target k
  else if m.use = 1 then installFabric s m.slot m.generation k
  else slotPut s m.slot k

/-- The parties whose contributions a derivation needs (R349). -/
def derivParties (s : State) (m : KeyMsg) : List Nat :=
  if m.use = 0 then bitList 8 (rangeCfg s m.target).ownerSet.toNat
  else (List.range 8).filter fun p => s.rig.active.parties.any fun q => q.index == p

/-- The material of a joint key (Table 13-9), from the contributions in ascending party index. -/
def jointKey (s : State) (m : KeyMsg) (parts : List (Nat × W256)) : W256 :=
  let cs := (List.range 8).flatMap fun p => (parts.filter fun x => x.1 == p).flatMap fun x => w256Bytes x.2
  let digest := w256Bytes (compactDigest s)
  if m.use = 0 then shakeW (ascii "nirnus-joint" ++ digest ++ natLe 1 m.target ++ cs)
  else if m.use = 1 then shakeW (ascii "nirnus-fabric" ++ digest ++ natLe 4 m.generation ++ cs)
  else shakeW (ascii "nirnus-joint-kdf" ++ digest ++ natLe 1 m.slot ++ cs)

/-- Take a contribution; the last one derives the key and the contributions are zeroized. -/
def contribute (s : State) (p : Nat) (m : KeyMsg) : State :=
  let old := pendingOf s m
  let parts := ((old.map (·.parts)).getD []) ++ [(p, m.material)]
  let rest := match old with
    | some d => s.keys.pendings.filter fun x => x != d
    | none => s.keys.pendings
  if (derivParties s m).all fun q => parts.any fun x => x.1 == q then
    let owner := if m.use = 0 then (rangeCfg s m.target).ownerSet else compactOwners s
    installKey { s with keys := { s.keys with pendings := rest } } m owner 3 0 (jointKey s m parts)
  else
    { s with keys := { s.keys with pendings := rest ++ [⟨m.use, m.slot, m.target, m.generation, parts⟩] } }

/-- DELIVER by party p (R348, R349). -/
def deliver (p : Nat) (m : KeyMsg) (s : State) : Answer :=
  match deliverCheck s p m with
  | some st => ⟨s, st, []⟩
  | none =>
    if m.kind = 1 then ⟨contribute s p m, .ok, []⟩
    else
      let owner := if m.use = 1 then compactOwners s else BitVec.ofNat 8 (2 ^ p)
      ⟨installKey s m owner 2 p m.material, .ok, []⟩

/-- ZEROIZE by party p: one of its own unlocked slots in 32 to 127 (R347). -/
def partyZeroize (p : Nat) (m : KeyMsg) (s : State) : Answer :=
  let k := s.keys.slots.getD m.slot {}
  if !m.reservedZero || (useOfCode m.use).isNone || !namedSlot m.slot then ⟨s, .badDescriptor, []⟩
  else if !k.valid then ⟨s, .ok, []⟩
  else if k.ownerSet != BitVec.ofNat 8 (2 ^ p) || k.locked then ⟨s, .flowDenied, []⟩
  else ⟨slotStrike s fun i _ => i == m.slot, .ok, []⟩

/-- QUERY by party p: the metadata of a slot whose owner set contains it (R347). -/
def query (p : Nat) (m : KeyMsg) (s : State) : Answer :=
  let k := s.keys.slots.getD m.slot {}
  if !m.reservedZero || (useOfCode m.use).isNone || !namedSlot m.slot then ⟨s, .badDescriptor, []⟩
  else if !k.valid || !k.ownerSet.getLsbD p then ⟨s, .flowDenied, []⟩
  else ⟨s, .ok, natLe 8 (keySlotWord k).toNat⟩

/-- SPACE_BIND by party p of the space slot in the target byte (Table 15-5a). -/
def spaceBind (p : Nat) (m : KeyMsg) (s : State) : Answer :=
  let n := m.target
  let e := s.rig.active.spaces.getD n {}
  let x := spaceGet s n
  if !m.reservedZero || m.use != 0 || m.slot != 0 || m.kind != 0 || m.material != 0 || m.generation != 0 then
    ⟨s, .badDescriptor, []⟩
  else if 16 ≤ n || !e.creatable || e.party != p then ⟨s, .flowDenied, []⟩
  else if x.state != 1 || x.bound then ⟨s, .busy, []⟩
  else ⟨{ s with sp := spaceMod s.sp n fun y => { y with bound := true } }, .ok, []⟩

/-! ### Party messages (R344, R407) -/

/-- The status of a key message, by its op. -/
def keyMsgDo (p : Nat) (m : KeyMsg) (s : State) : Answer :=
  if m.op = 1 then deliver p m s
  else if m.op = 2 then partyZeroize p m s
  else if m.op = 3 then query p m s
  else if m.op = 4 then spaceBind p m s
  else ⟨s, .badDescriptor, []⟩

/-- Answer a message of a bound channel under k_out. -/
def partyReply (a : Answer) (via : Port) (tag p : Nat) : State :=
  let c := chanOf a.st p
  if c.bound then
    chanSent (sendMsg a.st via (.party 0 p c.nextOut tag a.status a.data)) p
  else a.st

/-- A key message of a party channel over a port with a live session: once it is taken, its effect and its answer. -/
def keyMessage (via : Port) (tag p : Nat) (m : MsgAuth) (f : State → Answer) (s : State) : State :=
  if heard s.lmx via then partyTake p m (fun t => partyReply (f t) via tag p) s else s

/-- PARTY_MESSAGE (R344): a key message, or a request on a space channel (R407). -/
def execPartyMessage (via : Port) (tag party counter : Nat) (authOk : Bool) (inner : PartyInner) (s : State) :
    Host.Outcome State Fault Refusal :=
  .next (match inner with
    | .key m => keyMessage via tag party ⟨counter, authOk⟩ (keyMsgDo party m) s
    | .space slot r => spaceRequest ⟨via, slot, tag, some (party, ⟨counter, authOk⟩)⟩ r s)

/-- DELIVER: a key message of op 1. -/
def execDeliver (via : Port) (tag party : Nat) (m : KeyMsg) (s : State) (auth : MsgAuth := {}) : Host.Outcome State Fault Refusal :=
  .next (keyMessage via tag party auth (deliver party m) s)

/-- PARTY_ZEROIZE: op 2. -/
def execPartyZeroize (via : Port) (tag party : Nat) (m : KeyMsg) (s : State) (auth : MsgAuth := {}) : Host.Outcome State Fault Refusal :=
  .next (keyMessage via tag party auth (partyZeroize party m) s)

/-- QUERY: op 3. -/
def execQuery (via : Port) (tag party : Nat) (m : KeyMsg) (s : State) (auth : MsgAuth := {}) : Host.Outcome State Fault Refusal :=
  .next (keyMessage via tag party auth (query party m) s)

/-- SPACE_BIND: op 4. -/
def execSpaceBind (via : Port) (tag party : Nat) (m : KeyMsg) (s : State) (auth : MsgAuth := {}) : Host.Outcome State Fault Refusal :=
  .next (keyMessage via tag party auth (spaceBind party m) s)

end Sys2Proof.Machine
end

