-- ==== Sys2Proof/Machine/Lemlix.lean ====
section
/-! DEFINITION. The Lemlix control port: rings, sessions, DATA frames, the management lock, system-space requests and firmware
images (file 15). -/

namespace Sys2Proof.Machine

/-! ### Frames (R398, R401, R403, R405) -/

/-- Send again from ack + 1, as far as the credit goes: the frames acknowledged are no longer held. -/
def resend (v : PortSt) : PortSt :=
  match v.unacked with
  | [] => v
  | f :: _ =>
    if f.seq < v.txSeq then pumpPort v.unacked.length { v with txSeq := f.seq, cntResent := satAdd 32 v.cntResent 1 } else v

/-- Whether a frame is from the control node and addressed to this module: to its position, or to every node (Table 15-4). A module
forwards any other frame (R398). -/
def frameMine (v : PortSt) (h : FrameHdr) : Bool := h.src == 0 && (h.dst == 0x0F || (v.position != 0 && h.dst == v.position))

/-- The credit that a frame addressed to this module carries, and what it lets go out (R401). -/
def creditTake (v : PortSt) (h : FrameHdr) : PortSt :=
  pumpPort v.unacked.length (pumpSetup v.setupWait.length { v with credit := h.credit })

/-- Whether a setup frame of a type reaches this module on a locked ring: at most 24,576 bytes of payload (R403). -/
def setupHeard (v : PortSt) (h : FrameHdr) (type : Nat) : Bool :=
  v.ring == 2 && h.type == type && frameMine v h && decide (h.length ≤ 24576)

/-- A 32-byte header of a frame toward the control node (Table 15-4): its channel, payload bytes and sequence number. -/
def outHeader (v : PortSt) (chan length seq : Nat) : List Byte :=
  natLe 1 1 ++ natLe 1 0 ++ natLe 1 v.position ++ natLe 1 chan ++ natLe 2 length ++ natLe 2 0 ++ natLe 8 seq ++ natLe 8 (v.rxSeq - 1) ++
    natLe 4 0 ++ natLe 4 v.sessionId.toNat

/-- The channel that a message goes out on (Tables 15-4, 15-5). -/
def msgChannel : Msg → Nat
  | .reply c _ _ _ => c
  | .party c _ _ _ _ _ => c
  | .notice slot _ _ => 1 + slot
  | .helloReply _ _ => 0xFF
  | .rollCall _ => 0xFF
  | .bulk _ _ _ => 0

/-- The 8-byte header of a message (Table 15-5). -/
def msgHead (kind len tag : Nat) : List Byte := natLe 1 kind ++ natLe 1 0 ++ natLe 2 len ++ natLe 4 tag

/-- A message enciphered under k_out of a party channel: AES-256-GCM with its counter in the IV, then the tag (R344). -/
def partySeal (s : State) (q counter : Nat) (bs : List Byte) : List Byte :=
  let k := w256Bytes (s.keys.slots.getD (9 + 2 * q) {}).key
  let iv := natLe 4 0 ++ natLe 8 counter
  let c := gcmCrypt k iv bs
  iv ++ c ++ gcmTag k iv [] c

/-- The body of a notice: a completion record, or a fence's handle, status and value (R387, R393). -/
def noteBytes : Note → List Byte
  | .record b => b
  | .fence f v st => natLe 4 f.toNat ++ natLe 2 (statusCode st) ++ natLe 2 0 ++ natLe 8 v.toNat

/-- A PARTY message around an inner message (Table 15-5). -/
def partyMsg (s : State) (q counter tag : Nat) (inner : List Byte) : List Byte :=
  let b := partySeal s q counter inner
  msgHead 5 (1 + b.length) tag ++ natLe 1 q ++ b

/-- The payload of part k of a message, in the clear (R404). -/
def partPayload (s : State) (m : Msg) (k : Nat) : List Byte :=
  let whole := match m with
    | .reply _ tag st d => msgHead 3 (2 + d.length) tag ++ natLe 2 (statusCode st) ++ d
    | .party _ q n tag st d => partyMsg s q n tag (msgHead 3 (2 + d.length) tag ++ natLe 2 (statusCode st) ++ d)
    | .notice _ none n => msgHead 7 (noteBytes n).length 0 ++ noteBytes n
    | .notice _ (some (q, c)) n => partyMsg s q c 0 (msgHead 7 (noteBytes n).length 0 ++ noteBytes n)
    | .helloReply q ek => q ++ ek
    | .rollCall w => natLe 8 w.toNat
    | .bulk stream target d =>
      let part := (d.drop (bulkPart * k)).take bulkPart
      msgHead 4 (13 + part.length) 0 ++ natLe 4 stream ++ natLe 1 target ++ natLe 8 (bulkPart * k) ++ part
  match m with
  | .bulk _ _ _ => whole
  | _ => (whole.drop (8192 * k)).take 8192

/-- A DATA frame as it leaves: header, payload enciphered with AES-256-GCM under k_up, tag; the IV is the session ID followed by seq,
the header the additional authenticated data (R403). -/
def frameWire (s : State) (p : Port) (f : OutFrame) : List Byte :=
  let v := portOf s.lmx p
  let k := w256Bytes (s.keys.slots.getD (sessionSlot p + 1) {}).key
  let h := outHeader v (msgChannel f.msg) (payloadBytes f.msg f.part) f.seq
  let iv := natLe 4 v.sessionId.toNat ++ natLe 8 f.seq
  let c := gcmCrypt k iv (partPayload s f.msg f.part)
  h ++ c ++ gcmTag k iv h c

/-! ### The ring (R397 to R400) -/

/-- ROLL_CALL (R399): an inserted module appends its serial and takes its position; the ring is locked, and a live session resends at
once (R405). -/
def execRollCall (p : Port) (gen2 : Bool) (serials : List Word) (total : Nat) (s : State) (h : FrameHdr := {}) :
    Host.Outcome State Fault Refusal :=
  let v := portOf s.lmx p
  .next (if s.power.ready && (v.ring == 1 || v.ring == 2) && h.type == 6 && h.src == 0 && h.dst == 0x0F && decide (h.length ≤ 24576) &&
        decide (serials.length < 8) then
      let s1 := portMod s p fun v =>
        resend { v with
          ring := 2, gen2 := gen2 && !v.genCap, position := serials.length + 1, members := total % 16, credit := h.credit
          setup := v.setup ++ [.rollCall s.power.serial] }
      { s1 with power := { s1.power with bootStep := max s1.power.bootStep 11 } }
    else s)

/-- RING_LOCK_LOSS (R400): the ring trains again and the re-lock is counted; sessions persist. -/
def execRingLockLoss (p : Port) (s : State) : Host.Outcome State Fault Refusal :=
  .next (if (portOf s.lmx p).ring = 2 then
      portMod s p fun v => { v with ring := 1, cntRelock := satAdd 32 v.cntRelock 1 }
    else s)

/-! ### Sessions (R402) -/

/-- A HELLO turned away. -/
def setupBusy (s : State) (p : Port) : State := setupSend s p (.reply 0xFF 0 .busy [])

/-- HELLO (Table 15-3, steps 1 and 2): refused over a live session, or with 64 quotes queued. A module without an identity answers with ek
and no quote. -/
def hello (p : Port) (h : FrameHdr) (nonce : W256) (s : State) : State :=
  let k := kemDraw s
  if (portOf s.lmx p).session = 2 || quoteCheck s == some .busy then setupBusy s p
  else
    let s1 := drawUse (portMod s p fun v => { v with
      session := 1, sessionId := h.session, ek := k.1, dk := k.2, quote := [], setup := [], setupWait := [] }) 2
    if s.keys.vaultOk then quoteAsk s1 ⟨nonce, k.1, .session p⟩ else setupSend s1 p (.helloReply [] k.1)

/-- HELLO as it arrives. The key pair's draw waits while the entropy source fails (R336). -/
def execHello (p : Port) (h : FrameHdr) (nonce : W256) (s : State) : Host.Outcome State Fault Refusal :=
  .next (if !(setupHeard (portOf s.lmx p) h 3) then s
    else
      let t := portMod s p fun v => creditTake v h
      if drawsWait s && (portOf s.lmx p).session != 2 && quoteCheck s != some .busy then holdDraw t (.hello p h nonce)
      else hello p h nonce t)

/-- Whether the HELLO_REPLY of an attempt has gone out. -/
def replied (v : PortSt) : Bool := v.setup.any fun m => match m with
  | .helloReply _ ek => ek == v.ek
  | _ => false

/-- A session key in its slot. -/
def sessionKey (b : List Byte) : KeySlot := { valid := true, use := .port, ownerSet := 0, key := BitVec.ofNat 256 (leNat b) }

/-- KEM_CT (Table 15-3, step 4): k_down and k_up are derived; the session is live, and held notices and chunks go out. -/
def kemCt (p : Port) (h : FrameHdr) (ct : List Byte) (s : State) : State :=
  let v := portOf s.lmx p
  let t := shakeW (v.quote ++ v.ek ++ ct)
  let ks := shake256 64 (kemDecaps v.dk ct ++ w256Bytes t ++ ascii "nirnus-lemlix" ++ natLe 1 (portNum p))
  let s1 := slotPut (slotPut s (sessionSlot p) (sessionKey (ks.take 32))) (sessionSlot p + 1) (sessionKey (ks.drop 32))
  let s2 := portMod s1 p fun v => { v with
    session := 2, dk := [], rxSeq := 0, txSeq := 0, txHigh := 0, txAck := 0, credit := h.credit, unacked := []
    cntSessions := satAdd 32 v.cntSessions 1 }
  flushNotices { s2 with lmx := flushHeld s2.lmx }

/-- KEM_CT: of the attempt's session ID, with a ciphertext of 1,568 bytes, once the HELLO_REPLY has gone out. -/
def execKemCt (p : Port) (ct : List Byte) (s : State) (h : FrameHdr := {}) : Host.Outcome State Fault Refusal :=
  let v := portOf s.lmx p
  .next (if setupHeard v h 5 && v.session == 1 && h.session == v.sessionId && decide (ct.length = kemCtLen) && replied v then kemCt p h ct s
    else s)

/-- SESSION_TIMEOUT (R402): 1 s without an authenticated frame. -/
def execSessionTimeout (p : Port) (s : State) : Host.Outcome State Fault Refusal := .next (endSess s p)

/-- A write of LMX_PORT_CTRL of port `target` (Table 15-8), less the end of its session. -/
def portCtrl (target : Port) (v : Word) (s : State) : State := portMod s target fun x => { x with genCap := v.getLsbD 1 }

/-- END_SESSION as it has its turn: the reply goes first. -/
def endSession (p : Port) (tag : Nat) (target : Port) (s : State) : State :=
  let t := mgmtAgain p tag (fun t => ⟨t, .ok, []⟩) s
  if lockedOut s.lmx p then t else endSess t target

/-- END_SESSION: end_session written in LMX_PORT_CTRL of port `target`. -/
def execEndSession (p : Port) (tag : Nat) (target : Port) (s : State) : Host.Outcome State Fault Refusal :=
  .next (mgmtTurn p (.endSession p tag target) (endSession p tag target) s)

/-! ### Frames of a session (R402, R403, R405) -/

/-- Drop what an ack covers: frames that have gone out, up to the acknowledged sequence number; sending goes on above it (R405). -/
def ackFrames (v : PortSt) (ack : Nat) : PortSt :=
  if ack < v.txHigh then
    { v with txAck := ack, txSeq := max v.txSeq (ack + 1), unacked := v.unacked.filter fun f => decide (ack < f.seq) }
  else v

/-- An accepted frame: the next expected sequence number, its ack and credit, and what the credit lets go out. -/
def frameTake (v : PortSt) (h : FrameHdr) : PortSt :=
  creditTake { ackFrames v h.ack with rxSeq := v.rxSeq + 1, cntRx := (v.cntRx + 1) % 2 ^ 64 } h

/-- Whether a frame confirms the keys of a session: the first DATA frame, with sequence 0 (Table 15-3, step 5). -/
def confirms (v : PortSt) (h : FrameHdr) : Bool := h.type == 1 && h.seq == 0 && v.rxSeq == 0

/-- A frame under the session's keys as it arrives. One whose tag fails is discarded and counted, and ends the attempt where it was to
confirm the keys; one of any but the next sequence number is discarded; one numbered 2^64 − 1 ends the session. -/
def sessionFrame (p : Port) (h : FrameHdr) (type : Nat) (tagOk : Bool) (f : State → State) (s : State) : State :=
  let v := portOf s.lmx p
  if !(heard s.lmx p) || h.type ≠ type || !(frameMine v h) || decide (8192 < h.length) || h.session ≠ v.sessionId then s
  else if !tagOk then
    let s1 := portMod s p fun v => { v with cntTag := satAdd 32 v.cntTag 1 }
    if confirms v h then endSess s1 p else s1
  else if h.seq ≠ v.rxSeq then s
  else if 2 ^ 64 - 1 ≤ v.rxSeq then endSess s p
  else f s

/-- DATA_FRAME: its messages are rows of their own. -/
def execDataFrame (p : Port) (h : FrameHdr) (tagOk : Bool) (s : State) : Host.Outcome State Fault Refusal :=
  .next (sessionFrame p h 1 tagOk (fun t => portMod t p fun v => frameTake v h) s)

/-- CLOSE (R402): no setup frame, so it carries a tag. -/
def execClose (p : Port) (s : State) (h : FrameHdr := {}) (tagOk : Bool := true) : Host.Outcome State Fault Refusal :=
  .next (sessionFrame p h 7 tagOk (fun t => endSess t p) s)

/-- FRAME_RESEND_TIMEOUT (R405): 200 µs without progress of ack. -/
def execFrameResendTimeout (p : Port) (s : State) : Host.Outcome State Fault Refusal :=
  .next (if (portOf s.lmx p).session = 2 then portMod s p resend else s)

/-! ### The management lock, system-space requests, firmware (R406, R407, R412) -/

/-- A write of LMX_MGMT_LOCK by a port: 1 takes the lock if it is free, 0 from its holder releases it (Table 15-10). -/
def lockWrite (p : Port) (v : Word) (s : State) : State :=
  if fld v.toNat 0 2 = 1 && s.lmx.lock = 0 then { s with lmx := { s.lmx with lock := portNum p + 1 } }
  else if fld v.toNat 0 2 = 0 && s.lmx.lock = portNum p + 1 then { s with lmx := { s.lmx with lock := 0 } }
  else s

/-- MGMT_LOCK_WRITE. -/
def execMgmtLockWrite (p : Port) (tag : Nat) (v : Word) (s : State) : Host.Outcome State Fault Refusal :=
  .next (mgmtWrite p tag (.mgmtLockWrite p tag v) (fun t => ⟨lockWrite p v t, .ok, []⟩) s)

/-- SPACE_REQ: a request of the system space on channel 1. -/
def execSpaceReq (p : Port) (tag : Nat) (r : SpaceReq) (s : State) : Host.Outcome State Fault Refusal :=
  .next (spaceRequest ⟨p, 0, tag, none⟩ r s)

/-- The flash while it is written: a partial image is invalid (Table 18-5). -/
def flashStart (x : LifeCycle) (w : FlashRun) : LifeCycle := { x with flashErased := false, flashImage := [], flashSig := [], flashing := some w }

/-- A firmware image as it has its turn (R406): it is written only when its signature verifies; RIG_MISMATCH otherwise, logged. The reply of
a good image follows its write (log entry 128); while one is written another is BUSY. -/
def firmwareImage (p : Port) (tag : Nat) (image sig : List Byte) (s : State) : State :=
  if lockedOut s.lmx p || s.lc.flashing.isSome then mgmtRun p tag (fun t => ⟨t, .busy, []⟩) s
  else if (portOf s.lmx p).session ≠ 2 then s
  else if imageGood image sig then { s with lc := flashStart s.lc ⟨p, tag, image, sig⟩ }
  else
    mgmtRun p tag (fun t =>
      ⟨stLog t { logBlank with kind := 13, unit := 122, status := .rigMismatch, detail := 0xFF }, .rigMismatch, []⟩) s

/-- FIRMWARE_IMAGE. -/
def execFirmwareImage (p : Port) (tag : Nat) (image sig : List Byte) (s : State) : Host.Outcome State Fault Refusal :=
  .next (mgmtTurn p (.firmwareImage p tag image sig) (firmwareImage p tag image sig) s)

end Sys2Proof.Machine
end

