-- ==== Sys2Proof/Machine/Registers.lean ====
section
/-! DEFINITION. The management space (R14, R66): every register read and written as its block's tables say, over the
management channel, the sideband and the JTAG register port. -/

namespace Sys2Proof.Machine

/-! ### Reads: each answers the state after the read, its RC fields cleared, and the value -/

/-- The index of a repeated register: base, stride, count. -/
def regIndex (o base stride n : Nat) : Option Nat :=
  if base ≤ o && (o - base) % stride = 0 && (o - base) / stride < n then some ((o - base) / stride) else none

/-- Bits [64k + 63 : 64k] of a 256-bit value. -/
def word256 (x : W256) (k : Nat) : Word := BitVec.ofNat 64 (x.toNat / 2 ^ (64 * k))

/-- A register without RC fields. -/
def plain (s : State) (w : Word) : State × Word := (s, w)

/-- The value of ID_BOOT_STATUS (Table 02-16). -/
def bootStatusWord (x : Power) : Word :=
  packWord [(x.bootStep, 4), (b2n x.bootFailed, 1), (x.failUnit, 8), (x.stackSlow.toNat, 8), (b2n x.selftestOk, 1), (b2n x.scrapStop, 1)]

/-- The value of ID_SLOT (Table 02-17): the rig names a twin while the adjacent slot is free (R29). twin_sense shows the last sample of the
strap (Table 01-7, step 1), not the live pin (DESIGN CHOICE, log entry 127). -/
def slotWord (s : State) : Word :=
  let t := s.power.strap.twinSense
  packWord [(s.power.slotId.toNat, 6), (0, 2), (b2n t, 1), (b2n (s.rig.active.twinNamed && t), 1)]

/-- The ID_ registers, offsets 0x00 to 0x40 (Tables 02-12 to 02-17). -/
def idRead (s : State) (o : Nat) : Word :=
  if o = 0x00 then idPart s
  else if o = 0x08 then s.power.serial
  else if o = 0x30 then packWord [(s.power.fwVersion, 32), (b2n s.power.golden, 1)]
  else if o = 0x38 then bootStatusWord s.power
  else if o = 0x40 then slotWord s
  else match regIndex o 0x10 8 4 with
    | some k => word256 s.power.idkeyFp k
    | none => 0

/-- The number of live spaces. -/
def liveSpaces (s : State) : Nat := (s.sp.slots.filter fun x => x.state == 1).length

/-- Block 0x00: ID_ and GLB_ (R67). -/
def read00 (s : State) (o : Nat) : State × Word :=
  plain s (if o = 0x100 then packWord [(b2n s.power.ready, 1), (b2n s.rig.active.house, 1), (liveSpaces s, 5)] else idRead s o)

/-- The code of a rig state (Table 02-20). -/
def rigStateCode : RigState → Nat
  | .empty => 0
  | .loading => 1
  | .verifying => 2
  | .verified => 3
  | .committing => 4
  | .rejected => 5

/-- Block 0x01: RIG_ (R68). -/
def read01 (s : State) (o : Nat) : State × Word :=
  let r := s.rig
  plain s (
    if o = 0x08 then packWord [(rigStateCode r.state, 3), (0, 13), (statusCode r.lastStatus, 16), (r.reason, 8), (r.signer, 8)]
    else if o = 0x10 then packWord [(r.ptr, 20)]
    else if o = 0x20 then packWord [(r.len, 20)]
    else if o = 0x80 then packWord [(r.active.moduleId, 12), (r.active.version, 4), (b2n r.active.shared, 1), (b2n r.active.replayable, 1),
      (r.active.parties.length, 4), (b2n r.active.twinNamed, 1)]
    else if o = 0x88 then r.active.serial
    else if o = 0x90 then packWord [(r.reinitMask.toNat, 33)]
    else match regIndex o 0x40 8 4, regIndex o 0x60 8 4 with
      | some k, _ => word256 (activeDigest s) k
      | none, some k => if r.state = .verified then word256 r.stagedDigest k else 0
      | none, none => 0)

/-- GAF_STATUS (Table 16-5): the headroom is 0 until READY. -/
def gafStatusWord (s : State) : Word :=
  packWord [(baseDraw s, 12), ((if isShared s || !s.power.ready then 0 else headroomMw s 0 / 1000), 12), (b2n (clampOn s.gaf || s.gaf.overdraw), 1),
    (b2n s.rig.active.strict, 1), (residentCount s, 7), ((s.sp.ctxs.filter (ctxRunnable s)).length, 13)]

/-- Block 0x02: GAF_ (R439). -/
def read02 (s : State) (o : Nat) : State × Word :=
  if o = 0x00 then plain s (packWord [(s.power.budgetW, 12), (b2n s.power.budgetClamped, 1)])
  else if o = 0x08 then plain s (gafStatusWord s)
  else if o = 0x10 then plain s (packWord [(s.gaf.sliceUs, 16), (s.gaf.frameMs, 8)])
  else if o = 0x18 then plain s (packWord [(s.gaf.idleUs, 16)])
  else if o = 0x80 then
    ({ s with gaf := { s.gaf with preempts := 0, handovers := 0 } }, packWord [(s.gaf.preempts, 32), (s.gaf.handovers, 32)])
  else if o = 0x88 then
    ({ s with gaf := { s.gaf with sleeps := 0, emergencies := 0 } }, packWord [(s.gaf.sleeps, 32), (s.gaf.emergencies, 32)])
  else
    match regIndex o 0x100 8 16 with
    | some n =>
      let x := spaceGet s n
      ({ s with sp := spaceMod s.sp n fun y => { y with refused := 0 } },
        packWord [((if isShared s then allowanceMw s n / 1000 else 0), 12), (x.draw10, 12), (b2n x.pending.isSome, 1), (x.refused, 23)])
    | none => plain s 0

/-- ISL_STATE (Table 16-6). -/
def islandWord (s : State) (n : Nat) : Word :=
  let x := s.gaf.islands.getD n {}
  packWord [(s.rig.active.caps.getD n 7, 3), (x.point, 3), ((if x.held then 3 else if x.asleep then 1 else 0), 2),
    (b2n (clampOn s.gaf || (s.gaf.overdraw && decide (n < 64))), 1), (x.epoch, 16)]

/-- Block 0x03: ISL_ (R440). -/
def read03 (s : State) (o : Nat) : State × Word :=
  match regIndex o 0 8 125, regIndex o 0x800 8 125 with
  | some n, _ => plain s (islandWord s n)
  | none, some n => plain s (packWord [((s.gaf.islands.getD n {}).cyc, 64)])
  | none, none => plain s 0

/-- Block 0x04: MEM_ and SCRB_ (R303, Tables 11-7 to 11-10). -/
def read04 (s : State) (o : Nat) : State × Word :=
  let m := s.mem
  let p := s.power
  if o = 0x00 then
    plain s (packWord [(p.hbmOk.toNat, 8), (p.stackSlow.toNat, 8), (b2n p.checkerOk, 1), (b2n p.sramOk, 1), (b2n p.selftestDone, 1)])
  else if o = 0x140 then ({ s with mem := { m with mergeHigh := 0 } }, packWord [(m.mergeHigh, 10)])
  else if o = 0x248 then
    plain s (packWord [(m.flipStack, 3), (b2n m.flipArm, 1), (b2n m.flipDone, 1), (b2n m.flipRefused, 1)])
  else if o = 0x250 then plain s (packWord [(m.flipAddr, 37)])
  else if o = 0x808 then plain s (packWord [(m.scrub.state, 2), (m.scrub.range, 5), (0, 9), (m.scrub.doneMib, 32)])
  else
    match regIndex o 0x100 8 8, regIndex o 0x200 8 9, regIndex o 0x810 8 6 with
    | some k, _, _ =>
      let e := m.errs.getD k {}
      ({ s with mem := { m with errs := m.errs.set k {} } },
        packWord [(e.corrected, 16), (e.uncorrectable, 16), (e.chkOnly, 16), (e.tagFail, 16)])
    | none, some k, _ => plain s (m.flipMask.getD k 0)
    | none, none, some k =>
      plain s (packWord [([m.scrub.read, m.scrub.corr, m.scrub.unc, m.scrub.mac, m.scrub.unver, m.scrub.key].getD k 0, 64)])
    | none, none, none => plain s 0

/-- Entries of a stack's failed-node list (R322). -/
def nodesUsed (s : State) (stack : Nat) : Nat := (s.mem.nodes.filter fun f => f.stack == stack).length

/-- The per-range registers of range n, or of the hold (Tables 12-11 to 12-14). -/
def rangeRegs (s : State) (n k : Nat) : State × Word :=
  let c := rangeCfg s n
  let x := rangeKey s n
  if k = 0 then
    plain s (packWord [(c.base / 2 ^ 30, 10), (c.size / 2 ^ 30, 10), (c.mode, 2), (c.ownerSet.toNat, 8), (b2n c.mirrored, 1), (c.keySource, 2),
      (dataSize c / 2 ^ 20, 20)])
  else if k = 1 then
    plain s (packWord [(x.curSlot, 8), ((if x.prevValid then x.prevSlot else 0), 8), (b2n x.prevValid, 1), (b2n x.keyless, 1),
      (x.gen % 2, 1), (x.gen, 32)])
  else if k = 2 then
    ({ s with ciph := rangeKeyMod s.ciph n fun y => { y with dead := 0 } },
      packWord [(x.walk, 3), (x.pace, 2), (x.doneMib, 30), (x.dead, 16),
        ((s.mem.nodes.filter fun f => f.range == n).length + (s.mem.allFailed.filter fun f => f.1 == n).length, 10)])
  else
    ({ s with ciph := rangeKeyMod s.ciph n fun y => { y with macFail := 0, unver := 0, exhausted := 0, debug := 0 } },
      packWord [(x.macFail, 16), (x.unver, 16), (x.exhausted, 16), (x.debug, 16)])

/-- The value that 8 bytes read as. -/
def wordOf (bs : List Byte) : Word := BitVec.ofNat 64 (leNat bs)

/-- Block 0x05: CIPH_ (R332). -/
def read05 (s : State) (o : Nat) : State × Word :=
  let x := s.ciph
  if o = 0x08 then plain s (packWord [(statusCode x.lastStatus, 16), (x.lastRange, 6)])
  else if o = 0x680 then plain s (packWord ((List.range 8).map fun k => (nodesUsed s k, 8)))
  else if o = 0x800 then plain s (packWord [(x.winAddr, 40)])
  else if o = 0x808 then ((winRead s).st, wordOf (winRead s).data)
  else if o = 0x810 then plain s (packWord [(statusCode x.winStatus, 16)])
  else
    match regIndex o 0x100 8 132, regIndex o 0x600 8 16 with
    | some k, _ => rangeRegs s (k / 4) (k % 4)
    | none, some k => plain s (packWord [((if k % 2 = 0 then x.hits else x.misses).getD (k / 2) 0, 64)])
    | none, none => plain s 0

/-- KEY_COMPACT (Table 13-16). -/
def compactWord (s : State) : Word :=
  let st := if s.keys.compactEnded then 2 else if s.rig.active.house then 0 else 1
  let bound := maskOf ((List.range 8).filter fun p => (s.keys.channels.getD p {}).bound)
  let joint := maskOf ((List.range 32).filter fun n =>
    (rangeCfg s n).mode != 0 && !(rangeKey s n).keyless && isJoint (s.keys.slots.getD (rangeKey s n).curSlot {}).ownerSet &&
      decide (2 ≤ (s.keys.slots.getD (rangeKey s n).curSlot {}).origin))
  packWord [(st, 2), (bound, 8), (joint, 32), (s.keys.pendings.length, 8)]

/-- KEY_FAB (Table 13-16). -/
def fabWord (x : Keys) : Word :=
  packWord [(x.fabCur.getD 0, 8), (x.fabOther.getD 0, 8), (b2n x.fabCur.isSome, 1), (b2n x.fabOther.isSome, 1), (b2n x.fabStaged, 1), (x.fabGen, 32)]

/-- Block 0x06: KEY_ (R366). -/
def read06 (s : State) (o : Nat) : State × Word :=
  let x := s.keys
  if o = 0x08 then
    plain s (packWord [(statusCode x.lastStatus, 16), ((x.slots.filter (·.valid)).length, 9), (b2n x.vaultOk, 1), (b2n x.entropyOk, 1),
      (x.quotes.length, 7)])
  else if o = 0x10 then plain s (packWord [(x.outPtr, 15), (x.out.length, 16), (b2n x.outReady, 1)])
  else if o = 0x18 then ((keyOutRead s).st, wordOf (keyOutRead s).data)
  else if o = 0x40 then plain s (compactWord s)
  else if o = 0x68 then plain s (fabWord x)
  else if o = 0x70 then plain s (packWord [(x.strikeCause, 4), (x.strikeCount, 32)])
  else if o = 0x78 then plain s (packWord [(x.tamperLive.toNat, 4), (x.tamperLatched.toNat, 4)])
  else
    match regIndex o 0x20 8 4, regIndex o 0x48 8 4, regIndex o 0x800 8 256 with
    | some k, _, _ => plain s (x.nonce.getD k 0)
    | none, some k, _ => plain s (word256 (compactDigest s) k)
    | none, none, some k => plain s (keySlotWord (x.slots.getD k {}))
    | none, none, none => plain s 0

/-- LC_STATUS.phase (Table 17-10): 1 while a transition is programmed, 2 while SCRAP wipes. -/
def lcPhase (x : LifeCycle) : Nat :=
  match x.going with
  | none => 0
  | some g => if g.target = 6 then 2 else 1

/-- Block 0x07: LC_ and DBG_ (R459). -/
def read07 (s : State) (o : Nat) : State × Word :=
  let x := s.lc
  let recs := fun k => packWord ((List.range 4).map fun r => ((x.records.getD (k + r) 0).toNat, 16))
  if o = 0x00 then
    plain s (packWord [(lcNow x, 3), (b2n x.resumed, 1), (0, 4), (x.word.toNat, 16), (x.agree.toNat, 3)])
  else if o = 0x10 then plain s (packWord [(statusCode x.lastStatus, 16), (lcPhase x, 2)])
  else if o = 0x18 then plain s (packWord [(x.tokens.toNat, 16), (tokensLeft x, 5)])
  else if o = 0x20 then plain s (recs 0)
  else if o = 0x28 then plain s (recs 4)
  else if o = 0x108 then
    ({ s with lc := { x with refused := 0 } },
      packWord [(statusCode x.dbgStatus, 16), (x.dbgReason, 8), (b2n x.chal.isSome, 1), (x.refused, 15)])
  else if o = 0x110 then plain s (grantWord s)
  else if o = 0x118 then plain s (packWord [(x.bufPtr, 16), (x.bufLen, 16), (b2n (x.chal.any fun c => c.digest.isSome), 1)])
  else if o = 0x120 then ((dbgDataRead s).st, wordOf (dbgDataRead s).data)
  else plain s 0

/-- Change a port's registers of the sideband. -/
def i3cCountsClear (s : State) : State := { s with power := { s.power with i3cResetReq := 0, i3cStrikeReq := 0, i3cRefused := 0 } }

/-- The registers of port p, at an offset in its 0x100 bytes (Tables 15-8, 15-9). -/
def portRegs (s : State) (p : Port) (o : Nat) : State × Word :=
  let v := portOf s.lmx p
  if o = 0x00 then
    plain s (packWord [(v.ring, 2), (b2n v.gen2, 1), (v.position, 4), (v.members, 4), (v.session, 2), (v.sessionId.toNat, 32)])
  else if o = 0x08 then plain s (packWord [(0, 1), (b2n v.genCap, 1)])
  else if o = 0x10 then plain s (packWord (v.opt.map fun w => (w.toNat, 16)))
  else if o = 0x40 then plain s (packWord [(v.cntTx, 64)])
  else if o = 0x48 then plain s (packWord [(v.cntRx, 64)])
  else if o = 0x50 then (portMod s p fun v => { v with cntTag := 0, cntResent := 0 }, packWord [(v.cntTag, 32), (v.cntResent, 32)])
  else if o = 0x58 then (portMod s p fun v => { v with cntRelock := 0, cntSessions := 0 }, packWord [(v.cntRelock, 32), (v.cntSessions, 32)])
  else if o = 0x60 then (portMod s p fun v => { v with cntRefused := 0, cntDrop := 0 }, packWord [(v.cntRefused, 32), (v.cntDrop, 32)])
  else plain s 0

/-- Block 0x08: LMX_ (R415). -/
def read08 (s : State) (o : Nat) : State × Word :=
  if o < 0x100 then portRegs s .a o
  else if o < 0x200 then portRegs s .b (o - 0x100)
  else if o = 0x200 then plain s (packWord [(s.lmx.lock, 2)])
  else if o = 0x300 then
    (i3cCountsClear s, packWord [(s.power.i3cResetReq, 16), (s.power.i3cStrikeReq, 16), (s.power.i3cRefused, 16)])
  else plain s 0

/-- FAB_LINK_STATUS (Table 08-13). -/
def linkWord (s : State) (n : Nat) : Word :=
  let l := linkOf s n
  packWord [(l.state, 2), (l.mode, 2), (linkCap s n, 2), (l.peerId, 12), (b2n l.peerNt420, 1), (l.laneFault.toNat, 4), (b2n (isTwinLink s n), 1),
    (b2n l.mismatch, 1), (b2n l.wdog, 1)]

/-- Block 0x09: FAB_ (R242). -/
def read09 (s : State) (o : Nat) : State × Word :=
  let f := s.fabric
  let r := s.rig.active
  if o = 0x00 then plain s (packWord [(r.moduleId, 12), (r.routeCount, 13), (r.twinId, 12), (b2n r.twinNamed, 1), (b2n r.strict, 1)])
  else if o = 0x08 then plain s (packWord [(f.timeout, 16)])
  else if o = 0x10 then ({ s with fabric := { f with highWater := 0 } }, packWord [(f.trackers.length, 19), (f.highWater, 19)])
  else if o = 0x18 then
    ({ s with fabric := { f with tagFail := 0, replayed := 0, hopLimit := 0, noRoute := 0 } },
      packWord [(f.tagFail, 16), (f.replayed, 16), (f.hopLimit, 16), (f.noRoute, 16)])
  else if o = 0x38 then
    ({ s with fabric := { f with late := 0, foreign := 0, noKey := 0, resetDrop := 0 } },
      packWord [(f.late, 16), (f.foreign, 16), (f.noKey, 16), (f.resetDrop, 16)])
  else if o = 0x20 then plain s (packWord [(f.routeSel, 12)])
  else if o = 0x28 then plain s (packWord [((r.routes.getD f.routeSel {}).primary.toNat, 48)])
  else if o = 0x30 then plain s (packWord [((r.routes.getD f.routeSel {}).alternate.toNat, 48)])
  else
    match regIndex o 0x100 8 48, regIndex o 0x300 8 48, regIndex o 0x1000 8 384 with
    | some n, _, _ => plain s (linkWord s n)
    | none, some n, _ => plain s (packWord [(0, 1), (b2n (linkOf s n).holdDown, 1)])
    | none, none, some k =>
      let l := linkOf s (k / 8)
      plain s (packWord [([l.cntTx, l.cntRx, l.cntCorr, l.cntRetry, l.cntCut, l.cntWdog, l.cntTrain, l.cntDown].getD (k % 8) 0, 64)])
    | none, none, none => plain s 0

/-- The phase of a collective slot (Table 09-11): joining until every other member has joined, then what its next operation does. -/
def colPhase (x : ColSlot) : Nat :=
  if x.joins.length + 1 < slotP x then 0
  else
    match x.prog.head? with
    | none => 3
    | some (.send ..) | some (.add ..) | some (.sendBlocks ..) | some (.addBlocks ..) | some (.readOut ..) | some (.readSeg ..) => 1
    | some (.sendFinal ..) | some (.sendOut ..) | some (.take ..) | some (.sendSeg ..) | some (.takeSeg ..) => 2

/-- COL_SLOT_INFO (Table 09-11); slots are numbered in the order in which they were taken. -/
def colSlotWord (s : State) : Word :=
  match s.col.slots[s.col.slotSel]? with
  | none => 0
  | some x =>
    packWord [(1, 1), (x.space, 4), (((cmdGet s x.cid).map (·.ctx)).getD 0, 12), (x.mine.op, 3), (colPhase x, 2), (slotP x, 13), (x.mine.comp, 2)]

/-- Block 0x0A: COL_ (R263). -/
def read0A (s : State) (o : Nat) : State × Word :=
  let x := s.col
  if o = 0x00 then ({ s with col := { x with highWater := 0 } }, packWord [(x.slots.length, 7), (x.highWater, 7)])
  else if o = 0x08 then plain s (packWord [(x.timeout, 16)])
  else if o = 0x10 then plain s (packWord [(x.done, 64)])
  else if o = 0x18 then plain s (packWord [(x.failed, 64)])
  else if o = 0x20 then plain s (packWord [(x.tx, 64)])
  else if o = 0x28 then plain s (packWord [(x.rx, 64)])
  else if o = 0x30 then ({ s with col := { x with nonfinite := 0, abortsRx := 0 } }, packWord [(x.nonfinite, 32), (x.abortsRx, 32)])
  else if o = 0x40 then plain s (packWord [(x.slotSel, 6)])
  else if o = 0x48 then plain s (colSlotWord s)
  else if o = 0x50 then
    plain s (match x.slots[x.slotSel]? with
      | none => 0
      | some y => packWord [(y.mine.seq, 32), (y.mine.digest.toNat, 32)])
  else plain s 0

/-- The code of a pair state (Table 10-8). -/
def pairStateCode : PairState → Nat
  | .unpaired => 0
  | .pairing => 1
  | .resilvering => 2
  | .guarded => 3
  | .inDoubt => 4
  | .orphaned => 5
  | .copied => 6

/-- A count in units of 1,024 that saturates at n bits (R287). -/
def kilo (n x : Nat) : Nat := min (2 ^ n - 1) (x / 1024)

/-- Block 0x0B: DLY_ (R287). -/
def read0B (s : State) (o : Nat) : State × Word :=
  let d := s.dly
  if o = 0x00 then
    plain s (packWord [(roleCode d.role, 2), (pairStateCode d.state, 4), (d.partner, 12), (b2n d.promoted, 1), (b2n (printing s), 1), (b2n d.take, 1),
      (b2n d.rewinding, 1), (d.epoch, 32)])
  else if o = 0x08 then plain s (packWord [(d.committed, 48)])
  else if o = 0x10 then plain s (packWord [(d.applied, 48), (d.sealedIntervals, 16)])
  else if o = 0x18 then ({ s with dly := { d with holdHigh := 0 } }, packWord [(kilo 32 (heldLines d), 32), (kilo 32 d.holdHigh, 32)])
  else if o = 0x20 then plain s (packWord [(s.rig.active.holdSize / 128 / 1024, 32), (kilo 32 d.stepHigh, 32)])
  else if o = 0x48 then plain s (packWord [(d.arg, 48)])
  else if o = 0x50 then plain s (packWord [(statusCode d.lastStatus, 16), (statusCode d.pairEvent, 16), (d.reason, 8)])
  else if o = 0x58 then plain s (packWord [(d.print.state, 3), (d.print.sent, 32)])
  else if o = 0x60 then plain s (packWord [(d.print.id, 64)])
  else if o = 0x68 then plain s (packWord [(d.doneMib, 32), (d.totalMib, 32)])
  else if o = 0x70 then plain s (packWord [(d.matched.toNat, 32), (d.mismatched.toNat, 32)])
  else if o = 0x80 then plain s (packWord [(d.cntMirror, 64)])
  else if o = 0x88 then ({ s with dly := { d with cntCommitted := 0, cntAborted := 0 } }, packWord [(d.cntCommitted, 32), (d.cntAborted, 32)])
  else if o = 0x90 then plain s (packWord [(d.cntStall, 64)])
  else if o = 0x98 then ({ s with dly := { d with cntLapse := 0, cntPromote := 0 } }, packWord [(d.cntLapse, 32), (d.cntPromote, 32)])
  else plain s 0

/-- The registers of a space slot (Table 14-11). -/
def slotRegs (s : State) (n k : Nat) : State × Word :=
  let x := spaceGet s n
  let u := useOf s n
  if k = 0 then plain s (packWord [(x.state, 2), (b2n x.bound, 1), (x.party, 8), (x.ctlRange, 5)])
  else if k = 1 then plain s (packWord [(u.1, 13), (u.2.1, 11), (u.2.2.1, 21)])
  else if k = 2 then plain s (packWord [(u.2.2.2, 21), (l2Used s.sp.objs n, 19)])
  else
    ({ s with sp := spaceMod s.sp n fun y => { y with aborted := 0, depFailed := 0 } }, packWord [(x.aborted, 32), (x.depFailed, 32)])

/-- Block 0x0C: SPC_ (R396). The fences cached are as many of those that exist as the cache holds (R386). -/
def read0C (s : State) (o : Nat) : State × Word :=
  let x := s.sp
  if o = 0x08 then plain s x.arg0
  else if o = 0x10 then plain s x.arg1
  else if o = 0x18 then plain s x.arg2
  else if o = 0x20 then plain s (packWord [(statusCode x.lastStatus, 16), (x.lastSlot, 4)])
  else if o = 0x30 then plain s (packWord [(quotaSum s (·.qCtx), 13), (quotaSum s (·.qQueue), 11), (quotaSum s (·.qObj), 21)])
  else if o = 0x38 then plain s (packWord [(quotaSum s (·.qFence), 21), (residentCount s, 7), (min 16384 x.fences.length, 15)])
  else
    match regIndex o 0x100 8 64 with
    | some k => slotRegs s (k / 4) (k % 4)
    | none => plain s 0

/-- The 32 bytes of a log entry (Table 18-6). -/
def logBytes (e : LogEntry) : List Byte :=
  natLe 4 e.seq ++ natLe 2 (statusCode e.status) ++ natLe 1 e.kind ++ natLe 1 e.unit ++ natLe 1 e.space ++ natLe 1 e.range ++ natLe 1 e.stack ++
    natLe 1 e.cause ++ natLe 2 e.context ++ natLe 2 e.epoch ++ natLe 4 e.count ++ natLe 4 e.detail ++ List.replicate 8 0

/-- Block 0x0D: ERR_ (R472). -/
def read0D (s : State) (o : Nat) : State × Word :=
  let e := s.err
  if o = 0x00 then plain s (packWord [(e.nextSeq, 32), (e.entries.length, 11)])
  else if o = 0x08 then ({ s with err := { e with overwritten := 0, recordsLost := 0 } }, packWord [(e.overwritten, 32), (e.recordsLost, 32)])
  else if o = 0x10 then plain s (packWord [(e.sel, 32)])
  else if o = 0x40 then plain s (packWord [(e.lastKind, 2), (e.lastCause, 4), (e.epoch, 16)])
  else if o = 0x48 then ({ s with err := { e with resendA := 0, resendB := 0 } }, packWord [(e.resendA, 32), (e.resendB, 32)])
  else if o = 0x50 then plain s e.islFailed
  else if o = 0x58 then ({ s with err := { e with islResets := 0, gripResets := 0 } }, packWord [(e.islResets, 32), (e.gripResets, 32)])
  else
    match regIndex o 0x18 8 4, e.entries.find? fun x => x.seq == e.sel with
    | some k, some x => plain s (wordOf ((logBytes x).drop (8 * k) |>.take 8))
    | _, _ => plain s 0

/-- Block 0x0E: TEL_ (R441). -/
def read0E (s : State) (o : Nat) : State × Word :=
  let g := s.gaf
  if o = 0x00 then plain s (packWord [(g.mainMv, 16), (g.stbyMv, 16), (g.boardDc.toNat, 16)])
  else if o = 0x08 then ({ s with gaf := { g with peakW := 0 } }, packWord [(g.inputW, 16), (g.peakW, 16), (s.power.budgetW, 12)])
  else if o = 0x10 then plain s (packWord [(g.tempA.toNat, 12), (g.tempB.toNat, 12), (g.tempBase.toNat, 12), (g.tempHbm.toNat, 12)])
  else if o = 0x18 then plain s (packWord [(g.inputMj, 64)])
  else if o = 0x20 then
    ({ s with gaf := { g with clamps := 0, overdraws := 0 } }, packWord [(clampBits s, 4), (0, 12), (g.clamps, 16), (g.overdraws, 16)])
  else
    match regIndex o 0x100 8 125 with
    | some n => plain s (packWord [((g.islands.getD n {}).energyUj, 64)])
    | none => plain s 0

/-- Block 0x0F: CMP_ (R473, Table 18-10). -/
def read0F (s : State) (o : Nat) : State × Word :=
  if o = 0x00 then
    plain s (packWord [(b2n (s.rig.active.version == 2), 1), ((s.fabric.links.filter fun l => l.state == 2 && l.peerNt420).length, 6),
      (b2n ((s.lmx.a.ring == 1 || s.lmx.a.ring == 2) && !s.lmx.a.gen2), 1), (b2n ((s.lmx.b.ring == 1 || s.lmx.b.ring == 2) && !s.lmx.b.gen2), 1),
      ((s.sp.queues.filter fun q => q.version == 1).length, 11)])
  else if o = 0x08 then
    ({ s with sp := { s.sp with cmpAccepted := 0, cmpRefused := 0 } }, packWord [(s.sp.cmpAccepted, 32), (s.sp.cmpRefused, 32)])
  else plain s 0

/-- MXE_BAND_CMD of a band (Table 04-8). The chunk that a command has reached is a free value below its number of chunks (log entry 70); a
Shared rig does not show it. -/
def bandCmdWord (s : State) (e b : Nat) : State × Word :=
  match bandCmd s e b with
  | none => plain s 0
  | some c =>
    let y := mmBody (cmdBody c)
    let depth := (y.fa.map fun f => depthOf f.fmt (bandRows (bandAt s e b))).getD 1
    let chunk := if isShared s then 0 else (freeAt s 0).toNat % max 1 (chunkCount depth y.k)
    (freeUse s 1, packWord [(1, 1), (c.space, 4), (c.ctx, 12), (chunk % 16, 4)])

/-- Block 0x40 + e: MXE_ (R124). -/
def readMxe (s : State) (e o : Nat) : State × Word :=
  let x := s.array.engines.getD e {}
  let r := s.rig.active.bands.getD e (0, 0)
  if o = 0x00 then plain s (packWord [(r.1, 2), (0, 14), (r.2.toNat, 16)])
  else if o = 0x08 then
    plain s (packWord [(maskOf ((List.range 8).filter fun b => (bandCmd s e b).isSome), 8), (x.wdog.toNat, 8), (x.tileKind.toNat, 16)])
  else if o = 0xC0 then
    ({ s with array := engineMod s.array e fun y => { y with stgCorr := 0, stgUnc := 0, accCorr := 0, accUnc := 0 } },
      packWord [(x.stgCorr, 16), (x.stgUnc, 16), (x.accCorr, 16), (x.accUnc, 16)])
  else
    match regIndex o 0x10 8 8, regIndex o 0x80 8 6 with
    | some b, _ => bandCmdWord s e b
    | none, some k => plain s (packWord [([x.macs, x.cycStream, x.cycLoad, x.cycFill, x.cycPort, x.cycIdle].getD k 0, 64)])
    | none, none => plain s 0

/-- A read of the register at a management-space offset; zero where there is none (R66). -/
def regRead (s : State) (off : Nat) : State × Word :=
  let o := off % 2 ^ 16
  match off / 2 ^ 16 with
  | 0x00 => read00 s o
  | 0x01 => read01 s o
  | 0x02 => read02 s o
  | 0x03 => read03 s o
  | 0x04 => read04 s o
  | 0x05 => read05 s o
  | 0x06 => read06 s o
  | 0x07 => read07 s o
  | 0x08 => read08 s o
  | 0x09 => read09 s o
  | 0x0A => read0A s o
  | 0x0B => read0B s o
  | 0x0C => read0C s o
  | 0x0D => read0D s o
  | 0x0E => read0E s o
  | 0x0F => read0F s o
  | b => if 0x40 ≤ b && b < 0x80 then readMxe s (b - 0x40) o else plain s 0

/-- Consecutive registers from an offset up. -/
def regReads : Nat → Nat → State → State × List Byte
  | 0, _, s => (s, [])
  | n + 1, off, s =>
    let r := regRead s off
    let t := regReads n (off + 8) r.1
    (t.1, natLe 8 r.2.toNat ++ t.2)

/-- REG_READ (R404): 1 to 128 registers; another count answers BAD_DESCRIPTOR. -/
def regReadReq (off : BitVec 24) (count : Nat) (s : State) : Answer :=
  if count = 0 || 128 < count then ⟨s, .badDescriptor, []⟩
  else
    let r := regReads count off.toNat s
    ⟨r.1, .ok, r.2⟩

/-- Whether an access of n registers from an offset up reaches CIPH_WIN_DATA while the window's range is being filled (R308). -/
def windowWaits (s : State) (off n : Nat) : Bool :=
  decide (off ≤ 0x050808) && (0x050808 - off) % 8 == 0 && decide ((0x050808 - off) / 8 < n) && debugWaits s s.ciph.winAddr

/-- A read of registers as it has its turn. -/
def regReadTurn (p : Port) (tag : Nat) (off : BitVec 24) (count : Nat) (row : Instr) (s : State) : State :=
  if windowWaits s off.toNat count && decide (count ≤ 128) then holdAccess s row else mgmtRun p tag (regReadReq off count) s

/-- REG_READ. -/
def execRegRead (p : Port) (tag : Nat) (off : BitVec 24) (count : Nat) (s : State) : Host.Outcome State Fault Refusal :=
  .next (mgmtTurn p (.regRead p tag off count) (regReadTurn p tag off count (.regRead p tag off count)) s)

/-- RC_REGISTER_READ (R14): the RC fields are returned, then cleared. -/
def execRcRegisterRead (p : Port) (tag : Nat) (off : BitVec 24) (s : State) : Host.Outcome State Fault Refusal :=
  .next (mgmtTurn p (.rcRegisterRead p tag off) (regReadTurn p tag off 1 (.rcRegisterRead p tag off)) s)

/-! ### Writes -/

/-- A write with no status of its own. -/
def done (s : State) : Answer := ⟨s, .ok, []⟩

/-- Block 0x00 (Table 02-18): GLB_RESET restarts the module at once. -/
def write00 (o : Nat) (v : Word) (b : Boot) (s : State) : Answer := done (if o = 0x108 && v = 0xC0DE then resetAtOnce s 3 b else s)

/-- Block 0x01 (Tables 02-19, 02-21). -/
def write01 (o : Nat) (v : Word) (s : State) : Answer :=
  if o = 0x00 then
    (if fld v.toNat 0 4 = 1 then rigVerify s else if fld v.toNat 0 4 = 2 then rigCommit s else if fld v.toNat 0 4 = 3 then rigDiscard s
      else done s)
  else if o = 0x10 then rigBufWrite (rigPtr v) s
  else if o = 0x18 then rigBufWrite (rigData v) s
  else if o = 0x20 then rigBufWrite (rigLen v) s
  else done s

/-- Block 0x02 (Table 16-5). -/
def write02 (o : Nat) (v : Word) (s : State) : Answer :=
  let n := v.toNat
  done (
    if o = 0x00 then budgetWrite (fld n 0 12) s
    else if o = 0x10 then { s with gaf := { s.gaf with sliceUs := max 100 (fld n 0 16), frameMs := max 4 (fld n 16 8) } }
    else if o = 0x18 then { s with gaf := { s.gaf with idleUs := fld n 0 16 } }
    else s)

/-- Block 0x04 (Tables 11-9, 11-10). -/
def write04 (o : Nat) (v : Word) (s : State) : Answer :=
  let n := v.toNat
  done (
    if o = 0x248 then flipCtrl v s
    else if o = 0x800 then (if fld n 0 2 = 1 then scrubStart (fld n 2 5) (fld n 7 2) s else if fld n 0 2 = 2 then scrubStop s else s)
    else match regIndex o 0x200 8 9 with
      | some k => { s with mem := { s.mem with flipMask := s.mem.flipMask.set k v } }
      | none => s)

/-- Block 0x05 (Tables 12-10, 12-15). -/
def write05 (o : Nat) (v : Word) (s : State) : Answer :=
  let n := v.toNat
  if o = 0x00 then
    (if fld n 0 4 = 1 then rekey (fld n 4 6) (fld n 10 8) (fld n 18 2) s else if fld n 0 4 = 2 then reinit (fld n 4 6) s else done s)
  else if o = 0x800 then done { s with ciph := { s.ciph with winAddr := fld n 3 37 * 8 } }
  else if o = 0x808 then winWrite v s
  else done s

/-- Block 0x06 (Tables 13-14 to 13-16). -/
def write06 (o : Nat) (v : Word) (s : State) : Answer :=
  let n := v.toNat
  if o = 0x00 then
    match fld n 0 4 with
    | 1 => quoteReq s
    | 2 => certReq (n.testBit 20) s
    | 3 => drawKey (fld n 4 8) (BitVec.ofNat 8 (fld n 12 8)) s
    | 4 => zeroizeKey (fld n 4 8) s
    | 5 => fabActivate s
    | 6 => fabRetire s
    | _ => done s
  else if o = 0x10 then done { s with keys := { s.keys with outPtr := fld n 3 12 * 8 } }
  else if o = 0x78 then done { s with keys := { s.keys with tamperLatched := s.keys.tamperLatched &&& ~~~(BitVec.ofNat 4 (fld n 4 4)) } }
  else
    match regIndex o 0x20 8 4 with
    | some k => done { s with keys := { s.keys with nonce := s.keys.nonce.set k v } }
    | none => done s

/-- Block 0x07 (Tables 17-10, 17-11). -/
def write07 (o : Nat) (v : Word) (b : Boot) (s : State) : Answer :=
  let n := v.toNat
  if o = 0x08 then
    (if fld n 0 4 = 1 then lcField b s
      else if fld n 0 4 = 2 then
        (if confirmOk s (BitVec.ofNat 32 (fld n 4 32)) then done (scrapNow s) else ⟨lcStatus s .badDescriptor, .badDescriptor, []⟩)
      else done s)
  else if o = 0x100 then
    (if fld n 0 4 = 1 then challenge (fld n 4 2) (fld n 6 4) s
      else if fld n 0 4 = 2 then acceptToken b s
      else if fld n 0 4 = 3 then dbgClose s else done s)
  else if o = 0x118 then done (dbgPtrWrite v s)
  else if o = 0x120 then dbgDataWrite v s
  else done s

/-- Block 0x08 (Tables 15-8, 15-10); ending a session follows the reply. -/
def write08 (p : Option Port) (o : Nat) (v : Word) (s : State) : Answer :=
  done (
    if o = 0x008 then portCtrl .a v s
    else if o = 0x108 then portCtrl .b v s
    else if o = 0x200 then (match p with
      | some q => lockWrite q v s
      | none => s)
    else s)

/-- Block 0x09 (Tables 08-10, 08-12, 08-13). -/
def write09 (o : Nat) (v : Word) (s : State) : Answer :=
  let n := v.toNat
  if o = 0x08 then done { s with fabric := { s.fabric with timeout := max 16 (fld n 0 16) } }
  else if o = 0x20 then done { s with fabric := { s.fabric with routeSel := fld n 0 12 } }
  else
    match regIndex o 0x100 8 48, regIndex o 0x300 8 48 with
    | some k, _ => done (linkMod s k fun l => { l with wdog := l.wdog && !n.testBit 25 })
    | none, some k => linkCtrl k v s
    | none, none => done s

/-- Block 0x0A (Tables 09-9, 09-11). -/
def write0A (o : Nat) (v : Word) (s : State) : Answer :=
  done (
    if o = 0x08 then { s with col := { s.col with timeout := max 16 (fld v.toNat 0 16) } }
    else if o = 0x40 then { s with col := { s.col with slotSel := fld v.toNat 0 6 } }
    else s)

/-- Block 0x0B (Table 10-10). -/
def write0B (o : Nat) (v : Word) (s : State) : Answer :=
  let n := v.toNat
  if o = 0x40 then
    match fld n 0 4 with
    | 1 => detach s
    | 2 => resolve (n.testBit 4) s
    | 3 => rewind s
    | 4 => takeBegin s
    | 5 => print (BitVec.ofNat 32 (fld n 5 32)) s
    | 6 => printAbandon s
    | 7 => checkArm s
    | 8 => restoreBegin s
    | 9 => restoreEnd s
    | _ => done s
  else if o = 0x48 then done { s with dly := { s.dly with arg := fld n 0 48 } }
  else done s

/-- Block 0x0C (Table 14-9). -/
def write0C (o : Nat) (v : Word) (s : State) : Answer :=
  let n := v.toNat
  if o = 0x00 then
    (if fld n 0 4 = 1 then spaceCreate (fld n 4 4) s else if fld n 0 4 = 2 then spaceDestroy (fld n 4 4) s else done s)
  else
    done { s with sp :=
      if o = 0x08 then { s.sp with arg0 := BitVec.ofNat 64 (fld n 0 24) }
      else if o = 0x10 then { s.sp with arg1 := BitVec.ofNat 64 (fld n 0 45) }
      else if o = 0x18 then { s.sp with arg2 := BitVec.ofNat 64 (fld n 0 40) }
      else s.sp }

/-- Block 0x40 + e (Tables 04-7, 04-9). -/
def writeMxe (e o : Nat) (v : Word) (s : State) : Answer :=
  if o = 0x08 then
    done { s with array := engineMod s.array e fun y => { y with wdog := y.wdog &&& ~~~(BitVec.ofNat 8 (fld v.toNat 8 8)) } }
  else if o = 0xF8 then mxeCntClear e v s
  else done s

/-- A write of the register at a management-space offset, by a port's session or by none; ignored where there is none (R66). A write
that restarts the module meets what `b` gives. -/
def regWrite (p : Option Port) (off : Nat) (v : Word) (b : Boot) (s : State) : Answer :=
  let o := off % 2 ^ 16
  match off / 2 ^ 16 with
  | 0x00 => write00 o v b s
  | 0x01 => write01 o v s
  | 0x02 => write02 o v s
  | 0x04 => write04 o v s
  | 0x05 => write05 o v s
  | 0x06 => write06 o v s
  | 0x07 => write07 o v b s
  | 0x08 => write08 p o v s
  | 0x09 => write09 o v s
  | 0x0A => write0A o v s
  | 0x0B => write0B o v s
  | 0x0C => write0C o v s
  | 0x0D => done (if o = 0x10 then { s with err := { s.err with sel := fld v.toNat 0 32 } } else s)
  | k => if 0x40 ≤ k && k < 0x80 then writeMxe (k - 0x40) o v s else done s

/-- The row that a register write spells where its effect draws; such a write waits while the entropy source fails (R336). -/
def drawRow (s : State) (p : Port) (tag : Nat) (off : Nat) (v : Word) : Option Instr :=
  let n := v.toNat
  let cmd := fld n 0 4
  if off = 0x050000 && cmd = 1 && (rangeCfg s (fld n 4 6)).keySource = 0 then some (.rekey p tag (fld n 4 6) (fld n 10 8) (fld n 18 2))
  else if off = 0x050000 && cmd = 2 then some (.reinit p tag (fld n 4 6))
  else if off = 0x060000 && cmd = 3 then some (.draw p tag (fld n 4 8) (BitVec.ofNat 8 (fld n 12 8)))
  else if off = 0x070100 && cmd = 1 then some (.challenge p tag (fld n 4 2) (fld n 6 4))
  else if off = 0x0B0040 && cmd = 5 then some (.print p tag (BitVec.ofNat 32 (fld n 5 32)))
  else none

/-- The port whose session a write of LMX_PORT_CTRL ends. -/
def endedPort (off : Nat) (v : Word) : Option Port :=
  if !v.getLsbD 0 then none else if off = 0x080008 then some .a else if off = 0x080108 then some .b else none

/-- What a register write does after its effect: end_session ends a session. -/
def writeEnds (off : Nat) (v : Word) (s : State) : State :=
  match endedPort off v with
  | some q => endSess s q
  | none => s

/-- REG_WRITE as it has its turn (R404): the write, its reply, then what follows the reply. -/
def regWriteTurn (p : Port) (tag : Nat) (off : BitVec 24) (v : Word) (b : Boot) (s : State) : State :=
  if lockedOut s.lmx p then mgmtRun p tag (fun t => ⟨t, .busy, []⟩) s
  else if windowWaits s off.toNat 1 then holdAccess s (.regWrite p tag off v b)
  else if (portOf s.lmx p).session = 2 then writeEnds off.toNat v (mgmtRun p tag (regWrite (some p) off.toNat v b) s)
  else s

/-- REG_WRITE as it arrives: one that draws waits as the row that it spells. -/
def regWriteReq (p : Port) (tag : Nat) (off : BitVec 24) (v : Word) (b : Boot) (s : State) : State :=
  match drawRow s p tag off.toNat v with
  | some row => mgmtDraw p tag row (regWrite (some p) off.toNat v b) s
  | none => mgmtTurn p (.regWrite p tag off v b) (regWriteTurn p tag off v b) s

/-- REG_WRITE. -/
def execRegWrite (p : Port) (tag : Nat) (off : BitVec 24) (v : Word) (s : State) (b : Boot := {}) : Host.Outcome State Fault Refusal :=
  .next (settle (regWriteReq p tag off v b s))

/-! ### The sideband and the JTAG register port -/

/-- The registers that the sideband reads (Table 15-7); of a scrapped module the ID_ registers alone (R451). -/
def i3cReaches (s : State) (off : Nat) : Bool :=
  (off % 8 == 0 && decide (off ≤ 0x40)) ||
    (!s.power.scrapStop && (off == 0x020000 || (regIndex off 0x0E0000 8 5).isSome || (regIndex off 0x0E0100 8 125).isSome))

/-- I3C_READ (R414): the next private read returns the register, or 8 zero bytes for a refused offset. A private write whose command byte is
none of Table 15-7 is refused. -/
def execI3cRead (off : BitVec 24) (s : State) (cmd : Byte := 0x10) : Host.Outcome State Fault Refusal :=
  .next (if !i3cUp s.power then s
    else if cmd ≠ 0x10 then i3cRefuse s
    else if i3cReaches s off.toNat then
      let r := regRead s off.toNat
      { r.1 with power := { r.1.power with i3cData := r.2 } }
    else
      let t := i3cRefuse s
      { t with power := { t.power with i3cData := 0 } })

/-- The registers that the JTAG register port does not reach (Table 17-5). -/
def regPortCut (off : Nat) : Bool := off == 0x070008 || off == 0x070100 || off == 0x070118 || off == 0x070120

/-- An access of the JTAG register port that does not wait: writes fail with BUSY while a Lemlix port holds the management lock. -/
def regPortGo (off : Nat) (write : Option Word) (b : Boot) (s : State) : State :=
  match write with
  | none =>
    let r := regRead s off
    jtagDone r.1 r.2 .ok
  | some v =>
    if s.lmx.lock ≠ 0 then jtagDone s v .busy
    else
      let a := regWrite none off v b s
      jtagDone (writeEnds off v a.st) v a.status

/-- An access of the JTAG register port: an access of CIPH_WIN_DATA waits for a fill (R308), a write that draws for the entropy source
(R336). -/
def regPort (off : BitVec 24) (write : Option Word) (b : Boot) (s : State) : State :=
  if regPortCut off.toNat then jtagDone s 0 .flowDenied
  else if windowWaits s off.toNat 1 then holdAccess s (.regPort off write b)
  else if drawsWait s && s.lmx.lock == 0 && (write.any fun v => (drawRow s .a 0 off.toNat v).isSome) then holdDraw s (.regPort off write b)
  else regPortGo off.toNat write b s

/-- REG_PORT. -/
def execRegPort (off : BitVec 24) (write : Option Word) (s : State) (b : Boot := {}) : Host.Outcome State Fault Refusal :=
  .next (settle (jtagRun 0x22 (regPort off write b) s))

end Sys2Proof.Machine
end

