-- ==== Sys2Proof/Machine/Entropy.lean ====
section
/-! DEFINITION. What waits: draws while the entropy source fails (R336), management requests for their turn (R412) or the system space's
window (R432), and accesses for a fill (R308): how each goes on, and how it fails. -/

namespace Sys2Proof.Machine

/-! ### The rows that wait, and their turn -/

/-- A management write in its turn, with what follows its effect at once. -/
def againSettle (p : Port) (tag : Nat) (f : State → Answer) (s : State) : State := settle (mgmtAgain p tag f s)

/-- What a row that waited for its draw or its turn does when it goes on. -/
def rowGo (i : Instr) (s : State) : State :=
  match i with
  | .draw p tag slot ownerSet => mgmtAgain p tag (drawKey slot ownerSet) s
  | .rekey p tag range newSlot pace => mgmtAgain p tag (rekey range newSlot pace) s
  | .reinit p tag range => mgmtAgain p tag (reinit range) s
  | .print p tag ranges => mgmtAgain p tag (print ranges) s
  | .challenge p tag purpose scope => mgmtAgain p tag (challenge purpose scope) s
  | .bind via tag party nonce => if (portOf s.lmx via).session = 2 then bindStart via tag party nonce s else s
  | .hello p h nonce => hello p h nonce s
  | .lcPort target confirm b => if s.power.tapLive then lcPort target confirm b s else s
  | .regPort off write b => if s.power.tapLive then regPortGo off.toNat write b s else s
  | .pairOfferReceive o => offerReceive s o
  | .ciphWinRead p tag => winReadTurn p tag s
  | .ciphWinWrite p tag v => winWriteTurn p tag v s
  | .detach p tag => againSettle p tag detach s
  | .resolve p tag toCommit => againSettle p tag (resolve toCommit) s
  | .rewind p tag => againSettle p tag rewind s
  | .takeBegin p tag => mgmtAgain p tag takeBegin s
  | .check p tag => mgmtAgain p tag checkArm s
  | .printAbandon p tag => mgmtAgain p tag printAbandon s
  | .restoreBegin p tag => mgmtAgain p tag restoreBegin s
  | .restoreChunk p tag c => restoreTurn p tag c s
  | .restoreEnd p tag => mgmtAgain p tag restoreEnd s
  | .lcField p tag b => mgmtAgain p tag (lcField b) s
  | .lcScrap p tag confirm => mgmtAgain p tag (lcScrap confirm) s
  | .accept p tag b => mgmtAgain p tag (acceptToken b) s
  | .dbgClose p tag => mgmtAgain p tag dbgClose s
  | .dbgBufAccess p tag none => mgmtRun p tag dbgDataRead s
  | .dbgBufAccess p tag (some v) => mgmtAgain p tag (dbgDataWrite v) s
  | .linkCtrlReset p tag link v => mgmtAgain p tag (linkCtrl link v) s
  | .linkHoldDown p tag link v => mgmtAgain p tag (linkCtrl link v) s
  | .gafBudgetWrite p tag v => mgmtAgain p tag (fun t => ⟨budgetWrite (fld v.toNat 0 12) t, .ok, []⟩) s
  | .quote p tag => mgmtAgain p tag quoteReq s
  | .cert p tag intermediate => mgmtAgain p tag (certReq intermediate) s
  | .keyOutRead p tag => mgmtRun p tag keyOutRead s
  | .keyZeroize p tag slot => mgmtAgain p tag (zeroizeKey slot) s
  | .fabActivate p tag => mgmtAgain p tag fabActivate s
  | .fabRetire p tag => mgmtAgain p tag fabRetire s
  | .endSession p tag target => endSession p tag target s
  | .mgmtLockWrite p tag v => mgmtAgain p tag (fun t => ⟨lockWrite p v t, .ok, []⟩) s
  | .firmwareImage p tag image sig => firmwareImage p tag image sig s
  | .mxeCntClear p tag engine v => mgmtAgain p tag (mxeCntClear engine v) s
  | .memFlipArm p tag v => mgmtAgain p tag (fun t => ⟨flipCtrl v t, .ok, []⟩) s
  | .scrubRangeStart p tag range pace => mgmtAgain p tag (fun t => ⟨scrubStart range pace t, .ok, []⟩) s
  | .scrubRangeStop p tag => mgmtAgain p tag (fun t => ⟨scrubStop t, .ok, []⟩) s
  | .regRead p tag off count => regReadTurn p tag off count i s
  | .rcRegisterRead p tag off => regReadTurn p tag off 1 i s
  | .regWrite p tag off v b => settle (regWriteTurn p tag off v b s)
  | .functionReset p tag key b => mgmtAgain p tag (fun t => ⟨if key = 0xC0DE then resetAtOnce t 3 b else t, .ok, []⟩) s
  | .rigBufPtrWrite p tag v => mgmtAgain p tag (rigBufWrite (rigPtr v)) s
  | .rigBufDataWrite p tag v => mgmtAgain p tag (rigBufWrite (rigData v)) s
  | .rigBufLenWrite p tag v => mgmtAgain p tag (rigBufWrite (rigLen v)) s
  | .verify p tag => mgmtAgain p tag rigVerify s
  | .discard p tag => mgmtAgain p tag rigDiscard s
  | .commit p tag => mgmtAgain p tag rigCommit s
  | .spaceCreate p tag slot => mgmtAgain p tag (spaceCreate slot) s
  | .spaceDestroy p tag slot => mgmtAgain p tag (spaceDestroy slot) s
  | _ => s

/-- Whether a row that waits needs a draw. -/
def rowDraws (s : State) (i : Instr) : Bool :=
  match i with
  | .draw _ _ _ _ => true
  | .rekey _ _ range _ _ => (rangeCfg s range).keySource == 0
  | .reinit _ _ _ => true
  | .print _ _ _ => true
  | .challenge _ _ _ _ => true
  | .bind _ _ _ _ => true
  | .hello _ _ _ => true
  | .lcPort target _ _ => target == 3
  | .regPort _ _ _ => true
  | .pairOfferReceive _ => s.dly.role == .primary
  | _ => false

/-- Whether a row waits on: for its draw (R336), or for its turn among the management requests (R412, R432). -/
def rowHeld (s : State) (i : Instr) : Bool := (drawsWait s && rowDraws s i) || (turnRow i && mgmtHeld s)

/-- The rows that waited are taken in their order: each goes on, or waits on. -/
def rowsGo (s : State) : State :=
  s.keys.waiting.foldl (fun t i => if rowHeld t i then holdDraw t i else rowGo i t) { s with keys := { s.keys with waiting := [] } }

/-! ### Accesses that waited for a fill (R308) -/

/-- An access that waited for a fill goes on. -/
def fillGo (i : Instr) (s : State) : State :=
  match i with
  | .ciphWinRead p tag => mgmtRun p tag winRead s
  | .ciphWinWrite p tag v => mgmtAgain p tag (winWrite v) s
  | .regRead p tag off count => mgmtRun p tag (regReadReq off count) s
  | .rcRegisterRead p tag off => mgmtRun p tag (regReadReq off 1) s
  | .regWrite p tag off v b => regWriteTurn p tag off v b s
  | .regPort off write b => regPortGo off.toNat write b s
  | .memPort addr write => memPortGo addr write s
  | .restoreChunk p tag c => restoreTurn p tag c s
  | .resilverCopyReceive src link range offset data => resilverReceive s src link range offset data
  | .requestReceive link pkt _ _ => requestAnswer s link pkt
  | .doorbell ch q idx => requestDo ch (.doorbell q idx) s
  | _ => s

/-- Whether an access that waited for a fill must wait on. -/
def accessWaits (s : State) (i : Instr) : Bool :=
  match i with
  | .memPort addr _ => debugWaits s addr
  | .requestReceive link pkt _ _ => requestWaits s link pkt
  | .doorbell ch q _ => ringFills s ch.slot q
  | .restoreChunk _ _ c => filling s (chunkRange c)
  | .resilverCopyReceive _ _ range _ _ => filling s range
  | _ => debugWaits s s.ciph.winAddr

/-- RANGE_FILL_DONE: the fill ends, the accesses that waited for it go on in their order (R308), and then the requests behind them. -/
def fillDone (n : Nat) (s : State) : State :=
  let t := fillFinish n s
  let u := { t with ciph := { t.ciph with waiting := t.ciph.waiting.filter (accessWaits t) } }
  rowsGo (evalWaits ((t.ciph.waiting.filter fun i => !(accessWaits t i)).foldl (fun v i => fillGo i v) u))

/-- RANGE_FILL_DONE. -/
def execRangeFillDone (range : Nat) (s : State) : Host.Outcome State Fault Refusal := .next (settle (fillDone range s))

/-! ### What ends a wait -/

/-- RIG_REFILL_DONE: the new rig is in force; the requests that waited for a window of the old one go on. -/
def execRigRefillDone (s : State) : Host.Outcome State Fault Refusal := .next (rowsGo (rigRefilled s))

/-- STRICT_WINDOW_START: only the window that comes next opens (R432); the requests that waited for it go on. -/
def execStrictWindowStart (slot : Nat) (s : State) : Host.Outcome State Fault Refusal :=
  .next (if s.rig.active.strict && nextWindow s == some slot then settle (rowsGo (strictWindow slot s)) else s)

/-- ENTROPY_HEALTH_PASS: entropy_ok reads 1, and the draws that waited go on in their order. -/
def entropyPass (s : State) : State :=
  if s.keys.entropyOk then s else rowsGo { s with keys := { s.keys with entropyOk := true } }

/-- ENTROPY_HEALTH_PASS. -/
def execEntropyHealthPass (s : State) : Host.Outcome State Fault Refusal := .next (settle (entropyPass s))

/-- Whether a row waits for a draw that fails after 10 ms: a command or management request; an offer of the partner is neither. -/
def drawRequest (s : State) (i : Instr) : Bool :=
  rowDraws s i &&
    match i with
    | .pairOfferReceive _ => false
    | _ => true

/-- A waiting request fails with BUSY. -/
def drawFail (i : Instr) (s : State) : State :=
  match i with
  | .draw p tag _ _ => mgmtAgain p tag (fun t => keyStatus t .busy) s
  | .rekey p tag range _ _ => mgmtAgain p tag (fun t => ⟨ciphStatus t range .busy, .busy, []⟩) s
  | .reinit p tag range => mgmtAgain p tag (fun t => ⟨ciphStatus t range .busy, .busy, []⟩) s
  | .print p tag _ => mgmtAgain p tag (fun t => dlyAnswer t .busy) s
  | .challenge p tag _ _ => mgmtAgain p tag (fun t => ⟨dbgStatus t .busy 0, .busy, []⟩) s
  | .bind via tag _ _ => mgmtAgain via tag (fun t => ⟨t, .busy, []⟩) s
  | .hello p _ _ => setupBusy s p
  | .lcPort _ _ _ => jtagDone s 0 .busy
  | .regPort _ write _ => jtagDone s (write.getD 0) .busy
  | _ => s

/-- A quote request whose signature draws fails with BUSY: the attempt it was part of ends. A pair offer's is none of a command or a
management request, and waits on. -/
def quoteFail (s : State) (r : QuoteReq) : State :=
  let s1 := { s with keys := { s.keys with quotes := s.keys.quotes.erase r } }
  match r.dest with
  | .mgmt => (keyStatus s1 .busy).st
  | .bind p via tag => mgmtReply (chanPut s1 p {}) via tag .busy []
  | .session p => setupBusy (endSess s1 p) p
  | .challenge => dbgStatus (challengeDrop s) .busy 0
  | .pair => s

/-- The oldest quote request that can fail. -/
def quoteWaiting (s : State) : Option QuoteReq := s.keys.quotes.find? fun r => r.dest != .pair

/-- DRAW_TIMEOUT: while draws wait, the request that has waited longest fails with BUSY: one held before its draw, then the oldest of the
queue of signatures (log entry 73). What stood behind it goes on. -/
def drawTimeout (s : State) : State :=
  if !(drawsWait s) then s
  else
    match s.keys.waiting.find? (drawRequest s), quoteWaiting s with
    | some i, _ => rowsGo (drawFail i { s with keys := { s.keys with waiting := s.keys.waiting.eraseP (drawRequest s) } })
    | none, some r => quoteFail s r
    | none, none => s

/-- DRAW_TIMEOUT. -/
def execDrawTimeout (s : State) : Host.Outcome State Fault Refusal := .next (settle (drawTimeout s))

end Sys2Proof.Machine
end

