-- ==== Sys2Proof/Machine/Dispatch.lean ====
section
/-! DEFINITION. The dispatch: one arm per command, each a direct call of its meaning. -/

namespace Sys2Proof.Machine

/-- The effect of a command on everything but the queue. -/
def exec (i : Instr) (s : State) : Host.Outcome State Fault Refusal :=
  match i with
  | .stbyValid st => Sys2Proof.Machine.execStbyValid st s
  | .i3cTargetLive => Sys2Proof.Machine.execI3cTargetLive s
  | .i3cEntdaa addr => Sys2Proof.Machine.execI3cEntdaa addr s
  | .powerUp b => Sys2Proof.Machine.execPowerUp b s
  | .warmReset st => Sys2Proof.Machine.execWarmReset st s
  | .resetNRelease b => Sys2Proof.Machine.execResetNRelease b s
  | .functionReset p tag key b => Sys2Proof.Machine.execFunctionReset p tag key b s
  | .strikeNLow => Sys2Proof.Machine.execStrikeNLow s
  | .strikeRestart b => Sys2Proof.Machine.execStrikeRestart b s
  | .tamperStrike cause => Sys2Proof.Machine.execTamperStrike cause s
  | .powerDown r => Sys2Proof.Machine.execPowerDown r s
  | .pinClamp => Sys2Proof.Machine.execPinClamp s
  | .pinClampEnd cycles => Sys2Proof.Machine.execPinClampEnd cycles s
  | .junctionClamp => Sys2Proof.Machine.execJunctionClamp s
  | .junctionClampEnd cycles => Sys2Proof.Machine.execJunctionClampEnd cycles s
  | .overdraw => Sys2Proof.Machine.execOverdraw s
  | .overdrawEnd cycles => Sys2Proof.Machine.execOverdrawEnd cycles s
  | .i3cRead off cmd => Sys2Proof.Machine.execI3cRead off s cmd
  | .i3cBudget v => Sys2Proof.Machine.execI3cBudget v s
  | .i3cReset key b => Sys2Proof.Machine.execI3cReset key b s
  | .i3cStrike key => Sys2Proof.Machine.execI3cStrike key s
  | .bridgeBurstClose d data idle => Sys2Proof.Machine.execBridgeBurstClose d data idle s
  | .bridgeBurstReceive d seq tagOk => Sys2Proof.Machine.execBridgeBurstReceive d seq tagOk s
  | .bridgeKeyRenew d => Sys2Proof.Machine.execBridgeKeyRenew d s
  | .rigBufPtrWrite p tag v => Sys2Proof.Machine.execRigBufPtrWrite p tag v s
  | .rigBufDataWrite p tag v => Sys2Proof.Machine.execRigBufDataWrite p tag v s
  | .rigBufLenWrite p tag v => Sys2Proof.Machine.execRigBufLenWrite p tag v s
  | .verify p tag => Sys2Proof.Machine.execVerify p tag s
  | .rigVerifyDone => Sys2Proof.Machine.execRigVerifyDone s
  | .commit p tag => Sys2Proof.Machine.execCommit p tag s
  | .rigRefillDone => Sys2Proof.Machine.execRigRefillDone s
  | .discard p tag => Sys2Proof.Machine.execDiscard p tag s
  | .matmul cid e overlap => Sys2Proof.Machine.execMatmul cid e s overlap
  | .matmulResume cid e overlap => Sys2Proof.Machine.execMatmulResume cid e s overlap
  | .bandWatchdog engine band => Sys2Proof.Machine.execBandWatchdog engine band s
  | .rushesCheckDone cid => Sys2Proof.Machine.execRushesCheckDone cid s
  | .mxeCntClear p tag engine v => Sys2Proof.Machine.execMxeCntClear p tag engine v s
  | .redInit cid => Sys2Proof.Machine.execRedInit cid s
  | .redAdd cid e => Sys2Proof.Machine.execRedAdd cid e s
  | .redRead cid => Sys2Proof.Machine.execRedRead cid s
  | .vector cid e => Sys2Proof.Machine.execVector cid e s
  | .quantize cid e => Sys2Proof.Machine.execQuantize cid e s
  | .random cid e => Sys2Proof.Machine.execRandom cid e s
  | .gripWatchdog grip => Sys2Proof.Machine.execGripWatchdog grip s
  | .transpose cid => Sys2Proof.Machine.execTranspose cid s
  | .gather cid => Sys2Proof.Machine.execGather cid s
  | .scatter cid => Sys2Proof.Machine.execScatter cid s
  | .repack cid => Sys2Proof.Machine.execRepack cid s
  | .nop cid => Sys2Proof.Machine.execNop cid s
  | .copy cid => Sys2Proof.Machine.execCopy cid s
  | .stageIn cid share => Sys2Proof.Machine.execStageIn cid s share
  | .stageOut cid e share => Sys2Proof.Machine.execStageOut cid e s share
  | .releaseCopy cid => Sys2Proof.Machine.execReleaseCopy cid s
  | .update cid e => Sys2Proof.Machine.execUpdate cid e s
  | .normAcc cid => Sys2Proof.Machine.execNormAcc cid s
  | .linkTrain link peer => Sys2Proof.Machine.execLinkTrain link peer s
  | .linkCapabilityRetry link peer => Sys2Proof.Machine.execLinkCapabilityRetry link peer s
  | .codewordReceive link cw => Sys2Proof.Machine.execCodewordReceive link cw s
  | .transitForward link pkt buf => Sys2Proof.Machine.execTransitForward link pkt s buf
  | .requestReceive link pkt tagOk buf => Sys2Proof.Machine.execRequestReceive link pkt tagOk s buf
  | .responseReceive link pkt tagOk buf => Sys2Proof.Machine.execResponseReceive link pkt tagOk s buf
  | .transactionTimeout txn => Sys2Proof.Machine.execTransactionTimeout txn s
  | .egressRequest link requester => Sys2Proof.Machine.execEgressRequest link requester s
  | .egressBackoffExpire link requester => Sys2Proof.Machine.execEgressBackoffExpire link requester s
  | .linkWatchdog link => Sys2Proof.Machine.execLinkWatchdog link s
  | .linkCtrlReset p tag link v => Sys2Proof.Machine.execLinkCtrlReset p tag link v s
  | .linkHoldDown p tag link v => Sys2Proof.Machine.execLinkHoldDown p tag link v s
  | .collective cid => Sys2Proof.Machine.execCollective cid s
  | .normReduce cid => Sys2Proof.Machine.execNormReduce cid s
  | .collectiveSeqReady cid => Sys2Proof.Machine.execCollectiveSeqReady cid s
  | .collectiveJoinReceive src j => Sys2Proof.Machine.execCollectiveJoinReceive src j s
  | .collectiveCreditReceive src digest seq => Sys2Proof.Machine.execCollectiveCreditReceive src digest seq s
  | .collectiveAbortReceive src digest seq => Sys2Proof.Machine.execCollectiveAbortReceive src digest seq s
  | .collectiveTimeout cid => Sys2Proof.Machine.execCollectiveTimeout cid s
  | .pairingStart peerNonce peerRanges => Sys2Proof.Machine.execPairingStart s peerNonce peerRanges
  | .pairOfferReceive o => Sys2Proof.Machine.execPairOfferReceive o s
  | .continuityKeyReceive key epoch gen => Sys2Proof.Machine.execContinuityKeyReceive key epoch gen s
  | .resilverCopyReceive src link range offset data => Sys2Proof.Machine.execResilverCopyReceive src link range offset data s
  | .resilverCopyDone => Sys2Proof.Machine.execResilverCopyDone s
  | .mirrorStreamSend n => Sys2Proof.Machine.execMirrorStreamSend n s
  | .cut cid => Sys2Proof.Machine.execCut cid s
  | .cutHoldRelease => Sys2Proof.Machine.execCutHoldRelease s
  | .sealReceive gen step => Sys2Proof.Machine.execSealReceive gen step s
  | .sealedReceive gen isSealed => Sys2Proof.Machine.execSealedReceive gen s isSealed
  | .cutVerdictReceive member gen ready => Sys2Proof.Machine.execCutVerdictReceive member gen ready s
  | .cutCommitReceive gen check => Sys2Proof.Machine.execCutCommitReceive gen s check
  | .cutAbortReceive gen => Sys2Proof.Machine.execCutAbortReceive gen s
  | .commitAckReceive gen digests => Sys2Proof.Machine.execCommitAckReceive gen digests s
  | .heartbeatSend => Sys2Proof.Machine.execHeartbeatSend s
  | .heartbeatReceive r => Sys2Proof.Machine.execHeartbeatReceive s r
  | .partnerSuspect => Sys2Proof.Machine.execPartnerSuspect s
  | .probeReceive src => Sys2Proof.Machine.execProbeReceive src s
  | .probeAnswerReceive src => Sys2Proof.Machine.execProbeAnswerReceive src s
  | .probeTimeout => Sys2Proof.Machine.execProbeTimeout s
  | .leaveReceive src => Sys2Proof.Machine.execLeaveReceive src s
  | .detach p tag => Sys2Proof.Machine.execDetach p tag s
  | .resolve p tag toCommit => Sys2Proof.Machine.execResolve p tag toCommit s
  | .rewind p tag => Sys2Proof.Machine.execRewind p tag s
  | .rewindDone lines => Sys2Proof.Machine.execRewindDone lines s
  | .takeBegin p tag => Sys2Proof.Machine.execTakeBegin p tag s
  | .takeRecord cid => Sys2Proof.Machine.execTakeRecord cid s
  | .takeLogReceive step digest => Sys2Proof.Machine.execTakeLogReceive step digest s
  | .check p tag => Sys2Proof.Machine.execCheck p tag s
  | .print p tag ranges => Sys2Proof.Machine.execPrint p tag ranges s
  | .printChunkSend => Sys2Proof.Machine.execPrintChunkSend s
  | .printSlateSend => Sys2Proof.Machine.execPrintSlateSend s
  | .printComplete => Sys2Proof.Machine.execPrintComplete s
  | .printAbandon p tag => Sys2Proof.Machine.execPrintAbandon p tag s
  | .restoreBegin p tag => Sys2Proof.Machine.execRestoreBegin p tag s
  | .restoreChunk p tag c => Sys2Proof.Machine.execRestoreChunk p tag c s
  | .restoreEnd p tag => Sys2Proof.Machine.execRestoreEnd p tag s
  | .mergeWriteback stack key => Sys2Proof.Machine.execMergeWriteback stack s key
  | .memFlipArm p tag v => Sys2Proof.Machine.execMemFlipArm p tag v s
  | .scrub cid part => Sys2Proof.Machine.execScrub cid s part
  | .scrubRangeStart p tag range pace => Sys2Proof.Machine.execScrubRangeStart p tag range pace s
  | .scrubRangeStop p tag => Sys2Proof.Machine.execScrubRangeStop p tag s
  | .scrubRangeDone units => Sys2Proof.Machine.execScrubRangeDone s units
  | .rekey p tag range newSlot pace => Sys2Proof.Machine.execRekey p tag range newSlot pace s
  | .rekeyWalkDone range units => Sys2Proof.Machine.execRekeyWalkDone range s units
  | .reinit p tag range => Sys2Proof.Machine.execReinit p tag range s
  | .rangeFillDone range => Sys2Proof.Machine.execRangeFillDone range s
  | .ciphWinRead p tag => Sys2Proof.Machine.execCiphWinRead p tag s
  | .ciphWinWrite p tag v => Sys2Proof.Machine.execCiphWinWrite p tag v s
  | .quote p tag => Sys2Proof.Machine.execQuote p tag s
  | .quoteComplete => Sys2Proof.Machine.execQuoteComplete s
  | .cert p tag intermediate => Sys2Proof.Machine.execCert p tag intermediate s
  | .draw p tag slot ownerSet => Sys2Proof.Machine.execDraw p tag slot ownerSet s
  | .keyZeroize p tag slot => Sys2Proof.Machine.execKeyZeroize p tag slot s
  | .fabActivate p tag => Sys2Proof.Machine.execFabActivate p tag s
  | .fabRetire p tag => Sys2Proof.Machine.execFabRetire p tag s
  | .keyOutRead p tag => Sys2Proof.Machine.execKeyOutRead p tag s
  | .drbgReseed => Sys2Proof.Machine.execDrbgReseed s
  | .entropyHealthFail => Sys2Proof.Machine.execEntropyHealthFail s
  | .drawTimeout => Sys2Proof.Machine.execDrawTimeout s
  | .bind via tag party nonce => Sys2Proof.Machine.execBind via tag party nonce s
  | .bindConfirm via tag party ct sig => Sys2Proof.Machine.execBindConfirm via tag party ct sig s
  | .partyMessage via tag party counter authOk inner => Sys2Proof.Machine.execPartyMessage via tag party counter authOk inner s
  | .deliver via tag party m auth => Sys2Proof.Machine.execDeliver via tag party m s auth
  | .partyZeroize via tag party m auth => Sys2Proof.Machine.execPartyZeroize via tag party m s auth
  | .query via tag party m auth => Sys2Proof.Machine.execQuery via tag party m s auth
  | .spaceBind via tag party m auth => Sys2Proof.Machine.execSpaceBind via tag party m s auth
  | .spaceCreate p tag slot => Sys2Proof.Machine.execSpaceCreate p tag slot s
  | .spaceCreateDone slot => Sys2Proof.Machine.execSpaceCreateDone slot s
  | .spaceDestroy p tag slot => Sys2Proof.Machine.execSpaceDestroy p tag slot s
  | .spaceDestroyDone slot => Sys2Proof.Machine.execSpaceDestroyDone slot s
  | .ctxCreate ch r => Sys2Proof.Machine.execCtxCreate ch r s
  | .ctxDestroy ch ctx => Sys2Proof.Machine.execCtxDestroy ch ctx s
  | .ctxSet ch ctx r => Sys2Proof.Machine.execCtxSet ch ctx r s
  | .ctxQuery ch ctx => Sys2Proof.Machine.execCtxQuery ch ctx s
  | .qCreate ch ringAddr entries compAddr version => Sys2Proof.Machine.execQCreate ch ringAddr entries compAddr version s
  | .qDestroy ch q => Sys2Proof.Machine.execQDestroy ch q s
  | .doorbell ch q idx => Sys2Proof.Machine.execDoorbell ch q idx s
  | .objAlloc ch range size addr owner zero => Sys2Proof.Machine.execObjAlloc ch range size addr owner zero s
  | .objFree ch obj => Sys2Proof.Machine.execObjFree ch obj s
  | .fenceCreate ch owner value => Sys2Proof.Machine.execFenceCreate ch owner value s
  | .fenceDestroy ch f => Sys2Proof.Machine.execFenceDestroy ch f s
  | .fenceSignal ch f value => Sys2Proof.Machine.execFenceSignal ch f value s
  | .fenceFail ch f => Sys2Proof.Machine.execFenceFail ch f s
  | .fenceQuery ch f => Sys2Proof.Machine.execFenceQuery ch f s
  | .fenceNotify ch f value => Sys2Proof.Machine.execFenceNotify ch f value s
  | .commandComplete cid busy energyUj => Sys2Proof.Machine.execCommandComplete cid busy energyUj s
  | .hello p h nonce => Sys2Proof.Machine.execHello p h nonce s
  | .kemCt p ct h => Sys2Proof.Machine.execKemCt p ct s h
  | .close p h tagOk => Sys2Proof.Machine.execClose p s h tagOk
  | .rollCall p gen2 serials total h => Sys2Proof.Machine.execRollCall p gen2 serials total s h
  | .ringLockLoss p => Sys2Proof.Machine.execRingLockLoss p s
  | .dataFrame p h tagOk => Sys2Proof.Machine.execDataFrame p h tagOk s
  | .sessionTimeout p => Sys2Proof.Machine.execSessionTimeout p s
  | .frameResendTimeout p => Sys2Proof.Machine.execFrameResendTimeout p s
  | .endSession p tag target => Sys2Proof.Machine.execEndSession p tag target s
  | .mgmtLockWrite p tag v => Sys2Proof.Machine.execMgmtLockWrite p tag v s
  | .regRead p tag off count => Sys2Proof.Machine.execRegRead p tag off count s
  | .regWrite p tag off v b => Sys2Proof.Machine.execRegWrite p tag off v s b
  | .spaceReq p tag r => Sys2Proof.Machine.execSpaceReq p tag r s
  | .firmwareImage p tag image sig => Sys2Proof.Machine.execFirmwareImage p tag image sig s
  | .gafBudgetWrite p tag v => Sys2Proof.Machine.execGafBudgetWrite p tag v s
  | .admissionPass leftNs => Sys2Proof.Machine.execAdmissionPass s leftNs
  | .retune m => Sys2Proof.Machine.execRetune m s
  | .pendingPriority cid => Sys2Proof.Machine.execPendingPriority cid s
  | .sliceEnd => Sys2Proof.Machine.execSliceEnd s
  | .strictWindowStart slot => Sys2Proof.Machine.execStrictWindowStart slot s
  | .islandSleep island => Sys2Proof.Machine.execIslandSleep island s
  | .islandFault island selftestOk b => Sys2Proof.Machine.execIslandFault island selftestOk b s
  | .lcField p tag b => Sys2Proof.Machine.execLcField p tag b s
  | .lcScrap p tag confirm => Sys2Proof.Machine.execLcScrap p tag confirm s
  | .lcPort target confirm b => Sys2Proof.Machine.execLcPort target confirm b s
  | .challenge p tag purpose scope => Sys2Proof.Machine.execChallenge p tag purpose scope s
  | .challengeDone => Sys2Proof.Machine.execChallengeDone s
  | .accept p tag b => Sys2Proof.Machine.execAccept p tag b s
  | .dbgClose p tag => Sys2Proof.Machine.execDbgClose p tag s
  | .dbgBufAccess p tag write => Sys2Proof.Machine.execDbgBufAccess p tag write s
  | .jtagIrUpdate ir => Sys2Proof.Machine.execJtagIrUpdate ir s
  | .extest cells => Sys2Proof.Machine.execExtest cells s
  | .idcode => Sys2Proof.Machine.execIdcode s
  | .samplePreload cells => Sys2Proof.Machine.execSamplePreload cells s
  | .bypass tdi => Sys2Proof.Machine.execBypass tdi s
  | .dbgRead => Sys2Proof.Machine.execDbgRead s
  | .memPort addr write => Sys2Proof.Machine.execMemPort addr write s
  | .regPort off write b => Sys2Proof.Machine.execRegPort off write s b
  | .gripDbg grip op => Sys2Proof.Machine.execGripDbg grip op s
  | .intScan island => Sys2Proof.Machine.execIntScan island s
  | .intScanRelease island selftestOk b => Sys2Proof.Machine.execIntScanRelease island selftestOk b s
  | .jtagTestReset => Sys2Proof.Machine.execJtagTestReset s
  | .rcRegisterRead p tag off => Sys2Proof.Machine.execRcRegisterRead p tag off s
  | .stby3v3Loss => Sys2Proof.Machine.execStby3v3Loss s
  | .entropyHealthPass => Sys2Proof.Machine.execEntropyHealthPass s
  | .cutTimeout cid => Sys2Proof.Machine.execCutTimeout cid s

end Sys2Proof.Machine
end

