-- ==== Sys2Proof/Safety.lean ====
section
/-! DEFINITION. What counts as a safe run, and the conditions that the statements share: every command answers a next state,
for nothing in the spec stops the module for good (R299, R388: a failure ends one command). -/

namespace Sys2Proof

/-- A run of k steps that meets no fault and no refusal. -/
def safeRun (k : Nat) (s : Machine.State) : Prop := ∃ t, core.run k s = .next t

namespace Machine

/-- Port p hears its live session, and no earlier management request waits and no window is shut: its management reads are taken at
once (R412, R432). -/
abbrev mayRead (s : State) (p : Port) : Prop := heard s.lmx p = true ∧ mgmtHeld s = false

/-- The same, and the other port does not hold the management lock: its management writes are taken at once (R412). -/
abbrev mayWrite (s : State) (p : Port) : Prop := mayRead s p ∧ lockedOut s.lmx p = false

/-- A frame of a type is one of the live session of a port: the ring is locked, and the frame comes from the control node to this module
with the session's ID and at most 8,192 bytes of payload (R400, R403). -/
abbrev inSession (s : State) (p : Port) (h : FrameHdr) (type : Nat) : Prop :=
  heard s.lmx p = true ∧ h.type = type ∧ frameMine (portOf s.lmx p) h = true ∧ h.length ≤ 8192 ∧ h.session = (portOf s.lmx p).sessionId

/-- Every step of Table 01-7 that depends on the hardware goes well (R33). -/
abbrev bootGood (b : Boot) : Prop :=
  b.railsOk = true ∧ b.entropyOk = true ∧ b.trainFail = 0 ∧ b.hbmOk = 0xFF ∧ b.checkerOk = true ∧ b.sramOk = true ∧ b.fillOk = true

/-- No transition is pending in the fuses, and the copies vote the state code c (R443, R446). -/
abbrev fuseState (s : State) (c : Nat) : Prop :=
  s.lc.records.findIdx? recPending = none ∧ (lcVote s.lc.copies).bind lcCode = some c

/-- The fuses, the vault and the firmware in the flash are the same (Table 18-3). -/
abbrev fusesKept (s t : State) : Prop :=
  t.lc.copies = s.lc.copies ∧ t.lc.records = s.lc.records ∧ t.lc.tokens = s.lc.tokens ∧ t.lc.vault0 = s.lc.vault0 ∧
    t.lc.vault1 = s.lc.vault1 ∧ t.lc.vaultCheck = s.lc.vaultCheck ∧ t.lc.flashImage = s.lc.flashImage ∧ t.lc.flashSig = s.lc.flashSig

/-- A state code in which the module starts: neither BLANK nor SCRAP (Table 17-2). -/
abbrev starts (c : Nat) : Prop := c = 1 ∨ c = 3 ∨ c = 4 ∨ c = 5

/-- Step 10 of Table 01-7 is reached: READY is high, both optical bypasses are open, and the house rig is in force. -/
abbrev isReady (t : State) : Prop :=
  t.power.ready = true ∧ t.power.bootStep = 10 ∧ t.power.bypAOpen = true ∧ t.power.bypBOpen = true ∧ t.power.bootFailed = false ∧
    t.rig.active.digest = Config.houseDigest (runningImage t)

/-- READY is low, both optical bypasses are closed, every key slot is zeroized, and no space, session, pair or command is left (R353, R464). -/
abbrev isStruck (t : State) : Prop :=
  t.power.ready = false ∧ t.power.bypAOpen = false ∧ t.power.bypBOpen = false ∧ t.keys.slots = List.replicate 256 {} ∧
    t.sp.cmds = [] ∧ t.sp.slots = List.replicate 16 {} ∧ t.lmx.a.session = 0 ∧ t.lmx.b.session = 0 ∧ t.dly.role = .none ∧
    t.mem.cells = []

/-- The command with a number has ended its run with a status. -/
abbrev endsWith (t : State) (cid : Nat) (st : Status) : Prop :=
  ∃ c r, cmdGet t cid = some c ∧ c.phase = .finished r ∧ r.status = st

/-- The command with a number has ended its run with OK or OK_WITH_EVENTS. -/
abbrev endsOk (t : State) (cid : Nat) : Prop :=
  ∃ c r, cmdGet t cid = some c ∧ c.phase = .finished r ∧ (r.status = .ok ∨ r.status = .okWithEvents)

/-- The plaintext byte of main memory at a device physical address. -/
abbrev memByte (s : State) (a : Nat) : Byte := smGet 0 s.mem.cells a

/-- An address lies in a 256-byte frame that some run touches. -/
abbrev inUnits (rs : List (Nat × Nat)) (a : Nat) : Prop := ∃ r ∈ rs, r.1 / 256 * 256 ≤ a ∧ a < (r.1 + r.2 + 255) / 256 * 256

/-- A message of party q's channel is taken: the channel is bound, the tag verifies, and the counter exceeds the last one accepted and stays
below 2^64 − 1 (R344). -/
abbrev messageGood (s : State) (q : Nat) (m : MsgAuth) : Prop :=
  (s.keys.channels.getD q {}).bound = true ∧ m.ok = true ∧
    ((s.keys.channels.getD q {}).lastIn.any fun n => decide (m.counter ≤ n)) = false ∧ m.counter < 2 ^ 64 - 1

/-- The state after a message of party q's channel has been taken: its counter is the last one accepted (R344). -/
abbrev messageTaken (s : State) (q : Nat) (m : MsgAuth) : State :=
  { s with keys := { s.keys with channels := s.keys.channels.set q { s.keys.channels.getD q {} with lastIn := some m.counter } } }

/-- The module answers a message of party q's bound channel under k_out, and counts the answer (R344). -/
abbrev partyAnswer (u : State) (via : Port) (tag q : Nat) (st : Status) (data : List Byte) : State :=
  chanSent (sendMsg u via (.party 0 q (u.keys.channels.getD q {}).nextOut tag st data)) q

/-- A request on a space channel has the authority that its space asks for: the port session alone for the system space, a good PARTY message
of its party for a party's (R407, R413). -/
abbrev authorized (s : State) (ch : Chan) : Prop :=
  match spaceParty s ch.slot, ch.auth with
  | none, none => True
  | some q, some (p, m) => p = q ∧ messageGood s q m
  | _, _ => False

/-- A command is one of the 15 requests of a space, over a channel (Table 14-9a). -/
abbrev asksIn (ch : Chan) (i : Instr) : Prop :=
  (∃ r, i = .ctxCreate ch r) ∨ (∃ c, i = .ctxDestroy ch c) ∨ (∃ c r, i = .ctxSet ch c r) ∨ (∃ c, i = .ctxQuery ch c) ∨
    (∃ a n b v, i = .qCreate ch a n b v) ∨ (∃ q, i = .qDestroy ch q) ∨ (∃ q j, i = .doorbell ch q j) ∨
    (∃ g n a o z, i = .objAlloc ch g n a o z) ∨ (∃ h, i = .objFree ch h) ∨ (∃ o v, i = .fenceCreate ch o v) ∨
    (∃ h, i = .fenceDestroy ch h) ∨ (∃ h v, i = .fenceSignal ch h v) ∨ (∃ h, i = .fenceFail ch h) ∨ (∃ h, i = .fenceQuery ch h) ∨
    (∃ h v, i = .fenceNotify ch h v)

/-- A request on a space channel is taken: its port hears its session, the channel is bound, the space is live, and the request has the
authority that it asks for (R371, R407, R413). -/
abbrev mayAsk (s : State) (ch : Chan) : Prop :=
  heard s.lmx ch.port = true ∧ (spaceGet s ch.slot).bound = true ∧ (spaceGet s ch.slot).state = 1 ∧ authorized s ch

/-- The state after the message that brought a request has been taken. -/
abbrev broughtBy (s : State) (ch : Chan) : State :=
  match ch.auth with
  | none => s
  | some (q, m) => messageTaken s q m

/-- The state in which an accepted request of a space acts: its notices go to the request's port from now on (R410). -/
abbrev asked (s : State) (ch : Chan) : State :=
  { broughtBy s ch with sp := spaceMod (broughtBy s ch).sp ch.slot fun x => { x with port := ch.port } }

/-- No collective runs, no cut runs, no ended transaction is left to act on, and a twin has nothing broken to mend: nothing follows from
commands that are aborted. -/
abbrev quiet (s : State) : Prop :=
  s.col.slots = [] ∧ s.dly.cut = none ∧ s.fabric.ended = [] ∧ (s.dly.role = .twin → brokenRanges s = [])

/-- No ended transaction is left to act on, and a twin has nothing broken to mend: a command is followed by nothing else. -/
abbrev settled (s : State) : Prop := s.fabric.ended = [] ∧ (s.dly.role = .twin → brokenRanges s = [])

/-- The fixed counts of the machine's engines, islands, links, slots, channels, ranges and records. -/
abbrev shaped (s : State) : Prop :=
  s.array.engines.length = 64 ∧ s.gaf.islands.length = 125 ∧ s.fabric.links.length = 48 ∧ s.sp.slots.length = 16 ∧
    s.keys.slots.length = 256 ∧ s.keys.channels.length = 8 ∧ s.ciph.ranges.length = 33 ∧ s.lc.records.length = 8

/-- Main memory, staging, tiles and the load buffers are in canonical form. -/
abbrev canonical (s : State) : Prop :=
  Memory.wf s.mem = true ∧ smWf 0 s.array.staging = true ∧ smWf 0 s.array.tiles = true ∧ smWf 0 s.rig.buf = true ∧ smWf 0 s.lc.buf = true

/-- The reply of a management request has gone to port p; nothing else has changed. -/
abbrev repliedOn (s t : State) (p : Port) (tag : Nat) (st : Status) (data : List Byte) : Prop := t = mgmtReply s p tag st data

end Machine

end Sys2Proof
end

