-- ==== Sys2Proof/WellFormed.lean ====
section
/-! DEFINITION. The operands that the spec's fields can hold: one arm per command, and one named check per kind of field.
A command that is not well formed is one no sender can put together; its meaning is total all the same. -/

namespace Sys2Proof

namespace WellFormed

/-- A value of n bits. -/
def fits (n v : Nat) : Bool := decide (v < 2 ^ n)
/-- A message tag (Table 15-5). -/
def tagOk (t : Nat) : Bool := fits 32 t
/-- A fabric link, 0 to 47 (file 08). -/
def linkOk (n : Nat) : Bool := decide (n < 48)
/-- A requester of a link's arbiter, 0 to 13 (Table 08-9). -/
def requesterOk (n : Nat) : Bool := decide (n < 14)
/-- A matrix engine, 0 to 63 (file 04). -/
def engineOk (n : Nat) : Bool := decide (n < 64)
/-- A band of an engine, 0 to 7 (file 04). -/
def bandOk (n : Nat) : Bool := decide (n < 8)
/-- A grip, 0 to 79 (file 06). -/
def gripOk (n : Nat) : Bool := decide (n < 80)
/-- A clock island, 0 to 124 (file 02). -/
def islandOk (n : Nat) : Bool := decide (n < 125)
/-- An HBM stack, 0 to 7. -/
def stackOk (n : Nat) : Bool := decide (n < 8)
/-- A range, 0 to 31, or the staging hold as 32. -/
def rangeOk (n : Nat) : Bool := decide (n ≤ 32)
/-- A party index, 0 to 7. -/
def partyOk (n : Nat) : Bool := decide (n < 8)
/-- A space slot, 0 to 15. -/
def slotOk (n : Nat) : Bool := decide (n < 16)
/-- A module ID of 12 bits (Table 08-5). -/
def moduleOk (n : Nat) : Bool := fits 12 n
/-- A committed generation of 48 bits. -/
def genOk (n : Nat) : Bool := fits 48 n
/-- A byte address of memory, 40 bits (file 11). -/
def addrOk (n : Nat) : Bool := fits 40 n
/-- A cause of a tamper strike: 2 to 5 (file 13). -/
def causeOk (n : Nat) : Bool := decide (2 ≤ n) && decide (n ≤ 5)
/-- Bytes of a fixed length. -/
def lenOk (n : Nat) (b : List Byte) : Bool := b.length == n
/-- The lists of a retune's measurements hold a figure for every island and every space slot. -/
def measuredOk (m : Measured) : Bool := m.isl.length == 125 && m.energy100.length == 16 && m.draw10.length == 16
/-- The power-up's failing unit is 8 bits wide (file 01). -/
def bootOk (b : Boot) : Bool := fits 8 b.failUnit
/-- The rushes fields of a request are a byte each. -/
def rushesOk (r : Rushes) : Bool := fits 8 r.n && fits 8 r.ref && fits 8 r.thresh
/-- The peer of a link trains at a lane mode of 3 bits and gives a module ID. -/
def peerOk (p : PeerInfo) : Bool := fits 3 p.maxMode && fits 3 p.okMode && moduleOk p.peerId
/-- A codeword's control field (Table 08-3). -/
def codewordOk (c : Codeword) : Bool := fits 12 c.seq && fits 12 c.ack && fits 7 c.credit &&
  c.lens.length == (List.range 16).countP (c.sop.getLsbD ·) && c.lens.all fun n => decide (1 ≤ n) && decide (n ≤ 15)
/-- A packet's header and request block (Tables 08-5, 08-7). -/
def packetOk (p : Packet) : Bool := fits 4 p.type && fits 8 p.flitsM1 && moduleOk p.dst && moduleOk p.src && fits 16 p.txn
/-- Words with errors of a fabric buffer lie in the packet: 16 flits of a word each (R221, R294). -/
def bufOk (e : BufErr) : Bool := e.all fun w => decide (w.1 < 16)
/-- The owner of an object or a fence. -/
def ownerOk (o : Owner) : Bool :=
  match o with
  | .ctx id => fits 16 id
  | .space => true
/-- The operands of a space-channel request (Table 14-9a). -/
def reqOk (r : SpaceReq) : Bool :=
  match r with
  | .ctxCreate x => rushesOk x
  | .ctxDestroy c => fits 16 c
  | .ctxSet c x => fits 16 c && rushesOk x
  | .ctxQuery c => fits 16 c
  | .qCreate ra n ca v => fits 64 ra && fits 32 n && fits 64 ca && fits 16 v
  | .qDestroy _ => true
  | .doorbell _ _ => true
  | .objAlloc r size addr o _ => fits 8 r && fits 64 size && fits 64 addr && ownerOk o
  | .objFree _ => true
  | .fenceCreate o _ => ownerOk o
  | .fenceDestroy _ => true
  | .fenceSignal _ _ => true
  | .fenceFail _ => true
  | .fenceQuery _ => true
  | .fenceNotify _ _ => true
/-- A party message's counter has 64 bits (R344). -/
def authOk (a : MsgAuth) : Bool := fits 64 a.counter
/-- A channel names one of the 16 space slots, and a party where a PARTY message brought the request. -/
def chanOk (c : Chan) : Bool := slotOk c.slot && tagOk c.tag && c.auth.all fun a => partyOk a.1 && authOk a.2
/-- A key message's fields are bytes, its generation 32 bits (Table 13-7). -/
def keyMsgOk (m : KeyMsg) : Bool := fits 8 m.op && fits 8 m.use && fits 8 m.slot && fits 8 m.target && fits 8 m.kind && fits 32 m.generation
/-- The content of a party message. -/
def innerOk (i : PartyInner) : Bool :=
  match i with
  | .key m => keyMsgOk m
  | .space slot r => slotOk slot && reqOk r
/-- The fields of a frame header (Table 15-4). -/
def frameOk (h : FrameHdr) : Bool :=
  fits 8 h.type && fits 8 h.dst && fits 8 h.src && fits 8 h.channel && fits 16 h.length && fits 16 h.resv && fits 64 h.seq && fits 64 h.ack &&
    fits 32 h.credit
/-- A chunk at most 256 MiB long with its header and tag, and whole certificates (Tables 10-6, 13-1). -/
def chunkOk (c : Chunk) : Bool := decide (c.chunk.length ≤ 2 ^ 28 + 80) && lenOk 29920 c.idCert && lenOk 29920 c.interCert
/-- Words with errors lie in a memory of the engine: 131,072 of accumulators, 262,144 of staging (R101, R137). -/
def sramOk (e : SramErr) : Bool := e.all fun w => decide (w.word < if w.acc then 131072 else 262144)

end WellFormed

open WellFormed

/-- Whether every operand of a command lies in its field. -/
def wellFormed (i : Instr) : Bool :=
  match i with
  | .stbyValid _ => true
  | .i3cTargetLive => true
  | .i3cEntdaa _ => true
  | .powerUp b => bootOk b
  | .warmReset _ => true
  | .resetNRelease b => bootOk b
  | .functionReset _ tag _ b => tagOk tag && bootOk b
  | .strikeNLow => true
  | .strikeRestart b => bootOk b
  | .tamperStrike cause => causeOk cause
  | .powerDown _ => true
  | .pinClamp => true
  | .pinClampEnd _ => true
  | .junctionClamp => true
  | .junctionClampEnd _ => true
  | .overdraw => true
  | .overdrawEnd _ => true
  | .i3cRead _ _ => true
  | .i3cBudget _ => true
  | .i3cReset _ b => bootOk b
  | .i3cStrike _ => true
  | .bridgeBurstClose _ _ _ => true
  | .bridgeBurstReceive _ seq _ => fits 64 seq
  | .bridgeKeyRenew _ => true
  | .rigBufPtrWrite _ tag _ => tagOk tag
  | .rigBufDataWrite _ tag _ => tagOk tag
  | .rigBufLenWrite _ tag _ => tagOk tag
  | .verify _ tag => tagOk tag
  | .rigVerifyDone => true
  | .commit _ tag => tagOk tag
  | .rigRefillDone => true
  | .discard _ tag => tagOk tag
  | .matmul _ e _ => sramOk e
  | .matmulResume _ e _ => sramOk e
  | .bandWatchdog engine band => engineOk engine && bandOk band
  | .rushesCheckDone _ => true
  | .mxeCntClear _ tag engine _ => tagOk tag && engineOk engine
  | .redInit _ => true
  | .redAdd _ e => sramOk e
  | .redRead _ => true
  | .vector _ e => sramOk e
  | .quantize _ e => sramOk e
  | .random _ e => sramOk e
  | .gripWatchdog grip => gripOk grip
  | .transpose _ => true
  | .gather _ => true
  | .scatter _ => true
  | .repack _ => true
  | .nop _ => true
  | .copy _ => true
  | .stageIn _ _ => true
  | .stageOut _ e _ => sramOk e
  | .releaseCopy _ => true
  | .update _ e => sramOk e
  | .normAcc _ => true
  | .linkTrain link peer => linkOk link && peerOk peer
  | .linkCapabilityRetry link peer => linkOk link && peerOk peer
  | .codewordReceive link cw => linkOk link && codewordOk cw
  | .transitForward link pkt buf => linkOk link && packetOk pkt && bufOk buf
  | .requestReceive link pkt _ buf => linkOk link && packetOk pkt && bufOk buf
  | .responseReceive link pkt _ buf => linkOk link && packetOk pkt && bufOk buf
  | .transactionTimeout txn => fits 16 txn
  | .egressRequest link requester => linkOk link && requesterOk requester
  | .egressBackoffExpire link requester => linkOk link && requesterOk requester
  | .linkWatchdog link => linkOk link
  | .linkCtrlReset _ tag link _ => tagOk tag && linkOk link
  | .linkHoldDown _ tag link _ => tagOk tag && linkOk link
  | .collective _ => true
  | .normReduce _ => true
  | .collectiveSeqReady _ => true
  | .collectiveJoinReceive src j => moduleOk src && fits 32 j.seq && fits 32 j.count && rangeOk j.landRange && rangeOk j.dstRange
  | .collectiveCreditReceive src _ seq => moduleOk src && fits 32 seq
  | .collectiveAbortReceive src _ seq => moduleOk src && fits 32 seq
  | .collectiveTimeout _ => true
  | .pairingStart _ _ => true
  | .pairOfferReceive o => moduleOk o.moduleId && genOk o.committed && fits 32 o.epoch
  | .continuityKeyReceive _ epoch gen => fits 32 epoch && genOk gen
  | .resilverCopyReceive src link range offset _ => moduleOk src && linkOk link && rangeOk range && addrOk offset
  | .resilverCopyDone => true
  | .mirrorStreamSend _ => true
  | .cut _ => true
  | .cutHoldRelease => true
  | .sealReceive gen step => genOk gen && fits 64 step
  | .sealedReceive gen _ => genOk gen
  | .cutVerdictReceive member gen _ => moduleOk member && genOk gen
  | .cutCommitReceive gen _ => genOk gen
  | .cutAbortReceive gen => genOk gen
  | .commitAckReceive gen _ => genOk gen
  | .heartbeatSend => true
  | .heartbeatReceive _ => true
  | .partnerSuspect => true
  | .probeReceive src => moduleOk src
  | .probeAnswerReceive src => moduleOk src
  | .probeTimeout => true
  | .leaveReceive src => moduleOk src
  | .detach _ tag => tagOk tag
  | .resolve _ tag _ => tagOk tag
  | .rewind _ tag => tagOk tag
  | .rewindDone _ => true
  | .takeBegin _ tag => tagOk tag
  | .takeRecord _ => true
  | .takeLogReceive step _ => fits 64 step
  | .check _ tag => tagOk tag
  | .print _ tag _ => tagOk tag
  | .printChunkSend => true
  | .printSlateSend => true
  | .printComplete => true
  | .printAbandon _ tag => tagOk tag
  | .restoreBegin _ tag => tagOk tag
  | .restoreChunk _ tag c => tagOk tag && chunkOk c
  | .restoreEnd _ tag => tagOk tag
  | .mergeWriteback stack _ => stackOk stack
  | .memFlipArm _ tag _ => tagOk tag
  | .scrub _ _ => true
  | .scrubRangeStart _ tag range pace => tagOk tag && fits 5 range && fits 2 pace
  | .scrubRangeStop _ tag => tagOk tag
  | .scrubRangeDone _ => true
  | .rekey _ tag range newSlot pace => tagOk tag && fits 6 range && fits 8 newSlot && fits 2 pace
  | .rekeyWalkDone range _ => rangeOk range
  | .reinit _ tag range => tagOk tag && fits 6 range
  | .rangeFillDone range => rangeOk range
  | .ciphWinRead _ tag => tagOk tag
  | .ciphWinWrite _ tag _ => tagOk tag
  | .quote _ tag => tagOk tag
  | .quoteComplete => true
  | .cert _ tag _ => tagOk tag
  | .draw _ tag slot _ => tagOk tag && fits 8 slot
  | .keyZeroize _ tag slot => tagOk tag && fits 8 slot
  | .fabActivate _ tag => tagOk tag
  | .fabRetire _ tag => tagOk tag
  | .keyOutRead _ tag => tagOk tag
  | .drbgReseed => true
  | .entropyHealthFail => true
  | .drawTimeout => true
  | .bind _ tag party _ => tagOk tag && partyOk party
  | .bindConfirm _ tag party ct sig => tagOk tag && partyOk party && lenOk 1568 ct && lenOk 29792 sig
  | .partyMessage _ tag party counter _ inner => tagOk tag && partyOk party && fits 64 counter && innerOk inner
  | .deliver _ tag party m auth => tagOk tag && partyOk party && keyMsgOk m && authOk auth
  | .partyZeroize _ tag party m auth => tagOk tag && partyOk party && keyMsgOk m && authOk auth
  | .query _ tag party m auth => tagOk tag && partyOk party && keyMsgOk m && authOk auth
  | .spaceBind _ tag party m auth => tagOk tag && partyOk party && keyMsgOk m && authOk auth
  | .spaceCreate _ tag slot => tagOk tag && slotOk slot
  | .spaceCreateDone slot => slotOk slot
  | .spaceDestroy _ tag slot => tagOk tag && slotOk slot
  | .spaceDestroyDone slot => slotOk slot
  | .ctxCreate ch r => chanOk ch && rushesOk r
  | .ctxDestroy ch ctx => chanOk ch && fits 16 ctx
  | .ctxSet ch ctx r => chanOk ch && fits 16 ctx && rushesOk r
  | .ctxQuery ch ctx => chanOk ch && fits 16 ctx
  | .qCreate ch ringAddr entries compAddr version => chanOk ch && fits 64 ringAddr && fits 32 entries && fits 64 compAddr && fits 16 version
  | .qDestroy ch _ => chanOk ch
  | .doorbell ch _ _ => chanOk ch
  | .objAlloc ch range size addr owner _ => chanOk ch && rangeOk range && fits 64 size && fits 64 addr && ownerOk owner
  | .objFree ch _ => chanOk ch
  | .fenceCreate ch owner _ => chanOk ch && ownerOk owner
  | .fenceDestroy ch _ => chanOk ch
  | .fenceSignal ch _ _ => chanOk ch
  | .fenceFail ch _ => chanOk ch
  | .fenceQuery ch _ => chanOk ch
  | .fenceNotify ch _ _ => chanOk ch
  | .commandComplete _ _ _ => true
  | .hello _ h _ => frameOk h
  | .kemCt _ _ h => frameOk h
  | .close _ h _ => frameOk h
  | .rollCall _ _ _ total h => frameOk h && decide (total ≤ 8)
  | .ringLockLoss _ => true
  | .dataFrame _ h _ => frameOk h
  | .sessionTimeout _ => true
  | .frameResendTimeout _ => true
  | .endSession _ tag _ => tagOk tag
  | .mgmtLockWrite _ tag _ => tagOk tag
  | .regRead _ tag _ count => tagOk tag && decide (1 ≤ count) && decide (count ≤ 128)
  | .regWrite _ tag _ _ b => tagOk tag && bootOk b
  | .spaceReq _ tag r => tagOk tag && reqOk r
  | .firmwareImage _ tag _ sig => tagOk tag && lenOk 29792 sig
  | .gafBudgetWrite _ tag _ => tagOk tag
  | .admissionPass _ => true
  | .retune m => measuredOk m
  | .pendingPriority _ => true
  | .sliceEnd => true
  | .strictWindowStart slot => slotOk slot
  | .islandSleep island => islandOk island
  | .islandFault island _ b => islandOk island && bootOk b
  | .lcField _ tag b => tagOk tag && bootOk b
  | .lcScrap _ tag _ => tagOk tag
  | .lcPort target _ b => fits 4 target && bootOk b
  | .challenge _ tag purpose scope => tagOk tag && fits 2 purpose && fits 4 scope
  | .challengeDone => true
  | .accept _ tag b => tagOk tag && bootOk b
  | .dbgClose _ tag => tagOk tag
  | .dbgBufAccess _ tag _ => tagOk tag
  | .jtagIrUpdate _ => true
  | .extest _ => true
  | .idcode => true
  | .samplePreload _ => true
  | .bypass _ => true
  | .dbgRead => true
  | .memPort addr _ => addrOk addr
  | .regPort _ _ b => bootOk b
  | .gripDbg grip _ => gripOk grip
  | .intScan island => islandOk island
  | .intScanRelease island _ b => islandOk island && bootOk b
  | .jtagTestReset => true
  | .rcRegisterRead _ tag _ => tagOk tag
  | .stby3v3Loss => true
  | .entropyHealthPass => true
  | .cutTimeout _ => true

end Sys2Proof
end

