-- ==== Sys2Proof/Certificates/Slice0/Obligations.lean ====
section
/-! DEFINITION. The statements for the provers: what each command of the block does, family by family. -/

open Sys2Proof Sys2Proof.Machine

/-- For every state whose queue is c followed by rest, one step is exec of c on the state with the queue rest. On an empty queue the block
idles, but for what proceeds on its own: a life-cycle transition goes on by one half-step of its fuses and marks, else a flash image that
is being written is whole and its reply goes, else nothing changes (the model's choice, log entries 2 and 128). -/
def Obligations.StepRunsFrontCommand : Prop :=
  (∀ (s : State) (c : Instr) (rest : List Instr), s.pending = c :: rest → step s = exec c { s with pending := rest }) ∧
  (∀ s : State, s.pending = [] → s.lc.going = none → s.lc.flashing = none → step s = .next s) ∧
  (∀ (s : State) (g : LcRun), s.pending = [] → s.lc.going = some g → step s = .next (lcTick s g)) ∧
  (∀ (s : State) (w : FlashRun), s.pending = [] → s.lc.going = none → s.lc.flashing = some w →
    step s = .next (mgmtReply { s with lc := { s.lc with flashImage := w.image, flashSig := w.sig, flashing := none } } w.port w.tag .ok []))

/-- STBY_VALID before the standby domain is up sets it up, samples the straps and closes the JTAG bypass exactly where JBYP_EN is high;
I3C_TARGET_LIVE after it makes the sideband target live; I3C_ENTDAA on a live target sets its dynamic address, and the provisioned ID that
it has sent is the one that holds SLOT_ID in its low six bits. Nothing else changes. -/
def Obligations.StandbyDomainRows : Prop :=
  (∀ (s : State) (st : Straps), s.power.stbyValid = false →
    exec (.stbyValid st) s =
      .next { s with power := { s.power with stbyValid := true, strap := st, jbypClosed := st.jbypEn } }) ∧
  (∀ s : State, s.power.stbyValid = true →
    exec .i3cTargetLive s = .next { s with power := { s.power with i3cLive := true } }) ∧
  (∀ (s : State) (a : BitVec 7), s.power.i3cLive = true →
    exec (.i3cEntdaa a) s = .next { s with power := { s.power with i3cAddr := some a, i3cPid := provisionedId s.power } }) ∧
  (∀ x : Power, (provisionedId x).truncate 6 = x.slotId)

/-- With the standby domain up and the TAP not yet live: if RESET_N and STRIKE_N are high, the fuses vote a state in which the module starts
and every step goes well, POWER_UP ends READY with both optical bypasses open, the house rig in force, the TAP live, the JTAG bypass open,
both rings training, the state voted, SLOT_ID as sampled, the fuses and the flash as they were, no key slot but 0 and 128 in use, and,
from an empty log, an entry of kind 7 with cause 1. A failing rail leaves the module stopped after step 1 with unit 0xFF, READY low, and
keys, fuses and flash as they were; that the TAP is live then is the model's choice (log entry 111). A failing memory self-test leaves
step 6 as the last one completed, READY low and the unit that failed. -/
def Obligations.PowerUpReachesReady : Prop :=
  (∀ (s : State) (b : Boot) (c : Nat), s.power.stbyValid = true → s.power.tapLive = false → s.power.resetN = true →
    s.power.strikeN = true → fuseState s c → starts c → bootGood b →
    ∃ t, exec (.powerUp b) s = .next t ∧ isReady t ∧ t.power.tapLive = true ∧ t.power.jbypClosed = false ∧
      t.lmx.a.ring = 1 ∧ t.lmx.b.ring = 1 ∧ t.lc.state = c ∧ t.power.slotId = b.strap.slotId ∧ fusesKept s t ∧
      (∀ i, i ≠ 0 → i ≠ 128 → (t.keys.slots.getD i {}).valid = false) ∧
      (s.err.entries = [] → (t.err.entries.any fun e => e.kind == 7 && e.cause == 1) = true)) ∧
  (∀ (s : State) (b : Boot), s.power.stbyValid = true → s.power.tapLive = false → b.railsOk = false →
    ∃ t, exec (.powerUp b) s = .next t ∧ t.power.ready = false ∧ t.power.bootFailed = true ∧ t.power.bootStep = 1 ∧
      t.power.failUnit = 0xFF ∧ t.power.tapLive = true ∧ t.keys = s.keys ∧ t.lc = s.lc) ∧
  (∀ (s : State) (b : Boot) (c : Nat), s.power.stbyValid = true → s.power.tapLive = false → s.power.resetN = true →
    s.power.strikeN = true → fuseState s c → starts c → b.railsOk = true → b.entropyOk = true → b.trainFail = 0 →
    b.hbmOk ≠ 0xFF →
    ∃ t, exec (.powerUp b) s = .next t ∧ t.power.ready = false ∧ t.power.bootFailed = true ∧ t.power.bootStep = 6 ∧
      t.power.failUnit = b.failUnit)

/-- Where the fuses vote a state in which the module starts and every step goes well: RESET_N_RELEASE of a module that waits in reset with
STRIKE_N high, STRIKE_RESTART of one held after a strike with RESET_N high, and, with both pins high, FUNCTION_RESET and I3C_RESET with
key 0xC0DE end READY with both bypasses open, under the house rig, with the fuses and the flash as they were. FUNCTION_RESET ends both
sessions and shows cause 9 in KEY_STRIKE and cause 3 in ERR_LAST_RESET; I3C_RESET counts and shows cause 4. During a warm reset that
RESET_N holds, I3C_RESET counts and starts no other reset: log, keys and cause stay. FUNCTION_RESET with another key only replies OK;
I3C_RESET with another key, or of a scrapped module, only counts a refusal. -/
def Obligations.RestartsReachReady : Prop :=
  (∀ (s : State) (b : Boot) (c : Nat), s.power.resetN = false → s.power.resetHeld = true → s.power.strikeN = true →
    fuseState s c → starts c → bootGood b → ∃ t, exec (.resetNRelease b) s = .next t ∧ isReady t ∧ fusesKept s t) ∧
  (∀ (s : State) (b : Boot) (c : Nat), s.power.tapLive = true → s.power.strikeHeld = true → s.power.resetN = true →
    fuseState s c → starts c → bootGood b →
    ∃ t, exec (.strikeRestart b) s = .next t ∧ isReady t ∧ fusesKept s t) ∧
  (∀ (s : State) (p : Port) (tag : Nat) (b : Boot) (c : Nat), mayWrite s p → s.power.resetN = true → s.power.strikeN = true →
    fuseState s c → starts c → bootGood b →
    ∃ t, exec (.functionReset p tag 0xC0DE b) s = .next t ∧ isReady t ∧ fusesKept s t ∧ t.lmx.a.session = 0 ∧ t.lmx.b.session = 0 ∧
      t.keys.strikeCause = 9 ∧ t.err.lastCause = 3) ∧
  (∀ (s : State) (p : Port) (tag : Nat) (key : Word) (b : Boot), mayWrite s p → key ≠ 0xC0DE →
    exec (.functionReset p tag key b) s = .next (mgmtReply s p tag .ok [])) ∧
  (∀ (s : State) (b : Boot) (c : Nat), i3cUp s.power = true → s.power.tapLive = true → s.power.strikeN = true →
    s.power.resetN = true → s.power.resetHeld = false → s.power.scrapStop = false → fuseState s c → starts c → bootGood b →
    ∃ t, exec (.i3cReset 0xC0DE b) s = .next t ∧ isReady t ∧ fusesKept s t ∧
      t.power.i3cResetReq = satAdd 16 s.power.i3cResetReq 1 ∧ t.err.lastCause = 4) ∧
  (∀ (s : State) (b : Boot), i3cUp s.power = true → s.power.resetN = false → s.power.resetHeld = true → s.power.scrapStop = false →
    ∃ t, exec (.i3cReset 0xC0DE b) s = .next t ∧ t.power.i3cResetReq = satAdd 16 s.power.i3cResetReq 1 ∧ t.power.resetHeld = true ∧
      t.err = s.err ∧ t.keys = s.keys ∧ t.lc = s.lc) ∧
  (∀ (s : State) (b : Boot) (key : BitVec 16), i3cUp s.power = true → (key ≠ 0xC0DE ∨ s.power.scrapStop = true) →
    exec (.i3cReset key b) s = .next { s with power := { s.power with i3cRefused := satAdd 16 s.power.i3cRefused 1 } })

/-- With the TAP live: WARM_RESET (RESET_N high before), STRIKE_N_LOW (STRIKE_N high before, the standby domain up), TAMPER_STRIKE with a
cause from 2 to 5 (the standby domain up) and I3C_STRIKE with key 0x5354 (the sideband target up, the module not scrapped) each leave
READY low, both optical bypasses closed, all 256 key slots zeroized, no command, space, session or pair, and memory empty. KEY_STRIKE
holds the cause (9, 1, the tamper cause, 6), and its count has gone up by one modulo 2^32. The fuses and the flash are as they were.
WARM_RESET leaves the pin low and the straps as sampled, STRIKE_N_LOW its pin low and the module held, TAMPER_STRIKE its bit live and
latched, and I3C_STRIKE one request more counted. -/
def Obligations.StrikesEraseEveryKey : Prop :=
  (∀ (s : State) (st : Straps), s.power.resetN = true → s.power.tapLive = true →
    ∃ t, exec (.warmReset st) s = .next t ∧ isStruck t ∧ fusesKept s t ∧ t.keys.strikeCause = 9 ∧
      t.keys.strikeCount = (s.keys.strikeCount + 1) % 2 ^ 32 ∧ t.power.resetN = false ∧ t.power.strap = st) ∧
  (∀ s : State, s.power.strikeN = true → s.power.stbyValid = true → s.power.tapLive = true →
    ∃ t, exec .strikeNLow s = .next t ∧ isStruck t ∧ fusesKept s t ∧ t.keys.strikeCause = 1 ∧
      t.keys.strikeCount = (s.keys.strikeCount + 1) % 2 ^ 32 ∧ t.power.strikeN = false ∧ t.power.strikeHeld = true) ∧
  (∀ (s : State) (cause : Nat), 2 ≤ cause → cause ≤ 5 → s.power.stbyValid = true → s.power.tapLive = true →
    ∃ t, exec (.tamperStrike cause) s = .next t ∧ isStruck t ∧ fusesKept s t ∧ t.keys.strikeCause = cause ∧
      t.keys.strikeCount = (s.keys.strikeCount + 1) % 2 ^ 32 ∧ t.keys.tamperLive.getLsbD (cause - 2) = true ∧
      t.keys.tamperLatched.getLsbD (cause - 2) = true) ∧
  (∀ s : State, i3cUp s.power = true → s.power.tapLive = true → s.power.scrapStop = false →
    ∃ t, exec (.i3cStrike 0x5354) s = .next t ∧ isStruck t ∧ fusesKept s t ∧ t.keys.strikeCause = 6 ∧
      t.keys.strikeCount = (s.keys.strikeCount + 1) % 2 ^ 32 ∧
      t.power.i3cStrikeReq = satAdd 16 s.power.i3cStrikeReq 1)

/-- With MAIN_54V valid its fall leaves the module struck, cause 10 in KEY_STRIKE, MAIN_54V and the TAP down, the standby domain up, the JTAG
bypass as JBYP_EN says, and the power budget as it was. The fall of STBY_3V3, as POWER_DOWN with MAIN_54V valid or as STBY_3V3_LOSS with
STBY_3V3 valid, leaves the module struck with every latch of the power group at its default but for the fused serial number and order
variant: the budget is 2,000 W again. Fuses and flash stay. -/
def Obligations.PowerDownAndStandbyLoss : Prop :=
  (∀ s : State, s.power.mainValid = true →
    ∃ t, exec (.powerDown .main) s = .next t ∧ isStruck t ∧ fusesKept s t ∧ t.keys.strikeCause = 10 ∧ t.power.tapLive = false ∧
      t.power.mainValid = false ∧ t.power.stbyValid = true ∧ t.power.jbypClosed = s.power.strap.jbypEn ∧
      t.power.budgetW = s.power.budgetW) ∧
  (∀ s : State, s.power.mainValid = true →
    ∃ t, exec (.powerDown .stby) s = .next t ∧ isStruck t ∧ fusesKept s t ∧
      t.power = { serial := s.power.serial, orderVariant := s.power.orderVariant } ∧ t.power.budgetW = 2000) ∧
  (∀ s : State, s.power.stbyValid = true →
    ∃ t, exec .stby3v3Loss s = .next t ∧ isStruck t ∧ fusesKept s t ∧
      t.power = { serial := s.power.serial, orderVariant := s.power.orderVariant } ∧ t.power.budgetW = 2000)

/-- While READY and over 125 islands: a clamp from a pin that the module does not drive, or from a junction, puts all of them at point 0 and
leaves their granted points; an overdraw with no clamp in force takes two points, no lower than 0, from the granted point of each engine
island and leaves the others; each start counts an emergency and its kind. At the end of a clamp, with no other clamp in force, every
island is at its granted point; at the end of an overdraw an engine island has back what was taken, or stands at the lowest point of its
running commands. While the module drives the pin its end is ignored; when it releases the pin while another device holds it low, a pin
clamp starts. -/
def Obligations.EmergenciesLowerIslands : Prop :=
  (∀ s : State, s.power.ready = true → s.power.thermDrive = false → s.power.stbyValid = true → s.gaf.pin = false →
    s.gaf.islands.length = 125 →
    ∃ t, exec .pinClamp s = .next t ∧ t.gaf.pin = true ∧ t.power.thermPinLow = true ∧
      (∀ n, n < 125 → (t.gaf.islands.getD n {}).point = 0) ∧
      t.gaf.islands.map (·.granted) = s.gaf.islands.map (·.granted) ∧
      t.gaf.emergencies = satAdd 32 s.gaf.emergencies 1 ∧ t.gaf.clamps = satAdd 16 s.gaf.clamps 1) ∧
  (∀ s : State, s.power.ready = true → s.power.tapLive = true → s.gaf.hot = false → s.gaf.islands.length = 125 →
    ∃ t, exec .junctionClamp s = .next t ∧ t.gaf.hot = true ∧ t.power.thermDrive = true ∧
      (∀ n, n < 125 → (t.gaf.islands.getD n {}).point = 0) ∧
      t.gaf.islands.map (·.granted) = s.gaf.islands.map (·.granted) ∧
      t.gaf.emergencies = satAdd 32 s.gaf.emergencies 1 ∧ t.gaf.clamps = satAdd 16 s.gaf.clamps 1) ∧
  (∀ s : State, s.power.ready = true → s.gaf.overdraw = false → s.gaf.hot = false → s.gaf.pin = false →
    s.gaf.islands.length = 125 →
    ∃ t, exec .overdraw s = .next t ∧ t.gaf.overdraw = true ∧ t.gaf.overdraws = satAdd 16 s.gaf.overdraws 1 ∧
      (∀ n, n < 64 → (t.gaf.islands.getD n {}).point = (s.gaf.islands.getD n {}).granted - 2 ∧
        (t.gaf.islands.getD n {}).granted = (s.gaf.islands.getD n {}).granted - 2) ∧
      (∀ n, 64 ≤ n → n < 125 → (t.gaf.islands.getD n {}).point = (s.gaf.islands.getD n {}).granted ∧
        (t.gaf.islands.getD n {}).granted = (s.gaf.islands.getD n {}).granted) ∧ t.gaf.emergencies = satAdd 32 s.gaf.emergencies 1) ∧
  (∀ (s : State) (k : Nat), s.power.thermDrive = true → exec (.pinClampEnd k) s = .next s) ∧
  (∀ (s : State) (k : Nat), s.power.thermDrive = false → s.gaf.pin = true → s.gaf.hot = false → s.gaf.islands.length = 125 →
    ∃ t, exec (.pinClampEnd k) s = .next t ∧ t.gaf.pin = false ∧ t.power.thermPinLow = false ∧
      t.gaf.islands.map (·.granted) = s.gaf.islands.map (·.granted) ∧
      ∀ n, n < 125 → (t.gaf.islands.getD n {}).point = (s.gaf.islands.getD n {}).granted) ∧
  (∀ (s : State) (k : Nat), s.gaf.hot = true → s.gaf.pin = false → s.power.thermPinLow = false → s.gaf.islands.length = 125 →
    ∃ t, exec (.junctionClampEnd k) s = .next t ∧ t.gaf.hot = false ∧ t.power.thermDrive = false ∧
      t.gaf.islands.map (·.granted) = s.gaf.islands.map (·.granted) ∧
      ∀ n, n < 125 → (t.gaf.islands.getD n {}).point = (s.gaf.islands.getD n {}).granted) ∧
  (∀ (s : State) (k : Nat), s.gaf.hot = true → s.gaf.pin = false → s.power.thermPinLow = true → s.power.ready = true →
    s.gaf.islands.length = 125 →
    ∃ t, exec (.junctionClampEnd k) s = .next t ∧ t.gaf.hot = false ∧ t.gaf.pin = true ∧ t.power.thermDrive = false ∧
      ∀ n, n < 125 → (t.gaf.islands.getD n {}).point = 0) ∧
  (∀ (s : State) (k : Nat), s.gaf.overdraw = true → s.gaf.hot = false → s.gaf.pin = false → s.gaf.islands.length = 125 →
    ∃ t, exec (.overdrawEnd k) s = .next t ∧ t.gaf.overdraw = false ∧
      (∀ n, n < 64 → lowestGrant s n = none →
        (t.gaf.islands.getD n {}).granted = (s.gaf.islands.getD n {}).granted + (s.gaf.islands.getD n {}).lower) ∧
      (∀ n g, n < 64 → lowestGrant t n = some g → (t.gaf.islands.getD n {}).granted = g) ∧
      (∀ n, 64 ≤ n → n < 125 → (t.gaf.islands.getD n {}).granted = (s.gaf.islands.getD n {}).granted) ∧
      ∀ n, n < 125 → (t.gaf.islands.getD n {}).point = (t.gaf.islands.getD n {}).granted)

/-- I3C_BUDGET over a live addressed target of a module that is not scrapped (of a scrapped one it only counts a refusal), and
GAF_BUDGET_WRITE over a session that may write, take bits [11:0] of the value; below 1,000 the budget becomes 1,000, above 2,400 it
becomes 2,400, else the value itself; the clamped flag says which. Nothing else changes but the management reply. -/
def Obligations.BudgetWritesClamp : Prop :=
  (∀ (s : State) (v : Word), i3cUp s.power = true → s.power.scrapStop = true →
    exec (.i3cBudget v) s = .next { s with power := { s.power with i3cRefused := satAdd 16 s.power.i3cRefused 1 } }) ∧
  (∀ (s : State) (v : Word), i3cUp s.power = true → s.power.scrapStop = false →
    exec (.i3cBudget v) s = .next { s with power := { s.power with
      budgetW := if v.toNat % 4096 < 1000 then 1000 else if 2400 < v.toNat % 4096 then 2400 else v.toNat % 4096
      budgetClamped := decide (v.toNat % 4096 < 1000) || decide (2400 < v.toNat % 4096) } }) ∧
  (∀ (s : State) (p : Port) (tag : Nat) (v : Word), mayWrite s p →
    exec (.gafBudgetWrite p tag v) s = .next (mgmtReply { s with power := { s.power with
      budgetW := if v.toNat % 4096 < 1000 then 1000 else if 2400 < v.toNat % 4096 then 2400 else v.toNat % 4096
      budgetClamped := decide (v.toNat % 4096 < 1000) || decide (2400 < v.toNat % 4096) } } p tag .ok []))

/-- After READY a ROLL_CALL frame from the control node to every node, on an inserted port, has the module append its serial, take the
position after the serials before it, and lock the ring; the other port is unchanged; a ring that already carries 8 modules leaves no
position and nothing changes (the model's choice, log entry 77). The loss of a lock trains the ring again, counts and keeps the session.
HELLO that does not reach the module on a locked ring does nothing; over a live session it is answered BUSY; else (the order of these
tests is the model's choice, log entry 59), on a module with an identity, a good entropy source and room for a quote, it takes two draws
for a key pair, starts an attempt and queues its quote. KEM_CT of the attempt, with 1,568 bytes, whose HELLO_REPLY has gone out puts the
keys derived into the port's two slots with USE port and owner set 0 and makes the session live; any other does nothing. An authentic
CLOSE that is the session's next frame, and SESSION_TIMEOUT, end a session: its slots are zeroized, the lock it held is released, and but
for notices nothing of the spaces changes; with no piece of a print and no unsent notice left over, the other port is as it was; with no
session they do nothing. END_SESSION replies and ends the named port's session. -/
def Obligations.RingsLockAndSessionsForm : Prop :=
  (∀ (s : State) (p : Port) (h : FrameHdr) (g : Bool) (l : List Word) (n : Nat), s.power.ready = true →
    ((portOf s.lmx p).ring = 1 ∨ (portOf s.lmx p).ring = 2) → h.type = 6 → h.src = 0 → h.dst = 0x0F → h.length ≤ 24576 → l.length < 8 →
    ∃ t, exec (.rollCall p g l n h) s = .next t ∧ (portOf t.lmx p).ring = 2 ∧ (portOf t.lmx p).position = l.length + 1 ∧
      (portOf t.lmx p).members = n % 16 ∧ (portOf t.lmx p).setup = (portOf s.lmx p).setup ++ [.rollCall s.power.serial] ∧
      (portOf t.lmx p).gen2 = (g && !(portOf s.lmx p).genCap) ∧ (portOf t.lmx p).session = (portOf s.lmx p).session ∧
      (portOf t.lmx p).unacked = (portOf s.lmx p).unacked ∧ portOf t.lmx (otherPort p) = portOf s.lmx (otherPort p) ∧
      t.mem = s.mem ∧ t.keys = s.keys ∧ t.sp = s.sp) ∧
  (∀ (s : State) (p : Port) (h : FrameHdr) (g : Bool) (l : List Word) (n : Nat), 8 ≤ l.length →
    exec (.rollCall p g l n h) s = .next s) ∧
  (∀ (s : State) (p : Port), (portOf s.lmx p).ring = 2 → exec (.ringLockLoss p) s = .next (portMod s p fun v =>
    { v with ring := 1, cntRelock := satAdd 32 v.cntRelock 1 })) ∧
  (∀ (s : State) (p : Port), (portOf s.lmx p).ring ≠ 2 → exec (.ringLockLoss p) s = .next s) ∧
  (∀ (s : State) (p : Port) (h : FrameHdr) (w : W256), setupHeard (portOf s.lmx p) h 3 = false → exec (.hello p h w) s = .next s) ∧
  (∀ (s : State) (p : Port) (h : FrameHdr) (w : W256), setupHeard (portOf s.lmx p) h 3 = true → (portOf s.lmx p).session = 2 →
    exec (.hello p h w) s = .next (setupSend (portMod s p fun v => creditTake v h) p (.reply 0xFF 0 .busy []))) ∧
  (∀ (s : State) (p : Port) (h : FrameHdr) (w : W256), setupHeard (portOf s.lmx p) h 3 = true → s.keys.entropyOk = true →
    (portOf s.lmx p).session ≠ 2 → s.keys.vaultOk = true → s.keys.quotes.length < 64 →
    ∃ t, exec (.hello p h w) s = .next t ∧ (portOf t.lmx p).session = 1 ∧ (portOf t.lmx p).sessionId = h.session ∧
      (portOf t.lmx p).ek = (kemDraw s).1 ∧ (portOf t.lmx p).dk = (kemDraw s).2 ∧ t.draws = s.draws + 2 ∧
      t.keys.quotes = s.keys.quotes ++ [⟨w, (kemDraw s).1, .session p⟩] ∧ t.keys.slots = s.keys.slots ∧
      portOf t.lmx (otherPort p) = portOf s.lmx (otherPort p) ∧ t.mem = s.mem ∧ t.sp = s.sp) ∧
  (∀ (s : State) (p : Port) (h : FrameHdr) (ct ks : List Byte) (v : PortSt), v = portOf s.lmx p → setupHeard v h 5 = true → v.session = 1 →
    h.session = v.sessionId → ct.length = 1568 → replied v = true → s.sp.notices = [] → s.lmx.held = [] → s.keys.slots.length = 256 →
    ks = shake256 64 (kemDecaps v.dk ct ++ w256Bytes (shakeW (v.quote ++ v.ek ++ ct)) ++ ascii "nirnus-lemlix" ++ natLe 1 (portNum p)) →
    ∃ t, exec (.kemCt p ct h) s = .next t ∧ (portOf t.lmx p).session = 2 ∧ (portOf t.lmx p).rxSeq = 0 ∧ (portOf t.lmx p).txSeq = 0 ∧
      (portOf t.lmx p).cntSessions = satAdd 32 v.cntSessions 1 ∧ t.keys.slots[sessionSlot p]? = some (sessionKey (ks.take 32)) ∧
      t.keys.slots[sessionSlot p + 1]? = some (sessionKey (ks.drop 32)) ∧
      portOf t.lmx (otherPort p) = portOf s.lmx (otherPort p) ∧ t.mem = s.mem ∧ t.sp = s.sp ∧
      ∀ i, i ≠ sessionSlot p → i ≠ sessionSlot p + 1 → t.keys.slots[i]? = s.keys.slots[i]?) ∧
  (∀ (s : State) (p : Port) (h : FrameHdr) (ct : List Byte), (setupHeard (portOf s.lmx p) h 5 = false ∨ (portOf s.lmx p).session ≠ 1 ∨
      h.session ≠ (portOf s.lmx p).sessionId ∨ ct.length ≠ 1568 ∨ replied (portOf s.lmx p) = false) →
    exec (.kemCt p ct h) s = .next s) ∧
  (∀ b : List Byte, (sessionKey b).valid = true ∧ (sessionKey b).use = .port ∧ (sessionKey b).ownerSet = 0) ∧
  (∀ (s : State) (p : Port) (h : FrameHdr) (ok : Bool) (i : Instr), (i = .close p h ok ∨ i = .sessionTimeout p) →
    (portOf s.lmx p).session = 0 → exec i s = .next s) ∧
  (∀ (s : State) (p : Port) (h : FrameHdr) (i : Instr),
    ((i = .close p h true ∧ inSession s p h 7 ∧ h.seq = (portOf s.lmx p).rxSeq) ∨
      (i = .sessionTimeout p ∧ (portOf s.lmx p).session ≠ 0)) →
    s.keys.slots.length = 256 →
    ∃ t, exec i s = .next t ∧ (portOf t.lmx p).session = 0 ∧ (portOf t.lmx p).ring = (portOf s.lmx p).ring ∧
      (portOf t.lmx p).unacked = [] ∧ t.keys.slots[sessionSlot p]? = some {} ∧ t.keys.slots[sessionSlot p + 1]? = some {} ∧
      t.lmx.lock = (if s.lmx.lock = portNum p + 1 then 0 else s.lmx.lock) ∧
      (leftover (portOf s.lmx p) = [] → portOf t.lmx (otherPort p) = portOf s.lmx (otherPort p) ∧ t.sp = s.sp) ∧
      t.mem = s.mem ∧ t.sp = { s.sp with notices := t.sp.notices }) ∧
  (∀ (s : State) (p q : Port) (tag : Nat), mayWrite s p →
    exec (.endSession p tag q) s = .next (endSess (mgmtReply s p tag .ok []) q)) ∧
  (∀ (s : State) (p q : Port) (tag : Nat), mayWrite s p → ∃ t, exec (.endSession p tag q) s = .next t ∧
    (portOf t.lmx q).session = 0 ∧ t.mem = s.mem ∧ t.sp = { s.sp with notices := t.sp.notices } ∧ t.rig = s.rig)

/-- A frame of no live session on a locked ring, of another session, not of this module, not of type DATA or with more than 8,192 bytes is
discarded. One whose tag fails is discarded and counted; the first DATA frame of a session, numbered 0, then ends it too. One that is not
the next is discarded. The next frame, below 2^64 − 1, moves the expected sequence number on by one, counts, and frees the frames its ack
covers, where the ack names a frame that has gone out (the model's choice, log entry 58); the session lives on. One numbered 2^64 − 1 ends
it. Without progress of ack the sender starts again from the oldest unacknowledged frame and counts it. MGMT_LOCK is taken when free,
released by its holder, and a write from the other port answers BUSY. A SPACE_REQ of the bound system space, but a doorbell whose ring is
being filled (log entry 106), acts with that space's authority. A firmware image of at most 16 MiB is written exactly when it has the
measurement it states and its signature verifies, with the reply at the end of the write (log entry 128); while one is written another is
BUSY; else it answers RIG_MISMATCH and leaves the flash unchanged. Requests come while no earlier one waits its turn (log entry 125). -/
def Obligations.FramesLocksAndFirmwareImages : Prop :=
  (∀ (s : State) (p : Port) (h : FrameHdr) (k : Bool), ¬ inSession s p h 1 → exec (.dataFrame p h k) s = .next s) ∧
  (∀ (s : State) (p : Port) (h : FrameHdr), inSession s p h 1 → (h.seq ≠ 0 ∨ (portOf s.lmx p).rxSeq ≠ 0) →
    exec (.dataFrame p h false) s = .next (portMod s p fun v => { v with cntTag := satAdd 32 v.cntTag 1 })) ∧
  (∀ (s : State) (p : Port) (h : FrameHdr), inSession s p h 1 → h.seq = 0 → (portOf s.lmx p).rxSeq = 0 →
    ∃ t, exec (.dataFrame p h false) s = .next t ∧ (portOf t.lmx p).session = 0 ∧
      (portOf t.lmx p).cntTag = satAdd 32 (portOf s.lmx p).cntTag 1 ∧ t.mem = s.mem ∧ t.sp = { s.sp with notices := t.sp.notices }) ∧
  (∀ (s : State) (p : Port) (h : FrameHdr), inSession s p h 1 → h.seq ≠ (portOf s.lmx p).rxSeq →
    exec (.dataFrame p h true) s = .next s) ∧
  (∀ (s : State) (p : Port) (h : FrameHdr), inSession s p h 1 → h.seq = (portOf s.lmx p).rxSeq → h.seq < 2 ^ 64 - 1 →
    ∃ t, exec (.dataFrame p h true) s = .next t ∧ (portOf t.lmx p).session = 2 ∧ (portOf t.lmx p).rxSeq = h.seq + 1 ∧
      (portOf t.lmx p).cntRx = ((portOf s.lmx p).cntRx + 1) % 2 ^ 64 ∧ (portOf t.lmx p).cntTag = (portOf s.lmx p).cntTag ∧
      (∀ f, f ∈ (portOf t.lmx p).unacked ↔ f ∈ (portOf s.lmx p).unacked ∧ (h.ack < f.seq ∨ (portOf s.lmx p).txHigh ≤ h.ack)) ∧
      (portOf s.lmx p).txSeq ≤ (portOf t.lmx p).txSeq ∧ portOf t.lmx (otherPort p) = portOf s.lmx (otherPort p) ∧
      t.mem = s.mem ∧ t.sp = s.sp ∧ t.keys = s.keys) ∧
  (∀ (s : State) (p : Port) (h : FrameHdr), inSession s p h 1 → h.seq = (portOf s.lmx p).rxSeq → 2 ^ 64 - 1 ≤ h.seq →
    ∃ t, exec (.dataFrame p h true) s = .next t ∧ (portOf t.lmx p).session = 0 ∧ t.mem = s.mem) ∧
  (∀ (s : State) (p : Port), (portOf s.lmx p).session ≠ 2 → exec (.frameResendTimeout p) s = .next s) ∧
  (∀ (s : State) (p : Port) (f : OutFrame) (r : List OutFrame), (portOf s.lmx p).session = 2 →
    (portOf s.lmx p).unacked = f :: r → f.seq < (portOf s.lmx p).txSeq → ∃ t, exec (.frameResendTimeout p) s = .next t ∧
      (portOf t.lmx p).cntResent = satAdd 32 (portOf s.lmx p).cntResent 1 ∧ (portOf t.lmx p).unacked = f :: r ∧
      f.seq ≤ (portOf t.lmx p).txSeq ∧ (portOf t.lmx p).session = 2 ∧ t.mem = s.mem ∧ t.sp = s.sp ∧ t.keys = s.keys) ∧
  (∀ (s : State) (p : Port) (tag : Nat), mayRead s p → s.lmx.lock = 0 →
    exec (.mgmtLockWrite p tag 1) s = .next (mgmtReply { s with lmx := { s.lmx with lock := portNum p + 1 } } p tag .ok [])) ∧
  (∀ (s : State) (p : Port) (tag : Nat), mayRead s p → s.lmx.lock = portNum p + 1 →
    exec (.mgmtLockWrite p tag 0) s = .next (mgmtReply { s with lmx := { s.lmx with lock := 0 } } p tag .ok [])) ∧
  (∀ (s : State) (p : Port) (tag : Nat) (v : Word), mayRead s p → s.lmx.lock = portNum (otherPort p) + 1 →
    exec (.mgmtLockWrite p tag v) s = .next (mgmtReply s p tag .busy [])) ∧
  (∀ (s : State) (p : Port) (tag : Nat) (r : SpaceReq), mayAsk s ⟨p, 0, tag, none⟩ → waitingRow s ⟨p, 0, tag, none⟩ r = none →
    exec (.spaceReq p tag r) s = .next (spaceReply (spaceDo 0 r (asked s ⟨p, 0, tag, none⟩)).st ⟨p, 0, tag, none⟩
      (spaceDo 0 r (asked s ⟨p, 0, tag, none⟩)).status (spaceDo 0 r (asked s ⟨p, 0, tag, none⟩)).data)) ∧
  (∀ (s : State) (p : Port) (tag : Nat) (h : BitVec 32) (f : Fence), mayAsk s ⟨p, 0, tag, none⟩ → fenceGet s 0 h = some f →
    exec (.spaceReq p tag (.fenceQuery h)) s = .next (spaceReply (asked s ⟨p, 0, tag, none⟩) ⟨p, 0, tag, none⟩ .ok
      (natLe 8 f.value.toNat ++ natLe 1 (b2n f.failed) ++ if f.failed then f.record else []))) ∧
  (∀ (s : State) (p : Port) (tag : Nat) (image sig : List Byte), mayWrite s p → s.lc.flashing = none →
    match !image.isEmpty && decide (image.length ≤ 2 ^ 24) && shakeW image == Config.fwMeasured image sig &&
      slhVerify slh256s firmwareKey [] image sig with
    | true => exec (.firmwareImage p tag image sig) s = .next { s with lc := { s.lc with
        flashImage := [], flashSig := [], flashErased := false, flashing := some ⟨p, tag, image, sig⟩ } }
    | false => ∃ t, exec (.firmwareImage p tag image sig) s = .next (mgmtReply t p tag .rigMismatch []) ∧ t.lc = s.lc ∧ t.mem = s.mem ∧
        t.sp = s.sp) ∧
  (∀ (s : State) (p : Port) (tag : Nat) (image sig : List Byte), mayWrite s p → s.lc.flashing ≠ none →
    exec (.firmwareImage p tag image sig) s = .next (mgmtReply s p tag .busy []))

/-- REG_READ of 0 or of more than 128 registers replies BAD_DESCRIPTOR (the model's choice of status, log entry 69); of 1 to 128 it reads
consecutive registers, each 8 bytes little-endian. An RC register, here FAB_DROP, is returned and then cleared, and clears nothing else.
An offset that names no register reads zero and ignores writes, a read-only register ignores them. REG_WRITE of a configuration register
sets its fields within the limits of its table; one of a control register acts as the command that the table names. A write while the
other port holds the lock answers BUSY. Over the sideband only identity, telemetry and GAF_BUDGET are read, of a scrapped module identity
alone; any other offset is counted and returns zeros. -/
def Obligations.ManagementRegistersReadAndWrite : Prop :=
  (∀ (s : State) (p : Port) (tag n : Nat) (off : BitVec 24), mayRead s p → (n = 0 ∨ 128 < n) → windowWaits s off.toNat n = false →
    exec (.regRead p tag off n) s = .next (mgmtReply s p tag .badDescriptor [])) ∧
  (∀ (s : State) (p : Port) (tag n : Nat) (off : BitVec 24), mayRead s p → 0 < n → n ≤ 128 → windowWaits s off.toNat n = false →
    exec (.regRead p tag off n) s = .next (mgmtReply (regReads n off.toNat s).1 p tag .ok (regReads n off.toNat s).2)) ∧
  (∀ (s : State) (p : Port) (tag n : Nat) (off : BitVec 24), mayRead s p → 0 < n → n ≤ 128 → windowWaits s off.toNat n = false →
    ∃ t bs, exec (.regRead p tag off n) s = .next (mgmtReply t p tag .ok bs) ∧ bs.length = 8 * n ∧ t.lmx.lock = s.lmx.lock ∧
      t.mem.cells = s.mem.cells ∧ t.sp.cmds = s.sp.cmds) ∧
  (∀ (s : State) (p : Port) (tag n : Nat) (off : BitVec 24), heard s.lmx p = false →
    exec (.regRead p tag off n) s = .next s ∧ exec (.rcRegisterRead p tag off) s = .next s) ∧
  (∀ (s : State) (p : Port) (tag : Nat), mayRead s p →
    exec (.rcRegisterRead p tag 0x090018) s = .next (mgmtReply
      { s with fabric := { s.fabric with tagFail := 0, replayed := 0, hopLimit := 0, noRoute := 0 } } p tag .ok
      (natLe 8 (packWord [(s.fabric.tagFail, 16), (s.fabric.replayed, 16), (s.fabric.hopLimit, 16), (s.fabric.noRoute, 16)]).toNat))) ∧
  (∀ (s : State) (p : Port) (tag : Nat), mayRead s p →
    exec (.regRead p tag 0x000008 1) s = .next (mgmtReply s p tag .ok (natLe 8 s.power.serial.toNat))) ∧
  (∀ (s : State) (p : Port) (tag : Nat) (off : BitVec 24), mayRead s p → (off.toNat / 2 ^ 16 = 0x10 ∨ 0x80 ≤ off.toNat / 2 ^ 16) →
    exec (.regRead p tag off 1) s = .next (mgmtReply s p tag .ok (List.replicate 8 0))) ∧
  (∀ (s : State) (p : Port) (tag : Nat) (off : BitVec 24) (v : Word) (b : Boot), mayWrite s p → settled s →
    (off = 0x000008 ∨ off.toNat / 2 ^ 16 = 0x10 ∨ 0x80 ≤ off.toNat / 2 ^ 16) →
    exec (.regWrite p tag off v b) s = .next (mgmtReply s p tag .ok [])) ∧
  (∀ (s : State) (p : Port) (tag : Nat) (v : Word) (b : Boot), mayWrite s p → settled s →
    exec (.regWrite p tag 0x020010 v b) s = .next (mgmtReply { s with gaf := { s.gaf with
      sliceUs := max 100 (v.toNat % 2 ^ 16), frameMs := max 4 (v.toNat / 2 ^ 16 % 2 ^ 8) } } p tag .ok [])) ∧
  (∀ (s : State) (p : Port) (tag : Nat) (v : Word) (b : Boot), mayWrite s p → settled s →
    exec (.regWrite p tag 0x090008 v b) s = .next (mgmtReply { s with fabric := { s.fabric with
      timeout := max 16 (v.toNat % 2 ^ 16) } } p tag .ok [])) ∧
  (∀ (s : State) (p : Port) (tag : Nat) (v : Word) (b : Boot), mayWrite s p → settled s →
    exec (.regWrite p tag 0x0D0010 v b) s = .next (mgmtReply { s with err := { s.err with sel := v.toNat % 2 ^ 32 } } p tag .ok [])) ∧
  (∀ (s : State) (p : Port) (tag : Nat) (b : Boot), mayWrite s p → settled s →
    exec (.regWrite p tag 0x010000 3 b) s = exec (.discard p tag) s ∧ exec (.regWrite p tag 0x060000 5 b) s = exec (.fabActivate p tag) s ∧
    exec (.regWrite p tag 0x060000 6 b) s = exec (.fabRetire p tag) s ∧ exec (.regWrite p tag 0x080200 1 b) s = exec (.mgmtLockWrite p tag 1) s ∧
    exec (.regWrite p tag 0x080200 0 b) s = exec (.mgmtLockWrite p tag 0) s) ∧
  (∀ (s : State) (p : Port) (tag : Nat) (off : BitVec 24) (v : Word) (b : Boot), mayRead s p → settled s →
    s.lmx.lock = portNum (otherPort p) + 1 →
    exec (.regWrite p tag off v b) s = .next (mgmtReply s p tag .busy [])) ∧
  (∀ (s : State) (off : BitVec 24), i3cUp s.power = false → exec (.i3cRead off) s = .next s) ∧
  (∀ (s : State) (off : BitVec 24), i3cUp s.power = true → i3cReaches s off.toNat = true → ∃ t, exec (.i3cRead off) s = .next t ∧
    t.power.i3cData = (regRead s off.toNat).2 ∧ t.mem = s.mem ∧ t.sp = s.sp ∧ t.keys = s.keys ∧ t.lmx = s.lmx) ∧
  (∀ (s : State) (off : BitVec 24), i3cUp s.power = true → i3cReaches s off.toNat = false →
    exec (.i3cRead off) s = .next { s with power := { s.power with
      i3cRefused := satAdd 16 s.power.i3cRefused 1
      i3cData := 0 } }) ∧
  (∀ (s : State) (off : BitVec 24) (k : Byte), i3cUp s.power = true → k ≠ 0x10 →
    exec (.i3cRead off k) s = .next { s with power := { s.power with i3cRefused := satAdd 16 s.power.i3cRefused 1 } }) ∧
  (∀ (s : State) (off : Nat), i3cReaches s off = true → off ≤ 0x40 ∨
    (s.power.scrapStop = false ∧ (off = 0x020000 ∨ (0x0E0000 ≤ off ∧ off < 0x0F0000))))

/-- With one live space, one queue and one command, whose context is resident: an admission pass ends the command with BUDGET_REFUSED when its
estimate at point 0 exceeds the allowance as it is first considered, with WATCHDOG when its engine is marked failed; admits one without an
engine at point 7 when it fits; admits one with a free engine, no save image kept, at the highest point within the limit whose estimate
fits. A considered ready command that fits at no point takes its space's pending priority. Retuning lowers a running command to the
highest point that fits, holds it at point 0 when none does, and raises it no further than its limit. A slice end with at most 64 runnable
contexts only ages them; with more, those that waited come in; in a Shared rig it hands an engine to the space whose command is ready for
it. The next strict window hands its engines over with zero contents and answers a request that waited for it alone; no other window
starts. An idle engine with nothing to keep sleeps with zero contents, a link island while its link is disabled or held. The model's
choices here are log entries 76, 91, 96, 110, 126, 130, 131 and 135. -/
def Obligations.TheGafferAdmitsRetunesAndSleeps : Prop :=
  let one := fun (s : State) (n : Nat) (q : Queue) (c : Cmd) (x : Ctx) =>
    n < 16 ∧ (∀ m, m < 16 → ((spaceGet s m).state = 1 ↔ m = n)) ∧ s.rig.active.strict = false ∧ s.sp.queues = [q] ∧ q.space = n ∧
      s.sp.cmds = [c] ∧ c.space = n ∧ c.queue = q.idx ∧ c.body.isSome = true ∧ c.phase = .accepted ∧ s.sp.ctxs = [x] ∧ x.id = c.ctx ∧
      x.resident = true ∧ x.leaving = false ∧ s.gaf.haltedGrips = [] ∧ (spaceGet s n).pending = none ∧ s.array.rush = [] ∧ c.rush = none
  let runs := fun (s : State) (n e : Nat) (c : Cmd) =>
    n < 16 ∧ (∀ m, m < 16 → ((spaceGet s m).state = 1 ↔ m = n)) ∧ s.sp.cmds = [c] ∧ c.space = n ∧ c.phase = .admitted ∧ c.point ≤ 7 ∧
      engineNamed c = some e ∧ onEngine c.opcode = true ∧ s.gaf.islands.length = 125 ∧ (s.gaf.islands.getD e {}).granted = c.point ∧
      (s.gaf.islands.getD e {}).held = false ∧ s.array.rush = []
  (∀ (s : State) (n l : Nat) (q : Queue) (c : Cmd) (x : Ctx), one s n q c x → c.considered = false → allowanceMw s n < estimateAt s c 0 →
    ∃ t, exec (.admissionPass l) s = .next t ∧ endsWith t c.id .budgetRefused ∧
      (spaceGet t n).refused = satAdd 23 (spaceGet s n).refused 1 ∧ (isCollective c = false → t.mem = s.mem) ∧ t.array = s.array ∧
      t.gaf = s.gaf) ∧
  (∀ (s : State) (n e l : Nat) (q : Queue) (c : Cmd) (x : Ctx), one s n q c x → estimateAt s c 0 ≤ allowanceMw s n →
    engineNamed c = some e → s.err.islFailed.getLsbD e = true →
    ∃ t, exec (.admissionPass l) s = .next t ∧ endsWith t c.id .watchdog ∧ t.mem = s.mem ∧ t.array = s.array) ∧
  (∀ (s : State) (n l : Nat) (q : Queue) (c : Cmd) (x : Ctx), one s n q c x → engineNamed c = none → unitFree s c = true →
    estimateMw s c ≤ allowanceMw s n →
    ∃ t, exec (.admissionPass l) s = .next t ∧ cmdGet t c.id = some { c with phase := .admitted, point := 7, considered := true, asked := true } ∧
      (spaceGet t n).lastQueue = c.queue ∧ t.mem = s.mem ∧ t.array = s.array ∧ t.gaf = s.gaf) ∧
  (∀ (s : State) (n e k l : Nat) (q : Queue) (c : Cmd) (x : Ctx), one s n q c x → engineNamed c = some e → engineAllows s e n = true →
    (isShared s = false ∨ (s.array.engines.getD e {}).holder = some n) → (s.gaf.islands.getD e {}).asleep = false →
    (s.gaf.islands.getD e {}).stopped = false → s.array.images = [] → s.err.islFailed.getLsbD e = false → unitFree s c = true → s.gaf.islands.length = 125 →
    (c.opcode = 0x10 → rushEligible (mmBody (cmdBody c)) x.rushes = false) → k ≤ islandLimit s e (onVector c.opcode) → estimateAt s c k ≤ allowanceMw s n → estimateAt s c 0 ≤ allowanceMw s n →
    (∀ j, j ≤ islandLimit s e (onVector c.opcode) → k < j → allowanceMw s n < estimateAt s c j) →
    ∃ t d, exec (.admissionPass l) s = .next t ∧ cmdGet t c.id = some d ∧ d.phase = .admitted ∧ d.point = k ∧
      (t.gaf.islands.getD e {}).granted = k ∧ t.mem = s.mem ∧ t.array = s.array) ∧
  (∀ (s : State) (cid : Nat) (c : Cmd), cmdGet s cid = some c → queueHead s c.queue = some c → c.id = cid → cmdIsReady s c = true →
    (spaceGet s c.space).pending = none → c.considered = true → islandDead s c = false → bestPoint s c = none →
    exec (.pendingPriority cid) s = .next { s with sp := spaceMod s.sp c.space fun y => { y with pending := some cid } }) ∧
  (∀ (s : State) (cid : Nat) (c : Cmd), cmdGet s cid = some c → (cmdIsReady s c = false ∨ c.considered = false ∨ (spaceGet s c.space).pending ≠ none) →
    exec (.pendingPriority cid) s = .next s) ∧
  (∀ (s : State) (m : Measured), (∀ n, n < 16 → (spaceGet s n).state ≠ 1) → exec (.retune m) s = .next (freeIdle (takeMeasured s m))) ∧
  (∀ (s : State) (m : Measured), s.power.ready = false → (∀ n, n < 16 → (spaceGet s n).state ≠ 1) →
    exec (.retune m) s = .next (freeIdle { s with gaf := { s.gaf with
      mainMv := m.mainMv % 2 ^ 16, stbyMv := m.stbyMv % 2 ^ 16, boardDc := m.boardDc } })) ∧
  (∀ (s : State) (m : Measured) (n e : Nat) (c : Cmd), runs s n e c → estimateAt s c 0 ≤ allowanceMw s n →
    allowanceMw s n < estimateAt s c c.point →
    ∃ t j d, exec (.retune m) s = .next t ∧ j < c.point ∧ cmdGet t c.id = some d ∧ d = { c with point := j, lower := d.lower, pj := d.pj } ∧ estimateAt s c j ≤ allowanceMw s n ∧
      allowanceMw s n < estimateAt s c (j + 1) ∧ (t.gaf.islands.getD e {}).granted = j ∧ (t.gaf.islands.getD e {}).held = false ∧
      (m.mergeErr = [] → t.mem.cells = s.mem.cells) ∧ t.array.tiles = s.array.tiles ∧ t.array.staging = s.array.staging) ∧
  (∀ (s : State) (m : Measured) (n e : Nat) (c : Cmd), runs s n e c → allowanceMw s n < estimateAt s c 0 →
    ∃ t d, exec (.retune m) s = .next t ∧ cmdGet t c.id = some d ∧ d = { c with point := 0, lower := d.lower, pj := d.pj } ∧ (t.gaf.islands.getD e {}).held = true ∧
      (t.gaf.islands.getD e {}).granted = 0 ∧ (m.mergeErr = [] → t.mem.cells = s.mem.cells) ∧ t.array.tiles = s.array.tiles ∧
      t.array.staging = s.array.staging) ∧
  (∀ (s : State) (m : Measured) (n e : Nat) (c : Cmd), runs s n e c → estimateAt s c c.point ≤ allowanceMw s n →
    ∃ t k d, exec (.retune m) s = .next t ∧ cmdGet t c.id = some d ∧ d = { c with point := k, lower := d.lower, pj := d.pj } ∧ c.point ≤ k ∧
      (k = c.point ∨ k ≤ islandLimit s e (onVector c.opcode)) ∧ estimateAt s c k ≤ allowanceMw s n ∧
      (∀ j, k < j → j ≤ islandLimit s e (onVector c.opcode) → allowanceMw s n < estimateAt s c j) ∧ (t.gaf.islands.getD e {}).held = false ∧
      (m.mergeErr = [] → t.mem.cells = s.mem.cells) ∧ t.array.tiles = s.array.tiles ∧ t.array.staging = s.array.staging) ∧
  (∀ (s : State), (isShared s = false ∨ s.rig.active.strict = true) → (s.sp.ctxs.filter (ctxRunnable s)).length ≤ 64 →
    exec .sliceEnd s = .next { s with sp := { s.sp with ctxs := s.sp.ctxs.map fun x => { x with age := x.age + 1 } } }) ∧
  (∀ (s : State), (isShared s = false ∨ s.rig.active.strict = true) → 64 < (s.sp.ctxs.filter (ctxRunnable s)).length →
    (s.sp.ctxs.map (·.id)).Nodup → (∀ x ∈ s.sp.ctxs, x.leaving = false) → (s.sp.ctxs.filter (·.resident)).length ≤ 64 →
    (s.sp.ctxs.filter fun x => !x.resident && ctxRunnable s x).length ≤ 64 → (∀ c ∈ s.sp.cmds, cmdBusy c = false) →
    ∃ t, exec .sliceEnd s = .next t ∧ t.sp.cmds = s.sp.cmds ∧ t.mem = s.mem ∧ t.array = s.array ∧
      ∀ x ∈ s.sp.ctxs, x.resident = false → ctxRunnable s x = true → ∃ y ∈ t.sp.ctxs, y.id = x.id ∧ y.resident = true) ∧
  (∀ (s : State) (n e : Nat) (q : Queue) (c : Cmd) (x : Ctx), one s n q c x → isShared s = true → engineOf s c = some e →
    cmdIsReady s c = true → (s.array.engines.getD e {}).holder ≠ some n → (s.array.engines.getD e {}).written = false →
    s.array.images = [] → (s.gaf.islands.getD e {}).asleep = false → s.array.engines.length = 64 →
    ∃ t, exec .sliceEnd s = .next t ∧ (t.array.engines.getD e {}).holder = some n ∧ t.gaf.handovers = satAdd 32 s.gaf.handovers 1 ∧
      t.sp.cmds = s.sp.cmds ∧ t.mem = s.mem) ∧
  (∀ (s : State) (n : Nat), (s.rig.active.strict = false ∨ nextWindow s ≠ some n) → exec (.strictWindowStart n) s = .next s) ∧
  (∀ (s : State) (n : Nat), s.rig.active.strict = true → nextWindow s = some n → settled s → s.keys.waiting = [] → s.ciph.waiting = [] →
    (∀ c ∈ s.sp.cmds, c.space = n ∨ c.opcode ≠ 0x10 ∨ c.phase ≠ .admitted) →
    ((spaceGet s n).state ≠ 1 ∨ ∀ e ∈ slotEngines s n, (s.array.engines.getD e {}).holder = some n) →
    exec (.strictWindowStart n) s = .next { s with gaf := { s.gaf with window := n } }) ∧
  (∀ (s t : State) (n link : Nat) (p : Packet) (ok : Bool) (be : BufErr), s.rig.active.strict = true → nextWindow s = some n →
    s.sp.cmds = [] → (spaceGet s n).state ≠ 1 → s.keys.waiting = [] → s.ciph.waiting = [.requestReceive link p ok be] →
    t = { s with gaf := { s.gaf with window := n } } → requestWaits t link p = false →
    exec (.strictWindowStart n) s = .next (settle (rowsGo (requestAnswer { t with ciph := { t.ciph with waiting := [] } } link p)))) ∧
  (∀ (s : State) (n e : Nat), s.rig.active.strict = true → nextWindow s = some n → (spaceGet s n).state = 1 → settled s →
    s.keys.waiting = [] → s.ciph.waiting = [] → s.sp.cmds = [] → s.array.rush = [] → s.array.images = [] → slotEngines s n = [e] →
    s.array.engines.length = 64 → (s.array.engines.getD e {}).holder ≠ some n → (s.array.engines.getD e {}).written = false →
    (s.gaf.islands.getD e {}).asleep = false →
    ∃ t, exec (.strictWindowStart n) s = .next t ∧ t.gaf.window = n ∧ (t.array.engines.getD e {}).holder = some n ∧
      t.gaf.handovers = satAdd 32 s.gaf.handovers 1 ∧ (∀ i, i < 2 ^ 20 → smGet 0 t.array.tiles (e * 2 ^ 20 + i) = 0) ∧
      (∀ i, i < 2 ^ 23 → smGet 0 t.array.staging (e * 2 ^ 23 + i) = 0) ∧ t.mem = s.mem ∧ t.sp = s.sp) ∧
  (∀ (s : State) (n : Nat), (s.power.ready = false ∨ (s.gaf.islands.getD n {}).asleep = true ∨ (64 ≤ n ∧ n < 72) ∨ 120 ≤ n ∨
    (n < 64 ∧ (s.gaf.idleUs = 0 ∨ engineIdle s n = false)) ∨ (72 ≤ n ∧ (linkOf s (n - 72)).state ≠ 3)) → exec (.islandSleep n) s = .next s) ∧
  (∀ (s : State) (n : Nat), s.power.ready = true → n < 64 → (s.gaf.islands.getD n {}).asleep = false → s.gaf.idleUs ≠ 0 →
    engineIdle s n = true → (s.gaf.islands.getD n {}).stopped = false → (s.array.engines.getD n {}).written = false →
    s.gaf.islands.length = 125 →
    ∃ t, exec (.islandSleep n) s = .next t ∧ (t.gaf.islands.getD n {}).asleep = true ∧ t.gaf.sleeps = satAdd 32 s.gaf.sleeps 1 ∧
      (∀ i, i < 2 ^ 20 → smGet 0 t.array.tiles (n * 2 ^ 20 + i) = 0) ∧
      (∀ i, i < 2 ^ 23 → smGet 0 t.array.staging (n * 2 ^ 23 + i) = 0) ∧ t.mem = s.mem ∧ t.sp = s.sp) ∧
  (∀ (s : State) (n : Nat), s.power.ready = true → 72 ≤ n → n < 120 → (s.gaf.islands.getD n {}).asleep = false →
    (linkOf s (n - 72)).state = 3 → s.gaf.islands.length = 125 →
    ∃ t, exec (.islandSleep n) s = .next t ∧ (t.gaf.islands.getD n {}).asleep = true ∧ t.gaf.sleeps = satAdd 32 s.gaf.sleeps 1 ∧
      t.mem = s.mem ∧ t.array = s.array ∧ t.sp = s.sp)

/-- Nothing is powered, READY is low, and no command waits. GAF_BUDGET holds 2,000 W, GAF_SLICE 2,000 µs and 20 ms, GAF_SLEEP 1,000 µs, as
their tables say. No session is up and no port holds the management lock; no space, command or fence exists; every key slot is zeroized;
the error log is empty and its next entry is number 1. The state has the shape and the canonical memory that every step keeps. That memory
that nothing has written reads 0 is the model's choice (log entry 1). -/
def Obligations.ResetValues : Prop :=
  State.reset.pending = [] ∧ State.reset.power.ready = false ∧ State.reset.power.bypAOpen = false ∧ State.reset.power.bypBOpen = false ∧
    State.reset.power.stbyValid = false ∧ (regRead State.reset 0x020000).2 = 2000 ∧ State.reset.gaf.sliceUs = 2000 ∧
    State.reset.gaf.frameMs = 20 ∧ State.reset.gaf.idleUs = 1000 ∧ State.reset.lmx.a.session = 0 ∧ State.reset.lmx.b.session = 0 ∧
    State.reset.lmx.lock = 0 ∧ State.reset.sp.cmds = [] ∧ State.reset.sp.fences = [] ∧ (∀ n, (spaceGet State.reset n).state = 0) ∧
    (∀ k ∈ State.reset.keys.slots, k = {}) ∧ State.reset.err.entries = [] ∧ State.reset.err.nextSeq = 1 ∧
    (∀ a, memByte State.reset a = 0) ∧ shaped State.reset ∧ canonical State.reset

/-- For every state whose queue is c followed by rest, well formed or not, one step answers a next state whose queue is rest: no command is
lost, repeated or put in front of another, none ends the run, and none adds a command to the queue. A queue of k commands is therefore
empty after k steps, none of which faults or refuses. -/
def Obligations.EveryStepTakesOneCommand : Prop :=
  (∀ (s : State) (c : Instr) (rest : List Instr), s.pending = c :: rest → ∃ t, step s = .next t ∧ t.pending = rest) ∧
  (∀ (s : State), ∃ t, core.run s.pending.length s = .next t ∧ t.pending = [])

/-- Whatever command a step takes, if the maps that hold main memory's bytes, the lines' faults and the unit counters, the engines' staging
bytes and tiles, and the rig and debug buffers are in canonical form (keys strictly rising, nothing listed that equals what an unlisted
key reads as), they are so after it. Two memories that read alike are then equal data. -/
def Obligations.EveryStepKeepsMemoryCanonical : Prop :=
  ∀ s t : State, canonical s → step s = .next t → canonical t

/-- Whatever command a step takes, if the state holds 64 engines, 125 clock islands, 48 fabric links, 16 space slots, 256 key slots, 8 party
channels and 33 ranges (32 and the hold), and 8 life-cycle records, it holds as many after it. The statements that index one of these
assume the count; it holds at reset. -/
def Obligations.EveryStepKeepsTheShape : Prop :=
  ∀ s t : State, shaped s → step s = .next t → shaped t

/-- For every code of the four formats with infinities: a code that is not a NaN, converted from its exact value, is that code again, and no
event is set; a NaN converts to the canonical quiet NaN of the format: 0x7FC00000, 0x7FC0, 0x7E00 and 0x7E. The same holds of every finite
code of the formats without infinities (E4M3, E3M2, E2M3, E2M1, L4) and of the integer formats I8, I4 and I2. -/
def Obligations.NumberFormatsDecodeAndEncode : Prop :=
  (∀ c : BitVec 32, ofF32 c ≠ .nan → toF32 (ofF32 c) = c) ∧ (∀ c : BitVec 32, ofF32 c = .nan → toF32 (ofF32 c) = 0x7FC00000#32) ∧
  (∀ (f : Fmt × Nat × Nat) (c : Nat), f ∈ [(Fmt.f32, 8, 23), (.bf16, 8, 7), (.f16, 5, 10), (.e5m2, 5, 2)] → c < 2 ^ fmtWidth f.1 →
    decodeElem f.1 [] c ≠ .nan → convIeee f.2.1 f.2.2 (decodeElem f.1 [] c) = ⟨c, 0⟩) ∧
  (∀ (f : (Fmt × Nat × Nat) × Nat) (c : Nat), f ∈ [((Fmt.f32, 8, 23), 0x7FC00000), ((.bf16, 8, 7), 0x7FC0), ((.f16, 5, 10), 0x7E00), ((.e5m2, 5, 2), 0x7E)] →
    decodeElem f.1.1 [] c = .nan → (convIeee f.1.2.1 f.1.2.2 (decodeElem f.1.1 [] c)).code = f.2) ∧
  (∀ (f : Fmt × Nat × Nat × Int) (c : Nat), f ∈ [(Fmt.e4m3, 4, 3, 7), (.e3m2, 3, 2, 3), (.e2m3, 2, 3, 1), (.e2m1, 2, 1, 1)] →
    c < 2 ^ fmtWidth f.1 → decodeElem f.1 [] c ≠ .nan → convSmall f.1 f.2.1 f.2.2.1 f.2.2.2 false (decodeElem f.1 [] c) = ⟨c, 0⟩) ∧
  (∀ c < 256, convInt 8 (-128) 127 (decodeElem .i8 [] c) = ⟨c, 0⟩) ∧ (∀ c < 16, convInt 4 (-8) 7 (decodeElem .i4 [] c) = ⟨c, 0⟩) ∧
  (∀ c < 4, convInt 2 (-2) 1 (decodeElem .i2 [] c) = ⟨c, 0⟩) ∧ (∀ c < 16, convL4 (decodeElem .l4 [] c) = ⟨c, 0⟩)

/-- Bit 3 of an L4 code is the sign; magnitude code 0 in bits [2:0] is a zero of that sign, and magnitude code c from 1 to 7 is 2^(c − 4), so
that code 1 is 0.125, code 4 is 1 and code 7 is 8. Every code is finite. -/
def Obligations.L4Codes : Prop :=
  ∀ (cb : List Nat) (s : Bool) (c : Nat), c < 8 →
    decodeElem .l4 cb ((if s then 8 else 0) + c) = (if c = 0 then .fin s 0 0 else .fin s 1 ((c : Int) - 4)) ∧
    numIsFin (decodeElem .l4 cb ((if s then 8 else 0) + c)) = true

/-- A keyed direction closes a burst when 4,096 bytes are queued or 1 to 4,096 bytes have been idle for 8 cycles; its data is padded with
zeros to 64 bytes (the model's choice, log entry 85). Below sequence number 2^62 it takes the next number and is kept until acknowledged;
at 2^62 or above it is held. A received burst whose tag verifies releases its bytes and is no longer kept; a failing tag releases nothing
and counts a resend of its Reel's bridge; the third failure in a row of one burst is a strike with cause 8. At 2^62 or above
BRIDGE_KEY_RENEW gives the direction a newly drawn key: with no burst held it starts at 0 again, and held bursts are sent from 0 in their
order. The other directions stay. -/
def Obligations.BridgeBurstsResendOrStrike : Prop :=
  (∀ (s : State) (d : BridgeDir) (data : List Byte) (idle : Nat), dirNum d < s.bridges.length → (bridgeOf s d).keyed = true →
    (bridgeOf s d).seq < 2 ^ 62 → 0 < data.length → data.length ≤ 4096 → (data.length = 4096 ∨ 8 ≤ idle) →
    ∃ t, exec (.bridgeBurstClose d data idle) s = .next t ∧ (bridgeOf t d).seq = (bridgeOf s d).seq + 1 ∧
      (bridgeOf t d).unacked =
        (bridgeOf s d).unacked ++ [⟨(bridgeOf s d).seq, data ++ List.replicate (64 - data.length) 0, 0⟩] ∧
      (bridgeOf t d).key = (bridgeOf s d).key ∧ ∀ e, e ≠ d → bridgeOf t e = bridgeOf s e) ∧
  (∀ (s : State) (d : BridgeDir) (data : List Byte) (idle : Nat), dirNum d < s.bridges.length → (bridgeOf s d).keyed = true →
    2 ^ 62 ≤ (bridgeOf s d).seq → 0 < data.length → data.length ≤ 4096 → (data.length = 4096 ∨ 8 ≤ idle) →
    ∃ t, exec (.bridgeBurstClose d data idle) s = .next t ∧ (bridgeOf t d).seq = (bridgeOf s d).seq ∧
      (bridgeOf t d).held = (bridgeOf s d).held ++ [data ++ List.replicate (64 - data.length) 0] ∧
      (bridgeOf t d).unacked = (bridgeOf s d).unacked ∧ ∀ e, e ≠ d → bridgeOf t e = bridgeOf s e) ∧
  (∀ (s : State) (d : BridgeDir) (n : Nat) (x : Burst), dirNum d < s.bridges.length →
    (bridgeOf s d).unacked.find? (fun y => y.seq == n) = some x →
    ∃ t, exec (.bridgeBurstReceive d n true) s = .next t ∧
      (bridgeOf t d).delivered = (bridgeOf s d).delivered ++ x.data ∧ (∀ y ∈ (bridgeOf t d).unacked, y.seq ≠ n) ∧
      t.keys = s.keys ∧ t.err = s.err) ∧
  (∀ (s : State) (d : BridgeDir) (n : Nat) (x : Burst), dirNum d < s.bridges.length →
    (bridgeOf s d).unacked.find? (fun y => y.seq == n) = some x → x.fails + 1 < 3 →
    ∃ t, exec (.bridgeBurstReceive d n false) s = .next t ∧ (bridgeOf t d).delivered = (bridgeOf s d).delivered ∧
      t.keys = s.keys ∧ (dirReel d = 0 → t.err.resendA = satAdd 32 s.err.resendA 1) ∧
      (dirReel d ≠ 0 → t.err.resendB = satAdd 32 s.err.resendB 1)) ∧
  (∀ (s : State) (d : BridgeDir) (n : Nat) (x : Burst), (bridgeOf s d).unacked.find? (fun y => y.seq == n) = some x →
    2 ≤ x.fails →
    ∃ t, exec (.bridgeBurstReceive d n false) s = .next t ∧ isStruck t ∧ t.keys.strikeCause = 8) ∧
  (∀ (s : State) (d : BridgeDir), dirNum d < s.bridges.length → (bridgeOf s d).keyed = true → 2 ^ 62 ≤ (bridgeOf s d).seq →
    (bridgeOf s d).held.length < 2 ^ 62 → s.keys.entropyOk = true →
    ∃ t, exec (.bridgeKeyRenew d) s = .next t ∧ (bridgeOf t d).key = drawAt s 0 ∧ t.draws = s.draws + 1 ∧
      (bridgeOf t d).held = [] ∧ (bridgeOf t d).seq = (bridgeOf s d).held.length ∧
      (bridgeOf t d).unacked.map (·.data) = (bridgeOf s d).unacked.map (·.data) ++ (bridgeOf s d).held ∧
      ∀ e, e ≠ d → bridgeOf t e = bridgeOf s e)

/-- Over a session that may write, while no check or change runs: a pointer write keeps a multiple of 8 up to 512 KiB; a data write stores 8
bytes at the pointer and moves it on; at 512 KiB it stores nothing and marks an overrun; a length write keeps 20 bits; each leaves the
state LOADING and drops any verified rig. While one runs each of them, and VERIFY, replies BUSY and changes last_status alone. DISCARD
while no change runs empties the buffer, its pointer and length, and clears the mark (the model's choice, log entry 86); during a change
it replies BUSY. Nothing else changes but the management reply. -/
def Obligations.RigBufferIsLoaded : Prop :=
  (∀ (s : State) (p : Port) (tag : Nat) (v : Word), mayWrite s p → rigBusy s = false →
    exec (.rigBufPtrWrite p tag v) s = .next (mgmtReply { s with rig := { s.rig with
      ptr := min (v.toNat % 2 ^ 20 / 8 * 8) 524288, state := .loading, staged := none, stagedDigest := 0 } } p tag .ok [])) ∧
  (∀ (s : State) (p : Port) (tag : Nat) (v : Word), mayWrite s p → rigBusy s = false → s.rig.ptr < 524288 →
    exec (.rigBufDataWrite p tag v) s = .next (mgmtReply { s with rig := { s.rig with
      buf := putBytes s.rig.buf s.rig.ptr (natLe 8 v.toNat), ptr := min (s.rig.ptr + 8) 524288
      state := .loading, staged := none, stagedDigest := 0 } } p tag .ok [])) ∧
  (∀ (s : State) (p : Port) (tag : Nat) (v : Word), mayWrite s p → rigBusy s = false → 524288 ≤ s.rig.ptr →
    exec (.rigBufDataWrite p tag v) s = .next (mgmtReply { s with rig := { s.rig with
      overrun := true, state := .loading, staged := none, stagedDigest := 0 } } p tag .ok [])) ∧
  (∀ (s : State) (p : Port) (tag : Nat) (v : Word), mayWrite s p → rigBusy s = false →
    exec (.rigBufLenWrite p tag v) s = .next (mgmtReply { s with rig := { s.rig with
      len := v.toNat % 2 ^ 20, state := .loading, staged := none, stagedDigest := 0 } } p tag .ok [])) ∧
  (∀ (s : State) (p : Port) (tag : Nat) (v : Word) (c : Instr), mayWrite s p → rigBusy s = true →
    (c = .rigBufPtrWrite p tag v ∨ c = .rigBufDataWrite p tag v ∨ c = .rigBufLenWrite p tag v ∨ c = .verify p tag) →
    exec c s = .next (mgmtReply { s with rig := { s.rig with lastStatus := .busy } } p tag .busy [])) ∧
  (∀ (s : State) (p : Port) (tag : Nat), mayWrite s p → s.rig.state = .committing →
    exec (.discard p tag) s = .next (mgmtReply { s with rig := { s.rig with lastStatus := .busy } } p tag .busy [])) ∧
  (∀ (s : State) (p : Port) (tag : Nat), mayWrite s p → s.rig.state ≠ .committing →
    exec (.discard p tag) s = .next (mgmtReply { s with rig := { s.rig with
      state := .empty, buf := [], ptr := 0, len := 0, overrun := false, staged := none, stagedDigest := 0, lastStatus := .ok } }
      p tag .ok []))

/-- VERIFY starts a check; RIG_VERIFY_DONE ends it VERIFIED with the digest of the rig found good, or REJECTED with the reason found, and the
active rig, keys and memory stay. COMMIT replies BUSY and changes last_status alone where no verified rig is staged, a space exists (one
that is being created counts, the model's choice, log entry 87), a TEST_OPEN session runs, a rotation walks, or too few key slots are free
for the rig (R346); with none of these it replies OK: the state is COMMITTING with the old rig still active, and the key slots of every
range that changes are zeroized. RIG_REFILL_DONE, with a healthy entropy source and no request waiting, then makes the staged rig the
active one; fuses and life-cycle state stay. -/
def Obligations.RigChangesOnlyThroughCommit : Prop :=
  (∀ (s : State) (p : Port) (tag : Nat), mayWrite s p → rigBusy s = false →
    exec (.verify p tag) s = .next (mgmtReply { s with rig := { s.rig with
      state := .verifying, staged := none, stagedDigest := 0, reason := 0, signer := 0, lastStatus := .ok } } p tag .ok [])) ∧
  (∀ s : State, s.rig.state = .verifying →
    ∃ t, exec .rigVerifyDone s = .next t ∧ t.rig.active = s.rig.active ∧ t.keys = s.keys ∧ t.mem = s.mem ∧
      match rigCheck s with
      | .good r => t.rig.state = .verified ∧ t.rig.staged = some r ∧ t.rig.stagedDigest = r.digest ∧ t.rig.lastStatus = .ok ∧ t.err = s.err
      | .bad reason signer => t.rig.state = .rejected ∧ t.rig.staged = none ∧ t.rig.reason = reason ∧ t.rig.signer = signer ∧
          t.rig.lastStatus = .rigMismatch) ∧
  (∀ (s : State) (p : Port) (tag : Nat), mayWrite s p →
    (s.rig.state ≠ .verified ∨ (∃ x ∈ s.sp.slots, x.state ≠ 0) ∨ s.lc.testOpen = true ∨
      (∃ k ∈ s.ciph.ranges, k.walk = 2) ∨ ∃ new, s.rig.staged = some new ∧ slotsShort s new = true) →
    exec (.commit p tag) s = .next (mgmtReply { s with rig := { s.rig with lastStatus := .busy } } p tag .busy [])) ∧
  (∀ (s : State) (p : Port) (tag : Nat) (new : Rig), mayWrite s p → commitBusy s = false → s.rig.staged = some new →
    ∃ u, exec (.commit p tag) s = .next (mgmtReply u p tag .ok []) ∧ u.rig.state = .committing ∧ u.rig.next = some new ∧
      u.rig.active = s.rig.active ∧ ∀ i ∈ lostSlots s new, (u.keys.slots.getD i {}).valid = false) ∧
  (∀ (s : State) (new : Rig), s.rig.state = .committing → s.rig.next = some new → s.keys.entropyOk = true → s.keys.waiting = [] →
    ∃ t, exec .rigRefillDone s = .next t ∧ t.rig.active = new ∧ t.rig.next = none ∧ t.rig.state = .empty ∧ t.lc = s.lc)

/-- An admitted MATMUL whose feeders are not stopped and whose checks pass, with no uncorrectable SRAM word met: it completes OK or
OK_WITH_EVENTS with its product computed (mmCompute, after the SRAM words met are counted); main memory, keys, the cipher and every other
engine's accumulators stay, and without an epilogue all staging stays. One whose checks fail completes with the check's status, and the
array (its accumulators and staging), memory and keys stay. -/
def Obligations.MatmulWritesItsEngineOnly : Prop :=
  (∀ (s : State) (cid overlap : Nat) (e : SramErr) (c : Cmd) (b : MmBody) (fa fb : FmtWord), cmdReady s cid 0x10 = some c →
    feedersStopped s (fld (cmdBody c) 0 6) = false → b = mmBody (cmdBody c) → mmCheck s c.space b = none →
    b.fa = some fa → b.fb = some fb → sramBad e = false →
    ∃ t, exec (.matmul cid e overlap) s = .next t ∧ t = mmCompute (sramCount s b.engine e) c b fa fb {} overlap ∧
      endsOk t cid ∧ t.mem = s.mem ∧ t.keys = s.keys ∧ t.ciph = s.ciph ∧
      (∀ k, k / 2 ^ 20 ≠ b.engine → smGet 0 t.array.tiles k = smGet 0 s.array.tiles k) ∧
      (b.epi = 0 → t.array.staging = s.array.staging)) ∧
  (∀ (s : State) (cid overlap : Nat) (e : SramErr) (c : Cmd) (st : Status), cmdReady s cid 0x10 = some c →
    feedersStopped s (fld (cmdBody c) 0 6) = false → mmCheck s c.space (mmBody (cmdBody c)) = some st →
    ∃ t, exec (.matmul cid e overlap) s = .next t ∧ endsWith t cid st ∧ t.array = s.array ∧ t.mem = s.mem ∧ t.keys = s.keys)

/-- An admitted MATMUL, its feeders not stopped, that passes its checks with K = 0, accumulate clear and no epilogue, with no uncorrectable
SRAM word met, completes with status OK, and each of its M by N output elements reads as the word 0. -/
def Obligations.EmptyProductIsPlusZero : Prop :=
  ∀ (s : State) (cid overlap : Nat) (e : SramErr) (c : Cmd) (b : MmBody) (fa fb : FmtWord), cmdReady s cid 0x10 = some c →
    feedersStopped s (fld (cmdBody c) 0 6) = false → b = mmBody (cmdBody c) → mmCheck s c.space b = none →
    b.fa = some fa → b.fb = some fb → sramBad e = false → b.k = 0 → b.acc = false → b.epi = 0 →
    ∃ t, exec (.matmul cid e overlap) s = .next t ∧ endsWith t cid .ok ∧
      ∀ i j, i < b.m → j < b.n → tileGet t (bandAt s b.engine b.band) b.base i j = 0

/-- A pre-empted MATMUL whose context is resident, whose engine is its space's and whose band runs no other MATMUL gets its band back, its
queue's grip running and its engine checking no reference: where the band's outgoing contents are saved and its image is read, it goes on
from its saved progress and completes OK or OK_WITH_EVENTS; where its image cannot be read it ends MEM_UNCORRECTABLE, where its engine is
marked failed WATCHDOG. A band's watchdog, its feeders running, ends the band's command with WATCHDOG and sets the band's bit; memory
stays. A finished rushes check of a command that has ended, whose deviations are all in bin 0, drops the command's jobs, sets its
reference engines' tiles to +0 and leaves all other tiles, memory and, with no threshold of 0, every command as it was. A write of 1 to
MXE_CNT_CLEAR zeroes the engine's counters and nothing else. A grip's watchdog, the grip not halted, no collective on it and nothing else
to follow, leaves no queue on the grip, no command of its queues running, and counts. -/
def Obligations.MatrixArrayEvents : Prop :=
  (∀ (s u v : State) (cid overlap : Nat) (e : SramErr) (c : Cmd) (i : Image) (b : MmBody) (fa fb : FmtWord), cmdGet s cid = some c → c.phase = .preempted →
    c.opcode = 0x10 → (ctxGet s c.ctx).any (·.resident) = true → engineOurs s c.space (fld (cmdBody c) 0 6) = true →
    feedersStopped s (fld (cmdBody c) 0 6) = false → bandCmd s (fld (cmdBody c) 0 6) (fld (cmdBody c) 6 3) = none →
    gripHalted s c.queue = false → refEngine s (fld (cmdBody c) 0 6) = false → s.err.islFailed.getLsbD b.engine = false →
    (s.array.images.find? fun x => x.cid == some c.id) = some i → b = mmBody (cmdBody c) →
    bandSwitch s (bandAt s b.engine b.band) c.ctx = some (u, true) →
    v = { u with
      array := { u.array with images := u.array.images.filter fun y => y.cid != some c.id }
      sp := cmdMod u.sp c.id fun y => { y with phase := .admitted } } →
    sramBad e = false → b.fa = some fa → b.fb = some fb → mmCheck v c.space b = none →
    ∃ t, exec (.matmulResume cid e overlap) s = .next t ∧ endsOk t cid ∧
      t = mmCompute (sramCount v b.engine e) { c with phase := .admitted } b fa fb i.progress overlap) ∧
  (∀ (s u : State) (cid overlap : Nat) (e : SramErr) (c : Cmd) (i : Image) (b : MmBody), cmdGet s cid = some c → c.phase = .preempted →
    c.opcode = 0x10 → (ctxGet s c.ctx).any (·.resident) = true → engineOurs s c.space (fld (cmdBody c) 0 6) = true →
    feedersStopped s (fld (cmdBody c) 0 6) = false → bandCmd s (fld (cmdBody c) 0 6) (fld (cmdBody c) 6 3) = none →
    gripHalted s c.queue = false → refEngine s (fld (cmdBody c) 0 6) = false → s.err.islFailed.getLsbD b.engine = false →
    (s.array.images.find? fun x => x.cid == some c.id) = some i → b = mmBody (cmdBody c) →
    (s.array.images.find? fun x => x.ctx == some c.ctx && x.engine == b.engine && x.band == b.band && !x.loaded) = some i →
    bandSwitch s (bandAt s b.engine b.band) c.ctx = some (u, false) →
    exec (.matmulResume cid e overlap) s = .next u ∧ endsWith u cid .memUncorrectable) ∧
  (∀ (s : State) (cid overlap : Nat) (e : SramErr) (c : Cmd) (i : Image) (b : MmBody), cmdGet s cid = some c → c.phase = .preempted →
    c.opcode = 0x10 → (ctxGet s c.ctx).any (·.resident) = true → engineOurs s c.space (fld (cmdBody c) 0 6) = true →
    feedersStopped s (fld (cmdBody c) 0 6) = false → bandCmd s (fld (cmdBody c) 0 6) (fld (cmdBody c) 6 3) = none →
    gripHalted s c.queue = false → refEngine s (fld (cmdBody c) 0 6) = false → b = mmBody (cmdBody c) →
    s.err.islFailed.getLsbD b.engine = true → (s.array.images.find? fun x => x.cid == some c.id) = some i →
    ∃ t, exec (.matmulResume cid e overlap) s = .next t ∧ endsWith t cid .watchdog ∧ t.mem = s.mem ∧ t.array.tiles = s.array.tiles) ∧
  (∀ (s : State) (engine band : Nat) (c : Cmd), bandCmd s engine band = some c → cmdGet s c.id = some c →
    feedersStopped s engine = false → engine < s.array.engines.length → band < 8 →
    ∃ t, exec (.bandWatchdog engine band) s = .next t ∧ endsWith t c.id .watchdog ∧
      (t.array.engines.getD engine {}).wdog.getLsbD band = true ∧ t.mem = s.mem) ∧
  (∀ (s : State) (cid : Nat), (cmdGet s cid).any cmdLive = false →
    (∀ j ∈ s.array.rush, j.cid = cid → ∀ v ∈ j.vals, rushBin (ofF32 v.1) (ofF32 v.2) = 0) →
    ∃ t, exec (.rushesCheckDone cid) s = .next t ∧ (∀ j ∈ t.array.rush, j.cid ≠ cid) ∧
      (∀ k, (∀ j ∈ s.array.rush, j.cid = cid → k / 2 ^ 20 ≠ j.refEngine) → smGet 0 t.array.tiles k = smGet 0 s.array.tiles k) ∧
      (∀ k, (∃ j ∈ s.array.rush, j.cid = cid ∧ k / 2 ^ 20 = j.refEngine) → smGet 0 t.array.tiles k = 0) ∧
      t.mem = s.mem ∧ ((∀ c r, cmdGet s cid = some c → c.rush = some r → 1 ≤ r.1.thresh) → t.sp.cmds = s.sp.cmds)) ∧
  (∀ (s : State) (p : Port) (tag engine : Nat) (v : Word), mayWrite s p → v.getLsbD 0 = true →
    exec (.mxeCntClear p tag engine v) s = .next (mgmtReply { s with array := { s.array with
      engines := s.array.engines.modify engine fun e => { e with
        macs := 0, cycStream := 0, cycLoad := 0, cycFill := 0, cycPort := 0, cycIdle := 0
        stgCorr := 0, stgUnc := 0, accCorr := 0, accUnc := 0 } } } p tag .ok [])) ∧
  (∀ (s : State) (g : Nat), g < 80 → ¬ g ∈ s.gaf.haltedGrips → quiet s → (∀ c ∈ s.sp.cmds, isCollective c = false) →
    ∃ t, exec (.gripWatchdog g) s = .next t ∧ t.err.gripResets = satAdd 32 s.err.gripResets 1 ∧
      (∀ q ∈ t.sp.queues, q.grip ≠ g) ∧
      (∀ d ∈ t.sp.cmds, (∃ q ∈ s.sp.queues, q.idx = d.queue ∧ q.grip = g) → cmdRunning d = false))

/-- Each, admitted, with its checks passed and no uncorrectable SRAM word met, computes its output (vecGo, quantGo, randGo), completes OK or
OK_WITH_EVENTS and leaves main memory and key slots alone; QUANTIZE and RANDOM leave every accumulator, VECTOR leaves all accumulators
when its output is in staging and all staging when its output is in tiles. RANDOM needs a KDF key slot that serves its space. One whose
check fails completes with the check's status and changes nothing else. RANDOM whose key slot does not serve its space completes
KEY_ABSENT. -/
def Obligations.VectorUnitCommands : Prop :=
  (∀ (s : State) (cid : Nat) (e : SramErr) (c : Cmd), cmdReady s cid 0x20 = some c →
    vecCheck s c.space (vecBody (cmdBody c)) = none → sramBad e = false →
    ∃ t, exec (.vector cid e) s = .next t ∧ endsOk t cid ∧
      t = vecGo (holdRead (sramCount s (vecBody (cmdBody c)).engine e) c.ctx
        (bandAt s (vecBody (cmdBody c)).engine (vecBody (cmdBody c)).band) (vecReads (vecBody (cmdBody c))).1
        (vecReads (vecBody (cmdBody c))).2) c (vecBody (cmdBody c)) ∧
      t.mem = s.mem ∧ t.keys = s.keys ∧
      ((vecBody (cmdBody c)).o.tile = false → t.array.tiles = s.array.tiles) ∧
      ((vecBody (cmdBody c)).o.tile = true → t.array.staging = s.array.staging)) ∧
  (∀ (s : State) (cid : Nat) (e : SramErr) (c : Cmd) (st : Status), cmdReady s cid 0x20 = some c →
    vecCheck s c.space (vecBody (cmdBody c)) = some st →
    exec (.vector cid e) s = .next (cmdEnd s cid (resultOf st))) ∧
  (∀ (s : State) (cid : Nat) (e : SramErr) (c : Cmd) (fo : FmtWord), cmdReady s cid 0x21 = some c →
    quantCheck s c.space (quantBody (cmdBody c)) = none → (quantBody (cmdBody c)).fo = some fo → sramBad e = false →
    ∃ t, exec (.quantize cid e) s = .next t ∧ endsOk t cid ∧
      t = quantGo (holdRead (sramCount s (quantBody (cmdBody c)).engine e) c.ctx
        (bandAt s (quantBody (cmdBody c)).engine (quantBody (cmdBody c)).band)
        (!(quantBody (cmdBody c)).src.tile || fo.fmt == .c4) (quantBody (cmdBody c)).src.tile) c (quantBody (cmdBody c)) fo ∧
      t.mem = s.mem ∧ t.keys = s.keys ∧ t.array.tiles = s.array.tiles) ∧
  (∀ (s : State) (cid : Nat) (e : SramErr) (c : Cmd) (st : Status), cmdReady s cid 0x21 = some c →
    quantCheck s c.space (quantBody (cmdBody c)) = some st →
    exec (.quantize cid e) s = .next (cmdEnd s cid (resultOf st))) ∧
  (∀ (s : State) (cid : Nat) (e : SramErr) (c : Cmd) (st : Status), cmdReady s cid 0x22 = some c →
    randCheck s c.space (randBody (cmdBody c)) = some st →
    exec (.random cid e) s = .next (cmdEnd s cid (resultOf st))) ∧
  (∀ (s : State) (cid : Nat) (e : SramErr) (c : Cmd) (k : State × W256), cmdReady s cid 0x22 = some c →
    randCheck s c.space (randBody (cmdBody c)) = none →
    kdfAllowed s c.space (s.keys.slots.getD (randBody (cmdBody c)).slot {}) = true → sramBad e = false →
    k = stepKeyGet (holdRead (sramCount s (randBody (cmdBody c)).engine e) c.ctx
      (bandAt s (randBody (cmdBody c)).engine (randBody (cmdBody c)).band) ((randBody (cmdBody c)).mode == 2) false)
      (randBody (cmdBody c)).slot (randBody (cmdBody c)).step →
    ∃ t, exec (.random cid e) s = .next t ∧ endsOk t cid ∧ t = randGo k.1 c (randBody (cmdBody c)) k.2 ∧
      t.mem = s.mem ∧ t.keys.slots = s.keys.slots ∧ t.array.tiles = s.array.tiles) ∧
  (∀ (s : State) (cid : Nat) (e : SramErr) (c : Cmd), cmdReady s cid 0x22 = some c →
    randCheck s c.space (randBody (cmdBody c)) = none →
    kdfAllowed s c.space (s.keys.slots.getD (randBody (cmdBody c)).slot {}) = false →
    exec (.random cid e) s = .next (cmdEnd s cid (resultOf .keyAbsent)))

/-- Of each, admitted, none of the memory it names being filled. RED_INIT with a good header, a 64-byte aligned target and allowed addresses,
the write succeeding, writes the header line and zero elements over its target and completes OK; with a reserved bit, a bad width or an
unaligned target it completes BAD_DESCRIPTOR and changes nothing else. RED_ADD from memory whose checks pass adds its elements one by one;
where every access succeeds it completes OK or OK_WITH_EVENTS. RED_READ whose checks pass and whose accesses succeed does too: each
element is read, reset if clear is set, and written out. -/
def Obligations.ReductionTargets : Prop :=
  (∀ (s : State) (cid : Nat) (c : Cmd) (b : RedInit), cmdServed s cid 0x14 redInitNames = some c → redInitBody (cmdBody c) = b →
    b.resv = 0 → b.tgt % 64 = 0 → ewOk b.hdr.ofr b.hdr.ew = true → modeAllowed s b.hdr = true →
    spansCheck s c 0 [] [(b.tgt, redSize b.hdr)] = none →
    (writeSpace s c b.tgt (redHeaderBytes b.hdr ++ List.replicate (redSize b.hdr - 64) 0)).status = .ok →
    ∃ t, exec (.redInit cid) s = .next t ∧ endsWith t cid .ok ∧
      t.mem = (writeSpace s c b.tgt (redHeaderBytes b.hdr ++ List.replicate (redSize b.hdr - 64) 0)).st.mem) ∧
  (∀ (s : State) (cid : Nat) (c : Cmd) (b : RedInit), cmdServed s cid 0x14 redInitNames = some c → redInitBody (cmdBody c) = b →
    (b.resv ≠ 0 ∨ b.tgt % 64 ≠ 0 ∨ ewOk b.hdr.ofr b.hdr.ew = false ∨ modeAllowed s b.hdr = false) →
    exec (.redInit cid) s = .next (cmdEnd s cid (resultOf .badDescriptor))) ∧
  (∀ (s u v : State) (cid : Nat) (e : SramErr) (c : Cmd) (b : RedAdd) (hd : RedHeader) (reads : List (Nat × Nat)),
    cmdServed s cid 0x15 redAddNames = some c → redAddBody (cmdBody c) = b → redAddStatic b = true → b.mem = true →
    reads = rowSpans b.src b.pitch (b.n * redSrcWidth b) b.m → redHeader s c b.tgt reads = (u, .ok hd) →
    redAddShape u c.space b hd = none →
    spansCheck u c 0 reads (rowSpans (b.tgt + 64 + b.first * redWidth hd) (b.tgtPitch * redWidth hd) (b.n * redWidth hd) b.m) = none →
    v = freeUse u (b.m * b.n + 1) → (redAddAll c b hd (redOrder u b) v).2.1 = .ok →
    ∃ t, exec (.redAdd cid e) s = .next t ∧ t.mem = (redAddAll c b hd (redOrder u b) v).1.mem ∧ endsOk t cid) ∧
  (∀ (s u v : State) (cid : Nat) (c : Cmd) (b : RedRead) (hd : RedHeader) (out span : Nat × Nat),
    cmdServed s cid 0x16 redReadNames = some c → redReadBody (cmdBody c) = b → b.resv = 0 → b.tgt % 64 = 0 → b.out % 4 = 0 →
    out = (b.out, b.count * (if b.bf16 then 2 else 4)) → redHeader s c b.tgt [out] = (u, .ok hd) →
    b.first + b.count ≤ hd.count → span = (b.tgt + 64 + b.first * redWidth hd, b.count * redWidth hd) →
    spansCheck u c 0 [(b.tgt, redSize hd)] (out :: (if b.clear then [span] else [])) = none →
    v = addMask u c.ctx (spanOwners u c.space [(b.tgt, redSize hd)]) → (redReadAll c b hd b.count 0 {} v).2.1 = .ok →
    ∃ t, exec (.redRead cid) s = .next t ∧ t.mem = (redReadAll c b hd b.count 0 {} v).1.mem ∧ endsOk t cid)

/-- Each, admitted, none of the memory it names being filled, its descriptor in order, its addresses valid and allowed. TRANSPOSE, GATHER,
SCATTER and, where the release clause it names allows it, RELEASE_COPY, with every access succeeding, complete OK; REPACK converts its
rows (repackGo) and its run ends. TRANSPOSE writes element j of every source row as row j. GATHER and SCATTER move row by row in list
order, so that at a repeated index of SCATTER the highest position stays. RELEASE_COPY with no clause of its number completes FLOW_DENIED
and changes nothing else. -/
def Obligations.LayoutMoves : Prop :=
  (∀ (s : State) (cid : Nat) (c : Cmd) (v src dst rows cols sp dp : Nat) (f : Fmt)
    (reads : List (Nat × Nat)) (w : MemWrite), cmdServed s cid 0x30 transposeNames = some c → cmdBody c = v →
    src = fld v 1 48 → dst = fld v 49 48 → rows = fld v 97 20 + 1 → cols = fld v 117 20 + 1 → sp = 64 * fld v 142 20 →
    dp = 64 * fld v 162 20 → fmtOfCode (fld v 137 5) = some f → fld v 182 106 = 0 → src % 64 = 0 → dst % 64 = 0 →
    spansMeet (rowsTotal src sp (rowBytes f cols) rows) (rowsTotal dst dp (rowBytes f rows) cols) = false →
    rowBytes f cols ≤ sp → rowBytes f rows ≤ dp →
    reads = rowSpans src sp (rowBytes f cols) rows →
    spansCheck s c 0 reads ((List.range cols).map fun j => (dst + j * dp, if j + 1 = cols then rowBytes f rows else dp)) = none →
    (takeSpans c reads s).2.1 = .ok →
    w = writeSpans c (transposeOut f dst dp cols (takeSpans c reads s).2.2.2) (takeSpans c reads s).1 → w.status = .ok →
    ∃ t, exec (.transpose cid) s = .next t ∧ endsWith t cid .ok ∧ t.mem = w.st.mem) ∧
  (∀ (s : State) (cid : Nat) (c : Cmd) (b : IndexBody) (l : MemRead) (g : Bool) (i : Instr) (ids : List Nat)
    (m : State × Status × Nat),
    ((g = true ∧ i = .gather cid ∧ cmdServed s cid 0x31 (indexNames true) = some c) ∨ (g = false ∧ i = .scatter cid ∧ cmdServed s cid 0x32 (indexNames false) = some c)) →
    indexBody (cmdBody c) = b → b.resv = 0 → b.src % 64 = 0 → b.dst % 64 = 0 → b.idx % 64 = 0 → b.row ≠ 0 →
    spansMeet (b.src, if g then b.table * b.row else b.count * b.row) (b.dst, if g then b.count * b.row else b.table * b.row) = false →
    spansCheck s c 0 [(b.src, if g then b.table * b.row else b.count * b.row), (b.idx, 4 * b.count)]
      [(b.dst, if g then b.count * b.row else b.table * b.row)] = none →
    l = readTake s c b.idx (4 * b.count) → l.status = .ok → ids = (List.range b.count).map (indexAt l.bytes) →
    (∀ x ∈ ids, x < b.table) →
    m = moveRows c true (((List.range b.count).zip ids).map fun p =>
      if g then (b.src + p.2 * b.row, b.dst + p.1 * b.row, b.row) else (b.src + p.1 * b.row, b.dst + p.2 * b.row, b.row)) l.st →
    ∃ t, exec i s = .next t ∧ t = endMove c m ∧ (m.2.1 = .ok → endsWith t cid .ok ∧ t.mem = m.1.mem)) ∧
  (∀ (s : State) (cid : Nat) (c : Cmd) (b : RepackBody) (fs fd : FmtWord), cmdServed s cid 0x33 repackNames = some c →
    repackBody (cmdBody c) = b → b.fs = some fs → b.fd = some fd → b.resv = 0 → fwOk fs false = true → fwOk fd true = true →
    b.src % 64 = 0 → b.dst % 64 = 0 → b.srcAux % 2 = 0 → b.dstAux % 2 = 0 →
    spansMeet (b.src, b.rows * rowBytes fs.fmt b.cols) (b.dst, b.rows * rowBytes fd.fmt b.cols) = false →
    spansCheck s c 0 ((b.src, b.rows * rowBytes fs.fmt b.cols) ::
      (auxList fs b.srcAux b.rows b.cols ++ auxList fd b.dstAux b.rows b.cols)) [(b.dst, b.rows * rowBytes fd.fmt b.cols)] = none →
    ∃ t, exec (.repack cid) s = .next t ∧ t = repackGo s c b fs fd ∧
      ∀ x, cmdGet t cid = some x → ∃ r, x.phase = .finished r) ∧
  (∀ (s : State) (cid : Nat) (c : Cmd) (v : Nat), cmdServed s cid 0x34 copyNames = some c → cmdBody c = v → fld v 141 147 = 0 →
    fld v 1 48 % 64 = 0 → fld v 49 48 % 64 = 0 →
    spansMeet (fld v 1 48, 64 * (fld v 97 36 + 1)) (fld v 49 48, 64 * (fld v 97 36 + 1)) = false →
    addrCheck s c (fld v 1 48) (64 * (fld v 97 36 + 1)) = none → addrCheck s c (fld v 49 48) (64 * (fld v 97 36 + 1)) = none →
    releaseCheck s c (fld v 1 48) (fld v 49 48) (64 * (fld v 97 36 + 1)) (fld v 133 8) = none →
    (moveRows c false (copyLines (fld v 1 48) (fld v 49 48) (fld v 97 36 + 1)) s).2.1 = .ok →
    ∃ t, exec (.releaseCopy cid) s = .next t ∧ endsWith t cid .ok ∧
      t.mem = (moveRows c false (copyLines (fld v 1 48) (fld v 49 48) (fld v 97 36 + 1)) s).1.mem) ∧
  (∀ (s : State) (cid : Nat) (c : Cmd) (v : Nat), cmdServed s cid 0x34 copyNames = some c → cmdBody c = v → fld v 141 147 = 0 →
    fld v 1 48 % 64 = 0 → fld v 49 48 % 64 = 0 →
    spansMeet (fld v 1 48, 64 * (fld v 97 36 + 1)) (fld v 49 48, 64 * (fld v 97 36 + 1)) = false →
    addrCheck s c (fld v 1 48) (64 * (fld v 97 36 + 1)) = none → addrCheck s c (fld v 49 48) (64 * (fld v 97 36 + 1)) = none →
    (∀ x ∈ s.rig.active.clauses, x.id ≠ fld v 133 8) →
    exec (.releaseCopy cid) s = .next (cmdEnd s cid (resultOf .flowDenied)))

/-- Of each, admitted (but for NOP, none of the memory it names being filled). NOP with a zero body completes OK and does nothing. COPY in
order, its spans allowed and every access succeeding, moves its lines and completes OK; no memory byte outside the 256-byte units of its
destination changes, and keys and the array stay. STAGE_IN, checks passed, reads succeeding and no uncorrectable word of the share met,
completes OK with its rows in staging; main memory's plain bytes, accumulators and keys stay. STAGE_OUT, with no uncorrectable word met
and writes succeeding, completes OK with its rows in memory; staging, accumulators and keys stay. STAGE_IN and STAGE_OUT whose check fails
complete with the check's status alone. -/
def Obligations.StagingMoves : Prop :=
  (∀ (s : State) (cid : Nat) (c : Cmd), cmdReady s cid 0x00 = some c → cmdBody c = 0 →
    exec (.nop cid) s = .next (cmdEnd s cid (resultOf .ok))) ∧
  (∀ (s : State) (cid : Nat) (c : Cmd) (v src dst n : Nat), cmdServed s cid 0x02 copyNames = some c → cmdBody c = v → src = fld v 1 48 →
    dst = fld v 49 48 → n = fld v 97 36 + 1 → fld v 133 155 = 0 → src % 64 = 0 → dst % 64 = 0 →
    spansMeet (src, 64 * n) (dst, 64 * n) = false → spansCheck s c 0 [(src, 64 * n)] [(dst, 64 * n)] = none →
    (moveRows c true (copyLines src dst n) s).2.1 = .ok →
    ∃ t, exec (.copy cid) s = .next t ∧ endsWith t cid .ok ∧ t.keys = s.keys ∧ t.array = s.array ∧
      t.mem = (moveRows c true (copyLines src dst n) s).1.mem ∧
      ∀ a, ¬ inUnits (xlateRuns s c.space dst (64 * n)) a → memByte t a = memByte s a) ∧
  (∀ (s : State) (cid : Nat) (c : Cmd) (b : StageBody) (be : BufErr), bufBad be = false → cmdServed s cid 0x08 stageNames = some c → stageBody (cmdBody c) = b →
    stageCheck s c.space b = none → spansCheck s c 0 (rowSpans b.addr b.memPitch b.row b.rows) [] = none →
    (stageInRows c (bandAt s b.engine b.band) b be b.rows 0 s).2.1 = .ok →
    ∃ t, exec (.stageIn cid be) s = .next t ∧ endsWith t cid .ok ∧
      t.array.staging = (stageInRows c (bandAt s b.engine b.band) b be b.rows 0 s).1.array.staging ∧ t.mem.cells = s.mem.cells ∧ t.array.tiles = s.array.tiles ∧
      t.keys = s.keys) ∧
  (∀ (s : State) (cid : Nat) (c : Cmd) (st : Status) (e : SramErr) (be : BufErr) (i : Instr),
    ((i = .stageIn cid be ∧ cmdServed s cid 0x08 stageNames = some c) ∨ (i = .stageOut cid e be ∧ cmdServed s cid 0x09 stageNames = some c)) →
    stageCheck s c.space (stageBody (cmdBody c)) = some st → exec i s = .next (cmdEnd s cid (resultOf st))) ∧
  (∀ (s : State) (cid : Nat) (c : Cmd) (b : StageBody) (e : SramErr) (be : BufErr) (u : State), bufBad be = false → cmdServed s cid 0x09 stageNames = some c →
    stageBody (cmdBody c) = b → stageCheck s c.space b = none → sramBad e = false →
    spansCheck s c ((s.array.engines.getD b.engine {}).holdStg.getD b.band 0 ||| shareMask s c.space b.engine) []
      (rowSpans b.addr b.memPitch b.row b.rows) = none →
    u = sharePass (holdRead (sramCount s b.engine e) c.ctx (bandAt s b.engine b.band) true false) c b.engine →
    (stageOutRows c (bandAt s b.engine b.band) b be b.rows 0 u).2.1 = .ok →
    ∃ t, exec (.stageOut cid e be) s = .next t ∧ endsWith t cid .ok ∧
      t.mem = (stageOutRows c (bandAt s b.engine b.band) b be b.rows 0 u).1.mem ∧ t.array.tiles = s.array.tiles ∧
      t.array.staging = s.array.staging ∧ t.keys = s.keys)

/-- Of each, admitted, none of the memory it names being filled. A dense UPDATE without a norm whose body, descriptor, shape and spans pass
their checks, with no uncorrectable SRAM word met and every granule's accesses succeeding, runs its granules in order and then writes
last_step and the summary; where that write succeeds it completes OK or OK_WITH_EVENTS. A dense UPDATE with a global norm cell that is
nonfinite or saturated, its checks passed, writes no byte of memory and completes OK_WITH_EVENTS (ABORTED where the rig says so). NORM_ACC
that starts a new cell, its accesses succeeding, writes the cell with the exact sum and completes OK. Bodies with reserved bits set
complete BAD_DESCRIPTOR and change nothing else. -/
def Obligations.UpdateAndNorm : Prop :=
  (∀ (s : State) (cid : Nat) (e : SramErr) (c : Cmd) (b : UpdBody) (p : MemRead) (d : ParamDesc) (s2 : State)
    (r : State × Status × Nat × UpdRun) (z : MemWrite), cmdServed s cid 0x40 updNames = some c →
    updBody (cmdBody c) = b → b.resv = 0 → b.normMode = 0 → finNonneg b.lr = true → p = checkRead s c b.pd 128 → p.status = .ok →
    d = paramDesc p.bytes → updStatic p.st c.space b d = true → b.sparse = false → updShape b d (List.range (granules d)) = none →
    spansCheck p.st c 0 (updSpans b d).1 (updSpans b d).2 = none → sramBad e = false →
    s2 = stgSpoil (addMask (sramCount p.st b.engine e) c.ctx (spanOwners p.st c.space [(b.pd, 128)]))
      (bandAt p.st b.engine b.band) b.scratch 0 scratchBytes 1 →
    r = granRun c b d (updConst b d numOne) 0 (List.range (granules d)) {} s2 → r.2.1 = .ok →
    z = writeSpans c [(b.pd + 12, natLe 4 b.step), (b.pd + 104, updSummary r.2.2.2)]
      (holdWrite r.1 c (bandAt p.st b.engine b.band) true false) → z.status = .ok →
    ∃ t, exec (.update cid e) s = .next t ∧ endsOk t cid ∧ t.mem = z.st.mem) ∧
  (∀ (s : State) (cid : Nat) (e : SramErr) (c : Cmd) (b : UpdBody) (p q : MemRead) (d : ParamDesc) (n : NormCell),
    cmdServed s cid 0x40 updNames = some c → updBody (cmdBody c) = b → b.resv = 0 → (b.normMode = 1 ∨ b.normMode = 2) →
    finNonneg b.lr = true → p = checkRead s c b.pd 128 → p.status = .ok → d = paramDesc p.bytes →
    updStatic p.st c.space b d = true → b.sparse = false → q = checkRead p.st c b.norm 64 → q.status = .ok →
    n = normCell q.bytes → n.ok = true → n.step = b.step → n.global = true → (n.nonfinite = true ∨ n.saturated = true) →
    updShape b d (List.range (granules d)) = none → spansCheck q.st c 0 (updSpans b d).1 (updSpans b d).2 = none →
    ∃ t, exec (.update cid e) s = .next t ∧ t.mem.cells = s.mem.cells ∧
      endsWith t cid (if s.rig.active.nonfiniteFail then .aborted else .okWithEvents)) ∧
  (∀ (s : State) (cid : Nat) (e : SramErr) (c : Cmd), cmdServed s cid 0x40 updNames = some c → (updBody (cmdBody c)).resv ≠ 0 →
    exec (.update cid e) s = .next (cmdEnd s cid (resultOf .badDescriptor))) ∧
  (∀ (s : State) (cid : Nat) (c : Cmd) (b : NormBody) (n : NormCell) (i w : MemWrite) (r : MemRead), cmdServed s cid 0x41 normAccNames = some c →
    normBody (cmdBody c) = b → b.resv = 0 → b.src % 4 = 0 → b.init = true →
    spansCheck s c 0 [(b.src, b.count * (if b.bf16 then 2 else 4))] [(b.cell, 64)] = none →
    n = ⟨true, false, false, false, b.step, 0⟩ → i = writeSpace s c b.cell (normCellBytes n) → i.status = .ok →
    r = readTake i.st c b.src (b.count * (if b.bf16 then 2 else 4)) → r.status = .ok →
    w = writeSpace r.st c b.cell (normCellBytes ((elemList b.bf16 r.bytes).foldl normElem n)) → w.status = .ok →
    ∃ t, exec (.normAcc cid) s = .next t ∧ endsWith t cid .ok ∧ t.mem = w.st.mem) ∧
  (∀ (s : State) (cid : Nat) (c : Cmd), cmdServed s cid 0x41 normAccNames = some c → (normBody (cmdBody c)).resv ≠ 0 →
    exec (.normAcc cid) s = .next (cmdEnd s cid (resultOf .badDescriptor)))

/-- The training mode is the highest that the rig, the peer and the error-rate test all allow, none with a lane fault, and 1 for an NT-420. On
a training link that may train, whose peer answers and is not the wrong twin: a mode other than 0 brings the link up in it, with sequence
numbers 0, an empty replay buffer and full credit, and counts a training; mode 0 leaves it down with the lanes that failed. A twin link
whose peer is another module is held down with peer_mismatch. Without an answer, or where the link is not training or may not train,
nothing changes. Other links, memory, keys and spaces never change. -/
def Obligations.LinksTrainAtTheHighestMode : Prop :=
  (∀ (cap m : Nat) (p : PeerInfo), m ≠ 0 →
    (m ≤ trainMode cap p ↔ p.laneFault = 0 ∧ m ≤ cap ∧ m ≤ p.maxMode ∧ m ≤ p.okMode ∧ (p.nt420 = true → m ≤ 1))) ∧
  (∀ (s : State) (n : Nat) (p : PeerInfo) (i : Instr), (i = .linkTrain n p ∨ i = .linkCapabilityRetry n p) →
    n < s.fabric.links.length → clockStopped s (72 + n) = false → (linkOf s n).state = 1 → linkMay s n = true → p.answers = true →
    (isTwinLink s n = false ∨ twinPeer s = none ∨ twinPeer s = some (p.peerId % 4096)) → trainMode (linkCap s n) p ≠ 0 →
    ∃ t, exec i s = .next t ∧ (linkOf t n).state = 2 ∧ (linkOf t n).mode = trainMode (linkCap s n) p ∧
      (linkOf t n).peerId = p.peerId % 4096 ∧ (linkOf t n).peerNt420 = p.nt420 ∧ (linkOf t n).rxSeq = 0 ∧ (linkOf t n).txSeq = 0 ∧
      (linkOf t n).replay = [] ∧ (linkOf t n).credit = 512 ∧ (linkOf t n).cntTrain = (linkOf s n).cntTrain + 1 ∧
      (∀ m, m ≠ n → linkOf t m = linkOf s m) ∧ t.mem = s.mem ∧ t.keys = s.keys ∧ t.sp = s.sp) ∧
  (∀ (s : State) (n : Nat) (p : PeerInfo) (i : Instr), (i = .linkTrain n p ∨ i = .linkCapabilityRetry n p) →
    n < s.fabric.links.length → clockStopped s (72 + n) = false → (linkOf s n).state = 1 → linkMay s n = true → p.answers = true →
    (isTwinLink s n = false ∨ twinPeer s = none ∨ twinPeer s = some (p.peerId % 4096)) → trainMode (linkCap s n) p = 0 →
    ∃ t, exec i s = .next t ∧ (linkOf t n).state = 0 ∧ (linkOf t n).mode = 0 ∧ (linkOf t n).laneFault = p.laneFault ∧
      (∀ m, m ≠ n → linkOf t m = linkOf s m) ∧ t.mem = s.mem ∧ t.keys = s.keys ∧ t.sp = s.sp) ∧
  (∀ (s : State) (n k : Nat) (p : PeerInfo) (i : Instr), (i = .linkTrain n p ∨ i = .linkCapabilityRetry n p) →
    n < s.fabric.links.length → clockStopped s (72 + n) = false → (linkOf s n).state = 1 → linkMay s n = true → p.answers = true →
    isTwinLink s n = true → twinPeer s = some k → k ≠ p.peerId % 4096 →
    exec i s = .next (linkMod s n fun l =>
      { l with state := 3, mismatch := true, peerId := p.peerId % 4096, peerNt420 := p.nt420 })) ∧
  (∀ (s : State) (n : Nat) (p : PeerInfo) (i : Instr), (i = .linkTrain n p ∨ i = .linkCapabilityRetry n p) →
    (p.answers = false ∨ (linkOf s n).state ≠ 1 ∨ linkMay s n = false) → exec i s = .next s)

/-- On an up link with no ended transaction left to act on: an intact codeword with the expected sequence number moves the number on, ends any
run of failures, counts its packet flits and any correction, and asks for no resend; one out of order asks for and counts a resend; one
the FEC cannot correct does so too and counts a failure, and the eighth in succession resets the link, which logs kind 6, loses its
buffers and leaves its acknowledged transactions held. While the link stays up it then sends one codeword of its own (the model's choice,
log entry 51). A codeword on a link that is not up changes nothing. Memory, keys and spaces never change; other links change, if at all,
in their count of ingress flits as transit packets leave. -/
def Obligations.CodewordsAreTakenInOrder : Prop :=
  (∀ (s : State) (n : Nat) (cw : Codeword), linkUp s n = true → n < s.fabric.links.length → settled s → cw.fec ≠ .failed →
    cw.seq % 4096 = (linkOf s n).rxSeq →
    ∃ u t, exec (.codewordReceive n cw) s = .next t ∧ t = codewordSend u n ∧ (linkOf u n).nakDue = false ∧
      (∀ m, m ≠ n → linkOf u m = linkOf s m) ∧
      (linkOf t n).rxSeq = ((linkOf s n).rxSeq + 1) % 4096 ∧ (linkOf t n).fails = 0 ∧
      (linkOf t n).cntRetry = (linkOf s n).cntRetry ∧
      (linkOf t n).cntRx = (linkOf s n).cntRx + (16 - popCount 16 cw.idle.toNat) ∧
      (linkOf t n).cntCorr = (linkOf s n).cntCorr + (if cw.fec = .corrected then 1 else 0) ∧
      (∀ m, m ≠ n → linkOf t m = { linkOf s m with occ := (linkOf t m).occ, freed := (linkOf t m).freed }) ∧
      t.mem = s.mem ∧ t.keys = s.keys ∧ t.sp = s.sp) ∧
  (∀ (s : State) (n : Nat) (cw : Codeword), linkUp s n = true → settled s → cw.fec ≠ .failed →
    cw.seq % 4096 ≠ (linkOf s n).rxSeq →
    exec (.codewordReceive n cw) s = .next (codewordSend (linkMod s n fun l => { l with
      nakDue := true, cntRetry := l.cntRetry + 1, cntCorr := l.cntCorr + (if cw.fec = .corrected then 1 else 0) }) n)) ∧
  (∀ (s : State) (n : Nat) (cw : Codeword), linkUp s n = true → settled s → cw.fec = .failed → (linkOf s n).fails + 1 < 8 →
    exec (.codewordReceive n cw) s = .next (codewordSend (linkMod s n fun l => { l with
      fails := l.fails + 1, nakDue := true, cntRetry := l.cntRetry + 1 }) n)) ∧
  (∀ (s : State) (n : Nat) (cw : Codeword), linkUp s n = true → n < s.fabric.links.length → settled s → cw.fec = .failed →
    8 ≤ (linkOf s n).fails + 1 → (∀ t ∈ s.fabric.trackers, t.link = n → t.acked = true) →
    ∃ t, exec (.codewordReceive n cw) s = .next t ∧ (linkOf t n).state ≠ 2 ∧ (linkOf t n).replay = [] ∧ (linkOf t n).sending = none ∧
      (linkOf t n).reqs = List.replicate 14 {} ∧ (linkOf t n).fails = 0 ∧ (∃ e ∈ t.err.entries, e.kind = 6 ∧ e.unit = 72 + n) ∧
      t.fabric.trackers = s.fabric.trackers ∧ t.mem = s.mem ∧ t.keys = s.keys ∧ t.sp = s.sp) ∧
  (∀ (s : State) (n : Nat) (cw : Codeword), linkUp s n = false → settled s → exec (.codewordReceive n cw) s = .next s)

/-- A watchdog on an up link counts, logs the reset (kind 6), takes the link down with its buffers empty, and ends with LINK_DOWN every live
command whose transaction was on the link and not acknowledged, freeing its tracker; the link then trains unless it is held down or the
rig disables it. A written reset bit, with no unacknowledged transaction on the link, logs and takes it down likewise. A write that sets
hold_down keeps the link down, with no log entry; a write that changes neither bit only keeps hold_down. A watchdog on a link that is not
up does nothing. Memory and keys stay; of the writes, spaces stay too. -/
def Obligations.LinkResetFailsWhatItHeld : Prop :=
  (∀ (s : State) (n : Nat), linkUp s n = true → n < s.fabric.links.length → settled s → s.fabric.waiting = [] →
    (∀ u ∈ s.fabric.trackers, u.link = n → u.acked = false → ∃ cid, u.owner = .command cid) →
    ∃ t, exec (.linkWatchdog n) s = .next t ∧ (linkOf t n).state = (if linkMay s n then 1 else 3) ∧ (linkOf t n).replay = [] ∧
      (linkOf t n).reqs = List.replicate 14 {} ∧ (linkOf t n).wdog = true ∧ (linkOf t n).cntWdog = (linkOf s n).cntWdog + 1 ∧
      t.fabric.trackers = s.fabric.trackers.filter (fun u => !(u.link == n && !u.acked)) ∧
      (∀ u ∈ s.fabric.trackers, u.link = n → u.acked = false → ∀ cid c, u.owner = .command cid → cmdGet s cid = some c →
        cmdLive c = true → endsWith t cid .linkDown) ∧
      (∃ e ∈ t.err.entries, e.kind = 6 ∧ e.unit = 72 + n) ∧ t.mem = s.mem ∧ t.keys = s.keys) ∧
  (∀ (s : State) (n : Nat), linkUp s n = false → exec (.linkWatchdog n) s = .next s) ∧
  (∀ (s : State) (p : Port) (tag n : Nat) (v : Word) (i : Instr), (i = .linkCtrlReset p tag n v ∨ i = .linkHoldDown p tag n v) →
    mayWrite s p → n < 48 → n < s.fabric.links.length → settled s → v.getLsbD 0 = true →
    (∀ u ∈ s.fabric.trackers, u.link = n → u.acked = true) →
    ∃ u, exec i s = .next (mgmtReply u p tag .ok []) ∧
      (linkOf u n).state = (if v.getLsbD 1 || linkCap s n == 0 then 3 else 1) ∧ (linkOf u n).holdDown = v.getLsbD 1 ∧
      (linkOf u n).replay = [] ∧ (∃ e ∈ u.err.entries, e.kind = 6 ∧ e.unit = 72 + n) ∧ u.mem = s.mem ∧ u.keys = s.keys ∧ u.sp = s.sp) ∧
  (∀ (s : State) (p : Port) (tag n : Nat) (v : Word) (i : Instr), (i = .linkCtrlReset p tag n v ∨ i = .linkHoldDown p tag n v) →
    mayWrite s p → n < 48 → n < s.fabric.links.length → settled s → v.getLsbD 0 = false → v.getLsbD 1 = true →
    (linkOf s n).holdDown = false → (∀ u ∈ s.fabric.trackers, u.link = n → u.acked = true) →
    ∃ u, exec i s = .next (mgmtReply u p tag .ok []) ∧ (linkOf u n).state = 3 ∧ (linkOf u n).holdDown = true ∧ u.err = s.err ∧
      u.mem = s.mem ∧ u.keys = s.keys ∧ u.sp = s.sp) ∧
  (∀ (s : State) (p : Port) (tag n : Nat) (v : Word) (i : Instr), (i = .linkCtrlReset p tag n v ∨ i = .linkHoldDown p tag n v) →
    mayWrite s p → n < 48 → v.getLsbD 0 = false → (linkOf s n).holdDown = v.getLsbD 1 →
    exec i s = .next (mgmtReply (linkMod s n fun l => { l with holdDown := v.getLsbD 1 }) p tag .ok []))

/-- A packet for another module on an up link whose ingress buffer holds it intact: with hops at 31 or above it is discarded and counted as
hop_limit; below that and with a link to its destination it waits at requester 12 of that link with hops one higher, all else of it as it
came (but for wrong data that the ingress buffer's code does not see); with no link, and on a path over an NT-420 with a higher ID (the
model's choice, log entry 137), it is discarded and counted as no_route. One that an uncorrectable word of the ingress buffer holds is
discarded. A discarded packet leaves the ingress buffer. A packet for this module is not forwarded. The route is the up link of the
primary mask, else of the alternate mask, that holds the fewest flits, the lowest of equals. -/
def Obligations.TransitHopsAreBounded : Prop :=
  (∀ (s : State) (n : Nat) (p : Packet) (be : BufErr), linkUp s n = true → p.dst ≠ s.rig.active.moduleId → bufBad be = false → 31 ≤ p.hops →
    exec (.transitForward n p be) s = .next (transitDrop s n p fun f => { f with hopLimit := satAdd 16 f.hopLimit 1 })) ∧
  (∀ (s : State) (n m : Nat) (p : Packet) (be : BufErr), linkUp s n = true → p.dst ≠ s.rig.active.moduleId → bufBad be = false →
    p.hops < 31 → pickLink s p.dst = some m → (((linkOf s n).peerNt420 || (linkOf s m).peerNt420) = true → p.dst ≤ 1023 ∧ p.src ≤ 1023) →
    exec (.transitForward n p be) s = .next (enqueue s m 12
      { pkt := { p with hops := p.hops + 1, data := bufFlip be 0 p.data }, txn := none, space := 0, via := some n })) ∧
  (∀ (s : State) (n : Nat) (p : Packet) (be : BufErr), linkUp s n = true → p.dst ≠ s.rig.active.moduleId → bufBad be = false →
    p.hops < 31 → (pickLink s p.dst = none ∨ ∃ m, pickLink s p.dst = some m ∧ ((linkOf s n).peerNt420 || (linkOf s m).peerNt420) = true ∧
      (1023 < p.dst ∨ 1023 < p.src)) →
    exec (.transitForward n p be) s = .next (transitDrop s n p fun f => { f with noRoute := satAdd 16 f.noRoute 1 })) ∧
  (∀ (s : State) (n : Nat) (p : Packet) (be : BufErr), linkUp s n = true → p.dst ≠ s.rig.active.moduleId → bufBad be = true →
    exec (.transitForward n p be) s = .next (ingressFree s n (flitsOf p))) ∧
  (∀ (s : State) (n : Nat) (p : Packet) (be : BufErr), p.dst = s.rig.active.moduleId → exec (.transitForward n p be) s = .next s) ∧
  (∀ (s : State) (dst m : Nat) (r : Route), routeOf s dst = some r → pickLink s dst = some m →
    (linkOf s m).state = 2 ∧ m < 48 ∧
    ∃ mask, (mask = r.primary ∨ (mask = r.alternate ∧ ∀ k, k < 48 → r.primary.getLsbD k = true → (linkOf s k).state ≠ 2)) ∧
      mask.getLsbD m = true ∧ ∀ k, k < 48 → mask.getLsbD k = true → (linkOf s k).state = 2 →
        queuedFlits (linkOf s m) < queuedFlits (linkOf s k) ∨ (queuedFlits (linkOf s m) = queuedFlits (linkOf s k) ∧ m ≤ k))

/-- A packet for this module on an up link leaves the ingress buffer; with an uncorrectable word of the buffer nothing else happens. Else a
request of a wrong type or length counts as foreign; with no fabric key as no_key; with the wrong key or a failing tag as tag_fail; marked
in the replay window as replay. One from a source with a route that passes marks the window and, where it waits for no fill and no strict
window, is served and answered (requestAnswer); a MSG (its effect comes as a row of its own, log entry 55), no rig change running, with
status OK. A response whose tag fails counts as late and tag_fail; one that answers no held tracker counts as late; an ACK with status OK
that answers the one held tracker, of a command, frees it and ends no command. A timeout of a live command's transaction, the one held,
ends the command with PEER_LOST. -/
def Obligations.ReceivedPacketsAreChecked : Prop :=
  (∀ (s u : State) (n : Nat) (p : Packet) (ok : Bool), linkUp s n = true → p.dst = s.rig.active.moduleId → p.type ≠ 9 → p.type ≠ 14 →
    u = ingressFree s n (flitsOf p) → (isRequest p.type = false ∨ lengthOk p = false) →
    exec (.requestReceive n p ok) s = .next { u with fabric := { u.fabric with foreign := satAdd 16 s.fabric.foreign 1 } }) ∧
  (∀ (s u : State) (n : Nat) (p : Packet) (ok : Bool), linkUp s n = true → p.dst = s.rig.active.moduleId → isRequest p.type = true →
    u = ingressFree s n (flitsOf p) → lengthOk p = true → noFabKey s = true →
    exec (.requestReceive n p ok) s = .next { u with fabric := { u.fabric with noKey := satAdd 16 s.fabric.noKey 1 } }) ∧
  (∀ (s u : State) (n : Nat) (p : Packet) (ok : Bool), linkUp s n = true → p.dst = s.rig.active.moduleId → isRequest p.type = true →
    u = ingressFree s n (flitsOf p) → lengthOk p = true → noFabKey s = false → (holdsGen s p.keyGen && ok) = false →
    exec (.requestReceive n p ok) s = .next { u with fabric := { u.fabric with tagFail := satAdd 16 s.fabric.tagFail 1 } }) ∧
  (∀ (s u : State) (n : Nat) (p : Packet), linkUp s n = true → p.dst = s.rig.active.moduleId → isRequest p.type = true →
    u = ingressFree s n (flitsOf p) → lengthOk p = true → noFabKey s = false → holdsGen s p.keyGen = true →
    p.seq ∈ windowGet s.fabric p.src p.keyGen →
    exec (.requestReceive n p true) s = .next { u with fabric := { u.fabric with replayed := satAdd 16 s.fabric.replayed 1 } }) ∧
  (∀ (s u : State) (n : Nat) (p : Packet), linkUp s n = true → p.dst = s.rig.active.moduleId → isRequest p.type = true →
    u = windowTake (ingressFree s n (flitsOf p)) p → lengthOk p = true → noFabKey s = false → holdsGen s p.keyGen = true →
    windowPass (windowGet s.fabric p.src p.keyGen) p.seq = true → (routeOf s p.src).isSome = true → requestWaits u n p = false →
    exec (.requestReceive n p true) s = .next (requestAnswer u n p)) ∧
  (∀ (s u : State) (n : Nat) (p : Packet), linkUp s n = true → p.dst = s.rig.active.moduleId → p.type = 0xD → lengthOk p = true →
    u = windowTake (ingressFree s n (flitsOf p)) p → noFabKey s = false → holdsGen s p.keyGen = true →
    windowPass (windowGet s.fabric p.src p.keyGen) p.seq = true → (routeOf s p.src).isSome = true → s.rig.state ≠ .committing →
    exec (.requestReceive n p true) s = .next (settle (respond u p 0 [] 0 13 (partySlot u p)))) ∧
  (∀ (s : State) (n : Nat) (p : Packet) (ok : Bool) (be : BufErr) (i : Instr), linkUp s n = true → p.dst = s.rig.active.moduleId → bufBad be = true →
    ((i = .requestReceive n p ok be ∧ p.type ≠ 9 ∧ p.type ≠ 14) ∨ (i = .responseReceive n p ok be ∧ (p.type = 9 ∨ p.type = 14))) →
    exec i s = .next (ingressFree s n (flitsOf p))) ∧
  (∀ (s u : State) (n : Nat) (p : Packet) (ok : Bool), linkUp s n = true → p.dst = s.rig.active.moduleId → (p.type = 9 ∨ p.type = 14) →
    u = ingressFree s n (flitsOf p) → (holdsGen s p.keyGen && ok) = false →
    exec (.responseReceive n p ok) s = .next { u with fabric := { u.fabric with
      late := satAdd 16 s.fabric.late 1, tagFail := satAdd 16 s.fabric.tagFail 1 } }) ∧
  (∀ (s u : State) (n : Nat) (p : Packet), linkUp s n = true → p.dst = s.rig.active.moduleId → (p.type = 9 ∨ p.type = 14) →
    u = windowTake (ingressFree s n (flitsOf p)) p → holdsGen s p.keyGen = true →
    windowPass (windowGet s.fabric p.src p.keyGen) p.seq = true → (∀ t ∈ s.fabric.trackers, ¬ (t.txn = p.txn ∧ t.seq = p.echo)) →
    exec (.responseReceive n p true) s = .next { u with fabric := { u.fabric with
      late := satAdd 16 s.fabric.late 1, tagFail := satAdd 16 s.fabric.tagFail 0 } }) ∧
  (∀ (s : State) (n cid : Nat) (p : Packet) (t : Tracker), linkUp s n = true → p.dst = s.rig.active.moduleId → p.type = 14 →
    p.status = 0 → holdsGen s p.keyGen = true → windowPass (windowGet s.fabric p.src p.keyGen) p.seq = true →
    s.fabric.trackers = [t] → t.txn = p.txn → t.seq = p.echo → t.owner = .command cid → settled s → s.fabric.waiting = [] →
    ∃ u, exec (.responseReceive n p true) s = .next u ∧ u.fabric.trackers = [] ∧ u.sp = s.sp ∧ u.mem = s.mem) ∧
  (∀ (s : State) (cid : Nat) (t : Tracker) (c : Cmd), s.fabric.trackers = [t] → t.owner = .command cid → settled s →
    s.fabric.waiting = [] → cmdGet s cid = some c → cmdLive c = true →
    ∃ u, exec (.transactionTimeout t.txn) s = .next u ∧ u.fabric.trackers = [] ∧ endsWith u cid .peerLost ∧ u.mem = s.mem)

/-- The winner of an idle link is a requester that can be granted and none that can be is of a higher class. A request on an idle link grants
the link to the winner's next packet when the peer has room for it. While a packet of the same or a higher class is being sent, a request
changes nothing and waits. A request of a strictly higher class without strict slicing cuts the packet: its requester counts one more
loss, up to 10, and backs off with the packet kept. The end of a backoff makes the requester eligible. Other links, memory and spaces
never change. -/
def Obligations.EgressArbiterFollowsClasses : Prop :=
  (∀ (s : State) (n r : Nat) (a : Option Nat) (l : Link), egressWinner s n l a = some r →
    r < 14 ∧ canSend s l a r = true ∧ ∀ q, q < 14 → canSend s l a q = true → linkClass s n q ≤ linkClass s n r) ∧
  (∀ (s : State) (n r w : Nat) (o : Outgoing), n < 48 → n < s.fabric.links.length → clockStopped s (72 + n) = false → r < 14 →
    (linkOf s n).reqs.length = 14 → (linkOf s n).state = 2 → canSend s (linkOf s n) (some r) r = true →
    (linkOf s n).sending = none → egressWinner s n (linkOf s n) (some r) = some w → nextOut (linkOf s n) w = some o →
    flitsOf o.pkt ≤ (linkOf s n).credit →
    ∃ t, exec (.egressRequest n r) s = .next t ∧ (linkOf t n).sending = some (w, o, 0) ∧
      (reqOf (linkOf t n) w).queue = (reqOf (linkOf s n) w).queue.erase o ∧ (linkOf t n).cntCut = (linkOf s n).cntCut ∧
      (∀ m, m ≠ n → linkOf t m = linkOf s m) ∧ t.mem = s.mem ∧ t.sp = s.sp) ∧
  (∀ (s : State) (n r q k : Nat) (o : Outgoing), n < 48 → n < s.fabric.links.length → clockStopped s (72 + n) = false → r < 14 →
    q < 14 → (linkOf s n).reqs.length = 14 → (linkOf s n).state = 2 → canSend s (linkOf s n) (some r) r = true →
    (linkOf s n).sending = some (q, o, k) → s.rig.active.strict = false → linkClass s n q < linkClass s n r →
    ∃ t, exec (.egressRequest n r) s = .next t ∧ (linkOf t n).cntCut = (linkOf s n).cntCut + 1 ∧
      (reqOf (linkOf t n) q).losses = min 10 ((reqOf (linkOf s n) q).losses + 1) ∧ (reqOf (linkOf t n) q).backoff = true ∧
      o ∈ (reqOf (linkOf t n) q).queue ∧ (∀ m, m ≠ n → linkOf t m = linkOf s m) ∧ t.mem = s.mem ∧ t.sp = s.sp) ∧
  (∀ (s : State) (n r q k : Nat) (o : Outgoing), n < 48 → (linkOf s n).sending = some (q, o, k) → linkClass s n r ≤ linkClass s n q →
    exec (.egressRequest n r) s = .next s) ∧
  (∀ (s : State) (n r : Nat), n < 48 → n < s.fabric.links.length → clockStopped s (72 + n) = false → r < 14 →
    (linkOf s n).reqs.length = 14 → (reqOf (linkOf s n) r).backoff = true →
    ∃ t, exec (.egressBackoffExpire n r) s = .next t ∧ (reqOf (linkOf t n) r).backoff = false ∧
      (∀ m, m ≠ n → linkOf t m = linkOf s m) ∧ t.mem = s.mem ∧ t.sp = s.sp)

/-- For a command of either opcode when it is first considered, and for one that waits when its turn comes, none of the memory it names being
filled and nothing else left to act on: where the check of Table 09-7 fails the command ends with the check's status, takes no slot and
counts as failed; where an earlier number of its group is still to run, the group is busy or 64 slots are in use, it waits and holds no
slot; else it takes a slot and starts. A collective of a group of one member that starts, with no transaction out, completes within the
row: with OK or OK_WITH_EVENTS and counted as done, or, where an access fails, with that failure and counted as failed; but on a twin, no
transaction is left. One that reduces without compression and whose accesses succeed completes OK or OK_WITH_EVENTS. -/
def Obligations.CollectivesAreCheckedThenStart : Prop :=
  (∀ (s : State) (cid : Nat) (c : Cmd) (i : Instr) (r : Result),
    ((i = .collective cid ∧ cmdServed s cid 0x50 colNames = some c) ∨ (i = .normReduce cid ∧ cmdServed s cid 0x51 colNames = some c) ∨
      (i = .collectiveSeqReady cid ∧ colWaiting s cid = some c ∧ spansFill s c.space (colNames s c) = false)) →
    settled s → (colCheck s c).result = .error r →
    ∃ t, exec i s = .next t ∧ endsWith t cid r.status ∧ t.col = { s.col with failed := s.col.failed + 1 } ∧
      (s.dly.role ≠ .twin → t.fabric = s.fabric)) ∧
  (∀ (s : State) (cid : Nat) (c : Cmd) (i : Instr) (x : ColSlot),
    ((i = .collective cid ∧ cmdServed s cid 0x50 colNames = some c) ∨ (i = .normReduce cid ∧ cmdServed s cid 0x51 colNames = some c) ∨
      (i = .collectiveSeqReady cid ∧ colWaiting s cid = some c ∧ spansFill s c.space (colNames s c) = false)) →
    settled s → (colCheck s c).result = .ok x →
    (groupBusy s c = true ∨ (colCheck s c).ahead = true ∨ 64 ≤ s.col.slots.length) →
    ∃ t d, exec i s = .next t ∧ cmdGet t cid = some d ∧ d.phase = .waiting ∧ t.col = s.col ∧
      (s.dly.role ≠ .twin → t.fabric = s.fabric)) ∧
  (∀ (s : State) (cid : Nat) (c : Cmd) (i : Instr) (x : ColSlot),
    ((i = .collective cid ∧ cmdServed s cid 0x50 colNames = some c) ∨ (i = .normReduce cid ∧ cmdServed s cid 0x51 colNames = some c) ∨
      (i = .collectiveSeqReady cid ∧ colWaiting s cid = some c ∧ spansFill s c.space (colNames s c) = false)) →
    groupBusy s c = false → (colCheck s c).result = .ok x → (colCheck s c).ahead = false → s.col.slots.length < 64 →
    exec i s = .next (settle (colStart (colCheck s c).st x c))) ∧
  (∀ (s : State) (cid : Nat) (c : Cmd) (i : Instr) (x : ColSlot),
    ((i = .collective cid ∧ cmdServed s cid 0x50 colNames = some c) ∨ (i = .normReduce cid ∧ cmdServed s cid 0x51 colNames = some c) ∨
      (i = .collectiveSeqReady cid ∧ colWaiting s cid = some c ∧ spansFill s c.space (colNames s c) = false)) →
    settled s → s.fabric.trackers = [] → s.fabric.waiting = [] → s.col.early = [] → slotOf s cid = none →
    groupBusy s c = false → (colCheck s c).result = .ok x → (colCheck s c).ahead = false → s.col.slots.length < 64 →
    x.cid = cid → x.joins = [] → otherRanks x = [] → (∀ op ∈ x.prog, (∃ lo hi, op = .readOut lo hi) ∨ ∃ g, op = .readSeg g) →
    ∃ t, exec i s = .next t ∧ slotOf t cid = none ∧ (s.dly.role ≠ .twin → t.fabric.trackers = []) ∧
      ((endsOk t cid ∧ t.col.done = s.col.done + 1) ∨
       (∃ st, st ≠ .ok ∧ endsWith t cid st ∧ t.col.failed = s.col.failed + 1))) ∧
  (∀ (s s1 z u : State) (cid lo hi : Nat) (c d : Cmd) (i : Instr) (k : ColCheck) (x y : ColSlot) (r : MemRead) (p : State × Option Result),
    ((i = .collective cid ∧ cmdServed s cid 0x50 colNames = some c) ∨ (i = .normReduce cid ∧ cmdServed s cid 0x51 colNames = some c) ∨
      (i = .collectiveSeqReady cid ∧ colWaiting s cid = some c ∧ spansFill s c.space (colNames s c) = false)) →
    settled s → s.fabric.trackers = [] → s.fabric.waiting = [] → s.col.early = [] → slotOf s cid = none →
    groupBusy s c = false → k = colCheck s c → k.result = .ok x → k.ahead = false → s.col.slots.length < 64 →
    x.cid = cid → x.joins = [] → otherRanks x = [] → x.norm = false → x.mine.op ≤ 1 → x.mine.comp = 0 → x.prog = [.readOut lo hi] →
    d = { c with phase := .waiting } →
    s1 = { k.st with sp := cmdMod k.st.sp cid fun q => { q with phase := .waiting }
                     col := { k.st.col with
                       slots := k.st.col.slots ++ [x], highWater := max k.st.col.highWater (k.st.col.slots.length + 1) } } →
    srcBytes x ≠ 0 → r = readTake s1 c x.src (srcBytes x) → r.status = .ok → y = loadPlain x (srcNums x r.bytes) →
    z = colMod r.st cid (fun _ => y) →
    p = colPut z d (y.dst + (lo - dstBase y y.rank) * slotOutW y) ((readOuts y lo hi).flatMap fun q => natLe (slotOutW y) q.code) →
    p.2 = none →
    u = colMod p.1 cid (fun q => { q with
      prog := q.prog.drop 1, tally := colTally q.tally lo ((readOuts y lo hi).map (·.ev)) }) →
    (groupPut u d y.group y.mine.seq).2 = none →
    ∃ t, exec i s = .next t ∧ endsOk t cid ∧ t.col.done = s.col.done + 1)

/-- With nothing else left to act on, and the collective's command live: a join of no running collective is kept for later; one that agrees
with the running collective is held for its member and the operations run on; one that disagrees ends the command with BAD_DESCRIPTOR. A
credit adds one for its member and the operations run on; one of no running collective changes nothing. An abort ends the command with
PEER_LOST, counts, and issues nothing; one of no running collective only counts. A timeout ends the command with PEER_LOST, or with
BAD_DESCRIPTOR where a member that has not joined has sent a join that differs in digest or seq (those joins are dropped; log entry 116);
a timeout of no running collective changes nothing. Each failure frees the slot and counts. -/
def Obligations.CollectiveMessagesFromMembers : Prop :=
  (∀ (s : State) (src : Nat) (j : Join), settled s → slotFor s src j.digest j.seq = none →
    exec (.collectiveJoinReceive src j) s = .next { s with col := { s.col with early := s.col.early ++ [(src, j)] } }) ∧
  (∀ (s : State) (src : Nat) (j : Join) (x : ColSlot), slotFor s src j.digest j.seq = some x → joinsAgree x.mine j = true →
    exec (.collectiveJoinReceive src j) s =
      .next (settle (colGo (colMod s x.cid fun y => { y with joins := assocPut y.joins (y.ranks.idxOf src) j }) x.cid))) ∧
  (∀ (s : State) (src : Nat) (j : Join) (x : ColSlot) (c : Cmd), settled s → slotFor s src j.digest j.seq = some x →
    joinsAgree x.mine j = false → cmdGet s x.cid = some c → cmdLive c = true →
    ∃ t, exec (.collectiveJoinReceive src j) s = .next t ∧ endsWith t x.cid .badDescriptor ∧ slotOf t x.cid = none ∧
      t.col.failed = s.col.failed + 1 ∧ (s.dly.role ≠ .twin → t.fabric.trackers = s.fabric.trackers)) ∧
  (∀ (s : State) (src seq : Nat) (d : W256), settled s → slotFor s src d seq = none →
    exec (.collectiveCreditReceive src d seq) s = .next s) ∧
  (∀ (s : State) (src seq : Nat) (d : W256) (x : ColSlot), slotFor s src d seq = some x →
    exec (.collectiveCreditReceive src d seq) s = .next (settle (colGo (colMod s x.cid fun y =>
      { y with credits := assocPut y.credits (y.ranks.idxOf src) ((assocGet y.credits (y.ranks.idxOf src)).getD 0 + 1) }) x.cid))) ∧
  (∀ (s : State) (src seq : Nat) (d : W256), settled s → slotFor s src d seq = none →
    exec (.collectiveAbortReceive src d seq) s = .next { s with col := { s.col with abortsRx := satAdd 32 s.col.abortsRx 1 } }) ∧
  (∀ (s : State) (src seq : Nat) (d : W256) (x : ColSlot) (c : Cmd), settled s → slotFor s src d seq = some x →
    cmdGet s x.cid = some c → cmdLive c = true →
    ∃ t, exec (.collectiveAbortReceive src d seq) s = .next t ∧ endsWith t x.cid .peerLost ∧ slotOf t x.cid = none ∧
      t.col.abortsRx = satAdd 32 s.col.abortsRx 1 ∧ t.col.failed = s.col.failed + 1 ∧ (s.dly.role ≠ .twin → t.fabric.trackers = s.fabric.trackers)) ∧
  (∀ (s : State) (cid : Nat) (x : ColSlot) (c : Cmd), settled s → slotOf s cid = some x → cmdGet s cid = some c →
    cmdLive c = true → unlikeJoins s x = [] →
    ∃ t, exec (.collectiveTimeout cid) s = .next t ∧ endsWith t cid .peerLost ∧ slotOf t cid = none ∧ t.col.failed = s.col.failed + 1) ∧
  (∀ (s : State) (cid : Nat) (x : ColSlot) (c : Cmd), settled s → slotOf s cid = some x → cmdGet s cid = some c →
    cmdLive c = true → unlikeJoins s x ≠ [] →
    ∃ t, exec (.collectiveTimeout cid) s = .next t ∧ endsWith t cid .badDescriptor ∧ slotOf t cid = none ∧
      t.col.failed = s.col.failed + 1 ∧ t.col.early = s.col.early.filter fun e => !((unlikeJoins s x).contains e)) ∧
  (∀ (s : State) (cid : Nat), settled s → slotOf s cid = none → exec (.collectiveTimeout cid) s = .next s)

/-- A module with a role and an identity, unpaired and not barred, with a twin link up, room for a quote and a good entropy source, draws a
nonce, asks for the offer's quote and is PAIRING. An offer that comes before its own has gone out is kept. After that, one that fails a
check of step 3 ends the attempt with its reason and RIG_MISMATCH; one that passes is kept by a twin, and on a primary draws the
continuity key into slot 5, takes the next epoch and starts the resilver. The twin takes the key, epoch and generation and resilvers. A
copy from the partner over an up twin link is written to its range. The end of the copies leaves the pair COPIED. A mirror packet of lines
that can be read leaves the map and is counted; with an empty map and no resilver, or outside the system space's window under strict
slicing, nothing changes. None of the ranges is being filled. The model's choices here are log entries 26, 27, 35, 50, 52, 117, 125, 126
and 131. -/
def Obligations.PairsFormAndResilver : Prop :=
  (∀ (s : State) (nonce : W256) (ids : BitVec 32), s.dly.role ≠ .none → s.dly.state = .unpaired → s.dly.barred = false →
    twinUp s = true → s.keys.entropyOk = true → s.keys.vaultOk = true → s.keys.quotes.length < 64 → settled s →
    ∃ t, exec (.pairingStart nonce ids) s = .next t ∧
      t.dly = { s.dly with
        state := .pairing, nonceDraw := s.draws, partner := pairPeer s, offerOut := false
        mirrorIds := if s.dly.role = .twin then ids else s.dly.mirrorIds } ∧
      t.keys.quotes = s.keys.quotes ++ [⟨nonce, [], .pair⟩] ∧
      t.draws = s.draws + 1 ∧ t.keys.slots = s.keys.slots ∧ t.mem = s.mem ∧ t.sp = s.sp) ∧
  (∀ (s : State) (o : PairOffer), s.dly.role ≠ .none → settled s →
    (s.dly.state = .unpaired ∨ (s.dly.state = .pairing ∧ s.dly.offerOut = false)) →
    exec (.pairOfferReceive o) s = .next { s with dly := { s.dly with offer := some o } }) ∧
  (∀ (s : State) (o : PairOffer) (r : Nat), s.dly.role ≠ .none → s.dly.state = .pairing → s.dly.offerOut = true →
    s.keys.entropyOk = true → settled s → offerReason s o = some r →
    ∃ t, exec (.pairOfferReceive o) s = .next t ∧
      t.dly = { s.dly with
        state := .unpaired, reason := r, offer := none, offerOut := false, barred := true, pairEvent := .rigMismatch } ∧
      (∃ e ∈ t.err.entries, e.kind = 12) ∧ t.keys = s.keys ∧ t.mem = s.mem) ∧
  (∀ (s : State) (o : PairOffer), s.dly.role = .primary → s.dly.state = .pairing → s.dly.offerOut = true → s.keys.entropyOk = true →
    settled s → offerReason s o = none → 5 < s.keys.slots.length →
    ∃ t, exec (.pairOfferReceive o) s = .next t ∧ t.dly.state = .resilvering ∧ t.dly.partner = o.moduleId % 4096 ∧
      t.dly.epoch = 1 + max s.dly.epoch o.epoch ∧ t.dly.resilverPos = 0 ∧ t.keys.slots[5]? = some (continuitySlot (drawAt s 0)) ∧
      t.draws = s.draws + 1 ∧ t.mem = s.mem ∧ t.sp = s.sp) ∧
  (∀ (s : State) (o : PairOffer), s.dly.role = .twin → s.dly.state = .pairing → s.dly.offerOut = true → settled s →
    offerReason s o = none →
    ∃ t, exec (.pairOfferReceive o) s = .next t ∧ t.dly.state = .pairing ∧ t.dly.offer = some o ∧ t.dly.partner = o.moduleId % 4096 ∧
      t.keys = s.keys ∧ t.mem = s.mem) ∧
  (∀ (s : State) (key : W256) (e g : Nat), s.dly.role = .twin → s.dly.state = .pairing → s.dly.offer.isSome = true →
    5 < s.keys.slots.length →
    ∃ t, exec (.continuityKeyReceive key e g) s = .next t ∧ t.dly.state = .resilvering ∧ t.dly.epoch = e % 2 ^ 32 ∧
      t.dly.committed = g % 2 ^ 48 ∧ t.dly.applied = g % 2 ^ 48 ∧ t.keys.slots[5]? = some (continuitySlot key) ∧ t.mem = s.mem) ∧
  (∀ (s : State) (src link range off : Nat) (bs : List Byte) (w : MemWrite), s.dly.role = .twin → s.dly.state = .resilvering →
    src = s.dly.partner → isTwinLink s link = true → (linkOf s link).state = 2 → range ∈ pairRanges s →
    off + bs.length ≤ dataSize (rangeCfg s range) → filling s range = false → w = writePhys s {} ((rangeCfg s range).base + off) bs → w.status = .ok →
    exec (.resilverCopyReceive src link range off bs) s = .next (settle { w.st with dly := { w.st.dly with
      resilverPos := w.st.dly.resilverPos + bs.length / 64
      doneMib := (w.st.dly.resilverPos + bs.length / 64) * 64 / 2 ^ 20 } })) ∧
  (∀ s : State, s.dly.state = .resilvering →
    (s.dly.role = .twin ∨ (mirrorLines s ≤ s.dly.resilverPos ∧ resilverBusy s = false)) →
    exec .resilverCopyDone s = .next { s with dly := { s.dly with state := .copied, doneMib := s.dly.totalMib } }) ∧
  (∀ (s : State) (n k link : Nat) (r : Nat × Nat), s.dly.role = .primary → s.dly.state = .guarded → s.dly.cut = none →
    settled s → canOriginate s = true → pickTwinLink s = some link → mirrorNext s = some r →
    rangeAt s (r.1 * 64) = some n → filling s n = false → k = mirrorTake s n r.1 r.2 → (readPhys s {} (r.1 * 64) (64 * k)).status = .ok →
    systemOpen s = true →
    ∃ t, exec (.mirrorStreamSend 1) s = .next t ∧ t.dly.map = runDel s.dly.map r.1 (r.1 + k) ∧ t.dly.cntMirror = s.dly.cntMirror + k ∧
      t.mem.cells = s.mem.cells ∧ t.sp = s.sp) ∧
  (∀ (s : State) (n : Nat), s.dly.role = .primary → s.dly.state = .guarded → s.dly.cut = none → settled s →
    (s.dly.map = [] ∨ systemOpen s = false) → exec (.mirrorStreamSend n) s = .next s)

/-- With no ended transaction left to act on, and the command of the cut live: a CUT, its group descriptor not being filled, whose check fails
ends with its status and begins no cut; one that passes while a cut is in progress waits; one whose turn it is begins, its pair standing,
and waits. A hold goes on while hold pressure does; released, with no line that could not be read, the cut drains, or sends SEAL where the
mirror is idle. SEALED of a protected or copied pair makes this member's verdict ready, and with other verdicts missing the cut waits for
them. A member's verdict not ready ends the CUT BUSY with the generation as it was; the last ready one makes it a commit that waits for
its acknowledgement. The twin's word that the pair has lapsed ends it BUSY with a new resilver. The acknowledgement commits the generation
and ends the CUT OK, or, where a check armed at the COMMIT finds a range whose digests differ, CONTINUITY_FAIL with a new resilver. A
timeout before the decision ends it PEER_LOST and commits nothing. The model's choices here are log entries 29, 34, 36, 50 and 53. -/
def Obligations.CutsOnAPrimary : Prop :=
  (∀ (s : State) (cid : Nat) (c : Cmd) (r : Result), cmdServed s cid 0x60 cutNames = some c → settled s →
    (cutCheck s c).2.1 = .error r →
    ∃ t, exec (.cut cid) s = .next t ∧ endsWith t cid r.status ∧ t.dly.cut = s.dly.cut ∧ t.dly.committed = s.dly.committed) ∧
  (∀ (s : State) (cid : Nat) (c : Cmd) (x : CutRun × Bool), cmdServed s cid 0x60 cutNames = some c → settled s →
    (cutCheck s c).2.1 = .ok x → s.dly.cut.isSome = true →
    ∃ t d, exec (.cut cid) s = .next t ∧ cmdGet t cid = some d ∧ d.phase = .waiting ∧ t.dly = s.dly ∧ t.mem.cells = s.mem.cells) ∧
  (∀ (s u : State) (cid : Nat) (c : Cmd) (run : CutRun), cmdServed s cid 0x60 cutNames = some c → settled s →
    s.dly.cut = none → cutCheck s c = (u, .ok (run, true), true) → paired s = true →
    ∃ t d k, exec (.cut cid) s = .next t ∧ cmdGet t cid = some d ∧ d.phase = .waiting ∧ t.dly.cut = some k ∧ k.cid = cid ∧
      k.gen = run.gen ∧ k.members = run.members ∧ k.stage ≤ 2 ∧ t.dly.committed = s.dly.committed ∧ t.mem = u.mem) ∧
  (∀ (s : State) (k : CutRun), s.dly.cut = some k → k.stage = 0 → settled s → holdPressure s = true →
    exec .cutHoldRelease s = .next s) ∧
  (∀ (s : State) (k : CutRun), s.dly.cut = some k → k.stage = 0 → settled s → paired s = true → holdPressure s = false →
    s.dly.failed = [] →
    ∃ t, exec .cutHoldRelease s = .next t ∧ t.mem = s.mem ∧
      t.dly.cut = some { k with stage := if s.dly.map = [] ∧ mirrorFlying s = false then 2 else 1 }) ∧
  (∀ (s : State) (k : CutRun), s.dly.cut = some k → k.stage = 2 → settled s →
    (s.dly.state = .guarded ∨ s.dly.state = .copied) → (∀ v ∈ k.verdicts, v.2 = true) →
    (∃ m ∈ k.members, m ≠ s.rig.active.moduleId ∧ assocGet k.verdicts m = none) →
    ∃ t k', exec (.sealedReceive k.gen) s = .next t ∧ t.dly.cut = some k' ∧ k'.stage = 3 ∧
      assocGet k'.verdicts s.rig.active.moduleId = some true ∧ t.dly.committed = s.dly.committed ∧ t.mem = s.mem) ∧
  (∀ (s : State) (k : CutRun) (c : Cmd), s.dly.cut = some k → k.stage = 2 → settled s → cmdGet s k.cid = some c → cmdLive c = true →
    ∃ t, exec (.sealedReceive k.gen false) s = .next t ∧ endsWith t k.cid .busy ∧ t.dly.cut = none ∧ t.dly.state = .resilvering ∧
      t.dly.committed = s.dly.committed) ∧
  (∀ (s : State) (k : CutRun) (m : Nat) (c : Cmd), s.dly.cut = some k → k.stage = 3 → settled s → m ∈ k.members →
    s.dly.stale.contains (m, k.gen) = false → cmdGet s k.cid = some c → cmdLive c = true →
    ∃ t, exec (.cutVerdictReceive m k.gen false) s = .next t ∧ endsWith t k.cid .busy ∧ t.dly.cut = none ∧
      t.dly.committed = s.dly.committed ∧ t.dly.cntAborted = satAdd 32 s.dly.cntAborted 1) ∧
  (∀ (s : State) (k : CutRun) (m : Nat), s.dly.cut = some k → k.stage = 3 → settled s → m ∈ k.members → (∀ v ∈ k.verdicts, v.2 = true) →
    s.dly.stale.contains (m, k.gen) = false → (∀ i ∈ k.members, i ≠ m → (assocGet k.verdicts i).isSome = true) →
    ∃ t k', exec (.cutVerdictReceive m k.gen true) s = .next t ∧ t.dly.cut = some k' ∧ k'.stage = 4 ∧ k'.gen = k.gen ∧
      t.dly.committed = s.dly.committed ∧ t.mem = s.mem) ∧
  (∀ (s : State) (k : CutRun) (c : Cmd) (ds : List (Nat × W256)), s.dly.cut = some k → k.stage = 4 → settled s →
    cmdGet s k.cid = some c → cmdLive c = true → k.check = false →
    ∃ t, exec (.commitAckReceive k.gen ds) s = .next t ∧ endsWith t k.cid .ok ∧ t.dly.cut = none ∧ t.dly.committed = k.gen ∧
      t.dly.cntCommitted = satAdd 32 s.dly.cntCommitted 1 ∧ t.dly.log = s.dly.log.filter (fun e => decide (k.step < e.1))) ∧
  (∀ (s s1 : State) (k : CutRun) (c : Cmd) (ds : List (Nat × W256)) (n : Nat) (w : Option W256), s.dly.cut = some k →
    k.stage = 4 → settled s → cmdGet s k.cid = some c → cmdLive c = true →
    k.check = true → s1 = dlyMod s (fun d => { genCommit k.gen k.step d with state := if d.state = .copied then .guarded else d.state }) →
    (n, w) ∈ (ownDigests s1).2 → (w = none ∨ assocGet ds n ≠ w) →
    ∃ t, exec (.commitAckReceive k.gen ds) s = .next t ∧ endsWith t k.cid .continuityFail ∧ t.dly.cut = none ∧
      t.dly.committed = k.gen ∧ t.dly.state = .resilvering ∧ t.dly.mismatched.getLsbD n = true) ∧
  (∀ (s : State) (k : CutRun) (c : Cmd), s.dly.cut = some k → (k.stage = 1 ∨ k.stage = 2 ∨ k.stage = 3) → settled s →
    cmdGet s k.cid = some c → cmdLive c = true →
    ∃ t, exec (.cutTimeout k.cid) s = .next t ∧ endsWith t k.cid .peerLost ∧ t.dly.cut = none ∧ t.dly.committed = s.dly.committed)

/-- On a twin whose pair stands, with no ended transaction left to act on: SEAL moves the open interval to the sealed ones under the
generation named; a twin whose primary has yet to hear of a lapse says so instead. COMMIT of it makes the generation committed, ends a
take, and drops log entries up to the cut's step. With no print freezing the mirror and no check, where the hold can be read and the lines
written, a copied pair is protected, the lines are applied and none is held sealed or ready. With a print, they wait and no byte of memory
changes. ABORT keeps the sealed lines and forgets the generation. A log entry of a new step is kept below 1,024 entries. COMMIT or ABORT
of another generation changes nothing. -/
def Obligations.CutsOnATwin : Prop :=
  (∀ (s : State) (g st : Nat), s.dly.role = .twin → paired s = true → settled s → s.dly.lapseDue = true →
    ∃ t, exec (.sealReceive g st) s = .next t ∧ t.mem = s.mem ∧ t.keys = s.keys ∧ t.dly = { s.dly with lapseDue := false }) ∧
  (∀ (s : State) (g st : Nat), s.dly.role = .twin → paired s = true → settled s → s.dly.lapseDue = false →
    ∃ t, exec (.sealReceive g st) s = .next t ∧ t.mem = s.mem ∧ t.keys = s.keys ∧ t.dly = { s.dly with
      sealed := holdMerge s.dly.sealed s.dly.opened, opened := [], sealedIntervals := s.dly.sealedIntervals + 1
      sealedGen := some (g % 2 ^ 48, st % 2 ^ 32) }) ∧
  (∀ (s s1 : State) (g st : Nat) (r : State × Option (List (Nat × List Byte))) (ls : List (Nat × List Byte)), s.dly.role = .twin →
    paired s = true → settled s → s.dly.sealedGen = some (g, st) → s.dly.frozen = false → s.dly.take = false →
    s.dly.checkArmed = false →
    s1 = dlyMod s (fun d => { genCommit g st d with
      state := if d.state = .copied then .guarded else d.state
      ready := holdMerge d.ready d.sealed, sealed := [], sealedIntervals := 0, sealedGen := none }) →
    r = loadLines s1 s1.dly.ready → r.2 = some ls → (putLines r.1 ls).2 = [] → brokenRanges (putLines r.1 ls).1 = [] →
    ∃ t, exec (.cutCommitReceive g false) s = .next t ∧ t.dly.committed = g ∧ t.dly.applied = g ∧ t.dly.sealed = [] ∧ t.dly.ready = [] ∧
      t.dly.sealedGen = none ∧ t.dly.take = false ∧ (s.dly.state = .copied → t.dly.state = .guarded) ∧
      t.dly.log = s.dly.log.filter (fun e => decide (st < e.1)) ∧ t.dly.cntCommitted = satAdd 32 s.dly.cntCommitted 1 ∧
      t.dly.opened = s.dly.opened ∧ t.mem = (putLines r.1 ls).1.mem) ∧
  (∀ (s : State) (g st : Nat) (b : Bool), s.dly.role = .twin → paired s = true → settled s →
    s.dly.sealedGen = some (g, st) → s.dly.frozen = true →
    (b = false ∧ s.dly.take = false ∧ s.dly.checkArmed = false ∨ brokenRanges (ownDigests (commitSealed (dlyMod s fun d => { d with
      state := if d.state = .copied then .guarded else d.state }) g)).1 = []) →
    ∃ t, exec (.cutCommitReceive g b) s = .next t ∧ t.dly.committed = g ∧ t.dly.applied = s.dly.applied ∧ t.dly.sealed = [] ∧
      t.dly.take = false ∧ t.dly.log = s.dly.log.filter (fun e => decide (st < e.1)) ∧
      t.dly.ready = holdMerge s.dly.ready s.dly.sealed ∧ t.mem.cells = s.mem.cells) ∧
  (∀ (s : State) (g st : Nat), s.dly.role = .twin → s.dly.sealedGen = some (g, st) →
    exec (.cutAbortReceive g) s = .next { s with dly := { s.dly with sealedGen := none, cntAborted := satAdd 32 s.dly.cntAborted 1 } }) ∧
  (∀ (s : State) (g h st : Nat) (b : Bool), s.dly.sealedGen = some (h, st) → h ≠ g → settled s →
    exec (.cutCommitReceive g b) s = .next s ∧ exec (.cutAbortReceive g) s = .next s) ∧
  (∀ (s : State) (st : Nat) (d : W256), s.dly.role = .twin → paired s = true → assocGet s.dly.log st = none → s.dly.log.length < 1024 →
    exec (.takeLogReceive st d) s = .next { s with dly := { s.dly with log := s.dly.log ++ [(st, d)] } })

/-- With no ended transaction left to act on: of a standing pair that can send, HEARTBEAT_SEND puts a MSG to the partner in the twin link's
queue, and with no pair does nothing; HEARTBEAT_RECEIVE of a standing pair keeps what the partner says of its hold, takes a primary whose
twin has lapsed to a new resilver, and else changes nothing. A probe from the partner is answered with a MSG to it by its route, another's
is not. A suspicion is marked. The answer to a probe orphans a suspecting twin and ends its print; an unanswered one promotes a twin with
no undecided seal to primary with the next epoch, leaves one with an undecided seal and no print IN_DOUBT, and leaves a primary UNPAIRED,
its cut ended TWIN_LOST. A leave message from the partner of a standing pair does the same as an unanswered probe. DETACH unpairs a twin
with no print, and replies BUSY with no pair or, on a primary, with a live space. RESOLVE promotes a twin in doubt, with the sealed
generation if told to commit; elsewhere it replies BUSY. The model's choices here are log entries 50, 53 and 55. -/
def Obligations.LossAndPromotion : Prop :=
  (∀ (s : State) (n : Nat), settled s → paired s = true → canOriginate s = true → pickTwinLink s = some n →
    trackerFree s true (systemSlot s) = true → n < s.fabric.links.length → (linkOf s n).reqs.length = 14 →
    ∃ t o, exec .heartbeatSend s = .next t ∧ (reqOf (linkOf t n) 9).queue = (reqOf (linkOf s n) 9).queue ++ [o] ∧ o.pkt.type = 0xD ∧
      o.pkt.dst = s.dly.partner ∧ t.dly = { s.dly with lapseDue := false } ∧ t.mem = s.mem ∧ t.keys = s.keys ∧ t.sp = s.sp) ∧
  (∀ s : State, settled s → paired s = false → exec .heartbeatSend s = .next s) ∧
  (∀ (s : State) (r : HoldReport), paired s = true → (r.lapsed = false ∨ s.dly.role ≠ .primary) →
    exec (.heartbeatReceive r) s = .next { s with dly := { s.dly with report := r } }) ∧
  (∀ (s : State) (r : HoldReport), paired s = true → r.lapsed = true → s.dly.role = .primary →
    ∃ t, exec (.heartbeatReceive r) s = .next t ∧ t.dly.report = r ∧ t.dly.state = .resilvering ∧ t.dly.map = fullMap s ∧
      t.dly.cntLapse = satAdd 32 s.dly.cntLapse 1 ∧ t.mem = s.mem) ∧
  (∀ (s : State) (r : HoldReport), paired s = false → exec (.heartbeatReceive r) s = .next s) ∧
  (∀ (s : State) (n : Nat), settled s → s.dly.role ≠ .none → canOriginate s = true → pickLink s s.dly.partner = some n →
    trackerFree s true (systemSlot s) = true → n < s.fabric.links.length → (linkOf s n).reqs.length = 14 →
    ∃ t o, exec (.probeReceive s.dly.partner) s = .next t ∧ (reqOf (linkOf t n) 9).queue = (reqOf (linkOf s n) 9).queue ++ [o] ∧
      o.pkt.type = 0xD ∧ o.pkt.dst = s.dly.partner ∧ t.dly = s.dly ∧ t.mem = s.mem ∧ t.keys = s.keys ∧ t.sp = s.sp) ∧
  (∀ (s : State) (src : Nat), settled s → (s.dly.role = .none ∨ src ≠ s.dly.partner) → exec (.probeReceive src) s = .next s) ∧
  (∀ s : State, paired s = true → settled s →
    ∃ t, exec .partnerSuspect s = .next t ∧ t.dly = { s.dly with suspected := true } ∧ t.mem = s.mem ∧ t.keys = s.keys) ∧
  (∀ s : State, s.dly.role = .twin → s.dly.suspected = true → settled s →
    ∃ t, exec (.probeAnswerReceive s.dly.partner) s = .next t ∧ t.dly.state = .orphaned ∧ t.dly.role = .twin ∧
      t.dly.pairEvent = .twinLost ∧ t.dly.suspected = false ∧ printing t = false) ∧
  (∀ (s : State) (i : Instr), s.dly.role = .twin → settled s → s.dly.sealedGen = none →
    ((i = .probeTimeout ∧ s.dly.suspected = true) ∨ (i = .leaveReceive s.dly.partner ∧ paired s = true)) →
    ∃ t, exec i s = .next t ∧ t.dly.role = .primary ∧ t.dly.promoted = true ∧ t.dly.epoch = (s.dly.epoch + 1) % 2 ^ 32 ∧
      t.dly.state = .unpaired ∧ t.dly.opened = [] ∧ t.dly.sealed = [] ∧ t.dly.ready = [] ∧ t.dly.applied = s.dly.committed ∧
      t.dly.committed = s.dly.committed ∧ t.dly.cntPromote = satAdd 32 s.dly.cntPromote 1) ∧
  (∀ (s : State) (i : Instr) (g : Nat × Nat), s.dly.role = .twin → settled s → s.dly.sealedGen = some g →
    printing s = false →
    ((i = .probeTimeout ∧ s.dly.suspected = true) ∨ (i = .leaveReceive s.dly.partner ∧ paired s = true)) →
    ∃ t, exec i s = .next t ∧ t.dly.role = .twin ∧ t.dly.state = .inDoubt ∧ t.dly.sealedGen = some g ∧ t.dly.sealed = s.dly.sealed ∧
      t.dly.committed = s.dly.committed) ∧
  (∀ (s : State) (i : Instr), s.dly.role = .primary → settled s →
    ((i = .probeTimeout ∧ s.dly.suspected = true) ∨ (i = .probeAnswerReceive s.dly.partner ∧ s.dly.suspected = true) ∨
      (i = .leaveReceive s.dly.partner ∧ paired s = true)) →
    ∃ t, exec i s = .next t ∧ t.dly.role = .primary ∧ t.dly.state = .unpaired ∧ t.dly.pairEvent = .twinLost ∧ t.dly.cut = none ∧
      (∀ k c, s.dly.cut = some k → cmdGet s k.cid = some c → cmdLive c = true → endsWith t k.cid .twinLost)) ∧
  (∀ (s : State) (p : Port) (tag : Nat), mayWrite s p → settled s →
    (paired s = false ∨ (s.dly.role = .primary ∧ anySpace s = true)) →
    exec (.detach p tag) s = .next (mgmtReply { s with dly := { s.dly with lastStatus := .busy } } p tag .busy [])) ∧
  (∀ (s : State) (p : Port) (tag : Nat), mayWrite s p → settled s → paired s = true → s.dly.role = .twin → s.dly.cut = none →
    printing s = false →
    exec (.detach p tag) s = .next (mgmtReply { s with dly := { s.dly with
      state := .unpaired, suspected := false, rewinding := false, offer := none, opened := [], sealed := [], sealedIntervals := 0, sealedGen := none
      lastStatus := .ok } } p tag .ok [])) ∧
  (∀ (s : State) (p : Port) (tag : Nat) (b : Bool), mayWrite s p → settled s → s.dly.state ≠ .inDoubt →
    exec (.resolve p tag b) s = .next (mgmtReply { s with dly := { s.dly with lastStatus := .busy } } p tag .busy [])) ∧
  (∀ (s : State) (p : Port) (tag g st : Nat) (b : Bool), mayWrite s p → settled s → s.dly.state = .inDoubt →
    s.dly.sealedGen = some (g, st) →
    ∃ u, exec (.resolve p tag b) s = .next (mgmtReply u p tag .ok []) ∧ u.dly.role = .primary ∧ u.dly.promoted = true ∧
      u.dly.state = .unpaired ∧ u.dly.committed = (if b then g else s.dly.committed) ∧ u.dly.applied = u.dly.committed)

/-- With no ended transaction left to act on: REWIND on a primary whose argument is the committed generation, whose pair is PROTECTED and
which runs no rewind starts one; another generation replies BAD_DESCRIPTOR, a module that is no primary BUSY. REWIND_DONE with 64-byte
lines of mirrored ranges that cover the map and can be written writes them, empties the map and ends it; on a paired twin it discards the
open and sealed intervals and changes no byte of memory. TAKE_BEGIN and CHECK set their bit. TAKE_RECORD in the system space: outside a
take a new step is appended to a log that is not full; without a pair or on a twin the command ends OK, on a paired primary it waits for
the twin; a step already logged ends BAD_DESCRIPTOR, a full log BUSY; in a take a logged step ends OK where the digest agrees, else
CONTINUITY_FAIL, and the log stays. -/
def Obligations.RewindsAndTakes : Prop :=
  (∀ (s : State) (p : Port) (tag : Nat), mayWrite s p → settled s → s.dly.role ≠ .primary →
    exec (.rewind p tag) s = .next (mgmtReply { s with dly := { s.dly with lastStatus := .busy } } p tag .busy [])) ∧
  (∀ (s : State) (p : Port) (tag : Nat), mayWrite s p → settled s → s.dly.role = .primary → s.dly.arg ≠ s.dly.committed →
    exec (.rewind p tag) s = .next (mgmtReply { s with dly := { s.dly with lastStatus := .badDescriptor } } p tag .badDescriptor [])) ∧
  (∀ (s : State) (p : Port) (tag : Nat), mayWrite s p → settled s → s.dly.role = .primary → s.dly.arg = s.dly.committed →
    s.dly.state = .guarded → s.dly.rewinding = false →
    ∃ u, exec (.rewind p tag) s = .next (mgmtReply u p tag .ok []) ∧ u.mem = s.mem ∧ u.sp = s.sp ∧ u.dly = { s.dly with
      rewinding := true, doneMib := 0, totalMib := (runSize s.dly.map + s.dly.report.held) * 64 / 2 ^ 20, lastStatus := .ok }) ∧
  (∀ (s : State) (ls : List (Nat × List Byte)), s.dly.role = .primary → s.dly.rewinding = true → settled s →
    (∀ l ∈ ls, lineMirrored s l.1 = true ∧ l.2.length = 64) → coversMap s ls = true →
    (putLines s ls).2 = [] →
    ∃ t, exec (.rewindDone ls) s = .next t ∧ t.mem = (putLines s ls).1.mem ∧ t.dly.map = [] ∧ t.dly.rewinding = false) ∧
  (∀ (s : State) (ls : List (Nat × List Byte)), s.dly.role = .twin → paired s = true → settled s →
    brokenRanges ((rewindKeys s ls).foldl rewindSend s) = [] →
    ∃ t, exec (.rewindDone ls) s = .next t ∧ t.mem.cells = s.mem.cells ∧
      t.dly = { s.dly with opened := [], sealed := [], sealedIntervals := 0, sealedGen := none }) ∧
  (∀ (s : State) (p : Port) (tag : Nat), mayWrite s p →
    exec (.takeBegin p tag) s = .next (mgmtReply { s with dly := { s.dly with take := true, lastStatus := .ok } } p tag .ok []) ∧
    exec (.check p tag) s = .next (mgmtReply { s with dly := { s.dly with checkArmed := true, lastStatus := .ok } } p tag .ok [])) ∧
  (∀ (s : State) (cid : Nat) (c : Cmd), cmdReady s cid 0x61 = some c → settled s → spaceParty s c.space = none →
    s.dly.take = false → assocGet s.dly.log (fld (cmdBody c) 0 32) = none → s.dly.log.length < 1024 →
    (s.dly.role ≠ .primary ∨ paired s = false) →
    ∃ t, exec (.takeRecord cid) s = .next t ∧ endsWith t cid .ok ∧ t.mem = s.mem ∧
      t.dly = { s.dly with log := s.dly.log ++ [(fld (cmdBody c) 0 32, BitVec.ofNat 256 (fld (cmdBody c) 32 256))] }) ∧
  (∀ (s : State) (cid link : Nat) (c : Cmd), cmdReady s cid 0x61 = some c → settled s → spaceParty s c.space = none →
    s.dly.take = false → assocGet s.dly.log (fld (cmdBody c) 0 32) = none → s.dly.log.length < 1024 →
    s.dly.role = .primary → paired s = true → canOriginate s = true → pickTwinLink s = some link →
    ∃ t d, exec (.takeRecord cid) s = .next t ∧ cmdGet t cid = some d ∧ d.phase = .waiting ∧ t.mem = s.mem ∧
      t.dly = { s.dly with log := s.dly.log ++ [(fld (cmdBody c) 0 32, BitVec.ofNat 256 (fld (cmdBody c) 32 256))] }) ∧
  (∀ (s : State) (cid : Nat) (c : Cmd), cmdReady s cid 0x61 = some c → settled s → spaceParty s c.space = none →
    s.dly.take = false → (assocGet s.dly.log (fld (cmdBody c) 0 32)).isSome = true →
    exec (.takeRecord cid) s = .next (cmdEnd s cid (resultOf .badDescriptor))) ∧
  (∀ (s : State) (cid : Nat) (c : Cmd), cmdReady s cid 0x61 = some c → settled s → spaceParty s c.space = none →
    s.dly.take = false → assocGet s.dly.log (fld (cmdBody c) 0 32) = none → 1024 ≤ s.dly.log.length →
    exec (.takeRecord cid) s = .next (cmdEnd s cid (resultOf .busy))) ∧
  (∀ (s : State) (cid : Nat) (c : Cmd) (d : W256), cmdReady s cid 0x61 = some c → settled s → spaceParty s c.space = none →
    s.dly.take = true → assocGet s.dly.log (fld (cmdBody c) 0 32) = some d →
    exec (.takeRecord cid) s = .next (cmdEnd s cid (resultOf
      (if d = BitVec.ofNat 256 (fld (cmdBody c) 32 256) then .ok else .continuityFail))))

/-- With a good entropy source, PRINT on a protected twin with no print running and every wrap key present freezes the mirror, draws the
print's ID and one key a range; else it replies BUSY, with a wrap key missing KEY_ABSENT. A chunk that can be read leaves by a port with a
session (header, ciphertext, tag) and is counted; after the last come the slates. A slate takes one draw and is counted; under strict
slicing neither leaves outside the system space's window; after the last the print is done, its keys are gone and the mirror is unfrozen
with nothing left to apply. PRINT_ABANDON ends a running print, logs kind 12 and unfreezes the mirror, and replies BUSY otherwise.
RESTORE_BEGIN opens a restore on an unpaired module with no space. In a restore, a chunk that passes its checks and can be written is
written to its range and noted; one that fails a check replies with its status and writes nothing. RESTORE_END closes a whole restore and
commits its generation, and replies BAD_DESCRIPTOR to one that is not whole. No range is being filled. The model's choices here are log
entries 38, 60, 118, 125, 126 and 131. -/
def Obligations.PrintsAndRestores : Prop :=
  (∀ (s : State) (p : Port) (tag : Nat) (m : BitVec 32), mayWrite s p → s.keys.entropyOk = true →
    (s.dly.role ≠ .twin ∨ s.dly.state ≠ .guarded ∨ printing s = true) →
    exec (.print p tag m) s = .next (mgmtReply { s with dly := { s.dly with lastStatus := .busy } } p tag .busy [])) ∧
  (∀ (s : State) (p : Port) (tag n : Nat) (m : BitVec 32), mayWrite s p → s.keys.entropyOk = true → s.dly.role = .twin →
    s.dly.state = .guarded → printing s = false → n ∈ bitList 32 m.toNat → printWrapKey s n = none →
    exec (.print p tag m) s = .next (mgmtReply { s with dly := { s.dly with lastStatus := .keyAbsent } } p tag .keyAbsent [])) ∧
  (∀ (s : State) (p : Port) (tag : Nat) (m : BitVec 32), mayWrite s p → s.keys.entropyOk = true → s.dly.role = .twin →
    s.dly.state = .guarded → printing s = false → (∀ n ∈ bitList 32 m.toNat, (printWrapKey s n).isSome = true) →
    ∃ u, exec (.print p tag m) s = .next (mgmtReply u p tag .ok []) ∧ u.dly.frozen = true ∧ u.dly.print.state = 1 ∧
      u.dly.print.sent = 0 ∧ u.dly.print.id = (drawAt s 0).toNat % 2 ^ 64 ∧ u.dly.print.ranges = bitList 32 m.toNat ∧
      u.dly.print.gen = s.dly.applied ∧ u.draws = s.draws + (bitList 32 m.toNat).length + 1 ∧ u.mem = s.mem ∧
      u.keys.slots = s.keys.slots) ∧
  (∀ (s : State) (q : Port) (n i : Nat) (r : MemRead), (s.dly.print.state = 1 ∨ s.dly.print.state = 2) →
    (chunkList s)[s.dly.print.sent]? = some (n, i) → printPort s i = some q →
    r = readPhys s {} ((rangeCfg s n).base + i * chunkMax) (chunkLen s n i) → r.status = .ok → systemOpen s = true →
    filling s n = false → settled r.st →
    ∃ t, exec .printChunkSend s = .next t ∧ t.mem.cells = s.mem.cells ∧
      t.lmx = (printBulk r.st q r.st.dly.print.sent 1 (chunkHeader r.st n i ++ (chunkSeal r.st n i r.bytes).drop 16 ++
        (chunkSeal r.st n i r.bytes).take 16)).lmx ∧
      (s.dly.print.sent + 1 < (chunkList s).length → t.dly.print.state = 2 ∧ t.dly.print.sent = s.dly.print.sent + 1) ∧
      ((chunkList s).length ≤ s.dly.print.sent + 1 → t.dly.print.state = 3 ∧ t.dly.print.sent = 0)) ∧
  (∀ (s : State) (q : Port) (n i : Nat), s.dly.print.state = 3 → s.keys.entropyOk = true →
    (chunkList s)[s.dly.print.sent]? = some (n, i) → printPort s i = some q → systemOpen s = true →
    ∃ t, exec .printSlateSend s = .next t ∧ t.dly.print.sent = s.dly.print.sent + 1 ∧ t.dly.print.state = 3 ∧ t.draws = s.draws + 1 ∧
      t.mem = s.mem) ∧
  (∀ (s : State) (i : Instr), settled s → systemOpen s = false → (i = .printChunkSend ∨ i = .printSlateSend) → exec i s = .next s) ∧
  (∀ s : State, settled s → s.dly.print.state = 3 → (chunkList s).length ≤ s.dly.print.sent →
    ∃ t, exec .printComplete s = .next t ∧ t.dly.print.state = 4 ∧ t.dly.frozen = false ∧ t.dly.print.keys = [] ∧ t.dly.ready = [] ∧
      t.dly.applied = s.dly.committed) ∧
  (∀ (s : State) (p : Port) (tag : Nat), mayWrite s p → printing s = true →
    ∃ u, exec (.printAbandon p tag) s = .next (mgmtReply u p tag .ok []) ∧ u.dly.print.state = 5 ∧ u.dly.frozen = false ∧
      u.dly.print.keys = [] ∧ ∃ e ∈ u.err.entries, e.kind = 12) ∧
  (∀ (s : State) (p : Port) (tag : Nat), mayWrite s p → printing s = false →
    exec (.printAbandon p tag) s = .next (mgmtReply { s with dly := { s.dly with lastStatus := .busy } } p tag .busy [])) ∧
  (∀ (s : State) (p : Port) (tag : Nat), mayWrite s p → s.dly.state = .unpaired → anySpace s = false →
    exec (.restoreBegin p tag) s = .next (mgmtReply { s with dly := { s.dly with
      restore := { active := true, wrapKeys := wrapKeys s }, doneMib := 0, totalMib := 0, lastStatus := .ok } } p tag .ok [])) ∧
  (∀ (s : State) (p : Port) (tag : Nat) (c : Chunk), mayWrite s p → s.dly.restore.active = true → filling s (chunkRange c) = false →
    match chunkCheck s c with
    | .error st => exec (.restoreChunk p tag c) s = .next (mgmtReply s p tag st [])
    | .ok plain =>
      (writePhys s {} ((rangeCfg s (chunkRange c)).base + chunkIndex c * chunkMax) plain).status = .ok →
      ∃ u, exec (.restoreChunk p tag c) s = .next (mgmtReply u p tag .ok []) ∧
        u.mem = (writePhys s {} ((rangeCfg s (chunkRange c)).base + chunkIndex c * chunkMax) plain).st.mem ∧
        ⟨chunkRange c, chunkIndex c, chunkTotal c, chunkPrintId c, chunkGen c⟩ ∈ u.dly.restore.got) ∧
  (∀ (s : State) (p : Port) (tag : Nat) (c : Chunk) (st : Status), mayWrite s p → s.dly.restore.active = true → filling s (chunkRange c) = false →
    chunkCheck s c = .error st → exec (.restoreChunk p tag c) s = .next (mgmtReply s p tag st [])) ∧
  (∀ (s : State) (p : Port) (tag : Nat) (g : GotChunk) (gs : List GotChunk), mayWrite s p → s.dly.restore.active = true →
    restoreWhole s.dly.restore = true → s.dly.restore.got = g :: gs →
    exec (.restoreEnd p tag) s = .next (mgmtReply { s with dly := { s.dly with committed := g.gen, restore := {}, lastStatus := .ok } }
      p tag .ok [])) ∧
  (∀ (s : State) (p : Port) (tag : Nat), mayWrite s p → s.dly.restore.active = true → restoreWhole s.dly.restore = false →
    exec (.restoreEnd p tag) s = .next (mgmtReply { s with dly := { s.dly with lastStatus := .badDescriptor } } p tag .badDescriptor []))

/-- A write-back takes the named merge entry of its stack out and changes no plaintext; where its stack holds none such it does nothing. A
write of MEM_FLIP_CTRL sets the stack and arms in a Solo rig, and in a Shared rig stays clear and sets refused; its write-1 bits clear
done and refused. A SCRUB, no range it names being filled, with a reserved bit or an address off its line ends BAD_DESCRIPTOR, one that a
Shared rig denies ends FLOW_DENIED, and one that passes writes its summary and ends OK; taken in parts, a part that is not the last leaves
it running with what it has found. The management scrub starts while none runs and stops to state 3; a start while one runs is ignored. It
goes on by whole units, not while its range is filled nor, under strict slicing, outside the system space's window, and ends in state 2
with the last unit of the range's data region, of which an unused range has none. The model's choices here are log entries 48 (the units
as an operand of the row), 125 and 126 (requests that wait their turn) and 131 (a rig that gives the system space no window). -/
def Obligations.MemoryScrubAndFlip : Prop :=
  (∀ (s : State) (k key : Nat), s.mem.merge.any (fun x => x.stack == k && x.key == key) = true →
    ∃ t, exec (.mergeWriteback k key) s = .next t ∧ (∀ x ∈ t.mem.merge, x.key ≠ key) ∧ t.mem.cells = s.mem.cells ∧ t.keys = s.keys ∧
      t.sp = s.sp) ∧
  (∀ (s : State) (k key : Nat), s.mem.merge.any (fun x => x.stack == k && x.key == key) = false →
    exec (.mergeWriteback k key) s = .next s) ∧
  (∀ (s : State) (p : Port) (tag : Nat) (v : Word), mayWrite s p → s.rig.active.shared = false →
    exec (.memFlipArm p tag v) s = .next (mgmtReply { s with mem := { s.mem with
      flipStack := v.toNat % 8, flipArm := v.getLsbD 3, flipDone := s.mem.flipDone && !v.getLsbD 4
      flipRefused := s.mem.flipRefused && !v.getLsbD 5 } } p tag .ok [])) ∧
  (∀ (s : State) (p : Port) (tag : Nat) (v : Word), mayWrite s p → s.rig.active.shared = true → v.getLsbD 3 = true →
    exec (.memFlipArm p tag v) s = .next (mgmtReply { s with mem := { s.mem with
      flipStack := v.toNat % 8, flipArm := false, flipDone := s.mem.flipDone && !v.getLsbD 4, flipRefused := true } } p tag .ok [])) ∧
  (∀ (s : State) (cid : Nat) (c : Cmd), cmdServed s cid 0x70 scrubNames = some c →
    c.scrubbed = none →
    (fld (cmdBody c) 134 154 ≠ 0 ∨ fld (cmdBody c) 0 48 % 64 ≠ 0 ∨ fld (cmdBody c) 84 48 % 64 ≠ 0) →
    exec (.scrub cid) s = .next (cmdEnd s cid (resultOf .badDescriptor))) ∧
  (∀ (s : State) (cid a n sum : Nat) (c : Cmd), cmdServed s cid 0x70 scrubNames = some c → c.scrubbed = none → fld (cmdBody c) 134 154 = 0 →
    a = fld (cmdBody c) 0 48 → n = fld (cmdBody c) 48 36 + 1 → sum = fld (cmdBody c) 84 48 → a % 64 = 0 → sum % 64 = 0 →
    addrCheck s c a (64 * n) = none → addrCheck s c sum 192 = none →
    (∀ r ∈ xlateRuns s c.space a (64 * n), (rangeAt s r.1).isSome = true) → scrubDenied s c a (64 * n) = true →
    exec (.scrub cid) s = .next (cmdEnd s cid (resultOf .flowDenied))) ∧
  (∀ (s : State) (cid a n sum : Nat) (c : Cmd) (r : State × ScrubSum) (w : MemWrite), cmdServed s cid 0x70 scrubNames = some c → c.scrubbed = none →
    fld (cmdBody c) 134 154 = 0 → a = fld (cmdBody c) 0 48 → n = fld (cmdBody c) 48 36 + 1 → sum = fld (cmdBody c) 84 48 →
    a % 64 = 0 → sum % 64 = 0 → addrCheck s c a (64 * n) = none → addrCheck s c sum 192 = none →
    (∀ r ∈ xlateRuns s c.space a (64 * n), (rangeAt s r.1).isSome = true) → scrubDenied s c a (64 * n) = false →
    r = scrubAll (whoOf c) (scrubUnits s c.space a n) (s, {}) →
    w = writeSpace (chargePj (countHbm r.1 c [] (64 * r.2.lines) 0) c.id (18 * (64 * r.2.lines))) c sum (scrubRecord r.2) → w.status = .ok →
    ∃ t, exec (.scrub cid) s = .next t ∧ endsWith t cid .ok ∧ t.mem = w.st.mem ∧ t.keys = s.keys) ∧
  (∀ (s : State) (cid k : Nat) (c : Cmd) (us : List (Nat × Nat × Nat)) (r : State × ScrubSum), cmdServed s cid 0x70 scrubNames = some c →
    c.scrubbed = none → scrubCheck s c = none → us = scrubUnits s c.space (fld (cmdBody c) 0 48) (fld (cmdBody c) 48 36 + 1) →
    k < us.length → r = scrubAll (whoOf c) (us.take k) (s, {}) →
    ∃ t x, exec (.scrub cid (some k)) s = .next t ∧ cmdGet t cid = some x ∧ x.scrubbed = some (k, r.2) ∧ x.phase = c.phase ∧
      t.mem = r.1.mem ∧ t.keys = s.keys) ∧
  (∀ (s : State) (p : Port) (tag range pace : Nat), mayWrite s p → s.mem.scrub.state ≠ 1 → range < 32 →
    exec (.scrubRangeStart p tag range pace) s = .next (mgmtReply { s with mem := { s.mem with
      scrub := { state := 1, range := range, pace := pace % 4 } } } p tag .ok [])) ∧
  (∀ (s : State) (p : Port) (tag range pace : Nat), mayWrite s p → s.mem.scrub.state = 1 →
    exec (.scrubRangeStart p tag range pace) s = .next (mgmtReply s p tag .ok [])) ∧
  (∀ (s : State) (p : Port) (tag : Nat), mayWrite s p → s.mem.scrub.state = 1 →
    exec (.scrubRangeStop p tag) s =
      .next (mgmtReply { s with mem := { s.mem with scrub := { s.mem.scrub with state := 3 } } } p tag .ok [])) ∧
  (∀ (s : State) (units total k : Nat), s.mem.scrub.state = 1 → filling s s.mem.scrub.range = false →
    total = (if (rangeCfg s s.mem.scrub.range).mode = 0 then 0 else unitCount s s.mem.scrub.range) →
    k = min units (total - s.mem.scrub.pos) → systemOpen s = true →
    ∃ t, exec (.scrubRangeDone units) s = .next t ∧ t.mem.scrub.state = (if s.mem.scrub.pos + k = total then 2 else 1) ∧
      t.mem.scrub.pos = s.mem.scrub.pos + k ∧ t.mem.scrub.range = s.mem.scrub.range ∧ t.mem.cells = s.mem.cells ∧ t.keys = s.keys) ∧
  (∀ (s : State) (units : Nat), (s.mem.scrub.state ≠ 1 ∨ filling s s.mem.scrub.range = true ∨
    systemOpen s = false) →
    exec (.scrubRangeDone units) s = .next s)

/-- A REKEY that fails its check replies with its status and records it; one of a range whose key the module draws puts the drawn key in the
lowest free slot of 128 to 255, makes the old slot the previous one and starts the walk; one with a delivered key takes its slot, entropy
or not. While the source fails a REKEY of a drawn range waits. The walks of the eight controllers go on by whole units of their own
stacks' shares, under strict slicing in the system space's window alone; with the last they end and zeroizes a previous slot that no
strike took. With a good entropy source REINIT of a used range with no space, not on a twin and with no walk, zeroes every byte of the
range, no other byte, and starts the fill; else it replies with its status. The end of a fill that no access and no descriptor's body
waits for makes the generation 1, or 0 for a keyless range. A window access that waits for no fill records its status and replies; a
Shared rig denies it, reads as zeros and leaves memory. The model's choices here are log entries 48 (the units as an operand of the row),
49 (what waits for a fill), 125, 126 and 131 (requests that wait their turn). -/
def Obligations.RangeKeysRotateAndRefill : Prop :=
  (∀ (s : State) (p : Port) (tag n slot pace : Nat) (st : Status), mayWrite s p → (s.keys.entropyOk = true ∨ (rangeCfg s n).keySource ≠ 0) → n < 32 →
    rekeyCheck s n slot = some st →
    exec (.rekey p tag n slot pace) s = .next (mgmtReply { s with ciph := { s.ciph with lastStatus := st, lastRange := n } } p tag st [])) ∧
  (∀ (s : State) (p : Port) (tag n slot pace k : Nat), mayWrite s p → s.keys.entropyOk = true → n < 32 → n < s.ciph.ranges.length →
    s.keys.slots.length = 256 → rekeyCheck s n slot = none → (rangeCfg s n).keySource = 0 → freeDrawn s = some k →
    ∃ u, exec (.rekey p tag n slot pace) s = .next (mgmtReply u p tag .ok []) ∧ (rangeKey u n).curSlot = k ∧
      (rangeKey u n).prevSlot = (rangeKey s n).curSlot ∧ (rangeKey u n).prevValid = true ∧ (rangeKey u n).walk = 2 ∧
      (rangeKey u n).gen = (rangeKey s n).gen + 1 ∧ (u.keys.slots.getD k {}).key = drawAt s 0 ∧ (u.keys.slots.getD k {}).locked = true ∧
      u.draws = s.draws + 1 ∧ u.mem = s.mem ∧ (∀ m, m ≠ n → rangeKey u m = rangeKey s m)) ∧
  (∀ (s : State) (p : Port) (tag n slot pace : Nat), mayWrite s p → n < 32 → n < s.ciph.ranges.length →
    slot < s.keys.slots.length → rekeyCheck s n slot = none → (rangeCfg s n).keySource ≠ 0 →
    ∃ u, exec (.rekey p tag n slot pace) s = .next (mgmtReply u p tag .ok []) ∧ (rangeKey u n).curSlot = slot ∧
      (rangeKey u n).prevSlot = (rangeKey s n).curSlot ∧ (rangeKey u n).walk = 2 ∧ (u.keys.slots.getD slot {}).locked = true ∧
      (u.keys.slots.getD slot {}).key = (s.keys.slots.getD slot {}).key ∧ u.draws = s.draws ∧ u.mem = s.mem) ∧
  (∀ (s : State) (p : Port) (tag n slot pace : Nat), mayWrite s p → s.keys.entropyOk = false → (rangeCfg s n).keySource = 0 →
    exec (.rekey p tag n slot pace) s =
      .next { s with keys := { s.keys with waiting := s.keys.waiting ++ [.rekey p tag n slot pace] } }) ∧
  (∀ (s : State) (n : Nat) (units pos : List Nat), n < s.ciph.ranges.length → (rangeKey s n).walk = 2 → systemOpen s = true →
    (rangeKey s n).walkPos.length = 8 →
    pos = (List.range 8).map (fun k => (rangeKey s n).walkPos.getD k 0 +
      min (units.getD k 0) (shareUnits s n - (rangeKey s n).walkPos.getD k 0)) → (∃ x ∈ pos, x ≠ shareUnits s n) →
    ∃ t, exec (.rekeyWalkDone n units) s = .next t ∧ (rangeKey t n).walk = 2 ∧ (rangeKey t n).walkPos = pos ∧
      (rangeKey t n).doneMib = pos.sum * unitBytes (rangeCfg s n) / 2 ^ 20 ∧ t.keys = s.keys) ∧
  (∀ (s : State) (n : Nat) (units : List Nat), n < s.ciph.ranges.length → (rangeKey s n).walk = 2 → (rangeKey s n).prevStruck = false →
    (rangeKey s n).walkPos.length = 8 → systemOpen s = true →
    (∀ k, k < 8 → (rangeKey s n).walkPos.getD k 0 + min (units.getD k 0) (shareUnits s n - (rangeKey s n).walkPos.getD k 0) =
      shareUnits s n) →
    ∃ t, exec (.rekeyWalkDone n units) s = .next t ∧ (rangeKey t n).walk = 3 ∧ (rangeKey t n).prevValid = false ∧
      (rangeKey t n).prevSub = [] ∧ t.keys.slots.getD (rangeKey s n).prevSlot {} = {} ∧ (rangeKey t n).curSlot = (rangeKey s n).curSlot) ∧
  (∀ (s : State) (n : Nat) (units : List Nat), ((rangeKey s n).walk ≠ 2 ∨ systemOpen s = false) →
    exec (.rekeyWalkDone n units) s = .next s) ∧
  (∀ (s : State) (p : Port) (tag n : Nat) (st : Status), mayWrite s p → s.keys.entropyOk = true → n < 33 → reinitCheck s n = some st →
    exec (.reinit p tag n) s = .next (mgmtReply { s with ciph := { s.ciph with lastStatus := st, lastRange := n } } p tag st [])) ∧
  (∀ (s : State) (p : Port) (tag n : Nat), mayWrite s p → s.keys.entropyOk = true → n < 33 → n < s.ciph.ranges.length →
    reinitCheck s n = none →
    ∃ u, exec (.reinit p tag n) s = .next (mgmtReply u p tag .ok []) ∧ (rangeKey u n).walk = 1 ∧
      (∀ a, (rangeCfg s n).base ≤ a → a < (rangeCfg s n).base + (rangeCfg s n).size → memByte u a = 0) ∧
      (∀ a, (a < (rangeCfg s n).base ∨ (rangeCfg s n).base + (rangeCfg s n).size ≤ a) → memByte u a = memByte s a) ∧
      (∀ m, m ≠ n → rangeKey u m = rangeKey s m)) ∧
  (∀ (s : State) (n : Nat), (rangeKey s n).walk = 1 → s.keys.entropyOk = true → s.ciph.waiting = [] → s.keys.waiting = [] → settled s →
    (∀ c ∈ s.sp.cmds, c.phase = .accepted → c.body.isSome = true) →
    exec (.rangeFillDone n) s = .next { s with ciph := rangeKeyMod s.ciph n fun k =>
      { k with gen := if k.keyless then 0 else 1, walk := 3, doneMib := dataSize (rangeCfg s n) / 2 ^ 20 } }) ∧
  (∀ (s : State) (p : Port) (tag : Nat), mayRead s p → debugWaits s s.ciph.winAddr = false →
    exec (.ciphWinRead p tag) s = .next (mgmtReply (winStatusPut (debugRead s s.ciph.winAddr).st (debugRead s s.ciph.winAddr).status) p tag .ok
      (if (debugRead s s.ciph.winAddr).status = .ok then (debugRead s s.ciph.winAddr).bytes else List.replicate 8 0))) ∧
  (∀ (s : State) (p : Port) (tag : Nat) (v : Word), mayWrite s p → debugWaits s s.ciph.winAddr = false →
    exec (.ciphWinWrite p tag v) s = .next (mgmtReply (winStatusPut (debugWrite s s.ciph.winAddr v).st (debugWrite s s.ciph.winAddr v).status)
      p tag (debugWrite s s.ciph.winAddr v).status [])) ∧
  (∀ (s : State) (a : Nat) (v : Word), s.rig.active.shared = true →
    (debugRead s a).status = .flowDenied ∧ (debugRead s a).st.mem = s.mem ∧ (debugWrite s a v).status = .flowDenied ∧
      (debugWrite s a v).st.mem = s.mem)

/-- QUOTE without an identity replies KEY_ABSENT and with 64 requests queued BUSY; else it queues a request over KEY_NONCE and empties the
window. QUOTE_COMPLETE hands the oldest request's quote, its body and the identity's signature hedged with the next draw, to the window;
while the entropy source fails it waits. CERT places a certificate in it, and each KEY_OUT_READ answers 8 bytes at the pointer, which
moves on. DRAW to an empty slot of 32 to 127 with an owner set it may name puts a drawn kdf key there; a slot outside replies
BAD_DESCRIPTOR, a wrong owner set FLOW_DENIED, a slot in use BUSY. KEY_ZEROIZE empties an unlocked slot, and replies BAD_DESCRIPTOR
outside 32 to 127 and FLOW_DENIED for a locked one. The model's choices here are log entries 79 (when the body is built), 80 (the order of
the refusals), 62 and 73 (a challenge in the same queue, draws that wait). -/
def Obligations.QuotesCertificatesAndDrawnSlots : Prop :=
  (∀ (s : State) (p : Port) (tag : Nat), mayWrite s p → s.keys.vaultOk = false →
    exec (.quote p tag) s = .next (mgmtReply { s with keys := { s.keys with lastStatus := .keyAbsent } } p tag .keyAbsent [])) ∧
  (∀ (s : State) (p : Port) (tag : Nat), mayWrite s p → s.keys.vaultOk = true → 64 ≤ s.keys.quotes.length →
    exec (.quote p tag) s = .next (mgmtReply { s with keys := { s.keys with lastStatus := .busy } } p tag .busy [])) ∧
  (∀ (s : State) (p : Port) (tag : Nat), mayWrite s p → s.keys.vaultOk = true → s.keys.quotes.length < 64 →
    exec (.quote p tag) s = .next (mgmtReply { s with keys := { s.keys with
      quotes := s.keys.quotes ++ [⟨keyNonce s, [], .mgmt⟩], outPtr := 0, out := [], outReady := false, lastStatus := .ok } } p tag .ok [])) ∧
  (∀ (s : State) (r : QuoteReq) (rest : List QuoteReq), s.keys.quotes = r :: rest → r.dest = .mgmt → s.keys.entropyOk = true → settled s →
    ∃ t, exec .quoteComplete s = .next t ∧ t.keys.quotes = rest ∧ t.keys.outReady = true ∧ t.draws = s.draws + 1 ∧
      t.keys.slots = s.keys.slots ∧ t.keys.out = quoteBody s r.nonce r.ek ++
        identitySign (s.keys.slots.getD 0 {}) "nirnus-quote" (quoteBody s r.nonce r.ek) (drawAt s 0)) ∧
  (∀ s : State, s.keys.entropyOk = false → settled s → exec .quoteComplete s = .next s) ∧
  (∀ (s : State) (p : Port) (tag : Nat) (b : Bool), mayWrite s p →
    exec (.cert p tag b) s = .next (mgmtReply { s with keys := { s.keys with
      outPtr := 0, out := certBytes s b, outReady := true, lastStatus := .ok } } p tag .ok [])) ∧
  (∀ (s : State) (p : Port) (tag : Nat), mayRead s p → s.keys.outPtr + 8 ≤ s.keys.out.length →
    exec (.keyOutRead p tag) s = .next (mgmtReply { s with keys := { s.keys with outPtr := (s.keys.outPtr + 8) % 2 ^ 15 } } p tag .ok
      ((s.keys.out.drop s.keys.outPtr).take 8))) ∧
  (∀ (s : State) (p : Port) (tag slot : Nat) (o : BitVec 8), mayWrite s p → s.keys.entropyOk = true → (slot < 32 ∨ 127 < slot) →
    exec (.draw p tag slot o) s = .next (mgmtReply { s with keys := { s.keys with lastStatus := .badDescriptor } } p tag .badDescriptor [])) ∧
  (∀ (s : State) (p : Port) (tag slot : Nat) (o : BitVec 8), mayWrite s p → s.keys.entropyOk = true → 32 ≤ slot → slot ≤ 127 →
    drawOwnerOk s o = false →
    exec (.draw p tag slot o) s = .next (mgmtReply { s with keys := { s.keys with lastStatus := .flowDenied } } p tag .flowDenied [])) ∧
  (∀ (s : State) (p : Port) (tag slot : Nat) (o : BitVec 8), mayWrite s p → s.keys.entropyOk = true → 32 ≤ slot → slot ≤ 127 →
    drawOwnerOk s o = true → (s.keys.slots.getD slot {}).valid = true →
    exec (.draw p tag slot o) s = .next (mgmtReply { s with keys := { s.keys with lastStatus := .busy } } p tag .busy [])) ∧
  (∀ (s : State) (p : Port) (tag slot : Nat) (o : BitVec 8), mayWrite s p → s.keys.entropyOk = true → 32 ≤ slot → slot ≤ 127 →
    drawOwnerOk s o = true → (s.keys.slots.getD slot {}).valid = false →
    exec (.draw p tag slot o) s = .next (mgmtReply { s with draws := s.draws + 1, keys := { s.keys with
      slots := s.keys.slots.set slot { valid := true, use := .kdf, ownerSet := o, origin := 1, key := drawAt s 0 }
      drbgReqs := s.keys.drbgReqs + 1, lastStatus := .ok } } p tag .ok [])) ∧
  (∀ (s : State) (p : Port) (tag slot : Nat) (o : BitVec 8), mayWrite s p → s.keys.entropyOk = false →
    exec (.draw p tag slot o) s = .next { s with keys := { s.keys with waiting := s.keys.waiting ++ [.draw p tag slot o] } }) ∧
  (∀ (s : State) (p : Port) (tag slot : Nat), mayWrite s p → (slot < 32 ∨ 127 < slot) →
    exec (.keyZeroize p tag slot) s =
      .next (mgmtReply { s with keys := { s.keys with lastStatus := .badDescriptor } } p tag .badDescriptor [])) ∧
  (∀ (s : State) (p : Port) (tag slot : Nat), mayWrite s p → 32 ≤ slot → slot ≤ 127 → (s.keys.slots.getD slot {}).locked = true →
    exec (.keyZeroize p tag slot) s =
      .next (mgmtReply { s with keys := { s.keys with lastStatus := .flowDenied } } p tag .flowDenied [])) ∧
  (∀ (s : State) (p : Port) (tag slot : Nat), mayWrite s p → 32 ≤ slot → slot ≤ 127 → (s.keys.slots.getD slot {}).locked = false →
    (s.rig.active.shared = false ∨ (s.keys.slots.getD slot {}).ownerSet = 0) →
    ∃ u, exec (.keyZeroize p tag slot) s = .next (mgmtReply u p tag .ok []) ∧ (u.keys.slots.getD slot {}).valid = false ∧
      (∀ i, i < 256 → i ≠ slot → u.keys.slots.getD i {} = s.keys.slots.getD i {}) ∧ u.mem = s.mem)

/-- FAB_ACTIVATE makes the staged key current and the old current key the other one, with the sequence number at 0 and no replay window; with
nothing staged it replies KEY_ABSENT. FAB_RETIRE zeroizes the previous slot and drops its windows; with no previous held it replies OK and
changes nothing else. A reseed after 2^16 requests starts the count again. A failing health test clears entropy_ok; a passing one sets it
and, with nothing waiting, changes nothing else; a DRAW that waits then goes on, and one that has waited too long fails with BUSY, as does
a management quote that has when no request waits for a draw. The model's choices here are log entries 73 (the order in which what waits
goes on, and what a timeout fails) and 126 and 131 (what waits its turn). -/
def Obligations.FabricKeysAndTheRandomSource : Prop :=
  (∀ (s : State) (p : Port) (tag i : Nat), mayWrite s p → s.keys.fabOther = some i → s.keys.fabStaged = true →
    ∃ u, exec (.fabActivate p tag) s = .next (mgmtReply u p tag .ok []) ∧ u.keys.fabCur = some i ∧ u.keys.fabOther = s.keys.fabCur ∧
      u.keys.fabStaged = false ∧ u.keys.fabGen = s.keys.fabOtherGen ∧ u.keys.fabOtherGen = s.keys.fabGen ∧ u.fabric.seq = 0 ∧
      u.fabric.windows = [] ∧ u.mem = s.mem) ∧
  (∀ (s : State) (p : Port) (tag : Nat), mayWrite s p → (s.keys.fabOther = none ∨ s.keys.fabStaged = false) →
    exec (.fabActivate p tag) s = .next (mgmtReply { s with keys := { s.keys with lastStatus := .keyAbsent } } p tag .keyAbsent [])) ∧
  (∀ (s : State) (p : Port) (tag i : Nat), mayWrite s p → s.keys.fabOther = some i → s.keys.fabStaged = false →
    ∃ u, exec (.fabRetire p tag) s = .next (mgmtReply u p tag .ok []) ∧ u.keys.fabOther = none ∧ u.keys.slots.getD i {} = {} ∧
      u.keys.fabCur = s.keys.fabCur ∧ (∀ w ∈ u.fabric.windows, w.1.2 ≠ (s.keys.fabOtherGen % 2 == 1)) ∧ u.mem = s.mem) ∧
  (∀ (s : State) (p : Port) (tag : Nat), mayWrite s p → (s.keys.fabOther = none ∨ s.keys.fabStaged = true) →
    exec (.fabRetire p tag) s = .next (mgmtReply { s with keys := { s.keys with lastStatus := .ok } } p tag .ok [])) ∧
  (∀ s : State, 2 ^ 16 ≤ s.keys.drbgReqs → s.keys.entropyOk = true →
    exec .drbgReseed s = .next { s with keys := { s.keys with drbgReqs := 0 } }) ∧
  (∀ s : State, exec .entropyHealthFail s = .next { s with keys := { s.keys with entropyOk := false } }) ∧
  (∀ s : State, s.keys.entropyOk = false → s.keys.waiting = [] → settled s →
    exec .entropyHealthPass s = .next { s with keys := { s.keys with entropyOk := true, waiting := [] } }) ∧
  (∀ (s : State) (p : Port) (tag slot : Nat) (o : BitVec 8), s.keys.entropyOk = false → s.keys.waiting = [.draw p tag slot o] →
    mgmtHeld { s with keys := { s.keys with waiting := [] } } = false → settled s →
    exec .entropyHealthPass s =
      .next (mgmtAgain p tag (drawKey slot o) { s with keys := { s.keys with entropyOk := true, waiting := [] } })) ∧
  (∀ (s : State) (p : Port) (tag slot : Nat) (o : BitVec 8), s.keys.entropyOk = false → s.keys.waiting = [.draw p tag slot o] →
    heard s.lmx p = true → lockedOut s.lmx p = false → settled s →
    exec .drawTimeout s = .next (mgmtReply { s with keys := { s.keys with waiting := [], lastStatus := .busy } } p tag .busy [])) ∧
  (∀ (s : State) (r : QuoteReq), s.keys.waiting = [] → s.keys.entropyOk = false → quoteWaiting s = some r → r.dest = .mgmt → settled s →
    exec .drawTimeout s = .next { s with keys := { s.keys with quotes := s.keys.quotes.erase r, lastStatus := .busy } }) ∧
  (∀ s : State, s.keys.entropyOk = true → settled s → exec .drawTimeout s = .next s)

/-- Over a live session: BIND that its check refuses replies with that status; else, with a good entropy source, it takes two draws for a key
pair, keeps it and queues a quote. BIND_CONFIRM with no binding under way replies BAD_DESCRIPTOR; a ciphertext of 1,568 bytes with a
signature that verifies binds the channel and fills its two key slots; another drops the binding with FLOW_DENIED. A key message not
authentic, on an unbound channel or with an old counter changes nothing; one whose counter reaches the end ends the channel; a good one is
its op's row, an unknown op BAD_DESCRIPTOR. A space request on an unbound space channel, or of a party not the space's, is counted as
refused. A good DELIVER answers its check's status, or takes the key as Table 13-9 places it: kdf, wrap, a range's (current and filled
where it is keyless, else waiting in its slot), the fabric's (current where none is held, else staged); a contribution waits with its
derivation, and the last one puts the joint key in the slot. ZEROIZE answers BAD_DESCRIPTOR, OK for an empty slot, FLOW_DENIED for
another's or a locked one, else empties the slot. QUERY answers BAD_DESCRIPTOR, FLOW_DENIED or the slot's word. SPACE_BIND answers as
Table 15-5a. The model's choices here are log entries 81 (BIND of an index above 7, BIND_CONFIRM with no binding), 82 (the four messages
as rows of their own), 83 (which contributions belong together) and 84 (ZEROIZE of an empty slot, what QUERY answers). -/
def Obligations.PartyChannelsCarryKeys : Prop :=
  (∀ (s : State) (via : Port) (tag q : Nat) (n : W256) (st : Status), heard s.lmx via = true → bindCheck s q = some st →
    exec (.bind via tag q n) s = .next (mgmtReply s via tag st [])) ∧
  (∀ (s : State) (via : Port) (tag q : Nat) (n : W256), heard s.lmx via = true → bindCheck s q = none → s.keys.entropyOk = true →
    q < s.keys.channels.length →
    ∃ t, exec (.bind via tag q n) s = .next t ∧ chanOf t q = { ek := some (kemDraw s).1, dk := (kemDraw s).2, via := via } ∧
      t.keys.quotes = s.keys.quotes ++ [⟨n, (kemDraw s).1, .bind q via tag⟩] ∧ t.draws = s.draws + 2 ∧ t.keys.slots = s.keys.slots ∧
      t.mem = s.mem) ∧
  (∀ (s : State) (via : Port) (tag q : Nat) (n : W256), heard s.lmx via = true → bindCheck s q = none → s.keys.entropyOk = false →
    exec (.bind via tag q n) s = .next { s with keys := { s.keys with waiting := s.keys.waiting ++ [.bind via tag q n] } }) ∧
  (∀ (s : State) (via : Port) (tag q : Nat) (ct sig : List Byte), heard s.lmx via = true →
    ((chanOf s q).ek = none ∨ (chanOf s q).bound = true ∨ (chanOf s q).quote = []) →
    exec (.bindConfirm via tag q ct sig) s = .next (mgmtReply s via tag .badDescriptor [])) ∧
  (∀ (s : State) (via : Port) (tag q : Nat) (ct sig ek key : List Byte) (t : W256), heard s.lmx via = true → q < 8 →
    s.keys.channels.length = 8 → s.keys.slots.length = 256 → (chanOf s q).ek = some ek → (chanOf s q).bound = false →
    (chanOf s q).quote ≠ [] → partyKey s q = some key → t = shakeW ((chanOf s q).quote ++ ek ++ ct ++ [BitVec.ofNat 8 q]) →
    ∃ u st, exec (.bindConfirm via tag q ct sig) s = .next (mgmtReply u via tag st []) ∧ u.mem = s.mem ∧
      match decide (ct.length = 1568) && slhVerify slh256s key (ascii "nirnus-bind") (w256Bytes t) sig with
      | true => st = .ok ∧ chanOf u q = { bound := true, via := (chanOf s q).via } ∧
          (u.keys.slots.getD (8 + 2 * q) {}).use = .port ∧ (u.keys.slots.getD (8 + 2 * q) {}).valid = true ∧
          (u.keys.slots.getD (9 + 2 * q) {}).valid = true
      | false => st = .flowDenied ∧ chanOf u q = {} ∧ u.keys.slots = s.keys.slots) ∧
  (∀ (s : State) (via : Port) (tag q k : Nat) (ok : Bool) (m : KeyMsg),
    (heard s.lmx via = false ∨ (chanOf s q).bound = false ∨ ok = false ∨ ∃ n, (chanOf s q).lastIn = some n ∧ k ≤ n) →
    exec (.partyMessage via tag q k ok (.key m)) s = .next s) ∧
  (∀ (s : State) (via : Port) (tag q k : Nat) (m : KeyMsg), heard s.lmx via = true → (chanOf s q).bound = true →
    (chanOf s q).lastIn = none → 2 ^ 64 - 1 ≤ k → q < 8 → s.keys.channels.length = 8 →
    ∃ t, exec (.partyMessage via tag q k true (.key m)) s = .next t ∧ chanOf t q = {} ∧ t.keys.slots.getD (8 + 2 * q) {} = {} ∧
      t.keys.slots.getD (9 + 2 * q) {} = {} ∧ t.mem = s.mem) ∧
  (∀ (s : State) (via : Port) (tag q k : Nat) (ok : Bool) (m : KeyMsg),
    (m.op = 1 → exec (.partyMessage via tag q k ok (.key m)) s = exec (.deliver via tag q m ⟨k, ok⟩) s) ∧
    (m.op = 2 → exec (.partyMessage via tag q k ok (.key m)) s = exec (.partyZeroize via tag q m ⟨k, ok⟩) s) ∧
    (m.op = 3 → exec (.partyMessage via tag q k ok (.key m)) s = exec (.query via tag q m ⟨k, ok⟩) s) ∧
    (m.op = 4 → exec (.partyMessage via tag q k ok (.key m)) s = exec (.spaceBind via tag q m ⟨k, ok⟩) s)) ∧
  (∀ (s : State) (via : Port) (tag q k : Nat) (m : KeyMsg), heard s.lmx via = true → messageGood s q ⟨k, true⟩ → (m.op = 0 ∨ 4 < m.op) →
    exec (.partyMessage via tag q k true (.key m)) s = .next (partyAnswer (messageTaken s q ⟨k, true⟩) via tag q .badDescriptor [])) ∧
  (∀ (s : State) (via : Port) (tag q k slot : Nat) (ok : Bool) (r : SpaceReq), heard s.lmx via = true →
    ((spaceGet s slot).bound = false ∨ spaceParty s slot ≠ some q) →
    exec (.partyMessage via tag q k ok (.space slot r)) s = .next (refuseMsg s via)) ∧
  (∀ (s : State) (via : Port) (tag q : Nat) (m : KeyMsg) (a : MsgAuth), heard s.lmx via = true → messageGood s q a → q < 8 →
    s.keys.slots.length = 256 →
    (∀ st : Status, deliverCheck s q m = some st →
      exec (.deliver via tag q m a) s = .next (partyAnswer (messageTaken s q a) via tag q st [])) ∧
    (deliverCheck s q m = none → m.kind = 0 →
      ∃ u, exec (.deliver via tag q m a) s = .next (partyAnswer u via tag q .ok []) ∧ u.keys.channels = (messageTaken s q a).keys.channels ∧
        u.keys.pendings = s.keys.pendings ∧ u.sp = s.sp ∧
        (m.use = 5 → u.mem = s.mem ∧ u.keys.slots.getD m.slot {} =
          { valid := true, use := .kdf, ownerSet := BitVec.ofNat 8 (2 ^ q), origin := 2, party := q, key := m.material }) ∧
        (m.use = 3 → u.mem = s.mem ∧ u.keys.slots.getD m.slot {} =
          { valid := true, use := .wrap, ownerSet := BitVec.ofNat 8 (2 ^ q), origin := 2, party := q, key := m.material }) ∧
        (m.use = 0 → (rangeKey s m.target).keyless = false → u.mem = s.mem ∧ u.ciph = s.ciph ∧ u.keys.slots.getD m.slot {} =
          { valid := true, use := .memRange, ownerSet := BitVec.ofNat 8 (2 ^ q), origin := 2, target := m.target, party := q,
            key := m.material }) ∧
        (m.use = 0 → (rangeKey s m.target).keyless = true → m.target < s.ciph.ranges.length →
          (rangeKey u m.target).curSlot = m.slot ∧ (rangeKey u m.target).keyless = false ∧ (rangeKey u m.target).walk = 1 ∧
          u.keys.slots.getD m.slot {} =
          { valid := true, use := .memRange, ownerSet := BitVec.ofNat 8 (2 ^ q), origin := 2,
            target := m.target, party := q, locked := true, key := m.material }) ∧
        (m.use = 1 → s.keys.fabCur = none → u.mem = s.mem ∧ u.keys.fabCur = some m.slot ∧ u.keys.fabGen = m.generation ∧
          u.fabric.seq = 0 ∧ u.fabric.windows = [] ∧ u.keys.slots.getD m.slot {} =
          { valid := true, use := .fabric,
            ownerSet := compactOwners s, origin := 2, party := q, locked := true, key := m.material }) ∧
        (m.use = 1 → s.keys.fabCur ≠ none → u.mem = s.mem ∧ u.keys.fabCur = s.keys.fabCur ∧ u.keys.fabOther = some m.slot ∧
          u.keys.fabStaged = true ∧ u.keys.fabOtherGen = m.generation ∧ u.fabric.seq = s.fabric.seq ∧
          u.keys.slots.getD m.slot {} =
          { valid := true, use := .fabric, ownerSet := compactOwners s, origin := 2, party := q,
            locked := true, prev := true, key := m.material })) ∧
    (∀ (parts : List (Nat × W256)) (rest : List Derivation), deliverCheck s q m = none → m.kind = 1 → parts = ((pendingOf s m).map (·.parts)).getD [] ++ [(q, m.material)] →
      rest = s.keys.pendings.filter (fun x => decide (some x ≠ pendingOf s m)) →
      ∃ u, exec (.deliver via tag q m a) s = .next (partyAnswer u via tag q .ok []) ∧ u.sp = s.sp ∧
        if (derivParties s m).all (fun p => parts.any fun x => x.1 == p) then
          u.keys.pendings = rest ∧ (u.keys.slots.getD m.slot {}).key = jointKey s m parts ∧ (u.keys.slots.getD m.slot {}).origin = 3 ∧
            (u.keys.slots.getD m.slot {}).valid = true
        else u.keys.pendings = rest ++ [⟨m.use, m.slot, m.target, m.generation, parts⟩] ∧ u.keys.slots = s.keys.slots ∧ u.mem = s.mem)) ∧
  (∀ (s : State) (via : Port) (tag q : Nat) (m : KeyMsg) (a : MsgAuth), heard s.lmx via = true → messageGood s q a → q < 8 →
    ((m.reservedZero = false ∨ useOfCode m.use = none ∨ m.slot < 32 ∨ 127 < m.slot) →
      exec (.partyZeroize via tag q m a) s = .next (partyAnswer (messageTaken s q a) via tag q .badDescriptor []) ∧
      exec (.query via tag q m a) s = .next (partyAnswer (messageTaken s q a) via tag q .badDescriptor [])) ∧
    (m.reservedZero = true → useOfCode m.use ≠ none → 32 ≤ m.slot → m.slot ≤ 127 →
      ((s.keys.slots.getD m.slot {}).valid = false →
        exec (.partyZeroize via tag q m a) s = .next (partyAnswer (messageTaken s q a) via tag q .ok []) ∧
        exec (.query via tag q m a) s = .next (partyAnswer (messageTaken s q a) via tag q .flowDenied [])) ∧
      ((s.keys.slots.getD m.slot {}).valid = true →
        ((s.keys.slots.getD m.slot {}).ownerSet ≠ BitVec.ofNat 8 (2 ^ q) ∨ (s.keys.slots.getD m.slot {}).locked = true) →
        exec (.partyZeroize via tag q m a) s = .next (partyAnswer (messageTaken s q a) via tag q .flowDenied [])) ∧
      ((s.keys.slots.getD m.slot {}).valid = true → (s.keys.slots.getD m.slot {}).ownerSet = BitVec.ofNat 8 (2 ^ q) →
        (s.keys.slots.getD m.slot {}).locked = false →
        ∃ u, exec (.partyZeroize via tag q m a) s = .next (partyAnswer u via tag q .ok []) ∧ u.keys.slots.getD m.slot {} = {} ∧
          u.mem = s.mem ∧ (∀ i, i < 256 → i ≠ m.slot → u.keys.slots.getD i {} = s.keys.slots.getD i {})) ∧
      ((s.keys.slots.getD m.slot {}).valid = true → (s.keys.slots.getD m.slot {}).ownerSet.getLsbD q = false →
        exec (.query via tag q m a) s = .next (partyAnswer (messageTaken s q a) via tag q .flowDenied [])) ∧
      ((s.keys.slots.getD m.slot {}).valid = true → (s.keys.slots.getD m.slot {}).ownerSet.getLsbD q = true →
        exec (.query via tag q m a) s = .next (partyAnswer (messageTaken s q a) via tag q .ok
          (natLe 8 (keySlotWord (s.keys.slots.getD m.slot {})).toNat))))) ∧
  (∀ (s : State) (via : Port) (tag q : Nat) (m : KeyMsg) (a : MsgAuth) (zero : Bool), heard s.lmx via = true → messageGood s q a →
    zero = (m.reservedZero && decide (m.use = 0 ∧ m.slot = 0 ∧ m.kind = 0 ∧ m.material = 0 ∧ m.generation = 0)) →
    exec (.spaceBind via tag q m a) s = .next
      (if zero = false then partyAnswer (messageTaken s q a) via tag q .badDescriptor []
      else if 16 ≤ m.target ∨ (s.rig.active.spaces.getD m.target {}).creatable = false ∨
          (s.rig.active.spaces.getD m.target {}).party ≠ q then partyAnswer (messageTaken s q a) via tag q .flowDenied []
      else if (spaceGet s m.target).state ≠ 1 ∨ (spaceGet s m.target).bound = true then
        partyAnswer (messageTaken s q a) via tag q .busy []
      else partyAnswer { messageTaken s q a with sp := spaceMod s.sp m.target fun y => { y with bound := true } } via tag q .ok []))

/-- LC_FIELD over a session that may write, in STOCK with a transition accepted (no live space, role, rig in the buffer, walk or fill, and a
free record), ends any grant and starts the transition to FIELD; elsewhere it replies BUSY and records it. LC_PORT starts BLANK to
TEST_LOCKED, and over TEST_OPEN TEST_LOCKED to STOCK; the latter waits for a failing entropy source. A transition under way goes on with
an empty queue, a half-step at a time (each fuse step, then its mark): to TEST_LOCKED, FIELD or RETURN the eleventh step ends it in a warm
reset with cause 5 and READY in the new state, the vault as it was; to STOCK with an empty vault and a good source the thirteenth, the
drawn root secret in both vault copies; to STOCK with a vault that holds set bits the twelfth, the vault as it was and vault_ok 0. The
model's choices here are log entries 128 (the half-steps on an empty queue) and 64 (a JTAG row as one scan). -/
def Obligations.LifeCycleTransitions : Prop :=
  (∀ (s : State) (p : Port) (tag : Nat) (b : Boot), mayWrite s p → lcNow s.lc = 3 → lcFree s = true →
    exec (.lcField p tag b) s = .next (mgmtReply { s with lc := { s.lc with
      grant := none, going := some { target := 4, slot := recFree s.lc, boot := b }, lastStatus := .ok } } p tag .ok [])) ∧
  (∀ (s : State) (p : Port) (tag : Nat) (b : Boot), mayWrite s p → (lcNow s.lc ≠ 3 ∨ lcFree s = false) →
    exec (.lcField p tag b) s = .next (mgmtReply { s with lc := { s.lc with lastStatus := .busy } } p tag .busy [])) ∧
  (∀ (s u : State) (k : Nat) (confirm : BitVec 32) (b : Boot), s.power.tapLive = true → jtagOpen s 0x30 = true →
    u = { s with jtag := { s.jtag with ir := 0x30, driving := false } } →
    ((k = 1 ∧ s.lc.state = 0 ∧ s.lc.testOpen = false) ∨ (k = 3 ∧ s.lc.state = 1 ∧ s.lc.testOpen = true ∧ s.keys.entropyOk = true)) →
    exec (.lcPort k confirm b) s = .next (if lcFree s then jtagDone { u with lc := { u.lc with
      grant := none, going := some { target := k, slot := recFree s.lc, boot := b } } } 0 .ok else jtagDone u 0 .busy)) ∧
  (∀ (s u : State) (confirm : BitVec 32) (b : Boot), s.power.tapLive = true → jtagOpen s 0x30 = true → s.keys.entropyOk = false →
    u = { s with jtag := { s.jtag with ir := 0x30, driving := false } } →
    exec (.lcPort 3 confirm b) s = .next { u with keys := { u.keys with waiting := u.keys.waiting ++ [.lcPort 3 confirm b] } }) ∧
  (∀ (s : State) (b : Boot) (k g i : Nat), s.pending = [] → s.lc.going = some { target := g, slot := some i, boot := b } →
    ((k = 0 ∧ g = 1) ∨ (k = 3 ∧ g = 4) ∨ (k = 4 ∧ g = 5)) → fuseState s k → recFree s.lc = some i → s.power.resetN = true →
    s.power.strikeN = true → bootGood b →
    ∃ t, core.run 11 s = .next t ∧ isReady t ∧ t.lc.state = g ∧ t.err.lastCause = 5 ∧ t.lc.vault0 = s.lc.vault0 ∧
      t.lc.vault1 = s.lc.vault1 ∧ t.lmx.a.session = 0 ∧ t.lmx.b.session = 0) ∧
  (∀ (s : State) (b : Boot) (i : Nat), s.pending = [] → s.lc.going = some { target := 3, slot := some i, boot := b } →
    fuseState s 1 → recFree s.lc = some i → s.keys.entropyOk = true → vaultUsed s.lc = false → s.power.resetN = true →
    s.power.strikeN = true → bootGood b →
    ∃ t, core.run 13 s = .next t ∧ isReady t ∧ t.lc.state = 3 ∧ t.lc.testOpen = false ∧ t.lc.vault0 = drawAt s 0 ∧
      t.lc.vault1 = drawAt s 0) ∧
  (∀ (s : State) (b : Boot) (i : Nat), s.pending = [] → s.lc.going = some { target := 3, slot := some i, boot := b } →
    fuseState s 1 → recFree s.lc = some i → vaultUsed s.lc = true → s.power.resetN = true → s.power.strikeN = true → bootGood b →
    ∃ t, core.run 12 s = .next t ∧ isReady t ∧ t.lc.state = 3 ∧ t.keys.vaultOk = false ∧ t.lc.vault0 = s.lc.vault0 ∧
      t.lc.vault1 = s.lc.vault1)

/-- With the confirm value equal to bits [31:0] of ID_SERIAL, both strike every key with cause 9 at once, with READY low, both bypasses closed
and the fuse steps of the scrap to follow; with another value LC_SCRAP replies BAD_DESCRIPTOR and LC_PORT records it. The scrap goes on
with an empty queue and whatever record was free: its seventeenth step leaves state 6 with every copy 0xFFFF, both vault copies all ones,
the trims wiped, the flash erased and the module stopped at step 3. The model's choice here is log entry 128 (the half-steps on an empty
queue). -/
def Obligations.ScrapWipesEverything : Prop :=
  (∀ (s : State) (p : Port) (tag : Nat) (confirm : BitVec 32), mayWrite s p → confirm.toNat = s.power.serial.toNat % 2 ^ 32 →
    ∃ t, exec (.lcScrap p tag confirm) s = .next t ∧ isStruck t ∧ t.keys.strikeCause = 9 ∧
      t.lc.going = some { target := 6, slot := recFree s.lc } ∧ t.lc.copies = s.lc.copies) ∧
  (∀ (s : State) (p : Port) (tag : Nat) (confirm : BitVec 32), mayWrite s p → confirm.toNat ≠ s.power.serial.toNat % 2 ^ 32 →
    exec (.lcScrap p tag confirm) s =
      .next (mgmtReply { s with lc := { s.lc with lastStatus := .badDescriptor } } p tag .badDescriptor [])) ∧
  (∀ (s : State) (confirm : BitVec 32) (b : Boot), s.power.tapLive = true → jtagOpen s 0x30 = true →
    confirm.toNat = s.power.serial.toNat % 2 ^ 32 →
    ∃ t, exec (.lcPort 6 confirm b) s = .next t ∧ isStruck t ∧ t.keys.strikeCause = 9 ∧
      t.lc.going = some { target := 6, slot := recFree s.lc } ∧ t.lc.copies = s.lc.copies) ∧
  (∀ (s : State) (confirm : BitVec 32) (b : Boot), s.power.tapLive = true → jtagOpen s 0x30 = true →
    confirm.toNat ≠ s.power.serial.toNat % 2 ^ 32 →
    exec (.lcPort 6 confirm b) s = .next (jtagDone { s with jtag := { s.jtag with ir := 0x30, driving := false } } 0 .badDescriptor)) ∧
  (∀ (s : State) (b : Boot) (slot : Option Nat), s.pending = [] → s.lc.going = some { target := 6, slot := slot, boot := b } →
    s.lc.copies.length = 3 →
    ∃ t, core.run 17 s = .next t ∧ t.lc.state = 6 ∧ t.lc.copies = [0xFFFF, 0xFFFF, 0xFFFF] ∧ t.lc.vault0 = BitVec.allOnes 256 ∧
      t.lc.vault1 = BitVec.allOnes 256 ∧ t.lc.trimsWiped = true ∧ t.lc.flashErased = true ∧ t.lc.flashImage = [] ∧
      t.power.bootStep = 3 ∧ t.power.scrapStop = true ∧ t.lc.going = none ∧ t.keys = s.keys ∧ t.power.ready = s.power.ready)

/-- CHALLENGE with purpose 1 to 3 over a session that may write, while the entropy source is well and the signing queue has room, replaces the
challenge held by one of that purpose whose 128 bytes hold one fresh drawn value, writes them at offset 0 of the debug buffer, takes its
place at the end of the signing queue, the old one's place given up, and replies OK; its scope is kept for purpose 1 and is 0 otherwise.
Another purpose replies BAD_DESCRIPTOR, a full queue BUSY, and while the source fails it waits. CHALLENGE_DONE on a module with an
identity, with the challenge first in the queue, puts the identity's signature, hedged with the next draw, behind it and holds the digest
of the whole; behind an older request it changes nothing; on a module with no identity zeros take the signature's place and nothing is
drawn. The model's choices here are log entries 62 (the body at once, zeros for a signature) and 63 (the two refusals). -/
def Obligations.ChallengeIsDrawnAndSigned : Prop :=
  (∀ (s : State) (p : Port) (tag purpose scope : Nat) (q : List QuoteReq) (body : List Byte), mayWrite s p → s.keys.entropyOk = true →
    purpose ≠ 0 → purpose ≤ 3 → q = s.keys.quotes.filter (fun r => r.dest != .challenge) → (q.length < 64 ∨ s.keys.vaultOk = false) →
    body = challengeBody s purpose (if purpose = 1 then scope % 16 else 0) (drawAt s 0) →
    ∃ u, exec (.challenge p tag purpose scope) s = .next (mgmtReply u p tag .ok []) ∧
      u.lc.chal = some ⟨purpose, if purpose = 1 then scope % 16 else 0, body, none⟩ ∧ u.lc.buf = putBytes [] 0 body ∧
      u.keys.quotes = (if s.keys.vaultOk then q ++ [⟨0, [], .challenge⟩] else q) ∧
      u.draws = s.draws + 1 ∧ u.lc.grant = s.lc.grant ∧ u.keys.slots = s.keys.slots) ∧
  (∀ (s : State) (p : Port) (tag purpose scope : Nat), mayWrite s p → s.keys.entropyOk = true → (purpose = 0 ∨ 3 < purpose) →
    exec (.challenge p tag purpose scope) s =
      .next (mgmtReply { s with lc := { s.lc with dbgStatus := .badDescriptor, dbgReason := 0 } } p tag .badDescriptor [])) ∧
  (∀ (s : State) (p : Port) (tag purpose scope : Nat), mayWrite s p → s.keys.entropyOk = true → s.keys.vaultOk = true → purpose ≠ 0 →
    purpose ≤ 3 → 64 ≤ (s.keys.quotes.filter fun r => r.dest != .challenge).length →
    exec (.challenge p tag purpose scope) s =
      .next (mgmtReply { s with lc := { s.lc with dbgStatus := .busy, dbgReason := 0 } } p tag .busy [])) ∧
  (∀ (s : State) (p : Port) (tag purpose scope : Nat), mayWrite s p → s.keys.entropyOk = false →
    exec (.challenge p tag purpose scope) s =
      .next { s with keys := { s.keys with waiting := s.keys.waiting ++ [.challenge p tag purpose scope] } }) ∧
  (∀ (s : State) (c : Challenge) (r : QuoteReq) (rest : List QuoteReq), s.lc.chal = some c → c.digest = none → s.keys.entropyOk = true →
    s.keys.vaultOk = true → s.keys.quotes = r :: rest → r.dest = .challenge →
    ∃ t sig, exec .challengeDone s = .next t ∧
      sig = identitySign (s.keys.slots.getD 0 {}) "nirnus-dbg-challenge" c.body (drawAt s 0) ∧
      t.lc.chal = some { c with digest := some (shakeW (c.body ++ sig)) } ∧ t.lc.buf = putBytes s.lc.buf 128 sig ∧
      t.keys.quotes = rest ∧ t.draws = s.draws + 1) ∧
  (∀ (s : State) (c : Challenge) (r : QuoteReq) (rest : List QuoteReq), s.lc.chal = some c → s.keys.vaultOk = true →
    s.keys.quotes = r :: rest → r.dest ≠ .challenge → exec .challengeDone s = .next s) ∧
  (∀ (s : State) (c : Challenge) (sig : List Byte), s.lc.chal = some c → c.digest = none →
    s.keys.vaultOk = false → sig = List.replicate 17088 0 →
    exec .challengeDone s = .next { s with lc := { s.lc with
      chal := some { c with digest := some (shakeW (c.body ++ sig)) }, buf := putBytes s.lc.buf 128 sig } })

/-- ACCEPT with no challenge replies BUSY. Every other ACCEPT consumes the challenge and its place in the signing queue: one whose purpose the
state does not admit replies BUSY; a token that fails a check replies FLOW_DENIED with its reason. A good purpose-1 token with no Shared
rig in force or being committed sets the grant to its scope; with one it strikes every key with cause 7 and restarts READY under the house
rig with the grant kept. A good purpose-2 token starts the transition to RETURN where one is accepted, else it replies BUSY. A good
purpose-3 token uses the lowest clear test-token bit, strikes every key with cause 7 and restarts in a TEST_OPEN session; with all 16
tokens used it replies BUSY. DBG_CLOSE ends any grant. The model's choice here is log entry 62 (a challenge not yet signed matches no
token). -/
def Obligations.TokensOpenWhatTheyGrant : Prop :=
  (∀ (s : State) (p : Port) (tag : Nat) (b : Boot), mayWrite s p → s.lc.chal = none →
    exec (.accept p tag b) s =
      .next (mgmtReply { s with lc := { s.lc with dbgStatus := .busy, dbgReason := 0 } } p tag .busy [])) ∧
  (∀ (s u : State) (p : Port) (tag : Nat) (b : Boot) (c : Challenge), mayWrite s p → s.lc.chal = some c →
    u = { s with
      lc := { s.lc with chal := none }
      keys := { s.keys with quotes := s.keys.quotes.filter fun r => r.dest != .challenge } } →
    (purposeAdmitted (lcNow s.lc) c.purpose = false →
      exec (.accept p tag b) s =
        .next (mgmtReply { u with lc := { u.lc with dbgStatus := .busy, dbgReason := 0 } } p tag .busy [])) ∧
    (purposeAdmitted (lcNow s.lc) c.purpose = true →
      ((c.purpose = 1 ∧ sharedSoon s = false) ∨ c.purpose = 2 ∨ (c.purpose = 3 ∧ s.lc.tokens = BitVec.allOnes 16)) →
      exec (.accept p tag b) s = match tokenReason s c with
        | some r => .next (mgmtReply { u with lc := { u.lc with dbgStatus := .flowDenied, dbgReason := r } } p tag .flowDenied [])
        | none =>
          if c.purpose = 1 then
            .next (mgmtReply { u with lc := { u.lc with
              grant := some (BitVec.ofNat 4 (leNat (dbgBytes s 5 1))), dbgStatus := .ok, dbgReason := 0 } } p tag .ok [])
          else if c.purpose = 2 ∧ lcFree s = true then
            .next (mgmtReply { u with lc := { u.lc with
              grant := none, going := some { target := 5, slot := recFree s.lc, boot := b }, dbgStatus := .ok, dbgReason := 0 } }
              p tag .ok [])
          else .next (mgmtReply { u with lc := { u.lc with dbgStatus := .busy, dbgReason := 0 } } p tag .busy [])) ∧
    (∀ k : Nat, purposeAdmitted (lcNow s.lc) c.purpose = true → c.purpose = 1 → sharedSoon s = true →
      fuseState s k → starts k → s.power.resetN = true → s.power.strikeN = true → bootGood b →
      ∃ t, exec (.accept p tag b) s = .next t ∧ match tokenReason s c with
        | some r => t = mgmtReply { u with lc := { u.lc with dbgStatus := .flowDenied, dbgReason := r } } p tag .flowDenied []
        | none => isReady t ∧ t.keys.strikeCause = 7 ∧ isShared t = false ∧
            t.lc.grant = some (BitVec.ofNat 4 (leNat (dbgBytes s 5 1))) ∧ t.lc.chal = none) ∧
    (∀ k i : Nat, purposeAdmitted (lcNow s.lc) c.purpose = true → c.purpose = 3 → i < 16 →
      s.lc.tokens.getLsbD i = false → (∀ j, j < i → s.lc.tokens.getLsbD j = true) → fuseState s k → starts k →
      s.power.resetN = true → s.power.strikeN = true → bootGood b →
      ∃ t, exec (.accept p tag b) s = .next t ∧ match tokenReason s c with
        | some r => t = mgmtReply { u with lc := { u.lc with dbgStatus := .flowDenied, dbgReason := r } } p tag .flowDenied []
        | none => isReady t ∧ t.lc.testOpen = true ∧ t.keys.strikeCause = 7 ∧
            t.lc.tokens = s.lc.tokens ||| BitVec.ofNat 16 (2 ^ i))) ∧
  (∀ (s : State) (p : Port) (tag : Nat), mayWrite s p →
    exec (.dbgClose p tag) s =
      .next (mgmtReply { s with lc := { s.lc with grant := none, dbgStatus := .ok, dbgReason := 0 } } p tag .ok []))

/-- Below the buffer's end a read answers the 8 bytes at the pointer and a write stores 8 bytes there, and both move the pointer on by 8; at
or beyond it a read answers zeros, a write does nothing, and the pointer stays. -/
def Obligations.DebugBufferAccess : Prop :=
  (∀ (s : State) (p : Port) (tag : Nat), mayRead s p → s.lc.bufPtr < dbgLimit →
    exec (.dbgBufAccess p tag none) s =
      .next (mgmtReply { s with lc := { s.lc with bufPtr := s.lc.bufPtr + 8 } } p tag .ok (dbgBytes s s.lc.bufPtr 8))) ∧
  (∀ (s : State) (p : Port) (tag : Nat), mayRead s p → dbgLimit ≤ s.lc.bufPtr →
    exec (.dbgBufAccess p tag none) s = .next (mgmtReply s p tag .ok (List.replicate 8 0))) ∧
  (∀ (s : State) (p : Port) (tag : Nat) (v : Word), mayWrite s p → s.lc.bufPtr < dbgLimit →
    exec (.dbgBufAccess p tag (some v)) s = .next (mgmtReply { s with lc := { s.lc with
      buf := putBytes s.lc.buf s.lc.bufPtr (natLe 8 v.toNat), bufPtr := s.lc.bufPtr + 8 } } p tag .ok [])) ∧
  (∀ (s : State) (p : Port) (tag : Nat) (v : Word), mayWrite s p → dbgLimit ≤ s.lc.bufPtr →
    exec (.dbgBufAccess p tag (some v)) s = .next (mgmtReply s p tag .ok []))

/-- With the TAP live, loading an instruction of Table 17-5 that is open selects it; one that is not open selects the 1-bit bypass register
and adds one to DBG_STATUS.refused (saturating at 15 bits); a code that the table does not list selects bypass and counts nothing. EXTEST
takes the boundary cells and drives the pins; IDCODE captures 0xB0840943; SAMPLE_PRELOAD takes the cells and drives nothing; BYPASS shifts
one bit; DBG_READ captures DBG_GRANT, and is not open in a scrapped module; a test reset leaves the TAP at its reset value. Nothing else
changes. The model's choice here is log entry 64 (a JTAG row as the load and one scan). -/
def Obligations.JtagInstructionsSelect : Prop :=
  (∀ (s : State) (ir : BitVec 8), s.power.tapLive = true → jtagKnown ir.toNat = true → jtagOpen s ir.toNat = true →
    exec (.jtagIrUpdate ir) s = .next { s with jtag := { s.jtag with ir := ir, driving := ir == 0 } }) ∧
  (∀ (s : State) (ir : BitVec 8), s.power.tapLive = true → jtagKnown ir.toNat = true → jtagOpen s ir.toNat = false →
    exec (.jtagIrUpdate ir) s = .next { s with
      jtag := { s.jtag with ir := 0xFF, driving := false }, lc := { s.lc with refused := satAdd 15 s.lc.refused 1 } }) ∧
  (∀ (s : State) (ir : BitVec 8), s.power.tapLive = true → jtagKnown ir.toNat = false →
    exec (.jtagIrUpdate ir) s = .next { s with jtag := { s.jtag with ir := 0xFF, driving := false } }) ∧
  (∀ ir : Nat, jtagKnown ir = true ↔ ir ∈ [0x00, 0x01, 0x02, 0xFF, 0x20, 0x21, 0x22, 0x23, 0x24, 0x30]) ∧
  (∀ (s : State) (l : List Bool), s.power.tapLive = true →
    exec (.extest l) s = .next { s with jtag := { s.jtag with ir := 0, driving := true, cells := l } }) ∧
  (∀ s : State, s.power.tapLive = true →
    exec .idcode s = .next { s with jtag := { s.jtag with ir := 1, driving := false, dr := 0xB0840943 } }) ∧
  (∀ (s : State) (l : List Bool), s.power.tapLive = true →
    exec (.samplePreload l) s = .next { s with jtag := { s.jtag with ir := 2, driving := false, cells := l } }) ∧
  (∀ (s : State) (b : Bool), s.power.tapLive = true →
    exec (.bypass b) s = .next { s with jtag := { s.jtag with ir := 0xFF, driving := false, bypassBit := b } }) ∧
  (∀ s : State, s.power.tapLive = true → s.power.scrapStop = true →
    exec .dbgRead s = .next { s with
      jtag := { s.jtag with ir := 0xFF, driving := false }, lc := { s.lc with refused := satAdd 15 s.lc.refused 1 } }) ∧
  (∀ s : State, s.power.tapLive = true → s.power.scrapStop = false →
    exec .dbgRead s = .next { s with jtag := { s.jtag with ir := 0x20, driving := false, dr := grantWord s } }) ∧
  (∀ s : State, s.power.tapLive = true → exec .jtagTestReset s = .next { s with jtag := {} })

/-- With the TAP live and the scope open: MEM_PORT while READY reads or writes a word by the debug access of R330 and R331, and waits where
that would reach a range that is being filled; before READY it answers BUSY. REG_PORT, READY or not, reads a register that it reaches,
answers BUSY to a write while a port holds the management lock, and FLOW_DENIED for one of the key-bearing registers cut from it. GRIP_DBG
halts and resumes a grip, steps one with no other effect, and reads a free value as its trace. INT_SCAN stops the clock of an engine,
controller or link island. A grip from 80 or an island from 120 answers BAD_DESCRIPTOR. Where the scope is not open, and nothing else
follows, each of the four selects the bypass register and changes nothing but the refused count. The model's choices here are log entries
64 (a JTAG row as one scan), 65 (MEM_PORT before READY, a cut register), 66 (step, trace and scanned data), 67 (the two refusals), 78 (the
log kind of a window access) and 125 (what waits for a fill). -/
def Obligations.DebugPortsReachWhatIsOpen : Prop :=
  (∀ (s u : State) (addr : Nat), s.power.tapLive = true → jtagOpen s 0x21 = true → s.power.ready = true →
    u = { s with jtag := { s.jtag with ir := 0x21, driving := false } } → debugWaits s addr = false →
    exec (.memPort addr none) s = .next (jtagDone (debugRead u addr).st
      (if (debugRead u addr).status = .ok then BitVec.ofNat 64 (leNat (debugRead u addr).bytes) else 0) (debugRead u addr).status)) ∧
  (∀ (s u : State) (addr : Nat) (v : Word), s.power.tapLive = true → jtagOpen s 0x21 = true → s.power.ready = true →
    u = { s with jtag := { s.jtag with ir := 0x21, driving := false } } → debugWaits s addr = false →
    exec (.memPort addr (some v)) s = .next (jtagDone (debugWrite u addr v).st v (debugWrite u addr v).status)) ∧
  (∀ (s u : State) (addr : Nat) (w : Option Word), s.power.tapLive = true → jtagOpen s 0x21 = true → s.power.ready = true →
    u = { s with jtag := { s.jtag with ir := 0x21, driving := false } } → debugWaits s addr = true →
    exec (.memPort addr w) s = .next { u with ciph := { u.ciph with waiting := u.ciph.waiting ++ [.memPort addr w] } }) ∧
  (∀ (s u : State) (addr : Nat) (w : Option Word), s.power.tapLive = true → jtagOpen s 0x21 = true → s.power.ready = false →
    u = { s with jtag := { s.jtag with ir := 0x21, driving := false } } → exec (.memPort addr w) s = .next (jtagDone u 0 .busy)) ∧
  (∀ (s u : State) (off : BitVec 24) (b : Boot), s.power.tapLive = true → jtagOpen s 0x22 = true → windowWaits s off.toNat 1 = false →
    regPortCut off.toNat = false → u = { s with jtag := { s.jtag with ir := 0x22, driving := false } } →
    exec (.regPort off none b) s = .next (settle (jtagDone (regRead u off.toNat).1 (regRead u off.toNat).2 .ok))) ∧
  (∀ (s u : State) (off : BitVec 24) (v : Word) (b : Boot), s.power.tapLive = true → jtagOpen s 0x22 = true → settled s →
    windowWaits s off.toNat 1 = false → regPortCut off.toNat = false → s.lmx.lock ≠ 0 →
    u = { s with jtag := { s.jtag with ir := 0x22, driving := false } } →
    exec (.regPort off (some v) b) s = .next (jtagDone u v .busy)) ∧
  (∀ (s u : State) (off : BitVec 24) (w : Option Word) (b : Boot), s.power.tapLive = true → jtagOpen s 0x22 = true → settled s →
    regPortCut off.toNat = true → u = { s with jtag := { s.jtag with ir := 0x22, driving := false } } →
    exec (.regPort off w b) s = .next (jtagDone u 0 .flowDenied)) ∧
  (∀ (s : State) (g : Nat), s.power.tapLive = true → jtagOpen s 0x23 = true → g < 80 →
    ∃ t, exec (.gripDbg g .halt) s = .next t ∧ g ∈ t.gaf.haltedGrips ∧ t.sp = s.sp ∧ t.mem = s.mem) ∧
  (∀ (s : State) (g : Nat), s.power.tapLive = true → jtagOpen s 0x23 = true → g < 80 →
    ∃ t, exec (.gripDbg g .resume) s = .next t ∧ ¬ g ∈ t.gaf.haltedGrips ∧ t.sp = s.sp ∧ t.mem = s.mem) ∧
  (∀ (s u : State) (g : Nat), s.power.tapLive = true → jtagOpen s 0x23 = true → g < 80 →
    u = { s with jtag := { s.jtag with ir := 0x23, driving := false } } →
    exec (.gripDbg g .step) s = .next (jtagDone u 0 .ok) ∧
    exec (.gripDbg g .trace) s = .next (jtagDone { u with freeCtr := s.freeCtr + 1 } (freeAt s 0) .ok)) ∧
  (∀ (s : State) (g n : Nat) (o : GripOp), s.power.tapLive = true → 80 ≤ g → 120 ≤ n →
    (jtagOpen s 0x23 = true → exec (.gripDbg g o) s =
      .next (jtagDone { s with jtag := { s.jtag with ir := 0x23, driving := false } } 0 .badDescriptor)) ∧
    (jtagOpen s 0x24 = true → exec (.intScan n) s =
      .next (jtagDone { s with jtag := { s.jtag with ir := 0x24, driving := false } } 0 .badDescriptor))) ∧
  (∀ (s : State) (n : Nat), s.power.tapLive = true → jtagOpen s 0x24 = true → n < 120 → n < s.gaf.islands.length →
    ∃ t, exec (.intScan n) s = .next t ∧ clockStopped t n = true ∧ t.keys = s.keys ∧ t.mem = s.mem) ∧
  (∀ (s : State) (c : Instr) (k : Nat), s.power.tapLive = true → settled s →
    ((k = 0x21 ∧ ∃ a w, c = .memPort a w) ∨ (k = 0x22 ∧ ∃ o w b, c = .regPort o w b) ∨ (k = 0x23 ∧ ∃ g o, c = .gripDbg g o) ∨
      (k = 0x24 ∧ ∃ n, c = .intScan n)) → jtagOpen s k = false →
    exec c s = .next { s with
      jtag := { s.jtag with ir := 0xFF, driving := false }, lc := { s.lc with refused := satAdd 15 s.lc.refused 1 } })

/-- A fault of an island while READY, and the release of an island whose clock a scan has stopped, recover alike. Of engine island n: every
command running on it ends with WATCHDOG and none is left running, one island reset is counted, its accumulators and staging are zeroed,
its wake epoch rises, its clock runs, and it is marked failed exactly where its self-test fails; READY stays as it was. Of a link island:
the link's buffers are emptied, it trains again or stays down where it may not train, and its clock runs; keys, memory and spaces stay. Of
an HBM controller, Basecamp or Reel service island: a warm reset with cause 6 that ends READY, every key slot struck. A fault before
READY, and a release of a clock that runs, change nothing. -/
def Obligations.IslandFaultsAreContained : Prop :=
  (∀ (s : State) (i : Instr) (n : Nat) (ok : Bool) (b : Boot), ((i = .islandFault n ok b ∧ s.power.ready = true) ∨
      (i = .intScanRelease n ok b ∧ clockStopped s n = true)) → n < 64 → n < s.gaf.islands.length → settled s →
    (∀ x ∈ s.col.slots, ∀ c ∈ s.sp.cmds, c.id = x.cid → engineNamed c ≠ some n) →
    ∃ t, exec i s = .next t ∧ t.power.ready = s.power.ready ∧ t.err.islResets = satAdd 32 s.err.islResets 1 ∧ clockStopped t n = false ∧
      (t.gaf.islands.getD n {}).epoch = ((s.gaf.islands.getD n {}).epoch + 1) % 2 ^ 16 ∧
      (ok = true → t.err.islFailed = s.err.islFailed) ∧ (ok = false → t.err.islFailed.getLsbD n = true) ∧
      (∀ c ∈ t.sp.cmds, engineNamed c = some n → cmdRunning c = false) ∧
      (∀ cid c, cmdGet s cid = some c → engineNamed c = some n → cmdRunning c = true → endsWith t cid .watchdog) ∧
      (∀ k, n * 2 ^ 20 ≤ k → k < (n + 1) * 2 ^ 20 → smGet 0 t.array.tiles k = 0) ∧
      (∀ k, n * 2 ^ 23 ≤ k → k < (n + 1) * 2 ^ 23 → smGet 0 t.array.staging k = 0)) ∧
  (∀ (s : State) (i : Instr) (n : Nat) (ok : Bool) (b : Boot), ((i = .islandFault n ok b ∧ s.power.ready = true) ∨
      (i = .intScanRelease n ok b ∧ clockStopped s n = true)) → 72 ≤ n → n < 120 → n < s.gaf.islands.length →
    n - 72 < s.fabric.links.length → settled s → (∀ x ∈ s.fabric.trackers, x.link = n - 72 → x.acked = true) →
    ∃ t, exec i s = .next t ∧ clockStopped t n = false ∧ (linkOf t (n - 72)).state = (if linkMay s (n - 72) then 1 else 3) ∧
      (linkOf t (n - 72)).replay = [] ∧ (linkOf t (n - 72)).build = [] ∧ (linkOf t (n - 72)).credit = 512 ∧ t.keys = s.keys ∧
      t.mem = s.mem ∧ t.sp = s.sp ∧ t.power = s.power) ∧
  (∀ (s : State) (i : Instr) (n c : Nat) (ok : Bool) (b : Boot), ((i = .islandFault n ok b ∧ s.power.ready = true) ∨
      (i = .intScanRelease n ok b ∧ clockStopped s n = true)) → ((64 ≤ n ∧ n < 72) ∨ (120 ≤ n ∧ n < 125)) →
    s.power.resetN = true → s.power.strikeN = true → fuseState s c → starts c → bootGood b →
    ∃ t, exec i s = .next t ∧ isReady t ∧ t.err.lastCause = 6 ∧ t.keys.strikeCause = 9) ∧
  (∀ (s : State) (n : Nat) (ok : Bool) (b : Boot), s.power.ready = false → exec (.islandFault n ok b) s = .next s) ∧
  (∀ (s : State) (n : Nat) (ok : Bool) (b : Boot), clockStopped s n = false → exec (.intScanRelease n ok b) s = .next s)

/-- SPACE_CREATE that its check refuses replies with the status and records it, FLOW_DENIED in the error log too; else the slot reads state 3
with the arguments' quotas. Its end, while its range is not being filled, makes it live over a zeroed control area, its channel bound for
the system space only; where the zero entries cannot be written the slot is empty again and the status is recorded (log entry 119).
SPACE_DESTROY of a slot with no space replies BAD_DESCRIPTOR, of one that is being created or destroyed BUSY; of a live space, with no
collective, cut or ended transaction, it reads state 2, its contexts are dying and no command of it is left to run; its end waits for its
last command, then frees the slot and all the space owned. CTX_CREATE takes a free number, empty of mask; with a rushes field out of range
it replies BAD_DESCRIPTOR, at the quota BUSY. CTX_SET replaces the rushes fields. CTX_QUERY answers the context's record. CTX_DESTROY of a
context without commands, with no collective, cut or ended transaction, removes it. A context of another space, or none, replies
BAD_DESCRIPTOR, a dying one BUSY. The model's choices here are log entries 107 (a number not in use is a free value), 119 (the control
area) and 135 (who is resident at once). -/
def Obligations.SpacesAndContextsLiveAndEnd : Prop :=
  (∀ (s : State) (p : Port) (tag slot : Nat) (st : Status), mayWrite s p → spaceCreateCheck s slot = some st →
    ∃ u, exec (.spaceCreate p tag slot) s = .next (mgmtReply u p tag st []) ∧
      u.sp = { s.sp with lastStatus := st, lastSlot := slot } ∧ u.mem = s.mem ∧ u.keys = s.keys ∧
      (st = .flowDenied → ∃ e ∈ u.err.entries, e.kind = 4)) ∧
  (∀ (s : State) (p : Port) (tag slot : Nat), mayWrite s p → spaceCreateCheck s slot = none → slot < s.sp.slots.length →
    ∃ u, exec (.spaceCreate p tag slot) s = .next (mgmtReply u p tag .ok []) ∧ (spaceGet u slot).state = 3 ∧
      (spaceGet u slot).bound = false ∧ (spaceGet u slot).party = (s.rig.active.spaces.getD slot {}).party ∧
      (spaceGet u slot).qCtx = (argSpace s slot).qCtx ∧ (spaceGet u slot).qFence = (argSpace s slot).qFence ∧
      (∀ k, k ≠ slot → spaceGet u k = spaceGet s k) ∧ u.mem = s.mem ∧ u.keys = s.keys) ∧
  (∀ (s : State) (slot : Nat) (x : Space) (w : MemWrite), slot < s.sp.slots.length → x = spaceGet s slot → x.state = 3 →
    filling s x.ctlRange = false → Memory.wf s.mem = true →
    w = zeroPages { space := slot } ((List.range ((ctlPages s x).2 - (ctlPages s x).1)).map ((ctlPages s x).1 + ·)) s →
    if w.status = .ok then
      ∃ t, exec (.spaceCreateDone slot) s = .next t ∧ spaceGet t slot = { x with state := 1, bound := x.party == 255 } ∧ t.mem = w.st.mem ∧
        (∀ a, (ctlPages s x).1 * 2 ^ 21 ≤ a → a < (ctlPages s x).2 * 2 ^ 21 → memByte t a = 0) ∧ t.keys = s.keys
    else
      ∃ t, exec (.spaceCreateDone slot) s = .next t ∧ spaceGet t slot = { aborted := x.aborted, depFailed := x.depFailed, refused := x.refused } ∧
        t.sp.lastStatus = w.status ∧ t.mem = w.st.mem ∧ t.keys = s.keys) ∧
  (∀ (s : State) (p : Port) (tag slot : Nat), mayWrite s p → (spaceGet s slot).state = 0 →
    exec (.spaceDestroy p tag slot) s =
      .next (mgmtReply { s with sp := { s.sp with lastStatus := .badDescriptor, lastSlot := slot } } p tag .badDescriptor [])) ∧
  (∀ (s : State) (p : Port) (tag slot : Nat), mayWrite s p → (spaceGet s slot).state ≠ 0 → (spaceGet s slot).state ≠ 1 →
    exec (.spaceDestroy p tag slot) s =
      .next (mgmtReply { s with sp := { s.sp with lastStatus := .busy, lastSlot := slot } } p tag .busy [])) ∧
  (∀ (s : State) (p : Port) (tag slot : Nat), mayWrite s p → (spaceGet s slot).state = 1 → slot < s.sp.slots.length → quiet s →
    ∃ u, exec (.spaceDestroy p tag slot) s = .next (mgmtReply u p tag .ok []) ∧ (spaceGet u slot).state = 2 ∧
      (∀ cid c, cmdGet u cid = some c → c.space = slot → cmdLive c = false) ∧ (∀ x ∈ u.sp.ctxs, x.space = slot → x.dying = true)) ∧
  (∀ (s : State) (slot : Nat), (∃ c ∈ s.sp.cmds, c.space = slot) → exec (.spaceDestroyDone slot) s = .next s) ∧
  (∀ (s : State) (slot : Nat), slot < s.sp.slots.length → (spaceGet s slot).state = 2 → (∀ c ∈ s.sp.cmds, c.space ≠ slot) →
    ∃ t, exec (.spaceDestroyDone slot) s = .next t ∧ (spaceGet t slot).state = 0 ∧
      (∀ x ∈ t.sp.ctxs, x.space ≠ slot) ∧ (∀ q ∈ t.sp.queues, q.space ≠ slot) ∧ (∀ o ∈ t.sp.objs, o.space ≠ slot) ∧
      (∀ f ∈ t.sp.fences, f.space ≠ slot) ∧ (∀ c ∈ t.sp.cmds, c.space ≠ slot)) ∧
  (∀ (s : State) (ch : Chan) (r : Rushes), mayAsk s ch → rushesOk r = true → (useOf s ch.slot).1 < (spaceGet s ch.slot).qCtx →
    s.sp.ctxs.length < 4096 → ∃ k, k < 4096 ∧ (∀ c ∈ s.sp.ctxs, c.id ≠ k) ∧
    exec (.ctxCreate ch r) s = .next (spaceReply { asked s ch with freeCtr := (asked s ch).freeCtr + 1, sp := { (asked s ch).sp with
      ctxs := s.sp.ctxs ++ [{ id := k, space := ch.slot, rushes := r
                              resident := decide ((s.sp.ctxs.filter (·.resident)).length < 64) }] } } ch .ok (natLe 2 k))) ∧
  (∀ (s : State) (ch : Chan) (r : Rushes), mayAsk s ch → rushesOk r = false →
    exec (.ctxCreate ch r) s = .next (spaceReply (asked s ch) ch .badDescriptor [])) ∧
  (∀ (s : State) (ch : Chan) (r : Rushes), mayAsk s ch → rushesOk r = true → (spaceGet s ch.slot).qCtx ≤ (useOf s ch.slot).1 →
    exec (.ctxCreate ch r) s = .next (spaceReply (asked s ch) ch .busy [])) ∧
  (∀ (s : State) (ch : Chan) (id : Nat) (x : Ctx) (r : Rushes), mayAsk s ch → ctxGet s id = some x → x.space = ch.slot →
    x.dying = false → rushesOk r = true →
    exec (.ctxSet ch id r) s = .next (spaceReply { asked s ch with
      sp := ctxMod (asked s ch).sp id fun x => { x with rushes := r } } ch .ok [])) ∧
  (∀ (s : State) (ch : Chan) (id : Nat) (x : Ctx), mayAsk s ch → ctxGet s id = some x → x.space = ch.slot → x.dying = false →
    exec (.ctxQuery ch id) s = .next (spaceReply (asked s ch) ch .ok (ctxRecord (asked s ch) x))) ∧
  (∀ (s : State) (ch : Chan) (id : Nat) (x : Ctx) (r : Rushes) (i : Instr), mayAsk s ch → ctxGet s id = some x → x.space ≠ ch.slot → rushesOk r = true →
    (i = .ctxQuery ch id ∨ i = .ctxDestroy ch id ∨ i = .ctxSet ch id r) →
    exec i s = .next (spaceReply (asked s ch) ch .badDescriptor [])) ∧
  (∀ (s : State) (ch : Chan) (id : Nat) (r : Rushes) (i : Instr), mayAsk s ch → ctxGet s id = none →
    (i = .ctxQuery ch id ∨ i = .ctxDestroy ch id ∨ i = .ctxSet ch id r) →
    exec i s = .next (spaceReply (asked s ch) ch .badDescriptor [])) ∧
  (∀ (s : State) (ch : Chan) (id : Nat) (x : Ctx) (r : Rushes) (i : Instr), mayAsk s ch → ctxGet s id = some x → x.space = ch.slot →
    x.dying = true → rushesOk r = true → (i = .ctxQuery ch id ∨ i = .ctxDestroy ch id ∨ i = .ctxSet ch id r) →
    exec i s = .next (spaceReply (asked s ch) ch .busy [])) ∧
  (∀ (s : State) (ch : Chan) (id : Nat) (x : Ctx), mayAsk s ch → quiet s → ctxGet s id = some x → x.space = ch.slot → x.dying = false →
    (∀ c ∈ s.sp.cmds, c.ctx ≠ id) →
    ∃ u, exec (.ctxDestroy ch id) s = .next (spaceReply u ch .ok []) ∧ (∀ y ∈ u.sp.ctxs, y.id ≠ id) ∧
      u.mem.cells = s.mem.cells)

/-- Q_CREATE with a length, version, ring and completion ring in order takes a free index, empty; out of order, or with a ring not mapped, it
replies BAD_DESCRIPTOR, with a ring in a struck object OBJECT_STRUCK, at the quota BUSY. Q_DESTROY of a queue without commands, with no
collective, cut or ended transaction, removes it; of one that is being destroyed it replies BUSY; a handle of no queue of the space
replies BAD_DESCRIPTOR, and a doorbell to one too. A doorbell whose ring is being filled waits. One that would reach back, not move, or
pass the ring's length replies BUSY; else it accepts as many commands as the producer index moves, each ended at once where the queue is
being destroyed. COMMAND_COMPLETE of a command that has ended, with no rushes check left, its record in no range that is being filled and
no context dying, removes it and adds its energy to its context; its live signal fence rises to the signal value, or fails with the record
where the status is neither OK nor OK_WITH_EVENTS; with no signal fence no fence changes. Of any other command it changes nothing. The
model's choices here are log entries 107 (a number not in use is a free value), 33 (the grip of a queue), 104 (completion as a row), 125
(what waits for a fill), 133 (energy) and 134 (Q_DESTROY of a dying queue). -/
def Obligations.QueuesDoorbellsAndCompletion : Prop :=
  (∀ (s : State) (ch : Chan) (ra n ca v : Nat), mayAsk s ch → entriesOk n = true → (v = 1 ∨ v = 2) → ra % 64 = 0 → ca % 64 = 0 →
    spanMapped s ch.slot ra (n * 64) = true → spanMapped s ch.slot ca (n * 64) = true → spanStruck s ch.slot ra (n * 64) = false →
    spanStruck s ch.slot ca (n * 64) = false → (useOf s ch.slot).2.1 < (spaceGet s ch.slot).qQueue →
    s.sp.queues.length < 1024 → ∃ k g, k < 1024 ∧ g < 80 ∧ (∀ q ∈ s.sp.queues, q.idx ≠ k) ∧
    exec (.qCreate ch ra n ca v) s = .next (spaceReply { asked s ch with freeCtr := (asked s ch).freeCtr + 2, sp := { (asked s ch).sp with
      queues := s.sp.queues ++ [{ idx := k, space := ch.slot, ring := ra, entries := n, comp := ca, version := v, producer := 0, doneIdx := 0
                                  doneAhead := [], grip := g }] } } ch .ok (natLe 4 (3 * 2 ^ 28 + k)))) ∧
  (∀ (s : State) (ch : Chan) (ra n ca v : Nat), mayAsk s ch → (entriesOk n = false ∨ (v ≠ 1 ∧ v ≠ 2) ∨ ra % 64 ≠ 0 ∨ ca % 64 ≠ 0 ∨
      spanMapped s ch.slot ra (n * 64) = false ∨ spanMapped s ch.slot ca (n * 64) = false) →
    exec (.qCreate ch ra n ca v) s = .next (spaceReply (asked s ch) ch .badDescriptor [])) ∧
  (∀ (s : State) (ch : Chan) (ra n ca v : Nat), mayAsk s ch → entriesOk n = true → (v = 1 ∨ v = 2) → ra % 64 = 0 → ca % 64 = 0 →
    spanMapped s ch.slot ra (n * 64) = true → spanMapped s ch.slot ca (n * 64) = true →
    ((spanStruck s ch.slot ra (n * 64) = true ∨ spanStruck s ch.slot ca (n * 64) = true) →
      exec (.qCreate ch ra n ca v) s = .next (spaceReply (asked s ch) ch .objectStruck [])) ∧
    (spanStruck s ch.slot ra (n * 64) = false → spanStruck s ch.slot ca (n * 64) = false →
      (spaceGet s ch.slot).qQueue ≤ (useOf s ch.slot).2.1 →
      exec (.qCreate ch ra n ca v) s = .next (spaceReply (asked s ch) ch .busy []))) ∧
  (∀ (s : State) (ch : Chan) (h j : BitVec 32) (i : Instr), mayAsk s ch → queueGet s ch.slot h = none →
    (i = .qDestroy ch h ∨ i = .doorbell ch h j) →
    exec i s = .next (spaceReply (asked s ch) ch .badDescriptor [])) ∧
  (∀ (s : State) (ch : Chan) (h : BitVec 32) (q : Queue), mayAsk s ch → queueGet s ch.slot h = some q → q.dying = true →
    exec (.qDestroy ch h) s = .next (spaceReply (asked s ch) ch .busy [])) ∧
  (∀ (s : State) (ch : Chan) (h : BitVec 32) (q : Queue), mayAsk s ch → quiet s → queueGet s ch.slot h = some q → q.dying = false →
    (∀ c ∈ s.sp.cmds, c.queue ≠ q.idx) →
    ∃ u, exec (.qDestroy ch h) s = .next (spaceReply u ch .ok []) ∧ (∀ x ∈ u.sp.queues, x.idx ≠ q.idx) ∧ u.mem.cells = s.mem.cells) ∧
  (∀ (s : State) (ch : Chan) (h j : BitVec 32) (q : Queue), mayAsk s ch → queueGet s ch.slot h = some q →
    ringFills s ch.slot h = false → (q.entries < (j - q.doneIdx).toNat ∨ j = q.producer ∨ q.entries < (j - q.producer).toNat) →
    exec (.doorbell ch h j) s = .next (spaceReply (asked s ch) ch .busy [])) ∧
  (∀ (s : State) (ch : Chan) (h j : BitVec 32) (q : Queue), mayAsk s ch → queueGet s ch.slot h = some q →
    ringFills s ch.slot h = false → (j - q.doneIdx).toNat ≤ q.entries → j ≠ q.producer → (j - q.producer).toNat ≤ q.entries →
    ∃ u, exec (.doorbell ch h j) s = .next (spaceReply u ch .ok []) ∧ u.sp.doors = s.sp.doors + 1 ∧
      u.sp.cmds.length = s.sp.cmds.length + (j - q.producer).toNat ∧ u.sp.nextCid = s.sp.nextCid + (j - q.producer).toNat ∧
      (q.dying = true → ∀ c ∈ u.sp.cmds.drop s.sp.cmds.length, cmdLive c = false) ∧
      (∀ x ∈ u.sp.queues, x.idx = q.idx → x.producer = j) ∧ u.mem.cells = s.mem.cells) ∧
  (∀ (s : State) (ch : Chan) (h j : BitVec 32), mayAsk s ch → ringFills s ch.slot h = true →
    exec (.doorbell ch h j) s = .next { asked s ch with
      ciph := { (asked s ch).ciph with waiting := s.ciph.waiting ++ [.doorbell ch h j] } }) ∧
  (∀ (s : State) (cid busy uj : Nat) (c : Cmd) (r : Result) (f : Fence), cmdGet s cid = some c → c.phase = .finished r →
    (s.array.rush.any fun j => j.cid == cid) = false → recordWaits s c = false → (∀ x ∈ s.sp.ctxs, x.dying = false) → c.noFence = false → c.sigFence ≠ 0 → fenceGet s c.space c.sigFence = some f →
    f.failed = false → f.struck = false → (∀ g ∈ s.sp.fences, g.idx = f.idx → g = f) →
    ∃ t g, exec (.commandComplete cid busy uj) s = .next t ∧ (∀ x ∈ t.sp.cmds, x.id ≠ cid) ∧ fenceGet t c.space c.sigFence = some g ∧
      ((r.status = .ok ∨ r.status = .okWithEvents) → g.failed = false ∧ g.value = (if c.sigValue ≤ f.value then f.value else c.sigValue)) ∧
      (r.status ≠ .ok → r.status ≠ .okWithEvents → g.failed = true ∧ g.record = recordOf c r busy (c.pj / 10 ^ 6 + uj) ∧ g.value = f.value)) ∧
  (∀ (s : State) (cid busy uj : Nat) (c : Cmd) (r : Result) (x : Ctx), cmdGet s cid = some c → c.phase = .finished r →
    (s.array.rush.any fun j => j.cid == cid) = false → recordWaits s c = false → (∀ x ∈ s.sp.ctxs, x.dying = false) →
    ctxGet s c.ctx = some x →
    ∃ t y, exec (.commandComplete cid busy uj) s = .next t ∧ (∀ x ∈ t.sp.cmds, x.id ≠ cid) ∧ ctxGet t c.ctx = some y ∧
      y.energyUj = x.energyUj + (c.pj / 10 ^ 6 + uj) ∧
      ((c.noFence = true ∨ c.sigFence = 0 ∨ fenceGet s c.space c.sigFence = none) →
        (∀ f ∈ t.sp.fences, f ∈ s.sp.fences) ∧ (∀ f ∈ s.sp.fences, f.struck = false → f ∈ t.sp.fences))) ∧
  (∀ (s : State) (cid busy uj : Nat) (c : Cmd) (r : Result), cmdGet s cid = some c → c.phase = .finished r →
    (s.array.rush.any fun j => j.cid == cid) = false → recordWaits s c = false →
    ∃ t, exec (.commandComplete cid busy uj) s = .next t ∧ ∀ x ∈ t.sp.cmds, x.id ≠ cid) ∧
  (∀ (s : State) (cid busy uj : Nat) (c : Cmd), cmdGet s cid = some c →
    (cmdLive c = true ∨ (s.array.rush.any fun j => j.cid == cid) = true ∨ recordWaits s c = true) →
    exec (.commandComplete cid busy uj) s = .next s) ∧
  (∀ (s : State) (cid busy uj : Nat), cmdGet s cid = none → exec (.commandComplete cid busy uj) s = .next s)

/-- Of all 15 requests of a space: one over a port that does not hear a live session does nothing; one on an unbound channel, or without the
authority that the space asks for (the port session alone for the system space, a PARTY message of its party for a party's), is discarded
and counted; one whose message is not authentic or whose counter is old does nothing; one of a space that is not live replies BUSY. A
handle of another space, or of none, replies BAD_DESCRIPTOR. OBJ_ALLOC with a size that is 0 or no multiple of 2 MiB, or an unused range,
replies BAD_DESCRIPTOR; at a given address that is free, with pages and quotas enough, it maps the lowest free pages of the range.
OBJ_FREE of an object that no command holds removes it, of one that is held strikes it. FENCE_CREATE with an owner of the space, below the
quota, makes a live fence with the value and returns its handle; a signal to a failed fence replies DEP_FAILED. FENCE_FAIL of a live fence
fails it with the ABORTED record; FENCE_QUERY answers value, state and record; FENCE_NOTIFY of a value not reached is kept; FENCE_DESTROY
of a fence that nothing names removes it; of one that a command names it strikes it; a struck fence answers OBJECT_STRUCK to all but the
query. The model's choice here is log entry 107 (a number not in use is a free value). -/
def Obligations.ObjectsAndFenceRequests : Prop :=
  (∀ (s : State) (ch : Chan) (i : Instr), asksIn ch i →
    (heard s.lmx ch.port = false → exec i s = .next s) ∧
    (heard s.lmx ch.port = true → (spaceGet s ch.slot).bound = false → exec i s = .next (refuseMsg s ch.port)) ∧
    (heard s.lmx ch.port = true → (spaceGet s ch.slot).bound = true → ch.auth.map (·.1) ≠ spaceParty s ch.slot →
      exec i s = .next (refuseMsg s ch.port)) ∧
    (∀ (q : Nat) (m : MsgAuth), heard s.lmx ch.port = true → (spaceGet s ch.slot).bound = true → spaceParty s ch.slot = some q → ch.auth = some (q, m) →
      ((chanOf s q).bound = false ∨ m.ok = false ∨ ∃ n, (chanOf s q).lastIn = some n ∧ m.counter ≤ n) → exec i s = .next s) ∧
    (heard s.lmx ch.port = true → (spaceGet s ch.slot).bound = true → (spaceGet s ch.slot).state ≠ 1 → authorized s ch →
      exec i s = .next (spaceReply (broughtBy s ch) ch .busy []))) ∧
  (∀ (s : State) (ch : Chan) (h : BitVec 32) (v : Word) (i : Instr), mayAsk s ch → fenceGet s ch.slot h = none →
    (i = .fenceDestroy ch h ∨ i = .fenceSignal ch h v ∨ i = .fenceFail ch h ∨ i = .fenceQuery ch h ∨ i = .fenceNotify ch h v) →
    exec i s = .next (spaceReply (asked s ch) ch .badDescriptor [])) ∧
  (∀ (s : State) (ch : Chan) (range size addr : Nat) (o : Owner) (z : Bool), mayAsk s ch →
    (size = 0 ∨ size % 2 ^ 21 ≠ 0 ∨ addr % 2 ^ 21 ≠ 0 ∨ 2 ^ 48 < addr + size ∨ 31 < range ∨ (rangeCfg s range).mode = 0) →
    exec (.objAlloc ch range size addr o z) s = .next (spaceReply (asked s ch) ch .badDescriptor [])) ∧
  (∀ (s v : State) (ch : Chan) (range size addr : Nat), mayAsk s ch → v = asked s ch → size ≠ 0 → size % 2 ^ 21 = 0 → addr ≠ 0 →
    addr % 2 ^ 21 = 0 → addr + size ≤ 2 ^ 48 → range ≤ 31 → (rangeCfg s range).mode ≠ 0 → mayMap v ch.slot range = true →
    (∀ o ∈ s.sp.objs, o.space = ch.slot → ∀ e ∈ o.pages, runsMeet (addr / 2 ^ 21, addr / 2 ^ 21 + size / 2 ^ 21) (e.vpn, e.vpn + e.n) = false) →
    (useOf s ch.slot).2.2.1 < (spaceGet s ch.slot).qObj → size / 2 ^ 21 ≤ (freePages v range).length →
    s.sp.objs.length < 1048576 →
    l2Used ({ idx := 0, space := ch.slot, owner := .space, range := range, vpn := addr / 2 ^ 21
              pages := extentsOf (addr / 2 ^ 21) ((freePages v range).take (size / 2 ^ 21)), struck := none } :: s.sp.objs) ch.slot ≤
      (spaceGet s ch.slot).qL2 →
    ∃ k, k < 2 ^ 28 ∧ (∀ o ∈ s.sp.objs, o.idx ≠ k) ∧
    exec (.objAlloc ch range size addr .space false) s = .next (spaceReply { v with freeCtr := v.freeCtr + 1, sp := { v.sp with
      objs := { idx := k, space := ch.slot, owner := .space, range := range, vpn := addr / 2 ^ 21
                pages := extentsOf (addr / 2 ^ 21) ((freePages v range).take (size / 2 ^ 21)), struck := none } :: s.sp.objs } }
      ch .ok (natLe 4 (2 ^ 28 + k) ++ natLe 8 (addr / 2 ^ 21 * 2 ^ 21)))) ∧
  (∀ (s : State) (ch : Chan) (h : BitVec 32), mayAsk s ch → objGet s ch.slot h = none →
    exec (.objFree ch h) s = .next (spaceReply (asked s ch) ch .badDescriptor [])) ∧
  (∀ (s : State) (ch : Chan) (h : BitVec 32) (o : Obj), mayAsk s ch → objGet s ch.slot h = some o → o.struck = none →
    objHeld (asked s ch) o s.sp.doors = false →
    exec (.objFree ch h) s = .next (spaceReply { asked s ch with
      sp := { (asked s ch).sp with objs := s.sp.objs.filter fun y => y.idx != o.idx } } ch .ok [])) ∧
  (∀ (s : State) (ch : Chan) (h : BitVec 32) (o : Obj), mayAsk s ch → objGet s ch.slot h = some o → o.struck = none →
    objHeld (asked s ch) o s.sp.doors = true →
    ∃ u, exec (.objFree ch h) s = .next (spaceReply u ch .ok []) ∧ u.mem = s.mem ∧
      ∀ y ∈ u.sp.objs, y.idx = o.idx → y.struck = some s.sp.doors) ∧
  (∀ (s : State) (ch : Chan) (h : BitVec 32) (f : Fence), mayAsk s ch → fenceGet s ch.slot h = some f → f.struck = false →
    f.failed = false → (∀ g ∈ s.sp.fences, g.idx = f.idx → g = f) →
    ∃ u g, exec (.fenceFail ch h) s = .next (spaceReply u ch .ok []) ∧ fenceGet u ch.slot h = some g ∧ g.failed = true ∧
      g.record = abortRecord ∧ g.value = f.value ∧ g.notifies = []) ∧
  (∀ (s : State) (ch : Chan) (h : BitVec 32) (f : Fence), mayAsk s ch → fenceGet s ch.slot h = some f →
    exec (.fenceQuery ch h) s = .next (spaceReply (asked s ch) ch .ok
      (natLe 8 f.value.toNat ++ natLe 1 (b2n f.failed) ++ if f.failed then f.record else []))) ∧
  (∀ (s : State) (ch : Chan) (h : BitVec 32) (v : Word) (f : Fence), mayAsk s ch → fenceGet s ch.slot h = some f → f.struck = false →
    f.failed = false → f.value < v → (∀ n ∈ f.notifies, f.value < n) → (∀ g ∈ s.sp.fences, g.idx = f.idx → g = f) →
    ∃ u g, exec (.fenceNotify ch h v) s = .next (spaceReply u ch .ok []) ∧ fenceGet u ch.slot h = some g ∧
      g.notifies = f.notifies ++ [v] ∧ g.value = f.value) ∧
  (∀ (s : State) (ch : Chan) (h : BitVec 32) (f : Fence), mayAsk s ch → fenceGet s ch.slot h = some f → f.struck = false →
    fenceNamed s f s.sp.doors = false → f.notifies = [] →
    exec (.fenceDestroy ch h) s = .next (spaceReply { asked s ch with
      sp := { (asked s ch).sp with fences := s.sp.fences.filter fun y => y.idx != f.idx } } ch .ok [])) ∧
  (∀ (s : State) (ch : Chan) (h : BitVec 32) (f : Fence), mayAsk s ch → fenceGet s ch.slot h = some f → f.struck = false →
    fenceNamed s f s.sp.doors = true → f.notifies = [] →
    ∃ u, exec (.fenceDestroy ch h) s = .next (spaceReply u ch .ok []) ∧
      ∀ g ∈ u.sp.fences, g.idx = f.idx → g.struck = true ∧ g.door = s.sp.doors) ∧
  (∀ (s : State) (ch : Chan) (h : BitVec 32) (v : Word) (f : Fence), mayAsk s ch → fenceGet s ch.slot h = some f → f.struck = false →
    f.failed = true → exec (.fenceSignal ch h v) s = .next (spaceReply (asked s ch) ch .depFailed [])) ∧
  (∀ (s : State) (ch : Chan) (o : Owner) (v : Word), mayAsk s ch → ownerCheck s ch.slot o = none →
    (useOf s ch.slot).2.2.2 < (spaceGet s ch.slot).qFence → s.sp.fences.length < 1048576 →
    ∃ k, k < 2 ^ 28 ∧ (∀ f ∈ s.sp.fences, f.idx ≠ k) ∧
    exec (.fenceCreate ch o v) s = .next (spaceReply { asked s ch with freeCtr := (asked s ch).freeCtr + 1, sp := { (asked s ch).sp with
      fences := s.sp.fences ++ [{ idx := k, space := ch.slot, owner := o, value := v, failed := false, record := List.replicate 64 0
                                  struck := false, notifies := [] }] } } ch .ok (natLe 4 (2 * 2 ^ 28 + k)))) ∧
  (∀ (s : State) (ch : Chan) (h : BitVec 32) (v : Word) (f : Fence) (i : Instr), mayAsk s ch → fenceGet s ch.slot h = some f →
    f.struck = true → (i = .fenceSignal ch h v ∨ i = .fenceFail ch h ∨ i = .fenceNotify ch h v ∨ i = .fenceDestroy ch h) →
    exec i s = .next (spaceReply (asked s ch) ch .objectStruck []))

/-- FENCE_CREATE with an owner of the space (a context of it, or the space itself), below the quota, makes a live fence with that owner and
the initial value and returns its handle, which named none before. A signal of a value sets a live fence to the maximum of its value and
the signal's, whatever the values, so that the value never falls; one not above the value leaves every fence as it was and replies OK; one
to a failed fence leaves every fence as it was. -/
def Obligations.FencesOnlyRise : Prop :=
  (∀ (s : State) (ch : Chan) (o : Owner) (v : Word), mayAsk s ch →
    (o = .space ∨ ∃ id x, o = .ctx id ∧ ctxGet s id = some x ∧ x.space = ch.slot ∧ x.dying = false) →
    (useOf s ch.slot).2.2.2 < (spaceGet s ch.slot).qFence → s.sp.fences.length < 1048576 →
    ∃ u f, ∃ h : BitVec 32, exec (.fenceCreate ch o v) s = .next (spaceReply u ch .ok (natLe 4 h.toNat)) ∧ fenceGet s ch.slot h = none ∧
      fenceGet u ch.slot h = some f ∧ f.owner = o ∧ f.value = v ∧ f.failed = false ∧ (∀ g ∈ s.sp.fences, g ∈ u.sp.fences)) ∧
  (∀ (s : State) (ch : Chan) (h : BitVec 32) (v : Word) (f : Fence), mayAsk s ch → fenceGet s ch.slot h = some f → f.struck = false →
    f.failed = false → (∀ g ∈ s.sp.fences, g.idx = f.idx → g = f) →
    ∃ u g, exec (.fenceSignal ch h v) s = .next (spaceReply u ch .ok []) ∧ fenceGet u ch.slot h = some g ∧ g.failed = false ∧
      g.value = (if v ≤ f.value then f.value else v) ∧ f.value ≤ g.value) ∧
  (∀ (s : State) (ch : Chan) (h : BitVec 32) (v : Word) (f : Fence), mayAsk s ch → fenceGet s ch.slot h = some f → f.struck = false →
    f.failed = false → v ≤ f.value → (∀ n ∈ f.notifies, f.value < n) → (∀ g ∈ s.sp.fences, g.idx = f.idx → g = f) →
    ∃ u, exec (.fenceSignal ch h v) s = .next (spaceReply u ch .ok []) ∧ u.sp.fences = s.sp.fences) ∧
  (∀ (s : State) (ch : Chan) (h : BitVec 32) (v : Word) (f : Fence), mayAsk s ch → fenceGet s ch.slot h = some f → f.struck = false →
    f.failed = true → ∃ u st, exec (.fenceSignal ch h v) s = .next (spaceReply u ch st []) ∧ u.sp.fences = s.sp.fences)
end

