-- ==== Sys2Proof/Laws/Sparse.lean ====
section
/-! SUPPORT. The laws of sparse maps: a read after a write, and the canonical form, which every operation keeps. -/

namespace Sys2Proof.Machine

/-! ### Reading after writing -/

@[simp] theorem smGet_nil {β : Type} (d : β) (a : Nat) : smGet d [] a = d := rfl

/-- A key below every key of a canonical map reads as the default. -/
theorem smGet_below {β : Type} [DecidableEq β] (d : β) : ∀ (m : List (Nat × β)) (lo a : Nat), smWfFrom d lo m = true → a < lo →
    smGet d m a = d
  | [], _, _, _, _ => rfl
  | (k, v) :: r, lo, a, h, ha => by
    simp only [smWfFrom, Bool.and_eq_true, decide_eq_true_eq] at h
    simp only [smGet, if_neg (show a ≠ k by omega)]
    exact smGet_below d r (k + 1) a h.2 (by omega)

/-- What a canonical map reads as after a write: the value at the key, and what it read as before elsewhere. -/
theorem smGet_smPutFrom {β : Type} [DecidableEq β] (d x : β) : ∀ (m : List (Nat × β)) (lo a b : Nat), smWfFrom d lo m = true →
    smGet d (smPut d m a x) b = if b = a then x else smGet d m b
  | [], _, a, b, _ => by
    by_cases hx : x = d <;> by_cases hb : b = a <;> simp [smPut, smGet, hx, hb]
  | (k, v) :: r, lo, a, b, h => by
    simp only [smWfFrom, Bool.and_eq_true, decide_eq_true_eq] at h
    have ih := smGet_smPutFrom d x r (k + 1) a b h.2
    have low := smGet_below d r (k + 1) a h.2
    simp only [smPut]
    split
    · next hk =>
      by_cases hx : x = d <;> by_cases hb : b = a
      · subst hb; simp [smGet, hx, show b ≠ k by omega, low (by omega)]
      · simp [hx, hb]
      · simp [smGet, hx, hb]
      · simp [smGet, hx, hb]
    · split
      · next hk =>
        subst hk
        by_cases hx : x = d <;> by_cases hb : b = a
        · subst hb; simp [hx, low (by omega)]
        · simp [smGet, hx, hb]
        · simp [smGet, hx, hb]
        · simp [smGet, hx, hb]
      · next hk =>
        simp only [smGet, ih]
        by_cases hb : b = a
        · subst hb; simp [hk]
        · simp [hb]

/-- What a canonical map reads as after a write. -/
theorem smGet_smPut {β : Type} [DecidableEq β] (d x : β) (m : List (Nat × β)) (a b : Nat) (h : smWf d m = true) :
    smGet d (smPut d m a x) b = if b = a then x else smGet d m b := smGet_smPutFrom d x m 0 a b h

/-- What a map reads as once a range of keys has been dropped. -/
theorem smGet_smDrop {β : Type} (d : β) : ∀ (m : List (Nat × β)) (lo hi a : Nat),
    smGet d (smDrop m lo hi) a = if lo ≤ a ∧ a < hi then d else smGet d m a
  | [], _, _, _ => by simp [smDrop]
  | (k, v) :: r, lo, hi, a => by
    have ih := smGet_smDrop d r lo hi a
    simp only [smDrop] at ih ⊢
    by_cases hk : k < lo ∨ hi ≤ k
    · have : (decide (k < lo) || decide (hi ≤ k)) = true := by simpa using hk
      simp only [List.filter, this, smGet, ih]
      by_cases ha : a = k
      · subst ha; rw [if_pos rfl, if_pos rfl, if_neg (by omega)]
      · simp [ha]
    · have : (decide (k < lo) || decide (hi ≤ k)) = false := by simp; omega
      simp only [List.filter, this, ih, smGet]
      by_cases ha : a = k
      · subst ha; rw [if_pos (by omega), if_pos (by omega)]
      · simp [ha]

/-! ### The canonical form -/

/-- A canonical map from a higher bound is canonical from a lower one. -/
theorem smWfFrom_mono {β : Type} [DecidableEq β] (d : β) : ∀ (m : List (Nat × β)) (lo lo' : Nat), lo' ≤ lo → smWfFrom d lo m = true →
    smWfFrom d lo' m = true
  | [], _, _, _, _ => rfl
  | (k, v) :: r, lo, lo', hl, h => by
    simp only [smWfFrom, Bool.and_eq_true, decide_eq_true_eq] at h ⊢
    exact ⟨⟨by omega, h.1.2⟩, h.2⟩

/-- A write keeps the canonical form, above any bound below both the map and the key. -/
theorem smWfFrom_smPut {β : Type} [DecidableEq β] (d x : β) : ∀ (m : List (Nat × β)) (lo a : Nat), lo ≤ a → smWfFrom d lo m = true →
    smWfFrom d lo (smPut d m a x) = true
  | [], lo, a, ha, _ => by by_cases hx : x = d <;> simp [smPut, smWfFrom, hx, ha]
  | (k, v) :: r, lo, a, ha, h => by
    have h' := h
    simp only [smWfFrom, Bool.and_eq_true, decide_eq_true_eq] at h
    have ih := smWfFrom_smPut d x r (k + 1) a
    simp only [smPut]
    split
    · next hk => by_cases hx : x = d <;> simp_all [smWfFrom] <;> omega
    · split
      · next hk =>
        subst hk
        by_cases hx : x = d
        · simpa [hx] using smWfFrom_mono d r (a + 1) lo (by omega) h.2
        · simp_all [smWfFrom]
      · next hk =>
        simp only [smWfFrom, Bool.and_eq_true, decide_eq_true_eq]
        exact ⟨h.1, ih (by omega) h.2⟩

/-- A write keeps the canonical form. -/
theorem smWf_smPut {β : Type} [DecidableEq β] (d x : β) (m : List (Nat × β)) (a : Nat) (h : smWf d m = true) :
    smWf d (smPut d m a x) = true := smWfFrom_smPut d x m 0 a (Nat.zero_le a) h

/-- Keeping some of the entries keeps the canonical form. -/
theorem smWfFrom_filter {β : Type} [DecidableEq β] (d : β) (f : Nat × β → Bool) : ∀ (m : List (Nat × β)) (lo : Nat),
    smWfFrom d lo m = true → smWfFrom d lo (m.filter f) = true
  | [], _, _ => rfl
  | (k, v) :: r, lo, h => by
    simp only [smWfFrom, Bool.and_eq_true, decide_eq_true_eq] at h
    have ih := smWfFrom_filter d f r (k + 1) h.2
    by_cases hf : f (k, v) = true
    · simp only [List.filter, hf, smWfFrom, Bool.and_eq_true, decide_eq_true_eq]
      exact ⟨h.1, ih⟩
    · simp only [List.filter, hf]
      exact smWfFrom_mono d _ (k + 1) lo (by omega) ih

/-- Keeping some of the entries keeps the canonical form. -/
theorem smWf_filter {β : Type} [DecidableEq β] (d : β) (f : Nat × β → Bool) (m : List (Nat × β)) (h : smWf d m = true) :
    smWf d (m.filter f) = true := smWfFrom_filter d f m 0 h

/-- Dropping a range of keys keeps the canonical form. -/
theorem smWf_smDrop {β : Type} [DecidableEq β] (d : β) (m : List (Nat × β)) (lo hi : Nat) (h : smWf d m = true) :
    smWf d (smDrop m lo hi) = true := smWf_filter d _ m h

/-- Writing a run keeps the canonical form. -/
theorem smWf_smPutRun {β : Type} [DecidableEq β] (d : β) : ∀ (l : List β) (m : List (Nat × β)) (a : Nat), smWf d m = true →
    smWf d (smPutRun d m a l) = true
  | [], _, _, h => h
  | x :: r, m, a, h => smWf_smPutRun d r _ (a + 1) (smWf_smPut d x m a h)

/-- Placing entries keeps the canonical form. -/
theorem smWf_smPlace {β : Type} [DecidableEq β] (d : β) (lo : Nat) : ∀ (l : List (Nat × β)) (m : List (Nat × β)), smWf d m = true →
    smWf d (smPlace d m lo l) = true
  | [], _, h => h
  | e :: r, m, h => smWf_smPlace d lo r _ (smWf_smPut d e.2 m (lo + e.1) h)

/-- Writing bytes keeps the canonical form. -/
theorem smWf_putBytes (m : List Host.Cell) (a : Nat) (bs : List Byte) (h : smWf 0 m = true) : smWf 0 (putBytes m a bs) = true :=
  smWf_smPutRun 0 bs m a h

/-- What a canonical byte map reads as after bytes have been written. -/
theorem smGet_smPutRun {β : Type} [DecidableEq β] (d : β) : ∀ (l : List β) (m : List (Nat × β)) (a b : Nat), smWf d m = true →
    smGet d (smPutRun d m a l) b = if a ≤ b ∧ b < a + l.length then l.getD (b - a) d else smGet d m b
  | [], m, a, b, _ => by simp only [smPutRun, List.length_nil]; rw [if_neg (by omega)]
  | x :: r, m, a, b, h => by
    rw [smPutRun, smGet_smPutRun d r _ (a + 1) b (smWf_smPut d x m a h), smGet_smPut d x m a b h]
    simp only [List.length_cons]
    by_cases hb : b = a
    · subst hb; rw [if_neg (by omega), if_pos rfl, if_pos (by omega)]; simp
    · by_cases hr : a + 1 ≤ b ∧ b < a + 1 + r.length
      · rw [if_pos hr, if_pos (by omega), show b - a = (b - (a + 1)) + 1 by omega]; simp
      · rw [if_neg hr, if_neg hb, if_neg (by omega)]

end Sys2Proof.Machine
end

