-- ==== Sys2Proof/Laws/State.lean ====
section
/-! SUPPORT. What each named update of the state leaves as it was: one lemma per update, true by unfolding, so that no proof unfolds a
record update; and what the update of one port, command or slot reads back as. -/

namespace Sys2Proof.Machine

@[simp] theorem freeUse_frame (s : State) (n : Nat) :
    (freeUse s n).power = s.power ∧ (freeUse s n).bridges = s.bridges ∧ (freeUse s n).rig = s.rig ∧ (freeUse s n).array = s.array ∧
    (freeUse s n).fabric = s.fabric ∧ (freeUse s n).col = s.col ∧ (freeUse s n).dly = s.dly ∧ (freeUse s n).mem = s.mem ∧
    (freeUse s n).ciph = s.ciph ∧ (freeUse s n).keys = s.keys ∧ (freeUse s n).sp = s.sp ∧ (freeUse s n).lmx = s.lmx ∧
    (freeUse s n).gaf = s.gaf ∧ (freeUse s n).lc = s.lc ∧ (freeUse s n).jtag = s.jtag ∧ (freeUse s n).err = s.err ∧
    (freeUse s n).draws = s.draws ∧ (freeUse s n).pending = s.pending :=
  ⟨rfl, rfl, rfl, rfl, rfl, rfl, rfl, rfl, rfl, rfl, rfl, rfl, rfl, rfl, rfl, rfl, rfl, rfl⟩

@[simp] theorem drawUse_frame (s : State) (n : Nat) :
    (drawUse s n).power = s.power ∧ (drawUse s n).bridges = s.bridges ∧ (drawUse s n).rig = s.rig ∧ (drawUse s n).array = s.array ∧
    (drawUse s n).fabric = s.fabric ∧ (drawUse s n).col = s.col ∧ (drawUse s n).dly = s.dly ∧ (drawUse s n).mem = s.mem ∧
    (drawUse s n).ciph = s.ciph ∧ (drawUse s n).sp = s.sp ∧ (drawUse s n).lmx = s.lmx ∧ (drawUse s n).gaf = s.gaf ∧
    (drawUse s n).lc = s.lc ∧ (drawUse s n).jtag = s.jtag ∧ (drawUse s n).err = s.err ∧ (drawUse s n).freeCtr = s.freeCtr ∧
    (drawUse s n).pending = s.pending :=
  ⟨rfl, rfl, rfl, rfl, rfl, rfl, rfl, rfl, rfl, rfl, rfl, rfl, rfl, rfl, rfl, rfl, rfl⟩

@[simp] theorem holdDraw_frame (s : State) (i : Instr) :
    (holdDraw s i).power = s.power ∧ (holdDraw s i).bridges = s.bridges ∧ (holdDraw s i).rig = s.rig ∧ (holdDraw s i).array = s.array ∧
    (holdDraw s i).fabric = s.fabric ∧ (holdDraw s i).col = s.col ∧ (holdDraw s i).dly = s.dly ∧ (holdDraw s i).mem = s.mem ∧
    (holdDraw s i).ciph = s.ciph ∧ (holdDraw s i).sp = s.sp ∧ (holdDraw s i).lmx = s.lmx ∧ (holdDraw s i).gaf = s.gaf ∧
    (holdDraw s i).lc = s.lc ∧ (holdDraw s i).jtag = s.jtag ∧ (holdDraw s i).err = s.err ∧ (holdDraw s i).draws = s.draws ∧
    (holdDraw s i).freeCtr = s.freeCtr ∧ (holdDraw s i).pending = s.pending :=
  ⟨rfl, rfl, rfl, rfl, rfl, rfl, rfl, rfl, rfl, rfl, rfl, rfl, rfl, rfl, rfl, rfl, rfl, rfl⟩

@[simp] theorem stLog_frame (s : State) (e : LogEntry) :
    (stLog s e).power = s.power ∧ (stLog s e).bridges = s.bridges ∧ (stLog s e).rig = s.rig ∧ (stLog s e).array = s.array ∧
    (stLog s e).fabric = s.fabric ∧ (stLog s e).col = s.col ∧ (stLog s e).dly = s.dly ∧ (stLog s e).mem = s.mem ∧
    (stLog s e).ciph = s.ciph ∧ (stLog s e).keys = s.keys ∧ (stLog s e).sp = s.sp ∧ (stLog s e).lmx = s.lmx ∧ (stLog s e).gaf = s.gaf ∧
    (stLog s e).lc = s.lc ∧ (stLog s e).jtag = s.jtag ∧ (stLog s e).draws = s.draws ∧ (stLog s e).freeCtr = s.freeCtr ∧
    (stLog s e).pending = s.pending :=
  ⟨rfl, rfl, rfl, rfl, rfl, rfl, rfl, rfl, rfl, rfl, rfl, rfl, rfl, rfl, rfl, rfl, rfl, rfl⟩

@[simp] theorem endChannel_frame (s : State) (q : Nat) :
    (endChannel s q).power = s.power ∧ (endChannel s q).bridges = s.bridges ∧ (endChannel s q).rig = s.rig ∧
    (endChannel s q).array = s.array ∧ (endChannel s q).fabric = s.fabric ∧ (endChannel s q).col = s.col ∧ (endChannel s q).dly = s.dly ∧
    (endChannel s q).mem = s.mem ∧ (endChannel s q).ciph = s.ciph ∧ (endChannel s q).lmx = s.lmx ∧ (endChannel s q).gaf = s.gaf ∧
    (endChannel s q).lc = s.lc ∧ (endChannel s q).jtag = s.jtag ∧ (endChannel s q).err = s.err ∧ (endChannel s q).draws = s.draws ∧
    (endChannel s q).freeCtr = s.freeCtr ∧ (endChannel s q).pending = s.pending :=
  ⟨rfl, rfl, rfl, rfl, rfl, rfl, rfl, rfl, rfl, rfl, rfl, rfl, rfl, rfl, rfl, rfl, rfl⟩

@[simp] theorem cmdEnd_frame (s : State) (cid : Nat) (r : Result) :
    (cmdEnd s cid r).power = s.power ∧ (cmdEnd s cid r).bridges = s.bridges ∧ (cmdEnd s cid r).rig = s.rig ∧
    (cmdEnd s cid r).array = s.array ∧ (cmdEnd s cid r).fabric = s.fabric ∧ (cmdEnd s cid r).col = s.col ∧ (cmdEnd s cid r).dly = s.dly ∧
    (cmdEnd s cid r).mem = s.mem ∧ (cmdEnd s cid r).ciph = s.ciph ∧ (cmdEnd s cid r).keys = s.keys ∧ (cmdEnd s cid r).lmx = s.lmx ∧
    (cmdEnd s cid r).gaf = s.gaf ∧ (cmdEnd s cid r).lc = s.lc ∧ (cmdEnd s cid r).jtag = s.jtag ∧ (cmdEnd s cid r).err = s.err ∧
    (cmdEnd s cid r).draws = s.draws ∧ (cmdEnd s cid r).freeCtr = s.freeCtr ∧ (cmdEnd s cid r).pending = s.pending :=
  ⟨rfl, rfl, rfl, rfl, rfl, rfl, rfl, rfl, rfl, rfl, rfl, rfl, rfl, rfl, rfl, rfl, rfl, rfl⟩

@[simp] theorem portMod_frame (s : State) (p : Port) (f : PortSt → PortSt) :
    (portMod s p f).power = s.power ∧ (portMod s p f).bridges = s.bridges ∧ (portMod s p f).rig = s.rig ∧
    (portMod s p f).array = s.array ∧ (portMod s p f).fabric = s.fabric ∧ (portMod s p f).col = s.col ∧ (portMod s p f).dly = s.dly ∧
    (portMod s p f).mem = s.mem ∧ (portMod s p f).ciph = s.ciph ∧ (portMod s p f).keys = s.keys ∧ (portMod s p f).sp = s.sp ∧
    (portMod s p f).gaf = s.gaf ∧ (portMod s p f).lc = s.lc ∧ (portMod s p f).jtag = s.jtag ∧ (portMod s p f).err = s.err ∧
    (portMod s p f).draws = s.draws ∧ (portMod s p f).freeCtr = s.freeCtr ∧ (portMod s p f).pending = s.pending :=
  ⟨rfl, rfl, rfl, rfl, rfl, rfl, rfl, rfl, rfl, rfl, rfl, rfl, rfl, rfl, rfl, rfl, rfl, rfl⟩

@[simp] theorem setupSend_frame (s : State) (p : Port) (m : Msg) :
    (setupSend s p m).power = s.power ∧ (setupSend s p m).bridges = s.bridges ∧ (setupSend s p m).rig = s.rig ∧
    (setupSend s p m).array = s.array ∧ (setupSend s p m).fabric = s.fabric ∧ (setupSend s p m).col = s.col ∧
    (setupSend s p m).dly = s.dly ∧ (setupSend s p m).mem = s.mem ∧ (setupSend s p m).ciph = s.ciph ∧ (setupSend s p m).keys = s.keys ∧
    (setupSend s p m).sp = s.sp ∧ (setupSend s p m).gaf = s.gaf ∧ (setupSend s p m).lc = s.lc ∧ (setupSend s p m).jtag = s.jtag ∧
    (setupSend s p m).err = s.err ∧ (setupSend s p m).draws = s.draws ∧ (setupSend s p m).freeCtr = s.freeCtr ∧
    (setupSend s p m).pending = s.pending :=
  ⟨rfl, rfl, rfl, rfl, rfl, rfl, rfl, rfl, rfl, rfl, rfl, rfl, rfl, rfl, rfl, rfl, rfl, rfl⟩

@[simp] theorem slotPut_frame (s : State) (i : Nat) (k : KeySlot) :
    (slotPut s i k).power = s.power ∧ (slotPut s i k).bridges = s.bridges ∧ (slotPut s i k).rig = s.rig ∧
    (slotPut s i k).array = s.array ∧ (slotPut s i k).fabric = s.fabric ∧ (slotPut s i k).col = s.col ∧ (slotPut s i k).dly = s.dly ∧
    (slotPut s i k).mem = s.mem ∧ (slotPut s i k).ciph = s.ciph ∧ (slotPut s i k).sp = s.sp ∧ (slotPut s i k).lmx = s.lmx ∧
    (slotPut s i k).gaf = s.gaf ∧ (slotPut s i k).lc = s.lc ∧ (slotPut s i k).jtag = s.jtag ∧ (slotPut s i k).err = s.err ∧
    (slotPut s i k).draws = s.draws ∧ (slotPut s i k).freeCtr = s.freeCtr ∧ (slotPut s i k).pending = s.pending :=
  ⟨rfl, rfl, rfl, rfl, rfl, rfl, rfl, rfl, rfl, rfl, rfl, rfl, rfl, rfl, rfl, rfl, rfl, rfl⟩

@[simp] theorem slotMod_frame (s : State) (i : Nat) (f : KeySlot → KeySlot) :
    (slotMod s i f).power = s.power ∧ (slotMod s i f).bridges = s.bridges ∧ (slotMod s i f).rig = s.rig ∧
    (slotMod s i f).array = s.array ∧ (slotMod s i f).fabric = s.fabric ∧ (slotMod s i f).col = s.col ∧ (slotMod s i f).dly = s.dly ∧
    (slotMod s i f).mem = s.mem ∧ (slotMod s i f).ciph = s.ciph ∧ (slotMod s i f).sp = s.sp ∧ (slotMod s i f).lmx = s.lmx ∧
    (slotMod s i f).gaf = s.gaf ∧ (slotMod s i f).lc = s.lc ∧ (slotMod s i f).jtag = s.jtag ∧ (slotMod s i f).err = s.err ∧
    (slotMod s i f).draws = s.draws ∧ (slotMod s i f).freeCtr = s.freeCtr ∧ (slotMod s i f).pending = s.pending :=
  ⟨rfl, rfl, rfl, rfl, rfl, rfl, rfl, rfl, rfl, rfl, rfl, rfl, rfl, rfl, rfl, rfl, rfl, rfl⟩

@[simp] theorem ciphStatus_frame (s : State) (n : Nat) (st : Status) :
    (ciphStatus s n st).power = s.power ∧ (ciphStatus s n st).bridges = s.bridges ∧ (ciphStatus s n st).rig = s.rig ∧
    (ciphStatus s n st).array = s.array ∧ (ciphStatus s n st).fabric = s.fabric ∧ (ciphStatus s n st).col = s.col ∧
    (ciphStatus s n st).dly = s.dly ∧ (ciphStatus s n st).mem = s.mem ∧ (ciphStatus s n st).keys = s.keys ∧
    (ciphStatus s n st).sp = s.sp ∧ (ciphStatus s n st).lmx = s.lmx ∧ (ciphStatus s n st).gaf = s.gaf ∧ (ciphStatus s n st).lc = s.lc ∧
    (ciphStatus s n st).jtag = s.jtag ∧ (ciphStatus s n st).err = s.err ∧ (ciphStatus s n st).draws = s.draws ∧
    (ciphStatus s n st).freeCtr = s.freeCtr ∧ (ciphStatus s n st).pending = s.pending :=
  ⟨rfl, rfl, rfl, rfl, rfl, rfl, rfl, rfl, rfl, rfl, rfl, rfl, rfl, rfl, rfl, rfl, rfl, rfl⟩

@[simp] theorem winStatusPut_frame (s : State) (st : Status) :
    (winStatusPut s st).power = s.power ∧ (winStatusPut s st).bridges = s.bridges ∧ (winStatusPut s st).rig = s.rig ∧
    (winStatusPut s st).array = s.array ∧ (winStatusPut s st).fabric = s.fabric ∧ (winStatusPut s st).col = s.col ∧
    (winStatusPut s st).dly = s.dly ∧ (winStatusPut s st).mem = s.mem ∧ (winStatusPut s st).keys = s.keys ∧
    (winStatusPut s st).sp = s.sp ∧ (winStatusPut s st).lmx = s.lmx ∧ (winStatusPut s st).gaf = s.gaf ∧ (winStatusPut s st).lc = s.lc ∧
    (winStatusPut s st).jtag = s.jtag ∧ (winStatusPut s st).err = s.err ∧ (winStatusPut s st).draws = s.draws ∧
    (winStatusPut s st).freeCtr = s.freeCtr ∧ (winStatusPut s st).pending = s.pending :=
  ⟨rfl, rfl, rfl, rfl, rfl, rfl, rfl, rfl, rfl, rfl, rfl, rfl, rfl, rfl, rfl, rfl, rfl, rfl⟩

@[simp] theorem linkMod_frame (s : State) (n : Nat) (f : Link → Link) :
    (linkMod s n f).power = s.power ∧ (linkMod s n f).bridges = s.bridges ∧ (linkMod s n f).rig = s.rig ∧
    (linkMod s n f).array = s.array ∧ (linkMod s n f).col = s.col ∧ (linkMod s n f).dly = s.dly ∧ (linkMod s n f).mem = s.mem ∧
    (linkMod s n f).ciph = s.ciph ∧ (linkMod s n f).keys = s.keys ∧ (linkMod s n f).sp = s.sp ∧ (linkMod s n f).lmx = s.lmx ∧
    (linkMod s n f).gaf = s.gaf ∧ (linkMod s n f).lc = s.lc ∧ (linkMod s n f).jtag = s.jtag ∧ (linkMod s n f).err = s.err ∧
    (linkMod s n f).draws = s.draws ∧ (linkMod s n f).freeCtr = s.freeCtr ∧ (linkMod s n f).pending = s.pending :=
  ⟨rfl, rfl, rfl, rfl, rfl, rfl, rfl, rfl, rfl, rfl, rfl, rfl, rfl, rfl, rfl, rfl, rfl, rfl⟩

@[simp] theorem islandWoken_frame (s : State) (n : Nat) :
    (islandWoken s n).power = s.power ∧ (islandWoken s n).bridges = s.bridges ∧ (islandWoken s n).rig = s.rig ∧
    (islandWoken s n).array = s.array ∧ (islandWoken s n).fabric = s.fabric ∧ (islandWoken s n).col = s.col ∧
    (islandWoken s n).dly = s.dly ∧ (islandWoken s n).mem = s.mem ∧ (islandWoken s n).ciph = s.ciph ∧ (islandWoken s n).keys = s.keys ∧
    (islandWoken s n).sp = s.sp ∧ (islandWoken s n).lmx = s.lmx ∧ (islandWoken s n).lc = s.lc ∧ (islandWoken s n).jtag = s.jtag ∧
    (islandWoken s n).err = s.err ∧ (islandWoken s n).draws = s.draws ∧ (islandWoken s n).freeCtr = s.freeCtr ∧
    (islandWoken s n).pending = s.pending :=
  ⟨rfl, rfl, rfl, rfl, rfl, rfl, rfl, rfl, rfl, rfl, rfl, rfl, rfl, rfl, rfl, rfl, rfl, rfl⟩

@[simp] theorem dlyMod_frame (s : State) (f : Dailies → Dailies) :
    (dlyMod s f).power = s.power ∧ (dlyMod s f).bridges = s.bridges ∧ (dlyMod s f).rig = s.rig ∧ (dlyMod s f).array = s.array ∧
    (dlyMod s f).fabric = s.fabric ∧ (dlyMod s f).col = s.col ∧ (dlyMod s f).mem = s.mem ∧ (dlyMod s f).ciph = s.ciph ∧
    (dlyMod s f).keys = s.keys ∧ (dlyMod s f).sp = s.sp ∧ (dlyMod s f).lmx = s.lmx ∧ (dlyMod s f).gaf = s.gaf ∧ (dlyMod s f).lc = s.lc ∧
    (dlyMod s f).jtag = s.jtag ∧ (dlyMod s f).err = s.err ∧ (dlyMod s f).draws = s.draws ∧ (dlyMod s f).freeCtr = s.freeCtr ∧
    (dlyMod s f).pending = s.pending :=
  ⟨rfl, rfl, rfl, rfl, rfl, rfl, rfl, rfl, rfl, rfl, rfl, rfl, rfl, rfl, rfl, rfl, rfl, rfl⟩

@[simp] theorem rigMod_frame (s : State) (f : RigBlock → RigBlock) :
    (rigMod s f).power = s.power ∧ (rigMod s f).bridges = s.bridges ∧ (rigMod s f).array = s.array ∧ (rigMod s f).fabric = s.fabric ∧
    (rigMod s f).col = s.col ∧ (rigMod s f).dly = s.dly ∧ (rigMod s f).mem = s.mem ∧ (rigMod s f).ciph = s.ciph ∧
    (rigMod s f).keys = s.keys ∧ (rigMod s f).sp = s.sp ∧ (rigMod s f).lmx = s.lmx ∧ (rigMod s f).gaf = s.gaf ∧ (rigMod s f).lc = s.lc ∧
    (rigMod s f).jtag = s.jtag ∧ (rigMod s f).err = s.err ∧ (rigMod s f).draws = s.draws ∧ (rigMod s f).freeCtr = s.freeCtr ∧
    (rigMod s f).pending = s.pending :=
  ⟨rfl, rfl, rfl, rfl, rfl, rfl, rfl, rfl, rfl, rfl, rfl, rfl, rfl, rfl, rfl, rfl, rfl, rfl⟩

@[simp] theorem budgetWrite_frame (v : Nat) (s : State) :
    (budgetWrite v s).bridges = s.bridges ∧ (budgetWrite v s).rig = s.rig ∧ (budgetWrite v s).array = s.array ∧
    (budgetWrite v s).fabric = s.fabric ∧ (budgetWrite v s).col = s.col ∧ (budgetWrite v s).dly = s.dly ∧ (budgetWrite v s).mem = s.mem ∧
    (budgetWrite v s).ciph = s.ciph ∧ (budgetWrite v s).keys = s.keys ∧ (budgetWrite v s).sp = s.sp ∧ (budgetWrite v s).lmx = s.lmx ∧
    (budgetWrite v s).gaf = s.gaf ∧ (budgetWrite v s).lc = s.lc ∧ (budgetWrite v s).jtag = s.jtag ∧ (budgetWrite v s).err = s.err ∧
    (budgetWrite v s).draws = s.draws ∧ (budgetWrite v s).freeCtr = s.freeCtr ∧ (budgetWrite v s).pending = s.pending :=
  ⟨rfl, rfl, rfl, rfl, rfl, rfl, rfl, rfl, rfl, rfl, rfl, rfl, rfl, rfl, rfl, rfl, rfl, rfl⟩

@[simp] theorem quoteAsk_frame (s : State) (q : QuoteReq) :
    (quoteAsk s q).power = s.power ∧ (quoteAsk s q).bridges = s.bridges ∧ (quoteAsk s q).rig = s.rig ∧ (quoteAsk s q).array = s.array ∧
    (quoteAsk s q).fabric = s.fabric ∧ (quoteAsk s q).col = s.col ∧ (quoteAsk s q).dly = s.dly ∧ (quoteAsk s q).mem = s.mem ∧
    (quoteAsk s q).ciph = s.ciph ∧ (quoteAsk s q).sp = s.sp ∧ (quoteAsk s q).lmx = s.lmx ∧ (quoteAsk s q).gaf = s.gaf ∧
    (quoteAsk s q).lc = s.lc ∧ (quoteAsk s q).jtag = s.jtag ∧ (quoteAsk s q).err = s.err ∧ (quoteAsk s q).draws = s.draws ∧
    (quoteAsk s q).freeCtr = s.freeCtr ∧ (quoteAsk s q).pending = s.pending :=
  ⟨rfl, rfl, rfl, rfl, rfl, rfl, rfl, rfl, rfl, rfl, rfl, rfl, rfl, rfl, rfl, rfl, rfl, rfl⟩

@[simp] theorem windowsDrop_frame (s : State) (g : Bool) :
    (windowsDrop s g).power = s.power ∧ (windowsDrop s g).bridges = s.bridges ∧ (windowsDrop s g).rig = s.rig ∧
    (windowsDrop s g).array = s.array ∧ (windowsDrop s g).col = s.col ∧ (windowsDrop s g).dly = s.dly ∧ (windowsDrop s g).mem = s.mem ∧
    (windowsDrop s g).ciph = s.ciph ∧ (windowsDrop s g).keys = s.keys ∧ (windowsDrop s g).sp = s.sp ∧ (windowsDrop s g).lmx = s.lmx ∧
    (windowsDrop s g).gaf = s.gaf ∧ (windowsDrop s g).lc = s.lc ∧ (windowsDrop s g).jtag = s.jtag ∧ (windowsDrop s g).err = s.err ∧
    (windowsDrop s g).draws = s.draws ∧ (windowsDrop s g).freeCtr = s.freeCtr ∧ (windowsDrop s g).pending = s.pending :=
  ⟨rfl, rfl, rfl, rfl, rfl, rfl, rfl, rfl, rfl, rfl, rfl, rfl, rfl, rfl, rfl, rfl, rfl, rfl⟩

@[simp] theorem chanPut_frame (s : State) (p : Nat) (c : Channel) :
    (chanPut s p c).power = s.power ∧ (chanPut s p c).bridges = s.bridges ∧ (chanPut s p c).rig = s.rig ∧
    (chanPut s p c).array = s.array ∧ (chanPut s p c).fabric = s.fabric ∧ (chanPut s p c).col = s.col ∧ (chanPut s p c).dly = s.dly ∧
    (chanPut s p c).mem = s.mem ∧ (chanPut s p c).ciph = s.ciph ∧ (chanPut s p c).sp = s.sp ∧ (chanPut s p c).lmx = s.lmx ∧
    (chanPut s p c).gaf = s.gaf ∧ (chanPut s p c).lc = s.lc ∧ (chanPut s p c).jtag = s.jtag ∧ (chanPut s p c).err = s.err ∧
    (chanPut s p c).draws = s.draws ∧ (chanPut s p c).freeCtr = s.freeCtr ∧ (chanPut s p c).pending = s.pending :=
  ⟨rfl, rfl, rfl, rfl, rfl, rfl, rfl, rfl, rfl, rfl, rfl, rfl, rfl, rfl, rfl, rfl, rfl, rfl⟩

@[simp] theorem lcStatus_frame (s : State) (st : Status) :
    (lcStatus s st).power = s.power ∧ (lcStatus s st).bridges = s.bridges ∧ (lcStatus s st).rig = s.rig ∧
    (lcStatus s st).array = s.array ∧ (lcStatus s st).fabric = s.fabric ∧ (lcStatus s st).col = s.col ∧ (lcStatus s st).dly = s.dly ∧
    (lcStatus s st).mem = s.mem ∧ (lcStatus s st).ciph = s.ciph ∧ (lcStatus s st).keys = s.keys ∧ (lcStatus s st).sp = s.sp ∧
    (lcStatus s st).lmx = s.lmx ∧ (lcStatus s st).gaf = s.gaf ∧ (lcStatus s st).jtag = s.jtag ∧ (lcStatus s st).err = s.err ∧
    (lcStatus s st).draws = s.draws ∧ (lcStatus s st).freeCtr = s.freeCtr ∧ (lcStatus s st).pending = s.pending :=
  ⟨rfl, rfl, rfl, rfl, rfl, rfl, rfl, rfl, rfl, rfl, rfl, rfl, rfl, rfl, rfl, rfl, rfl, rfl⟩

@[simp] theorem dbgStatus_frame (s : State) (st : Status) (reason : Nat) :
    (dbgStatus s st reason).power = s.power ∧ (dbgStatus s st reason).bridges = s.bridges ∧ (dbgStatus s st reason).rig = s.rig ∧
    (dbgStatus s st reason).array = s.array ∧ (dbgStatus s st reason).fabric = s.fabric ∧ (dbgStatus s st reason).col = s.col ∧
    (dbgStatus s st reason).dly = s.dly ∧ (dbgStatus s st reason).mem = s.mem ∧ (dbgStatus s st reason).ciph = s.ciph ∧
    (dbgStatus s st reason).keys = s.keys ∧ (dbgStatus s st reason).sp = s.sp ∧ (dbgStatus s st reason).lmx = s.lmx ∧
    (dbgStatus s st reason).gaf = s.gaf ∧ (dbgStatus s st reason).jtag = s.jtag ∧ (dbgStatus s st reason).err = s.err ∧
    (dbgStatus s st reason).draws = s.draws ∧ (dbgStatus s st reason).freeCtr = s.freeCtr ∧ (dbgStatus s st reason).pending = s.pending :=
  ⟨rfl, rfl, rfl, rfl, rfl, rfl, rfl, rfl, rfl, rfl, rfl, rfl, rfl, rfl, rfl, rfl, rfl, rfl⟩

@[simp] theorem dbgPtrWrite_frame (v : Word) (s : State) :
    (dbgPtrWrite v s).power = s.power ∧ (dbgPtrWrite v s).bridges = s.bridges ∧ (dbgPtrWrite v s).rig = s.rig ∧
    (dbgPtrWrite v s).array = s.array ∧ (dbgPtrWrite v s).fabric = s.fabric ∧ (dbgPtrWrite v s).col = s.col ∧
    (dbgPtrWrite v s).dly = s.dly ∧ (dbgPtrWrite v s).mem = s.mem ∧ (dbgPtrWrite v s).ciph = s.ciph ∧ (dbgPtrWrite v s).keys = s.keys ∧
    (dbgPtrWrite v s).sp = s.sp ∧ (dbgPtrWrite v s).lmx = s.lmx ∧ (dbgPtrWrite v s).gaf = s.gaf ∧ (dbgPtrWrite v s).jtag = s.jtag ∧
    (dbgPtrWrite v s).err = s.err ∧ (dbgPtrWrite v s).draws = s.draws ∧ (dbgPtrWrite v s).freeCtr = s.freeCtr ∧
    (dbgPtrWrite v s).pending = s.pending :=
  ⟨rfl, rfl, rfl, rfl, rfl, rfl, rfl, rfl, rfl, rfl, rfl, rfl, rfl, rfl, rfl, rfl, rfl, rfl⟩

@[simp] theorem portCtrl_frame (target : Port) (v : Word) (s : State) :
    (portCtrl target v s).power = s.power ∧ (portCtrl target v s).bridges = s.bridges ∧ (portCtrl target v s).rig = s.rig ∧
    (portCtrl target v s).array = s.array ∧ (portCtrl target v s).fabric = s.fabric ∧ (portCtrl target v s).col = s.col ∧
    (portCtrl target v s).dly = s.dly ∧ (portCtrl target v s).mem = s.mem ∧ (portCtrl target v s).ciph = s.ciph ∧
    (portCtrl target v s).keys = s.keys ∧ (portCtrl target v s).sp = s.sp ∧ (portCtrl target v s).gaf = s.gaf ∧
    (portCtrl target v s).lc = s.lc ∧ (portCtrl target v s).jtag = s.jtag ∧ (portCtrl target v s).err = s.err ∧
    (portCtrl target v s).draws = s.draws ∧ (portCtrl target v s).freeCtr = s.freeCtr ∧ (portCtrl target v s).pending = s.pending :=
  ⟨rfl, rfl, rfl, rfl, rfl, rfl, rfl, rfl, rfl, rfl, rfl, rfl, rfl, rfl, rfl, rfl, rfl, rfl⟩

@[simp] theorem i3cRefuse_frame (s : State) :
    (i3cRefuse s).bridges = s.bridges ∧ (i3cRefuse s).rig = s.rig ∧ (i3cRefuse s).array = s.array ∧ (i3cRefuse s).fabric = s.fabric ∧
    (i3cRefuse s).col = s.col ∧ (i3cRefuse s).dly = s.dly ∧ (i3cRefuse s).mem = s.mem ∧ (i3cRefuse s).ciph = s.ciph ∧
    (i3cRefuse s).keys = s.keys ∧ (i3cRefuse s).sp = s.sp ∧ (i3cRefuse s).lmx = s.lmx ∧ (i3cRefuse s).gaf = s.gaf ∧
    (i3cRefuse s).lc = s.lc ∧ (i3cRefuse s).jtag = s.jtag ∧ (i3cRefuse s).err = s.err ∧ (i3cRefuse s).draws = s.draws ∧
    (i3cRefuse s).freeCtr = s.freeCtr ∧ (i3cRefuse s).pending = s.pending :=
  ⟨rfl, rfl, rfl, rfl, rfl, rfl, rfl, rfl, rfl, rfl, rfl, rfl, rfl, rfl, rfl, rfl, rfl, rfl⟩

@[simp] theorem i3cCountsClear_frame (s : State) :
    (i3cCountsClear s).bridges = s.bridges ∧ (i3cCountsClear s).rig = s.rig ∧ (i3cCountsClear s).array = s.array ∧
    (i3cCountsClear s).fabric = s.fabric ∧ (i3cCountsClear s).col = s.col ∧ (i3cCountsClear s).dly = s.dly ∧
    (i3cCountsClear s).mem = s.mem ∧ (i3cCountsClear s).ciph = s.ciph ∧ (i3cCountsClear s).keys = s.keys ∧ (i3cCountsClear s).sp = s.sp ∧
    (i3cCountsClear s).lmx = s.lmx ∧ (i3cCountsClear s).gaf = s.gaf ∧ (i3cCountsClear s).lc = s.lc ∧ (i3cCountsClear s).jtag = s.jtag ∧
    (i3cCountsClear s).err = s.err ∧ (i3cCountsClear s).draws = s.draws ∧ (i3cCountsClear s).freeCtr = s.freeCtr ∧
    (i3cCountsClear s).pending = s.pending :=
  ⟨rfl, rfl, rfl, rfl, rfl, rfl, rfl, rfl, rfl, rfl, rfl, rfl, rfl, rfl, rfl, rfl, rfl, rfl⟩

@[simp] theorem bumpEpoch_frame (s : State) :
    (bumpEpoch s).power = s.power ∧ (bumpEpoch s).bridges = s.bridges ∧ (bumpEpoch s).rig = s.rig ∧ (bumpEpoch s).array = s.array ∧
    (bumpEpoch s).fabric = s.fabric ∧ (bumpEpoch s).col = s.col ∧ (bumpEpoch s).dly = s.dly ∧ (bumpEpoch s).mem = s.mem ∧
    (bumpEpoch s).ciph = s.ciph ∧ (bumpEpoch s).keys = s.keys ∧ (bumpEpoch s).sp = s.sp ∧ (bumpEpoch s).lmx = s.lmx ∧
    (bumpEpoch s).gaf = s.gaf ∧ (bumpEpoch s).lc = s.lc ∧ (bumpEpoch s).jtag = s.jtag ∧ (bumpEpoch s).draws = s.draws ∧
    (bumpEpoch s).freeCtr = s.freeCtr ∧ (bumpEpoch s).pending = s.pending :=
  ⟨rfl, rfl, rfl, rfl, rfl, rfl, rfl, rfl, rfl, rfl, rfl, rfl, rfl, rfl, rfl, rfl, rfl, rfl⟩

@[simp] theorem bootDone_frame (s : State) (step : Nat) :
    (bootDone s step).bridges = s.bridges ∧ (bootDone s step).rig = s.rig ∧ (bootDone s step).array = s.array ∧
    (bootDone s step).fabric = s.fabric ∧ (bootDone s step).col = s.col ∧ (bootDone s step).dly = s.dly ∧ (bootDone s step).mem = s.mem ∧
    (bootDone s step).ciph = s.ciph ∧ (bootDone s step).keys = s.keys ∧ (bootDone s step).sp = s.sp ∧ (bootDone s step).lmx = s.lmx ∧
    (bootDone s step).gaf = s.gaf ∧ (bootDone s step).lc = s.lc ∧ (bootDone s step).jtag = s.jtag ∧ (bootDone s step).err = s.err ∧
    (bootDone s step).draws = s.draws ∧ (bootDone s step).freeCtr = s.freeCtr ∧ (bootDone s step).pending = s.pending :=
  ⟨rfl, rfl, rfl, rfl, rfl, rfl, rfl, rfl, rfl, rfl, rfl, rfl, rfl, rfl, rfl, rfl, rfl, rfl⟩

@[simp] theorem setHeld_frame (s : State) (e : Nat) (h : Bool) :
    (setHeld s e h).power = s.power ∧ (setHeld s e h).bridges = s.bridges ∧ (setHeld s e h).rig = s.rig ∧
    (setHeld s e h).array = s.array ∧ (setHeld s e h).fabric = s.fabric ∧ (setHeld s e h).col = s.col ∧ (setHeld s e h).dly = s.dly ∧
    (setHeld s e h).mem = s.mem ∧ (setHeld s e h).ciph = s.ciph ∧ (setHeld s e h).keys = s.keys ∧ (setHeld s e h).sp = s.sp ∧
    (setHeld s e h).lmx = s.lmx ∧ (setHeld s e h).lc = s.lc ∧ (setHeld s e h).jtag = s.jtag ∧ (setHeld s e h).err = s.err ∧
    (setHeld s e h).draws = s.draws ∧ (setHeld s e h).freeCtr = s.freeCtr ∧ (setHeld s e h).pending = s.pending :=
  ⟨rfl, rfl, rfl, rfl, rfl, rfl, rfl, rfl, rfl, rfl, rfl, rfl, rfl, rfl, rfl, rfl, rfl, rfl⟩

@[simp] theorem colMod_frame (s : State) (cid : Nat) (f : ColSlot → ColSlot) :
    (colMod s cid f).power = s.power ∧ (colMod s cid f).bridges = s.bridges ∧ (colMod s cid f).rig = s.rig ∧
    (colMod s cid f).array = s.array ∧ (colMod s cid f).fabric = s.fabric ∧ (colMod s cid f).dly = s.dly ∧ (colMod s cid f).mem = s.mem ∧
    (colMod s cid f).ciph = s.ciph ∧ (colMod s cid f).keys = s.keys ∧ (colMod s cid f).sp = s.sp ∧ (colMod s cid f).lmx = s.lmx ∧
    (colMod s cid f).gaf = s.gaf ∧ (colMod s cid f).lc = s.lc ∧ (colMod s cid f).jtag = s.jtag ∧ (colMod s cid f).err = s.err ∧
    (colMod s cid f).draws = s.draws ∧ (colMod s cid f).freeCtr = s.freeCtr ∧ (colMod s cid f).pending = s.pending :=
  ⟨rfl, rfl, rfl, rfl, rfl, rfl, rfl, rfl, rfl, rfl, rfl, rfl, rfl, rfl, rfl, rfl, rfl, rfl⟩

@[simp] theorem stgPut_frame (s : State) (x : Band) (off : Nat) (bs : List Byte) :
    (stgPut s x off bs).power = s.power ∧ (stgPut s x off bs).bridges = s.bridges ∧ (stgPut s x off bs).rig = s.rig ∧
    (stgPut s x off bs).fabric = s.fabric ∧ (stgPut s x off bs).col = s.col ∧ (stgPut s x off bs).dly = s.dly ∧
    (stgPut s x off bs).mem = s.mem ∧ (stgPut s x off bs).ciph = s.ciph ∧ (stgPut s x off bs).keys = s.keys ∧
    (stgPut s x off bs).sp = s.sp ∧ (stgPut s x off bs).lmx = s.lmx ∧ (stgPut s x off bs).gaf = s.gaf ∧ (stgPut s x off bs).lc = s.lc ∧
    (stgPut s x off bs).jtag = s.jtag ∧ (stgPut s x off bs).err = s.err ∧ (stgPut s x off bs).draws = s.draws ∧
    (stgPut s x off bs).freeCtr = s.freeCtr ∧ (stgPut s x off bs).pending = s.pending :=
  ⟨rfl, rfl, rfl, rfl, rfl, rfl, rfl, rfl, rfl, rfl, rfl, rfl, rfl, rfl, rfl, rfl, rfl, rfl⟩

@[simp] theorem tilePutRow_frame (s : State) (x : Band) (base i : Nat) (ws : List W32) :
    (tilePutRow s x base i ws).power = s.power ∧ (tilePutRow s x base i ws).bridges = s.bridges ∧
    (tilePutRow s x base i ws).rig = s.rig ∧ (tilePutRow s x base i ws).fabric = s.fabric ∧ (tilePutRow s x base i ws).col = s.col ∧
    (tilePutRow s x base i ws).dly = s.dly ∧ (tilePutRow s x base i ws).mem = s.mem ∧ (tilePutRow s x base i ws).ciph = s.ciph ∧
    (tilePutRow s x base i ws).keys = s.keys ∧ (tilePutRow s x base i ws).sp = s.sp ∧ (tilePutRow s x base i ws).lmx = s.lmx ∧
    (tilePutRow s x base i ws).gaf = s.gaf ∧ (tilePutRow s x base i ws).lc = s.lc ∧ (tilePutRow s x base i ws).jtag = s.jtag ∧
    (tilePutRow s x base i ws).err = s.err ∧ (tilePutRow s x base i ws).draws = s.draws ∧
    (tilePutRow s x base i ws).freeCtr = s.freeCtr ∧ (tilePutRow s x base i ws).pending = s.pending :=
  ⟨rfl, rfl, rfl, rfl, rfl, rfl, rfl, rfl, rfl, rfl, rfl, rfl, rfl, rfl, rfl, rfl, rfl, rfl⟩

@[simp] theorem tileKinds_frame (s : State) (x : Band) (base m : Nat) (int : Bool) :
    (tileKinds s x base m int).power = s.power ∧ (tileKinds s x base m int).bridges = s.bridges ∧
    (tileKinds s x base m int).rig = s.rig ∧ (tileKinds s x base m int).fabric = s.fabric ∧ (tileKinds s x base m int).col = s.col ∧
    (tileKinds s x base m int).dly = s.dly ∧ (tileKinds s x base m int).mem = s.mem ∧ (tileKinds s x base m int).ciph = s.ciph ∧
    (tileKinds s x base m int).keys = s.keys ∧ (tileKinds s x base m int).sp = s.sp ∧ (tileKinds s x base m int).lmx = s.lmx ∧
    (tileKinds s x base m int).gaf = s.gaf ∧ (tileKinds s x base m int).lc = s.lc ∧ (tileKinds s x base m int).jtag = s.jtag ∧
    (tileKinds s x base m int).err = s.err ∧ (tileKinds s x base m int).draws = s.draws ∧
    (tileKinds s x base m int).freeCtr = s.freeCtr ∧ (tileKinds s x base m int).pending = s.pending :=
  ⟨rfl, rfl, rfl, rfl, rfl, rfl, rfl, rfl, rfl, rfl, rfl, rfl, rfl, rfl, rfl, rfl, rfl, rfl⟩

@[simp] theorem holdRead_frame (s : State) (ctx : Nat) (x : Band) (stg tile : Bool) :
    (holdRead s ctx x stg tile).power = s.power ∧ (holdRead s ctx x stg tile).bridges = s.bridges ∧
    (holdRead s ctx x stg tile).rig = s.rig ∧ (holdRead s ctx x stg tile).array = s.array ∧
    (holdRead s ctx x stg tile).fabric = s.fabric ∧ (holdRead s ctx x stg tile).col = s.col ∧ (holdRead s ctx x stg tile).dly = s.dly ∧
    (holdRead s ctx x stg tile).mem = s.mem ∧ (holdRead s ctx x stg tile).ciph = s.ciph ∧ (holdRead s ctx x stg tile).keys = s.keys ∧
    (holdRead s ctx x stg tile).lmx = s.lmx ∧ (holdRead s ctx x stg tile).gaf = s.gaf ∧ (holdRead s ctx x stg tile).lc = s.lc ∧
    (holdRead s ctx x stg tile).jtag = s.jtag ∧ (holdRead s ctx x stg tile).err = s.err ∧ (holdRead s ctx x stg tile).draws = s.draws ∧
    (holdRead s ctx x stg tile).freeCtr = s.freeCtr ∧ (holdRead s ctx x stg tile).pending = s.pending :=
  ⟨rfl, rfl, rfl, rfl, rfl, rfl, rfl, rfl, rfl, rfl, rfl, rfl, rfl, rfl, rfl, rfl, rfl, rfl⟩

@[simp] theorem holdWrite_frame (s : State) (c : Cmd) (x : Band) (stg tile : Bool) :
    (holdWrite s c x stg tile).power = s.power ∧ (holdWrite s c x stg tile).bridges = s.bridges ∧
    (holdWrite s c x stg tile).rig = s.rig ∧ (holdWrite s c x stg tile).fabric = s.fabric ∧ (holdWrite s c x stg tile).col = s.col ∧
    (holdWrite s c x stg tile).dly = s.dly ∧ (holdWrite s c x stg tile).mem = s.mem ∧ (holdWrite s c x stg tile).ciph = s.ciph ∧
    (holdWrite s c x stg tile).keys = s.keys ∧ (holdWrite s c x stg tile).sp = s.sp ∧ (holdWrite s c x stg tile).lmx = s.lmx ∧
    (holdWrite s c x stg tile).gaf = s.gaf ∧ (holdWrite s c x stg tile).lc = s.lc ∧ (holdWrite s c x stg tile).jtag = s.jtag ∧
    (holdWrite s c x stg tile).err = s.err ∧ (holdWrite s c x stg tile).draws = s.draws ∧
    (holdWrite s c x stg tile).freeCtr = s.freeCtr ∧ (holdWrite s c x stg tile).pending = s.pending := by
  unfold holdWrite
  repeat' split
  all_goals exact ⟨rfl, rfl, rfl, rfl, rfl, rfl, rfl, rfl, rfl, rfl, rfl, rfl, rfl, rfl, rfl, rfl, rfl, rfl⟩

@[simp] theorem putPlain_frame (s : State) (a : Nat) (bs : List Byte) :
    (putPlain s a bs).power = s.power ∧ (putPlain s a bs).bridges = s.bridges ∧ (putPlain s a bs).rig = s.rig ∧
    (putPlain s a bs).array = s.array ∧ (putPlain s a bs).fabric = s.fabric ∧ (putPlain s a bs).col = s.col ∧
    (putPlain s a bs).dly = s.dly ∧ (putPlain s a bs).ciph = s.ciph ∧ (putPlain s a bs).keys = s.keys ∧ (putPlain s a bs).sp = s.sp ∧
    (putPlain s a bs).lmx = s.lmx ∧ (putPlain s a bs).gaf = s.gaf ∧ (putPlain s a bs).lc = s.lc ∧ (putPlain s a bs).jtag = s.jtag ∧
    (putPlain s a bs).err = s.err ∧ (putPlain s a bs).draws = s.draws ∧ (putPlain s a bs).freeCtr = s.freeCtr ∧
    (putPlain s a bs).pending = s.pending :=
  ⟨rfl, rfl, rfl, rfl, rfl, rfl, rfl, rfl, rfl, rfl, rfl, rfl, rfl, rfl, rfl, rfl, rfl, rfl⟩

@[simp] theorem bridgeMod_frame (s : State) (d : BridgeDir) (f : Bridge → Bridge) :
    (bridgeMod s d f).power = s.power ∧ (bridgeMod s d f).rig = s.rig ∧ (bridgeMod s d f).array = s.array ∧
    (bridgeMod s d f).fabric = s.fabric ∧ (bridgeMod s d f).col = s.col ∧ (bridgeMod s d f).dly = s.dly ∧ (bridgeMod s d f).mem = s.mem ∧
    (bridgeMod s d f).ciph = s.ciph ∧ (bridgeMod s d f).keys = s.keys ∧ (bridgeMod s d f).sp = s.sp ∧ (bridgeMod s d f).lmx = s.lmx ∧
    (bridgeMod s d f).gaf = s.gaf ∧ (bridgeMod s d f).lc = s.lc ∧ (bridgeMod s d f).jtag = s.jtag ∧ (bridgeMod s d f).err = s.err ∧
    (bridgeMod s d f).draws = s.draws ∧ (bridgeMod s d f).freeCtr = s.freeCtr ∧ (bridgeMod s d f).pending = s.pending :=
  ⟨rfl, rfl, rfl, rfl, rfl, rfl, rfl, rfl, rfl, rfl, rfl, rfl, rfl, rfl, rfl, rfl, rfl, rfl⟩

@[simp] theorem logBridge_frame (s : State) (d : BridgeDir) :
    (logBridge s d).power = s.power ∧ (logBridge s d).bridges = s.bridges ∧ (logBridge s d).rig = s.rig ∧
    (logBridge s d).array = s.array ∧ (logBridge s d).fabric = s.fabric ∧ (logBridge s d).col = s.col ∧ (logBridge s d).dly = s.dly ∧
    (logBridge s d).mem = s.mem ∧ (logBridge s d).ciph = s.ciph ∧ (logBridge s d).keys = s.keys ∧ (logBridge s d).sp = s.sp ∧
    (logBridge s d).lmx = s.lmx ∧ (logBridge s d).gaf = s.gaf ∧ (logBridge s d).lc = s.lc ∧ (logBridge s d).jtag = s.jtag ∧
    (logBridge s d).draws = s.draws ∧ (logBridge s d).freeCtr = s.freeCtr ∧ (logBridge s d).pending = s.pending :=
  ⟨rfl, rfl, rfl, rfl, rfl, rfl, rfl, rfl, rfl, rfl, rfl, rfl, rfl, rfl, rfl, rfl, rfl, rfl⟩

@[simp] theorem countResend_frame (s : State) (d : BridgeDir) :
    (countResend s d).power = s.power ∧ (countResend s d).bridges = s.bridges ∧ (countResend s d).rig = s.rig ∧
    (countResend s d).array = s.array ∧ (countResend s d).fabric = s.fabric ∧ (countResend s d).col = s.col ∧
    (countResend s d).dly = s.dly ∧ (countResend s d).mem = s.mem ∧ (countResend s d).ciph = s.ciph ∧ (countResend s d).keys = s.keys ∧
    (countResend s d).sp = s.sp ∧ (countResend s d).lmx = s.lmx ∧ (countResend s d).gaf = s.gaf ∧ (countResend s d).lc = s.lc ∧
    (countResend s d).jtag = s.jtag ∧ (countResend s d).draws = s.draws ∧ (countResend s d).freeCtr = s.freeCtr ∧
    (countResend s d).pending = s.pending := by
  unfold countResend
  repeat' split
  all_goals exact ⟨rfl, rfl, rfl, rfl, rfl, rfl, rfl, rfl, rfl, rfl, rfl, rfl, rfl, rfl, rfl, rfl, rfl, rfl⟩

@[simp] theorem countHbm_frame (s : State) (c : Cmd) (runs : List (Nat × Nat)) (rd wr : Nat) :
    (countHbm s c runs rd wr).power = s.power ∧ (countHbm s c runs rd wr).bridges = s.bridges ∧ (countHbm s c runs rd wr).rig = s.rig ∧
    (countHbm s c runs rd wr).array = s.array ∧ (countHbm s c runs rd wr).fabric = s.fabric ∧ (countHbm s c runs rd wr).col = s.col ∧
    (countHbm s c runs rd wr).dly = s.dly ∧ (countHbm s c runs rd wr).mem = s.mem ∧ (countHbm s c runs rd wr).ciph = s.ciph ∧
    (countHbm s c runs rd wr).keys = s.keys ∧ (countHbm s c runs rd wr).lmx = s.lmx ∧ (countHbm s c runs rd wr).gaf = s.gaf ∧
    (countHbm s c runs rd wr).lc = s.lc ∧ (countHbm s c runs rd wr).jtag = s.jtag ∧ (countHbm s c runs rd wr).err = s.err ∧
    (countHbm s c runs rd wr).draws = s.draws ∧ (countHbm s c runs rd wr).freeCtr = s.freeCtr ∧
    (countHbm s c runs rd wr).pending = s.pending :=
  ⟨rfl, rfl, rfl, rfl, rfl, rfl, rfl, rfl, rfl, rfl, rfl, rfl, rfl, rfl, rfl, rfl, rfl, rfl⟩

@[simp] theorem addMask_frame (s : State) (ctx : Nat) (m : BitVec 8) :
    (addMask s ctx m).power = s.power ∧ (addMask s ctx m).bridges = s.bridges ∧ (addMask s ctx m).rig = s.rig ∧
    (addMask s ctx m).array = s.array ∧ (addMask s ctx m).fabric = s.fabric ∧ (addMask s ctx m).col = s.col ∧
    (addMask s ctx m).dly = s.dly ∧ (addMask s ctx m).mem = s.mem ∧ (addMask s ctx m).ciph = s.ciph ∧ (addMask s ctx m).keys = s.keys ∧
    (addMask s ctx m).lmx = s.lmx ∧ (addMask s ctx m).gaf = s.gaf ∧ (addMask s ctx m).lc = s.lc ∧ (addMask s ctx m).jtag = s.jtag ∧
    (addMask s ctx m).err = s.err ∧ (addMask s ctx m).draws = s.draws ∧ (addMask s ctx m).freeCtr = s.freeCtr ∧
    (addMask s ctx m).pending = s.pending :=
  ⟨rfl, rfl, rfl, rfl, rfl, rfl, rfl, rfl, rfl, rfl, rfl, rfl, rfl, rfl, rfl, rfl, rfl, rfl⟩

@[simp] theorem markMirror_frame (s : State) (n a size : Nat) :
    (markMirror s n a size).power = s.power ∧ (markMirror s n a size).bridges = s.bridges ∧ (markMirror s n a size).rig = s.rig ∧
    (markMirror s n a size).array = s.array ∧ (markMirror s n a size).fabric = s.fabric ∧ (markMirror s n a size).col = s.col ∧
    (markMirror s n a size).mem = s.mem ∧ (markMirror s n a size).ciph = s.ciph ∧ (markMirror s n a size).keys = s.keys ∧
    (markMirror s n a size).sp = s.sp ∧ (markMirror s n a size).lmx = s.lmx ∧ (markMirror s n a size).gaf = s.gaf ∧
    (markMirror s n a size).lc = s.lc ∧ (markMirror s n a size).jtag = s.jtag ∧ (markMirror s n a size).err = s.err ∧
    (markMirror s n a size).draws = s.draws ∧ (markMirror s n a size).freeCtr = s.freeCtr ∧ (markMirror s n a size).pending = s.pending := by
  unfold markMirror
  repeat' split
  all_goals exact ⟨rfl, rfl, rfl, rfl, rfl, rfl, rfl, rfl, rfl, rfl, rfl, rfl, rfl, rfl, rfl, rfl, rfl, rfl⟩

@[simp] theorem pairEvent_frame (s : State) (st : Status) :
    (pairEvent s st).power = s.power ∧ (pairEvent s st).bridges = s.bridges ∧ (pairEvent s st).rig = s.rig ∧
    (pairEvent s st).array = s.array ∧ (pairEvent s st).fabric = s.fabric ∧ (pairEvent s st).col = s.col ∧ (pairEvent s st).mem = s.mem ∧
    (pairEvent s st).ciph = s.ciph ∧ (pairEvent s st).keys = s.keys ∧ (pairEvent s st).sp = s.sp ∧ (pairEvent s st).lmx = s.lmx ∧
    (pairEvent s st).gaf = s.gaf ∧ (pairEvent s st).lc = s.lc ∧ (pairEvent s st).jtag = s.jtag ∧ (pairEvent s st).draws = s.draws ∧
    (pairEvent s st).freeCtr = s.freeCtr ∧ (pairEvent s st).pending = s.pending :=
  ⟨rfl, rfl, rfl, rfl, rfl, rfl, rfl, rfl, rfl, rfl, rfl, rfl, rfl, rfl, rfl, rfl, rfl⟩

@[simp] theorem logPair_frame (s : State) (st : Status) (bit12 : Bool) :
    (logPair s st bit12).power = s.power ∧ (logPair s st bit12).bridges = s.bridges ∧ (logPair s st bit12).rig = s.rig ∧
    (logPair s st bit12).array = s.array ∧ (logPair s st bit12).fabric = s.fabric ∧ (logPair s st bit12).col = s.col ∧
    (logPair s st bit12).dly = s.dly ∧ (logPair s st bit12).mem = s.mem ∧ (logPair s st bit12).ciph = s.ciph ∧
    (logPair s st bit12).keys = s.keys ∧ (logPair s st bit12).sp = s.sp ∧ (logPair s st bit12).lmx = s.lmx ∧
    (logPair s st bit12).gaf = s.gaf ∧ (logPair s st bit12).lc = s.lc ∧ (logPair s st bit12).jtag = s.jtag ∧
    (logPair s st bit12).draws = s.draws ∧ (logPair s st bit12).freeCtr = s.freeCtr ∧ (logPair s st bit12).pending = s.pending :=
  ⟨rfl, rfl, rfl, rfl, rfl, rfl, rfl, rfl, rfl, rfl, rfl, rfl, rfl, rfl, rfl, rfl, rfl, rfl⟩

@[simp] theorem takeAppend_frame (s : State) (step : Nat) (digest : W256) :
    (takeAppend s step digest).power = s.power ∧ (takeAppend s step digest).bridges = s.bridges ∧
    (takeAppend s step digest).rig = s.rig ∧ (takeAppend s step digest).array = s.array ∧ (takeAppend s step digest).fabric = s.fabric ∧
    (takeAppend s step digest).col = s.col ∧ (takeAppend s step digest).mem = s.mem ∧ (takeAppend s step digest).ciph = s.ciph ∧
    (takeAppend s step digest).keys = s.keys ∧ (takeAppend s step digest).sp = s.sp ∧ (takeAppend s step digest).lmx = s.lmx ∧
    (takeAppend s step digest).gaf = s.gaf ∧ (takeAppend s step digest).lc = s.lc ∧ (takeAppend s step digest).jtag = s.jtag ∧
    (takeAppend s step digest).err = s.err ∧ (takeAppend s step digest).draws = s.draws ∧
    (takeAppend s step digest).freeCtr = s.freeCtr ∧ (takeAppend s step digest).pending = s.pending :=
  ⟨rfl, rfl, rfl, rfl, rfl, rfl, rfl, rfl, rfl, rfl, rfl, rfl, rfl, rfl, rfl, rfl, rfl, rfl⟩

@[simp] theorem cutMod_frame (s : State) (f : CutRun → CutRun) :
    (cutMod s f).power = s.power ∧ (cutMod s f).bridges = s.bridges ∧ (cutMod s f).rig = s.rig ∧ (cutMod s f).array = s.array ∧
    (cutMod s f).fabric = s.fabric ∧ (cutMod s f).col = s.col ∧ (cutMod s f).mem = s.mem ∧ (cutMod s f).ciph = s.ciph ∧
    (cutMod s f).keys = s.keys ∧ (cutMod s f).sp = s.sp ∧ (cutMod s f).lmx = s.lmx ∧ (cutMod s f).gaf = s.gaf ∧ (cutMod s f).lc = s.lc ∧
    (cutMod s f).jtag = s.jtag ∧ (cutMod s f).err = s.err ∧ (cutMod s f).draws = s.draws ∧ (cutMod s f).freeCtr = s.freeCtr ∧
    (cutMod s f).pending = s.pending :=
  ⟨rfl, rfl, rfl, rfl, rfl, rfl, rfl, rfl, rfl, rfl, rfl, rfl, rfl, rfl, rfl, rfl, rfl, rfl⟩

@[simp] theorem rekeyStart_frame (s : State) (n slot pace : Nat) :
    (rekeyStart s n slot pace).power = s.power ∧ (rekeyStart s n slot pace).bridges = s.bridges ∧
    (rekeyStart s n slot pace).rig = s.rig ∧ (rekeyStart s n slot pace).array = s.array ∧ (rekeyStart s n slot pace).fabric = s.fabric ∧
    (rekeyStart s n slot pace).col = s.col ∧ (rekeyStart s n slot pace).dly = s.dly ∧ (rekeyStart s n slot pace).mem = s.mem ∧
    (rekeyStart s n slot pace).sp = s.sp ∧ (rekeyStart s n slot pace).lmx = s.lmx ∧ (rekeyStart s n slot pace).gaf = s.gaf ∧
    (rekeyStart s n slot pace).lc = s.lc ∧ (rekeyStart s n slot pace).jtag = s.jtag ∧ (rekeyStart s n slot pace).err = s.err ∧
    (rekeyStart s n slot pace).draws = s.draws ∧ (rekeyStart s n slot pace).freeCtr = s.freeCtr ∧
    (rekeyStart s n slot pace).pending = s.pending :=
  ⟨rfl, rfl, rfl, rfl, rfl, rfl, rfl, rfl, rfl, rfl, rfl, rfl, rfl, rfl, rfl, rfl, rfl⟩

@[simp] theorem recordStrike_frame (s : State) (cause : Nat) :
    (recordStrike s cause).power = s.power ∧ (recordStrike s cause).bridges = s.bridges ∧ (recordStrike s cause).rig = s.rig ∧
    (recordStrike s cause).array = s.array ∧ (recordStrike s cause).fabric = s.fabric ∧ (recordStrike s cause).col = s.col ∧
    (recordStrike s cause).dly = s.dly ∧ (recordStrike s cause).mem = s.mem ∧ (recordStrike s cause).ciph = s.ciph ∧
    (recordStrike s cause).sp = s.sp ∧ (recordStrike s cause).lmx = s.lmx ∧ (recordStrike s cause).gaf = s.gaf ∧
    (recordStrike s cause).lc = s.lc ∧ (recordStrike s cause).jtag = s.jtag ∧ (recordStrike s cause).err = s.err ∧
    (recordStrike s cause).draws = s.draws ∧ (recordStrike s cause).freeCtr = s.freeCtr ∧ (recordStrike s cause).pending = s.pending :=
  ⟨rfl, rfl, rfl, rfl, rfl, rfl, rfl, rfl, rfl, rfl, rfl, rfl, rfl, rfl, rfl, rfl, rfl, rfl⟩

@[simp] theorem logMem_frame (s : State) (w : Who) (n stack : Nat) (st : Status) (level : Nat) :
    (logMem s w n stack st level).power = s.power ∧ (logMem s w n stack st level).bridges = s.bridges ∧
    (logMem s w n stack st level).rig = s.rig ∧ (logMem s w n stack st level).array = s.array ∧
    (logMem s w n stack st level).fabric = s.fabric ∧ (logMem s w n stack st level).col = s.col ∧
    (logMem s w n stack st level).dly = s.dly ∧ (logMem s w n stack st level).mem = s.mem ∧ (logMem s w n stack st level).ciph = s.ciph ∧
    (logMem s w n stack st level).keys = s.keys ∧ (logMem s w n stack st level).sp = s.sp ∧ (logMem s w n stack st level).lmx = s.lmx ∧
    (logMem s w n stack st level).gaf = s.gaf ∧ (logMem s w n stack st level).lc = s.lc ∧ (logMem s w n stack st level).jtag = s.jtag ∧
    (logMem s w n stack st level).draws = s.draws ∧ (logMem s w n stack st level).freeCtr = s.freeCtr ∧
    (logMem s w n stack st level).pending = s.pending :=
  ⟨rfl, rfl, rfl, rfl, rfl, rfl, rfl, rfl, rfl, rfl, rfl, rfl, rfl, rfl, rfl, rfl, rfl, rfl⟩

@[simp] theorem linkLog_frame (s : State) (n : Nat) (watchdog : Bool) :
    (linkLog s n watchdog).power = s.power ∧ (linkLog s n watchdog).bridges = s.bridges ∧ (linkLog s n watchdog).rig = s.rig ∧
    (linkLog s n watchdog).array = s.array ∧ (linkLog s n watchdog).fabric = s.fabric ∧ (linkLog s n watchdog).col = s.col ∧
    (linkLog s n watchdog).dly = s.dly ∧ (linkLog s n watchdog).mem = s.mem ∧ (linkLog s n watchdog).ciph = s.ciph ∧
    (linkLog s n watchdog).keys = s.keys ∧ (linkLog s n watchdog).sp = s.sp ∧ (linkLog s n watchdog).lmx = s.lmx ∧
    (linkLog s n watchdog).gaf = s.gaf ∧ (linkLog s n watchdog).lc = s.lc ∧ (linkLog s n watchdog).jtag = s.jtag ∧
    (linkLog s n watchdog).draws = s.draws ∧ (linkLog s n watchdog).freeCtr = s.freeCtr ∧ (linkLog s n watchdog).pending = s.pending :=
  ⟨rfl, rfl, rfl, rfl, rfl, rfl, rfl, rfl, rfl, rfl, rfl, rfl, rfl, rfl, rfl, rfl, rfl, rfl⟩

@[simp] theorem capIslands_frame (s : State) :
    (capIslands s).power = s.power ∧ (capIslands s).bridges = s.bridges ∧ (capIslands s).rig = s.rig ∧ (capIslands s).array = s.array ∧
    (capIslands s).fabric = s.fabric ∧ (capIslands s).col = s.col ∧ (capIslands s).dly = s.dly ∧ (capIslands s).mem = s.mem ∧
    (capIslands s).ciph = s.ciph ∧ (capIslands s).keys = s.keys ∧ (capIslands s).sp = s.sp ∧ (capIslands s).lmx = s.lmx ∧
    (capIslands s).lc = s.lc ∧ (capIslands s).jtag = s.jtag ∧ (capIslands s).err = s.err ∧ (capIslands s).draws = s.draws ∧
    (capIslands s).freeCtr = s.freeCtr ∧ (capIslands s).pending = s.pending :=
  ⟨rfl, rfl, rfl, rfl, rfl, rfl, rfl, rfl, rfl, rfl, rfl, rfl, rfl, rfl, rfl, rfl, rfl, rfl⟩

@[simp] theorem refuseMsg_frame (s : State) (p : Port) :
    (refuseMsg s p).power = s.power ∧ (refuseMsg s p).bridges = s.bridges ∧ (refuseMsg s p).rig = s.rig ∧
    (refuseMsg s p).array = s.array ∧ (refuseMsg s p).fabric = s.fabric ∧ (refuseMsg s p).col = s.col ∧ (refuseMsg s p).dly = s.dly ∧
    (refuseMsg s p).mem = s.mem ∧ (refuseMsg s p).ciph = s.ciph ∧ (refuseMsg s p).keys = s.keys ∧ (refuseMsg s p).sp = s.sp ∧
    (refuseMsg s p).gaf = s.gaf ∧ (refuseMsg s p).lc = s.lc ∧ (refuseMsg s p).jtag = s.jtag ∧ (refuseMsg s p).err = s.err ∧
    (refuseMsg s p).draws = s.draws ∧ (refuseMsg s p).freeCtr = s.freeCtr ∧ (refuseMsg s p).pending = s.pending :=
  ⟨rfl, rfl, rfl, rfl, rfl, rfl, rfl, rfl, rfl, rfl, rfl, rfl, rfl, rfl, rfl, rfl, rfl, rfl⟩

/-! ### Reading back what was set -/

@[simp] theorem portOf_portSet (x : Lemlix) (p : Port) (v : PortSt) : portOf (portSet x p v) p = v := by cases p <;> rfl

@[simp] theorem portOf_portSet_other (x : Lemlix) (p : Port) (v : PortSt) :
    portOf (portSet x p v) (otherPort p) = portOf x (otherPort p) := by cases p <;> rfl

@[simp] theorem portSet_lock (x : Lemlix) (p : Port) (v : PortSt) : (portSet x p v).lock = x.lock := by cases p <;> rfl

@[simp] theorem portSet_held (x : Lemlix) (p : Port) (v : PortSt) : (portSet x p v).held = x.held := by cases p <;> rfl

@[simp] theorem portOf_portMod (s : State) (p : Port) (f : PortSt → PortSt) :
    portOf (portMod s p f).lmx p = f (portOf s.lmx p) := by simp [portMod]

@[simp] theorem portOf_portMod_other (s : State) (p : Port) (f : PortSt → PortSt) :
    portOf (portMod s p f).lmx (otherPort p) = portOf s.lmx (otherPort p) := by simp [portMod]

@[simp] theorem lockedOut_portSet (x : Lemlix) (p q : Port) (v : PortSt) : lockedOut (portSet x p v) q = lockedOut x q := by
  simp [lockedOut]

@[simp] theorem modAt_length {α : Type} (l : List α) (i : Nat) (f : α → α) : (modAt l i f).length = l.length := by simp [modAt]

theorem modAt_getElem? {α : Type} (l : List α) (i j : Nat) (f : α → α) :
    (modAt l i f)[j]? = if i = j then l[j]?.map f else l[j]? := by
  by_cases h : i = j <;> simp [modAt, h]

@[simp] theorem spaceMod_slots_length (x : Spaces) (n : Nat) (f : Space → Space) : (spaceMod x n f).slots.length = x.slots.length := by
  simp [spaceMod]

@[simp] theorem spaceMod_frame (x : Spaces) (n : Nat) (f : Space → Space) :
    (spaceMod x n f).cmds = x.cmds ∧ (spaceMod x n f).fences = x.fences ∧ (spaceMod x n f).objs = x.objs ∧
    (spaceMod x n f).queues = x.queues ∧ (spaceMod x n f).ctxs = x.ctxs ∧ (spaceMod x n f).notices = x.notices :=
  ⟨rfl, rfl, rfl, rfl, rfl, rfl⟩

@[simp] theorem cmdMod_frame (x : Spaces) (cid : Nat) (f : Cmd → Cmd) :
    (cmdMod x cid f).slots = x.slots ∧ (cmdMod x cid f).fences = x.fences ∧ (cmdMod x cid f).objs = x.objs ∧
    (cmdMod x cid f).queues = x.queues ∧ (cmdMod x cid f).ctxs = x.ctxs ∧ (cmdMod x cid f).notices = x.notices :=
  ⟨rfl, rfl, rfl, rfl, rfl, rfl⟩

@[simp] theorem ctxMod_frame (x : Spaces) (id : Nat) (f : Ctx → Ctx) :
    (ctxMod x id f).slots = x.slots ∧ (ctxMod x id f).fences = x.fences ∧ (ctxMod x id f).objs = x.objs ∧
    (ctxMod x id f).queues = x.queues ∧ (ctxMod x id f).cmds = x.cmds ∧ (ctxMod x id f).notices = x.notices :=
  ⟨rfl, rfl, rfl, rfl, rfl, rfl⟩

/-- The command with a number after a change that keeps its number. -/
theorem find_cmd_map (l : List Cmd) (cid : Nat) (f : Cmd → Cmd) (hf : ∀ c, (f c).id = c.id) :
    (l.map fun c => if c.id = cid then f c else c).find? (fun c => c.id == cid) = (l.find? fun c => c.id == cid).map f := by
  induction l with
  | nil => rfl
  | cons c r ih =>
    by_cases h : c.id = cid
    · simp [h, hf]
    · simp [h, ih]

/-- The command with a number after cmdMod. -/
theorem cmdGet_cmdMod (s : State) (cid : Nat) (f : Cmd → Cmd) (hf : ∀ c, (f c).id = c.id) :
    cmdGet { s with sp := cmdMod s.sp cid f } cid = (cmdGet s cid).map f := find_cmd_map s.sp.cmds cid f hf

/-- cmdEnd finishes a live command with the result, and leaves one that has ended. -/
theorem cmdGet_cmdEnd (s : State) (cid : Nat) (r : Result) (c : Cmd) (h : cmdGet s cid = some c) (hl : cmdLive c = true) :
    cmdGet (cmdEnd s cid r) cid = some { c with phase := .finished r } := by
  unfold cmdEnd
  rw [cmdGet_cmdMod s cid _ (by intro c; split <;> rfl), h]
  simp only [Option.map_some]
  unfold cmdLive at hl
  split at hl <;> simp_all


end Sys2Proof.Machine
end

