-- ==== Sys2Proof/Laws/Memory.lean ====
section
/-! SUPPORT. The laws of main memory: every memory operation keeps its canonical form, and a read changes no byte. -/

namespace Sys2Proof.Machine

/-- The three parts of the canonical form. -/
theorem Memory.wf_iff (m : Mem) : Memory.wf m = true ↔ smWf 0 m.cells = true ∧ smWf (0, 0) m.faults = true ∧ smWf 0 m.counters = true := by
  simp [Memory.wf, and_assoc]

/-- Reset memory is canonical. -/
theorem Memory.wf_reset : Memory.wf State.reset.mem = true := rfl

/-- Memories with equal maps are canonical together. -/
theorem Memory.wf_of_eq {m m' : Mem} (h : Memory.wf m = true) (hc : m'.cells = m.cells) (hf : m'.faults = m.faults)
    (hk : m'.counters = m.counters) : Memory.wf m' = true := by
  simp only [Memory.wf, hc, hf, hk]; exact h

/-- What a read can do to memory: it changes no byte, and keeps the canonical form. -/
structure MemKept (m m' : Mem) : Prop where
  cells : m'.cells = m.cells
  wf : Memory.wf m = true → Memory.wf m' = true

theorem MemKept.refl (m : Mem) : MemKept m m := ⟨rfl, id⟩

theorem MemKept.trans {a b c : Mem} (h : MemKept a b) (k : MemKept b c) : MemKept a c := ⟨k.cells.trans h.cells, k.wf ∘ h.wf⟩

/-- Memories with equal maps. -/
theorem MemKept.of_eq {m m' : Mem} (hc : m'.cells = m.cells) (hf : m'.faults = m.faults) (hk : m'.counters = m.counters) : MemKept m m' :=
  ⟨hc, fun h => Memory.wf_of_eq h hc hf hk⟩

theorem setFault_kept (m : Mem) (line : Nat) (f : BitVec 512 × BitVec 64) : MemKept m (setFault m line f) := by
  refine ⟨rfl, fun h => ?_⟩
  rw [Memory.wf_iff] at h ⊢
  exact ⟨h.1, smWf_smPut _ _ _ _ h.2.1, h.2.2⟩

theorem setFault_wf (m : Mem) (line : Nat) (f : BitVec 512 × BitVec 64) (h : Memory.wf m = true) : Memory.wf (setFault m line f) = true :=
  (setFault_kept m line f).wf h

theorem linePut_kept (m : Mem) (line : Nat) (f : BitVec 512 × BitVec 64) : MemKept m (linePut m line f) := by
  unfold linePut
  dsimp only
  split
  · exact (setFault_kept m line _).trans (MemKept.of_eq rfl rfl rfl)
  · exact setFault_kept m line _

theorem errMod_kept (m : Mem) (stack : Nat) (f : StackErr → StackErr) : MemKept m (errMod m stack f) := MemKept.of_eq rfl rfl rfl

/-- Raising a counter. -/
theorem counterUp_kept (m : Mem) (k : Nat) : MemKept m (counterUp m k) := by
  refine ⟨rfl, fun h => ?_⟩
  rw [Memory.wf_iff] at h ⊢
  exact ⟨h.1, h.2.1, smWf_smPut _ _ _ _ h.2.2⟩

theorem cacheMod_kept (m : Mem) (n stack : Nat) (mac : Bool) (level index : Nat) (f : CacheLine → CacheLine) :
    MemKept m (cacheMod m n stack mac level index f) := MemKept.of_eq rfl rfl rfl

theorem cacheDrop_kept (m : Mem) (x : CacheLine) : MemKept m (cacheDrop m x) := MemKept.of_eq rfl rfl rfl

/-! ### Reads -/

theorem tagCount_kept (m : Mem) (stack : Nat) (l : LineSt) : MemKept m (tagCount m stack l) := by
  unfold tagCount
  split
  · exact errMod_kept _ _ _
  · exact MemKept.refl m

theorem lineRead_kept (quiet : Bool) (m : Mem) (line : Nat) : MemKept m (lineRead quiet m line).1 := by
  have h0 := tagCount_kept m (stackOf (line * 64)) (lineClass (faultOf m line))
  have h1 := fun f => h0.trans (errMod_kept (tagCount m (stackOf (line * 64)) (lineClass (faultOf m line))) (stackOf (line * 64)) f)
  unfold lineRead
  dsimp only
  generalize tagCount m (stackOf (line * 64)) (lineClass (faultOf m line)) = m1 at h0 h1 ⊢
  split
  · exact h1 _
  · split
    · exact h0
    · split
      · split
        · exact (h1 _).trans (setFault_kept _ _ _)
        · exact (h1 _).trans (linePut_kept _ _ _)
      · exact h0

theorem readLines_kept (quiet : Bool) : ∀ (k line : Nat) (m : Mem), MemKept m (readLines quiet k line m).1
  | 0, _, m => MemKept.refl m
  | k + 1, line, m => (lineRead_kept quiet m line).trans (readLines_kept quiet k (line + 1) _)

theorem failNode_kept (s : State) (n : Nat) (f : FailedNode) : MemKept s.mem (failNode s n f).mem := by
  unfold failNode
  dsimp only
  split <;> exact MemKept.of_eq rfl rfl rfl

theorem lineBack_kept (s : State) (x : CacheLine) (m : Mem) : MemKept m (lineBack s x m) := by
  unfold lineBack
  dsimp only
  split
  · exact linePut_kept _ _ _
  · exact ((counterUp_kept m _).trans (cacheMod_kept _ _ _ _ _ _ _)).trans (linePut_kept _ _ _)

theorem evict_kept (s : State) (x : CacheLine) : MemKept s.mem (evict s x).mem := by
  unfold evict
  dsimp only
  split
  · exact (cacheDrop_kept _ _).trans (lineBack_kept _ _ _)
  · exact cacheDrop_kept _ _

theorem cacheRoom_kept (s : State) (n stack frame : Nat) : MemKept s.mem (cacheRoom s n stack frame).mem := by
  unfold cacheRoom
  dsimp only
  split
  · split
    · exact evict_kept s _
    · exact MemKept.refl _
  · exact MemKept.refl _

theorem cachePut_kept (m : Mem) (x : CacheLine) : MemKept m (cachePut m x) := by
  unfold cachePut
  split
  · exact MemKept.refl _
  · exact MemKept.of_eq rfl rfl rfl

theorem cacheAdd_kept (s : State) (frame : Nat) (x : CacheLine) : MemKept s.mem (cacheAdd s frame x).mem :=
  (cacheRoom_kept s _ _ _).trans (cachePut_kept _ x)

@[simp] theorem cacheCount_mem (s : State) (stack : Nat) (hit : Bool) : (cacheCount s stack hit).mem = s.mem := rfl

theorem fetchNode_kept (quiet : Bool) (s : State) (n stack frame : Nat) (mac : Bool) (level index : Nat) :
    MemKept s.mem (fetchNode quiet s n stack frame mac level index).1.mem := by
  have h := lineRead_kept quiet s.mem (nodeLine (rangeCfg s n) stack mac level index)
  unfold fetchNode
  dsimp only
  split
  · exact h.trans (failNode_kept (cacheCount { s with mem := (lineRead quiet s.mem (nodeLine (rangeCfg s n) stack mac level index)).1 }
      stack false) n _)
  · exact h.trans (cacheAdd_kept (cacheCount { s with mem := (lineRead quiet s.mem (nodeLine (rangeCfg s n) stack mac level index)).1 }
      stack false) _ _)

theorem ensureNode_kept (quiet : Bool) (n stack i : Nat) : ∀ (k level : Nat) (s : State),
    MemKept s.mem (ensureNode quiet n stack i k level s).1.mem
  | 0, _, s => MemKept.refl _
  | k + 1, level, s => by
    have h := ensureNode_kept quiet n stack i k (level + 1) s
    simp only [ensureNode]
    split
    · exact MemKept.refl _
    · split
      · exact h.trans (fetchNode_kept _ _ _ _ _ _ _ _)
      · exact h

theorem fetchPath_kept (quiet : Bool) (s : State) (n a : Nat) : MemKept s.mem (fetchPath quiet s n a).1.mem := by
  have h := ensureNode_kept quiet n (stackOf a) (frameIndex (rangeCfg s n) a) (levelsOf (rangeCfg s n)).length 0 s
  unfold fetchPath
  dsimp only
  split
  · exact MemKept.refl _
  · split
    · split
      · exact h
      · split <;> exact h.trans (fetchNode_kept _ _ _ _ _ _ _ _)
    · exact h

theorem readUnit_kept (quiet : Bool) (s : State) (n a : Nat) : MemKept s.mem (readUnit quiet s n a).st.mem := by
  have h1 := readLines_kept quiet (unitBytes (rangeCfg s n) / 64) (a / 64) s.mem
  have h2 := h1.trans (fetchPath_kept quiet { s with mem := (readLines quiet (unitBytes (rangeCfg s n) / 64) (a / 64) s.mem).1 } n a)
  unfold readUnit
  dsimp only
  repeat' split
  all_goals first | exact h1 | exact h2

@[simp] theorem failRange_mem (s : State) (w : Who) (n a : Nat) (st : Status) (level : Nat) :
    (failRange s w n a st level).mem = s.mem := by
  unfold failRange
  dsimp only
  split <;> rfl

/-- Meeting words with errors in the merge buffer changes no byte. -/
theorem mergeMeet_kept (m : Mem) (key off n : Nat) : MemKept m (mergeMeet m key off n).1 := by
  unfold mergeMeet
  split
  · exact MemKept.refl m
  · exact MemKept.of_eq rfl rfl rfl

theorem readInUnit_kept (s : State) (w : Who) (n a size : Nat) : MemKept s.mem (readInUnit s w n a size).st.mem := by
  have h0 := mergeMeet_kept s.mem (a / unitBytes (rangeCfg s n) * unitBytes (rangeCfg s n) / 64)
    (a - a / unitBytes (rangeCfg s n) * unitBytes (rangeCfg s n)) size
  have h1 := readUnit_kept false s n (a / unitBytes (rangeCfg s n) * unitBytes (rangeCfg s n))
  unfold readInUnit
  dsimp only
  repeat' split
  all_goals first | exact h0 | exact h1 | (rw [failRange_mem]; first | exact h0 | exact h1)

theorem readPhysF_kept (w : Who) : ∀ (fuel a size : Nat) (s : State), MemKept s.mem (readPhysF w fuel a size s).st.mem
  | 0, _, _, _ => MemKept.refl _
  | fuel + 1, a, size, s => by
    simp only [readPhysF]
    split
    · exact MemKept.refl _
    · split
      · next n _ _ =>
        have h1 := readInUnit_kept s w n a (min size (unitBytes (rangeCfg s n) - a % unitBytes (rangeCfg s n)))
        split
        · exact h1.trans (readPhysF_kept w fuel _ _ _)
        · exact h1
      · exact MemKept.refl _
      · exact MemKept.refl _

theorem readRuns_kept (w : Who) : ∀ (l : List (Nat × Nat)) (s : State), MemKept s.mem (readRuns w l s).st.mem
  | [], _ => MemKept.refl _
  | (a, n) :: rs, s => by
    simp only [readRuns]
    split
    · exact (readPhysF_kept w _ a n s).trans (readRuns_kept w rs _)
    · exact readPhysF_kept w _ a n s

/-- A read keeps the canonical form. -/
theorem readPhys_wf (s : State) (w : Who) (a size : Nat) (h : Memory.wf s.mem = true) : Memory.wf (readPhys s w a size).st.mem = true :=
  (readPhysF_kept w _ a size s).wf h

/-- A read changes no byte. -/
theorem readPhys_cells (s : State) (w : Who) (a size : Nat) : (readPhys s w a size).st.mem.cells = s.mem.cells :=
  (readPhysF_kept w _ a size s).cells

/-- A read of space memory keeps the canonical form. -/
theorem readSpace_wf (s : State) (c : Cmd) (v n : Nat) (h : Memory.wf s.mem = true) : Memory.wf (readSpace s c v n).st.mem = true :=
  (readRuns_kept _ _ s).wf h

/-- A read of space memory changes no byte. -/
theorem readSpace_cells (s : State) (c : Cmd) (v n : Nat) : (readSpace s c v n).st.mem.cells = s.mem.cells := (readRuns_kept _ _ s).cells

/-! ### Writes -/

theorem linesWritten_kept : ∀ (k line : Nat) (m : Mem), MemKept m (linesWritten k line m)
  | 0, _, m => MemKept.refl m
  | k + 1, line, m => (linePut_kept m line _).trans (linesWritten_kept k (line + 1) _)

theorem frameCounted_kept (m : Mem) (c : RangeCfg) (n a : Nat) : MemKept m (frameCounted m c n a) :=
  ((counterUp_kept m _).trans (cacheMod_kept _ _ _ _ _ _ _)).trans (cacheMod_kept _ _ _ _ _ _ _)

/-- Enciphering a unit and writing it to HBM changes no plaintext byte. -/
theorem storeUnit_kept (s : State) (n a : Nat) : MemKept s.mem (storeUnit s n a).mem := by
  have h1 : MemKept s.mem (linesWritten (unitBytes (rangeCfg s n) / 64) (a / 64)
      { s.mem with merge := s.mem.merge.filter fun e => e.key != a / 64 }) :=
    MemKept.trans (b := { s.mem with merge := s.mem.merge.filter fun e => e.key != a / 64 }) (MemKept.of_eq rfl rfl rfl)
      (linesWritten_kept _ _ _)
  unfold storeUnit
  dsimp only
  split
  · exact h1.trans (frameCounted_kept _ _ _ _)
  · exact h1

theorem poison_kept (m : Mem) (key : Nat) (x : BufErr) : MemKept m (poison m key x) := by
  unfold poison
  generalize x.filter bufLost = l
  induction l generalizing m with
  | nil => exact MemKept.refl m
  | cons w ws ih => exact (setFault_kept m _ _).trans (ih _)

theorem mergeStore_kept (s : State) (e : MergeEntry) : MemKept s.mem (mergeStore s e).mem := by
  unfold mergeStore
  split
  · exact (storeUnit_kept _ _ _).trans (poison_kept _ _ _)
  · exact MemKept.of_eq rfl rfl rfl

theorem mergeOldest_kept (s : State) (stack : Nat) : MemKept s.mem (mergeOldest s stack).mem := by
  unfold mergeOldest
  split
  · exact MemKept.refl _
  · exact mergeStore_kept _ _

theorem mergeEnter_kept (s : State) (stack key lines : Nat) : MemKept s.mem (mergeEnter s stack key lines).mem := MemKept.of_eq rfl rfl rfl

theorem mergeHold_kept : ∀ (fuel : Nat) (s : State) (stack key lines : Nat), MemKept s.mem (mergeHold fuel s stack key lines).mem
  | 0, s, stack, key, lines => mergeEnter_kept s stack key lines
  | fuel + 1, s, stack, key, lines => by
    simp only [mergeHold]
    split
    · exact (mergeOldest_kept s stack).trans (mergeHold_kept fuel _ stack key lines)
    · exact mergeEnter_kept s stack key lines

theorem putPlain_wf (s : State) (a : Nat) (bs : List Byte) (h : Memory.wf s.mem = true) : Memory.wf (putPlain s a bs).mem = true := by
  rw [Memory.wf_iff] at h ⊢
  exact ⟨smWf_putBytes _ _ _ h.1, h.2⟩

@[simp] theorem markMirror_mem (s : State) (n a size : Nat) : (markMirror s n a size).mem = s.mem := by
  unfold markMirror
  split <;> rfl

theorem mergeBytes_wf (s : State) (n a : Nat) (bs : List Byte) (h : Memory.wf s.mem = true) : Memory.wf (mergeBytes s n a bs).mem = true := by
  unfold mergeBytes
  rw [markMirror_mem]
  exact Memory.wf_of_eq (m := (putPlain s a bs).mem) (putPlain_wf s a bs h) rfl rfl rfl

theorem writeInUnit_wf (via : Bool) (s : State) (w : Who) (n a : Nat) (bs : List Byte) (h : Memory.wf s.mem = true) :
    Memory.wf (writeInUnit via s w n a bs).1.mem = true := by
  have hp : Memory.wf (if (rangeCfg s n).mode = 2 then
      fetchPath false s n (a / unitBytes (rangeCfg s n) * unitBytes (rangeCfg s n)) else (s, none, 0)).1.mem = true := by
    split
    · exact (fetchPath_kept _ _ _ _).wf h
    · exact h
  unfold writeInUnit
  dsimp only
  split
  · exact mergeBytes_wf _ _ _ _ h
  · generalize (if (rangeCfg s n).mode = 2 then
      fetchPath false s n (a / unitBytes (rangeCfg s n) * unitBytes (rangeCfg s n)) else (s, none, 0)) = p at hp ⊢
    split
    · rw [failRange_mem]; exact hp
    · split
      · rw [failRange_mem]; exact hp
      · split
        · rw [markMirror_mem]; exact (storeUnit_kept _ _ _).wf (putPlain_wf _ _ _ hp)
        · have hr := (readUnit_kept false _ n (a / unitBytes (rangeCfg s n) * unitBytes (rangeCfg s n))).wf hp
          split
          · refine mergeBytes_wf _ _ _ _ ((mergeHold_kept _ _ _ _ _).wf ?_)
            split
            · exact hr
            · exact putPlain_wf _ _ _ hr
          · rw [failRange_mem]; exact hr

theorem writePhysF_wf (via : Bool) (w : Who) : ∀ (fuel a : Nat) (bs : List Byte) (s : State), Memory.wf s.mem = true →
    Memory.wf (writePhysF via w fuel a bs s).st.mem = true
  | 0, _, _, _, h => h
  | fuel + 1, a, [], s, h => h
  | fuel + 1, a, b :: bs, s, h => by
    simp only [writePhysF]
    split
    · next n _ _ =>
      have h1 := writeInUnit_wf via s w n a
        ((b :: bs).take (min (bs.length + 1) (unitBytes (rangeCfg s n) - a % unitBytes (rangeCfg s n)))) h
      split
      · exact writePhysF_wf via w fuel _ _ _ h1
      · exact h1
    · exact h
    · exact h

/-- A write keeps the canonical form. -/
theorem writePhys_wf (s : State) (w : Who) (a : Nat) (bs : List Byte) (h : Memory.wf s.mem = true) :
    Memory.wf (writePhys s w a bs).st.mem = true := writePhysF_wf false w _ a bs s h

/-- A contribution keeps the canonical form. -/
theorem mergePhys_wf (s : State) (w : Who) (a : Nat) (bs : List Byte) (h : Memory.wf s.mem = true) :
    Memory.wf (mergePhys s w a bs).st.mem = true := writePhysF_wf true w _ a bs s h

theorem writeRuns_wf (via : Bool) (w : Who) : ∀ (l : List (Nat × Nat)) (bs : List Byte) (s : State), Memory.wf s.mem = true →
    Memory.wf (writeRuns via w l bs s).st.mem = true
  | [], _, _, h => h
  | (a, n) :: rs, bs, s, h => by
    simp only [writeRuns]
    split
    · exact writeRuns_wf via w rs _ _ (writePhysF_wf via w _ a _ s h)
    · exact writePhysF_wf via w _ a _ s h

/-- A write of space memory keeps the canonical form. -/
theorem writeSpace_wf (s : State) (c : Cmd) (v : Nat) (bs : List Byte) (h : Memory.wf s.mem = true) :
    Memory.wf (writeSpace s c v bs).st.mem = true := writeRuns_wf false _ _ bs s h

/-- A fill keeps the canonical form. -/
theorem fillRange_wf (s : State) (n : Nat) (slot : Option Nat) (walk : Nat) (h : Memory.wf s.mem = true) :
    Memory.wf (fillRange s n slot walk).mem = true := by
  rw [Memory.wf_iff] at h
  show Memory.wf (wipeMem s.mem n (rangeCfg s n)) = true
  rw [Memory.wf_iff]
  exact ⟨smWf_smDrop _ _ _ _ h.1, smWf_smDrop _ _ _ _ h.2.1, smWf_smDrop _ _ _ _ (smWf_smDrop _ _ _ _ h.2.2)⟩

/-- A filled range reads zero. -/
theorem fillRange_zero (s : State) (n : Nat) (slot : Option Nat) (walk a : Nat) (h1 : (rangeCfg s n).base ≤ a)
    (h2 : a < (rangeCfg s n).base + (rangeCfg s n).size) : smGet 0 (fillRange s n slot walk).mem.cells a = 0 := by
  show smGet 0 (smDrop s.mem.cells _ _) a = 0
  rw [smGet_smDrop, if_pos ⟨h1, h2⟩]

end Sys2Proof.Machine
end

