-- ==== Sys2Proof/Laws/Ops.lean ====
section
/-! SUPPORT. What each shared operation can do, said once: sending on a port, replies, management requests, space requests, the settling
of ended transactions, and the step. -/

namespace Sys2Proof.Machine

/-! ### Sending on a port (R401, R405) -/

/-- Pumping changes only the sequence numbers, the credit and the count of frames sent, and never lowers a sequence number. -/
theorem pumpPort_frame : ∀ (fuel : Nat) (v : PortSt),
    ∃ k, k ≤ fuel ∧ pumpPort fuel v = { v with
      credit := (pumpPort fuel v).credit, txSeq := v.txSeq + k, txHigh := (pumpPort fuel v).txHigh, cntTx := (pumpPort fuel v).cntTx }
  | 0, v => ⟨0, Nat.le_refl 0, rfl⟩
  | fuel + 1, v => by
    unfold pumpPort
    split
    · exact ⟨0, Nat.zero_le _, rfl⟩
    · next f _ =>
      split
      · obtain ⟨k, hk, h⟩ := pumpPort_frame fuel
          { v with
            credit := v.credit - frameBytes f, txSeq := v.txSeq + 1, txHigh := max v.txHigh (v.txSeq + 1)
            cntTx := (v.cntTx + 1) % 2 ^ 64 }
        refine ⟨k + 1, by omega, ?_⟩
        rw [h]
        simp only [Nat.add_assoc, Nat.add_comm 1 k]
      · exact ⟨0, Nat.zero_le _, rfl⟩

@[simp] theorem pumpPort_session (n : Nat) (v : PortSt) : (pumpPort n v).session = v.session := by
  obtain ⟨_, _, h⟩ := pumpPort_frame n v; rw [h]

@[simp] theorem pumpPort_unacked (n : Nat) (v : PortSt) : (pumpPort n v).unacked = v.unacked := by
  obtain ⟨_, _, h⟩ := pumpPort_frame n v; rw [h]

@[simp] theorem pumpPort_rxSeq (n : Nat) (v : PortSt) : (pumpPort n v).rxSeq = v.rxSeq := by
  obtain ⟨_, _, h⟩ := pumpPort_frame n v; rw [h]

@[simp] theorem pumpPort_setup (n : Nat) (v : PortSt) : (pumpPort n v).setup = v.setup := by
  obtain ⟨_, _, h⟩ := pumpPort_frame n v; rw [h]

@[simp] theorem pumpPort_ring (n : Nat) (v : PortSt) : (pumpPort n v).ring = v.ring := by
  obtain ⟨_, _, h⟩ := pumpPort_frame n v; rw [h]

theorem pumpPort_txSeq_le (n : Nat) (v : PortSt) : v.txSeq ≤ (pumpPort n v).txSeq ∧ (pumpPort n v).txSeq ≤ v.txSeq + n := by
  obtain ⟨k, hk, h⟩ := pumpPort_frame n v
  rw [h]
  exact ⟨Nat.le_add_right _ _, by simp only; omega⟩

/-- Sending queues the frames of the message behind those that wait, and keeps the session. -/
theorem portSend_live (v : PortSt) (m : Msg) (h : v.session = 2) :
    (portSend v m).unacked = v.unacked ++ framesOf (nextFrameSeq v) m ∧ (portSend v m).session = 2 ∧ (portSend v m).rxSeq = v.rxSeq ∧
      (portSend v m).setup = v.setup := by
  simp [portSend, h]

@[simp] theorem portSend_session (v : PortSt) (m : Msg) : (portSend v m).session = v.session := by
  unfold portSend
  split <;> simp

@[simp] theorem portSend_ring (v : PortSt) (m : Msg) : (portSend v m).ring = v.ring := by
  unfold portSend
  split <;> simp

@[simp] theorem portOf_lmxSend (x : Lemlix) (p : Port) (m : Msg) : portOf (lmxSend x p m) p = portSend (portOf x p) m := by simp [lmxSend]

@[simp] theorem portOf_lmxSend_other (x : Lemlix) (p : Port) (m : Msg) :
    portOf (lmxSend x p m) (otherPort p) = portOf x (otherPort p) := by simp [lmxSend]

@[simp] theorem lmxSend_lock (x : Lemlix) (p : Port) (m : Msg) : (lmxSend x p m).lock = x.lock := by simp [lmxSend]

/-- A message whose frames can be numbered is sent, and nothing else changes (R402). -/
theorem sendMsg_fits (s : State) (p : Port) (m : Msg) (h : portFits (portOf s.lmx p) m = true) :
    sendMsg s p m = { s with lmx := lmxSend s.lmx p m } := by simp [sendMsg, h]

/-- What sending on the ports and ending their sessions leaves as it was: everything but the port module, the key slots and the notices
held. -/
structure SentFrame (s t : State) : Prop where
  power : t.power = s.power
  bridges : t.bridges = s.bridges
  rig : t.rig = s.rig
  array : t.array = s.array
  fabric : t.fabric = s.fabric
  col : t.col = s.col
  dly : t.dly = s.dly
  mem : t.mem = s.mem
  ciph : t.ciph = s.ciph
  gaf : t.gaf = s.gaf
  lc : t.lc = s.lc
  jtag : t.jtag = s.jtag
  err : t.err = s.err
  draws : t.draws = s.draws
  freeCtr : t.freeCtr = s.freeCtr
  pending : t.pending = s.pending
  sp : t.sp = { s.sp with notices := t.sp.notices }
  keys : t.keys = { s.keys with slots := t.keys.slots }

theorem SentFrame.refl (s : State) : SentFrame s s := ⟨rfl, rfl, rfl, rfl, rfl, rfl, rfl, rfl, rfl, rfl, rfl, rfl, rfl, rfl, rfl, rfl, rfl, rfl⟩

theorem SentFrame.trans {a b c : State} (h : SentFrame a b) (k : SentFrame b c) : SentFrame a c :=
  ⟨k.power.trans h.power, k.bridges.trans h.bridges, k.rig.trans h.rig, k.array.trans h.array,
    k.fabric.trans h.fabric, k.col.trans h.col, k.dly.trans h.dly, k.mem.trans h.mem,
    k.ciph.trans h.ciph, k.gaf.trans h.gaf, k.lc.trans h.lc, k.jtag.trans h.jtag,
    k.err.trans h.err, k.draws.trans h.draws, k.freeCtr.trans h.freeCtr, k.pending.trans h.pending,
    by rw [k.sp, h.sp], by rw [k.keys, h.keys]⟩

theorem moveMsg_frame (s : State) (p : Port) (m : Msg) : SentFrame s (moveMsg s p m) := by
  unfold moveMsg noticeHold
  repeat' split
  all_goals exact ⟨rfl, rfl, rfl, rfl, rfl, rfl, rfl, rfl, rfl, rfl, rfl, rfl, rfl, rfl, rfl, rfl, rfl, rfl⟩

/-- Ending a session changes its key slots, the port module and the notices held only. -/
theorem endSess_frame (s : State) (p : Port) : SentFrame s (endSess s p) := by
  have key : ∀ (l : List Msg) (t : State), SentFrame s t → SentFrame s (l.foldl (fun u m => moveMsg u p m) t) := by
    intro l
    induction l with
    | nil => exact fun t h => h
    | cons m l ih => exact fun t h => ih _ (h.trans (moveMsg_frame t p m))
  unfold endSess
  dsimp only
  split
  · exact SentFrame.refl s
  · exact key _ _ ⟨rfl, rfl, rfl, rfl, rfl, rfl, rfl, rfl, rfl, rfl, rfl, rfl, rfl, rfl, rfl, rfl, rfl, rfl⟩

/-- Sending changes the port module only, and what a session leaves that it ends. -/
theorem sendMsg_frame (s : State) (p : Port) (m : Msg) : SentFrame s (sendMsg s p m) := by
  unfold sendMsg
  split
  · exact (endSess_frame s p).trans (moveMsg_frame _ p m)
  · exact ⟨rfl, rfl, rfl, rfl, rfl, rfl, rfl, rfl, rfl, rfl, rfl, rfl, rfl, rfl, rfl, rfl, rfl, rfl⟩

/-- A reply changes the port module only, and what a session leaves that it ends. -/
theorem mgmtReply_frame (s : State) (p : Port) (tag : Nat) (st : Status) (data : List Byte) : SentFrame s (mgmtReply s p tag st data) :=
  sendMsg_frame s p _

/-- A reply whose frames can be numbered. -/
theorem mgmtReply_fits (s : State) (p : Port) (tag : Nat) (st : Status) (data : List Byte)
    (h : portFits (portOf s.lmx p) (.reply 0 tag st data) = true) :
    mgmtReply s p tag st data = { s with lmx := lmxSend s.lmx p (.reply 0 tag st data) } := sendMsg_fits s p _ h

/-! ### Management requests (R400, R404, R412) -/

theorem heard_iff (x : Lemlix) (p : Port) : heard x p = true ↔ (portOf x p).ring = 2 ∧ (portOf x p).session = 2 := by simp [heard]

theorem heard_session (x : Lemlix) (p : Port) (h : heard x p = true) : (portOf x p).session = 2 := ((heard_iff x p).1 h).2

theorem mgmtTurn_dead (p : Port) (row : Instr) (f : State → State) (s : State) (h : heard s.lmx p = false) :
    mgmtTurn p row f s = s := by simp [mgmtTurn, h]

theorem mgmtTurn_now (p : Port) (row : Instr) (f : State → State) (s : State) (h : mayRead s p) : mgmtTurn p row f s = f s := by
  simp [mgmtTurn, h.1, h.2]

theorem mgmtTurn_waits (p : Port) (row : Instr) (f : State → State) (s : State) (h : heard s.lmx p = true) (hw : mgmtHeld s = true) :
    mgmtTurn p row f s = holdDraw s row := by simp [mgmtTurn, h, hw]

theorem mgmtRun_live (p : Port) (tag : Nat) (f : State → Answer) (s : State) (h : heard s.lmx p = true) :
    mgmtRun p tag f s = mgmtReply (f s).st p tag (f s).status (f s).data := by simp [mgmtRun, heard_session _ _ h]

theorem mgmtRead_now (p : Port) (tag : Nat) (row : Instr) (f : State → Answer) (s : State) (h : mayRead s p) :
    mgmtRead p tag row f s = mgmtReply (f s).st p tag (f s).status (f s).data := by
  rw [mgmtRead, mgmtTurn_now _ _ _ _ h, mgmtRun_live _ _ _ _ h.1]

theorem mgmtWrite_may (p : Port) (tag : Nat) (row : Instr) (f : State → Answer) (s : State) (h : mayWrite s p) :
    mgmtWrite p tag row f s = mgmtReply (f s).st p tag (f s).status (f s).data := by
  rw [mgmtWrite, mgmtTurn_now _ _ _ _ h.1, mgmtAgain, mgmtRun_live _ _ _ _ h.1.1]
  simp [lockTest, h.2]

theorem mgmtWrite_locked (p : Port) (tag : Nat) (row : Instr) (f : State → Answer) (s : State) (h : mayRead s p)
    (hl : lockedOut s.lmx p = true) : mgmtWrite p tag row f s = mgmtReply s p tag .busy [] := by
  rw [mgmtWrite, mgmtTurn_now _ _ _ _ h, mgmtAgain, mgmtRun_live _ _ _ _ h.1]
  simp [lockTest, hl]

theorem mgmtDraw_ready (p : Port) (tag : Nat) (row : Instr) (f : State → Answer) (s : State) (h : drawsWait s = false) :
    mgmtDraw p tag row f s = mgmtWrite p tag row f s := by
  simp [mgmtDraw, h]

theorem mgmtDraw_waits (p : Port) (tag : Nat) (row : Instr) (f : State → Answer) (s : State) (h : drawsWait s = true)
    (hm : mayWrite s p) : mgmtDraw p tag row f s = holdDraw s row := by
  simp [mgmtDraw, h, hm.1.1, hm.2]

theorem lockedOut_held (x : Lemlix) (p : Port) (h : x.lock = portNum (otherPort p) + 1) : lockedOut x p = true := by
  cases p <;> simp_all [lockedOut, portNum, otherPort]

/-! ### Space requests (R371, R407) -/

/-- A good message is taken. -/
theorem partyTake_good (q : Nat) (m : MsgAuth) (f : State → State) (s : State) (h : messageGood s q m) :
    partyTake q m f s = f (messageTaken s q m) := by
  obtain ⟨hb, ho, hc, hl⟩ := h
  unfold partyTake
  dsimp only
  rw [if_neg (by rw [hb, ho, hc]; simp), if_neg (by omega)]

/-- A message that is not good is discarded, unless it ends its channel. -/
theorem partyTake_stale (q : Nat) (m : MsgAuth) (f : State → State) (s : State)
    (h : (s.keys.channels.getD q {}).bound = false ∨ m.ok = false ∨
      ((s.keys.channels.getD q {}).lastIn.any fun n => decide (m.counter ≤ n)) = true) : partyTake q m f s = s := by
  rcases h with h | h | h <;> simp only [partyTake, h] <;> simp

/-- A request that is taken, whatever its authority. -/
theorem spaceRequest_taken (ch : Chan) (r : SpaceReq) (s : State) (h : heard s.lmx ch.port = true)
    (hb : (spaceGet s ch.slot).bound = true) (ha : authorized s ch) : spaceRequest ch r s = requestTaken ch r (broughtBy s ch) := by
  rcases ch with ⟨port, slot, tag, auth⟩
  simp only [spaceRequest, h, hb, Bool.not_true, Bool.false_eq_true, if_false]
  cases hp : spaceParty s slot <;> cases auth
  · simp [broughtBy]
  · simp [authorized, hp] at ha
  · simp [authorized, hp] at ha
  · next q e =>
    rcases e with ⟨p, m⟩
    simp only [authorized, hp] at ha
    obtain ⟨rfl, ha⟩ := ha
    simp [broughtBy, partyTake_good _ _ _ _ ha]

theorem spaceGet_broughtBy (s : State) (ch : Chan) (n : Nat) : spaceGet (broughtBy s ch) n = spaceGet s n := by
  unfold broughtBy
  split <;> rfl

theorem waitingRow_broughtBy (s : State) (ch c : Chan) (r : SpaceReq) : waitingRow (broughtBy s ch) c r = waitingRow s c r := by
  unfold broughtBy
  split <;> rfl

theorem spaceRequest_may (ch : Chan) (r : SpaceReq) (s : State) (h : mayAsk s ch) (hw : waitingRow s ch r = none) :
    spaceRequest ch r s = spaceReply (spaceDo ch.slot r (asked s ch)).st ch (spaceDo ch.slot r (asked s ch)).status
      (spaceDo ch.slot r (asked s ch)).data := by
  rw [spaceRequest_taken _ _ _ h.1 h.2.1 h.2.2.2]
  simp only [requestTaken, spaceGet_broughtBy, h.2.2.1, waitingRow_broughtBy, hw, requestDo]
  simp

theorem spaceRequest_waits (ch : Chan) (r : SpaceReq) (s : State) (row : Instr) (h : mayAsk s ch) (hw : waitingRow s ch r = some row) :
    spaceRequest ch r s = holdAccess (asked s ch) row := by
  rw [spaceRequest_taken _ _ _ h.1 h.2.1 h.2.2.2]
  simp only [requestTaken, spaceGet_broughtBy, h.2.2.1, waitingRow_broughtBy, hw]
  simp

theorem spaceRequest_unbound (ch : Chan) (r : SpaceReq) (s : State) (h : heard s.lmx ch.port = true)
    (hb : (spaceGet s ch.slot).bound = false) : spaceRequest ch r s = refuseMsg s ch.port := by
  simp [spaceRequest, h, hb]

theorem spaceRequest_dying (ch : Chan) (r : SpaceReq) (s : State) (h : heard s.lmx ch.port = true)
    (hb : (spaceGet s ch.slot).bound = true) (ha : authorized s ch) (hs : (spaceGet s ch.slot).state ≠ 1) :
    spaceRequest ch r s = spaceReply (broughtBy s ch) ch .busy [] := by
  rw [spaceRequest_taken _ _ _ h hb ha]
  simp [requestTaken, spaceGet_broughtBy, hs]

/-! ### Ended transactions -/

/-- A twin that has met nothing broken has nothing to mend. -/
theorem twinRecover_idle (s : State) (h : s.dly.role = .twin → brokenRanges s = []) : twinRecover s = s := by
  unfold twinRecover
  split
  · next hc =>
    simp only [Bool.and_eq_true, decide_eq_true_eq, Bool.not_eq_true'] at hc
    simp [h hc.1.1] at hc
  · rfl

/-- With no transaction ended and nothing to mend, settling leaves the state. -/
theorem settle_idle (s : State) (h : s.fabric.ended = []) (hb : s.dly.role = .twin → brokenRanges s = []) : settle s = s := by
  have key : ∀ n, settleF n s = s := by
    intro n
    cases n with
    | zero => rfl
    | succ n => simp [settleF, h]
  rw [settle, key]
  exact twinRecover_idle s hb

/-! ### Commands -/

/-- A ready command is the one with the number, admitted, of the opcode. -/
theorem cmdReady_some (s : State) (cid opcode : Nat) (c : Cmd) (h : cmdReady s cid opcode = some c) :
    cmdGet s cid = some c ∧ c.phase = .admitted ∧ c.opcode = opcode ∧ cmdStalled s c = false := by
  unfold cmdReady at h
  split at h
  · next d hd =>
    split at h
    · next hc =>
      cases h
      simp only [Bool.and_eq_true, decide_eq_true_eq, Bool.not_eq_true'] at hc
      exact ⟨hd, hc.1.1, hc.1.2, hc.2⟩
    · cases h
  · cases h

/-- An admitted command is live. -/
theorem cmdLive_admitted (c : Cmd) (h : c.phase = .admitted) : cmdLive c = true := by simp [cmdLive, h]

/-! ### The step -/

theorem step_empty (s : State) (h : s.pending = []) : step s = .next (tick s) := by simp [step, h]

/-- Nothing proceeds on its own while no transition is programmed and no flash image is written. -/
theorem tick_idle (s : State) (hg : s.lc.going = none) (hf : s.lc.flashing = none) : tick s = s := by simp [tick, hg, hf]

theorem step_cons (s : State) (c : Instr) (rest : List Instr) (h : s.pending = c :: rest) :
    step s = exec c (s.withQueue rest) := by simp [step, h]

end Sys2Proof.Machine
end

