-- ==== Sys2Proof/Tests/Slice0.lean ====
section
/-! SUPPORT. Small checks: a state and operands that meet the hypotheses of each statement, one ill-formed command for each check of
WellFormed, and values worked out from the spec's tables. -/

namespace Sys2Proof.Tests

set_option linter.unusedVariables false
set_option Elab.async false

open Sys2Proof Sys2Proof.Machine

/-- Whether a value succeeded with the one given, and whether it failed with it. -/
def okIs {ε α : Type} [DecidableEq α] (x : Except ε α) (a : α) : Bool :=
  match x with
  | .ok b => decide (b = a)
  | .error _ => false
def errIs {ε α : Type} [DecidableEq ε] (x : Except ε α) (a : ε) : Bool :=
  match x with
  | .error b => decide (b = a)
  | .ok _ => false

/-- A value that succeeded is the one given. -/
theorem okOf {ε α : Type} [DecidableEq α] {x : Except ε α} {a : α} (h : okIs x a = true) : x = .ok a := by
  cases x with
  | ok b => simpa [okIs] using h
  | error e => cases h

/-- A value that failed did so with the result given. -/
theorem errOf {ε α : Type} [DecidableEq ε] {x : Except ε α} {a : ε} (h : errIs x a = true) : x = .error a := by
  cases x with
  | error b => simpa [errIs] using h
  | ok e => cases h

/-- Whether a value succeeded, and its value, or else the one given. -/
def isOk {ε α : Type} (x : Except ε α) : Bool :=
  match x with
  | .ok _ => true
  | .error _ => false
def okVal {ε α : Type} (x : Except ε α) (d : α) : α :=
  match x with
  | .ok b => b
  | .error _ => d
theorem okGet {ε α : Type} {x : Except ε α} {d : α} (h : isOk x = true) : x = .ok (okVal x d) := by
  cases x with
  | ok b => rfl
  | error e => cases h

/-- The same beside a state. -/
theorem okPair {σ ε α : Type} [DecidableEq α] {x : σ × Except ε α} {u : σ} {a : α} (hu : x.1 = u) (h : okIs x.2 a = true) :
    x = (u, .ok a) :=
  Prod.ext hu (okOf h)

/-- The same with a flag behind. -/
theorem okTriple {σ ε α : Type} [DecidableEq α] {x : σ × Except ε α × Bool} {u : σ} {a : α} {f : Bool} (hu : x.1 = u)
    (h : okIs x.2.1 a = true) (hf : x.2.2 = f) : x = (u, .ok a, f) :=
  Prod.ext hu (Prod.ext (okOf h) hf)

/-- A restarted module's hardware: every step of Table 01-7 goes well. -/
def goodBoot : Boot := ⟨⟨5#6, true, false⟩, true, true, 0, 0, 0xFF, true, true, true, 0⟩

/-- Power of a module at READY with its sideband live. -/
def upPower : Power := { stbyValid := true, mainValid := true, tapLive := true, ready := true, bypAOpen := true, bypBOpen := true
                         i3cLive := true, i3cAddr := some 16, bootStep := 11, serial := 7 }

/-- A port with a live session. -/
def upPort : PortSt := { ring := 2, session := 2, sessionId := 5, rxSeq := 3, credit := 100000, position := 1, members := 1 }

/-- A module at READY: port A with a live session, port B's ring locked, the system space live and bound. -/
def up : State := { State.reset with
  power := upPower
  lmx := { a := upPort, b := { ring := 2 } }
  keys := { entropyOk := true, vaultOk := true }
  sp := { slots := { state := 1, bound := true, party := 255, ctlOffset := 256, qCtx := 4096, qQueue := 1024, qObj := 100000, qFence := 1000, qL2 := 100000 }
                   :: List.replicate 15 {} } }

/-- An admitted command of the system space with a body. -/
def cmdOf (op : Nat) (body : List (Nat × Nat)) : Cmd :=
  { id := 1, space := 0, queue := 5, index := 0, ctx := 1, opcode := op, serial := false, quiet := false, notify := false, energy := 3
    v1 := false, waitFence := 0, waitValue := 0, sigFence := 0, sigValue := 0, body := some (BitVec.ofNat 288 (packBits body))
    phase := .admitted, point := 3, door := 1, noFence := false }

/-- A resident context that enables nothing. -/
def ctx1 : Ctx := { id := 1, space := 0, resident := true, rushes := ⟨false, 0, 0, 0⟩ }

/-- The queue that holds the command. -/
def queue5 : Queue := { idx := 5, space := 0, ring := 0, entries := 256, comp := 0, version := 2, producer := 1, doneIdx := 0, doneAhead := []
                        grip := 5 }

/-- A module with one command, one context, one queue, and an object of four pages at space address 2 MiB in a range of 1 GiB. -/
def runs1 (c : Cmd) : State := { up with
  rig := { active := { ranges := { base := 0, size := 2 ^ 30, mode := 1, mirrored := true } :: List.replicate 31 {} } }
  sp := { up.sp with cmds := [c], ctxs := [ctx1], queues := [queue5], doors := 1, nextCid := 2
                     objs := [{ idx := 0, space := 0, owner := .space, range := 0, vpn := 1, pages := [⟨1, 3, 4⟩], struck := none }] } }

/-- No SRAM word in error. -/
def noErr : SramErr := noSramErr

/-- A format word's fields for F32. -/
def fF32 : FmtWord := { fmt := .f32, scale := .none, block := 1, share := 0, ovfNan := false }

/-- Sensors that report nothing. -/
def meas : Measured := ⟨0, 0, 0, 0, 0, 0, 0, 0, 0, 0, [], [], [], [], 0, [], [], [], [], []⟩

/-- A module whose object holds the header of a reduction target of one element. -/
def redS (c : Cmd) : State := { runs1 c with mem := { cells := putBytes [] (3 * 2 ^ 21) (redHeaderBytes ⟨false, 0, 1⟩) } }

/-- RED_ADD of one element from memory. -/
def redAddCmd : Cmd := cmdOf 0x15 [(1, 1), (0, 13), (2 ^ 21 + 4096, 48), (0, 2), (1, 13), (1, 9), (1, 20), (2 ^ 21, 48)]

/-- RED_READ of that element. -/
def redReadCmd : Cmd := cmdOf 0x16 [(2 ^ 21, 48), (2 ^ 21 + 8192, 48)]

/-- What the read of its header leaves. -/
def redReadU : State := (redHeader (redS redReadCmd) redReadCmd (2 ^ 21) [(2 ^ 21 + 8192, 4)]).1

/-- A module that runs one command, whose bytes at space address 2 MiB are given. -/
def memS (c : Cmd) (bs : List Byte) : State := { runs1 c with mem := { cells := putBytes [] (3 * 2 ^ 21) bs } }

/-- A parameter descriptor for rule 0 with one weight. -/
def pdBytes : List Byte :=
  natLe 4 pdMagic ++ [0, 0, 0, 0] ++ natLe 4 1 ++ natLe 4 0 ++ natLe 8 (2 ^ 21 + 4096) ++ natLe 8 (2 ^ 21 + 8192) ++ natLe 8 (2 ^ 21 + 12288)

/-- UPDATE of that parameter from F32 gradients. -/
def updCmd : Cmd := cmdOf 0x40 [(0, 26), ((2 ^ 21) / 64, 42), (1, 32), (0, 32), (0, 2), ((2 ^ 21 + 16384) / 64, 42)]

/-- Its body. -/
def updB : UpdBody := updBody (cmdBody updCmd)

/-- The module that runs it. -/
def updS : State := memS updCmd pdBytes

/-- What the read of the descriptor leaves. -/
def updP : MemRead := checkRead updS updCmd (2 ^ 21) 128

/-- UPDATE of that parameter under a norm cell. -/
def updNCmd : Cmd := cmdOf 0x40
  [(0, 26), ((2 ^ 21) / 64, 42), (1, 32), (0, 32), (0, 2), ((2 ^ 21 + 16384) / 64, 42), (0, 67), (1, 2), ((2 ^ 21 + 128) / 64, 42)]

/-- The module that runs it: the cell is global and saturated, of that step. -/
def updN (fail : Bool) : State :=
  let s := memS updNCmd (pdBytes ++ List.replicate 88 0 ++ normCellBytes ⟨true, true, false, true, 1, 0⟩)
  { s with rig := { active := { s.rig.active with nonfiniteFail := fail } } }

/-- A peer that answers in 840-mode. -/
def peer3 : PeerInfo := { answers := true, nt420 := false, maxMode := 3, okMode := 3, peerId := 9, laneFault := 0 }

/-- A trained link. -/
def upLink : Link := { state := 2, mode := 3, peerId := 9 }

/-- A clean codeword in order. -/
def cw0 : Codeword := { fec := .clean, seq := 0, ack := 4095, nak := false, credit := 0, sop := 0, idle := 0xFFFF, lens := [] }

/-- A module on the fabric as module 5: links 0 and 1 up, every route over them, a fabric key held. -/
def fab : State := { up with
  rig := { active := { moduleId := 5, routes := List.replicate 12 { primary := 3 } } }
  keys := { up.keys with fabCur := some 1 }
  fabric := { links := upLink :: upLink :: List.replicate 46 {} } }

/-- The same under strict slicing, in the window of a slot that no space has. -/
def shut (s : State) : State :=
  { s with rig := { s.rig with active := { s.rig.active with strict := true } }, gaf := { s.gaf with window := 15 } }

/-- A message to this module from module 9. -/
def msgIn : Packet := { blankPacket with type := 0xD, dst := 5, src := 9, bytes := 32, flitsM1 := 2, data := List.replicate 32 1 }

/-- A response to this module from module 9. -/
def ackIn : Packet := { blankPacket with type := 14, dst := 5, src := 9, txn := 2, echo := 4 }

/-- An outstanding transaction of command 1 over link 0. -/
def trk : Tracker := { txn := 2, seq := 4, dst := 9, link := 0, acked := false, reserved := false, space := 0, owner := .command 1 }

/-- A packet ready to leave. -/
def outP : Outgoing := { pkt := { blankPacket with dst := 9 }, txn := none, space := 0 }

/-- That module with requesters 2 and 3 of link 0 as given. -/
def fabQ (a b : Requester) (cls : BitVec 32) (send : Option (Nat × Outgoing × Nat)) : State := { fab with
  rig := { active := { fab.rig.active with classes := cls :: List.replicate 47 0 } }
  fabric := { links := { upLink with reqs := {} :: {} :: a :: b :: List.replicate 10 {}, sending := send } :: List.replicate 47 {} } }

/-- A group descriptor of one member, module 5. -/
def groupBytes : List Byte :=
  natLe 4 groupMagic ++ [0, 0, 1, 0] ++ List.replicate 8 0 ++ natLe 8 (2 ^ 21 + 65536) ++ natLe 8 65536 ++ List.replicate 32 0 ++ natLe 2 5

/-- COLLECTIVE over that group, of one F32 element. -/
def colCmd : Cmd := cmdOf 0x50
  [(0, 31), (1, 32), (0, 32), (2 ^ 21 / 64, 42), ((2 ^ 21 + 4096) / 64, 42), ((2 ^ 21 + 8192) / 64, 42)]

/-- Module 5 on the fabric with one command and that descriptor. -/
def colS (c : Cmd) : State := { memS c groupBytes with
  rig := { active := { fab.rig.active with ranges := { base := 0, size := 2 ^ 30, mode := 1, mirrored := true } :: List.replicate 31 {} } }
  keys := fab.keys, fabric := fab.fabric }

/-- The slot the check gives that command. -/
def colX : ColSlot := { colMake (colS colCmd) colCmd (bodyOfCol colCmd) (groupRead (colS colCmd) colCmd (2 ^ 21)).group ⟨true, 0, false, 0, 0⟩ with
  prog := [.readOut 0 1] }

/-- What its check gives, and each state of its run after it: joined, source read, loaded, output written, finished. -/
def colK : ColCheck := colCheck (colS colCmd) colCmd
def colD : Cmd := { colCmd with phase := .waiting }
def colS1 : State :=
  { colK.st with sp := cmdMod colK.st.sp 1 fun q => { q with phase := .waiting }
                 col := { colK.st.col with slots := colK.st.col.slots ++ [colX]
                                           highWater := max colK.st.col.highWater (colK.st.col.slots.length + 1) } }
def colR : MemRead := readTake colS1 colCmd colX.src (srcBytes colX)
def colY : ColSlot := loadPlain colX (srcNums colX colR.bytes)
def colZ : State := colMod colR.st 1 (fun _ => colY)
def colP : State × Option Result :=
  colPut colZ colD (colY.dst + (0 - dstBase colY colY.rank) * slotOutW colY) ((readOuts colY 0 1).flatMap fun q => natLe (slotOutW colY) q.code)
def colU : State :=
  colMod colP.1 1 (fun q => { q with prog := q.prog.drop 1, tally := colTally q.tally 0 ((readOuts colY 0 1).map (·.ev)) })

/-- A join of a group of modules 5 and 9. -/
def joinJ : Join := { digest := 7, seq := 0, op := 0, count := 1, srcFmt := 0, outFmt := 0, ofr := false, eW := 0, comp := 0, compK := 0
                      compVfmt := 0, root := 0, party := 0, system := true, landRange := 0, landOff := 65536, dstRange := 0, dstOff := 0 }

/-- A slot that waits for module 9. -/
def slotX : ColSlot := { cid := 1, space := 0, mine := joinJ, ranks := [5, 9], rank := 0, norm := false, group := 2 ^ 21, src := 2 ^ 21 + 4096
                         dst := 2 ^ 21 + 8192, comp := 0, resid := 0, upd := 0, landing := 2 ^ 21 + 65536, stride := 64, area := 0
                         prog := [.send 1 0 1 0, .add 1 0 1, .readOut 0 1] }

/-- A module whose collective command waits in that slot. -/
def slotS : State := { colS { colCmd with phase := .waiting } with col := { slots := [slotX] } }

/-- The module with a collective of the same group under way. -/
def colS9 : State := { colS colCmd with col := { slots := [{ slotX with cid := 9 }] } }

/-- Module 5 of a pair with module 9: link 0 is the twin link, range 0 is mirrored. -/
def twRig : Rig := { moduleId := 5, routes := List.replicate 12 { primary := 3 }, twinNamed := true, twinId := 9, twinLinks := 1
                     ranges := { base := 0, size := 2 ^ 20, mode := 1, mirrored := true } :: List.replicate 31 {} }

/-- That module with its Dailies state. -/
def tw (d : Dailies) : State := { fab with rig := { active := twRig }, dly := d }

/-- The same with no space. -/
def twNo (d : Dailies) : State := { tw d with sp := {} }

/-- The same with one command and the group descriptor of one member. -/
def twC (c : Cmd) (d : Dailies) : State := { colS c with
  rig := { active := { twRig with ranges := { base := 0, size := 2 ^ 30, mode := 1, mirrored := true } :: List.replicate 31 {} } }, dly := d }

/-- A quote's bytes over a nonce, in state FIELD. -/
def quoteOver (w : W256) : List Byte :=
  (natLe 4 0x544F5551 ++ [1, 4] ++ List.replicate 26 0) ++ w256Bytes w ++ List.replicate 17600 0

/-- A pair offer that passes every check of module 5. -/
def goodOffer (d : Dailies) : PairOffer :=
  { moduleId := 9, primary := d.role == .twin, namesUs := true, rigDigest := 0, compactDigest := shakeW (tw d).rig.active.compactBytes
    rangesDigest := entriesDigest (tw d), committed := 3, epoch := 1, quote := quoteOver (Config.draw d.nonceDraw), sigOk := true }

/-- A little-endian value read back from its bytes. -/
theorem leNat_natLe (n v : Nat) : leNat (natLe n v) = v % 256 ^ n := by
  induction n generalizing v with
  | zero => simp [natLe, leNat, Nat.mod_one]
  | succ n ih =>
    have h := ih (v / 256)
    simp only [natLe, leNat, h, BitVec.toNat_ofNat]
    have e : v % 256 ^ (n + 1) = v % 256 + 256 * (v / 256 % 256 ^ n) := by rw [Nat.pow_succ', Nat.mod_mul]
    omega

theorem natLe_length (n v : Nat) : (natLe n v).length = n := by
  induction n generalizing v with
  | zero => rfl
  | succ n ih => simp [natLe, ih]

/-- The offer's quote is over the nonce this module drew. -/
theorem goodOffer_fits (d : Dailies) : quoteFits (tw d) (goodOffer d) = true := by
  have hl : (w256Bytes (Config.draw d.nonceDraw)).length = 32 := natLe_length _ _
  have hd : ((quoteOver (Config.draw d.nonceDraw)).drop 32).take 32 = w256Bytes (Config.draw d.nonceDraw) := by
    unfold quoteOver
    rw [List.append_assoc, List.drop_left' (by decide), List.take_left' hl]
  have hb : byteField (quoteOver (Config.draw d.nonceDraw)) 32 32 = (Config.draw d.nonceDraw).toNat := by
    unfold byteField
    rw [hd]
    unfold w256Bytes
    rw [leNat_natLe]
    exact Nat.mod_eq_of_lt (Config.draw d.nonceDraw).isLt
  have ha (k : Nat) (l : List Byte) : ((natLe 4 0x544F5551 ++ [1, 4] ++ List.replicate 26 0) ++ l).drop 0 =
      natLe 4 0x544F5551 ++ ([1, 4] ++ (List.replicate 26 0 ++ l)) := by simp [List.append_assoc]
  have h0 : byteField (quoteOver (Config.draw d.nonceDraw)) 0 4 = 0x544F5551 := by
    unfold byteField quoteOver
    rw [List.append_assoc, ha 0, List.take_left' (by decide)]
    decide
  have h5 : byteField (quoteOver (Config.draw d.nonceDraw)) 5 1 = 4 := by
    unfold byteField quoteOver
    rw [List.append_assoc, ← List.drop_zero (l := (_ ++ _ : List Byte)), ha 0, ← List.append_assoc, ← List.append_assoc,
      List.drop_append_of_le_length (by decide)]
    rfl
  have hq : (quoteOver (Config.draw d.nonceDraw)).length = 17664 := by
    unfold quoteOver
    rw [List.length_append, List.length_append, hl, List.length_replicate]
    decide
  have hn : (tw d).dly.nonceDraw = d.nonceDraw := rfl
  simp only [quoteFits, goodOffer, hb, h0, h5, hq, hn]
  simp

/-- No reason of Table 10-14 is against it. -/
theorem goodOffer_none (d : Dailies)
    (h : (decide ((goodOffer d).primary = (d.role == .primary)) ||
      ((assocGet d.epochs 9).any (1 < ·)) || (d.role == .twin && (pairRanges (tw d)).any fun n => (rangeKey (tw d) n).keyless)) = false) :
    offerReason (tw d) (goodOffer d) = none := by
  have hf := goodOffer_fits d
  simp only [Bool.or_eq_false_iff, decide_eq_false_iff_not] at h
  obtain ⟨⟨h1, h6⟩, h7⟩ := h
  have e1 : ¬ (goodOffer d).primary = ((tw d).dly.role == .primary) := h1
  have e2 : (goodOffer d).compactDigest = shakeW (tw d).rig.active.compactBytes := rfl
  have e3 : (goodOffer d).rangesDigest = entriesDigest (tw d) := rfl
  have e5 : (goodOffer d).namesUs = true := rfl
  have e6 : (assocGet (tw d).dly.epochs (goodOffer d).moduleId).any ((goodOffer d).epoch < ·) = false := h6
  have e7 : ((tw d).dly.role == .twin && (pairRanges (tw d)).any fun n => (rangeKey (tw d) n).keyless) = false := h7
  unfold offerReason
  rw [if_neg e1, if_neg (by simp [e2]), if_neg (by simp [e3]), if_neg (by simp [hf]), if_neg (by simp [e5]), if_neg (by simp [e6])]
  rw [if_neg (by simpa using e7)]

/-- CUT to generation 1 at step 4. -/
def cutCmd : Cmd := cmdOf 0x60 [(2 ^ 21 / 64, 42), (0, 32), (1, 48), (4, 32)]

/-- The same, waiting. -/
def cutW : Cmd := { cutCmd with phase := .waiting }

/-- A cut that has reached a stage, of modules 5 and 9. -/
def cutK (stage : Nat) (vs : List (Nat × Bool)) : CutRun :=
  { cid := 1, gen := 1, step := 4, group := 2 ^ 21, seq := 0, members := [5, 9], stage := stage, isSealed := false, verdicts := vs }

/-- A primary under protection. -/
def prim : Dailies := { role := .primary, state := .guarded, partner := 9 }

/-- A twin under protection. -/
def twn : Dailies := { role := .twin, state := .guarded, partner := 9 }

/-- Module 5 whose range 0 of 64 bytes party 0 owns, with that party's wrap key. -/
def prt (d : Dailies) : State := { tw d with
  rig := { active := { twRig with ranges := { base := 0, size := 64, mode := 1, ownerSet := 1, mirrored := true } :: List.replicate 31 {} } }
  keys := { fab.keys with slots := List.replicate 32 {} ++ { valid := true, use := .wrap, ownerSet := 1, key := 8 } :: List.replicate 223 {} } }

/-- A chunk that fails its first check: no part of it is signed. -/
def chunkC : Chunk := { chunk := [1], slate := [], pub := [], idCert := [], interCert := [] }

/-- SCRUB of two lines. -/
def scrubCmd : Cmd := cmdOf 0x70 [(2 ^ 21, 48), (1, 36), (2 ^ 21 + 4096, 48)]

/-- What the lines of that scrub come to. -/
def scrubR : State × ScrubSum := scrubAll (whoOf scrubCmd) (scrubUnits (runs1 scrubCmd) 0 (2 ^ 21) 2) (runs1 scrubCmd, {})

/-- Key slot k of a state's 256 given, the others empty. -/
def slotAt (k : Nat) (x : KeySlot) : List KeySlot := (List.replicate 256 ({} : KeySlot)).set k x

/-- A module at READY with keys given. -/
def upK (k : Keys) : State := { up with keys := { k with entropyOk := true, vaultOk := true } }

/-- A module at READY whose range 0 is live with its key source. -/
def upR (src : Nat) (k : RangeKey) : State := { up with
  rig := { active := { ranges := { base := 0, size := 2 ^ 20, mode := 1, keySource := src } :: List.replicate 31 {} } }
  ciph := { ranges := k :: List.replicate 32 {} } }

/-- A channel of party 0 that is bound. -/
def chB : List Channel := { bound := true, ek := some [1], dk := [2], quote := [3], nextOut := 2 } :: List.replicate 7 {}

/-- A module whose party 0 has a bound channel, with key slots given. -/
def upC (slots : List KeySlot) : State := { upK { slots := slots, channels := chB } with
  rig := { active := { parties := [⟨0, [7]⟩], spaces := { creatable := true, party := 0 } :: List.replicate 15 {}
                       ranges := { base := 0, size := 2 ^ 30, mode := 1 } :: List.replicate 31 {} } }
  sp := { slots := { state := 1, party := 0 } :: List.replicate 15 {} } }

/-- A key message naming slot 40. -/
def msgK : KeyMsg := { op := 3, use := 5, slot := 40, target := 0, kind := 0, material := 9, generation := 0, reservedZero := true }

/-- A module with no space, at a life-cycle state. -/
def lcS (copies : BitVec 16) (x : LifeCycle) : State := { up with sp := {}, lc := { x with copies := [copies, copies, copies] } }

/-- A challenge of a purpose. -/
def chal (p : Nat) : Challenge := ⟨p, 3, [1], some 5⟩

/-- Two spaces' worth of state: slot 0 live, with one context, queue, object, and fence. -/
def spS : State := { runs1 (cmdOf 2 []) with
  sp := { (runs1 (cmdOf 2 [])).sp with
    cmds := [], queues := [{ queue5 with producer := 2, doneIdx := 1 }]
    fences := [⟨3, 0, .space, 7, false, List.replicate 64 0, false, [9], 0⟩] } }

/-- Slot 0's channel on port A. -/
def chA : Chan := ⟨.a, 0, 6, none⟩

/-- Fence 3 as it stands there. -/
def fen3 : Fence := ⟨3, 0, .space, 7, false, List.replicate 64 0, false, [9], 0⟩

/-- The same module with that fence changed. -/
def spF (f : Fence) : State := { spS with sp := { spS.sp with fences := [f] } }

/-- Slot 0 alone may be created. -/
def one0 : List SpaceCfg := { creatable := true } :: List.replicate 15 {}

/-- A buffer word beyond correction. -/
def badBuf : BufErr := [(0, 3, 0)]

/-- A pair that may be absent, of which the second part is known. -/
theorem optPair {σ : Type} {x : Option (σ × Bool)} {d : σ × Bool} {b : Bool} (h : (x.map (·.2)) = some b) :
    x = some ((x.getD d).1, b) := by
  cases x with
  | none => cases h
  | some p => cases p; simp_all

/-- A cut at its last stage with a CHECK armed. -/
def cutL : CutRun := { cutK 4 [] with check := true }

/-- Concrete states and operands that meet the hypotheses of StepRunsFrontCommand, clause by clause. -/
theorem wit_StepRunsFrontCommand :
    (∃ (s : State) (c : Instr) (rest : List Instr),
      s.pending = c :: rest) ∧
    (∃ (s : State),
      s.pending = [] ∧ s.lc.going = none ∧ s.lc.flashing = none) ∧
    (∃ (s : State) (g : LcRun),
      s.pending = [] ∧ s.lc.going = some g) ∧
    (∃ (s : State) (w : FlashRun),
      s.pending = [] ∧ s.lc.going = none ∧ s.lc.flashing = some w) :=
  ⟨⟨{ up with pending := [.pinClamp, .idcode] }, .pinClamp, [.idcode], by decide +kernel⟩,
    ⟨up, by decide +kernel⟩,
    ⟨{ up with lc := { going := some { target := 5, slot := some 3, boot := goodBoot } } }, { target := 5, slot := some 3, boot := goodBoot }, by decide +kernel⟩,
    ⟨{ up with lc := { flashing := some ⟨.a, 1, [1], [2]⟩ } }, ⟨.a, 1, [1], [2]⟩, by decide +kernel⟩⟩

/-- Concrete states and operands that meet the hypotheses of StandbyDomainRows, clause by clause. -/
theorem wit_StandbyDomainRows :
    (∃ (s : State) (st : Straps),
      s.power.stbyValid = false) ∧
    (∃ (s : State),
      s.power.stbyValid = true) ∧
    (∃ (s : State) (a : BitVec 7),
      s.power.i3cLive = true) :=
  ⟨⟨State.reset, ⟨5#6, true, true⟩, by decide +kernel⟩,
    ⟨up, by decide +kernel⟩,
    ⟨up, 3, by decide +kernel⟩⟩

/-- Concrete states and operands that meet the hypotheses of PowerUpReachesReady, clause by clause. -/
theorem wit_PowerUpReachesReady :
    (∃ (s : State) (b : Boot) (c : Nat),
      s.power.stbyValid = true ∧ s.power.tapLive = false ∧ s.power.resetN = true ∧ s.power.strikeN = true ∧ fuseState s c ∧ starts c ∧ bootGood b) ∧
    (∃ (s : State) (b : Boot),
      s.power.stbyValid = true ∧ s.power.tapLive = false ∧ b.railsOk = false) ∧
    (∃ (s : State) (b : Boot) (c : Nat),
      s.power.stbyValid = true ∧ s.power.tapLive = false ∧ s.power.resetN = true ∧ s.power.strikeN = true ∧ fuseState s c ∧ starts c ∧ b.railsOk = true ∧ b.entropyOk = true ∧ b.trainFail = 0 ∧ b.hbmOk ≠ 0xFF) :=
  ⟨⟨{ State.reset with power := { stbyValid := true } }, goodBoot, 4, by decide +kernel⟩,
    ⟨{ State.reset with power := { stbyValid := true } }, { goodBoot with railsOk := false }, by decide +kernel⟩,
    ⟨{ State.reset with power := { stbyValid := true } }, { goodBoot with hbmOk := 0x7F, failUnit := 71 }, 4, by decide +kernel⟩⟩

/-- Concrete states and operands that meet the hypotheses of RestartsReachReady, clause by clause. -/
theorem wit_RestartsReachReady :
    (∃ (s : State) (b : Boot) (c : Nat),
      s.power.resetN = false ∧ s.power.resetHeld = true ∧ s.power.strikeN = true ∧ fuseState s c ∧ starts c ∧ bootGood b) ∧
    (∃ (s : State) (b : Boot) (c : Nat),
      s.power.tapLive = true ∧ s.power.strikeHeld = true ∧ s.power.resetN = true ∧ fuseState s c ∧ starts c ∧ bootGood b) ∧
    (∃ (s : State) (p : Port) (tag : Nat) (b : Boot) (c : Nat),
      mayWrite s p ∧ s.power.resetN = true ∧ s.power.strikeN = true ∧ fuseState s c ∧ starts c ∧ bootGood b) ∧
    (∃ (s : State) (p : Port) (tag : Nat) (key : Word) (b : Boot),
      mayWrite s p ∧ key ≠ 0xC0DE) ∧
    (∃ (s : State) (b : Boot) (c : Nat),
      i3cUp s.power = true ∧ s.power.tapLive = true ∧ s.power.strikeN = true ∧ s.power.resetN = true ∧ s.power.resetHeld = false ∧ s.power.scrapStop = false ∧ fuseState s c ∧ starts c ∧ bootGood b) ∧
    (∃ (s : State) (b : Boot),
      i3cUp s.power = true ∧ s.power.resetN = false ∧ s.power.resetHeld = true ∧ s.power.scrapStop = false) ∧
    (∃ (s : State) (b : Boot) (key : BitVec 16),
      i3cUp s.power = true ∧ (key ≠ 0xC0DE ∨ s.power.scrapStop = true)) ∧
    (∃ (s : State) (b : Boot) (key : BitVec 16),
      i3cUp s.power = true ∧ (key ≠ 0xC0DE ∨ s.power.scrapStop = true)) :=
  ⟨⟨{ up with power := { upPower with resetN := false, resetHeld := true } }, goodBoot, 4, by decide +kernel⟩,
    ⟨{ up with power := { upPower with strikeHeld := true } }, goodBoot, 4, by decide +kernel⟩,
    ⟨up, .a, 1, goodBoot, 4, by decide +kernel⟩,
    ⟨up, .a, 1, 0xC0DF, goodBoot, by decide +kernel⟩,
    ⟨up, goodBoot, 4, by decide +kernel⟩,
    ⟨{ up with power := { upPower with resetN := false, resetHeld := true } }, goodBoot, by decide +kernel⟩,
    ⟨up, goodBoot, 0xC0DF, by decide +kernel⟩,
    ⟨{ up with power := { upPower with scrapStop := true } }, goodBoot, 0xC0DE, by decide +kernel⟩⟩

/-- Concrete states and operands that meet the hypotheses of StrikesEraseEveryKey, clause by clause. -/
theorem wit_StrikesEraseEveryKey :
    (∃ (s : State) (st : Straps),
      s.power.resetN = true ∧ s.power.tapLive = true) ∧
    (∃ (s : State),
      s.power.strikeN = true ∧ s.power.stbyValid = true ∧ s.power.tapLive = true) ∧
    (∃ (s : State) (cause : Nat),
      2 ≤ cause ∧ cause ≤ 5 ∧ s.power.stbyValid = true ∧ s.power.tapLive = true) ∧
    (∃ (s : State),
      i3cUp s.power = true ∧ s.power.tapLive = true ∧ s.power.scrapStop = false) :=
  ⟨⟨up, ⟨5#6, true, true⟩, by decide +kernel⟩,
    ⟨up, by decide +kernel⟩,
    ⟨up, 5, by decide +kernel⟩,
    ⟨up, by decide +kernel⟩⟩

/-- Concrete states and operands that meet the hypotheses of PowerDownAndStandbyLoss, clause by clause. -/
theorem wit_PowerDownAndStandbyLoss :
    (∃ (s : State),
      s.power.mainValid = true) ∧
    (∃ (s : State),
      s.power.mainValid = true) ∧
    (∃ (s : State),
      s.power.stbyValid = true) :=
  ⟨⟨up, by decide +kernel⟩,
    ⟨up, by decide +kernel⟩,
    ⟨up, by decide +kernel⟩⟩

/-- Concrete states and operands that meet the hypotheses of EmergenciesLowerIslands, clause by clause. -/
theorem wit_EmergenciesLowerIslands :
    (∃ (s : State),
      s.power.ready = true ∧ s.power.thermDrive = false ∧ s.power.stbyValid = true ∧ s.gaf.pin = false ∧ s.gaf.islands.length = 125) ∧
    (∃ (s : State),
      s.power.ready = true ∧ s.power.tapLive = true ∧ s.gaf.hot = false ∧ s.gaf.islands.length = 125) ∧
    (∃ (s : State),
      s.power.ready = true ∧ s.gaf.overdraw = false ∧ s.gaf.hot = false ∧ s.gaf.pin = false ∧ s.gaf.islands.length = 125) ∧
    (∃ (s : State) (k : Nat),
      s.power.thermDrive = true) ∧
    (∃ (s : State) (k : Nat),
      s.power.thermDrive = false ∧ s.gaf.pin = true ∧ s.gaf.hot = false ∧ s.gaf.islands.length = 125) ∧
    (∃ (s : State) (k : Nat),
      s.gaf.hot = true ∧ s.gaf.pin = false ∧ s.power.thermPinLow = false ∧ s.gaf.islands.length = 125) ∧
    (∃ (s : State) (k : Nat),
      s.gaf.hot = true ∧ s.gaf.pin = false ∧ s.power.thermPinLow = true ∧ s.power.ready = true ∧ s.gaf.islands.length = 125) ∧
    (∃ (s : State) (k : Nat),
      s.gaf.overdraw = true ∧ s.gaf.hot = false ∧ s.gaf.pin = false ∧ s.gaf.islands.length = 125) :=
  ⟨⟨up, by decide +kernel⟩,
    ⟨up, by decide +kernel⟩,
    ⟨up, by decide +kernel⟩,
    ⟨{ up with power := { upPower with thermDrive := true } }, 9, by decide +kernel⟩,
    ⟨{ up with gaf := { pin := true } }, 9, by decide +kernel⟩,
    ⟨{ up with gaf := { hot := true } }, 9, by decide +kernel⟩,
    ⟨{ up with gaf := { hot := true }, power := { upPower with thermPinLow := true, thermDrive := true } }, 9, by decide +kernel⟩,
    ⟨{ up with gaf := { overdraw := true } }, 9, by decide +kernel⟩⟩

/-- Concrete states and operands that meet the hypotheses of BudgetWritesClamp, clause by clause. -/
theorem wit_BudgetWritesClamp :
    (∃ (s : State) (v : Word),
      i3cUp s.power = true ∧ s.power.scrapStop = true) ∧
    (∃ (s : State) (v : Word),
      i3cUp s.power = true ∧ s.power.scrapStop = false) ∧
    (∃ (s : State) (p : Port) (tag : Nat) (v : Word),
      mayWrite s p) :=
  ⟨⟨{ up with power := { upPower with scrapStop := true } }, 999, by decide +kernel⟩,
    ⟨up, 999, by decide +kernel⟩,
    ⟨up, .a, 1, 2401, by decide +kernel⟩⟩

/-- Concrete states and operands that meet the hypotheses of RingsLockAndSessionsForm, clause by clause. -/
theorem wit_RingsLockAndSessionsForm :
    (∃ (s : State) (p : Port) (h : FrameHdr) (g : Bool) (l : List Word) (n : Nat),
      s.power.ready = true ∧ ((portOf s.lmx p).ring = 1 ∨ (portOf s.lmx p).ring = 2) ∧ h.type = 6 ∧ h.src = 0 ∧ h.dst = 0x0F ∧ h.length ≤ 24576 ∧ l.length < 8) ∧
    (∃ (s : State) (p : Port) (h : FrameHdr) (g : Bool) (l : List Word) (n : Nat),
      8 ≤ l.length) ∧
    (∃ (s : State) (p : Port),
      (portOf s.lmx p).ring = 2) ∧
    (∃ (s : State) (p : Port),
      (portOf s.lmx p).ring ≠ 2) ∧
    (∃ (s : State) (p : Port) (h : FrameHdr) (w : W256),
      setupHeard (portOf s.lmx p) h 3 = false) ∧
    (∃ (s : State) (p : Port) (h : FrameHdr) (w : W256),
      setupHeard (portOf s.lmx p) h 3 = true ∧ (portOf s.lmx p).session = 2) ∧
    (∃ (s : State) (p : Port) (h : FrameHdr) (w : W256),
      setupHeard (portOf s.lmx p) h 3 = true ∧ s.keys.entropyOk = true ∧ (portOf s.lmx p).session ≠ 2 ∧ s.keys.vaultOk = true ∧ s.keys.quotes.length < 64) ∧
    (∃ (s : State) (p : Port) (h : FrameHdr) (ct : List Byte) (ks : List Byte) (v : PortSt),
      v = portOf s.lmx p ∧ setupHeard v h 5 = true ∧ v.session = 1 ∧ h.session = v.sessionId ∧ ct.length = 1568 ∧ replied v = true ∧ s.sp.notices = [] ∧ s.lmx.held = [] ∧ s.keys.slots.length = 256 ∧ ks = shake256 64 (kemDecaps v.dk ct ++ w256Bytes (shakeW (v.quote ++ v.ek ++ ct)) ++ ascii "nirnus-lemlix" ++ natLe 1 (portNum p))) ∧
    (∃ (s : State) (p : Port) (h : FrameHdr) (ct : List Byte),
      (setupHeard (portOf s.lmx p) h 5 = false ∨ (portOf s.lmx p).session ≠ 1 ∨ h.session ≠ (portOf s.lmx p).sessionId ∨ ct.length ≠ 1568 ∨ replied (portOf s.lmx p) = false)) ∧
    (∃ (s : State) (p : Port) (h : FrameHdr) (ok : Bool) (i : Instr),
      (i = .close p h ok ∨ i = .sessionTimeout p) ∧ (portOf s.lmx p).session = 0) ∧
    (∃ (s : State) (p : Port) (h : FrameHdr) (i : Instr),
      ((i = .close p h true ∧ inSession s p h 7 ∧ h.seq = (portOf s.lmx p).rxSeq) ∨ (i = .sessionTimeout p ∧ (portOf s.lmx p).session ≠ 0)) ∧ s.keys.slots.length = 256) ∧
    (∃ (s : State) (p : Port) (h : FrameHdr) (i : Instr),
      ((i = .close p h true ∧ inSession s p h 7 ∧ h.seq = (portOf s.lmx p).rxSeq) ∨ (i = .sessionTimeout p ∧ (portOf s.lmx p).session ≠ 0)) ∧ s.keys.slots.length = 256) ∧
    (∃ (s : State) (p : Port) (q : Port) (tag : Nat),
      mayWrite s p) ∧
    (∃ (s : State) (p : Port) (q : Port) (tag : Nat),
      mayWrite s p) :=
  ⟨⟨up, .b, ⟨6, 15, 0, 0, 64, 0, 3, 0, 0, 5⟩, true, [1, 2, 3, 4, 5, 6, 7], 8, by decide +kernel⟩,
    ⟨up, .b, ⟨6, 15, 0, 0, 64, 0, 3, 0, 0, 5⟩, true, [1, 2, 3, 4, 5, 6, 7, 8], 9, by decide +kernel⟩,
    ⟨up, .a, by decide +kernel⟩,
    ⟨{ up with lmx := { up.lmx with b := { ring := 1 } } }, .b, by decide +kernel⟩,
    ⟨{ up with lmx := { up.lmx with b := { ring := 1 } } }, .b, ⟨3, 0, 0, 0, 64, 0, 3, 0, 0, 5⟩, 0, by decide +kernel⟩,
    ⟨up, .a, ⟨3, 1, 0, 0, 64, 0, 3, 0, 0, 5⟩, 0, by decide +kernel⟩,
    ⟨up, .b, ⟨3, 15, 0, 0, 64, 0, 3, 0, 0, 5⟩, 0, by decide +kernel⟩,
    ⟨{ up with lmx := { up.lmx with b := { ring := 2, session := 1, ek := [1], setup := [.helloReply [] [1]] } } }, .b, ⟨5, 15, 0, 0, 1568, 0, 0, 0, 0, 0⟩, List.replicate 1568 7, _, _, rfl, (by decide +kernel), (by decide +kernel), (by decide +kernel), (by decide +kernel), (by decide +kernel), (by decide +kernel), (by decide +kernel), (by decide +kernel), rfl⟩,
    ⟨up, .a, ⟨5, 1, 0, 0, 64, 0, 3, 0, 0, 5⟩, [1, 2], by decide +kernel⟩,
    ⟨up, .b, ⟨7, 0, 0, 0, 64, 0, 3, 0, 0, 5⟩, true, .close .b ⟨7, 0, 0, 0, 64, 0, 3, 0, 0, 5⟩ true, by decide +kernel⟩,
    ⟨up, .a, ⟨7, 1, 0, 0, 64, 0, 3, 0, 0, 5⟩, .close .a ⟨7, 1, 0, 0, 64, 0, 3, 0, 0, 5⟩ true, by decide +kernel⟩,
    ⟨up, .a, ⟨7, 1, 0, 0, 64, 0, 3, 0, 0, 5⟩, .sessionTimeout .a, by decide +kernel⟩,
    ⟨up, .a, .b, 1, by decide +kernel⟩,
    ⟨up, .a, .a, 1, by decide +kernel⟩⟩

/-- Concrete states and operands that meet the hypotheses of FramesLocksAndFirmwareImages, clause by clause. -/
theorem wit_FramesLocksAndFirmwareImages :
    (∃ (s : State) (p : Port) (h : FrameHdr) (k : Bool),
      ¬ inSession s p h 1) ∧
    (∃ (s : State) (p : Port) (h : FrameHdr),
      inSession s p h 1 ∧ (h.seq ≠ 0 ∨ (portOf s.lmx p).rxSeq ≠ 0)) ∧
    (∃ (s : State) (p : Port) (h : FrameHdr),
      inSession s p h 1 ∧ (h.seq ≠ 0 ∨ (portOf s.lmx p).rxSeq ≠ 0)) ∧
    (∃ (s : State) (p : Port) (h : FrameHdr),
      inSession s p h 1 ∧ h.seq = 0 ∧ (portOf s.lmx p).rxSeq = 0) ∧
    (∃ (s : State) (p : Port) (h : FrameHdr),
      inSession s p h 1 ∧ h.seq ≠ (portOf s.lmx p).rxSeq) ∧
    (∃ (s : State) (p : Port) (h : FrameHdr),
      inSession s p h 1 ∧ h.seq = (portOf s.lmx p).rxSeq ∧ h.seq < 2 ^ 64 - 1) ∧
    (∃ (s : State) (p : Port) (h : FrameHdr),
      inSession s p h 1 ∧ h.seq = (portOf s.lmx p).rxSeq ∧ 2 ^ 64 - 1 ≤ h.seq) ∧
    (∃ (s : State) (p : Port),
      (portOf s.lmx p).session ≠ 2) ∧
    (∃ (s : State) (p : Port) (f : OutFrame) (r : List OutFrame),
      (portOf s.lmx p).session = 2 ∧ (portOf s.lmx p).unacked = f :: r ∧ f.seq < (portOf s.lmx p).txSeq) ∧
    (∃ (s : State) (p : Port) (tag : Nat),
      mayRead s p ∧ s.lmx.lock = 0) ∧
    (∃ (s : State) (p : Port) (tag : Nat),
      mayRead s p ∧ s.lmx.lock = portNum p + 1) ∧
    (∃ (s : State) (p : Port) (tag : Nat) (v : Word),
      mayRead s p ∧ s.lmx.lock = portNum (otherPort p) + 1) ∧
    (∃ (s : State) (p : Port) (tag : Nat) (r : SpaceReq),
      mayAsk s ⟨p, 0, tag, none⟩ ∧ waitingRow s ⟨p, 0, tag, none⟩ r = none) ∧
    (∃ (s : State) (p : Port) (tag : Nat) (h : BitVec 32) (f : Fence),
      mayAsk s ⟨p, 0, tag, none⟩ ∧ fenceGet s 0 h = some f) ∧
    (∃ (s : State) (p : Port) (tag : Nat) (image : List Byte) (sig : List Byte),
      mayWrite s p ∧ s.lc.flashing = none) ∧
    (∃ (s : State) (p : Port) (tag : Nat) (image : List Byte) (sig : List Byte),
      mayWrite s p ∧ s.lc.flashing ≠ none) :=
  ⟨⟨up, .a, ⟨1, 1, 0, 0, 64, 0, 3, 0, 0, 6⟩, true, by decide +kernel⟩,
    ⟨up, .a, ⟨1, 1, 0, 0, 64, 0, 3, 0, 0, 5⟩, by decide +kernel⟩,
    ⟨{ up with lmx := { up.lmx with a := { upPort with rxSeq := 0 } } }, .a, ⟨1, 1, 0, 0, 64, 0, 1, 0, 0, 5⟩, by decide +kernel⟩,
    ⟨{ up with lmx := { up.lmx with a := { upPort with rxSeq := 0 } } }, .a, ⟨1, 1, 0, 0, 64, 0, 0, 0, 0, 5⟩, by decide +kernel⟩,
    ⟨up, .a, ⟨1, 1, 0, 0, 64, 0, 4, 0, 0, 5⟩, by decide +kernel⟩,
    ⟨{ up with lmx := { up.lmx with a := { upPort with unacked := [⟨0, .rollCall 1, 0⟩, ⟨1, .rollCall 2, 0⟩], txSeq := 1 } } }, .a, ⟨1, 1, 0, 0, 64, 0, 3, 0, 0, 5⟩, by decide +kernel⟩,
    ⟨{ up with lmx := { up.lmx with a := { upPort with rxSeq := 2 ^ 64 - 1 } } }, .a, ⟨1, 1, 0, 0, 64, 0, 18446744073709551615, 0, 0, 5⟩, by decide +kernel⟩,
    ⟨up, .b, by decide +kernel⟩,
    ⟨{ up with lmx := { up.lmx with a := { upPort with unacked := [⟨0, .rollCall 1, 0⟩], txSeq := 1 } } }, .a, ⟨0, .rollCall 1, 0⟩, [], by decide +kernel⟩,
    ⟨up, .a, 1, by decide +kernel⟩,
    ⟨{ up with lmx := { up.lmx with lock := 1 } }, .a, 1, by decide +kernel⟩,
    ⟨{ up with lmx := { up.lmx with lock := 2 } }, .a, 1, 1, by decide +kernel⟩,
    ⟨up, .a, 1, .ctxCreate ⟨false, 0, 0, 0⟩, ⟨by decide +kernel, by decide +kernel, by decide +kernel, (by first | exact True.intro | exact And.intro rfl (by decide +kernel))⟩, (by decide +kernel)⟩,
    ⟨{ up with sp := { up.sp with fences := [⟨0, 0, .space, 7, false, [], false, [], 0⟩] } }, .a, 1, 0x20000000#32, ⟨0, 0, .space, 7, false, [], false, [], 0⟩, ⟨by decide +kernel, by decide +kernel, by decide +kernel, (by first | exact True.intro | exact And.intro rfl (by decide +kernel))⟩, (by decide +kernel)⟩,
    ⟨up, .a, 1, [1], [2], by decide +kernel⟩,
    ⟨{ up with lc := { flashing := some ⟨.a, 1, [1], [2]⟩ } }, .a, 1, [1], [2], by decide +kernel⟩⟩

/-- Concrete states and operands that meet the hypotheses of ManagementRegistersReadAndWrite, clause by clause. -/
theorem wit_ManagementRegistersReadAndWrite :
    (∃ (s : State) (p : Port) (tag : Nat) (n : Nat) (off : BitVec 24),
      mayRead s p ∧ (n = 0 ∨ 128 < n) ∧ windowWaits s off.toNat n = false) ∧
    (∃ (s : State) (p : Port) (tag : Nat) (n : Nat) (off : BitVec 24),
      mayRead s p ∧ 0 < n ∧ n ≤ 128 ∧ windowWaits s off.toNat n = false) ∧
    (∃ (s : State) (p : Port) (tag : Nat) (n : Nat) (off : BitVec 24),
      mayRead s p ∧ 0 < n ∧ n ≤ 128 ∧ windowWaits s off.toNat n = false) ∧
    (∃ (s : State) (p : Port) (tag : Nat) (n : Nat) (off : BitVec 24),
      heard s.lmx p = false) ∧
    (∃ (s : State) (p : Port) (tag : Nat),
      mayRead s p) ∧
    (∃ (s : State) (p : Port) (tag : Nat),
      mayRead s p) ∧
    (∃ (s : State) (p : Port) (tag : Nat) (off : BitVec 24),
      mayRead s p ∧ (off.toNat / 2 ^ 16 = 0x10 ∨ 0x80 ≤ off.toNat / 2 ^ 16)) ∧
    (∃ (s : State) (p : Port) (tag : Nat) (off : BitVec 24) (v : Word) (b : Boot),
      mayWrite s p ∧ settled s ∧ (off = 0x000008 ∨ off.toNat / 2 ^ 16 = 0x10 ∨ 0x80 ≤ off.toNat / 2 ^ 16)) ∧
    (∃ (s : State) (p : Port) (tag : Nat) (v : Word) (b : Boot),
      mayWrite s p ∧ settled s) ∧
    (∃ (s : State) (p : Port) (tag : Nat) (v : Word) (b : Boot),
      mayWrite s p ∧ settled s) ∧
    (∃ (s : State) (p : Port) (tag : Nat) (v : Word) (b : Boot),
      mayWrite s p ∧ settled s) ∧
    (∃ (s : State) (p : Port) (tag : Nat) (b : Boot),
      mayWrite s p ∧ settled s) ∧
    (∃ (s : State) (p : Port) (tag : Nat) (off : BitVec 24) (v : Word) (b : Boot),
      mayRead s p ∧ settled s ∧ s.lmx.lock = portNum (otherPort p) + 1) ∧
    (∃ (s : State) (off : BitVec 24),
      i3cUp s.power = false) ∧
    (∃ (s : State) (off : BitVec 24),
      i3cUp s.power = true ∧ i3cReaches s off.toNat = true) ∧
    (∃ (s : State) (off : BitVec 24),
      i3cUp s.power = true ∧ i3cReaches s off.toNat = false) ∧
    (∃ (s : State) (off : BitVec 24) (k : Byte),
      i3cUp s.power = true ∧ k ≠ 0x10) ∧
    (∃ (s : State) (off : Nat),
      i3cReaches s off = true) :=
  ⟨⟨up, .a, 1, 129, 0, by decide +kernel⟩,
    ⟨up, .a, 1, 128, 0x050000, by decide +kernel⟩,
    ⟨up, .a, 1, 128, 0x050000, by decide +kernel⟩,
    ⟨up, .b, 1, 1, 0, by decide +kernel⟩,
    ⟨up, .a, 1, by decide +kernel⟩,
    ⟨up, .a, 1, by decide +kernel⟩,
    ⟨up, .a, 1, 0x80FFF8, by decide +kernel⟩,
    ⟨up, .a, 1, 0x100000, 5, goodBoot, by decide +kernel⟩,
    ⟨up, .a, 1, 0x00030063, goodBoot, by decide +kernel⟩,
    ⟨up, .a, 1, 15, goodBoot, by decide +kernel⟩,
    ⟨up, .a, 1, 15, goodBoot, by decide +kernel⟩,
    ⟨up, .a, 1, goodBoot, by decide +kernel⟩,
    ⟨{ up with lmx := { up.lmx with lock := 2 } }, .a, 1, 0x080200, 1, goodBoot, by decide +kernel⟩,
    ⟨State.reset, 0, by decide +kernel⟩,
    ⟨up, 0x0E0020, by decide +kernel⟩,
    ⟨up, 0x48, by decide +kernel⟩,
    ⟨up, 0, 0x11, by decide +kernel⟩,
    ⟨up, 0x0E04E0, by decide +kernel⟩⟩

/-- Concrete states and operands that meet the hypotheses of TheGafferAdmitsRetunesAndSleeps, clause by clause. -/
theorem wit_TheGafferAdmitsRetunesAndSleeps :
    let one := fun (s : State) (n : Nat) (q : Queue) (c : Cmd) (x : Ctx) =>
      n < 16 ∧ (∀ m, m < 16 → ((spaceGet s m).state = 1 ↔ m = n)) ∧ s.rig.active.strict = false ∧ s.sp.queues = [q] ∧ q.space = n ∧
      s.sp.cmds = [c] ∧ c.space = n ∧ c.queue = q.idx ∧ c.body.isSome = true ∧ c.phase = .accepted ∧ s.sp.ctxs = [x] ∧ x.id = c.ctx ∧
      x.resident = true ∧ x.leaving = false ∧ s.gaf.haltedGrips = [] ∧ (spaceGet s n).pending = none ∧ s.array.rush = [] ∧ c.rush = none
    let runs := fun (s : State) (n e : Nat) (c : Cmd) =>
      n < 16 ∧ (∀ m, m < 16 → ((spaceGet s m).state = 1 ↔ m = n)) ∧ s.sp.cmds = [c] ∧ c.space = n ∧ c.phase = .admitted ∧ c.point ≤ 7 ∧
      engineNamed c = some e ∧ onEngine c.opcode = true ∧ s.gaf.islands.length = 125 ∧ (s.gaf.islands.getD e {}).granted = c.point ∧
      (s.gaf.islands.getD e {}).held = false ∧ s.array.rush = []
    (∃ (s : State) (n : Nat) (l : Nat) (q : Queue) (c : Cmd) (x : Ctx),
      one s n q c x ∧ c.considered = false ∧ allowanceMw s n < estimateAt s c 0) ∧
    (∃ (s : State) (n : Nat) (e : Nat) (l : Nat) (q : Queue) (c : Cmd) (x : Ctx),
      one s n q c x ∧ estimateAt s c 0 ≤ allowanceMw s n ∧ engineNamed c = some e ∧ s.err.islFailed.getLsbD e = true) ∧
    (∃ (s : State) (n : Nat) (l : Nat) (q : Queue) (c : Cmd) (x : Ctx),
      one s n q c x ∧ engineNamed c = none ∧ unitFree s c = true ∧ estimateMw s c ≤ allowanceMw s n) ∧
    (∃ (s : State) (n : Nat) (e : Nat) (k : Nat) (l : Nat) (q : Queue) (c : Cmd) (x : Ctx),
      one s n q c x ∧ engineNamed c = some e ∧ engineAllows s e n = true ∧ (isShared s = false ∨ (s.array.engines.getD e {}).holder = some n) ∧ (s.gaf.islands.getD e {}).asleep = false ∧ (s.gaf.islands.getD e {}).stopped = false ∧ s.array.images = [] ∧ s.err.islFailed.getLsbD e = false ∧ unitFree s c = true ∧ s.gaf.islands.length = 125 ∧ (c.opcode = 0x10 → rushEligible (mmBody (cmdBody c)) x.rushes = false) ∧ k ≤ islandLimit s e (onVector c.opcode) ∧ estimateAt s c k ≤ allowanceMw s n ∧ estimateAt s c 0 ≤ allowanceMw s n ∧ (∀ j, j ≤ islandLimit s e (onVector c.opcode) → k < j → allowanceMw s n < estimateAt s c j)) ∧
    (∃ (s : State) (cid : Nat) (c : Cmd),
      cmdGet s cid = some c ∧ queueHead s c.queue = some c ∧ c.id = cid ∧ cmdIsReady s c = true ∧ (spaceGet s c.space).pending = none ∧ c.considered = true ∧ islandDead s c = false ∧ bestPoint s c = none) ∧
    (∃ (s : State) (cid : Nat) (c : Cmd),
      cmdGet s cid = some c ∧ (cmdIsReady s c = false ∨ c.considered = false ∨ (spaceGet s c.space).pending ≠ none)) ∧
    (∃ (s : State) (m : Measured),
      (∀ n, n < 16 → (spaceGet s n).state ≠ 1)) ∧
    (∃ (s : State) (m : Measured),
      s.power.ready = false ∧ (∀ n, n < 16 → (spaceGet s n).state ≠ 1)) ∧
    (∃ (s : State) (m : Measured) (n : Nat) (e : Nat) (c : Cmd),
      runs s n e c ∧ estimateAt s c 0 ≤ allowanceMw s n ∧ allowanceMw s n < estimateAt s c c.point) ∧
    (∃ (s : State) (m : Measured) (n : Nat) (e : Nat) (c : Cmd),
      runs s n e c ∧ allowanceMw s n < estimateAt s c 0) ∧
    (∃ (s : State) (m : Measured) (n : Nat) (e : Nat) (c : Cmd),
      runs s n e c ∧ estimateAt s c c.point ≤ allowanceMw s n) ∧
    (∃ (s : State),
      (isShared s = false ∨ s.rig.active.strict = true) ∧ (s.sp.ctxs.filter (ctxRunnable s)).length ≤ 64) ∧
    (∃ (s : State),
      (isShared s = false ∨ s.rig.active.strict = true) ∧ 64 < (s.sp.ctxs.filter (ctxRunnable s)).length ∧ (s.sp.ctxs.map (·.id)).Nodup ∧ (∀ x ∈ s.sp.ctxs, x.leaving = false) ∧ (s.sp.ctxs.filter (·.resident)).length ≤ 64 ∧ (s.sp.ctxs.filter fun x => !x.resident && ctxRunnable s x).length ≤ 64 ∧ (∀ c ∈ s.sp.cmds, cmdBusy c = false)) ∧
    (∃ (s : State) (n : Nat) (e : Nat) (q : Queue) (c : Cmd) (x : Ctx),
      one s n q c x ∧ isShared s = true ∧ engineOf s c = some e ∧ cmdIsReady s c = true ∧ (s.array.engines.getD e {}).holder ≠ some n ∧ (s.array.engines.getD e {}).written = false ∧ s.array.images = [] ∧ (s.gaf.islands.getD e {}).asleep = false ∧ s.array.engines.length = 64) ∧
    (∃ (s : State) (n : Nat),
      (s.rig.active.strict = false ∨ nextWindow s ≠ some n)) ∧
    (∃ (s : State) (n : Nat),
      (s.rig.active.strict = false ∨ nextWindow s ≠ some n)) ∧
    (∃ (s : State) (n : Nat),
      s.rig.active.strict = true ∧ nextWindow s = some n ∧ settled s ∧ s.keys.waiting = [] ∧ s.ciph.waiting = [] ∧ (∀ c ∈ s.sp.cmds, c.space = n ∨ c.opcode ≠ 0x10 ∨ c.phase ≠ .admitted) ∧ ((spaceGet s n).state ≠ 1 ∨ ∀ e ∈ slotEngines s n, (s.array.engines.getD e {}).holder = some n)) ∧
    (∃ (s : State) (t : State) (n : Nat) (link : Nat) (p : Packet) (ok : Bool) (be : BufErr),
      s.rig.active.strict = true ∧ nextWindow s = some n ∧ s.sp.cmds = [] ∧ (spaceGet s n).state ≠ 1 ∧ s.keys.waiting = [] ∧ s.ciph.waiting = [.requestReceive link p ok be] ∧ t = { s with gaf := { s.gaf with window := n } } ∧ requestWaits t link p = false) ∧
    (∃ (s : State) (n : Nat) (e : Nat),
      s.rig.active.strict = true ∧ nextWindow s = some n ∧ (spaceGet s n).state = 1 ∧ settled s ∧ s.keys.waiting = [] ∧ s.ciph.waiting = [] ∧ s.sp.cmds = [] ∧ s.array.rush = [] ∧ s.array.images = [] ∧ slotEngines s n = [e] ∧ s.array.engines.length = 64 ∧ (s.array.engines.getD e {}).holder ≠ some n ∧ (s.array.engines.getD e {}).written = false ∧ (s.gaf.islands.getD e {}).asleep = false) ∧
    (∃ (s : State) (n : Nat),
      (s.power.ready = false ∨ (s.gaf.islands.getD n {}).asleep = true ∨ (64 ≤ n ∧ n < 72) ∨ 120 ≤ n ∨ (n < 64 ∧ (s.gaf.idleUs = 0 ∨ engineIdle s n = false)) ∨ (72 ≤ n ∧ (linkOf s (n - 72)).state ≠ 3))) ∧
    (∃ (s : State) (n : Nat),
      s.power.ready = true ∧ n < 64 ∧ (s.gaf.islands.getD n {}).asleep = false ∧ s.gaf.idleUs ≠ 0 ∧ engineIdle s n = true ∧ (s.gaf.islands.getD n {}).stopped = false ∧ (s.array.engines.getD n {}).written = false ∧ s.gaf.islands.length = 125) ∧
    (∃ (s : State) (n : Nat),
      s.power.ready = true ∧ 72 ≤ n ∧ n < 120 ∧ (s.gaf.islands.getD n {}).asleep = false ∧ (linkOf s (n - 72)).state = 3 ∧ s.gaf.islands.length = 125) := by
  intro one runs
  exact ⟨⟨{ runs1 ({ cmdOf 0x20 [] with phase := .accepted }) with power := { upPower with budgetW := 444 } }, 0, 5, queue5, { cmdOf 0x20 [] with phase := .accepted }, ctx1, by decide +kernel⟩,
    ⟨{ runs1 ({ cmdOf 0x20 [] with phase := .accepted }) with err := { islFailed := 1 } }, 0, 0, 5, queue5, { cmdOf 0x20 [] with phase := .accepted }, ctx1, by decide +kernel⟩,
    ⟨runs1 ({ cmdOf 2 [] with phase := .accepted }), 0, 5, queue5, { cmdOf 2 [] with phase := .accepted }, ctx1, by decide +kernel⟩,
    ⟨runs1 ({ cmdOf 0x20 [] with phase := .accepted }), 0, 0, 7, 5, queue5, { cmdOf 0x20 [] with phase := .accepted }, ctx1, by decide +kernel⟩,
    ⟨{ runs1 ({ cmdOf 0x20 [] with phase := .accepted, considered := true }) with power := { upPower with budgetW := 446 }, sp := { (runs1 ({ cmdOf 0x20 [] with phase := .accepted, considered := true })).sp with cmds := [{ cmdOf 0x20 [] with phase := .accepted, considered := true }, { cmdOf 0x20 [(1, 6)] with id := 2, queue := 6, point := 6, energy := 6 }] } }, 1, { cmdOf 0x20 [] with phase := .accepted, considered := true }, by decide +kernel⟩,
    ⟨runs1 (cmdOf 2 []), 1, cmdOf 2 [], by decide +kernel⟩,
    ⟨State.reset, meas, by decide +kernel⟩,
    ⟨State.reset, { meas with mainMv := 70000 }, by decide +kernel⟩,
    ⟨{ runs1 ({ cmdOf 0x20 [] with point := 6, energy := 6 }) with power := { upPower with budgetW := 445 }, gaf := { islands := (List.replicate 125 {}).set 0 { granted := 6, point := 6 } } }, meas, 0, 0, { cmdOf 0x20 [] with point := 6, energy := 6 }, by decide +kernel⟩,
    ⟨{ runs1 ({ cmdOf 0x20 [] with point := 6, energy := 6 }) with power := { upPower with budgetW := 444 }, gaf := { islands := (List.replicate 125 {}).set 0 { granted := 6, point := 6 } } }, meas, 0, 0, { cmdOf 0x20 [] with point := 6, energy := 6 }, by decide +kernel⟩,
    ⟨{ runs1 ({ cmdOf 0x20 [] with point := 6, energy := 6 }) with power := { upPower with budgetW := 446 }, gaf := { islands := (List.replicate 125 {}).set 0 { granted := 6, point := 6 } } }, meas, 0, 0, { cmdOf 0x20 [] with point := 6, energy := 6 }, by decide +kernel⟩,
    ⟨{ runs1 (cmdOf 2 []) with sp := { (runs1 (cmdOf 2 [])).sp with ctxs := [{ ctx1 with resident := false }] } }, by decide +kernel⟩,
    ⟨{ up with sp := { up.sp with ctxs := (List.range 65).map fun k => { ctx1 with id := k + 1, resident := decide (k < 64) }, cmds := (List.range 65).map fun k => { cmdOf 2 [] with id := k + 1, ctx := k + 1, phase := .accepted } } }, by decide +kernel⟩,
    ⟨{ runs1 ({ cmdOf 0x20 [] with phase := .accepted }) with rig := { active := { shared := true, spaces := { creatable := true } :: List.replicate 15 {}, bands := (0, 1) :: List.replicate 63 (0, 0) } } }, 0, 0, queue5, { cmdOf 0x20 [] with phase := .accepted }, ctx1, by decide +kernel⟩,
    ⟨up, 0, by decide +kernel⟩,
    ⟨{ up with rig := { active := { strict := true, spaces := one0 } } }, 3, by decide +kernel⟩,
    ⟨{ up with rig := { active := { strict := true, spaces := one0 } }, sp := {} }, 0, by decide +kernel⟩,
    ⟨{ up with rig := { active := { strict := true, spaces := one0 } }, sp := {}, ciph := { waiting := [.requestReceive 0 { msgIn with type := 8 } true []] } }, _, 0, 0, { msgIn with type := 8 }, true, [], (by decide +kernel), (by decide +kernel), (by decide +kernel), (by decide +kernel), (by decide +kernel), (by decide +kernel), rfl, (by decide +kernel)⟩,
    ⟨{ up with rig := { active := { strict := true, spaces := one0, bands := (0, 1) :: List.replicate 63 (0, 0) } }, array := { tiles := [(3, 5)] } }, 0, 0, by decide +kernel⟩,
    ⟨{ up with gaf := { idleUs := 0 } }, 63, by decide +kernel⟩,
    ⟨{ up with array := { staging := [(8388609, 5)] } }, 1, by decide +kernel⟩,
    ⟨{ up with fabric := { links := List.replicate 47 {} ++ [{ state := 3 }] } }, 119, by decide +kernel⟩⟩

/-- Concrete states and operands that meet the hypotheses of NumberFormatsDecodeAndEncode, clause by clause. -/
theorem wit_NumberFormatsDecodeAndEncode :
    (∃ (c : BitVec 32),
      ofF32 c ≠ .nan) ∧
    (∃ (c : BitVec 32),
      ofF32 c = .nan) ∧
    (∃ (f : Fmt × Nat × Nat) (c : Nat),
      f ∈ [(Fmt.f32, 8, 23), (.bf16, 8, 7), (.f16, 5, 10), (.e5m2, 5, 2)] ∧ c < 2 ^ fmtWidth f.1 ∧ decodeElem f.1 [] c ≠ .nan) ∧
    (∃ (f : (Fmt × Nat × Nat) × Nat) (c : Nat),
      f ∈ [((Fmt.f32, 8, 23), 0x7FC00000), ((.bf16, 8, 7), 0x7FC0), ((.f16, 5, 10), 0x7E00), ((.e5m2, 5, 2), 0x7E)] ∧ decodeElem f.1.1 [] c = .nan) ∧
    (∃ (f : (Fmt × Nat × Nat) × Nat) (c : Nat),
      f ∈ [((Fmt.f32, 8, 23), 0x7FC00000), ((.bf16, 8, 7), 0x7FC0), ((.f16, 5, 10), 0x7E00), ((.e5m2, 5, 2), 0x7E)] ∧ decodeElem f.1.1 [] c = .nan) ∧
    (∃ (f : (Fmt × Nat × Nat) × Nat) (c : Nat),
      f ∈ [((Fmt.f32, 8, 23), 0x7FC00000), ((.bf16, 8, 7), 0x7FC0), ((.f16, 5, 10), 0x7E00), ((.e5m2, 5, 2), 0x7E)] ∧ decodeElem f.1.1 [] c = .nan) ∧
    (∃ (f : (Fmt × Nat × Nat) × Nat) (c : Nat),
      f ∈ [((Fmt.f32, 8, 23), 0x7FC00000), ((.bf16, 8, 7), 0x7FC0), ((.f16, 5, 10), 0x7E00), ((.e5m2, 5, 2), 0x7E)] ∧ decodeElem f.1.1 [] c = .nan) ∧
    (∃ (f : Fmt × Nat × Nat × Int) (c : Nat),
      f ∈ [(Fmt.e4m3, 4, 3, 7), (.e3m2, 3, 2, 3), (.e2m3, 2, 3, 1), (.e2m1, 2, 1, 1)] ∧ c < 2 ^ fmtWidth f.1 ∧ decodeElem f.1 [] c ≠ .nan) ∧
    (∃ (c : Nat),
      c < 256) ∧
    (∃ (c : Nat),
      c < 16) ∧
    (∃ (c : Nat),
      c < 4) ∧
    (∃ (c : Nat),
      c < 16) :=
  ⟨⟨0x00000001#32, by decide +kernel⟩,
    ⟨0xFF800001#32, by decide +kernel⟩,
    ⟨(.e5m2, 5, 2), 0xFC, by decide +kernel⟩,
    ⟨((.bf16, 8, 7), 0x7FC0), 0x7F81, by decide +kernel⟩,
    ⟨((.f16, 5, 10), 0x7E00), 0x7C01, by decide +kernel⟩,
    ⟨((.e5m2, 5, 2), 0x7E), 0xFD, by decide +kernel⟩,
    ⟨((.f32, 8, 23), 0x7FC00000), 0x7F800001, by decide +kernel⟩,
    ⟨(.e4m3, 4, 3, 7), 0x7E, by decide +kernel⟩,
    ⟨255, by decide +kernel⟩,
    ⟨15, by decide +kernel⟩,
    ⟨3, by decide +kernel⟩,
    ⟨15, by decide +kernel⟩⟩

/-- Concrete states and operands that meet the hypotheses of BridgeBurstsResendOrStrike, clause by clause. -/
theorem wit_BridgeBurstsResendOrStrike :
    (∃ (s : State) (d : BridgeDir) (data : List Byte) (idle : Nat),
      dirNum d < s.bridges.length ∧ (bridgeOf s d).keyed = true ∧ (bridgeOf s d).seq < 2 ^ 62 ∧ 0 < data.length ∧ data.length ≤ 4096 ∧ (data.length = 4096 ∨ 8 ≤ idle)) ∧
    (∃ (s : State) (d : BridgeDir) (data : List Byte) (idle : Nat),
      dirNum d < s.bridges.length ∧ (bridgeOf s d).keyed = true ∧ (bridgeOf s d).seq < 2 ^ 62 ∧ 0 < data.length ∧ data.length ≤ 4096 ∧ (data.length = 4096 ∨ 8 ≤ idle)) ∧
    (∃ (s : State) (d : BridgeDir) (data : List Byte) (idle : Nat),
      dirNum d < s.bridges.length ∧ (bridgeOf s d).keyed = true ∧ 2 ^ 62 ≤ (bridgeOf s d).seq ∧ 0 < data.length ∧ data.length ≤ 4096 ∧ (data.length = 4096 ∨ 8 ≤ idle)) ∧
    (∃ (s : State) (d : BridgeDir) (n : Nat) (x : Burst),
      dirNum d < s.bridges.length ∧ (bridgeOf s d).unacked.find? (fun y => y.seq == n) = some x) ∧
    (∃ (s : State) (d : BridgeDir) (n : Nat) (x : Burst),
      dirNum d < s.bridges.length ∧ (bridgeOf s d).unacked.find? (fun y => y.seq == n) = some x ∧ x.fails + 1 < 3) ∧
    (∃ (s : State) (d : BridgeDir) (n : Nat) (x : Burst),
      (bridgeOf s d).unacked.find? (fun y => y.seq == n) = some x ∧ 2 ≤ x.fails) ∧
    (∃ (s : State) (d : BridgeDir),
      dirNum d < s.bridges.length ∧ (bridgeOf s d).keyed = true ∧ 2 ^ 62 ≤ (bridgeOf s d).seq ∧ (bridgeOf s d).held.length < 2 ^ 62 ∧ s.keys.entropyOk = true) :=
  ⟨⟨{ up with bridges := [{ keyed := true, seq := 4, unacked := [⟨3, [1, 2], 0⟩] }, {}, {}, {}] }, .aToBase, List.replicate 5 1, 8, by decide +kernel⟩,
    ⟨{ up with bridges := [{ keyed := true, seq := 4, unacked := [⟨3, [1, 2], 0⟩] }, {}, {}, {}] }, .aToBase, List.replicate 4096 1, 0, by decide +kernel⟩,
    ⟨{ up with bridges := [{ keyed := true, seq := 2 ^ 62, unacked := [⟨3, [1, 2], 0⟩], held := [[7], [8]] }, {}, {}, {}] }, .aToBase, [1], 8, by decide +kernel⟩,
    ⟨{ up with bridges := [{ keyed := true, seq := 4, unacked := [⟨3, [1, 2], 0⟩] }, {}, {}, {}] }, .aToBase, 3, ⟨3, [1, 2], 0⟩, by decide +kernel⟩,
    ⟨{ up with bridges := [{ keyed := true, seq := 4, unacked := [⟨3, [1, 2], 1⟩] }, {}, {}, {}] }, .aToBase, 3, ⟨3, [1, 2], 1⟩, by decide +kernel⟩,
    ⟨{ up with bridges := [{ keyed := true, seq := 4, unacked := [⟨3, [1, 2], 2⟩] }, {}, {}, {}] }, .aToBase, 3, ⟨3, [1, 2], 2⟩, by decide +kernel⟩,
    ⟨{ up with bridges := [{ keyed := true, seq := 2 ^ 62, unacked := [⟨3, [1, 2], 0⟩], held := [[7], [8]] }, {}, {}, {}] }, .aToBase, by decide +kernel⟩⟩

/-- Concrete states and operands that meet the hypotheses of RigBufferIsLoaded, clause by clause. -/
theorem wit_RigBufferIsLoaded :
    (∃ (s : State) (p : Port) (tag : Nat) (v : Word),
      mayWrite s p ∧ rigBusy s = false) ∧
    (∃ (s : State) (p : Port) (tag : Nat) (v : Word),
      mayWrite s p ∧ rigBusy s = false ∧ s.rig.ptr < 524288) ∧
    (∃ (s : State) (p : Port) (tag : Nat) (v : Word),
      mayWrite s p ∧ rigBusy s = false ∧ 524288 ≤ s.rig.ptr) ∧
    (∃ (s : State) (p : Port) (tag : Nat) (v : Word),
      mayWrite s p ∧ rigBusy s = false) ∧
    (∃ (s : State) (p : Port) (tag : Nat) (v : Word) (c : Instr),
      mayWrite s p ∧ rigBusy s = true ∧ (c = .rigBufPtrWrite p tag v ∨ c = .rigBufDataWrite p tag v ∨ c = .rigBufLenWrite p tag v ∨ c = .verify p tag)) ∧
    (∃ (s : State) (p : Port) (tag : Nat),
      mayWrite s p ∧ s.rig.state = .committing) ∧
    (∃ (s : State) (p : Port) (tag : Nat),
      mayWrite s p ∧ s.rig.state ≠ .committing) :=
  ⟨⟨up, .a, 1, 0xFFFFF, by decide +kernel⟩,
    ⟨up, .a, 1, 5, by decide +kernel⟩,
    ⟨{ up with rig := { ptr := 524288 } }, .a, 1, 5, by decide +kernel⟩,
    ⟨up, .a, 1, 0x1FFFFF, by decide +kernel⟩,
    ⟨{ up with rig := { state := .committing } }, .a, 1, 8, .verify .a 1, by decide +kernel⟩,
    ⟨{ up with rig := { state := .committing } }, .a, 1, by decide +kernel⟩,
    ⟨{ up with rig := { ptr := 8, state := .rejected } }, .a, 1, by decide +kernel⟩⟩

/-- Concrete states and operands that meet the hypotheses of RigChangesOnlyThroughCommit, clause by clause. -/
theorem wit_RigChangesOnlyThroughCommit :
    (∃ (s : State) (p : Port) (tag : Nat),
      mayWrite s p ∧ rigBusy s = false) ∧
    (∃ (s : State),
      s.rig.state = .verifying) ∧
    (∃ (s : State) (p : Port) (tag : Nat),
      mayWrite s p ∧ (s.rig.state ≠ .verified ∨ (∃ x ∈ s.sp.slots, x.state ≠ 0) ∨ s.lc.testOpen = true ∨ (∃ k ∈ s.ciph.ranges, k.walk = 2) ∨ ∃ new, s.rig.staged = some new ∧ slotsShort s new = true)) ∧
    (∃ (s : State) (p : Port) (tag : Nat) (new : Rig),
      mayWrite s p ∧ commitBusy s = false ∧ s.rig.staged = some new) ∧
    (∃ (s : State) (new : Rig),
      s.rig.state = .committing ∧ s.rig.next = some new ∧ s.keys.entropyOk = true ∧ s.keys.waiting = []) :=
  ⟨⟨up, .a, 1, by decide +kernel⟩,
    ⟨{ up with rig := { state := .verifying } }, by decide +kernel⟩,
    ⟨up, .a, 1, by decide +kernel⟩,
    ⟨{ up with rig := { state := .verified, staged := some { version := 2 } }, sp := {} }, .a, 1, { version := 2 }, by decide +kernel⟩,
    ⟨{ up with rig := { state := .committing, next := some { version := 2, ranges := List.replicate 32 {} } } }, { version := 2, ranges := List.replicate 32 {} }, by decide +kernel⟩⟩

/-- Concrete states and operands that meet the hypotheses of MatmulWritesItsEngineOnly, clause by clause. -/
theorem wit_MatmulWritesItsEngineOnly :
    (∃ (s : State) (cid : Nat) (overlap : Nat) (e : SramErr) (c : Cmd) (b : MmBody) (fa : FmtWord) (fb : FmtWord),
      cmdReady s cid 0x10 = some c ∧ feedersStopped s (fld (cmdBody c) 0 6) = false ∧ b = mmBody (cmdBody c) ∧ mmCheck s c.space b = none ∧ b.fa = some fa ∧ b.fb = some fb ∧ sramBad e = false) ∧
    (∃ (s : State) (cid : Nat) (overlap : Nat) (e : SramErr) (c : Cmd) (st : Status),
      cmdReady s cid 0x10 = some c ∧ feedersStopped s (fld (cmdBody c) 0 6) = false ∧ mmCheck s c.space (mmBody (cmdBody c)) = some st) :=
  ⟨⟨runs1 (cmdOf 0x10 [(0, 15), (1, 13), (1, 9), (0, 98), (1, 12)]), 1, 0, noErr, cmdOf 0x10 [(0, 15), (1, 13), (1, 9), (0, 98), (1, 12)], _, fF32, fF32, (by decide +kernel), (by decide +kernel), rfl, (by decide +kernel), (by decide +kernel), (by decide +kernel), (by decide +kernel)⟩,
    ⟨runs1 (cmdOf 0x10 [(0, 28), (1, 9)]), 1, 0, noErr, cmdOf 0x10 [(0, 28), (1, 9)], .badShape, by decide +kernel⟩⟩

/-- Concrete states and operands that meet the hypotheses of EmptyProductIsPlusZero, clause by clause. -/
theorem wit_EmptyProductIsPlusZero :
    (∃ (s : State) (cid : Nat) (overlap : Nat) (e : SramErr) (c : Cmd) (b : MmBody) (fa : FmtWord) (fb : FmtWord),
      cmdReady s cid 0x10 = some c ∧ feedersStopped s (fld (cmdBody c) 0 6) = false ∧ b = mmBody (cmdBody c) ∧ mmCheck s c.space b = none ∧ b.fa = some fa ∧ b.fb = some fb ∧ sramBad e = false ∧ b.k = 0 ∧ b.acc = false ∧ b.epi = 0) :=
  ⟨runs1 (cmdOf 0x10 [(0, 15), (1, 13), (1, 9), (0, 98), (1, 12)]), 1, 0, noErr, cmdOf 0x10 [(0, 15), (1, 13), (1, 9), (0, 98), (1, 12)], _, fF32, fF32, (by decide +kernel), (by decide +kernel), rfl, (by decide +kernel), (by decide +kernel), (by decide +kernel), (by decide +kernel), (by decide +kernel), (by decide +kernel), (by decide +kernel)⟩

/-- Concrete states and operands that meet the hypotheses of MatrixArrayEvents, clause by clause. -/
theorem wit_MatrixArrayEvents :
    (∃ (s : State) (u : State) (v : State) (cid : Nat) (overlap : Nat) (e : SramErr) (c : Cmd) (i : Image) (b : MmBody) (fa : FmtWord) (fb : FmtWord),
      cmdGet s cid = some c ∧ c.phase = .preempted ∧ c.opcode = 0x10 ∧ (ctxGet s c.ctx).any (·.resident) = true ∧ engineOurs s c.space (fld (cmdBody c) 0 6) = true ∧ feedersStopped s (fld (cmdBody c) 0 6) = false ∧ bandCmd s (fld (cmdBody c) 0 6) (fld (cmdBody c) 6 3) = none ∧ gripHalted s c.queue = false ∧ refEngine s (fld (cmdBody c) 0 6) = false ∧ s.err.islFailed.getLsbD b.engine = false ∧ (s.array.images.find? fun x => x.cid == some c.id) = some i ∧ b = mmBody (cmdBody c) ∧ bandSwitch s (bandAt s b.engine b.band) c.ctx = some (u, true) ∧ v = { u with array := { u.array with images := u.array.images.filter fun y => y.cid != some c.id }, sp := cmdMod u.sp c.id fun y => { y with phase := .admitted } } ∧ sramBad e = false ∧ b.fa = some fa ∧ b.fb = some fb ∧ mmCheck v c.space b = none) ∧
    (∃ (s : State) (u : State) (cid : Nat) (overlap : Nat) (e : SramErr) (c : Cmd) (i : Image) (b : MmBody),
      cmdGet s cid = some c ∧ c.phase = .preempted ∧ c.opcode = 0x10 ∧ (ctxGet s c.ctx).any (·.resident) = true ∧ engineOurs s c.space (fld (cmdBody c) 0 6) = true ∧ feedersStopped s (fld (cmdBody c) 0 6) = false ∧ bandCmd s (fld (cmdBody c) 0 6) (fld (cmdBody c) 6 3) = none ∧ gripHalted s c.queue = false ∧ refEngine s (fld (cmdBody c) 0 6) = false ∧ s.err.islFailed.getLsbD b.engine = false ∧ (s.array.images.find? fun x => x.cid == some c.id) = some i ∧ b = mmBody (cmdBody c) ∧ (s.array.images.find? fun x => x.ctx == some c.ctx && x.engine == b.engine && x.band == b.band && !x.loaded) = some i ∧ bandSwitch s (bandAt s b.engine b.band) c.ctx = some (u, false)) ∧
    (∃ (s : State) (cid : Nat) (overlap : Nat) (e : SramErr) (c : Cmd) (i : Image) (b : MmBody),
      cmdGet s cid = some c ∧ c.phase = .preempted ∧ c.opcode = 0x10 ∧ (ctxGet s c.ctx).any (·.resident) = true ∧ engineOurs s c.space (fld (cmdBody c) 0 6) = true ∧ feedersStopped s (fld (cmdBody c) 0 6) = false ∧ bandCmd s (fld (cmdBody c) 0 6) (fld (cmdBody c) 6 3) = none ∧ gripHalted s c.queue = false ∧ refEngine s (fld (cmdBody c) 0 6) = false ∧ b = mmBody (cmdBody c) ∧ s.err.islFailed.getLsbD b.engine = true ∧ (s.array.images.find? fun x => x.cid == some c.id) = some i) ∧
    (∃ (s : State) (engine : Nat) (band : Nat) (c : Cmd),
      bandCmd s engine band = some c ∧ cmdGet s c.id = some c ∧ feedersStopped s engine = false ∧ engine < s.array.engines.length ∧ band < 8) ∧
    (∃ (s : State) (cid : Nat),
      (cmdGet s cid).any cmdLive = false ∧ (∀ j ∈ s.array.rush, j.cid = cid → ∀ v ∈ j.vals, rushBin (ofF32 v.1) (ofF32 v.2) = 0)) ∧
    (∃ (s : State) (p : Port) (tag : Nat) (engine : Nat) (v : Word),
      mayWrite s p ∧ v.getLsbD 0 = true) ∧
    (∃ (s : State) (g : Nat),
      g < 80 ∧ ¬ g ∈ s.gaf.haltedGrips ∧ quiet s ∧ (∀ c ∈ s.sp.cmds, isCollective c = false)) :=
  ⟨⟨{ runs1 ({ cmdOf 0x10 [(0, 15), (1, 13), (1, 9), (0, 98), (1, 12)] with phase := .preempted }) with array := { images := [{ cid := some 1, ctx := some 1, space := 0, engine := 0, band := 0, tiles := [(5, 7)], tileKind := 0, holdStg := [], holdTile := [], epoch := 0, pages := [] }] } }, ((bandSwitch ({ runs1 ({ cmdOf 0x10 [(0, 15), (1, 13), (1, 9), (0, 98), (1, 12)] with phase := .preempted }) with array := { images := [{ cid := some 1, ctx := some 1, space := 0, engine := 0, band := 0, tiles := [(5, 7)], tileKind := 0, holdStg := [], holdTile := [], epoch := 0, pages := [] }] } }) (bandAt ({ runs1 ({ cmdOf 0x10 [(0, 15), (1, 13), (1, 9), (0, 98), (1, 12)] with phase := .preempted }) with array := { images := [{ cid := some 1, ctx := some 1, space := 0, engine := 0, band := 0, tiles := [(5, 7)], tileKind := 0, holdStg := [], holdTile := [], epoch := 0, pages := [] }] } }) 0 0) 1).getD (up, false)).1, _, 1, 0, noErr, { cmdOf 0x10 [(0, 15), (1, 13), (1, 9), (0, 98), (1, 12)] with phase := .preempted }, { cid := some 1, ctx := some 1, space := 0, engine := 0, band := 0, tiles := [(5, 7)], tileKind := 0, holdStg := [], holdTile := [], epoch := 0, pages := [] }, _, fF32, fF32, (by decide +kernel), (by decide +kernel), (by decide +kernel), (by decide +kernel), (by decide +kernel), (by decide +kernel), (by decide +kernel), (by decide +kernel), (by decide +kernel), (by decide +kernel), (by decide +kernel), rfl, (by decide +kernel), rfl, (by decide +kernel), (by decide +kernel), (by decide +kernel), (by decide +kernel)⟩,
    ⟨{ runs1 ({ cmdOf 0x10 [(0, 15), (1, 13), (1, 9), (0, 98), (1, 12)] with phase := .preempted }) with array := { images := [{ cid := some 1, ctx := some 1, space := 0, engine := 0, band := 0, tiles := [(5, 7)], tileKind := 0, holdStg := [], holdTile := [], epoch := 0, pages := [4096] }] } }, ((bandSwitch ({ runs1 ({ cmdOf 0x10 [(0, 15), (1, 13), (1, 9), (0, 98), (1, 12)] with phase := .preempted }) with array := { images := [{ cid := some 1, ctx := some 1, space := 0, engine := 0, band := 0, tiles := [(5, 7)], tileKind := 0, holdStg := [], holdTile := [], epoch := 0, pages := [4096] }] } }) (bandAt ({ runs1 ({ cmdOf 0x10 [(0, 15), (1, 13), (1, 9), (0, 98), (1, 12)] with phase := .preempted }) with array := { images := [{ cid := some 1, ctx := some 1, space := 0, engine := 0, band := 0, tiles := [(5, 7)], tileKind := 0, holdStg := [], holdTile := [], epoch := 0, pages := [4096] }] } }) 0 0) 1).getD (up, false)).1, 1, 0, noErr, { cmdOf 0x10 [(0, 15), (1, 13), (1, 9), (0, 98), (1, 12)] with phase := .preempted }, { cid := some 1, ctx := some 1, space := 0, engine := 0, band := 0, tiles := [(5, 7)], tileKind := 0, holdStg := [], holdTile := [], epoch := 0, pages := [4096] }, _, (by decide +kernel), (by decide +kernel), (by decide +kernel), (by decide +kernel), (by decide +kernel), (by decide +kernel), (by decide +kernel), (by decide +kernel), (by decide +kernel), (by decide +kernel), (by decide +kernel), rfl, (by decide +kernel), optPair (d := (up, false)) (by decide +kernel)⟩,
    ⟨{ { runs1 ({ cmdOf 0x10 [(0, 15), (1, 13), (1, 9), (0, 98), (1, 12)] with phase := .preempted }) with array := { images := [{ cid := some 1, ctx := some 1, space := 0, engine := 0, band := 0, tiles := [(5, 7)], tileKind := 0, holdStg := [], holdTile := [], epoch := 0, pages := [] }] } } with err := { islFailed := 1 } }, 1, 0, noErr, { cmdOf 0x10 [(0, 15), (1, 13), (1, 9), (0, 98), (1, 12)] with phase := .preempted }, { cid := some 1, ctx := some 1, space := 0, engine := 0, band := 0, tiles := [(5, 7)], tileKind := 0, holdStg := [], holdTile := [], epoch := 0, pages := [] }, _, (by decide +kernel), (by decide +kernel), (by decide +kernel), (by decide +kernel), (by decide +kernel), (by decide +kernel), (by decide +kernel), (by decide +kernel), (by decide +kernel), rfl, (by decide +kernel), (by decide +kernel)⟩,
    ⟨runs1 (cmdOf 0x10 [(0, 15), (1, 13), (1, 9), (0, 98), (1, 12)]), 0, 0, cmdOf 0x10 [(0, 15), (1, 13), (1, 9), (0, 98), (1, 12)], by decide +kernel⟩,
    ⟨{ up with array := { rush := [⟨4, 1, 0, 0, 0, [(1, 1)]⟩] } }, 4, (by decide +kernel), (by intro j h _ v hv; cases h with | head => (cases hv with | head => decide +kernel | tail _ g => cases g) | tail _ g => cases g)⟩,
    ⟨up, .a, 1, 5, 1, by decide +kernel⟩,
    ⟨runs1 (cmdOf 0x20 []), 5, by decide +kernel⟩⟩

/-- Concrete states and operands that meet the hypotheses of VectorUnitCommands, clause by clause. -/
theorem wit_VectorUnitCommands :
    (∃ (s : State) (cid : Nat) (e : SramErr) (c : Cmd),
      cmdReady s cid 0x20 = some c ∧ vecCheck s c.space (vecBody (cmdBody c)) = none ∧ sramBad e = false) ∧
    (∃ (s : State) (cid : Nat) (e : SramErr) (c : Cmd) (st : Status),
      cmdReady s cid 0x20 = some c ∧ vecCheck s c.space (vecBody (cmdBody c)) = some st) ∧
    (∃ (s : State) (cid : Nat) (e : SramErr) (c : Cmd) (fo : FmtWord),
      cmdReady s cid 0x21 = some c ∧ quantCheck s c.space (quantBody (cmdBody c)) = none ∧ (quantBody (cmdBody c)).fo = some fo ∧ sramBad e = false) ∧
    (∃ (s : State) (cid : Nat) (e : SramErr) (c : Cmd) (st : Status),
      cmdReady s cid 0x21 = some c ∧ quantCheck s c.space (quantBody (cmdBody c)) = some st) ∧
    (∃ (s : State) (cid : Nat) (e : SramErr) (c : Cmd) (st : Status),
      cmdReady s cid 0x22 = some c ∧ randCheck s c.space (randBody (cmdBody c)) = some st) ∧
    (∃ (s : State) (cid : Nat) (e : SramErr) (c : Cmd) (k : State × W256),
      cmdReady s cid 0x22 = some c ∧ randCheck s c.space (randBody (cmdBody c)) = none ∧ kdfAllowed s c.space (s.keys.slots.getD (randBody (cmdBody c)).slot {}) = true ∧ sramBad e = false ∧ k = stepKeyGet (holdRead (sramCount s (randBody (cmdBody c)).engine e) c.ctx (bandAt s (randBody (cmdBody c)).engine (randBody (cmdBody c)).band) ((randBody (cmdBody c)).mode == 2) false) (randBody (cmdBody c)).slot (randBody (cmdBody c)).step) ∧
    (∃ (s : State) (cid : Nat) (e : SramErr) (c : Cmd),
      cmdReady s cid 0x22 = some c ∧ randCheck s c.space (randBody (cmdBody c)) = none ∧ kdfAllowed s c.space (s.keys.slots.getD (randBody (cmdBody c)).slot {}) = false) :=
  ⟨⟨runs1 (cmdOf 0x20 [(0, 9), (8, 6), (1, 13), (1, 13), (0, 36), (0, 21), (1, 12), (0, 3), (0, 72), (0, 4), (1, 17), (1, 12)]), 1, noErr, cmdOf 0x20 [(0, 9), (8, 6), (1, 13), (1, 13), (0, 36), (0, 21), (1, 12), (0, 3), (0, 72), (0, 4), (1, 17), (1, 12)], by decide +kernel⟩,
    ⟨runs1 (cmdOf 0x20 []), 1, noErr, cmdOf 0x20 [], .badDescriptor, by decide +kernel⟩,
    ⟨runs1 (cmdOf 0x21 [(0, 28), (1, 12), (1, 13), (1, 13), (165, 16), (1, 17), (1, 12), (2, 17)]), 1, noErr, cmdOf 0x21 [(0, 28), (1, 12), (1, 13), (1, 13), (165, 16), (1, 17), (1, 12), (2, 17)], { fmt := .e4m3, scale := .ue8m0, block := 8, share := 0, ovfNan := false }, by decide +kernel⟩,
    ⟨runs1 (cmdOf 0x21 []), 1, noErr, cmdOf 0x21 [], .badDescriptor, by decide +kernel⟩,
    ⟨runs1 (cmdOf 0x22 []), 1, noErr, cmdOf 0x22 [], .badShape, by decide +kernel⟩,
    ⟨{ runs1 (cmdOf 0x22 [(0, 163), (1, 13), (1, 13), (1, 24), (0, 34), (1, 12)]) with keys := { slots := { valid := true, use := .kdf } :: List.replicate 255 {} } }, 1, noErr, cmdOf 0x22 [(0, 163), (1, 13), (1, 13), (1, 24), (0, 34), (1, 12)], _, (by decide +kernel), (by decide +kernel), (by decide +kernel), (by decide +kernel), rfl⟩,
    ⟨runs1 (cmdOf 0x22 [(0, 163), (1, 13), (1, 13), (1, 24), (0, 34), (1, 12)]), 1, noErr, cmdOf 0x22 [(0, 163), (1, 13), (1, 13), (1, 24), (0, 34), (1, 12)], by decide +kernel⟩⟩

/-- Concrete states and operands that meet the hypotheses of ReductionTargets, clause by clause. -/
theorem wit_ReductionTargets :
    (∃ (s : State) (cid : Nat) (c : Cmd) (b : RedInit),
      cmdServed s cid 0x14 redInitNames = some c ∧ redInitBody (cmdBody c) = b ∧ b.resv = 0 ∧ b.tgt % 64 = 0 ∧ ewOk b.hdr.ofr b.hdr.ew = true ∧ modeAllowed s b.hdr = true ∧ spansCheck s c 0 [] [(b.tgt, redSize b.hdr)] = none ∧ (writeSpace s c b.tgt (redHeaderBytes b.hdr ++ List.replicate (redSize b.hdr - 64) 0)).status = .ok) ∧
    (∃ (s : State) (cid : Nat) (c : Cmd) (b : RedInit),
      cmdServed s cid 0x14 redInitNames = some c ∧ redInitBody (cmdBody c) = b ∧ (b.resv ≠ 0 ∨ b.tgt % 64 ≠ 0 ∨ ewOk b.hdr.ofr b.hdr.ew = false ∨ modeAllowed s b.hdr = false)) ∧
    (∃ (s : State) (u : State) (v : State) (cid : Nat) (e : SramErr) (c : Cmd) (b : RedAdd) (hd : RedHeader) (reads : List (Nat × Nat)),
      cmdServed s cid 0x15 redAddNames = some c ∧ redAddBody (cmdBody c) = b ∧ redAddStatic b = true ∧ b.mem = true ∧ reads = rowSpans b.src b.pitch (b.n * redSrcWidth b) b.m ∧ redHeader s c b.tgt reads = (u, .ok hd) ∧ redAddShape u c.space b hd = none ∧ spansCheck u c 0 reads (rowSpans (b.tgt + 64 + b.first * redWidth hd) (b.tgtPitch * redWidth hd) (b.n * redWidth hd) b.m) = none ∧ v = freeUse u (b.m * b.n + 1) ∧ (redAddAll c b hd (redOrder u b) v).2.1 = .ok) ∧
    (∃ (s : State) (u : State) (v : State) (cid : Nat) (c : Cmd) (b : RedRead) (hd : RedHeader) (out : Nat × Nat) (span : Nat × Nat),
      cmdServed s cid 0x16 redReadNames = some c ∧ redReadBody (cmdBody c) = b ∧ b.resv = 0 ∧ b.tgt % 64 = 0 ∧ b.out % 4 = 0 ∧ out = (b.out, b.count * (if b.bf16 then 2 else 4)) ∧ redHeader s c b.tgt [out] = (u, .ok hd) ∧ b.first + b.count ≤ hd.count ∧ span = (b.tgt + 64 + b.first * redWidth hd, b.count * redWidth hd) ∧ spansCheck u c 0 [(b.tgt, redSize hd)] (out :: (if b.clear then [span] else [])) = none ∧ v = addMask u c.ctx (spanOwners u c.space [(b.tgt, redSize hd)]) ∧ (redReadAll c b hd b.count 0 {} v).2.1 = .ok) :=
  ⟨⟨redS (cmdOf 0x14 [(2 ^ 21, 48)]), 1, cmdOf 0x14 [(2 ^ 21, 48)], ⟨2 ^ 21, ⟨false, 0, 1⟩, 0⟩, by decide +kernel⟩,
    ⟨redS (cmdOf 0x14 [(32, 48)]), 1, cmdOf 0x14 [(32, 48)], ⟨32, ⟨false, 0, 1⟩, 0⟩, by decide +kernel⟩,
    ⟨redS redAddCmd, (redHeader (redS redAddCmd) redAddCmd (2 ^ 21) (rowSpans (2 ^ 21 + 4096) 64 4 1)).1, _, 1, noErr, redAddCmd, redAddBody (cmdBody redAddCmd), ⟨false, 0, 1⟩, _, (by decide +kernel), (by decide +kernel), (by decide +kernel), (by decide +kernel), rfl, okPair (by decide +kernel) (by decide +kernel), (by decide +kernel), (by decide +kernel), rfl, (by decide +kernel)⟩,
    ⟨redS redReadCmd, redReadU, _, 1, redReadCmd, redReadBody (cmdBody redReadCmd), ⟨false, 0, 1⟩, _, _, (by decide +kernel), (by decide +kernel), (by decide +kernel), (by decide +kernel), (by decide +kernel), rfl, okPair (by decide +kernel) (by decide +kernel), (by decide +kernel), rfl, (by decide +kernel), rfl, (by decide +kernel)⟩⟩

/-- Concrete states and operands that meet the hypotheses of LayoutMoves, clause by clause. -/
theorem wit_LayoutMoves :
    (∃ (s : State) (cid : Nat) (c : Cmd) (v : Nat) (src : Nat) (dst : Nat) (rows : Nat) (cols : Nat) (sp : Nat) (dp : Nat) (f : Fmt) (reads : List (Nat × Nat)) (w : MemWrite),
      cmdServed s cid 0x30 transposeNames = some c ∧ cmdBody c = v ∧ src = fld v 1 48 ∧ dst = fld v 49 48 ∧ rows = fld v 97 20 + 1 ∧ cols = fld v 117 20 + 1 ∧ sp = 64 * fld v 142 20 ∧ dp = 64 * fld v 162 20 ∧ fmtOfCode (fld v 137 5) = some f ∧ fld v 182 106 = 0 ∧ src % 64 = 0 ∧ dst % 64 = 0 ∧ spansMeet (rowsTotal src sp (rowBytes f cols) rows) (rowsTotal dst dp (rowBytes f rows) cols) = false ∧ rowBytes f cols ≤ sp ∧ rowBytes f rows ≤ dp ∧ reads = rowSpans src sp (rowBytes f cols) rows ∧ spansCheck s c 0 reads ((List.range cols).map fun j => (dst + j * dp, if j + 1 = cols then rowBytes f rows else dp)) = none ∧ (takeSpans c reads s).2.1 = .ok ∧ w = writeSpans c (transposeOut f dst dp cols (takeSpans c reads s).2.2.2) (takeSpans c reads s).1 ∧ w.status = .ok) ∧
    (∃ (s : State) (cid : Nat) (c : Cmd) (b : IndexBody) (l : MemRead) (g : Bool) (i : Instr) (ids : List Nat) (m : State × Status × Nat),
      ((g = true ∧ i = .gather cid ∧ cmdServed s cid 0x31 (indexNames true) = some c) ∨ (g = false ∧ i = .scatter cid ∧ cmdServed s cid 0x32 (indexNames false) = some c)) ∧ indexBody (cmdBody c) = b ∧ b.resv = 0 ∧ b.src % 64 = 0 ∧ b.dst % 64 = 0 ∧ b.idx % 64 = 0 ∧ b.row ≠ 0 ∧ spansMeet (b.src, if g then b.table * b.row else b.count * b.row) (b.dst, if g then b.count * b.row else b.table * b.row) = false ∧ spansCheck s c 0 [(b.src, if g then b.table * b.row else b.count * b.row), (b.idx, 4 * b.count)] [(b.dst, if g then b.count * b.row else b.table * b.row)] = none ∧ l = readTake s c b.idx (4 * b.count) ∧ l.status = .ok ∧ ids = (List.range b.count).map (indexAt l.bytes) ∧ (∀ x ∈ ids, x < b.table) ∧ m = moveRows c true (((List.range b.count).zip ids).map fun p => if g then (b.src + p.2 * b.row, b.dst + p.1 * b.row, b.row) else (b.src + p.1 * b.row, b.dst + p.2 * b.row, b.row)) l.st) ∧
    (∃ (s : State) (cid : Nat) (c : Cmd) (b : IndexBody) (l : MemRead) (g : Bool) (i : Instr) (ids : List Nat) (m : State × Status × Nat),
      ((g = true ∧ i = .gather cid ∧ cmdServed s cid 0x31 (indexNames true) = some c) ∨ (g = false ∧ i = .scatter cid ∧ cmdServed s cid 0x32 (indexNames false) = some c)) ∧ indexBody (cmdBody c) = b ∧ b.resv = 0 ∧ b.src % 64 = 0 ∧ b.dst % 64 = 0 ∧ b.idx % 64 = 0 ∧ b.row ≠ 0 ∧ spansMeet (b.src, if g then b.table * b.row else b.count * b.row) (b.dst, if g then b.count * b.row else b.table * b.row) = false ∧ spansCheck s c 0 [(b.src, if g then b.table * b.row else b.count * b.row), (b.idx, 4 * b.count)] [(b.dst, if g then b.count * b.row else b.table * b.row)] = none ∧ l = readTake s c b.idx (4 * b.count) ∧ l.status = .ok ∧ ids = (List.range b.count).map (indexAt l.bytes) ∧ (∀ x ∈ ids, x < b.table) ∧ m = moveRows c true (((List.range b.count).zip ids).map fun p => if g then (b.src + p.2 * b.row, b.dst + p.1 * b.row, b.row) else (b.src + p.1 * b.row, b.dst + p.2 * b.row, b.row)) l.st) ∧
    (∃ (s : State) (cid : Nat) (c : Cmd) (b : RepackBody) (fs : FmtWord) (fd : FmtWord),
      cmdServed s cid 0x33 repackNames = some c ∧ repackBody (cmdBody c) = b ∧ b.fs = some fs ∧ b.fd = some fd ∧ b.resv = 0 ∧ fwOk fs false = true ∧ fwOk fd true = true ∧ b.src % 64 = 0 ∧ b.dst % 64 = 0 ∧ b.srcAux % 2 = 0 ∧ b.dstAux % 2 = 0 ∧ spansMeet (b.src, b.rows * rowBytes fs.fmt b.cols) (b.dst, b.rows * rowBytes fd.fmt b.cols) = false ∧ spansCheck s c 0 ((b.src, b.rows * rowBytes fs.fmt b.cols) :: (auxList fs b.srcAux b.rows b.cols ++ auxList fd b.dstAux b.rows b.cols)) [(b.dst, b.rows * rowBytes fd.fmt b.cols)] = none) ∧
    (∃ (s : State) (cid : Nat) (c : Cmd) (v : Nat),
      cmdServed s cid 0x34 copyNames = some c ∧ cmdBody c = v ∧ fld v 141 147 = 0 ∧ fld v 1 48 % 64 = 0 ∧ fld v 49 48 % 64 = 0 ∧ spansMeet (fld v 1 48, 64 * (fld v 97 36 + 1)) (fld v 49 48, 64 * (fld v 97 36 + 1)) = false ∧ addrCheck s c (fld v 1 48) (64 * (fld v 97 36 + 1)) = none ∧ addrCheck s c (fld v 49 48) (64 * (fld v 97 36 + 1)) = none ∧ releaseCheck s c (fld v 1 48) (fld v 49 48) (64 * (fld v 97 36 + 1)) (fld v 133 8) = none ∧ (moveRows c false (copyLines (fld v 1 48) (fld v 49 48) (fld v 97 36 + 1)) s).2.1 = .ok) ∧
    (∃ (s : State) (cid : Nat) (c : Cmd) (v : Nat),
      cmdServed s cid 0x34 copyNames = some c ∧ cmdBody c = v ∧ fld v 141 147 = 0 ∧ fld v 1 48 % 64 = 0 ∧ fld v 49 48 % 64 = 0 ∧ spansMeet (fld v 1 48, 64 * (fld v 97 36 + 1)) (fld v 49 48, 64 * (fld v 97 36 + 1)) = false ∧ addrCheck s c (fld v 1 48) (64 * (fld v 97 36 + 1)) = none ∧ addrCheck s c (fld v 49 48) (64 * (fld v 97 36 + 1)) = none ∧ (∀ x ∈ s.rig.active.clauses, x.id ≠ fld v 133 8)) :=
  ⟨⟨runs1 (cmdOf 0x30 [(0, 1), (2 ^ 21, 48), (2 ^ 21 + 4096, 48), (1, 20), (1, 20), (0, 5), (1, 20), (1, 20)]), 1, cmdOf 0x30 [(0, 1), (2 ^ 21, 48), (2 ^ 21 + 4096, 48), (1, 20), (1, 20), (0, 5), (1, 20), (1, 20)], cmdBody (cmdOf 0x30 [(0, 1), (2 ^ 21, 48), (2 ^ 21 + 4096, 48), (1, 20), (1, 20), (0, 5), (1, 20), (1, 20)]), _, _, _, _, _, _, .f32, _, _, (by decide +kernel), (by decide +kernel), rfl, rfl, rfl, rfl, rfl, rfl, (by decide +kernel), (by decide +kernel), (by decide +kernel), (by decide +kernel), (by decide +kernel), (by decide +kernel), (by decide +kernel), rfl, (by decide +kernel), (by decide +kernel), rfl, (by decide +kernel)⟩,
    ⟨runs1 (cmdOf 0x31 [(0, 1), (2 ^ 21, 48), (2 ^ 21 + 4096, 48), (2 ^ 21 + 8192, 48), (1, 24), (1, 16), (3, 24)]), 1, (cmdOf 0x31 [(0, 1), (2 ^ 21, 48), (2 ^ 21 + 4096, 48), (2 ^ 21 + 8192, 48), (1, 24), (1, 16), (3, 24)]), indexBody (cmdBody (cmdOf 0x31 [(0, 1), (2 ^ 21, 48), (2 ^ 21 + 4096, 48), (2 ^ 21 + 8192, 48), (1, 24), (1, 16), (3, 24)])), _, true, .gather 1, _, _, (by decide +kernel), (by decide +kernel), (by decide +kernel), (by decide +kernel), (by decide +kernel), (by decide +kernel), (by decide +kernel), (by decide +kernel), (by decide +kernel), rfl, (by decide +kernel), rfl, (by decide +kernel), rfl⟩,
    ⟨runs1 (cmdOf 0x32 [(0, 1), (2 ^ 21, 48), (2 ^ 21 + 4096, 48), (2 ^ 21 + 8192, 48), (1, 24), (1, 16), (3, 24)]), 1, (cmdOf 0x32 [(0, 1), (2 ^ 21, 48), (2 ^ 21 + 4096, 48), (2 ^ 21 + 8192, 48), (1, 24), (1, 16), (3, 24)]), indexBody (cmdBody (cmdOf 0x32 [(0, 1), (2 ^ 21, 48), (2 ^ 21 + 4096, 48), (2 ^ 21 + 8192, 48), (1, 24), (1, 16), (3, 24)])), _, false, .scatter 1, _, _, (by decide +kernel), (by decide +kernel), (by decide +kernel), (by decide +kernel), (by decide +kernel), (by decide +kernel), (by decide +kernel), (by decide +kernel), (by decide +kernel), rfl, (by decide +kernel), rfl, (by decide +kernel), rfl⟩,
    ⟨runs1 (cmdOf 0x33 [(0, 1), (2 ^ 21, 48), (2 ^ 21 + 4096, 48), (1, 20), (1, 20), (0, 16), (1, 16)]), 1, cmdOf 0x33 [(0, 1), (2 ^ 21, 48), (2 ^ 21 + 4096, 48), (1, 20), (1, 20), (0, 16), (1, 16)], repackBody (cmdBody (cmdOf 0x33 [(0, 1), (2 ^ 21, 48), (2 ^ 21 + 4096, 48), (1, 20), (1, 20), (0, 16), (1, 16)])), fF32, { fF32 with fmt := .bf16 }, by decide +kernel⟩,
    ⟨{ runs1 (cmdOf 0x34 [(0, 1), (2 ^ 21, 48), (2 ^ 21 + 4096, 48), (1, 36), (1, 8)]) with rig := { active := { ranges := { base := 0, size := 2 ^ 30, mode := 1, ownerSet := 1 } :: List.replicate 31 {}, clauses := [⟨1, 0, 1⟩] } }, sp := { (runs1 (cmdOf 0x34 [(0, 1), (2 ^ 21, 48), (2 ^ 21 + 4096, 48), (1, 36), (1, 8)])).sp with slots := { ((runs1 (cmdOf 0x34 [(0, 1), (2 ^ 21, 48), (2 ^ 21 + 4096, 48), (1, 36), (1, 8)])).sp.slots.getD 0 {}) with party := 0 } :: List.replicate 15 {} } }, 1, cmdOf 0x34 [(0, 1), (2 ^ 21, 48), (2 ^ 21 + 4096, 48), (1, 36), (1, 8)], cmdBody (cmdOf 0x34 [(0, 1), (2 ^ 21, 48), (2 ^ 21 + 4096, 48), (1, 36), (1, 8)]), by decide +kernel⟩,
    ⟨{ runs1 (cmdOf 0x34 [(0, 1), (2 ^ 21, 48), (2 ^ 21 + 4096, 48), (1, 36), (1, 8)]) with rig := { active := { ranges := { base := 0, size := 2 ^ 30, mode := 1, ownerSet := 1 } :: List.replicate 31 {}, clauses := [⟨2, 0, 1⟩] } }, sp := { (runs1 (cmdOf 0x34 [(0, 1), (2 ^ 21, 48), (2 ^ 21 + 4096, 48), (1, 36), (1, 8)])).sp with slots := { ((runs1 (cmdOf 0x34 [(0, 1), (2 ^ 21, 48), (2 ^ 21 + 4096, 48), (1, 36), (1, 8)])).sp.slots.getD 0 {}) with party := 0 } :: List.replicate 15 {} } }, 1, cmdOf 0x34 [(0, 1), (2 ^ 21, 48), (2 ^ 21 + 4096, 48), (1, 36), (1, 8)], cmdBody (cmdOf 0x34 [(0, 1), (2 ^ 21, 48), (2 ^ 21 + 4096, 48), (1, 36), (1, 8)]), by decide +kernel⟩⟩

/-- Concrete states and operands that meet the hypotheses of StagingMoves, clause by clause. -/
theorem wit_StagingMoves :
    (∃ (s : State) (cid : Nat) (c : Cmd),
      cmdReady s cid 0x00 = some c ∧ cmdBody c = 0) ∧
    (∃ (s : State) (cid : Nat) (c : Cmd) (v : Nat) (src : Nat) (dst : Nat) (n : Nat),
      cmdServed s cid 0x02 copyNames = some c ∧ cmdBody c = v ∧ src = fld v 1 48 ∧ dst = fld v 49 48 ∧ n = fld v 97 36 + 1 ∧ fld v 133 155 = 0 ∧ src % 64 = 0 ∧ dst % 64 = 0 ∧ spansMeet (src, 64 * n) (dst, 64 * n) = false ∧ spansCheck s c 0 [(src, 64 * n)] [(dst, 64 * n)] = none ∧ (moveRows c true (copyLines src dst n) s).2.1 = .ok) ∧
    (∃ (s : State) (cid : Nat) (c : Cmd) (b : StageBody) (be : BufErr),
      bufBad be = false ∧ cmdServed s cid 0x08 stageNames = some c ∧ stageBody (cmdBody c) = b ∧ stageCheck s c.space b = none ∧ spansCheck s c 0 (rowSpans b.addr b.memPitch b.row b.rows) [] = none ∧ (stageInRows c (bandAt s b.engine b.band) b be b.rows 0 s).2.1 = .ok) ∧
    (∃ (s : State) (cid : Nat) (c : Cmd) (st : Status) (e : SramErr) (be : BufErr) (i : Instr),
      ((i = .stageIn cid be ∧ cmdServed s cid 0x08 stageNames = some c) ∨ (i = .stageOut cid e be ∧ cmdServed s cid 0x09 stageNames = some c)) ∧ stageCheck s c.space (stageBody (cmdBody c)) = some st) ∧
    (∃ (s : State) (cid : Nat) (c : Cmd) (st : Status) (e : SramErr) (be : BufErr) (i : Instr),
      ((i = .stageIn cid be ∧ cmdServed s cid 0x08 stageNames = some c) ∨ (i = .stageOut cid e be ∧ cmdServed s cid 0x09 stageNames = some c)) ∧ stageCheck s c.space (stageBody (cmdBody c)) = some st) ∧
    (∃ (s : State) (cid : Nat) (c : Cmd) (b : StageBody) (e : SramErr) (be : BufErr) (u : State),
      bufBad be = false ∧ cmdServed s cid 0x09 stageNames = some c ∧ stageBody (cmdBody c) = b ∧ stageCheck s c.space b = none ∧ sramBad e = false ∧ spansCheck s c ((s.array.engines.getD b.engine {}).holdStg.getD b.band 0 ||| shareMask s c.space b.engine) [] (rowSpans b.addr b.memPitch b.row b.rows) = none ∧ u = sharePass (holdRead (sramCount s b.engine e) c.ctx (bandAt s b.engine b.band) true false) c b.engine ∧ (stageOutRows c (bandAt s b.engine b.band) b be b.rows 0 u).2.1 = .ok) :=
  ⟨⟨runs1 (cmdOf 0 []), 1, cmdOf 0 [], by decide +kernel⟩,
    ⟨runs1 (cmdOf 2 [(0, 1), (2 ^ 21, 48), (2 ^ 21 + 4096, 48), (1, 36)]), 1, cmdOf 2 [(0, 1), (2 ^ 21, 48), (2 ^ 21 + 4096, 48), (1, 36)], cmdBody (cmdOf 2 [(0, 1), (2 ^ 21, 48), (2 ^ 21 + 4096, 48), (1, 36)]), _, _, _, (by decide +kernel), (by decide +kernel), rfl, rfl, rfl, (by decide +kernel), (by decide +kernel), (by decide +kernel), (by decide +kernel), (by decide +kernel), (by decide +kernel)⟩,
    ⟨runs1 (cmdOf 8 [(0, 9), (0, 17), (2 ^ 21, 48), (1, 13), (1, 12), (1, 20), (1, 12)]), 1, cmdOf 8 [(0, 9), (0, 17), (2 ^ 21, 48), (1, 13), (1, 12), (1, 20), (1, 12)], stageBody (cmdBody (cmdOf 8 [(0, 9), (0, 17), (2 ^ 21, 48), (1, 13), (1, 12), (1, 20), (1, 12)])), [], by decide +kernel⟩,
    ⟨runs1 (cmdOf 8 [(0, 9), (0, 17), (1, 48)]), 1, cmdOf 8 [(0, 9), (0, 17), (1, 48)], .badDescriptor, noErr, [], .stageIn 1 [], by decide +kernel⟩,
    ⟨runs1 (cmdOf 9 [(0, 9), (0, 65), (0, 13), (1, 12)]), 1, cmdOf 9 [(0, 9), (0, 65), (0, 13), (1, 12)], .badShape, noErr, [], .stageOut 1 noErr [], by decide +kernel⟩,
    ⟨runs1 (cmdOf 9 [(0, 9), (0, 17), (2 ^ 21, 48), (1, 13), (1, 12), (1, 20), (1, 12)]), 1, cmdOf 9 [(0, 9), (0, 17), (2 ^ 21, 48), (1, 13), (1, 12), (1, 20), (1, 12)], stageBody (cmdBody (cmdOf 9 [(0, 9), (0, 17), (2 ^ 21, 48), (1, 13), (1, 12), (1, 20), (1, 12)])), noErr, [], _, (by decide +kernel), (by decide +kernel), (by decide +kernel), (by decide +kernel), (by decide +kernel), (by decide +kernel), rfl, (by decide +kernel)⟩⟩

/-- Concrete states and operands that meet the hypotheses of UpdateAndNorm, clause by clause. -/
theorem wit_UpdateAndNorm :
    (∃ (s : State) (cid : Nat) (e : SramErr) (c : Cmd) (b : UpdBody) (p : MemRead) (d : ParamDesc) (s2 : State) (r : State × Status × Nat × UpdRun) (z : MemWrite),
      cmdServed s cid 0x40 updNames = some c ∧ updBody (cmdBody c) = b ∧ b.resv = 0 ∧ b.normMode = 0 ∧ finNonneg b.lr = true ∧ p = checkRead s c b.pd 128 ∧ p.status = .ok ∧ d = paramDesc p.bytes ∧ updStatic p.st c.space b d = true ∧ b.sparse = false ∧ updShape b d (List.range (granules d)) = none ∧ spansCheck p.st c 0 (updSpans b d).1 (updSpans b d).2 = none ∧ sramBad e = false ∧ s2 = stgSpoil (addMask (sramCount p.st b.engine e) c.ctx (spanOwners p.st c.space [(b.pd, 128)])) (bandAt p.st b.engine b.band) b.scratch 0 scratchBytes 1 ∧ r = granRun c b d (updConst b d numOne) 0 (List.range (granules d)) {} s2 ∧ r.2.1 = .ok ∧ z = writeSpans c [(b.pd + 12, natLe 4 b.step), (b.pd + 104, updSummary r.2.2.2)] (holdWrite r.1 c (bandAt p.st b.engine b.band) true false) ∧ z.status = .ok) ∧
    (∃ (s : State) (cid : Nat) (e : SramErr) (c : Cmd) (b : UpdBody) (p : MemRead) (q : MemRead) (d : ParamDesc) (n : NormCell),
      cmdServed s cid 0x40 updNames = some c ∧ updBody (cmdBody c) = b ∧ b.resv = 0 ∧ (b.normMode = 1 ∨ b.normMode = 2) ∧ finNonneg b.lr = true ∧ p = checkRead s c b.pd 128 ∧ p.status = .ok ∧ d = paramDesc p.bytes ∧ updStatic p.st c.space b d = true ∧ b.sparse = false ∧ q = checkRead p.st c b.norm 64 ∧ q.status = .ok ∧ n = normCell q.bytes ∧ n.ok = true ∧ n.step = b.step ∧ n.global = true ∧ (n.nonfinite = true ∨ n.saturated = true) ∧ updShape b d (List.range (granules d)) = none ∧ spansCheck q.st c 0 (updSpans b d).1 (updSpans b d).2 = none) ∧
    (∃ (s : State) (cid : Nat) (e : SramErr) (c : Cmd) (b : UpdBody) (p : MemRead) (q : MemRead) (d : ParamDesc) (n : NormCell),
      cmdServed s cid 0x40 updNames = some c ∧ updBody (cmdBody c) = b ∧ b.resv = 0 ∧ (b.normMode = 1 ∨ b.normMode = 2) ∧ finNonneg b.lr = true ∧ p = checkRead s c b.pd 128 ∧ p.status = .ok ∧ d = paramDesc p.bytes ∧ updStatic p.st c.space b d = true ∧ b.sparse = false ∧ q = checkRead p.st c b.norm 64 ∧ q.status = .ok ∧ n = normCell q.bytes ∧ n.ok = true ∧ n.step = b.step ∧ n.global = true ∧ (n.nonfinite = true ∨ n.saturated = true) ∧ updShape b d (List.range (granules d)) = none ∧ spansCheck q.st c 0 (updSpans b d).1 (updSpans b d).2 = none) ∧
    (∃ (s : State) (cid : Nat) (e : SramErr) (c : Cmd),
      cmdServed s cid 0x40 updNames = some c ∧ (updBody (cmdBody c)).resv ≠ 0) ∧
    (∃ (s : State) (cid : Nat) (c : Cmd) (b : NormBody) (n : NormCell) (i : MemWrite) (w : MemWrite) (r : MemRead),
      cmdServed s cid 0x41 normAccNames = some c ∧ normBody (cmdBody c) = b ∧ b.resv = 0 ∧ b.src % 4 = 0 ∧ b.init = true ∧ spansCheck s c 0 [(b.src, b.count * (if b.bf16 then 2 else 4))] [(b.cell, 64)] = none ∧ n = ⟨true, false, false, false, b.step, 0⟩ ∧ i = writeSpace s c b.cell (normCellBytes n) ∧ i.status = .ok ∧ r = readTake i.st c b.src (b.count * (if b.bf16 then 2 else 4)) ∧ r.status = .ok ∧ w = writeSpace r.st c b.cell (normCellBytes ((elemList b.bf16 r.bytes).foldl normElem n)) ∧ w.status = .ok) ∧
    (∃ (s : State) (cid : Nat) (c : Cmd),
      cmdServed s cid 0x41 normAccNames = some c ∧ (normBody (cmdBody c)).resv ≠ 0) :=
  ⟨⟨updS, 1, noErr, updCmd, updB, _, _, _, _, _, (by decide +kernel), (by decide +kernel), (by decide +kernel), (by decide +kernel), (by decide +kernel), rfl, (by decide +kernel), rfl, (by decide +kernel), (by decide +kernel), (by decide +kernel), (by decide +kernel), (by decide +kernel), rfl, rfl, (by decide +kernel), rfl, (by decide +kernel)⟩,
    ⟨updN true, 1, noErr, updNCmd, _, _, _, _, _, (by decide +kernel), rfl, (by decide +kernel), (by decide +kernel), (by decide +kernel), rfl, (by decide +kernel), rfl, (by decide +kernel), (by decide +kernel), rfl, (by decide +kernel), rfl, (by decide +kernel), (by decide +kernel), (by decide +kernel), (by decide +kernel), (by decide +kernel), (by decide +kernel)⟩,
    ⟨updN false, 1, noErr, updNCmd, _, _, _, _, _, (by decide +kernel), rfl, (by decide +kernel), (by decide +kernel), (by decide +kernel), rfl, (by decide +kernel), rfl, (by decide +kernel), (by decide +kernel), rfl, (by decide +kernel), rfl, (by decide +kernel), (by decide +kernel), (by decide +kernel), (by decide +kernel), (by decide +kernel), (by decide +kernel)⟩,
    ⟨runs1 (cmdOf 0x40 [(0, 287), (1, 1)]), 1, noErr, cmdOf 0x40 [(0, 287), (1, 1)], by decide +kernel⟩,
    ⟨(runs1 (cmdOf 0x41 [(2 ^ 21, 48), (0, 1), (1, 1), (1, 32), ((2 ^ 21 + 4096) / 64, 42), (7, 32)])), 1, (cmdOf 0x41 [(2 ^ 21, 48), (0, 1), (1, 1), (1, 32), ((2 ^ 21 + 4096) / 64, 42), (7, 32)]), normBody (cmdBody (cmdOf 0x41 [(2 ^ 21, 48), (0, 1), (1, 1), (1, 32), ((2 ^ 21 + 4096) / 64, 42), (7, 32)])), _, _, _, _, (by decide +kernel), (by decide +kernel), (by decide +kernel), (by decide +kernel), (by decide +kernel), (by decide +kernel), rfl, rfl, (by decide +kernel), rfl, (by decide +kernel), rfl, (by decide +kernel)⟩,
    ⟨runs1 (cmdOf 0x41 [(0, 157), (1, 1)]), 1, cmdOf 0x41 [(0, 157), (1, 1)], by decide +kernel⟩⟩

/-- Concrete states and operands that meet the hypotheses of LinksTrainAtTheHighestMode, clause by clause. -/
theorem wit_LinksTrainAtTheHighestMode :
    (∃ (cap : Nat) (m : Nat) (p : PeerInfo),
      m ≠ 0) ∧
    (∃ (s : State) (n : Nat) (p : PeerInfo) (i : Instr),
      (i = .linkTrain n p ∨ i = .linkCapabilityRetry n p) ∧ n < s.fabric.links.length ∧ clockStopped s (72 + n) = false ∧ (linkOf s n).state = 1 ∧ linkMay s n = true ∧ p.answers = true ∧ (isTwinLink s n = false ∨ twinPeer s = none ∨ twinPeer s = some (p.peerId % 4096)) ∧ trainMode (linkCap s n) p ≠ 0) ∧
    (∃ (s : State) (n : Nat) (p : PeerInfo) (i : Instr),
      (i = .linkTrain n p ∨ i = .linkCapabilityRetry n p) ∧ n < s.fabric.links.length ∧ clockStopped s (72 + n) = false ∧ (linkOf s n).state = 1 ∧ linkMay s n = true ∧ p.answers = true ∧ (isTwinLink s n = false ∨ twinPeer s = none ∨ twinPeer s = some (p.peerId % 4096)) ∧ trainMode (linkCap s n) p ≠ 0) ∧
    (∃ (s : State) (n : Nat) (p : PeerInfo) (i : Instr),
      (i = .linkTrain n p ∨ i = .linkCapabilityRetry n p) ∧ n < s.fabric.links.length ∧ clockStopped s (72 + n) = false ∧ (linkOf s n).state = 1 ∧ linkMay s n = true ∧ p.answers = true ∧ (isTwinLink s n = false ∨ twinPeer s = none ∨ twinPeer s = some (p.peerId % 4096)) ∧ trainMode (linkCap s n) p = 0) ∧
    (∃ (s : State) (n : Nat) (p : PeerInfo) (i : Instr),
      (i = .linkTrain n p ∨ i = .linkCapabilityRetry n p) ∧ n < s.fabric.links.length ∧ clockStopped s (72 + n) = false ∧ (linkOf s n).state = 1 ∧ linkMay s n = true ∧ p.answers = true ∧ (isTwinLink s n = false ∨ twinPeer s = none ∨ twinPeer s = some (p.peerId % 4096)) ∧ trainMode (linkCap s n) p = 0) ∧
    (∃ (s : State) (n : Nat) (k : Nat) (p : PeerInfo) (i : Instr),
      (i = .linkTrain n p ∨ i = .linkCapabilityRetry n p) ∧ n < s.fabric.links.length ∧ clockStopped s (72 + n) = false ∧ (linkOf s n).state = 1 ∧ linkMay s n = true ∧ p.answers = true ∧ isTwinLink s n = true ∧ twinPeer s = some k ∧ k ≠ p.peerId % 4096) ∧
    (∃ (s : State) (n : Nat) (k : Nat) (p : PeerInfo) (i : Instr),
      (i = .linkTrain n p ∨ i = .linkCapabilityRetry n p) ∧ n < s.fabric.links.length ∧ clockStopped s (72 + n) = false ∧ (linkOf s n).state = 1 ∧ linkMay s n = true ∧ p.answers = true ∧ isTwinLink s n = true ∧ twinPeer s = some k ∧ k ≠ p.peerId % 4096) ∧
    (∃ (s : State) (n : Nat) (p : PeerInfo) (i : Instr),
      (i = .linkTrain n p ∨ i = .linkCapabilityRetry n p) ∧ (p.answers = false ∨ (linkOf s n).state ≠ 1 ∨ linkMay s n = false)) ∧
    (∃ (s : State) (n : Nat) (p : PeerInfo) (i : Instr),
      (i = .linkTrain n p ∨ i = .linkCapabilityRetry n p) ∧ (p.answers = false ∨ (linkOf s n).state ≠ 1 ∨ linkMay s n = false)) ∧
    (∃ (s : State) (n : Nat) (p : PeerInfo) (i : Instr),
      (i = .linkTrain n p ∨ i = .linkCapabilityRetry n p) ∧ (p.answers = false ∨ (linkOf s n).state ≠ 1 ∨ linkMay s n = false)) :=
  ⟨⟨3, 3, peer3, by decide +kernel⟩,
    ⟨{ up with fabric := { links := { state := 1 } :: List.replicate 47 {} } }, 0, peer3, .linkTrain 0 peer3, by decide +kernel⟩,
    ⟨{ up with fabric := { links := { state := 1 } :: List.replicate 47 {} } }, 0, peer3, .linkCapabilityRetry 0 peer3, by decide +kernel⟩,
    ⟨{ up with fabric := { links := { state := 1 } :: List.replicate 47 {} } }, 0, { peer3 with laneFault := 1 }, .linkTrain 0 { peer3 with laneFault := 1 }, by decide +kernel⟩,
    ⟨{ up with fabric := { links := { state := 1 } :: List.replicate 47 {} } }, 0, { peer3 with laneFault := 1 }, .linkCapabilityRetry 0 { peer3 with laneFault := 1 }, by decide +kernel⟩,
    ⟨{ up with rig := { active := { twinNamed := true, twinId := 4, twinLinks := 1 } }, fabric := { links := { state := 1 } :: List.replicate 47 {} } }, 0, 4, peer3, .linkTrain 0 peer3, by decide +kernel⟩,
    ⟨{ up with rig := { active := { twinNamed := true, twinId := 4, twinLinks := 1 } }, fabric := { links := { state := 1 } :: List.replicate 47 {} } }, 0, 4, peer3, .linkCapabilityRetry 0 peer3, by decide +kernel⟩,
    ⟨{ up with fabric := { links := { state := 1 } :: List.replicate 47 {} } }, 0, { peer3 with answers := false }, .linkTrain 0 { peer3 with answers := false }, by decide +kernel⟩,
    ⟨up, 0, peer3, .linkCapabilityRetry 0 peer3, by decide +kernel⟩,
    ⟨{ up with fabric := { links := { state := 1, holdDown := true } :: List.replicate 47 {} } }, 0, peer3, .linkTrain 0 peer3, by decide +kernel⟩⟩

/-- Concrete states and operands that meet the hypotheses of CodewordsAreTakenInOrder, clause by clause. -/
theorem wit_CodewordsAreTakenInOrder :
    (∃ (s : State) (n : Nat) (cw : Codeword),
      linkUp s n = true ∧ n < s.fabric.links.length ∧ settled s ∧ cw.fec ≠ .failed ∧ cw.seq % 4096 = (linkOf s n).rxSeq) ∧
    (∃ (s : State) (n : Nat) (cw : Codeword),
      linkUp s n = true ∧ settled s ∧ cw.fec ≠ .failed ∧ cw.seq % 4096 ≠ (linkOf s n).rxSeq) ∧
    (∃ (s : State) (n : Nat) (cw : Codeword),
      linkUp s n = true ∧ settled s ∧ cw.fec = .failed ∧ (linkOf s n).fails + 1 < 8) ∧
    (∃ (s : State) (n : Nat) (cw : Codeword),
      linkUp s n = true ∧ n < s.fabric.links.length ∧ settled s ∧ cw.fec = .failed ∧ 8 ≤ (linkOf s n).fails + 1 ∧ (∀ t ∈ s.fabric.trackers, t.link = n → t.acked = true)) ∧
    (∃ (s : State) (n : Nat) (cw : Codeword),
      linkUp s n = false ∧ settled s) :=
  ⟨⟨fab, 0, cw0, by decide +kernel⟩,
    ⟨fab, 0, { cw0 with seq := 4 }, by decide +kernel⟩,
    ⟨fab, 0, { cw0 with fec := .failed }, by decide +kernel⟩,
    ⟨{ fab with fabric := { fab.fabric with links := { upLink with fails := 7 } :: List.replicate 47 {} } }, 0, { cw0 with fec := .failed }, by decide +kernel⟩,
    ⟨up, 0, cw0, by decide +kernel⟩⟩

/-- Concrete states and operands that meet the hypotheses of LinkResetFailsWhatItHeld, clause by clause. -/
theorem wit_LinkResetFailsWhatItHeld :
    (∃ (s : State) (n : Nat),
      linkUp s n = true ∧ n < s.fabric.links.length ∧ settled s ∧ s.fabric.waiting = [] ∧ (∀ u ∈ s.fabric.trackers, u.link = n → u.acked = false → ∃ cid, u.owner = .command cid)) ∧
    (∃ (s : State) (n : Nat),
      linkUp s n = false) ∧
    (∃ (s : State) (p : Port) (tag : Nat) (n : Nat) (v : Word) (i : Instr),
      (i = .linkCtrlReset p tag n v ∨ i = .linkHoldDown p tag n v) ∧ mayWrite s p ∧ n < 48 ∧ n < s.fabric.links.length ∧ settled s ∧ v.getLsbD 0 = true ∧ (∀ u ∈ s.fabric.trackers, u.link = n → u.acked = true)) ∧
    (∃ (s : State) (p : Port) (tag : Nat) (n : Nat) (v : Word) (i : Instr),
      (i = .linkCtrlReset p tag n v ∨ i = .linkHoldDown p tag n v) ∧ mayWrite s p ∧ n < 48 ∧ n < s.fabric.links.length ∧ settled s ∧ v.getLsbD 0 = true ∧ (∀ u ∈ s.fabric.trackers, u.link = n → u.acked = true)) ∧
    (∃ (s : State) (p : Port) (tag : Nat) (n : Nat) (v : Word) (i : Instr),
      (i = .linkCtrlReset p tag n v ∨ i = .linkHoldDown p tag n v) ∧ mayWrite s p ∧ n < 48 ∧ n < s.fabric.links.length ∧ settled s ∧ v.getLsbD 0 = true ∧ (∀ u ∈ s.fabric.trackers, u.link = n → u.acked = true)) ∧
    (∃ (s : State) (p : Port) (tag : Nat) (n : Nat) (v : Word) (i : Instr),
      (i = .linkCtrlReset p tag n v ∨ i = .linkHoldDown p tag n v) ∧ mayWrite s p ∧ n < 48 ∧ n < s.fabric.links.length ∧ settled s ∧ v.getLsbD 0 = true ∧ (∀ u ∈ s.fabric.trackers, u.link = n → u.acked = true)) ∧
    (∃ (s : State) (p : Port) (tag : Nat) (n : Nat) (v : Word) (i : Instr),
      (i = .linkCtrlReset p tag n v ∨ i = .linkHoldDown p tag n v) ∧ mayWrite s p ∧ n < 48 ∧ n < s.fabric.links.length ∧ settled s ∧ v.getLsbD 0 = false ∧ v.getLsbD 1 = true ∧ (linkOf s n).holdDown = false ∧ (∀ u ∈ s.fabric.trackers, u.link = n → u.acked = true)) ∧
    (∃ (s : State) (p : Port) (tag : Nat) (n : Nat) (v : Word) (i : Instr),
      (i = .linkCtrlReset p tag n v ∨ i = .linkHoldDown p tag n v) ∧ mayWrite s p ∧ n < 48 ∧ n < s.fabric.links.length ∧ settled s ∧ v.getLsbD 0 = false ∧ v.getLsbD 1 = true ∧ (linkOf s n).holdDown = false ∧ (∀ u ∈ s.fabric.trackers, u.link = n → u.acked = true)) ∧
    (∃ (s : State) (p : Port) (tag : Nat) (n : Nat) (v : Word) (i : Instr),
      (i = .linkCtrlReset p tag n v ∨ i = .linkHoldDown p tag n v) ∧ mayWrite s p ∧ n < 48 ∧ v.getLsbD 0 = false ∧ (linkOf s n).holdDown = v.getLsbD 1) ∧
    (∃ (s : State) (p : Port) (tag : Nat) (n : Nat) (v : Word) (i : Instr),
      (i = .linkCtrlReset p tag n v ∨ i = .linkHoldDown p tag n v) ∧ mayWrite s p ∧ n < 48 ∧ v.getLsbD 0 = false ∧ (linkOf s n).holdDown = v.getLsbD 1) :=
  ⟨⟨{ runs1 (cmdOf 2 []) with rig := fab.rig, keys := fab.keys, fabric := { fab.fabric with trackers := [trk], highWater := 1 } }, 0, (by decide +kernel), (by decide +kernel), (by decide +kernel), (by decide +kernel), (by intro u h _ _; cases h with | head => exact ⟨1, rfl⟩ | tail _ h => cases h)⟩,
    ⟨up, 0, by decide +kernel⟩,
    ⟨fab, .a, 1, 0, 0x1#64, .linkCtrlReset .a 1 0 0x1#64, by decide +kernel⟩,
    ⟨fab, .a, 1, 0, 0x1#64, .linkHoldDown .a 1 0 0x1#64, by decide +kernel⟩,
    ⟨fab, .a, 1, 0, 0x3#64, .linkCtrlReset .a 1 0 0x3#64, by decide +kernel⟩,
    ⟨fab, .a, 1, 0, 0x3#64, .linkHoldDown .a 1 0 0x3#64, by decide +kernel⟩,
    ⟨fab, .a, 1, 0, 0x2#64, .linkCtrlReset .a 1 0 0x2#64, by decide +kernel⟩,
    ⟨fab, .a, 1, 0, 0x2#64, .linkHoldDown .a 1 0 0x2#64, by decide +kernel⟩,
    ⟨fab, .a, 1, 0, 0x0#64, .linkCtrlReset .a 1 0 0x0#64, by decide +kernel⟩,
    ⟨fab, .a, 1, 0, 0x0#64, .linkHoldDown .a 1 0 0x0#64, by decide +kernel⟩⟩

/-- Concrete states and operands that meet the hypotheses of TransitHopsAreBounded, clause by clause. -/
theorem wit_TransitHopsAreBounded :
    (∃ (s : State) (n : Nat) (p : Packet) (be : BufErr),
      linkUp s n = true ∧ p.dst ≠ s.rig.active.moduleId ∧ bufBad be = false ∧ 31 ≤ p.hops) ∧
    (∃ (s : State) (n : Nat) (m : Nat) (p : Packet) (be : BufErr),
      linkUp s n = true ∧ p.dst ≠ s.rig.active.moduleId ∧ bufBad be = false ∧ p.hops < 31 ∧ pickLink s p.dst = some m ∧ (((linkOf s n).peerNt420 || (linkOf s m).peerNt420) = true → p.dst ≤ 1023 ∧ p.src ≤ 1023)) ∧
    (∃ (s : State) (n : Nat) (p : Packet) (be : BufErr),
      linkUp s n = true ∧ p.dst ≠ s.rig.active.moduleId ∧ bufBad be = false ∧ p.hops < 31 ∧ (pickLink s p.dst = none ∨ ∃ m, pickLink s p.dst = some m ∧ ((linkOf s n).peerNt420 || (linkOf s m).peerNt420) = true ∧ (1023 < p.dst ∨ 1023 < p.src))) ∧
    (∃ (s : State) (n : Nat) (p : Packet) (be : BufErr),
      linkUp s n = true ∧ p.dst ≠ s.rig.active.moduleId ∧ bufBad be = true) ∧
    (∃ (s : State) (n : Nat) (p : Packet) (be : BufErr),
      p.dst = s.rig.active.moduleId) :=
  ⟨⟨fab, 0, { blankPacket with dst := 9, src := 7, hops := 31 }, [], by decide +kernel⟩,
    ⟨fab, 0, 0, { blankPacket with dst := 9, src := 7, hops := 30 }, [], by decide +kernel⟩,
    ⟨{ fab with rig := { active := { fab.rig.active with routes := [] } } }, 0, { blankPacket with dst := 20, src := 7, hops := 0 }, [], by decide +kernel⟩,
    ⟨fab, 0, { blankPacket with dst := 9, src := 7, hops := 0 }, badBuf, by decide +kernel⟩,
    ⟨fab, 0, { blankPacket with dst := 5, src := 7, hops := 0 }, badBuf, by decide +kernel⟩⟩

/-- Concrete states and operands that meet the hypotheses of ReceivedPacketsAreChecked, clause by clause. -/
theorem wit_ReceivedPacketsAreChecked :
    (∃ (s : State) (u : State) (n : Nat) (p : Packet) (ok : Bool),
      linkUp s n = true ∧ p.dst = s.rig.active.moduleId ∧ p.type ≠ 9 ∧ p.type ≠ 14 ∧ u = ingressFree s n (flitsOf p) ∧ (isRequest p.type = false ∨ lengthOk p = false)) ∧
    (∃ (s : State) (u : State) (n : Nat) (p : Packet) (ok : Bool),
      linkUp s n = true ∧ p.dst = s.rig.active.moduleId ∧ p.type ≠ 9 ∧ p.type ≠ 14 ∧ u = ingressFree s n (flitsOf p) ∧ (isRequest p.type = false ∨ lengthOk p = false)) ∧
    (∃ (s : State) (u : State) (n : Nat) (p : Packet) (ok : Bool),
      linkUp s n = true ∧ p.dst = s.rig.active.moduleId ∧ isRequest p.type = true ∧ u = ingressFree s n (flitsOf p) ∧ lengthOk p = true ∧ noFabKey s = true) ∧
    (∃ (s : State) (u : State) (n : Nat) (p : Packet) (ok : Bool),
      linkUp s n = true ∧ p.dst = s.rig.active.moduleId ∧ isRequest p.type = true ∧ u = ingressFree s n (flitsOf p) ∧ lengthOk p = true ∧ noFabKey s = false ∧ (holdsGen s p.keyGen && ok) = false) ∧
    (∃ (s : State) (u : State) (n : Nat) (p : Packet) (ok : Bool),
      linkUp s n = true ∧ p.dst = s.rig.active.moduleId ∧ isRequest p.type = true ∧ u = ingressFree s n (flitsOf p) ∧ lengthOk p = true ∧ noFabKey s = false ∧ (holdsGen s p.keyGen && ok) = false) ∧
    (∃ (s : State) (u : State) (n : Nat) (p : Packet),
      linkUp s n = true ∧ p.dst = s.rig.active.moduleId ∧ isRequest p.type = true ∧ u = ingressFree s n (flitsOf p) ∧ lengthOk p = true ∧ noFabKey s = false ∧ holdsGen s p.keyGen = true ∧ p.seq ∈ windowGet s.fabric p.src p.keyGen) ∧
    (∃ (s : State) (u : State) (n : Nat) (p : Packet),
      linkUp s n = true ∧ p.dst = s.rig.active.moduleId ∧ isRequest p.type = true ∧ u = windowTake (ingressFree s n (flitsOf p)) p ∧ lengthOk p = true ∧ noFabKey s = false ∧ holdsGen s p.keyGen = true ∧ windowPass (windowGet s.fabric p.src p.keyGen) p.seq = true ∧ (routeOf s p.src).isSome = true ∧ requestWaits u n p = false) ∧
    (∃ (s : State) (u : State) (n : Nat) (p : Packet),
      linkUp s n = true ∧ p.dst = s.rig.active.moduleId ∧ p.type = 0xD ∧ lengthOk p = true ∧ u = windowTake (ingressFree s n (flitsOf p)) p ∧ noFabKey s = false ∧ holdsGen s p.keyGen = true ∧ windowPass (windowGet s.fabric p.src p.keyGen) p.seq = true ∧ (routeOf s p.src).isSome = true ∧ s.rig.state ≠ .committing) ∧
    (∃ (s : State) (n : Nat) (p : Packet) (ok : Bool) (be : BufErr) (i : Instr),
      linkUp s n = true ∧ p.dst = s.rig.active.moduleId ∧ bufBad be = true ∧ ((i = .requestReceive n p ok be ∧ p.type ≠ 9 ∧ p.type ≠ 14) ∨ (i = .responseReceive n p ok be ∧ (p.type = 9 ∨ p.type = 14)))) ∧
    (∃ (s : State) (n : Nat) (p : Packet) (ok : Bool) (be : BufErr) (i : Instr),
      linkUp s n = true ∧ p.dst = s.rig.active.moduleId ∧ bufBad be = true ∧ ((i = .requestReceive n p ok be ∧ p.type ≠ 9 ∧ p.type ≠ 14) ∨ (i = .responseReceive n p ok be ∧ (p.type = 9 ∨ p.type = 14)))) ∧
    (∃ (s : State) (u : State) (n : Nat) (p : Packet) (ok : Bool),
      linkUp s n = true ∧ p.dst = s.rig.active.moduleId ∧ (p.type = 9 ∨ p.type = 14) ∧ u = ingressFree s n (flitsOf p) ∧ (holdsGen s p.keyGen && ok) = false) ∧
    (∃ (s : State) (u : State) (n : Nat) (p : Packet) (ok : Bool),
      linkUp s n = true ∧ p.dst = s.rig.active.moduleId ∧ (p.type = 9 ∨ p.type = 14) ∧ u = ingressFree s n (flitsOf p) ∧ (holdsGen s p.keyGen && ok) = false) ∧
    (∃ (s : State) (u : State) (n : Nat) (p : Packet),
      linkUp s n = true ∧ p.dst = s.rig.active.moduleId ∧ (p.type = 9 ∨ p.type = 14) ∧ u = windowTake (ingressFree s n (flitsOf p)) p ∧ holdsGen s p.keyGen = true ∧ windowPass (windowGet s.fabric p.src p.keyGen) p.seq = true ∧ (∀ t ∈ s.fabric.trackers, ¬ (t.txn = p.txn ∧ t.seq = p.echo))) ∧
    (∃ (s : State) (n : Nat) (cid : Nat) (p : Packet) (t : Tracker),
      linkUp s n = true ∧ p.dst = s.rig.active.moduleId ∧ p.type = 14 ∧ p.status = 0 ∧ holdsGen s p.keyGen = true ∧ windowPass (windowGet s.fabric p.src p.keyGen) p.seq = true ∧ s.fabric.trackers = [t] ∧ t.txn = p.txn ∧ t.seq = p.echo ∧ t.owner = .command cid ∧ settled s ∧ s.fabric.waiting = []) ∧
    (∃ (s : State) (cid : Nat) (t : Tracker) (c : Cmd),
      s.fabric.trackers = [t] ∧ t.owner = .command cid ∧ settled s ∧ s.fabric.waiting = [] ∧ cmdGet s cid = some c ∧ cmdLive c = true) :=
  ⟨⟨fab, _, 0, { msgIn with bytes := 40 }, true, (by decide +kernel), (by decide +kernel), (by decide +kernel), (by decide +kernel), rfl, (by decide +kernel)⟩,
    ⟨fab, _, 0, { msgIn with type := 1 }, true, (by decide +kernel), (by decide +kernel), (by decide +kernel), (by decide +kernel), rfl, (by decide +kernel)⟩,
    ⟨{ fab with keys := up.keys }, _, 0, msgIn, true, (by decide +kernel), (by decide +kernel), (by decide +kernel), rfl, (by decide +kernel), (by decide +kernel)⟩,
    ⟨fab, _, 0, msgIn, false, (by decide +kernel), (by decide +kernel), (by decide +kernel), rfl, (by decide +kernel), (by decide +kernel), (by decide +kernel)⟩,
    ⟨fab, _, 0, { msgIn with keyGen := true }, true, (by decide +kernel), (by decide +kernel), (by decide +kernel), rfl, (by decide +kernel), (by decide +kernel), (by decide +kernel)⟩,
    ⟨{ fab with fabric := { fab.fabric with windows := [((9, false), [0])] } }, _, 0, msgIn, (by decide +kernel), (by decide +kernel), (by decide +kernel), rfl, (by decide +kernel), (by decide +kernel), (by decide +kernel), (by decide +kernel)⟩,
    ⟨fab, _, 0, msgIn, (by decide +kernel), (by decide +kernel), (by decide +kernel), rfl, (by decide +kernel), (by decide +kernel), (by decide +kernel), (by decide +kernel), (by decide +kernel), (by decide +kernel)⟩,
    ⟨fab, _, 0, msgIn, (by decide +kernel), (by decide +kernel), (by decide +kernel), (by decide +kernel), rfl, (by decide +kernel), (by decide +kernel), (by decide +kernel), (by decide +kernel), (by decide +kernel)⟩,
    ⟨fab, 0, msgIn, true, badBuf, .requestReceive 0 msgIn true badBuf, by decide +kernel⟩,
    ⟨fab, 0, ackIn, true, badBuf, .responseReceive 0 ackIn true badBuf, by decide +kernel⟩,
    ⟨fab, _, 0, ackIn, false, (by decide +kernel), (by decide +kernel), (by decide +kernel), rfl, (by decide +kernel)⟩,
    ⟨fab, _, 0, { ackIn with type := 9 }, false, (by decide +kernel), (by decide +kernel), (by decide +kernel), rfl, (by decide +kernel)⟩,
    ⟨fab, _, 0, ackIn, (by decide +kernel), (by decide +kernel), (by decide +kernel), rfl, (by decide +kernel), (by decide +kernel), (by decide +kernel)⟩,
    ⟨{ runs1 (cmdOf 2 []) with rig := fab.rig, keys := fab.keys, fabric := { fab.fabric with trackers := [trk], highWater := 1 } }, 0, 1, ackIn, trk, by decide +kernel⟩,
    ⟨{ runs1 (cmdOf 2 []) with rig := fab.rig, keys := fab.keys, fabric := { fab.fabric with trackers := [trk], highWater := 1 } }, 1, trk, cmdOf 2 [], by decide +kernel⟩⟩

/-- Concrete states and operands that meet the hypotheses of EgressArbiterFollowsClasses, clause by clause. -/
theorem wit_EgressArbiterFollowsClasses :
    (∃ (s : State) (n : Nat) (r : Nat) (w : Nat) (o : Outgoing),
      n < 48 ∧ n < s.fabric.links.length ∧ clockStopped s (72 + n) = false ∧ r < 14 ∧ (linkOf s n).reqs.length = 14 ∧ (linkOf s n).state = 2 ∧ canSend s (linkOf s n) (some r) r = true ∧ (linkOf s n).sending = none ∧ egressWinner s n (linkOf s n) (some r) = some w ∧ nextOut (linkOf s n) w = some o ∧ flitsOf o.pkt ≤ (linkOf s n).credit) ∧
    (∃ (s : State) (n : Nat) (r : Nat) (q : Nat) (k : Nat) (o : Outgoing),
      n < 48 ∧ n < s.fabric.links.length ∧ clockStopped s (72 + n) = false ∧ r < 14 ∧ q < 14 ∧ (linkOf s n).reqs.length = 14 ∧ (linkOf s n).state = 2 ∧ canSend s (linkOf s n) (some r) r = true ∧ (linkOf s n).sending = some (q, o, k) ∧ s.rig.active.strict = false ∧ linkClass s n q < linkClass s n r) ∧
    (∃ (s : State) (n : Nat) (r : Nat) (q : Nat) (k : Nat) (o : Outgoing),
      n < 48 ∧ (linkOf s n).sending = some (q, o, k) ∧ linkClass s n r ≤ linkClass s n q) ∧
    (∃ (s : State) (n : Nat) (r : Nat),
      n < 48 ∧ n < s.fabric.links.length ∧ clockStopped s (72 + n) = false ∧ r < 14 ∧ (linkOf s n).reqs.length = 14 ∧ (reqOf (linkOf s n) r).backoff = true) :=
  ⟨⟨fabQ { queue := [outP] } {} 0 none, 0, 2, 2, outP, by decide +kernel⟩,
    ⟨fabQ {} { queue := [outP] } 0x40#32 (some (2, outP, 1)), 0, 3, 2, 1, outP, by decide +kernel⟩,
    ⟨fabQ {} { queue := [outP] } 0 (some (2, outP, 1)), 0, 3, 2, 1, outP, by decide +kernel⟩,
    ⟨fabQ { backoff := true, losses := 3 } {} 0 none, 0, 2, by decide +kernel⟩⟩

theorem wit_CollectivesAreCheckedThenStart_0 :
    ∃ (s : State) (cid : Nat) (c : Cmd) (i : Instr) (r : Result),
      ((i = .collective cid ∧ cmdServed s cid 0x50 colNames = some c) ∨ (i = .normReduce cid ∧ cmdServed s cid 0x51 colNames = some c) ∨ (i = .collectiveSeqReady cid ∧ colWaiting s cid = some c ∧ spansFill s c.space (colNames s c) = false)) ∧ settled s ∧ (colCheck s c).result = .error r :=
  ⟨colS (cmdOf 0x50 [(0, 263), (1, 1)]), 1, (cmdOf 0x50 [(0, 263), (1, 1)]), .collective 1, resultOf .badDescriptor, (by decide +kernel), (by decide +kernel), errOf (by decide +kernel)⟩

theorem wit_CollectivesAreCheckedThenStart_1 :
    ∃ (s : State) (cid : Nat) (c : Cmd) (i : Instr) (r : Result),
      ((i = .collective cid ∧ cmdServed s cid 0x50 colNames = some c) ∨ (i = .normReduce cid ∧ cmdServed s cid 0x51 colNames = some c) ∨ (i = .collectiveSeqReady cid ∧ colWaiting s cid = some c ∧ spansFill s c.space (colNames s c) = false)) ∧ settled s ∧ (colCheck s c).result = .error r :=
  ⟨colS (cmdOf 0x51 [(0, 148), (1, 1)]), 1, (cmdOf 0x51 [(0, 148), (1, 1)]), .normReduce 1, resultOf .badDescriptor, (by decide +kernel), (by decide +kernel), errOf (by decide +kernel)⟩

theorem wit_CollectivesAreCheckedThenStart_2 :
    ∃ (s : State) (cid : Nat) (c : Cmd) (i : Instr) (r : Result),
      ((i = .collective cid ∧ cmdServed s cid 0x50 colNames = some c) ∨ (i = .normReduce cid ∧ cmdServed s cid 0x51 colNames = some c) ∨ (i = .collectiveSeqReady cid ∧ colWaiting s cid = some c ∧ spansFill s c.space (colNames s c) = false)) ∧ settled s ∧ (colCheck s c).result = .error r :=
  ⟨colS { cmdOf 0x50 [(0, 263), (1, 1)] with phase := .waiting }, 1, { cmdOf 0x50 [(0, 263), (1, 1)] with phase := .waiting }, .collectiveSeqReady 1, resultOf .badDescriptor, (by decide +kernel), (by decide +kernel), errOf (by decide +kernel)⟩

theorem wit_CollectivesAreCheckedThenStart_3 :
    ∃ (s : State) (cid : Nat) (c : Cmd) (i : Instr) (x : ColSlot),
      ((i = .collective cid ∧ cmdServed s cid 0x50 colNames = some c) ∨ (i = .normReduce cid ∧ cmdServed s cid 0x51 colNames = some c) ∨ (i = .collectiveSeqReady cid ∧ colWaiting s cid = some c ∧ spansFill s c.space (colNames s c) = false)) ∧ settled s ∧ (colCheck s c).result = .ok x ∧ (groupBusy s c = true ∨ (colCheck s c).ahead = true ∨ 64 ≤ s.col.slots.length) :=
  ⟨colS9, 1, colCmd, .collective 1, okVal (colCheck colS9 colCmd).result colX, (by decide +kernel), (by decide +kernel), (okGet (d := colX) (by decide +kernel)), (by decide +kernel)⟩

theorem wit_CollectivesAreCheckedThenStart_4 :
    ∃ (s : State) (cid : Nat) (c : Cmd) (i : Instr) (x : ColSlot),
      ((i = .collective cid ∧ cmdServed s cid 0x50 colNames = some c) ∨ (i = .normReduce cid ∧ cmdServed s cid 0x51 colNames = some c) ∨ (i = .collectiveSeqReady cid ∧ colWaiting s cid = some c ∧ spansFill s c.space (colNames s c) = false)) ∧ groupBusy s c = false ∧ (colCheck s c).result = .ok x ∧ (colCheck s c).ahead = false ∧ s.col.slots.length < 64 :=
  ⟨colS colCmd, 1, colCmd, .collective 1, colX, (by decide +kernel), (by decide +kernel), (by exact okOf (by decide +kernel)), (by decide +kernel), (by decide +kernel)⟩

theorem wit_CollectivesAreCheckedThenStart_5 :
    ∃ (s : State) (cid : Nat) (c : Cmd) (i : Instr) (x : ColSlot),
      ((i = .collective cid ∧ cmdServed s cid 0x50 colNames = some c) ∨ (i = .normReduce cid ∧ cmdServed s cid 0x51 colNames = some c) ∨ (i = .collectiveSeqReady cid ∧ colWaiting s cid = some c ∧ spansFill s c.space (colNames s c) = false)) ∧ settled s ∧ s.fabric.trackers = [] ∧ s.fabric.waiting = [] ∧ s.col.early = [] ∧ slotOf s cid = none ∧ groupBusy s c = false ∧ (colCheck s c).result = .ok x ∧ (colCheck s c).ahead = false ∧ s.col.slots.length < 64 ∧ x.cid = cid ∧ x.joins = [] ∧ otherRanks x = [] ∧ (∀ op ∈ x.prog, (∃ lo hi, op = .readOut lo hi) ∨ ∃ g, op = .readSeg g) :=
  ⟨colS colCmd, 1, colCmd, .collective 1, colX, (by decide +kernel), (by decide +kernel), (by decide +kernel), (by decide +kernel), (by decide +kernel), (by decide +kernel), (by decide +kernel), (by exact okOf (by decide +kernel)), (by decide +kernel), (by decide +kernel), (by decide +kernel), (by decide +kernel), (by decide +kernel), (by intro op h; cases h with | head => exact .inl ⟨0, 1, rfl⟩ | tail _ h => cases h)⟩

theorem wit_CollectivesAreCheckedThenStart_6 :
    ∃ (s : State) (s1 : State) (z : State) (u : State) (cid : Nat) (lo : Nat) (hi : Nat) (c : Cmd) (d : Cmd) (i : Instr) (k : ColCheck) (x : ColSlot) (y : ColSlot) (r : MemRead) (p : State × Option Result),
      ((i = .collective cid ∧ cmdServed s cid 0x50 colNames = some c) ∨ (i = .normReduce cid ∧ cmdServed s cid 0x51 colNames = some c) ∨ (i = .collectiveSeqReady cid ∧ colWaiting s cid = some c ∧ spansFill s c.space (colNames s c) = false)) ∧ settled s ∧ s.fabric.trackers = [] ∧ s.fabric.waiting = [] ∧ s.col.early = [] ∧ slotOf s cid = none ∧ groupBusy s c = false ∧ k = colCheck s c ∧ k.result = .ok x ∧ k.ahead = false ∧ s.col.slots.length < 64 ∧ x.cid = cid ∧ x.joins = [] ∧ otherRanks x = [] ∧ x.norm = false ∧ x.mine.op ≤ 1 ∧ x.mine.comp = 0 ∧ x.prog = [.readOut lo hi] ∧ d = { c with phase := .waiting } ∧ s1 = { k.st with sp := cmdMod k.st.sp cid fun q => { q with phase := .waiting }, col := { k.st.col with slots := k.st.col.slots ++ [x], highWater := max k.st.col.highWater (k.st.col.slots.length + 1) } } ∧ srcBytes x ≠ 0 ∧ r = readTake s1 c x.src (srcBytes x) ∧ r.status = .ok ∧ y = loadPlain x (srcNums x r.bytes) ∧ z = colMod r.st cid (fun _ => y) ∧ p = colPut z d (y.dst + (lo - dstBase y y.rank) * slotOutW y) ((readOuts y lo hi).flatMap fun q => natLe (slotOutW y) q.code) ∧ p.2 = none ∧ u = colMod p.1 cid (fun q => { q with prog := q.prog.drop 1, tally := colTally q.tally lo ((readOuts y lo hi).map (·.ev)) }) ∧ (groupPut u d y.group y.mine.seq).2 = none :=
  ⟨colS colCmd, colS1, colZ, colU, 1, 0, 1, colCmd, colD, .collective 1, colK, colX, colY, colR, colP, (by decide +kernel), (by decide +kernel), (by decide +kernel), (by decide +kernel), (by decide +kernel), (by decide +kernel), (by decide +kernel), rfl, (by exact okOf (by decide +kernel)), (by decide +kernel), (by decide +kernel), (by decide +kernel), (by decide +kernel), (by decide +kernel), (by decide +kernel), (by decide +kernel), (by decide +kernel), (by decide +kernel), rfl, rfl, (by decide +kernel), rfl, (by decide +kernel), rfl, rfl, rfl, (by decide +kernel), rfl, (by decide +kernel)⟩

/-- Concrete states and operands that meet the hypotheses of CollectivesAreCheckedThenStart, clause by clause. -/
theorem wit_CollectivesAreCheckedThenStart :
    (∃ (s : State) (cid : Nat) (c : Cmd) (i : Instr) (r : Result),
      ((i = .collective cid ∧ cmdServed s cid 0x50 colNames = some c) ∨ (i = .normReduce cid ∧ cmdServed s cid 0x51 colNames = some c) ∨ (i = .collectiveSeqReady cid ∧ colWaiting s cid = some c ∧ spansFill s c.space (colNames s c) = false)) ∧ settled s ∧ (colCheck s c).result = .error r) ∧
    (∃ (s : State) (cid : Nat) (c : Cmd) (i : Instr) (r : Result),
      ((i = .collective cid ∧ cmdServed s cid 0x50 colNames = some c) ∨ (i = .normReduce cid ∧ cmdServed s cid 0x51 colNames = some c) ∨ (i = .collectiveSeqReady cid ∧ colWaiting s cid = some c ∧ spansFill s c.space (colNames s c) = false)) ∧ settled s ∧ (colCheck s c).result = .error r) ∧
    (∃ (s : State) (cid : Nat) (c : Cmd) (i : Instr) (r : Result),
      ((i = .collective cid ∧ cmdServed s cid 0x50 colNames = some c) ∨ (i = .normReduce cid ∧ cmdServed s cid 0x51 colNames = some c) ∨ (i = .collectiveSeqReady cid ∧ colWaiting s cid = some c ∧ spansFill s c.space (colNames s c) = false)) ∧ settled s ∧ (colCheck s c).result = .error r) ∧
    (∃ (s : State) (cid : Nat) (c : Cmd) (i : Instr) (x : ColSlot),
      ((i = .collective cid ∧ cmdServed s cid 0x50 colNames = some c) ∨ (i = .normReduce cid ∧ cmdServed s cid 0x51 colNames = some c) ∨ (i = .collectiveSeqReady cid ∧ colWaiting s cid = some c ∧ spansFill s c.space (colNames s c) = false)) ∧ settled s ∧ (colCheck s c).result = .ok x ∧ (groupBusy s c = true ∨ (colCheck s c).ahead = true ∨ 64 ≤ s.col.slots.length)) ∧
    (∃ (s : State) (cid : Nat) (c : Cmd) (i : Instr) (x : ColSlot),
      ((i = .collective cid ∧ cmdServed s cid 0x50 colNames = some c) ∨ (i = .normReduce cid ∧ cmdServed s cid 0x51 colNames = some c) ∨ (i = .collectiveSeqReady cid ∧ colWaiting s cid = some c ∧ spansFill s c.space (colNames s c) = false)) ∧ groupBusy s c = false ∧ (colCheck s c).result = .ok x ∧ (colCheck s c).ahead = false ∧ s.col.slots.length < 64) ∧
    (∃ (s : State) (cid : Nat) (c : Cmd) (i : Instr) (x : ColSlot),
      ((i = .collective cid ∧ cmdServed s cid 0x50 colNames = some c) ∨ (i = .normReduce cid ∧ cmdServed s cid 0x51 colNames = some c) ∨ (i = .collectiveSeqReady cid ∧ colWaiting s cid = some c ∧ spansFill s c.space (colNames s c) = false)) ∧ settled s ∧ s.fabric.trackers = [] ∧ s.fabric.waiting = [] ∧ s.col.early = [] ∧ slotOf s cid = none ∧ groupBusy s c = false ∧ (colCheck s c).result = .ok x ∧ (colCheck s c).ahead = false ∧ s.col.slots.length < 64 ∧ x.cid = cid ∧ x.joins = [] ∧ otherRanks x = [] ∧ (∀ op ∈ x.prog, (∃ lo hi, op = .readOut lo hi) ∨ ∃ g, op = .readSeg g)) ∧
    (∃ (s : State) (s1 : State) (z : State) (u : State) (cid : Nat) (lo : Nat) (hi : Nat) (c : Cmd) (d : Cmd) (i : Instr) (k : ColCheck) (x : ColSlot) (y : ColSlot) (r : MemRead) (p : State × Option Result),
      ((i = .collective cid ∧ cmdServed s cid 0x50 colNames = some c) ∨ (i = .normReduce cid ∧ cmdServed s cid 0x51 colNames = some c) ∨ (i = .collectiveSeqReady cid ∧ colWaiting s cid = some c ∧ spansFill s c.space (colNames s c) = false)) ∧ settled s ∧ s.fabric.trackers = [] ∧ s.fabric.waiting = [] ∧ s.col.early = [] ∧ slotOf s cid = none ∧ groupBusy s c = false ∧ k = colCheck s c ∧ k.result = .ok x ∧ k.ahead = false ∧ s.col.slots.length < 64 ∧ x.cid = cid ∧ x.joins = [] ∧ otherRanks x = [] ∧ x.norm = false ∧ x.mine.op ≤ 1 ∧ x.mine.comp = 0 ∧ x.prog = [.readOut lo hi] ∧ d = { c with phase := .waiting } ∧ s1 = { k.st with sp := cmdMod k.st.sp cid fun q => { q with phase := .waiting }, col := { k.st.col with slots := k.st.col.slots ++ [x], highWater := max k.st.col.highWater (k.st.col.slots.length + 1) } } ∧ srcBytes x ≠ 0 ∧ r = readTake s1 c x.src (srcBytes x) ∧ r.status = .ok ∧ y = loadPlain x (srcNums x r.bytes) ∧ z = colMod r.st cid (fun _ => y) ∧ p = colPut z d (y.dst + (lo - dstBase y y.rank) * slotOutW y) ((readOuts y lo hi).flatMap fun q => natLe (slotOutW y) q.code) ∧ p.2 = none ∧ u = colMod p.1 cid (fun q => { q with prog := q.prog.drop 1, tally := colTally q.tally lo ((readOuts y lo hi).map (·.ev)) }) ∧ (groupPut u d y.group y.mine.seq).2 = none) :=
  ⟨wit_CollectivesAreCheckedThenStart_0,
    wit_CollectivesAreCheckedThenStart_1,
    wit_CollectivesAreCheckedThenStart_2,
    wit_CollectivesAreCheckedThenStart_3,
    wit_CollectivesAreCheckedThenStart_4,
    wit_CollectivesAreCheckedThenStart_5,
    wit_CollectivesAreCheckedThenStart_6⟩

/-- Concrete states and operands that meet the hypotheses of CollectiveMessagesFromMembers, clause by clause. -/
theorem wit_CollectiveMessagesFromMembers :
    (∃ (s : State) (src : Nat) (j : Join),
      settled s ∧ slotFor s src j.digest j.seq = none) ∧
    (∃ (s : State) (src : Nat) (j : Join) (x : ColSlot),
      slotFor s src j.digest j.seq = some x ∧ joinsAgree x.mine j = true) ∧
    (∃ (s : State) (src : Nat) (j : Join) (x : ColSlot) (c : Cmd),
      settled s ∧ slotFor s src j.digest j.seq = some x ∧ joinsAgree x.mine j = false ∧ cmdGet s x.cid = some c ∧ cmdLive c = true) ∧
    (∃ (s : State) (src : Nat) (seq : Nat) (d : W256),
      settled s ∧ slotFor s src d seq = none) ∧
    (∃ (s : State) (src : Nat) (seq : Nat) (d : W256) (x : ColSlot),
      slotFor s src d seq = some x) ∧
    (∃ (s : State) (src : Nat) (seq : Nat) (d : W256),
      settled s ∧ slotFor s src d seq = none) ∧
    (∃ (s : State) (src : Nat) (seq : Nat) (d : W256) (x : ColSlot) (c : Cmd),
      settled s ∧ slotFor s src d seq = some x ∧ cmdGet s x.cid = some c ∧ cmdLive c = true) ∧
    (∃ (s : State) (cid : Nat) (x : ColSlot) (c : Cmd),
      settled s ∧ slotOf s cid = some x ∧ cmdGet s cid = some c ∧ cmdLive c = true ∧ unlikeJoins s x = []) ∧
    (∃ (s : State) (cid : Nat) (x : ColSlot) (c : Cmd),
      settled s ∧ slotOf s cid = some x ∧ cmdGet s cid = some c ∧ cmdLive c = true ∧ unlikeJoins s x ≠ []) ∧
    (∃ (s : State) (cid : Nat),
      settled s ∧ slotOf s cid = none) :=
  ⟨⟨slotS, 8, joinJ, by decide +kernel⟩,
    ⟨slotS, 9, joinJ, slotX, by decide +kernel⟩,
    ⟨slotS, 9, { joinJ with count := 2 }, slotX, { colCmd with phase := .waiting }, by decide +kernel⟩,
    ⟨slotS, 9, 1, 7, by decide +kernel⟩,
    ⟨slotS, 9, 0, 7, slotX, by decide +kernel⟩,
    ⟨slotS, 9, 1, 7, by decide +kernel⟩,
    ⟨slotS, 9, 0, 7, slotX, { colCmd with phase := .waiting }, by decide +kernel⟩,
    ⟨slotS, 1, slotX, { colCmd with phase := .waiting }, by decide +kernel⟩,
    ⟨{ slotS with col := { slotS.col with early := [(9, { joinJ with digest := 8 })] } }, 1, slotX, { colCmd with phase := .waiting }, by decide +kernel⟩,
    ⟨slotS, 2, by decide +kernel⟩⟩

/-- Concrete states and operands that meet the hypotheses of PairsFormAndResilver, clause by clause. -/
theorem wit_PairsFormAndResilver :
    (∃ (s : State) (nonce : W256) (ids : BitVec 32),
      s.dly.role ≠ .none ∧ s.dly.state = .unpaired ∧ s.dly.barred = false ∧ twinUp s = true ∧ s.keys.entropyOk = true ∧ s.keys.vaultOk = true ∧ s.keys.quotes.length < 64 ∧ settled s) ∧
    (∃ (s : State) (o : PairOffer),
      s.dly.role ≠ .none ∧ settled s ∧ (s.dly.state = .unpaired ∨ (s.dly.state = .pairing ∧ s.dly.offerOut = false))) ∧
    (∃ (s : State) (o : PairOffer) (r : Nat),
      s.dly.role ≠ .none ∧ s.dly.state = .pairing ∧ s.dly.offerOut = true ∧ s.keys.entropyOk = true ∧ settled s ∧ offerReason s o = some r) ∧
    (∃ (s : State) (o : PairOffer),
      s.dly.role = .primary ∧ s.dly.state = .pairing ∧ s.dly.offerOut = true ∧ s.keys.entropyOk = true ∧ settled s ∧ offerReason s o = none ∧ 5 < s.keys.slots.length) ∧
    (∃ (s : State) (o : PairOffer),
      s.dly.role = .twin ∧ s.dly.state = .pairing ∧ s.dly.offerOut = true ∧ settled s ∧ offerReason s o = none) ∧
    (∃ (s : State) (key : W256) (e : Nat) (g : Nat),
      s.dly.role = .twin ∧ s.dly.state = .pairing ∧ s.dly.offer.isSome = true ∧ 5 < s.keys.slots.length) ∧
    (∃ (s : State) (src : Nat) (link : Nat) (range : Nat) (off : Nat) (bs : List Byte) (w : MemWrite),
      s.dly.role = .twin ∧ s.dly.state = .resilvering ∧ src = s.dly.partner ∧ isTwinLink s link = true ∧ (linkOf s link).state = 2 ∧ range ∈ pairRanges s ∧ off + bs.length ≤ dataSize (rangeCfg s range) ∧ filling s range = false ∧ w = writePhys s {} ((rangeCfg s range).base + off) bs ∧ w.status = .ok) ∧
    (∃ (s : State),
      s.dly.state = .resilvering ∧ (s.dly.role = .twin ∨ (mirrorLines s ≤ s.dly.resilverPos ∧ resilverBusy s = false))) ∧
    (∃ (s : State),
      s.dly.state = .resilvering ∧ (s.dly.role = .twin ∨ (mirrorLines s ≤ s.dly.resilverPos ∧ resilverBusy s = false))) ∧
    (∃ (s : State) (n : Nat) (k : Nat) (link : Nat) (r : Nat × Nat),
      s.dly.role = .primary ∧ s.dly.state = .guarded ∧ s.dly.cut = none ∧ settled s ∧ canOriginate s = true ∧ pickTwinLink s = some link ∧ mirrorNext s = some r ∧ rangeAt s (r.1 * 64) = some n ∧ filling s n = false ∧ k = mirrorTake s n r.1 r.2 ∧ (readPhys s {} (r.1 * 64) (64 * k)).status = .ok ∧ systemOpen s = true) ∧
    (∃ (s : State) (n : Nat),
      s.dly.role = .primary ∧ s.dly.state = .guarded ∧ s.dly.cut = none ∧ settled s ∧ (s.dly.map = [] ∨ systemOpen s = false)) ∧
    (∃ (s : State) (n : Nat),
      s.dly.role = .primary ∧ s.dly.state = .guarded ∧ s.dly.cut = none ∧ settled s ∧ (s.dly.map = [] ∨ systemOpen s = false)) :=
  ⟨⟨tw { role := .primary, state := .unpaired }, 5, 1, by decide +kernel⟩,
    ⟨tw { role := .primary, state := .unpaired }, goodOffer { role := .primary, state := .unpaired }, by decide +kernel⟩,
    ⟨tw { role := .primary, state := .pairing, offerOut := true }, { goodOffer { role := .primary, state := .pairing, offerOut := true } with primary := true }, 1, by decide +kernel⟩,
    ⟨tw { role := .primary, state := .pairing, offerOut := true }, goodOffer { role := .primary, state := .pairing, offerOut := true }, (by decide +kernel), (by decide +kernel), (by decide +kernel), (by decide +kernel), (by decide +kernel), (goodOffer_none _ (by decide +kernel)), (by decide +kernel)⟩,
    ⟨tw { role := .twin, state := .pairing, offerOut := true }, goodOffer { role := .twin, state := .pairing, offerOut := true }, (by decide +kernel), (by decide +kernel), (by decide +kernel), (by decide +kernel), (goodOffer_none _ (by decide +kernel))⟩,
    ⟨tw { role := .twin, state := .pairing, offer := some (goodOffer { role := .twin, state := .pairing }) }, 5, 2, 3, by decide +kernel⟩,
    ⟨tw { role := .twin, state := .resilvering, partner := 9, mirrorIds := 1 }, _, 0, 0, 64, List.replicate 64 5, _, (by decide +kernel), (by decide +kernel), rfl, (by decide +kernel), (by decide +kernel), (by decide +kernel), (by decide +kernel), (by decide +kernel), rfl, (by decide +kernel)⟩,
    ⟨tw { role := .twin, state := .resilvering, partner := 9 }, by decide +kernel⟩,
    ⟨tw { role := .primary, state := .resilvering, partner := 9, resilverPos := 2 ^ 14 }, by decide +kernel⟩,
    ⟨tw { prim with map := [(0, 9)] }, 0, _, 0, (0, 9), (by decide +kernel), (by decide +kernel), (by decide +kernel), (by decide +kernel), (by decide +kernel), (by decide +kernel), (by decide +kernel), (by decide +kernel), (by decide +kernel), rfl, (by decide +kernel), (by decide +kernel)⟩,
    ⟨tw prim, 1, by decide +kernel⟩,
    ⟨shut (tw prim), 1, by decide +kernel⟩⟩

/-- Concrete states and operands that meet the hypotheses of CutsOnAPrimary, clause by clause. -/
theorem wit_CutsOnAPrimary :
    (∃ (s : State) (cid : Nat) (c : Cmd) (r : Result),
      cmdServed s cid 0x60 cutNames = some c ∧ settled s ∧ (cutCheck s c).2.1 = .error r) ∧
    (∃ (s : State) (cid : Nat) (c : Cmd) (x : CutRun × Bool),
      cmdServed s cid 0x60 cutNames = some c ∧ settled s ∧ (cutCheck s c).2.1 = .ok x ∧ s.dly.cut.isSome = true) ∧
    (∃ (s : State) (u : State) (cid : Nat) (c : Cmd) (run : CutRun),
      cmdServed s cid 0x60 cutNames = some c ∧ settled s ∧ s.dly.cut = none ∧ cutCheck s c = (u, .ok (run, true), true) ∧ paired s = true) ∧
    (∃ (s : State) (k : CutRun),
      s.dly.cut = some k ∧ k.stage = 0 ∧ settled s ∧ holdPressure s = true) ∧
    (∃ (s : State) (k : CutRun),
      s.dly.cut = some k ∧ k.stage = 0 ∧ settled s ∧ paired s = true ∧ holdPressure s = false ∧ s.dly.failed = []) ∧
    (∃ (s : State) (k : CutRun),
      s.dly.cut = some k ∧ k.stage = 2 ∧ settled s ∧ (s.dly.state = .guarded ∨ s.dly.state = .copied) ∧ (∀ v ∈ k.verdicts, v.2 = true) ∧ (∃ m ∈ k.members, m ≠ s.rig.active.moduleId ∧ assocGet k.verdicts m = none)) ∧
    (∃ (s : State) (k : CutRun) (c : Cmd),
      s.dly.cut = some k ∧ k.stage = 2 ∧ settled s ∧ cmdGet s k.cid = some c ∧ cmdLive c = true) ∧
    (∃ (s : State) (k : CutRun) (m : Nat) (c : Cmd),
      s.dly.cut = some k ∧ k.stage = 3 ∧ settled s ∧ m ∈ k.members ∧ s.dly.stale.contains (m, k.gen) = false ∧ cmdGet s k.cid = some c ∧ cmdLive c = true) ∧
    (∃ (s : State) (k : CutRun) (m : Nat),
      s.dly.cut = some k ∧ k.stage = 3 ∧ settled s ∧ m ∈ k.members ∧ (∀ v ∈ k.verdicts, v.2 = true) ∧ s.dly.stale.contains (m, k.gen) = false ∧ (∀ i ∈ k.members, i ≠ m → (assocGet k.verdicts i).isSome = true)) ∧
    (∃ (s : State) (k : CutRun) (c : Cmd) (ds : List (Nat × W256)),
      s.dly.cut = some k ∧ k.stage = 4 ∧ settled s ∧ cmdGet s k.cid = some c ∧ cmdLive c = true ∧ k.check = false) ∧
    (∃ (s : State) (s1 : State) (k : CutRun) (c : Cmd) (ds : List (Nat × W256)) (n : Nat) (w : Option W256),
      s.dly.cut = some k ∧ k.stage = 4 ∧ settled s ∧ cmdGet s k.cid = some c ∧ cmdLive c = true ∧ k.check = true ∧ s1 = dlyMod s (fun d => { genCommit k.gen k.step d with state := if d.state = .copied then .guarded else d.state }) ∧ (n, w) ∈ (ownDigests s1).2 ∧ (w = none ∨ assocGet ds n ≠ w)) ∧
    (∃ (s : State) (k : CutRun) (c : Cmd),
      s.dly.cut = some k ∧ (k.stage = 1 ∨ k.stage = 2 ∨ k.stage = 3) ∧ settled s ∧ cmdGet s k.cid = some c ∧ cmdLive c = true) :=
  ⟨⟨twC cutCmd twn, 1, cutCmd, resultOf .badDescriptor, (by decide +kernel), (by decide +kernel), errOf (by decide +kernel)⟩,
    ⟨twC cutCmd { prim with cut := some { cutK 3 [] with cid := 9 } }, 1, cutCmd, ({ cutK 1 [] with members := [5] }, true), (by decide +kernel), (by decide +kernel), okOf (by decide +kernel), (by decide +kernel)⟩,
    ⟨twC cutCmd prim, (cutCheck (twC cutCmd prim) cutCmd).1, 1, cutCmd, { cutK 1 [] with members := [5] }, (by decide +kernel), (by decide +kernel), (by decide +kernel), okTriple (by decide +kernel) (by decide +kernel) (by decide +kernel), (by decide +kernel)⟩,
    ⟨twC cutW { prim with report := { held := 5, high := 1, cap := 5, printing := true }, cut := some (cutK 0 []) }, cutK 0 [], by decide +kernel⟩,
    ⟨twC cutW { prim with cut := some (cutK 0 []) }, cutK 0 [], by decide +kernel⟩,
    ⟨twC cutW { prim with cut := some (cutK 2 []) }, cutK 2 [], by decide +kernel⟩,
    ⟨twC cutW { prim with cut := some (cutK 2 []) }, cutK 2 [], cutW, by decide +kernel⟩,
    ⟨twC cutW { prim with cut := some (cutK 3 [(5, true)]) }, cutK 3 [(5, true)], 9, cutW, by decide +kernel⟩,
    ⟨twC cutW { prim with cut := some (cutK 3 [(5, true)]) }, cutK 3 [(5, true)], 9, by decide +kernel⟩,
    ⟨twC cutW { prim with cut := some (cutK 4 []), log := [(4, 1), (5, 2)] }, cutK 4 [], cutW, [], by decide +kernel⟩,
    ⟨{ twC cutW { prim with cut := some cutL } with rig := (prt prim).rig }, _, cutL, cutW, [], 0, ((ownDigests ({ twC cutW { genCommit 1 4 { prim with cut := some cutL } with state := .guarded } with rig := (prt prim).rig })).2.headD (0, none)).2, (by decide +kernel), (by decide +kernel), (by decide +kernel), (by decide +kernel), (by decide +kernel), (by decide +kernel), rfl, (by decide +kernel), (by decide +kernel)⟩,
    ⟨twC cutW { prim with cut := some (cutK 3 []) }, cutK 3 [], cutW, by decide +kernel⟩⟩

/-- Concrete states and operands that meet the hypotheses of CutsOnATwin, clause by clause. -/
theorem wit_CutsOnATwin :
    (∃ (s : State) (g : Nat) (st : Nat),
      s.dly.role = .twin ∧ paired s = true ∧ settled s ∧ s.dly.lapseDue = true) ∧
    (∃ (s : State) (g : Nat) (st : Nat),
      s.dly.role = .twin ∧ paired s = true ∧ settled s ∧ s.dly.lapseDue = false) ∧
    (∃ (s : State) (s1 : State) (g : Nat) (st : Nat) (r : State × Option (List (Nat × List Byte))) (ls : List (Nat × List Byte)),
      s.dly.role = .twin ∧ paired s = true ∧ settled s ∧ s.dly.sealedGen = some (g, st) ∧ s.dly.frozen = false ∧ s.dly.take = false ∧ s.dly.checkArmed = false ∧ s1 = dlyMod s (fun d => { genCommit g st d with state := if d.state = .copied then .guarded else d.state, ready := holdMerge d.ready d.sealed, sealed := [], sealedIntervals := 0, sealedGen := none }) ∧ r = loadLines s1 s1.dly.ready ∧ r.2 = some ls ∧ (putLines r.1 ls).2 = [] ∧ brokenRanges (putLines r.1 ls).1 = []) ∧
    (∃ (s : State) (g : Nat) (st : Nat) (b : Bool),
      s.dly.role = .twin ∧ paired s = true ∧ settled s ∧ s.dly.sealedGen = some (g, st) ∧ s.dly.frozen = true ∧ (b = false ∧ s.dly.take = false ∧ s.dly.checkArmed = false ∨ brokenRanges (ownDigests (commitSealed (dlyMod s fun d => { d with state := if d.state = .copied then .guarded else d.state }) g)).1 = [])) ∧
    (∃ (s : State) (g : Nat) (st : Nat),
      s.dly.role = .twin ∧ s.dly.sealedGen = some (g, st)) ∧
    (∃ (s : State) (g : Nat) (h : Nat) (st : Nat) (b : Bool),
      s.dly.sealedGen = some (h, st) ∧ h ≠ g ∧ settled s) ∧
    (∃ (s : State) (st : Nat) (d : W256),
      s.dly.role = .twin ∧ paired s = true ∧ assocGet s.dly.log st = none ∧ s.dly.log.length < 1024) :=
  ⟨⟨tw { twn with lapseDue := true }, 3, 4, by decide +kernel⟩,
    ⟨tw { twn with opened := [(0, 1)] }, 3, 4, by decide +kernel⟩,
    ⟨tw { twn with state := .copied, sealedGen := some (3, 4), sealed := [(0, 1)], log := [(4, 1), (5, 2)] }, _, 3, 4, _, [(0, List.replicate 64 0)], (by decide +kernel), (by decide +kernel), (by decide +kernel), (by decide +kernel), (by decide +kernel), (by decide +kernel), (by decide +kernel), rfl, rfl, (by decide +kernel), (by decide +kernel), (by decide +kernel)⟩,
    ⟨tw { twn with sealedGen := some (3, 4), frozen := true }, 3, 4, false, by decide +kernel⟩,
    ⟨tw { twn with sealedGen := some (3, 4) }, 3, 4, by decide +kernel⟩,
    ⟨tw { twn with sealedGen := some (3, 4) }, 2, 3, 4, true, by decide +kernel⟩,
    ⟨tw twn, 4, 9, by decide +kernel⟩⟩

/-- Concrete states and operands that meet the hypotheses of LossAndPromotion, clause by clause. -/
theorem wit_LossAndPromotion :
    (∃ (s : State) (n : Nat),
      settled s ∧ paired s = true ∧ canOriginate s = true ∧ pickTwinLink s = some n ∧ trackerFree s true (systemSlot s) = true ∧ n < s.fabric.links.length ∧ (linkOf s n).reqs.length = 14) ∧
    (∃ (s : State),
      settled s ∧ paired s = false) ∧
    (∃ (s : State) (r : HoldReport),
      paired s = true ∧ (r.lapsed = false ∨ s.dly.role ≠ .primary)) ∧
    (∃ (s : State) (r : HoldReport),
      paired s = true ∧ (r.lapsed = false ∨ s.dly.role ≠ .primary)) ∧
    (∃ (s : State) (r : HoldReport),
      paired s = true ∧ r.lapsed = true ∧ s.dly.role = .primary) ∧
    (∃ (s : State) (r : HoldReport),
      paired s = false) ∧
    (∃ (s : State) (n : Nat),
      settled s ∧ s.dly.role ≠ .none ∧ canOriginate s = true ∧ pickLink s s.dly.partner = some n ∧ trackerFree s true (systemSlot s) = true ∧ n < s.fabric.links.length ∧ (linkOf s n).reqs.length = 14) ∧
    (∃ (s : State) (n : Nat),
      settled s ∧ s.dly.role ≠ .none ∧ canOriginate s = true ∧ pickLink s s.dly.partner = some n ∧ trackerFree s true (systemSlot s) = true ∧ n < s.fabric.links.length ∧ (linkOf s n).reqs.length = 14) ∧
    (∃ (s : State) (src : Nat),
      settled s ∧ (s.dly.role = .none ∨ src ≠ s.dly.partner)) ∧
    (∃ (s : State) (src : Nat),
      settled s ∧ (s.dly.role = .none ∨ src ≠ s.dly.partner)) ∧
    (∃ (s : State),
      paired s = true ∧ settled s) ∧
    (∃ (s : State),
      s.dly.role = .twin ∧ s.dly.suspected = true ∧ settled s) ∧
    (∃ (s : State) (i : Instr),
      s.dly.role = .twin ∧ settled s ∧ s.dly.sealedGen = none ∧ ((i = .probeTimeout ∧ s.dly.suspected = true) ∨ (i = .leaveReceive s.dly.partner ∧ paired s = true))) ∧
    (∃ (s : State) (i : Instr),
      s.dly.role = .twin ∧ settled s ∧ s.dly.sealedGen = none ∧ ((i = .probeTimeout ∧ s.dly.suspected = true) ∨ (i = .leaveReceive s.dly.partner ∧ paired s = true))) ∧
    (∃ (s : State) (i : Instr) (g : Nat × Nat),
      s.dly.role = .twin ∧ settled s ∧ s.dly.sealedGen = some g ∧ printing s = false ∧ ((i = .probeTimeout ∧ s.dly.suspected = true) ∨ (i = .leaveReceive s.dly.partner ∧ paired s = true))) ∧
    (∃ (s : State) (i : Instr) (g : Nat × Nat),
      s.dly.role = .twin ∧ settled s ∧ s.dly.sealedGen = some g ∧ printing s = false ∧ ((i = .probeTimeout ∧ s.dly.suspected = true) ∨ (i = .leaveReceive s.dly.partner ∧ paired s = true))) ∧
    (∃ (s : State) (i : Instr),
      s.dly.role = .primary ∧ settled s ∧ ((i = .probeTimeout ∧ s.dly.suspected = true) ∨ (i = .probeAnswerReceive s.dly.partner ∧ s.dly.suspected = true) ∨ (i = .leaveReceive s.dly.partner ∧ paired s = true))) ∧
    (∃ (s : State) (i : Instr),
      s.dly.role = .primary ∧ settled s ∧ ((i = .probeTimeout ∧ s.dly.suspected = true) ∨ (i = .probeAnswerReceive s.dly.partner ∧ s.dly.suspected = true) ∨ (i = .leaveReceive s.dly.partner ∧ paired s = true))) ∧
    (∃ (s : State) (i : Instr),
      s.dly.role = .primary ∧ settled s ∧ ((i = .probeTimeout ∧ s.dly.suspected = true) ∨ (i = .probeAnswerReceive s.dly.partner ∧ s.dly.suspected = true) ∨ (i = .leaveReceive s.dly.partner ∧ paired s = true))) ∧
    (∃ (s : State) (p : Port) (tag : Nat),
      mayWrite s p ∧ settled s ∧ (paired s = false ∨ (s.dly.role = .primary ∧ anySpace s = true))) ∧
    (∃ (s : State) (p : Port) (tag : Nat),
      mayWrite s p ∧ settled s ∧ (paired s = false ∨ (s.dly.role = .primary ∧ anySpace s = true))) ∧
    (∃ (s : State) (p : Port) (tag : Nat),
      mayWrite s p ∧ settled s ∧ paired s = true ∧ s.dly.role = .twin ∧ s.dly.cut = none ∧ printing s = false) ∧
    (∃ (s : State) (p : Port) (tag : Nat) (b : Bool),
      mayWrite s p ∧ settled s ∧ s.dly.state ≠ .inDoubt) ∧
    (∃ (s : State) (p : Port) (tag : Nat) (g : Nat) (st : Nat) (b : Bool),
      mayWrite s p ∧ settled s ∧ s.dly.state = .inDoubt ∧ s.dly.sealedGen = some (g, st)) ∧
    (∃ (s : State) (p : Port) (tag : Nat) (g : Nat) (st : Nat) (b : Bool),
      mayWrite s p ∧ settled s ∧ s.dly.state = .inDoubt ∧ s.dly.sealedGen = some (g, st)) :=
  ⟨⟨tw prim, 0, by decide +kernel⟩,
    ⟨tw { prim with state := .unpaired }, by decide +kernel⟩,
    ⟨tw prim, { held := 3 }, by decide +kernel⟩,
    ⟨tw twn, { lapsed := true }, by decide +kernel⟩,
    ⟨tw prim, { lapsed := true }, by decide +kernel⟩,
    ⟨tw { prim with state := .unpaired }, {}, by decide +kernel⟩,
    ⟨tw prim, 0, by decide +kernel⟩,
    ⟨tw { prim with state := .unpaired }, 0, by decide +kernel⟩,
    ⟨tw prim, 8, by decide +kernel⟩,
    ⟨fab, 9, by decide +kernel⟩,
    ⟨tw twn, by decide +kernel⟩,
    ⟨tw { twn with suspected := true }, by decide +kernel⟩,
    ⟨tw { twn with suspected := true, opened := [(0, 1)] }, .probeTimeout, by decide +kernel⟩,
    ⟨tw { twn with suspected := true, opened := [(0, 1)] }, .leaveReceive 9, by decide +kernel⟩,
    ⟨tw { twn with suspected := true, sealedGen := some (3, 4) }, .probeTimeout, (3, 4), by decide +kernel⟩,
    ⟨tw { twn with suspected := true, sealedGen := some (3, 4) }, .leaveReceive 9, (3, 4), by decide +kernel⟩,
    ⟨twC cutW { prim with suspected := true, cut := some (cutK 3 []) }, .probeTimeout, by decide +kernel⟩,
    ⟨twC cutW { prim with suspected := true, cut := some (cutK 3 []) }, .leaveReceive 9, by decide +kernel⟩,
    ⟨twC cutW { prim with suspected := true, cut := some (cutK 3 []) }, .probeAnswerReceive 9, by decide +kernel⟩,
    ⟨tw { prim with state := .unpaired }, .a, 1, by decide +kernel⟩,
    ⟨tw prim, .a, 1, by decide +kernel⟩,
    ⟨tw twn, .a, 1, by decide +kernel⟩,
    ⟨tw twn, .a, 1, true, by decide +kernel⟩,
    ⟨tw { twn with state := .inDoubt, sealedGen := some (3, 4) }, .a, 1, 3, 4, true, by decide +kernel⟩,
    ⟨tw { twn with state := .inDoubt, sealedGen := some (3, 4) }, .a, 1, 3, 4, false, by decide +kernel⟩⟩

/-- Concrete states and operands that meet the hypotheses of RewindsAndTakes, clause by clause. -/
theorem wit_RewindsAndTakes :
    (∃ (s : State) (p : Port) (tag : Nat),
      mayWrite s p ∧ settled s ∧ s.dly.role ≠ .primary) ∧
    (∃ (s : State) (p : Port) (tag : Nat),
      mayWrite s p ∧ settled s ∧ s.dly.role = .primary ∧ s.dly.arg ≠ s.dly.committed) ∧
    (∃ (s : State) (p : Port) (tag : Nat),
      mayWrite s p ∧ settled s ∧ s.dly.role = .primary ∧ s.dly.arg = s.dly.committed ∧ s.dly.state = .guarded ∧ s.dly.rewinding = false) ∧
    (∃ (s : State) (ls : List (Nat × List Byte)),
      s.dly.role = .primary ∧ s.dly.rewinding = true ∧ settled s ∧ (∀ l ∈ ls, lineMirrored s l.1 = true ∧ l.2.length = 64) ∧ coversMap s ls = true ∧ (putLines s ls).2 = []) ∧
    (∃ (s : State) (ls : List (Nat × List Byte)),
      s.dly.role = .twin ∧ paired s = true ∧ settled s ∧ brokenRanges ((rewindKeys s ls).foldl rewindSend s) = []) ∧
    (∃ (s : State) (p : Port) (tag : Nat),
      mayWrite s p) ∧
    (∃ (s : State) (cid : Nat) (c : Cmd),
      cmdReady s cid 0x61 = some c ∧ settled s ∧ spaceParty s c.space = none ∧ s.dly.take = false ∧ assocGet s.dly.log (fld (cmdBody c) 0 32) = none ∧ s.dly.log.length < 1024 ∧ (s.dly.role ≠ .primary ∨ paired s = false)) ∧
    (∃ (s : State) (cid : Nat) (link : Nat) (c : Cmd),
      cmdReady s cid 0x61 = some c ∧ settled s ∧ spaceParty s c.space = none ∧ s.dly.take = false ∧ assocGet s.dly.log (fld (cmdBody c) 0 32) = none ∧ s.dly.log.length < 1024 ∧ s.dly.role = .primary ∧ paired s = true ∧ canOriginate s = true ∧ pickTwinLink s = some link) ∧
    (∃ (s : State) (cid : Nat) (c : Cmd),
      cmdReady s cid 0x61 = some c ∧ settled s ∧ spaceParty s c.space = none ∧ s.dly.take = false ∧ (assocGet s.dly.log (fld (cmdBody c) 0 32)).isSome = true) ∧
    (∃ (s : State) (cid : Nat) (c : Cmd),
      cmdReady s cid 0x61 = some c ∧ settled s ∧ spaceParty s c.space = none ∧ s.dly.take = false ∧ assocGet s.dly.log (fld (cmdBody c) 0 32) = none ∧ 1024 ≤ s.dly.log.length) ∧
    (∃ (s : State) (cid : Nat) (c : Cmd) (d : W256),
      cmdReady s cid 0x61 = some c ∧ settled s ∧ spaceParty s c.space = none ∧ s.dly.take = true ∧ assocGet s.dly.log (fld (cmdBody c) 0 32) = some d) ∧
    (∃ (s : State) (cid : Nat) (c : Cmd) (d : W256),
      cmdReady s cid 0x61 = some c ∧ settled s ∧ spaceParty s c.space = none ∧ s.dly.take = true ∧ assocGet s.dly.log (fld (cmdBody c) 0 32) = some d) :=
  ⟨⟨tw twn, .a, 1, by decide +kernel⟩,
    ⟨tw { prim with arg := 4 }, .a, 1, by decide +kernel⟩,
    ⟨tw prim, .a, 1, by decide +kernel⟩,
    ⟨tw { prim with rewinding := true, map := [(0, 2)] }, [(0, List.replicate 64 1), (64, List.replicate 64 2)], by decide +kernel⟩,
    ⟨tw twn, [(0, List.replicate 64 1)], by decide +kernel⟩,
    ⟨tw prim, .a, 1, by decide +kernel⟩,
    ⟨twC (cmdOf 0x61 [(4, 32), (77, 256)]) { prim with state := .unpaired }, 1, cmdOf 0x61 [(4, 32), (77, 256)], by decide +kernel⟩,
    ⟨twC (cmdOf 0x61 [(4, 32), (77, 256)]) prim, 1, 0, cmdOf 0x61 [(4, 32), (77, 256)], by decide +kernel⟩,
    ⟨twC (cmdOf 0x61 [(4, 32), (77, 256)]) { prim with log := [(4, 77)] }, 1, cmdOf 0x61 [(4, 32), (77, 256)], by decide +kernel⟩,
    ⟨twC (cmdOf 0x61 [(4, 32), (77, 256)]) { prim with log := List.replicate 1024 (5, 0) }, 1, cmdOf 0x61 [(4, 32), (77, 256)], by decide +kernel⟩,
    ⟨twC (cmdOf 0x61 [(4, 32), (77, 256)]) { prim with take := true, log := [(4, 77)] }, 1, cmdOf 0x61 [(4, 32), (77, 256)], 77, by decide +kernel⟩,
    ⟨twC (cmdOf 0x61 [(4, 32), (77, 256)]) { prim with take := true, log := [(4, 78)] }, 1, cmdOf 0x61 [(4, 32), (77, 256)], 78, by decide +kernel⟩⟩

/-- Concrete states and operands that meet the hypotheses of PrintsAndRestores, clause by clause. -/
theorem wit_PrintsAndRestores :
    (∃ (s : State) (p : Port) (tag : Nat) (m : BitVec 32),
      mayWrite s p ∧ s.keys.entropyOk = true ∧ (s.dly.role ≠ .twin ∨ s.dly.state ≠ .guarded ∨ printing s = true)) ∧
    (∃ (s : State) (p : Port) (tag : Nat) (m : BitVec 32),
      mayWrite s p ∧ s.keys.entropyOk = true ∧ (s.dly.role ≠ .twin ∨ s.dly.state ≠ .guarded ∨ printing s = true)) ∧
    (∃ (s : State) (p : Port) (tag : Nat) (n : Nat) (m : BitVec 32),
      mayWrite s p ∧ s.keys.entropyOk = true ∧ s.dly.role = .twin ∧ s.dly.state = .guarded ∧ printing s = false ∧ n ∈ bitList 32 m.toNat ∧ printWrapKey s n = none) ∧
    (∃ (s : State) (p : Port) (tag : Nat) (m : BitVec 32),
      mayWrite s p ∧ s.keys.entropyOk = true ∧ s.dly.role = .twin ∧ s.dly.state = .guarded ∧ printing s = false ∧ (∀ n ∈ bitList 32 m.toNat, (printWrapKey s n).isSome = true)) ∧
    (∃ (s : State) (q : Port) (n : Nat) (i : Nat) (r : MemRead),
      (s.dly.print.state = 1 ∨ s.dly.print.state = 2) ∧ (chunkList s)[s.dly.print.sent]? = some (n, i) ∧ printPort s i = some q ∧ r = readPhys s {} ((rangeCfg s n).base + i * chunkMax) (chunkLen s n i) ∧ r.status = .ok ∧ systemOpen s = true ∧ filling s n = false ∧ settled r.st) ∧
    (∃ (s : State) (q : Port) (n : Nat) (i : Nat),
      s.dly.print.state = 3 ∧ s.keys.entropyOk = true ∧ (chunkList s)[s.dly.print.sent]? = some (n, i) ∧ printPort s i = some q ∧ systemOpen s = true) ∧
    (∃ (s : State) (i : Instr),
      settled s ∧ systemOpen s = false ∧ (i = .printChunkSend ∨ i = .printSlateSend)) ∧
    (∃ (s : State) (i : Instr),
      settled s ∧ systemOpen s = false ∧ (i = .printChunkSend ∨ i = .printSlateSend)) ∧
    (∃ (s : State),
      settled s ∧ s.dly.print.state = 3 ∧ (chunkList s).length ≤ s.dly.print.sent) ∧
    (∃ (s : State) (p : Port) (tag : Nat),
      mayWrite s p ∧ printing s = true) ∧
    (∃ (s : State) (p : Port) (tag : Nat),
      mayWrite s p ∧ printing s = false) ∧
    (∃ (s : State) (p : Port) (tag : Nat),
      mayWrite s p ∧ s.dly.state = .unpaired ∧ anySpace s = false) ∧
    (∃ (s : State) (p : Port) (tag : Nat) (c : Chunk),
      mayWrite s p ∧ s.dly.restore.active = true ∧ filling s (chunkRange c) = false) ∧
    (∃ (s : State) (p : Port) (tag : Nat) (c : Chunk) (st : Status),
      mayWrite s p ∧ s.dly.restore.active = true ∧ filling s (chunkRange c) = false ∧ chunkCheck s c = .error st) ∧
    (∃ (s : State) (p : Port) (tag : Nat) (g : GotChunk) (gs : List GotChunk),
      mayWrite s p ∧ s.dly.restore.active = true ∧ restoreWhole s.dly.restore = true ∧ s.dly.restore.got = g :: gs) ∧
    (∃ (s : State) (p : Port) (tag : Nat),
      mayWrite s p ∧ s.dly.restore.active = true ∧ restoreWhole s.dly.restore = false) :=
  ⟨⟨tw prim, .a, 1, 1, by decide +kernel⟩,
    ⟨tw { twn with print := { state := 2 } }, .a, 1, 1, by decide +kernel⟩,
    ⟨tw twn, .a, 1, 0, 1, by decide +kernel⟩,
    ⟨prt twn, .a, 1, 1, by decide +kernel⟩,
    ⟨prt ({ twn with print := { state := 2, ranges := [0], id := 4, keys := [(0, 9)], wrapKeys := [(0, 9)] }, frozen := true }), .a, 0, 0, _, (by decide +kernel), (by decide +kernel), (by decide +kernel), rfl, (by decide +kernel), (by decide +kernel), (by decide +kernel), (by decide +kernel)⟩,
    ⟨prt ({ twn with print := { state := 3, ranges := [0], id := 4, keys := [(0, 9)], wrapKeys := [(0, 9)] }, frozen := true }), .a, 0, 0, by decide +kernel⟩,
    ⟨shut (prt ({ twn with print := { state := 2, ranges := [0], id := 4, keys := [(0, 9)], wrapKeys := [(0, 9)] }, frozen := true })), .printChunkSend, by decide +kernel⟩,
    ⟨shut (prt ({ twn with print := { state := 3, ranges := [0], id := 4, keys := [(0, 9)], wrapKeys := [(0, 9)] }, frozen := true })), .printSlateSend, by decide +kernel⟩,
    ⟨prt { twn with print := { state := 3 } }, by decide +kernel⟩,
    ⟨prt ({ twn with print := { state := 2, ranges := [0], id := 4, keys := [(0, 9)], wrapKeys := [(0, 9)] }, frozen := true }), .a, 1, by decide +kernel⟩,
    ⟨prt twn, .a, 1, by decide +kernel⟩,
    ⟨twNo {}, .a, 1, by decide +kernel⟩,
    ⟨prt { restore := { active := true } }, .a, 1, chunkC, by decide +kernel⟩,
    ⟨prt { restore := { active := true } }, .a, 1, chunkC, .memIntegrity, (by decide +kernel), (by decide +kernel), (by decide +kernel), errOf (by decide +kernel)⟩,
    ⟨tw { restore := { active := true, got := [⟨0, 0, 1, 1, 3⟩] } }, .a, 1, ⟨0, 0, 1, 1, 3⟩, [], by decide +kernel⟩,
    ⟨tw { restore := { active := true, got := [⟨0, 0, 2, 1, 3⟩] } }, .a, 1, by decide +kernel⟩⟩

/-- Concrete states and operands that meet the hypotheses of MemoryScrubAndFlip, clause by clause. -/
theorem wit_MemoryScrubAndFlip :
    (∃ (s : State) (k : Nat) (key : Nat),
      s.mem.merge.any (fun x => x.stack == k && x.key == key) = true) ∧
    (∃ (s : State) (k : Nat) (key : Nat),
      s.mem.merge.any (fun x => x.stack == k && x.key == key) = false) ∧
    (∃ (s : State) (p : Port) (tag : Nat) (v : Word),
      mayWrite s p ∧ s.rig.active.shared = false) ∧
    (∃ (s : State) (p : Port) (tag : Nat) (v : Word),
      mayWrite s p ∧ s.rig.active.shared = true ∧ v.getLsbD 3 = true) ∧
    (∃ (s : State) (cid : Nat) (c : Cmd),
      cmdServed s cid 0x70 scrubNames = some c ∧ c.scrubbed = none ∧ (fld (cmdBody c) 134 154 ≠ 0 ∨ fld (cmdBody c) 0 48 % 64 ≠ 0 ∨ fld (cmdBody c) 84 48 % 64 ≠ 0)) ∧
    (∃ (s : State) (cid : Nat) (a : Nat) (n : Nat) (sum : Nat) (c : Cmd),
      cmdServed s cid 0x70 scrubNames = some c ∧ c.scrubbed = none ∧ fld (cmdBody c) 134 154 = 0 ∧ a = fld (cmdBody c) 0 48 ∧ n = fld (cmdBody c) 48 36 + 1 ∧ sum = fld (cmdBody c) 84 48 ∧ a % 64 = 0 ∧ sum % 64 = 0 ∧ addrCheck s c a (64 * n) = none ∧ addrCheck s c sum 192 = none ∧ (∀ r ∈ xlateRuns s c.space a (64 * n), (rangeAt s r.1).isSome = true) ∧ scrubDenied s c a (64 * n) = true) ∧
    (∃ (s : State) (cid : Nat) (a : Nat) (n : Nat) (sum : Nat) (c : Cmd) (r : State × ScrubSum) (w : MemWrite),
      cmdServed s cid 0x70 scrubNames = some c ∧ c.scrubbed = none ∧ fld (cmdBody c) 134 154 = 0 ∧ a = fld (cmdBody c) 0 48 ∧ n = fld (cmdBody c) 48 36 + 1 ∧ sum = fld (cmdBody c) 84 48 ∧ a % 64 = 0 ∧ sum % 64 = 0 ∧ addrCheck s c a (64 * n) = none ∧ addrCheck s c sum 192 = none ∧ (∀ r ∈ xlateRuns s c.space a (64 * n), (rangeAt s r.1).isSome = true) ∧ scrubDenied s c a (64 * n) = false ∧ r = scrubAll (whoOf c) (scrubUnits s c.space a n) (s, {}) ∧ w = writeSpace (chargePj (countHbm r.1 c [] (64 * r.2.lines) 0) c.id (18 * (64 * r.2.lines))) c sum (scrubRecord r.2) ∧ w.status = .ok) ∧
    (∃ (s : State) (cid : Nat) (k : Nat) (c : Cmd) (us : List (Nat × Nat × Nat)) (r : State × ScrubSum),
      cmdServed s cid 0x70 scrubNames = some c ∧ c.scrubbed = none ∧ scrubCheck s c = none ∧ us = scrubUnits s c.space (fld (cmdBody c) 0 48) (fld (cmdBody c) 48 36 + 1) ∧ k < us.length ∧ r = scrubAll (whoOf c) (us.take k) (s, {})) ∧
    (∃ (s : State) (p : Port) (tag : Nat) (range : Nat) (pace : Nat),
      mayWrite s p ∧ s.mem.scrub.state ≠ 1 ∧ range < 32) ∧
    (∃ (s : State) (p : Port) (tag : Nat) (range : Nat) (pace : Nat),
      mayWrite s p ∧ s.mem.scrub.state = 1) ∧
    (∃ (s : State) (p : Port) (tag : Nat),
      mayWrite s p ∧ s.mem.scrub.state = 1) ∧
    (∃ (s : State) (units : Nat) (total : Nat) (k : Nat),
      s.mem.scrub.state = 1 ∧ filling s s.mem.scrub.range = false ∧ total = (if (rangeCfg s s.mem.scrub.range).mode = 0 then 0 else unitCount s s.mem.scrub.range) ∧ k = min units (total - s.mem.scrub.pos) ∧ systemOpen s = true) ∧
    (∃ (s : State) (units : Nat) (total : Nat) (k : Nat),
      s.mem.scrub.state = 1 ∧ filling s s.mem.scrub.range = false ∧ total = (if (rangeCfg s s.mem.scrub.range).mode = 0 then 0 else unitCount s s.mem.scrub.range) ∧ k = min units (total - s.mem.scrub.pos) ∧ systemOpen s = true) ∧
    (∃ (s : State) (units : Nat),
      (s.mem.scrub.state ≠ 1 ∨ filling s s.mem.scrub.range = true ∨ systemOpen s = false)) ∧
    (∃ (s : State) (units : Nat),
      (s.mem.scrub.state ≠ 1 ∨ filling s s.mem.scrub.range = true ∨ systemOpen s = false)) ∧
    (∃ (s : State) (units : Nat),
      (s.mem.scrub.state ≠ 1 ∨ filling s s.mem.scrub.range = true ∨ systemOpen s = false)) :=
  ⟨⟨{ up with mem := { merge := [⟨3, 5, 1, false, 0, []⟩] } }, 3, 5, by decide +kernel⟩,
    ⟨up, 3, 5, by decide +kernel⟩,
    ⟨up, .a, 1, 0xB, by decide +kernel⟩,
    ⟨{ up with rig := { active := { shared := true } } }, .a, 1, 0xB, by decide +kernel⟩,
    ⟨runs1 (cmdOf 0x70 [(1, 48)]), 1, cmdOf 0x70 [(1, 48)], by decide +kernel⟩,
    ⟨{ runs1 scrubCmd with rig := { active := { ranges := { base := 0, size := 2 ^ 30, mode := 1 } :: List.replicate 31 {}, shared := true } } }, 1, _, _, _, scrubCmd, (by decide +kernel), (by decide +kernel), (by decide +kernel), rfl, rfl, rfl, (by decide +kernel), (by decide +kernel), (by decide +kernel), (by decide +kernel), (by decide +kernel), (by decide +kernel)⟩,
    ⟨runs1 scrubCmd, 1, _, _, _, scrubCmd, _, _, (by decide +kernel), (by decide +kernel), (by decide +kernel), rfl, rfl, rfl, (by decide +kernel), (by decide +kernel), (by decide +kernel), (by decide +kernel), (by decide +kernel), (by decide +kernel), rfl, rfl, (by decide +kernel)⟩,
    ⟨runs1 scrubCmd, 1, 0, scrubCmd, _, _, (by decide +kernel), (by decide +kernel), (by decide +kernel), rfl, (by decide +kernel), rfl⟩,
    ⟨up, .a, 1, 31, 2, by decide +kernel⟩,
    ⟨{ up with mem := { scrub := { state := 1 } } }, .a, 1, 3, 2, by decide +kernel⟩,
    ⟨{ up with mem := { scrub := { state := 1 } } }, .a, 1, by decide +kernel⟩,
    ⟨{ upR 0 {} with mem := { scrub := { state := 1, pos := 5 } } }, 3, _, _, (by decide +kernel), (by decide +kernel), rfl, rfl, (by decide +kernel)⟩,
    ⟨{ up with mem := { scrub := { state := 1, range := 3 } } }, 3, _, _, (by decide +kernel), (by decide +kernel), rfl, rfl, (by decide +kernel)⟩,
    ⟨up, 3, by decide +kernel⟩,
    ⟨{ upR 0 { walk := 1 } with mem := { scrub := { state := 1 } } }, 3, by decide +kernel⟩,
    ⟨shut { upR 0 {} with mem := { scrub := { state := 1 } } }, 3, by decide +kernel⟩⟩

/-- Concrete states and operands that meet the hypotheses of RangeKeysRotateAndRefill, clause by clause. -/
theorem wit_RangeKeysRotateAndRefill :
    (∃ (s : State) (p : Port) (tag : Nat) (n : Nat) (slot : Nat) (pace : Nat) (st : Status),
      mayWrite s p ∧ (s.keys.entropyOk = true ∨ (rangeCfg s n).keySource ≠ 0) ∧ n < 32 ∧ rekeyCheck s n slot = some st) ∧
    (∃ (s : State) (p : Port) (tag : Nat) (n : Nat) (slot : Nat) (pace : Nat) (k : Nat),
      mayWrite s p ∧ s.keys.entropyOk = true ∧ n < 32 ∧ n < s.ciph.ranges.length ∧ s.keys.slots.length = 256 ∧ rekeyCheck s n slot = none ∧ (rangeCfg s n).keySource = 0 ∧ freeDrawn s = some k) ∧
    (∃ (s : State) (p : Port) (tag : Nat) (n : Nat) (slot : Nat) (pace : Nat),
      mayWrite s p ∧ n < 32 ∧ n < s.ciph.ranges.length ∧ slot < s.keys.slots.length ∧ rekeyCheck s n slot = none ∧ (rangeCfg s n).keySource ≠ 0) ∧
    (∃ (s : State) (p : Port) (tag : Nat) (n : Nat) (slot : Nat) (pace : Nat),
      mayWrite s p ∧ s.keys.entropyOk = false ∧ (rangeCfg s n).keySource = 0) ∧
    (∃ (s : State) (n : Nat) (units : List Nat) (pos : List Nat),
      n < s.ciph.ranges.length ∧ (rangeKey s n).walk = 2 ∧ systemOpen s = true ∧ (rangeKey s n).walkPos.length = 8 ∧ pos = (List.range 8).map (fun k => (rangeKey s n).walkPos.getD k 0 + min (units.getD k 0) (shareUnits s n - (rangeKey s n).walkPos.getD k 0)) ∧ (∃ x ∈ pos, x ≠ shareUnits s n)) ∧
    (∃ (s : State) (n : Nat) (units : List Nat),
      n < s.ciph.ranges.length ∧ (rangeKey s n).walk = 2 ∧ (rangeKey s n).prevStruck = false ∧ (rangeKey s n).walkPos.length = 8 ∧ systemOpen s = true ∧ (∀ k, k < 8 → (rangeKey s n).walkPos.getD k 0 + min (units.getD k 0) (shareUnits s n - (rangeKey s n).walkPos.getD k 0) = shareUnits s n)) ∧
    (∃ (s : State) (n : Nat) (units : List Nat),
      ((rangeKey s n).walk ≠ 2 ∨ systemOpen s = false)) ∧
    (∃ (s : State) (n : Nat) (units : List Nat),
      ((rangeKey s n).walk ≠ 2 ∨ systemOpen s = false)) ∧
    (∃ (s : State) (p : Port) (tag : Nat) (n : Nat) (st : Status),
      mayWrite s p ∧ s.keys.entropyOk = true ∧ n < 33 ∧ reinitCheck s n = some st) ∧
    (∃ (s : State) (p : Port) (tag : Nat) (n : Nat),
      mayWrite s p ∧ s.keys.entropyOk = true ∧ n < 33 ∧ n < s.ciph.ranges.length ∧ reinitCheck s n = none) ∧
    (∃ (s : State) (n : Nat),
      (rangeKey s n).walk = 1 ∧ s.keys.entropyOk = true ∧ s.ciph.waiting = [] ∧ s.keys.waiting = [] ∧ settled s ∧ (∀ c ∈ s.sp.cmds, c.phase = .accepted → c.body.isSome = true)) ∧
    (∃ (s : State) (p : Port) (tag : Nat),
      mayRead s p ∧ debugWaits s s.ciph.winAddr = false) ∧
    (∃ (s : State) (p : Port) (tag : Nat) (v : Word),
      mayWrite s p ∧ debugWaits s s.ciph.winAddr = false) ∧
    (∃ (s : State) (a : Nat) (v : Word),
      s.rig.active.shared = true) :=
  ⟨⟨upR 0 { walk := 2 }, .a, 1, 0, 0, 3, .busy, by decide +kernel⟩,
    ⟨upR 0 { curSlot := 130, gen := 4 }, .a, 1, 0, 0, 3, 128, by decide +kernel⟩,
    ⟨{ upR 1 {} with keys := { slots := slotAt 40 { valid := true, origin := 2, key := 5 } } }, .a, 1, 0, 40, 3, by decide +kernel⟩,
    ⟨{ upR 0 {} with keys := {} }, .a, 1, 0, 0, 3, by decide +kernel⟩,
    ⟨upR 0 { curSlot := 130, prevSlot := 131, walk := 2, walkPos := List.replicate 8 0, prevValid := true }, 0, [5, 1, 1, 1, 1, 1, 1, 1], _, (by decide +kernel), (by decide +kernel), (by decide +kernel), (by decide +kernel), rfl, (by decide +kernel)⟩,
    ⟨upR 0 { curSlot := 130, prevSlot := 131, walk := 2, walkPos := List.replicate 8 3, prevValid := true }, 0, List.replicate 8 (2 ^ 20), by decide +kernel⟩,
    ⟨upR 0 {}, 0, [3], by decide +kernel⟩,
    ⟨shut (upR 0 { curSlot := 130, prevSlot := 131, walk := 2, prevValid := true }), 0, [5], by decide +kernel⟩,
    ⟨up, .a, 1, 0, .busy, by decide +kernel⟩,
    ⟨{ upR 0 {} with sp := {}, mem := { cells := [(7, 1), (2 ^ 20, 5)] } }, .a, 1, 0, by decide +kernel⟩,
    ⟨{ upR 0 { walk := 1 } with sp := {} }, 0, by decide +kernel⟩,
    ⟨up, .a, 1, by decide +kernel⟩,
    ⟨up, .a, 1, 5, by decide +kernel⟩,
    ⟨{ up with rig := { active := { shared := true } } }, 4096, 5, by decide +kernel⟩⟩

/-- Concrete states and operands that meet the hypotheses of QuotesCertificatesAndDrawnSlots, clause by clause. -/
theorem wit_QuotesCertificatesAndDrawnSlots :
    (∃ (s : State) (p : Port) (tag : Nat),
      mayWrite s p ∧ s.keys.vaultOk = false) ∧
    (∃ (s : State) (p : Port) (tag : Nat),
      mayWrite s p ∧ s.keys.vaultOk = true ∧ 64 ≤ s.keys.quotes.length) ∧
    (∃ (s : State) (p : Port) (tag : Nat),
      mayWrite s p ∧ s.keys.vaultOk = true ∧ s.keys.quotes.length < 64) ∧
    (∃ (s : State) (r : QuoteReq) (rest : List QuoteReq),
      s.keys.quotes = r :: rest ∧ r.dest = .mgmt ∧ s.keys.entropyOk = true ∧ settled s) ∧
    (∃ (s : State),
      s.keys.entropyOk = false ∧ settled s) ∧
    (∃ (s : State) (p : Port) (tag : Nat) (b : Bool),
      mayWrite s p) ∧
    (∃ (s : State) (p : Port) (tag : Nat),
      mayRead s p ∧ s.keys.outPtr + 8 ≤ s.keys.out.length) ∧
    (∃ (s : State) (p : Port) (tag : Nat) (slot : Nat) (o : BitVec 8),
      mayWrite s p ∧ s.keys.entropyOk = true ∧ (slot < 32 ∨ 127 < slot)) ∧
    (∃ (s : State) (p : Port) (tag : Nat) (slot : Nat) (o : BitVec 8),
      mayWrite s p ∧ s.keys.entropyOk = true ∧ (slot < 32 ∨ 127 < slot)) ∧
    (∃ (s : State) (p : Port) (tag : Nat) (slot : Nat) (o : BitVec 8),
      mayWrite s p ∧ s.keys.entropyOk = true ∧ 32 ≤ slot ∧ slot ≤ 127 ∧ drawOwnerOk s o = false) ∧
    (∃ (s : State) (p : Port) (tag : Nat) (slot : Nat) (o : BitVec 8),
      mayWrite s p ∧ s.keys.entropyOk = true ∧ 32 ≤ slot ∧ slot ≤ 127 ∧ drawOwnerOk s o = true ∧ (s.keys.slots.getD slot {}).valid = true) ∧
    (∃ (s : State) (p : Port) (tag : Nat) (slot : Nat) (o : BitVec 8),
      mayWrite s p ∧ s.keys.entropyOk = true ∧ 32 ≤ slot ∧ slot ≤ 127 ∧ drawOwnerOk s o = true ∧ (s.keys.slots.getD slot {}).valid = false) ∧
    (∃ (s : State) (p : Port) (tag : Nat) (slot : Nat) (o : BitVec 8),
      mayWrite s p ∧ s.keys.entropyOk = true ∧ 32 ≤ slot ∧ slot ≤ 127 ∧ drawOwnerOk s o = true ∧ (s.keys.slots.getD slot {}).valid = false) ∧
    (∃ (s : State) (p : Port) (tag : Nat) (slot : Nat) (o : BitVec 8),
      mayWrite s p ∧ s.keys.entropyOk = false) ∧
    (∃ (s : State) (p : Port) (tag : Nat) (slot : Nat),
      mayWrite s p ∧ (slot < 32 ∨ 127 < slot)) ∧
    (∃ (s : State) (p : Port) (tag : Nat) (slot : Nat),
      mayWrite s p ∧ (slot < 32 ∨ 127 < slot)) ∧
    (∃ (s : State) (p : Port) (tag : Nat) (slot : Nat),
      mayWrite s p ∧ 32 ≤ slot ∧ slot ≤ 127 ∧ (s.keys.slots.getD slot {}).locked = true) ∧
    (∃ (s : State) (p : Port) (tag : Nat) (slot : Nat),
      mayWrite s p ∧ 32 ≤ slot ∧ slot ≤ 127 ∧ (s.keys.slots.getD slot {}).locked = false ∧ (s.rig.active.shared = false ∨ (s.keys.slots.getD slot {}).ownerSet = 0)) ∧
    (∃ (s : State) (p : Port) (tag : Nat) (slot : Nat),
      mayWrite s p ∧ 32 ≤ slot ∧ slot ≤ 127 ∧ (s.keys.slots.getD slot {}).locked = false ∧ (s.rig.active.shared = false ∨ (s.keys.slots.getD slot {}).ownerSet = 0)) :=
  ⟨⟨{ up with keys := {} }, .a, 1, by decide +kernel⟩,
    ⟨upK { quotes := List.replicate 64 ⟨0, [], .mgmt⟩ }, .a, 1, by decide +kernel⟩,
    ⟨up, .a, 1, by decide +kernel⟩,
    ⟨upK { quotes := [⟨3, [1], .mgmt⟩] }, ⟨3, [1], .mgmt⟩, [], by decide +kernel⟩,
    ⟨{ up with keys := {} }, by decide +kernel⟩,
    ⟨up, .a, 1, true, by decide +kernel⟩,
    ⟨upK { out := List.replicate 16 1, outPtr := 8 }, .a, 1, by decide +kernel⟩,
    ⟨up, .a, 1, 31, 0, by decide +kernel⟩,
    ⟨up, .a, 1, 128, 0, by decide +kernel⟩,
    ⟨up, .a, 1, 32, 1, by decide +kernel⟩,
    ⟨upK { slots := slotAt 127 { valid := true } }, .a, 1, 127, 0, by decide +kernel⟩,
    ⟨up, .a, 1, 32, 0, by decide +kernel⟩,
    ⟨up, .a, 1, 127, 0, by decide +kernel⟩,
    ⟨{ up with keys := {} }, .a, 1, 40, 0, by decide +kernel⟩,
    ⟨up, .a, 1, 31, by decide +kernel⟩,
    ⟨up, .a, 1, 128, by decide +kernel⟩,
    ⟨upK { slots := slotAt 32 { valid := true, locked := true } }, .a, 1, 32, by decide +kernel⟩,
    ⟨upK { slots := slotAt 127 { valid := true, ownerSet := 3 } }, .a, 1, 127, by decide +kernel⟩,
    ⟨{ upK { slots := slotAt 32 { valid := true } } with rig := { active := { shared := true } } }, .a, 1, 32, by decide +kernel⟩⟩

/-- Concrete states and operands that meet the hypotheses of FabricKeysAndTheRandomSource, clause by clause. -/
theorem wit_FabricKeysAndTheRandomSource :
    (∃ (s : State) (p : Port) (tag : Nat) (i : Nat),
      mayWrite s p ∧ s.keys.fabOther = some i ∧ s.keys.fabStaged = true) ∧
    (∃ (s : State) (p : Port) (tag : Nat),
      mayWrite s p ∧ (s.keys.fabOther = none ∨ s.keys.fabStaged = false)) ∧
    (∃ (s : State) (p : Port) (tag : Nat),
      mayWrite s p ∧ (s.keys.fabOther = none ∨ s.keys.fabStaged = false)) ∧
    (∃ (s : State) (p : Port) (tag : Nat) (i : Nat),
      mayWrite s p ∧ s.keys.fabOther = some i ∧ s.keys.fabStaged = false) ∧
    (∃ (s : State) (p : Port) (tag : Nat),
      mayWrite s p ∧ (s.keys.fabOther = none ∨ s.keys.fabStaged = true)) ∧
    (∃ (s : State) (p : Port) (tag : Nat),
      mayWrite s p ∧ (s.keys.fabOther = none ∨ s.keys.fabStaged = true)) ∧
    (∃ (s : State),
      2 ^ 16 ≤ s.keys.drbgReqs ∧ s.keys.entropyOk = true) ∧
    (∃ (s : State),
      s.keys.entropyOk = false ∧ s.keys.waiting = [] ∧ settled s) ∧
    (∃ (s : State) (p : Port) (tag : Nat) (slot : Nat) (o : BitVec 8),
      s.keys.entropyOk = false ∧ s.keys.waiting = [.draw p tag slot o] ∧ mgmtHeld { s with keys := { s.keys with waiting := [] } } = false ∧ settled s) ∧
    (∃ (s : State) (p : Port) (tag : Nat) (slot : Nat) (o : BitVec 8),
      s.keys.entropyOk = false ∧ s.keys.waiting = [.draw p tag slot o] ∧ heard s.lmx p = true ∧ lockedOut s.lmx p = false ∧ settled s) ∧
    (∃ (s : State) (r : QuoteReq),
      s.keys.waiting = [] ∧ s.keys.entropyOk = false ∧ quoteWaiting s = some r ∧ r.dest = .mgmt ∧ settled s) ∧
    (∃ (s : State),
      s.keys.entropyOk = true ∧ settled s) :=
  ⟨⟨upK { fabCur := some 33, fabOther := some 34, fabStaged := true, fabGen := 4, fabOtherGen := 5 }, .a, 1, 34, by decide +kernel⟩,
    ⟨up, .a, 1, by decide +kernel⟩,
    ⟨upK { fabCur := some 33, fabOther := some 34, fabGen := 4, fabOtherGen := 5 }, .a, 1, by decide +kernel⟩,
    ⟨upK { slots := slotAt 34 { valid := true, use := .fabric }, fabCur := some 33, fabOther := some 34, fabGen := 6, fabOtherGen := 5 }, .a, 1, 34, by decide +kernel⟩,
    ⟨up, .a, 1, by decide +kernel⟩,
    ⟨upK { fabOther := some 34, fabStaged := true }, .a, 1, by decide +kernel⟩,
    ⟨upK { drbgReqs := 65536 }, by decide +kernel⟩,
    ⟨{ up with keys := {} }, by decide +kernel⟩,
    ⟨{ up with keys := { waiting := [.draw .a 1 40 0] } }, .a, 1, 40, 0, by decide +kernel⟩,
    ⟨{ up with keys := { waiting := [.draw .a 1 40 0] } }, .a, 1, 40, 0, by decide +kernel⟩,
    ⟨{ up with keys := { quotes := [⟨4, [], .pair⟩, ⟨3, [1], .mgmt⟩] } }, ⟨3, [1], .mgmt⟩, by decide +kernel⟩,
    ⟨up, by decide +kernel⟩⟩

/-- Concrete states and operands that meet the hypotheses of PartyChannelsCarryKeys, clause by clause. -/
theorem wit_PartyChannelsCarryKeys :
    (∃ (s : State) (via : Port) (tag : Nat) (q : Nat) (n : W256) (st : Status),
      heard s.lmx via = true ∧ bindCheck s q = some st) ∧
    (∃ (s : State) (via : Port) (tag : Nat) (q : Nat) (n : W256) (st : Status),
      heard s.lmx via = true ∧ bindCheck s q = some st) ∧
    (∃ (s : State) (via : Port) (tag : Nat) (q : Nat) (n : W256),
      heard s.lmx via = true ∧ bindCheck s q = none ∧ s.keys.entropyOk = true ∧ q < s.keys.channels.length) ∧
    (∃ (s : State) (via : Port) (tag : Nat) (q : Nat) (n : W256),
      heard s.lmx via = true ∧ bindCheck s q = none ∧ s.keys.entropyOk = false) ∧
    (∃ (s : State) (via : Port) (tag : Nat) (q : Nat) (ct : List Byte) (sig : List Byte),
      heard s.lmx via = true ∧ ((chanOf s q).ek = none ∨ (chanOf s q).bound = true ∨ (chanOf s q).quote = [])) ∧
    (∃ (s : State) (via : Port) (tag : Nat) (q : Nat) (ct : List Byte) (sig : List Byte),
      heard s.lmx via = true ∧ ((chanOf s q).ek = none ∨ (chanOf s q).bound = true ∨ (chanOf s q).quote = [])) ∧
    (∃ (s : State) (via : Port) (tag : Nat) (q : Nat) (ct : List Byte) (sig : List Byte) (ek : List Byte) (key : List Byte) (t : W256),
      heard s.lmx via = true ∧ q < 8 ∧ s.keys.channels.length = 8 ∧ s.keys.slots.length = 256 ∧ (chanOf s q).ek = some ek ∧ (chanOf s q).bound = false ∧ (chanOf s q).quote ≠ [] ∧ partyKey s q = some key ∧ t = shakeW ((chanOf s q).quote ++ ek ++ ct ++ [BitVec.ofNat 8 q])) ∧
    (∃ (s : State) (via : Port) (tag : Nat) (q : Nat) (k : Nat) (ok : Bool) (m : KeyMsg),
      (heard s.lmx via = false ∨ (chanOf s q).bound = false ∨ ok = false ∨ ∃ n, (chanOf s q).lastIn = some n ∧ k ≤ n)) ∧
    (∃ (s : State) (via : Port) (tag : Nat) (q : Nat) (k : Nat) (ok : Bool) (m : KeyMsg),
      (heard s.lmx via = false ∨ (chanOf s q).bound = false ∨ ok = false ∨ ∃ n, (chanOf s q).lastIn = some n ∧ k ≤ n)) ∧
    (∃ (s : State) (via : Port) (tag : Nat) (q : Nat) (k : Nat) (ok : Bool) (m : KeyMsg),
      (heard s.lmx via = false ∨ (chanOf s q).bound = false ∨ ok = false ∨ ∃ n, (chanOf s q).lastIn = some n ∧ k ≤ n)) ∧
    (∃ (s : State) (via : Port) (tag : Nat) (q : Nat) (k : Nat) (m : KeyMsg),
      heard s.lmx via = true ∧ (chanOf s q).bound = true ∧ (chanOf s q).lastIn = none ∧ 2 ^ 64 - 1 ≤ k ∧ q < 8 ∧ s.keys.channels.length = 8) ∧
    (∃ (s : State) (via : Port) (tag : Nat) (q : Nat) (k : Nat) (ok : Bool) (m : KeyMsg),
      m.op = 1) ∧
    (∃ (s : State) (via : Port) (tag : Nat) (q : Nat) (k : Nat) (ok : Bool) (m : KeyMsg),
      m.op = 2) ∧
    (∃ (s : State) (via : Port) (tag : Nat) (q : Nat) (k : Nat) (ok : Bool) (m : KeyMsg),
      m.op = 3) ∧
    (∃ (s : State) (via : Port) (tag : Nat) (q : Nat) (k : Nat) (ok : Bool) (m : KeyMsg),
      m.op = 4) ∧
    (∃ (s : State) (via : Port) (tag : Nat) (q : Nat) (k : Nat) (m : KeyMsg),
      heard s.lmx via = true ∧ messageGood s q ⟨k, true⟩ ∧ (m.op = 0 ∨ 4 < m.op)) ∧
    (∃ (s : State) (via : Port) (tag : Nat) (q : Nat) (k : Nat) (m : KeyMsg),
      heard s.lmx via = true ∧ messageGood s q ⟨k, true⟩ ∧ (m.op = 0 ∨ 4 < m.op)) ∧
    (∃ (s : State) (via : Port) (tag : Nat) (q : Nat) (k : Nat) (slot : Nat) (ok : Bool) (r : SpaceReq),
      heard s.lmx via = true ∧ ((spaceGet s slot).bound = false ∨ spaceParty s slot ≠ some q)) ∧
    (∃ (s : State) (via : Port) (tag : Nat) (q : Nat) (k : Nat) (slot : Nat) (ok : Bool) (r : SpaceReq),
      heard s.lmx via = true ∧ ((spaceGet s slot).bound = false ∨ spaceParty s slot ≠ some q)) ∧
    (∃ (s : State) (via : Port) (tag : Nat) (q : Nat) (m : KeyMsg) (a : MsgAuth) (st : Status),
      heard s.lmx via = true ∧ messageGood s q a ∧ q < 8 ∧ s.keys.slots.length = 256 ∧ deliverCheck s q m = some st) ∧
    (∃ (s : State) (via : Port) (tag : Nat) (q : Nat) (m : KeyMsg) (a : MsgAuth) (st : Status),
      heard s.lmx via = true ∧ messageGood s q a ∧ q < 8 ∧ s.keys.slots.length = 256 ∧ deliverCheck s q m = some st) ∧
    (∃ (s : State) (via : Port) (tag : Nat) (q : Nat) (m : KeyMsg) (a : MsgAuth) (st : Status),
      heard s.lmx via = true ∧ messageGood s q a ∧ q < 8 ∧ s.keys.slots.length = 256 ∧ deliverCheck s q m = some st) ∧
    (∃ (s : State) (via : Port) (tag : Nat) (q : Nat) (m : KeyMsg) (a : MsgAuth) (st : Status),
      heard s.lmx via = true ∧ messageGood s q a ∧ q < 8 ∧ s.keys.slots.length = 256 ∧ deliverCheck s q m = some st) ∧
    (∃ (s : State) (via : Port) (tag : Nat) (q : Nat) (m : KeyMsg) (a : MsgAuth) (st : Status),
      heard s.lmx via = true ∧ messageGood s q a ∧ q < 8 ∧ s.keys.slots.length = 256 ∧ deliverCheck s q m = some st) ∧
    (∃ (s : State) (via : Port) (tag : Nat) (q : Nat) (m : KeyMsg) (a : MsgAuth) (st : Status),
      heard s.lmx via = true ∧ messageGood s q a ∧ q < 8 ∧ s.keys.slots.length = 256 ∧ deliverCheck s q m = some st) ∧
    (∃ (s : State) (via : Port) (tag : Nat) (q : Nat) (m : KeyMsg) (a : MsgAuth) (st : Status),
      heard s.lmx via = true ∧ messageGood s q a ∧ q < 8 ∧ s.keys.slots.length = 256 ∧ deliverCheck s q m = some st) ∧
    (∃ (s : State) (via : Port) (tag : Nat) (q : Nat) (m : KeyMsg) (a : MsgAuth),
      heard s.lmx via = true ∧ messageGood s q a ∧ q < 8 ∧ s.keys.slots.length = 256 ∧ deliverCheck s q m = none ∧ m.kind = 0) ∧
    (∃ (s : State) (via : Port) (tag : Nat) (q : Nat) (m : KeyMsg) (a : MsgAuth),
      heard s.lmx via = true ∧ messageGood s q a ∧ q < 8 ∧ s.keys.slots.length = 256 ∧ deliverCheck s q m = none ∧ m.kind = 0) ∧
    (∃ (s : State) (via : Port) (tag : Nat) (q : Nat) (m : KeyMsg) (a : MsgAuth),
      heard s.lmx via = true ∧ messageGood s q a ∧ q < 8 ∧ s.keys.slots.length = 256 ∧ deliverCheck s q m = none ∧ m.kind = 0) ∧
    (∃ (s : State) (via : Port) (tag : Nat) (q : Nat) (m : KeyMsg) (a : MsgAuth) (parts : List (Nat × W256)) (rest : List Derivation),
      heard s.lmx via = true ∧ messageGood s q a ∧ q < 8 ∧ s.keys.slots.length = 256 ∧ deliverCheck s q m = none ∧ m.kind = 1 ∧ parts = ((pendingOf s m).map (·.parts)).getD [] ++ [(q, m.material)] ∧ rest = s.keys.pendings.filter (fun x => decide (some x ≠ pendingOf s m))) ∧
    (∃ (s : State) (via : Port) (tag : Nat) (q : Nat) (m : KeyMsg) (a : MsgAuth),
      heard s.lmx via = true ∧ messageGood s q a ∧ q < 8 ∧ (m.reservedZero = false ∨ useOfCode m.use = none ∨ m.slot < 32 ∨ 127 < m.slot)) ∧
    (∃ (s : State) (via : Port) (tag : Nat) (q : Nat) (m : KeyMsg) (a : MsgAuth),
      heard s.lmx via = true ∧ messageGood s q a ∧ q < 8 ∧ (m.reservedZero = false ∨ useOfCode m.use = none ∨ m.slot < 32 ∨ 127 < m.slot)) ∧
    (∃ (s : State) (via : Port) (tag : Nat) (q : Nat) (m : KeyMsg) (a : MsgAuth),
      heard s.lmx via = true ∧ messageGood s q a ∧ q < 8 ∧ (m.reservedZero = false ∨ useOfCode m.use = none ∨ m.slot < 32 ∨ 127 < m.slot)) ∧
    (∃ (s : State) (via : Port) (tag : Nat) (q : Nat) (m : KeyMsg) (a : MsgAuth),
      heard s.lmx via = true ∧ messageGood s q a ∧ q < 8 ∧ (m.reservedZero = false ∨ useOfCode m.use = none ∨ m.slot < 32 ∨ 127 < m.slot)) ∧
    (∃ (s : State) (via : Port) (tag : Nat) (q : Nat) (m : KeyMsg) (a : MsgAuth),
      heard s.lmx via = true ∧ messageGood s q a ∧ q < 8 ∧ m.reservedZero = true ∧ useOfCode m.use ≠ none ∧ 32 ≤ m.slot ∧ m.slot ≤ 127 ∧ (s.keys.slots.getD m.slot {}).valid = false) ∧
    (∃ (s : State) (via : Port) (tag : Nat) (q : Nat) (m : KeyMsg) (a : MsgAuth),
      heard s.lmx via = true ∧ messageGood s q a ∧ q < 8 ∧ m.reservedZero = true ∧ useOfCode m.use ≠ none ∧ 32 ≤ m.slot ∧ m.slot ≤ 127 ∧ (s.keys.slots.getD m.slot {}).valid = true ∧ ((s.keys.slots.getD m.slot {}).ownerSet ≠ BitVec.ofNat 8 (2 ^ q) ∨ (s.keys.slots.getD m.slot {}).locked = true)) ∧
    (∃ (s : State) (via : Port) (tag : Nat) (q : Nat) (m : KeyMsg) (a : MsgAuth),
      heard s.lmx via = true ∧ messageGood s q a ∧ q < 8 ∧ m.reservedZero = true ∧ useOfCode m.use ≠ none ∧ 32 ≤ m.slot ∧ m.slot ≤ 127 ∧ (s.keys.slots.getD m.slot {}).valid = true ∧ ((s.keys.slots.getD m.slot {}).ownerSet ≠ BitVec.ofNat 8 (2 ^ q) ∨ (s.keys.slots.getD m.slot {}).locked = true)) ∧
    (∃ (s : State) (via : Port) (tag : Nat) (q : Nat) (m : KeyMsg) (a : MsgAuth),
      heard s.lmx via = true ∧ messageGood s q a ∧ q < 8 ∧ m.reservedZero = true ∧ useOfCode m.use ≠ none ∧ 32 ≤ m.slot ∧ m.slot ≤ 127 ∧ (s.keys.slots.getD m.slot {}).valid = true ∧ (s.keys.slots.getD m.slot {}).ownerSet = BitVec.ofNat 8 (2 ^ q) ∧ (s.keys.slots.getD m.slot {}).locked = false) ∧
    (∃ (s : State) (via : Port) (tag : Nat) (q : Nat) (m : KeyMsg) (a : MsgAuth),
      heard s.lmx via = true ∧ messageGood s q a ∧ q < 8 ∧ m.reservedZero = true ∧ useOfCode m.use ≠ none ∧ 32 ≤ m.slot ∧ m.slot ≤ 127 ∧ (s.keys.slots.getD m.slot {}).valid = true ∧ (s.keys.slots.getD m.slot {}).ownerSet.getLsbD q = false) ∧
    (∃ (s : State) (via : Port) (tag : Nat) (q : Nat) (m : KeyMsg) (a : MsgAuth),
      heard s.lmx via = true ∧ messageGood s q a ∧ q < 8 ∧ m.reservedZero = true ∧ useOfCode m.use ≠ none ∧ 32 ≤ m.slot ∧ m.slot ≤ 127 ∧ (s.keys.slots.getD m.slot {}).valid = true ∧ (s.keys.slots.getD m.slot {}).ownerSet.getLsbD q = true) ∧
    (∃ (s : State) (via : Port) (tag : Nat) (q : Nat) (m : KeyMsg) (a : MsgAuth),
      heard s.lmx via = true ∧ messageGood s q a ∧ q < 8 ∧ m.reservedZero = true ∧ useOfCode m.use ≠ none ∧ 32 ≤ m.slot ∧ m.slot ≤ 127 ∧ (s.keys.slots.getD m.slot {}).valid = true ∧ (s.keys.slots.getD m.slot {}).ownerSet.getLsbD q = true) ∧
    (∃ (s : State) (via : Port) (tag : Nat) (q : Nat) (m : KeyMsg) (a : MsgAuth) (zero : Bool),
      heard s.lmx via = true ∧ messageGood s q a ∧ zero = (m.reservedZero && decide (m.use = 0 ∧ m.slot = 0 ∧ m.kind = 0 ∧ m.material = 0 ∧ m.generation = 0))) ∧
    (∃ (s : State) (via : Port) (tag : Nat) (q : Nat) (m : KeyMsg) (a : MsgAuth) (zero : Bool),
      heard s.lmx via = true ∧ messageGood s q a ∧ zero = (m.reservedZero && decide (m.use = 0 ∧ m.slot = 0 ∧ m.kind = 0 ∧ m.material = 0 ∧ m.generation = 0))) ∧
    (∃ (s : State) (via : Port) (tag : Nat) (q : Nat) (m : KeyMsg) (a : MsgAuth) (zero : Bool),
      heard s.lmx via = true ∧ messageGood s q a ∧ zero = (m.reservedZero && decide (m.use = 0 ∧ m.slot = 0 ∧ m.kind = 0 ∧ m.material = 0 ∧ m.generation = 0))) :=
  ⟨⟨up, .a, 1, 8, 0, .badDescriptor, by decide +kernel⟩,
    ⟨upC (slotAt 0 {}), .a, 1, 0, 0, .busy, by decide +kernel⟩,
    ⟨up, .a, 1, 7, 5, by decide +kernel⟩,
    ⟨{ up with keys := { vaultOk := true } }, .a, 1, 7, 5, by decide +kernel⟩,
    ⟨up, .a, 1, 0, [], [], by decide +kernel⟩,
    ⟨upC (slotAt 0 {}), .a, 1, 0, [], [], by decide +kernel⟩,
    ⟨{ upK { slots := slotAt 0 {}, channels := { ek := some [1], dk := [2], quote := [3] } :: List.replicate 7 {} } with rig := { active := { parties := [⟨0, [7]⟩] } } }, .a, 1, 0, [4], [5], [1], [7], _, (by decide +kernel), (by decide +kernel), (by decide +kernel), (by decide +kernel), (by decide +kernel), (by decide +kernel), (by decide +kernel), (by decide +kernel), rfl⟩,
    ⟨up, .a, 1, 0, 0, true, msgK, by decide +kernel⟩,
    ⟨upC (slotAt 0 {}), .a, 1, 0, 0, false, msgK, by decide +kernel⟩,
    ⟨{ upC (slotAt 0 {}) with keys := { channels := { bound := true, lastIn := some 4 } :: List.replicate 7 {} } }, .a, 1, 0, 4, true, msgK, by decide +kernel⟩,
    ⟨upC (slotAt 8 { valid := true }), .a, 1, 0, 2 ^ 64 - 1, msgK, by decide +kernel⟩,
    ⟨up, .a, 1, 0, 0, true, { msgK with op := 1 }, by decide +kernel⟩,
    ⟨up, .a, 1, 0, 0, true, { msgK with op := 2 }, by decide +kernel⟩,
    ⟨up, .a, 1, 0, 0, true, { msgK with op := 3 }, by decide +kernel⟩,
    ⟨up, .a, 1, 0, 0, true, { msgK with op := 4 }, by decide +kernel⟩,
    ⟨upC (slotAt 0 {}), .a, 1, 0, 0, { msgK with op := 5 }, by decide +kernel⟩,
    ⟨{ upC (slotAt 0 {}) with keys := { channels := { bound := true, lastIn := some 4 } :: List.replicate 7 {} } }, .a, 1, 0, 5, { msgK with op := 0 }, by decide +kernel⟩,
    ⟨up, .a, 1, 0, 0, 0, true, .fenceQuery 0x20000000#32, by decide +kernel⟩,
    ⟨upC (slotAt 0 {}), .a, 1, 1, 0, 0, true, .fenceQuery 0x20000000#32, by decide +kernel⟩,
    ⟨upC (slotAt 40 { valid := true, use := .kdf, ownerSet := 1 }), .a, 1, 0, msgK, ⟨0, true⟩, .busy, by decide +kernel⟩,
    ⟨upC (slotAt 0 {}), .a, 1, 0, { msgK with slot := 31 }, ⟨0, true⟩, .badDescriptor, by decide +kernel⟩,
    ⟨upC (slotAt 0 {}), .a, 1, 0, { msgK with slot := 128 }, ⟨0, true⟩, .badDescriptor, by decide +kernel⟩,
    ⟨upC (slotAt 0 {}), .a, 1, 0, { msgK with generation := 1 }, ⟨0, true⟩, .badDescriptor, by decide +kernel⟩,
    ⟨upC (slotAt 0 {}), .a, 1, 0, { msgK with use := 0 }, ⟨0, true⟩, .flowDenied, by decide +kernel⟩,
    ⟨upC (slotAt 0 {}), .a, 1, 0, { msgK with use := 3, kind := 1 }, ⟨0, true⟩, .flowDenied, by decide +kernel⟩,
    ⟨upC (slotAt 0 {}), .a, 1, 0, { msgK with use := 1, kind := 1 }, ⟨0, true⟩, .flowDenied, by decide +kernel⟩,
    ⟨upC (slotAt 0 {}), .a, 1, 0, msgK, ⟨0, true⟩, by decide +kernel⟩,
    ⟨upC (slotAt 0 {}), .a, 1, 0, { msgK with slot := 32 }, ⟨0, true⟩, by decide +kernel⟩,
    ⟨upC (slotAt 0 {}), .a, 1, 0, { msgK with slot := 127, use := 3 }, ⟨0, true⟩, by decide +kernel⟩,
    ⟨upC (slotAt 0 {}), .a, 1, 0, { msgK with kind := 1 }, ⟨0, true⟩, _, _, (by decide +kernel), (by decide +kernel), (by decide +kernel), (by decide +kernel), (by decide +kernel), (by decide +kernel), rfl, rfl⟩,
    ⟨upC (slotAt 0 {}), .a, 1, 0, { msgK with slot := 31 }, ⟨0, true⟩, by decide +kernel⟩,
    ⟨upC (slotAt 0 {}), .a, 1, 0, { msgK with slot := 128 }, ⟨0, true⟩, by decide +kernel⟩,
    ⟨upC (slotAt 0 {}), .a, 1, 0, { msgK with use := 9 }, ⟨0, true⟩, by decide +kernel⟩,
    ⟨upC (slotAt 0 {}), .a, 1, 0, { msgK with reservedZero := false }, ⟨0, true⟩, by decide +kernel⟩,
    ⟨upC (slotAt 0 {}), .a, 1, 0, msgK, ⟨0, true⟩, by decide +kernel⟩,
    ⟨upC (slotAt 40 { valid := true, use := .kdf, ownerSet := 1, locked := true }), .a, 1, 0, msgK, ⟨0, true⟩, by decide +kernel⟩,
    ⟨upC (slotAt 40 { valid := true, use := .kdf, ownerSet := 3, locked := false }), .a, 1, 0, msgK, ⟨0, true⟩, by decide +kernel⟩,
    ⟨upC (slotAt 40 { valid := true, use := .kdf, ownerSet := 1 }), .a, 1, 0, msgK, ⟨0, true⟩, by decide +kernel⟩,
    ⟨upC (slotAt 40 { valid := true, use := .kdf, ownerSet := 2 }), .a, 1, 0, msgK, ⟨0, true⟩, by decide +kernel⟩,
    ⟨upC (slotAt 40 { valid := true, use := .kdf, ownerSet := 1 }), .a, 1, 0, msgK, ⟨0, true⟩, by decide +kernel⟩,
    ⟨upC (slotAt 40 { valid := true, use := .kdf, ownerSet := 3 }), .a, 1, 0, msgK, ⟨0, true⟩, by decide +kernel⟩,
    ⟨upC (slotAt 0 {}), .a, 1, 0, { msgK with use := 0, slot := 0, material := 0 }, ⟨0, true⟩, _, (by decide +kernel), (by decide +kernel), rfl⟩,
    ⟨upC (slotAt 0 {}), .a, 1, 0, msgK, ⟨0, true⟩, _, (by decide +kernel), (by decide +kernel), rfl⟩,
    ⟨upC (slotAt 0 {}), .a, 1, 0, { msgK with use := 0, slot := 0, material := 0, target := 16 }, ⟨0, true⟩, _, (by decide +kernel), (by decide +kernel), rfl⟩⟩

/-- Concrete states and operands that meet the hypotheses of LifeCycleTransitions, clause by clause. -/
theorem wit_LifeCycleTransitions :
    (∃ (s : State) (p : Port) (tag : Nat) (b : Boot),
      mayWrite s p ∧ lcNow s.lc = 3 ∧ lcFree s = true) ∧
    (∃ (s : State) (p : Port) (tag : Nat) (b : Boot),
      mayWrite s p ∧ (lcNow s.lc ≠ 3 ∨ lcFree s = false)) ∧
    (∃ (s : State) (u : State) (k : Nat) (confirm : BitVec 32) (b : Boot),
      s.power.tapLive = true ∧ jtagOpen s 0x30 = true ∧ u = { s with jtag := { s.jtag with ir := 0x30, driving := false } } ∧ ((k = 1 ∧ s.lc.state = 0 ∧ s.lc.testOpen = false) ∨ (k = 3 ∧ s.lc.state = 1 ∧ s.lc.testOpen = true ∧ s.keys.entropyOk = true))) ∧
    (∃ (s : State) (u : State) (k : Nat) (confirm : BitVec 32) (b : Boot),
      s.power.tapLive = true ∧ jtagOpen s 0x30 = true ∧ u = { s with jtag := { s.jtag with ir := 0x30, driving := false } } ∧ ((k = 1 ∧ s.lc.state = 0 ∧ s.lc.testOpen = false) ∨ (k = 3 ∧ s.lc.state = 1 ∧ s.lc.testOpen = true ∧ s.keys.entropyOk = true))) ∧
    (∃ (s : State) (u : State) (confirm : BitVec 32) (b : Boot),
      s.power.tapLive = true ∧ jtagOpen s 0x30 = true ∧ s.keys.entropyOk = false ∧ u = { s with jtag := { s.jtag with ir := 0x30, driving := false } }) ∧
    (∃ (s : State) (b : Boot) (k : Nat) (g : Nat) (i : Nat),
      s.pending = [] ∧ s.lc.going = some { target := g, slot := some i, boot := b } ∧ ((k = 0 ∧ g = 1) ∨ (k = 3 ∧ g = 4) ∨ (k = 4 ∧ g = 5)) ∧ fuseState s k ∧ recFree s.lc = some i ∧ s.power.resetN = true ∧ s.power.strikeN = true ∧ bootGood b) ∧
    (∃ (s : State) (b : Boot) (k : Nat) (g : Nat) (i : Nat),
      s.pending = [] ∧ s.lc.going = some { target := g, slot := some i, boot := b } ∧ ((k = 0 ∧ g = 1) ∨ (k = 3 ∧ g = 4) ∨ (k = 4 ∧ g = 5)) ∧ fuseState s k ∧ recFree s.lc = some i ∧ s.power.resetN = true ∧ s.power.strikeN = true ∧ bootGood b) ∧
    (∃ (s : State) (b : Boot) (k : Nat) (g : Nat) (i : Nat),
      s.pending = [] ∧ s.lc.going = some { target := g, slot := some i, boot := b } ∧ ((k = 0 ∧ g = 1) ∨ (k = 3 ∧ g = 4) ∨ (k = 4 ∧ g = 5)) ∧ fuseState s k ∧ recFree s.lc = some i ∧ s.power.resetN = true ∧ s.power.strikeN = true ∧ bootGood b) ∧
    (∃ (s : State) (b : Boot) (i : Nat),
      s.pending = [] ∧ s.lc.going = some { target := 3, slot := some i, boot := b } ∧ fuseState s 1 ∧ recFree s.lc = some i ∧ s.keys.entropyOk = true ∧ vaultUsed s.lc = false ∧ s.power.resetN = true ∧ s.power.strikeN = true ∧ bootGood b) ∧
    (∃ (s : State) (b : Boot) (i : Nat),
      s.pending = [] ∧ s.lc.going = some { target := 3, slot := some i, boot := b } ∧ fuseState s 1 ∧ recFree s.lc = some i ∧ vaultUsed s.lc = true ∧ s.power.resetN = true ∧ s.power.strikeN = true ∧ bootGood b) :=
  ⟨⟨lcS 0x00FF { state := 3 }, .a, 1, goodBoot, by decide +kernel⟩,
    ⟨up, .a, 1, goodBoot, by decide +kernel⟩,
    ⟨lcS 0 { state := 0 }, _, 1, 0, goodBoot, (by decide +kernel), (by decide +kernel), rfl, (by decide +kernel)⟩,
    ⟨lcS 0x000F { state := 1, testOpen := true }, _, 3, 0, goodBoot, (by decide +kernel), (by decide +kernel), rfl, (by decide +kernel)⟩,
    ⟨{ lcS 0x000F { state := 1, testOpen := true } with keys := {} }, _, 0, goodBoot, (by decide +kernel), (by decide +kernel), (by decide +kernel), rfl⟩,
    ⟨lcS 0 { state := 0, going := some { target := 1, slot := some 3, boot := goodBoot } }, goodBoot, 0, 1, 3, by decide +kernel⟩,
    ⟨lcS 0x00FF { state := 3, going := some { target := 4, slot := some 3, boot := goodBoot } }, goodBoot, 3, 4, 3, by decide +kernel⟩,
    ⟨lcS 0x0FFF { state := 4, going := some { target := 5, slot := some 3, boot := goodBoot } }, goodBoot, 4, 5, 3, by decide +kernel⟩,
    ⟨lcS 0x000F { state := 1, testOpen := true, vault0 := 0, vault1 := 0, vaultCheck := 0, going := some { target := 3, slot := some 3, boot := goodBoot } }, goodBoot, 3, by decide +kernel⟩,
    ⟨lcS 0x000F { state := 1, testOpen := true, vault0 := 5, vault1 := 6, going := some { target := 3, slot := some 3, boot := goodBoot } }, goodBoot, 3, by decide +kernel⟩⟩

/-- Concrete states and operands that meet the hypotheses of ScrapWipesEverything, clause by clause. -/
theorem wit_ScrapWipesEverything :
    (∃ (s : State) (p : Port) (tag : Nat) (confirm : BitVec 32),
      mayWrite s p ∧ confirm.toNat = s.power.serial.toNat % 2 ^ 32) ∧
    (∃ (s : State) (p : Port) (tag : Nat) (confirm : BitVec 32),
      mayWrite s p ∧ confirm.toNat ≠ s.power.serial.toNat % 2 ^ 32) ∧
    (∃ (s : State) (confirm : BitVec 32) (b : Boot),
      s.power.tapLive = true ∧ jtagOpen s 0x30 = true ∧ confirm.toNat = s.power.serial.toNat % 2 ^ 32) ∧
    (∃ (s : State) (confirm : BitVec 32) (b : Boot),
      s.power.tapLive = true ∧ jtagOpen s 0x30 = true ∧ confirm.toNat ≠ s.power.serial.toNat % 2 ^ 32) ∧
    (∃ (s : State) (b : Boot) (slot : Option Nat),
      s.pending = [] ∧ s.lc.going = some { target := 6, slot := slot, boot := b } ∧ s.lc.copies.length = 3) :=
  ⟨⟨up, .a, 1, 7, by decide +kernel⟩,
    ⟨up, .a, 1, 8, by decide +kernel⟩,
    ⟨lcS 0 { state := 0 }, 7, goodBoot, by decide +kernel⟩,
    ⟨lcS 0 { state := 0 }, 8, goodBoot, by decide +kernel⟩,
    ⟨{ up with lc := { going := some { target := 6, slot := none, boot := goodBoot } } }, goodBoot, none, by decide +kernel⟩⟩

/-- Concrete states and operands that meet the hypotheses of ChallengeIsDrawnAndSigned, clause by clause. -/
theorem wit_ChallengeIsDrawnAndSigned :
    (∃ (s : State) (p : Port) (tag : Nat) (purpose : Nat) (scope : Nat) (q : List QuoteReq) (body : List Byte),
      mayWrite s p ∧ s.keys.entropyOk = true ∧ purpose ≠ 0 ∧ purpose ≤ 3 ∧ q = s.keys.quotes.filter (fun r => r.dest != .challenge) ∧ (q.length < 64 ∨ s.keys.vaultOk = false) ∧ body = challengeBody s purpose (if purpose = 1 then scope % 16 else 0) (drawAt s 0)) ∧
    (∃ (s : State) (p : Port) (tag : Nat) (purpose : Nat) (scope : Nat),
      mayWrite s p ∧ s.keys.entropyOk = true ∧ (purpose = 0 ∨ 3 < purpose)) ∧
    (∃ (s : State) (p : Port) (tag : Nat) (purpose : Nat) (scope : Nat),
      mayWrite s p ∧ s.keys.entropyOk = true ∧ (purpose = 0 ∨ 3 < purpose)) ∧
    (∃ (s : State) (p : Port) (tag : Nat) (purpose : Nat) (scope : Nat),
      mayWrite s p ∧ s.keys.entropyOk = true ∧ s.keys.vaultOk = true ∧ purpose ≠ 0 ∧ purpose ≤ 3 ∧ 64 ≤ (s.keys.quotes.filter fun r => r.dest != .challenge).length) ∧
    (∃ (s : State) (p : Port) (tag : Nat) (purpose : Nat) (scope : Nat),
      mayWrite s p ∧ s.keys.entropyOk = false) ∧
    (∃ (s : State) (c : Challenge) (r : QuoteReq) (rest : List QuoteReq),
      s.lc.chal = some c ∧ c.digest = none ∧ s.keys.entropyOk = true ∧ s.keys.vaultOk = true ∧ s.keys.quotes = r :: rest ∧ r.dest = .challenge) ∧
    (∃ (s : State) (c : Challenge) (r : QuoteReq) (rest : List QuoteReq),
      s.lc.chal = some c ∧ s.keys.vaultOk = true ∧ s.keys.quotes = r :: rest ∧ r.dest ≠ .challenge) ∧
    (∃ (s : State) (c : Challenge) (sig : List Byte),
      s.lc.chal = some c ∧ c.digest = none ∧ s.keys.vaultOk = false ∧ sig = List.replicate 17088 0) :=
  ⟨⟨up, .a, 1, 1, 19, _, _, (by decide +kernel), (by decide +kernel), (by decide +kernel), (by decide +kernel), rfl, (by decide +kernel), rfl⟩,
    ⟨up, .a, 1, 0, 0, by decide +kernel⟩,
    ⟨up, .a, 1, 4, 0, by decide +kernel⟩,
    ⟨upK { quotes := List.replicate 64 ⟨0, [], .mgmt⟩ }, .a, 1, 3, 0, by decide +kernel⟩,
    ⟨{ up with keys := {} }, .a, 1, 1, 0, by decide +kernel⟩,
    ⟨{ upK { quotes := [⟨0, [], .challenge⟩] } with lc := { chal := some ⟨1, 3, [1], none⟩ } }, ⟨1, 3, [1], none⟩, ⟨0, [], .challenge⟩, [], by decide +kernel⟩,
    ⟨{ upK { quotes := [⟨3, [1], .mgmt⟩] } with lc := { chal := some ⟨1, 3, [1], none⟩ } }, ⟨1, 3, [1], none⟩, ⟨3, [1], .mgmt⟩, [], by decide +kernel⟩,
    ⟨{ up with keys := { entropyOk := true }, lc := { chal := some ⟨1, 3, [1], none⟩ } }, ⟨1, 3, [1], none⟩, _, (by decide +kernel), (by decide +kernel), (by decide +kernel), rfl⟩⟩

/-- Concrete states and operands that meet the hypotheses of TokensOpenWhatTheyGrant, clause by clause. -/
theorem wit_TokensOpenWhatTheyGrant :
    (∃ (s : State) (p : Port) (tag : Nat) (b : Boot),
      mayWrite s p ∧ s.lc.chal = none) ∧
    (∃ (s : State) (u : State) (p : Port) (tag : Nat) (b : Boot) (c : Challenge),
      mayWrite s p ∧ s.lc.chal = some c ∧ u = { s with lc := { s.lc with chal := none }, keys := { s.keys with quotes := s.keys.quotes.filter fun r => r.dest != .challenge } } ∧ purposeAdmitted (lcNow s.lc) c.purpose = false) ∧
    (∃ (s : State) (u : State) (p : Port) (tag : Nat) (b : Boot) (c : Challenge),
      mayWrite s p ∧ s.lc.chal = some c ∧ u = { s with lc := { s.lc with chal := none }, keys := { s.keys with quotes := s.keys.quotes.filter fun r => r.dest != .challenge } } ∧ purposeAdmitted (lcNow s.lc) c.purpose = false) ∧
    (∃ (s : State) (u : State) (p : Port) (tag : Nat) (b : Boot) (c : Challenge),
      mayWrite s p ∧ s.lc.chal = some c ∧ u = { s with lc := { s.lc with chal := none }, keys := { s.keys with quotes := s.keys.quotes.filter fun r => r.dest != .challenge } } ∧ purposeAdmitted (lcNow s.lc) c.purpose = true ∧ ((c.purpose = 1 ∧ sharedSoon s = false) ∨ c.purpose = 2 ∨ (c.purpose = 3 ∧ s.lc.tokens = BitVec.allOnes 16))) ∧
    (∃ (s : State) (u : State) (p : Port) (tag : Nat) (b : Boot) (c : Challenge),
      mayWrite s p ∧ s.lc.chal = some c ∧ u = { s with lc := { s.lc with chal := none }, keys := { s.keys with quotes := s.keys.quotes.filter fun r => r.dest != .challenge } } ∧ purposeAdmitted (lcNow s.lc) c.purpose = true ∧ ((c.purpose = 1 ∧ sharedSoon s = false) ∨ c.purpose = 2 ∨ (c.purpose = 3 ∧ s.lc.tokens = BitVec.allOnes 16))) ∧
    (∃ (s : State) (u : State) (p : Port) (tag : Nat) (b : Boot) (c : Challenge),
      mayWrite s p ∧ s.lc.chal = some c ∧ u = { s with lc := { s.lc with chal := none }, keys := { s.keys with quotes := s.keys.quotes.filter fun r => r.dest != .challenge } } ∧ purposeAdmitted (lcNow s.lc) c.purpose = true ∧ ((c.purpose = 1 ∧ sharedSoon s = false) ∨ c.purpose = 2 ∨ (c.purpose = 3 ∧ s.lc.tokens = BitVec.allOnes 16))) ∧
    (∃ (s : State) (u : State) (p : Port) (tag : Nat) (b : Boot) (c : Challenge) (k : Nat),
      mayWrite s p ∧ s.lc.chal = some c ∧ u = { s with lc := { s.lc with chal := none }, keys := { s.keys with quotes := s.keys.quotes.filter fun r => r.dest != .challenge } } ∧ purposeAdmitted (lcNow s.lc) c.purpose = true ∧ c.purpose = 1 ∧ sharedSoon s = true ∧ fuseState s k ∧ starts k ∧ s.power.resetN = true ∧ s.power.strikeN = true ∧ bootGood b) ∧
    (∃ (s : State) (u : State) (p : Port) (tag : Nat) (b : Boot) (c : Challenge) (k : Nat) (i : Nat),
      mayWrite s p ∧ s.lc.chal = some c ∧ u = { s with lc := { s.lc with chal := none }, keys := { s.keys with quotes := s.keys.quotes.filter fun r => r.dest != .challenge } } ∧ purposeAdmitted (lcNow s.lc) c.purpose = true ∧ c.purpose = 3 ∧ i < 16 ∧ s.lc.tokens.getLsbD i = false ∧ (∀ j, j < i → s.lc.tokens.getLsbD j = true) ∧ fuseState s k ∧ starts k ∧ s.power.resetN = true ∧ s.power.strikeN = true ∧ bootGood b) ∧
    (∃ (s : State) (p : Port) (tag : Nat),
      mayWrite s p) :=
  ⟨⟨up, .a, 1, goodBoot, by decide +kernel⟩,
    ⟨{ up with lc := { state := 4, chal := some (chal 3) } }, _, .a, 1, goodBoot, chal 3, (by decide +kernel), (by decide +kernel), rfl, (by decide +kernel)⟩,
    ⟨{ up with lc := { state := 0, chal := some (chal 1) } }, _, .a, 1, goodBoot, chal 1, (by decide +kernel), (by decide +kernel), rfl, (by decide +kernel)⟩,
    ⟨{ up with lc := { state := 4, chal := some (chal 1) } }, _, .a, 1, goodBoot, chal 1, (by decide +kernel), (by decide +kernel), rfl, (by decide +kernel), (by decide +kernel)⟩,
    ⟨{ up with lc := { state := 4, chal := some (chal 2) } }, _, .a, 1, goodBoot, chal 2, (by decide +kernel), (by decide +kernel), rfl, (by decide +kernel), (by decide +kernel)⟩,
    ⟨{ up with lc := { state := 5, tokens := 0xFFFF, chal := some (chal 3) } }, _, .a, 1, goodBoot, chal 3, (by decide +kernel), (by decide +kernel), rfl, (by decide +kernel), (by decide +kernel)⟩,
    ⟨{ up with lc := { copies := [0x0FFF, 0x0FFF, 0x0FFF], state := 4, chal := some (chal 1) }, rig := { active := { shared := true } } }, _, .a, 1, goodBoot, chal 1, 4, (by decide +kernel), (by decide +kernel), rfl, (by decide +kernel), (by decide +kernel), (by decide +kernel), (by decide +kernel), (by decide +kernel), (by decide +kernel), (by decide +kernel), (by decide +kernel)⟩,
    ⟨{ up with lc := { copies := [0x3FFF, 0x3FFF, 0x3FFF], state := 5, tokens := 1, chal := some (chal 3) } }, _, .a, 1, goodBoot, chal 3, 5, 1, (by decide +kernel), (by decide +kernel), rfl, (by decide +kernel), (by decide +kernel), (by decide +kernel), (by decide +kernel), (by decide +kernel), (by decide +kernel), (by decide +kernel), (by decide +kernel), (by decide +kernel), (by decide +kernel)⟩,
    ⟨up, .a, 1, by decide +kernel⟩⟩

/-- Concrete states and operands that meet the hypotheses of DebugBufferAccess, clause by clause. -/
theorem wit_DebugBufferAccess :
    (∃ (s : State) (p : Port) (tag : Nat),
      mayRead s p ∧ s.lc.bufPtr < dbgLimit) ∧
    (∃ (s : State) (p : Port) (tag : Nat),
      mayRead s p ∧ dbgLimit ≤ s.lc.bufPtr) ∧
    (∃ (s : State) (p : Port) (tag : Nat) (v : Word),
      mayWrite s p ∧ s.lc.bufPtr < dbgLimit) ∧
    (∃ (s : State) (p : Port) (tag : Nat) (v : Word),
      mayWrite s p ∧ dbgLimit ≤ s.lc.bufPtr) :=
  ⟨⟨up, .a, 1, by decide +kernel⟩,
    ⟨{ up with lc := { bufPtr := dbgLimit } }, .a, 1, by decide +kernel⟩,
    ⟨{ up with lc := { bufPtr := dbgLimit - 8 } }, .a, 1, 5, by decide +kernel⟩,
    ⟨{ up with lc := { bufPtr := dbgLimit } }, .a, 1, 5, by decide +kernel⟩⟩

/-- Concrete states and operands that meet the hypotheses of JtagInstructionsSelect, clause by clause. -/
theorem wit_JtagInstructionsSelect :
    (∃ (s : State) (ir : BitVec 8),
      s.power.tapLive = true ∧ jtagKnown ir.toNat = true ∧ jtagOpen s ir.toNat = true) ∧
    (∃ (s : State) (ir : BitVec 8),
      s.power.tapLive = true ∧ jtagKnown ir.toNat = true ∧ jtagOpen s ir.toNat = false) ∧
    (∃ (s : State) (ir : BitVec 8),
      s.power.tapLive = true ∧ jtagKnown ir.toNat = false) ∧
    (∃ (s : State) (l : List Bool),
      s.power.tapLive = true) ∧
    (∃ (s : State),
      s.power.tapLive = true) ∧
    (∃ (s : State) (l : List Bool),
      s.power.tapLive = true) ∧
    (∃ (s : State) (b : Bool),
      s.power.tapLive = true) ∧
    (∃ (s : State),
      s.power.tapLive = true ∧ s.power.scrapStop = true) ∧
    (∃ (s : State),
      s.power.tapLive = true ∧ s.power.scrapStop = false) ∧
    (∃ (s : State),
      s.power.tapLive = true) :=
  ⟨⟨up, 0x20, by decide +kernel⟩,
    ⟨{ up with lc := { state := 4 } }, 0x21, by decide +kernel⟩,
    ⟨up, 0x25, by decide +kernel⟩,
    ⟨up, [true], by decide +kernel⟩,
    ⟨up, by decide +kernel⟩,
    ⟨up, [true], by decide +kernel⟩,
    ⟨up, true, by decide +kernel⟩,
    ⟨{ up with power := { upPower with scrapStop := true } }, by decide +kernel⟩,
    ⟨up, by decide +kernel⟩,
    ⟨up, by decide +kernel⟩⟩

/-- Concrete states and operands that meet the hypotheses of DebugPortsReachWhatIsOpen, clause by clause. -/
theorem wit_DebugPortsReachWhatIsOpen :
    (∃ (s : State) (u : State) (addr : Nat),
      s.power.tapLive = true ∧ jtagOpen s 0x21 = true ∧ s.power.ready = true ∧ u = { s with jtag := { s.jtag with ir := 0x21, driving := false } } ∧ debugWaits s addr = false) ∧
    (∃ (s : State) (u : State) (addr : Nat) (v : Word),
      s.power.tapLive = true ∧ jtagOpen s 0x21 = true ∧ s.power.ready = true ∧ u = { s with jtag := { s.jtag with ir := 0x21, driving := false } } ∧ debugWaits s addr = false) ∧
    (∃ (s : State) (u : State) (addr : Nat) (w : Option Word),
      s.power.tapLive = true ∧ jtagOpen s 0x21 = true ∧ s.power.ready = true ∧ u = { s with jtag := { s.jtag with ir := 0x21, driving := false } } ∧ debugWaits s addr = true) ∧
    (∃ (s : State) (u : State) (addr : Nat) (w : Option Word),
      s.power.tapLive = true ∧ jtagOpen s 0x21 = true ∧ s.power.ready = false ∧ u = { s with jtag := { s.jtag with ir := 0x21, driving := false } }) ∧
    (∃ (s : State) (u : State) (off : BitVec 24) (b : Boot),
      s.power.tapLive = true ∧ jtagOpen s 0x22 = true ∧ windowWaits s off.toNat 1 = false ∧ regPortCut off.toNat = false ∧ u = { s with jtag := { s.jtag with ir := 0x22, driving := false } }) ∧
    (∃ (s : State) (u : State) (off : BitVec 24) (v : Word) (b : Boot),
      s.power.tapLive = true ∧ jtagOpen s 0x22 = true ∧ settled s ∧ windowWaits s off.toNat 1 = false ∧ regPortCut off.toNat = false ∧ s.lmx.lock ≠ 0 ∧ u = { s with jtag := { s.jtag with ir := 0x22, driving := false } }) ∧
    (∃ (s : State) (u : State) (off : BitVec 24) (w : Option Word) (b : Boot),
      s.power.tapLive = true ∧ jtagOpen s 0x22 = true ∧ settled s ∧ regPortCut off.toNat = true ∧ u = { s with jtag := { s.jtag with ir := 0x22, driving := false } }) ∧
    (∃ (s : State) (g : Nat),
      s.power.tapLive = true ∧ jtagOpen s 0x23 = true ∧ g < 80) ∧
    (∃ (s : State) (g : Nat),
      s.power.tapLive = true ∧ jtagOpen s 0x23 = true ∧ g < 80) ∧
    (∃ (s : State) (u : State) (g : Nat),
      s.power.tapLive = true ∧ jtagOpen s 0x23 = true ∧ g < 80 ∧ u = { s with jtag := { s.jtag with ir := 0x23, driving := false } }) ∧
    (∃ (s : State) (g : Nat) (n : Nat) (o : GripOp),
      s.power.tapLive = true ∧ 80 ≤ g ∧ 120 ≤ n ∧ jtagOpen s 0x23 = true) ∧
    (∃ (s : State) (g : Nat) (n : Nat) (o : GripOp),
      s.power.tapLive = true ∧ 80 ≤ g ∧ 120 ≤ n ∧ jtagOpen s 0x24 = true) ∧
    (∃ (s : State) (n : Nat),
      s.power.tapLive = true ∧ jtagOpen s 0x24 = true ∧ n < 120 ∧ n < s.gaf.islands.length) ∧
    (∃ (s : State) (c : Instr) (k : Nat),
      s.power.tapLive = true ∧ settled s ∧ ((k = 0x21 ∧ ∃ a w, c = .memPort a w) ∨ (k = 0x22 ∧ ∃ o w b, c = .regPort o w b) ∨ (k = 0x23 ∧ ∃ g o, c = .gripDbg g o) ∨ (k = 0x24 ∧ ∃ n, c = .intScan n)) ∧ jtagOpen s k = false) ∧
    (∃ (s : State) (c : Instr) (k : Nat),
      s.power.tapLive = true ∧ settled s ∧ ((k = 0x21 ∧ ∃ a w, c = .memPort a w) ∨ (k = 0x22 ∧ ∃ o w b, c = .regPort o w b) ∨ (k = 0x23 ∧ ∃ g o, c = .gripDbg g o) ∨ (k = 0x24 ∧ ∃ n, c = .intScan n)) ∧ jtagOpen s k = false) ∧
    (∃ (s : State) (c : Instr) (k : Nat),
      s.power.tapLive = true ∧ settled s ∧ ((k = 0x21 ∧ ∃ a w, c = .memPort a w) ∨ (k = 0x22 ∧ ∃ o w b, c = .regPort o w b) ∨ (k = 0x23 ∧ ∃ g o, c = .gripDbg g o) ∨ (k = 0x24 ∧ ∃ n, c = .intScan n)) ∧ jtagOpen s k = false) ∧
    (∃ (s : State) (c : Instr) (k : Nat),
      s.power.tapLive = true ∧ settled s ∧ ((k = 0x21 ∧ ∃ a w, c = .memPort a w) ∨ (k = 0x22 ∧ ∃ o w b, c = .regPort o w b) ∨ (k = 0x23 ∧ ∃ g o, c = .gripDbg g o) ∨ (k = 0x24 ∧ ∃ n, c = .intScan n)) ∧ jtagOpen s k = false) :=
  ⟨⟨{ up with lc := { testOpen := true } }, _, 4096, (by decide +kernel), (by decide +kernel), (by decide +kernel), rfl, (by decide +kernel)⟩,
    ⟨{ up with lc := { testOpen := true } }, _, 4096, 5, (by decide +kernel), (by decide +kernel), (by decide +kernel), rfl, (by decide +kernel)⟩,
    ⟨{ upR 0 { walk := 1 } with lc := { testOpen := true } }, _, 4096, none, (by decide +kernel), (by decide +kernel), (by decide +kernel), rfl, (by decide +kernel)⟩,
    ⟨{ up with lc := { testOpen := true }, power := { upPower with ready := false } }, _, 4096, none, (by decide +kernel), (by decide +kernel), (by decide +kernel), rfl⟩,
    ⟨{ up with lc := { testOpen := true } }, _, 0x020000, goodBoot, (by decide +kernel), (by decide +kernel), (by decide +kernel), (by decide +kernel), rfl⟩,
    ⟨{ up with lc := { testOpen := true }, lmx := { up.lmx with lock := 1 } }, _, 0x020010, 5, goodBoot, (by decide +kernel), (by decide +kernel), (by decide +kernel), (by decide +kernel), (by decide +kernel), (by decide +kernel), rfl⟩,
    ⟨{ up with lc := { testOpen := true } }, _, 0x070008, none, goodBoot, (by decide +kernel), (by decide +kernel), (by decide +kernel), (by decide +kernel), rfl⟩,
    ⟨{ up with lc := { testOpen := true } }, 79, by decide +kernel⟩,
    ⟨{ up with lc := { testOpen := true } }, 0, by decide +kernel⟩,
    ⟨{ up with lc := { testOpen := true } }, _, 5, (by decide +kernel), (by decide +kernel), (by decide +kernel), rfl⟩,
    ⟨{ up with lc := { testOpen := true } }, 80, 120, .halt, by decide +kernel⟩,
    ⟨{ up with lc := { testOpen := true } }, 80, 120, .halt, by decide +kernel⟩,
    ⟨{ up with lc := { testOpen := true } }, 119, by decide +kernel⟩,
    ⟨{ up with lc := { state := 4 } }, .memPort 5 none, 0x21, (by decide +kernel), (by decide +kernel), (by first | exact .inl ⟨rfl, _, _, rfl⟩ | exact .inr (.inl ⟨rfl, _, _, _, rfl⟩) | exact .inr (.inr (.inl ⟨rfl, _, _, rfl⟩)) | exact .inr (.inr (.inr ⟨rfl, _, rfl⟩))), (by decide +kernel)⟩,
    ⟨{ up with lc := { state := 4 } }, .regPort 8 none goodBoot, 0x22, (by decide +kernel), (by decide +kernel), (by first | exact .inl ⟨rfl, _, _, rfl⟩ | exact .inr (.inl ⟨rfl, _, _, _, rfl⟩) | exact .inr (.inr (.inl ⟨rfl, _, _, rfl⟩)) | exact .inr (.inr (.inr ⟨rfl, _, rfl⟩))), (by decide +kernel)⟩,
    ⟨{ up with lc := { state := 4 } }, .gripDbg 5 .halt, 0x23, (by decide +kernel), (by decide +kernel), (by first | exact .inl ⟨rfl, _, _, rfl⟩ | exact .inr (.inl ⟨rfl, _, _, _, rfl⟩) | exact .inr (.inr (.inl ⟨rfl, _, _, rfl⟩)) | exact .inr (.inr (.inr ⟨rfl, _, rfl⟩))), (by decide +kernel)⟩,
    ⟨{ up with lc := { state := 4 } }, .intScan 119, 0x24, (by decide +kernel), (by decide +kernel), (by first | exact .inl ⟨rfl, _, _, rfl⟩ | exact .inr (.inl ⟨rfl, _, _, _, rfl⟩) | exact .inr (.inr (.inl ⟨rfl, _, _, rfl⟩)) | exact .inr (.inr (.inr ⟨rfl, _, rfl⟩))), (by decide +kernel)⟩⟩

/-- Concrete states and operands that meet the hypotheses of IslandFaultsAreContained, clause by clause. -/
theorem wit_IslandFaultsAreContained :
    (∃ (s : State) (i : Instr) (n : Nat) (ok : Bool) (b : Boot),
      ((i = .islandFault n ok b ∧ s.power.ready = true) ∨ (i = .intScanRelease n ok b ∧ clockStopped s n = true)) ∧ n < 64 ∧ n < s.gaf.islands.length ∧ settled s ∧ (∀ x ∈ s.col.slots, ∀ c ∈ s.sp.cmds, c.id = x.cid → engineNamed c ≠ some n)) ∧
    (∃ (s : State) (i : Instr) (n : Nat) (ok : Bool) (b : Boot),
      ((i = .islandFault n ok b ∧ s.power.ready = true) ∨ (i = .intScanRelease n ok b ∧ clockStopped s n = true)) ∧ n < 64 ∧ n < s.gaf.islands.length ∧ settled s ∧ (∀ x ∈ s.col.slots, ∀ c ∈ s.sp.cmds, c.id = x.cid → engineNamed c ≠ some n)) ∧
    (∃ (s : State) (i : Instr) (n : Nat) (ok : Bool) (b : Boot),
      ((i = .islandFault n ok b ∧ s.power.ready = true) ∨ (i = .intScanRelease n ok b ∧ clockStopped s n = true)) ∧ n < 64 ∧ n < s.gaf.islands.length ∧ settled s ∧ (∀ x ∈ s.col.slots, ∀ c ∈ s.sp.cmds, c.id = x.cid → engineNamed c ≠ some n)) ∧
    (∃ (s : State) (i : Instr) (n : Nat) (ok : Bool) (b : Boot),
      ((i = .islandFault n ok b ∧ s.power.ready = true) ∨ (i = .intScanRelease n ok b ∧ clockStopped s n = true)) ∧ n < 64 ∧ n < s.gaf.islands.length ∧ settled s ∧ (∀ x ∈ s.col.slots, ∀ c ∈ s.sp.cmds, c.id = x.cid → engineNamed c ≠ some n)) ∧
    (∃ (s : State) (i : Instr) (n : Nat) (ok : Bool) (b : Boot),
      ((i = .islandFault n ok b ∧ s.power.ready = true) ∨ (i = .intScanRelease n ok b ∧ clockStopped s n = true)) ∧ 72 ≤ n ∧ n < 120 ∧ n < s.gaf.islands.length ∧ n - 72 < s.fabric.links.length ∧ settled s ∧ (∀ x ∈ s.fabric.trackers, x.link = n - 72 → x.acked = true)) ∧
    (∃ (s : State) (i : Instr) (n : Nat) (ok : Bool) (b : Boot),
      ((i = .islandFault n ok b ∧ s.power.ready = true) ∨ (i = .intScanRelease n ok b ∧ clockStopped s n = true)) ∧ 72 ≤ n ∧ n < 120 ∧ n < s.gaf.islands.length ∧ n - 72 < s.fabric.links.length ∧ settled s ∧ (∀ x ∈ s.fabric.trackers, x.link = n - 72 → x.acked = true)) ∧
    (∃ (s : State) (i : Instr) (n : Nat) (ok : Bool) (b : Boot),
      ((i = .islandFault n ok b ∧ s.power.ready = true) ∨ (i = .intScanRelease n ok b ∧ clockStopped s n = true)) ∧ 72 ≤ n ∧ n < 120 ∧ n < s.gaf.islands.length ∧ n - 72 < s.fabric.links.length ∧ settled s ∧ (∀ x ∈ s.fabric.trackers, x.link = n - 72 → x.acked = true)) ∧
    (∃ (s : State) (i : Instr) (n : Nat) (ok : Bool) (b : Boot),
      ((i = .islandFault n ok b ∧ s.power.ready = true) ∨ (i = .intScanRelease n ok b ∧ clockStopped s n = true)) ∧ 72 ≤ n ∧ n < 120 ∧ n < s.gaf.islands.length ∧ n - 72 < s.fabric.links.length ∧ settled s ∧ (∀ x ∈ s.fabric.trackers, x.link = n - 72 → x.acked = true)) ∧
    (∃ (s : State) (i : Instr) (n : Nat) (c : Nat) (ok : Bool) (b : Boot),
      ((i = .islandFault n ok b ∧ s.power.ready = true) ∨ (i = .intScanRelease n ok b ∧ clockStopped s n = true)) ∧ ((64 ≤ n ∧ n < 72) ∨ (120 ≤ n ∧ n < 125)) ∧ s.power.resetN = true ∧ s.power.strikeN = true ∧ fuseState s c ∧ starts c ∧ bootGood b) ∧
    (∃ (s : State) (i : Instr) (n : Nat) (c : Nat) (ok : Bool) (b : Boot),
      ((i = .islandFault n ok b ∧ s.power.ready = true) ∨ (i = .intScanRelease n ok b ∧ clockStopped s n = true)) ∧ ((64 ≤ n ∧ n < 72) ∨ (120 ≤ n ∧ n < 125)) ∧ s.power.resetN = true ∧ s.power.strikeN = true ∧ fuseState s c ∧ starts c ∧ bootGood b) ∧
    (∃ (s : State) (i : Instr) (n : Nat) (c : Nat) (ok : Bool) (b : Boot),
      ((i = .islandFault n ok b ∧ s.power.ready = true) ∨ (i = .intScanRelease n ok b ∧ clockStopped s n = true)) ∧ ((64 ≤ n ∧ n < 72) ∨ (120 ≤ n ∧ n < 125)) ∧ s.power.resetN = true ∧ s.power.strikeN = true ∧ fuseState s c ∧ starts c ∧ bootGood b) ∧
    (∃ (s : State) (i : Instr) (n : Nat) (c : Nat) (ok : Bool) (b : Boot),
      ((i = .islandFault n ok b ∧ s.power.ready = true) ∨ (i = .intScanRelease n ok b ∧ clockStopped s n = true)) ∧ ((64 ≤ n ∧ n < 72) ∨ (120 ≤ n ∧ n < 125)) ∧ s.power.resetN = true ∧ s.power.strikeN = true ∧ fuseState s c ∧ starts c ∧ bootGood b) ∧
    (∃ (s : State) (n : Nat) (ok : Bool) (b : Boot),
      s.power.ready = false) ∧
    (∃ (s : State) (n : Nat) (ok : Bool) (b : Boot),
      s.power.ready = false) ∧
    (∃ (s : State) (n : Nat) (ok : Bool) (b : Boot),
      clockStopped s n = false) :=
  ⟨⟨up, .islandFault 0 true goodBoot, 0, true, goodBoot, by decide +kernel⟩,
    ⟨{ up with gaf := { islands := (List.replicate 125 {}).set 0 { stopped := true } } }, .intScanRelease 0 true goodBoot, 0, true, goodBoot, by decide +kernel⟩,
    ⟨up, .islandFault 63 false goodBoot, 63, false, goodBoot, by decide +kernel⟩,
    ⟨{ up with gaf := { islands := (List.replicate 125 {}).set 63 { stopped := true } } }, .intScanRelease 63 false goodBoot, 63, false, goodBoot, by decide +kernel⟩,
    ⟨up, .islandFault 72 true goodBoot, 72, true, goodBoot, by decide +kernel⟩,
    ⟨{ up with gaf := { islands := (List.replicate 125 {}).set 72 { stopped := true } } }, .intScanRelease 72 true goodBoot, 72, true, goodBoot, by decide +kernel⟩,
    ⟨up, .islandFault 119 false goodBoot, 119, false, goodBoot, by decide +kernel⟩,
    ⟨{ up with gaf := { islands := (List.replicate 125 {}).set 119 { stopped := true } } }, .intScanRelease 119 false goodBoot, 119, false, goodBoot, by decide +kernel⟩,
    ⟨up, .islandFault 64 true goodBoot, 64, 4, true, goodBoot, by decide +kernel⟩,
    ⟨{ up with gaf := { islands := (List.replicate 125 {}).set 64 { stopped := true } } }, .intScanRelease 64 true goodBoot, 64, 4, true, goodBoot, by decide +kernel⟩,
    ⟨up, .islandFault 124 false goodBoot, 124, 4, false, goodBoot, by decide +kernel⟩,
    ⟨{ up with gaf := { islands := (List.replicate 125 {}).set 124 { stopped := true } } }, .intScanRelease 124 false goodBoot, 124, 4, false, goodBoot, by decide +kernel⟩,
    ⟨State.reset, 63, false, goodBoot, by decide +kernel⟩,
    ⟨State.reset, 124, true, goodBoot, by decide +kernel⟩,
    ⟨up, 63, false, goodBoot, by decide +kernel⟩⟩

/-- Concrete states and operands that meet the hypotheses of SpacesAndContextsLiveAndEnd, clause by clause. -/
theorem wit_SpacesAndContextsLiveAndEnd :
    (∃ (s : State) (p : Port) (tag : Nat) (slot : Nat) (st : Status),
      mayWrite s p ∧ spaceCreateCheck s slot = some st) ∧
    (∃ (s : State) (p : Port) (tag : Nat) (slot : Nat),
      mayWrite s p ∧ spaceCreateCheck s slot = none ∧ slot < s.sp.slots.length) ∧
    (∃ (s : State) (slot : Nat) (x : Space) (w : MemWrite),
      slot < s.sp.slots.length ∧ x = spaceGet s slot ∧ x.state = 3 ∧ filling s x.ctlRange = false ∧ Memory.wf s.mem = true ∧ w = zeroPages { space := slot } ((List.range ((ctlPages s x).2 - (ctlPages s x).1)).map ((ctlPages s x).1 + ·)) s) ∧
    (∃ (s : State) (p : Port) (tag : Nat) (slot : Nat),
      mayWrite s p ∧ (spaceGet s slot).state = 0) ∧
    (∃ (s : State) (p : Port) (tag : Nat) (slot : Nat),
      mayWrite s p ∧ (spaceGet s slot).state ≠ 0 ∧ (spaceGet s slot).state ≠ 1) ∧
    (∃ (s : State) (p : Port) (tag : Nat) (slot : Nat),
      mayWrite s p ∧ (spaceGet s slot).state ≠ 0 ∧ (spaceGet s slot).state ≠ 1) ∧
    (∃ (s : State) (p : Port) (tag : Nat) (slot : Nat),
      mayWrite s p ∧ (spaceGet s slot).state = 1 ∧ slot < s.sp.slots.length ∧ quiet s) ∧
    (∃ (s : State) (slot : Nat),
      (∃ c ∈ s.sp.cmds, c.space = slot)) ∧
    (∃ (s : State) (slot : Nat),
      slot < s.sp.slots.length ∧ (spaceGet s slot).state = 2 ∧ (∀ c ∈ s.sp.cmds, c.space ≠ slot)) ∧
    (∃ (s : State) (ch : Chan) (r : Rushes),
      mayAsk s ch ∧ rushesOk r = true ∧ (useOf s ch.slot).1 < (spaceGet s ch.slot).qCtx ∧ s.sp.ctxs.length < 4096) ∧
    (∃ (s : State) (ch : Chan) (r : Rushes),
      mayAsk s ch ∧ rushesOk r = false) ∧
    (∃ (s : State) (ch : Chan) (r : Rushes),
      mayAsk s ch ∧ rushesOk r = true ∧ (spaceGet s ch.slot).qCtx ≤ (useOf s ch.slot).1) ∧
    (∃ (s : State) (ch : Chan) (id : Nat) (x : Ctx) (r : Rushes),
      mayAsk s ch ∧ ctxGet s id = some x ∧ x.space = ch.slot ∧ x.dying = false ∧ rushesOk r = true) ∧
    (∃ (s : State) (ch : Chan) (id : Nat) (x : Ctx),
      mayAsk s ch ∧ ctxGet s id = some x ∧ x.space = ch.slot ∧ x.dying = false) ∧
    (∃ (s : State) (ch : Chan) (id : Nat) (x : Ctx) (r : Rushes) (i : Instr),
      mayAsk s ch ∧ ctxGet s id = some x ∧ x.space ≠ ch.slot ∧ rushesOk r = true ∧ (i = .ctxQuery ch id ∨ i = .ctxDestroy ch id ∨ i = .ctxSet ch id r)) ∧
    (∃ (s : State) (ch : Chan) (id : Nat) (x : Ctx) (r : Rushes) (i : Instr),
      mayAsk s ch ∧ ctxGet s id = some x ∧ x.space ≠ ch.slot ∧ rushesOk r = true ∧ (i = .ctxQuery ch id ∨ i = .ctxDestroy ch id ∨ i = .ctxSet ch id r)) ∧
    (∃ (s : State) (ch : Chan) (id : Nat) (x : Ctx) (r : Rushes) (i : Instr),
      mayAsk s ch ∧ ctxGet s id = some x ∧ x.space ≠ ch.slot ∧ rushesOk r = true ∧ (i = .ctxQuery ch id ∨ i = .ctxDestroy ch id ∨ i = .ctxSet ch id r)) ∧
    (∃ (s : State) (ch : Chan) (id : Nat) (r : Rushes) (i : Instr),
      mayAsk s ch ∧ ctxGet s id = none ∧ (i = .ctxQuery ch id ∨ i = .ctxDestroy ch id ∨ i = .ctxSet ch id r)) ∧
    (∃ (s : State) (ch : Chan) (id : Nat) (r : Rushes) (i : Instr),
      mayAsk s ch ∧ ctxGet s id = none ∧ (i = .ctxQuery ch id ∨ i = .ctxDestroy ch id ∨ i = .ctxSet ch id r)) ∧
    (∃ (s : State) (ch : Chan) (id : Nat) (r : Rushes) (i : Instr),
      mayAsk s ch ∧ ctxGet s id = none ∧ (i = .ctxQuery ch id ∨ i = .ctxDestroy ch id ∨ i = .ctxSet ch id r)) ∧
    (∃ (s : State) (ch : Chan) (id : Nat) (x : Ctx) (r : Rushes) (i : Instr),
      mayAsk s ch ∧ ctxGet s id = some x ∧ x.space = ch.slot ∧ x.dying = true ∧ rushesOk r = true ∧ (i = .ctxQuery ch id ∨ i = .ctxDestroy ch id ∨ i = .ctxSet ch id r)) ∧
    (∃ (s : State) (ch : Chan) (id : Nat) (x : Ctx) (r : Rushes) (i : Instr),
      mayAsk s ch ∧ ctxGet s id = some x ∧ x.space = ch.slot ∧ x.dying = true ∧ rushesOk r = true ∧ (i = .ctxQuery ch id ∨ i = .ctxDestroy ch id ∨ i = .ctxSet ch id r)) ∧
    (∃ (s : State) (ch : Chan) (id : Nat) (x : Ctx) (r : Rushes) (i : Instr),
      mayAsk s ch ∧ ctxGet s id = some x ∧ x.space = ch.slot ∧ x.dying = true ∧ rushesOk r = true ∧ (i = .ctxQuery ch id ∨ i = .ctxDestroy ch id ∨ i = .ctxSet ch id r)) ∧
    (∃ (s : State) (ch : Chan) (id : Nat) (x : Ctx),
      mayAsk s ch ∧ quiet s ∧ ctxGet s id = some x ∧ x.space = ch.slot ∧ x.dying = false ∧ (∀ c ∈ s.sp.cmds, c.ctx ≠ id)) :=
  ⟨⟨up, .a, 1, 0, .busy, by decide +kernel⟩,
    ⟨{ runs1 (cmdOf 2 []) with sp := { (runs1 (cmdOf 2 [])).sp with cmds := [], objs := [], ctxs := [], queues := [], slots := List.replicate 16 {}, arg1 := packWord [(1, 13), (1, 11), (1, 21)], arg2 := packWord [(1, 21), (1, 19)] } }, .a, 1, 0, by decide +kernel⟩,
    ⟨{ up with sp := { slots := { state := 3, party := 255, qCtx := 1, qL2 := 1 } :: List.replicate 15 {} } }, 0, _, _, (by decide +kernel), rfl, (by decide +kernel), (by decide +kernel), (by decide +kernel), rfl⟩,
    ⟨up, .a, 1, 1, by decide +kernel⟩,
    ⟨{ up with sp := { up.sp with slots := { (up.sp.slots.getD 0 {}) with state := 2 } :: List.replicate 15 {} } }, .a, 1, 0, by decide +kernel⟩,
    ⟨{ up with sp := { up.sp with slots := { (up.sp.slots.getD 0 {}) with state := 3 } :: List.replicate 15 {} } }, .a, 1, 0, by decide +kernel⟩,
    ⟨runs1 (cmdOf 2 []), .a, 1, 0, by decide +kernel⟩,
    ⟨{ runs1 (cmdOf 2 []) with sp := { (runs1 (cmdOf 2 [])).sp with slots := { state := 2, qCtx := 1, qL2 := 1 } :: List.replicate 15 {} } }, 0, by decide +kernel⟩,
    ⟨{ spS with sp := { spS.sp with slots := { state := 2, qCtx := 1, qL2 := 1 } :: List.replicate 15 {} } }, 0, by decide +kernel⟩,
    ⟨up, chA, ⟨false, 0, 0, 1⟩, ⟨by decide +kernel, by decide +kernel, by decide +kernel, (by first | exact True.intro | exact And.intro rfl (by decide +kernel))⟩, (by decide +kernel), (by decide +kernel), (by decide +kernel)⟩,
    ⟨up, chA, ⟨false, 0, 0, 0⟩, ⟨by decide +kernel, by decide +kernel, by decide +kernel, (by first | exact True.intro | exact And.intro rfl (by decide +kernel))⟩, (by decide +kernel)⟩,
    ⟨{ up with sp := { up.sp with slots := { (up.sp.slots.getD 0 {}) with qCtx := 0 } :: List.replicate 15 {} } }, chA, ⟨false, 0, 0, 1⟩, ⟨by decide +kernel, by decide +kernel, by decide +kernel, (by first | exact True.intro | exact And.intro rfl (by decide +kernel))⟩, (by decide +kernel), (by decide +kernel)⟩,
    ⟨spS, chA, 1, ctx1, ⟨true, 20, 1, 15⟩, ⟨by decide +kernel, by decide +kernel, by decide +kernel, (by first | exact True.intro | exact And.intro rfl (by decide +kernel))⟩, (by decide +kernel), (by decide +kernel), (by decide +kernel), (by decide +kernel)⟩,
    ⟨spS, chA, 1, ctx1, ⟨by decide +kernel, by decide +kernel, by decide +kernel, (by first | exact True.intro | exact And.intro rfl (by decide +kernel))⟩, (by decide +kernel), (by decide +kernel), (by decide +kernel)⟩,
    ⟨{ spS with sp := { spS.sp with ctxs := [{ ctx1 with space := 1 }] } }, chA, 1, { ctx1 with space := 1 }, ⟨true, 20, 1, 15⟩, .ctxQuery chA 1, ⟨by decide +kernel, by decide +kernel, by decide +kernel, (by first | exact True.intro | exact And.intro rfl (by decide +kernel))⟩, (by decide +kernel), (by decide +kernel), (by decide +kernel), (by decide +kernel)⟩,
    ⟨{ spS with sp := { spS.sp with ctxs := [{ ctx1 with space := 1 }] } }, chA, 1, { ctx1 with space := 1 }, ⟨true, 20, 1, 15⟩, .ctxDestroy chA 1, ⟨by decide +kernel, by decide +kernel, by decide +kernel, (by first | exact True.intro | exact And.intro rfl (by decide +kernel))⟩, (by decide +kernel), (by decide +kernel), (by decide +kernel), (by decide +kernel)⟩,
    ⟨{ spS with sp := { spS.sp with ctxs := [{ ctx1 with space := 1 }] } }, chA, 1, { ctx1 with space := 1 }, ⟨true, 20, 1, 15⟩, .ctxSet chA 1 ⟨true, 20, 1, 15⟩, ⟨by decide +kernel, by decide +kernel, by decide +kernel, (by first | exact True.intro | exact And.intro rfl (by decide +kernel))⟩, (by decide +kernel), (by decide +kernel), (by decide +kernel), (by decide +kernel)⟩,
    ⟨spS, chA, 4095, ⟨true, 20, 1, 15⟩, .ctxQuery chA 4095, ⟨by decide +kernel, by decide +kernel, by decide +kernel, (by first | exact True.intro | exact And.intro rfl (by decide +kernel))⟩, (by decide +kernel), (by decide +kernel)⟩,
    ⟨spS, chA, 4095, ⟨true, 20, 1, 15⟩, .ctxDestroy chA 4095, ⟨by decide +kernel, by decide +kernel, by decide +kernel, (by first | exact True.intro | exact And.intro rfl (by decide +kernel))⟩, (by decide +kernel), (by decide +kernel)⟩,
    ⟨spS, chA, 4095, ⟨true, 20, 1, 15⟩, .ctxSet chA 4095 ⟨true, 20, 1, 15⟩, ⟨by decide +kernel, by decide +kernel, by decide +kernel, (by first | exact True.intro | exact And.intro rfl (by decide +kernel))⟩, (by decide +kernel), (by decide +kernel)⟩,
    ⟨{ spS with sp := { spS.sp with ctxs := [{ ctx1 with dying := true }] } }, chA, 1, { ctx1 with dying := true }, ⟨true, 20, 1, 15⟩, .ctxQuery chA 1, ⟨by decide +kernel, by decide +kernel, by decide +kernel, (by first | exact True.intro | exact And.intro rfl (by decide +kernel))⟩, (by decide +kernel), (by decide +kernel), (by decide +kernel), (by decide +kernel), (by decide +kernel)⟩,
    ⟨{ spS with sp := { spS.sp with ctxs := [{ ctx1 with dying := true }] } }, chA, 1, { ctx1 with dying := true }, ⟨true, 20, 1, 15⟩, .ctxDestroy chA 1, ⟨by decide +kernel, by decide +kernel, by decide +kernel, (by first | exact True.intro | exact And.intro rfl (by decide +kernel))⟩, (by decide +kernel), (by decide +kernel), (by decide +kernel), (by decide +kernel), (by decide +kernel)⟩,
    ⟨{ spS with sp := { spS.sp with ctxs := [{ ctx1 with dying := true }] } }, chA, 1, { ctx1 with dying := true }, ⟨true, 20, 1, 15⟩, .ctxSet chA 1 ⟨true, 20, 1, 15⟩, ⟨by decide +kernel, by decide +kernel, by decide +kernel, (by first | exact True.intro | exact And.intro rfl (by decide +kernel))⟩, (by decide +kernel), (by decide +kernel), (by decide +kernel), (by decide +kernel), (by decide +kernel)⟩,
    ⟨spS, chA, 1, ctx1, ⟨by decide +kernel, by decide +kernel, by decide +kernel, (by first | exact True.intro | exact And.intro rfl (by decide +kernel))⟩, (by decide +kernel), (by decide +kernel), (by decide +kernel), (by decide +kernel), (by decide +kernel)⟩⟩

/-- Concrete states and operands that meet the hypotheses of QueuesDoorbellsAndCompletion, clause by clause. -/
theorem wit_QueuesDoorbellsAndCompletion :
    (∃ (s : State) (ch : Chan) (ra : Nat) (n : Nat) (ca : Nat) (v : Nat),
      mayAsk s ch ∧ entriesOk n = true ∧ (v = 1 ∨ v = 2) ∧ ra % 64 = 0 ∧ ca % 64 = 0 ∧ spanMapped s ch.slot ra (n * 64) = true ∧ spanMapped s ch.slot ca (n * 64) = true ∧ spanStruck s ch.slot ra (n * 64) = false ∧ spanStruck s ch.slot ca (n * 64) = false ∧ (useOf s ch.slot).2.1 < (spaceGet s ch.slot).qQueue ∧ s.sp.queues.length < 1024) ∧
    (∃ (s : State) (ch : Chan) (ra : Nat) (n : Nat) (ca : Nat) (v : Nat),
      mayAsk s ch ∧ entriesOk n = true ∧ (v = 1 ∨ v = 2) ∧ ra % 64 = 0 ∧ ca % 64 = 0 ∧ spanMapped s ch.slot ra (n * 64) = true ∧ spanMapped s ch.slot ca (n * 64) = true ∧ spanStruck s ch.slot ra (n * 64) = false ∧ spanStruck s ch.slot ca (n * 64) = false ∧ (useOf s ch.slot).2.1 < (spaceGet s ch.slot).qQueue ∧ s.sp.queues.length < 1024) ∧
    (∃ (s : State) (ch : Chan) (ra : Nat) (n : Nat) (ca : Nat) (v : Nat),
      mayAsk s ch ∧ (entriesOk n = false ∨ (v ≠ 1 ∧ v ≠ 2) ∨ ra % 64 ≠ 0 ∨ ca % 64 ≠ 0 ∨ spanMapped s ch.slot ra (n * 64) = false ∨ spanMapped s ch.slot ca (n * 64) = false)) ∧
    (∃ (s : State) (ch : Chan) (ra : Nat) (n : Nat) (ca : Nat) (v : Nat),
      mayAsk s ch ∧ (entriesOk n = false ∨ (v ≠ 1 ∧ v ≠ 2) ∨ ra % 64 ≠ 0 ∨ ca % 64 ≠ 0 ∨ spanMapped s ch.slot ra (n * 64) = false ∨ spanMapped s ch.slot ca (n * 64) = false)) ∧
    (∃ (s : State) (ch : Chan) (ra : Nat) (n : Nat) (ca : Nat) (v : Nat),
      mayAsk s ch ∧ (entriesOk n = false ∨ (v ≠ 1 ∧ v ≠ 2) ∨ ra % 64 ≠ 0 ∨ ca % 64 ≠ 0 ∨ spanMapped s ch.slot ra (n * 64) = false ∨ spanMapped s ch.slot ca (n * 64) = false)) ∧
    (∃ (s : State) (ch : Chan) (ra : Nat) (n : Nat) (ca : Nat) (v : Nat),
      mayAsk s ch ∧ (entriesOk n = false ∨ (v ≠ 1 ∧ v ≠ 2) ∨ ra % 64 ≠ 0 ∨ ca % 64 ≠ 0 ∨ spanMapped s ch.slot ra (n * 64) = false ∨ spanMapped s ch.slot ca (n * 64) = false)) ∧
    (∃ (s : State) (ch : Chan) (ra : Nat) (n : Nat) (ca : Nat) (v : Nat),
      mayAsk s ch ∧ (entriesOk n = false ∨ (v ≠ 1 ∧ v ≠ 2) ∨ ra % 64 ≠ 0 ∨ ca % 64 ≠ 0 ∨ spanMapped s ch.slot ra (n * 64) = false ∨ spanMapped s ch.slot ca (n * 64) = false)) ∧
    (∃ (s : State) (ch : Chan) (ra : Nat) (n : Nat) (ca : Nat) (v : Nat),
      mayAsk s ch ∧ entriesOk n = true ∧ (v = 1 ∨ v = 2) ∧ ra % 64 = 0 ∧ ca % 64 = 0 ∧ spanMapped s ch.slot ra (n * 64) = true ∧ spanMapped s ch.slot ca (n * 64) = true ∧ (spanStruck s ch.slot ra (n * 64) = true ∨ spanStruck s ch.slot ca (n * 64) = true)) ∧
    (∃ (s : State) (ch : Chan) (ra : Nat) (n : Nat) (ca : Nat) (v : Nat),
      mayAsk s ch ∧ entriesOk n = true ∧ (v = 1 ∨ v = 2) ∧ ra % 64 = 0 ∧ ca % 64 = 0 ∧ spanMapped s ch.slot ra (n * 64) = true ∧ spanMapped s ch.slot ca (n * 64) = true ∧ spanStruck s ch.slot ra (n * 64) = false ∧ spanStruck s ch.slot ca (n * 64) = false ∧ (spaceGet s ch.slot).qQueue ≤ (useOf s ch.slot).2.1) ∧
    (∃ (s : State) (ch : Chan) (h : BitVec 32) (j : BitVec 32) (i : Instr),
      mayAsk s ch ∧ queueGet s ch.slot h = none ∧ (i = .qDestroy ch h ∨ i = .doorbell ch h j)) ∧
    (∃ (s : State) (ch : Chan) (h : BitVec 32) (j : BitVec 32) (i : Instr),
      mayAsk s ch ∧ queueGet s ch.slot h = none ∧ (i = .qDestroy ch h ∨ i = .doorbell ch h j)) ∧
    (∃ (s : State) (ch : Chan) (h : BitVec 32) (q : Queue),
      mayAsk s ch ∧ queueGet s ch.slot h = some q ∧ q.dying = true) ∧
    (∃ (s : State) (ch : Chan) (h : BitVec 32) (q : Queue),
      mayAsk s ch ∧ quiet s ∧ queueGet s ch.slot h = some q ∧ q.dying = false ∧ (∀ c ∈ s.sp.cmds, c.queue ≠ q.idx)) ∧
    (∃ (s : State) (ch : Chan) (h : BitVec 32) (j : BitVec 32) (q : Queue),
      mayAsk s ch ∧ queueGet s ch.slot h = some q ∧ ringFills s ch.slot h = false ∧ (q.entries < (j - q.doneIdx).toNat ∨ j = q.producer ∨ q.entries < (j - q.producer).toNat)) ∧
    (∃ (s : State) (ch : Chan) (h : BitVec 32) (j : BitVec 32) (q : Queue),
      mayAsk s ch ∧ queueGet s ch.slot h = some q ∧ ringFills s ch.slot h = false ∧ (q.entries < (j - q.doneIdx).toNat ∨ j = q.producer ∨ q.entries < (j - q.producer).toNat)) ∧
    (∃ (s : State) (ch : Chan) (h : BitVec 32) (j : BitVec 32) (q : Queue),
      mayAsk s ch ∧ queueGet s ch.slot h = some q ∧ ringFills s ch.slot h = false ∧ (j - q.doneIdx).toNat ≤ q.entries ∧ j ≠ q.producer ∧ (j - q.producer).toNat ≤ q.entries) ∧
    (∃ (s : State) (ch : Chan) (h : BitVec 32) (j : BitVec 32) (q : Queue),
      mayAsk s ch ∧ queueGet s ch.slot h = some q ∧ ringFills s ch.slot h = false ∧ (j - q.doneIdx).toNat ≤ q.entries ∧ j ≠ q.producer ∧ (j - q.producer).toNat ≤ q.entries) ∧
    (∃ (s : State) (ch : Chan) (h : BitVec 32) (j : BitVec 32) (q : Queue),
      mayAsk s ch ∧ queueGet s ch.slot h = some q ∧ ringFills s ch.slot h = false ∧ (j - q.doneIdx).toNat ≤ q.entries ∧ j ≠ q.producer ∧ (j - q.producer).toNat ≤ q.entries) ∧
    (∃ (s : State) (ch : Chan) (h : BitVec 32) (j : BitVec 32),
      mayAsk s ch ∧ ringFills s ch.slot h = true) ∧
    (∃ (s : State) (cid : Nat) (busy : Nat) (uj : Nat) (c : Cmd) (r : Result) (f : Fence),
      cmdGet s cid = some c ∧ c.phase = .finished r ∧ (s.array.rush.any fun j => j.cid == cid) = false ∧ recordWaits s c = false ∧ (∀ x ∈ s.sp.ctxs, x.dying = false) ∧ c.noFence = false ∧ c.sigFence ≠ 0 ∧ fenceGet s c.space c.sigFence = some f ∧ f.failed = false ∧ f.struck = false ∧ (∀ g ∈ s.sp.fences, g.idx = f.idx → g = f)) ∧
    (∃ (s : State) (cid : Nat) (busy : Nat) (uj : Nat) (c : Cmd) (r : Result) (f : Fence),
      cmdGet s cid = some c ∧ c.phase = .finished r ∧ (s.array.rush.any fun j => j.cid == cid) = false ∧ recordWaits s c = false ∧ (∀ x ∈ s.sp.ctxs, x.dying = false) ∧ c.noFence = false ∧ c.sigFence ≠ 0 ∧ fenceGet s c.space c.sigFence = some f ∧ f.failed = false ∧ f.struck = false ∧ (∀ g ∈ s.sp.fences, g.idx = f.idx → g = f)) ∧
    (∃ (s : State) (cid : Nat) (busy : Nat) (uj : Nat) (c : Cmd) (r : Result) (x : Ctx),
      cmdGet s cid = some c ∧ c.phase = .finished r ∧ (s.array.rush.any fun j => j.cid == cid) = false ∧ recordWaits s c = false ∧ (∀ x ∈ s.sp.ctxs, x.dying = false) ∧ ctxGet s c.ctx = some x) ∧
    (∃ (s : State) (cid : Nat) (busy : Nat) (uj : Nat) (c : Cmd) (r : Result),
      cmdGet s cid = some c ∧ c.phase = .finished r ∧ (s.array.rush.any fun j => j.cid == cid) = false ∧ recordWaits s c = false) ∧
    (∃ (s : State) (cid : Nat) (busy : Nat) (uj : Nat) (c : Cmd),
      cmdGet s cid = some c ∧ (cmdLive c = true ∨ (s.array.rush.any fun j => j.cid == cid) = true ∨ recordWaits s c = true)) ∧
    (∃ (s : State) (cid : Nat) (busy : Nat) (uj : Nat),
      cmdGet s cid = none) :=
  ⟨⟨spS, chA, 2 ^ 21, 64, 2 ^ 21 + 65536, 1, ⟨by decide +kernel, by decide +kernel, by decide +kernel, (by first | exact True.intro | exact And.intro rfl (by decide +kernel))⟩, (by decide +kernel), (by decide +kernel), (by decide +kernel), (by decide +kernel), (by decide +kernel), (by decide +kernel), (by decide +kernel), (by decide +kernel), (by decide +kernel), (by decide +kernel)⟩,
    ⟨spS, chA, 2 ^ 21, 65536, 2 ^ 21 + 2 ^ 22, 2, ⟨by decide +kernel, by decide +kernel, by decide +kernel, (by first | exact True.intro | exact And.intro rfl (by decide +kernel))⟩, (by decide +kernel), (by decide +kernel), (by decide +kernel), (by decide +kernel), (by decide +kernel), (by decide +kernel), (by decide +kernel), (by decide +kernel), (by decide +kernel), (by decide +kernel)⟩,
    ⟨spS, chA, 0, 63, 0, 1, ⟨by decide +kernel, by decide +kernel, by decide +kernel, (by first | exact True.intro | exact And.intro rfl (by decide +kernel))⟩, (by decide +kernel)⟩,
    ⟨spS, chA, 0, 64, 0, 3, ⟨by decide +kernel, by decide +kernel, by decide +kernel, (by first | exact True.intro | exact And.intro rfl (by decide +kernel))⟩, (by decide +kernel)⟩,
    ⟨spS, chA, 8, 64, 0, 1, ⟨by decide +kernel, by decide +kernel, by decide +kernel, (by first | exact True.intro | exact And.intro rfl (by decide +kernel))⟩, (by decide +kernel)⟩,
    ⟨spS, chA, 0, 64, 8, 2, ⟨by decide +kernel, by decide +kernel, by decide +kernel, (by first | exact True.intro | exact And.intro rfl (by decide +kernel))⟩, (by decide +kernel)⟩,
    ⟨spS, chA, 0, 64, 0, 1, ⟨by decide +kernel, by decide +kernel, by decide +kernel, (by first | exact True.intro | exact And.intro rfl (by decide +kernel))⟩, (by decide +kernel)⟩,
    ⟨{ spS with sp := { spS.sp with objs := [{ (spS.sp.objs.headD ⟨0, 0, .space, 0, 0, [], none⟩) with struck := some 0 }] } }, chA, 2 ^ 21, 64, 2 ^ 21 + 65536, 1, ⟨by decide +kernel, by decide +kernel, by decide +kernel, (by first | exact True.intro | exact And.intro rfl (by decide +kernel))⟩, (by decide +kernel), (by decide +kernel), (by decide +kernel), (by decide +kernel), (by decide +kernel), (by decide +kernel), (by decide +kernel)⟩,
    ⟨{ spS with sp := { spS.sp with slots := { (spS.sp.slots.getD 0 {}) with qQueue := 1 } :: List.replicate 15 {} } }, chA, 2 ^ 21, 64, 2 ^ 21 + 65536, 1, ⟨by decide +kernel, by decide +kernel, by decide +kernel, (by first | exact True.intro | exact And.intro rfl (by decide +kernel))⟩, (by decide +kernel), (by decide +kernel), (by decide +kernel), (by decide +kernel), (by decide +kernel), (by decide +kernel), (by decide +kernel), (by decide +kernel), (by decide +kernel)⟩,
    ⟨spS, chA, 0x30000006#32, 0, .qDestroy chA 0x30000006#32, ⟨by decide +kernel, by decide +kernel, by decide +kernel, (by first | exact True.intro | exact And.intro rfl (by decide +kernel))⟩, (by decide +kernel), (by decide +kernel)⟩,
    ⟨spS, chA, 0x30000006#32, 0, .doorbell chA 0x30000006#32 0, ⟨by decide +kernel, by decide +kernel, by decide +kernel, (by first | exact True.intro | exact And.intro rfl (by decide +kernel))⟩, (by decide +kernel), (by decide +kernel)⟩,
    ⟨{ spS with sp := { spS.sp with queues := [{ queue5 with producer := 2, doneIdx := 1, dying := true }] } }, chA, 0x30000005#32, { queue5 with producer := 2, doneIdx := 1, dying := true }, ⟨by decide +kernel, by decide +kernel, by decide +kernel, (by first | exact True.intro | exact And.intro rfl (by decide +kernel))⟩, (by decide +kernel), (by decide +kernel)⟩,
    ⟨spS, chA, 0x30000005#32, { queue5 with producer := 2, doneIdx := 1 }, ⟨by decide +kernel, by decide +kernel, by decide +kernel, (by first | exact True.intro | exact And.intro rfl (by decide +kernel))⟩, (by decide +kernel), (by decide +kernel), (by decide +kernel), (by decide +kernel)⟩,
    ⟨spS, chA, 0x30000005#32, 258, { queue5 with producer := 2, doneIdx := 1 }, ⟨by decide +kernel, by decide +kernel, by decide +kernel, (by first | exact True.intro | exact And.intro rfl (by decide +kernel))⟩, (by decide +kernel), (by decide +kernel), (by decide +kernel)⟩,
    ⟨spS, chA, 0x30000005#32, 2, { queue5 with producer := 2, doneIdx := 1 }, ⟨by decide +kernel, by decide +kernel, by decide +kernel, (by first | exact True.intro | exact And.intro rfl (by decide +kernel))⟩, (by decide +kernel), (by decide +kernel), (by decide +kernel)⟩,
    ⟨spS, chA, 0x30000005#32, 4, { queue5 with producer := 2, doneIdx := 1 }, ⟨by decide +kernel, by decide +kernel, by decide +kernel, (by first | exact True.intro | exact And.intro rfl (by decide +kernel))⟩, (by decide +kernel), (by decide +kernel), (by decide +kernel), (by decide +kernel), (by decide +kernel)⟩,
    ⟨spS, chA, 0x30000005#32, 257, { queue5 with producer := 2, doneIdx := 1 }, ⟨by decide +kernel, by decide +kernel, by decide +kernel, (by first | exact True.intro | exact And.intro rfl (by decide +kernel))⟩, (by decide +kernel), (by decide +kernel), (by decide +kernel), (by decide +kernel), (by decide +kernel)⟩,
    ⟨{ spS with sp := { spS.sp with queues := [{ queue5 with producer := 2, doneIdx := 1, dying := true }] } }, chA, 0x30000005#32, 4, { queue5 with producer := 2, doneIdx := 1, dying := true }, ⟨by decide +kernel, by decide +kernel, by decide +kernel, (by first | exact True.intro | exact And.intro rfl (by decide +kernel))⟩, (by decide +kernel), (by decide +kernel), (by decide +kernel), (by decide +kernel), (by decide +kernel)⟩,
    ⟨{ spS with sp := { spS.sp with queues := [{ queue5 with ring := 2 ^ 21 }] }, ciph := { ranges := { walk := 1 } :: List.replicate 32 {} } }, chA, 0x30000005#32, 4, ⟨by decide +kernel, by decide +kernel, by decide +kernel, (by first | exact True.intro | exact And.intro rfl (by decide +kernel))⟩, (by decide +kernel)⟩,
    ⟨{ runs1 ({ cmdOf 0x20 [] with phase := .finished (resultOf .ok), sigFence := 0x20000003#32, sigValue := 9 }) with sp := { (runs1 ({ cmdOf 0x20 [] with phase := .finished (resultOf .ok), sigFence := 0x20000003#32, sigValue := 9 })).sp with fences := [fen3] } }, 1, 4, 5, { cmdOf 0x20 [] with phase := .finished (resultOf .ok), sigFence := 0x20000003#32, sigValue := 9 }, resultOf .ok, fen3, by decide +kernel⟩,
    ⟨{ runs1 ({ cmdOf 0x20 [] with phase := .finished (resultOf .peerLost), sigFence := 0x20000003#32, sigValue := 9 }) with sp := { (runs1 ({ cmdOf 0x20 [] with phase := .finished (resultOf .peerLost), sigFence := 0x20000003#32, sigValue := 9 })).sp with fences := [fen3] } }, 1, 4, 5, { cmdOf 0x20 [] with phase := .finished (resultOf .peerLost), sigFence := 0x20000003#32, sigValue := 9 }, resultOf .peerLost, fen3, by decide +kernel⟩,
    ⟨{ runs1 ({ cmdOf 0x20 [] with phase := .finished (resultOf .ok), sigFence := 0x20000003#32, sigValue := 9 }) with sp := { (runs1 ({ cmdOf 0x20 [] with phase := .finished (resultOf .ok), sigFence := 0x20000003#32, sigValue := 9 })).sp with fences := [fen3] } }, 1, 4, 5, { cmdOf 0x20 [] with phase := .finished (resultOf .ok), sigFence := 0x20000003#32, sigValue := 9 }, resultOf .ok, ctx1, by decide +kernel⟩,
    ⟨{ runs1 ({ cmdOf 0x20 [] with phase := .finished (resultOf .ok), sigFence := 0x20000003#32, sigValue := 9 }) with sp := { (runs1 ({ cmdOf 0x20 [] with phase := .finished (resultOf .ok), sigFence := 0x20000003#32, sigValue := 9 })).sp with fences := [fen3] } }, 1, 4, 5, { cmdOf 0x20 [] with phase := .finished (resultOf .ok), sigFence := 0x20000003#32, sigValue := 9 }, resultOf .ok, by decide +kernel⟩,
    ⟨runs1 (cmdOf 2 []), 1, 4, 5, cmdOf 2 [], by decide +kernel⟩,
    ⟨up, 1, 4, 5, by decide +kernel⟩⟩

/-- Concrete states and operands that meet the hypotheses of ObjectsAndFenceRequests, clause by clause. -/
theorem wit_ObjectsAndFenceRequests :
    (∃ (s : State) (ch : Chan) (i : Instr),
      asksIn ch i ∧ heard s.lmx ch.port = false) ∧
    (∃ (s : State) (ch : Chan) (i : Instr),
      asksIn ch i ∧ heard s.lmx ch.port = false) ∧
    (∃ (s : State) (ch : Chan) (i : Instr),
      asksIn ch i ∧ heard s.lmx ch.port = false) ∧
    (∃ (s : State) (ch : Chan) (i : Instr),
      asksIn ch i ∧ heard s.lmx ch.port = false) ∧
    (∃ (s : State) (ch : Chan) (i : Instr),
      asksIn ch i ∧ heard s.lmx ch.port = false) ∧
    (∃ (s : State) (ch : Chan) (i : Instr),
      asksIn ch i ∧ heard s.lmx ch.port = false) ∧
    (∃ (s : State) (ch : Chan) (i : Instr),
      asksIn ch i ∧ heard s.lmx ch.port = false) ∧
    (∃ (s : State) (ch : Chan) (i : Instr),
      asksIn ch i ∧ heard s.lmx ch.port = true ∧ (spaceGet s ch.slot).bound = false) ∧
    (∃ (s : State) (ch : Chan) (i : Instr),
      asksIn ch i ∧ heard s.lmx ch.port = true ∧ (spaceGet s ch.slot).bound = false) ∧
    (∃ (s : State) (ch : Chan) (i : Instr),
      asksIn ch i ∧ heard s.lmx ch.port = true ∧ (spaceGet s ch.slot).bound = false) ∧
    (∃ (s : State) (ch : Chan) (i : Instr),
      asksIn ch i ∧ heard s.lmx ch.port = true ∧ (spaceGet s ch.slot).bound = false) ∧
    (∃ (s : State) (ch : Chan) (i : Instr),
      asksIn ch i ∧ heard s.lmx ch.port = true ∧ (spaceGet s ch.slot).bound = false) ∧
    (∃ (s : State) (ch : Chan) (i : Instr),
      asksIn ch i ∧ heard s.lmx ch.port = true ∧ (spaceGet s ch.slot).bound = false) ∧
    (∃ (s : State) (ch : Chan) (i : Instr),
      asksIn ch i ∧ heard s.lmx ch.port = true ∧ (spaceGet s ch.slot).bound = false) ∧
    (∃ (s : State) (ch : Chan) (i : Instr),
      asksIn ch i ∧ heard s.lmx ch.port = true ∧ (spaceGet s ch.slot).bound = true ∧ ch.auth.map (·.1) ≠ spaceParty s ch.slot) ∧
    (∃ (s : State) (ch : Chan) (i : Instr),
      asksIn ch i ∧ heard s.lmx ch.port = true ∧ (spaceGet s ch.slot).bound = true ∧ ch.auth.map (·.1) ≠ spaceParty s ch.slot) ∧
    (∃ (s : State) (ch : Chan) (i : Instr) (q : Nat) (m : MsgAuth),
      asksIn ch i ∧ heard s.lmx ch.port = true ∧ (spaceGet s ch.slot).bound = true ∧ spaceParty s ch.slot = some q ∧ ch.auth = some (q, m) ∧ ((chanOf s q).bound = false ∨ m.ok = false ∨ ∃ n, (chanOf s q).lastIn = some n ∧ m.counter ≤ n)) ∧
    (∃ (s : State) (ch : Chan) (i : Instr) (q : Nat) (m : MsgAuth),
      asksIn ch i ∧ heard s.lmx ch.port = true ∧ (spaceGet s ch.slot).bound = true ∧ spaceParty s ch.slot = some q ∧ ch.auth = some (q, m) ∧ ((chanOf s q).bound = false ∨ m.ok = false ∨ ∃ n, (chanOf s q).lastIn = some n ∧ m.counter ≤ n)) ∧
    (∃ (s : State) (ch : Chan) (i : Instr) (q : Nat) (m : MsgAuth),
      asksIn ch i ∧ heard s.lmx ch.port = true ∧ (spaceGet s ch.slot).bound = true ∧ spaceParty s ch.slot = some q ∧ ch.auth = some (q, m) ∧ ((chanOf s q).bound = false ∨ m.ok = false ∨ ∃ n, (chanOf s q).lastIn = some n ∧ m.counter ≤ n)) ∧
    (∃ (s : State) (ch : Chan) (i : Instr),
      asksIn ch i ∧ heard s.lmx ch.port = true ∧ (spaceGet s ch.slot).bound = true ∧ (spaceGet s ch.slot).state ≠ 1 ∧ authorized s ch) ∧
    (∃ (s : State) (ch : Chan) (i : Instr),
      asksIn ch i ∧ heard s.lmx ch.port = true ∧ (spaceGet s ch.slot).bound = true ∧ (spaceGet s ch.slot).state ≠ 1 ∧ authorized s ch) ∧
    (∃ (s : State) (ch : Chan) (h : BitVec 32) (v : Word) (i : Instr),
      mayAsk s ch ∧ fenceGet s ch.slot h = none ∧ (i = .fenceDestroy ch h ∨ i = .fenceSignal ch h v ∨ i = .fenceFail ch h ∨ i = .fenceQuery ch h ∨ i = .fenceNotify ch h v)) ∧
    (∃ (s : State) (ch : Chan) (h : BitVec 32) (v : Word) (i : Instr),
      mayAsk s ch ∧ fenceGet s ch.slot h = none ∧ (i = .fenceDestroy ch h ∨ i = .fenceSignal ch h v ∨ i = .fenceFail ch h ∨ i = .fenceQuery ch h ∨ i = .fenceNotify ch h v)) ∧
    (∃ (s : State) (ch : Chan) (h : BitVec 32) (v : Word) (i : Instr),
      mayAsk s ch ∧ fenceGet s ch.slot h = none ∧ (i = .fenceDestroy ch h ∨ i = .fenceSignal ch h v ∨ i = .fenceFail ch h ∨ i = .fenceQuery ch h ∨ i = .fenceNotify ch h v)) ∧
    (∃ (s : State) (ch : Chan) (h : BitVec 32) (v : Word) (i : Instr),
      mayAsk s ch ∧ fenceGet s ch.slot h = none ∧ (i = .fenceDestroy ch h ∨ i = .fenceSignal ch h v ∨ i = .fenceFail ch h ∨ i = .fenceQuery ch h ∨ i = .fenceNotify ch h v)) ∧
    (∃ (s : State) (ch : Chan) (h : BitVec 32) (v : Word) (i : Instr),
      mayAsk s ch ∧ fenceGet s ch.slot h = none ∧ (i = .fenceDestroy ch h ∨ i = .fenceSignal ch h v ∨ i = .fenceFail ch h ∨ i = .fenceQuery ch h ∨ i = .fenceNotify ch h v)) ∧
    (∃ (s : State) (ch : Chan) (range : Nat) (size : Nat) (addr : Nat) (o : Owner) (z : Bool),
      mayAsk s ch ∧ (size = 0 ∨ size % 2 ^ 21 ≠ 0 ∨ addr % 2 ^ 21 ≠ 0 ∨ 2 ^ 48 < addr + size ∨ 31 < range ∨ (rangeCfg s range).mode = 0)) ∧
    (∃ (s : State) (ch : Chan) (range : Nat) (size : Nat) (addr : Nat) (o : Owner) (z : Bool),
      mayAsk s ch ∧ (size = 0 ∨ size % 2 ^ 21 ≠ 0 ∨ addr % 2 ^ 21 ≠ 0 ∨ 2 ^ 48 < addr + size ∨ 31 < range ∨ (rangeCfg s range).mode = 0)) ∧
    (∃ (s : State) (ch : Chan) (range : Nat) (size : Nat) (addr : Nat) (o : Owner) (z : Bool),
      mayAsk s ch ∧ (size = 0 ∨ size % 2 ^ 21 ≠ 0 ∨ addr % 2 ^ 21 ≠ 0 ∨ 2 ^ 48 < addr + size ∨ 31 < range ∨ (rangeCfg s range).mode = 0)) ∧
    (∃ (s : State) (ch : Chan) (range : Nat) (size : Nat) (addr : Nat) (o : Owner) (z : Bool),
      mayAsk s ch ∧ (size = 0 ∨ size % 2 ^ 21 ≠ 0 ∨ addr % 2 ^ 21 ≠ 0 ∨ 2 ^ 48 < addr + size ∨ 31 < range ∨ (rangeCfg s range).mode = 0)) ∧
    (∃ (s : State) (ch : Chan) (range : Nat) (size : Nat) (addr : Nat) (o : Owner) (z : Bool),
      mayAsk s ch ∧ (size = 0 ∨ size % 2 ^ 21 ≠ 0 ∨ addr % 2 ^ 21 ≠ 0 ∨ 2 ^ 48 < addr + size ∨ 31 < range ∨ (rangeCfg s range).mode = 0)) ∧
    (∃ (s : State) (ch : Chan) (range : Nat) (size : Nat) (addr : Nat) (o : Owner) (z : Bool),
      mayAsk s ch ∧ (size = 0 ∨ size % 2 ^ 21 ≠ 0 ∨ addr % 2 ^ 21 ≠ 0 ∨ 2 ^ 48 < addr + size ∨ 31 < range ∨ (rangeCfg s range).mode = 0)) ∧
    (∃ (s : State) (v : State) (ch : Chan) (range : Nat) (size : Nat) (addr : Nat),
      mayAsk s ch ∧ v = asked s ch ∧ size ≠ 0 ∧ size % 2 ^ 21 = 0 ∧ addr ≠ 0 ∧ addr % 2 ^ 21 = 0 ∧ addr + size ≤ 2 ^ 48 ∧ range ≤ 31 ∧ (rangeCfg s range).mode ≠ 0 ∧ mayMap v ch.slot range = true ∧ (∀ o ∈ s.sp.objs, o.space = ch.slot → ∀ e ∈ o.pages, runsMeet (addr / 2 ^ 21, addr / 2 ^ 21 + size / 2 ^ 21) (e.vpn, e.vpn + e.n) = false) ∧ (useOf s ch.slot).2.2.1 < (spaceGet s ch.slot).qObj ∧ size / 2 ^ 21 ≤ (freePages v range).length ∧ s.sp.objs.length < 1048576 ∧ l2Used ({ idx := 0, space := ch.slot, owner := .space, range := range, vpn := addr / 2 ^ 21, pages := extentsOf (addr / 2 ^ 21) ((freePages v range).take (size / 2 ^ 21)), struck := none } :: s.sp.objs) ch.slot ≤ (spaceGet s ch.slot).qL2) ∧
    (∃ (s : State) (ch : Chan) (h : BitVec 32),
      mayAsk s ch ∧ objGet s ch.slot h = none) ∧
    (∃ (s : State) (ch : Chan) (h : BitVec 32) (o : Obj),
      mayAsk s ch ∧ objGet s ch.slot h = some o ∧ o.struck = none ∧ objHeld (asked s ch) o s.sp.doors = false) ∧
    (∃ (s : State) (ch : Chan) (h : BitVec 32) (o : Obj),
      mayAsk s ch ∧ objGet s ch.slot h = some o ∧ o.struck = none ∧ objHeld (asked s ch) o s.sp.doors = true) ∧
    (∃ (s : State) (ch : Chan) (h : BitVec 32) (f : Fence),
      mayAsk s ch ∧ fenceGet s ch.slot h = some f ∧ f.struck = false ∧ f.failed = false ∧ (∀ g ∈ s.sp.fences, g.idx = f.idx → g = f)) ∧
    (∃ (s : State) (ch : Chan) (h : BitVec 32) (f : Fence),
      mayAsk s ch ∧ fenceGet s ch.slot h = some f) ∧
    (∃ (s : State) (ch : Chan) (h : BitVec 32) (v : Word) (f : Fence),
      mayAsk s ch ∧ fenceGet s ch.slot h = some f ∧ f.struck = false ∧ f.failed = false ∧ f.value < v ∧ (∀ n ∈ f.notifies, f.value < n) ∧ (∀ g ∈ s.sp.fences, g.idx = f.idx → g = f)) ∧
    (∃ (s : State) (ch : Chan) (h : BitVec 32) (f : Fence),
      mayAsk s ch ∧ fenceGet s ch.slot h = some f ∧ f.struck = false ∧ fenceNamed s f s.sp.doors = false ∧ f.notifies = []) ∧
    (∃ (s : State) (ch : Chan) (h : BitVec 32) (f : Fence),
      mayAsk s ch ∧ fenceGet s ch.slot h = some f ∧ f.struck = false ∧ fenceNamed s f s.sp.doors = true ∧ f.notifies = []) ∧
    (∃ (s : State) (ch : Chan) (h : BitVec 32) (v : Word) (f : Fence),
      mayAsk s ch ∧ fenceGet s ch.slot h = some f ∧ f.struck = false ∧ f.failed = true) ∧
    (∃ (s : State) (ch : Chan) (o : Owner) (v : Word),
      mayAsk s ch ∧ ownerCheck s ch.slot o = none ∧ (useOf s ch.slot).2.2.2 < (spaceGet s ch.slot).qFence ∧ s.sp.fences.length < 1048576) ∧
    (∃ (s : State) (ch : Chan) (o : Owner) (v : Word),
      mayAsk s ch ∧ ownerCheck s ch.slot o = none ∧ (useOf s ch.slot).2.2.2 < (spaceGet s ch.slot).qFence ∧ s.sp.fences.length < 1048576) ∧
    (∃ (s : State) (ch : Chan) (h : BitVec 32) (v : Word) (f : Fence) (i : Instr),
      mayAsk s ch ∧ fenceGet s ch.slot h = some f ∧ f.struck = true ∧ (i = .fenceSignal ch h v ∨ i = .fenceFail ch h ∨ i = .fenceNotify ch h v ∨ i = .fenceDestroy ch h)) ∧
    (∃ (s : State) (ch : Chan) (h : BitVec 32) (v : Word) (f : Fence) (i : Instr),
      mayAsk s ch ∧ fenceGet s ch.slot h = some f ∧ f.struck = true ∧ (i = .fenceSignal ch h v ∨ i = .fenceFail ch h ∨ i = .fenceNotify ch h v ∨ i = .fenceDestroy ch h)) ∧
    (∃ (s : State) (ch : Chan) (h : BitVec 32) (v : Word) (f : Fence) (i : Instr),
      mayAsk s ch ∧ fenceGet s ch.slot h = some f ∧ f.struck = true ∧ (i = .fenceSignal ch h v ∨ i = .fenceFail ch h ∨ i = .fenceNotify ch h v ∨ i = .fenceDestroy ch h)) ∧
    (∃ (s : State) (ch : Chan) (h : BitVec 32) (v : Word) (f : Fence) (i : Instr),
      mayAsk s ch ∧ fenceGet s ch.slot h = some f ∧ f.struck = true ∧ (i = .fenceSignal ch h v ∨ i = .fenceFail ch h ∨ i = .fenceNotify ch h v ∨ i = .fenceDestroy ch h)) :=
  ⟨⟨State.reset, chA, .ctxCreate chA ⟨false, 0, 0, 1⟩, (by unfold asksIn; simp), (by decide +kernel)⟩,
    ⟨State.reset, chA, .qDestroy chA 0x30000005#32, (by unfold asksIn; simp), (by decide +kernel)⟩,
    ⟨State.reset, chA, .doorbell chA 0x30000005#32 4, (by unfold asksIn; simp), (by decide +kernel)⟩,
    ⟨State.reset, chA, .objAlloc chA 0 (2 ^ 21) (2 ^ 22) .space false, (by unfold asksIn; simp), (by decide +kernel)⟩,
    ⟨State.reset, chA, .objFree chA 0x10000000#32, (by unfold asksIn; simp), (by decide +kernel)⟩,
    ⟨State.reset, chA, .fenceCreate chA .space 5, (by unfold asksIn; simp), (by decide +kernel)⟩,
    ⟨State.reset, chA, .fenceQuery chA 0x20000003#32, (by unfold asksIn; simp), (by decide +kernel)⟩,
    ⟨{ up with sp := {} }, chA, .ctxCreate chA ⟨false, 0, 0, 1⟩, (by unfold asksIn; simp), (by decide +kernel), (by decide +kernel)⟩,
    ⟨{ up with sp := {} }, chA, .qDestroy chA 0x30000005#32, (by unfold asksIn; simp), (by decide +kernel), (by decide +kernel)⟩,
    ⟨{ up with sp := {} }, chA, .doorbell chA 0x30000005#32 4, (by unfold asksIn; simp), (by decide +kernel), (by decide +kernel)⟩,
    ⟨{ up with sp := {} }, chA, .objAlloc chA 0 (2 ^ 21) (2 ^ 22) .space false, (by unfold asksIn; simp), (by decide +kernel), (by decide +kernel)⟩,
    ⟨{ up with sp := {} }, chA, .objFree chA 0x10000000#32, (by unfold asksIn; simp), (by decide +kernel), (by decide +kernel)⟩,
    ⟨{ up with sp := {} }, chA, .fenceCreate chA .space 5, (by unfold asksIn; simp), (by decide +kernel), (by decide +kernel)⟩,
    ⟨{ up with sp := {} }, chA, .fenceQuery chA 0x20000003#32, (by unfold asksIn; simp), (by decide +kernel), (by decide +kernel)⟩,
    ⟨up, ⟨.a, 0, 6, some (0, ⟨0, true⟩)⟩, .objFree (⟨.a, 0, 6, some (0, ⟨0, true⟩)⟩) 0x10000000#32, (by unfold asksIn; simp), (by decide +kernel), (by decide +kernel), (by decide +kernel)⟩,
    ⟨{ upC (slotAt 0 {}) with sp := { slots := { state := 1, party := 0, bound := true } :: List.replicate 15 {} } }, chA, .objFree chA 0x10000000#32, (by unfold asksIn; simp), (by decide +kernel), (by decide +kernel), (by decide +kernel)⟩,
    ⟨{ { upC (slotAt 0 {}) with keys := { channels := { bound := true, lastIn := some 4 } :: List.replicate 7 {} } } with sp := { slots := { state := 1, party := 0, bound := true } :: List.replicate 15 {} } }, ⟨.a, 0, 6, some (0, ⟨4, true⟩)⟩, .objFree (⟨.a, 0, 6, some (0, ⟨4, true⟩)⟩) 0x10000000#32, 0, ⟨4, true⟩, (by unfold asksIn; simp), (by decide +kernel), (by decide +kernel), (by decide +kernel), (by decide +kernel), (by decide +kernel)⟩,
    ⟨{ { upC (slotAt 0 {}) with keys := { channels := { bound := true, lastIn := some 4 } :: List.replicate 7 {} } } with sp := { slots := { state := 1, party := 0, bound := true } :: List.replicate 15 {} } }, ⟨.a, 0, 6, some (0, ⟨0, true⟩)⟩, .objFree (⟨.a, 0, 6, some (0, ⟨0, true⟩)⟩) 0x10000000#32, 0, ⟨0, true⟩, (by unfold asksIn; simp), (by decide +kernel), (by decide +kernel), (by decide +kernel), (by decide +kernel), (by decide +kernel)⟩,
    ⟨{ upC (slotAt 0 {}) with sp := { slots := { state := 1, party := 0, bound := true } :: List.replicate 15 {} } }, ⟨.a, 0, 6, some (0, ⟨5, false⟩)⟩, .objFree (⟨.a, 0, 6, some (0, ⟨5, false⟩)⟩) 0x10000000#32, 0, ⟨5, false⟩, (by unfold asksIn; simp), (by decide +kernel), (by decide +kernel), (by decide +kernel), (by decide +kernel), (by decide +kernel)⟩,
    ⟨{ up with sp := { up.sp with slots := { (up.sp.slots.getD 0 {}) with state := 2 } :: List.replicate 15 {} } }, chA, .objFree chA 0x10000000#32, (by unfold asksIn; simp), (by decide +kernel), (by decide +kernel), (by decide +kernel), (by first | exact True.intro | exact And.intro rfl (by decide +kernel))⟩,
    ⟨{ upC (slotAt 0 {}) with sp := { slots := { state := 3, party := 0, bound := true } :: List.replicate 15 {} } }, ⟨.a, 0, 6, some (0, ⟨0, true⟩)⟩, .objFree (⟨.a, 0, 6, some (0, ⟨0, true⟩)⟩) 0x10000000#32, (by unfold asksIn; simp), (by decide +kernel), (by decide +kernel), (by decide +kernel), (by first | exact True.intro | exact And.intro rfl (by decide +kernel))⟩,
    ⟨spS, chA, 0x20000009#32, 5, .fenceDestroy chA 0x20000009#32, ⟨by decide +kernel, by decide +kernel, by decide +kernel, (by first | exact True.intro | exact And.intro rfl (by decide +kernel))⟩, (by decide +kernel), (by decide +kernel)⟩,
    ⟨spS, chA, 0x20000009#32, 5, .fenceSignal chA 0x20000009#32 5, ⟨by decide +kernel, by decide +kernel, by decide +kernel, (by first | exact True.intro | exact And.intro rfl (by decide +kernel))⟩, (by decide +kernel), (by decide +kernel)⟩,
    ⟨spS, chA, 0x20000009#32, 5, .fenceFail chA 0x20000009#32, ⟨by decide +kernel, by decide +kernel, by decide +kernel, (by first | exact True.intro | exact And.intro rfl (by decide +kernel))⟩, (by decide +kernel), (by decide +kernel)⟩,
    ⟨spS, chA, 0x20000009#32, 5, .fenceQuery chA 0x20000009#32, ⟨by decide +kernel, by decide +kernel, by decide +kernel, (by first | exact True.intro | exact And.intro rfl (by decide +kernel))⟩, (by decide +kernel), (by decide +kernel)⟩,
    ⟨spS, chA, 0x20000009#32, 5, .fenceNotify chA 0x20000009#32 5, ⟨by decide +kernel, by decide +kernel, by decide +kernel, (by first | exact True.intro | exact And.intro rfl (by decide +kernel))⟩, (by decide +kernel), (by decide +kernel)⟩,
    ⟨spS, chA, 0, 0, 0, .space, true, ⟨by decide +kernel, by decide +kernel, by decide +kernel, (by first | exact True.intro | exact And.intro rfl (by decide +kernel))⟩, (by decide +kernel)⟩,
    ⟨spS, chA, 0, 2 ^ 20, 2 ^ 21, .space, true, ⟨by decide +kernel, by decide +kernel, by decide +kernel, (by first | exact True.intro | exact And.intro rfl (by decide +kernel))⟩, (by decide +kernel)⟩,
    ⟨spS, chA, 0, 2 ^ 21, 4096, .space, true, ⟨by decide +kernel, by decide +kernel, by decide +kernel, (by first | exact True.intro | exact And.intro rfl (by decide +kernel))⟩, (by decide +kernel)⟩,
    ⟨spS, chA, 0, 2 ^ 21, 2 ^ 48, .space, true, ⟨by decide +kernel, by decide +kernel, by decide +kernel, (by first | exact True.intro | exact And.intro rfl (by decide +kernel))⟩, (by decide +kernel)⟩,
    ⟨spS, chA, 32, 2 ^ 21, 2 ^ 21, .space, true, ⟨by decide +kernel, by decide +kernel, by decide +kernel, (by first | exact True.intro | exact And.intro rfl (by decide +kernel))⟩, (by decide +kernel)⟩,
    ⟨spS, chA, 1, 2 ^ 21, 2 ^ 21, .space, true, ⟨by decide +kernel, by decide +kernel, by decide +kernel, (by first | exact True.intro | exact And.intro rfl (by decide +kernel))⟩, (by decide +kernel)⟩,
    ⟨spS, _, chA, 0, 2 ^ 22, 2 ^ 25, ⟨by decide +kernel, by decide +kernel, by decide +kernel, (by first | exact True.intro | exact And.intro rfl (by decide +kernel))⟩, rfl, (by decide +kernel), (by decide +kernel), (by decide +kernel), (by decide +kernel), (by decide +kernel), (by decide +kernel), (by decide +kernel), (by decide +kernel), (by decide +kernel), (by decide +kernel), (by decide +kernel), (by decide +kernel), (by decide +kernel)⟩,
    ⟨spS, chA, 0x10000007#32, ⟨by decide +kernel, by decide +kernel, by decide +kernel, (by first | exact True.intro | exact And.intro rfl (by decide +kernel))⟩, (by decide +kernel)⟩,
    ⟨spS, chA, 0x10000000#32, (spS.sp.objs.headD ⟨0, 0, .space, 0, 0, [], none⟩), ⟨by decide +kernel, by decide +kernel, by decide +kernel, (by first | exact True.intro | exact And.intro rfl (by decide +kernel))⟩, (by decide +kernel), (by decide +kernel), (by decide +kernel)⟩,
    ⟨{ spS with sp := { spS.sp with cmds := [cmdOf 2 [(0, 1), (2 ^ 21, 48)]] } }, chA, 0x10000000#32, (spS.sp.objs.headD ⟨0, 0, .space, 0, 0, [], none⟩), ⟨by decide +kernel, by decide +kernel, by decide +kernel, (by first | exact True.intro | exact And.intro rfl (by decide +kernel))⟩, (by decide +kernel), (by decide +kernel), (by decide +kernel)⟩,
    ⟨spS, chA, 0x20000003#32, fen3, ⟨by decide +kernel, by decide +kernel, by decide +kernel, (by first | exact True.intro | exact And.intro rfl (by decide +kernel))⟩, (by decide +kernel), (by decide +kernel), (by decide +kernel), (by decide +kernel)⟩,
    ⟨spS, chA, 0x20000003#32, fen3, ⟨by decide +kernel, by decide +kernel, by decide +kernel, (by first | exact True.intro | exact And.intro rfl (by decide +kernel))⟩, (by decide +kernel)⟩,
    ⟨spS, chA, 0x20000003#32, 8, fen3, ⟨by decide +kernel, by decide +kernel, by decide +kernel, (by first | exact True.intro | exact And.intro rfl (by decide +kernel))⟩, (by decide +kernel), (by decide +kernel), (by decide +kernel), (by decide +kernel), (by intro n h; cases h with | head => decide | tail _ h => cases h), (by decide +kernel)⟩,
    ⟨spF { fen3 with notifies := [] }, chA, 0x20000003#32, { fen3 with notifies := [] }, ⟨by decide +kernel, by decide +kernel, by decide +kernel, (by first | exact True.intro | exact And.intro rfl (by decide +kernel))⟩, (by decide +kernel), (by decide +kernel), (by decide +kernel), (by decide +kernel)⟩,
    ⟨{ spF { fen3 with notifies := [] } with sp := { (spF { fen3 with notifies := [] }).sp with cmds := [{ cmdOf 2 [] with sigFence := 0x20000003#32 }] } }, chA, 0x20000003#32, { fen3 with notifies := [] }, ⟨by decide +kernel, by decide +kernel, by decide +kernel, (by first | exact True.intro | exact And.intro rfl (by decide +kernel))⟩, (by decide +kernel), (by decide +kernel), (by decide +kernel), (by decide +kernel)⟩,
    ⟨spF { fen3 with failed := true }, chA, 0x20000003#32, 8, { fen3 with failed := true }, ⟨by decide +kernel, by decide +kernel, by decide +kernel, (by first | exact True.intro | exact And.intro rfl (by decide +kernel))⟩, (by decide +kernel), (by decide +kernel), (by decide +kernel)⟩,
    ⟨spS, chA, .ctx 1, 5, ⟨by decide +kernel, by decide +kernel, by decide +kernel, (by first | exact True.intro | exact And.intro rfl (by decide +kernel))⟩, (by decide +kernel), (by decide +kernel), (by decide +kernel)⟩,
    ⟨spS, chA, .space, 5, ⟨by decide +kernel, by decide +kernel, by decide +kernel, (by first | exact True.intro | exact And.intro rfl (by decide +kernel))⟩, (by decide +kernel), (by decide +kernel), (by decide +kernel)⟩,
    ⟨spF { fen3 with struck := true }, chA, 0x20000003#32, 8, { fen3 with struck := true }, .fenceSignal chA 0x20000003#32 8, ⟨by decide +kernel, by decide +kernel, by decide +kernel, (by first | exact True.intro | exact And.intro rfl (by decide +kernel))⟩, (by decide +kernel), (by decide +kernel), (by decide +kernel)⟩,
    ⟨spF { fen3 with struck := true }, chA, 0x20000003#32, 8, { fen3 with struck := true }, .fenceFail chA 0x20000003#32, ⟨by decide +kernel, by decide +kernel, by decide +kernel, (by first | exact True.intro | exact And.intro rfl (by decide +kernel))⟩, (by decide +kernel), (by decide +kernel), (by decide +kernel)⟩,
    ⟨spF { fen3 with struck := true }, chA, 0x20000003#32, 8, { fen3 with struck := true }, .fenceNotify chA 0x20000003#32 8, ⟨by decide +kernel, by decide +kernel, by decide +kernel, (by first | exact True.intro | exact And.intro rfl (by decide +kernel))⟩, (by decide +kernel), (by decide +kernel), (by decide +kernel)⟩,
    ⟨spF { fen3 with struck := true }, chA, 0x20000003#32, 8, { fen3 with struck := true }, .fenceDestroy chA 0x20000003#32, ⟨by decide +kernel, by decide +kernel, by decide +kernel, (by first | exact True.intro | exact And.intro rfl (by decide +kernel))⟩, (by decide +kernel), (by decide +kernel), (by decide +kernel)⟩⟩

/-- Concrete states and operands that meet the hypotheses of FencesOnlyRise, clause by clause. -/
theorem wit_FencesOnlyRise :
    (∃ (s : State) (ch : Chan) (o : Owner) (v : Word),
      mayAsk s ch ∧ (o = .space ∨ ∃ id x, o = .ctx id ∧ ctxGet s id = some x ∧ x.space = ch.slot ∧ x.dying = false) ∧ (useOf s ch.slot).2.2.2 < (spaceGet s ch.slot).qFence ∧ s.sp.fences.length < 1048576) ∧
    (∃ (s : State) (ch : Chan) (h : BitVec 32) (v : Word) (f : Fence),
      mayAsk s ch ∧ fenceGet s ch.slot h = some f ∧ f.struck = false ∧ f.failed = false ∧ (∀ g ∈ s.sp.fences, g.idx = f.idx → g = f)) ∧
    (∃ (s : State) (ch : Chan) (h : BitVec 32) (v : Word) (f : Fence),
      mayAsk s ch ∧ fenceGet s ch.slot h = some f ∧ f.struck = false ∧ f.failed = false ∧ (∀ g ∈ s.sp.fences, g.idx = f.idx → g = f)) ∧
    (∃ (s : State) (ch : Chan) (h : BitVec 32) (v : Word) (f : Fence),
      mayAsk s ch ∧ fenceGet s ch.slot h = some f ∧ f.struck = false ∧ f.failed = false ∧ (∀ g ∈ s.sp.fences, g.idx = f.idx → g = f)) ∧
    (∃ (s : State) (ch : Chan) (h : BitVec 32) (v : Word) (f : Fence),
      mayAsk s ch ∧ fenceGet s ch.slot h = some f ∧ f.struck = false ∧ f.failed = false ∧ v ≤ f.value ∧ (∀ n ∈ f.notifies, f.value < n) ∧ (∀ g ∈ s.sp.fences, g.idx = f.idx → g = f)) ∧
    (∃ (s : State) (ch : Chan) (h : BitVec 32) (v : Word) (f : Fence),
      mayAsk s ch ∧ fenceGet s ch.slot h = some f ∧ f.struck = false ∧ f.failed = true) :=
  ⟨⟨spS, chA, .ctx 1, 5, ⟨by decide +kernel, by decide +kernel, by decide +kernel, (by first | exact True.intro | exact And.intro rfl (by decide +kernel))⟩, (.inr ⟨1, ctx1, rfl, by decide +kernel, rfl, rfl⟩), (by decide +kernel), (by decide +kernel)⟩,
    ⟨spS, chA, 0x20000003#32, 8, fen3, ⟨by decide +kernel, by decide +kernel, by decide +kernel, (by first | exact True.intro | exact And.intro rfl (by decide +kernel))⟩, (by decide +kernel), (by decide +kernel), (by decide +kernel), (by decide +kernel)⟩,
    ⟨spS, chA, 0x20000003#32, 7, fen3, ⟨by decide +kernel, by decide +kernel, by decide +kernel, (by first | exact True.intro | exact And.intro rfl (by decide +kernel))⟩, (by decide +kernel), (by decide +kernel), (by decide +kernel), (by decide +kernel)⟩,
    ⟨spS, chA, 0x20000003#32, 9, fen3, ⟨by decide +kernel, by decide +kernel, by decide +kernel, (by first | exact True.intro | exact And.intro rfl (by decide +kernel))⟩, (by decide +kernel), (by decide +kernel), (by decide +kernel), (by decide +kernel)⟩,
    ⟨spS, chA, 0x20000003#32, 7, fen3, ⟨by decide +kernel, by decide +kernel, by decide +kernel, (by first | exact True.intro | exact And.intro rfl (by decide +kernel))⟩, (by decide +kernel), (by decide +kernel), (by decide +kernel), (by decide +kernel), (by intro n h; cases h with | head => decide | tail _ h => cases h), (by decide +kernel)⟩,
    ⟨spF { fen3 with failed := true }, chA, 0x20000003#32, 8, { fen3 with failed := true }, ⟨by decide +kernel, by decide +kernel, by decide +kernel, (by first | exact True.intro | exact And.intro rfl (by decide +kernel))⟩, (by decide +kernel), (by decide +kernel), (by decide +kernel)⟩⟩

/-- A command in front of a queue. -/
theorem wit_EveryStepTakesOneCommand :
    ∃ (s : State) (c : Instr) (rest : List Instr), s.pending = c :: rest :=
  ⟨{ up with pending := [.pinClamp, .idcode] }, .pinClamp, [.idcode], rfl⟩

/-- A state whose memory is canonical, and its step. -/
theorem wit_EveryStepKeepsMemoryCanonical : ∃ s t : State, canonical s ∧ step s = .next t :=
  ⟨State.reset, State.reset, by decide +kernel, rfl⟩

/-- A state of the hardware's shape, and its step. -/
theorem wit_EveryStepKeepsTheShape : ∃ s t : State, shaped s ∧ step s = .next t :=
  ⟨State.reset, State.reset, by decide +kernel, rfl⟩

/-- A magnitude code at each end of its range. -/
theorem wit_L4Codes : (∃ (_ : List Nat) (_ : Bool) (c : Nat), c < 8 ∧ c = 0) ∧ ∃ (_ : List Nat) (_ : Bool) (c : Nat), c < 8 ∧ c = 7 :=
  ⟨⟨[], false, 0, by decide⟩, ⟨[], true, 7, by decide⟩⟩

/-- A route and the link that it picks. -/
theorem wit_TransitHopsAreBounded_route : ∃ (s : State) (dst m : Nat) (r : Route), routeOf s dst = some r ∧ pickLink s dst = some m :=
  ⟨fab, 9, 0, { primary := 3 }, by decide +kernel⟩

/-- A winner of the arbiter. -/
theorem wit_EgressArbiterFollowsClasses_winner :
    ∃ (s : State) (n r : Nat) (a : Option Nat) (l : Link), egressWinner s n l a = some r :=
  ⟨fabQ { queue := [outP] } {} 0 none, 0, 2, some 2, linkOf (fabQ { queue := [outP] } {} 0 none) 0, by decide +kernel⟩

/-! ### WellFormed: one ill-formed command for each check -/

theorem test_illformed_tag : wellFormed (.quote .a (2 ^ 32)) = false := by decide
theorem test_illformed_link : wellFormed (.linkWatchdog 48) = false := by decide
theorem test_illformed_requester : wellFormed (.egressRequest 0 14) = false := by decide
theorem test_illformed_engine : wellFormed (.bandWatchdog 64 0) = false := by decide
theorem test_illformed_band : wellFormed (.bandWatchdog 0 8) = false := by decide
theorem test_illformed_grip : wellFormed (.gripWatchdog 80) = false := by decide
theorem test_illformed_island : wellFormed (.islandSleep 125) = false := by decide
theorem test_illformed_stack : wellFormed (.mergeWriteback 8 0) = false := by decide
theorem test_illformed_range : wellFormed (.rangeFillDone 33) = false := by decide
theorem test_illformed_party : wellFormed (.bind .a 0 8 0) = false := by decide
theorem test_illformed_slot : wellFormed (.spaceCreate .a 0 16) = false := by decide
theorem test_illformed_module : wellFormed (.probeReceive 4096) = false := by decide
theorem test_illformed_generation : wellFormed (.sealedReceive (2 ^ 48)) = false := by decide
theorem test_illformed_address : wellFormed (.memPort (2 ^ 40) none) = false := by decide
theorem test_illformed_cause : wellFormed (.tamperStrike 6) = false := by decide
theorem test_illformed_length : wellFormed (.bindConfirm .a 0 0 [] []) = false := by decide
theorem test_illformed_setup_frame : wellFormed (.kemCt .a [] ⟨5, 256, 0, 0, 64, 0, 0, 0, 0, 5⟩) = false := by decide
theorem test_illformed_word : wellFormed (.random 0 [{ acc := true, word := 131072, data := 1, chk := 0 }]) = false := by decide
theorem test_illformed_measured : wellFormed (.retune meas) = false := by decide
theorem test_illformed_boot : wellFormed (.powerUp { goodBoot with failUnit := 256 }) = false := by decide
theorem test_illformed_rushes : wellFormed (.ctxCreate chA ⟨true, 256, 0, 1⟩) = false := by decide
theorem test_illformed_peer : wellFormed (.linkTrain 0 { peer3 with maxMode := 8 }) = false := by decide
theorem test_illformed_codeword : wellFormed (.codewordReceive 0 { cw0 with seq := 4096 }) = false := by decide
theorem test_illformed_packet : wellFormed (.transitForward 0 { msgIn with type := 16 } []) = false := by decide
theorem test_illformed_buffer : wellFormed (.requestReceive 0 msgIn true [(16, 1, 0)]) = false := by decide
theorem test_illformed_counter : wellFormed (.deliver .a 0 0 msgK ⟨2 ^ 64, true⟩) = false := by decide
theorem test_illformed_owner : wellFormed (.fenceCreate chA (.ctx 65536) 0) = false := by decide
theorem test_illformed_request : wellFormed (.spaceReq .a 0 (.ctxQuery 65536)) = false := by decide
theorem test_illformed_channel : wellFormed (.fenceQuery ⟨.a, 16, 0, none⟩ 0) = false := by decide
theorem test_illformed_key_message : wellFormed (.deliver .a 0 0 { msgK with op := 256 }) = false := by decide
theorem test_illformed_inner : wellFormed (.partyMessage .a 0 0 0 true (.space 16 (.ctxQuery 0))) = false := by decide
theorem test_illformed_frame : wellFormed (.dataFrame .a ⟨1, 1, 0, 0, 64, 0, 2 ^ 64, 0, 0, 5⟩ true) = false := by decide
theorem test_illformed_chunk : wellFormed (.restoreChunk .a 0 chunkC) = false := by decide
theorem test_wellformed : wellFormed (.memPort (2 ^ 40 - 1) none) = true := by decide

/-! ### Values from the spec's tables and from the standards it names -/

/-- The largest E4M3 code but the NaN code is 448, the least subnormal 2^−9 (Table 03-3). -/
theorem test_e4m3 :
    numLt (decodeElem .e4m3 [] 0x7E) (.fin false 448 0) = false ∧ numLt (.fin false 448 0) (decodeElem .e4m3 [] 0x7E) = false ∧
      numLt (decodeElem .e4m3 [] 1) (.fin false 1 (-9)) = false ∧ numLt (.fin false 1 (-9)) (decodeElem .e4m3 [] 1) = false := by
  decide +kernel

/-- SHAKE256 of no bytes begins 46 B9 DD 2B (FIPS 202). -/
theorem test_shake256 : shake256 4 [] = [0x46, 0xB9, 0xDD, 0x2B] := by decide +kernel

/-- The AES-256 example of FIPS 197: key 00 to 1F, block 00 11 to FF. -/
theorem test_aes256 :
    (aes256 ((List.range 32).map fun i => BitVec.ofNat 8 i) ((List.range 16).map fun i => BitVec.ofNat 8 (17 * i))).take 4 =
      [0x8E, 0xA2, 0xB7, 0xCA] := by decide +kernel

/-- IDCODE captures 0xB0840943 (file 17). -/
theorem test_idcode : (match step { up with pending := [.idcode] } with | .next t => t.jtag.dr | _ => 0) = 0xB0840943 := by decide +kernel

end Sys2Proof.Tests
end

section
/-! SUPPORT. The outline of a state: the queue and the lengths of the eight lists whose entries the hardware numbers. Almost every operation
leaves the outline as it was; one lemma per operation says so, and `simp` chains them through whatever calls it. -/

namespace Sys2Proof.Machine

/-- The queue of a state, and how many engines, islands, links, space slots, key slots, channels, ranges and life-cycle records it holds. -/
structure Outline where
  queue : List Instr
  engines : Nat
  islands : Nat
  links : Nat
  spaces : Nat
  keySlots : Nat
  channels : Nat
  ranges : Nat
  records : Nat

/-- The outline of a state. -/
def outline (s : State) : Outline where
  queue := s.pending
  engines := s.array.engines.length
  islands := s.gaf.islands.length
  links := s.fabric.links.length
  spaces := s.sp.slots.length
  keySlots := s.keys.slots.length
  channels := s.keys.channels.length
  ranges := s.ciph.ranges.length
  records := s.lc.records.length

/-- The queue and the lengths, read off the outline: the direction in which `simp` carries them through an operation whose outline it knows. -/
theorem outline_fields (s : State) :
    s.pending = (outline s).queue ∧ s.array.engines.length = (outline s).engines ∧ s.gaf.islands.length = (outline s).islands ∧
      s.fabric.links.length = (outline s).links ∧ s.sp.slots.length = (outline s).spaces ∧
      s.keys.slots.length = (outline s).keySlots ∧ s.keys.channels.length = (outline s).channels ∧
      s.ciph.ranges.length = (outline s).ranges ∧ s.lc.records.length = (outline s).records :=
  ⟨rfl, rfl, rfl, rfl, rfl, rfl, rfl, rfl, rfl⟩

@[simp] theorem Outline.eta (o : Outline) :
    Outline.mk o.queue o.engines o.islands o.links o.spaces o.keySlots o.channels o.ranges o.records = o := rfl

/-- The outline of a state written out, as a record update leaves it. The proof is `(rfl)`, so that `simp` rewrites by this lemma and the
kernel need not find the equation again by evaluating the fields. -/
@[simp] theorem outline_mk (power bridges rig array fabric col dly mem ciph keys sp lmx gaf lc jtag err draws freeCtr pending) :
    outline ⟨power, bridges, rig, array, fabric, col, dly, mem, ciph, keys, sp, lmx, gaf, lc, jtag, err, draws, freeCtr, pending⟩ =
      ⟨pending, array.engines.length, gaf.islands.length, fabric.links.length, sp.slots.length, keys.slots.length,
        keys.channels.length, ciph.ranges.length, lc.records.length⟩ := (rfl)

/-! ### Choices and runs -/

@[simp] theorem outline_ite {c : Prop} [Decidable c] (s t : State) : outline (if c then s else t) = if c then outline s else outline t :=
  apply_ite outline c s t

@[simp] theorem outline_ite_fst {α : Type} {c : Prop} [Decidable c] (p q : State × α) :
    outline (if c then p else q).1 = if c then outline p.1 else outline q.1 := apply_ite (fun r : State × α => outline r.1) c p q

@[simp] theorem outline_ite_answer {c : Prop} [Decidable c] (p q : Answer) :
    outline (if c then p else q).st = if c then outline p.st else outline q.st := apply_ite (fun r : Answer => outline r.st) c p q

@[simp] theorem outline_ite_memRead {c : Prop} [Decidable c] (p q : MemRead) :
    outline (if c then p else q).st = if c then outline p.st else outline q.st := apply_ite (fun r : MemRead => outline r.st) c p q

@[simp] theorem outline_ite_memWrite {c : Prop} [Decidable c] (p q : MemWrite) :
    outline (if c then p else q).st = if c then outline p.st else outline q.st := apply_ite (fun r : MemWrite => outline r.st) c p q

@[simp] theorem outline_ite_unitRead {c : Prop} [Decidable c] (p q : UnitRead) :
    outline (if c then p else q).st = if c then outline p.st else outline q.st := apply_ite (fun r : UnitRead => outline r.st) c p q

@[simp] theorem outline_ite_reply {c : Prop} [Decidable c] (p q : Reply) :
    outline (if c then p else q).st = if c then outline p.st else outline q.st := apply_ite (fun r : Reply => outline r.st) c p q

@[simp] theorem outline_foldl {α : Type} (f : State → α → State) (h : ∀ t x, outline (f t x) = outline t) (l : List α) (s : State) :
    outline (l.foldl f s) = outline s := by
  induction l generalizing s with
  | nil => rfl
  | cons x l ih => rw [List.foldl_cons, ih, h]

@[simp] theorem outline_foldl_fst {α β : Type} (f : State × β → α → State × β) (h : ∀ p x, outline (f p x).1 = outline p.1) (l : List α)
    (p : State × β) : outline (l.foldl f p).1 = outline p.1 := by
  induction l generalizing p with
  | nil => rfl
  | cons x l ih => rw [List.foldl_cons, ih, h]

/-! ### Shared operations -/

@[simp] theorem freeUse_outline (s : State) (n) : outline (freeUse s n) = outline s := by simp [freeUse, outline_fields]

@[simp] theorem drawUse_outline (s : State) (n) : outline (drawUse s n) = outline s := by simp [drawUse, outline_fields]

@[simp] theorem holdDraw_outline (s : State) (i) : outline (holdDraw s i) = outline s := by simp [holdDraw, outline_fields]

@[simp] theorem quoteAsk_outline (s : State) (q) : outline (quoteAsk s q) = outline s := by simp [quoteAsk, outline_fields]

@[simp] theorem stLog_outline (s : State) (e) : outline (stLog s e) = outline s := by simp [stLog, outline_fields]

@[simp] theorem portMod_outline (s : State) (p f) : outline (portMod s p f) = outline s := by simp [portMod, outline_fields]

@[simp] theorem setupSend_outline (s : State) (p m) : outline (setupSend s p m) = outline s := by simp [setupSend]

@[simp] theorem noticeHold_outline (s : State) (p slot n) : outline (noticeHold s p slot n) = outline s := by
  simp [noticeHold, outline_fields]

@[simp] theorem moveMsg_outline (s : State) (p m) : outline (moveMsg s p m) = outline s := by
  simp only [moveMsg]
  split <;> simp [outline_fields]

@[simp] theorem endSess_outline (s : State) (p) : outline (endSess s p) = outline s := by simp [endSess, outline_fields]

@[simp] theorem sendMsg_outline (s : State) (p m) : outline (sendMsg s p m) = outline s := by simp [sendMsg, outline_fields]

@[simp] theorem mgmtReply_outline (s : State) (p tag st data) : outline (mgmtReply s p tag st data) = outline s := by simp [mgmtReply]

@[simp] theorem mgmtRun_outline (p tag) (f : State → Answer) (hf : ∀ t, outline (f t).st = outline t) (s : State) :
    outline (mgmtRun p tag f s) = outline s := by simp [mgmtRun, hf]

@[simp] theorem lockTest_outline (p) (f : State → Answer) (hf : ∀ t, outline (f t).st = outline t) (s : State) :
    outline (lockTest p f s).st = outline s := by simp [lockTest, hf]

@[simp] theorem mgmtTurn_outline (p row) (f : State → State) (hf : ∀ t, outline (f t) = outline t) (s : State) :
    outline (mgmtTurn p row f s) = outline s := by simp [mgmtTurn, hf]

@[simp] theorem mgmtRead_outline (p tag row) (f : State → Answer) (hf : ∀ t, outline (f t).st = outline t) (s : State) :
    outline (mgmtRead p tag row f s) = outline s := by simp [mgmtRead, hf]

@[simp] theorem mgmtAgain_outline (p tag) (f : State → Answer) (hf : ∀ t, outline (f t).st = outline t) (s : State) :
    outline (mgmtAgain p tag f s) = outline s := by simp [mgmtAgain, hf]

@[simp] theorem mgmtWrite_outline (p tag row) (f : State → Answer) (hf : ∀ t, outline (f t).st = outline t) (s : State) :
    outline (mgmtWrite p tag row f s) = outline s := by simp [mgmtWrite, hf]

@[simp] theorem mgmtDraw_outline (p tag row) (f : State → Answer) (hf : ∀ t, outline (f t).st = outline t) (s : State) :
    outline (mgmtDraw p tag row f s) = outline s := by simp [mgmtDraw, hf]

@[simp] theorem endChannel_outline (s : State) (q) : outline (endChannel s q) = outline s := by simp [endChannel, outline_fields]

@[simp] theorem partyTake_outline (q m) (f : State → State) (hf : ∀ t, outline (f t) = outline t) (s : State) :
    outline (partyTake q m f s) = outline s := by simp [partyTake, hf, outline_fields]

@[simp] theorem refuseMsg_outline (s : State) (p) : outline (refuseMsg s p) = outline s := by simp [refuseMsg, outline_fields]

@[simp] theorem chanSent_outline (s : State) (q) : outline (chanSent s q) = outline s := by
  simp only [chanSent]
  split <;> simp [outline_fields]

@[simp] theorem noticeOn_outline (s : State) (p slot n) : outline (noticeOn s p slot n) = outline s := by
  simp only [noticeOn]
  repeat' split
  all_goals simp

@[simp] theorem sendNotice_outline (s : State) (slot n) : outline (sendNotice s slot n) = outline s := by simp [sendNotice]

@[simp] theorem flushNotices_outline (s : State) : outline (flushNotices s) = outline s := by simp [flushNotices, outline_fields]

@[simp] theorem cmdMod_slots (sp cid f) : (cmdMod sp cid f).slots.length = sp.slots.length := by simp [cmdMod]

@[simp] theorem cmdEnd_outline (s : State) (cid r) : outline (cmdEnd s cid r) = outline s := by simp [cmdEnd, outline_fields]

@[simp] theorem cmdFail_outline (s : State) (c r) : outline (cmdFail s c r) = outline s := by simp [cmdFail, outline_fields]

@[simp] theorem endCmds_slots (sp f st) : (endCmds sp f st).slots.length = sp.slots.length := by simp [endCmds]

@[simp] theorem ctxMod_slots (sp id f) : (ctxMod sp id f).slots.length = sp.slots.length := by simp [ctxMod]

/-! ### Access to main memory -/

@[simp] theorem rangeKeyMod_ranges (x n f) : (rangeKeyMod x n f).ranges.length = x.ranges.length := by simp [rangeKeyMod]

@[simp] theorem failNode_outline (s : State) (n f) : outline (failNode s n f) = outline s := by simp [failNode, outline_fields]

@[simp] theorem evict_outline (s : State) (x) : outline (evict s x) = outline s := by simp [evict, outline_fields]

@[simp] theorem cacheRoom_outline (s : State) (n stack frame) : outline (cacheRoom s n stack frame) = outline s := by
  simp only [cacheRoom]
  repeat' split
  all_goals simp

@[simp] theorem cacheAdd_outline (s : State) (frame x) : outline (cacheAdd s frame x) = outline s := by simp [cacheAdd, outline_fields]

@[simp] theorem cacheCount_outline (s : State) (stack hit) : outline (cacheCount s stack hit) = outline s := by
  simp only [cacheCount]
  split <;> simp [outline_fields]

@[simp] theorem fetchNode_outline (quiet) (s : State) (n stack frame mac level index) :
    outline (fetchNode quiet s n stack frame mac level index).1 = outline s := by simp [fetchNode, outline_fields]

@[simp] theorem ensureNode_outline (quiet n stack i) : ∀ k level (s : State), outline (ensureNode quiet n stack i k level s).1 = outline s
  | 0, _, _ => rfl
  | k + 1, level, s => by
    have ih := ensureNode_outline quiet n stack i k (level + 1) s
    unfold ensureNode
    split <;> simp [ih]

@[simp] theorem fetchPath_outline (quiet) (s : State) (n a) : outline (fetchPath quiet s n a).1 = outline s := by
  simp only [fetchPath]
  repeat' split
  all_goals simp

@[simp] theorem cacheLost_outline (s : State) (stack place) : outline (cacheLost s stack place) = outline s := by
  simp only [cacheLost]
  split <;> simp [outline_fields]

@[simp] theorem cacheWord_outline (stack place) (s : State) (w) : outline (cacheWord stack place s w) = outline s := by
  simp only [cacheWord]
  repeat' split
  all_goals simp [outline_fields]

@[simp] theorem logMem_outline (s : State) (w n stack st level) : outline (logMem s w n stack st level) = outline s := by simp [logMem]

@[simp] theorem readUnit_outline (quiet) (s : State) (n a) : outline (readUnit quiet s n a).st = outline s := by
  simp only [readUnit]
  repeat' split
  all_goals simp [outline_fields]

@[simp] theorem failRange_outline (s : State) (w n a st level) : outline (failRange s w n a st level) = outline s := by
  simp [failRange, outline_fields]

@[simp] theorem readInUnit_outline (s : State) (w n a size) : outline (readInUnit s w n a size).st = outline s := by
  simp [readInUnit, outline_fields]

@[simp] theorem readPhysF_outline (w) : ∀ fuel a size (s : State), outline (readPhysF w fuel a size s).st = outline s
  | 0, _, _, _ => rfl
  | fuel + 1, a, size, s => by
    have ih := readPhysF_outline w fuel
    unfold readPhysF
    split
    · rfl
    · split <;> simp [ih]

@[simp] theorem readPhys_outline (s : State) (w a size) : outline (readPhys s w a size).st = outline s := by simp [readPhys]

@[simp] theorem storeUnit_outline (s : State) (n a) : outline (storeUnit s n a) = outline s := by simp [storeUnit, outline_fields]

@[simp] theorem mergeStore_outline (s : State) (e) : outline (mergeStore s e) = outline s := by
  simp only [mergeStore]
  split <;> simp [outline_fields]

@[simp] theorem mergeOldest_outline (s : State) (stack) : outline (mergeOldest s stack) = outline s := by
  simp only [mergeOldest]
  split <;> simp

@[simp] theorem mergeEnter_outline (s : State) (stack key lines) : outline (mergeEnter s stack key lines) = outline s := by
  simp [mergeEnter, outline_fields]

@[simp] theorem mergeHold_outline : ∀ fuel (s : State) stack key lines, outline (mergeHold fuel s stack key lines) = outline s
  | 0, _, _, _, _ => mergeEnter_outline _ _ _ _
  | fuel + 1, s, stack, key, lines => by simp [mergeHold, mergeHold_outline fuel]

@[simp] theorem mergeMark_outline (s : State) (key off n) : outline (mergeMark s key off n) = outline s := by
  simp [mergeMark, outline_fields]

@[simp] theorem markMirror_outline (s : State) (n a size) : outline (markMirror s n a size) = outline s := by
  simp [markMirror, outline_fields]

@[simp] theorem putPlain_outline (s : State) (a bs) : outline (putPlain s a bs) = outline s := by simp [putPlain, outline_fields]

@[simp] theorem mergeBytes_outline (s : State) (n a bs) : outline (mergeBytes s n a bs) = outline s := by simp [mergeBytes]

@[simp] theorem spoilRuns_outline (s : State) (runs) : outline (spoilRuns s runs) = outline s :=
  outline_foldl _ (fun t r => by dsimp only; split <;> simp) runs s

@[simp] theorem writeInUnit_outline (via) (s : State) (w n a bs) : outline (writeInUnit via s w n a bs).1 = outline s := by
  simp only [writeInUnit]
  repeat' split
  all_goals simp

@[simp] theorem writePhysF_outline (via w) : ∀ fuel a bs (s : State), outline (writePhysF via w fuel a bs s).st = outline s
  | 0, _, _, _ => rfl
  | fuel + 1, a, bs, s => by
    have ih := writePhysF_outline via w fuel
    unfold writePhysF
    split
    · rfl
    · split <;> simp [ih]

@[simp] theorem writePhys_outline (s : State) (w a bs) : outline (writePhys s w a bs).st = outline s := by simp [writePhys]

@[simp] theorem mergePhys_outline (s : State) (w a bs) : outline (mergePhys s w a bs).st = outline s := by simp [mergePhys]

@[simp] theorem fillRange_outline (s : State) (n slot walk) : outline (fillRange s n slot walk) = outline s := by
  simp [fillRange, outline_fields]

@[simp] theorem slotPut_outline (s : State) (i k) : outline (slotPut s i k) = outline s := by simp [slotPut, outline_fields]

@[simp] theorem slotMod_outline (s : State) (i f) : outline (slotMod s i f) = outline s := by simp [slotMod, outline_fields]

@[simp] theorem refill_outline (s : State) (n) : outline (refill s n) = outline s := by
  simp only [refill]
  repeat' split
  all_goals simp

@[simp] theorem readRuns_outline (w) : ∀ l (s : State), outline (readRuns w l s).st = outline s
  | [], _ => rfl
  | (a, n) :: l, s => by simp [readRuns, readRuns_outline w l]

@[simp] theorem writeRuns_outline (via w) : ∀ l bs (s : State), outline (writeRuns via w l bs s).st = outline s
  | [], _, _ => rfl
  | (a, n) :: l, bs, s => by simp [writeRuns, writeRuns_outline via w l]

@[simp] theorem chargePj_outline (s : State) (cid pj) : outline (chargePj s cid pj) = outline s := by simp [chargePj, outline_fields]

@[simp] theorem countHbm_outline (s : State) (c runs rd wr) : outline (countHbm s c runs rd wr) = outline s := by
  simp [countHbm, outline_fields]

@[simp] theorem readSpace_outline (s : State) (c v n) : outline (readSpace s c v n).st = outline s := by simp [readSpace]

@[simp] theorem putSpace_outline (via) (s : State) (c v bs) : outline (putSpace via s c v bs).st = outline s := by simp [putSpace]

@[simp] theorem writeSpace_outline (s : State) (c v bs) : outline (writeSpace s c v bs).st = outline s := by simp [writeSpace]

@[simp] theorem mergeSpace_outline (s : State) (c v bs) : outline (mergeSpace s c v bs).st = outline s := by simp [mergeSpace]

@[simp] theorem writeSpans_outline (c) : ∀ l (s : State), outline (writeSpans c l s).st = outline s
  | [], _ => rfl
  | (v, bs) :: l, s => by simp [writeSpans, writeSpans_outline c l]

@[simp] theorem addMask_outline (s : State) (ctx m) : outline (addMask s ctx m) = outline s := by simp [addMask, outline_fields]

@[simp] theorem readTake_outline (s : State) (c v n) : outline (readTake s c v n).st = outline s := by simp [readTake]

@[simp] theorem holdAccess_outline (s : State) (i) : outline (holdAccess s i) = outline s := by simp [holdAccess, outline_fields]

@[simp] theorem takeSpans_outline (c) : ∀ l (s : State), outline (takeSpans c l s).1 = outline s
  | [], _ => rfl
  | (v, n) :: l, s => by simp [takeSpans, takeSpans_outline c l]

/-! ### Bands of a matrix engine -/

@[simp] theorem engineMod_engines (a e f) : (engineMod a e f).engines.length = a.engines.length := by simp [engineMod]

@[simp] theorem stgPut_outline (s : State) (x off bs) : outline (stgPut s x off bs) = outline s := by simp [stgPut, outline_fields]

@[simp] theorem tilePutRow_outline (s : State) (x base i ws) : outline (tilePutRow s x base i ws) = outline s := by
  simp [tilePutRow, outline_fields]

@[simp] theorem tilePutRows_outline (x base) : ∀ i rows (s : State), outline (tilePutRows x base i rows s) = outline s
  | _, [], _ => rfl
  | i, r :: rows, s => by simp [tilePutRows, tilePutRows_outline x base (i + 1) rows]

@[simp] theorem tileKinds_outline (s : State) (x base m int) : outline (tileKinds s x base m int) = outline s := by
  simp [tileKinds, outline_fields]

@[simp] theorem holdRead_outline (s : State) (ctx x stg tile) : outline (holdRead s ctx x stg tile) = outline s := by simp [holdRead]

@[simp] theorem holdWrite_outline (s : State) (c x stg tile) : outline (holdWrite s c x stg tile) = outline s := by
  simp [holdWrite, outline_fields]

@[simp] theorem sramFlip_outline (s : State) (e w d) : outline (sramFlip s e w d) = outline s := by simp [sramFlip, outline_fields]

@[simp] theorem sramMeet_outline (e) (s : State) (w) : outline (sramMeet e s w) = outline s := by simp [sramMeet, outline_fields]

@[simp] theorem sramCount_outline (s : State) (e x) : outline (sramCount s e x) = outline s := by simp [sramCount]

@[simp] theorem tileSpoil_outline (s : State) (x base m n) : outline (tileSpoil s x base m n) = outline s := by simp [tileSpoil]

@[simp] theorem stgSpoil_outline (s : State) (x off pitch row) : ∀ n, outline (stgSpoil s x off pitch row n) = outline s
  | 0 => rfl
  | n + 1 => by simp [stgSpoil, stgSpoil_outline s x off pitch row n]

/-! ### Fabric links -/

@[simp] theorem linkMod_outline (s : State) (n f) : outline (linkMod s n f) = outline s := by simp [linkMod, outline_fields]

@[simp] theorem islandWoken_outline (s : State) (n) : outline (islandWoken s n) = outline s := by simp [islandWoken, outline_fields]

@[simp] theorem twinRaised_outline (s : State) (n up) : outline (twinRaised s n up) = outline s := by simp [twinRaised, outline_fields]

@[simp] theorem linkTrain_outline (s : State) (n p) : outline (linkTrain s n p) = outline s := by simp [linkTrain]

@[simp] theorem ingressFree_outline (s : State) (n flits) : outline (ingressFree s n flits) = outline s := by simp [ingressFree]

@[simp] theorem egressDone_outline (s : State) (n) : outline (egressDone s n) = outline s := by
  simp only [egressDone]
  repeat' split
  all_goals simp

@[simp] theorem egressSlot_outline (s : State) (n) : outline (egressSlot s n) = outline s := by
  simp only [egressSlot]
  split <;> simp

@[simp] theorem egressSlots_outline (n) : ∀ k (s : State), outline (egressSlots n k s) = outline s
  | 0, _ => rfl
  | k + 1, s => by simp [egressSlots, egressSlots_outline n k]

@[simp] theorem egressRequest_outline (s : State) (n r) : outline (egressRequest s n r) = outline s := by
  simp only [egressRequest]
  repeat' split
  all_goals simp

@[simp] theorem egressBackoff_outline (s : State) (n r) : outline (egressBackoff s n r) = outline s := by simp [egressBackoff]

@[simp] theorem enqueue_outline (s : State) (n r o) : outline (enqueue s n r o) = outline s := by simp [enqueue]

@[simp] theorem noteEnd_links (f o st) : (noteEnd f o st).links.length = f.links.length := by
  simp only [noteEnd]
  split <;> simp

@[simp] theorem issue_outline (s : State) (w) : outline (issue s w) = outline s := by
  simp only [issue]
  repeat' split
  all_goals simp [outline_fields]

@[simp] theorem request_outline (s : State) (w) : outline (request s w) = outline s := by simp [request, outline_fields]

@[simp] theorem issueWaiting_outline (s : State) : outline (issueWaiting s) = outline s := by simp [issueWaiting, outline_fields]

/-- Noting the end of transactions keeps the links. -/
theorem noteEnd_foldl_links (st : Status) : ∀ (l : List Tracker) (x : Fabric),
    (l.foldl (fun x t => noteEnd x t.owner st) x).links.length = x.links.length
  | [], _ => rfl
  | t :: l, x => by rw [List.foldl_cons, noteEnd_foldl_links st l, noteEnd_links]

@[simp] theorem endTxns_outline (s : State) (f st) : outline (endTxns s f st) = outline s := by
  simp [endTxns, noteEnd_foldl_links, outline_fields]

@[simp] theorem respond_outline (s : State) (q st data owners requester space) :
    outline (respond s q st data owners requester space) = outline s := by
  simp only [respond]
  repeat' split
  all_goals simp [outline_fields]

@[simp] theorem codewordSend_outline (s : State) (n) : outline (codewordSend s n) = outline s := by
  simp only [codewordSend]
  split <;> simp

@[simp] theorem ackTxns_links (f os) : (ackTxns f os).links.length = f.links.length := by simp [ackTxns]

@[simp] theorem codewordAck_outline (s : State) (n ack nak) : outline (codewordAck s n ack nak) = outline s := by
  simp [codewordAck, outline_fields]

@[simp] theorem codewordTake_outline (s : State) (n cw) : outline (codewordTake s n cw) = outline s := by simp [codewordTake]

@[simp] theorem linkLog_outline (s : State) (n watchdog) : outline (linkLog s n watchdog) = outline s := by simp [linkLog]

@[simp] theorem linkFlush_outline (s : State) (n may) : outline (linkFlush s n may) = outline s := by simp [linkFlush, outline_fields]

@[simp] theorem linkReset_outline (s : State) (n watchdog) : outline (linkReset s n watchdog) = outline s := by simp [linkReset]

/-! ### Strikes, resets and the power-up -/

@[simp] theorem recSet_records (x slot bits) : (recSet x slot bits).records.length = x.records.length := by
  simp only [recSet]
  split <;> simp

@[simp] theorem copySet_records (code k x) : (copySet code k x).records.length = x.records.length := by simp [copySet]

@[simp] theorem vaultSet_records (secret x) : (vaultSet secret x).records.length = x.records.length := by simp [vaultSet]

@[simp] theorem vaultWipe_records (x) : (vaultWipe x).records.length = x.records.length := by simp [vaultWipe]

@[simp] theorem flashWipe_records (x) : (flashWipe x).records.length = x.records.length := by simp [flashWipe]

/-- Every fuse step of a transition keeps the count of progress records (R446). -/
theorem lcSteps_records (target secret) : ∀ e ∈ lcSteps target secret, ∀ x, (e.2 x).records.length = x.records.length := by
  unfold lcSteps
  split
  · simp
  · split <;> simp

/-- A run of fuse steps that each keep the count of progress records keeps it. -/
theorem records_foldl {α : Type} (f : LifeCycle → α → LifeCycle) : ∀ (l : List α) (x : LifeCycle),
    (∀ e ∈ l, ∀ y, (f y e).records.length = y.records.length) → (l.foldl f x).records.length = x.records.length
  | [], _, _ => rfl
  | e :: l, x, h => by
    rw [List.foldl_cons, records_foldl f l _ fun e he => h e (List.mem_cons_of_mem _ he), h e List.mem_cons_self]

@[simp] theorem recFinish_records (secret x i) : (recFinish secret x i).records.length = x.records.length :=
  records_foldl _ _ _ fun e he y => by split <;> simp [lcSteps_records _ _ e he]

@[simp] theorem scrapWipe_records (x) : (scrapWipe x).records.length = x.records.length := by simp [scrapWipe]

@[simp] theorem logAbandoned_outline (s : State) : outline (logAbandoned s) = outline s := by simp [logAbandoned]

@[simp] theorem bumpEpoch_outline (s : State) : outline (bumpEpoch s) = outline s := by simp [bumpEpoch, outline_fields]

@[simp] theorem recordStrike_outline (s : State) (cause) : outline (recordStrike s cause) = outline s := by
  simp [recordStrike, outline_fields]

@[simp] theorem bootFail_outline (s : State) (step unit) : outline (bootFail s step unit) = outline s := by simp [bootFail, outline_fields]

@[simp] theorem bootDone_outline (s : State) (step) : outline (bootDone s step) = outline s := by simp [bootDone, outline_fields]

@[simp] theorem bootStep3_outline (s : State) : outline (bootStep3 s).1 = outline s := by
  have h : ∀ l x, (List.foldl (recFinish (drawAt s 0)) x l).records.length = x.records.length := fun l x =>
    records_foldl _ l x fun e _ y => recFinish_records _ y e
  unfold bootStep3
  dsimp only
  generalize pendingRecs s.lc = l
  repeat' split
  all_goals simp [outline_fields, h]

@[simp] theorem bootStep4_outline (s : State) : outline (bootStep4 s) = outline s := by simp [bootStep4, outline_fields]

@[simp] theorem bootSelftest_outline (s : State) (b ok) : outline (bootSelftest s b ok) = outline s := by
  simp [bootSelftest, outline_fields]

@[simp] theorem applyPoints_islands (g) : (applyPoints g).islands.length = g.islands.length := by simp [applyPoints]

@[simp] theorem emergencyMark_outline (s : State) (g) (hg : g.islands.length = s.gaf.islands.length) :
    outline (emergencyMark s g) = outline s := by simp [emergencyMark, hg, outline_fields]

@[simp] theorem hotMark_islands (g) : (hotMark g).islands.length = g.islands.length := by simp [hotMark]

@[simp] theorem pinMark_islands (g) : (pinMark g).islands.length = g.islands.length := by simp [pinMark]

@[simp] theorem bootClamp_outline (s : State) : outline (bootClamp s) = outline s := by
  simp [bootClamp]

@[simp] theorem bootStep10_outline (s : State) : outline (bootStep10 s) = outline s := by simp [bootStep10, outline_fields]

@[simp] theorem sampleStraps_outline (s : State) (st) : outline (sampleStraps s st) = outline s := by simp [sampleStraps, outline_fields]

@[simp] theorem i3cRefuse_outline (s : State) : outline (i3cRefuse s) = outline s := by simp [i3cRefuse, outline_fields]

/-! ### Bridges -/

@[simp] theorem bridgeMod_outline (s : State) (d f) : outline (bridgeMod s d f) = outline s := by simp [bridgeMod, outline_fields]

@[simp] theorem logBridge_outline (s : State) (d) : outline (logBridge s d) = outline s := by simp [logBridge]

@[simp] theorem countResend_outline (s : State) (d) : outline (countResend s d) = outline s := by simp [countResend, outline_fields]

end Sys2Proof.Machine
end

section
/-! SUPPORT. The commands of the engines and of memory leave the outline as it was. -/

namespace Sys2Proof.Machine

/-! ### The matrix array -/

@[simp] theorem putCodeRows_outline (x f off pitch n) : ∀ m i codes (s : State),
    outline (putCodeRows x f off pitch n m i codes s) = outline s
  | 0, _, _, _ => rfl
  | m + 1, i, codes, s => by simp [putCodeRows, putCodeRows_outline x f off pitch n m]

@[simp] theorem refHold_outline (s : State) (c ref) : outline (refHold s c ref) = outline s := by simp [refHold, outline_fields]

@[simp] theorem rushFill_outline (s : State) (c b a w cells) : outline (rushFill s c b a w cells) = outline s := by
  simp only [rushFill]
  split <;> simp [outline_fields]

@[simp] theorem refZero_engines (a e) : (refZero a e).engines.length = a.engines.length := by simp [refZero]

/-- Zeroing the reference engines of checks keeps the engines. -/
theorem refZero_foldl_engines : ∀ (l : List RushJob) (a : Array),
    (l.foldl (fun a j => refZero a j.refEngine) a).engines.length = a.engines.length
  | [], _ => rfl
  | j :: l, a => by rw [List.foldl_cons, refZero_foldl_engines l, refZero_engines]

@[simp] theorem rushDone_outline (s : State) (cid) : outline (rushDone s cid) = outline s := by
  unfold rushDone
  dsimp only
  split
  · rfl
  · split <;> simp [refZero_foldl_engines, outline_fields]

@[simp] theorem mmLose_outline (s : State) (c) : outline (mmLose s c) = outline s := by simp [mmLose]

@[simp] theorem mmWorked_outline (s : State) (b fa fb overlap start stop) :
    outline (mmWorked s b fa fb overlap start stop) = outline s := by simp [mmWorked, outline_fields]

@[simp] theorem mmSpoil_outline (s : State) (c p) : outline (mmSpoil s c p) = outline s := by
  simp only [mmSpoil]
  split <;> simp

@[simp] theorem mmStore_outline (s : State) (b r cells rows) : outline (mmStore s b r cells rows) = outline s := by simp [mmStore]

@[simp] theorem mmCompute_outline (s : State) (c b fa fb p overlap) : outline (mmCompute s c b fa fb p overlap) = outline s := by
  simp [mmCompute]

@[simp] theorem mmRun_outline (s : State) (c e p overlap) : outline (mmRun s c e p overlap) = outline s := by
  simp only [mmRun]
  split <;> simp

@[simp] theorem mmPart_outline (s : State) (c b fa fb chunk row) : outline (mmPart s c b fa fb chunk row).1 = outline s := by simp [mmPart]

@[simp] theorem imageRestore_outline (s : State) (i x withStaging) : outline (imageRestore s i x withStaging) = outline s := by
  simp [imageRestore, outline_fields]

@[simp] theorem saveGet_outline (slot) : ∀ pages off n (s : State), outline (saveGet slot pages off n s).1 = outline s
  | [], _, _, _ => rfl
  | p :: pages, off, n, s => by simp [saveGet, saveGet_outline slot pages]

@[simp] theorem imageStatus_outline (s : State) (i) : outline (imageStatus s i).1 = outline s := by simp [imageStatus]

@[simp] theorem bandWatchdog_outline (engine band) (s : State) : outline (bandWatchdog engine band s) = outline s := by
  simp only [bandWatchdog]
  split <;> simp [outline_fields]

@[simp] theorem mxeCntClear_outline (engine v) (s : State) : outline (mxeCntClear engine v s).st = outline s := by
  simp [mxeCntClear, outline_fields]

/-! ### The vector engine -/

@[simp] theorem vecWriteRow_outline (x b i r) (s : State) : outline (vecWriteRow x b i r s) = outline s := by simp [vecWriteRow]

@[simp] theorem vecWriteRows_outline (x b) : ∀ i rows (s : State), outline (vecWriteRows x b i rows s) = outline s
  | _, [], _ => rfl
  | i, r :: rows, s => by simp [vecWriteRows, vecWriteRows_outline x b (i + 1) rows]

@[simp] theorem vecSpoil_outline (s : State) (x b) : outline (vecSpoil s x b) = outline s := by simp [vecSpoil]

@[simp] theorem vecGo_outline (s : State) (c b) : outline (vecGo s c b) = outline s := by simp [vecGo]

@[simp] theorem vecRun_outline (s : State) (c e) : outline (vecRun s c e) = outline s := by
  simp only [vecRun]
  split <;> simp

/-! ### QUANTIZE, RANDOM and the grip watchdog -/

@[simp] theorem quantGo_outline (s : State) (c b fo) : outline (quantGo s c b fo) = outline s := by simp [quantGo]

@[simp] theorem quantRun_outline (s : State) (c e) : outline (quantRun s c e) = outline s := by
  simp only [quantRun]
  split <;> simp

@[simp] theorem randGo_outline (s : State) (c b key) : outline (randGo s c b key) = outline s := by simp [randGo]

@[simp] theorem stepKeyGet_outline (s : State) (slot step) : outline (stepKeyGet s slot step).1 = outline s := by
  simp only [stepKeyGet]
  split <;> simp [outline_fields]

@[simp] theorem randRun_outline (s : State) (c e) : outline (randRun s c e) = outline s := by
  simp only [randRun]
  split <;> simp

/-! ### Reductions at memory -/

@[simp] theorem endTally_outline (s : State) (c st range r) : outline (endTally s c st range r) = outline s := by simp [endTally]

@[simp] theorem endRange_outline (s : State) (c st range) : outline (endRange s c st range) = outline s := by simp [endRange]

@[simp] theorem redInitRun_outline (s : State) (c) : outline (redInitRun s c) = outline s := by
  simp only [redInitRun]
  repeat' split
  all_goals simp

@[simp] theorem redHeader_outline (s : State) (c tgt spans) : outline (redHeader s c tgt spans).1 = outline s := by
  simp only [redHeader]
  repeat' split
  all_goals simp

@[simp] theorem redSource_outline (s : State) (c b i j) : outline (redSource s c b i j).1.st = outline s := by
  unfold redSource
  split <;> simp

@[simp] theorem redAddOne_outline (s : State) (c b h p) : outline (redAddOne s c b h p).1 = outline s := by simp [redAddOne]

@[simp] theorem redAddAll_outline (c b h) : ∀ l (s : State), outline (redAddAll c b h l s).1 = outline s
  | [], _ => rfl
  | p :: l, s => by simp [redAddAll, redAddAll_outline c b h l]

@[simp] theorem redAddGo_outline (s : State) (c b h bad) : outline (redAddGo s c b h bad) = outline s := by simp [redAddGo]

@[simp] theorem redAddRun_outline (s : State) (c e) : outline (redAddRun s c e) = outline s := by
  simp only [redAddRun]
  repeat' split
  all_goals simp

@[simp] theorem redReadOne_outline (s : State) (c b h i) : outline (redReadOne s c b h i).1 = outline s := by simp [redReadOne]

@[simp] theorem redReadAll_outline (c b h) : ∀ n i t (s : State), outline (redReadAll c b h n i t s).1 = outline s
  | 0, _, _, _ => rfl
  | n + 1, i, t, s => by simp [redReadAll, redReadAll_outline c b h n]

@[simp] theorem redReadGo_outline (s : State) (c b h) : outline (redReadGo s c b h) = outline s := by simp [redReadGo]

@[simp] theorem redReadRun_outline (s : State) (c) : outline (redReadRun s c) = outline s := by
  simp only [redReadRun]
  repeat' split
  all_goals simp

/-! ### Layout engines, COPY and staging moves -/

@[simp] theorem moveRows_outline (c take) : ∀ l (s : State), outline (moveRows c take l s).1 = outline s
  | [], _ => rfl
  | (src, dst, n) :: l, s => by
    have ih := moveRows_outline c take l
    cases take <;> simp [moveRows, ih]

@[simp] theorem endMove_outline (c r) : outline (endMove c r) = outline r.1 := by simp [endMove]

@[simp] theorem afterCheck_outline (s : State) (c extra reads writes) (go : State → State) (hgo : ∀ t, outline (go t) = outline t) :
    outline (afterCheck s c extra reads writes go) = outline s := by
  unfold afterCheck
  split <;> simp [hgo]

@[simp] theorem nopRun_outline (s : State) (c) : outline (nopRun s c) = outline s := by simp [nopRun]

@[simp] theorem copyRun_outline (s : State) (c) : outline (copyRun s c) = outline s := by simp [copyRun]

@[simp] theorem sharePass_outline (s : State) (c engine) : outline (sharePass s c engine) = outline s := by simp [sharePass, outline_fields]

@[simp] theorem stageInRows_outline (c x b share) : ∀ k i (s : State), outline (stageInRows c x b share k i s).1 = outline s
  | 0, _, _ => rfl
  | k + 1, i, s => by simp [stageInRows, stageInRows_outline c x b share k]

@[simp] theorem stageInRun_outline (s : State) (c share) : outline (stageInRun s c share) = outline s := by
  simp only [stageInRun]
  split <;> simp

@[simp] theorem stageOutRows_outline (c x b share) : ∀ k i (s : State), outline (stageOutRows c x b share k i s).1 = outline s
  | 0, _, _ => rfl
  | k + 1, i, s => by simp [stageOutRows, stageOutRows_outline c x b share k]

@[simp] theorem stageOutRun_outline (s : State) (c e share) : outline (stageOutRun s c e share) = outline s := by
  simp only [stageOutRun]
  split <;> simp

@[simp] theorem transposeRun_outline (s : State) (c) : outline (transposeRun s c) = outline s := by
  simp only [transposeRun]
  split <;> simp

@[simp] theorem indexRun_outline (s : State) (c gather) : outline (indexRun s c gather) = outline s := by simp [indexRun]

@[simp] theorem auxRead_outline (c w aux rows cols) (s : State) : outline (auxRead c w aux rows cols s).1 = outline s := by
  simp only [auxRead]
  split <;> simp

@[simp] theorem repackRows_outline (c b fs fd a d) : ∀ k done t (s : State), outline (repackRows c b fs fd a d k done t s).1 = outline s
  | 0, _, _, _ => rfl
  | k + 1, done, t, s => by simp [repackRows, repackRows_outline c b fs fd a d k]

@[simp] theorem repackGo_outline (s : State) (c b fs fd) : outline (repackGo s c b fs fd) = outline s := by simp [repackGo]

@[simp] theorem repackRun_outline (s : State) (c) : outline (repackRun s c) = outline s := by
  simp only [repackRun]
  split <;> simp

@[simp] theorem releaseRun_outline (s : State) (c) : outline (releaseRun s c) = outline s := by
  simp only [releaseRun]
  repeat' split
  all_goals simp

/-! ### Write-backs and scrubs -/

@[simp] theorem mergeRetire_outline (s : State) (stack key) : outline (mergeRetire s stack key) = outline s := by
  simp only [mergeRetire]
  split <;> simp

@[simp] theorem flipCtrl_outline (v) (s : State) : outline (flipCtrl v s) = outline s := by simp [flipCtrl, outline_fields]

@[simp] theorem scrubKeyless_outline (s : State) (n a) : outline (scrubKeyless s n a).st = outline s := by
  simp only [scrubKeyless]
  repeat' split
  all_goals simp [outline_fields]

@[simp] theorem scrubUnit_outline (w n a v r) : outline (scrubUnit w n a v r).1 = outline r.1 := by simp [scrubUnit]

@[simp] theorem scrubAll_outline (w us r) : outline (scrubAll w us r).1 = outline r.1 := by simp [scrubAll]

@[simp] theorem scrubPart_outline (s : State) (c part) : outline (scrubPart s c part) = outline s := by simp [scrubPart, outline_fields]

@[simp] theorem scrubRun_outline (s : State) (c part) : outline (scrubRun s c part) = outline s := by
  simp only [scrubRun]
  split <;> simp

@[simp] theorem scrubStart_outline (range pace) (s : State) : outline (scrubStart range pace s) = outline s := by
  simp [scrubStart, outline_fields]

@[simp] theorem scrubStop_outline (s : State) : outline (scrubStop s) = outline s := by simp [scrubStop, outline_fields]

@[simp] theorem scrubGo_outline (units) (s : State) : outline (scrubGo units s) = outline s := by simp [scrubGo, outline_fields]

/-! ### The parameter update -/

@[simp] theorem spanSpoil_outline (s : State) (slot spans) : outline (spanSpoil s slot spans) = outline s := by simp [spanSpoil]

@[simp] theorem granUpdate_outline (s : State) (c b d k pos j r) : outline (granUpdate s c b d k pos j r).1 = outline s := by
  simp [granUpdate]

@[simp] theorem granRun_outline (c b d k) : ∀ pos l r (s : State), outline (granRun c b d k pos l r s).1 = outline s
  | _, [], _, _ => rfl
  | pos, j :: l, r, s => by simp [granRun, granRun_outline c b d k (pos + 1) l]

@[simp] theorem updFinish_outline (s : State) (c b r) : outline (updFinish s c b r) = outline s := by simp [updFinish, outline_fields]

@[simp] theorem updNonfinite_outline (s : State) (c b) : outline (updNonfinite s c b) = outline s := by simp [updNonfinite]

@[simp] theorem updGo_outline (s : State) (c b d js cell e cut) : outline (updGo s c b d js cell e cut) = outline s := by
  simp only [updGo]
  repeat' split
  all_goals simp

@[simp] theorem checkRead_outline (s : State) (c v n) : outline (checkRead s c v n).st = outline s := by
  simp only [checkRead]
  split <;> simp

@[simp] theorem updRest_outline (s : State) (c b d js cell e cut) : outline (updRest s c b d js cell e cut) = outline s := by
  simp only [updRest]
  repeat' split
  all_goals simp

@[simp] theorem updNorm_outline (s : State) (c b d js e cut) : outline (updNorm s c b d js e cut) = outline s := by simp [updNorm]

@[simp] theorem updRun_outline (s : State) (c e cut) : outline (updRun s c e cut) = outline s := by simp [updRun]

@[simp] theorem normAccRun_outline (s : State) (c) : outline (normAccRun s c) = outline s := by simp [normAccRun]

end Sys2Proof.Machine
end

section
/-! SUPPORT. Collectives, Dailies, spaces, ciphers and packets leave the outline as it was. -/

namespace Sys2Proof.Machine

/-! ### Groups of collectives -/

@[simp] theorem groupRead_outline (s : State) (c v) : outline (groupRead s c v).st = outline s := by
  simp only [groupRead]
  repeat' split
  all_goals simp

/-! ### The collective engine -/

@[simp] theorem colMod_outline (s : State) (cid f) : outline (colMod s cid f) = outline s := by simp [colMod, outline_fields]

@[simp] theorem colCheckRest_outline (s : State) (c b g) : outline (colCheckRest s c b g).1 = outline s := by
  unfold colCheckRest
  extract_lets bad fail k kb u n cell
  have hk : outline k.st = outline s := by simp [k]
  have hu : outline u.st = outline s := by simp [u, hk]
  have hn : outline n.st = outline s := by simp [n, hu]
  repeat' split
  all_goals simp [bad, fail, hk, hu, hn]

@[simp] theorem colCheck_outline (s : State) (c) : outline (colCheck s c).st = outline s := by
  simp only [colCheck]
  repeat' split
  all_goals simp

@[simp] theorem colMsg_outline (x data owner) (s : State) (rank) : outline (colMsg x data owner s rank) = outline s := by simp [colMsg]

@[simp] theorem colWrite_outline (s : State) (x rank range off bs) : outline (colWrite s x rank range off bs) = outline s := by
  simp [colWrite, outline_fields]

@[simp] theorem colPut_outline (s : State) (c v bs) : outline (colPut s c v bs).1 = outline s := by
  simp only [colPut]
  split <;> simp

@[simp] theorem groupPut_outline (s : State) (c group seq) : outline (groupPut s c group seq).1 = outline s := by simp [groupPut]

@[simp] theorem groupNext_outline (s : State) (c group seq) : outline (groupNext s c group seq) = outline s := by simp [groupNext]

@[simp] theorem spoilSpace_outline (s : State) (space v n) : outline (spoilSpace s space v n) = outline s := by simp [spoilSpace]

@[simp] theorem colSpoil_outline (s : State) (x) : outline (colSpoil s x) = outline s := by simp [colSpoil]

@[simp] theorem colFail_outline (s : State) (x r tell) : outline (colFail s x r tell) = outline s := by
  simp only [colFail]
  split <;> simp [outline_fields]

@[simp] theorem colNext_outline (s : State) (x r f) : outline (colNext s x r f) = outline s := by
  simp only [colNext]
  split <;> simp

theorem landSend_outline (s : State) (x peer idx bs) : ∀ t ∈ landSend s x peer idx bs, outline t = outline s := by
  simp only [landSend]
  split <;> simp

theorem landTake_outline (s : State) (x c n f) : ∀ t ∈ landTake s x c n f, outline t = outline s := by
  simp only [landTake]
  repeat' split
  all_goals simp

theorem finalSend_outline (s : State) (x peer lo bs) : ∀ t ∈ finalSend s x peer lo bs, outline t = outline s := by
  simp only [finalSend]
  split <;> simp

theorem colStep_outline (s : State) (x c op) : ∀ t ∈ colStep s x c op, outline t = outline s := by
  intro t h
  unfold colStep at h
  cases op with
  | send | sendBlocks | sendSeg => exact landSend_outline _ _ _ _ _ _ h
  | add | addBlocks | takeSeg => exact landTake_outline _ _ _ _ _ _ h
  | readSeg | readOut => simp [← Option.some.inj h]
  | sendOut =>
    dsimp only at h
    split at h
    · simpa using finalSend_outline _ _ _ _ _ t h
    · cases h
  | sendFinal =>
    dsimp only at h
    split at h
    · split at h
      · simp [← Option.some.inj h]
      · simpa using finalSend_outline _ _ _ _ _ t h
    · cases h
  | take =>
    dsimp only at h
    split at h
    · simp [← Option.some.inj h]
    · cases h

@[simp] theorem colPuts_outline (c) : ∀ l (s : State), outline (colPuts c l s).1 = outline s
  | [], _ => rfl
  | (v, bs) :: l, s => by
    have ih := colPuts_outline c l
    unfold colPuts
    dsimp only
    split
    · exact ih s
    · split <;> simp [ih]

@[simp] theorem colWrites_outline (s : State) (x c) : outline (colWrites s x c).1 = outline s := by
  simp only [colWrites]
  repeat' split
  all_goals simp

@[simp] theorem colFinish_outline (s : State) (x c) : outline (colFinish s x c) = outline s := by
  simp only [colFinish]
  repeat' split
  all_goals simp [outline_fields]

@[simp] theorem colRun_outline (cid) : ∀ fuel (s : State), outline (colRun cid fuel s) = outline s
  | 0, _ => rfl
  | fuel + 1, s => by
    have ih := colRun_outline cid fuel
    unfold colRun
    repeat' split
    · rfl
    · rfl
    · simp
    · rfl
    · next h => rw [ih, colStep_outline _ _ _ _ _ h]
    · rfl

@[simp] theorem colGo_outline (s : State) (cid) : outline (colGo s cid) = outline s := by
  simp only [colGo]
  split <;> simp

@[simp] theorem putResid_outline (x c rs) (s : State) : outline (putResid x c rs s).1 = outline s := by simp [putResid]

@[simp] theorem colLoad_outline (s : State) (x c) : outline (colLoad s x c) = outline s := by
  simp only [colLoad]
  repeat' split
  all_goals simp [outline_fields]

@[simp] theorem colStart_outline (s : State) (x0 c) : outline (colStart s x0 c) = outline s := by simp [colStart, outline_fields]

@[simp] theorem colSkip_outline (s : State) (c) : outline (colSkip s c) = outline s := by simp [colSkip]

@[simp] theorem colBegin_outline (s : State) (c) : outline (colBegin s c) = outline s := by
  simp only [colBegin]
  split <;> simp [outline_fields]

@[simp] theorem joinReceive_outline (s : State) (src j) : outline (joinReceive s src j) = outline s := by
  simp only [joinReceive]
  split <;> simp [outline_fields]

@[simp] theorem creditReceive_outline (s : State) (src digest seq) : outline (creditReceive s src digest seq) = outline s := by
  simp only [creditReceive]
  split <;> simp

@[simp] theorem abortReceive_outline (s : State) (src digest seq) : outline (abortReceive s src digest seq) = outline s := by
  simp only [abortReceive]
  split <;> simp [outline_fields]

@[simp] theorem colTimeout_outline (s : State) (cid) : outline (colTimeout s cid) = outline s := by
  simp only [colTimeout]
  split <;> simp [outline_fields]

@[simp] theorem colData_outline (s : State) (src range off n owners) : outline (colData s src range off n owners) = outline s := by
  simp only [colData]
  repeat' split
  all_goals simp [outline_fields]

@[simp] theorem colTxnEnd_outline (s : State) (cid st) : outline (colTxnEnd s cid st) = outline s := by
  simp only [colTxnEnd]
  split <;> simp

@[simp] theorem colSweep_outline (s : State) : outline (colSweep s) = outline s := by
  refine outline_foldl _ (fun t x => ?_) _ s
  split
  · split <;> simp
  · simp

@[simp] theorem watchdogCmds_outline (s : State) (f) : outline (watchdogCmds s f) = outline s :=
  outline_foldl _ (fun t c => by split <;> simp) _ s

/-! ### Dailies: shared operations -/

@[simp] theorem dlyMod_outline (s : State) (f) : outline (dlyMod s f) = outline s := by simp [dlyMod, outline_fields]

@[simp] theorem dlyMsg_outline (dst twin kind data owner) (s : State) : outline (dlyMsg dst twin kind data owner s) = outline s := by
  simp [dlyMsg]

@[simp] theorem partnerMsg_outline (kind data) (s : State) : outline (partnerMsg kind data s) = outline s := by simp [partnerMsg]

@[simp] theorem logPair_outline (s : State) (st bit12) : outline (logPair s st bit12) = outline s := by simp [logPair]

@[simp] theorem pairEvent_outline (s : State) (st) : outline (pairEvent s st) = outline s := by simp [pairEvent]

@[simp] theorem pairRefuse_outline (s : State) (reason) : outline (pairRefuse s reason) = outline s := by simp [pairRefuse]

@[simp] theorem pairingStart_outline (nonce ids) (s : State) : outline (pairingStart nonce ids s) = outline s := by simp [pairingStart]

@[simp] theorem resilverStart_outline (s : State) : outline (resilverStart s) = outline s := by simp [resilverStart]

@[simp] theorem continuityKey_outline (s : State) (key epoch gen) : outline (continuityKey s key epoch gen) = outline s := by
  simp [continuityKey, outline_fields]

@[simp] theorem holdStore_outline (s : State) (place key bs) : outline (holdStore s place key bs).1 = outline s := by simp [holdStore]

@[simp] theorem holdLoad_outline (s : State) (place) : outline (holdLoad s place).1 = outline s := by simp [holdLoad]

@[simp] theorem lapseTwin_outline (tell) (s : State) : outline (lapseTwin tell s) = outline s := by simp [lapseTwin]

@[simp] theorem ownReinit_outline (s : State) (n) : outline (ownReinit s n) = outline s := by simp [ownReinit]

@[simp] theorem holdFails_outline (tell) (s : State) : outline (holdFails tell s) = outline s := by simp [holdFails]

@[simp] theorem putLines_outline (s : State) (ls) : outline (putLines s ls).1 = outline s := by simp [putLines]

@[simp] theorem loadLines_outline (s : State) (m) : outline (loadLines s m).1 = outline s := by simp [loadLines]

@[simp] theorem mirrorFails_outline (s : State) (fs) : outline (mirrorFails s fs) = outline s := by simp [mirrorFails]

@[simp] theorem twinRecover_outline (s : State) : outline (twinRecover s) = outline s := by simp [twinRecover]

@[simp] theorem applyReady_outline (s : State) : outline (applyReady s) = outline s := by
  simp only [applyReady]
  split <;> simp

@[simp] theorem lapsePrimary_outline (s : State) : outline (lapsePrimary s) = outline s := by simp [lapsePrimary]

@[simp] theorem holdLine_outline (s : State) (key bs) : outline (holdLine s key bs).1 = outline s := by simp [holdLine]

@[simp] theorem holdLinesGo_outline : ∀ l (s : State), outline (holdLinesGo l s).1 = outline s
  | [], _ => rfl
  | e :: l, s => by simp [holdLinesGo, holdLinesGo_outline l]

@[simp] theorem mirrorReceive_outline (s : State) (range off bs) : outline (mirrorReceive s range off bs).1 = outline s := by
  simp [mirrorReceive]

@[simp] theorem lineValue_outline (s : State) (key) : outline (lineValue s key).1 = outline s := by
  simp only [lineValue]
  split <;> simp

@[simp] theorem sealReceive_outline (s : State) (gen step) : outline (sealReceive s gen step) = outline s := by simp [sealReceive]

@[simp] theorem commitSealed_outline (s : State) (gen) : outline (commitSealed s gen) = outline s := by simp [commitSealed]

@[simp] theorem framePlain_outline (s : State) (key) : outline (framePlain s key).1 = outline s := by simp [framePlain]

@[simp] theorem gmacsGo_outline (n) : ∀ left off (s : State), outline (gmacsGo n left off s).1 = outline s
  | 0, _, _ => rfl
  | left + 1, off, s => by simp [gmacsGo, gmacsGo_outline n left]

@[simp] theorem ownDigest_outline (s : State) (n) : outline (ownDigest s n).1 = outline s := by simp [ownDigest]

@[simp] theorem ownDigests_outline (s : State) : outline (ownDigests s).1 = outline s := by simp [ownDigests]

@[simp] theorem commitReceive_outline (s : State) (gen check) : outline (commitReceive s gen check) = outline s := by simp [commitReceive]

@[simp] theorem abortSealed_outline (s : State) (gen) : outline (abortSealed s gen) = outline s := by simp [abortSealed]

@[simp] theorem printEnd_outline (s : State) (state) : outline (printEnd s state) = outline s := by simp [printEnd]

@[simp] theorem printDrop_outline (s : State) : outline (printDrop s) = outline s := by simp [printDrop, outline_fields]

@[simp] theorem cutMod_outline (s : State) (f) : outline (cutMod s f) = outline s := by simp [cutMod]

@[simp] theorem cutEnd_outline (s : State) (k st) : outline (cutEnd s k st) = outline s := by
  simp only [cutEnd]
  split <;> simp

@[simp] theorem cutTell_outline (s : State) (kind gen) : outline (cutTell s kind gen) = outline s := by simp [cutTell]

@[simp] theorem cutAbort_outline (s : State) (k st) : outline (cutAbort s k st) = outline s := by simp [cutAbort]

@[simp] theorem cutDecide_outline (s : State) : outline (cutDecide s) = outline s := by
  simp only [cutDecide]
  split <;> simp

@[simp] theorem cutVerdict_outline (s : State) (k) : outline (cutVerdict s k) = outline s := by simp [cutVerdict]

@[simp] theorem cutAdvance_outline (s : State) : outline (cutAdvance s) = outline s := by
  simp only [cutAdvance]
  split <;> simp

@[simp] theorem cutCheck_outline (s : State) (c) : outline (cutCheck s c).1 = outline s := by simp [cutCheck]

@[simp] theorem cutBegin_outline (s : State) (c) : outline (cutBegin s c) = outline s := by
  simp only [cutBegin]
  split <;> simp [outline_fields]

@[simp] theorem cutRelease_outline (s : State) : outline (cutRelease s) = outline s := by
  simp only [cutRelease]
  split <;> simp

@[simp] theorem sealedReceive_outline (s : State) (gen isSealed) : outline (sealedReceive s gen isSealed) = outline s := by
  simp only [sealedReceive]
  split <;> simp

@[simp] theorem verdictReceive_outline (s : State) (member gen ready) : outline (verdictReceive s member gen ready) = outline s := by
  simp only [verdictReceive]
  repeat' split
  all_goals simp

@[simp] theorem cutCommitted_outline (s : State) (k) : outline (cutCommitted s k) = outline s := by simp [cutCommitted]

@[simp] theorem commitAck_outline (s : State) (gen ds) : outline (commitAck s gen ds) = outline s := by
  simp only [commitAck]
  split <;> simp

@[simp] theorem notReady_outline (s : State) (k) : outline (notReady s k) = outline s := by simp [notReady]

@[simp] theorem cutTimeout_outline (s : State) (cid) : outline (cutTimeout s cid) = outline s := by
  simp only [cutTimeout]
  split <;> simp

@[simp] theorem cutTwinLost_outline (s : State) : outline (cutTwinLost s) = outline s := by
  simp only [cutTwinLost]
  split <;> simp

@[simp] theorem cutSweep_outline (s : State) : outline (cutSweep s) = outline s := by
  simp only [cutSweep]
  repeat' split
  all_goals simp

@[simp] theorem primaryAlone_outline (s : State) : outline (primaryAlone s) = outline s := by simp [primaryAlone]

@[simp] theorem probeAnswer_outline (s : State) (src) : outline (probeAnswer s src) = outline s := by simp [probeAnswer]

@[simp] theorem depart_outline (s : State) : outline (depart s) = outline s := by simp [depart]

@[simp] theorem dlyAnswer_outline (s : State) (st) : outline (dlyAnswer s st).st = outline s := by simp [dlyAnswer]

@[simp] theorem detach_outline (s : State) : outline (detach s).st = outline s := by simp [detach]

@[simp] theorem rewind_outline (s : State) : outline (rewind s).st = outline s := by simp [rewind]

@[simp] theorem rewindSend_outline (s : State) (key) : outline (rewindSend s key) = outline s := by simp [rewindSend]

@[simp] theorem rewindDone_outline (s : State) (ls) : outline (rewindDone s ls) = outline s := by simp [rewindDone]

@[simp] theorem takeBegin_outline (s : State) : outline (takeBegin s).st = outline s := by simp [takeBegin]

@[simp] theorem checkArm_outline (s : State) : outline (checkArm s).st = outline s := by simp [checkArm]

@[simp] theorem takeAppend_outline (s : State) (step digest) : outline (takeAppend s step digest) = outline s := by simp [takeAppend]

@[simp] theorem takeRecordAppend_outline (s : State) (c step digest) : outline (takeRecordAppend s c step digest) = outline s := by
  simp [takeRecordAppend, outline_fields]

@[simp] theorem takeRecord_outline (s : State) (c) : outline (takeRecord s c) = outline s := by simp [takeRecord]

@[simp] theorem takeLogReceive_outline (s : State) (step digest) : outline (takeLogReceive s step digest) = outline s := by
  simp [takeLogReceive]

@[simp] theorem mirrorSkip_outline (s : State) (l k) : outline (mirrorSkip s l k) = outline s := by simp [mirrorSkip]

@[simp] theorem mirrorPacket_outline (s : State) (n l k bs) : outline (mirrorPacket s n l k bs) = outline s := by simp [mirrorPacket]

@[simp] theorem mirrorSend_outline (s : State) : outline (mirrorSend s) = outline s := by
  simp only [mirrorSend]
  repeat' split
  all_goals simp

@[simp] theorem resilverSend_outline (s : State) : outline (resilverSend s) = outline s := by
  simp only [resilverSend]
  repeat' split
  all_goals simp

@[simp] theorem streamSend_outline : ∀ n (s : State), outline (streamSend n s) = outline s
  | 0, _ => rfl
  | n + 1, s => by simp [streamSend, streamSend_outline n]

@[simp] theorem mirrorStream_outline (s : State) (n) : outline (mirrorStream s n) = outline s := by simp [mirrorStream]

@[simp] theorem resilverReceive_outline (s : State) (src link range off bs) :
    outline (resilverReceive s src link range off bs) = outline s := by simp [resilverReceive]

@[simp] theorem resilverDone_outline (s : State) : outline (resilverDone s) = outline s := by simp [resilverDone]

@[simp] theorem heartbeatSend_outline (s : State) : outline (heartbeatSend s) = outline s := by simp [heartbeatSend]

@[simp] theorem heartbeatReceive_outline (s : State) (r) : outline (heartbeatReceive s r) = outline s := by simp [heartbeatReceive]

@[simp] theorem partnerSuspect_outline (s : State) : outline (partnerSuspect s) = outline s := by simp [partnerSuspect]

@[simp] theorem probeReceive_outline (s : State) (src) : outline (probeReceive s src) = outline s := by simp [probeReceive]

@[simp] theorem streamTxnEnd_outline (s : State) (addr lines isMirror st) :
    outline (streamTxnEnd s addr lines isMirror st) = outline s := by simp [streamTxnEnd]

@[simp] theorem takeTxnEnd_outline (s : State) (cid st) : outline (takeTxnEnd s cid st) = outline s := by
  simp only [takeTxnEnd]
  split <;> simp

@[simp] theorem settleOne_outline (s : State) (o st) : outline (settleOne s o st) = outline s := by
  simp only [settleOne]
  split <;> simp

@[simp] theorem settleF_outline : ∀ fuel (s : State), outline (settleF fuel s) = outline s
  | 0, _ => rfl
  | fuel + 1, s => by
    have ih := settleF_outline fuel
    unfold settleF
    split <;> simp [ih, outline_fields]

@[simp] theorem settle_outline (s : State) : outline (settle s) = outline s := by simp [settle]

@[simp] theorem sweep_outline (s : State) : outline (sweep s) = outline s := by simp [sweep]

/-! ### Spaces, contexts, queues, objects and fences -/

@[simp] theorem spaceMod_slots (x slot f) : (spaceMod x slot f).slots.length = x.slots.length := by simp [spaceMod]

@[simp] theorem spcStatus_outline (s : State) (slot st) : outline (spcStatus s slot st) = outline s := by simp [spcStatus, outline_fields]

@[simp] theorem spaceCreate_outline (slot) (s : State) : outline (spaceCreate slot s).st = outline s := by
  simp only [spaceCreate]
  split <;> simp [outline_fields]

@[simp] theorem zeroPages_outline (w) : ∀ l (s : State), outline (zeroPages w l s).st = outline s
  | [], _ => rfl
  | p :: l, s => by rw [zeroPages, outline_ite_memWrite, zeroPages_outline w l, writePhys_outline, ite_self]

@[simp] theorem spaceCreateDone_outline (slot) (s : State) : outline (spaceCreateDone slot s) = outline s := by
  unfold spaceCreateDone
  dsimp only
  split
  · split <;> simp [outline_fields]
  · rfl

@[simp] theorem fenceMod_slots (x idx f) : (fenceMod x idx f).slots.length = x.slots.length := by simp [fenceMod]

@[simp] theorem fenceNotices_outline (s : State) (f) : outline (fenceNotices s f) = outline s := by simp [fenceNotices, outline_fields]

@[simp] theorem fenceSignal_outline (s : State) (idx v) : outline (fenceSignal s idx v) = outline s := by
  simp only [fenceSignal]
  split <;> simp [outline_fields]

@[simp] theorem fenceFail_outline (s : State) (idx rec) : outline (fenceFail s idx rec) = outline s := by
  simp only [fenceFail]
  split <;> simp [outline_fields]

@[simp] theorem fenceDestroy_outline (s : State) (f) : outline (fenceDestroy s f) = outline s := by simp [fenceDestroy, outline_fields]

@[simp] theorem releaseStruck_outline (s : State) : outline (releaseStruck s) = outline s := by simp [releaseStruck, outline_fields]

@[simp] theorem objFree_outline (s : State) (o) : outline (objFree s o) = outline s := by simp [objFree, outline_fields]

@[simp] theorem objAlloc_outline (slot range size addr owner zero) (s : State) :
    outline (objAlloc slot range size addr owner zero s).st = outline s := by
  simp only [objAlloc]
  repeat' split
  all_goals simp [outline_fields]

@[simp] theorem ctxCreate_outline (slot r) (s : State) : outline (ctxCreate slot r s).st = outline s := by simp [ctxCreate, outline_fields]

@[simp] theorem ctxSet_outline (slot id r) (s : State) : outline (ctxSet slot id r s).st = outline s := by
  simp only [ctxSet]
  split <;> simp [outline_fields]

@[simp] theorem ctxQuery_outline (slot id) (s : State) : outline (ctxQuery slot id s).st = outline s := by
  simp only [ctxQuery]
  split <;> simp

@[simp] theorem qCreate_outline (slot ringAddr entries compAddr version) (s : State) :
    outline (qCreate slot ringAddr entries compAddr version s).st = outline s := by simp [qCreate, outline_fields]

@[simp] theorem queueMod_slots (x idx f) : (queueMod x idx f).slots.length = x.slots.length := by simp [queueMod]

@[simp] theorem ringRead_outline (s : State) (q i lo n) : outline (ringRead s q i lo n).st = outline s := by simp [ringRead]

@[simp] theorem acceptOne_outline (s : State) (q i) : outline (acceptOne s q i) = outline s := by
  simp only [acceptOne]
  repeat' split
  all_goals simp [outline_fields]

@[simp] theorem acceptRun_outline : ∀ n q i (s : State), outline (acceptRun n q i s) = outline s
  | 0, _, _, _ => rfl
  | n + 1, q, i, s => by simp [acceptRun, acceptRun_outline n]

@[simp] theorem evalWait_outline (s : State) (cid) : outline (evalWait s cid) = outline s := by
  simp only [evalWait]
  repeat' split
  all_goals simp [outline_fields]

@[simp] theorem evalWaits_outline (s : State) : outline (evalWaits s) = outline s := by simp [evalWaits]

@[simp] theorem doorbell_outline (slot h j) (s : State) : outline (doorbell slot h j s).st = outline s := by
  simp only [doorbell]
  split <;> simp [outline_fields]

@[simp] theorem logCmd_outline (s : State) (c r) : outline (logCmd s c r) = outline s := by simp [logCmd]

@[simp] theorem putRecord_outline (s : State) (c rec) : outline (putRecord s c rec) = outline s := by
  simp only [putRecord]
  split <;> simp [outline_fields]

@[simp] theorem leaveResidency_slots (sp ctx) : (leaveResidency sp ctx).slots.length = sp.slots.length := by
  simp only [leaveResidency]
  split <;> simp

@[simp] theorem ctxOwned_outline (s : State) (id) : outline (ctxOwned s id) = outline s := by simp [ctxOwned]

@[simp] theorem ctxGone_outline (s : State) (x) : outline (ctxGone s x) = outline s := by simp [ctxGone, outline_fields]

@[simp] theorem endContexts_outline (s : State) : outline (endContexts s) = outline s := by simp [endContexts]

@[simp] theorem completeCmd_outline (s : State) (c r busy energyUj) : outline (completeCmd s c r busy energyUj) = outline s := by
  simp only [completeCmd]
  repeat' split
  all_goals simp [outline_fields]

@[simp] theorem commandComplete_outline (cid busy energyUj) (s : State) : outline (commandComplete cid busy energyUj s) = outline s := by
  simp only [commandComplete]
  repeat' split
  all_goals simp

@[simp] theorem dropImage_outline (s : State) (c) : outline (dropImage s c) = outline s := by
  simp only [dropImage]
  split <;> simp [outline_fields]

@[simp] theorem dropWork_outline (s : State) (f) : outline (dropWork s f) = outline s := by simp [dropWork, outline_fields]

@[simp] theorem abortRun_outline (s : State) (c) : outline (abortRun s c) = outline s := by simp [abortRun]

@[simp] theorem abortIdle_outline (s : State) (c) : outline (abortIdle s c) = outline s := by
  simp only [abortIdle]
  split <;> simp

@[simp] theorem abortCmds_outline (s : State) (f) : outline (abortCmds s f) = outline s := by simp [abortCmds, outline_fields]

@[simp] theorem ctxDestroy_outline (slot id) (s : State) : outline (ctxDestroy slot id s).st = outline s := by
  simp only [ctxDestroy]
  split <;> simp [outline_fields]

@[simp] theorem qDestroy_outline (slot h) (s : State) : outline (qDestroy slot h s).st = outline s := by
  simp only [qDestroy]
  split <;> simp [outline_fields]

@[simp] theorem fenceCreate_outline (slot owner v) (s : State) : outline (fenceCreate slot owner v s).st = outline s := by
  simp only [fenceCreate]
  split <;> simp [outline_fields]

@[simp] theorem fenceDestroyReq_outline (slot h) (s : State) : outline (fenceDestroyReq slot h s).st = outline s := by
  simp only [fenceDestroyReq]
  split <;> simp

@[simp] theorem fenceSignalReq_outline (slot h v) (s : State) : outline (fenceSignalReq slot h v s).st = outline s := by
  simp only [fenceSignalReq]
  split <;> simp

@[simp] theorem fenceFailReq_outline (slot h) (s : State) : outline (fenceFailReq slot h s).st = outline s := by
  simp only [fenceFailReq]
  split <;> simp

@[simp] theorem fenceQuery_outline (slot h) (s : State) : outline (fenceQuery slot h s).st = outline s := by
  simp only [fenceQuery]
  split <;> simp

@[simp] theorem fenceNotify_outline (slot h v) (s : State) : outline (fenceNotify slot h v s).st = outline s := by
  simp only [fenceNotify]
  split <;> simp [outline_fields]

@[simp] theorem spaceDo_outline (slot r) (s : State) : outline (spaceDo slot r s).st = outline s := by
  simp only [spaceDo]
  repeat' split
  all_goals simp

@[simp] theorem spaceReply_outline (s : State) (ch st data) : outline (spaceReply s ch st data) = outline s := by
  simp only [spaceReply]
  repeat' split
  all_goals simp

@[simp] theorem requestDo_outline (ch r) (s : State) : outline (requestDo ch r s) = outline s := by simp [requestDo]

@[simp] theorem requestTaken_outline (ch r) (s : State) : outline (requestTaken ch r s) = outline s := by
  simp only [requestTaken]
  repeat' split
  all_goals simp [outline_fields]

@[simp] theorem spaceRequest_outline (ch r) (s : State) : outline (spaceRequest ch r s) = outline s := by
  simp only [spaceRequest]
  repeat' split
  all_goals simp

@[simp] theorem spaceDestroy_outline (slot) (s : State) : outline (spaceDestroy slot s).st = outline s := by
  simp [spaceDestroy, outline_fields]

/-! ### Key rotation, refills and the memory window -/

@[simp] theorem ciphStatus_outline (s : State) (n st) : outline (ciphStatus s n st) = outline s := by simp [ciphStatus, outline_fields]

@[simp] theorem rekeyStart_outline (s : State) (n slot pace) : outline (rekeyStart s n slot pace) = outline s := by
  simp [rekeyStart, outline_fields]

@[simp] theorem rekey_outline (n newSlot pace) (s : State) : outline (rekey n newSlot pace s).st = outline s := by
  simp only [rekey]
  repeat' split
  all_goals simp

@[simp] theorem walkDead_outline (s : State) (n a) : outline (walkDead s n a) = outline s := by simp [walkDead, outline_fields]

@[simp] theorem walkRead_outline (s : State) (n a) : outline (walkRead s n a).st = outline s := by simp [walkRead]

@[simp] theorem walkUnit_outline (n a) (s : State) : outline (walkUnit n a s) = outline s := by simp [walkUnit]

@[simp] theorem walkEnd_outline (n) (s : State) : outline (walkEnd n s) = outline s := by simp [walkEnd, outline_fields]

@[simp] theorem walkStack_outline (n stack units) (s : State) : outline (walkStack n stack units s) = outline s := by
  simp [walkStack, outline_fields]

@[simp] theorem walkGo_outline (n units) (s : State) : outline (walkGo n units s) = outline s := by simp [walkGo, outline_fields]

@[simp] theorem reinit_outline (n) (s : State) : outline (reinit n s).st = outline s := by
  simp only [reinit]
  repeat' split
  all_goals simp

@[simp] theorem fillFinish_outline (n) (s : State) : outline (fillFinish n s) = outline s := by simp [fillFinish, outline_fields]

@[simp] theorem debugCount_outline (s : State) (a) : outline (debugCount s a) = outline s := by
  simp only [debugCount]
  repeat' split
  all_goals simp [outline_fields]

@[simp] theorem debugRead_outline (s : State) (a) : outline (debugRead s a).st = outline s := by
  simp only [debugRead]
  repeat' split
  all_goals simp

@[simp] theorem debugWrite_outline (s : State) (a v) : outline (debugWrite s a v).st = outline s := by
  simp only [debugWrite]
  repeat' split
  all_goals simp

@[simp] theorem winStatusPut_outline (s : State) (st) : outline (winStatusPut s st) = outline s := by simp [winStatusPut, outline_fields]

@[simp] theorem winRead_outline (s : State) : outline (winRead s).st = outline s := by simp [winRead]

@[simp] theorem winWrite_outline (v) (s : State) : outline (winWrite v s).st = outline s := by simp [winWrite]

@[simp] theorem winReadTurn_outline (p tag) (s : State) : outline (winReadTurn p tag s) = outline s := by simp [winReadTurn]

@[simp] theorem winWriteTurn_outline (p tag v) (s : State) : outline (winWriteTurn p tag v s) = outline s := by simp [winWriteTurn]

/-! ### Dailies: commands -/

@[simp] theorem print_outline (mask) (s : State) : outline (print mask s).st = outline s := by simp [print]

@[simp] theorem printBulk_outline (s : State) (p stream target bs) : outline (printBulk s p stream target bs) = outline s := by
  simp [printBulk]

@[simp] theorem printChunk_outline (s : State) : outline (printChunk s) = outline s := by
  simp only [printChunk]
  repeat' split
  all_goals simp

@[simp] theorem printSlate_outline (s : State) : outline (printSlate s) = outline s := by
  simp only [printSlate]
  repeat' split
  all_goals simp

@[simp] theorem printAbandon_outline (s : State) : outline (printAbandon s).st = outline s := by simp [printAbandon]

@[simp] theorem restoreBegin_outline (s : State) : outline (restoreBegin s).st = outline s := by simp [restoreBegin]

@[simp] theorem restoreChunk_outline (c) (s : State) : outline (restoreChunk c s).st = outline s := by
  simp only [restoreChunk]
  repeat' split
  all_goals simp

@[simp] theorem restoreTurn_outline (p tag c) (s : State) : outline (restoreTurn p tag c s) = outline s := by simp [restoreTurn]

@[simp] theorem restoreEnd_outline (s : State) : outline (restoreEnd s).st = outline s := by simp [restoreEnd]

/-! ### Packets and collective messages -/

@[simp] theorem windowTake_outline (s : State) (p) : outline (windowTake s p) = outline s := by simp [windowTake, outline_fields]

@[simp] theorem addRun_outline (s : State) (p h a) : outline (addRun s p h a).1 = outline s := by simp [addRun]

@[simp] theorem requestRun_outline (s : State) (p a h) : outline (requestRun s p a h).st = outline s := by
  simp only [requestRun]
  repeat' split
  all_goals simp

@[simp] theorem requestServe_outline (s : State) (link p) : outline (requestServe s link p).st = outline s := by
  simp only [requestServe]
  repeat' split
  all_goals simp

@[simp] theorem requestAnswer_outline (s : State) (link p) : outline (requestAnswer s link p) = outline s := by simp [requestAnswer]

@[simp] theorem dropFab_outline (s : State) (f) (hf : ∀ x, (f x).links.length = x.links.length) : outline (dropFab s f) = outline s := by
  simp [dropFab, hf, outline_fields]

@[simp] theorem requestCheck_outline (s : State) (link p tagOk buf) : outline (requestCheck s link p tagOk buf) = outline s := by
  simp [requestCheck]

@[simp] theorem requestsGo_outline (s : State) : outline (requestsGo s) = outline s := by
  unfold requestsGo
  rw [outline_foldl _ fun t i => by split <;> simp]
  simp [outline_fields]

@[simp] theorem requestsRefuse_outline (s : State) : outline (requestsRefuse s) = outline s := by
  unfold requestsRefuse
  rw [outline_foldl _ fun t i => by split <;> simp]
  simp [outline_fields]

@[simp] theorem requestReceive_outline (s : State) (link p tagOk buf) : outline (requestReceive s link p tagOk buf) = outline s := by
  simp [requestReceive]

@[simp] theorem dropLate_outline (s : State) (tag) : outline (dropLate s tag) = outline s := by simp [dropLate]

@[simp] theorem responseCheck_outline (s : State) (p tagOk buf) : outline (responseCheck s p tagOk buf) = outline s := by
  simp only [responseCheck]
  repeat' split
  all_goals simp

@[simp] theorem responseReceive_outline (s : State) (link p tagOk buf) : outline (responseReceive s link p tagOk buf) = outline s := by
  simp [responseReceive]

@[simp] theorem transitDrop_outline (s : State) (link p f) (hf : ∀ x, (f x).links.length = x.links.length) :
    outline (transitDrop s link p f) = outline s := by simp [transitDrop, hf]

@[simp] theorem transitForward_outline (s : State) (link p buf) : outline (transitForward s link p buf) = outline s := by
  simp only [transitForward]
  repeat' split
  all_goals simp

@[simp] theorem codewordIn_outline (s : State) (n cw) : outline (codewordIn s n cw) = outline s := by simp [codewordIn]

@[simp] theorem codewordReceive_outline (s : State) (n cw) : outline (codewordReceive s n cw) = outline s := by simp [codewordReceive]

@[simp] theorem linkCtrl_outline (n v) (s : State) : outline (linkCtrl n v s).st = outline s := by simp [linkCtrl]

end Sys2Proof.Machine
end

section
/-! SUPPORT. Keys, the rig, the Gaffer, the debug ports, the control port and the registers leave the outline as it was, but for what resets
the module, strikes keys or cuts a list back to its hardware length. -/

namespace Sys2Proof.Machine

/-! ### Quotes, keys and the random source -/

@[simp] theorem keyStatus_outline (s : State) (st) : outline (keyStatus s st).st = outline s := by simp [keyStatus, outline_fields]

@[simp] theorem quoteReq_outline (s : State) : outline (quoteReq s).st = outline s := by
  simp only [quoteReq]
  split <;> simp [outline_fields]

@[simp] theorem certReq_outline (inter) (s : State) : outline (certReq inter s).st = outline s := by simp [certReq, outline_fields]

@[simp] theorem keyOutRead_outline (s : State) : outline (keyOutRead s).st = outline s := by simp [keyOutRead, outline_fields]

@[simp] theorem drawKey_outline (slot o) (s : State) : outline (drawKey slot o s).st = outline s := by simp [drawKey]

@[simp] theorem windowsDrop_outline (s : State) (g) : outline (windowsDrop s g) = outline s := by simp [windowsDrop, outline_fields]

@[simp] theorem fabActivate_outline (s : State) : outline (fabActivate s).st = outline s := by
  simp only [fabActivate]
  repeat' split
  all_goals simp [outline_fields]

@[simp] theorem fabRetire_outline (s : State) : outline (fabRetire s).st = outline s := by
  simp only [fabRetire]
  split <;> simp [outline_fields]

/-! ### The rig -/

@[simp] theorem rigMod_outline (s : State) (f) : outline (rigMod s f) = outline s := by simp [rigMod, outline_fields]

@[simp] theorem rigAnswer_outline (s : State) (st) : outline (rigAnswer s st).st = outline s := by simp [rigAnswer]

@[simp] theorem rigBufWrite_outline (f) (s : State) : outline (rigBufWrite f s).st = outline s := by simp [rigBufWrite]

@[simp] theorem rigVerify_outline (s : State) : outline (rigVerify s).st = outline s := by simp [rigVerify]

@[simp] theorem rigVerified_outline (s : State) : outline (rigVerified s) = outline s := by
  simp only [rigVerified]
  repeat' split
  all_goals simp

@[simp] theorem rigDiscard_outline (s : State) : outline (rigDiscard s).st = outline s := by simp [rigDiscard]

@[simp] theorem refillNew_outline (s : State) (n) : outline (refillNew s n) = outline s := by
  simp only [refillNew]
  repeat' split
  all_goals simp

@[simp] theorem relinkAll_outline (old) (s : State) : outline (relinkAll old s) = outline s := by simp [relinkAll]

@[simp] theorem rerole_outline (old) (s : State) : outline (rerole old s) = outline s := by simp [rerole]

/-! ### The Gaffer -/

@[simp] theorem budgetWrite_outline (v) (s : State) : outline (budgetWrite v s) = outline s := by simp [budgetWrite, outline_fields]

@[simp] theorem emergencyNotice_outline (s : State) (cycles) : outline (emergencyNotice s cycles) = outline s := by simp [emergencyNotice]

@[simp] theorem emergencyStart_outline (s : State) (g) (hg : g.islands.length = s.gaf.islands.length) :
    outline (emergencyStart s g) = outline s := by simp [emergencyStart, hg]

@[simp] theorem emergencyEnd_outline (s : State) (g cycles) (hg : g.islands.length = s.gaf.islands.length) :
    outline (emergencyEnd s g cycles) = outline s := by simp [emergencyEnd, hg, outline_fields]

@[simp] theorem islandRefresh_outline (s : State) (e) : outline (islandRefresh s e) = outline s := by
  simp only [islandRefresh]
  split <;> simp [outline_fields]

@[simp] theorem lowerEngines_outline (f) (s : State) : outline (lowerEngines f s) = outline s := by simp [lowerEngines, outline_fields]

theorem savePut_outline (slot) : ∀ pages off bs (s : State), ∀ t ∈ savePut slot pages off bs s, outline t = outline s
  | [], _, _, s, t, h => by simp_all [savePut]
  | p :: pages, off, bs, s, t, h => by
    unfold savePut at h
    dsimp only at h
    split at h
    · exact savePut_outline slot pages _ _ s t h
    · split at h
      · simpa using savePut_outline slot pages _ _ _ t h
      · cases h

theorem saveImage_outline (s : State) (i bytes) : ∀ t ∈ saveImage s i bytes, outline t = outline s := by
  intro t h
  unfold saveImage at h
  split at h
  · cases h
  · obtain ⟨u, hu, rfl⟩ := Option.map_eq_some_iff.1 h
    simpa [outline_fields] using savePut_outline _ _ _ _ _ u hu

@[simp] theorem bandZero_outline (s : State) (x) : outline (bandZero s x) = outline s := by simp [bandZero, outline_fields]

@[simp] theorem mmCut_outline (s : State) (c) : outline (mmCut s c).1 = outline s := by
  simp only [mmCut]
  split <;> simp

@[simp] theorem preempt_outline (s : State) (c) : outline (preempt s c) = outline s := by
  unfold preempt
  dsimp only
  split
  · rfl
  · next u h => simp [outline_fields, saveImage_outline _ _ _ u h]

theorem bandSave_outline (s : State) (x) : ∀ t ∈ bandSave s x, outline t = outline s := by
  intro t h
  unfold bandSave at h
  dsimp only at h
  split at h
  · simp [← Option.some.inj h]
  · obtain ⟨u, hu, rfl⟩ := Option.map_eq_some_iff.1 h
    simp [saveImage_outline _ _ _ u hu]

@[simp] theorem imageLost_outline (s : State) (i) : outline (imageLost s i) = outline s := by
  simp only [imageLost]
  split <;> simp [outline_fields]

theorem bandSwitch_outline (s : State) (x ctx) : ∀ t ∈ bandSwitch s x ctx, outline t.1 = outline s := by
  intro t h
  unfold bandSwitch at h
  dsimp only at h
  split at h
  · simp [← Option.some.inj h]
  · obtain ⟨u, hu, rfl⟩ := Option.map_eq_some_iff.1 h
    simp [bandSave_outline _ _ u hu]

@[simp] theorem mmResume_outline (s : State) (c e overlap) : outline (mmResume s c e overlap) = outline s := by
  unfold mmResume
  dsimp only
  repeat' split
  · rfl
  · simp [outline_fields]
  · rfl
  · next t h => exact bandSwitch_outline _ _ _ _ h
  · next t h => simp [outline_fields, show outline t = outline s from bandSwitch_outline _ _ _ _ h]

@[simp] theorem engineZero_engines (a e) : (engineZero a e).engines.length = a.engines.length := by simp [engineZero]

theorem saveEngine_outline (s : State) (e) : ∀ t ∈ saveEngine s e, outline t = outline s := by
  intro t h
  unfold saveEngine at h
  dsimp only at h
  split at h
  · simp [← Option.some.inj h]
  · exact saveImage_outline _ _ _ t h

@[simp] theorem restoreEngine_outline (s : State) (e slot) : outline (restoreEngine s e slot).1 = outline s := by
  simp only [restoreEngine]
  split <;> simp

theorem handover_outline (s : State) (e slot) : ∀ t ∈ handover s e slot, outline t.1 = outline s := by
  intro t h
  obtain ⟨u, hu, rfl⟩ := Option.map_eq_some_iff.1 h
  have hs : outline u = outline s := by
    split at hu
    · simp [← Option.some.inj hu]
    · exact saveEngine_outline _ _ u hu
  simp [outline_fields, hs]

@[simp] theorem wakeEngine_outline (s : State) (e) : outline (wakeEngine s e).1 = outline s := by
  simp only [wakeEngine]
  split <;> simp [outline_fields]

@[simp] theorem rushTile_outline (c) (s : State) (t) : outline (rushTile c s t) = outline s := by
  simp only [rushTile]
  split <;> simp [outline_fields]

@[simp] theorem rushAsk_outline (slot) (s : State) : outline (rushAsk slot s) = outline s := by simp [rushAsk, outline_fields]

@[simp] theorem sampleRushes_outline (s : State) (c) : outline (sampleRushes s c) = outline s := by
  simp only [sampleRushes]
  split <;> simp [outline_fields]

theorem engineReady_outline (s : State) (e slot) : ∀ t ∈ engineReady s e slot, outline t.1 = outline s := by
  intro t h
  unfold engineReady at h
  dsimp only at h
  split at h
  · obtain ⟨u, hu, rfl⟩ := Option.map_eq_some_iff.1 h
    simp [handover_outline _ _ _ u hu]
  · split at h <;> simp [← Option.some.inj h]

theorem placeReady_outline (s : State) (c e) : ∀ t ∈ placeReady s c e, outline t.1 = outline s := by
  intro t h
  unfold placeReady at h
  split at h
  · next u _ hu _ => rw [bandSwitch_outline _ _ _ t h, engineReady_outline _ _ _ _ hu]
  · exact engineReady_outline _ _ _ t h

@[simp] theorem admitCmd_outline (s : State) (c k) : outline (admitCmd s c k) = outline s := by
  unfold admitCmd
  dsimp only
  repeat' split
  · simp [outline_fields]
  · rfl
  · next t h => simp [outline_fields, show outline t = outline s from placeReady_outline _ _ _ _ h]
  · next t h => simp [outline_fields, show outline t = outline s from placeReady_outline _ _ _ _ h]

@[simp] theorem considerQueue_outline (leftNs slot q) (s : State) : outline (considerQueue leftNs slot q s) = outline s := by
  simp only [considerQueue]
  repeat' split
  all_goals simp [outline_fields]

@[simp] theorem leaveIdle_outline (s : State) (n) : outline (leaveIdle s n) = outline s := by simp [leaveIdle, outline_fields]

@[simp] theorem residencyFill_outline (s : State) : outline (residencyFill s) = outline s := by simp [residencyFill, outline_fields]

@[simp] theorem admissionPass_outline (leftNs) (s : State) : outline (admissionPass leftNs s) = outline s := by simp [admissionPass]

@[simp] theorem repoint_outline (s : State) (e f) : outline (repoint s e f) = outline s := by simp [repoint, outline_fields]

@[simp] theorem retuneLower_outline : ∀ fuel slot (s : State), outline (retuneLower fuel slot s) = outline s
  | 0, _, _ => rfl
  | fuel + 1, slot, s => by
    have ih := retuneLower_outline fuel slot
    unfold retuneLower
    split
    · split <;> simp [ih]
    · rfl

@[simp] theorem setHeld_outline (s : State) (e h) : outline (setHeld s e h) = outline s := by simp [setHeld, outline_fields]

@[simp] theorem retuneHold_outline (slot) : ∀ l (s : State), outline (retuneHold slot l s) = outline s
  | [], _ => rfl
  | e :: l, s => by simp [retuneHold, retuneHold_outline slot l]

@[simp] theorem retuneFree_outline (slot) : ∀ l (s : State), outline (retuneFree slot l s) = outline s
  | [], _ => rfl
  | e :: l, s => by simp [retuneFree, retuneFree_outline slot l]

@[simp] theorem retuneRaise_outline (slot e) (s : State) : outline (retuneRaise slot e s) = outline s := by
  simp only [retuneRaise]
  split <;> simp

@[simp] theorem retuneSpace_outline (slot) (s : State) : outline (retuneSpace slot s) = outline s := by simp [retuneSpace]

@[simp] theorem retuneEngines_engines (s : State) (m) : (retuneEngines s m).engines.length = s.array.engines.length := by
  simp [retuneEngines]

@[simp] theorem splitEnergy_outline (m) (s : State) : outline (splitEnergy m s) = outline s := by simp [splitEnergy, outline_fields]

@[simp] theorem freeIdle_outline (s : State) : outline (freeIdle s) = outline s := by simp [freeIdle]

@[simp] theorem ctxLeave_outline (s : State) (x) : outline (ctxLeave s x) = outline s := by simp [ctxLeave, outline_fields]

@[simp] theorem sliceSwap_outline (s : State) : outline (sliceSwap s) = outline s := by simp [sliceSwap, outline_fields]

@[simp] theorem engineGive_outline (slot e) (s : State) : outline (engineGive slot e s) = outline s := by
  unfold engineGive
  split
  · rfl
  · split
    · next t h => simp [show outline t = outline s from handover_outline _ _ _ _ h]
    · rfl

@[simp] theorem sliceEngines_outline (s : State) : outline (sliceEngines s) = outline s := by
  unfold sliceEngines
  split
  · rw [outline_foldl _ fun t e => by cases engineWant t e <;> simp]
    simp
  · rfl

@[simp] theorem sliceEnd_outline (s : State) : outline (sliceEnd s) = outline s := by simp [sliceEnd]

@[simp] theorem windowEngine_outline (slot e) (s : State) : outline (windowEngine slot e s) = outline s := by simp [windowEngine]

@[simp] theorem strictWindow_outline (slot) (s : State) : outline (strictWindow slot s) = outline s := by
  simp [strictWindow, outline_fields]

@[simp] theorem islandSleep_outline (n) (s : State) : outline (islandSleep n s) = outline s := by
  unfold islandSleep
  dsimp only
  split
  · rfl
  · split
    · split
      · split
        · next t h => simp [outline_fields, saveEngine_outline _ _ t h]
        · rfl
      · rfl
    · simp [outline_fields]

@[simp] theorem gripWatchdog_outline (grip) (s : State) : outline (gripWatchdog grip s) = outline s := by
  simp [gripWatchdog, outline_fields]

@[simp] theorem islandReset_outline (s : State) (n detail ok) : outline (islandReset s n detail ok) = outline s := by
  simp [islandReset, outline_fields]

/-! ### The life cycle and the debug ports -/

@[simp] theorem lcStatus_outline (s : State) (st) : outline (lcStatus s st) = outline s := by simp [lcStatus, outline_fields]

@[simp] theorem lcGo_outline (s : State) (target b) : outline (lcGo s target b) = outline s := by simp [lcGo, outline_fields]

@[simp] theorem lcField_outline (b) (s : State) : outline (lcField b s).st = outline s := by simp [lcField]

@[simp] theorem flashTick_outline (s : State) (w) : outline (flashTick s w) = outline s := by simp [flashTick, outline_fields]

@[simp] theorem dbgStatus_outline (s : State) (st reason) : outline (dbgStatus s st reason) = outline s := by
  simp [dbgStatus, outline_fields]

@[simp] theorem challengeDrop_outline (s : State) : outline (challengeDrop s) = outline s := by simp [challengeDrop, outline_fields]

@[simp] theorem challenge_outline (purpose scope) (s : State) : outline (challenge purpose scope s).st = outline s := by
  simp [challenge, outline_fields]

@[simp] theorem challengeDone_outline (s : State) : outline (challengeDone s) = outline s := by
  unfold challengeDone
  repeat' split
  all_goals rfl

@[simp] theorem tokenUse_records (x) : (tokenUse x).records.length = x.records.length := by simp [tokenUse]

@[simp] theorem dbgClose_outline (s : State) : outline (dbgClose s).st = outline s := by simp [dbgClose, outline_fields]

@[simp] theorem dbgDataRead_outline (s : State) : outline (dbgDataRead s).st = outline s := by simp [dbgDataRead, outline_fields]

@[simp] theorem dbgDataWrite_outline (v) (s : State) : outline (dbgDataWrite v s).st = outline s := by simp [dbgDataWrite, outline_fields]

@[simp] theorem dbgPtrWrite_outline (v) (s : State) : outline (dbgPtrWrite v s) = outline s := by simp [dbgPtrWrite, outline_fields]

@[simp] theorem jtagLoad_outline (ir) (s : State) : outline (jtagLoad ir s) = outline s := by simp [jtagLoad, outline_fields]

@[simp] theorem jtagRun_outline (ir) (f : State → State) (hf : ∀ t, outline (f t) = outline t) (s : State) :
    outline (jtagRun ir f s) = outline s := by simp [jtagRun, hf]

@[simp] theorem jtagDone_outline (t : State) (dr st) : outline (jtagDone t dr st) = outline t := by simp [jtagDone, outline_fields]

@[simp] theorem memPortGo_outline (addr write) (s : State) : outline (memPortGo addr write s) = outline s := by
  simp only [memPortGo]
  split <;> simp

@[simp] theorem memPort_outline (addr write) (s : State) : outline (memPort addr write s) = outline s := by simp [memPort]

@[simp] theorem gripDbg_outline (grip op) (s : State) : outline (gripDbg grip op s) = outline s := by
  simp only [gripDbg]
  repeat' split
  all_goals simp [outline_fields]

@[simp] theorem intScan_outline (n) (s : State) : outline (intScan n s) = outline s := by simp [intScan, outline_fields]

/-! ### Party channels -/

@[simp] theorem chanPut_outline (s : State) (p c) : outline (chanPut s p c) = outline s := by simp [chanPut, outline_fields]

@[simp] theorem bindStart_outline (via tag p nonce) (s : State) : outline (bindStart via tag p nonce s) = outline s := by
  simp only [bindStart]
  split <;> simp

@[simp] theorem bindConfirm_outline (p ct sig) (s : State) : outline (bindConfirm p ct sig s).st = outline s := by
  simp only [bindConfirm]
  split <;> simp

@[simp] theorem installRange_outline (s : State) (slot n k) : outline (installRange s slot n k) = outline s := by simp [installRange]

@[simp] theorem installFabric_outline (s : State) (slot gen k) : outline (installFabric s slot gen k) = outline s := by
  simp only [installFabric]
  split <;> simp [outline_fields]

@[simp] theorem installKey_outline (s : State) (m owner origin party key) :
    outline (installKey s m owner origin party key) = outline s := by simp [installKey]

@[simp] theorem contribute_outline (s : State) (p m) : outline (contribute s p m) = outline s := by simp [contribute, outline_fields]

@[simp] theorem deliver_outline (p m) (s : State) : outline (deliver p m s).st = outline s := by
  simp only [deliver]
  split <;> simp

@[simp] theorem query_outline (p m) (s : State) : outline (query p m s).st = outline s := by simp [query]

@[simp] theorem spaceBind_outline (p m) (s : State) : outline (spaceBind p m s).st = outline s := by simp [spaceBind, outline_fields]

@[simp] theorem partyReply_outline (a : Answer) (via tag p) : outline (partyReply a via tag p) = outline a.st := by
  simp [partyReply]

@[simp] theorem keyMessage_outline (via tag p m) (f : State → Answer) (hf : ∀ t, outline (f t).st = outline t) (s : State) :
    outline (keyMessage via tag p m f s) = outline s := by
  unfold keyMessage
  split
  · exact partyTake_outline _ _ _ (fun t => by simp [hf]) s
  · rfl

/-! ### The control port -/

@[simp] theorem setupBusy_outline (s : State) (p) : outline (setupBusy s p) = outline s := by simp [setupBusy]

@[simp] theorem hello_outline (p h nonce) (s : State) : outline (hello p h nonce s) = outline s := by simp [hello]

@[simp] theorem kemCt_outline (p h ct) (s : State) : outline (kemCt p h ct s) = outline s := by simp [kemCt, outline_fields]

@[simp] theorem portCtrl_outline (target v) (s : State) : outline (portCtrl target v s) = outline s := by simp [portCtrl]

@[simp] theorem endSession_outline (p tag target) (s : State) : outline (endSession p tag target s) = outline s := by simp [endSession]

@[simp] theorem sessionFrame_outline (p h type tagOk) (f : State → State) (hf : ∀ t, outline (f t) = outline t) (s : State) :
    outline (sessionFrame p h type tagOk f s) = outline s := by simp [sessionFrame, hf]

@[simp] theorem lockWrite_outline (p v) (s : State) : outline (lockWrite p v s) = outline s := by simp [lockWrite, outline_fields]

@[simp] theorem flashStart_records (x w) : (flashStart x w).records.length = x.records.length := by simp [flashStart]

@[simp] theorem firmwareImage_outline (p tag image sig) (s : State) : outline (firmwareImage p tag image sig s) = outline s := by
  simp [firmwareImage, outline_fields]

/-! ### Registers -/

@[simp] theorem plain_outline (s : State) (w) : outline (plain s w).1 = outline s := by simp [plain]

@[simp] theorem read00_outline (s : State) (o) : outline (read00 s o).1 = outline s := by simp [read00]

@[simp] theorem read01_outline (s : State) (o) : outline (read01 s o).1 = outline s := by simp [read01]

@[simp] theorem read02_outline (s : State) (o) : outline (read02 s o).1 = outline s := by
  simp only [read02]
  repeat' split
  all_goals simp [outline_fields]

@[simp] theorem read03_outline (s : State) (o) : outline (read03 s o).1 = outline s := by
  simp only [read03]
  split <;> simp

@[simp] theorem read04_outline (s : State) (o) : outline (read04 s o).1 = outline s := by
  simp only [read04]
  repeat' split
  all_goals simp [outline_fields]

@[simp] theorem rangeRegs_outline (s : State) (n k) : outline (rangeRegs s n k).1 = outline s := by simp [rangeRegs, outline_fields]

@[simp] theorem read05_outline (s : State) (o) : outline (read05 s o).1 = outline s := by
  simp only [read05]
  repeat' split
  all_goals simp

@[simp] theorem read06_outline (s : State) (o) : outline (read06 s o).1 = outline s := by
  simp only [read06]
  repeat' split
  all_goals simp

@[simp] theorem read07_outline (s : State) (o) : outline (read07 s o).1 = outline s := by simp [read07, outline_fields]

@[simp] theorem i3cCountsClear_outline (s : State) : outline (i3cCountsClear s) = outline s := by simp [i3cCountsClear, outline_fields]

@[simp] theorem portRegs_outline (s : State) (p o) : outline (portRegs s p o).1 = outline s := by simp [portRegs]

@[simp] theorem read08_outline (s : State) (o) : outline (read08 s o).1 = outline s := by simp [read08]

@[simp] theorem read09_outline (s : State) (o) : outline (read09 s o).1 = outline s := by
  simp only [read09]
  repeat' split
  all_goals simp [outline_fields]

@[simp] theorem read0A_outline (s : State) (o) : outline (read0A s o).1 = outline s := by simp [read0A, outline_fields]

@[simp] theorem read0B_outline (s : State) (o) : outline (read0B s o).1 = outline s := by simp [read0B, outline_fields]

@[simp] theorem slotRegs_outline (s : State) (n k) : outline (slotRegs s n k).1 = outline s := by simp [slotRegs, outline_fields]

@[simp] theorem read0C_outline (s : State) (o) : outline (read0C s o).1 = outline s := by
  simp only [read0C]
  repeat' split
  all_goals simp

@[simp] theorem read0D_outline (s : State) (o) : outline (read0D s o).1 = outline s := by
  simp only [read0D]
  repeat' split
  all_goals simp [outline_fields]

@[simp] theorem read0E_outline (s : State) (o) : outline (read0E s o).1 = outline s := by
  simp only [read0E]
  repeat' split
  all_goals simp [outline_fields]

@[simp] theorem read0F_outline (s : State) (o) : outline (read0F s o).1 = outline s := by simp [read0F, outline_fields]

@[simp] theorem bandCmdWord_outline (s : State) (e b) : outline (bandCmdWord s e b).1 = outline s := by
  simp only [bandCmdWord]
  split <;> simp

@[simp] theorem readMxe_outline (s : State) (e o) : outline (readMxe s e o).1 = outline s := by
  simp only [readMxe]
  repeat' split
  all_goals simp [outline_fields]

@[simp] theorem regRead_outline (s : State) (off) : outline (regRead s off).1 = outline s := by
  simp only [regRead]
  split <;> simp

@[simp] theorem regReads_outline : ∀ n off (s : State), outline (regReads n off s).1 = outline s
  | 0, _, _ => rfl
  | n + 1, off, s => by simp [regReads, regReads_outline n]

@[simp] theorem regReadReq_outline (off count) (s : State) : outline (regReadReq off count s).st = outline s := by simp [regReadReq]

@[simp] theorem regReadTurn_outline (p tag off count row) (s : State) : outline (regReadTurn p tag off count row s) = outline s := by
  simp [regReadTurn]

@[simp] theorem done_outline (s : State) : outline (done s).st = outline s := by simp [done]

@[simp] theorem write02_outline (o v) (s : State) : outline (write02 o v s).st = outline s := by simp [write02, outline_fields]

@[simp] theorem write04_outline (o v) (s : State) : outline (write04 o v s).st = outline s := by
  simp only [write04]
  repeat' split
  all_goals simp [outline_fields]

@[simp] theorem write05_outline (o v) (s : State) : outline (write05 o v s).st = outline s := by simp [write05, outline_fields]

@[simp] theorem write08_outline (p o v) (s : State) : outline (write08 p o v s).st = outline s := by
  simp only [write08]
  repeat' split
  all_goals simp

@[simp] theorem write09_outline (o v) (s : State) : outline (write09 o v s).st = outline s := by
  simp only [write09]
  repeat' split
  all_goals simp [outline_fields]

@[simp] theorem write0A_outline (o v) (s : State) : outline (write0A o v s).st = outline s := by simp [write0A, outline_fields]

@[simp] theorem write0C_outline (o v) (s : State) : outline (write0C o v s).st = outline s := by
  simp only [write0C]
  repeat' split
  all_goals simp [outline_fields]

@[simp] theorem writeMxe_outline (e o v) (s : State) : outline (writeMxe e o v s).st = outline s := by simp [writeMxe, outline_fields]

@[simp] theorem writeEnds_outline (off v) (s : State) : outline (writeEnds off v s) = outline s := by
  simp only [writeEnds]
  split <;> simp

/-! ### What waits -/

@[simp] theorem againSettle_outline (p tag) (f : State → Answer) (hf : ∀ t, outline (f t).st = outline t) (s : State) :
    outline (againSettle p tag f s) = outline s := by simp [againSettle, hf]

@[simp] theorem drawFail_outline (i) (s : State) : outline (drawFail i s) = outline s := by
  simp only [drawFail]
  split <;> simp

@[simp] theorem quoteFail_outline (s : State) (r) : outline (quoteFail s r) = outline s := by
  simp only [quoteFail]
  split <;> simp [outline_fields]

end Sys2Proof.Machine
end


section
/-! SUPPORT. What every operation keeps: the queue, and the hardware's counts where the state has them. An operation with the outline of its
state keeps both; what is left are the operations that build a list anew at its hardware length. The statements take any outline that
the state before has kept, so that `simp` chains them. -/

namespace Sys2Proof.Machine

/-- The counts of the hardware: `shaped` of the outline's state. -/
def Outline.full (o : Outline) : Prop :=
  o.engines = 64 ∧ o.islands = 125 ∧ o.links = 48 ∧ o.spaces = 16 ∧ o.keySlots = 256 ∧ o.channels = 8 ∧ o.ranges = 33 ∧ o.records = 8

theorem shaped_iff_full (s : State) : shaped s ↔ (outline s).full := Iff.rfl

/-- From an outline to a later one: the same queue, and the hardware's counts if it had them before. -/
structure Outline.Kept (a b : Outline) : Prop where
  queue : b.queue = a.queue
  full : a.full → b.full

@[simp] theorem Outline.Kept.refl (a : Outline) : a.Kept a := ⟨rfl, id⟩

theorem Outline.Kept.trans {a b c : Outline} (h : a.Kept b) (k : b.Kept c) : a.Kept c := ⟨k.queue.trans h.queue, k.full ∘ h.full⟩

@[simp] theorem kept_ite {a x y : Outline} {c : Prop} [Decidable c] :
    a.Kept (if c then x else y) ↔ (c → a.Kept x) ∧ (¬c → a.Kept y) := by
  split <;> simp [*]

variable {a : Outline} {s : State}

/-! ### Runs and management requests -/

theorem foldl_keeps {α : Type} {f : State → α → State} (hf : ∀ t x, a.Kept (outline t) → a.Kept (outline (f t x))) :
    ∀ (l : List α) (s : State), a.Kept (outline s) → a.Kept (outline (l.foldl f s))
  | [], _, h => h
  | x :: l, s, h => foldl_keeps hf l _ (hf s x h)

@[simp] theorem mgmtRun_keeps (p tag) {f : State → Answer} (h : a.Kept (outline s)) (hf : a.Kept (outline (f s).st)) :
    a.Kept (outline (mgmtRun p tag f s)) := by
  simp [mgmtRun, h, hf]

@[simp] theorem lockTest_keeps (p) {f : State → Answer} (h : a.Kept (outline s)) (hf : a.Kept (outline (f s).st)) :
    a.Kept (outline (lockTest p f s).st) := by
  simp [lockTest, h, hf]

@[simp] theorem mgmtAgain_keeps (p tag) {f : State → Answer} (h : a.Kept (outline s)) (hf : a.Kept (outline (f s).st)) :
    a.Kept (outline (mgmtAgain p tag f s)) := mgmtRun_keeps p tag h (lockTest_keeps p h hf)

@[simp] theorem mgmtTurn_keeps (p row) {f : State → State} (h : a.Kept (outline s)) (hf : a.Kept (outline (f s))) :
    a.Kept (outline (mgmtTurn p row f s)) := by
  simp [mgmtTurn, h, hf]

@[simp] theorem mgmtWrite_keeps (p tag row) {f : State → Answer} (h : a.Kept (outline s)) (hf : a.Kept (outline (f s).st)) :
    a.Kept (outline (mgmtWrite p tag row f s)) := mgmtTurn_keeps p row h (mgmtAgain_keeps p tag h hf)

@[simp] theorem mgmtDraw_keeps (p tag row) {f : State → Answer} (h : a.Kept (outline s)) (hf : a.Kept (outline (f s).st)) :
    a.Kept (outline (mgmtDraw p tag row f s)) := by
  simp [mgmtDraw, h, mgmtWrite_keeps p tag row h hf]

theorem keyMessage_keeps (via tag p m) {f : State → Answer} (h : a.Kept (outline s))
    (hf : ∀ t, a.Kept (outline t) → a.Kept (outline (f t).st)) : a.Kept (outline (keyMessage via tag p m f s)) := by
  unfold keyMessage partyTake
  dsimp only
  repeat' split
  · exact h
  · simpa using h
  · rw [partyReply_outline]
    exact hf _ (by simpa [outline_fields] using h)
  · exact h

theorem jtagRun_keeps (ir) {f : State → State} (h : a.Kept (outline s)) (hf : ∀ t, a.Kept (outline t) → a.Kept (outline (f t))) :
    a.Kept (outline (jtagRun ir f s)) := by
  simp [jtagRun, h, hf]

/-! ### Lists built anew at their hardware length -/

@[simp] theorem linksStart_keeps (h : a.Kept (outline s)) : a.Kept (outline (linksStart s)) :=
  h.trans ⟨by simp [linksStart, outline_fields], fun hs => by simp_all [linksStart, Outline.full, outline_fields]⟩

@[simp] theorem holdOthers_keeps (h : a.Kept (outline s)) : a.Kept (outline (holdOthers s)) :=
  h.trans ⟨by simp [holdOthers, outline_fields], fun hs => by simp_all [holdOthers, Outline.full, outline_fields]⟩

@[simp] theorem promote_keeps (h : a.Kept (outline s)) : a.Kept (outline (promote s)) :=
  h.trans ⟨by simp [promote, outline_fields], fun hs => by simp_all [promote, Outline.full, outline_fields]⟩

@[simp] theorem slotStrike_keeps (f) (h : a.Kept (outline s)) : a.Kept (outline (slotStrike s f)) :=
  h.trans ⟨by simp [slotStrike, outline_fields], fun hs => by simp_all [slotStrike, Outline.full, outline_fields]⟩

@[simp] theorem capIslands_keeps (h : a.Kept (outline s)) : a.Kept (outline (capIslands s)) :=
  h.trans ⟨by simp [capIslands, outline_fields], fun hs => by simp_all [capIslands, Outline.full, outline_fields]⟩

@[simp] theorem rigRefilled_keeps (h : a.Kept (outline s)) : a.Kept (outline (rigRefilled s)) := by
  unfold rigRefilled
  split
  · exact h
  · split
    · exact h
    · rw [rerole_outline]
      apply capIslands_keeps
      rw [relinkAll_outline, outline_foldl _ refillNew_outline]
      exact h.trans ⟨by simp [outline_fields], fun hs => by simp_all [Outline.full, outline_fields]⟩

@[simp] theorem takeMeasured_keeps (m) (h : a.Kept (outline s)) : a.Kept (outline (takeMeasured s m)) := by
  unfold takeMeasured
  extract_lets s1 t g0 g
  have ht : outline t = outline s := by simp only [t, s1]; split <;> simp [outline_fields]
  rw [← ht] at h
  split
  · exact h.trans ⟨by simp [outline_fields], fun hs => by simp_all [Outline.full, outline_fields, g, g0]⟩
  · simp [h, g, g0, outline_fields]

/-! ### Power-up, resets and strikes -/

@[simp] theorem bootStep5_keeps (h : a.Kept (outline s)) : a.Kept (outline (bootStep5 s)) := by
  unfold bootStep5
  rw [bootDone_outline]
  apply linksStart_keeps
  refine h.trans ⟨by simp [outline_fields, -List.reduceReplicate], fun hs => ?_⟩
  split <;> simp_all [Outline.full, outline_fields, -List.reduceReplicate]

@[simp] theorem bootStep9_keeps (h : a.Kept (outline s)) : a.Kept (outline (bootStep9 s)) :=
  h.trans ⟨by simp [bootStep9, outline_fields], fun hs => by simp_all [bootStep9, Outline.full, outline_fields]⟩

@[simp] theorem bootFrom6_keeps (b) (h : a.Kept (outline s)) : a.Kept (outline (bootFrom6 s b)) := by
  simp [bootFrom6, h, outline_fields]

@[simp] theorem bootFrom3_keeps (b) (h : a.Kept (outline s)) : a.Kept (outline (bootFrom3 s b)) := by
  simp [bootFrom3, h, outline_fields]

@[simp] theorem restart_keeps (b) (h : a.Kept (outline s)) : a.Kept (outline (restart s b)) := by
  simp [restart, h]

/-- The outline after the logic has lost its power: every list at its reset length but the life-cycle records, which are fuses. -/
def Outline.afterLoss (o : Outline) : Outline := ⟨o.queue, 64, 125, 48, 16, 256, 8, 33, o.records⟩

theorem Outline.Kept.afterLoss {b : Outline} (h : a.Kept b) : a.Kept b.afterLoss :=
  h.trans ⟨rfl, fun ⟨_, _, _, _, _, _, _, hr⟩ => ⟨rfl, rfl, rfl, rfl, rfl, rfl, rfl, hr⟩⟩

theorem standbyKeep_outline (s : State) : outline (standbyKeep s) = (outline s).afterLoss := by
  simp [standbyKeep, State.reset, keysKeep, gafKeep, lcKeep, Outline.afterLoss, outline_fields, -List.reduceReplicate]

theorem stbyGone_outline (s : State) : outline (stbyGone s) = (outline s).afterLoss := by
  simp [stbyGone, standbyKeep, State.reset, lcKeep, Outline.afterLoss, outline_fields, -List.reduceReplicate]

theorem powerDown_outline (r) (s : State) : outline (powerDown r s) = (outline s).afterLoss := by
  cases r with
  | stby => exact stbyGone_outline s
  | main =>
    simp [powerDown, stbyGone, standbyKeep, State.reset, keysKeep, gafKeep, lcKeep, Outline.afterLoss, outline_fields,
      -List.reduceReplicate]

@[simp] theorem standbyKeep_keeps (h : a.Kept (outline s)) : a.Kept (outline (standbyKeep s)) := standbyKeep_outline s ▸ h.afterLoss

@[simp] theorem stbyGone_keeps (h : a.Kept (outline s)) : a.Kept (outline (stbyGone s)) := stbyGone_outline s ▸ h.afterLoss

@[simp] theorem powerDown_keeps (r) (h : a.Kept (outline s)) : a.Kept (outline (powerDown r s)) := powerDown_outline r s ▸ h.afterLoss

@[simp] theorem warmStart_keeps (cause) (h : a.Kept (outline s)) : a.Kept (outline (warmStart s cause)) := by
  simp [warmStart, h, outline_fields]

@[simp] theorem resetAtOnce_keeps (cause b) (h : a.Kept (outline s)) : a.Kept (outline (resetAtOnce s cause b)) := by
  simp [resetAtOnce, h]

@[simp] theorem strike_keeps (cause) (h : a.Kept (outline s)) : a.Kept (outline (strike s cause)) := by
  simp [strike, h, outline_fields]

@[simp] theorem burstFail_keeps (d x) (h : a.Kept (outline s)) : a.Kept (outline (burstFail s d x)) := by
  simp [burstFail, h]

@[simp] theorem islandFault_keeps (n detail ok b) (h : a.Kept (outline s)) : a.Kept (outline (islandFault s n detail ok b)) := by
  simp [islandFault, h, outline_fields]

/-! ### The life cycle and the debug grant -/

@[simp] theorem lcEnd_keeps (g) (h : a.Kept (outline s)) : a.Kept (outline (lcEnd s g)) := by
  simp [lcEnd, h, outline_fields]

@[simp] theorem lcTick_keeps (g) (h : a.Kept (outline s)) : a.Kept (outline (lcTick s g)) := by
  unfold lcTick
  dsimp only
  split
  · simp [h, outline_fields]
  · split
    · simp [h, outline_fields]
    · split
      · exact lcEnd_keeps g h
      · next e he =>
        have hr := lcSteps_records _ _ e (List.mem_of_getElem? he)
        simp [h, hr, outline_fields]

@[simp] theorem tick_keeps (h : a.Kept (outline s)) : a.Kept (outline (tick s)) := by
  unfold tick
  split
  · simp [h]
  · split <;> simp [h]

@[simp] theorem scrapNow_keeps (h : a.Kept (outline s)) : a.Kept (outline (scrapNow s)) := by
  simp [scrapNow, h, outline_fields]

@[simp] theorem lcPort_keeps (target confirm b) (h : a.Kept (outline s)) : a.Kept (outline (lcPort target confirm b s)) := by
  simp [lcPort, h]

@[simp] theorem lcScrap_keeps (confirm) (h : a.Kept (outline s)) : a.Kept (outline (lcScrap confirm s).st) := by
  simp [lcScrap, h]

@[simp] theorem debugStrike_keeps (keep b) (hk : ∀ x, (keep x).records.length = x.records.length) (h : a.Kept (outline s)) :
    a.Kept (outline (debugStrike s keep b)) := by
  simp [debugStrike, h, hk, outline_fields]

@[simp] theorem kept_ite_fst {α : Type} {c : Prop} [Decidable c] {x y : State × α} :
    a.Kept (outline (if c then x else y).1) ↔ (c → a.Kept (outline x.1)) ∧ (¬c → a.Kept (outline y.1)) := by
  split <;> simp [*]

@[simp] theorem acceptGo_keeps (c b) (h : a.Kept (outline s)) : a.Kept (outline (acceptGo s c b).1) := by
  simp [acceptGo, h, outline_fields]

@[simp] theorem acceptToken_keeps (b) (h : a.Kept (outline s)) : a.Kept (outline (acceptToken b s).st) := by
  unfold acceptToken
  repeat' split
  all_goals simp [h]

/-! ### Keys, rigs and spaces -/

@[simp] theorem zeroizeKey_keeps (slot) (h : a.Kept (outline s)) : a.Kept (outline (zeroizeKey slot s).st) := by
  simp [zeroizeKey, h]

@[simp] theorem partyZeroize_keeps (p m) (h : a.Kept (outline s)) : a.Kept (outline (partyZeroize p m s).st) := by
  simp [partyZeroize, h]

@[simp] theorem keyMsgDo_keeps (p m) (h : a.Kept (outline s)) : a.Kept (outline (keyMsgDo p m s).st) := by
  simp [keyMsgDo, h]

@[simp] theorem commitStart_keeps (new) (h : a.Kept (outline s)) : a.Kept (outline (commitStart s new)) := by
  simp [commitStart, h, outline_fields]

@[simp] theorem rigCommit_keeps (h : a.Kept (outline s)) : a.Kept (outline (rigCommit s).st) := by
  unfold rigCommit
  split
  · simp [h]
  · split <;> simp [h]

@[simp] theorem endCompact_keeps (h : a.Kept (outline s)) : a.Kept (outline (endCompact s)) := by
  simp [endCompact, h, outline_fields]

@[simp] theorem strikeForSpace_keeps (party) (h : a.Kept (outline s)) : a.Kept (outline (strikeForSpace s party)) := by
  simp [strikeForSpace, h]

@[simp] theorem spaceDestroyDone_keeps (slot) (h : a.Kept (outline s)) : a.Kept (outline (spaceDestroyDone slot s)) := by
  simp [spaceDestroyDone, h, outline_fields]

/-! ### Pairing and promotion -/

@[simp] theorem resolve_keeps (toCommit) (h : a.Kept (outline s)) : a.Kept (outline (resolve toCommit s).st) := by
  unfold resolve
  split
  · simp [h]
  · split <;> simp [h]

@[simp] theorem decidePromote_keeps (st) (h : a.Kept (outline s)) : a.Kept (outline (decidePromote s st)) := by
  simp [decidePromote, h]

@[simp] theorem probeTimeout_keeps (h : a.Kept (outline s)) : a.Kept (outline (probeTimeout s)) := by
  simp [probeTimeout, h]

@[simp] theorem leaveReceive_keeps (src) (h : a.Kept (outline s)) : a.Kept (outline (leaveReceive s src)) := by
  simp [leaveReceive, h]

@[simp] theorem offerCheck_keeps (o) (h : a.Kept (outline s)) : a.Kept (outline (offerCheck s o)) := by
  unfold offerCheck
  split
  · simp [h]
  · simp [h, outline_fields]

@[simp] theorem offerReceive_keeps (o) (h : a.Kept (outline s)) : a.Kept (outline (offerReceive s o)) := by
  simp [offerReceive, h]

@[simp] theorem offerSend_keeps (quote) (h : a.Kept (outline s)) : a.Kept (outline (offerSend quote s)) := by
  unfold offerSend
  dsimp only
  split
  · exact h
  · split <;> simp [h]

@[simp] theorem quoteDeliver_keeps (r q) (h : a.Kept (outline s)) : a.Kept (outline (quoteDeliver s r q)) := by
  unfold quoteDeliver
  split <;> simp [h, outline_fields]

@[simp] theorem quoteFinish_keeps (h : a.Kept (outline s)) : a.Kept (outline (quoteFinish s)) := by
  unfold quoteFinish
  split <;> simp [h, outline_fields]

/-! ### Register writes -/

@[simp] theorem write00_keeps (o v b) (h : a.Kept (outline s)) : a.Kept (outline (write00 o v b s).st) := by
  simp [write00, h]

@[simp] theorem write01_keeps (o v) (h : a.Kept (outline s)) : a.Kept (outline (write01 o v s).st) := by
  simp [write01, h]

@[simp] theorem write06_keeps (o v) (h : a.Kept (outline s)) : a.Kept (outline (write06 o v s).st) := by
  unfold write06
  dsimp only
  split
  · split <;> simp [h]
  · simp only [outline_ite_answer, kept_ite]
    refine ⟨fun _ => by simp [h, outline_fields], fun _ => ⟨fun _ => by simp [h, outline_fields], fun _ => ?_⟩⟩
    split <;> simp [h, outline_fields]

@[simp] theorem write07_keeps (o v b) (h : a.Kept (outline s)) : a.Kept (outline (write07 o v b s).st) := by
  simp [write07, h]

@[simp] theorem write0B_keeps (o v) (h : a.Kept (outline s)) : a.Kept (outline (write0B o v s).st) := by
  unfold write0B
  dsimp only
  split
  · split <;> simp [h]
  · simp [h, outline_fields]

@[simp] theorem regWrite_keeps (p off v b) (h : a.Kept (outline s)) : a.Kept (outline (regWrite p off v b s).st) := by
  unfold regWrite
  repeat' split
  all_goals simp [h, outline_fields]

@[simp] theorem regWriteTurn_keeps (p tag off v b) (h : a.Kept (outline s)) : a.Kept (outline (regWriteTurn p tag off v b s)) := by
  simp [regWriteTurn, h, mgmtRun_keeps]

@[simp] theorem regWriteReq_keeps (p tag off v b) (h : a.Kept (outline s)) : a.Kept (outline (regWriteReq p tag off v b s)) := by
  unfold regWriteReq
  split
  · simp [h]
  · simp [h]

@[simp] theorem regPortGo_keeps (off write b) (h : a.Kept (outline s)) : a.Kept (outline (regPortGo off write b s)) := by
  unfold regPortGo
  split <;> simp [h]

@[simp] theorem regPort_keeps (off write b) (h : a.Kept (outline s)) : a.Kept (outline (regPort off write b s)) := by
  simp [regPort, h]

/-! ### What waited -/

@[simp] theorem rowGo_keeps (i) (h : a.Kept (outline s)) : a.Kept (outline (rowGo i s)) := by
  cases i
  case dbgBufAccess p tag write => cases write <;> simp [rowGo, h]
  all_goals simp [rowGo, h, mgmtAgain_keeps, againSettle]

@[simp] theorem rowsGo_keeps (h : a.Kept (outline s)) : a.Kept (outline (rowsGo s)) :=
  foldl_keeps (fun t i ht => by simp [ht]) _ _ (by simp [h, outline_fields])

@[simp] theorem fillGo_keeps (i) (h : a.Kept (outline s)) : a.Kept (outline (fillGo i s)) := by
  cases i <;> simp [fillGo, h]

@[simp] theorem fillDone_keeps (n) (h : a.Kept (outline s)) : a.Kept (outline (fillDone n s)) := by
  unfold fillDone
  apply rowsGo_keeps
  rw [evalWaits_outline]
  exact foldl_keeps (fun t i ht => by simp [ht]) _ _ (by simp [h, outline_fields])

@[simp] theorem entropyPass_keeps (h : a.Kept (outline s)) : a.Kept (outline (entropyPass s)) := by
  simp [entropyPass, h, outline_fields]

@[simp] theorem drawTimeout_keeps (h : a.Kept (outline s)) : a.Kept (outline (drawTimeout s)) := by
  unfold drawTimeout
  split
  · exact h
  · split <;> simp [h, outline_fields]

end Sys2Proof.Machine
end

section
/-! CLAIMS. Every command answers a next state, with the rest of the queue and the hardware's counts. -/

namespace Sys2Proof.Machine

/-- Every command answers a next state and keeps the queue behind it and the hardware's counts. The rows that run a command of a queue act
only when the command is there to run; of the rest, each is a shared operation. -/
theorem exec_keeps (i : Instr) (s : State) : ∃ t, exec i s = .next t ∧ (outline s).Kept (outline t) := by
  cases i
  all_goals refine ⟨_, rfl, ?_⟩
  case matmul | matmulResume | vector | quantize | random | redInit | redAdd | redRead | nop | copy | stageIn | stageOut | transpose |
      gather | scatter | repack | releaseCopy | scrub | update | normAcc | cut | takeRecord | collective | normReduce | bridgeBurstReceive |
      dbgBufAccess =>
    split <;> simp
  case collectiveSeqReady =>
    split
    · simp
    · split <;> simp
  case pendingPriority =>
    split
    · simp
    · split <;> simp [outline_fields]
  case resolve => exact mgmtTurn_keeps _ _ (.refl _) (by simp)
  case partyMessage inner =>
    cases inner with
    | key m => exact keyMessage_keeps _ _ _ _ (.refl _) fun t ht => keyMsgDo_keeps _ m ht
    | space => simp
  case partyZeroize => exact keyMessage_keeps _ _ _ _ (.refl _) fun t ht => partyZeroize_keeps _ _ ht
  case lcPort => exact jtagRun_keeps _ (.refl _) fun t ht => by simp [ht]
  case regPort => simpa using jtagRun_keeps _ (.refl _) fun t ht => regPort_keeps _ _ _ ht
  all_goals simp [outline_fields]

/-! ### Steps and runs -/

/-- One step of a queue that holds a command: a next state with the rest of the queue, and with the hardware's counts where they were. -/
theorem step_cons_keeps (s : State) (c : Instr) (rest : List Instr) (h : s.pending = c :: rest) :
    ∃ t, step s = .next t ∧ t.pending = rest ∧ (shaped s → shaped t) := by
  obtain ⟨t, hstep, hqueue, hfull⟩ := exec_keeps c (s.withQueue rest)
  exact ⟨t, (step_cons s c rest h).trans hstep, hqueue, hfull⟩

/-- One step of any state: with nothing queued too, the block goes on and keeps the hardware's counts. -/
theorem step_shaped (s : State) : ∃ t, step s = .next t ∧ (shaped s → shaped t) := by
  cases h : s.pending with
  | nil => exact ⟨tick s, step_empty s h, (tick_keeps (.refl _)).full⟩
  | cons c rest =>
    obtain ⟨t, hstep, -, hshape⟩ := step_cons_keeps s c rest h
    exact ⟨t, hstep, hshape⟩

/-- As many steps as the queue has commands answer a next state with nothing queued. -/
theorem run_empties_queue (q : List Instr) : ∀ s : State, s.pending = q → ∃ t, core.run q.length s = .next t ∧ t.pending = [] := by
  induction q with
  | nil => exact fun s h => ⟨s, rfl, h⟩
  | cons c rest ih =>
    intro s h
    obtain ⟨u, hstep, hqueue, -⟩ := step_cons_keeps s c rest h
    obtain ⟨t, hrun, hempty⟩ := ih u hqueue
    refine ⟨t, ?_, hempty⟩
    have hcore : core.step s = .next u := hstep
    simpa [Host.Core.run, hcore] using hrun

/-- Settles O14: one command is one `exec`, which keeps the rest of the queue; a queue is emptied by induction on its commands. -/
theorem everyStepTakesOneCommand : Obligations.EveryStepTakesOneCommand := by
  refine ⟨fun s c rest h => ?_, fun s => run_empties_queue s.pending s rfl⟩
  obtain ⟨t, hstep, hqueue, -⟩ := step_cons_keeps s c rest h
  exact ⟨t, hstep, hqueue⟩

/-- Settles O16: the counts are part of the outline, which every command keeps. -/
theorem everyStepKeepsTheShape : Obligations.EveryStepKeepsTheShape := by
  intro s t hs ht
  obtain ⟨u, hu, hshape⟩ := step_shaped s
  obtain rfl : u = t := by simpa [hu] using ht
  exact hshape hs

end Sys2Proof.Machine
end

section
/-! SUPPORT. What a register read can change: counters that it clears, cursors that it moves, and what a debug read of memory counts. The
management lock, the bytes of main memory and the commands stay; over the sideband the gaffer's counters alone change. -/

namespace Sys2Proof.Machine

/-! ### Memory reads leave the ports and the spaces -/

/-- The port module and the spaces are as they were. -/
structure PortsKept (s t : State) : Prop where
  lmx : t.lmx = s.lmx
  sp : t.sp = s.sp

theorem PortsKept.refl (s : State) : PortsKept s s := ⟨rfl, rfl⟩

theorem PortsKept.trans {a b c : State} (h : PortsKept a b) (k : PortsKept b c) : PortsKept a c := ⟨k.lmx.trans h.lmx, k.sp.trans h.sp⟩

/-- An operation that keeps both, run on a state that differs elsewhere. -/
theorem PortsKept.of_eq {s u t : State} (h : PortsKept u t) (hl : u.lmx = s.lmx) (hs : u.sp = s.sp) : PortsKept s t :=
  .trans ⟨hl, hs⟩ h

theorem cacheAdd_ports (s : State) (frame : Nat) (x : CacheLine) : PortsKept s (cacheAdd s frame x) := by
  unfold cacheAdd cacheRoom
  dsimp only
  repeat' split
  all_goals exact ⟨rfl, rfl⟩

theorem fetchNode_ports (quiet : Bool) (s : State) (n stack frame : Nat) (mac : Bool) (level index : Nat) :
    PortsKept s (fetchNode quiet s n stack frame mac level index).1 := by
  unfold fetchNode
  dsimp only
  split
  · exact ⟨rfl, rfl⟩
  · exact (cacheAdd_ports _ _ _).of_eq rfl rfl

theorem ensureNode_ports (quiet : Bool) (n stack i : Nat) : ∀ (k level : Nat) (s : State),
    PortsKept s (ensureNode quiet n stack i k level s).1
  | 0, _, s => .refl s
  | k + 1, level, s => by
    simp only [ensureNode]
    split
    · exact ⟨rfl, rfl⟩
    · split
      · exact (ensureNode_ports quiet n stack i k _ s).trans (fetchNode_ports _ _ _ _ _ _ _ _)
      · exact ensureNode_ports quiet n stack i k _ s

theorem fetchPath_ports (quiet : Bool) (s : State) (n a : Nat) : PortsKept s (fetchPath quiet s n a).1 := by
  have h := ensureNode_ports quiet n (stackOf a) (frameIndex (rangeCfg s n) a) (levelsOf (rangeCfg s n)).length 0 s
  unfold fetchPath
  dsimp only
  split
  · exact .refl s
  · split
    · split
      · exact h.trans ⟨rfl, rfl⟩
      · split <;> exact h.trans (fetchNode_ports _ _ _ _ _ _ _ _)
    · exact h

theorem readUnit_ports (quiet : Bool) (s : State) (n a : Nat) : PortsKept s (readUnit quiet s n a).st := by
  have h : ∀ m, PortsKept s (fetchPath quiet { s with mem := m } n a).1 := fun m => (fetchPath_ports quiet _ n a).of_eq rfl rfl
  unfold readUnit
  dsimp only
  repeat' split
  any_goals exact h _
  all_goals exact ⟨rfl, rfl⟩

theorem failRange_ports (s : State) (w : Who) (n a : Nat) (st : Status) (level : Nat) : PortsKept s (failRange s w n a st level) := by
  unfold failRange
  dsimp only
  split <;> exact ⟨rfl, rfl⟩

theorem readInUnit_ports (s : State) (w : Who) (n a size : Nat) : PortsKept s (readInUnit s w n a size).st := by
  have h := readUnit_ports false s n (a / unitBytes (rangeCfg s n) * unitBytes (rangeCfg s n))
  unfold readInUnit
  dsimp only
  split
  · split
    · dsimp only
      exact (failRange_ports _ _ _ _ _ _).of_eq rfl rfl
    · exact ⟨rfl, rfl⟩
  · split
    · split
      · exact h
      · exact h.trans ⟨rfl, rfl⟩
    · exact h.trans (failRange_ports _ _ _ _ _ _)

theorem readPhysF_ports (w : Who) : ∀ (fuel a size : Nat) (s : State), PortsKept s (readPhysF w fuel a size s).st
  | 0, _, _, s => .refl s
  | fuel + 1, a, size, s => by
    simp only [readPhysF]
    split
    · exact .refl s
    · split
      · split
        · exact (readInUnit_ports s w _ a _).trans (readPhysF_ports w fuel _ _ _)
        · exact readInUnit_ports s w _ a _
      · exact .refl s
      · exact .refl s

/-! ### What each block's read keeps -/

/-- The lock, the bytes of main memory and the commands are as they were. -/
structure RegReadKept (s t : State) : Prop where
  lock : t.lmx.lock = s.lmx.lock
  cells : t.mem.cells = s.mem.cells
  cmds : t.sp.cmds = s.sp.cmds

@[simp] theorem RegReadKept.refl (s : State) : RegReadKept s s := ⟨rfl, rfl, rfl⟩

theorem RegReadKept.trans {a b c : State} (h : RegReadKept a b) (k : RegReadKept b c) : RegReadKept a c :=
  ⟨k.lock.trans h.lock, k.cells.trans h.cells, k.cmds.trans h.cmds⟩

theorem RegReadKept.ite {s : State} {c : Prop} [Decidable c] {p q : State × Word} (hp : RegReadKept s p.1) (hq : RegReadKept s q.1) :
    RegReadKept s (if c then p else q).1 := by
  split
  · exact hp
  · exact hq

theorem PortsKept.regRead {s t : State} (h : PortsKept s t) (hc : t.mem.cells = s.mem.cells) : RegReadKept s t :=
  ⟨by rw [h.lmx], hc, by rw [h.sp]⟩

theorem debugCount_kept (s : State) (a : Nat) : RegReadKept s (debugCount s a) := by
  unfold debugCount
  dsimp only
  split <;> split <;> exact ⟨rfl, rfl, rfl⟩

@[simp] theorem winRead_kept (s : State) : RegReadKept s (winRead s).st := by
  have hcount := debugCount_kept s s.ciph.winAddr
  have hread : RegReadKept s (debugRead s s.ciph.winAddr).st := by
    unfold debugRead
    dsimp only
    split
    · split
      · exact hcount
      · exact hcount.trans ((readPhysF_ports _ _ _ _ _).regRead (readPhys_cells _ _ _ _))
    · exact hcount
  exact hread.trans ⟨rfl, rfl, rfl⟩

theorem dbgDataRead_kept (s : State) : RegReadKept s (dbgDataRead s).st := by
  unfold dbgDataRead
  split <;> exact ⟨rfl, rfl, rfl⟩

@[simp] theorem portMod_kept (s : State) (p : Port) (f : PortSt → PortSt) : RegReadKept s (portMod s p f) := ⟨portSet_lock _ _ _, rfl, rfl⟩

@[simp] theorem portRegs_kept (s : State) (p : Port) (o : Nat) : RegReadKept s (portRegs s p o).1 := by
  unfold portRegs
  dsimp only [plain]
  repeat' with_reducible apply RegReadKept.ite
  all_goals simp

theorem read02_kept (s : State) (o : Nat) : RegReadKept s (read02 s o).1 := by
  unfold read02
  dsimp only [plain]
  repeat' with_reducible apply RegReadKept.ite
  repeat' split
  all_goals exact ⟨rfl, rfl, rfl⟩

theorem read03_kept (s : State) (o : Nat) : RegReadKept s (read03 s o).1 := by
  unfold read03
  dsimp only [plain]
  split
  all_goals exact ⟨rfl, rfl, rfl⟩

theorem read04_kept (s : State) (o : Nat) : RegReadKept s (read04 s o).1 := by
  unfold read04
  dsimp only [plain]
  repeat' with_reducible apply RegReadKept.ite
  repeat' split
  all_goals exact ⟨rfl, rfl, rfl⟩

@[simp] theorem rangeRegs_kept (s : State) (n k : Nat) : RegReadKept s (rangeRegs s n k).1 := by
  unfold rangeRegs
  dsimp only [plain]
  repeat' with_reducible apply RegReadKept.ite
  all_goals exact ⟨rfl, rfl, rfl⟩

theorem read05_kept (s : State) (o : Nat) : RegReadKept s (read05 s o).1 := by
  unfold read05
  dsimp only [plain]
  repeat' with_reducible apply RegReadKept.ite
  repeat' split
  all_goals simp

theorem read06_kept (s : State) (o : Nat) : RegReadKept s (read06 s o).1 := by
  unfold read06
  dsimp only [plain]
  repeat' with_reducible apply RegReadKept.ite
  repeat' split
  all_goals exact ⟨rfl, rfl, rfl⟩

theorem read07_kept (s : State) (o : Nat) : RegReadKept s (read07 s o).1 := by
  unfold read07
  dsimp only [plain]
  repeat' with_reducible apply RegReadKept.ite
  any_goals exact dbgDataRead_kept s
  all_goals exact ⟨rfl, rfl, rfl⟩

theorem read08_kept (s : State) (o : Nat) : RegReadKept s (read08 s o).1 := by
  unfold read08
  dsimp only [plain]
  repeat' with_reducible apply RegReadKept.ite
  any_goals exact portRegs_kept s _ _
  all_goals exact ⟨rfl, rfl, rfl⟩

theorem read09_kept (s : State) (o : Nat) : RegReadKept s (read09 s o).1 := by
  unfold read09
  dsimp only [plain]
  repeat' with_reducible apply RegReadKept.ite
  repeat' split
  all_goals exact ⟨rfl, rfl, rfl⟩

theorem read0A_kept (s : State) (o : Nat) : RegReadKept s (read0A s o).1 := by
  unfold read0A
  dsimp only [plain]
  repeat' with_reducible apply RegReadKept.ite
  all_goals exact ⟨rfl, rfl, rfl⟩

theorem read0B_kept (s : State) (o : Nat) : RegReadKept s (read0B s o).1 := by
  unfold read0B
  dsimp only [plain]
  repeat' with_reducible apply RegReadKept.ite
  all_goals exact ⟨rfl, rfl, rfl⟩

theorem read0C_kept (s : State) (o : Nat) : RegReadKept s (read0C s o).1 := by
  unfold read0C slotRegs
  dsimp only [plain]
  repeat' with_reducible apply RegReadKept.ite
  repeat' split
  all_goals exact ⟨rfl, rfl, rfl⟩

theorem read0D_kept (s : State) (o : Nat) : RegReadKept s (read0D s o).1 := by
  unfold read0D
  dsimp only [plain]
  repeat' with_reducible apply RegReadKept.ite
  repeat' split
  all_goals exact ⟨rfl, rfl, rfl⟩

/-- The telemetry block clears the gaffer's counters and nothing else. -/
theorem read0E_gaf (s : State) (o : Nat) : ∃ g, (read0E s o).1 = { s with gaf := g } := by
  unfold read0E
  dsimp only [plain]
  repeat' split
  all_goals exact ⟨_, rfl⟩

theorem read0F_kept (s : State) (o : Nat) : RegReadKept s (read0F s o).1 := by
  unfold read0F
  dsimp only [plain]
  repeat' with_reducible apply RegReadKept.ite
  all_goals exact ⟨rfl, rfl, rfl⟩

theorem readMxe_kept (s : State) (e o : Nat) : RegReadKept s (readMxe s e o).1 := by
  unfold readMxe bandCmdWord
  dsimp only [plain]
  repeat' with_reducible apply RegReadKept.ite
  repeat' split
  all_goals exact ⟨rfl, rfl, rfl⟩

theorem regRead_kept (s : State) (off : Nat) : RegReadKept s (regRead s off).1 := by
  unfold regRead
  dsimp only
  split
  · exact .refl s
  · exact .refl s
  · exact read02_kept s _
  · exact read03_kept s _
  · exact read04_kept s _
  · exact read05_kept s _
  · exact read06_kept s _
  · exact read07_kept s _
  · exact read08_kept s _
  · exact read09_kept s _
  · exact read0A_kept s _
  · exact read0B_kept s _
  · exact read0C_kept s _
  · exact read0D_kept s _
  · obtain ⟨g, h⟩ := read0E_gaf s (off % 2 ^ 16)
    rw [h]
    exact ⟨rfl, rfl, rfl⟩
  · exact read0F_kept s _
  · split
    · exact readMxe_kept s _ _
    · exact .refl s

theorem regReads_kept (n : Nat) : ∀ (off : Nat) (s : State), RegReadKept s (regReads n off s).1 := by
  induction n with
  | zero => exact fun _ s => .refl s
  | succ n ih => exact fun off s => (regRead_kept s off).trans (ih _ _)

theorem natLe_length (n : Nat) : ∀ v : Nat, (natLe n v).length = n := by
  induction n with
  | zero => exact fun _ => rfl
  | succ n ih => exact fun v => congrArg (· + 1) (ih _)

theorem regReads_length (n : Nat) : ∀ (off : Nat) (s : State), (regReads n off s).2.length = 8 * n := by
  induction n with
  | zero => exact fun _ _ => rfl
  | succ n ih =>
    intro off s
    simp only [regReads, List.length_append, natLe_length, ih]
    omega

/-! ### Reading a register of a block -/

/-- An offset in a block that the map does not have names no register. -/
theorem regRead_unmapped (s : State) (off : Nat) (h : off / 2 ^ 16 = 0x10 ∨ 0x80 ≤ off / 2 ^ 16) : regRead s off = (s, 0) := by
  obtain ⟨k, hk⟩ : ∃ k, off / 2 ^ 16 = k + 16 := ⟨off / 2 ^ 16 - 16, by omega⟩
  have hmxe : ¬(decide (0x40 ≤ k + 16) && decide (k + 16 < 0x80)) = true := by
    simp only [Bool.and_eq_true, decide_eq_true_eq]
    omega
  simp only [regRead, hk]
  exact if_neg hmxe

theorem regReads_one (s : State) (off : Nat) : regReads 1 off s = ((regRead s off).1, natLe 8 (regRead s off).2.toNat) := by
  simp [regReads]

/-! ### The sideband's registers -/

theorem regIndex_isSome {o base stride n : Nat} (h : (regIndex o base stride n).isSome = true) :
    base ≤ o ∧ (o - base) / stride < n := by
  unfold regIndex at h
  split at h
  · next hin =>
    simp only [Bool.and_eq_true, decide_eq_true_eq] at hin
    exact ⟨hin.1.1, hin.2⟩
  · cases h

/-- The offsets that the sideband reads: identity, and on a module that is not scrapped the budget and the telemetry (Table 15-7). -/
theorem i3cReaches_offset {s : State} {off : Nat} (h : i3cReaches s off = true) :
    off ≤ 0x40 ∨ (s.power.scrapStop = false ∧ (off = 0x020000 ∨ (0x0E0000 ≤ off ∧ off < 0x0F0000))) := by
  simp only [i3cReaches, Bool.or_eq_true, Bool.and_eq_true, decide_eq_true_eq, beq_iff_eq, Bool.not_eq_true'] at h
  rcases h with ⟨-, hid⟩ | ⟨hlive, (hbudget | hsum) | hisl⟩
  · exact .inl hid
  · exact .inr ⟨hlive, .inl hbudget⟩
  · exact .inr ⟨hlive, .inr (by have := regIndex_isSome hsum; omega)⟩
  · exact .inr ⟨hlive, .inr (by have := regIndex_isSome hisl; omega)⟩

/-- Over the sideband a read changes the gaffer's counters at most. -/
theorem regRead_sideband {s : State} {off : Nat} (h : i3cReaches s off = true) : ∃ g, (regRead s off).1 = { s with gaf := g } := by
  rcases i3cReaches_offset h with hid | ⟨-, rfl | htel⟩
  · have hblock : off / 2 ^ 16 = 0 := by omega
    exact ⟨s.gaf, by simp only [regRead, hblock]; rfl⟩
  · exact ⟨s.gaf, by simp [regRead, read02, plain]⟩
  · simp only [regRead, show off / 2 ^ 16 = 0x0E by omega]
    exact read0E_gaf s _

end Sys2Proof.Machine
end

section
/-! SUPPORT. Register requests that nothing holds back: a read and a write answer at once, and a write whose answer leaves nothing for the
twin or the fabric to settle ends there. -/

namespace Sys2Proof.Machine

/-! ### What leaves a settled state settled -/

/-- What `settled` speaks of is as it was: the transactions that have ended, the dailies, main memory and the rig in force. -/
structure SettleKept (s t : State) : Prop where
  ended : t.fabric.ended = s.fabric.ended
  dly : t.dly = s.dly
  mem : t.mem = s.mem
  active : t.rig.active = s.rig.active

theorem SettleKept.refl (s : State) : SettleKept s s := ⟨rfl, rfl, rfl, rfl⟩

theorem SettleKept.trans {a b c : State} (h : SettleKept a b) (k : SettleKept b c) : SettleKept a c :=
  ⟨k.ended.trans h.ended, k.dly.trans h.dly, k.mem.trans h.mem, k.active.trans h.active⟩

theorem SentFrame.settleKept {s t : State} (h : SentFrame s t) : SettleKept s t :=
  ⟨congrArg Fabric.ended h.fabric, h.dly, h.mem, congrArg RigBlock.active h.rig⟩

theorem SettleKept.brokenRanges {s t : State} (h : SettleKept s t) : brokenRanges t = brokenRanges s := by
  simp only [Machine.brokenRanges, pairRanges, isMirrored, rangeCfg, h.dly, h.mem, h.active]

theorem SettleKept.settle {s t : State} (h : SettleKept s t) (hs : settled s) : settle t = t :=
  settle_idle t (h.ended.trans hs.1) (by rw [h.dly, h.brokenRanges]; exact hs.2)

theorem rigDiscard_settleKept (s : State) : SettleKept s (rigDiscard s).st := by
  unfold rigDiscard
  split <;> exact ⟨rfl, rfl, rfl, rfl⟩

theorem fabActivate_settleKept (s : State) : SettleKept s (fabActivate s).st := by
  unfold fabActivate
  dsimp only
  repeat' split
  all_goals exact ⟨rfl, rfl, rfl, rfl⟩

theorem fabRetire_settleKept (s : State) : SettleKept s (fabRetire s).st := by
  unfold fabRetire
  dsimp only
  repeat' split
  all_goals exact ⟨rfl, rfl, rfl, rfl⟩

theorem lockWrite_settleKept (p : Port) (v : Word) (s : State) : SettleKept s (lockWrite p v s) := by
  unfold lockWrite
  repeat' split
  all_goals exact ⟨rfl, rfl, rfl, rfl⟩

/-! ### What holds a register request back -/

/-- Above the debug window's data register no request reaches it. -/
theorem windowWaits_above (s : State) (off n : Nat) (h : 0x050808 < off) : windowWaits s off n = false := by
  simp [windowWaits, show ¬off ≤ 0x050808 by omega]

/-- A request for one register reaches the debug window's data only at its offset. -/
theorem windowWaits_one (s : State) (off : Nat) (h : off ≠ 0x050808) : windowWaits s off 1 = false := by
  by_cases hle : off ≤ 0x050808
  · simp only [windowWaits, Bool.and_eq_false_iff, decide_eq_false_iff_not, beq_eq_false_iff_ne]
    omega
  · exact windowWaits_above s off 1 (by omega)

/-- A write that draws entropy is one of five commands, in the registers of ciphers, keys, debug and dailies. -/
theorem drawRow_none (s : State) (p : Port) (tag off : Nat) (v : Word) (hc : off ≠ 0x050000) (hk : off ≠ 0x060000) (hd : off ≠ 0x070100)
    (hy : off ≠ 0x0B0040) : drawRow s p tag off v = none := by
  simp [drawRow, hc, hk, hd, hy]

/-- A session ends by a write of one of the two port control registers. -/
theorem endedPort_none (off : Nat) (v : Word) (ha : off ≠ 0x080008) (hb : off ≠ 0x080108) : endedPort off v = none := by
  simp [endedPort, ha, hb]

/-! ### Reads -/

variable {s : State} {p : Port}

theorem exec_regRead_now {off : BitVec 24} {n : Nat} (tag : Nat) (h : mayRead s p) (hw : windowWaits s off.toNat n = false) :
    exec (.regRead p tag off n) s =
      .next (mgmtReply (regReadReq off n s).st p tag (regReadReq off n s).status (regReadReq off n s).data) := by
  change Host.Outcome.next (mgmtTurn p _ _ s) = _
  rw [mgmtTurn_now _ _ _ _ h, regReadTurn, hw, Bool.false_and, if_neg Bool.false_ne_true, mgmtRun_live _ _ _ _ h.1]

theorem exec_rcRegisterRead_now {off : BitVec 24} (tag : Nat) (h : mayRead s p) (hw : windowWaits s off.toNat 1 = false) :
    exec (.rcRegisterRead p tag off) s =
      .next (mgmtReply (regReadReq off 1 s).st p tag (regReadReq off 1 s).status (regReadReq off 1 s).data) := by
  change Host.Outcome.next (mgmtTurn p _ _ s) = _
  rw [mgmtTurn_now _ _ _ _ h, regReadTurn, hw, Bool.false_and, if_neg Bool.false_ne_true, mgmtRun_live _ _ _ _ h.1]

theorem regReadReq_bad (off : BitVec 24) {n : Nat} (s : State) (h : n = 0 ∨ 128 < n) : regReadReq off n s = ⟨s, .badDescriptor, []⟩ := by
  simp [regReadReq, h]

theorem regReadReq_good (off : BitVec 24) {n : Nat} (s : State) (h0 : 0 < n) (h1 : n ≤ 128) :
    regReadReq off n s = ⟨(regReads n off.toNat s).1, .ok, (regReads n off.toNat s).2⟩ := by
  simp [regReadReq, show ¬(n = 0 ∨ 128 < n) by omega]

/-- A read of one register answers its value, and leaves what the read leaves. -/
theorem exec_regRead_one {off : BitVec 24} (tag : Nat) (h : mayRead s p) (hw : windowWaits s off.toNat 1 = false) :
    exec (.regRead p tag off 1) s =
      .next (mgmtReply (regRead s off.toNat).1 p tag .ok (natLe 8 (regRead s off.toNat).2.toNat)) := by
  rw [exec_regRead_now tag h hw, regReadReq_good off s (by omega) (by omega), regReads_one]

theorem exec_rcRegisterRead_one {off : BitVec 24} (tag : Nat) (h : mayRead s p) (hw : windowWaits s off.toNat 1 = false) :
    exec (.rcRegisterRead p tag off) s =
      .next (mgmtReply (regRead s off.toNat).1 p tag .ok (natLe 8 (regRead s off.toNat).2.toNat)) := by
  rw [exec_rcRegisterRead_now tag h hw, regReadReq_good off s (by omega) (by omega), regReads_one]

/-! ### Writes -/

/-- The lock is tried before the write: against it every write answers BUSY. -/
theorem exec_regWrite_locked (tag : Nat) (off : BitVec 24) (v : Word) (b : Boot) (h : mayRead s p) (hs : settled s)
    (hl : lockedOut s.lmx p = true) : exec (.regWrite p tag off v b) s = .next (mgmtReply s p tag .busy []) := by
  have hreq : regWriteReq p tag off v b s = mgmtReply s p tag .busy [] := by
    unfold regWriteReq
    split
    · rw [mgmtDraw, hl, Bool.not_true, Bool.and_false, if_neg Bool.false_ne_true, mgmtWrite_locked _ _ _ _ _ h hl]
    · rw [mgmtTurn_now _ _ _ _ h, regWriteTurn, if_pos hl, mgmtRun_live _ _ _ _ h.1]
  change Host.Outcome.next (settle (regWriteReq p tag off v b s)) = _
  rw [hreq, (mgmtReply_frame s p tag .busy []).settleKept.settle hs]

/-- A write that draws no entropy, waits for no fill and ends no session replies with the register's answer. -/
theorem exec_regWrite_now {off : BitVec 24} {v : Word} {b : Boot} (tag : Nat) (h : mayWrite s p) (hs : settled s)
    (hd : drawRow s p tag off.toNat v = none) (hw : off.toNat ≠ 0x050808) (he : endedPort off.toNat v = none) {a : Answer}
    (ha : regWrite (some p) off.toNat v b s = a) (hk : SettleKept s a.st) :
    exec (.regWrite p tag off v b) s = .next (mgmtReply a.st p tag a.status a.data) := by
  have hreq : regWriteReq p tag off v b s = mgmtReply a.st p tag a.status a.data := by
    simp only [regWriteReq, hd, mgmtTurn_now _ _ _ _ h.1, regWriteTurn, h.2, windowWaits_one s _ hw, heard_session _ _ h.1.1, writeEnds, he,
      mgmtRun_live _ _ _ _ h.1.1, ha, if_true, if_false, Bool.false_eq_true]
  change Host.Outcome.next (settle (regWriteReq p tag off v b s)) = _
  rw [hreq, (hk.trans (mgmtReply_frame a.st p tag a.status a.data).settleKept).settle hs]

/-- A write of a register's fields replies OK. -/
theorem exec_regWrite_done {off : BitVec 24} {v : Word} {b : Boot} (tag : Nat) (h : mayWrite s p) (hs : settled s)
    (hd : drawRow s p tag off.toNat v = none) (hw : off.toNat ≠ 0x050808) (he : endedPort off.toNat v = none) {t : State}
    (ha : regWrite (some p) off.toNat v b s = done t) (hk : SettleKept s t) :
    exec (.regWrite p tag off v b) s = .next (mgmtReply t p tag .ok []) :=
  exec_regWrite_now tag h hs hd hw he ha hk

/-- Block 0x10 and the blocks from 0x80 hold no register that a write changes. -/
theorem regWrite_unmapped (q : Option Port) (off : Nat) (v : Word) (b : Boot) (s : State) (h : off / 2 ^ 16 = 0x10 ∨ 0x80 ≤ off / 2 ^ 16) :
    regWrite q off v b s = done s := by
  obtain ⟨k, hk⟩ : ∃ k, off / 2 ^ 16 = k + 16 := ⟨off / 2 ^ 16 - 16, by omega⟩
  have hmxe : ¬(decide (0x40 ≤ k + 16) && decide (k + 16 < 0x80)) = true := by
    simp only [Bool.and_eq_true, decide_eq_true_eq]
    omega
  simp only [regWrite, hk]
  exact if_neg hmxe

end Sys2Proof.Machine
end

section
/-! CLAIMS. The management registers: reads, writes and the sideband. -/

namespace Sys2Proof.Machine

variable {s : State} {p : Port}

/-- A register that reads zero answers eight zero bytes. -/
theorem natLe_zero : natLe 8 (0 : Word).toNat = List.replicate 8 0 := by decide

/-- FAB_DROP answers its four counters and clears them. -/
theorem regRead_fabDrop (s : State) : regRead s 0x090018 =
    ({ s with fabric := { s.fabric with tagFail := 0, replayed := 0, hopLimit := 0, noRoute := 0 } },
      packWord [(s.fabric.tagFail, 16), (s.fabric.replayed, 16), (s.fabric.hopLimit, 16), (s.fabric.noRoute, 16)]) := rfl

theorem fld_zero (v n : Nat) : fld v 0 n = v % 2 ^ n := congrArg (· % 2 ^ n) (Nat.div_one v)

/-- GAF_SLICE: the slice is at least 100, the frame at least 4. -/
theorem regWrite_gafSlice (q : Option Port) (v : Word) (b : Boot) (s : State) :
    regWrite q 0x020010 v b s = done { s with gaf := { s.gaf with
      sliceUs := max 100 (v.toNat % 2 ^ 16), frameMs := max 4 (v.toNat / 2 ^ 16 % 2 ^ 8) } } := by
  rw [← fld_zero]
  rfl

/-- FAB_TIMEOUT: at least 16. -/
theorem regWrite_fabTimeout (q : Option Port) (v : Word) (b : Boot) (s : State) :
    regWrite q 0x090008 v b s = done { s with fabric := { s.fabric with timeout := max 16 (v.toNat % 2 ^ 16) } } := by
  rw [← fld_zero]
  rfl

theorem regWrite_errSel (q : Option Port) (v : Word) (b : Boot) (s : State) :
    regWrite q 0x0D0010 v b s = done { s with err := { s.err with sel := v.toNat % 2 ^ 32 } } := by
  rw [← fld_zero]
  rfl

/-- A write to the serial number, which is read-only, or to an offset that names no register changes nothing. -/
theorem exec_regWrite_ignored (tag : Nat) (off : BitVec 24) (v : Word) (b : Boot) (h : mayWrite s p) (hs : settled s)
    (hoff : off = 0x000008 ∨ off.toNat / 2 ^ 16 = 0x10 ∨ 0x80 ≤ off.toNat / 2 ^ 16) :
    exec (.regWrite p tag off v b) s = .next (mgmtReply s p tag .ok []) := by
  have hnat : off.toNat = 8 ∨ off.toNat / 2 ^ 16 = 0x10 ∨ 0x80 ≤ off.toNat / 2 ^ 16 := hoff.imp_left (congrArg BitVec.toNat)
  have hans : regWrite (some p) off.toNat v b s = done s := by
    rcases hoff with rfl | hoff
    · rfl
    · exact regWrite_unmapped _ _ _ _ _ hoff
  have hend : endedPort off.toNat v = none := endedPort_none _ _ (by omega) (by omega)
  exact exec_regWrite_done tag h hs (drawRow_none _ _ _ _ _ (by omega) (by omega) (by omega) (by omega)) (by omega) hend hans (.refl s)

/-- A write to a control register whose answer is the command's is the command. -/
theorem exec_regWrite_command {off : BitVec 24} {v : Word} {b : Boot} {tag : Nat} {row : Instr} {f : State → Answer} (h : mayWrite s p)
    (hs : settled s) (hd : drawRow s p tag off.toNat v = none) (hw : off.toNat ≠ 0x050808) (he : endedPort off.toNat v = none)
    (ha : regWrite (some p) off.toNat v b s = f s) (hk : SettleKept s (f s).st) (hrow : exec row s = .next (mgmtWrite p tag row f s)) :
    exec (.regWrite p tag off v b) s = exec row s := by
  rw [exec_regWrite_now tag h hs hd hw he ha hk, hrow, mgmtWrite_may _ _ _ _ _ h]

/-- The control registers' commands: RIG_CTRL, KEY_CTRL and LMX_MGMT_LOCK. -/
theorem exec_regWrite_commands (tag : Nat) (b : Boot) (h : mayWrite s p) (hs : settled s) :
    exec (.regWrite p tag 0x010000 3 b) s = exec (.discard p tag) s ∧ exec (.regWrite p tag 0x060000 5 b) s = exec (.fabActivate p tag) s ∧
    exec (.regWrite p tag 0x060000 6 b) s = exec (.fabRetire p tag) s ∧
    exec (.regWrite p tag 0x080200 1 b) s = exec (.mgmtLockWrite p tag 1) s ∧
    exec (.regWrite p tag 0x080200 0 b) s = exec (.mgmtLockWrite p tag 0) s := by
  refine ⟨?_, ?_, ?_, ?_, ?_⟩
  · exact exec_regWrite_command h hs rfl (by decide) rfl rfl (rigDiscard_settleKept s) rfl
  · exact exec_regWrite_command h hs rfl (by decide) rfl rfl (fabActivate_settleKept s) rfl
  · exact exec_regWrite_command h hs rfl (by decide) rfl rfl (fabRetire_settleKept s) rfl
  · exact exec_regWrite_command h hs rfl (by decide) rfl rfl (lockWrite_settleKept p 1 s) rfl
  · exact exec_regWrite_command h hs rfl (by decide) rfl rfl (lockWrite_settleKept p 0 s) rfl

/-- A sideband read within its reach puts the register's value out and changes the gaffer's counters at most. -/
theorem exec_i3cRead_reached {off : BitVec 24} (hup : i3cUp s.power = true) (hr : i3cReaches s off.toNat = true) :
    ∃ t, exec (.i3cRead off) s = .next t ∧ t.power.i3cData = (regRead s off.toNat).2 ∧ t.mem = s.mem ∧ t.sp = s.sp ∧ t.keys = s.keys ∧
      t.lmx = s.lmx := by
  obtain ⟨g, hg⟩ := regRead_sideband hr
  refine ⟨_, rfl, ?_⟩
  simp [hup, hr, hg]

theorem exec_i3cRead_far {off : BitVec 24} (hup : i3cUp s.power = true) (hr : i3cReaches s off.toNat = false) :
    exec (.i3cRead off) s =
      .next { s with power := { s.power with i3cRefused := satAdd 16 s.power.i3cRefused 1, i3cData := 0 } } := by
  change execI3cRead off s = _
  simp [execI3cRead, hup, hr, i3cRefuse]

theorem exec_i3cRead_command {off : BitVec 24} {k : Byte} (hup : i3cUp s.power = true) (hk : k ≠ 0x10) :
    exec (.i3cRead off k) s = .next { s with power := { s.power with i3cRefused := satAdd 16 s.power.i3cRefused 1 } } := by
  change execI3cRead off s k = _
  rw [execI3cRead, hup, Bool.not_true, if_neg Bool.false_ne_true, if_pos hk]
  rfl

/-- Settles O11: each clause is a read or a write that nothing holds back, at the register that it names. -/
theorem managementRegistersReadAndWrite : Obligations.ManagementRegistersReadAndWrite := by
  refine ⟨?_, ?_, ?_, ?_, ?_, ?_, ?_, ?_, ?_, ?_, ?_, ?_, ?_, ?_, ?_, ?_, ?_, ?_⟩
  case refine_1 =>
    intro s p tag n off h hn hw
    rw [exec_regRead_now tag h hw, regReadReq_bad off s hn]
  case refine_2 =>
    intro s p tag n off h h0 h1 hw
    rw [exec_regRead_now tag h hw, regReadReq_good off s h0 h1]
  case refine_3 =>
    intro s p tag n off h h0 h1 hw
    obtain ⟨hlock, hcells, hcmds⟩ := regReads_kept n off.toNat s
    refine ⟨_, _, ?_, regReads_length n off.toNat s, hlock, hcells, hcmds⟩
    rw [exec_regRead_now tag h hw, regReadReq_good off s h0 h1]
  case refine_4 =>
    intro s p tag n off h
    exact ⟨congrArg _ (mgmtTurn_dead _ _ _ _ h), congrArg _ (mgmtTurn_dead _ _ _ _ h)⟩
  case refine_5 =>
    intro s p tag h
    rw [exec_rcRegisterRead_one tag h (windowWaits_one s _ (by decide))]
    exact congrArg (fun r : State × Word => Host.Outcome.next (mgmtReply r.1 p tag .ok (natLe 8 r.2.toNat))) (regRead_fabDrop s)
  case refine_6 =>
    intro s p tag h
    exact exec_regRead_one tag h (windowWaits_one s _ (by decide))
  case refine_7 =>
    intro s p tag off h hoff
    rw [exec_regRead_one tag h (windowWaits_one s _ (by omega)), regRead_unmapped s _ hoff, natLe_zero]
  case refine_8 => exact fun s p tag off v b h hs hoff => exec_regWrite_ignored tag off v b h hs hoff
  case refine_9 =>
    intro s p tag v b h hs
    exact exec_regWrite_done tag h hs rfl (by decide) (endedPort_none _ _ (by decide) (by decide)) (regWrite_gafSlice _ v b s) ⟨rfl, rfl, rfl, rfl⟩
  case refine_10 =>
    intro s p tag v b h hs
    exact exec_regWrite_done tag h hs rfl (by decide) (endedPort_none _ _ (by decide) (by decide)) (regWrite_fabTimeout _ v b s) ⟨rfl, rfl, rfl, rfl⟩
  case refine_11 =>
    intro s p tag v b h hs
    exact exec_regWrite_done tag h hs rfl (by decide) (endedPort_none _ _ (by decide) (by decide)) (regWrite_errSel _ v b s) ⟨rfl, rfl, rfl, rfl⟩
  case refine_12 => exact fun s p tag b h hs => exec_regWrite_commands tag b h hs
  case refine_13 => exact fun s p tag off v b h hs hl => exec_regWrite_locked tag off v b h hs (lockedOut_held _ _ hl)
  case refine_14 =>
    intro s off h
    change execI3cRead off s = _
    simp [execI3cRead, h]
  case refine_15 => exact fun s off hup hr => exec_i3cRead_reached hup hr
  case refine_16 => exact fun s off hup hr => exec_i3cRead_far hup hr
  case refine_17 => exact fun s off k hup hk => exec_i3cRead_command hup hk
  case refine_18 => exact fun s off h => i3cReaches_offset h

end Sys2Proof.Machine
end

section
/-! SUPPORT. A bridge direction read back after a change of it or of another, what sending its bursts makes of it, and what a strike
leaves. -/

namespace Sys2Proof.Machine

/-! ### One direction's change -/

theorem dirNum_injective : Function.Injective dirNum := by
  intro d e h
  cases d <;> cases e <;> simp_all [dirNum]

theorem bridgeOf_bridgeMod (s : State) (d : BridgeDir) (f : Bridge → Bridge) (h : dirNum d < s.bridges.length) :
    bridgeOf (bridgeMod s d f) d = f (bridgeOf s d) := by
  simp [bridgeOf, bridgeMod, modAt, h]

theorem bridgeOf_bridgeMod_other (s : State) {d e : BridgeDir} (f : Bridge → Bridge) (h : e ≠ d) :
    bridgeOf (bridgeMod s d f) e = bridgeOf s e := by
  simp [bridgeOf, bridgeMod, modAt_getElem?, dirNum_injective.ne h.symm]

/-- A direction is read off the list of the bridges alone. -/
theorem bridgeOf_congr {s t : State} (h : t.bridges = s.bridges) (d : BridgeDir) : bridgeOf t d = bridgeOf s d := by
  rw [bridgeOf, h, bridgeOf]

@[simp] theorem bridgeOf_drawUse (s : State) (n : Nat) (d : BridgeDir) : bridgeOf (drawUse s n) d = bridgeOf s d :=
  bridgeOf_congr (by simp) d

@[simp] theorem bridgeOf_logBridge (s : State) (d e : BridgeDir) : bridgeOf (logBridge s d) e = bridgeOf s e :=
  bridgeOf_congr (by simp) e

@[simp] theorem bridgeOf_countResend (s : State) (d e : BridgeDir) : bridgeOf (countResend s d) e = bridgeOf s e :=
  bridgeOf_congr (by simp) e

/-! ### Sending bursts -/

theorem burstSend_numbered (b : Bridge) (data : List Byte) (h : b.seq < 2 ^ 62) :
    burstSend b data = { b with seq := b.seq + 1, unacked := b.unacked ++ [⟨b.seq, data, 0⟩] } := if_pos h

theorem burstSend_held (b : Bridge) (data : List Byte) (h : 2 ^ 62 ≤ b.seq) : burstSend b data = { b with held := b.held ++ [data] } :=
  if_neg (Nat.not_lt.2 h)

/-- Bursts sent one after another below sequence number 2^62 are all numbered, in their order, and none is held. -/
theorem foldl_burstSend (l : List (List Byte)) : ∀ b : Bridge, b.seq + l.length ≤ 2 ^ 62 →
    (l.foldl burstSend b).seq = b.seq + l.length ∧ (l.foldl burstSend b).held = b.held ∧ (l.foldl burstSend b).key = b.key ∧
      (l.foldl burstSend b).unacked.map (·.data) = b.unacked.map (·.data) ++ l := by
  induction l with
  | nil => intro b _; simp
  | cons data l ih =>
    intro b h
    rw [List.length_cons] at h
    obtain ⟨hseq, hheld, hkey, hdata⟩ := ih (burstSend b data) (by rw [burstSend_numbered b data (by omega)]; simp only; omega)
    rw [burstSend_numbered b data (by omega)] at hseq hheld hkey hdata
    rw [List.foldl_cons, burstSend_numbered b data (by omega), List.length_cons]
    exact ⟨by rw [hseq]; simp only; omega, hheld, hkey, by rw [hdata]; simp⟩

/-- A renewed direction has the new key and starts at 0 again, its held bursts sent in their order (R44). -/
theorem bridgeRenew_sends (b : Bridge) (key : W256) (h : b.held.length < 2 ^ 62) :
    (bridgeRenew b key).key = key ∧ (bridgeRenew b key).held = [] ∧ (bridgeRenew b key).seq = b.held.length ∧
      (bridgeRenew b key).unacked.map (·.data) = b.unacked.map (·.data) ++ b.held := by
  obtain ⟨hseq, hheld, hkey, hdata⟩ := foldl_burstSend b.held { b with key := key, seq := 0, held := [] } (by simp only; omega)
  exact ⟨hkey, hheld, hseq.trans (Nat.zero_add _), hdata⟩

/-- A burst that is full, or that nothing has followed for 8 cycles, closes on a keyed direction (R44). -/
theorem burstCloses_keyed {b : Bridge} {n idle : Nat} (hk : b.keyed = true) (h0 : 0 < n) (h1 : n ≤ 4096) (hc : n = 4096 ∨ 8 ≤ idle) :
    burstCloses b n idle = true := by
  simp [burstCloses, hk, h0, h1, hc]

/-! ### The commands -/

variable {s : State} {d : BridgeDir}

theorem exec_bridgeBurstClose {data : List Byte} {idle : Nat} (h : burstCloses (bridgeOf s d) data.length idle = true) :
    exec (.bridgeBurstClose d data idle) s = .next (bridgeMod s d fun b => burstSend b (burstData data)) :=
  congrArg Host.Outcome.next (if_pos h)

theorem exec_bridgeBurstReceive {n : Nat} {x : Burst} (tagOk : Bool)
    (h : (bridgeOf s d).unacked.find? (fun y => y.seq == n) = some x) :
    exec (.bridgeBurstReceive d n tagOk) s = .next (if tagOk then
        bridgeMod s d fun b => { b with unacked := b.unacked.filter fun y => y.seq != n, delivered := b.delivered ++ x.data }
      else burstFail s d x) := by
  change execBridgeBurstReceive d n tagOk s = _
  simp only [execBridgeBurstReceive, h]

theorem exec_bridgeKeyRenew (hk : (bridgeOf s d).keyed = true) (hseq : 2 ^ 62 ≤ (bridgeOf s d).seq) (he : s.keys.entropyOk = true) :
    exec (.bridgeKeyRenew d) s = .next (drawUse (bridgeMod s d fun b => bridgeRenew b (drawAt s 0)) 1) := by
  change execBridgeKeyRenew d s = _
  simp only [execBridgeKeyRenew, hk, hseq, he, decide_true, Bool.and_self, if_true]

/-- A direction whose burst with a sequence number has failed once more. -/
def failCounted (n : Nat) (b : Bridge) : Bridge :=
  { b with unacked := b.unacked.map fun y => if y.seq = n then { y with fails := y.fails + 1 } else y }

theorem burstFail_again (s : State) (d : BridgeDir) {x : Burst} (h : x.fails + 1 < 3) :
    burstFail s d x = countResend (logBridge (bridgeMod s d (failCounted x.seq)) d) d :=
  if_neg (Nat.not_le.2 h)

theorem burstFail_third (s : State) (d : BridgeDir) {x : Burst} (h : 2 ≤ x.fails) : burstFail s d x = strike (logBridge s d) 8 :=
  if_pos (by omega)

theorem countResend_resends (s : State) (d : BridgeDir) :
    (dirReel d = 0 → (countResend s d).err.resendA = satAdd 32 s.err.resendA 1) ∧
      (dirReel d ≠ 0 → (countResend s d).err.resendB = satAdd 32 s.err.resendB 1) := by
  constructor <;> intro h <;> simp [countResend, h]

/-- Logging counts no resend. -/
theorem logAdd_resends (l : ErrLog) (e : LogEntry) : (logAdd l e).resendA = l.resendA ∧ (logAdd l e).resendB = l.resendB := by
  unfold logAdd
  repeat' split
  all_goals exact ⟨rfl, rfl⟩

@[simp] theorem logBridge_resends (s : State) (d : BridgeDir) :
    (logBridge s d).err.resendA = s.err.resendA ∧ (logBridge s d).err.resendB = s.err.resendB := logAdd_resends _ _

/-! ### A strike (R353) -/

theorem strike_isStruck (s : State) (cause : Nat) : isStruck (strike s cause) :=
  ⟨rfl, rfl, rfl, rfl, rfl, rfl, rfl, rfl, rfl, rfl⟩

theorem strike_cause (s : State) (cause : Nat) : (strike s cause).keys.strikeCause = cause := rfl

end Sys2Proof.Machine
end

section
/-! CLAIMS. The bridges between the Reels and Basecamp. -/

namespace Sys2Proof.Machine

/-- Settles O19: each command changes its own direction by one named update, and a renewal sends the held bursts by induction on them. -/
theorem bridgeBurstsResendOrStrike : Obligations.BridgeBurstsResendOrStrike := by
  refine ⟨?_, ?_, ?_, ?_, ?_, ?_⟩
  case refine_1 =>
    intro s d data idle hd hk hseq h0 h1 hc
    refine ⟨_, exec_bridgeBurstClose (burstCloses_keyed hk h0 h1 hc), ?_⟩
    rw [bridgeOf_bridgeMod s d _ hd, burstSend_numbered _ _ hseq]
    exact ⟨rfl, rfl, rfl, fun e he => bridgeOf_bridgeMod_other s _ he⟩
  case refine_2 =>
    intro s d data idle hd hk hseq h0 h1 hc
    refine ⟨_, exec_bridgeBurstClose (burstCloses_keyed hk h0 h1 hc), ?_⟩
    rw [bridgeOf_bridgeMod s d _ hd, burstSend_held _ _ hseq]
    exact ⟨rfl, rfl, rfl, fun e he => bridgeOf_bridgeMod_other s _ he⟩
  case refine_3 =>
    intro s d n x hd hx
    refine ⟨_, exec_bridgeBurstReceive true hx, ?_⟩
    rw [if_pos rfl, bridgeOf_bridgeMod s d _ hd]
    refine ⟨rfl, fun y hy => ?_, rfl, rfl⟩
    simpa using (List.mem_filter.1 hy).2
  case refine_4 =>
    intro s d n x hd hx hf
    refine ⟨_, exec_bridgeBurstReceive false hx, ?_⟩
    rw [if_neg Bool.false_ne_true, burstFail_again s d hf]
    have hcount := countResend_resends (logBridge (bridgeMod s d (failCounted x.seq)) d) d
    simp only [logBridge_resends, bridgeMod_frame] at hcount
    refine ⟨?_, by simp, hcount⟩
    simp only [bridgeOf_countResend, bridgeOf_logBridge, bridgeOf_bridgeMod s d _ hd, failCounted]
  case refine_5 =>
    intro s d n x hx hf
    refine ⟨_, exec_bridgeBurstReceive false hx, ?_⟩
    rw [if_neg Bool.false_ne_true, burstFail_third s d hf]
    exact ⟨strike_isStruck _ 8, strike_cause _ 8⟩
  case refine_6 =>
    intro s d hd hk hseq hheld he
    refine ⟨_, exec_bridgeKeyRenew hk hseq he, ?_⟩
    obtain ⟨hkey, hempty, hrestart, hdata⟩ := bridgeRenew_sends (bridgeOf s d) (drawAt s 0) hheld
    rw [bridgeOf_drawUse, bridgeOf_bridgeMod s d _ hd]
    exact ⟨hkey, rfl, hempty, hrestart, hdata, fun e hne => (bridgeOf_drawUse _ _ _).trans (bridgeOf_bridgeMod_other s _ hne)⟩

end Sys2Proof.Machine
end

section
/-! SUPPORT. The commands of the rig block, answer by answer: where each is BUSY and what each does elsewhere; and what a COMMIT's reply
leaves of the key slots. -/

namespace Sys2Proof.Machine

variable {s : State} {p : Port}

/-- A management write that nothing holds back replies with its answer. -/
theorem next_mgmtWrite (tag : Nat) (row : Instr) {f : State → Answer} {a : Answer} (h : mayWrite s p) (ha : f s = a) :
    (.next (mgmtWrite p tag row f s) : Host.Outcome State Fault Refusal) = .next (mgmtReply a.st p tag a.status a.data) := by
  rw [mgmtWrite_may _ _ _ _ _ h, ha]

/-! ### The buffer's registers (R65) -/

theorem rigBufWrite_idle (f : RigBlock → RigBlock) (h : rigBusy s = false) :
    rigBufWrite f s = ⟨rigMod s fun r => { f r with state := .loading, staged := none, stagedDigest := 0 }, .ok, []⟩ := by
  rw [rigBufWrite, h, if_neg Bool.false_ne_true]

theorem rigBufWrite_busy (f : RigBlock → RigBlock) (h : rigBusy s = true) : rigBufWrite f s = rigAnswer s .busy := if_pos h

theorem rigData_below (v : Word) {r : RigBlock} (h : r.ptr < 524288) :
    rigData v r = { r with buf := putBytes r.buf r.ptr (natLe 8 v.toNat), ptr := min (r.ptr + 8) 524288 } := if_neg (Nat.not_le.2 h)

theorem rigData_full (v : Word) {r : RigBlock} (h : 524288 ≤ r.ptr) : rigData v r = { r with overrun := true } := if_pos h

/-! ### RIG_CTRL -/

theorem rigVerify_idle (h : rigBusy s = false) :
    rigVerify s = rigAnswer (rigMod s fun r => { r with
      state := .verifying, staged := none, stagedDigest := 0, reason := 0, signer := 0 }) .ok := by
  rw [rigVerify, h, if_neg Bool.false_ne_true]

theorem rigVerify_busy (h : rigBusy s = true) : rigVerify s = rigAnswer s .busy := if_pos h

theorem rigDiscard_committing (h : s.rig.state = .committing) : rigDiscard s = rigAnswer s .busy := if_pos h

theorem rigDiscard_idle (h : s.rig.state ≠ .committing) :
    rigDiscard s = rigAnswer (rigMod s fun r => { r with
      state := .empty, buf := [], ptr := 0, len := 0, overrun := false, staged := none, stagedDigest := 0 }) .ok := if_neg h

theorem rigCommit_starts {new : Rig} (h : commitBusy s = false) (hs : s.rig.staged = some new) :
    rigCommit s = ⟨commitStart s new, .ok, []⟩ := by
  rw [rigCommit, h, if_neg Bool.false_ne_true, hs]

/-- A COMMIT that nothing refuses replies OK over the state in which the change has begun. -/
theorem exec_commit_starts (tag : Nat) {new : Rig} (h : mayWrite s p) (hc : commitBusy s = false) (hs : s.rig.staged = some new) :
    exec (.commit p tag) s = .next (mgmtReply (commitStart s new) p tag .ok []) :=
  next_mgmtWrite tag _ h (rigCommit_starts hc hs)

/-! ### Replies and the key slots -/

theorem moveMsg_keys (s : State) (p : Port) (m : Msg) : (moveMsg s p m).keys = s.keys := by
  unfold moveMsg noticeHold
  repeat' split
  all_goals rfl

theorem sessionSlot_le (p : Port) : sessionSlot p ≤ 3 := by cases p <;> decide

/-- Ending a session empties its own two slots, 1 to 4, and no other. -/
theorem endSess_slot (s : State) (p : Port) {i : Nat} (h : 4 < i) : (endSess s p).keys.slots[i]? = s.keys.slots[i]? := by
  have moved : ∀ (l : List Msg) (t : State), (l.foldl (fun u m => moveMsg u p m) t).keys = t.keys := by
    intro l
    induction l with
    | nil => exact fun t => rfl
    | cons m l ih => exact fun t => (ih _).trans (moveMsg_keys t p m)
  have hp := sessionSlot_le p
  unfold endSess
  dsimp only
  split
  · rfl
  · rw [moved, List.getElem?_set_ne (by omega), List.getElem?_set_ne (by omega)]

/-- A reply changes no key slot but those of a session that it ends. -/
theorem mgmtReply_slot (s : State) (p : Port) (tag : Nat) (st : Status) (data : List Byte) {i : Nat} (h : 4 < i) :
    (mgmtReply s p tag st data).keys.slots[i]? = s.keys.slots[i]? := by
  unfold mgmtReply sendMsg
  split
  · rw [moveMsg_keys, endSess_slot s p h]
  · rfl

end Sys2Proof.Machine
end

section
/-! CLAIMS. The rig buffer, and what a COMMIT strikes. -/

namespace Sys2Proof.Machine

/-- Settles O20: each command is a management write whose answer is said once for a busy block and once for an idle one. -/
theorem rigBufferIsLoaded : Obligations.RigBufferIsLoaded := by
  refine ⟨?_, ?_, ?_, ?_, ?_, ?_, ?_⟩
  case refine_1 =>
    intro s p tag v h hb
    rw [← fld_zero]
    exact next_mgmtWrite tag _ h (rigBufWrite_idle (rigPtr v) hb)
  case refine_2 =>
    intro s p tag v h hb hptr
    have hans := rigBufWrite_idle (rigData v) hb
    rw [rigMod, rigData_below v hptr] at hans
    exact next_mgmtWrite tag _ h hans
  case refine_3 =>
    intro s p tag v h hb hptr
    have hans := rigBufWrite_idle (rigData v) hb
    rw [rigMod, rigData_full v hptr] at hans
    exact next_mgmtWrite tag _ h hans
  case refine_4 =>
    intro s p tag v h hb
    rw [← fld_zero]
    exact next_mgmtWrite tag _ h (rigBufWrite_idle (rigLen v) hb)
  case refine_5 =>
    intro s p tag v c h hb hc
    rcases hc with rfl | rfl | rfl | rfl
    · exact next_mgmtWrite tag _ h (rigBufWrite_busy (rigPtr v) hb)
    · exact next_mgmtWrite tag _ h (rigBufWrite_busy (rigData v) hb)
    · exact next_mgmtWrite tag _ h (rigBufWrite_busy (rigLen v) hb)
    · exact next_mgmtWrite tag _ h (rigVerify_busy hb)
  case refine_6 => exact fun s p tag h hc => next_mgmtWrite tag _ h (rigDiscard_committing hc)
  case refine_7 => exact fun s p tag h hc => next_mgmtWrite tag _ h (rigDiscard_idle hc)

/-- The rig of a twin: range 0 and the staging hold, sealed. -/
def printingTwinRig : Rig :=
  { twinNamed := true, twinId := 9, holdBase := 2 ^ 30, holdSize := 2 ^ 30
    ranges := { base := 0, size := 2 ^ 30, mode := 2 } :: List.replicate 31 {} }

/-- A PROTECTED twin with no space, ready to commit the house rig. A print holds its mirror frozen, so that a committed line still waits in
the hold (R282); two data errors make the line unreadable there. The keys of range 0 and of the hold are in slots 128 and 129. -/
def printingTwin : State := { Tests.up with
  rig := { active := printingTwinRig, state := .verified, staged := some {} }
  dly := { role := .twin, state := .guarded, partner := 9, mirrorIds := 1, committed := 2, applied := 1, frozen := true
           ready := [(0, 1)], print := { state := 2, ranges := [0] } }
  mem := { faults := [(2 ^ 30 / 64, (2 ^ 33 + 1, 0))] }
  ciph := { ranges := { curSlot := 128 } :: List.replicate 31 {} ++ [{ curSlot := 129 }] }
  keys := { Tests.up.keys with
    slots := List.replicate 128 {} ++ [drawnRangeKey 0 0 5, drawnRangeKey 0 32 6] ++ List.replicate 126 {} }
  sp := {} }

theorem printingTwin_mayCommit : mayWrite printingTwin .a ∧ commitBusy printingTwin = false := by decide +kernel

theorem printingTwin_lostSlots : lostSlots printingTwin {} = [128, 129] := by decide +kernel

/-- Ending the pair abandons the print, whose waiting line is applied, cannot be read, and has the hold reinitialized under a new key
(R273, R282): it takes the first free slot, 128, which the COMMIT has just zeroized. -/
theorem commitStart_printingTwin_slot : ((commitStart printingTwin {}).keys.slots.getD 128 {}).valid = true := by decide +kernel

/-- Refutes O21: where a COMMIT ends a pair, what follows for the hold may draw a key into a slot that the same COMMIT has struck, so that
the slot of a range that changes holds a valid key when the reply goes out. -/
theorem not_rigChangesOnlyThroughCommit : ¬ Obligations.RigChangesOnlyThroughCommit := by
  rintro ⟨-, -, -, hcommit, -⟩
  obtain ⟨hmay, hidle⟩ := printingTwin_mayCommit
  obtain ⟨u, hexec, -, -, -, hstruck⟩ := hcommit printingTwin .a 0 {} hmay hidle rfl
  have hreply : mgmtReply (commitStart printingTwin {}) .a 0 .ok [] = mgmtReply u .a 0 .ok [] :=
    Host.Outcome.next.inj ((exec_commit_starts 0 hmay hidle rfl).symm.trans hexec)
  have hslot : u.keys.slots.getD 128 {} = (commitStart printingTwin {}).keys.slots.getD 128 {} := by
    rw [List.getD_eq_getElem?_getD, ← mgmtReply_slot u .a 0 .ok [] (by decide), ← hreply, mgmtReply_slot _ .a 0 .ok [] (by decide),
      List.getD_eq_getElem?_getD]
  have hinvalid := hstruck 128 (by rw [printingTwin_lostSlots]; decide)
  rw [hslot, commitStart_printingTwin_slot] at hinvalid
  cases hinvalid

end Sys2Proof.Machine
end

section
/-! SUPPORT. The fields of a floating-point code, the value they spell, and what rounding and encoding make of that value again; the
integer and the power-of-two codes likewise. -/

namespace Sys2Proof.Machine

/-! ### Significant bits -/

theorem bitLen_le {m k : Nat} (h : m < 2 ^ k) : bitLen m ≤ k := by
  unfold bitLen
  split
  · exact Nat.zero_le k
  · next hm => exact (Nat.log2_lt hm).2 h

theorem bitLen_eq_succ {m k : Nat} (hlo : 2 ^ k ≤ m) (hhi : m < 2 ^ (k + 1)) : bitLen m = k + 1 := by
  have hm : m ≠ 0 := Nat.ne_of_gt (Nat.lt_of_lt_of_le (Nat.two_pow_pos k) hlo)
  have hk : k ≤ Nat.log2 m := (Nat.le_log2 hm).2 hlo
  have hle : bitLen m ≤ k + 1 := bitLen_le hhi
  rw [bitLen, if_neg hm] at hle ⊢
  omega

@[simp] theorem roundMul_self (m : Nat) (e : Int) : roundMul e m e = m := by simp [roundMul]

@[simp] theorem scaleNat_zero (m : Nat) : scaleNat m 0 = m := by simp [scaleNat]

/-! ### The fields of a code (R73) -/

/-- The code of a sign, an exponent field and a fraction field, from the most significant bit down. -/
def joinFields (eb mb : Nat) (s : Bool) (ex f : Nat) : Nat := (if s then 2 ^ (eb + mb) else 0) + ex * 2 ^ mb + f

/-- A code of 1 + eb + mb bits is its three fields joined. -/
theorem joinFields_split {eb mb c : Nat} (h : c < 2 ^ (eb + mb + 1)) :
    joinFields eb mb (decide (c / 2 ^ (eb + mb) % 2 = 1)) (c / 2 ^ mb % 2 ^ eb) (c % 2 ^ mb) = c := by
  have hsign : c / 2 ^ (eb + mb) < 2 := Nat.div_lt_of_lt_mul (by rwa [← Nat.pow_succ])
  have hhigh : 2 ^ (eb + mb) * (c / 2 ^ (eb + mb)) + c % 2 ^ (eb + mb) = c := Nat.div_add_mod c _
  have hlow : c % 2 ^ (eb + mb) = c % 2 ^ mb + 2 ^ mb * (c / 2 ^ mb % 2 ^ eb) := by
    rw [Nat.add_comm eb mb, Nat.pow_add, Nat.mod_mul]
  rw [hlow] at hhigh
  rw [joinFields, Nat.mul_comm (c / 2 ^ mb % 2 ^ eb)]
  obtain hs | hs := Nat.le_one_iff_eq_zero_or_eq_one.1 (Nat.le_of_lt_succ hsign)
  all_goals
    rw [hs] at hhigh ⊢
    simp
    omega

/-- An exponent field and a fraction field spell the significand m and the unit 2^e: subnormal for field 0, normal above it (R73). -/
inductive FieldValue (mb : Nat) (bias : Int) : (ex f m : Nat) → (e : Int) → Prop
  | subnormal {f : Nat} (hf : f < 2 ^ mb) : FieldValue mb bias 0 f f (1 - bias - mb)
  | normal {ex f : Nat} (hex : 0 < ex) (hf : f < 2 ^ mb) : FieldValue mb bias ex f (2 ^ mb + f) (ex - bias - mb)

theorem decodeFin_fieldValue (eb mb : Nat) (bias : Int) (c : Nat) :
    ∃ m e, decodeFin eb mb bias c = .fin (decide (c / 2 ^ (eb + mb) % 2 = 1)) m e ∧
      FieldValue mb bias (c / 2 ^ mb % 2 ^ eb) (c % 2 ^ mb) m e := by
  have hf : c % 2 ^ mb < 2 ^ mb := Nat.mod_lt _ (Nat.two_pow_pos mb)
  by_cases hex : c / 2 ^ mb % 2 ^ eb = 0
  · exact ⟨_, _, if_pos hex, hex ▸ .subnormal hf⟩
  · exact ⟨_, _, if_neg hex, .normal (Nat.pos_of_ne_zero hex) hf⟩

namespace FieldValue

variable {mb ex f m : Nat} {bias e : Int}

theorem lt (h : FieldValue mb bias ex f m e) : m < 2 ^ (mb + 1) := by
  rw [Nat.pow_succ]
  cases h <;> omega

theorem unit_le (h : FieldValue mb bias ex f m e) {t : Int} (hex : ex ≤ t) (ht : 1 ≤ t) : e ≤ t - bias - mb := by
  cases h <;> omega

/-- A spelled value has no bit below its format's precision: rounding leaves it (R91 steps 1 and 2). -/
theorem roundSig_eq (h : FieldValue mb bias ex f m e) : roundSig (mb + 1) (1 - bias - mb) m e = (m, e) := by
  have hunit : max (e + bitLen m - (mb + 1 : Nat)) (1 - bias - mb) = e := by
    cases h with
    | subnormal hf =>
      have := bitLen_le hf
      omega
    | normal hex hf =>
      rw [bitLen_eq_succ (Nat.le_add_right _ _) (by rw [Nat.pow_succ]; omega)]
      omega
  rw [roundSig, hunit, roundMul_self]

theorem log2Mag_normal (hf : f < 2 ^ mb) : log2Mag (2 ^ mb + f) (ex - bias - mb) = ex - bias := by
  rw [log2Mag, bitLen_eq_succ (Nat.le_add_right _ _) (by rw [Nat.pow_succ]; omega)]
  omega

theorem log2Mag_subnormal (hf : f < 2 ^ mb) : log2Mag f (1 - bias - mb) < 1 - bias := by
  have := bitLen_le hf
  rw [log2Mag]
  omega

/-- Encoding a spelled value gives its fields back. -/
theorem encodeSmall_eq (h : FieldValue mb bias ex f m e) (eb : Nat) (s : Bool) :
    encodeSmall eb mb bias (.fin s m e) = joinFields eb mb s ex f := by
  cases h with
  | subnormal hf =>
    rw [encodeSmall, if_pos (log2Mag_subnormal hf), show 1 - bias - mb + bias - 1 + mb = 0 by omega, scaleNat_zero, joinFields]
    split
    · next h0 => simp [h0]
    · simp
  | normal hex hf =>
    have hm : 2 ^ mb + f ≠ 0 := Nat.ne_of_gt (Nat.lt_of_lt_of_le (Nat.two_pow_pos mb) (Nat.le_add_right _ _))
    rw [encodeSmall, if_neg hm, log2Mag_normal hf, if_neg (by omega), show ex - bias - mb - (ex - bias) + mb = 0 by omega,
      scaleNat_zero, show (ex - bias + bias).toNat = ex by omega, Nat.add_sub_cancel_left, joinFields]

theorem log2Mag_le (h : FieldValue mb bias ex f m e) (hex : ex ≤ 2 * bias) : log2Mag m e ≤ bias := by
  cases h with
  | subnormal hf =>
    have := log2Mag_subnormal (bias := bias) hf
    omega
  | normal hpos hf =>
    rw [log2Mag_normal hf]
    omega

/-- A spelled value up to the largest normal exponent rounds to itself without an overflow. -/
theorem roundFmt_eq (h : FieldValue mb bias ex f m e) (hex : ex ≤ 2 * bias) (hm : m ≠ 0) (s : Bool) :
    roundFmt (mb + 1) (1 - bias) bias (.fin s m e) = (.fin s m e, false) := by
  simp [roundFmt, h.roundSig_eq, hm, h.log2Mag_le hex]

end FieldValue

/-! ### The formats with infinities -/

/-- A finite value's code by R73 is the same whether or not the all-ones exponent is kept for infinities. -/
theorem encodeIeee_fin (eb mb : Nat) (s : Bool) (m : Nat) (e : Int) :
    encodeIeee eb mb (.fin s m e) = encodeSmall eb mb (2 ^ (eb - 1) - 1) (.fin s m e) := rfl

theorem convIeee_zero (eb mb : Nat) (s : Bool) (e : Int) : convIeee eb mb (.fin s 0 e) = ⟨joinFields eb mb s 0 0, 0⟩ := by
  simp [convIeee, roundFmt, encodeIeee, numIsZero, joinFields]

/-- Converting an infinity gives the all-ones exponent with fraction 0 and sets no event. -/
theorem convIeee_inf (eb mb : Nat) (s : Bool) : convIeee eb mb (.inf s) = ⟨joinFields eb mb s (2 ^ eb - 1) 0, 0⟩ := by
  simp [convIeee, roundFmt, encodeIeee, numIsZero, numIsFin, joinFields]

/-- Converting a spelled value gives its fields back and sets no event. -/
theorem convIeee_fieldValue {eb mb ex f m : Nat} {e : Int} (h : FieldValue mb (2 ^ (eb - 1) - 1) ex f m e)
    (hex : (ex : Int) ≤ 2 * (2 ^ (eb - 1) - 1)) (s : Bool) : convIeee eb mb (.fin s m e) = ⟨joinFields eb mb s ex f, 0⟩ := by
  have hcode : encodeIeee eb mb (.fin s m e) = joinFields eb mb s ex f := by rw [encodeIeee_fin, h.encodeSmall_eq]
  by_cases hm : m = 0
  · subst hm
    rw [convIeee_zero, ← hcode]
    simp [encodeIeee, joinFields]
  · simp [convIeee, h.roundFmt_eq hex hm, hcode, numIsZero]

/-- A code with infinities in its all-ones exponent that is no NaN converts back to itself, with no event. -/
theorem convIeee_decodeIeee {eb mb c : Nat} (heb : 0 < eb) (hc : c < 2 ^ (eb + mb + 1)) (hnan : decodeIeee eb mb c ≠ .nan) :
    convIeee eb mb (decodeIeee eb mb c) = ⟨c, 0⟩ := by
  have hsplit := joinFields_split hc
  have hbias : 2 ^ (eb - 1) * 2 = 2 ^ eb := Nat.two_pow_pred_mul_two heb
  by_cases hex : c / 2 ^ mb % 2 ^ eb = 2 ^ eb - 1
  · by_cases hf : c % 2 ^ mb = 0
    · rw [hex, hf] at hsplit
      rw [decodeIeee, if_pos hex, if_pos hf, convIeee_inf, hsplit]
    · exact absurd ((if_pos hex).trans (if_neg hf)) hnan
  · obtain ⟨m, e, hfin, hval⟩ := decodeFin_fieldValue eb mb (2 ^ (eb - 1) - 1) c
    have hlt : c / 2 ^ mb % 2 ^ eb < 2 ^ eb := Nat.mod_lt _ (Nat.two_pow_pos eb)
    rw [decodeIeee, if_neg hex, hfin, convIeee_fieldValue hval ?_, hsplit]
    generalize c / 2 ^ mb % 2 ^ eb = ex at hex hlt
    have hle : ex + 2 ≤ 2 * 2 ^ (eb - 1) := by omega
    have hint : (ex : Int) + 2 ≤ 2 * 2 ^ (eb - 1) := by exact_mod_cast hle
    omega

/-- Rounding to F32 and encoding is the conversion to F32 without its event. -/
theorem toF32_eq_convIeee (x : Num) : toF32 x = BitVec.ofNat 32 (convIeee 8 23 x).code := by
  dsimp only [convIeee]
  split
  · rfl
  · split <;> rfl

/-! ### The formats without infinities -/

/-- m·2^e is not above M·2^E when its unit is no larger and m is at most M in that unit. -/
theorem magCmp_ne_gt {m M : Nat} {e E : Int} (he : e ≤ E) (hm : m ≤ M * 2 ^ (E - e).toNat) : (magCmp m e M E == .gt) = false := by
  rw [magCmp, if_pos he, beq_eq_false_iff_ne, Nat.compare_ne_gt]
  exact hm

/-- Converting a spelled value that is not above the largest finite one gives its fields back and sets no event. -/
theorem convSmall_fieldValue {g : Fmt} {mb ex f m : Nat} {bias e : Int} (eb : Nat) (ovfNan s : Bool) (h : FieldValue mb bias ex f m e)
    (hle : (magCmp m e (fmtMax g).1 (fmtMax g).2 == .gt) = false) :
    convSmall g eb mb bias ovfNan (.fin s m e) = ⟨joinFields eb mb s ex f, 0⟩ := by
  rw [← h.encodeSmall_eq eb s]
  by_cases hm : m = 0
  · simp [convSmall, encodeSmall, hm]
  · simp [convSmall, h.roundSig_eq, hm, hle]

/-- A code whose all-ones exponent holds normal values converts back to itself when its value is not above the largest finite one. -/
theorem convSmall_decodeFin {g : Fmt} {eb mb : Nat} {bias : Int} {c : Nat} (ovfNan : Bool) (hc : c < 2 ^ (eb + mb + 1))
    (hle : ∀ m e, FieldValue mb bias (c / 2 ^ mb % 2 ^ eb) (c % 2 ^ mb) m e → (magCmp m e (fmtMax g).1 (fmtMax g).2 == .gt) = false) :
    convSmall g eb mb bias ovfNan (decodeFin eb mb bias c) = ⟨c, 0⟩ := by
  obtain ⟨m, e, hfin, hval⟩ := decodeFin_fieldValue eb mb bias c
  rw [hfin, convSmall_fieldValue eb ovfNan _ hval (hle m e hval), joinFields_split hc]

/-- Where the largest finite value is the all-ones code's, no value is above it. -/
theorem FieldValue.le_allOnes {eb mb ex f m : Nat} {bias e : Int} (h : FieldValue mb bias ex f m e) (heb : 0 < eb) (hex : ex < 2 ^ eb) :
    (magCmp m e (2 ^ (mb + 1) - 1) (2 ^ eb - 1 - bias - mb) == .gt) = false := by
  have hpos : 2 ^ 1 ≤ 2 ^ eb := Nat.pow_le_pow_right (by decide) heb
  have htwo : (2 : Int) ≤ 2 ^ eb := by exact_mod_cast hpos
  have htop : (ex : Int) < 2 ^ eb := by exact_mod_cast hex
  exact magCmp_ne_gt (h.unit_le (by omega) (by omega))
    (Nat.le_trans (Nat.le_sub_one_of_lt h.lt) (Nat.le_mul_of_pos_right _ (Nat.two_pow_pos _)))

/-- An E4M3 code that is no NaN is at most 448: its top exponent has no fraction 7. -/
theorem FieldValue.le_e4m3Max {ex f m : Nat} {e : Int} (h : FieldValue 3 7 ex f m e) (hex : ex < 16) (hnan : ¬ (ex = 15 ∧ f = 7)) :
    (magCmp m e 7 6 == .gt) = false := by
  have hunit : e ≤ 5 := h.unit_le (t := 15) (by omega) (by omega)
  have hlt : m < 16 := h.lt
  have htop : e = 5 → m ≤ 14 := by cases h <;> omega
  refine magCmp_ne_gt (by omega) ?_
  obtain rfl | hlow : e = 5 ∨ e ≤ 4 := by omega
  · exact htop rfl
  · have hpow : 2 ^ 2 ≤ 2 ^ (6 - e).toNat := Nat.pow_le_pow_right (by omega) (by omega)
    omega

theorem convSmall_e4m3 {c : Nat} (hc : c < 256) (hnan : decodeElem .e4m3 [] c ≠ .nan) :
    convSmall .e4m3 4 3 7 false (decodeElem .e4m3 [] c) = ⟨c, 0⟩ := by
  have hcode : c % 128 ≠ 127 := fun h => hnan (if_pos h)
  rw [decodeElem, if_neg hcode]
  exact convSmall_decodeFin false hc fun m e hval => hval.le_e4m3Max (by omega) (by omega)

/-! ### The integer formats (R78) -/

/-- Converting a code's two's complement value gives the code back: it is an integer within the bounds. -/
theorem convInt_sext {w c : Nat} (hw : 0 < w) (hc : c < 2 ^ w) :
    convInt w (-2 ^ (w - 1)) (2 ^ (w - 1) - 1) (numOfInt (sext w c)) = ⟨c, 0⟩ := by
  have hhalf : (2 : Int) ^ (w - 1) * 2 = 2 ^ w := by exact_mod_cast Nat.two_pow_pred_mul_two hw
  have hcw : (c : Int) < 2 ^ w := by exact_mod_cast hc
  have hbounds : -2 ^ (w - 1) ≤ sext w c ∧ sext w c ≤ 2 ^ (w - 1) - 1 := by
    rw [sext, Nat.mod_eq_of_lt hc]
    split
    · next h =>
      have hlow : (c : Int) < 2 ^ (w - 1) := by exact_mod_cast h
      omega
    · next h =>
      have hhigh : (2 : Int) ^ (w - 1) ≤ c := by exact_mod_cast Nat.le_of_not_lt h
      omega
  have hcode : (sext w c % 2 ^ w).toNat = c := by
    rw [sext, Nat.mod_eq_of_lt hc]
    split
    · rw [Int.emod_eq_of_lt (by omega) hcw, Int.toNat_natCast]
    · rw [Int.sub_emod_right, Int.emod_eq_of_lt (by omega) hcw, Int.toNat_natCast]
  have hsigned : (if decide (sext w c < 0) then -((sext w c).natAbs : Int) else (sext w c).natAbs) = sext w c := by
    simp only [decide_eq_true_eq]
    split <;> omega
  simp only [convInt, numOfInt, roundMul_self, hsigned, hcode]
  rw [if_neg (by omega), if_neg (by omega)]

/-! ### L4 (R76) -/

/-- Bit 3 of an L4 code is the sign and bits [2:0] are the magnitude code. -/
theorem decodeL4_fields (s : Bool) {c : Nat} (h : c < 8) :
    decodeL4 ((if s then 8 else 0) + c) = if c = 0 then .fin s 0 0 else .fin s 1 ((c : Int) - 4) := by
  have hmag : ((if s then 8 else 0) + c) % 8 = c := by cases s <;> simp <;> omega
  have hsign : decide (((if s then 8 else 0) + c) / 8 % 2 = 1) = s := by cases s <;> simp <;> omega
  simp only [decodeL4, hmag, hsign]

theorem l4Code_pow : ∀ c : Nat, c < 8 → c ≠ 0 → l4Code 1 ((c : Int) - 4) = c := by decide

/-- An L4 code converts back to itself, with no event. -/
theorem convL4_decodeL4 {c : Nat} (h : c < 16) : convL4 (decodeL4 c) = ⟨c, 0⟩ := by
  obtain ⟨s, k, hk, rfl⟩ : ∃ (s : Bool) (k : Nat), k < 8 ∧ c = (if s then 8 else 0) + k :=
    ⟨decide (8 ≤ c), c % 8, Nat.mod_lt _ (by decide), by simp only [decide_eq_true_eq]; split <;> omega⟩
  rw [decodeL4_fields s hk]
  split
  · next h0 => simp [convL4, h0]
  · next h0 => simp [convL4, l4Code_pow k hk h0, h0, Nat.ne_of_lt hk]

end Sys2Proof.Machine
end

section
/-! CLAIMS. The codes of the number formats. -/

namespace Sys2Proof.Machine

/-- Settles O18: an L4 code's value by its two fields. -/
theorem l4Codes : Obligations.L4Codes := by
  intro cb s c h
  change decodeL4 _ = _ ∧ numIsFin (decodeL4 _) = true
  rw [decodeL4_fields s h]
  exact ⟨rfl, by split <;> rfl⟩

/-- Settles O17: a code is its fields joined, rounding leaves the value they spell, and encoding that value gives the fields back. -/
theorem numberFormatsDecodeAndEncode : Obligations.NumberFormatsDecodeAndEncode := by
  refine ⟨?_, ?_, ?_, ?_, ?_, ?_, ?_, ?_, ?_⟩
  case refine_1 =>
    intro c hnan
    rw [toF32_eq_convIeee, ofF32, convIeee_decodeIeee (by decide) c.isLt hnan, BitVec.ofNat_toNat, BitVec.setWidth_eq]
  case refine_2 =>
    intro c hnan
    rw [hnan]
    decide
  case refine_3 =>
    intro f c hf hc hnan
    simp only [List.mem_cons, List.not_mem_nil, or_false] at hf
    rcases hf with rfl | rfl | rfl | rfl
    all_goals exact convIeee_decodeIeee (by decide) hc hnan
  case refine_4 =>
    intro f c hf hnan
    rw [hnan]
    simp only [List.mem_cons, List.not_mem_nil, or_false] at hf
    rcases hf with rfl | rfl | rfl | rfl
    all_goals rfl
  case refine_5 =>
    intro f c hf hc hnan
    have hfield : ∀ n, c / n % 2 ^ f.2.1 < 2 ^ f.2.1 := fun n => Nat.mod_lt _ (Nat.two_pow_pos _)
    simp only [List.mem_cons, List.not_mem_nil, or_false] at hf
    rcases hf with rfl | rfl | rfl | rfl
    · exact convSmall_e4m3 hc hnan
    · exact convSmall_decodeFin false hc fun m e hval => hval.le_allOnes (by decide) (hfield _)
    · exact convSmall_decodeFin false hc fun m e hval => hval.le_allOnes (by decide) (hfield _)
    · exact convSmall_decodeFin false hc fun m e hval => hval.le_allOnes (by decide) (hfield _)
  case refine_6 => exact fun c hc => convInt_sext (w := 8) (by decide) hc
  case refine_7 => exact fun c hc => convInt_sext (w := 4) (by decide) hc
  case refine_8 => exact fun c hc => convInt_sext (w := 2) (by decide) hc
  case refine_9 => exact fun c hc => convL4_decodeL4 hc

end Sys2Proof.Machine
end

section
/-! SUPPORT. A write of main memory, and the save and the restore of a band's image that pass through it, leave the port module and the
spaces as they were: no command, queue or context changes while a band changes hands. -/

namespace Sys2Proof.Machine

theorem PortsKept.cmdGet {s t : State} (h : PortsKept s t) (cid : Nat) : cmdGet t cid = cmdGet s cid :=
  congrArg (fun x => x.cmds.find? fun c => c.id == cid) h.sp

/-! ### Writes of main memory -/

theorem mergeOldest_ports (s : State) (stack : Nat) : PortsKept s (mergeOldest s stack) := by
  unfold mergeOldest mergeStore
  repeat' split
  all_goals exact ⟨rfl, rfl⟩

theorem mergeHold_ports : ∀ (fuel : Nat) (s : State) (stack key lines : Nat), PortsKept s (mergeHold fuel s stack key lines)
  | 0, _, _, _, _ => ⟨rfl, rfl⟩
  | fuel + 1, s, stack, key, lines => by
    simp only [mergeHold]
    split
    · exact (mergeOldest_ports s stack).trans (mergeHold_ports fuel _ _ _ _)
    · exact ⟨rfl, rfl⟩

theorem markMirror_ports (s : State) (n a size : Nat) : PortsKept s (markMirror s n a size) := by
  unfold markMirror
  split <;> exact ⟨rfl, rfl⟩

theorem mergeBytes_ports (s : State) (n a : Nat) (bs : List Byte) : PortsKept s (mergeBytes s n a bs) :=
  (markMirror_ports _ _ _ _).of_eq rfl rfl

theorem writeInUnit_ports (via : Bool) (s : State) (w : Who) (n a : Nat) (bs : List Byte) :
    PortsKept s (writeInUnit via s w n a bs).1 := by
  have hpath : PortsKept s (if (rangeCfg s n).mode = 2 then
      fetchPath false s n (a / unitBytes (rangeCfg s n) * unitBytes (rangeCfg s n)) else (s, none, 0)).1 := by
    split
    · exact fetchPath_ports _ _ _ _
    · exact .refl s
  unfold writeInUnit
  dsimp only
  split
  · exact mergeBytes_ports s n a bs
  · generalize (if (rangeCfg s n).mode = 2 then
      fetchPath false s n (a / unitBytes (rangeCfg s n) * unitBytes (rangeCfg s n)) else (s, none, 0)) = p at hpath ⊢
    split
    · dsimp only
      exact hpath.trans (failRange_ports _ _ _ _ _ _)
    · split
      · dsimp only
        exact hpath.trans (failRange_ports _ _ _ _ _ _)
      · split
        · exact hpath.trans ((markMirror_ports _ _ _ _).of_eq rfl rfl)
        · have hread := hpath.trans (readUnit_ports false _ n (a / unitBytes (rangeCfg s n) * unitBytes (rangeCfg s n)))
          split
          · refine PortsKept.trans ?_ (mergeBytes_ports _ n a bs)
            refine PortsKept.trans ?_ (mergeHold_ports 512 _ _ _ _)
            split
            · exact hread
            · exact hread.trans ⟨rfl, rfl⟩
          · exact hread.trans (failRange_ports _ _ _ _ _ _)

theorem writePhysF_ports (via : Bool) (w : Who) : ∀ (fuel a : Nat) (bs : List Byte) (s : State),
    PortsKept s (writePhysF via w fuel a bs s).st
  | 0, _, _, s => .refl s
  | fuel + 1, _, [], s => .refl s
  | fuel + 1, a, b :: bs, s => by
    simp only [writePhysF]
    split
    · split
      · exact (writeInUnit_ports _ _ _ _ _ _).trans (writePhysF_ports via w fuel _ _ _)
      · exact writeInUnit_ports _ _ _ _ _ _
    · exact .refl s
    · exact .refl s

/-! ### Save images (R140, R428) -/

theorem savePut_ports (slot : Nat) : ∀ (pages : List Nat) (off : Nat) (bs : List Byte) (s t : State),
    savePut slot pages off bs s = some t → PortsKept s t
  | [], _, _, s, t, h => Option.some.inj h ▸ .refl s
  | p :: pages, off, bs, s, t, h => by
    unfold savePut at h
    dsimp only at h
    split at h
    · exact savePut_ports slot pages _ _ _ _ h
    · split at h
      · exact (writePhysF_ports _ _ _ _ _ _).trans (savePut_ports slot pages _ _ _ _ h)
      · cases h

theorem saveImage_ports {s t : State} {i : Image} {bytes : List Byte} (h : saveImage s i bytes = some t) : PortsKept s t := by
  unfold saveImage at h
  split at h
  · cases h
  · obtain ⟨u, hput, rfl⟩ := Option.map_eq_some_iff.1 h
    exact (savePut_ports _ _ _ _ _ _ hput).trans ⟨rfl, rfl⟩

theorem bandSave_ports {s t : State} {x : Band} (h : bandSave s x = some t) : PortsKept s t := by
  unfold bandSave at h
  dsimp only at h
  split at h
  · exact Option.some.inj h ▸ ⟨rfl, rfl⟩
  · obtain ⟨u, hsave, rfl⟩ := Option.map_eq_some_iff.1 h
    exact (saveImage_ports hsave).trans ⟨rfl, rfl⟩

theorem saveGet_ports (slot : Nat) : ∀ (pages : List Nat) (off n : Nat) (s : State), PortsKept s (saveGet slot pages off n s).1
  | [], _, _, s => .refl s
  | p :: pages, off, n, s => by
    simp only [saveGet]
    split
    · exact saveGet_ports slot pages _ _ _
    · split
      · exact (readPhysF_ports _ _ _ _ _).trans (saveGet_ports slot pages _ _ _)
      · exact readPhysF_ports _ _ _ _ _

/-- A band switch has saved what the band held and read the context's image, where it has one; then either the image has been restored, or
it has been lost. -/
theorem bandSwitch_cases {s u : State} {x : Band} {ctx : Nat} {good : Bool} (h : bandSwitch s x ctx = some (u, good)) :
    (good = true ∧ PortsKept s u) ∨
      ∃ i t, (s.array.images.find? fun y => y.ctx == some ctx && y.engine == x.engine && y.band == x.band && !y.loaded) = some i ∧
        PortsKept s t ∧ u = imageLost t i ∧ good = false := by
  unfold bandSwitch at h
  dsimp only at h
  split at h
  · obtain ⟨rfl, rfl⟩ := Prod.mk.inj (Option.some.inj h)
    exact .inl ⟨rfl, .refl s⟩
  · next i hfind =>
    obtain ⟨t, hsave, hread⟩ := Option.map_eq_some_iff.1 h
    have hports : PortsKept s (imageStatus t i).1 := (bandSave_ports hsave).trans (saveGet_ports _ _ _ _ _)
    split at hread
    · obtain ⟨rfl, rfl⟩ := Prod.mk.inj hread
      exact .inl ⟨rfl, hports.trans ⟨rfl, rfl⟩⟩
    · obtain ⟨rfl, rfl⟩ := Prod.mk.inj hread
      exact .inr ⟨i, _, hfind, hports, rfl, rfl⟩

end Sys2Proof.Machine
end

section
/-! SUPPORT. What the parts of a MATMUL touch: the engines, the masks of contexts and spaces, and the free values used. Nothing else of the
state changes but for the command itself, which ends. -/

namespace Sys2Proof.Machine

/-! ### The work of an engine -/

/-- A state after work on engines: the array, the free values used, and the entries of contexts and spaces may have changed. -/
def EngineWork (s t : State) : Prop :=
  ∃ array freeCtr ctxs slots, t = { s with array := array, freeCtr := freeCtr, sp := { s.sp with ctxs := ctxs, slots := slots } }

namespace EngineWork

theorem refl (s : State) : EngineWork s s := ⟨_, _, _, _, rfl⟩

theorem trans {s t u : State} (h : EngineWork s t) (k : EngineWork t u) : EngineWork s u := by
  obtain ⟨_, _, _, _, rfl⟩ := h
  obtain ⟨_, _, _, _, rfl⟩ := k
  exact ⟨_, _, _, _, rfl⟩

theorem foldl {α : Type} (f : State → α → State) (h : ∀ t x, EngineWork t (f t x)) : ∀ (l : List α) (s : State), EngineWork s (l.foldl f s)
  | [], s => refl s
  | x :: l, s => (h s x).trans (foldl f h l (f s x))

variable {s t : State} (h : EngineWork s t)
include h

theorem mem : t.mem = s.mem := by obtain ⟨_, _, _, _, rfl⟩ := h; rfl

theorem keys : t.keys = s.keys := by obtain ⟨_, _, _, _, rfl⟩ := h; rfl

theorem ciph : t.ciph = s.ciph := by obtain ⟨_, _, _, _, rfl⟩ := h; rfl

theorem cmdGet (cid : Nat) : cmdGet t cid = cmdGet s cid := by obtain ⟨_, _, _, _, rfl⟩ := h; rfl

theorem bandAt (e b : Nat) : bandAt t e b = bandAt s e b := by obtain ⟨_, _, _, _, rfl⟩ := h; rfl

end EngineWork

/-- A command that is live before engine work ends by it with the result given. -/
theorem cmdGet_cmdEnd_work {s t : State} {cid : Nat} {c : Cmd} (r : Result) (h : EngineWork s t) (hget : cmdGet s cid = some c)
    (hlive : cmdLive c = true) : cmdGet (cmdEnd t cid r) cid = some { c with phase := .finished r } :=
  cmdGet_cmdEnd t cid r c ((h.cmdGet cid).trans hget) hlive

theorem cmdGet_id {s : State} {cid : Nat} {c : Cmd} (h : cmdGet s cid = some c) : c.id = cid := by
  simpa using List.find?_some h

/-! ### Each part's work -/

theorem sramMeet_work (e : Nat) (s : State) (w : SramWord) : EngineWork s (sramMeet e s w) := by
  unfold sramMeet sramFlip
  dsimp only
  repeat' split
  all_goals exact ⟨_, _, _, _, rfl⟩

theorem sramCount_work (s : State) (e : Nat) (x : SramErr) : EngineWork s (sramCount s e x) := .foldl _ (sramMeet_work e) x s

theorem holdRead_work (s : State) (ctx : Nat) (x : Band) (stg tile : Bool) : EngineWork s (holdRead s ctx x stg tile) :=
  ⟨_, _, _, _, rfl⟩

theorem holdWrite_work (s : State) (c : Cmd) (x : Band) (stg tile : Bool) : EngineWork s (holdWrite s c x stg tile) := by
  unfold holdWrite
  split <;> exact ⟨_, _, _, _, rfl⟩

theorem tilePutRows_work (x : Band) (base : Nat) : ∀ (i : Nat) (rows : List (List W32)) (s : State),
    EngineWork s (tilePutRows x base i rows s)
  | _, [], s => .refl s
  | i, r :: rows, s => EngineWork.trans ⟨_, _, _, _, rfl⟩ (tilePutRows_work x base (i + 1) rows (tilePutRow s x base i r))

theorem mmStore_work (s : State) (b : MmBody) (r : MmRun) (cells : List ((Nat × Nat) × Cell)) (rows : Nat) :
    EngineWork s (mmStore s b r cells rows) := by
  refine EngineWork.trans ?_ (tilePutRows_work _ _ _ _ _)
  split <;> exact ⟨_, _, _, _, rfl⟩

theorem mmWorked_work (s : State) (b : MmBody) (fa fb : FmtWord) (overlap : Nat) (start stop : Nat × Nat) :
    EngineWork s (mmWorked s b fa fb overlap start stop) := ⟨_, _, _, _, rfl⟩

theorem rushFill_work (s : State) (c : Cmd) (b : MmBody) (a w : Operand) (cells : List ((Nat × Nat) × Cell)) :
    EngineWork s (rushFill s c b a w cells) := by
  unfold rushFill
  split
  · exact .refl s
  · exact EngineWork.trans ⟨_, _, _, _, rfl⟩ (.foldl _ (fun t j => ⟨_, _, _, _, rfl⟩) _ _)

theorem putCodeRows_work (x : Band) (f : Fmt) (off pitch n : Nat) : ∀ (m i : Nat) (cs : List Nat) (s : State),
    EngineWork s (putCodeRows x f off pitch n m i cs s)
  | 0, _, _, s => .refl s
  | m + 1, i, cs, _ => EngineWork.trans ⟨_, _, _, _, rfl⟩ (putCodeRows_work x f off pitch n m (i + 1) (cs.drop n) _)

theorem tileSpoil_work (s : State) (x : Band) (base m n : Nat) : EngineWork s (tileSpoil s x base m n) :=
  (tilePutRows_work _ _ _ _ _).trans ⟨_, _, _, _, rfl⟩

theorem stgSpoil_work (s : State) (x : Band) (off pitch row : Nat) : ∀ m : Nat, EngineWork s (stgSpoil s x off pitch row m)
  | 0 => .refl s
  | m + 1 => (stgSpoil_work s x off pitch row m).trans ⟨_, _, _, _, rfl⟩

theorem mmLose_work (s : State) (c : Cmd) : EngineWork s (mmLose s c) := by
  have h : ∀ x base m n stg, EngineWork s (holdWrite (tileSpoil s x base m n) c x stg true) :=
    fun x base m n stg => (tileSpoil_work s x base m n).trans (holdWrite_work _ c x stg true)
  unfold mmLose
  dsimp only
  split
  · exact h _ _ _ _ _
  · exact (h _ _ _ _ _).trans (stgSpoil_work _ _ _ _ _ _)

theorem mmSpoil_work (s : State) (c : Cmd) (p : Progress) : EngineWork s (mmSpoil s c p) := by
  unfold mmSpoil
  dsimp only
  split
  · exact EngineWork.trans ⟨_, _, _, _, rfl⟩ (mmLose_work _ c)
  · exact .refl s

/-! ### A MATMUL's arithmetic -/

/-- The output elements and the tally of a MATMUL that streams to its end. -/
def mmDone (s : State) (b : MmBody) (fa fb : FmtWord) (p : Progress) : List ((Nat × Nat) × Cell) × Tally :=
  mmStream s b (mmOpen s b fa fb) p (chunkCount (mmOpen s b fa fb).depth b.k) 0

/-- The state once the output elements are in the tiles. -/
def mmStored (s : State) (c : Cmd) (b : MmBody) (fa fb : FmtWord) (p : Progress) : State :=
  let r := mmOpen s b fa fb
  let s1 := holdRead s c.ctx r.x (b.k ≠ 0 || 2 ≤ b.epi || (b.epi ≠ 0 && b.fo.any fun f => f.fmt == .c4)) (b.acc && b.k ≠ 0 || b.epi ≠ 0)
  if b.acc && b.k = 0 then s1 else mmStore s1 b r (mmDone s b fa fb p).1 b.m

/-- The state once the stream is counted too and the sampled tiles are noted for their checks. -/
def mmCounted (s : State) (c : Cmd) (b : MmBody) (fa fb : FmtWord) (p : Progress) (overlap : Nat) : State :=
  let r := mmOpen s b fa fb
  rushFill (mmWorked (mmStored s c b fa fb p) b fa fb overlap (p.chunk, p.row) (chunkCount r.depth b.k, 0)) c b r.a r.w
    (mmDone s b fa fb p).1

/-- The codes of the epilogue's output, and the tally with its events; without an epilogue none and the stream's tally. -/
def mmEpilogue (s : State) (b : MmBody) (fa fb : FmtWord) (p : Progress) : List Nat × Tally :=
  let r := mmOpen s b fa fb
  let fo := b.fo.getD ⟨.f32, .none, 1, 0, false⟩
  if b.epi = 0 then ([], (mmDone s b fa fb p).2)
  else epiRun s r.x b fo (cbRead s r.x fo.fmt b.cbB) (mmPlace r.x b.base) (mmDone s b fa fb p).1 (mmDone s b fa fb p).2

/-- The state before the command ends: the epilogue's output is in staging, the holding masks have taken the context's. -/
def mmWritten (s : State) (c : Cmd) (b : MmBody) (fa fb : FmtWord) (p : Progress) (overlap : Nat) : State :=
  let x := bandAt s b.engine b.band
  let t := mmCounted s c b fa fb p overlap
  let fo := b.fo.getD ⟨.f32, .none, 1, 0, false⟩
  let u := if b.epi = 0 then t else putCodeRows x fo.fmt b.outOff b.outPitch b.n b.m 0 (mmEpilogue s b fa fb p).1 t
  holdWrite u c x (b.epi ≠ 0) (!b.acc || b.k ≠ 0)

variable (s : State) (c : Cmd) (b : MmBody) (fa fb : FmtWord) (p : Progress) (overlap : Nat)

theorem mmCompute_eq : mmCompute s c b fa fb p overlap =
    cmdEnd (mmWritten s c b fa fb p overlap) c.id (tallyResult (mmEpilogue s b fa fb p).2 b.strict b.engine) := rfl

theorem mmStored_work : EngineWork s (mmStored s c b fa fb p) := by
  unfold mmStored
  dsimp only
  split
  · exact holdRead_work _ _ _ _ _
  · exact (holdRead_work _ _ _ _ _).trans (mmStore_work _ _ _ _ _)

theorem mmCounted_work : EngineWork s (mmCounted s c b fa fb p overlap) :=
  ((mmStored_work s c b fa fb p).trans (mmWorked_work _ _ _ _ _ _ _)).trans (rushFill_work _ _ _ _ _ _)

theorem mmWritten_work : EngineWork s (mmWritten s c b fa fb p overlap) := by
  refine EngineWork.trans ?_ (holdWrite_work _ _ _ _ _)
  split
  · exact mmCounted_work s c b fa fb p overlap
  · exact (mmCounted_work s c b fa fb p overlap).trans (putCodeRows_work _ _ _ _ _ _ _ _ _)

/-- The command of a MATMUL that passed its checks ends with the status of its tally. -/
theorem mmCompute_ends {cid : Nat} {d : Cmd} (hid : c.id = cid) (hget : cmdGet s cid = some d) (hlive : cmdLive d = true) :
    endsWith (mmCompute s c b fa fb p overlap) cid (tallyStatus (mmEpilogue s b fa fb p).2 b.strict) := by
  rw [mmCompute_eq, hid]
  exact ⟨_, _, cmdGet_cmdEnd_work _ (mmWritten_work s c b fa fb p overlap) hget hlive, rfl, rfl⟩

theorem tallyStatus_good (t : Tally) (strict : Bool) : tallyStatus t strict = .ok ∨ tallyStatus t strict = .okWithEvents :=
  (Decidable.em _).imp (fun h => if_pos h) (fun h => if_neg h)

/-- It ends OK or OK_WITH_EVENTS. -/
theorem mmCompute_endsOk {cid : Nat} {d : Cmd} (hid : c.id = cid) (hget : cmdGet s cid = some d) (hlive : cmdLive d = true) :
    endsOk (mmCompute s c b fa fb p overlap) cid := by
  obtain ⟨d, r, hd, hr, hstatus⟩ := mmCompute_ends s c b fa fb p overlap hid hget hlive
  exact ⟨d, r, hd, hr, hstatus ▸ tallyStatus_good _ _⟩

/-! ### The commands -/

variable {s c b fa fb p overlap}

/-- A MATMUL from where it stands, its checks passed and no uncorrectable SRAM word met, computes. -/
theorem mmRun_computes {e : SramErr} (hb : b = mmBody (cmdBody c)) (hcheck : mmCheck s c.space b = none) (hfa : b.fa = some fa)
    (hfb : b.fb = some fb) (he : sramBad e = false) :
    mmRun s c e p overlap = mmCompute (sramCount s b.engine e) c b fa fb p overlap := by
  subst hb
  simp only [mmRun, hcheck, hfa, hfb, he, Bool.false_eq_true, if_false]

theorem mmRun_refused {e : SramErr} {st : Status} (hcheck : mmCheck s c.space (mmBody (cmdBody c)) = some st) :
    mmRun s c e p overlap = cmdEnd s c.id { status := st, band := (mmBody (cmdBody c)).band } := by
  simp only [mmRun, hcheck]

theorem exec_matmul_runs {cid : Nat} (e : SramErr) (overlap : Nat) (hready : cmdReady s cid 0x10 = some c)
    (hstopped : feedersStopped s (fld (cmdBody c) 0 6) = false) : exec (.matmul cid e overlap) s = .next (mmRun s c e {} overlap) := by
  show execMatmul cid e s overlap = _
  rw [execMatmul, hready]
  simp only [hstopped, Bool.false_eq_true, if_false]

end Sys2Proof.Machine
end

section
/-! SUPPORT. Where a MATMUL writes: its own engine's accumulators, and staging through its epilogue alone. What it stores where K is 0. -/

namespace Sys2Proof.Machine

/-! ### Sparse maps that need not be canonical -/

theorem smGet_smPut_of_ne {β : Type} [DecidableEq β] (d x : β) {a k : Nat} (h : k ≠ a) : ∀ m : List (Nat × β),
    smGet d (smPut d m a x) k = smGet d m k
  | [] => by
    unfold smPut
    split <;> simp [smGet, h]
  | (l, v) :: m => by
    have ih := smGet_smPut_of_ne d x h m
    unfold smPut
    split
    · split <;> simp [smGet, h]
    · split
      · next hal =>
        subst hal
        split <;> simp [smGet, h]
      · simp [smGet, ih]

theorem smGet_smPutRun_of_outside {β : Type} [DecidableEq β] (d : β) {k : Nat} : ∀ (l : List β) (m : List (Nat × β)) (a : Nat),
    (k < a ∨ a + l.length ≤ k) → smGet d (smPutRun d m a l) k = smGet d m k
  | [], _, _, _ => rfl
  | x :: l, m, a, h => by
    rw [List.length_cons] at h
    rw [smPutRun, smGet_smPutRun_of_outside d l _ (a + 1) (by omega), smGet_smPut_of_ne d x (by omega)]

/-- A run of default values leaves nothing but them where it is put, and wherever there was nothing else before. -/
theorem smGet_smPutRun_default {β : Type} [DecidableEq β] (d : β) {l : List β} (hl : ∀ x ∈ l, x = d) {m : List (Nat × β)}
    (hm : smWf d m = true) {a k : Nat} (h : (a ≤ k ∧ k < a + l.length) ∨ smGet d m k = d) : smGet d (smPutRun d m a l) k = d := by
  rw [smGet_smPutRun d l m a k hm]
  split
  · next hk =>
    rw [List.getD_eq_getElem?_getD, List.getElem?_eq_getElem (show k - a < l.length by omega)]
    exact hl _ (List.getElem_mem _)
  · next hk => exact h.resolve_left hk

/-! ### Staging -/

theorem tilePutRows_staging (x : Band) (base : Nat) : ∀ (i : Nat) (rows : List (List W32)) (s : State),
    (tilePutRows x base i rows s).array.staging = s.array.staging
  | _, [], _ => rfl
  | i, _ :: rows, _ => tilePutRows_staging x base (i + 1) rows _

theorem rushFill_memories (s : State) (c : Cmd) (b : MmBody) (a w : Operand) (cells : List ((Nat × Nat) × Cell)) :
    (rushFill s c b a w cells).array.tiles = s.array.tiles ∧ (rushFill s c b a w cells).array.staging = s.array.staging := by
  have held : ∀ (l : List RushJob) (t : State), (l.foldl (fun t j => refHold t c j.refEngine) t).array.tiles = t.array.tiles ∧
      (l.foldl (fun t j => refHold t c j.refEngine) t).array.staging = t.array.staging := by
    intro l
    induction l with
    | nil => exact fun t => ⟨rfl, rfl⟩
    | cons j l ih => exact fun t => ih (refHold t c j.refEngine)
  unfold rushFill
  split
  · exact ⟨rfl, rfl⟩
  · exact held _ _

theorem holdWrite_memories (s : State) (c : Cmd) (x : Band) (stg tile : Bool) :
    (holdWrite s c x stg tile).array.tiles = s.array.tiles ∧ (holdWrite s c x stg tile).array.staging = s.array.staging := by
  unfold holdWrite
  split <;> exact ⟨rfl, rfl⟩

theorem putCodeRows_tiles (x : Band) (f : Fmt) (off pitch n : Nat) : ∀ (m i : Nat) (cs : List Nat) (s : State),
    (putCodeRows x f off pitch n m i cs s).array.tiles = s.array.tiles
  | 0, _, _, _ => rfl
  | m + 1, i, cs, _ => putCodeRows_tiles x f off pitch n m (i + 1) (cs.drop n) _

variable (s : State) (c : Cmd) (b : MmBody) (fa fb : FmtWord) (p : Progress) (overlap : Nat)

theorem mmStored_staging : (mmStored s c b fa fb p).array.staging = s.array.staging := by
  unfold mmStored mmStore
  dsimp only
  split
  · rfl
  · rw [tilePutRows_staging]
    split <;> rfl

/-- Without an epilogue the product leaves staging as it was. -/
theorem mmCompute_staging (h : b.epi = 0) : (mmCompute s c b fa fb p overlap).array.staging = s.array.staging := by
  rw [mmCompute_eq, (cmdEnd_frame _ _ _).2.2.2.1]
  unfold mmWritten mmCounted
  simp only [h, if_true]
  rw [(holdWrite_memories _ _ _ _ _).2, (rushFill_memories _ _ _ _ _ _).2]
  exact mmStored_staging s c b fa fb p

/-- Accumulators change where the product is stored and nowhere else. -/
theorem mmCompute_tiles : (mmCompute s c b fa fb p overlap).array.tiles = (mmStored s c b fa fb p).array.tiles := by
  rw [mmCompute_eq, (cmdEnd_frame _ _ _).2.2.2.1]
  unfold mmWritten mmCounted
  dsimp only
  rw [(holdWrite_memories _ _ _ _ _).1]
  split
  · rw [(rushFill_memories _ _ _ _ _ _).1]
    rfl
  · rw [putCodeRows_tiles, (rushFill_memories _ _ _ _ _ _).1]
    rfl

/-! ### Where the output elements lie (R104, R115) -/

/-- The output's tiles lie in the band, and the band in its engine. -/
structure MmFits (x : Band) (b : MmBody) : Prop where
  band : x.band < x.n
  rows : b.base + tilesFor b.m ≤ bandTiles x
  cols : b.n ≤ 256

variable {s c b fa fb p overlap}

theorem mmCheck_fits {slot : Nat} (hfa : b.fa = some fa) (hfb : b.fb = some fb) (h : mmCheck s slot b = none) :
    MmFits (bandAt s b.engine b.band) b := by
  unfold mmCheck at h
  simp only [hfa, hfb] at h
  split at h; · cases h
  next hdesc =>
  split at h; · cases h
  split at h; · cases h
  split at h; · cases h
  next hshape =>
  split at h; · cases h
  next hrows =>
  simp only [Bool.or_eq_true, Bool.not_eq_true', not_or, Bool.not_eq_false, bandOk, Bool.and_eq_true, decide_eq_true_eq] at hdesc hshape
  obtain ⟨⟨⟨⟨⟨-, ⟨-, hband⟩, -⟩, -⟩, -⟩, -⟩, -⟩ := hdesc
  exact ⟨hband, Nat.le_of_not_lt hrows, Nat.le_of_not_lt hshape.2⟩

/-- An element of an output row lies in a tile of its engine. -/
theorem MmFits.tileKey_lt {x : Band} (h : MmFits x b) {i : Nat} (hi : i < b.m) :
    x.engine * 2 ^ 20 ≤ tileAt x b.base i 0 ∧ tileAt x b.base i 0 + 256 ≤ (x.engine + 1) * 2 ^ 20 := by
  have hlocal : b.base + i / 256 + 1 ≤ bandTiles x := by
    have := h.rows
    unfold tilesFor at this
    omega
  have htile : bandTile x (b.base + i / 256) + 1 ≤ 16 :=
    calc x.band * bandTiles x + (b.base + i / 256) + 1
      _ ≤ x.band * bandTiles x + bandTiles x := by omega
      _ = (x.band + 1) * bandTiles x := (Nat.succ_mul _ _).symm
      _ ≤ x.n * (16 / x.n) := Nat.mul_le_mul_right _ h.band
      _ ≤ 16 := Nat.mul_div_le 16 x.n
  unfold tileAt tileKey
  omega

/-- The accumulators of all engines but one read as they did. -/
def TilesElsewhere (e : Nat) (s t : State) : Prop := ∀ k, k / 2 ^ 20 ≠ e → smGet 0 t.array.tiles k = smGet 0 s.array.tiles k

theorem tilePutRows_elsewhere {x : Band} (h : MmFits x b) : ∀ (rows : List (List W32)) (i : Nat) (s : State),
    i + rows.length ≤ b.m → (∀ r ∈ rows, r.length ≤ b.n) → TilesElsewhere x.engine s (tilePutRows x b.base i rows s)
  | [], _, _, _, _ => fun _ _ => rfl
  | r :: rows, i, s, hlen, hrows => fun k hk => by
    rw [List.length_cons] at hlen
    obtain ⟨hlo, hhi⟩ := h.tileKey_lt (i := i) (by omega)
    have hr := hrows r List.mem_cons_self
    have hcols := h.cols
    refine (tilePutRows_elsewhere h rows (i + 1) _ (by omega) (fun q hq => hrows q (List.mem_cons_of_mem _ hq)) k hk).trans ?_
    exact smGet_smPutRun_of_outside 0 r _ _ (by omega)

theorem mmStored_elsewhere (h : MmFits (bandAt s b.engine b.band) b) : TilesElsewhere b.engine s (mmStored s c b fa fb p) := by
  unfold mmStored
  dsimp only
  split
  · exact fun k _ => rfl
  · intro k hk
    refine (tilePutRows_elsewhere h _ 0 _ (by simp) (fun r hr => ?_) k hk).trans ?_
    · obtain ⟨i, -, rfl⟩ := List.mem_map.1 hr
      exact List.length_take_le _ _
    · split <;> rfl

theorem sramMeet_elsewhere (e : Nat) (s : State) (w : SramWord) : TilesElsewhere e s (sramMeet e s w) := by
  intro k hk
  show smGet 0 (if (sramClass w).2.2 then s else sramFlip s e w (sramClass w).1).array.tiles k = _
  split
  · rfl
  · unfold sramFlip
    split
    · rfl
    · split
      · exact smGet_smPutRun_of_outside 0 _ _ _ (by simp only [List.length_map, List.length_range]; omega)
      · rfl

theorem sramCount_elsewhere (e : Nat) : ∀ (x : SramErr) (s : State), TilesElsewhere e s (sramCount s e x)
  | [], _ => fun _ _ => rfl
  | w :: x, s => fun k hk => (sramCount_elsewhere e x (sramMeet e s w) k hk).trans (sramMeet_elsewhere e s w k hk)

/-! ### The empty product (R105, R108) -/

/-- With K = 0 no chunk is streamed: with accumulate clear every output element is a zero, and no event is met. -/
theorem mmDone_empty (hk : b.k = 0) (hacc : b.acc = false) :
    mmDone s b fa fb {} = ((positions b.m b.n).map fun q => (q, if mmInt fa fb then .i 0 else .f (.fin false 0 0)), {}) := by
  have hchunks : ∀ d, chunkCount d b.k = 0 := fun d => by
    rw [chunkCount, hk, Nat.zero_add]
    rcases d with _ | d
    · rfl
    · exact Nat.div_eq_of_lt (Nat.lt_succ_self d)
  rw [mmDone, hchunks]
  simp only [mmStream, hacc, freshAt, mmOpen]
  rfl

theorem positions_length (m n : Nat) : (positions m n).length = m * n := by
  simp only [positions, List.length_flatMap, List.length_map, List.length_range, List.map_const', List.sum_replicate_nat]

/-- Zero rows read back as zeros where the map is canonical. -/
theorem tilePutRows_zero {x : Band} {base n : Nat} : ∀ (rows : List (List W32)) (i : Nat) (s : State), smWf 0 s.array.tiles = true →
    (∀ r ∈ rows, r.length = n ∧ ∀ w ∈ r, w = 0) → ∀ (i' j : Nat), j < n →
    ((i ≤ i' ∧ i' < i + rows.length) ∨ tileGet s x base i' j = 0) → tileGet (tilePutRows x base i rows s) x base i' j = 0
  | [], i, s, _, _, i', j, _, h => h.resolve_left (by simp only [List.length_nil]; omega)
  | r :: rows, i, s, hwf, hrows, i', j, hj, h => by
    obtain ⟨hlen, hzero⟩ := hrows r List.mem_cons_self
    rw [List.length_cons] at h
    refine tilePutRows_zero rows (i + 1) (tilePutRow s x base i r) (smWf_smPutRun 0 r _ _ hwf)
      (fun q hq => hrows q (List.mem_cons_of_mem _ hq)) i' j hj ?_
    by_cases hi : i + 1 ≤ i' ∧ i' < i + 1 + rows.length
    · exact .inl hi
    · refine .inr (smGet_smPutRun_default 0 hzero hwf ?_)
      by_cases heq : i' = i
      · subst heq
        refine .inl ?_
        unfold tileAt tileKey
        omega
      · exact .inr (h.resolve_left (by omega))

theorem mmStored_empty (hwf : smWf 0 s.array.tiles = true) (hk : b.k = 0) (hacc : b.acc = false) {i j : Nat} (hi : i < b.m)
    (hj : j < b.n) : tileGet (mmStored s c b fa fb {}) (bandAt s b.engine b.band) b.base i j = 0 := by
  have hwords : ∀ w ∈ ((mmDone s b fa fb {}).1.map fun q => cellWord q.2), w = 0 := by
    rw [mmDone_empty hk hacc]
    intro w hw
    obtain ⟨q, hq, rfl⟩ := List.mem_map.1 hw
    obtain ⟨_, -, rfl⟩ := List.mem_map.1 hq
    dsimp only
    split <;> rfl
  have hlength : ((mmDone s b fa fb {}).1.map fun q => cellWord q.2).length = b.m * b.n := by
    rw [mmDone_empty hk hacc, List.length_map, List.length_map, positions_length]
  unfold mmStored mmStore
  simp only [hacc, Bool.false_and, Bool.false_eq_true, if_false]
  refine tilePutRows_zero (n := b.n) _ 0 _ ?canonical (fun r hr => ?zeros) i j hj (.inl ⟨Nat.zero_le _, ?row⟩)
  case canonical => exact hwf
  case row => rwa [List.length_map, List.length_range, Nat.zero_add]
  case zeros =>
    obtain ⟨i', hi', rfl⟩ := List.mem_map.1 hr
    refine ⟨?_, fun w hw => hwords w (List.mem_of_mem_drop (List.mem_of_mem_take hw))⟩
    have hrow : (i' + 1) * b.n ≤ b.m * b.n := Nat.mul_le_mul_right _ (List.mem_range.1 hi')
    rw [Nat.succ_mul] at hrow
    rw [List.length_take, List.length_drop, hlength]
    omega

theorem sramMeet_canonical (e : Nat) (s : State) (w : SramWord) (h : smWf 0 s.array.tiles = true) :
    smWf 0 (sramMeet e s w).array.tiles = true := by
  show smWf 0 (if (sramClass w).2.2 then s else sramFlip s e w (sramClass w).1).array.tiles = true
  split
  · exact h
  · unfold sramFlip
    repeat' split
    · exact h
    · exact smWf_smPutRun 0 _ _ _ h
    · exact h

theorem sramCount_canonical (e : Nat) : ∀ (x : SramErr) (s : State), smWf 0 s.array.tiles = true →
    smWf 0 (sramCount s e x).array.tiles = true
  | [], _, h => h
  | w :: x, s, h => sramCount_canonical e x _ (sramMeet_canonical e s w h)

end Sys2Proof.Machine
end

section
/-! CLAIMS. MATMUL: what it leaves alone, and the empty product. -/

namespace Sys2Proof.Machine

/-! ### What a MATMUL leaves alone -/

/-- What a MATMUL that passed its checks does, whatever SRAM words it meets that the code does not call uncorrectable: all of O22's first
clause, but that staging is then as those words have left it. -/
theorem exec_matmul_computes {s : State} {cid : Nat} {c : Cmd} {b : MmBody} {fa fb : FmtWord} {e : SramErr} (overlap : Nat)
    (hready : cmdReady s cid 0x10 = some c) (hstopped : feedersStopped s (fld (cmdBody c) 0 6) = false) (hb : b = mmBody (cmdBody c))
    (hcheck : mmCheck s c.space b = none) (hfa : b.fa = some fa) (hfb : b.fb = some fb) (he : sramBad e = false) :
    ∃ t, exec (.matmul cid e overlap) s = .next t ∧ t = mmCompute (sramCount s b.engine e) c b fa fb {} overlap ∧
      endsOk t cid ∧ t.mem = s.mem ∧ t.keys = s.keys ∧ t.ciph = s.ciph ∧ TilesElsewhere b.engine s t ∧
      (b.epi = 0 → t.array.staging = (sramCount s b.engine e).array.staging) := by
  obtain ⟨hget, hphase, -, -⟩ := cmdReady_some s cid _ c hready
  have hcount := sramCount_work s b.engine e
  have hwork := hcount.trans (mmWritten_work (sramCount s b.engine e) c b fa fb {} overlap)
  refine ⟨_, (exec_matmul_runs e overlap hready hstopped).trans (congrArg _ (mmRun_computes hb hcheck hfa hfb he)), rfl,
    mmCompute_endsOk _ _ _ _ _ _ _ (cmdGet_id hget) ((hcount.cmdGet cid).trans hget) (cmdLive_admitted c hphase),
    hwork.mem, hwork.keys, hwork.ciph, fun k hk => ?_, mmCompute_staging _ _ _ _ _ _ _⟩
  rw [mmCompute_tiles]
  have hfits := mmCheck_fits hfa hfb hcheck
  rw [← hcount.bandAt] at hfits
  exact (mmStored_elsewhere hfits k hk).trans (sramCount_elsewhere b.engine e s k hk)

/-- O22's second clause: a MATMUL whose checks fail ends with their status, and no array, memory or key changes. -/
theorem exec_matmul_refused {s : State} {cid : Nat} {c : Cmd} {st : Status} (e : SramErr) (overlap : Nat)
    (hready : cmdReady s cid 0x10 = some c) (hstopped : feedersStopped s (fld (cmdBody c) 0 6) = false)
    (hcheck : mmCheck s c.space (mmBody (cmdBody c)) = some st) :
    ∃ t, exec (.matmul cid e overlap) s = .next t ∧ endsWith t cid st ∧ t.array = s.array ∧ t.mem = s.mem ∧ t.keys = s.keys := by
  obtain ⟨hget, hphase, -, -⟩ := cmdReady_some s cid _ c hready
  have hexec := exec_matmul_runs e overlap hready hstopped
  rw [mmRun_refused hcheck, cmdGet_id hget] at hexec
  exact ⟨_, hexec, ⟨_, _, cmdGet_cmdEnd s cid _ c hget (cmdLive_admitted c hphase), rfl, rfl⟩, rfl, rfl, rfl⟩

/-- A product of one row, one column and K = 1 of two F32 operands that both lie at offset 0 of staging, without an epilogue. -/
def unitMatmul : Cmd := Tests.cmdOf 0x10 [(0, 15), (1, 13), (1, 9), (1, 20), (0, 49), (1, 12), (0, 17), (1, 12)]

/-- The word of those operands with wrong data that the code does not see: two bits of row 0 and the same two of row 1 (R292). -/
def unseenWord : SramWord := ⟨false, 0, 2 ^ 0 + 2 ^ 1 + 2 ^ 32 + 2 ^ 33, 0⟩

theorem unitMatmul_runs : cmdReady (Tests.runs1 unitMatmul) 1 0x10 = some unitMatmul ∧
    feedersStopped (Tests.runs1 unitMatmul) (fld (cmdBody unitMatmul) 0 6) = false ∧
    mmCheck (Tests.runs1 unitMatmul) unitMatmul.space (mmBody (cmdBody unitMatmul)) = none ∧
    (mmBody (cmdBody unitMatmul)).fa = some Tests.fF32 ∧ (mmBody (cmdBody unitMatmul)).fb = some Tests.fF32 ∧
    (mmBody (cmdBody unitMatmul)).epi = 0 := by decide +kernel

theorem unseenWord_spoils_staging : sramBad [unseenWord] = false ∧
    (sramCount (Tests.runs1 unitMatmul) (mmBody (cmdBody unitMatmul)).engine [unseenWord]).array.staging = [(0, 3), (4, 3)] := by
  decide +kernel

/-- Refutes O22: an SRAM word with an even number of wrong bits in each row and column passes its code, so that it is not uncorrectable;
its wrong data stand in staging from then on, which was empty before. -/
theorem not_matmulWritesItsEngineOnly : ¬ Obligations.MatmulWritesItsEngineOnly := by
  rintro ⟨hruns, -⟩
  obtain ⟨hready, hstopped, hcheck, hfa, hfb, hepi⟩ := unitMatmul_runs
  obtain ⟨hbad, hspoilt⟩ := unseenWord_spoils_staging
  obtain ⟨t, -, ht, -, -, -, -, -, hstaging⟩ := hruns _ 1 0 _ _ _ _ _ hready hstopped rfl hcheck hfa hfb hbad
  have hkept := hstaging hepi
  rw [ht, mmCompute_staging _ _ _ _ _ _ _ hepi, hspoilt] at hkept
  cases hkept

/-! ### The empty product -/

/-- The empty product where the map of accumulators is canonical, as it is at reset: O23 with that hypothesis. -/
theorem exec_matmul_empty {s : State} {cid : Nat} {c : Cmd} {b : MmBody} {fa fb : FmtWord} {e : SramErr} (overlap : Nat)
    (hwf : smWf 0 s.array.tiles = true) (hready : cmdReady s cid 0x10 = some c)
    (hstopped : feedersStopped s (fld (cmdBody c) 0 6) = false) (hb : b = mmBody (cmdBody c)) (hcheck : mmCheck s c.space b = none)
    (hfa : b.fa = some fa) (hfb : b.fb = some fb) (he : sramBad e = false) (hk : b.k = 0) (hacc : b.acc = false) (hepi : b.epi = 0) :
    ∃ t, exec (.matmul cid e overlap) s = .next t ∧ endsWith t cid .ok ∧
      ∀ i j, i < b.m → j < b.n → tileGet t (bandAt s b.engine b.band) b.base i j = 0 := by
  obtain ⟨hget, hphase, -, -⟩ := cmdReady_some s cid _ c hready
  have hcount := sramCount_work s b.engine e
  have hends := mmCompute_ends (sramCount s b.engine e) c b fa fb {} overlap (cmdGet_id hget) ((hcount.cmdGet cid).trans hget)
    (cmdLive_admitted c hphase)
  have htally : (mmEpilogue (sramCount s b.engine e) b fa fb {}).2 = {} := by
    rw [mmEpilogue, if_pos hepi, mmDone_empty hk hacc]
  have hclean : tallyStatus {} b.strict = .ok := by
    cases b.strict <;> decide
  rw [htally, hclean] at hends
  refine ⟨_, (exec_matmul_runs e overlap hready hstopped).trans (congrArg _ (mmRun_computes hb hcheck hfa hfb he)), hends,
    fun i j hi hj => ?_⟩
  rw [tileGet, mmCompute_tiles, ← hcount.bandAt]
  exact mmStored_empty (sramCount_canonical b.engine e s hwf) hk hacc hi hj

/-- The empty product of one row and one column. -/
def emptyMatmul : Cmd := Tests.cmdOf 0x10 [(0, 15), (1, 13), (1, 9), (0, 98), (1, 12)]

/-- A module that runs it, its map of accumulators not in canonical form: the entry of key 1 stands before that of key 0. -/
def unsortedTiles : State := { Tests.runs1 emptyMatmul with array := { tiles := [(1, 1), (0, 7)] } }

theorem emptyMatmul_runs : cmdReady unsortedTiles 1 0x10 = some emptyMatmul ∧
    feedersStopped unsortedTiles (fld (cmdBody emptyMatmul) 0 6) = false ∧
    mmCheck unsortedTiles emptyMatmul.space (mmBody (cmdBody emptyMatmul)) = none ∧
    (mmBody (cmdBody emptyMatmul)).fa = some Tests.fF32 ∧ (mmBody (cmdBody emptyMatmul)).fb = some Tests.fF32 ∧
    (mmBody (cmdBody emptyMatmul)).k = 0 ∧ (mmBody (cmdBody emptyMatmul)).acc = false ∧ (mmBody (cmdBody emptyMatmul)).epi = 0 ∧
    0 < (mmBody (cmdBody emptyMatmul)).m ∧ 0 < (mmBody (cmdBody emptyMatmul)).n := by decide +kernel

/-- A write of 0 at key 0 stops at key 1, so that the old value stays. -/
theorem unsortedTiles_keeps :
    tileGet (mmCompute unsortedTiles emptyMatmul (mmBody (cmdBody emptyMatmul)) Tests.fF32 Tests.fF32 {} 0)
      (bandAt unsortedTiles (mmBody (cmdBody emptyMatmul)).engine (mmBody (cmdBody emptyMatmul)).band)
      (mmBody (cmdBody emptyMatmul)).base 0 0 = 7 := by decide +kernel

/-- Refutes O23: nothing in it asks that the map of accumulators be canonical, and a write of the default value into one that is not may
leave an entry of its key in place. In canonical states it holds, by `exec_matmul_empty`. -/
theorem not_emptyProductIsPlusZero : ¬ Obligations.EmptyProductIsPlusZero := by
  intro hempty
  obtain ⟨hready, hstopped, hcheck, hfa, hfb, hk, hacc, hepi, hm, hn⟩ := emptyMatmul_runs
  obtain ⟨t, hexec, -, hzero⟩ := hempty _ 1 0 [] _ _ _ _ hready hstopped rfl hcheck hfa hfb rfl hk hacc hepi
  have hruns := (exec_matmul_runs [] 0 hready hstopped).trans (congrArg _ (mmRun_computes (p := {}) rfl hcheck hfa hfb rfl))
  have hread := hzero 0 0 hm hn
  rw [← Host.Outcome.next.inj (hruns.symm.trans hexec)] at hread
  exact absurd (unsortedTiles_keeps.symm.trans hread) (by decide)

end Sys2Proof.Machine
end

section
/-! SUPPORT. The events of the matrix array: a resumed MATMUL, a band's watchdog, a finished rushes check and a grip's watchdog. -/

namespace Sys2Proof.Machine

/-! ### MATMUL_RESUME (R140) -/

section Resume

variable {s : State} {cid : Nat} {c : Cmd}

theorem exec_matmulResume_runs (e : SramErr) (overlap : Nat) (hget : cmdGet s cid = some c) (hphase : c.phase = .preempted)
    (hop : c.opcode = 0x10) (hresident : (ctxGet s c.ctx).any (·.resident) = true)
    (hours : engineOurs s c.space (fld (cmdBody c) 0 6) = true) (hfeed : feedersStopped s (fld (cmdBody c) 0 6) = false)
    (hband : bandCmd s (fld (cmdBody c) 0 6) (fld (cmdBody c) 6 3) = none) (hgrip : gripHalted s c.queue = false)
    (href : refEngine s (fld (cmdBody c) 0 6) = false) :
    exec (.matmulResume cid e overlap) s = .next (mmResume s c e overlap) := by
  show execMatmulResume cid e s overlap = _
  simp [execMatmulResume, hget, hphase, hop, hresident, hours, hfeed, hband, hgrip, href]

theorem mmResume_islFailed {i : Image} (e : SramErr) (overlap : Nat) (hfind : (s.array.images.find? fun x => x.cid == some c.id) = some i)
    (hfailed : s.err.islFailed.getLsbD (mmBody (cmdBody c)).engine = true) :
    mmResume s c e overlap = cmdEnd { s with array := { s.array with images := s.array.images.erase i } } c.id
      { status := .watchdog, band := (mmBody (cmdBody c)).band } := by
  simp only [mmResume, hfind, hfailed, if_true]

/-- The state in which a resumed MATMUL goes on: its image is used up, and it is admitted again. -/
def mmGiven (u : State) (c : Cmd) : State :=
  { u with
    array := { u.array with images := u.array.images.filter fun y => y.cid != some c.id }
    sp := cmdMod u.sp c.id fun y => { y with phase := .admitted } }

theorem cmdGet_mmGiven {u : State} (hget : cmdGet u cid = some c) : cmdGet (mmGiven u c) cid = some { c with phase := .admitted } := by
  have hid := cmdGet_id hget
  rw [← hid] at hget ⊢
  exact (cmdGet_cmdMod u c.id (fun y => { y with phase := .admitted }) fun _ => rfl).trans (congrArg (Option.map _) hget)

/-- With its engine good, a resumed MATMUL goes on as its band's switch says: where its image was read from its progress, else not at all. -/
theorem mmResume_switched {i : Image} {u : State} {good : Bool} (e : SramErr) (overlap : Nat)
    (hfind : (s.array.images.find? fun x => x.cid == some c.id) = some i)
    (hfailed : s.err.islFailed.getLsbD (mmBody (cmdBody c)).engine = false)
    (hswitch : bandSwitch s (bandAt s (mmBody (cmdBody c)).engine (mmBody (cmdBody c)).band) c.ctx = some (u, good)) :
    mmResume s c e overlap =
      if good then mmRun (mmGiven u c) { c with phase := .admitted } e i.progress overlap else u := by
  cases good <;> simp [mmResume, hfind, hfailed, hswitch, mmGiven]

/-- A lost image fails the pre-empted command that it was of with MEM_UNCORRECTABLE. -/
theorem imageLost_ends {i : Image} (hget : cmdGet s cid = some c) (hlive : cmdLive c = true) (hcid : i.cid = some cid) :
    endsWith (imageLost s i) cid .memUncorrectable := by
  have herased : cmdGet { s with array := { s.array with images := s.array.images.erase i } } cid = some c := hget
  have hid := cmdGet_id hget
  simp only [imageLost, hcid, Option.bind_some, herased]
  rw [hid]
  exact ⟨_, _, cmdGet_cmdEnd_work _ (mmLose_work _ c) herased hlive, rfl, rfl⟩

end Resume

/-! ### BAND_WATCHDOG (R120) -/

/-- No engine's watchdog bits have changed. -/
def WdogKept (s t : State) : Prop := ∀ e, (t.array.engines.getD e {}).wdog = (s.array.engines.getD e {}).wdog

theorem WdogKept.trans {s t u : State} (h : WdogKept s t) (k : WdogKept t u) : WdogKept s u := fun e => (k e).trans (h e)

theorem engineMod_getD (a : Array) (n e : Nat) (f : Engine → Engine) (h : n < a.engines.length) :
    (engineMod a n f).engines.getD e {} = if n = e then f (a.engines.getD e {}) else a.engines.getD e {} := by
  simp only [engineMod, List.getD_eq_getElem?_getD, modAt_getElem?]
  split
  · next he =>
    subst he
    rw [List.getElem?_eq_getElem h]
    rfl
  · rfl

/-- A change of an engine that leaves its watchdog bits leaves those of all. -/
theorem engineMod_wdog (a : Array) (n e : Nat) {f : Engine → Engine} (hf : ∀ y, (f y).wdog = y.wdog) :
    ((engineMod a n f).engines.getD e {}).wdog = (a.engines.getD e {}).wdog := by
  simp only [engineMod, List.getD_eq_getElem?_getD, modAt_getElem?]
  split
  · cases a.engines[e]? with
    | none => rfl
    | some y => exact hf y
  · rfl

theorem tilePutRows_engines (x : Band) (base : Nat) : ∀ (i : Nat) (rows : List (List W32)) (s : State),
    (tilePutRows x base i rows s).array.engines = s.array.engines
  | _, [], _ => rfl
  | i, _ :: rows, _ => tilePutRows_engines x base (i + 1) rows _

theorem stgSpoil_wdog (s : State) (x : Band) (off pitch row : Nat) : ∀ m : Nat, WdogKept s (stgSpoil s x off pitch row m)
  | 0 => fun _ => rfl
  | m + 1 => stgSpoil_wdog s x off pitch row m

theorem tileSpoil_wdog (s : State) (x : Band) (base m n : Nat) : WdogKept s (tileSpoil s x base m n) := fun e =>
  congrArg (fun l => (l.getD e {}).wdog) (tilePutRows_engines x base 0 _ s)

theorem holdWrite_wdog (s : State) (c : Cmd) (x : Band) (stg tile : Bool) : WdogKept s (holdWrite s c x stg tile) := by
  unfold holdWrite
  split
  · intro e
    exact engineMod_wdog _ _ e fun _ => rfl
  · exact fun _ => rfl

theorem mmLose_wdog (s : State) (c : Cmd) : WdogKept s (mmLose s c) := by
  unfold mmLose
  dsimp only
  split
  · exact (tileSpoil_wdog _ _ _ _ _).trans (holdWrite_wdog _ c _ _ _)
  · exact ((tileSpoil_wdog _ _ _ _ _).trans (holdWrite_wdog _ c _ _ _)).trans (stgSpoil_wdog _ _ _ _ _ _)

theorem mmWorked_wdog (s : State) (b : MmBody) (fa fb : FmtWord) (overlap : Nat) (start stop : Nat × Nat) :
    WdogKept s (mmWorked s b fa fb overlap start stop) := by
  intro e
  exact engineMod_wdog _ _ e fun _ => rfl

theorem mmSpoil_wdog (s : State) (c : Cmd) (p : Progress) : WdogKept s (mmSpoil s c p) := by
  unfold mmSpoil
  dsimp only
  split
  · exact (mmWorked_wdog (freeUse s 1) _ _ _ _ _ _).trans (mmLose_wdog _ c)
  · exact fun _ => rfl

/-- The state once a band's watchdog bit is set. -/
def wdogSet (s : State) (engine band : Nat) : State :=
  { s with array := engineMod s.array engine fun e => { e with wdog := e.wdog ||| BitVec.ofNat 8 (2 ^ band) } }

theorem wdogSet_bit (s : State) {engine band : Nat} (he : engine < s.array.engines.length) (hb : band < 8) :
    (((wdogSet s engine band).array.engines.getD engine {}).wdog).getLsbD band = true := by
  rw [wdogSet, engineMod_getD _ _ _ _ he, if_pos rfl, BitVec.getLsbD_or, BitVec.getLsbD_ofNat, Nat.testBit_two_pow_self]
  simp [hb]

theorem exec_bandWatchdog_ends {s : State} {engine band : Nat} {c : Cmd} (hband : bandCmd s engine band = some c)
    (hfeed : feedersStopped s engine = false) : exec (.bandWatchdog engine band) s =
      .next (cmdEnd (mmSpoil (wdogSet s engine band) c) c.id { status := .watchdog, band := band }) := by
  show Host.Outcome.next (bandWatchdog engine band s) = _
  simp only [bandWatchdog, hband, hfeed, Bool.false_eq_true, if_false]
  rfl

theorem cmdLive_running {c : Cmd} (h : cmdRunning c = true) : cmdLive c = true := by
  unfold cmdRunning at h
  unfold cmdLive
  split at h <;> simp_all

theorem bandCmd_running {s : State} {engine band : Nat} {c : Cmd} (h : bandCmd s engine band = some c) : cmdRunning c = true := by
  have := List.find?_some h
  simp only [Bool.and_eq_true] at this
  exact this.1.1.2

/-! ### RUSHES_CHECK_DONE (R178) -/

/-- Zeroing a list of reference engines: their tiles read +0, all others as before, and the jobs stay. -/
theorem foldl_refZero (l : List RushJob) : ∀ a : Array, (l.foldl (fun a j => refZero a j.refEngine) a).rush = a.rush ∧
    (∀ k, (∀ j ∈ l, k / 2 ^ 20 ≠ j.refEngine) →
      smGet 0 (l.foldl (fun a j => refZero a j.refEngine) a).tiles k = smGet 0 a.tiles k) ∧
    ∀ k, (∃ j ∈ l, k / 2 ^ 20 = j.refEngine) ∨ smGet 0 a.tiles k = 0 →
      smGet 0 (l.foldl (fun a j => refZero a j.refEngine) a).tiles k = 0 := by
  induction l with
  | nil => exact fun a => ⟨rfl, fun _ _ => rfl, fun k h => h.resolve_left (by simp)⟩
  | cons j l ih =>
    intro a
    obtain ⟨hrush, helse, hzero⟩ := ih (refZero a j.refEngine)
    have hdrop : ∀ k, smGet 0 (refZero a j.refEngine).tiles k = if k / 2 ^ 20 = j.refEngine then 0 else smGet 0 a.tiles k := by
      intro k
      refine (smGet_smDrop _ _ _ _ _).trans ?_
      congr 1
      exact propext (by omega)
    refine ⟨hrush, fun k hk => ?_, fun k hk => hzero k ?_⟩
    · rw [List.foldl_cons, helse k fun i hi => hk i (List.mem_cons_of_mem _ hi), hdrop, if_neg (hk j List.mem_cons_self)]
    · by_cases hj : k / 2 ^ 20 = j.refEngine
      · exact .inr (by rw [hdrop, if_pos hj])
      · rcases hk with ⟨i, hi, hik⟩ | hk
        · rcases List.mem_cons.1 hi with rfl | hi
          · exact absurd hik hj
          · exact .inl ⟨i, hi, hik⟩
        · exact .inr (by rw [hdrop, if_neg hj, hk])

/-- The array after a check of a command that has ended: its jobs are dropped, its reference engines zeroed. -/
theorem rushDone_array {s : State} {cid : Nat} (h : (cmdGet s cid).any cmdLive = false) :
    (rushDone s cid).array = (s.array.rush.filter fun j => j.cid == cid).foldl (fun a j => refZero a j.refEngine)
      { s.array with rush := s.array.rush.filter fun j => j.cid != cid } := by
  unfold rushDone
  simp only [h, Bool.false_eq_true, if_false]

theorem rushDone_mem (s : State) (cid : Nat) : (rushDone s cid).mem = s.mem := by
  unfold rushDone
  dsimp only
  split <;> rfl

/-- The deviation bins of the values that a finished check of a command brings: those of jobs whose engine's wake epoch is still theirs. -/
def rushBins (s : State) (cid : Nat) : List Nat :=
  ((s.array.rush.filter fun j => j.cid == cid).filter fun j => j.epoch == (s.gaf.islands.getD j.refEngine {}).epoch).flatMap
    fun j => j.vals.map fun v => rushBin (ofF32 v.1) (ofF32 v.2)

/-- The bin from which on a deviation marks a command. -/
def rushThresh (s : State) (cid : Nat) : Nat :=
  match (cmdGet s cid).map (·.rush) with
  | some (some r) => r.1.thresh
  | _ => 15

/-- A command that has ended, with RUSHES_DEVIATION where its check was bad. -/
def rushMarked (bad : Bool) (c : Cmd) : Cmd :=
  match c.phase with
  | .finished r =>
    { c with phase := .finished (if bad then
        { r with events := r.events ||| evRushes, status := if r.status = .ok then .okWithEvents else r.status } else r) }
  | _ => c

theorem rushDone_cmds {s : State} {cid : Nat} (h : (cmdGet s cid).any cmdLive = false) : (rushDone s cid).sp.cmds =
    s.sp.cmds.map fun c => if c.id = cid then rushMarked ((rushBins s cid).any fun b => decide (rushThresh s cid ≤ b)) c else c := by
  unfold rushDone
  simp only [h, Bool.false_eq_true, if_false]
  cases (s.array.rush.filter fun j => j.cid == cid).head? <;> rfl

theorem rushMarked_false (c : Cmd) : rushMarked false c = c := by
  unfold rushMarked
  split
  · next r hphase => rw [if_neg Bool.false_ne_true, ← hphase]
  · rfl

/-- A check all of whose deviations are in bin 0 marks no command whose threshold is not 0. -/
theorem rushDone_cmds_kept {s : State} {cid : Nat} (h : (cmdGet s cid).any cmdLive = false)
    (hbins : ∀ j ∈ s.array.rush, j.cid = cid → ∀ v ∈ j.vals, rushBin (ofF32 v.1) (ofF32 v.2) = 0)
    (hthresh : ∀ c r, cmdGet s cid = some c → c.rush = some r → 1 ≤ r.1.thresh) : (rushDone s cid).sp.cmds = s.sp.cmds := by
  have hpos : 1 ≤ rushThresh s cid := by
    unfold rushThresh
    split
    · next r hr =>
      obtain ⟨c, hget, hrush⟩ := Option.map_eq_some_iff.1 hr
      exact hthresh c r hget hrush
    · decide
  have hzero : ∀ b ∈ rushBins s cid, b = 0 := by
    intro b hb
    obtain ⟨j, hj, hbj⟩ := List.mem_flatMap.1 hb
    obtain ⟨v, hv, rfl⟩ := List.mem_map.1 hbj
    obtain ⟨hrush, hcid⟩ := List.mem_filter.1 (List.mem_filter.1 hj).1
    exact hbins j hrush (by simpa using hcid) v hv
  have hgood : ((rushBins s cid).any fun b => decide (rushThresh s cid ≤ b)) = false := by
    rw [List.any_eq_false]
    intro b hb
    rw [hzero b hb, decide_eq_true_eq]
    omega
  rw [rushDone_cmds h, hgood]
  simp only [rushMarked_false, ite_self, List.map_id']

/-! ### MXE_CNT_CLEAR (R124) -/

theorem mxeCntClear_set (s : State) (engine : Nat) {v : Word} (h : v.getLsbD 0 = true) :
    mxeCntClear engine v s = ⟨{ s with array := engineMod s.array engine mxeClear }, .ok, []⟩ := by
  simp only [mxeCntClear, h, if_true]

/-! ### GRIP_WATCHDOG (R181) -/

/-- Each command after `cmdEnd` comes from one before it; none with the number given runs, and no other has begun to. -/
theorem mem_cmdEnd {s : State} {cid : Nat} {r : Result} {d : Cmd} (h : d ∈ (cmdEnd s cid r).sp.cmds) :
    ∃ c ∈ s.sp.cmds, d.id = c.id ∧ d.queue = c.queue ∧ (cmdRunning d = true → cmdRunning c = true ∧ d.id ≠ cid) := by
  obtain ⟨c, hc, rfl⟩ := List.mem_map.1 h
  refine ⟨c, hc, ?_⟩
  split
  · dsimp only
    split
    · next hphase => exact ⟨rfl, rfl, by simp [cmdRunning, hphase]⟩
    · exact ⟨rfl, rfl, fun hrun => by cases hrun⟩
  · next hne => exact ⟨rfl, rfl, fun hrun => ⟨hrun, hne⟩⟩

/-- What follows where commands that are no collectives are aborted one by one: engine work, and none of them runs. -/
structure Aborted (ids : List Nat) (s t : State) : Prop where
  frame : ∃ array freeCtr ctxs slots cmds, t = { s with
    array := array, freeCtr := freeCtr, sp := { s.sp with ctxs := ctxs, slots := slots, cmds := cmds } }
  cmds : ∀ d ∈ t.sp.cmds, ∃ c ∈ s.sp.cmds, d.id = c.id ∧ d.queue = c.queue ∧ (cmdRunning d = true → cmdRunning c = true ∧ d.id ∉ ids)

theorem Aborted.nil (s : State) : Aborted [] s s :=
  ⟨⟨_, _, _, _, _, rfl⟩, fun d hd => ⟨d, hd, rfl, rfl, fun h => ⟨h, List.not_mem_nil⟩⟩⟩

theorem Aborted.cons {s t u : State} {cid : Nat} {ids : List Nat} {r : Result} (h : EngineWork s t) (k : Aborted ids (cmdEnd t cid r) u) :
    Aborted (cid :: ids) s u := by
  obtain ⟨_, _, _, _, rfl⟩ := h
  obtain ⟨⟨_, _, _, _, _, rfl⟩, hcmds⟩ := k
  refine ⟨⟨_, _, _, _, _, rfl⟩, fun d hd => ?_⟩
  obtain ⟨d', hd', hid', hqueue', hrun'⟩ := hcmds d hd
  obtain ⟨c, hc, hid, hqueue, hrun⟩ := mem_cmdEnd hd'
  refine ⟨c, hc, hid'.trans hid, hqueue'.trans hqueue, fun hd => ?_⟩
  obtain ⟨hd', hnot⟩ := hrun' hd
  obtain ⟨hc, hne⟩ := hrun hd'
  exact ⟨hc, List.not_mem_cons_of_ne_of_not_mem (hid' ▸ hne) hnot⟩

/-- What a watchdog does to one of the running commands that it picks. -/
def watchdogCmd (t : State) (c : Cmd) : State :=
  match slotOf t c.id with
  | some x => colFail t x (resultOf .watchdog) true
  | none => if isCollective c then cmdFail (colSkip t c) c (resultOf .watchdog) else cmdEnd (mmSpoil t c) c.id (resultOf .watchdog)

theorem watchdogCmds_eq (s : State) (f : Cmd → Bool) :
    watchdogCmds s f = (s.sp.cmds.filter fun c => f c && cmdRunning c).foldl watchdogCmd s := rfl

theorem watchdogCmd_aborts {t : State} {c : Cmd} (hslots : t.col.slots = []) (hcol : isCollective c = false) :
    watchdogCmd t c = cmdEnd (mmSpoil t c) c.id (resultOf .watchdog) := by
  have hslot : slotOf t c.id = none := by rw [slotOf, hslots]; rfl
  simp only [watchdogCmd, hslot, hcol, Bool.false_eq_true, if_false]

theorem foldl_watchdogCmd_aborts : ∀ (l : List Cmd) (t : State), t.col.slots = [] → (∀ c ∈ l, isCollective c = false) →
    Aborted (l.map (·.id)) t (l.foldl watchdogCmd t)
  | [], t, _, _ => .nil t
  | c :: l, t, hslots, hcol => by
    have hwork := mmSpoil_work t c {}
    have hspoilt : (mmSpoil t c).col.slots = [] := by
      obtain ⟨_, _, _, _, hstate⟩ := hwork
      rw [hstate]
      exact hslots
    rw [List.foldl_cons, watchdogCmd_aborts hslots (hcol c List.mem_cons_self)]
    exact .cons hwork (foldl_watchdogCmd_aborts l _ hspoilt fun d hd => hcol d (List.mem_cons_of_mem _ hd))

/-- A watchdog that meets no collective aborts the running commands that it picks. -/
theorem watchdogCmds_aborts {s : State} (f : Cmd → Bool) (hslots : s.col.slots = []) (hcol : ∀ c ∈ s.sp.cmds, isCollective c = false) :
    Aborted ((s.sp.cmds.filter fun c => f c && cmdRunning c).map (·.id)) s (watchdogCmds s f) :=
  watchdogCmds_eq s f ▸ foldl_watchdogCmd_aborts _ s hslots fun c hc => hcol c (List.mem_filter.1 hc).1

/-- The next grip of a die is another one. -/
theorem gripNext_ne (g x : Nat) (h : g < 80) : gripNext g x ≠ g := by
  have turn : ∀ i m y, i < m → 2 ≤ m → (i + 1 + y % (m - 1)) % m ≠ i := by
    intro i m y hi hm hmod
    have hy := Nat.mod_lt y (show 0 < m - 1 by omega)
    rcases Nat.lt_or_ge (i + 1 + y % (m - 1)) m with hlt | hge
    · rw [Nat.mod_eq_of_lt hlt] at hmod
      omega
    · rw [Nat.mod_eq_sub_mod hge, Nat.mod_eq_of_lt (by omega)] at hmod
      omega
  intro heq
  unfold gripNext gripDie at heq
  split at heq
  · have := turn g 32 x (by omega) (by decide)
    dsimp only at heq
    omega
  · split at heq
    · have := turn (g - 32) 32 x (by omega) (by decide)
      dsimp only at heq
      omega
    · have := turn (g - 64) 16 x (by omega) (by decide)
      dsimp only at heq
      omega

/-- A queue that a grip held has gone to another grip of its die. -/
def queueMoved (s : State) (grip : Nat) (q : Queue) : Queue :=
  if q.grip = grip then { q with grip := gripNext grip (freeAt s q.idx).toNat } else q

theorem queueMoved_grip (s : State) {grip : Nat} (h : grip < 80) (q : Queue) : (queueMoved s grip q).grip ≠ grip := by
  unfold queueMoved
  split
  · exact gripNext_ne grip _ h
  · assumption

theorem logAdd_gripResets (l : ErrLog) (e : LogEntry) : (logAdd l e).gripResets = l.gripResets := by
  unfold logAdd
  repeat' split
  all_goals rfl

/-- Whether a queue that a grip holds is a command's. -/
def gripHolds (s : State) (grip : Nat) (c : Cmd) : Bool := s.sp.queues.any fun q => q.idx == c.queue && q.grip == grip

/-- The state once a grip's queues have moved and its reset is counted. -/
def gripMoved (t : State) (grip : Nat) : State :=
  freeUse { t with
    sp := { t.sp with queues := t.sp.queues.map (queueMoved t grip) }
    err := { t.err with gripResets := satAdd 32 t.err.gripResets 1 } } 1024

/-- A grip's watchdog aborts what its queues run, moves the queues, counts and logs. -/
theorem gripWatchdog_eq {s : State} {grip : Nat} (hg : grip < 80) (hhalt : grip ∉ s.gaf.haltedGrips) :
    gripWatchdog grip s = stLog (gripMoved (watchdogCmds s (gripHolds s grip)) grip)
      { logBlank with kind := 10, unit := gripIsland grip, detail := grip } := by
  have hguard : (decide (grip < 80) && !(s.gaf.haltedGrips.contains grip)) = true := by simp [hg, hhalt]
  exact if_pos hguard

end Sys2Proof.Machine
end

section
/-! CLAIMS. The events of the matrix array. -/

namespace Sys2Proof.Machine

/-- Settles O24: each event is run to its end once; what the parts leave alone is said by `EngineWork`, `PortsKept` and `Aborted`. -/
theorem matrixArrayEvents : Obligations.MatrixArrayEvents := by
  refine ⟨?resumed, ?unreadable, ?failed, ?bandWatchdog, ?rushes, ?cleared, ?gripWatchdog⟩
  case resumed =>
    intro s u v cid overlap e c i b fa fb hget hphase hop hresident hours hfeed hband hgrip href hgood hfind hb hswitch hv he hfa hfb hcheck
    subst hb hv
    have hports : PortsKept s u := by
      rcases bandSwitch_cases hswitch with ⟨-, hports⟩ | ⟨-, -, -, -, -, hfalse⟩
      · exact hports
      · cases hfalse
    have hid : c.id = cid := cmdGet_id hget
    have hadmitted := cmdGet_mmGiven ((hports.cmdGet cid).trans hget)
    have hcount := sramCount_work (mmGiven u c) (mmBody (cmdBody c)).engine e
    have hexec := exec_matmulResume_runs e overlap hget hphase hop hresident hours hfeed hband hgrip href
    rw [mmResume_switched e overlap hfind hgood hswitch, if_pos rfl,
      mmRun_computes (s := mmGiven u c) (c := { c with phase := .admitted }) rfl hcheck hfa hfb he] at hexec
    exact ⟨_, hexec, mmCompute_endsOk _ _ _ _ _ _ _ hid ((hcount.cmdGet cid).trans hadmitted) rfl, rfl⟩
  case unreadable =>
    intro s u cid overlap e c i b hget hphase hop hresident hours hfeed hband hgrip href hgood hfind hb himage hswitch
    subst hb
    have hexec := exec_matmulResume_runs e overlap hget hphase hop hresident hours hfeed hband hgrip href
    rw [mmResume_switched e overlap hfind hgood hswitch, if_neg Bool.false_ne_true] at hexec
    refine ⟨hexec, ?_⟩
    rcases bandSwitch_cases hswitch with ⟨htrue, -⟩ | ⟨j, t, hj, hports, rfl, -⟩
    · cases htrue
    · obtain rfl : i = j := Option.some.inj (himage.symm.trans hj)
      have ht := (hports.cmdGet cid).trans hget
      have hcid : i.cid = some cid := by
        rw [← cmdGet_id hget]
        simpa using List.find?_some hfind
      exact imageLost_ends ht (by simp [cmdLive, hphase]) hcid
  case failed =>
    intro s cid overlap e c i b hget hphase hop hresident hours hfeed hband hgrip href hb hfailed hfind
    subst hb
    have hexec := exec_matmulResume_runs e overlap hget hphase hop hresident hours hfeed hband hgrip href
    rw [mmResume_islFailed e overlap hfind hfailed, cmdGet_id hget] at hexec
    exact ⟨_, hexec, ⟨_, _, cmdGet_cmdEnd_work _ ⟨_, _, _, _, rfl⟩ hget (by simp [cmdLive, hphase]), rfl, rfl⟩, rfl, rfl⟩
  case bandWatchdog =>
    intro s engine band c hband hget hfeed hengine hlt
    have hset : EngineWork s (wdogSet s engine band) := ⟨_, _, _, _, rfl⟩
    have hwork := hset.trans (mmSpoil_work _ c {})
    refine ⟨_, exec_bandWatchdog_ends hband hfeed,
      ⟨_, _, cmdGet_cmdEnd_work _ hwork hget (cmdLive_running (bandCmd_running hband)), rfl, rfl⟩, ?_, hwork.mem⟩
    rw [(cmdEnd_frame _ _ _).2.2.2.1, mmSpoil_wdog (wdogSet s engine band) c {}]
    exact wdogSet_bit s hengine hlt
  case rushes =>
    intro s cid hended hbins
    have hjob : ∀ {j}, j ∈ (s.array.rush.filter fun j => j.cid == cid) ↔ j ∈ s.array.rush ∧ j.cid = cid := by
      intro j
      simp
    obtain ⟨hrush, helse, hzero⟩ := foldl_refZero (s.array.rush.filter fun j => j.cid == cid)
      { s.array with rush := s.array.rush.filter fun j => j.cid != cid }
    rw [← rushDone_array hended] at hrush helse hzero
    refine ⟨_, rfl, fun j hj => ?_, fun k hk => helse k fun j hj => ?_, fun k hk => hzero k (.inl ?_), rushDone_mem s cid,
      rushDone_cmds_kept hended hbins⟩
    · rw [hrush] at hj
      simpa using (List.mem_filter.1 hj).2
    · exact hk j (hjob.1 hj).1 (hjob.1 hj).2
    · obtain ⟨j, hj, hcid, hkey⟩ := hk
      exact ⟨j, hjob.2 ⟨hj, hcid⟩, hkey⟩
  case cleared =>
    intro s p tag engine v hmay hbit
    exact next_mgmtWrite tag _ hmay (mxeCntClear_set s engine hbit)
  case gripWatchdog =>
    intro s g hg hhalt hquiet hcol
    obtain ⟨hslots, -, hended, hbroken⟩ := hquiet
    obtain ⟨⟨_, _, _, _, _, hframe⟩, hcmds⟩ := watchdogCmds_aborts (gripHolds s g) hslots hcol
    have hstate := gripWatchdog_eq hg hhalt
    have hkept : SettleKept s (gripWatchdog g s) := by
      rw [hstate, hframe]
      exact ⟨rfl, rfl, rfl, rfl⟩
    have hexec : exec (.gripWatchdog g) s = .next (gripWatchdog g s) := congrArg Host.Outcome.next (hkept.settle ⟨hended, hbroken⟩)
    rw [hstate] at hexec
    refine ⟨_, hexec, ?_, fun q hq => ?_, fun d hd hheld => ?_⟩
    · refine (logAdd_gripResets _ _).trans ?_
      rw [hframe]
      rfl
    · obtain ⟨q', -, rfl⟩ := List.mem_map.1 hq
      exact queueMoved_grip _ hg q'
    · -- a command of the grip's that runs afterwards ran before, and was picked
      obtain ⟨c, hc, hid, hqueue, hrun⟩ := hcmds d hd
      refine Bool.eq_false_iff.2 fun hdrun => ?_
      obtain ⟨hcrun, hout⟩ := hrun hdrun
      obtain ⟨q, hq, hidx, hgrip⟩ := hheld
      refine hout (List.mem_map.2 ⟨c, List.mem_filter.2 ⟨hc, ?_⟩, hid.symm⟩)
      rw [hcrun, Bool.and_true, gripHolds, List.any_eq_true]
      exact ⟨q, hq, by simp [hidx, hqueue, hgrip]⟩

end Sys2Proof.Machine
end

section
/-! SUPPORT. What a command's accesses of main memory do to the commands: they charge energy and change nothing else about any of them, so
that a command is still live when its last access returns. The accesses of the reductions at memory, one by one and in their runs. -/

namespace Sys2Proof.Machine

/-! ### The commands after accesses of main memory (R394, R420) -/

/-- The commands are as they were, but for the energy charged to each. -/
def CmdsCharged (s t : State) : Prop := ∃ pj : Cmd → Nat, t.sp.cmds = s.sp.cmds.map fun c => { c with pj := pj c }

theorem CmdsCharged.of_eq {s t : State} (h : t.sp.cmds = s.sp.cmds) : CmdsCharged s t := ⟨(·.pj), h.trans (List.map_id' _).symm⟩

theorem CmdsCharged.refl (s : State) : CmdsCharged s s := .of_eq rfl

theorem CmdsCharged.trans {s t u : State} (h : CmdsCharged s t) (k : CmdsCharged t u) : CmdsCharged s u := by
  obtain ⟨f, hf⟩ := h
  obtain ⟨g, hg⟩ := k
  exact ⟨fun c => g { c with pj := f c }, by rw [hg, hf, List.map_map]; rfl⟩

theorem PortsKept.charged {s t : State} (h : PortsKept s t) : CmdsCharged s t := .of_eq (congrArg Spaces.cmds h.sp)

/-- A command that had a number still has it, with energy charged. -/
theorem CmdsCharged.cmdGet {s t : State} (h : CmdsCharged s t) {cid : Nat} {c : Cmd} (hget : cmdGet s cid = some c) :
    ∃ pj, cmdGet t cid = some { c with pj := pj } := by
  obtain ⟨f, hf⟩ := h
  unfold Machine.cmdGet at hget ⊢
  have hid : ((fun d : Cmd => d.id == cid) ∘ fun d : Cmd => { d with pj := f d }) = fun d => d.id == cid := rfl
  rw [hf, List.find?_map, hid, hget]
  exact ⟨_, rfl⟩

/-- A command that was live before its accesses ends with the result given after them. -/
theorem CmdsCharged.cmdEnd_ends {s t : State} (h : CmdsCharged s t) {cid : Nat} {c : Cmd} (r : Result)
    (hget : Machine.cmdGet s cid = some c) (hlive : cmdLive c = true) : endsWith (cmdEnd t cid r) cid r.status := by
  obtain ⟨pj, ht⟩ := h.cmdGet hget
  exact ⟨_, r, cmdGet_cmdEnd t cid r _ ht hlive, rfl, rfl⟩

/-! ### Accesses at space addresses -/

theorem readRuns_ports (w : Who) : ∀ (runs : List (Nat × Nat)) (s : State), PortsKept s (readRuns w runs s).st
  | [], s => .refl s
  | (a, n) :: runs, s => by
    have hread : PortsKept s (readPhys s w a n).st := readPhysF_ports w _ a n s
    simp only [readRuns]
    split
    · exact hread.trans (readRuns_ports w runs _)
    · exact hread

theorem writeRuns_ports (via : Bool) (w : Who) : ∀ (runs : List (Nat × Nat)) (bs : List Byte) (s : State),
    PortsKept s (writeRuns via w runs bs s).st
  | [], _, s => .refl s
  | (a, n) :: runs, bs, s => by
    have hwrite := writePhysF_ports via w (n + 1) a (bs.take n) s
    simp only [writeRuns]
    split
    · exact hwrite.trans (writeRuns_ports via w runs _ _)
    · exact hwrite

theorem countHbm_charged (s : State) (c : Cmd) (runs : List (Nat × Nat)) (rd wr : Nat) : CmdsCharged s (countHbm s c runs rd wr) := by
  refine ⟨fun d => if d.id = c.id then d.pj + runCharge s (cmdDie c) runs else d.pj, List.map_congr_left fun d _ => ?_⟩
  dsimp only
  split <;> rfl

theorem readSpace_charged (s : State) (c : Cmd) (v n : Nat) : CmdsCharged s (readSpace s c v n).st :=
  (readRuns_ports _ _ s).charged.trans (countHbm_charged _ _ _ _ _)

theorem putSpace_charged (via : Bool) (s : State) (c : Cmd) (v : Nat) (bs : List Byte) : CmdsCharged s (putSpace via s c v bs).st :=
  (writeRuns_ports via _ _ _ s).charged.trans (countHbm_charged _ _ _ _ _)

theorem writeSpace_charged (s : State) (c : Cmd) (v : Nat) (bs : List Byte) : CmdsCharged s (writeSpace s c v bs).st :=
  putSpace_charged false s c v bs

theorem mergeSpace_charged (s : State) (c : Cmd) (v : Nat) (bs : List Byte) : CmdsCharged s (mergeSpace s c v bs).st :=
  putSpace_charged true s c v bs

theorem addMask_charged (s : State) (ctx : Nat) (m : BitVec 8) : CmdsCharged s (addMask s ctx m) := .of_eq rfl

theorem readTake_charged (s : State) (c : Cmd) (v n : Nat) : CmdsCharged s (readTake s c v n).st :=
  (addMask_charged s _ _).trans (readSpace_charged _ c v n)

/-! ### Accesses of the reductions (R142, R147) -/

theorem redHeader_charged {s u : State} {c : Cmd} {tgt : Nat} {spans : List (Nat × Nat)} {x : Except Result RedHeader}
    (h : redHeader s c tgt spans = (u, x)) : CmdsCharged s u := by
  have hread := readSpace_charged s c tgt 64
  rw [← show (redHeader s c tgt spans).1 = u from congrArg Prod.fst h]
  unfold redHeader
  dsimp only
  repeat' split
  · exact .refl s
  all_goals exact hread

theorem redSource_charged (s : State) (c : Cmd) (b : RedAdd) (i j : Nat) : CmdsCharged s (redSource s c b i j).1.st := by
  unfold redSource
  split
  · exact readTake_charged _ _ _ _
  · exact .refl s

theorem redAddOne_charged (s : State) (c : Cmd) (b : RedAdd) (h : RedHeader) (p : Nat × Nat) : CmdsCharged s (redAddOne s c b h p).1 := by
  have hsource := redSource_charged s c b p.1 p.2
  unfold redAddOne
  dsimp only
  split
  · split
    · exact hsource.trans ((readSpace_charged _ _ _ _).trans (mergeSpace_charged _ _ _ _))
    · exact hsource.trans (readSpace_charged _ _ _ _)
  · exact hsource

theorem redAddAll_charged (c : Cmd) (b : RedAdd) (h : RedHeader) : ∀ (order : List (Nat × Nat)) (s : State),
    CmdsCharged s (redAddAll c b h order s).1
  | [], s => .refl s
  | p :: order, s => by
    simp only [redAddAll]
    split
    · exact (redAddOne_charged s c b h p).trans (redAddAll_charged c b h order _)
    · exact redAddOne_charged s c b h p

theorem redReadOne_charged (s : State) (c : Cmd) (b : RedRead) (h : RedHeader) (i : Nat) : CmdsCharged s (redReadOne s c b h i).1 := by
  have hread := readSpace_charged s c (b.tgt + 64 + (b.first + i) * redWidth h) (redWidth h)
  unfold redReadOne
  dsimp only
  split
  · cases b.clear
    · exact hread.trans (writeSpace_charged _ _ _ _)
    · have hreset := hread.trans (writeSpace_charged _ c (b.tgt + 64 + (b.first + i) * redWidth h) (List.replicate (redWidth h) 0))
      simp only [if_true]
      split
      · exact hreset.trans (writeSpace_charged _ _ _ _)
      · exact hreset
  · exact hread

theorem redReadAll_charged (c : Cmd) (b : RedRead) (h : RedHeader) : ∀ (n i : Nat) (t : Tally) (s : State),
    CmdsCharged s (redReadAll c b h n i t s).1
  | 0, _, _, s => .refl s
  | n + 1, i, t, s => by
    simp only [redReadAll]
    split
    · exact (redReadOne_charged s c b h i).trans (redReadAll_charged c b h n _ _ _)
    · exact redReadOne_charged s c b h i

/-! ### A reduction's end -/

/-- A reduction whose accesses all succeeded ends with the status of its events. -/
theorem CmdsCharged.endTally_endsOk {s t : State} (h : CmdsCharged s t) {c d : Cmd} (range : Nat) (y : Tally) (strict : Bool) (engine : Nat)
    (hget : Machine.cmdGet s c.id = some d) (hlive : cmdLive d = true) :
    endsOk (endTally t c .ok range (tallyResult y strict engine)) c.id := by
  obtain ⟨x, r, hx, hr, hstatus⟩ := h.cmdEnd_ends (tallyResult y strict engine) hget hlive
  exact ⟨x, r, hx, hr, hstatus ▸ tallyStatus_good y strict⟩

/-- A served command is the one of its number, and live. -/
theorem cmdServed_some {s : State} {cid opcode : Nat} {names : State → Cmd → List (Nat × Nat)} {c : Cmd}
    (h : cmdServed s cid opcode names = some c) : c.id = cid ∧ cmdGet s cid = some c ∧ cmdLive c = true := by
  obtain ⟨hget, hphase, -, -⟩ := cmdReady_some s cid opcode c (Option.filter_eq_some_iff.1 h).1
  exact ⟨cmdGet_id hget, hget, cmdLive_admitted c hphase⟩

/-! ### The three commands (R141, R152, R153, Table 05-8) -/

section Runs

variable {s u v : State} {cid : Nat} {c : Cmd}

theorem exec_redInit (h : cmdServed s cid 0x14 redInitNames = some c) : exec (.redInit cid) s = .next (redInitRun s c) := by
  show execRedInit cid s = _
  rw [execRedInit, h]

theorem exec_redAdd (e : SramErr) (h : cmdServed s cid 0x15 redAddNames = some c) : exec (.redAdd cid e) s = .next (redAddRun s c e) := by
  show execRedAdd cid e s = _
  rw [execRedAdd, h]

theorem exec_redRead (h : cmdServed s cid 0x16 redReadNames = some c) : exec (.redRead cid) s = .next (redReadRun s c) := by
  show execRedRead cid s = _
  rw [execRedRead, h]

theorem redInitRun_refused {b : RedInit} (hb : redInitBody (cmdBody c) = b)
    (h : b.resv ≠ 0 ∨ b.tgt % 64 ≠ 0 ∨ ewOk b.hdr.ofr b.hdr.ew = false ∨ modeAllowed s b.hdr = false) :
    redInitRun s c = cmdEnd s c.id (resultOf .badDescriptor) := by
  subst hb
  unfold redInitRun
  refine if_pos ?_
  simpa [or_assoc] using h

theorem redInitRun_writes {b : RedInit} (hb : redInitBody (cmdBody c) = b) (hresv : b.resv = 0) (htgt : b.tgt % 64 = 0)
    (hew : ewOk b.hdr.ofr b.hdr.ew = true) (hmode : modeAllowed s b.hdr = true)
    (hspans : spansCheck s c 0 [] [(b.tgt, redSize b.hdr)] = none) {w : MemWrite}
    (hw : writeSpace s c b.tgt (redHeaderBytes b.hdr ++ List.replicate (redSize b.hdr - 64) 0) = w) :
    redInitRun s c = endRange w.st c w.status w.range := by
  subst hb hw
  unfold redInitRun
  refine (if_neg ?passes).trans ?writes
  case passes => simp [hresv, htgt, hew, hmode]
  case writes => rw [hspans]

/-- RED_ADD from memory, its checks passed, adds its elements and ends with the tally of their events. -/
theorem redAddRun_adds {b : RedAdd} {hd : RedHeader} {reads : List (Nat × Nat)} (e : SramErr) (hb : redAddBody (cmdBody c) = b)
    (hstatic : redAddStatic b = true) (hmem : b.mem = true) (hreads : reads = rowSpans b.src b.pitch (b.n * redSrcWidth b) b.m)
    (hheader : redHeader s c b.tgt reads = (u, .ok hd)) (hshape : redAddShape u c.space b hd = none)
    (hspans : spansCheck u c 0 reads
      (rowSpans (b.tgt + 64 + b.first * redWidth hd) (b.tgtPitch * redWidth hd) (b.n * redWidth hd) b.m) = none)
    (hv : v = freeUse u (b.m * b.n + 1)) {r : State × Status × Nat × List ((Nat × Nat) × BitVec 16)}
    (hr : redAddAll c b hd (redOrder u b) v = r) :
    redAddRun s c e = endTally r.1 c r.2.1 r.2.2.1 (tallyResult (redTally (fun i j => (0, i, j)) r.2.2.2) true 0) := by
  subst hb hreads hv hr
  have hextra : redExtra u (redAddBody (cmdBody c)) = 0 := if_pos hmem
  simp only [redAddRun, hstatic, hmem, hheader, hshape, hextra, hspans, redAddGo, if_true, Bool.and_false, Bool.false_eq_true, if_false]

/-- RED_READ, its checks passed, reads its elements and ends with the tally of their events. -/
theorem redReadRun_reads {b : RedRead} {hd : RedHeader} {out span : Nat × Nat} (hb : redReadBody (cmdBody c) = b) (hresv : b.resv = 0)
    (htgt : b.tgt % 64 = 0) (halign : b.out % 4 = 0) (hout : out = (b.out, b.count * (if b.bf16 then 2 else 4)))
    (hheader : redHeader s c b.tgt [out] = (u, .ok hd)) (hcount : b.first + b.count ≤ hd.count)
    (hspan : span = (b.tgt + 64 + b.first * redWidth hd, b.count * redWidth hd))
    (hspans : spansCheck u c 0 [(b.tgt, redSize hd)] (out :: (if b.clear then [span] else [])) = none)
    (hv : v = addMask u c.ctx (spanOwners u c.space [(b.tgt, redSize hd)])) {r : State × Status × Nat × Tally}
    (hr : redReadAll c b hd b.count 0 {} v = r) :
    redReadRun s c = endTally r.1 c r.2.1 r.2.2.1 (tallyResult r.2.2.2 true 0) := by
  subst hb hout hspan hv hr
  simp only [redReadRun, hresv, htgt, halign, hheader, Nat.not_lt.2 hcount, hspans, redReadGo, decide_true, Bool.and_self, if_true,
    if_false]

end Runs

end Sys2Proof.Machine
end

section
/-! CLAIMS. The reductions at memory. -/

namespace Sys2Proof.Machine

/-- Settles O26: each run is said by one equation, and its accesses leave the command live to its end (`CmdsCharged`). -/
theorem reductionTargets : Obligations.ReductionTargets := by
  refine ⟨?init, ?initRefused, ?add, ?read⟩
  case init =>
    intro s cid c b hserved hb hresv htgt hew hmode hspans hok
    obtain ⟨rfl, hget, hlive⟩ := cmdServed_some hserved
    have hexec := exec_redInit hserved
    rw [redInitRun_writes hb hresv htgt hew hmode hspans rfl, hok] at hexec
    exact ⟨_, hexec, (writeSpace_charged _ _ _ _).cmdEnd_ends _ hget hlive, rfl⟩
  case initRefused =>
    intro s cid c b hserved hb hbad
    obtain ⟨rfl, -, -⟩ := cmdServed_some hserved
    rw [exec_redInit hserved, redInitRun_refused hb hbad]
  case add =>
    intro s u v cid e c b hd reads hserved hb hstatic hmem hreads hheader hshape hspans hv hok
    obtain ⟨rfl, hget, hlive⟩ := cmdServed_some hserved
    have hexec := exec_redAdd e hserved
    rw [redAddRun_adds e hb hstatic hmem hreads hheader hshape hspans hv rfl, hok] at hexec
    have hstart : CmdsCharged s v := hv ▸ (redHeader_charged hheader).trans (.of_eq rfl)
    exact ⟨_, hexec, rfl, (hstart.trans (redAddAll_charged c b hd (redOrder u b) v)).endTally_endsOk _ _ _ _ hget hlive⟩
  case read =>
    intro s u v cid c b hd out span hserved hb hresv htgt halign hout hheader hcount hspan hspans hv hok
    obtain ⟨rfl, hget, hlive⟩ := cmdServed_some hserved
    have hexec := exec_redRead hserved
    rw [redReadRun_reads hb hresv htgt halign hout hheader hcount hspan hspans hv rfl, hok] at hexec
    have hstart : CmdsCharged s v := hv ▸ (redHeader_charged hheader).trans (addMask_charged u _ _)
    exact ⟨_, hexec, rfl, (hstart.trans (redReadAll_charged c b hd b.count 0 {} v)).endTally_endsOk _ _ _ _ hget hlive⟩

end Sys2Proof.Machine
end

section
/-! SUPPORT. VECTOR, QUANTIZE and RANDOM: each writes an output in tiles or in staging and ends with a tally; what that leaves alone. -/

namespace Sys2Proof.Machine

/-! ### Outputs in tiles or in staging -/

/-- A state after the output of a command of the vector unit, in tiles or else in staging: the other memory is as it was. -/
def OutputWork (tile : Bool) (s t : State) : Prop :=
  ∃ tiles staging, t = { s with array := { s.array with tiles := tiles, staging := staging } } ∧
    (tile = false → tiles = s.array.tiles) ∧ (tile = true → staging = s.array.staging)

namespace OutputWork

theorem refl (tile : Bool) (s : State) : OutputWork tile s s := ⟨_, _, rfl, fun _ => rfl, fun _ => rfl⟩

theorem trans {tile : Bool} {s t u : State} (h : OutputWork tile s t) (k : OutputWork tile t u) : OutputWork tile s u := by
  obtain ⟨_, _, rfl, htiles, hstaging⟩ := h
  obtain ⟨_, _, rfl, ktiles, kstaging⟩ := k
  exact ⟨_, _, rfl, fun h => (ktiles h).trans (htiles h), fun h => (kstaging h).trans (hstaging h)⟩

/-- An output that an option of the command asks for. -/
theorem optional {tile p : Bool} {s t : State} (h : OutputWork tile s t) : OutputWork tile s (if p then t else s) := by
  cases p
  · exact refl tile s
  · exact h

theorem work {tile : Bool} {s t : State} (h : OutputWork tile s t) : EngineWork s t := by
  obtain ⟨_, _, rfl, -, -⟩ := h
  exact ⟨_, _, _, _, rfl⟩

theorem tiles {s t : State} (h : OutputWork false s t) : t.array.tiles = s.array.tiles := by
  obtain ⟨_, _, rfl, htiles, -⟩ := h
  exact htiles rfl

theorem staging {s t : State} (h : OutputWork true s t) : t.array.staging = s.array.staging := by
  obtain ⟨_, _, rfl, -, hstaging⟩ := h
  exact hstaging rfl

end OutputWork

theorem stgPut_output (s : State) (x : Band) (off : Nat) (bs : List Byte) : OutputWork false s (stgPut s x off bs) :=
  ⟨_, _, rfl, fun _ => rfl, nofun⟩

theorem tilePutRow_output (s : State) (x : Band) (base i : Nat) (ws : List W32) : OutputWork true s (tilePutRow s x base i ws) :=
  ⟨_, _, rfl, nofun, fun _ => rfl⟩

theorem putCodeRows_output (x : Band) (f : Fmt) (off pitch n : Nat) : ∀ (m i : Nat) (cs : List Nat) (s : State),
    OutputWork false s (putCodeRows x f off pitch n m i cs s)
  | 0, _, _, s => .refl false s
  | m + 1, i, cs, _ => (stgPut_output _ _ _ _).trans (putCodeRows_output x f off pitch n m (i + 1) (cs.drop n) _)

theorem vecWriteRow_output (x : Band) (b : VecBody) (i : Nat) (r : OutRow) (s : State) :
    OutputWork b.o.tile s (vecWriteRow x b i r s) := by
  cases h : b.o.tile
  · simpa only [vecWriteRow, h, Bool.false_eq_true, if_false] using stgPut_output _ _ _ _
  · simpa only [vecWriteRow, h, if_true] using tilePutRow_output _ _ _ _ _

theorem vecWriteRows_output (x : Band) (b : VecBody) : ∀ (i : Nat) (rows : List OutRow) (s : State),
    OutputWork b.o.tile s (vecWriteRows x b i rows s)
  | _, [], s => .refl _ s
  | i, r :: rows, s => (vecWriteRow_output x b i r s).trans (vecWriteRows_output x b (i + 1) rows _)

/-! ### What a command computes (R159, R167, R172, R175) -/

/-- A state in which a command of the vector unit has written its output, taken it into the holding masks of its band and ended with the
status of what it tallied. -/
def Computed (tile : Bool) (c : Cmd) (s t : State) : Prop :=
  ∃ u x y engine, OutputWork tile s u ∧ t = cmdEnd (holdWrite u c x (!tile) tile) c.id (tallyResult y true engine)

theorem vecGo_computed (s : State) (c : Cmd) (b : VecBody) : Computed b.o.tile c s (vecGo s c b) :=
  ⟨_, _, _, _, vecWriteRows_output _ _ _ _ _, rfl⟩

theorem quantGo_computed (s : State) (c : Cmd) (b : QuantBody) (fo : FmtWord) : Computed false c s (quantGo s c b fo) :=
  ⟨_, _, _, _, (((putCodeRows_output _ _ _ _ _ _ _ _ _).trans (stgPut_output _ _ _ _)).trans (stgPut_output _ _ _ _).optional).trans
    (stgPut_output _ _ _ _).optional, rfl⟩

theorem randGo_computed (s : State) (c : Cmd) (b : RandBody) (key : W256) : Computed false c s (randGo s c b key) :=
  ⟨_, _, _, _, putCodeRows_output _ _ _ _ _ _ _ _ _, rfl⟩

namespace Computed

variable {tile : Bool} {c : Cmd} {s t u : State}

/-- What the command leaves alone, and its end, where only engines worked between its admission and its output. -/
theorem after_work (h : EngineWork s t) (k : Computed tile c t u) (hget : cmdGet s c.id = some c) (hlive : cmdLive c = true) :
    endsOk u c.id ∧ u.mem = s.mem ∧ u.keys = s.keys := by
  obtain ⟨v, x, y, engine, hout, rfl⟩ := k
  have hwork := (h.trans hout.work).trans (holdWrite_work v c x (!tile) tile)
  exact ⟨⟨_, _, cmdGet_cmdEnd_work _ hwork hget hlive, rfl, tallyStatus_good y true⟩, hwork.mem, hwork.keys⟩

theorem tiles (h : Computed false c s t) : t.array.tiles = s.array.tiles := by
  obtain ⟨v, x, y, engine, hout, rfl⟩ := h
  exact (holdWrite_memories _ _ _ _ _).1.trans hout.tiles

theorem staging (h : Computed true c s t) : t.array.staging = s.array.staging := by
  obtain ⟨v, x, y, engine, hout, rfl⟩ := h
  exact (holdWrite_memories _ _ _ _ _).2.trans hout.staging

end Computed

theorem stepKeyGet_work (s : State) (slot step : Nat) : EngineWork s (stepKeyGet s slot step).1 := by
  unfold stepKeyGet
  dsimp only
  split
  · exact .refl s
  · exact ⟨_, _, _, _, rfl⟩

theorem stepKeyGet_tiles (s : State) (slot step : Nat) : (stepKeyGet s slot step).1.array.tiles = s.array.tiles := by
  unfold stepKeyGet
  dsimp only
  split <;> rfl

/-! ### The three commands -/

/-- The state in which a command of the vector unit computes: it has met its SRAM words and taken the holding masks of what it reads. -/
def inputsMet (s : State) (c : Cmd) (e : SramErr) (engine band : Nat) (stg tile : Bool) : State :=
  holdRead (sramCount s engine e) c.ctx (bandAt s engine band) stg tile

theorem inputsMet_work (s : State) (c : Cmd) (e : SramErr) (engine band : Nat) (stg tile : Bool) :
    EngineWork s (inputsMet s c e engine band stg tile) := (sramCount_work _ _ _).trans (holdRead_work _ _ _ _ _)

variable {s : State} {cid : Nat} {c : Cmd} {e : SramErr}

theorem exec_vector_runs (e : SramErr) (hready : cmdReady s cid 0x20 = some c) : exec (.vector cid e) s = .next (vecRun s c e) := by
  show execVector cid e s = _
  rw [execVector, hready]

theorem exec_quantize_runs (e : SramErr) (hready : cmdReady s cid 0x21 = some c) :
    exec (.quantize cid e) s = .next (quantRun s c e) := by
  show execQuantize cid e s = _
  rw [execQuantize, hready]

theorem exec_random_runs (e : SramErr) (hready : cmdReady s cid 0x22 = some c) : exec (.random cid e) s = .next (randRun s c e) := by
  show execRandom cid e s = _
  rw [execRandom, hready]

theorem vecRun_computes {b : VecBody} (hb : vecBody (cmdBody c) = b) (hcheck : vecCheck s c.space b = none) (he : sramBad e = false) :
    vecRun s c e = vecGo (inputsMet s c e b.engine b.band (vecReads b).1 (vecReads b).2) c b := by
  subst hb
  simp only [vecRun, hcheck, he, Bool.false_eq_true, if_false, inputsMet]

theorem quantRun_computes {b : QuantBody} {fo : FmtWord} (hb : quantBody (cmdBody c) = b) (hcheck : quantCheck s c.space b = none)
    (hfo : b.fo = some fo) (he : sramBad e = false) :
    quantRun s c e = quantGo (inputsMet s c e b.engine b.band (!b.src.tile || fo.fmt == .c4) b.src.tile) c b fo := by
  subst hb
  simp only [quantRun, hcheck, hfo, he, Bool.false_eq_true, if_false, inputsMet]

/-- The step key of a RANDOM, and the state in which it is held. -/
def randKey (s : State) (c : Cmd) (e : SramErr) (b : RandBody) : State × W256 :=
  stepKeyGet (inputsMet s c e b.engine b.band (b.mode == 2) false) b.slot b.step

theorem randRun_computes {b : RandBody} (hb : randBody (cmdBody c) = b) (hcheck : randCheck s c.space b = none)
    (hkey : kdfAllowed s c.space (s.keys.slots.getD b.slot {}) = true) (he : sramBad e = false) :
    randRun s c e = randGo (randKey s c e b).1 c b (randKey s c e b).2 := by
  subst hb
  simp only [randRun, hcheck, hkey, he, Bool.false_eq_true, if_true, if_false, randKey, inputsMet]

end Sys2Proof.Machine
end

section
/-! CLAIMS. The vector unit's commands: what O25 says of each holds but for the SRAM words that it meets, whose wrong data, where the code
does not see them, are in accumulators and staging before the output is written (R118, R294). -/

namespace Sys2Proof.Machine

variable {s : State} {cid : Nat} {c : Cmd} {e : SramErr}

/-- O25's first clause, its memories compared with those that the SRAM words have left. -/
theorem exec_vector_computes {b : VecBody} (hready : cmdReady s cid 0x20 = some c) (hb : vecBody (cmdBody c) = b)
    (hcheck : vecCheck s c.space b = none) (he : sramBad e = false) :
    ∃ t, exec (.vector cid e) s = .next t ∧ endsOk t cid ∧
      t = vecGo (inputsMet s c e b.engine b.band (vecReads b).1 (vecReads b).2) c b ∧ t.mem = s.mem ∧ t.keys = s.keys ∧
      (b.o.tile = false → t.array.tiles = (sramCount s b.engine e).array.tiles) ∧
      (b.o.tile = true → t.array.staging = (sramCount s b.engine e).array.staging) := by
  obtain ⟨hget, hphase, -, -⟩ := cmdReady_some s cid _ c hready
  obtain rfl := cmdGet_id hget
  have hexec := exec_vector_runs e hready
  rw [vecRun_computes hb hcheck he] at hexec
  have hgo := vecGo_computed (inputsMet s c e b.engine b.band (vecReads b).1 (vecReads b).2) c b
  obtain ⟨hends, hmem, hkeys⟩ := hgo.after_work (inputsMet_work _ _ _ _ _ _ _) hget (cmdLive_admitted c hphase)
  refine ⟨_, hexec, hends, rfl, hmem, hkeys, fun h => ?_, fun h => ?_⟩
  all_goals rw [h] at hgo
  · exact hgo.tiles
  · exact hgo.staging

/-- O25's third clause, likewise. -/
theorem exec_quantize_computes {b : QuantBody} {fo : FmtWord} (hready : cmdReady s cid 0x21 = some c) (hb : quantBody (cmdBody c) = b)
    (hcheck : quantCheck s c.space b = none) (hfo : b.fo = some fo) (he : sramBad e = false) :
    ∃ t, exec (.quantize cid e) s = .next t ∧ endsOk t cid ∧
      t = quantGo (inputsMet s c e b.engine b.band (!b.src.tile || fo.fmt == .c4) b.src.tile) c b fo ∧ t.mem = s.mem ∧
      t.keys = s.keys ∧ t.array.tiles = (sramCount s b.engine e).array.tiles := by
  obtain ⟨hget, hphase, -, -⟩ := cmdReady_some s cid _ c hready
  obtain rfl := cmdGet_id hget
  have hexec := exec_quantize_runs e hready
  rw [quantRun_computes hb hcheck hfo he] at hexec
  have hgo := quantGo_computed (inputsMet s c e b.engine b.band (!b.src.tile || fo.fmt == .c4) b.src.tile) c b fo
  obtain ⟨hends, hmem, hkeys⟩ := hgo.after_work (inputsMet_work _ _ _ _ _ _ _) hget (cmdLive_admitted c hphase)
  exact ⟨_, hexec, hends, rfl, hmem, hkeys, hgo.tiles⟩

/-- O25's clause on a RANDOM that may use its key slot, likewise. -/
theorem exec_random_computes {b : RandBody} (hready : cmdReady s cid 0x22 = some c) (hb : randBody (cmdBody c) = b)
    (hcheck : randCheck s c.space b = none) (hkey : kdfAllowed s c.space (s.keys.slots.getD b.slot {}) = true) (he : sramBad e = false) :
    ∃ t, exec (.random cid e) s = .next t ∧ endsOk t cid ∧ t = randGo (randKey s c e b).1 c b (randKey s c e b).2 ∧
      t.mem = s.mem ∧ t.keys = s.keys ∧ t.array.tiles = (sramCount s b.engine e).array.tiles := by
  obtain ⟨hget, hphase, -, -⟩ := cmdReady_some s cid _ c hready
  obtain rfl := cmdGet_id hget
  have hexec := exec_random_runs e hready
  rw [randRun_computes hb hcheck hkey he] at hexec
  have hgo := randGo_computed (randKey s c e b).1 c b (randKey s c e b).2
  obtain ⟨hends, hmem, hkeys⟩ := hgo.after_work ((inputsMet_work _ _ _ _ _ _ _).trans (stepKeyGet_work _ _ _)) hget
    (cmdLive_admitted c hphase)
  exact ⟨_, hexec, hends, rfl, hmem, hkeys, hgo.tiles.trans (stepKeyGet_tiles _ _ _)⟩

/-! ### Refusals: O25's other clauses -/

variable {st : Status}

theorem exec_vector_refused (hready : cmdReady s cid 0x20 = some c) (h : vecCheck s c.space (vecBody (cmdBody c)) = some st) :
    exec (.vector cid e) s = .next (cmdEnd s cid (resultOf st)) := by
  rw [exec_vector_runs e hready, ← cmdGet_id (cmdReady_some s cid _ c hready).1]
  simp only [vecRun, h]

theorem exec_quantize_refused (hready : cmdReady s cid 0x21 = some c) (h : quantCheck s c.space (quantBody (cmdBody c)) = some st) :
    exec (.quantize cid e) s = .next (cmdEnd s cid (resultOf st)) := by
  rw [exec_quantize_runs e hready, ← cmdGet_id (cmdReady_some s cid _ c hready).1]
  simp only [quantRun, h]

theorem exec_random_refused (hready : cmdReady s cid 0x22 = some c) (h : randCheck s c.space (randBody (cmdBody c)) = some st) :
    exec (.random cid e) s = .next (cmdEnd s cid (resultOf st)) := by
  rw [exec_random_runs e hready, ← cmdGet_id (cmdReady_some s cid _ c hready).1]
  simp only [randRun, h]

theorem exec_random_keyAbsent (hready : cmdReady s cid 0x22 = some c) (hcheck : randCheck s c.space (randBody (cmdBody c)) = none)
    (hkey : kdfAllowed s c.space (s.keys.slots.getD (randBody (cmdBody c)).slot {}) = false) :
    exec (.random cid e) s = .next (cmdEnd s cid (resultOf .keyAbsent)) := by
  rw [exec_random_runs e hready, ← cmdGet_id (cmdReady_some s cid _ c hready).1]
  simp only [randRun, hcheck, hkey, Bool.false_eq_true, if_false]

/-! ### The refutation -/

/-- |x| of one F32 element at offset 0 of staging, written back there. -/
def unitVector : Cmd :=
  Tests.cmdOf 0x20 [(0, 9), (0x14, 6), (1, 13), (1, 13), (0, 36), (0, 21), (1, 12), (0, 3), (0, 72), (0, 21), (1, 12), (0, 3), (0, 16)]

/-- An accumulator word with wrong data that the code does not see. -/
def unseenAccWord : SramWord := { unseenWord with acc := true }

theorem unitVector_runs : cmdReady (Tests.runs1 unitVector) 1 0x20 = some unitVector ∧
    vecCheck (Tests.runs1 unitVector) unitVector.space (vecBody (cmdBody unitVector)) = none ∧
    (vecBody (cmdBody unitVector)).o.tile = false := by decide +kernel

theorem unseenAccWord_spoils_tiles : sramBad [unseenAccWord] = false ∧
    (sramCount (Tests.runs1 unitVector) (vecBody (cmdBody unitVector)).engine [unseenAccWord]).array.tiles = [(0, 3), (1, 3)] := by
  decide +kernel

/-- Refutes O25: an accumulator word with an even number of wrong bits in each row and column passes its code, so that it is not
uncorrectable; its wrong data stand in the accumulators from then on, which were empty before, though the output is in staging. -/
theorem not_vectorUnitCommands : ¬ Obligations.VectorUnitCommands := by
  rintro ⟨hvector, -⟩
  obtain ⟨hready, hcheck, htile⟩ := unitVector_runs
  obtain ⟨hbad, hspoilt⟩ := unseenAccWord_spoils_tiles
  obtain ⟨t, hexec, -, -, -, -, hkept, -⟩ := hvector _ 1 _ _ hready hcheck hbad
  obtain ⟨u, huexec, -, -, -, -, htiles, -⟩ := exec_vector_computes hready rfl hcheck hbad
  obtain rfl := Host.Outcome.next.inj (hexec.symm.trans huexec)
  have hempty := (htiles htile).symm.trans (hkept htile)
  rw [hspoilt] at hempty
  cases hempty

end Sys2Proof.Machine
end

section
/-! SUPPORT. The layout engines' moves: their accesses charge commands and no more, and each run, its checks passed, is one equation. -/

namespace Sys2Proof.Machine

/-! ### Accesses of several spans (R183, R184, R362) -/

theorem takeSpans_charged (c : Cmd) : ∀ (spans : List (Nat × Nat)) (s : State), CmdsCharged s (takeSpans c spans s).1
  | [], s => .refl s
  | (v, n) :: spans, s => by
    simp only [takeSpans]
    split
    · exact (readTake_charged s c v n).trans (takeSpans_charged c spans _)
    · exact readTake_charged s c v n

theorem writeSpans_charged (c : Cmd) : ∀ (spans : List (Nat × List Byte)) (s : State), CmdsCharged s (writeSpans c spans s).st
  | [], s => .refl s
  | (v, bs) :: spans, s => by
    simp only [writeSpans]
    split
    · exact (writeSpace_charged s c v bs).trans (writeSpans_charged c spans _)
    · exact writeSpace_charged s c v bs

theorem moveRows_charged (c : Cmd) (take : Bool) : ∀ (rows : List (Nat × Nat × Nat)) (s : State), CmdsCharged s (moveRows c take rows s).1
  | [], s => .refl s
  | (src, dst, n) :: rows, s => by
    have hread : CmdsCharged s (if take then readTake s c src n else readSpace s c src n).st := by
      cases take
      · exact readSpace_charged s c src n
      · exact readTake_charged s c src n
    rw [moveRows]
    generalize (if take then readTake s c src n else readSpace s c src n) = r at hread ⊢
    dsimp only
    split
    · have hwrite := hread.trans (writeSpace_charged r.st c dst r.bytes)
      split
      · exact hwrite.trans (moveRows_charged c take rows _)
      · exact hwrite
    · exact hread

/-! ### The ends of moves -/

/-- A move whose accesses all succeeded ends its command OK, with the memory that they left. -/
theorem CmdsCharged.endMove_ok {s : State} {c d : Cmd} {m : State × Status × Nat} (h : CmdsCharged s m.1)
    (hget : Machine.cmdGet s c.id = some d) (hlive : cmdLive d = true) (hok : m.2.1 = .ok) :
    endsWith (endMove c m) c.id .ok ∧ (endMove c m).mem = m.1.mem :=
  ⟨hok ▸ h.cmdEnd_ends (resultRange m.2.1 (if m.2.1 = .ok then 255 else m.2.2)) hget hlive, rfl⟩

/-- After its end a command's run is over, whatever it was before. -/
theorem cmdGet_cmdEnd_finished {s : State} {cid : Nat} {r : Result} {x : Cmd} (h : cmdGet (cmdEnd s cid r) cid = some x) :
    ∃ q, x.phase = .finished q := by
  have hid := cmdGet_id h
  obtain ⟨d, -, rfl⟩ := List.mem_map.1 (List.mem_of_find?_eq_some h)
  by_cases hd : d.id = cid
  · rw [if_pos hd]
    dsimp only
    split
    · next q hphase => exact ⟨q, hphase⟩
    · exact ⟨r, rfl⟩
  · rw [if_neg hd] at hid
    exact absurd hid hd

/-- However a REPACK's run goes, it ends the command. -/
theorem repackGo_ends (s : State) (c : Cmd) (b : RepackBody) (fs fd : FmtWord) : ∃ t r, repackGo s c b fs fd = cmdEnd t c.id r := by
  unfold repackGo
  dsimp only
  repeat' split
  all_goals exact ⟨_, _, rfl⟩

/-! ### The five commands (Table 06-12, R362) -/

variable {s : State} {cid : Nat} {c : Cmd}

theorem exec_transpose_runs (h : cmdServed s cid 0x30 transposeNames = some c) : exec (.transpose cid) s = .next (transposeRun s c) := by
  show execTranspose cid s = _
  rw [execTranspose, h]

theorem exec_gather_runs (h : cmdServed s cid 0x31 (indexNames true) = some c) : exec (.gather cid) s = .next (indexRun s c true) := by
  show execGather cid s = _
  rw [execGather, h]

theorem exec_scatter_runs (h : cmdServed s cid 0x32 (indexNames false) = some c) :
    exec (.scatter cid) s = .next (indexRun s c false) := by
  show execScatter cid s = _
  rw [execScatter, h]

theorem exec_repack_runs (h : cmdServed s cid 0x33 repackNames = some c) : exec (.repack cid) s = .next (repackRun s c) := by
  show execRepack cid s = _
  rw [execRepack, h]

theorem exec_releaseCopy_runs (h : cmdServed s cid 0x34 copyNames = some c) : exec (.releaseCopy cid) s = .next (releaseRun s c) := by
  show execReleaseCopy cid s = _
  rw [execReleaseCopy, h]

theorem afterCheck_none {extra : BitVec 8} {reads writes : List (Nat × Nat)} (go : State → State)
    (h : spansCheck s c extra reads writes = none) : afterCheck s c extra reads writes go = go s := by
  simp only [afterCheck, h]

/-- TRANSPOSE, its checks passed and its reads successful, writes its rows and ends as the writes do. -/
theorem transposeRun_writes {v src dst rows cols sp dp : Nat} {f : Fmt} {reads : List (Nat × Nat)} {w : MemWrite} (hv : cmdBody c = v)
    (hsrc : src = fld v 1 48) (hdst : dst = fld v 49 48) (hrows : rows = fld v 97 20 + 1) (hcols : cols = fld v 117 20 + 1)
    (hsp : sp = 64 * fld v 142 20) (hdp : dp = 64 * fld v 162 20) (hf : fmtOfCode (fld v 137 5) = some f) (hresv : fld v 182 106 = 0)
    (hsrc64 : src % 64 = 0) (hdst64 : dst % 64 = 0)
    (hapart : spansMeet (rowsTotal src sp (rowBytes f cols) rows) (rowsTotal dst dp (rowBytes f rows) cols) = false)
    (hsrow : rowBytes f cols ≤ sp) (hdrow : rowBytes f rows ≤ dp) (hreads : reads = rowSpans src sp (rowBytes f cols) rows)
    (hspans : spansCheck s c 0 reads ((List.range cols).map fun j => (dst + j * dp, if j + 1 = cols then rowBytes f rows else dp)) = none)
    (hok : (takeSpans c reads s).2.1 = .ok)
    (hw : w = writeSpans c (transposeOut f dst dp cols (takeSpans c reads s).2.2.2) (takeSpans c reads s).1) :
    transposeRun s c = endMove c (w.st, w.status, w.range) := by
  subst hv hsrc hdst hrows hcols hsp hdp hreads hw
  simp only [transposeRun, hf, hresv, hsrc64, hdst64, hapart, Nat.not_lt.2 hsrow, Nat.not_lt.2 hdrow, afterCheck_none _ hspans, hok,
    endMove, ne_eq, not_true_eq_false, decide_false, Bool.or_false, Bool.false_eq_true, if_false, if_true]

/-- The rows of a GATHER or SCATTER in list order: source, destination and length of each. -/
def indexRows (b : IndexBody) (gather : Bool) (ids : List Nat) : List (Nat × Nat × Nat) :=
  ((List.range b.count).zip ids).map fun p =>
    if gather then (b.src + p.2 * b.row, b.dst + p.1 * b.row, b.row) else (b.src + p.1 * b.row, b.dst + p.2 * b.row, b.row)

/-- GATHER and SCATTER, their checks passed, the list read and its indices in the table, move their rows. -/
theorem indexRun_moves {b : IndexBody} {g : Bool} {l : MemRead} {ids : List Nat} (hb : indexBody (cmdBody c) = b) (hresv : b.resv = 0)
    (hsrc : b.src % 64 = 0) (hdst : b.dst % 64 = 0) (hidx : b.idx % 64 = 0) (hrow : b.row ≠ 0)
    (hapart : spansMeet (b.src, if g then b.table * b.row else b.count * b.row)
      (b.dst, if g then b.count * b.row else b.table * b.row) = false)
    (hspans : spansCheck s c 0 [(b.src, if g then b.table * b.row else b.count * b.row), (b.idx, 4 * b.count)]
      [(b.dst, if g then b.count * b.row else b.table * b.row)] = none)
    (hl : l = readTake s c b.idx (4 * b.count)) (hok : l.status = .ok) (hids : ids = (List.range b.count).map (indexAt l.bytes))
    (hin : ∀ x ∈ ids, x < b.table) : indexRun s c g = endMove c (moveRows c true (indexRows b g ids) l.st) := by
  have hany : (ids.any fun i => decide (b.table ≤ i)) = false := by
    simpa using hin
  subst hb hl hids
  simp only [indexRun, hresv, hsrc, hdst, hidx, hrow, hapart, afterCheck_none _ hspans, hok, hany, indexRows, ne_eq, not_true_eq_false,
    decide_false, Bool.or_false, Bool.false_eq_true, if_false, if_true]

/-- REPACK, its descriptor in order and its addresses allowed, converts its rows. -/
theorem repackRun_converts {b : RepackBody} {fs fd : FmtWord} (hb : repackBody (cmdBody c) = b) (hfs : b.fs = some fs)
    (hfd : b.fd = some fd) (hresv : b.resv = 0) (hsok : fwOk fs false = true) (hdok : fwOk fd true = true) (hsrc : b.src % 64 = 0)
    (hdst : b.dst % 64 = 0) (hsaux : b.srcAux % 2 = 0) (hdaux : b.dstAux % 2 = 0)
    (hapart : spansMeet (b.src, b.rows * rowBytes fs.fmt b.cols) (b.dst, b.rows * rowBytes fd.fmt b.cols) = false)
    (hspans : spansCheck s c 0 ((b.src, b.rows * rowBytes fs.fmt b.cols) ::
      (auxList fs b.srcAux b.rows b.cols ++ auxList fd b.dstAux b.rows b.cols)) [(b.dst, b.rows * rowBytes fd.fmt b.cols)] = none) :
    repackRun s c = repackGo s c b fs fd := by
  subst hb
  simp only [repackRun, hfs, hfd, hresv, hsok, hdok, hsrc, hdst, hsaux, hdaux, hapart, afterCheck_none _ hspans, ne_eq, not_true_eq_false,
    decide_false, Bool.not_true, Bool.or_false, Bool.false_eq_true, if_false]

/-- RELEASE_COPY, its descriptor in order and its addresses valid, does as its clause check says. -/
theorem releaseRun_eq {v : Nat} (hv : cmdBody c = v) (hresv : fld v 141 147 = 0) (hsrc : fld v 1 48 % 64 = 0) (hdst : fld v 49 48 % 64 = 0)
    (hapart : spansMeet (fld v 1 48, 64 * (fld v 97 36 + 1)) (fld v 49 48, 64 * (fld v 97 36 + 1)) = false)
    (hreads : addrCheck s c (fld v 1 48) (64 * (fld v 97 36 + 1)) = none)
    (hwrites : addrCheck s c (fld v 49 48) (64 * (fld v 97 36 + 1)) = none) :
    releaseRun s c = (releaseCheck s c (fld v 1 48) (fld v 49 48) (64 * (fld v 97 36 + 1)) (fld v 133 8)).elim
      (endMove c (moveRows c false (copyLines (fld v 1 48) (fld v 49 48) (fld v 97 36 + 1)) s)) (cmdEnd s c.id) := by
  subst hv
  simp only [releaseRun, hresv, hsrc, hdst, hapart, hreads, hwrites, List.findSome?_cons, List.findSome?_nil, ne_eq, not_true_eq_false,
    decide_false, Bool.or_false, Bool.false_eq_true, if_false]
  cases releaseCheck s c (fld (cmdBody c) 1 48) (fld (cmdBody c) 49 48) (64 * (fld (cmdBody c) 97 36 + 1)) (fld (cmdBody c) 133 8) <;> rfl

/-- No clause of a number refuses with FLOW_DENIED. -/
theorem releaseCheck_noClause {id : Nat} (src dst n : Nat) (h : ∀ x ∈ s.rig.active.clauses, x.id ≠ id) :
    releaseCheck s c src dst n id = some (resultOf .flowDenied) := by
  have hnone : (s.rig.active.clauses.find? fun x => x.id == id) = none := List.find?_eq_none.2 fun x hx => by simpa using h x hx
  simp only [releaseCheck, hnone]

end Sys2Proof.Machine
end

section
/-! CLAIMS. The layout engines' moves. -/

namespace Sys2Proof.Machine

/-- Settles O27: each run, its checks passed, is one equation, and its accesses leave the command live to its end (`CmdsCharged`). -/
theorem layoutMoves : Obligations.LayoutMoves := by
  refine ⟨?transpose, ?index, ?repack, ?release, ?noClause⟩
  case transpose =>
    intro s cid c v src dst rows cols sp dp f reads w hserved hv hsrc hdst hrows hcols hsp hdp hf hresv hsrc64 hdst64 hapart hsrow hdrow
      hreads hspans hread hw hok
    obtain ⟨rfl, hget, hlive⟩ := cmdServed_some hserved
    have hexec := exec_transpose_runs hserved
    rw [transposeRun_writes hv hsrc hdst hrows hcols hsp hdp hf hresv hsrc64 hdst64 hapart hsrow hdrow hreads hspans hread hw] at hexec
    have hcharged : CmdsCharged s w.st := hw ▸ (takeSpans_charged c reads s).trans (writeSpans_charged c _ _)
    exact ⟨_, hexec, hcharged.endMove_ok hget hlive hok⟩
  case index =>
    intro s cid c b l g i ids m hi hb hresv hsrc hdst hidx hrow hapart hspans hl hread hids hin hm
    have hmoves := indexRun_moves hb hresv hsrc hdst hidx hrow hapart hspans hl hread hids hin
    rw [show moveRows c true (indexRows b g ids) l.st = m from hm.symm] at hmoves
    obtain ⟨⟨rfl, hget, hlive⟩, hexec⟩ : (c.id = cid ∧ cmdGet s cid = some c ∧ cmdLive c = true) ∧
        exec i s = .next (indexRun s c g) := by
      rcases hi with ⟨rfl, rfl, hserved⟩ | ⟨rfl, rfl, hserved⟩
      · exact ⟨cmdServed_some hserved, exec_gather_runs hserved⟩
      · exact ⟨cmdServed_some hserved, exec_scatter_runs hserved⟩
    have hcharged : CmdsCharged s m.1 := by
      rw [hm, hl]
      exact (readTake_charged s c _ _).trans (moveRows_charged c true _ _)
    exact ⟨_, hmoves ▸ hexec, rfl, hcharged.endMove_ok hget hlive⟩
  case repack =>
    intro s cid c b fs fd hserved hb hfs hfd hresv hsok hdok hsrc hdst hsaux hdaux hapart hspans
    obtain ⟨rfl, -, -⟩ := cmdServed_some hserved
    have hexec := exec_repack_runs hserved
    rw [repackRun_converts hb hfs hfd hresv hsok hdok hsrc hdst hsaux hdaux hapart hspans] at hexec
    refine ⟨_, hexec, rfl, fun x hx => ?_⟩
    obtain ⟨t, r, hends⟩ := repackGo_ends s c b fs fd
    exact cmdGet_cmdEnd_finished (hends ▸ hx)
  case release =>
    intro s cid c v hserved hv hresv hsrc hdst hapart hreads hwrites hallowed hok
    obtain ⟨rfl, hget, hlive⟩ := cmdServed_some hserved
    have hexec := exec_releaseCopy_runs hserved
    rw [releaseRun_eq hv hresv hsrc hdst hapart hreads hwrites, hallowed] at hexec
    exact ⟨_, hexec, (moveRows_charged c false _ s).endMove_ok hget hlive hok⟩
  case noClause =>
    intro s cid c v hserved hv hresv hsrc hdst hapart hreads hwrites hnone
    obtain ⟨rfl, -, -⟩ := cmdServed_some hserved
    rw [exec_releaseCopy_runs hserved, releaseRun_eq hv hresv hsrc hdst hapart hreads hwrites, releaseCheck_noClause _ _ _ hnone,
      Option.elim_some]

end Sys2Proof.Machine
end

section
/-! SUPPORT. What a read of main memory changes: what the memory keeps beside its bytes, the counts of the controllers, the error log and
the free values used. The rig, the array and the rest of the state stay. -/

namespace Sys2Proof.Machine

/-- A state after reads of main memory. -/
def ReadWork (s t : State) : Prop := ∃ mem ciph err freeCtr, t = { s with mem := mem, ciph := ciph, err := err, freeCtr := freeCtr }

namespace ReadWork

theorem refl (s : State) : ReadWork s s := ⟨_, _, _, _, rfl⟩

theorem trans {s t u : State} (h : ReadWork s t) (k : ReadWork t u) : ReadWork s u := by
  obtain ⟨_, _, _, _, rfl⟩ := h
  obtain ⟨_, _, _, _, rfl⟩ := k
  exact ⟨_, _, _, _, rfl⟩

theorem rig {s t : State} (h : ReadWork s t) : t.rig = s.rig := by
  obtain ⟨_, _, _, _, rfl⟩ := h
  rfl

end ReadWork

/-! ### Metadata (R317, R318) -/

theorem cacheRoom_work (s : State) (n stack frame : Nat) : ReadWork s (cacheRoom s n stack frame) := by
  unfold cacheRoom
  dsimp only
  repeat' split
  all_goals exact ⟨_, _, _, _, rfl⟩

theorem cacheAdd_work (s : State) (frame : Nat) (x : CacheLine) : ReadWork s (cacheAdd s frame x) :=
  (cacheRoom_work s x.range x.stack frame).trans ⟨_, _, _, _, rfl⟩

theorem fetchNode_work (quiet : Bool) (s : State) (n stack frame : Nat) (mac : Bool) (level index : Nat) :
    ReadWork s (fetchNode quiet s n stack frame mac level index).1 := by
  unfold fetchNode
  dsimp only
  split
  · exact ⟨_, _, _, _, rfl⟩
  · exact ReadWork.trans ⟨_, _, _, _, rfl⟩ (cacheAdd_work _ _ _)

theorem ensureNode_work (quiet : Bool) (n stack i : Nat) : ∀ (k level : Nat) (s : State),
    ReadWork s (ensureNode quiet n stack i k level s).1
  | 0, _, s => .refl s
  | k + 1, level, s => by
    have habove := ensureNode_work quiet n stack i k (level + 1) s
    simp only [ensureNode]
    split
    · exact ⟨_, _, _, _, rfl⟩
    · split
      · exact habove.trans (fetchNode_work _ _ _ _ _ _ _ _)
      · exact habove

theorem fetchPath_work (quiet : Bool) (s : State) (n a : Nat) : ReadWork s (fetchPath quiet s n a).1 := by
  have hnodes := ensureNode_work quiet n (stackOf a) (frameIndex (rangeCfg s n) a) (levelsOf (rangeCfg s n)).length 0 s
  unfold fetchPath
  dsimp only
  split
  · exact .refl s
  · split
    · split
      · exact hnodes.trans ⟨_, _, _, _, rfl⟩
      · split <;> exact hnodes.trans (fetchNode_work _ _ _ _ _ _ _ _)
    · exact hnodes

/-! ### Units and runs (R293, R294, R299) -/

theorem readUnit_work (quiet : Bool) (s : State) (n a : Nat) : ReadWork s (readUnit quiet s n a).st := by
  have hpath : ∀ m, ReadWork s (fetchPath quiet { s with mem := m } n a).1 := fun m =>
    ReadWork.trans ⟨_, _, _, _, rfl⟩ (fetchPath_work quiet _ n a)
  unfold readUnit
  dsimp only
  repeat' split
  any_goals exact hpath _
  all_goals exact ⟨_, _, _, _, rfl⟩

theorem failRange_work (s : State) (w : Who) (n a : Nat) (st : Status) (level : Nat) : ReadWork s (failRange s w n a st level) := by
  unfold failRange
  dsimp only
  split <;> exact ⟨_, _, _, _, rfl⟩

theorem readInUnit_work (s : State) (w : Who) (n a size : Nat) : ReadWork s (readInUnit s w n a size).st := by
  have hunit := readUnit_work false s n (a / unitBytes (rangeCfg s n) * unitBytes (rangeCfg s n))
  unfold readInUnit
  dsimp only
  split
  · split
    · dsimp only
      exact ReadWork.trans ⟨_, _, _, _, rfl⟩ (failRange_work _ _ _ _ _ _)
    · exact ⟨_, _, _, _, rfl⟩
  · split
    · split
      · exact hunit
      · exact hunit.trans ⟨_, _, _, _, rfl⟩
    · exact hunit.trans (failRange_work _ _ _ _ _ _)

theorem readPhysF_work (w : Who) : ∀ (fuel a size : Nat) (s : State), ReadWork s (readPhysF w fuel a size s).st
  | 0, _, _, s => .refl s
  | fuel + 1, a, size, s => by
    simp only [readPhysF]
    split
    · exact .refl s
    · split
      · next n _ _ =>
        have hread := readInUnit_work s w n a (min size (unitBytes (rangeCfg s n) - a % unitBytes (rangeCfg s n)))
        split
        · exact hread.trans (readPhysF_work w fuel _ _ _)
        · exact hread
      · exact .refl s
      · exact .refl s

theorem readRuns_work (w : Who) : ∀ (runs : List (Nat × Nat)) (s : State), ReadWork s (readRuns w runs s).st
  | [], s => .refl s
  | (a, n) :: runs, s => by
    have hread : ReadWork s (readPhys s w a n).st := readPhysF_work w _ a n s
    simp only [readRuns]
    split
    · exact hread.trans (readRuns_work w runs _)
    · exact hread

theorem readSpace_rig (s : State) (c : Cmd) (v n : Nat) : (readSpace s c v n).st.rig = s.rig := (readRuns_work _ _ s).rig

end Sys2Proof.Machine
end

section
/-! SUPPORT. UPDATE and NORM_ACC: norm cells and their bytes, what the accesses of an UPDATE leave of the commands, and each run, its checks
passed, as one equation. -/

namespace Sys2Proof.Machine

/-! ### Norm cells (Table 07-7) -/

theorem byteField_append {pre : List Byte} {lo : Nat} (n : Nat) (rest : List Byte) (h : pre.length ≤ lo) :
    byteField (pre ++ rest) lo n = byteField rest (lo - pre.length) n := by
  rw [byteField, List.drop_append, List.drop_eq_nil_of_le h, List.nil_append, byteField]

theorem byteField_natLe_append (n v : Nat) (rest : List Byte) : byteField (natLe n v ++ rest) 0 n = v % 256 ^ n := by
  rw [byteField, List.drop_zero, List.take_left' (natLe_length n v), Tests.leNat_natLe]

theorem byteField_natLe (n v : Nat) : byteField (natLe n v) 0 n = v % 256 ^ n := by
  simpa using byteField_natLe_append n v []

/-- The flag bytes of a cell are read back as its flags. -/
theorem normFlags_read : ∀ global nonfinite saturated : Bool, (b2n global % 256 ^ 1 == 1) = global ∧
    ((b2n nonfinite + 2 * b2n saturated) % 256 ^ 1).testBit 0 = nonfinite ∧
    ((b2n nonfinite + 2 * b2n saturated) % 256 ^ 1).testBit 1 = saturated := by decide

/-- A cell whose step and value fit their fields is read back as it was written. -/
theorem normCell_normCellBytes {n : NormCell} (hok : n.ok = true) (hstep : n.step < 2 ^ 32) (hvalue : n.value < 2 ^ 256) :
    normCell (normCellBytes n) = n := by
  obtain ⟨ok, global, nonfinite, saturated, step, value⟩ := n
  obtain rfl : ok = true := hok
  obtain ⟨hglobal, hnonfinite, hsaturated⟩ := normFlags_read global nonfinite saturated
  have hmagic : (cellMagic % 256 ^ 4 == cellMagic) = true := by decide
  have hs : step % 256 ^ 4 = step := Nat.mod_eq_of_lt hstep
  have hv : value % 256 ^ 32 = value := Nat.mod_eq_of_lt (Nat.lt_of_lt_of_eq hvalue (by decide))
  simp only [normCell, normCellBytes, List.append_assoc, byteField_append, byteField_natLe_append, byteField_natLe, natLe_length,
    List.length_replicate, List.length_cons, List.length_nil, Nat.reduceAdd, Nat.reduceSub, Nat.reduceLeDiff, Nat.le_refl, hmagic, hglobal,
    hnonfinite, hsaturated, hs, hv]

/-! ### The accesses of an UPDATE -/

theorem EngineWork.charged {s t : State} (h : EngineWork s t) : CmdsCharged s t := by
  obtain ⟨_, _, _, _, rfl⟩ := h
  exact .of_eq rfl

theorem EngineWork.rig {s t : State} (h : EngineWork s t) : t.rig = s.rig := by
  obtain ⟨_, _, _, _, rfl⟩ := h
  rfl

/-- A read for a check charges its command and leaves the bytes of main memory and the rig. -/
theorem checkRead_kept (s : State) (c : Cmd) (v n : Nat) : CmdsCharged s (checkRead s c v n).st ∧
    (checkRead s c v n).st.mem.cells = s.mem.cells ∧ (checkRead s c v n).st.rig = s.rig := by
  unfold checkRead
  split
  · exact ⟨.refl s, rfl, rfl⟩
  · exact ⟨readSpace_charged s c v n, readSpace_cells s c v n, readSpace_rig s c v n⟩

theorem spoilRuns_ports : ∀ (runs : List (Nat × Nat)) (s : State), PortsKept s (spoilRuns s runs)
  | [], s => .refl s
  | r :: runs, s => by
    refine PortsKept.trans ?_ (spoilRuns_ports runs _)
    dsimp only
    split
    · exact (markMirror_ports _ _ _ _).of_eq rfl rfl
    · exact ⟨rfl, rfl⟩

theorem granUpdate_charged (s : State) (c : Cmd) (b : UpdBody) (d : ParamDesc) (k : UpdConst) (pos j : Nat) (r : UpdRun) :
    CmdsCharged s (granUpdate s c b d k pos j r).1 := by
  have hword := readTake_charged s c (d.steps + 4 * j) 4
  unfold granUpdate
  dsimp only
  split
  · exact .refl s
  · split
    · exact hword
    · split
      · exact hword
      · have hread := hword.trans (takeSpans_charged c ((d.w + 64 * j * weightBytes d, granuleLen d j * weightBytes d) ::
          (stateSpans d j ++ [granGrad b d j pos])) _)
        split
        · exact hread
        · split
          · exact hread.trans (writeSpans_charged c _ _)
          · exact (hread.trans (writeSpans_charged c _ _)).trans (spoilRuns_ports _ _).charged

theorem granRun_charged (c : Cmd) (b : UpdBody) (d : ParamDesc) (k : UpdConst) : ∀ (js : List Nat) (pos : Nat) (r : UpdRun) (s : State),
    CmdsCharged s (granRun c b d k pos js r s).1
  | [], _, _, s => .refl s
  | j :: js, pos, r, s => by
    have hgran := granUpdate_charged s c b d k pos j r
    simp only [granRun]
    split
    · exact hgran.trans (granRun_charged c b d k js _ _ _)
    · exact hgran

/-- A command that was live before its accesses ends well with the result of a tally. -/
theorem CmdsCharged.cmdEnd_endsOk {s t : State} (h : CmdsCharged s t) {cid : Nat} {c : Cmd} (y : Tally) (strict : Bool) (engine : Nat)
    (hget : Machine.cmdGet s cid = some c) (hlive : cmdLive c = true) : endsOk (cmdEnd t cid (tallyResult y strict engine)) cid := by
  obtain ⟨x, r, hx, hr, hstatus⟩ := h.cmdEnd_ends (tallyResult y strict engine) hget hlive
  exact ⟨x, r, hx, hr, hstatus ▸ tallyStatus_good y strict⟩

/-! ### UPDATE (R193, R195, R208, Table 07-5) -/

section Update

variable {s : State} {cid : Nat} {c : Cmd} {b : UpdBody} {d : ParamDesc} {js : List Nat} {e : SramErr} {cut : Option Status}

theorem exec_update_runs (e : SramErr) (h : cmdServed s cid 0x40 updNames = some c) :
    exec (.update cid e) s = .next (updRun s c e none) := by
  show execUpdate cid e s = _
  rw [execUpdate, h]

theorem updRun_reserved (h : (updBody (cmdBody c)).resv ≠ 0) : updRun s c e cut = cmdEnd s c.id (resultOf .badDescriptor) := by
  unfold updRun
  exact if_pos (by simp [h])

/-- A dense UPDATE whose body and descriptor are in order goes on to its norm cell. -/
theorem updRun_dense {p : MemRead} (hb : updBody (cmdBody c) = b) (hresv : b.resv = 0) (hmode : b.normMode ≠ 3)
    (hlr : finNonneg b.lr = true) (hp : p = checkRead s c b.pd 128) (hread : p.status = .ok) (hd : d = paramDesc p.bytes)
    (hstatic : updStatic p.st c.space b d = true) (hdense : b.sparse = false) :
    updRun s c e cut = updNorm p.st c b d (List.range (granules d)) e cut := by
  subst hb hp hd
  simp only [updRun, hresv, hmode, hlr, hread, hstatic, hdense, ne_eq, not_true_eq_false, decide_false, Bool.not_true, Bool.or_self,
    Bool.false_eq_true, if_false]

theorem updNorm_none (h : b.normMode = 0) : updNorm s c b d js e cut = updRest s c b d js none e cut := if_pos h

theorem updNorm_cell {q : MemRead} (h : b.normMode ≠ 0) (hq : q = checkRead s c b.norm 64) (hread : q.status = .ok) :
    updNorm s c b d js e cut = updRest q.st c b d js (some (normCell q.bytes)) e cut := by
  subst hq
  exact (if_neg h).trans (if_pos hread)

/-- The rest of the check passed, with no norm cell or with one that is in order: the granules run. -/
theorem updRest_passes {cell : Option NormCell} (hcell : ∀ n ∈ cell, n.ok = true ∧ n.step = b.step ∧ n.global = true)
    (hshape : updShape b d js = none) (hspans : spansCheck s c 0 (updSpans b d).1 (updSpans b d).2 = none) :
    updRest s c b d js cell e cut = updGo s c b d js cell e cut := by
  cases cell with
  | none => simp only [updRest, hshape, hspans, Bool.false_eq_true, if_false]
  | some n =>
    obtain ⟨hok, hstep, hglobal⟩ := hcell n rfl
    simp only [updRest, hok, hstep, hglobal, hshape, hspans, bne_self_eq_false, Bool.not_true, Bool.or_self, Bool.false_eq_true, if_false]

/-- The state in which an UPDATE starts on its granules: it has met its SRAM words, holds the owner sets of what its check read, and its
scratch area is unspecified (R195). -/
def updOpen (s : State) (c : Cmd) (b : UpdBody) (e : SramErr) : State :=
  stgSpoil (addMask (sramCount s b.engine e) c.ctx
    (spanOwners s c.space ((b.pd, 128) :: (if b.sparse then [(b.list, 4 * b.listCount)] else []) ++
      (if b.normMode = 0 then [] else [(b.norm, 64)])))) (bandAt s b.engine b.band) b.scratch 0 scratchBytes 1

theorem updOpen_work (s : State) (c : Cmd) (b : UpdBody) (e : SramErr) : EngineWork s (updOpen s c b e) :=
  ((sramCount_work _ _ _).trans ⟨_, _, _, _, rfl⟩).trans (stgSpoil_work _ _ _ _ _ _)

/-- A norm that is nonfinite or saturated ends the command before its first granule (R208). -/
theorem updGo_badNorm {n : NormCell} (h : n.nonfinite = true ∨ n.saturated = true) : updGo s c b d js (some n) e cut =
    updNonfinite (holdWrite (updOpen s c b e) c (bandAt s b.engine b.band) true false) c b :=
  if_pos (by simpa using h)

/-- Without a norm, an uncorrectable SRAM word or an abort, and with every granule's accesses successful, the command comes to its end. -/
theorem updGo_granules (he : sramBad e = false) {r : State × Status × Nat × UpdRun}
    (hr : r = granRun c b d (updConst b d numOne) 0 js {} (updOpen s c b e)) (hok : r.2.1 = .ok) : updGo s c b d js none e none =
    updFinish (holdWrite r.1 c (bandAt s b.engine b.band) true false) c b r.2.2.2 := by
  subst hr
  unfold updGo
  simp only [he, Bool.false_eq_true, if_false]
  exact if_pos hok

theorem updFinish_written {r : UpdRun} {z : MemWrite}
    (hz : z = writeSpans c [(b.pd + 12, natLe 4 b.step), (b.pd + 104, updSummary r)] s) (hok : z.status = .ok) :
    updFinish s c b r = cmdEnd z.st c.id (tallyResult { r.t with floor := satAdd 32 0 r.floored } true b.engine) := by
  subst hz
  exact if_pos hok

end Update

/-! ### NORM_ACC (R205, Table 07-8) -/

section Norm

variable {s : State} {cid : Nat} {c : Cmd}

theorem exec_normAcc_runs (h : cmdServed s cid 0x41 normAccNames = some c) : exec (.normAcc cid) s = .next (normAccRun s c) := by
  show execNormAcc cid s = _
  rw [execNormAcc, h]

theorem normAccRun_reserved (h : (normBody (cmdBody c)).resv ≠ 0) : normAccRun s c = cmdEnd s c.id (resultOf .badDescriptor) := by
  unfold normAccRun
  exact if_pos (by simp [h])

theorem normBody_step_lt (v : Nat) : (normBody v).step < 2 ^ 32 := Nat.mod_lt _ (Nat.two_pow_pos 32)

/-- NORM_ACC that starts a cell, its checks and its first two accesses passed, ends as its last write does. -/
theorem normAccRun_starts {b : NormBody} {n : NormCell} {i w : MemWrite} {r : MemRead} (hb : normBody (cmdBody c) = b) (hresv : b.resv = 0)
    (halign : b.src % 4 = 0) (hinit : b.init = true)
    (hspans : spansCheck s c 0 [(b.src, b.count * (if b.bf16 then 2 else 4))] [(b.cell, 64)] = none)
    (hn : n = ⟨true, false, false, false, b.step, 0⟩) (hi : i = writeSpace s c b.cell (normCellBytes n)) (hiok : i.status = .ok)
    (hr : r = readTake i.st c b.src (b.count * (if b.bf16 then 2 else 4))) (hrok : r.status = .ok)
    (hw : w = writeSpace r.st c b.cell (normCellBytes ((elemList b.bf16 r.bytes).foldl normElem n))) :
    normAccRun s c = endRange w.st c w.status w.range := by
  have hcell : normCell (normCellBytes n) = n :=
    normCell_normCellBytes (hn ▸ rfl) (by rw [hn, ← hb]; exact normBody_step_lt _) (by rw [hn]; exact Nat.two_pow_pos 256)
  have hfresh : n.ok = true ∧ n.step = b.step ∧ n.global = false := by rw [hn]; exact ⟨rfl, rfl, rfl⟩
  obtain ⟨hok, hstep, hglobal⟩ := hfresh
  subst hb hi hr hw
  simp only [normAccRun, hresv, halign, hinit, afterCheck_none _ hspans, ← hn, hcell, hok, hstep, hglobal, hiok, hrok, ne_eq,
    not_true_eq_false, decide_false, Bool.not_true, Bool.or_self, Bool.false_eq_true, if_false, if_true]

end Norm

end Sys2Proof.Machine
end

section
/-! CLAIMS. UPDATE and NORM_ACC. -/

namespace Sys2Proof.Machine

/-- Settles O29: each run, its checks passed, is one equation, and its accesses leave the command live to its end (`CmdsCharged`).
A bad norm's run only reads main memory, so its bytes and the rig that gives the status stay (`checkRead_kept`). -/
theorem updateAndNorm : Obligations.UpdateAndNorm := by
  refine ⟨?dense, ?badNorm, ?updReserved, ?starts, ?normReserved⟩
  case dense =>
    intro s cid e c b p d s2 r z hserved hb hresv hmode hlr hp hread hd hstatic hdense hshape hspans he hs2 hr hgran hz hok
    obtain ⟨rfl, hget, hlive⟩ := cmdServed_some hserved
    have hopen : updOpen p.st c b e = s2 := by
      simp only [updOpen, hdense, hmode, hs2, Bool.false_eq_true, if_false, if_true, List.append_nil]
    have hexec := exec_update_runs e hserved
    rw [updRun_dense hb hresv (by omega) hlr hp hread hd hstatic hdense, updNorm_none hmode,
      updRest_passes (cell := none) nofun hshape hspans, updGo_granules he (hopen ▸ hr) hgran, updFinish_written hz hok] at hexec
    have hcharged : CmdsCharged s z.st := by
      rw [hz, hr, ← hopen, hp]
      exact (((checkRead_kept _ _ _ _).1.trans (updOpen_work _ _ _ _).charged).trans (granRun_charged _ _ _ _ _ _ _ _)).trans
        ((holdWrite_work _ _ _ _ _).charged.trans (writeSpans_charged _ _ _))
    exact ⟨_, hexec, hcharged.cmdEnd_endsOk _ _ _ hget hlive, rfl⟩
  case badNorm =>
    intro s cid e c b p q d n hserved hb hresv hmode hlr hp hread hd hstatic hdense hq hqread hn hok hstep hglobal hbad hshape hspans
    obtain ⟨rfl, hget, hlive⟩ := cmdServed_some hserved
    have hexec := exec_update_runs e hserved
    have hcell : ∀ x ∈ some n, x.ok = true ∧ x.step = b.step ∧ x.global = true := by
      rintro _ ⟨⟩
      exact ⟨hok, hstep, hglobal⟩
    rw [updRun_dense hb hresv (by omega) hlr hp hread hd hstatic hdense, updNorm_cell (by omega) hq hqread, ← hn,
      updRest_passes hcell hshape hspans, updGo_badNorm hbad] at hexec
    have hwork := (updOpen_work q.st c b e).trans (holdWrite_work _ c (bandAt q.st b.engine b.band) true false)
    obtain ⟨hpcharged, hpcells, hprig⟩ := checkRead_kept s c b.pd 128
    obtain ⟨hqcharged, hqcells, hqrig⟩ := checkRead_kept p.st c b.norm 64
    rw [← hp] at hpcharged hpcells hprig
    rw [← hq] at hqcharged hqcells hqrig
    refine ⟨_, hexec, (congrArg Mem.cells hwork.mem).trans (hqcells.trans hpcells), ?_⟩
    rw [← hprig, ← hqrig, ← hwork.rig]
    exact ((hpcharged.trans hqcharged).trans hwork.charged).cmdEnd_ends _ hget hlive
  case updReserved =>
    intro s cid e c hserved hresv
    obtain ⟨rfl, -, -⟩ := cmdServed_some hserved
    rw [exec_update_runs e hserved, updRun_reserved hresv]
  case starts =>
    intro s cid c b n i w r hserved hb hresv halign hinit hspans hn hi hiok hr hrok hw hok
    obtain ⟨rfl, hget, hlive⟩ := cmdServed_some hserved
    have hexec := exec_normAcc_runs hserved
    rw [normAccRun_starts hb hresv halign hinit hspans hn hi hiok hr hrok hw, hok] at hexec
    have hcharged : CmdsCharged s w.st := by
      rw [hw, hr, hi]
      exact ((writeSpace_charged _ _ _ _).trans (readTake_charged _ _ _ _)).trans (writeSpace_charged _ _ _ _)
    exact ⟨_, hexec, hcharged.cmdEnd_ends _ hget hlive, rfl⟩
  case normReserved =>
    intro s cid c hserved hresv
    obtain ⟨rfl, -, -⟩ := cmdServed_some hserved
    rw [exec_normAcc_runs hserved, normAccRun_reserved hresv]

end Sys2Proof.Machine
end

section
/-! SUPPORT. A fabric link read back after a change of it or of another, and what an operation of the link layer leaves of the state: it
changes links, the trackers' marks and the free values used, so that nothing is left to settle. -/

namespace Sys2Proof.Machine

/-! ### A link read back -/

theorem modAt_getD {α : Type} {l : List α} {i : Nat} (f : α → α) (d : α) (h : i < l.length) :
    (modAt l i f).getD i d = f (l.getD i d) := by
  rw [List.getD_eq_getElem?_getD, List.getD_eq_getElem?_getD, modAt_getElem?, if_pos rfl, List.getElem?_eq_getElem h]
  rfl

theorem modAt_getD_other {α : Type} (l : List α) {i j : Nat} (f : α → α) (d : α) (h : j ≠ i) : (modAt l i f).getD j d = l.getD j d := by
  rw [List.getD_eq_getElem?_getD, List.getD_eq_getElem?_getD, modAt_getElem?, if_neg h.symm]

theorem linkOf_linkMod (s : State) {n : Nat} (f : Link → Link) (h : n < s.fabric.links.length) :
    linkOf (linkMod s n f) n = f (linkOf s n) := modAt_getD f {} h

theorem linkOf_linkMod_other (s : State) {m n : Nat} (f : Link → Link) (h : m ≠ n) : linkOf (linkMod s n f) m = linkOf s m :=
  modAt_getD_other _ f {} h

theorem linkMod_id (s : State) (n : Nat) : linkMod s n id = s := by simp [linkMod, modAt]

/-- Two changes of a link are one. -/
theorem linkMod_linkMod (s : State) (n : Nat) (f g : Link → Link) : linkMod (linkMod s n f) n g = linkMod s n fun l => g (f l) := by
  simp only [linkMod, modAt, List.modify_modify_eq]
  rfl

/-- What a change makes of a link depends on that link alone. -/
theorem linkMod_congr (s : State) {n : Nat} {f g : Link → Link} (h : f (linkOf s n) = g (linkOf s n)) : linkMod s n f = linkMod s n g := by
  have hlinks : modAt s.fabric.links n f = modAt s.fabric.links n g := by
    refine List.ext_getElem? fun i => ?_
    rw [modAt_getElem?, modAt_getElem?]
    split
    · next hi =>
      subst hi
      cases hl : s.fabric.links[n]? with
      | none => rfl
      | some l => simpa [linkOf, List.getD_eq_getElem?_getD, hl] using h
    · rfl
  rw [linkMod, linkMod, hlinks]

@[simp] theorem linkMod_links_length (s : State) (n : Nat) (f : Link → Link) :
    (linkMod s n f).fabric.links.length = s.fabric.links.length := by simp [linkMod]

/-- A link that the machine does not have reads as one that is down. -/
theorem linkOf_state_lt {s : State} {n : Nat} (h : (linkOf s n).state ≠ 0) : n < s.fabric.links.length := by
  refine Nat.lt_of_not_le fun hn => h ?_
  rw [linkOf, List.getD_eq_getElem?_getD, List.getElem?_eq_none hn]
  rfl

theorem linkUp_iff (s : State) (n : Nat) : linkUp s n = true ↔ n < 48 ∧ (linkOf s n).state = 2 ∧ clockStopped s (72 + n) = false := by
  simp [linkUp, and_assoc]

theorem linkUp_lt {s : State} {n : Nat} (h : linkUp s n = true) : n < s.fabric.links.length :=
  linkOf_state_lt (by rw [((linkUp_iff s n).1 h).2.1]; decide)

/-! ### A requester read back -/

theorem reqOf_reqMod {l : Link} {r : Nat} (f : Requester → Requester) (h : r < l.reqs.length) : reqOf (reqMod l r f) r = f (reqOf l r) :=
  modAt_getD f {} h

theorem reqOf_reqMod_other {l : Link} {q r : Nat} (f : Requester → Requester) (h : q ≠ r) : reqOf (reqMod l r f) q = reqOf l q :=
  modAt_getD_other _ f {} h

/-! ### What the link layer touches -/

/-- A state after work of the link layer: links, the acknowledged marks of trackers, the count of packets that resets dropped, and the free
values used. -/
def LinkWork (s t : State) : Prop :=
  ∃ links trackers resetDrop freeCtr, t = { s with
    fabric := { s.fabric with links := links, trackers := trackers, resetDrop := resetDrop }, freeCtr := freeCtr }

namespace LinkWork

theorem refl (s : State) : LinkWork s s := ⟨_, _, _, _, rfl⟩

theorem trans {s t u : State} (h : LinkWork s t) (k : LinkWork t u) : LinkWork s u := by
  obtain ⟨_, _, _, _, rfl⟩ := h
  obtain ⟨_, _, _, _, rfl⟩ := k
  exact ⟨_, _, _, _, rfl⟩

theorem linkMod (s : State) (n : Nat) (f : Link → Link) : LinkWork s (linkMod s n f) := ⟨_, _, _, _, rfl⟩

variable {s t : State} (h : LinkWork s t)
include h

theorem mem : t.mem = s.mem := by obtain ⟨_, _, _, _, rfl⟩ := h; rfl

theorem keys : t.keys = s.keys := by obtain ⟨_, _, _, _, rfl⟩ := h; rfl

theorem sp : t.sp = s.sp := by obtain ⟨_, _, _, _, rfl⟩ := h; rfl

theorem rig : t.rig = s.rig := by obtain ⟨_, _, _, _, rfl⟩ := h; rfl

theorem gaf : t.gaf = s.gaf := by obtain ⟨_, _, _, _, rfl⟩ := h; rfl

theorem err : t.err = s.err := by obtain ⟨_, _, _, _, rfl⟩ := h; rfl

/-- What is settled stays so. -/
theorem settleKept : SettleKept s t := by obtain ⟨_, _, _, _, rfl⟩ := h; exact ⟨rfl, rfl, rfl, rfl⟩

theorem settle (hs : settled s) : settle t = t := h.settleKept.settle hs

end LinkWork

end Sys2Proof.Machine
end

section
/-! SUPPORT. Training (R212 to R215): the mode, and what a training makes of its link. -/

namespace Sys2Proof.Machine

/-- Every bound on the mode is one: the rig's, the peer's, the test's, and 1 for an NT-420. -/
theorem le_trainMode_iff {cap m : Nat} {p : PeerInfo} (hm : m ≠ 0) :
    m ≤ trainMode cap p ↔ p.laneFault = 0 ∧ m ≤ cap ∧ m ≤ p.maxMode ∧ m ≤ p.okMode ∧ (p.nt420 = true → m ≤ 1) := by
  unfold trainMode
  by_cases hfault : p.laneFault = 0
  · rw [if_neg (fun hne => hne hfault)]
    cases p.nt420 with
    | true =>
      simp only [hfault, true_and, if_true, forall_const]
      omega
    | false =>
      simp only [hfault, true_and, Bool.false_eq_true, if_false, false_implies, and_true]
      omega
  · rw [if_pos hfault]
    exact ⟨fun h => absurd (Nat.le_zero.1 h) hm, fun h => absurd h.1 hfault⟩

variable {s : State} {n : Nat} {p : PeerInfo}

/-- LINK_TRAIN and LINK_CAPABILITY_RETRY are one training. -/
theorem exec_training {i : Instr} (hi : i = .linkTrain n p ∨ i = .linkCapabilityRetry n p) :
    exec i s = .next (if clockStopped s (72 + n) then s else linkTrain s n p) := by
  rcases hi with rfl | rfl <;> rfl

/-- The link that a completed training leaves. -/
def trained (cap : Nat) (p : PeerInfo) (l : Link) : Link :=
  if trainMode cap p = 0 then { l with state := 0, mode := 0, peerId := p.peerId % 4096, peerNt420 := p.nt420, laneFault := p.laneFault }
  else { linkFresh l true with
    state := 2, mode := trainMode cap p, peerId := p.peerId % 4096, peerNt420 := p.nt420, laneFault := 0, cntTrain := l.cntTrain + 1 }

/-- Whether a twin link's peer is another module than the twin (R215). -/
theorem twinPeer_wrong_iff : (isTwinLink s n && (twinPeer s).any (· != p.peerId % 4096)) = false ↔
    isTwinLink s n = false ∨ twinPeer s = none ∨ twinPeer s = some (p.peerId % 4096) := by
  cases isTwinLink s n <;> cases twinPeer s <;> simp

/-- What a training reads and writes of the fabric lies in its own link. -/
theorem linkOf_raised (m k : Nat) (up : Bool) : linkOf (islandWoken (twinRaised s n up) k) m = linkOf s m := by
  unfold twinRaised islandWoken
  split <;> rfl

/-- A link in training, its peer the right one, is trained. -/
theorem linkTrain_right (hstate : (linkOf s n).state = 1) (hmay : linkMay s n = true) (hans : p.answers = true)
    (hpeer : isTwinLink s n = false ∨ twinPeer s = none ∨ twinPeer s = some (p.peerId % 4096)) :
    linkTrain s n p = linkMod (islandWoken (twinRaised s n (trainMode (linkCap s n) p != 0)) (72 + n)) n (trained (linkCap s n) p) := by
  unfold linkTrain
  rw [if_pos (by simp [hstate, hmay, hans]), if_neg (by rw [twinPeer_wrong_iff.2 hpeer]; decide)]
  rfl

/-- A twin link whose peer is another module is held down. -/
theorem linkTrain_wrong {k : Nat} (hstate : (linkOf s n).state = 1) (hmay : linkMay s n = true) (hans : p.answers = true)
    (htwin : isTwinLink s n = true) (hpeer : twinPeer s = some k) (hk : k ≠ p.peerId % 4096) :
    linkTrain s n p = linkMod s n fun l => { l with state := 3, mismatch := true, peerId := p.peerId % 4096, peerNt420 := p.nt420 } := by
  unfold linkTrain
  rw [if_pos (by simp [hstate, hmay, hans]), if_pos (by simp [htwin, hpeer, hk])]

theorem linkTrain_refused (h : p.answers = false ∨ (linkOf s n).state ≠ 1 ∨ linkMay s n = false) : linkTrain s n p = s := by
  unfold linkTrain
  refine if_neg ?_
  rcases h with h | h | h <;> simp [h]

/-- What a training of the right peer leaves: its link trained, and the other links, memory, keys and spaces as they were. -/
theorem exec_training_right {i : Instr} (hi : i = .linkTrain n p ∨ i = .linkCapabilityRetry n p) (hn : n < s.fabric.links.length)
    (hclock : clockStopped s (72 + n) = false) (hstate : (linkOf s n).state = 1) (hmay : linkMay s n = true) (hans : p.answers = true)
    (hpeer : isTwinLink s n = false ∨ twinPeer s = none ∨ twinPeer s = some (p.peerId % 4096)) :
    ∃ t, exec i s = .next t ∧ linkOf t n = trained (linkCap s n) p (linkOf s n) ∧ (∀ m, m ≠ n → linkOf t m = linkOf s m) ∧
      t.mem = s.mem ∧ t.keys = s.keys ∧ t.sp = s.sp := by
  refine ⟨_, exec_training hi, ?_⟩
  rw [hclock, if_neg Bool.false_ne_true, linkTrain_right hstate hmay hans hpeer]
  have hlen : n < (islandWoken (twinRaised s n (trainMode (linkCap s n) p != 0)) (72 + n)).fabric.links.length := by
    unfold twinRaised islandWoken
    split <;> exact hn
  refine ⟨?_, fun m hm => ?_, ?_⟩
  · rw [linkOf_linkMod _ _ hlen, linkOf_raised]
  · rw [linkOf_linkMod_other _ _ hm, linkOf_raised]
  · unfold twinRaised islandWoken linkMod
    split <;> exact ⟨rfl, rfl, rfl⟩

/-- Settles O30: a training is `trained` of its link, or nothing. -/
theorem linksTrainAtTheHighestMode : Obligations.LinksTrainAtTheHighestMode := by
  refine ⟨fun cap m p => le_trainMode_iff, ?up, ?down, ?wrong, ?refused⟩
  case up =>
    intro s n p i hi hn hclock hstate hmay hans hpeer hmode
    obtain ⟨t, hexec, hlink, hothers⟩ := exec_training_right hi hn hclock hstate hmay hans hpeer
    refine ⟨t, hexec, ?_⟩
    rw [hlink, trained, if_neg hmode]
    exact ⟨rfl, rfl, rfl, rfl, rfl, rfl, rfl, rfl, rfl, hothers⟩
  case down =>
    intro s n p i hi hn hclock hstate hmay hans hpeer hmode
    obtain ⟨t, hexec, hlink, hothers⟩ := exec_training_right hi hn hclock hstate hmay hans hpeer
    refine ⟨t, hexec, ?_⟩
    rw [hlink, trained, if_pos hmode]
    exact ⟨rfl, rfl, rfl, hothers⟩
  case wrong =>
    intro s n k p i hi hn hclock hstate hmay hans htwin hpeer hk
    rw [exec_training hi, hclock, if_neg Bool.false_ne_true, linkTrain_wrong hstate hmay hans htwin hpeer hk]
  case refused =>
    intro s n p i hi h
    rw [exec_training hi, linkTrain_refused h, ite_self]

end Sys2Proof.Machine
end

section
/-! SUPPORT. The egress side of a link (R216, R219, R234 to R236): flit slots and codewords sent change the link's egress fields, and on
other links the room that transit packets leave. -/

namespace Sys2Proof.Machine

/-! ### What flit slots leave of a link -/

/-- The fields of a link that its receiver and its training own are as they were. -/
structure ReceiverKept (l k : Link) : Prop where
  state : k.state = l.state
  rxSeq : k.rxSeq = l.rxSeq
  fails : k.fails = l.fails
  cntRx : k.cntRx = l.cntRx
  cntCorr : k.cntCorr = l.cntCorr
  cntRetry : k.cntRetry = l.cntRetry

theorem ReceiverKept.refl (l : Link) : ReceiverKept l l := ⟨rfl, rfl, rfl, rfl, rfl, rfl⟩

theorem ReceiverKept.trans {l k j : Link} (h : ReceiverKept l k) (g : ReceiverKept k j) : ReceiverKept l j :=
  ⟨g.state.trans h.state, g.rxSeq.trans h.rxSeq, g.fails.trans h.fails, g.cntRx.trans h.cntRx, g.cntCorr.trans h.cntCorr,
    g.cntRetry.trans h.cntRetry⟩

/-- A link is as it was but for the room in its ingress buffer (R219). -/
def IngressFreed (l k : Link) : Prop := k = { l with occ := k.occ, freed := k.freed }

theorem IngressFreed.refl (l : Link) : IngressFreed l l := rfl

theorem IngressFreed.trans {l k j : Link} (h : IngressFreed l k) (g : IngressFreed k j) : IngressFreed l j := by
  unfold IngressFreed at *
  rw [g, h]

theorem IngressFreed.receiverKept {l k : Link} (h : IngressFreed l k) : ReceiverKept l k := by
  rw [h]
  exact ⟨rfl, rfl, rfl, rfl, rfl, rfl⟩

/-- What link n does on its egress side: of the other links only the room in their ingress buffers changes. -/
structure EgressWork (n : Nat) (s t : State) : Prop where
  work : LinkWork s t
  own : ReceiverKept (linkOf s n) (linkOf t n)
  others : ∀ m, m ≠ n → IngressFreed (linkOf s m) (linkOf t m)

namespace EgressWork

theorem refl (n : Nat) (s : State) : EgressWork n s s := ⟨.refl s, .refl _, fun _ _ => .refl _⟩

theorem trans {n : Nat} {s t u : State} (h : EgressWork n s t) (k : EgressWork n t u) : EgressWork n s u :=
  ⟨h.work.trans k.work, h.own.trans k.own, fun m hm => (h.others m hm).trans (k.others m hm)⟩

/-- A change of the link itself that leaves the receiver's fields. -/
theorem linkMod {n : Nat} {s : State} {f : Link → Link} (h : ReceiverKept (linkOf s n) (f (linkOf s n))) :
    EgressWork n s (linkMod s n f) := by
  refine ⟨.linkMod s n f, ?_, fun m hm => ?_⟩
  · by_cases hn : n < s.fabric.links.length
    · rwa [linkOf_linkMod s f hn]
    · have hout : Machine.linkMod s n f = s := by
        simp [Machine.linkMod, modAt, List.modify_eq_self (Nat.le_of_not_lt hn)]
      rw [hout]
      exact .refl _
  · rw [linkOf_linkMod_other s f hm]
    exact .refl _

end EgressWork

theorem ingressFree_freed (s : State) (k flits m : Nat) : IngressFreed (linkOf s m) (linkOf (ingressFree s k flits) m) := by
  by_cases hm : m = k
  · subst hm
    by_cases hk : m < s.fabric.links.length
    · rw [ingressFree, linkOf_linkMod s _ hk]
      rfl
    · have hout : ingressFree s m flits = s := by
        simp [ingressFree, linkMod, modAt, List.modify_eq_self (Nat.le_of_not_lt hk)]
      rw [hout]
      exact .refl _
  · rw [ingressFree, linkOf_linkMod_other s _ hm]
    exact .refl _

theorem ingressFree_egress (s : State) (n k flits : Nat) : EgressWork n s (ingressFree s k flits) :=
  ⟨.linkMod s k _, (ingressFree_freed s k flits n).receiverKept, fun m _ => ingressFree_freed s k flits m⟩

/-! ### The arbiter -/

/-- What the arbiter makes of a link: nothing, or the next packet of a requester that can be granted leaves its queue for the link. -/
theorem egressArb_cases (s : State) (n : Nat) (asker : Option Nat) (l : Link) : egressArb s n asker l = l ∨
    ∃ r o, canSend s l asker r = true ∧
      egressArb s n asker l = { reqMod l r fun q => { q with queue := q.queue.erase o } with sending := some (r, o, 0) } := by
  unfold egressArb
  split
  · split
    · next r hr =>
      have hcan : canSend s l asker r = true := by
        have h := List.find?_some hr
        simp only [Bool.and_eq_true, List.contains_iff_mem, List.mem_filter] at h
        exact h.1.2
      unfold egressGrant
      split
      · exact .inl rfl
      · next o _ =>
        split
        · exact .inr ⟨r, o, hcan, rfl⟩
        · exact .inl rfl
    · exact .inl rfl
  · exact .inl rfl

theorem egressArb_receiverKept (s : State) (n : Nat) (asker : Option Nat) (l : Link) : ReceiverKept l (egressArb s n asker l) := by
  rcases egressArb_cases s n asker l with h | ⟨r, o, _, h⟩ <;> rw [h] <;> exact ⟨rfl, rfl, rfl, rfl, rfl, rfl⟩

/-- While a packet holds the link the arbiter changes nothing. -/
theorem egressArb_sending {s : State} {n : Nat} {asker : Option Nat} {l : Link} (h : l.sending.isSome = true) :
    egressArb s n asker l = l := if_neg (by simp [Option.isNone_iff_eq_none, Option.isSome_iff_ne_none.1 h])

/-! ### Flit slots -/

theorem egressDone_egress (s : State) (n : Nat) : EgressWork n s (egressDone s n) := by
  unfold egressDone
  split
  · exact .refl n s
  · next r o k _ =>
    have hown := EgressWork.linkMod (s := s) (n := n) (f := fun l => { reqMod l r fun q => { q with losses := 0 } with
      sending := none, lastWin := l.lastWin.set (linkClass s n r) r, lastIn := o.via.getD l.lastIn }) ⟨rfl, rfl, rfl, rfl, rfl, rfl⟩
    dsimp only
    split
    · exact hown.trans (ingressFree_egress _ _ _ _)
    · exact hown

theorem egressSlot_egress (s : State) (n : Nat) : EgressWork n s (egressSlot s n) := by
  have harb := egressArb_receiverKept s n none (linkOf s n)
  have hflit : ∀ build credit sending, ReceiverKept (linkOf s n)
      { egressArb s n none (linkOf s n) with build := build, credit := credit, sending := sending } :=
    fun _ _ _ => harb.trans ⟨rfl, rfl, rfl, rfl, rfl, rfl⟩
  unfold egressSlot
  dsimp only
  split
  · exact .linkMod (harb.trans ⟨rfl, rfl, rfl, rfl, rfl, rfl⟩)
  · split
    · exact (EgressWork.linkMod (hflit _ _ _)).trans (egressDone_egress _ n)
    · exact .linkMod (hflit _ _ _)

theorem egressSlots_egress (n : Nat) : ∀ (k : Nat) (s : State), EgressWork n s (egressSlots n k s)
  | 0, s => .refl n s
  | k + 1, s => (egressSlot_egress s n).trans (egressSlots_egress n k _)

/-- Sending a codeword is egress work. -/
theorem codewordSend_egress (s : State) (n : Nat) : EgressWork n s (codewordSend s n) := by
  unfold codewordSend
  split
  · exact .linkMod ⟨rfl, rfl, rfl, rfl, rfl, rfl⟩
  · split
    · exact .refl n s
    · exact (egressSlots_egress n _ s).trans (.linkMod ⟨rfl, rfl, rfl, rfl, rfl, rfl⟩)

end Sys2Proof.Machine
end

section
/-! SUPPORT. Received codewords (R217 to R219): what each verdict of the FEC makes of the link. -/

namespace Sys2Proof.Machine

variable {s : State} {n : Nat} {cw : Codeword}

/-! ### A codeword taken -/

/-- The flit slots of a codeword change what the ingress buffer holds. -/
theorem rxSlots_frame (cw : Codeword) : ∀ (k i : Nat) (lens : List Nat) (l : Link), ∃ occ freed rxHave rxLeft,
    rxSlots cw k i lens l = { l with occ := occ, freed := freed, rxHave := rxHave, rxLeft := rxLeft }
  | 0, _, _, l => ⟨_, _, _, _, rfl⟩
  | k + 1, i, lens, l => by
    have hflit : ∀ l : Link, ∃ occ rxHave rxLeft, rxFlit l = { l with occ := occ, rxHave := rxHave, rxLeft := rxLeft } := by
      intro l
      unfold rxFlit
      split <;> exact ⟨_, _, _, rfl⟩
    simp only [rxSlots]
    split
    · obtain ⟨_, _, _, _, h⟩ := rxSlots_frame cw k (i + 1) lens (rxDiscard l)
      exact ⟨_, _, _, _, h⟩
    · split
      · obtain ⟨_, _, _, hf⟩ := hflit { rxDiscard l with rxLeft := lens.headD 1 + 1 }
        obtain ⟨_, _, _, _, h⟩ := rxSlots_frame cw k (i + 1) (lens.drop 1) (rxFlit { rxDiscard l with rxLeft := lens.headD 1 + 1 })
        rw [h, hf]
        exact ⟨_, _, _, _, rfl⟩
      · split
        · obtain ⟨_, _, _, _, h⟩ := rxSlots_frame cw k (i + 1) lens { l with freed := l.freed + 1 }
          exact ⟨_, _, _, _, h⟩
        · obtain ⟨_, _, _, hf⟩ := hflit l
          obtain ⟨_, _, _, _, h⟩ := rxSlots_frame cw k (i + 1) lens (rxFlit l)
          rw [h, hf]
          exact ⟨_, _, _, _, rfl⟩

/-- What a codeword taken makes of its link: the number moves on, the failures end, no resend is asked for, its packet flits count. -/
structure CodewordTaken (cw : Codeword) (l k : Link) : Prop where
  state : k.state = l.state
  rxSeq : k.rxSeq = (l.rxSeq + 1) % 4096
  nakDue : k.nakDue = false
  fails : k.fails = 0
  cntRx : k.cntRx = l.cntRx + (16 - popCount 16 cw.idle.toNat)
  cntCorr : k.cntCorr = l.cntCorr
  cntRetry : k.cntRetry = l.cntRetry

theorem codewordAck_work (s : State) (n ack : Nat) (nak : Bool) : LinkWork s (codewordAck s n ack nak) := ⟨_, _, _, _, rfl⟩

theorem codewordTake_work (s : State) (n : Nat) (cw : Codeword) : LinkWork s (codewordTake s n cw) :=
  (codewordAck_work s n _ _).trans (.linkMod _ _ _)

theorem codewordTake_others (cw : Codeword) {m : Nat} (h : m ≠ n) : linkOf (codewordTake s n cw) m = linkOf s m :=
  (linkOf_linkMod_other _ _ h).trans (linkOf_linkMod_other s _ h)

theorem codewordTake_own (cw : Codeword) (h : n < s.fabric.links.length) :
    CodewordTaken cw (linkOf s n) (linkOf (codewordTake s n cw) n) := by
  have hack : ∃ replay resend, linkOf (codewordAck s n (cw.ack % 4096) cw.nak) n = { linkOf s n with replay := replay, resend := resend } :=
    ⟨_, _, linkOf_linkMod s _ h⟩
  have hlen : n < (codewordAck s n (cw.ack % 4096) cw.nak).fabric.links.length :=
    Nat.lt_of_lt_of_eq h (linkMod_links_length s n _).symm
  obtain ⟨replay, resend, hack⟩ := hack
  rw [codewordTake, linkOf_linkMod _ _ hlen]
  obtain ⟨_, _, _, _, hslots⟩ := rxSlots_frame cw 16 0 cw.lens { linkOf (codewordAck s n (cw.ack % 4096) cw.nak) n with
    rxSeq := ((linkOf (codewordAck s n (cw.ack % 4096) cw.nak) n).rxSeq + 1) % 4096, nakDue := false, fails := 0
    credit := min 512 ((linkOf (codewordAck s n (cw.ack % 4096) cw.nak) n).credit + 4 * (cw.credit % 128))
    cntRx := (linkOf (codewordAck s n (cw.ack % 4096) cw.nak) n).cntRx + (16 - popCount 16 cw.idle.toNat) }
  rw [hslots, hack]
  exact ⟨rfl, rfl, rfl, rfl, rfl, rfl, rfl⟩

/-! ### The verdict of the FEC -/

/-- The link once the FEC's corrections have been counted. -/
def corrected (cw : Codeword) (l : Link) : Link := { l with cntCorr := l.cntCorr + (if cw.fec = .corrected then 1 else 0) }

/-- An intact codeword is taken where its number is the one expected, else asked for again. -/
theorem codewordIn_intact (hn : n < s.fabric.links.length) (hfec : cw.fec ≠ .failed) : codewordIn s n cw =
    if cw.seq % 4096 = (linkOf s n).rxSeq then codewordTake (linkMod s n (corrected cw)) n cw
    else linkMod s n fun l => codewordNak (corrected cw l) := by
  have hcount : (if cw.fec = .corrected then linkMod s n fun l => { l with cntCorr := l.cntCorr + 1 } else s) =
      linkMod s n (corrected cw) := by
    unfold corrected
    split
    · rfl
    · exact (linkMod_id s n).symm
  have hseq : (linkOf (linkMod s n (corrected cw)) n).rxSeq = (linkOf s n).rxSeq := by rw [linkOf_linkMod s _ hn]; rfl
  unfold codewordIn
  rw [if_neg hfec]
  dsimp only
  rw [hcount, hseq, linkMod_linkMod]

/-- One that the FEC cannot correct is asked for again and counts a failure. -/
theorem codewordIn_failed (hfec : cw.fec = .failed) (hfails : (linkOf s n).fails + 1 < 8) :
    codewordIn s n cw = linkMod s n fun l => codewordNak { l with fails := l.fails + 1 } := by
  rw [codewordIn, if_pos hfec, if_neg (by omega)]

/-- The eighth failure in succession resets the link. -/
theorem codewordIn_eighth (hfec : cw.fec = .failed) (hfails : 8 ≤ (linkOf s n).fails + 1) :
    codewordIn s n cw = linkReset (linkMod s n codewordNak) n false := by
  rw [codewordIn, if_pos hfec, if_pos hfails]

/-! ### CODEWORD_RECEIVE -/

/-- While the link stays up it sends one codeword of its own, and nothing is left to settle. -/
theorem exec_codewordReceive_stays {u : State} (hup : linkUp s n = true) (hs : settled s) (hin : codewordIn s n cw = u)
    (hwork : LinkWork s u) (hstate : (linkOf u n).state = (linkOf s n).state) :
    exec (.codewordReceive n cw) s = .next (codewordSend u n) := by
  have hup' : linkUp u n = true := by
    rw [linkUp_iff] at hup ⊢
    rwa [hstate, clockStopped, hwork.gaf]
  change Host.Outcome.next (settle (codewordReceive s n cw)) = _
  rw [codewordReceive, hup, Bool.not_true, if_neg Bool.false_ne_true, hin]
  dsimp only
  rw [if_pos hup', (hwork.trans (codewordSend_egress u n).work).settle hs]

/-- A link that the codeword took down sends none. -/
theorem exec_codewordReceive_goesDown {u : State} (hup : linkUp s n = true) (hin : codewordIn s n cw = u) (hstate : (linkOf u n).state ≠ 2) :
    exec (.codewordReceive n cw) s = .next (settle u) := by
  change Host.Outcome.next (settle (codewordReceive s n cw)) = _
  rw [codewordReceive, hup, Bool.not_true, if_neg Bool.false_ne_true, hin]
  dsimp only
  rw [if_neg fun h => hstate ((linkUp_iff u n).1 h).2.1]

theorem exec_codewordReceive_down (hup : linkUp s n = false) (hs : settled s) : exec (.codewordReceive n cw) s = .next s := by
  change Host.Outcome.next (settle (codewordReceive s n cw)) = _
  rw [codewordReceive, hup, Bool.not_false, if_pos rfl, settle_idle s hs.1 hs.2]

end Sys2Proof.Machine
end

section
/-! SUPPORT. Transactions that end (R231, R232): the trackers that go, and the commands whose transactions they were, settled one by one. -/

namespace Sys2Proof.Machine

/-! ### Trackers that end -/

theorem endTxns_none {s : State} {f : Tracker → Bool} (st : Status) (h : ∀ t ∈ s.fabric.trackers, f t = false) :
    endTxns s f st = s := by
  have hgone : s.fabric.trackers.filter f = [] := by simpa using h
  simp [endTxns, hgone]

/-- The end of a transaction is noted for any owner but a message's. -/
theorem noteEnd_owned {f : Fabric} {o : TxnOwner} (st : Status) (h : o ≠ .message) :
    noteEnd f o st = { f with ended := f.ended ++ [(o, st)] } := if_neg h

theorem foldl_noteEnd_owned (st : Status) : ∀ (l : List Tracker) (f : Fabric), (∀ t ∈ l, t.owner ≠ .message) →
    l.foldl (fun x t => noteEnd x t.owner st) f = { f with ended := f.ended ++ l.map fun t => (t.owner, st) }
  | [], f, _ => by simp
  | t :: l, f, h => by
    rw [List.foldl_cons, noteEnd_owned st (h t List.mem_cons_self), foldl_noteEnd_owned st l _ fun u hu => h u (List.mem_cons_of_mem _ hu)]
    simp

/-- With no request waiting for a tracker, the trackers picked go and their ends are noted; nothing else changes. -/
theorem endTxns_owned {s : State} {f : Tracker → Bool} (st : Status) (hwait : s.fabric.waiting = [])
    (hown : ∀ t ∈ s.fabric.trackers, f t = true → t.owner ≠ .message) : endTxns s f st = { s with fabric := { s.fabric with
      trackers := s.fabric.trackers.filter fun t => !(f t)
      ended := s.fabric.ended ++ (s.fabric.trackers.filter f).map fun t => (t.owner, st) } } := by
  unfold endTxns
  dsimp only
  split
  · next hgone =>
    have hnone : s.fabric.trackers.filter f = [] := List.isEmpty_iff.1 hgone
    have hall : s.fabric.trackers.filter (fun t => !(f t)) = s.fabric.trackers := by simpa using hnone
    rw [hall, hnone, List.map_nil, List.append_nil]
  · rw [foldl_noteEnd_owned st _ _ fun t ht => hown t (List.mem_filter.1 ht).1 (List.mem_filter.1 ht).2]
    simp [issueWaiting, hwait]

/-! ### Commands whose transactions ended -/

/-- A command's transaction that ends in a failure ends the command. -/
theorem settleOne_command (s : State) (cid : Nat) (st : Status) :
    settleOne s (.command cid) st = if st = .ok then s else cmdEnd s cid (resultOf st) := rfl

/-- The state once the ended transactions of some commands, all with one status, have been acted on. -/
def cmdsSettled (st : Status) (l : List Nat) (s : State) : State := l.foldl (fun t cid => settleOne t (.command cid) st) s

theorem cmdsSettled_cons (st : Status) (cid : Nat) (l : List Nat) (s : State) :
    cmdsSettled st (cid :: l) s = cmdsSettled st l (settleOne s (.command cid) st) := rfl

theorem settleOne_command_frame (s : State) (cid : Nat) (st : Status) : ∃ sp, settleOne s (.command cid) st = { s with sp := sp } := by
  rw [settleOne_command]
  split
  · exact ⟨s.sp, rfl⟩
  · exact ⟨_, rfl⟩

/-- Acting on the end of commands' transactions changes the commands only. -/
theorem cmdsSettled_frame (st : Status) : ∀ (l : List Nat) (s : State), ∃ sp, cmdsSettled st l s = { s with sp := sp }
  | [], s => ⟨s.sp, rfl⟩
  | cid :: l, s => by
    obtain ⟨_, hone⟩ := settleOne_command_frame s cid st
    obtain ⟨_, hrest⟩ := cmdsSettled_frame st l (settleOne s (.command cid) st)
    rw [cmdsSettled_cons, hrest, hone]
    exact ⟨_, rfl⟩

/-- The command with a number after a change of another. -/
theorem find_cmd_map_other {cid k : Nat} (f : Cmd → Cmd) (hf : ∀ c, (f c).id = c.id) (h : cid ≠ k) : ∀ l : List Cmd,
    (l.map fun c => if c.id = k then f c else c).find? (fun c => c.id == cid) = l.find? fun c => c.id == cid
  | [] => rfl
  | c :: l => by
    have ih := find_cmd_map_other f hf h l
    by_cases hk : c.id = k
    · simp [hk, hf, h.symm, ih]
    · by_cases hc : c.id = cid
      · simp [hc, h]
      · simp [hk, hc, ih]

theorem cmdGet_cmdEnd_other (s : State) {cid k : Nat} (r : Result) (h : cid ≠ k) : cmdGet (cmdEnd s k r) cid = cmdGet s cid :=
  find_cmd_map_other _ (by intro c; split <;> rfl) h s.sp.cmds

/-- A command that has ended keeps its result. -/
theorem cmdGet_cmdEnd_ended {s : State} {cid k : Nat} {c : Cmd} {q : Result} (r : Result) (hget : cmdGet s cid = some c)
    (hphase : c.phase = .finished q) : cmdGet (cmdEnd s k r) cid = some c := by
  by_cases hk : cid = k
  · subst hk
    rw [cmdEnd, cmdGet_cmdMod _ _ _ (by intro c; split <;> rfl), hget, Option.map_some]
    simp [hphase]
  · rw [cmdGet_cmdEnd_other s r hk, hget]

theorem endsWith_cmdEnd {s : State} {cid : Nat} {st : Status} (k : Nat) (r : Result) (h : endsWith s cid st) :
    endsWith (cmdEnd s k r) cid st := by
  obtain ⟨c, q, hget, hphase, hq⟩ := h
  exact ⟨c, q, cmdGet_cmdEnd_ended r hget hphase, hphase, hq⟩

theorem endsWith_cmdsSettled {cid : Nat} {st st' : Status} : ∀ (l : List Nat) (s : State), endsWith s cid st →
    endsWith (cmdsSettled st' l s) cid st
  | [], _, h => h
  | k :: l, s, h => by
    rw [cmdsSettled_cons, settleOne_command]
    split
    · exact endsWith_cmdsSettled l s h
    · exact endsWith_cmdsSettled l _ (endsWith_cmdEnd k _ h)

/-- A live command one of whose transactions failed ends with the status. -/
theorem cmdsSettled_ends {cid : Nat} {c : Cmd} {st : Status} (hst : st ≠ .ok) (hlive : cmdLive c = true) (l : List Nat) :
    ∀ s : State, cid ∈ l → cmdGet s cid = some c → endsWith (cmdsSettled st l s) cid st := by
  induction l with
  | nil => exact fun s hmem => absurd hmem List.not_mem_nil
  | cons k l ih =>
    intro s hmem hget
    rw [cmdsSettled_cons, settleOne_command, if_neg hst]
    by_cases hk : cid = k
    · subst hk
      exact endsWith_cmdsSettled l _ ⟨_, resultOf st, cmdGet_cmdEnd s cid _ c hget hlive, rfl, rfl⟩
    · exact ih _ ((List.mem_cons.1 hmem).resolve_left hk) ((cmdGet_cmdEnd_other s _ hk).trans hget)

theorem settleF_idle (s : State) (fuel : Nat) (h : s.fabric.ended = []) : settleF fuel s = s := by
  cases fuel with
  | zero => rfl
  | succ fuel => rw [settleF, h]

/-- A state whose ended transactions are those of a list. -/
def withEnded (s : State) (l : List (TxnOwner × Status)) : State := { s with fabric := { s.fabric with ended := l } }

theorem settleF_cons (s : State) (fuel : Nat) (e : TxnOwner × Status) (l : List (TxnOwner × Status)) :
    settleF (fuel + 1) (withEnded s (e :: l)) = settleF fuel (settleOne (withEnded s l) e.1 e.2) := rfl

theorem settleOne_withEnded (s : State) (l : List (TxnOwner × Status)) (cid : Nat) (st : Status) :
    settleOne (withEnded s l) (.command cid) st = withEnded (settleOne s (.command cid) st) l := by
  rw [settleOne_command, settleOne_command]
  split <;> rfl

/-- Settling acts on the ended transactions of commands in their order. -/
theorem settleF_commands (st : Status) (l : List Nat) : ∀ (fuel : Nat) (s : State), l.length ≤ fuel →
    settleF fuel (withEnded s (l.map fun cid => (.command cid, st))) = cmdsSettled st l (withEnded s []) := by
  induction l with
  | nil => exact fun fuel s _ => settleF_idle _ fuel rfl
  | cons cid l ih =>
    intro fuel s hlen
    cases fuel with
    | zero => exact absurd hlen (Nat.not_succ_le_zero _)
    | succ fuel =>
      rw [List.map_cons, settleF_cons, settleOne_withEnded, ih _ _ (Nat.le_of_succ_le_succ hlen), cmdsSettled_cons, settleOne_withEnded]

/-- Where commands' transactions have ended with one status, a twin having nothing to mend, settling acts on each and on nothing else. -/
theorem settle_commands {s : State} (st : Status) (l : List Nat) (hmend : s.dly.role = .twin → brokenRanges s = []) :
    settle (withEnded s (l.map fun cid => (.command cid, st))) = cmdsSettled st l (withEnded s []) := by
  rw [settle, settleF_commands st l _ s ?fuel]
  case fuel =>
    simp only [withEnded, List.length_map]
    omega
  refine twinRecover_idle _ ?_
  obtain ⟨_, hframe⟩ := cmdsSettled_frame st l (withEnded s [])
  rw [hframe]
  exact hmend

/-- A state in which the trackers that a test picks are free. -/
def withoutTrackers (s : State) (f : Tracker → Bool) : State :=
  { s with fabric := { s.fabric with trackers := s.fabric.trackers.filter fun t => !(f t) } }

/-- The end of the transactions of commands, none waiting for a tracker, settled: each command ends as its transaction did, and the trackers
are free. -/
theorem settle_endTxns_commands {s : State} {f : Tracker → Bool} {l : List Nat} (st : Status) (hs : settled s) (hwait : s.fabric.waiting = [])
    (hown : (s.fabric.trackers.filter f).map (·.owner) = l.map .command) :
    settle (endTxns s f st) = cmdsSettled st l (withoutTrackers s f) := by
  have hnoMessage : ∀ t ∈ s.fabric.trackers, f t = true → t.owner ≠ .message := by
    intro t ht hf hm
    have hmem : t.owner ∈ l.map TxnOwner.command := hown ▸ List.mem_map_of_mem (List.mem_filter.2 ⟨ht, hf⟩)
    rw [hm] at hmem
    simp at hmem
  have hended : (s.fabric.trackers.filter f).map (fun t => (t.owner, st)) = l.map fun cid => (.command cid, st) := by
    have := congrArg (List.map fun o => (o, st)) hown
    simpa [Function.comp_def] using this
  have hends : endTxns s f st = withEnded (withoutTrackers s f) (l.map fun cid => (.command cid, st)) := by
    rw [endTxns_owned st hwait hnoMessage, hs.1, List.nil_append, hended]
    rfl
  have hclear : withEnded (withoutTrackers s f) [] = withoutTrackers s f := by
    rw [← hs.1]
    rfl
  rw [hends, settle_commands (s := withoutTrackers s f) st l hs.2, hclear]

end Sys2Proof.Machine
end

section
/-! SUPPORT. Link resets (R240): the link emptied, its log entry, and the transactions that go with it. -/

namespace Sys2Proof.Machine

/-! ### The log entry -/

/-- An event logged is held, counted with its like or as an entry of its own. -/
theorem logAdd_entry (l : ErrLog) (e : LogEntry) : ∃ x ∈ (logAdd l e).entries, x.kind = e.kind ∧ x.unit = e.unit := by
  have hpush : ∃ x ∈ (logPush l e).entries, x.kind = e.kind ∧ x.unit = e.unit := ⟨_, List.mem_cons_self, rfl, rfl⟩
  unfold logAdd
  split
  · exact hpush
  · next x r _ =>
    split
    · next hsame =>
      simp only [logSame, Bool.and_eq_true, beq_iff_eq] at hsame
      exact ⟨_, List.mem_cons_self, hsame.1.1.1.1.1, hsame.1.1.1.1.2⟩
    · exact hpush

theorem linkLog_entry (s : State) (n : Nat) (watchdog : Bool) : ∃ e ∈ (linkLog s n watchdog).err.entries, e.kind = 6 ∧ e.unit = 72 + n :=
  logAdd_entry _ _

/-! ### The link emptied -/

/-- A link taken down: the link itself fresh but for what no reset touches, of other links only transit packets gone. -/
structure Emptied (n : Nat) (may : Bool) (s t : State) : Prop where
  frame : ∃ links resetDrop, t = { s with fabric := { s.fabric with links := links, resetDrop := resetDrop } }
  link : ∃ l, l.holdDown = (linkOf s n).holdDown ∧ l.wdog = (linkOf s n).wdog ∧ l.cntWdog = (linkOf s n).cntWdog ∧
    linkOf t n = linkFresh l may

theorem foldl_ingressFree_frame : ∀ (l : List Outgoing) (s : State), ∃ links,
    l.foldl (fun t o => ingressFree t (o.via.getD 48) (flitsOf o.pkt)) s = { s with fabric := { s.fabric with links := links } }
  | [], _ => ⟨_, rfl⟩
  | o :: l, s => by
    obtain ⟨_, h⟩ := foldl_ingressFree_frame l (ingressFree s (o.via.getD 48) (flitsOf o.pkt))
    exact ⟨_, h⟩

theorem foldl_ingressFree_freed (n : Nat) : ∀ (l : List Outgoing) (s : State),
    IngressFreed (linkOf s n) (linkOf (l.foldl (fun t o => ingressFree t (o.via.getD 48) (flitsOf o.pkt)) s) n)
  | [], _ => .refl _
  | _ :: l, s => (ingressFree_freed s _ _ n).trans (foldl_ingressFree_freed n l _)

theorem foldl_ingressFree_length : ∀ (l : List Outgoing) (s : State),
    (l.foldl (fun t o => ingressFree t (o.via.getD 48) (flitsOf o.pkt)) s).fabric.links.length = s.fabric.links.length
  | [], _ => rfl
  | _ :: l, s => (foldl_ingressFree_length l _).trans (linkMod_links_length s _ _)

/-- A tracker whose transaction is on a link and not acknowledged. -/
def unacked (n : Nat) (u : Tracker) : Bool := u.link == n && !u.acked

/-- A link taken down is emptied, and the transactions on it that are not acknowledged end with LINK_DOWN. -/
theorem linkFlush_emptied {s : State} {n : Nat} (may : Bool) (h : n < s.fabric.links.length) :
    ∃ t, linkFlush s n may = endTxns t (unacked n) .linkDown ∧ Emptied n may s t := by
  unfold linkFlush
  dsimp only
  generalize hs1 : ({ s with fabric := { s.fabric with
    links := s.fabric.links.map (dropVia n), resetDrop := satAdd 16 s.fabric.resetDrop (transitHeld s n) } } : State) = s1
  generalize (reqOf (linkOf s1 n) 12).queue ++ _ = left
  have hlen1 : n < s1.fabric.links.length := by rw [← hs1]; simpa using h
  have hlen := Nat.lt_of_lt_of_eq hlen1 (foldl_ingressFree_length left s1).symm
  have hfreed : IngressFreed _ _ := foldl_ingressFree_freed n left s1
  have hdrop : linkOf s1 n = dropVia n (linkOf s n) := by
    rw [← hs1, linkOf, linkOf, List.getD_eq_getElem?_getD, List.getD_eq_getElem?_getD, List.getElem?_map, List.getElem?_eq_getElem h]
    rfl
  obtain ⟨_, hframe⟩ := foldl_ingressFree_frame left s1
  refine ⟨_, rfl, ⟨⟨_, _, by rw [hframe, ← hs1]; rfl⟩, ⟨_, ?_, ?_, ?_, linkOf_linkMod _ _ hlen⟩⟩⟩
  all_goals
    rw [hfreed, hdrop]
    rfl

namespace Emptied

variable {n : Nat} {may : Bool} {s t : State} (h : Emptied n may s t)
include h

theorem work : LinkWork s t := by obtain ⟨_, _, rfl⟩ := h.frame; exact ⟨_, _, _, _, rfl⟩

theorem trackers : t.fabric.trackers = s.fabric.trackers := by obtain ⟨_, _, rfl⟩ := h.frame; rfl

theorem waiting : t.fabric.waiting = s.fabric.waiting := by obtain ⟨_, _, rfl⟩ := h.frame; rfl

end Emptied

/-- Where every transaction on the link is acknowledged, none ends. -/
theorem linkFlush_acked {s : State} {n : Nat} (may : Bool) (h : n < s.fabric.links.length)
    (hacked : ∀ t ∈ s.fabric.trackers, t.link = n → t.acked = true) : Emptied n may s (linkFlush s n may) := by
  obtain ⟨t, heq, hempty⟩ := linkFlush_emptied may h
  have hnone : ∀ u ∈ t.fabric.trackers, unacked n u = false := by
    intro u hu
    rw [hempty.trackers] at hu
    by_cases hl : u.link = n
    · simp [unacked, hacked u hu hl]
    · simp [unacked, hl]
  rwa [heq, endTxns_none _ hnone]

/-- The link after a reset. -/
theorem linkReset_acked {s : State} {n : Nat} (watchdog : Bool) (h : n < s.fabric.links.length)
    (hacked : ∀ t ∈ s.fabric.trackers, t.link = n → t.acked = true) :
    Emptied n (linkMay s n) (linkLog s n watchdog) (linkReset s n watchdog) :=
  linkFlush_acked (s := linkLog s n watchdog) _ h hacked

theorem linkLog_settleKept (s : State) (n : Nat) (watchdog : Bool) : SettleKept s (linkLog s n watchdog) := ⟨rfl, rfl, rfl, rfl⟩

/-- Owners that are commands all are the commands of a list. -/
theorem exists_commands : ∀ {l : List Tracker}, (∀ t ∈ l, ∃ cid, t.owner = .command cid) →
    ∃ ids : List Nat, l.map (·.owner) = ids.map .command
  | [], _ => ⟨[], rfl⟩
  | t :: l, h => by
    obtain ⟨cid, hcid⟩ := h t List.mem_cons_self
    obtain ⟨ids, hids⟩ := exists_commands fun u hu => h u (List.mem_cons_of_mem t hu)
    exact ⟨cid :: ids, by rw [List.map_cons, List.map_cons, hcid, hids]⟩

/-- A reset, settled, where the transactions on the link that are not acknowledged are all of commands: the link is emptied, and each of those
commands ends with LINK_DOWN. -/
theorem settle_linkReset_commands {s : State} {n : Nat} (watchdog : Bool) (hn : n < s.fabric.links.length) (hs : settled s)
    (hwait : s.fabric.waiting = []) (hcmds : ∀ u ∈ s.fabric.trackers, u.link = n → u.acked = false → ∃ cid, u.owner = .command cid) :
    ∃ t ids, settle (linkReset s n watchdog) = cmdsSettled .linkDown ids (withoutTrackers t (unacked n)) ∧
      Emptied n (linkMay s n) (linkLog s n watchdog) t ∧
      ∀ u ∈ s.fabric.trackers, u.link = n → u.acked = false → ∀ cid, u.owner = .command cid → cid ∈ ids := by
  obtain ⟨t, hflush, hempty⟩ := linkFlush_emptied (s := linkLog s n watchdog) (linkMay s n) hn
  have hkept : SettleKept s t := (linkLog_settleKept s n watchdog).trans hempty.work.settleKept
  have hst : settled t := ⟨hkept.ended.trans hs.1, by rw [hkept.dly, hkept.brokenRanges]; exact hs.2⟩
  have htrackers : t.fabric.trackers = s.fabric.trackers := hempty.trackers
  obtain ⟨ids, hids⟩ := exists_commands (l := t.fabric.trackers.filter (unacked n)) fun u hu => by
    rw [htrackers, List.mem_filter] at hu
    obtain ⟨hmem, hu⟩ := hu
    simp only [unacked, Bool.and_eq_true, beq_iff_eq, Bool.not_eq_true'] at hu
    exact hcmds u hmem hu.1 hu.2
  refine ⟨t, ids, ?_, hempty, fun u hu hul hua cid hown => ?_⟩
  · rw [linkReset, hflush, settle_endTxns_commands .linkDown hst (hempty.waiting.trans hwait) hids]
  · have hmem : TxnOwner.command cid ∈ ids.map TxnOwner.command := by
      rw [← hids, ← hown, htrackers]
      exact List.mem_map_of_mem (List.mem_filter.2 ⟨hu, by simp [unacked, hul, hua]⟩)
    simpa using hmem

end Sys2Proof.Machine
end

section
/-! CLAIMS. Received codewords. -/

namespace Sys2Proof.Machine

/-- Settles O31: what a codeword makes of its link, and then the link's own egress work (`EgressWork`), which leaves the receiver's fields. -/
theorem codewordsAreTakenInOrder : Obligations.CodewordsAreTakenInOrder := by
  refine ⟨?taken, ?outOfOrder, ?failed, ?eighth, ?down⟩
  case taken =>
    intro s n cw hup hn hs hfec hseq
    have hn' : n < (linkMod s n (corrected cw)).fabric.links.length := Nat.lt_of_lt_of_eq hn (linkMod_links_length s n _).symm
    have hin : codewordIn s n cw = codewordTake (linkMod s n (corrected cw)) n cw := by rw [codewordIn_intact hn hfec, if_pos hseq]
    have hwork : LinkWork s (codewordTake (linkMod s n (corrected cw)) n cw) := (LinkWork.linkMod _ _ _).trans (codewordTake_work _ _ _)
    have htaken := codewordTake_own cw hn'
    rw [linkOf_linkMod s _ hn] at htaken
    have hothers : ∀ m, m ≠ n → linkOf (codewordTake (linkMod s n (corrected cw)) n cw) m = linkOf s m := fun m hm =>
      (codewordTake_others cw hm).trans (linkOf_linkMod_other s _ hm)
    have hsend := codewordSend_egress (codewordTake (linkMod s n (corrected cw)) n cw) n
    have hall := hwork.trans hsend.work
    exact ⟨_, _, exec_codewordReceive_stays hup hs hin hwork htaken.state, rfl, htaken.nakDue, hothers,
      hsend.own.rxSeq.trans htaken.rxSeq, hsend.own.fails.trans htaken.fails, hsend.own.cntRetry.trans htaken.cntRetry,
      hsend.own.cntRx.trans htaken.cntRx, hsend.own.cntCorr.trans htaken.cntCorr, fun m hm => hothers m hm ▸ hsend.others m hm,
      hall.mem, hall.keys, hall.sp⟩
  case outOfOrder =>
    intro s n cw hup hs hfec hseq
    have hn := linkUp_lt hup
    have hin := codewordIn_intact hn hfec
    rw [if_neg hseq] at hin
    exact exec_codewordReceive_stays hup hs hin (.linkMod _ _ _) (by rw [linkOf_linkMod s _ hn])
  case failed =>
    intro s n cw hup hs hfec hfails
    exact exec_codewordReceive_stays hup hs (codewordIn_failed hfec hfails) (.linkMod _ _ _)
      (by rw [linkOf_linkMod s _ (linkUp_lt hup)])
  case eighth =>
    intro s n cw hup hn hs hfec hfails hacked
    have hreset := linkReset_acked (s := linkMod s n codewordNak) false (Nat.lt_of_lt_of_eq hn (linkMod_links_length s n _).symm) hacked
    have hkept : SettleKept s (linkReset (linkMod s n codewordNak) n false) :=
      (LinkWork.linkMod s n codewordNak).settleKept.trans ((linkLog_settleKept _ n false).trans hreset.work.settleKept)
    obtain ⟨l, -, -, -, hlink⟩ := hreset.link
    have hstate : (linkOf (linkReset (linkMod s n codewordNak) n false) n).state ≠ 2 := by
      rw [hlink, linkFresh]
      dsimp only
      split <;> decide
    refine ⟨_, (exec_codewordReceive_goesDown hup (codewordIn_eighth hfec hfails) hstate).trans (congrArg _ (hkept.settle hs)), hstate, ?_⟩
    rw [hlink, hreset.work.err]
    exact ⟨rfl, rfl, rfl, rfl, linkLog_entry _ n false, hreset.trackers, hreset.work.mem, hreset.work.keys, hreset.work.sp⟩
  case down => exact fun s n cw hup hs => exec_codewordReceive_down hup hs

end Sys2Proof.Machine
end

section
/-! CLAIMS. Link resets. -/

namespace Sys2Proof.Machine

variable {s : State} {n : Nat}

/-- LINK_CTRL_RESET and LINK_HOLD_DOWN are one write. -/
theorem exec_linkCtrl {p : Port} {tag : Nat} {v : Word} {i : Instr} (hi : i = .linkCtrlReset p tag n v ∨ i = .linkHoldDown p tag n v)
    (hw : mayWrite s p) : exec i s = .next (mgmtReply (linkCtrl n v s).st p tag (linkCtrl n v s).status (linkCtrl n v s).data) := by
  rcases hi with rfl | rfl <;> exact congrArg _ (mgmtWrite_may _ _ _ _ _ hw)

/-- The link with its hold_down bit as a write sets it. -/
def heldDown (hold : Bool) (l : Link) : Link := { l with holdDown := hold }

theorem linkCtrl_resets {v : Word} (hn : n < 48) (hv : v.getLsbD 0 = true) :
    linkCtrl n v s = ⟨settle (linkReset (linkMod s n (heldDown (v.getLsbD 1))) n false), .ok, []⟩ := by
  unfold linkCtrl
  rw [if_neg (Nat.not_le.2 hn)]
  dsimp only
  rw [if_pos hv]
  rfl

theorem linkCtrl_holds {v : Word} (hn : n < 48) (hv : v.getLsbD 0 = false) (hold : (linkOf s n).holdDown ≠ v.getLsbD 1) :
    linkCtrl n v s = ⟨settle (linkFlush (linkMod s n (heldDown (v.getLsbD 1))) n (linkMay (linkMod s n (heldDown (v.getLsbD 1))) n)), .ok, []⟩ := by
  unfold linkCtrl
  rw [if_neg (Nat.not_le.2 hn)]
  dsimp only
  rw [if_neg (by rw [hv]; decide), if_neg hold.symm]
  rfl

theorem linkCtrl_keeps {v : Word} (hn : n < 48) (hv : v.getLsbD 0 = false) (hold : (linkOf s n).holdDown = v.getLsbD 1) :
    linkCtrl n v s = ⟨linkMod s n (heldDown (v.getLsbD 1)), .ok, []⟩ := by
  unfold linkCtrl
  rw [if_neg (Nat.not_le.2 hn)]
  dsimp only
  rw [if_neg (by rw [hv]; decide), if_pos hold.symm]
  rfl

theorem linkMay_heldDown (hold : Bool) (h : n < s.fabric.links.length) :
    linkMay (linkMod s n (heldDown hold)) n = !(hold || linkCap s n == 0) := by
  rw [linkMay, linkOf_linkMod s _ h]
  cases hold <;> rfl

/-- The link with a watchdog counted. -/
def watchdogged (l : Link) : Link := { l with wdog := true, cntWdog := l.cntWdog + 1 }

theorem linkMay_watchdogged (h : n < s.fabric.links.length) : linkMay (linkMod s n watchdogged) n = linkMay s n := by
  rw [linkMay, linkOf_linkMod s _ h]
  rfl

theorem exec_linkWatchdog_up (hup : linkUp s n = true) :
    exec (.linkWatchdog n) s = .next (settle (linkReset (linkMod s n watchdogged) n true)) := congrArg _ (if_pos hup)

theorem exec_linkWatchdog_down (hup : linkUp s n = false) : exec (.linkWatchdog n) s = .next s :=
  congrArg _ (if_neg (Bool.eq_false_iff.1 hup))

/-- Settles O32: a reset empties the link (`Emptied`) and ends the transactions on it, which end their commands one by one. -/
theorem linkResetFailsWhatItHeld : Obligations.LinkResetFailsWhatItHeld := by
  refine ⟨?watchdog, ?idle, ?resets, ?holds, ?keeps⟩
  case watchdog =>
    intro s n hup hn hs hwait hcmds
    have hn' : n < (linkMod s n watchdogged).fabric.links.length := Nat.lt_of_lt_of_eq hn (linkMod_links_length s n _).symm
    have hs' : settled (linkMod s n watchdogged) := hs
    obtain ⟨t, ids, hsettle, hempty, hids⟩ := settle_linkReset_commands true hn' hs' hwait hcmds
    obtain ⟨l, -, hwdog, hcount, hlink⟩ := hempty.link
    have hown : linkOf (linkLog (linkMod s n watchdogged) n true) n = watchdogged (linkOf s n) := linkOf_linkMod s _ hn
    rw [hown] at hwdog hcount
    obtain ⟨sp, hframe⟩ := cmdsSettled_frame .linkDown ids (withoutTrackers t (unacked n))
    have hlink' : linkOf (cmdsSettled .linkDown ids (withoutTrackers t (unacked n))) n = linkFresh l (linkMay s n) := by
      rw [hframe, ← linkMay_watchdogged hn]
      exact hlink
    refine ⟨_, (exec_linkWatchdog_up hup).trans (congrArg _ hsettle), ?_⟩
    rw [hlink']
    refine ⟨rfl, rfl, rfl, hwdog, hcount, ?trackers, ?ends, ?entry, ?mem, ?keys⟩
    case trackers =>
      rw [hframe]
      exact congrArg (List.filter fun u => !(unacked n u)) hempty.trackers
    case ends =>
      intro u hu hul hua cid c howner hget hlive
      have hget' : cmdGet (withoutTrackers t (unacked n)) cid = some c := by
        rw [← hget]
        exact congrArg (fun x : Spaces => x.cmds.find? fun c => c.id == cid) hempty.work.sp
      exact cmdsSettled_ends (by decide) hlive ids _ (hids u hu hul hua cid howner) hget'
    case entry =>
      rw [hframe]
      exact hempty.work.err ▸ linkLog_entry (linkMod s n watchdogged) n true
    case mem =>
      rw [hframe]
      exact hempty.work.mem
    case keys =>
      rw [hframe]
      exact hempty.work.keys
  case idle => exact fun s n hup => exec_linkWatchdog_down hup
  case resets =>
    intro s p tag n v i hi hw hn hlen hs hv hacked
    have hlen' : n < (linkMod s n (heldDown (v.getLsbD 1))).fabric.links.length := Nat.lt_of_lt_of_eq hlen (linkMod_links_length s n _).symm
    have hreset := linkReset_acked false hlen' hacked
    have hkept := (LinkWork.linkMod s n (heldDown (v.getLsbD 1))).settleKept.trans
      ((linkLog_settleKept _ n false).trans hreset.work.settleKept)
    obtain ⟨l, hhold, -, -, hlink⟩ := hreset.link
    have hown : linkOf (linkLog (linkMod s n (heldDown (v.getLsbD 1))) n false) n = heldDown (v.getLsbD 1) (linkOf s n) :=
      linkOf_linkMod s _ hlen
    have hexec := exec_linkCtrl hi hw
    rw [linkCtrl_resets hn hv, hkept.settle hs] at hexec
    refine ⟨_, hexec, ?_⟩
    rw [hlink, linkMay_heldDown _ hlen, hreset.work.err]
    refine ⟨?_, hhold.trans (congrArg Link.holdDown hown), rfl, linkLog_entry _ n false, hreset.work.mem, hreset.work.keys, hreset.work.sp⟩
    rw [linkFresh]
    cases v.getLsbD 1 || linkCap s n == 0 <;> rfl
  case holds =>
    intro s p tag n v i hi hw hn hlen hs hv hone hhold hacked
    have hlen' : n < (linkMod s n (heldDown true)).fabric.links.length := Nat.lt_of_lt_of_eq hlen (linkMod_links_length s n _).symm
    have hflush := linkFlush_acked (linkMay (linkMod s n (heldDown true)) n) hlen' hacked
    have hwork := (LinkWork.linkMod s n (heldDown true)).trans hflush.work
    obtain ⟨l, hdown, -, -, hlink⟩ := hflush.link
    rw [linkOf_linkMod s _ hlen] at hdown
    replace hlink := hlink.trans (congrArg (linkFresh l) (linkMay_heldDown true hlen))
    have hexec := exec_linkCtrl hi hw
    rw [linkCtrl_holds hn hv (by rw [hhold, hone]; decide), hone, hwork.settle hs] at hexec
    exact ⟨_, hexec, congrArg Link.state hlink, (congrArg Link.holdDown hlink).trans hdown, hwork.err, hwork.mem, hwork.keys, hwork.sp⟩
  case keeps =>
    intro s p tag n v i hi hw hn hv hhold
    rw [exec_linkCtrl hi hw, linkCtrl_keeps hn hv hhold]
    rfl

end Sys2Proof.Machine
end

section
/-! SUPPORT. Routes (R226): the link chosen holds the fewest flits of those that a test picks, the lowest of equals. -/

namespace Sys2Proof.Machine

/-- The better of the best link so far and the next one. -/
def betterLink (s : State) (best : Option Nat) (n : Nat) : Option Nat :=
  match best with
  | none => some n
  | some b => if queuedFlits (linkOf s n) < queuedFlits (linkOf s b) then some n else some b

/-- Link m holds fewer flits than link k, or as many and comes no later. -/
def LinkLeads (s : State) (m k : Nat) : Prop :=
  queuedFlits (linkOf s m) < queuedFlits (linkOf s k) ∨ (queuedFlits (linkOf s m) = queuedFlits (linkOf s k) ∧ m ≤ k)

theorem LinkLeads.refl (s : State) (m : Nat) : LinkLeads s m m := .inr ⟨rfl, Nat.le_refl m⟩

theorem LinkLeads.trans {s : State} {a b c : Nat} (h : LinkLeads s a b) (k : LinkLeads s b c) : LinkLeads s a c := by
  unfold LinkLeads at *
  omega

/-- The last of the best links leads the first one and all that came after it. -/
theorem foldl_betterLink (s : State) (l : List Nat) : ∀ b, (b :: l).Pairwise (· < ·) →
    ∃ m ∈ b :: l, l.foldl (betterLink s) (some b) = some m ∧ ∀ k ∈ b :: l, LinkLeads s m k := by
  induction l with
  | nil => exact fun b _ => ⟨b, List.mem_cons_self, rfl, fun k hk => List.mem_singleton.1 hk ▸ .refl s b⟩
  | cons n l ih =>
    intro b hsorted
    obtain ⟨hfirst, hrest⟩ := List.pairwise_cons.1 hsorted
    by_cases hfewer : queuedFlits (linkOf s n) < queuedFlits (linkOf s b)
    · obtain ⟨m, hm, hfold, hleads⟩ := ih n hrest
      refine ⟨m, List.mem_cons_of_mem b hm, by rw [List.foldl_cons, betterLink, if_pos hfewer, hfold], fun k hk => ?_⟩
      rcases List.mem_cons.1 hk with rfl | hk
      · exact (hleads n List.mem_cons_self).trans (.inl hfewer)
      · exact hleads k hk
    · obtain ⟨m, hm, hfold, hleads⟩ := ih b (hsorted.sublist (List.Sublist.cons_cons b (List.sublist_cons_self n l)))
      have hbn : LinkLeads s b n := by
        have hlt := hfirst n List.mem_cons_self
        unfold LinkLeads
        omega
      refine ⟨m, ?_, by rw [List.foldl_cons, betterLink, if_neg hfewer, hfold], fun k hk => ?_⟩
      · rcases List.mem_cons.1 hm with rfl | hm
        · exact List.mem_cons_self
        · exact List.mem_cons_of_mem b (List.mem_cons_of_mem n hm)
      · rcases List.mem_cons.1 hk with rfl | hk
        · exact hleads _ List.mem_cons_self
        · rcases List.mem_cons.1 hk with rfl | hk
          · exact (hleads b List.mem_cons_self).trans hbn
          · exact hleads k (List.mem_cons_of_mem b hk)

/-- The links that a test picks and that are up, rising. -/
def pickedLinks (s : State) (pick : Nat → Bool) : List Nat := (List.range 48).filter fun n => pick n && (linkOf s n).state == 2

theorem mem_pickedLinks {s : State} {pick : Nat → Bool} {n : Nat} :
    n ∈ pickedLinks s pick ↔ n < 48 ∧ pick n = true ∧ (linkOf s n).state = 2 := by
  simp [pickedLinks]

theorem bestLink_eq (s : State) (pick : Nat → Bool) : bestLink s pick = (pickedLinks s pick).foldl (betterLink s) none := rfl

/-- What the best link is: one that is picked and up, and that leads all such. -/
theorem bestLink_some {s : State} {pick : Nat → Bool} {m : Nat} (h : bestLink s pick = some m) :
    m ∈ pickedLinks s pick ∧ ∀ k ∈ pickedLinks s pick, LinkLeads s m k := by
  have hsorted : (pickedLinks s pick).Pairwise (· < ·) := List.Pairwise.filter _ List.pairwise_lt_range
  rw [bestLink_eq] at h
  cases hl : pickedLinks s pick with
  | nil => rw [hl] at h; cases h
  | cons b l =>
    rw [hl] at h hsorted
    obtain ⟨m', hm, hfold, hleads⟩ := foldl_betterLink s l b hsorted
    obtain rfl : m' = m := Option.some.inj (hfold.symm.trans h)
    exact ⟨hm, hleads⟩

theorem bestLink_none {s : State} {pick : Nat → Bool} (h : bestLink s pick = none) : pickedLinks s pick = [] := by
  have hsorted : (pickedLinks s pick).Pairwise (· < ·) := List.Pairwise.filter _ List.pairwise_lt_range
  rw [bestLink_eq] at h
  cases hl : pickedLinks s pick with
  | nil => rfl
  | cons b l =>
    rw [hl] at h hsorted
    obtain ⟨m, _, hfold, _⟩ := foldl_betterLink s l b hsorted
    exact absurd (hfold.symm.trans h) (Option.some_ne_none m)

/-- The link for a packet: the best of the primary mask, else, where none of that is up, of the alternate mask. -/
theorem pickLink_cases {s : State} {dst m : Nat} {r : Route} (hr : routeOf s dst = some r) (h : pickLink s dst = some m) :
    bestLink s r.primary.getLsbD = some m ∨ (bestLink s r.primary.getLsbD = none ∧ bestLink s r.alternate.getLsbD = some m) := by
  rw [pickLink, hr] at h
  cases hp : bestLink s r.primary.getLsbD with
  | none => exact .inr ⟨rfl, by simpa [hp] using h⟩
  | some k => exact .inl (by simpa [hp] using h)

end Sys2Proof.Machine
end

section
/-! CLAIMS. Transit. -/

namespace Sys2Proof.Machine

variable {s : State} {n : Nat} {p : Packet} {be : BufErr}

/-- TRANSIT_FORWARD acts on a packet for another module on an up link. -/
theorem transitForward_own (h : p.dst = s.rig.active.moduleId) : transitForward s n p be = s := if_pos (by simp [h])

theorem transitForward_bad (hup : linkUp s n = true) (hdst : p.dst ≠ s.rig.active.moduleId) (hbuf : bufBad be = true) :
    transitForward s n p be = transitDrop s n p id := by
  unfold transitForward
  rw [if_neg (by simp [hup, hdst]), if_pos hbuf]

theorem transitForward_hopLimit (hup : linkUp s n = true) (hdst : p.dst ≠ s.rig.active.moduleId) (hbuf : bufBad be = false)
    (hhops : 31 ≤ p.hops) :
    transitForward s n p be = transitDrop s n p fun f => { f with hopLimit := satAdd 16 f.hopLimit 1 } := by
  unfold transitForward
  rw [if_neg (by simp [hup, hdst]), if_neg (by simp [hbuf]), if_pos hhops]

theorem transitForward_noLink (hup : linkUp s n = true) (hdst : p.dst ≠ s.rig.active.moduleId) (hbuf : bufBad be = false)
    (hhops : p.hops < 31) (hlink : pickLink s p.dst = none) :
    transitForward s n p be = transitDrop s n p fun f => { f with noRoute := satAdd 16 f.noRoute 1 } := by
  unfold transitForward
  rw [if_neg (by simp [hup, hdst]), if_neg (by simp [hbuf]), if_neg (by omega), hlink]

/-- Over an NT-420 a packet with a module ID above 1,023 has no route; any other packet waits at requester 12 of its link. -/
theorem transitForward_link {m : Nat} (hup : linkUp s n = true) (hdst : p.dst ≠ s.rig.active.moduleId) (hbuf : bufBad be = false)
    (hhops : p.hops < 31) (hlink : pickLink s p.dst = some m) : transitForward s n p be =
      if ((linkOf s n).peerNt420 || (linkOf s m).peerNt420) && (decide (1023 < p.dst) || decide (1023 < p.src)) then
        transitDrop s n p fun f => { f with noRoute := satAdd 16 f.noRoute 1 }
      else enqueue s m 12
        { pkt := { p with hops := p.hops + 1, data := bufFlip be 0 p.data }, txn := none, space := 0, via := some n } := by
  unfold transitForward
  rw [if_neg (by simp [hup, hdst]), if_neg (by simp [hbuf]), if_neg (by omega), hlink]

/-- Settles O33: a clause for each branch of TRANSIT_FORWARD, and the least of the picked links for the route. -/
theorem transitHopsAreBounded : Obligations.TransitHopsAreBounded := by
  refine ⟨?hopLimit, ?forwarded, ?noRoute, ?bad, ?own, ?route⟩
  case hopLimit => exact fun s n p be hup hdst hbuf hhops => congrArg _ (transitForward_hopLimit hup hdst hbuf hhops)
  case forwarded =>
    intro s n m p be hup hdst hbuf hhops hlink hids
    refine congrArg _ ((transitForward_link hup hdst hbuf hhops hlink).trans (if_neg ?_))
    intro h
    simp only [Bool.and_eq_true, Bool.or_eq_true (decide _), decide_eq_true_eq] at h
    obtain ⟨hd, hs⟩ := hids h.1
    omega
  case noRoute =>
    intro s n p be hup hdst hbuf hhops h
    rcases h with hlink | ⟨m, hlink, hnt, hids⟩
    · exact congrArg _ (transitForward_noLink hup hdst hbuf hhops hlink)
    · exact congrArg _ ((transitForward_link hup hdst hbuf hhops hlink).trans (if_pos (by rw [hnt]; simpa using hids)))
  case bad => exact fun s n p be hup hdst hbuf => congrArg _ (transitForward_bad hup hdst hbuf)
  case own => exact fun s n p be hdst => congrArg _ (transitForward_own hdst)
  case route =>
    intro s dst m r hr hlink
    rcases pickLink_cases hr hlink with hbest | ⟨hnone, hbest⟩
    · obtain ⟨hm, hleads⟩ := bestLink_some hbest
      obtain ⟨hlt, hmask, hstate⟩ := mem_pickedLinks.1 hm
      exact ⟨hstate, hlt, r.primary, .inl rfl, hmask, fun k hk hmaskk hup => hleads k (mem_pickedLinks.2 ⟨hk, hmaskk, hup⟩)⟩
    · obtain ⟨hm, hleads⟩ := bestLink_some hbest
      obtain ⟨hlt, hmask, hstate⟩ := mem_pickedLinks.1 hm
      refine ⟨hstate, hlt, r.alternate, .inr ⟨rfl, fun k hk hmaskk hup => ?_⟩, hmask,
        fun k hk hmaskk hup => hleads k (mem_pickedLinks.2 ⟨hk, hmaskk, hup⟩)⟩
      have hk' : k ∈ pickedLinks s r.primary.getLsbD := mem_pickedLinks.2 ⟨hk, hmaskk, hup⟩
      rw [bestLink_none hnone] at hk'
      exact absurd hk' List.not_mem_nil

end Sys2Proof.Machine
end

section
/-! CLAIMS. The egress arbiter. -/

namespace Sys2Proof.Machine

variable {s : State} {n r : Nat}

/-! ### The winner (R235) -/

theorem le_foldl_max (f : Nat → Nat) : ∀ (l : List Nat) (a : Nat),
    a ≤ l.foldl (fun a r => max a (f r)) a ∧ ∀ q ∈ l, f q ≤ l.foldl (fun a r => max a (f r)) a
  | [], a => ⟨Nat.le_refl a, fun q hq => absurd hq List.not_mem_nil⟩
  | x :: l, a => by
    obtain ⟨hstart, hall⟩ := le_foldl_max f l (max a (f x))
    refine ⟨Nat.le_trans (Nat.le_max_left a (f x)) hstart, fun q hq => ?_⟩
    rcases List.mem_cons.1 hq with rfl | hq
    · exact Nat.le_trans (Nat.le_max_right a (f q)) hstart
    · exact hall q hq

theorem egressWinner_some {a : Option Nat} {l : Link} (h : egressWinner s n l a = some r) :
    r < 14 ∧ canSend s l a r = true ∧ ∀ q, q < 14 → canSend s l a q = true → linkClass s n q ≤ linkClass s n r := by
  have hfound := List.find?_some h
  simp only [Bool.and_eq_true, beq_iff_eq, List.contains_iff_mem, List.mem_filter, List.mem_range] at hfound
  obtain ⟨⟨hr, hcan⟩, htop⟩ := hfound
  refine ⟨hr, hcan, fun q hq hcanq => ?_⟩
  rw [htop]
  exact (le_foldl_max _ _ _).2 q (List.mem_filter.2 ⟨List.mem_range.2 hq, hcanq⟩)

/-- A requester that backs off cannot be granted. -/
theorem canSend_backoff {l : Link} {a : Option Nat} (h : (reqOf l r).backoff = true) : canSend s l a r = false := by
  simp [canSend, h]

/-! ### What the arbiter leaves of a requester -/

/-- A requester that cannot be granted is left as it is. -/
theorem egressArb_reqOf_waiting {a : Option Nat} {l : Link} (h : canSend s l a r = false) :
    reqOf (egressArb s n a l) r = reqOf l r := by
  rcases egressArb_cases s n a l with heq | ⟨w, o, hcan, heq⟩
  · rw [heq]
  · have hne : r ≠ w := by
      rintro rfl
      exact absurd (hcan.symm.trans h) (by decide)
    rw [heq]
    exact reqOf_reqMod_other _ hne

theorem egressArb_backoff {a : Option Nat} {l : Link} (h : r < l.reqs.length) :
    (reqOf (egressArb s n a l) r).backoff = (reqOf l r).backoff := by
  rcases egressArb_cases s n a l with heq | ⟨w, o, _, heq⟩
  · rw [heq]
  · rw [heq]
    by_cases hw : r = w
    · subst hw
      exact (congrArg Requester.backoff (reqOf_reqMod (fun q => { q with queue := q.queue.erase o }) h)).trans rfl
    · exact congrArg Requester.backoff (reqOf_reqMod_other _ hw)

theorem egressArb_cntCut (a : Option Nat) (l : Link) : (egressArb s n a l).cntCut = l.cntCut := by
  rcases egressArb_cases s n a l with heq | ⟨w, o, _, heq⟩ <;> rw [heq]
  rfl

/-- An idle link goes to the winner's next packet where the peer has room for it. -/
theorem egressArb_grants {a : Option Nat} {l : Link} {w : Nat} {o : Outgoing} (hstate : l.state = 2) (hidle : l.sending = none)
    (hwin : egressWinner s n l a = some w) (hnext : nextOut l w = some o) (hroom : flitsOf o.pkt ≤ l.credit) :
    egressArb s n a l = { reqMod l w fun q => { q with queue := q.queue.erase o } with sending := some (w, o, 0) } := by
  unfold egressArb
  rw [if_pos (by simp [hstate, hidle]), hwin]
  dsimp only
  rw [egressGrant, hnext]
  exact if_pos hroom

/-! ### Flit slots while a packet is being sent -/

/-- Flit slots in the midst of a packet take that many of its flits. -/
theorem egressSlots_midst {q : Nat} {o : Outgoing} : ∀ (j k : Nat) (s : State), n < s.fabric.links.length →
    (linkOf s n).sending = some (q, o, k) → (j = 0 ∨ k + j < flitsOf o.pkt) →
    ∃ build credit, egressSlots n j s = linkMod s n fun l => { l with build := build, credit := credit, sending := some (q, o, k + j) }
  | 0, k, s, _, hsend, _ =>
    ⟨(linkOf s n).build, (linkOf s n).credit, ((linkMod_congr s (by rw [Nat.add_zero, ← hsend]; rfl)).trans (linkMod_id s n)).symm⟩
  | j + 1, k, s, hn, hsend, hj => by
    have hslot : egressSlot s n = linkMod s n fun _ => { linkOf s n with
        build := (linkOf s n).build ++ [some (o, k)], credit := (linkOf s n).credit - 1, sending := some (q, o, k + 1) } := by
      unfold egressSlot
      rw [egressArb_sending (by rw [hsend]; rfl)]
      dsimp only
      rw [hsend]
      exact if_neg (by omega)
    have hn' : n < (egressSlot s n).fabric.links.length := by rw [hslot, linkMod_links_length]; exact hn
    obtain ⟨build, credit, hrest⟩ := egressSlots_midst (q := q) (o := o) j (k + 1) (egressSlot s n) hn'
      (by rw [hslot, linkOf_linkMod s _ hn]) (by omega)
    refine ⟨build, credit, ?_⟩
    rw [egressSlots, hrest, hslot, linkMod_linkMod]
    refine linkMod_congr s ?_
    rw [show k + 1 + j = k + (j + 1) by omega]

/-- The flit slots that have gone by are fewer than the packet being sent has left. -/
theorem slotsGone_lt {l : Link} {q k : Nat} {o : Outgoing} (h : l.sending = some (q, o, k)) :
    slotsGone s l = 0 ∨ k + slotsGone s l < flitsOf o.pkt := by
  rw [slotsGone, h]
  dsimp only
  have hlt := Nat.mod_lt (freeAt s 0).toNat (show max 1 (min (flitsOf o.pkt - k) (17 - l.build.length)) > 0 by omega)
  omega

/-! ### The rows -/

theorem exec_egressRequest_runs (hn : n < 48) (hclock : clockStopped s (72 + n) = false) :
    exec (.egressRequest n r) s = .next (egressRequest s n r) := congrArg _ (if_pos (by simp [hn, hclock]))

theorem exec_egressBackoffExpire_runs (hn : n < 48) (hclock : clockStopped s (72 + n) = false) :
    exec (.egressBackoffExpire n r) s = .next (egressBackoff s n r) := congrArg _ (if_pos (by simp [hn, hclock]))

theorem egressRequest_idle (hstate : (linkOf s n).state = 2) (hr : r < 14) (hcan : canSend s (linkOf s n) (some r) r = true)
    (hidle : (linkOf s n).sending = none) : egressRequest s n r = linkMod s n (egressArb s n (some r)) := by
  unfold egressRequest
  dsimp only
  rw [if_pos (by simp [hstate, hr, hcan]), hidle]

/-- A request of the same or a lower class waits for the packet's last flit. -/
theorem egressRequest_waits {q k : Nat} {o : Outgoing} (hsend : (linkOf s n).sending = some (q, o, k))
    (hclass : linkClass s n r ≤ linkClass s n q) : egressRequest s n r = s := by
  unfold egressRequest
  dsimp only
  split
  · rw [hsend]
    exact if_neg (by simp [Nat.not_lt.2 hclass])
  · rfl

theorem egressRequest_cuts {q k : Nat} {o : Outgoing} (hstate : (linkOf s n).state = 2) (hr : r < 14)
    (hcan : canSend s (linkOf s n) (some r) r = true) (hsend : (linkOf s n).sending = some (q, o, k))
    (hstrict : s.rig.active.strict = false) (hclass : linkClass s n q < linkClass s n r) : ∃ t,
    t = egressSlots n (slotsGone s (linkOf s n)) (freeUse s 1) ∧
      egressRequest s n r = linkMod t n fun l => egressArb t n (some r) (egressCut l) := by
  refine ⟨_, rfl, ?_⟩
  unfold egressRequest
  dsimp only
  rw [if_pos (by simp [hstate, hr, hcan]), hsend]
  dsimp only
  rw [if_pos (by simp [hclass, hstrict])]

theorem egressBackoff_ends (hr : r < 14) (hback : (reqOf (linkOf s n) r).backoff = true) :
    egressBackoff s n r = linkMod s n fun l => egressArb s n (some r) (reqMod l r fun q => { q with backoff := false }) :=
  if_pos (by simp [hr, hback])

theorem egressCut_sending {l : Link} {q k : Nat} {o : Outgoing} (h : l.sending = some (q, o, k)) : egressCut l =
    { reqMod l q fun x => { x with queue := o :: x.queue, losses := min 10 (x.losses + 1), backoff := true } with
      sending := none, cntCut := l.cntCut + 1 } := by
  rw [egressCut, h]

/-- Settles O35: the arbiter by what it can do (`egressArb_cases`), and a packet cut in its midst after some of its flits. -/
theorem egressArbiterFollowsClasses : Obligations.EgressArbiterFollowsClasses := by
  refine ⟨fun s n r a l => egressWinner_some, ?idle, ?cuts, ?waits, ?backoff⟩
  case idle =>
    intro s n r w o hn hlen hclock hr hreqs hstate hcan hidle hwin hnext hroom
    have hgrant := egressArb_grants hstate hidle hwin hnext hroom
    have hlink : linkOf (linkMod s n (egressArb s n (some r))) n = _ := (linkOf_linkMod s _ hlen).trans hgrant
    have hw : w < (linkOf s n).reqs.length := hreqs ▸ (egressWinner_some hwin).1
    refine ⟨_, (exec_egressRequest_runs hn hclock).trans (congrArg _ (egressRequest_idle hstate hr hcan hidle)), ?_⟩
    rw [hlink]
    exact ⟨rfl, congrArg Requester.queue (reqOf_reqMod _ hw), rfl, fun m hm => linkOf_linkMod_other s _ hm, rfl, rfl⟩
  case cuts =>
    intro s n r q k o hn hlen hclock hr hq hreqs hstate hcan hsend hstrict hclass
    obtain ⟨t, ht, hcuts⟩ := egressRequest_cuts hstate hr hcan hsend hstrict hclass
    have hlen1 : n < (freeUse s 1).fabric.links.length := hlen
    obtain ⟨build, credit, hslots⟩ := egressSlots_midst _ k (freeUse s 1) hlen1 hsend (slotsGone_lt hsend)
    rw [hslots] at ht
    have hlent : n < t.fabric.links.length := by rw [ht, linkMod_links_length]; exact hlen
    have hown : linkOf t n = { linkOf s n with
        build := build, credit := credit, sending := some (q, o, k + slotsGone s (linkOf s n)) } := by
      rw [ht, linkOf_linkMod _ _ hlen1]
      rfl
    have hcut := egressCut_sending (congrArg Link.sending hown)
    have hreq : reqOf (egressCut (linkOf t n)) q = { reqOf (linkOf s n) q with
        queue := o :: (reqOf (linkOf s n) q).queue, losses := min 10 ((reqOf (linkOf s n) q).losses + 1), backoff := true } := by
      rw [hcut, hown]
      exact reqOf_reqMod (l := linkOf s n) _ (hreqs ▸ hq)
    have hreq' := (egressArb_reqOf_waiting (s := t) (n := n) (a := some r) (canSend_backoff (congrArg Requester.backoff hreq))).trans hreq
    have hlink := linkOf_linkMod t (fun l => egressArb t n (some r) (egressCut l)) hlent
    refine ⟨_, (exec_egressRequest_runs hn hclock).trans (congrArg _ hcuts), ?_⟩
    rw [hlink, hreq', egressArb_cntCut, hcut, hown]
    refine ⟨rfl, rfl, rfl, List.mem_cons_self, fun m hm => ?_, ?_⟩
    · rw [linkOf_linkMod_other t _ hm, ht, linkOf_linkMod_other _ _ hm]
      rfl
    · rw [ht]
      exact ⟨rfl, rfl⟩
  case waits =>
    intro s n r q k o hn hsend hclass
    change Host.Outcome.next (if n < 48 && !(clockStopped s (72 + n)) then egressRequest s n r else s) = _
    rw [egressRequest_waits hsend hclass, ite_self]
  case backoff =>
    intro s n r hn hlen hclock hr hreqs hback
    have hlink := linkOf_linkMod s (fun l => egressArb s n (some r) (reqMod l r fun q => { q with backoff := false })) hlen
    refine ⟨_, (exec_egressBackoffExpire_runs hn hclock).trans (congrArg _ (egressBackoff_ends hr hback)), ?_⟩
    have hr' : r < (linkOf s n).reqs.length := hreqs ▸ hr
    rw [hlink, egressArb_backoff (by simpa [reqMod] using hr'), reqOf_reqMod _ hr']
    exact ⟨rfl, fun m hm => linkOf_linkMod_other s _ hm, rfl, rfl⟩

end Sys2Proof.Machine
end

section
/-! SUPPORT. Received packets (R224, R225, R229, R232): each check of a packet that no wrong word of the ingress buffer holds. -/

namespace Sys2Proof.Machine

variable {s : State} {n : Nat} {p : Packet} {ok : Bool}

/-! ### Requests -/

theorem isRequest_ne_response {t : Nat} (h : isRequest t = true) : t ≠ 9 ∧ t ≠ 14 := by
  constructor <;> rintro rfl <;> exact absurd h (by decide)

/-- A request for this module on an up link leaves the ingress buffer and is checked. -/
theorem exec_requestReceive_checks {be : BufErr} (hup : linkUp s n = true) (hdst : p.dst = s.rig.active.moduleId) (h9 : p.type ≠ 9)
    (h14 : p.type ≠ 14) : exec (.requestReceive n p ok be) s = .next (requestCheck (ingressFree s n (flitsOf p)) n p ok be) :=
  congrArg _ (if_neg (by simp [hup, hdst, h9, h14]))

/-- A response for this module on an up link leaves the ingress buffer and is checked. -/
theorem exec_responseReceive_checks {be : BufErr} (hup : linkUp s n = true) (hdst : p.dst = s.rig.active.moduleId)
    (htype : p.type = 9 ∨ p.type = 14) :
    exec (.responseReceive n p ok be) s = .next (responseCheck (ingressFree s n (flitsOf p)) p ok be) :=
  congrArg _ (if_neg (by rcases htype with h | h <;> simp [hup, hdst, h]))

theorem requestCheck_bad {be : BufErr} (hbuf : bufBad be = true) : requestCheck s n p ok be = s := if_pos hbuf

theorem requestCheck_foreign (h : isRequest p.type = false ∨ lengthOk p = false) :
    requestCheck s n p ok [] = dropFab s fun f => { f with foreign := satAdd 16 f.foreign 1 } := by
  unfold requestCheck
  rw [if_neg (by decide), if_pos (by rcases h with h | h <;> simp [h])]

section Request

variable (hreq : isRequest p.type = true) (hlen : lengthOk p = true)
include hreq hlen

theorem requestCheck_noKey (hkey : noFabKey s = true) :
    requestCheck s n p ok [] = dropFab s fun f => { f with noKey := satAdd 16 f.noKey 1 } := by
  unfold requestCheck
  rw [if_neg (by decide), if_neg (by simp [hreq, hlen]), if_pos hkey]

theorem requestCheck_tagFail (hkey : noFabKey s = false) (htag : (holdsGen s p.keyGen && ok) = false) :
    requestCheck s n p ok [] = dropFab s fun f => { f with tagFail := satAdd 16 f.tagFail 1 } := by
  unfold requestCheck
  rw [if_neg (by decide), if_neg (by simp [hreq, hlen]), if_neg (by simp [hkey]), if_pos]
  rw [← Bool.not_and, htag]
  rfl

theorem requestCheck_window (hkey : noFabKey s = false) (hgen : holdsGen s p.keyGen = true) : requestCheck s n p true [] =
    if windowPass (windowGet s.fabric p.src p.keyGen) p.seq then
      if (routeOf (windowTake s p) p.src).isNone then dropFab (windowTake s p) fun f => { f with noRoute := satAdd 16 f.noRoute 1 }
      else if requestWaits (windowTake s p) n p then holdAccess (windowTake s p) (.requestReceive n p true)
      else requestAnswer (windowTake s p) n p
    else dropFab s fun f => { f with replayed := satAdd 16 f.replayed 1 } := by
  unfold requestCheck
  rw [if_neg (by decide), if_neg (by simp [hreq, hlen]), if_neg (by simp [hkey]), if_neg (by rw [hgen]; decide)]
  cases windowPass (windowGet s.fabric p.src p.keyGen) p.seq <;> rfl

theorem requestCheck_replayed (hkey : noFabKey s = false) (hgen : holdsGen s p.keyGen = true)
    (hmarked : p.seq ∈ windowGet s.fabric p.src p.keyGen) :
    requestCheck s n p true [] = dropFab s fun f => { f with replayed := satAdd 16 f.replayed 1 } := by
  rw [requestCheck_window hreq hlen hkey hgen, if_neg (by simp [windowPass, hmarked])]

theorem requestCheck_answers (hkey : noFabKey s = false) (hgen : holdsGen s p.keyGen = true)
    (hpass : windowPass (windowGet s.fabric p.src p.keyGen) p.seq = true) (hroute : (routeOf s p.src).isSome = true)
    (hgo : requestWaits (windowTake s p) n p = false) : requestCheck s n p true [] = requestAnswer (windowTake s p) n p := by
  have hsome : (routeOf (windowTake s p) p.src).isNone = false := Option.isNone_eq_false_iff.2 hroute
  rw [requestCheck_window hreq hlen hkey hgen, if_pos hpass, if_neg (by rw [hsome]; decide), if_neg (by rw [hgo]; decide)]

end Request

/-- A MSG waits for nothing, and its answer is OK: its effect comes as a row of its own (log entry 55). -/
theorem requestAnswer_msg (htype : p.type = 0xD) (hrig : s.rig.state ≠ .committing) :
    requestAnswer s n p = settle (respond s p 0 [] 0 13 (partySlot s p)) := by
  have hserve : requestServe s n p = ⟨s, .ok, [], 0, 13⟩ := by
    unfold requestServe
    rw [if_neg hrig, if_pos htype]
  rw [requestAnswer, hserve]
  rfl

theorem requestWaits_msg (htype : p.type = 0xD) : requestWaits s n p = false := by simp [requestWaits, htype]

/-! ### Responses -/

theorem responseCheck_bad {be : BufErr} (hbuf : bufBad be = true) : responseCheck s p ok be = s := if_pos hbuf

theorem responseCheck_tagFail (htag : (holdsGen s p.keyGen && ok) = false) : responseCheck s p ok [] = dropLate s true := by
  unfold responseCheck
  rw [if_neg (by decide), if_pos]
  rw [← Bool.not_and, htag]
  rfl

/-- A response that answers no held tracker is late. -/
theorem responseCheck_late (hgen : holdsGen s p.keyGen = true) (hpass : windowPass (windowGet s.fabric p.src p.keyGen) p.seq = true)
    (hnone : ∀ t ∈ s.fabric.trackers, ¬ (t.txn = p.txn ∧ t.seq = p.echo)) :
    responseCheck s p true [] = dropLate (windowTake s p) false := by
  have hfind : ((windowTake s p).fabric.trackers.find? fun t => t.txn == p.txn && t.seq == p.echo) = none := by
    refine List.find?_eq_none.2 fun t ht => ?_
    simpa using hnone t ht
  unfold responseCheck
  rw [if_neg (by decide), if_neg (by rw [hgen]; decide), if_neg (by rw [hpass]; decide)]
  dsimp only
  rw [hfind]

/-- An ACK that answers a held tracker ends its transaction. -/
theorem responseCheck_ack {t : Tracker} {cid : Nat} (hgen : holdsGen s p.keyGen = true)
    (hpass : windowPass (windowGet s.fabric p.src p.keyGen) p.seq = true) (htype : p.type = 14) (htracker : s.fabric.trackers = [t])
    (htxn : t.txn = p.txn) (hseq : t.seq = p.echo) (hown : t.owner = .command cid) :
    responseCheck s p true [] = settle (endTxns (windowTake s p) (fun u => u.txn == p.txn) (statusOfCode p.status)) := by
  have hfind : ((windowTake s p).fabric.trackers.find? fun t => t.txn == p.txn && t.seq == p.echo) = some t := by
    change (s.fabric.trackers.find? _) = _
    simp [htracker, htxn, hseq]
  unfold responseCheck
  rw [if_neg (by decide), if_neg (by rw [hgen]; decide), if_neg (by rw [hpass]; decide)]
  dsimp only
  rw [hfind]
  dsimp only
  rw [hown]
  dsimp only
  split <;> simp [htype]

/-- The end of the one transaction held, a command's, settled. -/
theorem settle_endTxns_one {t : Tracker} {cid : Nat} (st : Status) (hs : settled s) (hwait : s.fabric.waiting = [])
    (htracker : s.fabric.trackers = [t]) (hown : t.owner = .command cid) :
    settle (endTxns s (fun u => u.txn == t.txn) st) = settleOne (withoutTrackers s fun u => u.txn == t.txn) (.command cid) st :=
  settle_endTxns_commands (l := [cid]) st hs hwait (by simp [htracker, hown])

theorem withoutTrackers_one {t : Tracker} (htracker : s.fabric.trackers = [t]) :
    (withoutTrackers s fun u => u.txn == t.txn).fabric.trackers = [] := by
  simp [withoutTrackers, htracker]

end Sys2Proof.Machine
end

section
/-! CLAIMS. Received packets. -/

namespace Sys2Proof.Machine

/-- Settles O34: a clause for each check in its order; the packet's flits leave the ingress buffer before it, which no check reads. -/
theorem receivedPacketsAreChecked : Obligations.ReceivedPacketsAreChecked := by
  refine ⟨?foreign, ?noKey, ?tagFail, ?replayed, ?answered, ?msg, ?bad, ?lateTag, ?late, ?ack, ?timeout⟩
  case foreign =>
    rintro s _ n p ok hup hdst h9 h14 rfl h
    exact (exec_requestReceive_checks hup hdst h9 h14).trans (congrArg _ (requestCheck_foreign h))
  case noKey =>
    rintro s _ n p ok hup hdst hreq rfl hlen hkey
    obtain ⟨h9, h14⟩ := isRequest_ne_response hreq
    exact (exec_requestReceive_checks hup hdst h9 h14).trans (congrArg _ (requestCheck_noKey hreq hlen hkey))
  case tagFail =>
    rintro s _ n p ok hup hdst hreq rfl hlen hkey htag
    obtain ⟨h9, h14⟩ := isRequest_ne_response hreq
    exact (exec_requestReceive_checks hup hdst h9 h14).trans (congrArg _ (requestCheck_tagFail hreq hlen hkey htag))
  case replayed =>
    rintro s _ n p hup hdst hreq rfl hlen hkey hgen hmarked
    obtain ⟨h9, h14⟩ := isRequest_ne_response hreq
    exact (exec_requestReceive_checks hup hdst h9 h14).trans (congrArg _ (requestCheck_replayed hreq hlen hkey hgen hmarked))
  case answered =>
    rintro s _ n p hup hdst hreq rfl hlen hkey hgen hpass hroute hgo
    obtain ⟨h9, h14⟩ := isRequest_ne_response hreq
    exact (exec_requestReceive_checks hup hdst h9 h14).trans (congrArg _ (requestCheck_answers hreq hlen hkey hgen hpass hroute hgo))
  case msg =>
    rintro s _ n p hup hdst htype hlen rfl hkey hgen hpass hroute hrig
    have hreq : isRequest p.type = true := by rw [htype]; decide
    obtain ⟨h9, h14⟩ := isRequest_ne_response hreq
    have hanswers := requestCheck_answers (s := ingressFree s n (flitsOf p)) hreq hlen hkey hgen hpass hroute (requestWaits_msg (n := n) htype)
    exact (exec_requestReceive_checks hup hdst h9 h14).trans (congrArg _ (hanswers.trans (requestAnswer_msg htype hrig)))
  case bad =>
    rintro s n p ok be i hup hdst hbuf (⟨rfl, h9, h14⟩ | ⟨rfl, htype⟩)
    · rw [exec_requestReceive_checks hup hdst h9 h14, requestCheck_bad hbuf]
    · rw [exec_responseReceive_checks hup hdst htype, responseCheck_bad hbuf]
  case lateTag =>
    rintro s _ n p ok hup hdst htype rfl htag
    exact (exec_responseReceive_checks hup hdst htype).trans (congrArg _ (responseCheck_tagFail htag))
  case late =>
    rintro s _ n p hup hdst htype rfl hgen hpass hnone
    exact (exec_responseReceive_checks hup hdst htype).trans (congrArg _ (responseCheck_late hgen hpass hnone))
  case ack =>
    intro s n cid p t hup hdst htype hstatus hgen hpass htracker htxn hseq hown hs hwait
    have hack := responseCheck_ack (s := ingressFree s n (flitsOf p)) hgen hpass htype htracker htxn hseq hown
    have hs' : settled (windowTake (ingressFree s n (flitsOf p)) p) := hs
    rw [← htxn, settle_endTxns_one _ hs' hwait htracker hown, hstatus] at hack
    refine ⟨_, (exec_responseReceive_checks hup hdst (.inr htype)).trans (congrArg _ hack), ?_⟩
    exact ⟨withoutTrackers_one htracker, rfl, rfl⟩
  case timeout =>
    intro s cid t c htracker hown hs hwait hget hlive
    refine ⟨_, congrArg Host.Outcome.next (settle_endTxns_one .peerLost hs hwait htracker hown), ?_⟩
    exact ⟨withoutTrackers_one htracker, ⟨_, _, cmdGet_cmdEnd _ cid (resultOf .peerLost) c hget hlive, rfl, rfl⟩, rfl⟩

end Sys2Proof.Machine
end

section
/-! SUPPORT. The messages of Dailies (R222, R274): one packet at requester 9, whose answer changes nothing; and when a twin has nothing to
mend after a change of its own fields. -/

namespace Sys2Proof.Machine

/-! ### What decides whether a twin mends something -/

/-- Whatever else a row changed of the dailies, the ranges found broken are those from before it. -/
structure RecoverKept (s t : State) : Prop where
  ended : t.fabric.ended = s.fabric.ended
  role : t.dly.role = s.dly.role
  mirrorIds : t.dly.mirrorIds = s.dly.mirrorIds
  promoted : t.dly.promoted = s.dly.promoted
  mem : t.mem = s.mem
  active : t.rig.active = s.rig.active

theorem SettleKept.recoverKept {s t : State} (h : SettleKept s t) : RecoverKept s t :=
  ⟨h.ended, congrArg Dailies.role h.dly, congrArg Dailies.mirrorIds h.dly, congrArg Dailies.promoted h.dly, h.mem, h.active⟩

theorem RecoverKept.trans {a b c : State} (h : RecoverKept a b) (k : RecoverKept b c) : RecoverKept a c :=
  ⟨k.ended.trans h.ended, k.role.trans h.role, k.mirrorIds.trans h.mirrorIds, k.promoted.trans h.promoted, k.mem.trans h.mem,
    k.active.trans h.active⟩

theorem RecoverKept.brokenRanges {s t : State} (h : RecoverKept s t) : brokenRanges t = brokenRanges s := by
  simp only [Machine.brokenRanges, pairRanges, isMirrored, rangeCfg, h.role, h.mirrorIds, h.promoted, h.mem, h.active]

theorem RecoverKept.settle {s t : State} (h : RecoverKept s t) (hs : settled s) : settle t = t :=
  settle_idle t (h.ended.trans hs.1) (by rw [h.role, h.brokenRanges]; exact hs.2)

/-- A module whose pair does not stand mends nothing. -/
theorem settle_unpaired {t : State} (hended : t.fabric.ended = []) (hpair : paired t = false) : settle t = t := by
  rw [settle, settleF_idle _ _ hended, twinRecover, if_neg (by simp [hpair])]

/-- A primary mends nothing. -/
theorem settle_primary {t : State} (hended : t.fabric.ended = []) (hrole : t.dly.role = .primary) : settle t = t :=
  settle_idle t hended (by rw [hrole]; nofun)

/-! ### What a message leaves -/

/-- A state after messages of Dailies: the fabric and the free values used have changed, and no transaction has ended. -/
def MessageSent (s t : State) : Prop :=
  ∃ fabric freeCtr, t = { s with fabric := fabric, freeCtr := freeCtr } ∧ fabric.ended = s.fabric.ended

namespace MessageSent

theorem refl (s : State) : MessageSent s s := ⟨_, _, rfl, rfl⟩

theorem trans {s t u : State} (h : MessageSent s t) (k : MessageSent t u) : MessageSent s u := by
  obtain ⟨_, _, rfl, hended⟩ := h
  obtain ⟨_, _, rfl, kended⟩ := k
  exact ⟨_, _, rfl, kended.trans hended⟩

theorem foldl {α : Type} (f : State → α → State) (h : ∀ t x, MessageSent t (f t x)) : ∀ (l : List α) (s : State),
    MessageSent s (l.foldl f s)
  | [], s => refl s
  | x :: l, s => (h s x).trans (foldl f h l (f s x))

variable {s t : State} (h : MessageSent s t)
include h

theorem ended : t.fabric.ended = s.fabric.ended := by obtain ⟨_, _, rfl, hended⟩ := h; exact hended

theorem dly : t.dly = s.dly := by obtain ⟨_, _, rfl, -⟩ := h; rfl

theorem mem : t.mem = s.mem := by obtain ⟨_, _, rfl, -⟩ := h; rfl

theorem keys : t.keys = s.keys := by obtain ⟨_, _, rfl, -⟩ := h; rfl

theorem sp : t.sp = s.sp := by obtain ⟨_, _, rfl, -⟩ := h; rfl

theorem settleKept : SettleKept s t := by obtain ⟨_, _, rfl, hended⟩ := h; exact ⟨hended, rfl, rfl, rfl⟩

end MessageSent

theorem noteEnd_message (f : Fabric) (st : Status) : noteEnd f .message st = f := if_pos rfl

theorem request_message (s : State) {w : Waiting} (howner : w.owner = .message) : MessageSent s (request s w) := by
  unfold request issue
  rw [howner]
  simp only [noteEnd_message]
  repeat' split
  all_goals exact ⟨_, _, rfl, rfl⟩

theorem dlyMsg_message (dst : Nat) (twin : Bool) (kind : Nat) (data : List Byte) (s : State) :
    MessageSent s (dlyMsg dst twin kind data .message s) :=
  .foldl _ (fun t _ => request_message t rfl) _ s

/-! ### The packet of a message -/

/-- A request for which a tracker and a link are found waits at its requester on that link. -/
theorem request_queues {s : State} {w : Waiting} {n : Nat} (htracker : trackerFree s (reservedReq w.requester) w.space = true)
    (horig : canOriginate s = true) (hlink : (if w.twinOnly then pickTwinLink s else pickLink s w.pkt.dst) = some n)
    (hn : n < s.fabric.links.length) (hreq : w.requester < (linkOf s n).reqs.length) :
    ∃ o, (reqOf (linkOf (request s w) n) w.requester).queue = (reqOf (linkOf s n) w.requester).queue ++ [o] ∧
      o.pkt.type = w.pkt.type ∧ o.pkt.dst = w.pkt.dst := by
  refine ⟨{ pkt := stampPacket s w.pkt (freeTxn s), txn := some (freeTxn s), space := w.space }, ?_, rfl, rfl⟩
  have hown : ∀ o, linkOf (enqueue s n w.requester o) n = reqMod (linkOf s n) w.requester fun q => { q with queue := q.queue ++ [o] } :=
    fun o => linkOf_linkMod s _ hn
  rw [request, if_pos htracker, issue, if_pos horig, hlink]
  change (reqOf (linkOf (enqueue s n w.requester _) n) w.requester).queue = _
  rw [hown, reqOf_reqMod _ hreq]

/-- A message of one packet waits at requester 9 of its link, and nothing but the fabric and the free values changes. -/
theorem dlyMsg_queues {s : State} {dst : Nat} {twin : Bool} (kind : Nat) {data : List Byte} {n : Nat} (hlen : data.length ≤ 447)
    (htracker : trackerFree s true (systemSlot s) = true) (horig : canOriginate s = true)
    (hlink : (if twin then pickTwinLink s else pickLink s dst) = some n) (hn : n < s.fabric.links.length)
    (hreqs : (linkOf s n).reqs.length = 14) :
    ∃ o, (reqOf (linkOf (dlyMsg dst twin kind data .message s) n) 9).queue = (reqOf (linkOf s n) 9).queue ++ [o] ∧
      o.pkt.type = 0xD ∧ o.pkt.dst = dst := by
  rw [dlyMsg, msgPieces, if_pos hlen]
  exact request_queues (w := { pkt := msgPacket dst 1 _, requester := 9, twinOnly := twin, owner := .message, space := systemSlot s })
    htracker horig hlink hn (by rw [hreqs]; exact (by decide : 9 < 14))

end Sys2Proof.Machine
end

section
/-! SUPPORT. What accesses of main memory leave of the dailies: a write marks the mirror map (R267), and the hold and the mirror ranges are
read and written as any range is. -/

namespace Sys2Proof.Machine

/-- A state after accesses of main memory: of the dailies only the mirror map and the lines that could not be read have changed. -/
def AccessWork (s t : State) : Prop :=
  ∃ mem ciph err freeCtr sp map failed, t = { s with
    mem := mem, ciph := ciph, err := err, freeCtr := freeCtr, sp := sp, dly := { s.dly with map := map, failed := failed } }

namespace AccessWork

theorem refl (s : State) : AccessWork s s := ⟨_, _, _, _, _, _, _, rfl⟩

theorem trans {s t u : State} (h : AccessWork s t) (k : AccessWork t u) : AccessWork s u := by
  obtain ⟨_, _, _, _, _, _, _, rfl⟩ := h
  obtain ⟨_, _, _, _, _, _, _, rfl⟩ := k
  exact ⟨_, _, _, _, _, _, _, rfl⟩

end AccessWork

theorem ReadWork.access {s t : State} (h : ReadWork s t) : AccessWork s t := by
  obtain ⟨_, _, _, _, rfl⟩ := h
  exact ⟨_, _, _, _, _, _, _, rfl⟩

/-! ### Writes (R267, R295) -/

theorem mergeOldest_access (s : State) (stack : Nat) : AccessWork s (mergeOldest s stack) := by
  unfold mergeOldest mergeStore
  repeat' split
  all_goals exact ⟨_, _, _, _, _, _, _, rfl⟩

theorem mergeHold_access : ∀ (fuel : Nat) (s : State) (stack key lines : Nat), AccessWork s (mergeHold fuel s stack key lines)
  | 0, _, _, _, _ => ⟨_, _, _, _, _, _, _, rfl⟩
  | fuel + 1, s, stack, key, lines => by
    simp only [mergeHold]
    split
    · exact (mergeOldest_access s stack).trans (mergeHold_access fuel _ _ _ _)
    · exact ⟨_, _, _, _, _, _, _, rfl⟩

theorem markMirror_access (s : State) (n a size : Nat) : AccessWork s (markMirror s n a size) := by
  unfold markMirror
  split <;> exact ⟨_, _, _, _, _, _, _, rfl⟩

theorem mergeBytes_access (s : State) (n a : Nat) (bs : List Byte) : AccessWork s (mergeBytes s n a bs) :=
  AccessWork.trans ⟨_, _, _, _, _, _, _, rfl⟩ (markMirror_access _ _ _ _)

/-- The read that fills a unit of which a write covers a part, and the unit's place in the merge buffer. -/
theorem mergeFilled_access (s : State) (base u stack key lines : Nat) (l : List Nat) :
    AccessWork s (mergeHold 512 (if l.isEmpty then s else freeUse (putPlain s base (unitBytesOf s base u l)) u) stack key lines) := by
  refine AccessWork.trans ?_ (mergeHold_access 512 _ _ _ _)
  split <;> exact ⟨_, _, _, _, _, _, _, rfl⟩

theorem writeInUnit_access (via : Bool) (s : State) (w : Who) (n a : Nat) (bs : List Byte) :
    AccessWork s (writeInUnit via s w n a bs).1 := by
  have hpath : AccessWork s (if (rangeCfg s n).mode = 2 then
      fetchPath false s n (a / unitBytes (rangeCfg s n) * unitBytes (rangeCfg s n)) else (s, none, 0)).1 := by
    split
    · exact (fetchPath_work _ _ _ _).access
    · exact .refl s
  unfold writeInUnit
  dsimp only
  split
  · exact mergeBytes_access s n a bs
  · generalize (if (rangeCfg s n).mode = 2 then
      fetchPath false s n (a / unitBytes (rangeCfg s n) * unitBytes (rangeCfg s n)) else (s, none, 0)) = p at hpath ⊢
    have hread := hpath.trans (readUnit_work false p.1 n (a / unitBytes (rangeCfg s n) * unitBytes (rangeCfg s n))).access
    split
    · dsimp only
      exact hpath.trans (failRange_work _ _ _ _ _ _).access
    · split
      · dsimp only
        exact hpath.trans (failRange_work _ _ _ _ _ _).access
      · split
        · exact (hpath.trans ⟨_, _, _, _, _, _, _, rfl⟩).trans (markMirror_access _ _ _ _)
        · split
          · exact (hread.trans (mergeFilled_access _ _ _ _ _ _ _)).trans (mergeBytes_access _ n a bs)
          · exact hread.trans (failRange_work _ _ _ _ _ _).access

theorem writePhysF_access (via : Bool) (w : Who) : ∀ (fuel a : Nat) (bs : List Byte) (s : State),
    AccessWork s (writePhysF via w fuel a bs s).st
  | 0, _, _, s => .refl s
  | fuel + 1, _, [], s => .refl s
  | fuel + 1, a, b :: bs, s => by
    simp only [writePhysF]
    split
    · split
      · exact (writeInUnit_access _ _ _ _ _ _).trans (writePhysF_access via w fuel _ _ _)
      · exact writeInUnit_access _ _ _ _ _ _
    · exact .refl s
    · exact .refl s

theorem writeRuns_access (via : Bool) (w : Who) : ∀ (runs : List (Nat × Nat)) (bs : List Byte) (s : State),
    AccessWork s (writeRuns via w runs bs s).st
  | [], _, s => .refl s
  | (a, n) :: runs, bs, s => by
    have hwrite := writePhysF_access via w (n + 1) a (bs.take n) s
    simp only [writeRuns]
    split
    · exact hwrite.trans (writeRuns_access via w runs _ _)
    · exact hwrite

theorem writeSpace_access (s : State) (c : Cmd) (v : Nat) (bs : List Byte) : AccessWork s (writeSpace s c v bs).st :=
  (writeRuns_access false _ _ _ s).trans ⟨_, _, _, _, _, _, _, rfl⟩

/-! ### The hold and the mirror ranges (R272) -/

theorem foldl_access {α β : Type} (f : State × β → α → State × β) (h : ∀ t x, AccessWork t.1 (f t x).1) :
    ∀ (l : List α) (t : State × β), AccessWork t.1 (l.foldl f t).1
  | [], t => .refl t.1
  | x :: l, t => (h t x).trans (foldl_access f h l (f t x))

theorem loadLines_access (s : State) (m : List (Nat × Nat)) : AccessWork s (loadLines s m).1 :=
  foldl_access _ (fun t _ => (readInUnit_work t.1 {} 32 _ 64).access) m (s, some [])

theorem putLines_access (s : State) (ls : List (Nat × List Byte)) : AccessWork s (putLines s ls).1 :=
  foldl_access _ (fun t _ => writePhysF_access false {} _ _ _ t.1) _ (s, [])

end Sys2Proof.Machine
end

section
/-! SUPPORT. A twin's hold (R268, R272, R273, R282): what applying the committed intervals leaves, whether its accesses succeed or the pair
lapses by them, and a print that is dropped. -/

namespace Sys2Proof.Machine

/-! ### What a lapse leaves -/

/-- A lapse and the refills of what is broken leave a twin its role, epoch, generations, pairing event and print; intervals that are empty
stay empty. -/
structure LapseKept (s t : State) : Prop where
  ended : t.fabric.ended = s.fabric.ended
  role : t.dly.role = s.dly.role
  epoch : t.dly.epoch = s.dly.epoch
  committed : t.dly.committed = s.dly.committed
  applied : t.dly.applied = s.dly.applied
  cntPromote : t.dly.cntPromote = s.dly.cntPromote
  pairEvent : t.dly.pairEvent = s.dly.pairEvent
  print : t.dly.print = s.dly.print
  opened : s.dly.opened = [] → t.dly.opened = []
  sealed : s.dly.sealed = [] → t.dly.sealed = []
  ready : s.dly.ready = [] → t.dly.ready = []

namespace LapseKept

theorem refl (s : State) : LapseKept s s := ⟨rfl, rfl, rfl, rfl, rfl, rfl, rfl, rfl, id, id, id⟩

theorem trans {a b c : State} (h : LapseKept a b) (k : LapseKept b c) : LapseKept a c :=
  ⟨k.ended.trans h.ended, k.role.trans h.role, k.epoch.trans h.epoch, k.committed.trans h.committed, k.applied.trans h.applied,
    k.cntPromote.trans h.cntPromote, k.pairEvent.trans h.pairEvent, k.print.trans h.print, k.opened ∘ h.opened, k.sealed ∘ h.sealed,
    k.ready ∘ h.ready⟩

theorem foldl {α : Type} (f : State → α → State) (h : ∀ t x, LapseKept t (f t x)) : ∀ (l : List α) (s : State), LapseKept s (l.foldl f s)
  | [], s => refl s
  | x :: l, s => (h s x).trans (foldl f h l (f s x))

/-- What changes neither the fabric nor the dailies. -/
theorem of_eq {s t : State} (hfabric : t.fabric = s.fabric) (hdly : t.dly = s.dly) : LapseKept s t := by
  refine ⟨?_, ?_, ?_, ?_, ?_, ?_, ?_, ?_, ?_, ?_, ?_⟩
  all_goals simp only [hfabric, hdly, imp_self]

end LapseKept

theorem lapseTwin_kept (tell : Bool) (s : State) : LapseKept s (lapseTwin tell s) :=
  ⟨rfl, rfl, rfl, rfl, rfl, rfl, rfl, rfl, fun _ => rfl, id, id⟩

theorem refill_kept (s : State) (n : Nat) : LapseKept s (refill s n) := by
  unfold refill
  dsimp only
  repeat' split
  all_goals exact .of_eq rfl rfl

theorem ownReinit_kept (s : State) (n : Nat) : LapseKept s (ownReinit s n) := by
  unfold ownReinit
  split
  · exact .refl s
  · exact refill_kept s n

theorem mirrorFails_kept (s : State) (fs : List (Nat × Status)) : LapseKept s (mirrorFails s fs) := by
  unfold mirrorFails
  split
  · exact .refl s
  · exact (lapseTwin_kept true s).trans (.foldl _ ownReinit_kept _ _)

/-! ### Committed intervals applied (R272, step 7) -/

/-- The ready intervals are gone, and the applied generation is the committed one. -/
def readied (s : State) : State := dlyMod s fun d => { d with ready := [], applied := d.committed }

theorem AccessWork.readied {s t : State} (h : AccessWork s t) : LapseKept (readied s) (readied t) := by
  obtain ⟨_, _, _, _, _, _, _, rfl⟩ := h
  exact ⟨rfl, rfl, rfl, rfl, rfl, rfl, rfl, rfl, id, id, id⟩

/-- A hold that cannot be read ends its lines. -/
theorem holdFails_readied (s : State) :
    LapseKept (readied s) (holdFails true (dlyMod s fun d => { d with applied := d.committed })) := by
  unfold holdFails
  refine LapseKept.trans ?_ (ownReinit_kept _ 32)
  exact ⟨rfl, rfl, rfl, rfl, rfl, rfl, rfl, rfl, fun _ => rfl, fun _ => rfl, id⟩

theorem applyReady_kept (s : State) : LapseKept (readied s) (applyReady s) := by
  have hload := loadLines_access s s.dly.ready
  unfold applyReady
  dsimp only
  split
  · exact hload.readied.trans (holdFails_readied _)
  · exact ((hload.trans (putLines_access _ _)).readied).trans (mirrorFails_kept _ _)

/-! ### A print dropped (R282) -/

/-- What the drop of a print leaves: no print runs. -/
structure PrintDropped (s t : State) : Prop where
  ended : t.fabric.ended = s.fabric.ended
  role : t.dly.role = s.dly.role
  epoch : t.dly.epoch = s.dly.epoch
  committed : t.dly.committed = s.dly.committed
  cntPromote : t.dly.cntPromote = s.dly.cntPromote
  pairEvent : t.dly.pairEvent = s.dly.pairEvent
  opened : s.dly.opened = [] → t.dly.opened = []
  sealed : s.dly.sealed = [] → t.dly.sealed = []
  unprinted : printing t = false

theorem printDrop_idle {s : State} (h : printing s = false) : printDrop s = s := by
  unfold printDrop
  rw [h]
  rfl

/-- A print that has ended is no print in progress. -/
theorem printDrop_dropped (s : State) : PrintDropped s (printDrop s) := by
  cases hprint : printing s with
  | false =>
    rw [printDrop_idle hprint]
    exact ⟨rfl, rfl, rfl, rfl, rfl, rfl, id, id, hprint⟩
  | true =>
    have hkept : LapseKept _ (printEnd s 5) := applyReady_kept _
    unfold printDrop
    rw [if_pos hprint]
    refine ⟨hkept.ended, hkept.role, hkept.epoch, hkept.committed, hkept.cntPromote, hkept.pairEvent, hkept.opened, hkept.sealed, ?_⟩
    have hover : (printEnd s 5).dly.print.state = 5 := congrArg _ hkept.print
    change (decide (1 ≤ (printEnd s 5).dly.print.state) && decide ((printEnd s 5).dly.print.state ≤ 3)) = false
    rw [hover]
    rfl

end Sys2Proof.Machine
end

section
/-! SUPPORT. Promotion (Table 10-5), and a primary that has lost its twin: its cut ends TWIN_LOST (R273, R274). -/

namespace Sys2Proof.Machine

/-! ### Promotion (R276) -/

/-- What the steps of Table 10-5 make of a module. -/
structure Promoted (s t : State) : Prop where
  ended : t.fabric.ended = s.fabric.ended
  role : t.dly.role = .primary
  promoted : t.dly.promoted = true
  epoch : t.dly.epoch = (s.dly.epoch + 1) % 2 ^ 32
  state : t.dly.state = .unpaired
  opened : t.dly.opened = []
  sealed : t.dly.sealed = []
  ready : t.dly.ready = []
  applied : t.dly.applied = s.dly.committed
  committed : t.dly.committed = s.dly.committed
  cntPromote : t.dly.cntPromote = satAdd 32 s.dly.cntPromote 1

theorem promote_promoted (s : State) : Promoted s (promote s) := by
  have hdrop := printDrop_dropped (dlyMod s fun d => { d with opened := [], sealed := [], sealedIntervals := 0, sealedGen := none })
  have happly := applyReady_kept
    (printDrop (dlyMod s fun d => { d with opened := [], sealed := [], sealedIntervals := 0, sealedGen := none }))
  have hcommitted := happly.committed.trans hdrop.committed
  exact {
    ended := happly.ended.trans hdrop.ended
    role := rfl
    promoted := rfl
    epoch := congrArg (fun e => (e + 1) % 2 ^ 32) (happly.epoch.trans hdrop.epoch)
    state := rfl
    opened := happly.opened (hdrop.opened rfl)
    sealed := happly.sealed (hdrop.sealed rfl)
    ready := happly.ready rfl
    applied := happly.applied.trans hdrop.committed
    committed := hcommitted
    cntPromote := congrArg (satAdd 32 · 1) (happly.cntPromote.trans hdrop.cntPromote) }

/-- A commit of the sealed intervals ends no transaction, and its generation is the committed one. -/
theorem commitSealed_committed (s : State) (gen : Nat) :
    (commitSealed s gen).fabric.ended = s.fabric.ended ∧ (commitSealed s gen).dly.committed = gen := by
  unfold commitSealed
  dsimp only
  split
  · exact ⟨rfl, rfl⟩
  · exact ⟨(applyReady_kept _).ended, (applyReady_kept _).committed⟩

/-! ### The end of a cut (R272) -/

theorem groupNext_access (s : State) (c : Cmd) (group seq : Nat) : AccessWork s (groupNext s c group seq) := by
  unfold groupNext groupPut colPut
  split
  · exact .refl s
  · exact writeSpace_access _ _ _ _

theorem groupNext_charged (s : State) (c : Cmd) (group seq : Nat) : CmdsCharged s (groupNext s c group seq) := by
  unfold groupNext groupPut colPut
  split
  · exact .refl s
  · exact writeSpace_charged _ _ _ _

/-- What the end of a cut leaves: none runs, its command has ended, and the pair is as it was. -/
structure CutEnded (cid : Nat) (st : Status) (s t : State) : Prop where
  ended : t.fabric.ended = s.fabric.ended
  role : t.dly.role = s.dly.role
  state : t.dly.state = s.dly.state
  pairEvent : t.dly.pairEvent = s.dly.pairEvent
  cut : t.dly.cut = none
  ends : ∀ c, cmdGet s cid = some c → cmdLive c = true → endsWith t cid st

theorem cutEnd_ended (s : State) (k : CutRun) (st : Status) (hst : (resultOf st).status = st) :
    CutEnded k.cid st s (cutEnd s k st) := by
  have hcut : ∀ u, AccessWork (dlyMod s fun d => { d with
        cut := none, early := d.early.filter fun e => e.2.1 != k.gen, stale := d.stale ++ verdictsDue s k }) u → CmdsCharged s u →
      CutEnded k.cid st s (cmdEnd u k.cid (resultOf st)) := by
    rintro u ⟨_, _, _, _, _, _, _, rfl⟩ hcharged
    exact ⟨rfl, rfl, rfl, rfl, rfl, fun c hget hlive => hst ▸ hcharged.cmdEnd_ends _ hget hlive⟩
  unfold cutEnd
  dsimp only
  split
  · exact hcut _ (groupNext_access _ _ _ _) (CmdsCharged.trans (.of_eq rfl) (groupNext_charged _ _ _ _))
  · exact hcut _ (.refl _) (.of_eq rfl)

theorem notReady_message (s : State) (k : CutRun) : MessageSent s (notReady s k) :=
  .foldl _ (fun t m => dlyMsg_message m false 0x14 _ t) _ s

/-- What the loss of its twin leaves of a primary's cut. -/
structure CutLost (s t : State) : Prop where
  ended : t.fabric.ended = s.fabric.ended
  role : t.dly.role = s.dly.role
  state : t.dly.state = s.dly.state
  pairEvent : t.dly.pairEvent = s.dly.pairEvent
  cut : t.dly.cut = none
  ends : ∀ k c, s.dly.cut = some k → cmdGet s k.cid = some c → cmdLive c = true → endsWith t k.cid .twinLost

/-- A cut that ends TWIN_LOST after a step that kept the pair and the commands is lost. -/
theorem CutEnded.lost {s u t : State} {k : CutRun} (h : CutEnded k.cid .twinLost u t) (hcut : s.dly.cut = some k)
    (hended : u.fabric.ended = s.fabric.ended) (hrole : u.dly.role = s.dly.role) (hstate : u.dly.state = s.dly.state)
    (hevent : u.dly.pairEvent = s.dly.pairEvent) (hsp : u.sp = s.sp) : CutLost s t where
  ended := h.ended.trans hended
  role := h.role.trans hrole
  state := h.state.trans hstate
  pairEvent := h.pairEvent.trans hevent
  cut := h.cut
  ends := by
    rintro k' c hk' hget hlive
    obtain rfl : k = k' := Option.some.inj (hcut.symm.trans hk')
    exact h.ends c ((congrArg (fun x : Spaces => x.cmds.find? fun d : Cmd => d.id == k.cid) hsp).trans hget) hlive

theorem cutTwinLost_lost (s : State) : CutLost s (cutTwinLost s) := by
  unfold cutTwinLost
  split
  · next hcut => exact ⟨rfl, rfl, rfl, rfl, hcut, fun k c hk => by rw [hcut] at hk; cases hk⟩
  · next k hcut =>
    split
    · exact (cutEnd_ended (cutCommitted s k) k .twinLost rfl).lost hcut rfl rfl rfl rfl rfl
    · have hsent : MessageSent s (if k.stage < 3 then notReady s k else s) := by
        split
        · exact notReady_message s k
        · exact .refl s
      obtain ⟨_, _, heq, hended⟩ := hsent
      rw [heq]
      exact (cutEnd_ended _ k .twinLost rfl).lost hcut hended rfl rfl rfl rfl

/-! ### A primary alone (R274) -/

/-- A primary that has lost its twin, before its cut ends. -/
def aloneBegun (s : State) : State :=
  dlyMod (pairEvent s .twinLost) fun d => { d with state := .unpaired, suspected := false, rewinding := false, offer := none }

theorem primaryAlone_lost (s : State) : CutLost (aloneBegun s) (primaryAlone s) := cutTwinLost_lost _

end Sys2Proof.Machine
end

section
/-! SUPPORT. The rows of loss and promotion, case by case (R274, R275, Table 10-4). -/

namespace Sys2Proof.Machine

variable {s : State}

/-! ### Heartbeats and probes -/

/-- The heartbeat tells a lapse once: what is due is told by it. -/
def lapseTold (s : State) : State := dlyMod s fun d => { d with lapseDue := false }

/-- A heartbeat's data: three counts and two flags. -/
theorem heartbeat_length (a b c d e : Nat) : (natLe 4 a ++ natLe 4 b ++ natLe 4 c ++ natLe 1 d ++ natLe 1 e).length ≤ 447 := by
  simp [natLe_length]

theorem heartbeatSend_paired (hpair : paired s = true) : ∃ data : List Byte, data.length ≤ 447 ∧
    heartbeatSend s = dlyMsg s.dly.partner true 0x18 data .message (lapseTold s) :=
  ⟨_, heartbeat_length _ _ _ _ _, if_pos hpair⟩

theorem heartbeatSend_unpaired (hpair : paired s = false) : heartbeatSend s = s := if_neg (by simp [hpair])

theorem heartbeatReceive_unpaired (r : HoldReport) (hpair : paired s = false) : heartbeatReceive s r = s := if_neg (by simp [hpair])

theorem heartbeatReceive_kept {r : HoldReport} (hpair : paired s = true) (h : r.lapsed = false ∨ s.dly.role ≠ .primary) :
    heartbeatReceive s r = dlyMod s fun d => { d with report := r } := by
  refine (if_pos hpair).trans (if_neg ?_)
  rcases h with h | h <;> simp [h]

theorem heartbeatReceive_lapsed {r : HoldReport} (hpair : paired s = true) (hlapsed : r.lapsed = true) (hrole : s.dly.role = .primary) :
    heartbeatReceive s r = lapsePrimary (dlyMod s fun d => { d with report := r }) :=
  (if_pos hpair).trans (if_pos (by simp [hlapsed, hrole]))

theorem probeReceive_partner (hrole : s.dly.role ≠ .none) :
    probeReceive s s.dly.partner = dlyMsg s.dly.partner false 0x1A [] .message s := if_pos (by simp [hrole])

theorem probeReceive_other {src : Nat} (h : s.dly.role = .none ∨ src ≠ s.dly.partner) : probeReceive s src = s := by
  refine if_neg ?_
  rcases h with h | h <;> simp [h]

/-- A partner is suspected, by one probe. -/
theorem partnerSuspect_suspects (hpair : paired s = true) :
    MessageSent (dlyMod s fun d => { d with suspected := true }) (partnerSuspect s) := by
  unfold partnerSuspect
  cases hsuspected : s.dly.suspected with
  | true =>
    have hsame : (dlyMod s fun d => { d with suspected := true }) = s := by
      rw [← hsuspected]
      rfl
    simpa [hsame] using MessageSent.refl s
  | false => simpa [hpair] using dlyMsg_message _ _ _ _ _

/-! ### A lost partner -/

/-- A probe without an answer, or a leave message from the partner of a standing pair (Table 10-4). -/
def LostPartner (s : State) (i : Instr) : Prop :=
  (i = .probeTimeout ∧ s.dly.suspected = true) ∨ (i = .leaveReceive s.dly.partner ∧ paired s = true)

/-- A twin that has lost its partner decides on its promotion. -/
theorem exec_lostPartner_twin {i : Instr} (h : LostPartner s i) (hrole : s.dly.role = .twin) :
    ∃ st, exec i s = .next (settle (decidePromote s st)) := by
  rcases h with ⟨rfl, hsuspected⟩ | ⟨rfl, hpair⟩
  · have hstep : probeTimeout s = decidePromote s .peerLost := (if_pos hsuspected).trans (if_pos hrole)
    exact ⟨_, congrArg (fun t => Host.Outcome.next (settle t)) hstep⟩
  · have hstep : leaveReceive s s.dly.partner = decidePromote s .twinLost := (if_pos (by simp [hpair])).trans (if_pos hrole)
    exact ⟨_, congrArg (fun t => Host.Outcome.next (settle t)) hstep⟩

/-- A primary that has lost its partner, or whose probe the partner answers, goes on alone. -/
theorem exec_lostPartner_primary {i : Instr} (hrole : s.dly.role = .primary)
    (h : (i = .probeTimeout ∧ s.dly.suspected = true) ∨ (i = .probeAnswerReceive s.dly.partner ∧ s.dly.suspected = true) ∨
      (i = .leaveReceive s.dly.partner ∧ paired s = true)) : exec i s = .next (settle (primaryAlone s)) := by
  have hnot : s.dly.role ≠ .twin := by rw [hrole]; decide
  rcases h with ⟨rfl, hsuspected⟩ | ⟨rfl, hsuspected⟩ | ⟨rfl, hpair⟩
  · have hstep : probeTimeout s = primaryAlone s := ((if_pos hsuspected).trans (if_neg hnot)).trans (if_pos hrole)
    exact congrArg (fun t => Host.Outcome.next (settle t)) hstep
  · have hstep : probeAnswer s s.dly.partner = primaryAlone s := ((if_pos (by simp [hsuspected])).trans (if_neg hnot)).trans (if_pos hrole)
    exact congrArg (fun t => Host.Outcome.next (settle t)) hstep
  · have hstep : leaveReceive s s.dly.partner = primaryAlone s := ((if_pos (by simp [hpair])).trans (if_neg hnot)).trans (if_pos hrole)
    exact congrArg (fun t => Host.Outcome.next (settle t)) hstep

theorem decidePromote_decided (st : Status) (h : s.dly.sealedGen = none) : decidePromote s st = promote (pairEvent s st) :=
  if_neg (by change ¬ (s.dly.sealedGen.isSome = true); simp [h])

/-- A twin in doubt, that prints nothing. -/
def doubt (s : State) (st : Status) : State := dlyMod (pairEvent s st) fun d => { d with state := .inDoubt, suspected := false }

theorem decidePromote_inDoubt {g : Nat × Nat} (st : Status) (h : s.dly.sealedGen = some g) (hprint : printing s = false) :
    decidePromote s st = doubt s st := by
  have hidle : printDrop (pairEvent s st) = pairEvent s st := printDrop_idle hprint
  unfold decidePromote
  rw [if_pos (by change s.dly.sealedGen.isSome = true; rw [h]; rfl), hidle]
  rfl

/-- A twin that is orphaned: a print in progress is dropped. -/
def orphan (s : State) : State :=
  dlyMod (printDrop (pairEvent s .twinLost)) fun d => { d with state := .orphaned, suspected := false, offer := none }

theorem probeAnswer_twin (hrole : s.dly.role = .twin) (hsuspected : s.dly.suspected = true) : probeAnswer s s.dly.partner = orphan s :=
  (if_pos (by simp [hsuspected])).trans (if_pos hrole)

/-! ### DETACH and RESOLVE -/

section Answers

variable {p : Port} (tag : Nat) (h : mayWrite s p)
include h

theorem mgmtAgain_may (f : State → Answer) : mgmtAgain p tag f s = mgmtReply (f s).st p tag (f s).status (f s).data := by
  rw [mgmtAgain, mgmtRun_live _ _ _ _ h.1.1]
  simp [lockTest, h.2]

theorem exec_detach_may : exec (.detach p tag) s = .next (settle (mgmtReply (detach s).st p tag (detach s).status (detach s).data)) :=
  congrArg Host.Outcome.next ((mgmtTurn_now _ _ _ _ h.1).trans (congrArg settle (mgmtAgain_may tag h detach)))

theorem exec_resolve_may (b : Bool) :
    exec (.resolve p tag b) s = .next (settle (mgmtReply (resolve b s).st p tag (resolve b s).status (resolve b s).data)) :=
  congrArg Host.Outcome.next ((mgmtTurn_now _ _ _ _ h.1).trans (congrArg settle (mgmtAgain_may tag h (resolve b))))

end Answers

/-- A DLY_CTRL command's answer leaves nothing to settle where the command left nothing. -/
theorem settle_dlyAnswer {t : State} (h : RecoverKept s t) (hs : settled s) (p : Port) (tag : Nat) (st : Status) :
    settle (mgmtReply (dlyAnswer t st).st p tag (dlyAnswer t st).status (dlyAnswer t st).data) =
      mgmtReply { t with dly := { t.dly with lastStatus := st } } p tag st [] := by
  have hanswer : RecoverKept t (dlyAnswer t st).st := ⟨rfl, rfl, rfl, rfl, rfl, rfl⟩
  exact ((h.trans hanswer).trans (mgmtReply_frame _ p tag st []).settleKept.recoverKept).settle hs

/-- A primary's answer leaves nothing to settle. -/
theorem settle_mgmtReply_primary {t : State} (hended : t.fabric.ended = []) (hrole : t.dly.role = .primary) (p : Port) (tag : Nat)
    (st : Status) (data : List Byte) : settle (mgmtReply t p tag st data) = mgmtReply t p tag st data :=
  settle_primary ((congrArg Fabric.ended (mgmtReply_frame t p tag st data).fabric).trans hended)
    ((congrArg Dailies.role (mgmtReply_frame t p tag st data).dly).trans hrole)

theorem detach_busy (h : paired s = false ∨ (s.dly.role = .primary ∧ anySpace s = true)) : detach s = dlyAnswer s .busy := by
  refine if_pos ?_
  rcases h with h | ⟨hrole, hspace⟩
  · simp [h]
  · simp [hrole, hspace]

/-- A twin that has left its pair: it tells nobody, and its open and sealed intervals are discarded. -/
def departed (s : State) : State :=
  dlyMod s fun d => { d with
    state := .unpaired, suspected := false, rewinding := false, offer := none, opened := [], sealed := [], sealedIntervals := 0
    sealedGen := none }

theorem depart_twin (hrole : s.dly.role = .twin) (hcut : s.dly.cut = none) (hprint : printing s = false) : depart s = departed s := by
  have hlost : cutTwinLost s = s := by
    unfold cutTwinLost
    rw [hcut]
  unfold depart
  simp only [hrole, reduceCtorEq, decide_false, Bool.false_and, Bool.false_eq_true, if_false, printDrop_idle hprint, hlost]
  rfl

theorem detach_twin (hpair : paired s = true) (hrole : s.dly.role = .twin) (hcut : s.dly.cut = none) (hprint : printing s = false) :
    detach s = dlyAnswer (departed s) .ok := by
  unfold detach
  rw [if_neg (by simp [hpair, hrole]), depart_twin hrole hcut hprint]

theorem resolve_busy (b : Bool) (h : s.dly.state ≠ .inDoubt) : resolve b s = dlyAnswer s .busy := if_pos h

/-- A twin in doubt is promoted, with its sealed generation committed before it or not. -/
theorem resolve_inDoubt {g st : Nat} (b : Bool) (h : s.dly.state = .inDoubt) (hsealed : s.dly.sealedGen = some (g, st)) :
    ∃ t, resolve b s = dlyAnswer (promote t) .ok ∧ t.fabric.ended = s.fabric.ended ∧
      t.dly.committed = if b then g else s.dly.committed := by
  refine ⟨if b then commitSealed s g else s, ?_, ?_⟩
  · unfold resolve
    rw [if_neg (fun hne => hne h), hsealed]
  · cases b
    · exact ⟨rfl, rfl⟩
    · exact commitSealed_committed s g

end Sys2Proof.Machine
end

section
/-! CLAIMS. Loss and promotion. -/

namespace Sys2Proof.Machine

/-- Settles O41: a clause for each row; what its step leaves of the pair is said by `MessageSent`, `Promoted`, `PrintDropped` and `CutLost`,
and then nothing is left to settle. -/
theorem lossAndPromotion : Obligations.LossAndPromotion := by
  refine ⟨?beats, ?beatless, ?heard, ?lapsed, ?deaf, ?probed, ?unprobed, ?suspects, ?orphaned, ?promotes, ?doubts, ?alone, ?detachBusy,
    ?detaches, ?resolveBusy, ?resolves⟩
  case beats =>
    intro s n hs hpair horig hlink htracker hn hreqs
    obtain ⟨data, hlen, hbeat⟩ := heartbeatSend_paired hpair
    have hsent := dlyMsg_message s.dly.partner true 0x18 data (lapseTold s)
    obtain ⟨o, hqueue, htype, hdst⟩ := dlyMsg_queues (s := lapseTold s) (dst := s.dly.partner) (twin := true) 0x18 hlen htracker horig
      hlink hn hreqs
    have hkept : RecoverKept s (lapseTold s) := ⟨rfl, rfl, rfl, rfl, rfl, rfl⟩
    have hexec : exec .heartbeatSend s = .next (settle (heartbeatSend s)) := rfl
    rw [hbeat, (hkept.trans hsent.settleKept.recoverKept).settle hs] at hexec
    exact ⟨_, o, hexec, hqueue, htype, hdst, hsent.dly, hsent.mem, hsent.keys, hsent.sp⟩
  case beatless =>
    intro s hs hpair
    change Host.Outcome.next (settle (heartbeatSend s)) = _
    rw [heartbeatSend_unpaired hpair, (SettleKept.refl s).settle hs]
  case heard =>
    intro s r hpair h
    exact congrArg Host.Outcome.next (heartbeatReceive_kept hpair h)
  case lapsed =>
    intro s r hpair hlapsed hrole
    exact ⟨_, congrArg Host.Outcome.next (heartbeatReceive_lapsed hpair hlapsed hrole), rfl, rfl, rfl, rfl, rfl⟩
  case deaf =>
    intro s r hpair
    exact congrArg Host.Outcome.next (heartbeatReceive_unpaired r hpair)
  case probed =>
    intro s n hs hrole horig hlink htracker hn hreqs
    have hsent := dlyMsg_message s.dly.partner false 0x1A [] s
    obtain ⟨o, hqueue, htype, hdst⟩ := dlyMsg_queues (dst := s.dly.partner) (twin := false) (data := []) 0x1A (Nat.zero_le _) htracker
      horig hlink hn hreqs
    have hexec : exec (.probeReceive s.dly.partner) s = .next (settle (probeReceive s s.dly.partner)) := rfl
    rw [probeReceive_partner hrole, hsent.settleKept.settle hs] at hexec
    exact ⟨_, o, hexec, hqueue, htype, hdst, hsent.dly, hsent.mem, hsent.keys, hsent.sp⟩
  case unprobed =>
    intro s src hs h
    change Host.Outcome.next (settle (probeReceive s src)) = _
    rw [probeReceive_other h, (SettleKept.refl s).settle hs]
  case suspects =>
    intro s hpair hs
    have hsent := partnerSuspect_suspects hpair
    have hkept : RecoverKept s (dlyMod s fun d => { d with suspected := true }) := ⟨rfl, rfl, rfl, rfl, rfl, rfl⟩
    have hexec : exec .partnerSuspect s = .next (settle (partnerSuspect s)) := rfl
    rw [(hkept.trans hsent.settleKept.recoverKept).settle hs] at hexec
    exact ⟨_, hexec, hsent.dly, hsent.mem, hsent.keys⟩
  case orphaned =>
    intro s hrole hsuspected hs
    have hdrop := printDrop_dropped (pairEvent s .twinLost)
    have hexec : exec (.probeAnswerReceive s.dly.partner) s = .next (settle (probeAnswer s s.dly.partner)) := rfl
    rw [probeAnswer_twin hrole hsuspected, settle_unpaired (t := orphan s) (hdrop.ended.trans hs.1) rfl] at hexec
    exact ⟨_, hexec, rfl, hdrop.role.trans hrole, hdrop.pairEvent, rfl, hdrop.unprinted⟩
  case promotes =>
    intro s i hrole hs hsealed hlost
    obtain ⟨st, hexec⟩ := exec_lostPartner_twin hlost hrole
    have hpromoted := promote_promoted (pairEvent s st)
    rw [decidePromote_decided st hsealed, settle_primary (hpromoted.ended.trans hs.1) hpromoted.role] at hexec
    exact ⟨_, hexec, hpromoted.role, hpromoted.promoted, hpromoted.epoch, hpromoted.state, hpromoted.opened, hpromoted.sealed,
      hpromoted.ready, hpromoted.applied, hpromoted.committed, hpromoted.cntPromote⟩
  case doubts =>
    intro s i g hrole hs hsealed hprint hlost
    obtain ⟨st, hexec⟩ := exec_lostPartner_twin hlost hrole
    rw [decidePromote_inDoubt st hsealed hprint, settle_unpaired (t := doubt s st) hs.1 rfl] at hexec
    exact ⟨_, hexec, hrole, rfl, hsealed, rfl, rfl⟩
  case alone =>
    intro s i hrole hs hlost
    have hexec := exec_lostPartner_primary hrole hlost
    have halone := primaryAlone_lost s
    have hprimary := halone.role.trans hrole
    rw [settle_primary (halone.ended.trans hs.1) hprimary] at hexec
    exact ⟨_, hexec, hprimary, halone.state, halone.pairEvent, halone.cut, halone.ends⟩
  case detachBusy =>
    intro s p tag hmay hs h
    rw [exec_detach_may tag hmay, detach_busy h]
    exact congrArg Host.Outcome.next (settle_dlyAnswer (SettleKept.refl s).recoverKept hs p tag .busy)
  case detaches =>
    intro s p tag hmay hs hpair hrole hcut hprint
    rw [exec_detach_may tag hmay, detach_twin hpair hrole hcut hprint]
    exact congrArg Host.Outcome.next (settle_dlyAnswer (t := departed s) ⟨rfl, rfl, rfl, rfl, rfl, rfl⟩ hs p tag .ok)
  case resolveBusy =>
    intro s p tag b hmay hs h
    rw [exec_resolve_may tag hmay, resolve_busy b h]
    exact congrArg Host.Outcome.next (settle_dlyAnswer (SettleKept.refl s).recoverKept hs p tag .busy)
  case resolves =>
    intro s p tag g st b hmay hs hstate hsealed
    obtain ⟨v, hanswer, hended, hcommitted⟩ := resolve_inDoubt b hstate hsealed
    have hpromoted := promote_promoted v
    have hexec := exec_resolve_may tag hmay b
    rw [hanswer, settle_mgmtReply_primary (t := (dlyAnswer (promote v) .ok).st) ((hpromoted.ended.trans hended).trans hs.1)
      hpromoted.role] at hexec
    exact ⟨_, hexec, hpromoted.role, hpromoted.promoted, hpromoted.state, hpromoted.committed.trans hcommitted,
      hpromoted.applied.trans hpromoted.committed.symm⟩

end Sys2Proof.Machine
end

section
/-! SUPPORT. What settling adds to a command: a twin mends a range that it has met broken (R323, R329), and that leaves the commands, the
collectives, the fabric, the cut and the generations as they were. -/

namespace Sys2Proof.Machine

/-- What a twin's lapse, and the refills of what is broken, leave as it was; the pair is as it was, or resilvers. -/
structure Mended (s t : State) : Prop where
  sp : t.sp = s.sp
  col : t.col = s.col
  fabric : t.fabric = s.fabric
  cut : t.dly.cut = s.dly.cut
  committed : t.dly.committed = s.dly.committed
  log : t.dly.log = s.dly.log
  cntAborted : t.dly.cntAborted = s.dly.cntAborted
  cntCommitted : t.dly.cntCommitted = s.dly.cntCommitted
  mismatched : t.dly.mismatched = s.dly.mismatched
  lapsed : t.dly.state = s.dly.state ∨ t.dly.state = .resilvering

namespace Mended

/-- What changes neither the dailies nor anything that mending leaves. -/
theorem of_eq {s t : State} (hsp : t.sp = s.sp) (hcol : t.col = s.col) (hfabric : t.fabric = s.fabric) (hdly : t.dly = s.dly) :
    Mended s t := by
  refine ⟨hsp, hcol, hfabric, ?_, ?_, ?_, ?_, ?_, ?_, .inl ?_⟩
  all_goals rw [hdly]

theorem refl (s : State) : Mended s s := .of_eq rfl rfl rfl rfl

theorem trans {a b c : State} (h : Mended a b) (k : Mended b c) : Mended a c :=
  ⟨k.sp.trans h.sp, k.col.trans h.col, k.fabric.trans h.fabric, k.cut.trans h.cut, k.committed.trans h.committed, k.log.trans h.log,
    k.cntAborted.trans h.cntAborted, k.cntCommitted.trans h.cntCommitted, k.mismatched.trans h.mismatched,
    k.lapsed.elim (fun e => h.lapsed.imp e.trans e.trans) .inr⟩

theorem foldl {α : Type} (f : State → α → State) (h : ∀ t x, Mended t (f t x)) : ∀ (l : List α) (s : State), Mended s (l.foldl f s)
  | [], s => refl s
  | x :: l, s => (h s x).trans (foldl f h l (f s x))

theorem cmdGet {s t : State} (h : Mended s t) (cid : Nat) : cmdGet t cid = cmdGet s cid :=
  congrArg (fun x : Spaces => x.cmds.find? fun c : Cmd => c.id == cid) h.sp

theorem endsWith {s t : State} (h : Mended s t) {cid : Nat} {st : Status} (k : endsWith s cid st) : endsWith t cid st := by
  obtain ⟨c, r, hget, hr⟩ := k
  exact ⟨c, r, (h.cmdGet cid).trans hget, hr⟩

theorem endsOk {s t : State} (h : Mended s t) {cid : Nat} (k : endsOk s cid) : endsOk t cid := by
  obtain ⟨c, r, hget, hr⟩ := k
  exact ⟨c, r, (h.cmdGet cid).trans hget, hr⟩

theorem slotOf {s t : State} (h : Mended s t) (cid : Nat) : slotOf t cid = slotOf s cid :=
  congrArg (fun x : ColEngine => x.slots.find? fun y : ColSlot => y.cid == cid) h.col

end Mended

theorem lapseTwin_mended (tell : Bool) (s : State) : Mended s (lapseTwin tell s) :=
  ⟨rfl, rfl, rfl, rfl, rfl, rfl, rfl, rfl, rfl, .inr rfl⟩

theorem fillRange_mended (s : State) (n : Nat) (slot : Option Nat) (walk : Nat) : Mended s (fillRange s n slot walk) := .of_eq rfl rfl rfl rfl

theorem slotPut_mended (s : State) (i : Nat) (k : KeySlot) : Mended s (slotPut s i k) := .of_eq rfl rfl rfl rfl

theorem drawUse_mended (s : State) (n : Nat) : Mended s (drawUse s n) := .of_eq rfl rfl rfl rfl

theorem refill_mended (s : State) (n : Nat) : Mended s (refill s n) := by
  unfold refill
  extract_lets c k s1
  have hdropped : Mended s s1 := by
    unfold s1
    split
    · exact .refl s
    · exact slotPut_mended _ _ _
  split
  · split
    · exact hdropped.trans (fillRange_mended _ _ _ _)
    · exact ((hdropped.trans (slotPut_mended _ _ _)).trans (drawUse_mended _ _)).trans (fillRange_mended _ _ _ _)
  · exact fillRange_mended _ _ _ _

theorem ownReinit_mended (s : State) (n : Nat) : Mended s (ownReinit s n) := by
  unfold ownReinit
  split
  · exact .refl s
  · exact refill_mended s n

theorem holdFails_mended (tell : Bool) (s : State) : Mended s (holdFails tell s) := by
  have hdropped : Mended s (lapseTwin tell (dlyMod s fun d => { d with sealed := [], ready := [], sealedIntervals := 0, sealedGen := none })) :=
    ⟨rfl, rfl, rfl, rfl, rfl, rfl, rfl, rfl, rfl, .inr rfl⟩
  exact hdropped.trans (ownReinit_mended _ 32)

theorem twinRecover_mended (s : State) : Mended s (twinRecover s) := by
  unfold twinRecover
  dsimp only
  split
  · split
    · exact .refl s
    · refine Mended.trans ?_ (.foldl _ (fun t n => ?_) _ _)
      · split
        · exact holdFails_mended true s
        · exact lapseTwin_mended true s
      · split
        · exact .refl t
        · exact ownReinit_mended t n
  · exact .refl s

/-- With no ended transaction left, settling mends and does nothing else. -/
theorem settle_mended {s : State} (h : s.fabric.ended = []) : Mended s (settle s) := by
  rw [settle, settleF_idle _ _ h]
  exact twinRecover_mended s

end Sys2Proof.Machine
end

section
/-! SUPPORT. A command's accesses at space addresses (R374, R394): they charge commands, and mark the mirror map where they write. The
group's sequence number (R245), and the checks of a collective (Table 09-7). -/

namespace Sys2Proof.Machine

/-- A state after accesses of main memory by commands. -/
structure SpaceWork (s t : State) : Prop where
  access : AccessWork s t
  charged : CmdsCharged s t

namespace SpaceWork

theorem refl (s : State) : SpaceWork s s := ⟨.refl s, .refl s⟩

theorem trans {s t u : State} (h : SpaceWork s t) (k : SpaceWork t u) : SpaceWork s u := ⟨h.access.trans k.access, h.charged.trans k.charged⟩

variable {s t : State} (h : SpaceWork s t)
include h

theorem col : t.col = s.col := by obtain ⟨⟨_, _, _, _, _, _, _, rfl⟩, -⟩ := h; rfl

theorem fabric : t.fabric = s.fabric := by obtain ⟨⟨_, _, _, _, _, _, _, rfl⟩, -⟩ := h; rfl

theorem role : t.dly.role = s.dly.role := by obtain ⟨⟨_, _, _, _, _, _, _, rfl⟩, -⟩ := h; rfl

theorem cut : t.dly.cut = s.dly.cut := by obtain ⟨⟨_, _, _, _, _, _, _, rfl⟩, -⟩ := h; rfl

theorem committed : t.dly.committed = s.dly.committed := by obtain ⟨⟨_, _, _, _, _, _, _, rfl⟩, -⟩ := h; rfl

end SpaceWork

theorem readSpace_space (s : State) (c : Cmd) (v n : Nat) : SpaceWork s (readSpace s c v n).st :=
  ⟨(readRuns_work _ _ s).access.trans ⟨_, _, _, _, _, _, _, rfl⟩, readSpace_charged s c v n⟩

theorem readTake_space (s : State) (c : Cmd) (v n : Nat) : SpaceWork s (readTake s c v n).st :=
  SpaceWork.trans ⟨⟨_, _, _, _, _, _, _, rfl⟩, addMask_charged s _ _⟩ (readSpace_space _ c v n)

theorem checkRead_space (s : State) (c : Cmd) (v n : Nat) : SpaceWork s (checkRead s c v n).st := by
  unfold checkRead
  split
  · exact .refl s
  · exact readSpace_space s c v n

theorem groupRead_space (s : State) (c : Cmd) (v : Nat) : SpaceWork s (groupRead s c v).st := by
  have hheader := checkRead_space s c v 64
  unfold groupRead
  dsimp only
  repeat' split
  · exact hheader
  · exact hheader
  · exact hheader.trans (checkRead_space _ _ _ _)

/-- Reading a group descriptor changes neither the dailies nor a byte. -/
theorem groupRead_reads (s : State) (c : Cmd) (v : Nat) :
    (groupRead s c v).st.dly = s.dly ∧ (groupRead s c v).st.mem.cells = s.mem.cells := by
  have hread : ∀ (t : State) (w n : Nat), (checkRead t c w n).st.dly = t.dly ∧ (checkRead t c w n).st.mem.cells = t.mem.cells := by
    intro t w n
    refine ⟨?_, (checkRead_kept t c w n).2.1⟩
    unfold checkRead
    split
    · rfl
    · obtain ⟨_, _, _, _, hruns⟩ := readRuns_work (whoOf c) (xlateRuns t c.space w n) t
      change (readRuns (whoOf c) (xlateRuns t c.space w n) t).st.dly = t.dly
      rw [hruns]
  obtain ⟨hdly, hcells⟩ := hread s v 64
  unfold groupRead
  dsimp only
  repeat' split
  · exact ⟨hdly, hcells⟩
  · exact ⟨hdly, hcells⟩
  · exact ⟨(hread _ _ _).1.trans hdly, (hread _ _ _).2.trans hcells⟩

theorem colPut_space (s : State) (c : Cmd) (v : Nat) (bs : List Byte) : SpaceWork s (colPut s c v bs).1 := by
  unfold colPut
  split
  · exact .refl s
  · exact ⟨writeSpace_access s c v bs, writeSpace_charged s c v bs⟩

/-- A write of a collective fails with no status of success. -/
theorem colPut_fails {s : State} {c : Cmd} {v : Nat} {bs : List Byte} {e : Result} (h : (colPut s c v bs).2 = some e) : e.status ≠ .ok := by
  unfold colPut at h
  split at h
  · cases h
    nofun
  · dsimp only at h
    split at h
    · cases h
    · next hstatus =>
      cases h
      exact hstatus

theorem groupNext_space (s : State) (c : Cmd) (group seq : Nat) : SpaceWork s (groupNext s c group seq) := colPut_space _ _ _ _

theorem spoilRuns_space (s : State) (runs : List (Nat × Nat)) : SpaceWork s (spoilRuns s runs) := by
  unfold spoilRuns
  induction runs generalizing s with
  | nil => exact .refl s
  | cons r runs ih =>
    refine SpaceWork.trans ?_ (ih _)
    dsimp only
    split
    · exact ⟨.trans ⟨_, _, _, _, _, _, _, rfl⟩ (markMirror_access _ _ _ _), (PortsKept.of_eq (markMirror_ports _ _ _ _) rfl rfl).charged⟩
    · exact ⟨⟨_, _, _, _, _, _, _, rfl⟩, .of_eq rfl⟩

/-- What a failed collective leaves unspecified is main memory (R261). -/
theorem colSpoil_space (s : State) (x : ColSlot) : SpaceWork s (colSpoil s x) := by
  unfold colSpoil
  dsimp only
  refine SpaceWork.trans ?_ (spoilRuns_space _ _)
  split
  · split
    · exact .refl s
    · exact spoilRuns_space _ _
  · split
    · exact spoilRuns_space _ _
    · exact (spoilRuns_space _ _).trans (spoilRuns_space _ _)

theorem colCheckRest_space (s : State) (c : Cmd) (b : ColBody) (g : ColGroup) : SpaceWork s (colCheckRest s c b g).1 := by
  unfold colCheckRest
  extract_lets bad fail k kb u n cell
  have hblock : SpaceWork s k.st := by
    unfold k
    split
    · exact .refl s
    · exact checkRead_space _ _ _ _
  have hupdate : SpaceWork s u.st := by
    unfold u
    split
    · exact hblock.trans (checkRead_space _ _ _ _)
    · exact hblock
  have hcell : SpaceWork s n.st := by
    unfold n
    split
    · exact hupdate.trans (checkRead_space _ _ _ _)
    · exact hupdate
  repeat' split
  · exact hblock
  · exact hblock
  · exact hupdate
  · exact hupdate
  · exact hcell
  · exact hcell
  · exact hcell
  · exact hcell
  · exact hcell

/-- The checks of Table 09-7 only read. -/
theorem colCheck_space (s : State) (c : Cmd) : SpaceWork s (colCheck s c).st := by
  have hgroup := groupRead_space s c (bodyOfCol c).group
  unfold colCheck
  dsimp only
  split
  · exact hgroup
  · split
    · exact hgroup
    · exact hgroup.trans (colCheckRest_space _ _ _ _)

end Sys2Proof.Machine
end

section
/-! SUPPORT. A collective that fails on this member (R261, Table 09-8): its slot is free, it is counted, and its command ends. -/

namespace Sys2Proof.Machine

/-- A slot's collective has failed with a result: the slot is free, the failure is counted, and its command, where it was live, has ended. -/
structure ColFailed (s : State) (x : ColSlot) (r : Result) (t : State) : Prop where
  col : t.col = { s.col with slots := s.col.slots.filter fun y => y.cid != x.cid, failed := s.col.failed + 1 }
  ended : t.fabric.ended = s.fabric.ended
  ends : ∀ c, cmdGet s x.cid = some c → cmdLive c = true → endsWith t x.cid r.status

theorem ColFailed.freed {s t : State} {x : ColSlot} {r : Result} (h : ColFailed s x r t) : slotOf t x.cid = none := by
  unfold slotOf
  rw [h.col, List.find?_eq_none]
  intro y hy
  simpa using (List.mem_filter.mp hy).2

/-- A failed collective's slot given up, and its waiting transactions with it. -/
def colFreed (s : State) (x : ColSlot) : State :=
  { s with
    col := { s.col with slots := s.col.slots.filter fun y => y.cid != x.cid, failed := s.col.failed + 1 }
    fabric := { s.fabric with waiting := s.fabric.waiting.filter fun w => w.owner != .collective x.cid } }

/-- A state in which a failed collective has told the other members. -/
def colTold (s : State) (x : ColSlot) (tell : Bool) : State :=
  if tell then (otherRanks x).foldl (colMsg x (colNote 3 x.mine) .message) (colFreed s x) else colFreed s x

theorem colTold_message (s : State) (x : ColSlot) (tell : Bool) : MessageSent (colFreed s x) (colTold s x tell) := by
  unfold colTold
  split
  · exact .foldl _ (fun t _ => request_message t rfl) _ _
  · exact .refl _

/-- No member hears of it. -/
theorem colTold_alone {s : State} {x : ColSlot} {tell : Bool} (h : tell = false ∨ otherRanks x = []) : colTold s x tell = colFreed s x := by
  rcases h with rfl | h
  · rfl
  · simp [colTold, h]

/-- The group of a collective moves on, where its command is still there. -/
def colMoved (s : State) (x : ColSlot) : State :=
  match slotCmd s x with
  | some c => groupNext s c x.group x.mine.seq
  | none => s

theorem colMoved_space (s : State) (x : ColSlot) : SpaceWork s (colMoved s x) := by
  unfold colMoved
  split
  · exact groupNext_space _ _ _ _
  · exact .refl s

/-- After the messages, a failure spoils memory, moves the group on and ends the command. -/
theorem colFail_eq (s : State) (x : ColSlot) (r : Result) (tell : Bool) :
    colFail s x r tell = cmdEnd (colMoved (colSpoil (colTold s x tell) x) x) x.cid r := rfl

theorem colFail_space (s : State) (x : ColSlot) (tell : Bool) : SpaceWork (colTold s x tell) (colMoved (colSpoil (colTold s x tell) x) x) :=
  (colSpoil_space _ _).trans (colMoved_space _ _)

theorem colFail_failed (s : State) (x : ColSlot) (r : Result) (tell : Bool) : ColFailed s x r (colFail s x r tell) := by
  have hwork := colFail_space s x tell
  have hsent := colTold_message s x tell
  have hsame : CmdsCharged s (colTold s x tell) := .of_eq (congrArg Spaces.cmds hsent.sp)
  rw [colFail_eq]
  refine ⟨hwork.col.trans ?_, (congrArg Fabric.ended hwork.fabric).trans hsent.ended,
    fun c hget hlive => (hsame.trans hwork.charged).cmdEnd_ends r hget hlive⟩
  obtain ⟨_, _, htold, -⟩ := hsent
  rw [htold]
  rfl

theorem colFail_trackers (s : State) (x : ColSlot) (r : Result) {tell : Bool} (h : tell = false ∨ otherRanks x = []) :
    (colFail s x r tell).fabric.trackers = s.fabric.trackers := by
  rw [colFail_eq]
  exact (congrArg Fabric.trackers (colFail_space s x tell).fabric).trans (by rw [colTold_alone h]; rfl)

theorem slotOf_cid {s : State} {cid : Nat} {x : ColSlot} (h : slotOf s cid = some x) : x.cid = cid := by
  simpa using List.find?_some h

/-! ### What the rows of messages do -/

section Rows

variable {s : State} {src : Nat} {x : ColSlot}

/-- A join kept for later. -/
def joinKept (s : State) (src : Nat) (j : Join) : State := { s with col := { s.col with early := s.col.early ++ [(src, j)] } }

theorem joinReceive_early {j : Join} (h : slotFor s src j.digest j.seq = none) : joinReceive s src j = joinKept s src j := by
  unfold joinReceive
  rw [h]
  rfl

theorem joinReceive_agrees {j : Join} (h : slotFor s src j.digest j.seq = some x) (hagrees : joinsAgree x.mine j = true) :
    joinReceive s src j = colGo (colMod s x.cid fun y => { y with joins := assocPut y.joins (y.ranks.idxOf src) j }) x.cid := by
  unfold joinReceive
  rw [h]
  exact if_pos hagrees

theorem joinReceive_disagrees {j : Join} (h : slotFor s src j.digest j.seq = some x) (hagrees : joinsAgree x.mine j = false) :
    joinReceive s src j = colFail s x (resultOf .badDescriptor) false := by
  unfold joinReceive
  rw [h]
  exact if_neg (by simp [hagrees])

theorem creditReceive_none {digest : W256} {seq : Nat} (h : slotFor s src digest seq = none) : creditReceive s src digest seq = s := by
  unfold creditReceive
  rw [h]

theorem creditReceive_some {digest : W256} {seq : Nat} (h : slotFor s src digest seq = some x) : creditReceive s src digest seq =
    colGo (colMod s x.cid fun y =>
      { y with credits := assocPut y.credits (y.ranks.idxOf src) ((assocGet y.credits (y.ranks.idxOf src)).getD 0 + 1) }) x.cid := by
  unfold creditReceive
  rw [h]

/-- An abort counted. -/
def abortCounted (s : State) : State := { s with col := { s.col with abortsRx := satAdd 32 s.col.abortsRx 1 } }

theorem abortReceive_none {digest : W256} {seq : Nat} (h : slotFor s src digest seq = none) : abortReceive s src digest seq = abortCounted s := by
  have hcounted : slotFor (abortCounted s) src digest seq = none := h
  unfold abortReceive
  dsimp only
  rw [← abortCounted, hcounted]

theorem abortReceive_some {digest : W256} {seq : Nat} (h : slotFor s src digest seq = some x) :
    abortReceive s src digest seq = colFail (abortCounted s) x (resultOf .peerLost) false := by
  have hcounted : slotFor (abortCounted s) src digest seq = some x := h
  unfold abortReceive
  dsimp only
  rw [← abortCounted, hcounted]

theorem colTimeout_none {cid : Nat} (h : slotOf s cid = none) : colTimeout s cid = s := by
  unfold colTimeout
  rw [h]

theorem colTimeout_lost {cid : Nat} (h : slotOf s cid = some x) (hlike : unlikeJoins s x = []) :
    colTimeout s cid = colFail s x (resultOf .peerLost) true := by
  unfold colTimeout
  rw [h]
  exact if_pos (by simp [hlike])

/-- The joins kept that are unlike a slot's own are dropped. -/
def unlikeDropped (s : State) (x : ColSlot) : State :=
  { s with col := { s.col with early := s.col.early.filter fun e => !((unlikeJoins s x).contains e) } }

theorem colTimeout_unlike {cid : Nat} (h : slotOf s cid = some x) (hunlike : unlikeJoins s x ≠ []) :
    colTimeout s cid = colFail (unlikeDropped s x) x (resultOf .badDescriptor) false := by
  unfold colTimeout
  rw [h]
  exact if_neg (by simp [hunlike])

end Rows

end Sys2Proof.Machine
end

section
/-! CLAIMS. Messages of a collective's members. -/

namespace Sys2Proof.Machine

/-- Settles O37: a clause for each row; what a failure leaves of its command and slot is said by `ColFailed`, and what a twin mends after it
by `Mended`. -/
theorem collectiveMessagesFromMembers : Obligations.CollectiveMessagesFromMembers := by
  refine ⟨?early, ?joins, ?disagrees, ?creditless, ?credits, ?abortless, ?aborts, ?lost, ?unlike, ?timeless⟩
  case early =>
    intro s src j hs h
    have hkept : SettleKept s (joinKept s src j) := ⟨rfl, rfl, rfl, rfl⟩
    change Host.Outcome.next (settle (joinReceive s src j)) = _
    rw [joinReceive_early h, hkept.settle hs]
    rfl
  case joins =>
    intro s src j x h hagrees
    exact congrArg (fun t => Host.Outcome.next (settle t)) (joinReceive_agrees h hagrees)
  case disagrees =>
    intro s src j x c hs h hagrees hget hlive
    have hfailed := colFail_failed s x (resultOf .badDescriptor) false
    have hended := hfailed.ended.trans hs.1
    have hmended := settle_mended hended
    refine ⟨_, congrArg (fun t => Host.Outcome.next (settle t)) (joinReceive_disagrees h hagrees), hmended.endsWith (hfailed.ends c hget hlive),
      (hmended.slotOf _).trans hfailed.freed, (congrArg ColEngine.failed (hmended.col.trans hfailed.col)).trans rfl, fun _ => ?_⟩
    exact (congrArg Fabric.trackers hmended.fabric).trans (colFail_trackers _ _ _ (.inl rfl))
  case creditless =>
    intro s src seq d hs h
    change Host.Outcome.next (settle (creditReceive s src d seq)) = _
    rw [creditReceive_none h, (SettleKept.refl s).settle hs]
  case credits =>
    intro s src seq d x h
    exact congrArg (fun t => Host.Outcome.next (settle t)) (creditReceive_some h)
  case abortless =>
    intro s src seq d hs h
    have hkept : SettleKept s (abortCounted s) := ⟨rfl, rfl, rfl, rfl⟩
    change Host.Outcome.next (settle (abortReceive s src d seq)) = _
    rw [abortReceive_none h, hkept.settle hs]
    rfl
  case aborts =>
    intro s src seq d x c hs h hget hlive
    have hfailed := colFail_failed (abortCounted s) x (resultOf .peerLost) false
    have hmended := settle_mended (hfailed.ended.trans hs.1)
    have hcol := hmended.col.trans hfailed.col
    refine ⟨_, congrArg (fun t => Host.Outcome.next (settle t)) (abortReceive_some h), hmended.endsWith (hfailed.ends c hget hlive),
      (hmended.slotOf _).trans hfailed.freed, congrArg ColEngine.abortsRx hcol, congrArg ColEngine.failed hcol, fun _ => ?_⟩
    exact (congrArg Fabric.trackers hmended.fabric).trans (colFail_trackers _ _ _ (.inl rfl))
  case lost =>
    intro s cid x c hs h hget hlive hlike
    obtain rfl := slotOf_cid h
    have hfailed := colFail_failed s x (resultOf .peerLost) true
    have hmended := settle_mended (hfailed.ended.trans hs.1)
    exact ⟨_, congrArg (fun t => Host.Outcome.next (settle t)) (colTimeout_lost h hlike), hmended.endsWith (hfailed.ends c hget hlive),
      (hmended.slotOf _).trans hfailed.freed, congrArg ColEngine.failed (hmended.col.trans hfailed.col)⟩
  case unlike =>
    intro s cid x c hs h hget hlive hunlike
    obtain rfl := slotOf_cid h
    have hfailed := colFail_failed (unlikeDropped s x) x (resultOf .badDescriptor) false
    have hmended := settle_mended (hfailed.ended.trans hs.1)
    have hcol := hmended.col.trans hfailed.col
    exact ⟨_, congrArg (fun t => Host.Outcome.next (settle t)) (colTimeout_unlike h hunlike), hmended.endsWith (hfailed.ends c hget hlive),
      (hmended.slotOf _).trans hfailed.freed, congrArg ColEngine.failed hcol, congrArg ColEngine.early hcol⟩
  case timeless =>
    intro s cid hs h
    change Host.Outcome.next (settle (colTimeout s cid)) = _
    rw [colTimeout_none h, (SettleKept.refl s).settle hs]

end Sys2Proof.Machine
end

section
/-! SUPPORT. Association lists and masks. -/

namespace Sys2Proof.Machine

theorem assocGet_assocPut_same {β : Type} (l : List (Nat × β)) (k : Nat) (v : β) : assocGet (assocPut l k v) k = some v := by
  simp [assocGet, assocPut]

theorem assocGet_assocPut_other {β : Type} (l : List (Nat × β)) {k i : Nat} (v : β) (h : i ≠ k) :
    assocGet (assocPut l k v) i = assocGet l i := by
  unfold assocGet assocPut
  rw [List.find?_cons_of_neg (by simpa using Ne.symm h), List.find?_filter]
  congr 2
  funext e
  by_cases he : e.1 = i <;> simp [he, h]

/-- What holds of each value of a list and of a value set holds after it. -/
theorem forall_assocPut {β : Type} {p : Nat × β → Prop} {l : List (Nat × β)} {k : Nat} {v : β} (h : ∀ e ∈ l, p e) (hv : p (k, v)) :
    ∀ e ∈ assocPut l k v, p e := by
  intro e he
  rcases List.mem_cons.mp he with rfl | he
  · exact hv
  · exact h e (List.mem_filter.mp he).1

theorem testBit_maskOf (i : Nat) : ∀ l : List Nat, (maskOf l).testBit i = decide (i ∈ l)
  | [] => by simp [maskOf]
  | j :: l => by
    rw [maskOf, Nat.testBit_or, testBit_maskOf i l, Nat.testBit_two_pow]
    by_cases h : i = j
    · simp [h]
    · simp [h, Ne.symm h]

/-- A mask of 32 bits has the bit of each member below 32. -/
theorem getLsbD_maskOf {l : List Nat} {n : Nat} (hmem : n ∈ l) (hn : n < 32) : (BitVec.ofNat 32 (maskOf l)).getLsbD n = true := by
  simp [BitVec.getLsbD_ofNat, hn, testBit_maskOf, hmem]

end Sys2Proof.Machine
end

section
/-! SUPPORT. A cut's ends (Table 10-3): the command ends with the cut's status and no cut runs; what a decision and an abort leave. -/

namespace Sys2Proof.Machine

/-- What the end of a cut leaves of its command, the pair and the generations. -/
structure CutClosed (k : CutRun) (st : Status) (s t : State) : Prop where
  ended : t.fabric.ended = s.fabric.ended
  cut : t.dly.cut = none
  state : t.dly.state = s.dly.state
  committed : t.dly.committed = s.dly.committed
  log : t.dly.log = s.dly.log
  cntCommitted : t.dly.cntCommitted = s.dly.cntCommitted
  cntAborted : t.dly.cntAborted = s.dly.cntAborted
  mismatched : t.dly.mismatched = s.dly.mismatched
  ends : ∀ c, cmdGet s k.cid = some c → cmdLive c = true → endsWith t k.cid st

/-- The cut is gone, and its generation's verdicts with it. -/
def cutGone (s : State) (k : CutRun) : State :=
  dlyMod s fun d => { d with cut := none, early := d.early.filter fun e => e.2.1 != k.gen, stale := d.stale ++ verdictsDue s k }

/-- The group of a cut moves on, where its command is still there. -/
def cutMoved (s : State) (k : CutRun) : State :=
  match cmdGet s k.cid with
  | some c => groupNext s c k.group k.seq
  | none => s

theorem cutMoved_space (s : State) (k : CutRun) : SpaceWork s (cutMoved s k) := by
  unfold cutMoved
  split
  · exact groupNext_space _ _ _ _
  · exact .refl s

theorem cutEnd_eq (s : State) (k : CutRun) (st : Status) : cutEnd s k st = cmdEnd (cutMoved (cutGone s k) k) k.cid (resultOf st) := rfl

theorem cutEnd_closed (s : State) (k : CutRun) (st : Status) : CutClosed k st s (cutEnd s k st) := by
  obtain ⟨haccess, hcharged⟩ := cutMoved_space (cutGone s k) k
  have hgone : CmdsCharged s (cutGone s k) := .of_eq rfl
  have hends := fun c hget hlive => (hgone.trans hcharged).cmdEnd_ends (cid := k.cid) (c := c) (resultOf st) hget hlive
  rw [cutEnd_eq]
  obtain ⟨_, _, _, _, _, _, _, heq⟩ := haccess
  rw [heq] at hends ⊢
  exact ⟨rfl, rfl, rfl, rfl, rfl, rfl, rfl, rfl, hends⟩

/-- What an aborted cut leaves: it is counted, and the generation is as it was. -/
structure CutAborted (k : CutRun) (st : Status) (s t : State) : Prop where
  ended : t.fabric.ended = s.fabric.ended
  cut : t.dly.cut = none
  state : t.dly.state = s.dly.state
  committed : t.dly.committed = s.dly.committed
  cntAborted : t.dly.cntAborted = satAdd 32 s.dly.cntAborted 1
  ends : ∀ c, cmdGet s k.cid = some c → cmdLive c = true → endsWith t k.cid st

theorem cutTell_message (s : State) (kind gen : Nat) : MessageSent s (cutTell s kind gen) := by
  unfold cutTell
  split
  · exact dlyMsg_message _ _ _ _ _
  · exact .refl s

theorem cutAbort_aborted (s : State) (k : CutRun) (st : Status) : CutAborted k st s (cutAbort s k st) := by
  obtain ⟨_, _, htold, hended⟩ := cutTell_message s 0x16 k.gen
  have hclosed := cutEnd_closed (dlyMod (cutTell s 0x16 k.gen) fun d => { d with cntAborted := satAdd 32 d.cntAborted 1 }) k st
  unfold cutAbort
  rw [htold] at hclosed ⊢
  exact ⟨hclosed.ended.trans hended, hclosed.cut, hclosed.state, hclosed.committed, hclosed.cntAborted, hclosed.ends⟩

/-- Messages before an abort change nothing of what it leaves. -/
theorem CutAborted.of_message {s u t : State} {k : CutRun} {st : Status} (h : CutAborted k st u t) (hsent : MessageSent s u) :
    CutAborted k st s t := by
  obtain ⟨_, _, rfl, hended⟩ := hsent
  exact ⟨h.ended.trans hended, h.cut, h.state, h.committed, h.cntAborted, h.ends⟩

/-! ### The decision (steps 4 to 6) -/

/-- The cut in progress set. -/
def cutSet (s : State) (k : CutRun) : State := dlyMod s fun d => { d with cut := some k }

theorem cutMod_set {s : State} {k : CutRun} (f : CutRun → CutRun) (hcut : s.dly.cut = some k) : cutMod s f = cutSet s (f k) := by
  change { s with dly := { s.dly with cut := s.dly.cut.map f } } = _
  rw [hcut]
  rfl

theorem cutSet_same {s : State} {k : CutRun} (hcut : s.dly.cut = some k) : cutSet s k = s := by
  change { s with dly := { s.dly with cut := some k } } = _
  rw [← hcut]

section Decision

variable {s : State} {k : CutRun} (hcut : s.dly.cut = some k)
include hcut

/-- A member's verdict of not ready aborts the cut. -/
theorem cutDecide_busy (hstage : k.stage = 3) (h : ∃ v ∈ k.verdicts, v.2 = false) : cutDecide s = cutAbort s k .busy := by
  have hany : (k.verdicts.any fun v => !v.2) = true := by simpa using h
  unfold cutDecide
  simp [hcut, hstage, hany]

/-- With no verdict against it and one to come, the cut waits. -/
theorem cutDecide_waits (hready : ∀ v ∈ k.verdicts, v.2 = true) (h : ∃ m ∈ k.members, assocGet k.verdicts m = none) : cutDecide s = s := by
  have hany : (k.verdicts.any fun v => !v.2) = false := by simpa using hready
  have hall : (k.members.all fun m => (assocGet k.verdicts m).isSome) = false := by simpa using h
  unfold cutDecide
  simp [hcut, hany, hall]

/-- With every verdict ready, COMMIT goes out, and the cut waits for its acknowledgement. -/
theorem cutDecide_commits (hstage : k.stage = 3) (hready : ∀ v ∈ k.verdicts, v.2 = true)
    (h : ∀ m ∈ k.members, (assocGet k.verdicts m).isSome = true) :
    ∃ check u, MessageSent s u ∧ cutDecide s = cutSet u { k with stage := 4, check := check } := by
  have hany : (k.verdicts.any fun v => !v.2) = false := by simpa using hready
  have hall : (k.members.all fun m => (assocGet k.verdicts m).isSome) = true := by simpa using h
  have hsent : MessageSent s
      (if paired s then partnerMsg 0x15 (natLe 6 k.gen ++ natLe 1 (b2n (s.dly.take || s.dly.checkArmed))) s else s) := by
    split
    · exact dlyMsg_message _ _ _ _ _
    · exact .refl s
  refine ⟨s.dly.take || s.dly.checkArmed, _, hsent, ?_⟩
  rw [← cutMod_set (fun k => { k with stage := 4, check := s.dly.take || s.dly.checkArmed }) ((congrArg Dailies.cut hsent.dly).trans hcut)]
  unfold cutDecide
  simp [hcut, hstage, hany, hall]

end Decision

/-- This primary's own verdict on a cut (step 4). -/
def cutReady (s : State) (k : CutRun) : Bool := (s.dly.state == .guarded || s.dly.state == .copied) && k.isSealed

/-- A cut with this primary's verdict. -/
def cutVoted (s : State) (k : CutRun) (ready : Bool) : CutRun :=
  { k with stage := 3, verdicts := assocPut k.verdicts s.rig.active.moduleId ready }

/-- The verdict goes to every member, and the cut is decided with it. -/
theorem cutVerdict_votes {s : State} {r : CutRun} (hcut : s.dly.cut = some r) (k : CutRun) :
    ∃ u, MessageSent s u ∧ cutVerdict s k = cutDecide (cutSet u (cutVoted s r (cutReady s k))) := by
  have hsent : MessageSent s ((k.members.filter fun m => m != s.rig.active.moduleId).foldl
      (fun t m => dlyMsg m false 0x14 (natLe 6 k.gen ++ natLe 1 (b2n (cutReady s k))) .message t) s) :=
    .foldl _ (fun t m => dlyMsg_message m false 0x14 _ t) _ s
  refine ⟨_, hsent, ?_⟩
  rw [← cutMod_set (cutVoted s · (cutReady s k)) ((congrArg Dailies.cut hsent.dly).trans hcut)]
  rfl

/-! ### The drain (steps 1 and 2) -/

/-- The stage of a cut whose drain goes on: 2 once the mirror is idle. -/
def drainStage (s : State) : Nat := if s.dly.map = [] ∧ mirrorFlying s = false then 2 else 1

theorem cutAdvance_held {s : State} {k : CutRun} (hcut : s.dly.cut = some k) (hstage : k.stage ≠ 1) : cutAdvance s = s := by
  unfold cutAdvance
  rw [hcut]
  exact if_neg hstage

/-- With no line that could not be read, a paired primary's cut drains, or sends SEAL where the mirror is idle. -/
theorem cutAdvance_drains {s : State} {k : CutRun} (hcut : s.dly.cut = some k) (hstage : k.stage = 1) (hpair : paired s = true)
    (hfailed : s.dly.failed = []) :
    ∃ u, MessageSent s u ∧ cutAdvance s = cutSet u { k with stage := drainStage s } := by
  have hleft : mirrorLeft s = s.dly.map := by
    unfold mirrorLeft
    rw [hfailed]
    rfl
  by_cases hidle : s.dly.map = [] ∧ mirrorFlying s = false
  · have hsent : MessageSent s (partnerMsg 0x12 (natLe 6 k.gen ++ natLe 4 k.step) s) := dlyMsg_message _ _ _ _ _
    refine ⟨_, hsent, ?_⟩
    rw [drainStage, if_pos hidle, ← cutMod_set (fun k => { k with stage := 2 }) ((congrArg Dailies.cut hsent.dly).trans hcut)]
    unfold cutAdvance
    simp [hcut, hstage, hpair, hleft, hidle]
  · have hbusy : (!(mirrorLeft s).isEmpty || mirrorFlying s) = true := by
      rw [hleft]
      cases hflying : mirrorFlying s with
      | true => simp
      | false => simp [show s.dly.map ≠ [] from fun hmap => hidle ⟨hmap, hflying⟩]
    have hwaits : cutAdvance s = s := by
      unfold cutAdvance
      simp only [hcut, hstage, hpair, hbusy, if_true, Bool.not_true, Bool.false_eq_true, if_false]
    have hsame : { k with stage := 1 } = k := by rw [← hstage]
    exact ⟨s, .refl s, by rw [hwaits, drainStage, if_neg hidle, hsame, cutSet_same hcut]⟩

end Sys2Proof.Machine
end

section
/-! SUPPORT. The rows of a cut, case by case (R271 to R273, R279, R282, Table 10-3). -/

namespace Sys2Proof.Machine

/-! ### The digests of the continuity check (R279) -/

/-- What is formed by reads, one after another, is formed by reads. -/
theorem foldl_work {α β : Type} (f : State × β → α → State × β) (h : ∀ t x, ReadWork t.1 (f t x).1) : ∀ (l : List α) (t : State × β),
    ReadWork t.1 (l.foldl f t).1
  | [], t => .refl t.1
  | x :: l, t => (h t x).trans (foldl_work f h l (f t x))

theorem lineValue_work (s : State) (key : Nat) : ReadWork s (lineValue s key).1 := by
  unfold lineValue
  split
  · exact readPhysF_work {} _ _ _ s
  · exact readInUnit_work s {} 32 _ 64

theorem framePlain_work (s : State) (key : Nat) : ReadWork s (framePlain s key).1 := by
  unfold framePlain
  refine foldl_work _ (fun t i => ?_) _ (s, some [])
  exact lineValue_work t.1 _

theorem gmacsGo_work (n : Nat) : ∀ (left off : Nat) (s : State), ReadWork s (gmacsGo n left off s).1
  | 0, _, s => .refl s
  | left + 1, off, s => (framePlain_work s _).trans (gmacsGo_work n left (off + 256) _)

theorem ownDigests_work (s : State) : ReadWork s (ownDigests s).1 := by
  unfold ownDigests
  refine foldl_work _ (fun t n => ?_) _ (s, [])
  exact gmacsGo_work n _ _ t.1

/-- A digest is formed for each range of the pair. -/
theorem ownDigests_ranges (s : State) : (ownDigests s).2.map (·.1) = pairRanges s := by
  have hgo : ∀ (l : List Nat) (t : State × List (Nat × Option W256)),
      (l.foldl (fun t n => let r := ownDigest t.1 n; (r.1, t.2 ++ [(n, r.2)])) t).2.map (·.1) = t.2.map (·.1) ++ l := by
    intro l
    induction l with
    | nil => simp
    | cons n l ih =>
      intro t
      rw [List.foldl_cons, ih]
      simp
  exact (hgo _ _).trans (by simp)

/-- A digest that is missing, or that the twin's differs from, counts as mismatched. -/
theorem mem_digestSplit {own : List (Nat × Option W256)} {ds : List (Nat × W256)} {n : Nat} {w : Option W256} (h : (n, w) ∈ own)
    (hdiffers : w = none ∨ assocGet ds n ≠ w) : n ∈ (digestSplit own ds).2 := by
  refine List.mem_map.mpr ⟨(n, w), List.mem_filter.mpr ⟨h, ?_⟩, rfl⟩
  rcases hdiffers with rfl | hne
  · rfl
  · simp [hne]

/-! ### What keeps a cut and its command -/

theorem lapsePrimary_mended (s : State) : Mended s (lapsePrimary s) :=
  ⟨rfl, rfl, rfl, rfl, rfl, rfl, rfl, rfl, rfl, .inr rfl⟩

theorem pairEvent_mended (s : State) (st : Status) : Mended s (pairEvent s st) :=
  ⟨rfl, rfl, rfl, rfl, rfl, rfl, rfl, rfl, rfl, .inl rfl⟩

theorem ReadWork.mended {s t : State} (h : ReadWork s t) : Mended s t := by
  obtain ⟨_, _, _, _, rfl⟩ := h
  exact .of_eq rfl rfl rfl rfl

theorem paired_of_state {s t : State} (h : t.dly.state = s.dly.state) : paired t = paired s := by
  unfold paired
  rw [h]

/-- Messages and a new stage of the cut leave a settled state settled. -/
theorem MessageSent.cutSet {s u : State} (h : MessageSent s u) (k : CutRun) : RecoverKept s (cutSet u k) := by
  obtain ⟨_, _, rfl, hended⟩ := h
  exact ⟨hended, rfl, rfl, rfl, rfl, rfl⟩

/-! ### A command that waits -/

/-- A command set waiting. -/
def cmdWaits (s : State) (cid : Nat) : State := { s with sp := cmdMod s.sp cid fun k => { k with phase := .waiting } }

theorem CmdsCharged.cmdWaits {s t : State} (h : CmdsCharged s t) {cid : Nat} {c : Cmd} (hget : Machine.cmdGet s cid = some c) :
    ∃ d, Machine.cmdGet (Machine.cmdWaits t cid) cid = some d ∧ d.phase = .waiting := by
  obtain ⟨pj, ht⟩ := h.cmdGet hget
  have hmod := cmdGet_cmdMod t cid (fun k => { k with phase := .waiting }) fun _ => rfl
  rw [ht] at hmod
  exact ⟨_, hmod, rfl⟩

/-! ### CUT -/

section Begin

variable {s : State} {c : Cmd}

theorem exec_cut {cid : Nat} (h : cmdServed s cid 0x60 cutNames = some c) : exec (.cut cid) s = .next (settle (cutBegin s c)) := by
  change execCut cid s = _
  unfold execCut
  rw [h]

/-- The check of a CUT only reads its group descriptor. -/
theorem cutCheck_reads (s : State) (c : Cmd) : (cutCheck s c).1 = (groupRead s c (cutBody (cmdBody c)).group).st := by
  unfold cutCheck
  dsimp only
  split
  · rfl
  · split <;> rfl

theorem cutCheck_space (s : State) (c : Cmd) : SpaceWork s (cutCheck s c).1 := cutCheck_reads s c ▸ groupRead_space _ _ _

theorem cutCheck_dly (s : State) (c : Cmd) : (cutCheck s c).1.dly = s.dly := cutCheck_reads s c ▸ (groupRead_reads _ _ _).1

theorem cutCheck_cells (s : State) (c : Cmd) : (cutCheck s c).1.mem.cells = s.mem.cells := cutCheck_reads s c ▸ (groupRead_reads _ _ _).2

/-- Only a primary's CUT passes, and the cut is its command's. -/
theorem cutCheck_ok {x : CutRun × Bool} (h : (cutCheck s c).2.1 = .ok x) : s.dly.role = .primary ∧ x.1.cid = c.id := by
  unfold cutCheck at h
  dsimp only at h
  split at h
  · cases h
  · split at h
    · cases h
    · next hchecks =>
      cases h
      have hstatic : cutStatic s c = true := by
        cases hs : cutStatic s c
        · simp [hs] at hchecks
        · rfl
      exact ⟨by simp_all [cutStatic], rfl⟩

theorem cutBegin_fails {r : Result} (h : (cutCheck s c).2.1 = .error r) : ∃ u, SpaceWork s u ∧ cutBegin s c = cmdEnd u c.id r := by
  refine ⟨if (cutCheck s c).2.2 && s.dly.cut.isNone then
      groupNext (cutCheck s c).1 c (cutBody (cmdBody c)).group (cutBody (cmdBody c)).seq else (cutCheck s c).1, ?_, ?_⟩
  · split
    · exact (cutCheck_space s c).trans (groupNext_space _ _ _ _)
    · exact cutCheck_space s c
  · unfold cutBegin
    dsimp only
    rw [h]

theorem cutBegin_waits {x : CutRun × Bool} (h : (cutCheck s c).2.1 = .ok x) (hcut : s.dly.cut.isSome = true) :
    cutBegin s c = cmdWaits (cutCheck s c).1 c.id := by
  have hbusy : s.dly.cut.isNone = false := by simpa using hcut
  unfold cutBegin
  dsimp only
  rw [h]
  simp only [hbusy, Bool.and_false, Bool.false_eq_true, if_false]
  rfl

/-- A cut that has begun, at step 1 while hold pressure holds it. -/
def cutBegun (s u : State) (cid : Nat) (run : CutRun) : State :=
  dlyMod (cmdWaits u cid) fun d => { d with
    cut := some { run with stage := if holdPressure s then 0 else 1 }, mirrorPos := 0, failed := [] }

theorem cutBegin_begins {u : State} {run : CutRun} (h : cutCheck s c = (u, .ok (run, true), true)) (hcut : s.dly.cut = none) :
    cutBegin s c = cutAdvance (cutBegun s u c.id run) := by
  unfold cutBegin
  dsimp only
  rw [h]
  simp only [hcut, Option.isNone_none, Bool.and_self, if_true]
  rfl

/-- A cut that is held, or whose drain goes on, is at step 1 or 2 then. -/
theorem cutAdvance_goes {k : CutRun} (hcut : s.dly.cut = some k) (hstage : k.stage = 0 ∨ k.stage = 1) (hpair : paired s = true)
    (hfailed : s.dly.failed = []) : ∃ n u, n ≤ 2 ∧ MessageSent s u ∧ cutAdvance s = cutSet u { k with stage := n } := by
  rcases hstage with hheld | hdrains
  · have hsame : { k with stage := 0 } = k := by rw [← hheld]
    exact ⟨0, s, Nat.zero_le _, .refl s, by rw [hsame, cutSet_same hcut, cutAdvance_held hcut (by omega)]⟩
  · obtain ⟨u, hsent, hadvance⟩ := cutAdvance_drains hcut hdrains hpair hfailed
    have hle : drainStage s ≤ 2 := by
      unfold drainStage
      split <;> omega
    exact ⟨_, u, hle, hsent, hadvance⟩

end Begin

/-! ### Holds, SEALED and verdicts -/

section Rows

variable {s : State} {k : CutRun} (hcut : s.dly.cut = some k)
include hcut

theorem cutRelease_held (hpressure : holdPressure s = true) : cutRelease s = s := by
  unfold cutRelease
  rw [hcut]
  exact if_neg (by simp [hpressure])

theorem cutRelease_released (hstage : k.stage = 0) (hpressure : holdPressure s = false) :
    cutRelease s = cutAdvance (cutSet s { k with stage := 1 }) := by
  unfold cutRelease
  rw [hcut, ← cutMod_set (fun k => { k with stage := 1 }) hcut]
  exact if_pos (by simp [hstage, hpressure])

theorem sealedReceive_sealed (hstage : k.stage = 2) : sealedReceive s k.gen true = cutVerdict s { k with isSealed := true } := by
  unfold sealedReceive
  rw [hcut]
  exact if_pos (by simp [hstage])

theorem sealedReceive_lapsed (hstage : k.stage = 2) : sealedReceive s k.gen false = cutVerdict (lapsePrimary s) k := by
  unfold sealedReceive
  rw [hcut]
  exact if_pos (by simp [hstage])

theorem verdictReceive_decides {m : Nat} (hmember : m ∈ k.members) (hstale : s.dly.stale.contains (m, k.gen) = false) (ready : Bool) :
    verdictReceive s m k.gen ready = cutDecide (cutSet s { k with verdicts := assocPut k.verdicts m ready }) := by
  unfold verdictReceive
  rw [hcut, ← cutMod_set (fun k => { k with verdicts := assocPut k.verdicts m ready }) hcut]
  simp only [hstale, Bool.false_eq_true, if_false, if_true, List.contains_iff_mem, hmember]

theorem cutTimeout_aborts (hstage : k.stage = 1 ∨ k.stage = 2 ∨ k.stage = 3) : CutAborted k .peerLost s (cutTimeout s k.cid) := by
  by_cases h3 : k.stage = 3
  · have habort : cutTimeout s k.cid = cutAbort s k .peerLost := by
      unfold cutTimeout
      simp [hcut, h3]
    exact habort ▸ cutAbort_aborted s k .peerLost
  · have habort : cutTimeout s k.cid = cutAbort (notReady s k) k .peerLost := by
      unfold cutTimeout
      simp only [hcut, ne_eq, not_true_eq_false, if_false]
      exact if_pos (by simp; omega)
    exact habort ▸ (cutAbort_aborted _ k .peerLost).of_message (notReady_message s k)

/-! ### The acknowledgement -/

/-- A generation committed on a primary: a copied pair is protected. -/
def cutProtected (s : State) (k : CutRun) : State :=
  dlyMod (cutCommitted s k) fun d => { d with state := if d.state = .copied then .guarded else d.state }

/-- What the continuity check found. -/
def digestsNoted (s : State) (p : List Nat × List Nat) : State :=
  dlyMod s fun d => { d with matched := BitVec.ofNat 32 (maskOf p.1), mismatched := BitVec.ofNat 32 (maskOf p.2) }

theorem commitAck_commits (ds : List (Nat × W256)) (hstage : k.stage = 4) (hcheck : k.check = false) :
    commitAck s k.gen ds = cutEnd (cutProtected s k) k .ok := by
  unfold commitAck
  rw [hcut]
  refine (if_pos (by simp [hstage])).trans (if_neg ?_)
  simp [hcheck]

theorem commitAck_differs {ds : List (Nat × W256)} (hstage : k.stage = 4) (hcheck : k.check = true)
    (hdiffers : (digestSplit (ownDigests (cutProtected s k)).2 ds).2 ≠ []) :
    commitAck s k.gen ds = lapsePrimary (cutEnd (pairEvent (digestsNoted (ownDigests (cutProtected s k)).1
      (digestSplit (ownDigests (cutProtected s k)).2 ds)) .continuityFail) k .continuityFail) := by
  unfold commitAck
  rw [hcut]
  refine (if_pos (by simp [hstage])).trans ((if_pos hcheck).trans (if_neg ?_))
  rw [List.isEmpty_iff]
  exact hdiffers

end Rows

end Sys2Proof.Machine
end

section
/-! CLAIMS. Cuts on a primary. -/

namespace Sys2Proof.Machine

/-- Settles O39: a clause for each row; what the end of a cut leaves is said by `CutClosed` and `CutAborted`, what its messages leave by
`MessageSent`, and what a twin mends after it by `Mended`. -/
theorem cutsOnAPrimary : Obligations.CutsOnAPrimary := by
  refine ⟨?fails, ?waits, ?begins, ?held, ?released, ?sealed, ?lapsed, ?refused, ?decided, ?commits, ?differs, ?timeout⟩
  case fails =>
    intro s cid c r hserved hs hcheck
    obtain ⟨rfl, hget, hlive⟩ := cmdServed_some hserved
    obtain ⟨u, hwork, hbegin⟩ := cutBegin_fails hcheck
    have hmended : Mended (cmdEnd u c.id r) (settle (cmdEnd u c.id r)) := settle_mended ((congrArg Fabric.ended hwork.fabric).trans hs.1)
    have hexec := exec_cut hserved
    rw [hbegin] at hexec
    exact ⟨_, hexec, hmended.endsWith (hwork.charged.cmdEnd_ends r hget hlive), hmended.cut.trans hwork.cut,
      hmended.committed.trans hwork.committed⟩
  case waits =>
    intro s cid c x hserved hs hcheck hcut
    obtain ⟨rfl, hget, -⟩ := cmdServed_some hserved
    have hwork := cutCheck_space s c
    obtain ⟨d, hd, hphase⟩ := hwork.charged.cmdWaits hget
    have hexec := exec_cut hserved
    rw [cutBegin_waits hcheck hcut, settle_primary (t := cmdWaits (cutCheck s c).1 c.id) ((congrArg Fabric.ended hwork.fabric).trans hs.1)
      (hwork.role.trans (cutCheck_ok hcheck).1)] at hexec
    exact ⟨_, d, hexec, hd, hphase, cutCheck_dly s c, cutCheck_cells s c⟩
  case begins =>
    intro s u cid c run hserved hs hcut hcheck hpair
    obtain ⟨rfl, hget, -⟩ := cmdServed_some hserved
    have hwork := cutCheck_space s c
    have hdly := cutCheck_dly s c
    obtain ⟨hrole, hcid⟩ := cutCheck_ok (x := (run, true)) (by rw [hcheck])
    rw [hcheck] at hwork hdly
    obtain ⟨d, hd, hphase⟩ := hwork.charged.cmdWaits hget
    have hstate : u.dly.state = s.dly.state := congrArg Dailies.state hdly
    have hpaired : paired (cutBegun s u c.id run) = true := (paired_of_state hstate).trans hpair
    have hstage : (if holdPressure s then 0 else 1) = 0 ∨ (if holdPressure s then 0 else 1) = 1 := by
      split <;> simp
    obtain ⟨n, v, hn, hsent, hadvance⟩ := cutAdvance_goes (s := cutBegun s u c.id run) rfl hstage hpaired rfl
    have hexec := exec_cut hserved
    rw [cutBegin_begins hcheck hcut, hadvance, settle_primary (t := cutSet v _) (hsent.ended.trans ((congrArg Fabric.ended hwork.fabric).trans hs.1))
      ((congrArg Dailies.role hsent.dly).trans (hwork.role.trans hrole))] at hexec
    refine ⟨_, d, _, hexec, ?_, hphase, rfl, hcid, rfl, rfl, hn, (congrArg Dailies.committed hsent.dly).trans hwork.committed, hsent.mem⟩
    exact (congrArg (fun y : Spaces => y.cmds.find? fun e : Cmd => e.id == c.id) hsent.sp).trans hd
  case held =>
    intro s k hcut _ hs hpressure
    change Host.Outcome.next (settle (cutRelease s)) = _
    rw [cutRelease_held hcut hpressure, (SettleKept.refl s).settle hs]
  case released =>
    intro s k hcut hstage hs hpair hpressure hfailed
    obtain ⟨u, hsent, hadvance⟩ := cutAdvance_drains (s := cutSet s { k with stage := 1 }) rfl rfl hpair hfailed
    have hexec : exec .cutHoldRelease s = .next (settle (cutRelease s)) := rfl
    rw [cutRelease_released hcut hstage hpressure, hadvance,
      (((MessageSent.refl s).cutSet _).trans (hsent.cutSet _)).settle hs] at hexec
    exact ⟨_, hexec, hsent.mem, rfl⟩
  case sealed =>
    intro s k hcut hstage hs hstate hready ⟨m, hmember, hother, hdue⟩
    obtain ⟨u, hsent, hvotes⟩ := cutVerdict_votes hcut { k with isSealed := true }
    have hown : cutReady s { k with isSealed := true } = true := by
      rcases hstate with h | h <;> simp [cutReady, h]
    rw [hown] at hvotes
    have hwaits : cutDecide (cutSet u (cutVoted s k true)) = cutSet u (cutVoted s k true) := by
      refine cutDecide_waits rfl (forall_assocPut (p := fun v => v.2 = true) hready rfl) ⟨m, hmember, ?_⟩
      exact (assocGet_assocPut_other _ _ hother).trans hdue
    have hexec : exec (.sealedReceive k.gen) s = .next (settle (sealedReceive s k.gen true)) := rfl
    rw [sealedReceive_sealed hcut hstage, hvotes, hwaits, (hsent.cutSet _).settle hs] at hexec
    exact ⟨_, _, hexec, rfl, rfl, assocGet_assocPut_same _ _ _, (congrArg Dailies.committed hsent.dly).trans rfl, hsent.mem⟩
  case lapsed =>
    intro s k c hcut hstage hs hget hlive
    have hlapsed := lapsePrimary_mended s
    obtain ⟨u, hsent, hvotes⟩ := cutVerdict_votes (hlapsed.cut.trans hcut) k
    have haborts : cutDecide (cutSet u (cutVoted (lapsePrimary s) k false)) = cutAbort (cutSet u (cutVoted (lapsePrimary s) k false))
        (cutVoted (lapsePrimary s) k false) .busy := cutDecide_busy rfl rfl ⟨_, List.mem_cons_self, rfl⟩
    have haborted := cutAbort_aborted (cutSet u (cutVoted (lapsePrimary s) k false)) (cutVoted (lapsePrimary s) k false) .busy
    have hmended := settle_mended (haborted.ended.trans (hsent.ended.trans (Eq.trans (congrArg Fabric.ended hlapsed.fabric) hs.1)))
    have hends := haborted.ends c
      ((congrArg (fun y : Spaces => y.cmds.find? fun e : Cmd => e.id == k.cid) hsent.sp).trans ((hlapsed.cmdGet k.cid).trans hget)) hlive
    have hstate := haborted.state.trans ((congrArg Dailies.state hsent.dly).trans rfl)
    have hexec : exec (.sealedReceive k.gen false) s = .next (settle (sealedReceive s k.gen false)) := rfl
    rw [sealedReceive_lapsed hcut hstage, hvotes, show cutReady (lapsePrimary s) k = false from rfl, haborts] at hexec
    exact ⟨_, hexec, hmended.endsWith hends, hmended.cut.trans haborted.cut, hmended.lapsed.elim (·.trans hstate) id,
      hmended.committed.trans (haborted.committed.trans ((congrArg Dailies.committed hsent.dly).trans hlapsed.committed))⟩
  case refused =>
    intro s k m c hcut hstage hs hmember hstale hget hlive
    have haborts := cutDecide_busy (s := cutSet s { k with verdicts := assocPut k.verdicts m false }) rfl hstage ⟨_, List.mem_cons_self, rfl⟩
    have haborted := cutAbort_aborted (cutSet s { k with verdicts := assocPut k.verdicts m false })
      { k with verdicts := assocPut k.verdicts m false } .busy
    have hmended := settle_mended (haborted.ended.trans hs.1)
    have hexec : exec (.cutVerdictReceive m k.gen false) s = .next (settle (verdictReceive s m k.gen false)) := rfl
    rw [verdictReceive_decides hcut hmember hstale, haborts] at hexec
    exact ⟨_, hexec, hmended.endsWith (haborted.ends c hget hlive), hmended.cut.trans haborted.cut,
      hmended.committed.trans haborted.committed, hmended.cntAborted.trans haborted.cntAborted⟩
  case decided =>
    intro s k m hcut hstage hs hmember hready hstale hothers
    have hall : ∀ i ∈ k.members, (assocGet (assocPut k.verdicts m true) i).isSome = true := by
      intro i hi
      by_cases him : i = m
      · rw [him, assocGet_assocPut_same]
        rfl
      · rw [assocGet_assocPut_other _ _ him]
        exact hothers i hi him
    obtain ⟨check, u, hsent, hcommits⟩ := cutDecide_commits (s := cutSet s { k with verdicts := assocPut k.verdicts m true }) rfl hstage
      (forall_assocPut (p := fun v => v.2 = true) hready rfl) hall
    have hexec : exec (.cutVerdictReceive m k.gen true) s = .next (settle (verdictReceive s m k.gen true)) := rfl
    rw [verdictReceive_decides hcut hmember hstale, hcommits,
      (((MessageSent.refl s).cutSet _).trans (hsent.cutSet _)).settle hs] at hexec
    exact ⟨_, _, hexec, rfl, rfl, rfl, (congrArg Dailies.committed hsent.dly).trans rfl, hsent.mem⟩
  case commits =>
    intro s k c ds hcut hstage hs hget hlive hcheck
    have hclosed := cutEnd_closed (cutProtected s k) k .ok
    have hmended := settle_mended (hclosed.ended.trans hs.1)
    have hexec : exec (.commitAckReceive k.gen ds) s = .next (settle (commitAck s k.gen ds)) := rfl
    rw [commitAck_commits hcut ds hstage hcheck] at hexec
    exact ⟨_, hexec, hmended.endsWith (hclosed.ends c hget hlive), hmended.cut.trans hclosed.cut, hmended.committed.trans hclosed.committed,
      hmended.cntCommitted.trans hclosed.cntCommitted, hmended.log.trans hclosed.log⟩
  case differs =>
    intro s s1 k c ds n w hcut hstage hs hget hlive hcheck hs1 hdigest hdiffers
    obtain rfl : s1 = cutProtected s k := hs1
    have hbad := mem_digestSplit hdigest hdiffers
    have hrange : n ∈ pairRanges (cutProtected s k) := ownDigests_ranges _ ▸ List.mem_map.mpr ⟨_, hdigest, rfl⟩
    have hn : n < 32 := List.mem_range.mp (List.mem_filter.mp hrange).1
    have hread := (ownDigests_work (cutProtected s k)).mended
    have hexec : exec (.commitAckReceive k.gen ds) s = .next (settle (commitAck s k.gen ds)) := rfl
    rw [commitAck_differs hcut hstage hcheck (List.ne_nil_of_mem hbad)] at hexec
    generalize hnoted : digestsNoted (ownDigests (cutProtected s k)).1 (digestSplit (ownDigests (cutProtected s k)).2 ds) = v at hexec
    have hevent := pairEvent_mended v .continuityFail
    have hclosed := cutEnd_closed (pairEvent v .continuityFail) k .continuityFail
    have hlapsed := lapsePrimary_mended (cutEnd (pairEvent v .continuityFail) k .continuityFail)
    have hended : v.fabric.ended = [] := hnoted ▸ (congrArg Fabric.ended hread.fabric).trans hs.1
    have hcommitted : v.dly.committed = k.gen := hnoted ▸ hread.committed
    have hmismatched : v.dly.mismatched.getLsbD n = true := hnoted ▸ getLsbD_maskOf hbad hn
    have hfound : cmdGet v k.cid = some c := hnoted ▸ (hread.cmdGet k.cid).trans hget
    have hmended := settle_mended ((congrArg Fabric.ended hlapsed.fabric).trans
      (hclosed.ended.trans ((congrArg Fabric.ended hevent.fabric).trans hended)))
    have hafter := hlapsed.trans hmended
    refine ⟨_, hexec, hafter.endsWith (hclosed.ends c ((hevent.cmdGet k.cid).trans hfound) hlive), hafter.cut.trans hclosed.cut,
      hafter.committed.trans (hclosed.committed.trans (hevent.committed.trans hcommitted)), hmended.lapsed.elim (·.trans rfl) id, ?_⟩
    rw [hafter.mismatched, hclosed.mismatched, hevent.mismatched]
    exact hmismatched
  case timeout =>
    intro s k c hcut hstage hs hget hlive
    have haborted := cutTimeout_aborts hcut hstage
    have hmended := settle_mended (haborted.ended.trans hs.1)
    exact ⟨_, rfl, hmended.endsWith (haborted.ends c hget hlive), hmended.cut.trans haborted.cut, hmended.committed.trans haborted.committed⟩

end Sys2Proof.Machine
end

section
/-! SUPPORT. A collective's writes and their failures (R251, R256, R258). -/

namespace Sys2Proof.Machine

/-- Writes of a collective: main memory was written, and a failure is no success. -/
structure ColWrote (s : State) (p : State × Option Result) : Prop where
  work : SpaceWork s p.1
  fails : ∀ e, p.2 = some e → e.status ≠ .ok

theorem ColWrote.none {s t : State} (h : SpaceWork s t) : ColWrote s (t, none) := ⟨h, nofun⟩

theorem ColWrote.failed {s t : State} {e : Result} (h : SpaceWork s t) (he : e.status ≠ .ok) : ColWrote s (t, some e) :=
  ⟨h, fun _ h => Option.some.inj h ▸ he⟩

theorem ColWrote.after {s t : State} {p : State × Option Result} (h : ColWrote t p) (hwork : SpaceWork s t) : ColWrote s p :=
  ⟨hwork.trans h.work, h.fails⟩

theorem colPut_wrote (s : State) (c : Cmd) (v : Nat) (bs : List Byte) : ColWrote s (colPut s c v bs) := ⟨colPut_space s c v bs, fun _ h => colPut_fails h⟩

theorem colPuts_wrote (c : Cmd) : ∀ (l : List (Nat × List Byte)) (s : State), ColWrote s (colPuts c l s)
  | [], s => .none (.refl s)
  | (v, bs) :: l, s => by
    have hput := colPut_wrote s c v bs
    simp only [colPuts]
    split
    · exact colPuts_wrote c l s
    · split
      · next e he => exact .failed hput.work (hput.fails e he)
      · exact (colPuts_wrote c l _).after hput.work

theorem colWrites_wrote (s : State) (x : ColSlot) (c : Cmd) : ColWrote s (colWrites s x c) := by
  unfold colWrites
  split
  · split
    · exact .none (.refl s)
    · have hread := readSpace_space s c x.dst 64
      dsimp only
      split
      · next hfails => exact .failed hread hfails
      · exact (colPut_wrote _ _ _ _).after hread
  · extract_lets sp p w u
    have hputs : ColWrote s p := colPuts_wrote _ _ _
    split
    · next e he => exact .failed hputs.work (hputs.fails e he)
    · split
      · exact .none hputs.work
      · have hblock : ColWrote p.1 w := colPut_wrote _ _ _ _
        have hwork := hputs.work.trans hblock.work
        split
        · next e he => exact .failed hwork (hblock.fails e he)
        · split
          · exact .none hwork
          · have hread : SpaceWork w.1 u.st := readSpace_space _ _ _ _
            split
            · next hfails => exact .failed (hwork.trans hread) hfails
            · exact (colPut_wrote _ _ _ _).after (hwork.trans hread)

/-- A reduction without compression writes nothing at its end. -/
theorem colWrites_plain (s : State) {x : ColSlot} (c : Cmd) (hnorm : x.norm = false) (hcomp : x.mine.comp = 0) : colWrites s x c = (s, none) := by
  simp [colWrites, hnorm, slotTopk, hcomp, colPuts]

end Sys2Proof.Machine
end

section
/-! SUPPORT. Loading a collective's source (R249, R252 to R254) keeps its seat: its command, its group and what it has still to run. -/

namespace Sys2Proof.Machine

/-- Two states of a slot of one command, group and program. -/
structure SeatKept (x y : ColSlot) : Prop where
  cid : y.cid = x.cid
  ranks : y.ranks = x.ranks
  rank : y.rank = x.rank
  prog : y.prog = x.prog

namespace SeatKept

theorem refl (x : ColSlot) : SeatKept x x := ⟨rfl, rfl, rfl, rfl⟩

theorem trans {x y z : ColSlot} (h : SeatKept x y) (k : SeatKept y z) : SeatKept x z :=
  ⟨k.cid.trans h.cid, k.ranks.trans h.ranks, k.rank.trans h.rank, k.prog.trans h.prog⟩

/-- What each step of a fold keeps, the fold keeps; `slot` reads the slot off what is folded. -/
theorem foldl {α β : Type} (slot : β → ColSlot) (f : β → α → β) (h : ∀ b a, SeatKept (slot b) (slot (f b a))) : ∀ (l : List α) (b : β),
    SeatKept (slot b) (slot (l.foldl f b))
  | [], _ => refl _
  | a :: l, b => (h b a).trans (foldl slot f h l (f b a))

theorem otherRanks {x y : ColSlot} (h : SeatKept x y) : otherRanks y = otherRanks x := by
  simp only [Machine.otherRanks, slotP, h.ranks, h.rank]

end SeatKept

theorem addNums_seat (x : ColSlot) (es : List (Nat × Num)) : SeatKept x (addNums x es) := by
  unfold addNums
  refine .foldl id _ (fun _ _ => ?_) es x
  exact ⟨rfl, rfl, rfl, rfl⟩

theorem addBlocks_seat (x : ColSlot) (bs : List Byte) : SeatKept x (addBlocks x bs) := by
  have hadded := addNums_seat x (blocksNums x (segBlocks x x.rank) bs)
  unfold addBlocks
  dsimp only
  split
  · exact hadded.trans ⟨rfl, rfl, rfl, rfl⟩
  · exact hadded

theorem loadSeg_seat (hs : List (Num × BitVec 16)) (x : ColSlot) (g : Nat) : SeatKept x (loadSeg hs x g).1 := by
  unfold loadSeg
  refine .foldl Prod.fst _ (fun _ _ => ?_) _ (x, [])
  exact ⟨rfl, rfl, rfl, rfl⟩

theorem loadComp_seat (x : ColSlot) (gs es : List Num) : SeatKept x (loadComp x gs es).1 := by
  have hcleared : SeatKept x { x with vals := List.replicate (ownLen x) 0 } := ⟨rfl, rfl, rfl, rfl⟩
  unfold loadComp
  extract_lets hs r sent
  have hloaded : SeatKept x r.1 := by
    refine hcleared.trans (.foldl Prod.fst _ (fun acc g => ?_) _ ({ x with vals := List.replicate (ownLen x) 0 }, []))
    exact loadSeg_seat hs acc.1 g
  refine (hloaded.trans ?_).trans (addBlocks_seat _ _)
  exact ⟨rfl, rfl, rfl, rfl⟩

end Sys2Proof.Machine
end

section
/-! SUPPORT. A collective of a group of one member (R243, R248): it runs alone, exchanges no message, and completes within the row. -/

namespace Sys2Proof.Machine

/-- A state in which the collective of command d runs alone, in slot x, since a state s. -/
structure Alone (s : State) (d : Cmd) (x : ColSlot) (t : State) : Prop where
  fabric : t.fabric = s.fabric
  done : t.col.done = s.col.done
  failed : t.col.failed = s.col.failed
  cmd : ∃ pj, cmdGet t d.id = some { d with pj := pj }
  slot : slotOf t d.id = some x
  others : otherRanks x = []

/-- The collective of a command has completed since a state s: its slot is free, it is counted, and no transaction is left of it. -/
structure Completed (s : State) (cid : Nat) (t : State) : Prop where
  freed : slotOf t cid = none
  trackers : t.fabric.trackers = s.fabric.trackers
  ended : t.fabric.ended = s.fabric.ended
  result : (endsOk t cid ∧ t.col.done = s.col.done + 1) ∨ (∃ st, st ≠ .ok ∧ endsWith t cid st ∧ t.col.failed = s.col.failed + 1)

/-- The collective runs on alone with a program that is left, or has completed. -/
def GoesOn (s : State) (d : Cmd) (prog : List ColOp) (t : State) : Prop := (∃ y, Alone s d y t ∧ y.prog = prog) ∨ Completed s d.id t

/-- The first slot that a test finds, after a change of the slots of its command. -/
theorem find_slot_map {cid : Nat} {x : ColSlot} {f : ColSlot → ColSlot} (hf : (f x).cid = cid) : ∀ {l : List ColSlot},
    l.find? (fun y => y.cid == cid) = some x → (l.map fun y => if y.cid = cid then f y else y).find? (fun y => y.cid == cid) = some (f x)
  | [], h => nomatch h
  | y :: l, h => by
    by_cases hy : y.cid = cid
    · obtain rfl : y = x := by simpa [hy] using h
      simp [hy, hf]
    · rw [List.find?_cons_of_neg (by simpa using hy)] at h
      simpa [hy] using find_slot_map hf h

theorem slotOf_colMod {t : State} {cid : Nat} {x : ColSlot} {f : ColSlot → ColSlot} (h : slotOf t cid = some x) (hf : (f x).cid = cid) :
    slotOf (colMod t cid f) cid = some (f x) := find_slot_map hf h

/-- A completed collective's slot given up and counted. -/
def colCounted (s : State) (x : ColSlot) : State :=
  { s with col := { s.col with slots := s.col.slots.filter fun y => y.cid != x.cid, done := s.col.done + 1 } }

theorem colCounted_freed (s : State) (x : ColSlot) : slotOf (colCounted s x) x.cid = none := by
  refine List.find?_eq_none.mpr fun y hy => ?_
  simpa using (List.mem_filter.mp hy).2

/-- The result of a completed collective. -/
def colResult (x : ColSlot) : Result := if x.norm then resultOf .ok else tallyResult x.tally true 0

theorem colResult_good (x : ColSlot) : (colResult x).status = .ok ∨ (colResult x).status = .okWithEvents := by
  unfold colResult
  split
  · exact .inl rfl
  · exact tallyStatus_good x.tally true

namespace Alone

variable {s t : State} {d : Cmd} {x : ColSlot} (h : Alone s d x t)
include h

theorem cid : x.cid = d.id := slotOf_cid h.slot

theorem space {u : State} (hwork : SpaceWork t u) : Alone s d x u where
  fabric := hwork.fabric.trans h.fabric
  done := (congrArg ColEngine.done hwork.col).trans h.done
  failed := (congrArg ColEngine.failed hwork.col).trans h.failed
  cmd := by
    obtain ⟨_, hget⟩ := h.cmd
    obtain ⟨pj, hget⟩ := hwork.charged.cmdGet hget
    exact ⟨pj, hget⟩
  slot := by
    unfold slotOf
    rw [hwork.col]
    exact h.slot
  others := h.others

theorem colMod {f : ColSlot → ColSlot} (hf : (f x).cid = x.cid) (hothers : otherRanks (f x) = []) :
    Alone s d (f x) (Machine.colMod t x.cid f) where
  fabric := h.fabric
  done := h.done
  failed := h.failed
  cmd := h.cmd
  slot := by
    rw [h.cid]
    exact slotOf_colMod h.slot (hf.trans h.cid)
  others := hothers

theorem seat {f : ColSlot → ColSlot} (hf : SeatKept x (f x)) : GoesOn s d x.prog (Machine.colMod t x.cid f) :=
  .inl ⟨f x, h.colMod hf.cid (hf.otherRanks.trans h.others), hf.prog⟩

/-- No transaction of it is out. -/
theorem quiet (htrackers : s.fabric.trackers = []) (hwaiting : s.fabric.waiting = []) (hended : s.fabric.ended = []) :
    txnsOut t d.id = false := by
  simp [txnsOut, h.fabric, htrackers, hwaiting, hended]

theorem slotCmd {c : Cmd} (hc : cmdGet t d.id = some c) : slotCmd t x = some c := by
  unfold Machine.slotCmd
  rw [h.cid]
  exact hc

variable (hlive : cmdLive d = true)
include hlive

theorem fails {r : Result} (hr : r.status ≠ .ok) : Completed s d.id (colFail t x r true) := by
  obtain ⟨pj, hget⟩ := h.cmd
  rw [← h.cid] at hget
  have hfailed := colFail_failed t x r true
  have hends := hfailed.ends _ hget hlive
  have hfreed := hfailed.freed
  rw [h.cid] at hends hfreed
  refine ⟨hfreed, (colFail_trackers t x r (.inr h.others)).trans (congrArg Fabric.trackers h.fabric),
    hfailed.ended.trans (congrArg Fabric.ended h.fabric), .inr ⟨_, hr, hends, ?_⟩⟩
  rw [hfailed.col, ← h.failed]

/-- An operation's own memory accesses, and then the next operation. -/
theorem next {p : State × Option Result} (hp : ColWrote t p) {f : ColSlot → ColSlot} (hf : ∀ y, SeatKept y (f y)) :
    GoesOn s d (x.prog.drop 1) (colNext p.1 x p.2 f) := by
  have hafter := h.space hp.work
  unfold colNext
  split
  · next e he => exact .inr (hafter.fails hlive (hp.fails e he))
  · have hseat := hf { x with prog := x.prog.drop 1 }
    exact .inl ⟨_, hafter.colMod (f := fun y => f { y with prog := y.prog.drop 1 }) hseat.cid
      (hseat.otherRanks.trans h.others), hseat.prog⟩

/-- An operation that reads out elements or a segment goes on. -/
theorem step {c : Cmd} {op : ColOp} (hop : (∃ lo hi, op = .readOut lo hi) ∨ ∃ g, op = .readSeg g) :
    ∃ u, colStep t x c op = some u ∧ GoesOn s d (x.prog.drop 1) u := by
  rcases hop with ⟨lo, hi, rfl⟩ | ⟨g, rfl⟩
  · exact ⟨_, rfl, h.next hlive (colPut_wrote _ _ _ _) fun _ => ⟨rfl, rfl, rfl, rfl⟩⟩
  · exact ⟨_, rfl, h.next hlive (p := (t, none)) (.none (.refl t)) fun _ => ⟨rfl, rfl, rfl, rfl⟩⟩

/-- Loading the source goes on. -/
theorem load (c : Cmd) : GoesOn s d x.prog (colLoad t x c) := by
  unfold colLoad
  extract_lets r n v p e l whole col u q
  have hread : SpaceWork t r.st := by
    unfold r
    split
    · exact .refl t
    · exact readTake_space _ _ _ _
  split
  · next hstatus => exact .inr ((h.space hread).fails hlive hstatus)
  · split
    · exact (h.space hread).seat ⟨rfl, rfl, rfl, rfl⟩
    · split
      · have hput : ColWrote r.st p := by
          unfold p
          split
          · exact .none (.refl _)
          · exact colPut_wrote _ _ _ _
        have hafter := (h.space hread).space hput.work
        split
        · next f hf => exact .inr (hafter.fails hlive (hput.fails f hf))
        · exact .inl ⟨x, hafter, rfl⟩
      · split
        · exact (h.space hread).seat ⟨rfl, rfl, rfl, rfl⟩
        · have hresid : SpaceWork r.st e.st := readSpace_space _ _ _ _
          have hloaded := (h.space hread).space hresid
          split
          · next hstatus => exact .inr (hloaded.fails hlive hstatus)
          · have hcounted : Alone s d x u := ⟨hloaded.fabric, hloaded.done, hloaded.failed, hloaded.cmd, hloaded.slot, hloaded.others⟩
            have hput : ColWrote u q := colPuts_wrote _ _ _
            have hafter := hcounted.space hput.work
            split
            · next f hf => exact .inr (hafter.fails hlive (hput.fails f hf))
            · exact hafter.seat (loadComp_seat _ _ _)

/-- A collective whose last writes succeed completes OK or OK_WITH_EVENTS, and is counted. -/
theorem finishes {c : Cmd} (hgroup : (groupPut t c x.group x.mine.seq).2 = none)
    (hwrites : (colWrites (groupPut t c x.group x.mine.seq).1 x c).2 = none) :
    Completed s d.id (colFinish t x c) ∧ endsOk (colFinish t x c) d.id ∧ (colFinish t x c).col.done = s.col.done + 1 := by
  have hafter := (h.space (colPut_space t c _ _)).space (colWrites_wrote (groupPut t c x.group x.mine.seq).1 x c).work
  have hfinish : colFinish t x c = cmdEnd (colCounted (colWrites (groupPut t c x.group x.mine.seq).1 x c).1 x) x.cid (colResult x) := by
    unfold colFinish
    simp only [hgroup, hwrites]
    rfl
  generalize (colWrites (groupPut t c x.group x.mine.seq).1 x c).1 = u at hafter hfinish
  obtain ⟨pj, hget⟩ := hafter.cmd
  have hends : endsOk (colFinish t x c) d.id := by
    rw [hfinish, h.cid]
    exact ⟨_, _, cmdGet_cmdEnd (colCounted u x) d.id (colResult x) _ hget hlive, rfl, colResult_good x⟩
  have hdone : (colFinish t x c).col.done = s.col.done + 1 := by
    rw [hfinish, ← hafter.done]
    rfl
  refine ⟨⟨?_, ?_, ?_, .inl ⟨hends, hdone⟩⟩, hends, hdone⟩
  · rw [hfinish, ← h.cid]
    exact colCounted_freed u x
  · rw [hfinish, ← hafter.fabric]
    rfl
  · rw [hfinish, ← hafter.fabric]
    rfl

/-- A collective that has run all its operations completes. -/
theorem finish (c : Cmd) : Completed s d.id (colFinish t x c) := by
  have hgroup : ColWrote t (groupPut t c x.group x.mine.seq) := colPut_wrote t c _ _
  cases hstatus : (groupPut t c x.group x.mine.seq).2 with
  | some e =>
    have hfinish : colFinish t x c = colFail (groupPut t c x.group x.mine.seq).1 x e true := by
      unfold colFinish
      simp only [hstatus]
    exact hfinish ▸ (h.space hgroup.work).fails hlive (hgroup.fails e hstatus)
  | none =>
    have hwrote := colWrites_wrote (groupPut t c x.group x.mine.seq).1 x c
    cases hwrites : (colWrites (groupPut t c x.group x.mine.seq).1 x c).2 with
    | some e =>
      have hfinish : colFinish t x c = colFail (colWrites (groupPut t c x.group x.mine.seq).1 x c).1 x e true := by
        unfold colFinish
        simp only [hstatus, hwrites]
      exact hfinish ▸ ((h.space hgroup.work).space hwrote.work).fails hlive (hwrote.fails e hwrites)
    | none => exact (h.finishes hlive hstatus hwrites).1

end Alone

/-! ### The run -/

theorem colRun_gone {t : State} {cid : Nat} (h : slotOf t cid = none) : ∀ fuel, colRun cid fuel t = t
  | 0 => rfl
  | fuel + 1 => by
    unfold colRun
    rw [h]

section Run

variable {s t u : State} {d c : Cmd} {x : ColSlot} (h : Alone s d x t) (hc : cmdGet t d.id = some c)
include h hc

theorem colRun_op {op : ColOp} {ops : List ColOp} (hprog : x.prog = op :: ops) (hstep : colStep t x c op = some u) (fuel : Nat) :
    colRun d.id (fuel + 1) t = colRun d.id fuel u := by
  rw [colRun]
  simp only [h.slot, h.slotCmd hc, hprog, hstep]

theorem colRun_end (hprog : x.prog = []) (hquiet : txnsOut t d.id = false) (fuel : Nat) : colRun d.id (fuel + 1) t = colFinish t x c := by
  rw [colRun]
  simp [h.slot, h.slotCmd hc, hprog, h.others, hquiet]

end Run

/-- Operations that only read out run to the end of the collective. -/
theorem colRun_completes {s : State} {d : Cmd} (hlive : cmdLive d = true) (htrackers : s.fabric.trackers = [])
    (hwaiting : s.fabric.waiting = []) (hended : s.fabric.ended = []) :
    ∀ (prog : List ColOp) (t : State), (∀ op ∈ prog, (∃ lo hi, op = .readOut lo hi) ∨ ∃ g, op = .readSeg g) → GoesOn s d prog t →
      Completed s d.id (colRun d.id (prog.length + 1) t)
  | prog, t, _, .inr hdone => by
    rw [colRun_gone hdone.freed]
    exact hdone
  | [], t, _, .inl ⟨x, h, hprog⟩ => by
    obtain ⟨_, hc⟩ := h.cmd
    rw [colRun_end h hc hprog (h.quiet htrackers hwaiting hended)]
    exact h.finish hlive _
  | op :: ops, t, hops, .inl ⟨x, h, hprog⟩ => by
    obtain ⟨_, hc⟩ := h.cmd
    obtain ⟨u, hstep, hgoes⟩ := h.step hlive (hops op List.mem_cons_self)
    rw [List.length_cons, colRun_op h hc hprog hstep]
    rw [hprog] at hgoes
    exact colRun_completes hlive htrackers hwaiting hended ops u (fun o ho => hops o (List.mem_cons_of_mem _ ho)) hgoes

end Sys2Proof.Machine
end

section
/-! SUPPORT. COLLECTIVE, NORM_REDUCE and COLLECTIVE_SEQ_READY considered (R243, R245, R260), and a collective of one member from its start to
its end. -/

namespace Sys2Proof.Machine

/-! ### Considering a command -/

/-- A collective's command is considered: admitted, or waiting at its turn, with none of the memory it names being filled. -/
def ColTurn (s : State) (cid : Nat) (c : Cmd) (i : Instr) : Prop :=
  (i = .collective cid ∧ cmdServed s cid 0x50 colNames = some c) ∨ (i = .normReduce cid ∧ cmdServed s cid 0x51 colNames = some c) ∨
    (i = .collectiveSeqReady cid ∧ colWaiting s cid = some c ∧ spansFill s c.space (colNames s c) = false)

theorem cmdServed_opcode {s : State} {cid opcode : Nat} {names : State → Cmd → List (Nat × Nat)} {c : Cmd}
    (h : cmdServed s cid opcode names = some c) : c.opcode = opcode :=
  (cmdReady_some s cid opcode c (Option.filter_eq_some_iff.1 h).1).2.2.1

theorem colWaiting_some {s : State} {cid : Nat} {c : Cmd} (h : colWaiting s cid = some c) :
    cmdGet s cid = some c ∧ c.phase = .waiting ∧ isCollective c = true := by
  unfold colWaiting at h
  split at h
  · next d hd =>
    split at h
    · next hc =>
      cases h
      simp only [Bool.and_eq_true, decide_eq_true_eq, Bool.or_eq_true] at hc
      obtain ⟨⟨hphase, hopcode⟩, -⟩ := hc
      exact ⟨hd, hphase, by simpa [isCollective] using hopcode⟩
    · cases h
  · cases h

namespace ColTurn

variable {s : State} {cid : Nat} {c : Cmd} {i : Instr} (h : ColTurn s cid c i)
include h

theorem exec : exec i s = .next (settle (colBegin s c)) := by
  rcases h with ⟨rfl, hserved⟩ | ⟨rfl, hserved⟩ | ⟨rfl, hwaiting, hfills⟩
  · change execCollective cid s = _
    unfold execCollective
    rw [hserved]
  · change execNormReduce cid s = _
    unfold execNormReduce
    rw [hserved]
  · have hfilter : (colWaiting s cid).filter (fun c => !(spansFill s c.space (colNames s c))) = some c := by
      simp [hwaiting, Option.filter, hfills]
    change execCollectiveSeqReady cid s = _
    unfold execCollectiveSeqReady
    rw [hfilter]

/-- The command is a live collective. -/
theorem live : c.id = cid ∧ cmdGet s cid = some c ∧ cmdLive c = true ∧ isCollective c = true := by
  rcases h with ⟨-, hserved⟩ | ⟨-, hserved⟩ | ⟨-, hwaiting, -⟩
  · obtain ⟨hid, hget, hlive⟩ := cmdServed_some hserved
    exact ⟨hid, hget, hlive, by simp [isCollective, cmdServed_opcode hserved]⟩
  · obtain ⟨hid, hget, hlive⟩ := cmdServed_some hserved
    exact ⟨hid, hget, hlive, by simp [isCollective, cmdServed_opcode hserved]⟩
  · obtain ⟨hget, hphase, hcol⟩ := colWaiting_some hwaiting
    exact ⟨cmdGet_id hget, hget, by simp [cmdLive, hphase], hcol⟩

end ColTurn

section Begin

variable {s : State} {c : Cmd}

/-- A command whose check fails ends and is counted. -/
theorem colBegin_fails {r : Result} (hcol : isCollective c = true) (h : (colCheck s c).result = .error r) :
    ∃ u, SpaceWork s u ∧ colBegin s c = cmdEnd { u with col := { u.col with failed := u.col.failed + 1 } } c.id r := by
  refine ⟨if (colCheck s c).turn && !(groupBusy s c) then
      groupNext (colCheck s c).st c (bodyOfCol c).group (bodyOfCol c).seq else (colCheck s c).st, ?_, ?_⟩
  · split
    · exact (colCheck_space s c).trans (groupNext_space _ _ _ _)
    · exact colCheck_space s c
  · unfold colBegin
    simp only [h]
    unfold cmdFail
    rw [if_pos hcol]

theorem colBegin_waits {x : ColSlot} (h : (colCheck s c).result = .ok x)
    (hlater : groupBusy s c = true ∨ (colCheck s c).ahead = true ∨ 64 ≤ s.col.slots.length) :
    colBegin s c = cmdWaits (colCheck s c).st c.id := by
  unfold colBegin
  simp only [h]
  refine if_pos ?_
  rw [(colCheck_space s c).col]
  rcases hlater with hbusy | hahead | hfull
  · simp [hbusy]
  · simp [hahead]
  · simp [hfull]

theorem colBegin_starts {x : ColSlot} (hbusy : groupBusy s c = false) (h : (colCheck s c).result = .ok x)
    (hahead : (colCheck s c).ahead = false) (hroom : s.col.slots.length < 64) : colBegin s c = colStart (colCheck s c).st x c := by
  unfold colBegin
  simp only [h]
  refine if_neg ?_
  rw [(colCheck_space s c).col]
  simp [hbusy, hahead, hroom]

end Begin

/-! ### The start of a collective of one member -/

/-- A checked collective in its slot, its command waiting. -/
def colSeated (s : State) (x : ColSlot) (c : Cmd) : State :=
  { s with sp := cmdMod s.sp c.id fun k => { k with phase := .waiting }
           col := { s.col with slots := s.col.slots ++ [x], highWater := max s.col.highWater (s.col.slots.length + 1) } }

section Start

variable {s : State} {x : ColSlot} {c : Cmd} (hearly : s.col.early = []) (hjoins : x.joins = []) (hothers : otherRanks x = [])
include hearly hjoins hothers

/-- With no other member, and no join kept, it loads its source and runs. -/
theorem colStart_alone : colStart s x c = colGo (colLoad (colSeated s x c) x c) x.cid := by
  have hnone : earlyJoins s x = [] := by simp [earlyJoins, hearly]
  have hsame : { x with joins := earlyJoins s x } = x := by rw [hnone, ← hjoins]
  unfold colStart
  extract_lets y col s1 s2
  have hy : y = x := hsame
  clear_value y
  subst hy
  have hs1 : s1 = colSeated s y c := by
    unfold s1 col colSeated
    dsimp only
    rw [hearly, List.filter_nil]
  have hs2 : s2 = colSeated s y c := by
    unfold s2
    rw [hothers]
    exact hs1
  rw [hs2]
  exact if_pos (by rw [hjoins]; rfl)

end Start

/-- It holds its slot alone. -/
theorem colSeated_alone {s k : State} {cid : Nat} {c : Cmd} {x : ColSlot} (hwork : SpaceWork s k) (hid : c.id = cid)
    (hget : cmdGet s cid = some c) (hfree : slotOf s cid = none) (hx : x.cid = cid) (hothers : otherRanks x = []) :
    Alone s { c with phase := .waiting } x (colSeated k x c) := by
  subst hid
  have hdone : k.col.done = s.col.done := congrArg ColEngine.done hwork.col
  have hfailed : k.col.failed = s.col.failed := congrArg ColEngine.failed hwork.col
  refine ⟨hwork.fabric, hdone, hfailed, ?_, ?_, hothers⟩
  · obtain ⟨pj, hk⟩ := hwork.charged.cmdGet hget
    have hmod := cmdGet_cmdMod k c.id (fun q => { q with phase := .waiting }) fun _ => rfl
    rw [hk] at hmod
    exact ⟨pj, hmod⟩
  · have hnone : k.col.slots.find? (fun y => y.cid == c.id) = none := by
      rw [hwork.col]
      exact hfree
    change (k.col.slots ++ [x]).find? (fun y => y.cid == c.id) = some x
    simp [List.find?_append, hnone, hx]

/-- Where one slot is the command's, only what a change does to it counts. -/
theorem colMod_congr {t : State} {cid : Nat} {f g : ColSlot → ColSlot} (h : ∀ y ∈ t.col.slots, y.cid = cid → f y = g y) :
    colMod t cid f = colMod t cid g := by
  have hslots : (t.col.slots.map fun y => if y.cid = cid then f y else y) = t.col.slots.map fun y => if y.cid = cid then g y else y := by
    refine List.map_congr_left fun y hy => ?_
    split
    · next hcid => exact h y hy hcid
    · rfl
  unfold colMod
  rw [hslots]

end Sys2Proof.Machine
end

section
/-! SUPPORT. A collective of one member from its load to its end (R248, R249, R262). -/

namespace Sys2Proof.Machine

theorem Alone.go {s t : State} {d : Cmd} {x : ColSlot} (h : Alone s d x t) : colGo t d.id = colRun d.id (x.prog.length + 1) t := by
  unfold colGo
  rw [h.slot]

/-- A collective of one member whose operations only read out completes. -/
theorem colGo_completes {s t : State} {d : Cmd} {prog : List ColOp} (hlive : cmdLive d = true) (htrackers : s.fabric.trackers = [])
    (hwaiting : s.fabric.waiting = []) (hended : s.fabric.ended = [])
    (hops : ∀ op ∈ prog, (∃ lo hi, op = .readOut lo hi) ∨ ∃ g, op = .readSeg g) (h : GoesOn s d prog t) :
    Completed s d.id (colGo t d.id) := by
  have hruns := colRun_completes hlive htrackers hwaiting hended prog t hops h
  rcases h with ⟨x, halone, hprog⟩ | hdone
  · rw [halone.go, hprog]
    exact hruns
  · unfold colGo
    rw [hdone.freed]
    exact hdone

/-- An uncompressed reduction's load takes each element as a partial. -/
theorem colLoad_plain {t : State} {x : ColSlot} {c : Cmd} (hsize : srcBytes x ≠ 0)
    (hstatus : (readTake t c x.src (srcBytes x)).status = .ok) (hnorm : x.norm = false) (hop : x.mine.op ≤ 1) (hcomp : x.mine.comp = 0) :
    colLoad t x c = colMod (readTake t c x.src (srcBytes x)).st x.cid
      fun y => loadPlain y (srcNums x (readTake t c x.src (srcBytes x)).bytes) := by
  have hop : ¬ 2 ≤ x.mine.op := by omega
  unfold colLoad
  simp only [if_neg hsize, hstatus, hnorm, hop, hcomp, ne_eq, not_true_eq_false, Bool.false_eq_true, if_false, if_true]

/-- Where a command had no slot, a slot taken for it is its only one. -/
theorem slot_sole {s : State} {cid : Nat} {x : ColSlot} (hfree : slotOf s cid = none) :
    ∀ y ∈ s.col.slots ++ [x], y.cid = cid → y = x := by
  intro y hy hcid
  rcases List.mem_append.mp hy with hold | hnew
  · exact absurd hcid (by simpa using List.find?_eq_none.mp hfree y hold)
  · exact List.mem_singleton.mp hnew

/-- The read-out of elements taken into a slot's tally, with its operation done. -/
def readDone (x : ColSlot) (lo hi : Nat) (q : ColSlot) : ColSlot :=
  { q with prog := q.prog.drop 1, tally := colTally q.tally lo ((readOuts x lo hi).map (·.ev)) }

/-- A loaded reduction without compression whose read-out and next_seq can be written completes OK or OK_WITH_EVENTS. -/
theorem Alone.reduces {s z : State} {d : Cmd} {y : ColSlot} {lo hi : Nat} {p : State × Option Result} (h : Alone s d y z)
    (hlive : cmdLive d = true) (htrackers : s.fabric.trackers = []) (hwaiting : s.fabric.waiting = []) (hended : s.fabric.ended = [])
    (hprog : y.prog = [.readOut lo hi]) (hnorm : y.norm = false) (hcomp : y.mine.comp = 0)
    (hp : p = colPut z d (y.dst + (lo - dstBase y y.rank) * slotOutW y) ((readOuts y lo hi).flatMap fun q => natLe (slotOutW y) q.code))
    (hwritten : p.2 = none) (hgroup : (groupPut (Machine.colMod p.1 y.cid (readDone y lo hi)) d y.group y.mine.seq).2 = none) :
    Completed s d.id (colGo z d.id) ∧ endsOk (colGo z d.id) d.id ∧ (colGo z d.id).col.done = s.col.done + 1 := by
  have hu : Alone s d (readDone y lo hi y) (Machine.colMod p.1 y.cid (readDone y lo hi)) :=
    (h.space (hp ▸ colPut_space _ _ _ _)).colMod (f := readDone y lo hi) rfl h.others
  obtain ⟨pj, hc⟩ := h.cmd
  obtain ⟨pj', hc'⟩ := hu.cmd
  have hstep : colStep z y { d with pj := pj } (.readOut lo hi) = some (Machine.colMod p.1 y.cid (readDone y lo hi)) := by
    have hnext : colStep z y { d with pj := pj } (.readOut lo hi) =
        some (colNext p.1 y p.2 fun q => { q with tally := colTally q.tally lo ((readOuts y lo hi).map (·.ev)) }) := by
      rw [hp]
      rfl
    rw [hnext, hwritten]
    rfl
  have hleft : (readDone y lo hi y).prog = [] := by
    change y.prog.drop 1 = []
    rw [hprog]
    rfl
  have hgo : colGo z d.id = colFinish (Machine.colMod p.1 y.cid (readDone y lo hi)) (readDone y lo hi y) { d with pj := pj' } := by
    rw [h.go, hprog]
    exact (colRun_op h hc hprog hstep 1).trans (colRun_end hu hc' hleft (hu.quiet htrackers hwaiting hended) 0)
  have hplain := colWrites_plain (groupPut (Machine.colMod p.1 y.cid (readDone y lo hi)) { d with pj := pj' } y.group y.mine.seq).1
    (x := readDone y lo hi y) { d with pj := pj' } hnorm hcomp
  rw [hgo]
  exact hu.finishes hlive hgroup (congrArg Prod.snd hplain)

end Sys2Proof.Machine
end

section
/-! CLAIMS. Collectives are checked, then start. -/

namespace Sys2Proof.Machine

/-- Settles O36: the check only reads, so a command that fails, waits or starts does so in the state the check left (`SpaceWork`); a
collective of one member runs alone (`Alone`) until it has completed (`Completed`). -/
theorem collectivesAreCheckedThenStart : Obligations.CollectivesAreCheckedThenStart := by
  refine ⟨?fails, ?waits, ?starts, ?completes, ?reduces⟩
  case fails =>
    intro s cid c i r hturn hs hcheck
    have h : ColTurn s cid c i := hturn
    obtain ⟨rfl, hget, hlive, hcol⟩ := h.live
    obtain ⟨u, hwork, hbegin⟩ := colBegin_fails hcol hcheck
    have hexec := h.exec
    rw [hbegin] at hexec
    have hcharged : CmdsCharged s { u with col := { u.col with failed := u.col.failed + 1 } } := hwork.charged.trans (.of_eq rfl)
    have hmended := settle_mended (s := cmdEnd { u with col := { u.col with failed := u.col.failed + 1 } } c.id r)
      ((congrArg Fabric.ended hwork.fabric).trans hs.1)
    have hcount : { u.col with failed := u.col.failed + 1 } = { s.col with failed := s.col.failed + 1 } := by rw [hwork.col]
    exact ⟨_, hexec, hmended.endsWith (hcharged.cmdEnd_ends r hget hlive), hmended.col.trans hcount,
      fun _ => hmended.fabric.trans hwork.fabric⟩
  case waits =>
    intro s cid c i x hturn hs hcheck hlater
    have h : ColTurn s cid c i := hturn
    obtain ⟨rfl, hget, -, -⟩ := h.live
    have hwork := colCheck_space s c
    obtain ⟨d, hd, hphase⟩ := hwork.charged.cmdWaits hget
    have hmended := settle_mended (s := cmdWaits (colCheck s c).st c.id) ((congrArg Fabric.ended hwork.fabric).trans hs.1)
    have hexec := h.exec
    rw [colBegin_waits hcheck hlater] at hexec
    exact ⟨_, d, hexec, (hmended.cmdGet c.id).trans hd, hphase, hmended.col.trans hwork.col, fun _ => hmended.fabric.trans hwork.fabric⟩
  case starts =>
    intro s cid c i x hturn hbusy hcheck hahead hroom
    have h : ColTurn s cid c i := hturn
    rw [h.exec, colBegin_starts hbusy hcheck hahead hroom]
  case completes =>
    intro s cid c i x hturn hs htrackers hwaiting hearly hfree hbusy hcheck hahead hroom hx hjoins hothers hops
    have h : ColTurn s cid c i := hturn
    obtain ⟨rfl, hget, -, -⟩ := h.live
    have hwork := colCheck_space s c
    have hseated := colSeated_alone hwork rfl hget hfree hx hothers
    have hdone : Completed s c.id (colGo (colLoad (colSeated (colCheck s c).st x c) x c) c.id) :=
      colGo_completes (d := { c with phase := .waiting }) rfl htrackers hwaiting hs.1 hops (hseated.load rfl c)
    have hmended := settle_mended (hdone.ended.trans hs.1)
    have hexec := h.exec
    rw [colBegin_starts hbusy hcheck hahead hroom, colStart_alone ((congrArg ColEngine.early hwork.col).trans hearly) hjoins hothers, hx] at hexec
    refine ⟨_, hexec, (hmended.slotOf c.id).trans hdone.freed, fun _ => ?_, ?_⟩
    · exact (congrArg Fabric.trackers hmended.fabric).trans (hdone.trackers.trans htrackers)
    · rw [hmended.col]
      exact hdone.result.imp (fun ⟨hends, hcount⟩ => ⟨hmended.endsOk hends, hcount⟩)
        fun ⟨st, hst, hends, hcount⟩ => ⟨st, hst, hmended.endsWith hends, hcount⟩
  case reduces =>
    intro s s1 z u cid lo hi c d i k x y r p hturn hs htrackers hwaiting hearly hfree hbusy hk hcheck hahead hroom hx hjoins hothers hnorm hop
      hcomp hprog hd hs1 hsize hr hstatus hy hz hp hwritten hu hgroup
    have h : ColTurn s cid c i := hturn
    obtain ⟨rfl, hget, -, -⟩ := h.live
    subst hk
    have hwork := colCheck_space s c
    obtain rfl : s1 = colSeated (colCheck s c).st x c := hs1
    have hseated := colSeated_alone hwork rfl hget hfree hx hothers
    have hread : SpaceWork (colSeated (colCheck s c).st x c) r.st := hr ▸ readTake_space _ _ _ _
    have hfound : slotOf (colCheck s c).st c.id = none := by
      unfold slotOf
      rw [hwork.col]
      exact hfree
    have hload : colLoad (colSeated (colCheck s c).st x c) x c = z := by
      rw [colLoad_plain hsize (hr ▸ hstatus) hnorm hop hcomp, ← hr, hz, hx]
      refine colMod_congr fun q hq hcid => ?_
      rw [hread.col] at hq
      rw [slot_sole hfound q hq hcid, hy]
    have hloaded : Alone s d y z := by
      have hafter := (hseated.space hread).colMod (f := fun _ => y) (by rw [hy]; rfl) (by rw [hy]; exact hothers)
      rw [hx] at hafter
      rw [hd, hz]
      exact hafter
    have hcid : y.cid = c.id := by
      rw [hy]
      exact hx
    obtain rfl : u = colMod p.1 y.cid (readDone y lo hi) := hcid ▸ hu
    have hend := hloaded.reduces (by rw [hd]; rfl) htrackers hwaiting hs.1 (by rw [hy]; exact hprog) (by rw [hy]; exact hnorm)
      (by rw [hy]; exact hcomp) hp hwritten hgroup
    rw [show d.id = c.id by rw [hd]] at hend
    obtain ⟨hdone, hends, hcount⟩ := hend
    have hmended := settle_mended (hdone.ended.trans hs.1)
    have hexec := h.exec
    rw [colBegin_starts hbusy hcheck hahead hroom, colStart_alone ((congrArg ColEngine.early hwork.col).trans hearly) hjoins hothers, hx,
      hload] at hexec
    exact ⟨_, hexec, hmended.endsOk hends, (congrArg ColEngine.done hmended.col).trans hcount⟩

end Sys2Proof.Machine
end

section
/-! SUPPORT. Requests of the twin streams and of the take log that go out, the entry that a pairing event leaves in the error log, and
accesses by which a twin reads its mirror: no byte of memory changes. -/

namespace Sys2Proof.Machine

/-! ### Requests (R222) -/

/-- Where a packet could be sent, a request is issued or waits for a tracker, and no transaction ends by it, whoever its owner is. -/
theorem request_sent {s : State} {w : Waiting} {n : Nat} (horig : canOriginate s = true)
    (hlink : (if w.twinOnly then pickTwinLink s else pickLink s w.pkt.dst) = some n) : MessageSent s (request s w) := by
  unfold request
  split
  · rw [issue, if_pos horig, hlink]
    exact ⟨_, _, rfl, rfl⟩
  · exact ⟨_, _, rfl, rfl⟩

theorem partnerMsg_message (kind : Nat) (data : List Byte) (s : State) : MessageSent s (partnerMsg kind data s) :=
  dlyMsg_message _ _ _ _ s

theorem MessageSent.draws {s t : State} (h : MessageSent s t) : t.draws = s.draws := by
  obtain ⟨_, _, rfl, -⟩ := h
  rfl

/-! ### The error log (R469) -/

/-- A pairing event, a lapse or an abandoned print is logged with kind 12. -/
theorem logPair_entry (s : State) (st : Status) (bit12 : Bool) : ∃ e ∈ (logPair s st bit12).err.entries, e.kind = 12 := by
  obtain ⟨x, hx, hkind, -⟩ := logAdd_entry s.err { logBlank with
    kind := 12, unit := 122, status := st, detail := s.dly.partner + if bit12 then 2 ^ 12 else 0 }
  exact ⟨x, hx, hkind⟩

/-! ### Reads -/

theorem ReadWork.dly {s t : State} (h : ReadWork s t) : t.dly = s.dly := by
  obtain ⟨_, _, _, _, rfl⟩ := h
  rfl

theorem ReadWork.fabric {s t : State} (h : ReadWork s t) : t.fabric = s.fabric := by
  obtain ⟨_, _, _, _, rfl⟩ := h
  rfl

theorem ReadWork.sp {s t : State} (h : ReadWork s t) : t.sp = s.sp := by
  obtain ⟨_, _, _, _, rfl⟩ := h
  rfl

theorem readPhys_work (s : State) (w : Who) (a size : Nat) : ReadWork s (readPhys s w a size).st := readPhysF_work w _ a size s

theorem foldl_cells {α β : Type} (f : State × β → α → State × β) (h : ∀ t x, (f t x).1.mem.cells = t.1.mem.cells) :
    ∀ (l : List α) (t : State × β), (l.foldl f t).1.mem.cells = t.1.mem.cells
  | [], _ => rfl
  | x :: l, t => (foldl_cells f h l (f t x)).trans (h t x)

theorem lineValue_cells (s : State) (key : Nat) : (lineValue s key).1.mem.cells = s.mem.cells := by
  unfold lineValue
  split
  · exact readPhys_cells s {} _ 64
  · exact (readInUnit_kept s {} 32 _ 64).cells

theorem framePlain_cells (s : State) (key : Nat) : (framePlain s key).1.mem.cells = s.mem.cells := by
  unfold framePlain
  refine foldl_cells _ (fun t _ => ?_) _ (s, some [])
  exact lineValue_cells t.1 _

theorem gmacsGo_cells (n : Nat) : ∀ (left off : Nat) (s : State), (gmacsGo n left off s).1.mem.cells = s.mem.cells
  | 0, _, _ => rfl
  | left + 1, off, s => (gmacsGo_cells n left (off + 256) _).trans (framePlain_cells s _)

theorem ownDigests_cells (s : State) : (ownDigests s).1.mem.cells = s.mem.cells := by
  unfold ownDigests
  refine foldl_cells _ (fun t n => ?_) _ (s, [])
  exact gmacsGo_cells n _ _ t.1

end Sys2Proof.Machine
end

section
/-! SUPPORT. The rows of pairing, case by case (R266, Tables 10-1, 10-14). -/

namespace Sys2Proof.Machine

variable {s : State}

/-! ### PAIRING_START -/

/-- A module that has begun to pair, its nonce drawn. -/
def pairingBegun (s : State) (ids : BitVec 32) : State :=
  drawUse (dlyMod s fun d => { d with
    state := .pairing, nonceDraw := s.draws, partner := pairPeer s, offerOut := false
    mirrorIds := if d.role = .twin then ids else d.mirrorIds }) 1

theorem quoteCheck_free (hvault : s.keys.vaultOk = true) (hroom : s.keys.quotes.length < 64) : quoteCheck s = none := by
  simp [quoteCheck, hvault, Nat.not_le.mpr hroom]

/-- A module that may pair sends its nonce and asks for the offer's quote. -/
theorem pairingStart_asks (nonce : W256) (ids : BitVec 32) (hrole : s.dly.role ≠ .none) (hstate : s.dly.state = .unpaired)
    (hbarred : s.dly.barred = false) (hup : twinUp s = true) (hentropy : s.keys.entropyOk = true) (hvault : s.keys.vaultOk = true)
    (hroom : s.keys.quotes.length < 64) :
    ∃ data, pairingStart nonce ids s = quoteAsk (partnerMsg 0x0F data (pairingBegun s ids)) ⟨nonce, [], .pair⟩ :=
  ⟨_, (if_neg (by simp [hrole, hstate, hbarred, hup, drawsWait, hentropy, quoteCheck_free hvault hroom])).trans
    (if_neg (by simp [hvault]))⟩

/-! ### PAIR_OFFER_RECEIVE -/

theorem offerReceive_early (o : PairOffer) (hrole : s.dly.role ≠ .none)
    (hearly : s.dly.state = .unpaired ∨ (s.dly.state = .pairing ∧ s.dly.offerOut = false)) :
    offerReceive s o = dlyMod s fun d => { d with offer := some o } := by
  refine (if_neg hrole).trans (if_pos ?_)
  rcases hearly with h | ⟨h, hout⟩
  · simp [h]
  · simp [h, hout]

theorem offerReceive_checks (o : PairOffer) (hrole : s.dly.role ≠ .none) (hstate : s.dly.state = .pairing) (hout : s.dly.offerOut = true)
    (hdraws : s.keys.entropyOk = true ∨ s.dly.role = .twin) : offerReceive s o = offerCheck s o := by
  refine (if_neg hrole).trans ((if_neg (by simp [hstate, hout])).trans ((if_pos hstate).trans (if_neg ?_)))
  rcases hdraws with h | h <;> simp [drawsWait, h]

theorem offerCheck_refuses {o : PairOffer} {r : Nat} (hreason : offerReason s o = some r) : offerCheck s o = pairRefuse s r := by
  unfold offerCheck
  rw [hreason]

/-- An offer that passes is kept, and its module is the partner; what an earlier pair has left is gone. -/
def offerTaken (s : State) (o : PairOffer) : State :=
  holdOthers (dlyMod s fun d => { d with
    partner := o.moduleId % 4096, offer := some o, opened := [], sealed := [], ready := [], sealedIntervals := 0, sealedGen := none
    stepHigh := 0, suspected := false, lapseDue := false, rewinding := false, report := {}, map := [], mirrorPos := 0, failed := []
    stale := [] })

/-- The continuity key drawn into slot 5, under an epoch. -/
def continuityDrawn (s : State) (e : Nat) : State :=
  dlyMod (drawUse { s with keys := { s.keys with slots := s.keys.slots.set 5 (continuitySlot (drawAt s 0)) } } 1) fun d => { d with
    epoch := e, epochs := assocPut d.epochs d.partner e }

theorem offerCheck_twin {o : PairOffer} (hreason : offerReason s o = none) (hrole : s.dly.role = .twin) :
    offerCheck s o = offerTaken s o := by
  have hnot : (offerTaken s o).dly.role ≠ .primary := by
    change s.dly.role ≠ .primary
    rw [hrole]
    decide
  unfold offerCheck
  rw [hreason]
  exact if_neg hnot

/-- A primary sends its twin the key that it has drawn, with the epoch and the generation, and resilvers. -/
theorem offerCheck_primary {o : PairOffer} (hreason : offerReason s o = none) (hrole : s.dly.role = .primary) :
    ∃ data, offerCheck s o =
      resilverStart (partnerMsg 0x11 data (continuityDrawn (offerTaken s o) (1 + max s.dly.epoch o.epoch))) := by
  unfold offerCheck
  rw [hreason]
  exact ⟨_, if_pos hrole⟩

/-! ### CONTINUITY_KEY_RECEIVE -/

theorem continuityKey_taken (key : W256) (e g : Nat) (hrole : s.dly.role = .twin) (hstate : s.dly.state = .pairing)
    (hoffer : s.dly.offer.isSome = true) :
    continuityKey s key e g = resilverStart (dlyMod { s with keys := { s.keys with slots := s.keys.slots.set 5 (continuitySlot key) } }
      fun d => { d with
        epoch := e % 2 ^ 32, epochs := assocPut d.epochs d.partner (e % 2 ^ 32), committed := g % 2 ^ 48, applied := g % 2 ^ 48 }) :=
  if_pos (by simp [hrole, hstate, hoffer])

end Sys2Proof.Machine
end

section
/-! SUPPORT. The twin streams (R267, R280): copies written by the twin, and the mirror packets of a primary. -/

namespace Sys2Proof.Machine

variable {s : State}

/-! ### Copies (R280) -/

/-- A copy from the partner over an up twin link is written. -/
theorem resilverReceive_writes {link range off : Nat} {bs : List Byte} (hrole : s.dly.role = .twin) (hstate : s.dly.state = .resilvering)
    (hlink : isTwinLink s link = true) (hup : (linkOf s link).state = 2) (hrange : range ∈ pairRanges s)
    (hsize : off + bs.length ≤ dataSize (rangeCfg s range))
    (hok : (writePhys s {} ((rangeCfg s range).base + off) bs).status = .ok) :
    resilverReceive s s.dly.partner link range off bs = dlyMod (writePhys s {} ((rangeCfg s range).base + off) bs).st fun d => { d with
      resilverPos := d.resilverPos + bs.length / 64, doneMib := (d.resilverPos + bs.length / 64) * 64 / 2 ^ 20 } := by
  have hpair : paired s = true := by simp [paired, hstate]
  unfold resilverReceive
  rw [if_pos (by simp [hrole, hpair, hlink, hup, hrange, hsize])]
  simp only [hstate, if_true, hok]

theorem resilverDone_ends (hstate : s.dly.state = .resilvering)
    (hcopied : s.dly.role = .twin ∨ (mirrorLines s ≤ s.dly.resilverPos ∧ resilverBusy s = false)) :
    resilverDone s = dlyMod s fun d => { d with state := .copied, doneMib := d.totalMib } := by
  refine if_pos ?_
  rcases hcopied with h | ⟨hall, hbusy⟩
  · simp [hstate, h]
  · simp [hstate, hall, hbusy]

theorem resilverSend_idle (h : s.dly.state ≠ .resilvering) : resilverSend s = s := if_pos h

/-! ### Mirror packets (R267) -/

/-- Lines on their way in a mirror packet are out of the map. -/
def mirrorTaken (s : State) (l k : Nat) : State :=
  dlyMod s fun d => { d with map := runDel d.map l (l + k), mirrorPos := l + k, cntMirror := d.cntMirror + k }

theorem mirrorPacket_sent (n l k : Nat) (bs : List Byte) {link : Nat} (horig : canOriginate s = true) (hlink : pickTwinLink s = some link) :
    MessageSent (mirrorTaken s l k) (mirrorPacket s n l k bs) :=
  request_sent (s := mirrorTaken s l k) horig hlink

/-- Lines that can be read leave the map, and their reading changes nothing of the dailies. -/
theorem mirrorSend_sends {n link : Nat} {r : Nat × Nat} (horig : canOriginate s = true) (hlink : pickTwinLink s = some link)
    (hnext : mirrorNext s = some r) (hrange : rangeAt s (r.1 * 64) = some n) (hfill : filling s n = false)
    (hread : (readPhys s {} (r.1 * 64) (64 * mirrorTake s n r.1 r.2)).status = .ok) :
    MessageSent (mirrorTaken (readPhys s {} (r.1 * 64) (64 * mirrorTake s n r.1 r.2)).st r.1 (mirrorTake s n r.1 r.2)) (mirrorSend s) := by
  have hpacket : mirrorSend s = mirrorPacket (readPhys s {} (r.1 * 64) (64 * mirrorTake s n r.1 r.2)).st n r.1 (mirrorTake s n r.1 r.2)
      (readPhys s {} (r.1 * 64) (64 * mirrorTake s n r.1 r.2)).bytes := by
    unfold mirrorSend
    simp only [hnext, hrange, hfill, Bool.false_eq_true, if_false, hread, if_true]
  have hwork := readPhys_work s {} (r.1 * 64) (64 * mirrorTake s n r.1 r.2)
  rw [hpacket]
  generalize (readPhys s {} (r.1 * 64) (64 * mirrorTake s n r.1 r.2)).bytes = bs
  generalize (readPhys s {} (r.1 * 64) (64 * mirrorTake s n r.1 r.2)).st = u at hwork ⊢
  obtain ⟨_, _, _, _, rfl⟩ := hwork
  exact mirrorPacket_sent _ _ _ _ horig hlink

theorem foldl_runDel_nil (l : List (Nat × Nat)) : l.foldl (fun m r => runDel m r.1 r.2) [] = [] := by
  induction l with
  | nil => rfl
  | cons r l ih => exact ih

theorem mirrorNext_empty (h : s.dly.map = []) : mirrorNext s = none := by
  unfold mirrorNext
  dsimp only
  rw [h, foldl_runDel_nil]
  rfl

theorem mirrorSend_idle (h : s.dly.map = []) : mirrorSend s = s := by
  unfold mirrorSend
  rw [mirrorNext_empty h]

/-- With an empty map and no resilver no packet is sent. -/
theorem streamSend_idle (hstate : s.dly.state ≠ .resilvering) (hmap : s.dly.map = []) : ∀ n, streamSend n s = s
  | 0 => rfl
  | n + 1 => by rw [streamSend, mirrorSend_idle hmap, resilverSend_idle hstate, streamSend_idle hstate hmap n]

theorem cutAdvance_idle (h : s.dly.cut = none) : cutAdvance s = s := by
  unfold cutAdvance
  rw [h]

theorem mirrorStream_open (n : Nat) (hrole : s.dly.role = .primary) (hpair : paired s = true) (hopen : systemOpen s = true) :
    mirrorStream s n = cutAdvance (streamSend n s) := if_pos (by simp [hrole, hpair, hopen])

theorem mirrorStream_shut (n : Nat) (hshut : systemOpen s = false) : mirrorStream s n = s := if_neg (by simp [hshut])

end Sys2Proof.Machine
end

section
/-! CLAIMS. Pairs form and resilver. -/

namespace Sys2Proof.Machine

/-- Settles O38: a clause for each row; messages leave all but the fabric (`MessageSent`), reads all but what the memory keeps beside its
bytes (`ReadWork`), and then nothing is left to settle. -/
theorem pairsFormAndResilver : Obligations.PairsFormAndResilver := by
  refine ⟨?starts, ?early, ?refused, ?keyed, ?kept, ?key, ?copied, ?done, ?mirrors, ?idle⟩
  case starts =>
    intro s nonce ids hrole hstate hbarred hup hentropy hvault hroom hs
    obtain ⟨data, hstart⟩ := pairingStart_asks nonce ids hrole hstate hbarred hup hentropy hvault hroom
    have hsent := partnerMsg_message 0x0F data (pairingBegun s ids)
    have hslots := congrArg Keys.slots hsent.keys
    have hunpaired : paired (partnerMsg 0x0F data (pairingBegun s ids)) = false := paired_of_state (congrArg Dailies.state hsent.dly)
    have hexec : exec (.pairingStart nonce ids) s = .next (settle (pairingStart nonce ids s)) := rfl
    rw [hstart, settle_unpaired (t := quoteAsk _ _) (hsent.ended.trans hs.1) hunpaired] at hexec
    exact ⟨_, hexec, hsent.dly, congrArg (fun k : Keys => k.quotes ++ [⟨nonce, [], .pair⟩]) hsent.keys, hsent.draws,
      hslots, hsent.mem, hsent.sp⟩
  case early =>
    intro s o hrole hs hearly
    have hkept : RecoverKept s (dlyMod s fun d => { d with offer := some o }) := ⟨rfl, rfl, rfl, rfl, rfl, rfl⟩
    have hexec : exec (.pairOfferReceive o) s = .next (settle (offerReceive s o)) := rfl
    rw [hexec, offerReceive_early o hrole hearly, hkept.settle hs]
    rfl
  case refused =>
    intro s o r hrole hstate hout hentropy hs hreason
    have hexec : exec (.pairOfferReceive o) s = .next (settle (offerReceive s o)) := rfl
    rw [offerReceive_checks o hrole hstate hout (.inl hentropy), offerCheck_refuses hreason,
      settle_unpaired (t := pairRefuse s r) hs.1 rfl] at hexec
    exact ⟨_, hexec, rfl, logPair_entry _ _ _, rfl, rfl⟩
  case keyed =>
    intro s o hrole hstate hout hentropy hs hreason hslots
    obtain ⟨data, hcheck⟩ := offerCheck_primary hreason hrole
    have hsent := partnerMsg_message 0x11 data (continuityDrawn (offerTaken s o) (1 + max s.dly.epoch o.epoch))
    have hexec : exec (.pairOfferReceive o) s = .next (settle (offerReceive s o)) := rfl
    rw [offerReceive_checks o (by rw [hrole]; decide) hstate hout (.inl hentropy), hcheck,
      settle_primary (t := resilverStart _) (hsent.ended.trans hs.1) ((congrArg Dailies.role hsent.dly).trans hrole)] at hexec
    exact ⟨_, hexec, rfl, congrArg Dailies.partner hsent.dly, congrArg Dailies.epoch hsent.dly, rfl,
      (congrArg (fun k : Keys => k.slots[5]?) hsent.keys).trans (List.getElem?_set_self hslots), hsent.draws, hsent.mem, hsent.sp⟩
  case kept =>
    intro s o hrole hstate hout hs hreason
    have hunpaired : paired (offerTaken s o) = false := by
      change paired s = false
      simp [paired, hstate]
    have hexec : exec (.pairOfferReceive o) s = .next (settle (offerReceive s o)) := rfl
    rw [offerReceive_checks o (by rw [hrole]; decide) hstate hout (.inr hrole), offerCheck_twin hreason hrole,
      settle_unpaired (t := offerTaken s o) hs.1 hunpaired] at hexec
    exact ⟨_, hexec, hstate, rfl, rfl, rfl, rfl⟩
  case key =>
    intro s key e g hrole hstate hoffer hslots
    exact ⟨_, congrArg Host.Outcome.next (continuityKey_taken key e g hrole hstate hoffer), rfl, rfl, rfl, rfl,
      List.getElem?_set_self hslots, rfl⟩
  case copied =>
    intro s src link range off bs w hrole hstate hsrc hlink hup hrange hsize hfill hw hok
    subst hsrc hw
    have hexec : exec (.resilverCopyReceive s.dly.partner link range off bs) s =
        .next (settle (resilverReceive s s.dly.partner link range off bs)) := congrArg Host.Outcome.next (if_neg (by simp [hfill]))
    rw [hexec, resilverReceive_writes hrole hstate hlink hup hrange hsize hok]
    rfl
  case done =>
    intro s hstate hcopied
    exact congrArg Host.Outcome.next (resilverDone_ends hstate hcopied)
  case mirrors =>
    intro s n k link r hrole hstate hcut hs horig hlink hnext hrange hfill hk hread hopen
    subst hk
    have hsent := mirrorSend_sends horig hlink hnext hrange hfill hread
    have hwork := readPhys_work s {} (r.1 * 64) (64 * mirrorTake s n r.1 r.2)
    have hdly := hsent.dly.trans (congrArg (fun d : Dailies => { d with
      map := runDel d.map r.1 (r.1 + mirrorTake s n r.1 r.2), mirrorPos := r.1 + mirrorTake s n r.1 r.2
      cntMirror := d.cntMirror + mirrorTake s n r.1 r.2 }) hwork.dly)
    have hended : (mirrorSend s).fabric.ended = [] := hsent.ended.trans ((congrArg Fabric.ended hwork.fabric).trans hs.1)
    have hsole : streamSend 1 s = mirrorSend s := resilverSend_idle (by rw [hdly]; simp [hstate])
    have hexec : exec (.mirrorStreamSend 1) s = .next (settle (mirrorStream s 1)) := rfl
    rw [mirrorStream_open 1 hrole (by simp [paired, hstate]) hopen, hsole, cutAdvance_idle (by rw [hdly]; exact hcut),
      settle_primary hended (by rw [hdly]; exact hrole)] at hexec
    refine ⟨_, hexec, congrArg Dailies.map hdly, congrArg Dailies.cntMirror hdly, ?_, ?_⟩
    · exact (congrArg Mem.cells hsent.mem).trans (readPhys_cells _ _ _ _)
    · exact hsent.sp.trans hwork.sp
  case idle =>
    intro s n hrole hstate hcut hs hnone
    have hstays : mirrorStream s n = s := by
      rcases hnone with hmap | hshut
      · cases hopen : systemOpen s with
        | false => exact mirrorStream_shut n hopen
        | true =>
          rw [mirrorStream_open n hrole (by simp [paired, hstate]) hopen, streamSend_idle (by simp [hstate]) hmap n, cutAdvance_idle hcut]
      · exact mirrorStream_shut n hshut
    have hexec : exec (.mirrorStreamSend n) s = .next (settle (mirrorStream s n)) := rfl
    rw [hexec, hstays, (SettleKept.refl s).settle hs]

end Sys2Proof.Machine
end

section
/-! SUPPORT. The rows of a cut on a twin, case by case (R268, R272, R278, Table 10-3). -/

namespace Sys2Proof.Machine

variable {s : State} {g st : Nat}

/-! ### SEAL -/

theorem sealReceive_tells (hrole : s.dly.role = .twin) (hpair : paired s = true) (hlapse : s.dly.lapseDue = true) (g st : Nat) :
    ∃ data, sealReceive s g st = partnerMsg 0x13 data (lapseTold s) :=
  ⟨_, (if_pos (by simp [hrole, hpair])).trans (if_pos hlapse)⟩

/-- The open interval among the sealed ones, under a generation and a step. -/
def intervalSealed (s : State) (g st : Nat) : State :=
  dlyMod s fun d => { d with
    sealed := holdMerge d.sealed d.opened, opened := [], sealedIntervals := d.sealedIntervals + 1
    sealedGen := some (g % 2 ^ 48, st % 2 ^ 32) }

theorem sealReceive_seals (hrole : s.dly.role = .twin) (hpair : paired s = true) (hlapse : s.dly.lapseDue = false) (g st : Nat) :
    ∃ data, sealReceive s g st = partnerMsg 0x13 data (intervalSealed s g st) :=
  ⟨_, (if_pos (by simp [hrole, hpair])).trans (if_neg (by simp [hlapse]))⟩

/-! ### COMMIT -/

/-- A pair whose copies are all made is protected at its commit. -/
def copyProtected (s : State) : State := dlyMod s fun d => { d with state := if d.state = .copied then .guarded else d.state }

/-- The sealed generation is the committed one, and its lines are ready. -/
def sealedReady (s : State) (g st : Nat) : State :=
  dlyMod s fun d => { genCommit g st d with
    state := if d.state = .copied then .guarded else d.state
    ready := holdMerge d.ready d.sealed, sealed := [], sealedIntervals := 0, sealedGen := none }

theorem commitSealed_copyProtected (hsealed : s.dly.sealedGen = some (g, st)) :
    commitSealed (copyProtected s) g = if s.dly.frozen then sealedReady s g st else applyReady (sealedReady s g st) := by
  obtain rfl : (s.dly.sealedGen.map (·.2)).getD 0 = st := by rw [hsealed]; rfl
  rfl

/-- A commit whose acknowledgement carries the digests reads every range of the pair (R279). -/
def commitRead (s : State) (g : Nat) (check : Bool) : State :=
  if check || s.dly.take || s.dly.checkArmed then (ownDigests (commitSealed (copyProtected s) g)).1 else commitSealed (copyProtected s) g

theorem commitReceive_acknowledges (hrole : s.dly.role = .twin) (hpair : paired s = true) (hsealed : s.dly.sealedGen = some (g, st))
    (check : Bool) : ∃ data, commitReceive s g check = partnerMsg 0x17 data (commitRead s g check) := by
  have hread : (if check || s.dly.take || s.dly.checkArmed then ownDigests (commitSealed (copyProtected s) g)
      else (commitSealed (copyProtected s) g, [])).1 = commitRead s g check := apply_ite Prod.fst _ _ _
  rw [← hread]
  exact ⟨_, if_pos (by simp [hrole, hpair, hsealed])⟩

theorem commitReceive_other {h : Nat} (hsealed : s.dly.sealedGen = some (h, st)) (hne : h ≠ g) (check : Bool) :
    commitReceive s g check = s := if_neg (by simp [hsealed, hne])

theorem commitRead_unchecked (htake : s.dly.take = false) (harmed : s.dly.checkArmed = false) :
    commitRead s g false = commitSealed (copyProtected s) g := if_neg (by simp [htake, harmed])

/-- Digests are read, and change nothing of the dailies and no byte of memory. -/
theorem commitRead_reads (s : State) (g : Nat) (check : Bool) : ReadWork (commitSealed (copyProtected s) g) (commitRead s g check) ∧
    (commitRead s g check).mem.cells = (commitSealed (copyProtected s) g).mem.cells := by
  unfold commitRead
  split
  · exact ⟨ownDigests_work _, ownDigests_cells _⟩
  · exact ⟨.refl _, rfl⟩

theorem mirrorFails_none (s : State) : mirrorFails s [] = s := if_pos rfl

/-- Committed lines that the hold gives and that can be written are applied. -/
theorem applyReady_writes {ls : List (Nat × List Byte)} (hload : (loadLines s s.dly.ready).2 = some ls)
    (hput : (putLines (loadLines s s.dly.ready).1 ls).2 = []) :
    applyReady s = readied (putLines (loadLines s s.dly.ready).1 ls).1 := by
  unfold applyReady
  simp only [hload, hput, mirrorFails_none]
  rfl

/-! ### ABORT and the take log -/

theorem abortSealed_forgets (hrole : s.dly.role = .twin) (hsealed : s.dly.sealedGen = some (g, st)) :
    abortSealed s g = dlyMod s fun d => { d with sealedGen := none, cntAborted := satAdd 32 d.cntAborted 1 } :=
  if_pos (by simp [hrole, hsealed])

theorem abortSealed_other {h : Nat} (hsealed : s.dly.sealedGen = some (h, st)) (hne : h ≠ g) : abortSealed s g = s :=
  if_neg (by simp [hsealed, hne])

theorem takeLogReceive_appends (digest : W256) (hrole : s.dly.role = .twin) (hpair : paired s = true)
    (hnew : assocGet s.dly.log st = none) (hroom : s.dly.log.length < 1024) : takeLogReceive s st digest = takeAppend s st digest :=
  if_pos (by simp [hrole, hpair, hnew, hroom])

end Sys2Proof.Machine
end

section
/-! CLAIMS. Cuts on a twin. -/

namespace Sys2Proof.Machine

/-- Settles O40: a clause for each row; the answers are messages (`MessageSent`), the lines are applied by accesses (`AccessWork`), and the
digests are read (`ReadWork`). -/
theorem cutsOnATwin : Obligations.CutsOnATwin := by
  refine ⟨?tells, ?seals, ?applies, ?waits, ?aborts, ?other, ?logs⟩
  case tells =>
    intro s g st hrole hpair hs hlapse
    obtain ⟨data, htells⟩ := sealReceive_tells hrole hpair hlapse g st
    have hsent := partnerMsg_message 0x13 data (lapseTold s)
    have hkept : RecoverKept s (lapseTold s) := ⟨rfl, rfl, rfl, rfl, rfl, rfl⟩
    have hexec : exec (.sealReceive g st) s = .next (settle (sealReceive s g st)) := rfl
    rw [htells, (hkept.trans hsent.settleKept.recoverKept).settle hs] at hexec
    exact ⟨_, hexec, hsent.mem, hsent.keys, hsent.dly⟩
  case seals =>
    intro s g st hrole hpair hs hlapse
    obtain ⟨data, hseals⟩ := sealReceive_seals hrole hpair hlapse g st
    have hsent := partnerMsg_message 0x13 data (intervalSealed s g st)
    have hkept : RecoverKept s (intervalSealed s g st) := ⟨rfl, rfl, rfl, rfl, rfl, rfl⟩
    have hexec : exec (.sealReceive g st) s = .next (settle (sealReceive s g st)) := rfl
    rw [hseals, (hkept.trans hsent.settleKept.recoverKept).settle hs] at hexec
    exact ⟨_, hexec, hsent.mem, hsent.keys, hsent.dly⟩
  case applies =>
    intro s s1 g st r ls hrole hpair hs hsealed hfrozen htake harmed hs1 hr hload hput hbroken
    obtain rfl : s1 = sealedReady s g st := hs1
    subst hr
    obtain ⟨data, hcommit⟩ := commitReceive_acknowledges hrole hpair hsealed false
    have haccess := (loadLines_access (sealedReady s g st) (sealedReady s g st).dly.ready).trans (putLines_access _ ls)
    have hexec : exec (.cutCommitReceive g false) s = .next (settle (commitReceive s g false)) := rfl
    rw [hcommit, commitRead_unchecked htake harmed, commitSealed_copyProtected hsealed, hfrozen, if_neg Bool.false_ne_true,
      applyReady_writes hload hput] at hexec
    generalize (putLines (loadLines (sealedReady s g st) (sealedReady s g st).dly.ready).1 ls).1 = v at haccess hbroken hexec ⊢
    have hsent := partnerMsg_message 0x17 data (readied v)
    have hkept : RecoverKept v (readied v) := ⟨rfl, rfl, rfl, rfl, rfl, rfl⟩
    have hdone : settled v := by
      obtain ⟨_, _, _, _, _, _, _, rfl⟩ := haccess
      exact ⟨hs.1, fun _ => hbroken⟩
    rw [(hkept.trans hsent.settleKept.recoverKept).settle hdone] at hexec
    refine ⟨_, hexec, ?_⟩
    rw [hsent.dly, hsent.mem]
    obtain ⟨_, _, _, _, _, _, _, rfl⟩ := haccess
    exact ⟨rfl, rfl, rfl, rfl, rfl, rfl, fun hcopied => if_pos hcopied, rfl, rfl, rfl, rfl⟩
  case waits =>
    intro s g st b hrole hpair hs hsealed hfrozen hcheck
    obtain ⟨data, hcommit⟩ := commitReceive_acknowledges hrole hpair hsealed b
    obtain ⟨hread, hcells⟩ := commitRead_reads s g b
    have hready : commitSealed (copyProtected s) g = sealedReady s g st := by rw [commitSealed_copyProtected hsealed, hfrozen, if_pos rfl]
    have hsent := partnerMsg_message 0x17 data (commitRead s g b)
    have hdone : settled (commitRead s g b) := by
      refine ⟨(congrArg Fabric.ended hread.fabric).trans (by rw [hready]; exact hs.1), ?_⟩
      unfold commitRead
      split
      · next hrun =>
        rcases hcheck with ⟨hb, htake, harmed⟩ | hbroken
        · simp [hb, htake, harmed] at hrun
        · exact fun _ => hbroken
      · have hkept : RecoverKept s (sealedReady s g st) := ⟨rfl, rfl, rfl, rfl, rfl, rfl⟩
        rw [hready, hkept.brokenRanges]
        exact hs.2
    have hexec : exec (.cutCommitReceive g b) s = .next (settle (commitReceive s g b)) := rfl
    rw [hcommit, hsent.settleKept.settle hdone] at hexec
    refine ⟨_, hexec, ?_⟩
    rw [hsent.dly, hsent.mem, hread.dly, hcells, hready]
    exact ⟨rfl, rfl, rfl, rfl, rfl, rfl, rfl⟩
  case aborts =>
    intro s g st hrole hsealed
    exact congrArg Host.Outcome.next (abortSealed_forgets hrole hsealed)
  case other =>
    intro s g h st b hsealed hne hs
    have hexec : exec (.cutCommitReceive g b) s = .next (settle (commitReceive s g b)) := rfl
    rw [hexec, commitReceive_other hsealed hne, (SettleKept.refl s).settle hs]
    exact ⟨rfl, congrArg Host.Outcome.next (abortSealed_other hsealed hne)⟩
  case logs =>
    intro s st d hrole hpair hnew hroom
    exact congrArg Host.Outcome.next (takeLogReceive_appends d hrole hpair hnew hroom)

end Sys2Proof.Machine
end

section
/-! SUPPORT. The rows of rewinds and takes, case by case (R277, R278, Table 10-11). -/

namespace Sys2Proof.Machine

variable {s : State}

/-! ### REWIND -/

theorem exec_rewind_may {p : Port} (tag : Nat) (h : mayWrite s p) :
    exec (.rewind p tag) s = .next (settle (mgmtReply (rewind s).st p tag (rewind s).status (rewind s).data)) :=
  congrArg Host.Outcome.next ((mgmtTurn_now _ _ _ _ h.1).trans (congrArg settle (mgmtAgain_may tag h rewind)))

theorem rewind_other (hrole : s.dly.role ≠ .primary) : rewind s = dlyAnswer s .busy := if_pos hrole

theorem rewind_wrongGen (hrole : s.dly.role = .primary) (hgen : s.dly.arg ≠ s.dly.committed) : rewind s = dlyAnswer s .badDescriptor :=
  (if_neg (not_not_intro hrole)).trans (if_pos hgen)

/-- A rewind that has begun, its lines counted. -/
def rewindBegun (s : State) : State :=
  dlyMod s fun d => { d with rewinding := true, doneMib := 0, totalMib := (runSize d.map + d.report.held) * 64 / 2 ^ 20 }

theorem rewind_begins (hrole : s.dly.role = .primary) (hgen : s.dly.arg = s.dly.committed) (hstate : s.dly.state = .guarded)
    (hidle : s.dly.rewinding = false) : ∃ data, rewind s = dlyAnswer (partnerMsg 0x1D data (rewindBegun s)) .ok :=
  ⟨_, (if_neg (not_not_intro hrole)).trans ((if_neg (not_not_intro hgen)).trans (if_neg (by simp [hstate, hidle])))⟩

/-! ### REWIND_DONE -/

/-- Lines that cover the map are written, and those that cannot be stay to be asked for again. -/
theorem rewindDone_writes {ls : List (Nat × List Byte)} (hrole : s.dly.role = .primary) (hrewinding : s.dly.rewinding = true)
    (hlines : ∀ l ∈ ls, lineMirrored s l.1 = true ∧ l.2.length = 64) (hcovers : coversMap s ls = true) :
    rewindDone s ls = dlyMod (putLines s ls).1 fun d => rewindFailed s (putLines s ls).2 { d with
      mirrorPos := 0, doneMib := ls.length * 64 / 2 ^ 20, totalMib := ls.length * 64 / 2 ^ 20 } := by
  have hall : (ls.all fun l => lineMirrored s l.1 && decide (l.2.length = 64)) = true := by
    simpa using hlines
  exact (if_pos (by simp [hrole, hrewinding])).trans (if_pos (by rw [hall, hcovers]; rfl))

/-- A twin that gives its lines to a rewind discards its open and sealed intervals. -/
theorem rewindDone_twin (ls : List (Nat × List Byte)) (hrole : s.dly.role = .twin) (hpair : paired s = true) :
    rewindDone s ls = dlyMod ((rewindKeys s ls).foldl rewindSend s) fun d => { d with
      opened := [], sealed := [], sealedIntervals := 0, sealedGen := none } :=
  (if_neg (by simp [hrole])).trans (if_pos (by simp [hrole, hpair]))

/-- What a line given to a rewind leaves as it was. -/
structure LineSent (s t : State) : Prop where
  ended : t.fabric.ended = s.fabric.ended
  dly : t.dly = s.dly
  cells : t.mem.cells = s.mem.cells

theorem rewindSend_sent (s : State) (key : Nat) : LineSent s (rewindSend s key) := by
  have hread := lineValue_work s key
  have hvalue : LineSent s (lineValue s key).1 := ⟨congrArg Fabric.ended hread.fabric, hread.dly, lineValue_cells s key⟩
  unfold rewindSend
  dsimp only
  split
  · have hsent := partnerMsg_message 0x1E (natLe 1 (heldRange key) ++ natLe 6 (heldOffset key) ++ (lineValue s key).2.2)
      (lineValue s key).1
    exact ⟨hsent.ended.trans hvalue.ended, hsent.dly.trans hvalue.dly, (congrArg Mem.cells hsent.mem).trans hvalue.cells⟩
  · exact hvalue

theorem rewindSends_sent : ∀ (keys : List Nat) (s : State), LineSent s (keys.foldl rewindSend s)
  | [], _ => ⟨rfl, rfl, rfl⟩
  | key :: keys, s => by
    have hfirst := rewindSend_sent s key
    have hrest := rewindSends_sent keys (rewindSend s key)
    exact ⟨hrest.ended.trans hfirst.ended, hrest.dly.trans hfirst.dly, hrest.cells.trans hfirst.cells⟩

/-! ### TAKE_RECORD -/

section Records

variable {cid : Nat} {c : Cmd} {step : Nat} {digest : W256}

theorem exec_takeRecord (h : cmdReady s cid 0x61 = some c) : exec (.takeRecord cid) s = .next (settle (takeRecord s c)) := by
  change execTakeRecord cid s = _
  unfold execTakeRecord
  rw [h]

theorem takeRecord_outside (hparty : spaceParty s c.space = none) (htake : s.dly.take = false) :
    takeRecord s c = takeRecordAppend s c (fld (cmdBody c) 0 32) (BitVec.ofNat 256 (fld (cmdBody c) 32 256)) :=
  (if_neg (by simp [hparty])).trans (if_neg (by simp [htake]))

/-- In a take a logged step is compared. -/
theorem takeRecord_compares {d : W256} (hparty : spaceParty s c.space = none) (htake : s.dly.take = true)
    (hlogged : assocGet s.dly.log (fld (cmdBody c) 0 32) = some d) :
    takeRecord s c = cmdEnd s c.id (resultOf (if d = BitVec.ofNat 256 (fld (cmdBody c) 32 256) then .ok else .continuityFail)) := by
  obtain ⟨e, hfound, rfl⟩ := Option.map_eq_some_iff.mp hlogged
  have hstep : e.1 = fld (cmdBody c) 0 32 := by simpa using List.find?_some hfound
  have hany : (s.dly.log.any fun e => decide (fld (cmdBody c) 0 32 ≤ e.1)) = true :=
    List.any_eq_true.mpr ⟨e, List.mem_of_find?_eq_some hfound, by simp [hstep]⟩
  refine (if_neg (by simp [hparty])).trans ((if_pos (by rw [htake, hany]; rfl)).trans ?_)
  rw [hlogged]
  simp only [Option.some.injEq]

theorem takeRecordAppend_logged (hlogged : (assocGet s.dly.log step).isSome = true) :
    takeRecordAppend s c step digest = cmdEnd s c.id (resultOf .badDescriptor) := if_pos hlogged

section New

variable (hnew : assocGet s.dly.log step = none)
include hnew

theorem takeRecordAppend_full (hfull : 1024 ≤ s.dly.log.length) : takeRecordAppend s c step digest = cmdEnd s c.id (resultOf .busy) :=
  (if_neg (by simp [hnew])).trans (if_pos hfull)

variable (hroom : s.dly.log.length < 1024)
include hroom

theorem takeRecordAppend_alone (halone : s.dly.role ≠ .primary ∨ paired s = false) :
    takeRecordAppend s c step digest = cmdEnd (takeAppend s step digest) c.id (resultOf .ok) := by
  refine (if_neg (by simp [hnew])).trans ((if_neg (by omega)).trans (if_neg ?_))
  rcases halone with h | h <;> simp [h]

/-- A paired primary sends the entry to its twin, and the command waits. -/
theorem takeRecordAppend_tells (hrole : s.dly.role = .primary) (hpair : paired s = true) :
    ∃ data, data.length ≤ 447 ∧ takeRecordAppend s c step digest =
      dlyMsg s.dly.partner true 0x1C data (.takeLog c.id) (cmdWaits (takeAppend s step digest) c.id) :=
  ⟨natLe 4 step ++ natLe 32 digest.toNat, by simp [natLe_length],
    (if_neg (by simp [hnew])).trans ((if_neg (by omega)).trans (if_pos (by simp [hrole, hpair])))⟩

end New

end Records

/-- A message of one packet that can be sent over a twin link ends no transaction, whoever its owner is. -/
theorem dlyMsg_sent {dst kind link : Nat} {data : List Byte} (owner : TxnOwner) (hlen : data.length ≤ 447) (horig : canOriginate s = true)
    (hlink : pickTwinLink s = some link) : MessageSent s (dlyMsg dst true kind data owner s) := by
  rw [dlyMsg, msgPieces, if_pos hlen]
  exact request_sent horig hlink

/-- The end of a command leaves nothing to settle. -/
theorem settle_cmdEnd (cid : Nat) (r : Result) (hs : settled s) : settle (cmdEnd s cid r) = cmdEnd s cid r :=
  SettleKept.settle (s := s) ⟨rfl, rfl, rfl, rfl⟩ hs

end Sys2Proof.Machine
end

section
/-! CLAIMS. Rewinds and takes. -/

namespace Sys2Proof.Machine

/-- Settles O42: a clause for each case of each row; lines are written by accesses (`AccessWork`), given by reads and messages
(`LineSent`), and an entry of the take log goes to the twin by a message (`MessageSent`). -/
theorem rewindsAndTakes : Obligations.RewindsAndTakes := by
  refine ⟨?other, ?wrongGen, ?begins, ?writes, ?gives, ?arms, ?alone, ?tells, ?logged, ?full, ?compares⟩
  case other =>
    intro s p tag hmay hs hrole
    rw [exec_rewind_may tag hmay, rewind_other hrole]
    exact congrArg Host.Outcome.next (settle_dlyAnswer (SettleKept.refl s).recoverKept hs p tag .busy)
  case wrongGen =>
    intro s p tag hmay hs hrole hgen
    rw [exec_rewind_may tag hmay, rewind_wrongGen hrole hgen]
    exact congrArg Host.Outcome.next (settle_dlyAnswer (SettleKept.refl s).recoverKept hs p tag .badDescriptor)
  case begins =>
    intro s p tag hmay hs hrole hgen hstate hidle
    obtain ⟨data, hbegins⟩ := rewind_begins hrole hgen hstate hidle
    have hsent := partnerMsg_message 0x1D data (rewindBegun s)
    have hkept : RecoverKept s (rewindBegun s) := ⟨rfl, rfl, rfl, rfl, rfl, rfl⟩
    have hsettle := settle_dlyAnswer (hkept.trans hsent.settleKept.recoverKept) hs p tag .ok
    rw [exec_rewind_may tag hmay, hbegins]
    exact ⟨_, congrArg Host.Outcome.next hsettle, hsent.mem, hsent.sp,
      congrArg (fun d : Dailies => { d with lastStatus := .ok }) hsent.dly⟩
  case writes =>
    intro s ls hrole hrewinding hs hlines hcovers hput
    have haccess := putLines_access s ls
    have hexec : exec (.rewindDone ls) s = .next (settle (rewindDone s ls)) := rfl
    rw [rewindDone_writes hrole hrewinding hlines hcovers, hput] at hexec
    generalize (putLines s ls).1 = v at haccess hexec ⊢
    obtain ⟨_, _, _, _, _, _, _, rfl⟩ := haccess
    rw [settle_primary] at hexec
    · exact ⟨_, hexec, rfl, rfl, rfl⟩
    · exact hs.1
    · exact hrole
  case gives =>
    intro s ls hrole hpair hs hbroken
    have hsent := rewindSends_sent (rewindKeys s ls) s
    have hexec : exec (.rewindDone ls) s = .next (settle (rewindDone s ls)) := rfl
    rw [rewindDone_twin ls hrole hpair] at hexec
    generalize (rewindKeys s ls).foldl rewindSend s = v at hsent hbroken hexec
    have hkept : RecoverKept v (dlyMod v fun d => { d with opened := [], sealed := [], sealedIntervals := 0, sealedGen := none }) :=
      ⟨rfl, rfl, rfl, rfl, rfl, rfl⟩
    rw [hkept.settle ⟨hsent.ended.trans hs.1, fun _ => hbroken⟩] at hexec
    exact ⟨_, hexec, hsent.cells, congrArg (fun d : Dailies => { d with
      opened := [], sealed := [], sealedIntervals := 0, sealedGen := none }) hsent.dly⟩
  case arms =>
    intro s p tag hmay
    exact ⟨congrArg Host.Outcome.next (mgmtWrite_may p tag _ takeBegin s hmay),
      congrArg Host.Outcome.next (mgmtWrite_may p tag _ checkArm s hmay)⟩
  case alone =>
    intro s cid c hready hs hparty htake hnew hroom halone
    obtain ⟨hget, hphase, -⟩ := cmdReady_some s cid 0x61 c hready
    obtain rfl := cmdGet_id hget
    rw [exec_takeRecord hready, takeRecord_outside hparty htake, takeRecordAppend_alone hnew hroom halone,
      settle_cmdEnd (s := takeAppend s _ _) _ _ hs]
    exact ⟨_, rfl, CmdsCharged.cmdEnd_ends (s := s) (.of_eq rfl) (resultOf .ok) hget (cmdLive_admitted c hphase), rfl, rfl⟩
  case tells =>
    intro s cid link c hready hs hparty htake hnew hroom hrole hpair horig hlink
    obtain ⟨hget, -⟩ := cmdReady_some s cid 0x61 c hready
    obtain rfl := cmdGet_id hget
    obtain ⟨data, hlen, htells⟩ := takeRecordAppend_tells (c := c) (digest := BitVec.ofNat 256 (fld (cmdBody c) 32 256)) hnew hroom hrole
      hpair
    have hsent := dlyMsg_sent (s := cmdWaits (takeAppend s (fld (cmdBody c) 0 32) (BitVec.ofNat 256 (fld (cmdBody c) 32 256))) c.id)
      (dst := s.dly.partner) (kind := 0x1C) (.takeLog c.id) hlen horig hlink
    obtain ⟨d, hwaiting, hphase⟩ := CmdsCharged.cmdWaits (s := s)
      (t := takeAppend s (fld (cmdBody c) 0 32) (BitVec.ofNat 256 (fld (cmdBody c) 32 256))) (.of_eq rfl) hget
    have hexec := exec_takeRecord hready
    rw [takeRecord_outside hparty htake, htells, settle_primary (hsent.ended.trans hs.1) ((congrArg Dailies.role hsent.dly).trans hrole)]
      at hexec
    exact ⟨_, d, hexec, (congrArg (fun y : Spaces => y.cmds.find? fun e : Cmd => e.id == c.id) hsent.sp).trans hwaiting, hphase, hsent.mem,
      hsent.dly⟩
  case logged =>
    intro s cid c hready hs hparty htake hlogged
    obtain rfl := cmdGet_id (cmdReady_some s cid 0x61 c hready).1
    rw [exec_takeRecord hready, takeRecord_outside hparty htake, takeRecordAppend_logged hlogged, settle_cmdEnd _ _ hs]
  case full =>
    intro s cid c hready hs hparty htake hnew hfull
    obtain rfl := cmdGet_id (cmdReady_some s cid 0x61 c hready).1
    rw [exec_takeRecord hready, takeRecord_outside hparty htake, takeRecordAppend_full hnew hfull, settle_cmdEnd _ _ hs]
  case compares =>
    intro s cid c d hready hs hparty htake hlogged
    obtain rfl := cmdGet_id (cmdReady_some s cid 0x61 c hready).1
    rw [exec_takeRecord hready, takeRecord_compares hparty htake hlogged, settle_cmdEnd _ _ hs]

end Sys2Proof.Machine
end

section
/-! SUPPORT. What a print leaves frozen: neither a lapse nor the refills of what is broken freeze or unfreeze the mirror (R282, R323). -/

namespace Sys2Proof.Machine

theorem refill_dly (s : State) (n : Nat) : (refill s n).dly = s.dly := by
  unfold refill
  dsimp only
  repeat' split
  all_goals rfl

theorem ownReinit_dly (s : State) (n : Nat) : (ownReinit s n).dly = s.dly := by
  unfold ownReinit
  split
  · rfl
  · exact refill_dly s n

theorem foldl_ownReinit_dly : ∀ (l : List Nat) (s : State), (l.foldl ownReinit s).dly = s.dly
  | [], _ => rfl
  | n :: l, s => (foldl_ownReinit_dly l _).trans (ownReinit_dly s n)

theorem holdFails_frozen (tell : Bool) (s : State) : (holdFails tell s).dly.frozen = s.dly.frozen := by
  unfold holdFails
  rw [ownReinit_dly]
  rfl

theorem mirrorFails_frozen (s : State) (fs : List (Nat × Status)) : (mirrorFails s fs).dly.frozen = s.dly.frozen := by
  unfold mirrorFails
  split
  · rfl
  · rw [foldl_ownReinit_dly]
    rfl

theorem AccessWork.frozen {s t : State} (h : AccessWork s t) : t.dly.frozen = s.dly.frozen := by
  obtain ⟨_, _, _, _, _, _, _, rfl⟩ := h
  rfl

theorem applyReady_frozen (s : State) : (applyReady s).dly.frozen = s.dly.frozen := by
  have hload := loadLines_access s s.dly.ready
  unfold applyReady
  dsimp only
  split
  · exact (holdFails_frozen _ _).trans hload.frozen
  · exact (mirrorFails_frozen _ _).trans (hload.trans (putLines_access _ _)).frozen

/-! ### What a twin mends -/

theorem holdFails_kept (tell : Bool) (s : State) : LapseKept s (holdFails tell s) := by
  unfold holdFails
  refine LapseKept.trans ?_ (ownReinit_kept _ 32)
  exact ⟨rfl, rfl, rfl, rfl, rfl, rfl, rfl, rfl, fun _ => rfl, fun _ => rfl, fun _ => rfl⟩

/-- Settling keeps what a lapse keeps, and whether the mirror is frozen. -/
structure MendKept (s t : State) : Prop where
  kept : LapseKept s t
  frozen : t.dly.frozen = s.dly.frozen

theorem MendKept.refl (s : State) : MendKept s s := ⟨.refl s, rfl⟩

theorem MendKept.trans {a b c : State} (h : MendKept a b) (k : MendKept b c) : MendKept a c :=
  ⟨h.kept.trans k.kept, k.frozen.trans h.frozen⟩

theorem MendKept.foldl {α : Type} (f : State → α → State) (h : ∀ t x, MendKept t (f t x)) : ∀ (l : List α) (s : State),
    MendKept s (l.foldl f s)
  | [], s => refl s
  | x :: l, s => (h s x).trans (foldl f h l (f s x))

theorem twinRecover_kept (s : State) : MendKept s (twinRecover s) := by
  unfold twinRecover
  dsimp only
  split
  · split
    · exact .refl s
    · refine MendKept.trans ?_ (.foldl _ (fun t n => ?_) _ _)
      · split
        · exact ⟨holdFails_kept true s, holdFails_frozen true s⟩
        · exact ⟨lapseTwin_kept true s, rfl⟩
      · split
        · exact .refl t
        · exact ⟨ownReinit_kept t n, congrArg Dailies.frozen (ownReinit_dly t n)⟩
  · exact .refl s

theorem settle_kept {s : State} (h : s.fabric.ended = []) : MendKept s (settle s) := by
  rw [settle, settleF_idle _ _ h]
  exact twinRecover_kept s

end Sys2Proof.Machine
end

section
/-! SUPPORT. The rows of prints, case by case (R281 to R284, R411). -/

namespace Sys2Proof.Machine

variable {s : State}

/-! ### PRINT -/

theorem exec_print_may {p : Port} (tag : Nat) (m : BitVec 32) (h : mayWrite s p) (hentropy : s.keys.entropyOk = true) :
    exec (.print p tag m) s = .next (mgmtReply (print m s).st p tag (print m s).status (print m s).data) :=
  congrArg Host.Outcome.next ((mgmtDraw_ready _ _ _ _ _ (by simp [drawsWait, hentropy])).trans (mgmtWrite_may _ _ _ _ _ h))

theorem print_busy (m : BitVec 32) (h : s.dly.role ≠ .twin ∨ s.dly.state ≠ .guarded ∨ printing s = true) :
    print m s = dlyAnswer s .busy := by
  refine if_pos ?_
  rcases h with h | h | h <;> simp [h]

/-- A print that has begun: the mirror frozen, the ID and a key for each range drawn. -/
def printBegun (s : State) (rs : List Nat) : State :=
  drawUse (dlyMod s fun d => { d with
    frozen := true
    print := {
      state := 1, sent := 0, id := (drawAt s 0).toNat % 2 ^ 64, ranges := rs
      keys := ((List.range rs.length).zip rs).map fun e => (e.2, drawAt s (e.1 + 1))
      wrapKeys := rs.map fun n => (n, (printWrapKey s n).getD 0), gen := d.applied, tags := [] } }) (rs.length + 1)

section Twin

variable {m : BitVec 32} (hrole : s.dly.role = .twin) (hstate : s.dly.state = .guarded) (hidle : printing s = false)
include hrole hstate hidle

theorem print_keyAbsent {n : Nat} (hn : n ∈ bitList 32 m.toNat) (hkey : printWrapKey s n = none) : print m s = dlyAnswer s .keyAbsent :=
  (if_neg (by simp [hrole, hstate, hidle])).trans (if_pos (List.any_eq_true.mpr ⟨n, hn, by simp [hkey]⟩))

theorem print_begins (hkeys : ∀ n ∈ bitList 32 m.toNat, (printWrapKey s n).isSome = true) :
    print m s = dlyAnswer (printBegun s (bitList 32 m.toNat)) .ok := by
  have hnone : ((bitList 32 m.toNat).any fun n => (printWrapKey s n).isNone) = false :=
    List.any_eq_false.mpr fun n hn => by simpa [Option.isSome_iff_ne_none] using hkeys n hn
  exact (if_neg (by simp [hrole, hstate, hidle])).trans (if_neg (by simp only [hnone, Bool.false_eq_true, not_false_eq_true]))

end Twin

/-! ### Chunks and slates -/

/-- The chunks of a print follow from its ranges and the rig. -/
theorem chunkList_congr {s t : State} (hdly : t.dly = s.dly) (hactive : t.rig.active = s.rig.active) : chunkList t = chunkList s := by
  have hcfg : rangeCfg t = rangeCfg s := by
    funext n
    rw [rangeCfg, rangeCfg, hactive]
  unfold chunkList byAddress printChunks printSize
  rw [hdly, hcfg]

theorem printBulk_frame (s : State) (p : Port) (stream target : Nat) (bs : List Byte) : SentFrame s (printBulk s p stream target bs) :=
  sendMsg_frame s p _

/-- A chunk that has left, counted, with its tag and its digests kept for its slate. -/
def chunkCounted (s : State) (n i : Nat) (e : List Byte) : State :=
  dlyMod s fun d => { d with print := { d.print with
    state := if (chunkList s).length ≤ s.dly.print.sent + 1 then 3 else 2
    sent := if (chunkList s).length ≤ s.dly.print.sent + 1 then 0 else s.dly.print.sent + 1
    tags := d.print.tags ++ [(n * 2 ^ 32 + i, chunkProof e)] } }

theorem printChunk_sends {q : Port} {n i : Nat} {r : MemRead} (hstate : s.dly.print.state = 1 ∨ s.dly.print.state = 2)
    (hnext : (chunkList s)[s.dly.print.sent]? = some (n, i)) (hport : printPort s i = some q)
    (hr : r = readPhys s {} ((rangeCfg s n).base + i * chunkMax) (chunkLen s n i)) (hok : r.status = .ok) (hopen : systemOpen s = true)
    (hfill : filling s n = false) :
    printChunk s = chunkCounted (printBulk r.st q r.st.dly.print.sent 1 (chunkHeader r.st n i ++ (chunkSeal r.st n i r.bytes).drop 16 ++
      (chunkSeal r.st n i r.bytes).take 16)) n i (chunkSeal r.st n i r.bytes) := by
  have hruns : ¬ (((s.dly.print.state ≠ 1 && s.dly.print.state ≠ 2) || !(systemOpen s)) = true) := by
    rcases hstate with h | h <;> simp [h, hopen]
  unfold printChunk
  rw [if_neg hruns]
  simp only [hnext, hport, hfill, ← hr, hok, Bool.false_eq_true, ne_eq, not_true_eq_false, if_false]
  rfl

theorem printChunk_shut (h : systemOpen s = false) : printChunk s = s := if_pos (by simp [h])

theorem printSlate_sends {q : Port} {n i : Nat} (hstate : s.dly.print.state = 3) (hentropy : s.keys.entropyOk = true)
    (hnext : (chunkList s)[s.dly.print.sent]? = some (n, i)) (hport : printPort s i = some q) (hopen : systemOpen s = true) :
    ∃ bs, printSlate s = dlyMod (printBulk (drawUse s 1) q s.dly.print.sent 2 bs) fun d => { d with
      print := { d.print with sent := d.print.sent + 1 } } := by
  unfold printSlate
  rw [if_neg (by simp [hstate, drawsWait, hentropy, hopen])]
  simp only [hnext, hport]
  exact ⟨_, rfl⟩

theorem printSlate_shut (h : systemOpen s = false) : printSlate s = s := if_pos (by simp [h])

/-! ### The end of a print -/

/-- What the end of a print makes of it: it is over, its keys are gone, and the mirror is unfrozen with nothing left to apply. -/
structure PrintOver (n : Nat) (s t : State) : Prop where
  ended : t.fabric.ended = s.fabric.ended
  state : t.dly.print.state = n
  frozen : t.dly.frozen = false
  keys : t.dly.print.keys = []
  ready : t.dly.ready = []
  applied : t.dly.applied = s.dly.committed

theorem printEnd_over (s : State) (n : Nat) : PrintOver n s (printEnd s n) := by
  have hkept : LapseKept _ (printEnd s n) := applyReady_kept _
  exact ⟨hkept.ended, congrArg PrintRun.state hkept.print, applyReady_frozen _, congrArg PrintRun.keys hkept.print, hkept.ready rfl,
    hkept.applied⟩

/-- What a twin mends as it settles changes nothing of a print that is over. -/
theorem PrintOver.settle {n : Nat} {t : State} (h : PrintOver n s t) (hended : s.fabric.ended = []) : PrintOver n s (settle t) := by
  have hempty := h.ended.trans hended
  obtain ⟨hkept, hfrozen⟩ := settle_kept hempty
  exact ⟨hkept.ended.trans h.ended, (congrArg PrintRun.state hkept.print).trans h.state, hfrozen.trans h.frozen,
    (congrArg PrintRun.keys hkept.print).trans h.keys, hkept.ready h.ready, hkept.applied.trans h.applied⟩

theorem printAbandon_busy (h : printing s = false) : printAbandon s = dlyAnswer s .busy := if_neg (by simp [h])

/-- The print dropped, the frames of it that have not been sent are taken off the ports. -/
theorem printDrop_printing (h : printing s = true) : printDrop s = { logPair (printEnd s 5) .ok true with
    lmx := { (printEnd s 5).lmx with a := dropBulk (printEnd s 5).lmx.a, b := dropBulk (printEnd s 5).lmx.b, held := [] } } := if_pos h

end Sys2Proof.Machine
end

section
/-! SUPPORT. The rows of restores, case by case (R285, R349). -/

namespace Sys2Proof.Machine

variable {s : State}

theorem restoreBegin_opens (hstate : s.dly.state = .unpaired) (hspace : anySpace s = false) :
    restoreBegin s = dlyAnswer (dlyMod s fun d => { d with
      restore := { active := true, wrapKeys := wrapKeys s }, doneMib := 0, totalMib := 0 }) .ok :=
  if_neg (by simp [hstate, hspace])

section Active

variable (hactive : s.dly.restore.active = true)
include hactive

theorem restoreChunk_refuses {c : Chunk} {st : Status} (hcheck : chunkCheck s c = .error st) : restoreChunk c s = ⟨s, st, []⟩ := by
  unfold restoreChunk
  rw [if_neg (by simp [hactive]), hcheck]

theorem restoreChunk_writes {c : Chunk} {plain : List Byte} (hcheck : chunkCheck s c = .ok plain)
    (hok : (writePhys s {} ((rangeCfg s (chunkRange c)).base + chunkIndex c * chunkMax) plain).status = .ok) :
    restoreChunk c s =
      ⟨dlyMod (writePhys s {} ((rangeCfg s (chunkRange c)).base + chunkIndex c * chunkMax) plain).st (restoreNote s c), .ok, []⟩ := by
  unfold restoreChunk
  rw [if_neg (by simp [hactive]), hcheck]
  exact if_neg (not_not_intro hok)

/-- All chunks of a whole restore have one generation, that of the first. -/
theorem restoreEnd_whole {g : GotChunk} {gs : List GotChunk} (hwhole : restoreWhole s.dly.restore = true)
    (hgot : s.dly.restore.got = g :: gs) :
    restoreEnd s = dlyAnswer (dlyMod s fun d => { d with committed := g.gen, restore := {} }) .ok := by
  have hgen : (s.dly.restore.got.head?.map (·.gen)).getD 0 = g.gen := by rw [hgot]; rfl
  rw [← hgen]
  exact (if_neg (by simp [hactive])).trans (if_pos hwhole)

theorem restoreEnd_partial (hpart : restoreWhole s.dly.restore = false) : restoreEnd s = dlyAnswer s .badDescriptor :=
  (if_neg (by simp [hactive])).trans (if_neg (by simp [hpart]))

end Active

/-- A chunk of a range that no fill holds up has its turn at once. -/
theorem exec_restoreChunk_may {p : Port} (tag : Nat) (c : Chunk) (h : mayWrite s p) (hfill : filling s (chunkRange c) = false) :
    exec (.restoreChunk p tag c) s =
      .next (mgmtReply (restoreChunk c s).st p tag (restoreChunk c s).status (restoreChunk c s).data) := by
  have hturn : restoreTurn p tag c s = mgmtAgain p tag (restoreChunk c) s := if_neg (by simp [hfill])
  exact congrArg Host.Outcome.next ((mgmtTurn_now _ _ _ _ h.1).trans (hturn.trans (mgmtAgain_may tag h (restoreChunk c))))

theorem exec_restoreChunk_writes {p : Port} (tag : Nat) {c : Chunk} {plain : List Byte} (h : mayWrite s p)
    (hactive : s.dly.restore.active = true) (hfill : filling s (chunkRange c) = false) (hcheck : chunkCheck s c = .ok plain)
    (hok : (writePhys s {} ((rangeCfg s (chunkRange c)).base + chunkIndex c * chunkMax) plain).status = .ok) :
    exec (.restoreChunk p tag c) s = .next (mgmtReply
      (dlyMod (writePhys s {} ((rangeCfg s (chunkRange c)).base + chunkIndex c * chunkMax) plain).st (restoreNote s c)) p tag .ok []) := by
  rw [exec_restoreChunk_may tag c h hfill, restoreChunk_writes hactive hcheck hok]

theorem exec_restoreChunk_refuses {p : Port} (tag : Nat) {c : Chunk} {st : Status} (h : mayWrite s p)
    (hactive : s.dly.restore.active = true) (hfill : filling s (chunkRange c) = false) (hcheck : chunkCheck s c = .error st) :
    exec (.restoreChunk p tag c) s = .next (mgmtReply s p tag st []) := by
  rw [exec_restoreChunk_may tag c h hfill, restoreChunk_refuses hactive hcheck]

end Sys2Proof.Machine
end

section
/-! CLAIMS. Prints and restores. -/

namespace Sys2Proof.Machine

/-- Settles O43: a clause for each case of each row; what the end of a print leaves is said by `PrintOver`, and what a message on a port
leaves by `SentFrame`. -/
theorem printsAndRestores : Obligations.PrintsAndRestores := by
  refine ⟨?busy, ?keyAbsent, ?begins, ?chunk, ?slate, ?shut, ?completes, ?abandons, ?abandonBusy, ?opens, ?checked, ?refused, ?closes,
    ?partly⟩
  case busy =>
    intro s p tag m hmay hentropy h
    rw [exec_print_may tag m hmay hentropy, print_busy m h]
    rfl
  case keyAbsent =>
    intro s p tag n m hmay hentropy hrole hstate hidle hn hkey
    rw [exec_print_may tag m hmay hentropy, print_keyAbsent hrole hstate hidle hn hkey]
    rfl
  case begins =>
    intro s p tag m hmay hentropy hrole hstate hidle hkeys
    rw [exec_print_may tag m hmay hentropy, print_begins hrole hstate hidle hkeys]
    exact ⟨_, rfl, rfl, rfl, rfl, rfl, rfl, rfl, rfl, rfl, rfl⟩
  case chunk =>
    intro s q n i r hstate hnext hport hr hok hopen hfill hs
    have hread : ReadWork s r.st := hr ▸ readPhys_work s {} _ _
    have hcells : r.st.mem.cells = s.mem.cells := hr ▸ readPhys_cells s {} _ _
    have hexec : exec .printChunkSend s = .next (settle (printChunk s)) := rfl
    rw [printChunk_sends hstate hnext hport hr hok hopen hfill] at hexec
    have hframe := printBulk_frame r.st q r.st.dly.print.sent 1 (chunkHeader r.st n i ++ (chunkSeal r.st n i r.bytes).drop 16 ++
      (chunkSeal r.st n i r.bytes).take 16)
    generalize printBulk r.st q r.st.dly.print.sent 1 (chunkHeader r.st n i ++ (chunkSeal r.st n i r.bytes).drop 16 ++
      (chunkSeal r.st n i r.bytes).take 16) = v at hexec hframe ⊢
    have hcounted : RecoverKept v (chunkCounted v n i (chunkSeal r.st n i r.bytes)) := ⟨rfl, rfl, rfl, rfl, rfl, rfl⟩
    have hsent : v.dly.print.sent = s.dly.print.sent := by rw [hframe.dly, hread.dly]
    have hlist : chunkList v = chunkList s :=
      chunkList_congr (hframe.dly.trans hread.dly) ((congrArg RigBlock.active hframe.rig).trans (congrArg RigBlock.active hread.rig))
    rw [(hframe.settleKept.recoverKept.trans hcounted).settle hs] at hexec
    refine ⟨_, hexec, (congrArg Mem.cells hframe.mem).trans hcells, rfl, fun hmore => ?_, fun hlast => ?_⟩
    · rw [← hlist, ← hsent] at hmore
      rw [← hsent]
      exact ⟨if_neg (Nat.not_le.mpr hmore), if_neg (Nat.not_le.mpr hmore)⟩
    · rw [← hlist, ← hsent] at hlast
      exact ⟨if_pos hlast, if_pos hlast⟩
  case slate =>
    intro s q n i hstate hentropy hnext hport hopen
    obtain ⟨bs, hsends⟩ := printSlate_sends hstate hentropy hnext hport hopen
    have hframe := printBulk_frame (drawUse s 1) q s.dly.print.sent 2 bs
    refine ⟨_, congrArg Host.Outcome.next hsends, ?_, ?_, hframe.draws, hframe.mem⟩
    · exact congrArg (fun d : Dailies => d.print.sent + 1) hframe.dly
    · exact (congrArg (fun d : Dailies => d.print.state) hframe.dly).trans hstate
  case shut =>
    rintro s i hs hshut (rfl | rfl)
    · change Host.Outcome.next (settle (printChunk s)) = _
      rw [printChunk_shut hshut, (SettleKept.refl s).settle hs]
    · exact congrArg Host.Outcome.next (printSlate_shut hshut)
  case completes =>
    intro s hs hstate hlast
    have hover := (printEnd_over s 4).settle hs.1
    exact ⟨_, congrArg Host.Outcome.next (if_pos (by simp [hstate, hlast])), hover.state, hover.frozen, hover.keys, hover.ready,
      hover.applied⟩
  case abandons =>
    intro s p tag hmay hprint
    have hover := printEnd_over s 5
    have habandon : printAbandon s = dlyAnswer (printDrop s) .ok := if_pos hprint
    refine ⟨(dlyAnswer (printDrop s) .ok).st, ?_, ?_⟩
    · refine congrArg Host.Outcome.next ((mgmtWrite_may p tag _ printAbandon s hmay).trans ?_)
      rw [habandon]
      rfl
    · rw [printDrop_printing hprint]
      exact ⟨hover.state, hover.frozen, hover.keys, logPair_entry _ _ _⟩
  case abandonBusy =>
    intro s p tag hmay hidle
    refine congrArg Host.Outcome.next ((mgmtWrite_may p tag _ printAbandon s hmay).trans ?_)
    rw [printAbandon_busy hidle]
    rfl
  case opens =>
    intro s p tag hmay hstate hspace
    refine congrArg Host.Outcome.next ((mgmtWrite_may p tag _ restoreBegin s hmay).trans ?_)
    rw [restoreBegin_opens hstate hspace]
    rfl
  case checked =>
    intro s p tag c hmay hactive hfill
    split
    · next st hcheck => exact exec_restoreChunk_refuses tag hmay hactive hfill hcheck
    · next plain hcheck =>
      exact fun hok => ⟨_, exec_restoreChunk_writes tag hmay hactive hfill hcheck hok, rfl, List.mem_cons_self⟩
  case refused =>
    intro s p tag c st hmay hactive hfill hcheck
    exact exec_restoreChunk_refuses tag hmay hactive hfill hcheck
  case closes =>
    intro s p tag g gs hmay hactive hwhole hgot
    refine congrArg Host.Outcome.next ((mgmtWrite_may p tag _ restoreEnd s hmay).trans ?_)
    rw [restoreEnd_whole hactive hwhole hgot]
    rfl
  case partly =>
    intro s p tag hmay hactive hpart
    refine congrArg Host.Outcome.next ((mgmtWrite_may p tag _ restoreEnd s hmay).trans ?_)
    rw [restoreEnd_partial hactive hpart]
    rfl

end Sys2Proof.Machine
end

section
/-! SUPPORT. The sparse maps of a state whose canonical form every step keeps: what they are, their form, and how a fact about them is carried
from one operation to the next. -/

namespace Sys2Proof.Machine

/-- The sparse maps of a state whose form `canonical` speaks of. -/
structure Maps where
  cells : List Host.Cell
  faults : List (Nat × (BitVec 512 × BitVec 64))
  counters : List (Nat × Nat)
  staging : List Host.Cell
  tiles : List (Nat × W32)
  rigBuf : List Host.Cell
  dbgBuf : List Host.Cell

/-- The maps of a state. -/
def maps (s : State) : Maps := ⟨s.mem.cells, s.mem.faults, s.mem.counters, s.array.staging, s.array.tiles, s.rig.buf, s.lc.buf⟩

/-- The maps, read off the state: the direction in which `simp` carries them through an operation that leaves them. -/
theorem maps_fields (s : State) :
    s.mem.cells = (maps s).cells ∧ s.mem.faults = (maps s).faults ∧ s.mem.counters = (maps s).counters ∧
      s.array.staging = (maps s).staging ∧ s.array.tiles = (maps s).tiles ∧ s.rig.buf = (maps s).rigBuf ∧ s.lc.buf = (maps s).dbgBuf :=
  ⟨rfl, rfl, rfl, rfl, rfl, rfl, rfl⟩

@[simp] theorem Maps.eta (m : Maps) : Maps.mk m.cells m.faults m.counters m.staging m.tiles m.rigBuf m.dbgBuf = m := rfl

/-- The maps of a state written out, as a record update leaves it. -/
@[simp] theorem maps_mk (power bridges rig array fabric col dly mem ciph keys sp lmx gaf lc jtag err draws freeCtr pending) :
    maps ⟨power, bridges, rig, array, fabric, col, dly, mem, ciph, keys, sp, lmx, gaf, lc, jtag, err, draws, freeCtr, pending⟩ =
      ⟨mem.cells, mem.faults, mem.counters, array.staging, array.tiles, rig.buf, lc.buf⟩ := (rfl)

/-! ### Records that the maps lie in -/

@[simp] theorem engineMod_staging (a e f) : (engineMod a e f).staging = a.staging := rfl

@[simp] theorem engineMod_tiles (a e f) : (engineMod a e f).tiles = a.tiles := rfl

@[simp] theorem recSet_buf (x slot bits) : (recSet x slot bits).buf = x.buf := by
  simp only [recSet]
  split <;> rfl

/-- No fuse step of a transition writes the debug buffer. -/
theorem lcSteps_buf (target secret) : ∀ e ∈ lcSteps target secret, ∀ x, (e.2 x).buf = x.buf := by
  unfold lcSteps
  split
  · simp [copySet, vaultSet]
  · split <;> simp [copySet, vaultWipe, flashWipe]

theorem buf_foldl {α : Type} (f : LifeCycle → α → LifeCycle) : ∀ (l : List α) (x : LifeCycle),
    (∀ e ∈ l, ∀ y, (f y e).buf = y.buf) → (l.foldl f x).buf = x.buf
  | [], _, _ => rfl
  | e :: l, x, h => by
    rw [List.foldl_cons, buf_foldl f l _ fun e he => h e (List.mem_cons_of_mem _ he), h e List.mem_cons_self]

@[simp] theorem recFinish_buf (secret x i) : (recFinish secret x i).buf = x.buf :=
  buf_foldl _ _ _ fun e he y => by split <;> simp [lcSteps_buf _ _ e he]

/-! ### The canonical form -/

/-- Every map is canonical. -/
structure Maps.Wf (m : Maps) : Prop where
  cells : smWf 0#8 m.cells = true
  faults : smWf (0#512, 0#64) m.faults = true
  counters : smWf 0 m.counters = true
  staging : smWf 0#8 m.staging = true
  tiles : smWf 0#32 m.tiles = true
  rigBuf : smWf 0#8 m.rigBuf = true
  dbgBuf : smWf 0#8 m.dbgBuf = true

@[simp] theorem Maps.wf_mk (cells faults counters staging tiles rigBuf dbgBuf) :
    (Maps.mk cells faults counters staging tiles rigBuf dbgBuf).Wf ↔
      smWf 0#8 cells = true ∧ smWf (0#512, 0#64) faults = true ∧ smWf 0 counters = true ∧ smWf 0#8 staging = true ∧
        smWf 0#32 tiles = true ∧ smWf 0#8 rigBuf = true ∧ smWf 0#8 dbgBuf = true :=
  ⟨fun ⟨h1, h2, h3, h4, h5, h6, h7⟩ => ⟨h1, h2, h3, h4, h5, h6, h7⟩, fun ⟨h1, h2, h3, h4, h5, h6, h7⟩ => ⟨h1, h2, h3, h4, h5, h6, h7⟩⟩

theorem canonical_iff_wf (s : State) : canonical s ↔ (maps s).Wf :=
  ⟨fun ⟨hmem, hstaging, htiles, hrig, hdbg⟩ =>
      have ⟨hcells, hfaults, hcounters⟩ := (Memory.wf_iff _).mp hmem
      ⟨hcells, hfaults, hcounters, hstaging, htiles, hrig, hdbg⟩,
    fun h => ⟨(Memory.wf_iff _).mpr ⟨h.cells, h.faults, h.counters⟩, h.staging, h.tiles, h.rigBuf, h.dbgBuf⟩⟩

theorem Maps.Wf.mem {s : State} (h : (maps s).Wf) : Memory.wf s.mem = true := ((canonical_iff_wf s).mpr h).1

section Parts

variable {m : Maps} (h : m.Wf)
include h

@[simp] theorem Maps.Wf.cells_wf : smWf 0#8 m.cells = true := h.cells

@[simp] theorem Maps.Wf.faults_wf : smWf (0#512, 0#64) m.faults = true := h.faults

@[simp] theorem Maps.Wf.counters_wf : smWf 0 m.counters = true := h.counters

@[simp] theorem Maps.Wf.staging_wf : smWf 0#8 m.staging = true := h.staging

@[simp] theorem Maps.Wf.tiles_wf : smWf 0#32 m.tiles = true := h.tiles

@[simp] theorem Maps.Wf.rigBuf_wf : smWf 0#8 m.rigBuf = true := h.rigBuf

@[simp] theorem Maps.Wf.dbgBuf_wf : smWf 0#8 m.dbgBuf = true := h.dbgBuf

end Parts

@[simp] theorem wf_ite {c : Prop} [Decidable c] (a b : Maps) : (if c then a else b).Wf ↔ if c then a.Wf else b.Wf := by
  split <;> rfl

/-- `(maps t).Wf` by a name that no lemma rewrites. -/
def WfAt (t : State) : Prop := (maps t).Wf

/-- An operation takes a state s with canonical maps to a state t with canonical maps. Said as an equivalence that `simp` rewrites by without
a condition, so that it goes through any number of operations, one after the other, to the state before them. -/
abbrev Carries (s t : State) : Prop := (maps t).Wf ↔ WfAt t ∨ (maps s).Wf

theorem Carries.of {s t : State} (h : (maps s).Wf → (maps t).Wf) : Carries s t := ⟨.inl, fun ht => ht.elim id h⟩

theorem Carries.wf {s t : State} (k : Carries s t) (h : (maps s).Wf) : (maps t).Wf := k.mpr (.inr h)

theorem Carries.refl (s : State) : Carries s s := .of id

theorem foldl_carries {α : Type} {f : State → α → State} (hf : ∀ t x, Carries t (f t x)) :
    ∀ (l : List α) (s : State), Carries s (l.foldl f s)
  | [], s => .refl s
  | x :: l, s => .of fun h => (foldl_carries hf l (f s x)).wf ((hf s x).wf h)

theorem foldl_fst_carries {α β : Type} {f : State × β → α → State × β} (hf : ∀ p x, Carries p.1 (f p x).1) :
    ∀ (l : List α) (p : State × β), Carries p.1 (l.foldl f p).1
  | [], p => .refl p.1
  | x :: l, p => .of fun h => (foldl_fst_carries hf l (f p x)).wf ((hf p x).wf h)

/-! ### Writes of sparse maps -/

@[simp] theorem putBytes_wf {m : List Host.Cell} (a bs) (h : smWf 0#8 m = true) : smWf 0#8 (putBytes m a bs) = true :=
  smWf_putBytes m a bs h

@[simp] theorem smPutRun_wf {β : Type} [DecidableEq β] {d : β} {m : List (Nat × β)} (a l) (h : smWf d m = true) :
    smWf d (smPutRun d m a l) = true := smWf_smPutRun d l m a h

@[simp] theorem smPlace_wf {β : Type} [DecidableEq β] {d : β} {m : List (Nat × β)} (lo l) (h : smWf d m = true) :
    smWf d (smPlace d m lo l) = true := smWf_smPlace d lo l m h

@[simp] theorem smDrop_wf {β : Type} [DecidableEq β] {d : β} {m : List (Nat × β)} (lo hi) (h : smWf d m = true) :
    smWf d (smDrop m lo hi) = true := smWf_smDrop d m lo hi h

@[simp] theorem smFilter_wf {β : Type} [DecidableEq β] {d : β} {m : List (Nat × β)} (f) (h : smWf d m = true) :
    smWf d (m.filter f) = true := smWf_filter d f m h

@[simp] theorem smWf_ite {β : Type} [DecidableEq β] (d : β) {c : Prop} [Decidable c] (a b : List (Nat × β)) :
    smWf d (if c then a else b) = if c then smWf d a else smWf d b := apply_ite (smWf d) c a b

@[simp] theorem smNil_wf {β : Type} [DecidableEq β] (d : β) : smWf d [] = true := rfl

/-- Reference engines set to +0 keep the tiles' form. -/
theorem refZero_foldl_tiles_wf : ∀ (l : List RushJob) (a : Array), smWf 0#32 a.tiles = true →
    smWf 0#32 (l.foldl (fun a j => refZero a j.refEngine) a).tiles = true
  | [], _, h => h
  | j :: l, a, h => refZero_foldl_tiles_wf l (refZero a j.refEngine) (smDrop_wf _ _ h)

@[simp] theorem refZero_foldl_staging : ∀ (l : List RushJob) (a : Array), (l.foldl (fun a j => refZero a j.refEngine) a).staging = a.staging
  | [], _ => rfl
  | j :: l, a => refZero_foldl_staging l (refZero a j.refEngine)

@[simp] theorem engineZero_staging_wf {a : Array} (e) (h : smWf 0#8 a.staging = true) : smWf 0#8 (engineZero a e).staging = true :=
  smDrop_wf _ _ h

@[simp] theorem engineZero_tiles_wf {a : Array} (e) (h : smWf 0#32 a.tiles = true) : smWf 0#32 (engineZero a e).tiles = true :=
  smDrop_wf _ _ h

/-- A part of a map replaced by a kept copy of it. -/
@[simp] theorem smPlace_smDrop_wf {β : Type} [DecidableEq β] {d : β} {m : List (Nat × β)} (lo hi lo' l) (h : smWf d m = true) :
    smWf d (smPlace d (smDrop m lo hi) lo' l) = true := smPlace_wf lo' l (smDrop_wf lo hi h)

theorem lineWritten_wf {m : Mem} (line) (h : Memory.wf m = true) : Memory.wf (lineWritten m line) = true := by
  unfold lineWritten linePut
  split
  · exact setFault_wf m line _ h
  · exact setFault_wf m line _ h

/-- A walk that dead-marks a unit's lines keeps the memory's form. -/
theorem deadLines_wf : ∀ k line {m : Mem}, Memory.wf m = true → Memory.wf (deadLines k line m) = true
  | 0, _, _, h => h
  | k + 1, line, _, h => deadLines_wf k (line + 1) (setFault_wf _ line _ (lineWritten_wf line h))

theorem rigPtr_buf_wf (v) : ∀ r : RigBlock, smWf 0#8 r.buf = true → smWf 0#8 (rigPtr v r).buf = true := fun _ h => h

theorem rigLen_buf_wf (v) : ∀ r : RigBlock, smWf 0#8 r.buf = true → smWf 0#8 (rigLen v r).buf = true := fun _ h => h

theorem rigData_buf_wf (v) : ∀ r : RigBlock, smWf 0#8 r.buf = true → smWf 0#8 (rigData v r).buf = true := fun r h => by
  unfold rigData
  split <;> simp [h]

/-! ### What the relations of earlier proofs leave canonical -/

section Relations

variable {s t : State}

theorem ReadWork.canon (k : ReadWork s t) (hm : MemKept s.mem t.mem) (h : (maps s).Wf) : (maps t).Wf := by
  obtain ⟨_, _, _, _, rfl⟩ := k
  exact (canonical_iff_wf _).mp ⟨hm.wf h.mem, h.staging, h.tiles, h.rigBuf, h.dbgBuf⟩

theorem AccessWork.canon (k : AccessWork s t) (hm : Memory.wf t.mem = true) (h : (maps s).Wf) : (maps t).Wf := by
  obtain ⟨_, _, _, _, _, _, _, rfl⟩ := k
  exact (canonical_iff_wf _).mp ⟨hm, h.staging, h.tiles, h.rigBuf, h.dbgBuf⟩

end Relations

end Sys2Proof.Machine
end

section
/-! SUPPORT. The operations that write none of the sparse maps. -/

namespace Sys2Proof.Machine

/-! ### Choices and runs -/

@[simp] theorem maps_ite {c : Prop} [Decidable c] (s t : State) : maps (if c then s else t) = if c then maps s else maps t :=
  apply_ite maps c s t

@[simp] theorem maps_ite_fst {α : Type} {c : Prop} [Decidable c] (p q : State × α) :
    maps (if c then p else q).1 = if c then maps p.1 else maps q.1 := apply_ite (fun r : State × α => maps r.1) c p q

@[simp] theorem maps_ite_answer {c : Prop} [Decidable c] (p q : Answer) :
    maps (if c then p else q).st = if c then maps p.st else maps q.st := apply_ite (fun r : Answer => maps r.st) c p q

@[simp] theorem maps_ite_memRead {c : Prop} [Decidable c] (p q : MemRead) :
    maps (if c then p else q).st = if c then maps p.st else maps q.st := apply_ite (fun r : MemRead => maps r.st) c p q

@[simp] theorem maps_ite_memWrite {c : Prop} [Decidable c] (p q : MemWrite) :
    maps (if c then p else q).st = if c then maps p.st else maps q.st := apply_ite (fun r : MemWrite => maps r.st) c p q

@[simp] theorem maps_ite_unitRead {c : Prop} [Decidable c] (p q : UnitRead) :
    maps (if c then p else q).st = if c then maps p.st else maps q.st := apply_ite (fun r : UnitRead => maps r.st) c p q

@[simp] theorem maps_foldl {α : Type} (f : State → α → State) (h : ∀ t x, maps (f t x) = maps t) (l : List α) (s : State) :
    maps (l.foldl f s) = maps s := by
  induction l generalizing s with
  | nil => rfl
  | cons x l ih => rw [List.foldl_cons, ih, h]

/-! ### Shared operations -/

@[simp] theorem freeUse_maps (s : State) (n) : maps (freeUse s n) = maps s := by simp [freeUse, maps_fields]

@[simp] theorem drawUse_maps (s : State) (n) : maps (drawUse s n) = maps s := by simp [drawUse, maps_fields]

@[simp] theorem holdDraw_maps (s : State) (i) : maps (holdDraw s i) = maps s := by simp [holdDraw, maps_fields]

@[simp] theorem quoteAsk_maps (s : State) (q) : maps (quoteAsk s q) = maps s := by simp [quoteAsk, maps_fields]

@[simp] theorem stLog_maps (s : State) (e) : maps (stLog s e) = maps s := by simp [stLog, maps_fields]

@[simp] theorem portMod_maps (s : State) (p f) : maps (portMod s p f) = maps s := by simp [portMod, maps_fields]

@[simp] theorem setupSend_maps (s : State) (p m) : maps (setupSend s p m) = maps s := by simp [setupSend]

@[simp] theorem noticeHold_maps (s : State) (p slot n) : maps (noticeHold s p slot n) = maps s := by
  simp [noticeHold, maps_fields]

@[simp] theorem moveMsg_maps (s : State) (p m) : maps (moveMsg s p m) = maps s := by
  simp only [moveMsg]
  split <;> simp [maps_fields]

@[simp] theorem endSess_maps (s : State) (p) : maps (endSess s p) = maps s := by simp [endSess, maps_fields]

@[simp] theorem sendMsg_maps (s : State) (p m) : maps (sendMsg s p m) = maps s := by simp [sendMsg, maps_fields]

@[simp] theorem mgmtReply_maps (s : State) (p tag st data) : maps (mgmtReply s p tag st data) = maps s := by simp [mgmtReply]

@[simp] theorem mgmtRun_maps (p tag) (f : State → Answer) (hf : ∀ t, maps (f t).st = maps t) (s : State) :
    maps (mgmtRun p tag f s) = maps s := by simp [mgmtRun, hf]

@[simp] theorem lockTest_maps (p) (f : State → Answer) (hf : ∀ t, maps (f t).st = maps t) (s : State) :
    maps (lockTest p f s).st = maps s := by simp [lockTest, hf]

@[simp] theorem mgmtAgain_maps (p tag) (f : State → Answer) (hf : ∀ t, maps (f t).st = maps t) (s : State) :
    maps (mgmtAgain p tag f s) = maps s := by simp [mgmtAgain, hf]

@[simp] theorem endChannel_maps (s : State) (q) : maps (endChannel s q) = maps s := by simp [endChannel, maps_fields]

@[simp] theorem partyTake_maps (q m) (f : State → State) (hf : ∀ t, maps (f t) = maps t) (s : State) :
    maps (partyTake q m f s) = maps s := by simp [partyTake, hf, maps_fields]

@[simp] theorem refuseMsg_maps (s : State) (p) : maps (refuseMsg s p) = maps s := by simp [refuseMsg, maps_fields]

@[simp] theorem chanSent_maps (s : State) (q) : maps (chanSent s q) = maps s := by
  simp only [chanSent]
  split <;> simp [maps_fields]

@[simp] theorem noticeOn_maps (s : State) (p slot n) : maps (noticeOn s p slot n) = maps s := by
  simp only [noticeOn]
  repeat' split
  all_goals simp

@[simp] theorem sendNotice_maps (s : State) (slot n) : maps (sendNotice s slot n) = maps s := by simp [sendNotice]

@[simp] theorem flushNotices_maps (s : State) : maps (flushNotices s) = maps s := by simp [flushNotices, maps_fields]

@[simp] theorem cmdEnd_maps (s : State) (cid r) : maps (cmdEnd s cid r) = maps s := by simp [cmdEnd, maps_fields]

@[simp] theorem cmdFail_maps (s : State) (c r) : maps (cmdFail s c r) = maps s := by simp [cmdFail, maps_fields]

/-! ### Access to main memory -/

@[simp] theorem logMem_maps (s : State) (w n stack st level) : maps (logMem s w n stack st level) = maps s := by simp [logMem]

@[simp] theorem failRange_maps (s : State) (w n a st level) : maps (failRange s w n a st level) = maps s := by
  simp [failRange, maps_fields]

@[simp] theorem markMirror_maps (s : State) (n a size) : maps (markMirror s n a size) = maps s := by
  simp [markMirror, maps_fields]

@[simp] theorem slotPut_maps (s : State) (i k) : maps (slotPut s i k) = maps s := by simp [slotPut, maps_fields]

@[simp] theorem chargePj_maps (s : State) (cid pj) : maps (chargePj s cid pj) = maps s := by simp [chargePj, maps_fields]

@[simp] theorem countHbm_maps (s : State) (c runs rd wr) : maps (countHbm s c runs rd wr) = maps s := by
  simp [countHbm, maps_fields]

@[simp] theorem addMask_maps (s : State) (ctx m) : maps (addMask s ctx m) = maps s := by simp [addMask, maps_fields]

@[simp] theorem holdAccess_maps (s : State) (i) : maps (holdAccess s i) = maps s := by simp [holdAccess, maps_fields]

/-! ### Bands of a matrix engine -/

@[simp] theorem tileKinds_maps (s : State) (x base m int) : maps (tileKinds s x base m int) = maps s := by
  simp [tileKinds, maps_fields]

@[simp] theorem holdRead_maps (s : State) (ctx x stg tile) : maps (holdRead s ctx x stg tile) = maps s := by simp [holdRead]

@[simp] theorem holdWrite_maps (s : State) (c x stg tile) : maps (holdWrite s c x stg tile) = maps s := by
  simp [holdWrite, maps_fields]

/-! ### Fabric links -/

@[simp] theorem linkMod_maps (s : State) (n f) : maps (linkMod s n f) = maps s := by simp [linkMod, maps_fields]

@[simp] theorem islandWoken_maps (s : State) (n) : maps (islandWoken s n) = maps s := by simp [islandWoken, maps_fields]

@[simp] theorem twinRaised_maps (s : State) (n up) : maps (twinRaised s n up) = maps s := by simp [twinRaised, maps_fields]

@[simp] theorem linkTrain_maps (s : State) (n p) : maps (linkTrain s n p) = maps s := by simp [linkTrain]

@[simp] theorem ingressFree_maps (s : State) (n flits) : maps (ingressFree s n flits) = maps s := by simp [ingressFree]

@[simp] theorem egressDone_maps (s : State) (n) : maps (egressDone s n) = maps s := by
  simp only [egressDone]
  repeat' split
  all_goals simp

@[simp] theorem egressSlot_maps (s : State) (n) : maps (egressSlot s n) = maps s := by
  simp only [egressSlot]
  split <;> simp

@[simp] theorem egressSlots_maps (n) : ∀ k (s : State), maps (egressSlots n k s) = maps s
  | 0, _ => rfl
  | k + 1, s => by simp [egressSlots, egressSlots_maps n k]

@[simp] theorem egressRequest_maps (s : State) (n r) : maps (egressRequest s n r) = maps s := by
  simp only [egressRequest]
  repeat' split
  all_goals simp

@[simp] theorem egressBackoff_maps (s : State) (n r) : maps (egressBackoff s n r) = maps s := by simp [egressBackoff]

@[simp] theorem enqueue_maps (s : State) (n r o) : maps (enqueue s n r o) = maps s := by simp [enqueue]

@[simp] theorem issue_maps (s : State) (w) : maps (issue s w) = maps s := by
  simp only [issue]
  repeat' split
  all_goals simp [maps_fields]

@[simp] theorem request_maps (s : State) (w) : maps (request s w) = maps s := by simp [request, maps_fields]

@[simp] theorem issueWaiting_maps (s : State) : maps (issueWaiting s) = maps s := by simp [issueWaiting, maps_fields]

@[simp] theorem endTxns_maps (s : State) (f st) : maps (endTxns s f st) = maps s := by
  simp [endTxns, maps_fields]

@[simp] theorem respond_maps (s : State) (q st data owners requester space) :
    maps (respond s q st data owners requester space) = maps s := by
  simp only [respond]
  repeat' split
  all_goals simp [maps_fields]

@[simp] theorem codewordSend_maps (s : State) (n) : maps (codewordSend s n) = maps s := by
  simp only [codewordSend]
  split <;> simp

@[simp] theorem codewordAck_maps (s : State) (n ack nak) : maps (codewordAck s n ack nak) = maps s := by
  simp [codewordAck, maps_fields]

@[simp] theorem codewordTake_maps (s : State) (n cw) : maps (codewordTake s n cw) = maps s := by simp [codewordTake]

@[simp] theorem linkLog_maps (s : State) (n watchdog) : maps (linkLog s n watchdog) = maps s := by simp [linkLog]

@[simp] theorem linkFlush_maps (s : State) (n may) : maps (linkFlush s n may) = maps s := by simp [linkFlush, maps_fields]

@[simp] theorem linkReset_maps (s : State) (n watchdog) : maps (linkReset s n watchdog) = maps s := by simp [linkReset]

/-! ### Strikes, resets and the power-up -/

@[simp] theorem logAbandoned_maps (s : State) : maps (logAbandoned s) = maps s := by simp [logAbandoned]

@[simp] theorem bumpEpoch_maps (s : State) : maps (bumpEpoch s) = maps s := by simp [bumpEpoch, maps_fields]

@[simp] theorem recordStrike_maps (s : State) (cause) : maps (recordStrike s cause) = maps s := by
  simp [recordStrike, maps_fields]

@[simp] theorem bootFail_maps (s : State) (step unit) : maps (bootFail s step unit) = maps s := by simp [bootFail, maps_fields]

@[simp] theorem bootDone_maps (s : State) (step) : maps (bootDone s step) = maps s := by simp [bootDone, maps_fields]

@[simp] theorem bootStep3_maps (s : State) : maps (bootStep3 s).1 = maps s := by
  have h : ∀ l x, (List.foldl (recFinish (drawAt s 0)) x l).buf = x.buf := fun l x =>
    buf_foldl _ l x fun e _ y => recFinish_buf _ y e
  unfold bootStep3
  dsimp only
  generalize pendingRecs s.lc = l
  repeat' split
  all_goals simp [maps_fields, h, scrapWipe, vaultWipe, flashWipe]

@[simp] theorem bootStep4_maps (s : State) : maps (bootStep4 s) = maps s := by simp [bootStep4, maps_fields]

@[simp] theorem bootSelftest_maps (s : State) (b ok) : maps (bootSelftest s b ok) = maps s := by
  simp [bootSelftest, maps_fields]

@[simp] theorem emergencyMark_maps (s : State) (g) :
    maps (emergencyMark s g) = maps s := by simp [emergencyMark, maps_fields]

@[simp] theorem bootClamp_maps (s : State) : maps (bootClamp s) = maps s := by
  simp [bootClamp]

@[simp] theorem bootStep10_maps (s : State) : maps (bootStep10 s) = maps s := by simp [bootStep10, maps_fields]

@[simp] theorem sampleStraps_maps (s : State) (st) : maps (sampleStraps s st) = maps s := by simp [sampleStraps, maps_fields]

@[simp] theorem i3cRefuse_maps (s : State) : maps (i3cRefuse s) = maps s := by simp [i3cRefuse, maps_fields]

/-! ### Bridges -/

@[simp] theorem bridgeMod_maps (s : State) (d f) : maps (bridgeMod s d f) = maps s := by simp [bridgeMod, maps_fields]

@[simp] theorem logBridge_maps (s : State) (d) : maps (logBridge s d) = maps s := by simp [logBridge]

@[simp] theorem countResend_maps (s : State) (d) : maps (countResend s d) = maps s := by simp [countResend, maps_fields]

/-! ### The matrix array -/

@[simp] theorem refHold_maps (s : State) (c ref) : maps (refHold s c ref) = maps s := by simp [refHold, maps_fields]

@[simp] theorem rushFill_maps (s : State) (c b a w cells) : maps (rushFill s c b a w cells) = maps s := by
  simp only [rushFill]
  split <;> simp [maps_fields]

@[simp] theorem mmWorked_maps (s : State) (b fa fb overlap start stop) :
    maps (mmWorked s b fa fb overlap start stop) = maps s := by simp [mmWorked, maps_fields]

@[simp] theorem mxeCntClear_maps (engine v) (s : State) : maps (mxeCntClear engine v s).st = maps s := by
  simp [mxeCntClear, maps_fields]

/-! ### The vector engine -/

/-! ### QUANTIZE, RANDOM and the grip watchdog -/

@[simp] theorem stepKeyGet_maps (s : State) (slot step) : maps (stepKeyGet s slot step).1 = maps s := by
  simp only [stepKeyGet]
  split <;> simp [maps_fields]

/-! ### Reductions at memory -/

@[simp] theorem endTally_maps (s : State) (c st range r) : maps (endTally s c st range r) = maps s := by simp [endTally]

@[simp] theorem endRange_maps (s : State) (c st range) : maps (endRange s c st range) = maps s := by simp [endRange]

/-! ### Layout engines, COPY and staging moves -/

@[simp] theorem endMove_maps (c r) : maps (endMove c r) = maps r.1 := by simp [endMove]

@[simp] theorem nopRun_maps (s : State) (c) : maps (nopRun s c) = maps s := by simp [nopRun]

@[simp] theorem sharePass_maps (s : State) (c engine) : maps (sharePass s c engine) = maps s := by simp [sharePass, maps_fields]

/-! ### Write-backs and scrubs -/

@[simp] theorem flipCtrl_maps (v) (s : State) : maps (flipCtrl v s) = maps s := by simp [flipCtrl, maps_fields]

@[simp] theorem scrubStart_maps (range pace) (s : State) : maps (scrubStart range pace s) = maps s := by
  simp [scrubStart, maps_fields]

@[simp] theorem scrubStop_maps (s : State) : maps (scrubStop s) = maps s := by simp [scrubStop, maps_fields]

/-! ### The parameter update -/

@[simp] theorem updNonfinite_maps (s : State) (c b) : maps (updNonfinite s c b) = maps s := by simp [updNonfinite]

/-! ### Groups of collectives -/

/-! ### The collective engine -/

@[simp] theorem colMod_maps (s : State) (cid f) : maps (colMod s cid f) = maps s := by simp [colMod, maps_fields]

@[simp] theorem colMsg_maps (x data owner) (s : State) (rank) : maps (colMsg x data owner s rank) = maps s := by simp [colMsg]

@[simp] theorem colWrite_maps (s : State) (x rank range off bs) : maps (colWrite s x rank range off bs) = maps s := by
  simp [colWrite, maps_fields]

/-! ### Dailies: shared operations -/

@[simp] theorem dlyMod_maps (s : State) (f) : maps (dlyMod s f) = maps s := by simp [dlyMod, maps_fields]

@[simp] theorem dlyMsg_maps (dst twin kind data owner) (s : State) : maps (dlyMsg dst twin kind data owner s) = maps s := by
  simp [dlyMsg]

@[simp] theorem partnerMsg_maps (kind data) (s : State) : maps (partnerMsg kind data s) = maps s := by simp [partnerMsg]

@[simp] theorem logPair_maps (s : State) (st bit12) : maps (logPair s st bit12) = maps s := by simp [logPair]

@[simp] theorem pairEvent_maps (s : State) (st) : maps (pairEvent s st) = maps s := by simp [pairEvent]

@[simp] theorem pairRefuse_maps (s : State) (reason) : maps (pairRefuse s reason) = maps s := by simp [pairRefuse]

@[simp] theorem pairingStart_maps (nonce ids) (s : State) : maps (pairingStart nonce ids s) = maps s := by simp [pairingStart]

@[simp] theorem resilverStart_maps (s : State) : maps (resilverStart s) = maps s := by simp [resilverStart]

@[simp] theorem continuityKey_maps (s : State) (key epoch gen) : maps (continuityKey s key epoch gen) = maps s := by
  simp [continuityKey, maps_fields]

@[simp] theorem lapseTwin_maps (tell) (s : State) : maps (lapseTwin tell s) = maps s := by simp [lapseTwin]

@[simp] theorem lapsePrimary_maps (s : State) : maps (lapsePrimary s) = maps s := by simp [lapsePrimary]

@[simp] theorem sealReceive_maps (s : State) (gen step) : maps (sealReceive s gen step) = maps s := by simp [sealReceive]

@[simp] theorem abortSealed_maps (s : State) (gen) : maps (abortSealed s gen) = maps s := by simp [abortSealed]

@[simp] theorem cutMod_maps (s : State) (f) : maps (cutMod s f) = maps s := by simp [cutMod]

@[simp] theorem cutTell_maps (s : State) (kind gen) : maps (cutTell s kind gen) = maps s := by simp [cutTell]

@[simp] theorem cutCommitted_maps (s : State) (k) : maps (cutCommitted s k) = maps s := by simp [cutCommitted]

@[simp] theorem notReady_maps (s : State) (k) : maps (notReady s k) = maps s := by simp [notReady]

@[simp] theorem dlyAnswer_maps (s : State) (st) : maps (dlyAnswer s st).st = maps s := by simp [dlyAnswer]

@[simp] theorem rewind_maps (s : State) : maps (rewind s).st = maps s := by simp [rewind]

@[simp] theorem takeBegin_maps (s : State) : maps (takeBegin s).st = maps s := by simp [takeBegin]

@[simp] theorem checkArm_maps (s : State) : maps (checkArm s).st = maps s := by simp [checkArm]

@[simp] theorem takeAppend_maps (s : State) (step digest) : maps (takeAppend s step digest) = maps s := by simp [takeAppend]

@[simp] theorem takeRecordAppend_maps (s : State) (c step digest) : maps (takeRecordAppend s c step digest) = maps s := by
  simp [takeRecordAppend, maps_fields]

@[simp] theorem takeRecord_maps (s : State) (c) : maps (takeRecord s c) = maps s := by simp [takeRecord]

@[simp] theorem takeLogReceive_maps (s : State) (step digest) : maps (takeLogReceive s step digest) = maps s := by
  simp [takeLogReceive]

@[simp] theorem mirrorSkip_maps (s : State) (l k) : maps (mirrorSkip s l k) = maps s := by simp [mirrorSkip]

@[simp] theorem mirrorPacket_maps (s : State) (n l k bs) : maps (mirrorPacket s n l k bs) = maps s := by simp [mirrorPacket]

@[simp] theorem resilverDone_maps (s : State) : maps (resilverDone s) = maps s := by simp [resilverDone]

@[simp] theorem heartbeatSend_maps (s : State) : maps (heartbeatSend s) = maps s := by simp [heartbeatSend]

@[simp] theorem heartbeatReceive_maps (s : State) (r) : maps (heartbeatReceive s r) = maps s := by simp [heartbeatReceive]

@[simp] theorem partnerSuspect_maps (s : State) : maps (partnerSuspect s) = maps s := by simp [partnerSuspect]

@[simp] theorem probeReceive_maps (s : State) (src) : maps (probeReceive s src) = maps s := by simp [probeReceive]

@[simp] theorem takeTxnEnd_maps (s : State) (cid st) : maps (takeTxnEnd s cid st) = maps s := by
  simp only [takeTxnEnd]
  split <;> simp

/-! ### Spaces, contexts, queues, objects and fences -/

@[simp] theorem spcStatus_maps (s : State) (slot st) : maps (spcStatus s slot st) = maps s := by simp [spcStatus, maps_fields]

@[simp] theorem spaceCreate_maps (slot) (s : State) : maps (spaceCreate slot s).st = maps s := by
  simp only [spaceCreate]
  split <;> simp [maps_fields]

@[simp] theorem fenceNotices_maps (s : State) (f) : maps (fenceNotices s f) = maps s := by simp [fenceNotices, maps_fields]

@[simp] theorem fenceSignal_maps (s : State) (idx v) : maps (fenceSignal s idx v) = maps s := by
  simp only [fenceSignal]
  split <;> simp [maps_fields]

@[simp] theorem fenceFail_maps (s : State) (idx rec) : maps (fenceFail s idx rec) = maps s := by
  simp only [fenceFail]
  split <;> simp [maps_fields]

@[simp] theorem fenceDestroy_maps (s : State) (f) : maps (fenceDestroy s f) = maps s := by simp [fenceDestroy, maps_fields]

@[simp] theorem releaseStruck_maps (s : State) : maps (releaseStruck s) = maps s := by simp [releaseStruck, maps_fields]

@[simp] theorem objFree_maps (s : State) (o) : maps (objFree s o) = maps s := by simp [objFree, maps_fields]

@[simp] theorem ctxCreate_maps (slot r) (s : State) : maps (ctxCreate slot r s).st = maps s := by simp [ctxCreate, maps_fields]

@[simp] theorem ctxSet_maps (slot id r) (s : State) : maps (ctxSet slot id r s).st = maps s := by
  simp only [ctxSet]
  split <;> simp [maps_fields]

@[simp] theorem ctxQuery_maps (slot id) (s : State) : maps (ctxQuery slot id s).st = maps s := by
  simp only [ctxQuery]
  split <;> simp

@[simp] theorem qCreate_maps (slot ringAddr entries compAddr version) (s : State) :
    maps (qCreate slot ringAddr entries compAddr version s).st = maps s := by simp [qCreate, maps_fields]

@[simp] theorem logCmd_maps (s : State) (c r) : maps (logCmd s c r) = maps s := by simp [logCmd]

@[simp] theorem ctxOwned_maps (s : State) (id) : maps (ctxOwned s id) = maps s := by simp [ctxOwned]

@[simp] theorem ctxGone_maps (s : State) (x) : maps (ctxGone s x) = maps s := by simp [ctxGone, maps_fields]

@[simp] theorem endContexts_maps (s : State) : maps (endContexts s) = maps s := by simp [endContexts]

@[simp] theorem fenceCreate_maps (slot owner v) (s : State) : maps (fenceCreate slot owner v s).st = maps s := by
  simp only [fenceCreate]
  split <;> simp [maps_fields]

@[simp] theorem fenceDestroyReq_maps (slot h) (s : State) : maps (fenceDestroyReq slot h s).st = maps s := by
  simp only [fenceDestroyReq]
  split <;> simp

@[simp] theorem fenceQuery_maps (slot h) (s : State) : maps (fenceQuery slot h s).st = maps s := by
  simp only [fenceQuery]
  split <;> simp

@[simp] theorem fenceNotify_maps (slot h v) (s : State) : maps (fenceNotify slot h v s).st = maps s := by
  simp only [fenceNotify]
  split <;> simp [maps_fields]

@[simp] theorem spaceReply_maps (s : State) (ch st data) : maps (spaceReply s ch st data) = maps s := by
  simp only [spaceReply]
  repeat' split
  all_goals simp

/-! ### Key rotation, refills and the memory window -/

@[simp] theorem ciphStatus_maps (s : State) (n st) : maps (ciphStatus s n st) = maps s := by simp [ciphStatus, maps_fields]

@[simp] theorem rekeyStart_maps (s : State) (n slot pace) : maps (rekeyStart s n slot pace) = maps s := by
  simp [rekeyStart, maps_fields]

@[simp] theorem rekey_maps (n newSlot pace) (s : State) : maps (rekey n newSlot pace s).st = maps s := by
  simp only [rekey]
  repeat' split
  all_goals simp

@[simp] theorem fillFinish_maps (n) (s : State) : maps (fillFinish n s) = maps s := by simp [fillFinish, maps_fields]

@[simp] theorem debugCount_maps (s : State) (a) : maps (debugCount s a) = maps s := by
  simp only [debugCount]
  repeat' split
  all_goals simp [maps_fields]

@[simp] theorem winStatusPut_maps (s : State) (st) : maps (winStatusPut s st) = maps s := by simp [winStatusPut, maps_fields]

/-! ### Dailies: commands -/

@[simp] theorem print_maps (mask) (s : State) : maps (print mask s).st = maps s := by simp [print]

@[simp] theorem printBulk_maps (s : State) (p stream target bs) : maps (printBulk s p stream target bs) = maps s := by
  simp [printBulk]

@[simp] theorem printSlate_maps (s : State) : maps (printSlate s) = maps s := by
  simp only [printSlate]
  repeat' split
  all_goals simp

@[simp] theorem restoreBegin_maps (s : State) : maps (restoreBegin s).st = maps s := by simp [restoreBegin]

@[simp] theorem restoreEnd_maps (s : State) : maps (restoreEnd s).st = maps s := by simp [restoreEnd]

/-! ### Packets and collective messages -/

@[simp] theorem windowTake_maps (s : State) (p) : maps (windowTake s p) = maps s := by simp [windowTake, maps_fields]

@[simp] theorem dropFab_maps (s : State) (f) : maps (dropFab s f) = maps s := by
  simp [dropFab, maps_fields]

@[simp] theorem requestsRefuse_maps (s : State) : maps (requestsRefuse s) = maps s := by
  unfold requestsRefuse
  rw [maps_foldl _ fun t i => by split <;> simp]
  simp [maps_fields]

@[simp] theorem dropLate_maps (s : State) (tag) : maps (dropLate s tag) = maps s := by simp [dropLate]

@[simp] theorem transitDrop_maps (s : State) (link p f) :
    maps (transitDrop s link p f) = maps s := by simp [transitDrop]

@[simp] theorem transitForward_maps (s : State) (link p buf) : maps (transitForward s link p buf) = maps s := by
  simp only [transitForward]
  repeat' split
  all_goals simp

@[simp] theorem codewordIn_maps (s : State) (n cw) : maps (codewordIn s n cw) = maps s := by simp [codewordIn]

@[simp] theorem codewordReceive_maps (s : State) (n cw) : maps (codewordReceive s n cw) = maps s := by simp [codewordReceive]

/-! ### Quotes, keys and the random source -/

@[simp] theorem keyStatus_maps (s : State) (st) : maps (keyStatus s st).st = maps s := by simp [keyStatus, maps_fields]

@[simp] theorem quoteReq_maps (s : State) : maps (quoteReq s).st = maps s := by
  simp only [quoteReq]
  split <;> simp [maps_fields]

@[simp] theorem certReq_maps (inter) (s : State) : maps (certReq inter s).st = maps s := by simp [certReq, maps_fields]

@[simp] theorem keyOutRead_maps (s : State) : maps (keyOutRead s).st = maps s := by simp [keyOutRead, maps_fields]

@[simp] theorem drawKey_maps (slot o) (s : State) : maps (drawKey slot o s).st = maps s := by simp [drawKey]

@[simp] theorem fabActivate_maps (s : State) : maps (fabActivate s).st = maps s := by
  simp only [fabActivate]
  repeat' split
  all_goals simp [maps_fields]

@[simp] theorem fabRetire_maps (s : State) : maps (fabRetire s).st = maps s := by
  simp only [fabRetire]
  split <;> simp [maps_fields]

/-! ### The rig -/

@[simp] theorem relinkAll_maps (old) (s : State) : maps (relinkAll old s) = maps s := by simp [relinkAll]

@[simp] theorem rerole_maps (old) (s : State) : maps (rerole old s) = maps s := by simp [rerole]

/-! ### The Gaffer -/

@[simp] theorem budgetWrite_maps (v) (s : State) : maps (budgetWrite v s) = maps s := by simp [budgetWrite, maps_fields]

@[simp] theorem emergencyNotice_maps (s : State) (cycles) : maps (emergencyNotice s cycles) = maps s := by simp [emergencyNotice]

@[simp] theorem emergencyStart_maps (s : State) (g) :
    maps (emergencyStart s g) = maps s := by simp [emergencyStart]

@[simp] theorem emergencyEnd_maps (s : State) (g cycles) :
    maps (emergencyEnd s g cycles) = maps s := by simp [emergencyEnd, maps_fields]

@[simp] theorem islandRefresh_maps (s : State) (e) : maps (islandRefresh s e) = maps s := by
  simp only [islandRefresh]
  split <;> simp [maps_fields]

@[simp] theorem lowerEngines_maps (f) (s : State) : maps (lowerEngines f s) = maps s := by simp [lowerEngines, maps_fields]

@[simp] theorem sampleRushes_maps (s : State) (c) : maps (sampleRushes s c) = maps s := by
  simp only [sampleRushes]
  split <;> simp [maps_fields]

@[simp] theorem leaveIdle_maps (s : State) (n) : maps (leaveIdle s n) = maps s := by simp [leaveIdle, maps_fields]

@[simp] theorem residencyFill_maps (s : State) : maps (residencyFill s) = maps s := by simp [residencyFill, maps_fields]

@[simp] theorem repoint_maps (s : State) (e f) : maps (repoint s e f) = maps s := by simp [repoint, maps_fields]

@[simp] theorem retuneLower_maps : ∀ fuel slot (s : State), maps (retuneLower fuel slot s) = maps s
  | 0, _, _ => rfl
  | fuel + 1, slot, s => by
    have ih := retuneLower_maps fuel slot
    unfold retuneLower
    split
    · split <;> simp [ih]
    · rfl

@[simp] theorem setHeld_maps (s : State) (e h) : maps (setHeld s e h) = maps s := by simp [setHeld, maps_fields]

@[simp] theorem retuneHold_maps (slot) : ∀ l (s : State), maps (retuneHold slot l s) = maps s
  | [], _ => rfl
  | e :: l, s => by simp [retuneHold, retuneHold_maps slot l]

@[simp] theorem retuneFree_maps (slot) : ∀ l (s : State), maps (retuneFree slot l s) = maps s
  | [], _ => rfl
  | e :: l, s => by simp [retuneFree, retuneFree_maps slot l]

@[simp] theorem retuneRaise_maps (slot e) (s : State) : maps (retuneRaise slot e s) = maps s := by
  simp only [retuneRaise]
  split <;> simp

@[simp] theorem retuneSpace_maps (slot) (s : State) : maps (retuneSpace slot s) = maps s := by simp [retuneSpace]

@[simp] theorem splitEnergy_maps (m) (s : State) : maps (splitEnergy m s) = maps s := by simp [splitEnergy, maps_fields]

@[simp] theorem freeIdle_maps (s : State) : maps (freeIdle s) = maps s := by simp [freeIdle]

/-! ### The life cycle and the debug ports -/

@[simp] theorem lcStatus_maps (s : State) (st) : maps (lcStatus s st) = maps s := by simp [lcStatus, maps_fields]

@[simp] theorem lcGo_maps (s : State) (target b) : maps (lcGo s target b) = maps s := by simp [lcGo, maps_fields]

@[simp] theorem lcField_maps (b) (s : State) : maps (lcField b s).st = maps s := by simp [lcField]

@[simp] theorem flashTick_maps (s : State) (w) : maps (flashTick s w) = maps s := by simp [flashTick, maps_fields]

@[simp] theorem dbgStatus_maps (s : State) (st reason) : maps (dbgStatus s st reason) = maps s := by
  simp [dbgStatus, maps_fields]

@[simp] theorem challengeDrop_maps (s : State) : maps (challengeDrop s) = maps s := by simp [challengeDrop, maps_fields]

@[simp] theorem dbgClose_maps (s : State) : maps (dbgClose s).st = maps s := by simp [dbgClose, maps_fields]

@[simp] theorem dbgDataRead_maps (s : State) : maps (dbgDataRead s).st = maps s := by simp [dbgDataRead, maps_fields]

@[simp] theorem dbgPtrWrite_maps (v) (s : State) : maps (dbgPtrWrite v s) = maps s := by simp [dbgPtrWrite, maps_fields]

@[simp] theorem jtagLoad_maps (ir) (s : State) : maps (jtagLoad ir s) = maps s := by simp [jtagLoad, maps_fields]

@[simp] theorem jtagRun_maps (ir) (f : State → State) (hf : ∀ t, maps (f t) = maps t) (s : State) :
    maps (jtagRun ir f s) = maps s := by simp [jtagRun, hf]

@[simp] theorem jtagDone_maps (t : State) (dr st) : maps (jtagDone t dr st) = maps t := by simp [jtagDone, maps_fields]

@[simp] theorem gripDbg_maps (grip op) (s : State) : maps (gripDbg grip op s) = maps s := by
  simp only [gripDbg]
  repeat' split
  all_goals simp [maps_fields]

@[simp] theorem intScan_maps (n) (s : State) : maps (intScan n s) = maps s := by simp [intScan, maps_fields]

/-! ### Party channels -/

@[simp] theorem chanPut_maps (s : State) (p c) : maps (chanPut s p c) = maps s := by simp [chanPut, maps_fields]

@[simp] theorem bindStart_maps (via tag p nonce) (s : State) : maps (bindStart via tag p nonce s) = maps s := by
  simp only [bindStart]
  split <;> simp

@[simp] theorem bindConfirm_maps (p ct sig) (s : State) : maps (bindConfirm p ct sig s).st = maps s := by
  simp only [bindConfirm]
  split <;> simp

@[simp] theorem installFabric_maps (s : State) (slot gen k) : maps (installFabric s slot gen k) = maps s := by
  simp only [installFabric]
  split <;> simp [maps_fields]

@[simp] theorem query_maps (p m) (s : State) : maps (query p m s).st = maps s := by simp [query]

@[simp] theorem spaceBind_maps (p m) (s : State) : maps (spaceBind p m s).st = maps s := by simp [spaceBind, maps_fields]

@[simp] theorem partyReply_maps (a : Answer) (via tag p) : maps (partyReply a via tag p) = maps a.st := by
  simp [partyReply]

@[simp] theorem keyMessage_maps (via tag p m) (f : State → Answer) (hf : ∀ t, maps (f t).st = maps t) (s : State) :
    maps (keyMessage via tag p m f s) = maps s := by
  unfold keyMessage
  split
  · exact partyTake_maps _ _ _ (fun t => by simp [hf]) s
  · rfl

/-! ### The control port -/

@[simp] theorem setupBusy_maps (s : State) (p) : maps (setupBusy s p) = maps s := by simp [setupBusy]

@[simp] theorem hello_maps (p h nonce) (s : State) : maps (hello p h nonce s) = maps s := by simp [hello]

@[simp] theorem kemCt_maps (p h ct) (s : State) : maps (kemCt p h ct s) = maps s := by simp [kemCt, maps_fields]

@[simp] theorem portCtrl_maps (target v) (s : State) : maps (portCtrl target v s) = maps s := by simp [portCtrl]

@[simp] theorem endSession_maps (p tag target) (s : State) : maps (endSession p tag target s) = maps s := by simp [endSession]

@[simp] theorem sessionFrame_maps (p h type tagOk) (f : State → State) (hf : ∀ t, maps (f t) = maps t) (s : State) :
    maps (sessionFrame p h type tagOk f s) = maps s := by simp [sessionFrame, hf]

@[simp] theorem lockWrite_maps (p v) (s : State) : maps (lockWrite p v s) = maps s := by simp [lockWrite, maps_fields]

/-! ### Registers -/

@[simp] theorem plain_maps (s : State) (w) : maps (plain s w).1 = maps s := by simp [plain]

@[simp] theorem read00_maps (s : State) (o) : maps (read00 s o).1 = maps s := by simp [read00]

@[simp] theorem read01_maps (s : State) (o) : maps (read01 s o).1 = maps s := by simp [read01]

@[simp] theorem read02_maps (s : State) (o) : maps (read02 s o).1 = maps s := by
  simp only [read02]
  repeat' split
  all_goals simp [maps_fields]

@[simp] theorem read03_maps (s : State) (o) : maps (read03 s o).1 = maps s := by
  simp only [read03]
  split <;> simp

@[simp] theorem read04_maps (s : State) (o) : maps (read04 s o).1 = maps s := by
  simp only [read04]
  repeat' split
  all_goals simp [maps_fields]

@[simp] theorem rangeRegs_maps (s : State) (n k) : maps (rangeRegs s n k).1 = maps s := by simp [rangeRegs, maps_fields]

@[simp] theorem read06_maps (s : State) (o) : maps (read06 s o).1 = maps s := by
  simp only [read06]
  repeat' split
  all_goals simp

@[simp] theorem read07_maps (s : State) (o) : maps (read07 s o).1 = maps s := by simp [read07, maps_fields]

@[simp] theorem i3cCountsClear_maps (s : State) : maps (i3cCountsClear s) = maps s := by simp [i3cCountsClear, maps_fields]

@[simp] theorem portRegs_maps (s : State) (p o) : maps (portRegs s p o).1 = maps s := by simp [portRegs]

@[simp] theorem read08_maps (s : State) (o) : maps (read08 s o).1 = maps s := by simp [read08]

@[simp] theorem read09_maps (s : State) (o) : maps (read09 s o).1 = maps s := by
  simp only [read09]
  repeat' split
  all_goals simp [maps_fields]

@[simp] theorem read0A_maps (s : State) (o) : maps (read0A s o).1 = maps s := by simp [read0A, maps_fields]

@[simp] theorem read0B_maps (s : State) (o) : maps (read0B s o).1 = maps s := by simp [read0B, maps_fields]

@[simp] theorem slotRegs_maps (s : State) (n k) : maps (slotRegs s n k).1 = maps s := by simp [slotRegs, maps_fields]

@[simp] theorem read0C_maps (s : State) (o) : maps (read0C s o).1 = maps s := by
  simp only [read0C]
  repeat' split
  all_goals simp

@[simp] theorem read0D_maps (s : State) (o) : maps (read0D s o).1 = maps s := by
  simp only [read0D]
  repeat' split
  all_goals simp [maps_fields]

@[simp] theorem read0E_maps (s : State) (o) : maps (read0E s o).1 = maps s := by
  simp only [read0E]
  repeat' split
  all_goals simp [maps_fields]

@[simp] theorem read0F_maps (s : State) (o) : maps (read0F s o).1 = maps s := by simp [read0F, maps_fields]

@[simp] theorem bandCmdWord_maps (s : State) (e b) : maps (bandCmdWord s e b).1 = maps s := by
  simp only [bandCmdWord]
  split <;> simp

@[simp] theorem readMxe_maps (s : State) (e o) : maps (readMxe s e o).1 = maps s := by
  simp only [readMxe]
  repeat' split
  all_goals simp [maps_fields]

@[simp] theorem done_maps (s : State) : maps (done s).st = maps s := by simp [done]

@[simp] theorem write02_maps (o v) (s : State) : maps (write02 o v s).st = maps s := by simp [write02, maps_fields]

@[simp] theorem write04_maps (o v) (s : State) : maps (write04 o v s).st = maps s := by
  simp only [write04]
  repeat' split
  all_goals simp [maps_fields]

@[simp] theorem write08_maps (p o v) (s : State) : maps (write08 p o v s).st = maps s := by
  simp only [write08]
  repeat' split
  all_goals simp

@[simp] theorem write0A_maps (o v) (s : State) : maps (write0A o v s).st = maps s := by simp [write0A, maps_fields]

@[simp] theorem writeMxe_maps (e o v) (s : State) : maps (writeMxe e o v s).st = maps s := by simp [writeMxe, maps_fields]

@[simp] theorem writeEnds_maps (off v) (s : State) : maps (writeEnds off v s) = maps s := by
  simp only [writeEnds]
  split <;> simp

/-! ### What waits -/

@[simp] theorem drawFail_maps (i) (s : State) : maps (drawFail i s) = maps s := by
  simp only [drawFail]
  split <;> simp

@[simp] theorem quoteFail_maps (s : State) (r) : maps (quoteFail s r) = maps s := by
  simp only [quoteFail]
  split <;> simp [maps_fields]

end Sys2Proof.Machine
end

section
/-! SUPPORT. The operations that write sparse maps, or run one that does: each carries canonical maps to canonical maps. -/

namespace Sys2Proof.Machine

/-! ### Operations of operations -/

@[simp] theorem mgmtRun_carries (p tag) {f : State → Answer} (hf : ∀ t, Carries t (f t).st) (s : State) : Carries s (mgmtRun p tag f s) :=
  .of fun h => by simp [mgmtRun, (hf s).wf h, h]

@[simp] theorem lockTest_carries (p) {f : State → Answer} (hf : ∀ t, Carries t (f t).st) (s : State) : Carries s (lockTest p f s).st :=
  .of fun h => by
    unfold lockTest
    split
    · exact h
    · exact (hf s).wf h

@[simp] theorem mgmtTurn_carries (p row) {f : State → State} (hf : ∀ t, Carries t (f t)) (s : State) : Carries s (mgmtTurn p row f s) :=
  .of fun h => by simp [mgmtTurn, (hf s).wf h, h]

@[simp] theorem mgmtAgain_carries (p tag) {f : State → Answer} (hf : ∀ t, Carries t (f t).st) (s : State) :
    Carries s (mgmtAgain p tag f s) := mgmtRun_carries p tag (lockTest_carries p hf) s

@[simp] theorem mgmtWrite_carries (p tag row) {f : State → Answer} (hf : ∀ t, Carries t (f t).st) (s : State) :
    Carries s (mgmtWrite p tag row f s) := mgmtTurn_carries p row (mgmtAgain_carries p tag hf) s

@[simp] theorem partyTake_carries (q m) {f : State → State} (hf : ∀ t, Carries t (f t)) (s : State) : Carries s (partyTake q m f s) :=
  .of fun h => by
    simp only [partyTake]
    repeat' split
    · exact h
    · simp [h]
    · exact (hf _).wf (by simp [maps_fields, h])

@[simp] theorem jtagRun_carries (ir) {f : State → State} (hf : ∀ t, Carries t (f t)) (s : State) : Carries s (jtagRun ir f s) :=
  .of fun h => by simp [jtagRun, hf, h]

@[simp] theorem keyMessage_carries (via tag p m) {f : State → Answer} (hf : ∀ t, Carries t (f t).st) (s : State) :
    Carries s (keyMessage via tag p m f s) := .of fun h => by
  unfold keyMessage
  split
  · exact (partyTake_carries p m (fun t => .of fun ht => by simp [hf, ht]) s).wf h
  · exact h

theorem withSp_carries (s : State) (sp) : Carries s { s with sp := sp } := .of fun h => h

@[simp] theorem failNode_carries (s : State) (n f) : Carries s (failNode s n f) :=
  .of (ReadWork.canon (by unfold failNode; exact ⟨_, _, _, _, rfl⟩) (failNode_kept s n f))

@[simp] theorem fetchPath_carries (quiet) (s : State) (n a) : Carries s (fetchPath quiet s n a).1 :=
  .of ((fetchPath_work quiet s n a).canon (fetchPath_kept quiet s n a))

@[simp] theorem cacheLost_carries (s : State) (stack place) : Carries s (cacheLost s stack place) := .of fun h => by
  simp only [cacheLost]
  split <;> simp [cacheDrop, maps_fields, h]

@[simp] theorem cacheWord_carries (stack place) (s : State) (w) : Carries s (cacheWord stack place s w) := .of fun h => by
  simp only [cacheWord]
  repeat' split
  all_goals simp [cacheMod, maps_fields, h]

@[simp] theorem readUnit_carries (quiet) (s : State) (n a) : Carries s (readUnit quiet s n a).st :=
  .of ((readUnit_work quiet s n a).canon (readUnit_kept quiet s n a))

@[simp] theorem readInUnit_carries (s : State) (w n a size) : Carries s (readInUnit s w n a size).st :=
  .of ((readInUnit_work s w n a size).canon (readInUnit_kept s w n a size))

@[simp] theorem readPhys_carries (s : State) (w a size) : Carries s (readPhys s w a size).st :=
  .of ((readPhysF_work w _ a size s).canon (readPhysF_kept w _ a size s))

@[simp] theorem mergeStore_carries (s : State) (e) : Carries s (mergeStore s e) := .of fun h => by
  refine AccessWork.canon ?_ ((mergeStore_kept s e).wf h.mem) h
  unfold mergeStore
  split <;> exact ⟨_, _, _, _, _, _, _, rfl⟩

@[simp] theorem putPlain_carries (s : State) (a bs) : Carries s (putPlain s a bs) := .of fun h => by simp [putPlain, maps_fields, h]

@[simp] theorem spoilRuns_carries (s : State) (runs) : Carries s (spoilRuns s runs) :=
  foldl_carries (fun t r => .of fun ht => by dsimp only; split <;> simp [ht]) runs s

@[simp] theorem writeInUnit_carries (via) (s : State) (w n a bs) : Carries s (writeInUnit via s w n a bs).1 :=
  .of fun h => (writeInUnit_access via s w n a bs).canon (writeInUnit_wf via s w n a bs h.mem) h

@[simp] theorem writePhys_carries (s : State) (w a bs) : Carries s (writePhys s w a bs).st :=
  .of fun h => (writePhysF_access false w _ a bs s).canon (writePhys_wf s w a bs h.mem) h

@[simp] theorem mergePhys_carries (s : State) (w a bs) : Carries s (mergePhys s w a bs).st :=
  .of fun h => (writePhysF_access true w _ a bs s).canon (mergePhys_wf s w a bs h.mem) h

@[simp] theorem fillRange_carries (s : State) (n slot walk) : Carries s (fillRange s n slot walk) :=
  .of fun h => (canonical_iff_wf _).mp ⟨fillRange_wf s n slot walk h.mem, h.staging, h.tiles, h.rigBuf, h.dbgBuf⟩

@[simp] theorem refill_carries (s : State) (n) : Carries s (refill s n) := .of fun h => by
  simp only [refill]
  repeat' split
  all_goals simp [h]

@[simp] theorem readRuns_carries (w l) (s : State) : Carries s (readRuns w l s).st :=
  .of ((readRuns_work w l s).canon (readRuns_kept w l s))

@[simp] theorem writeRuns_carries (via w l bs) (s : State) : Carries s (writeRuns via w l bs s).st :=
  .of fun h => (writeRuns_access via w l bs s).canon (writeRuns_wf via w l bs s h.mem) h

@[simp] theorem readSpace_carries (s : State) (c v n) : Carries s (readSpace s c v n).st := .of fun h => by simp [readSpace, h]

@[simp] theorem putSpace_carries (via) (s : State) (c v bs) : Carries s (putSpace via s c v bs).st := .of fun h => by simp [putSpace, h]

@[simp] theorem writeSpace_carries (s : State) (c v bs) : Carries s (writeSpace s c v bs).st := .of fun h => by simp [writeSpace, h]

@[simp] theorem mergeSpace_carries (s : State) (c v bs) : Carries s (mergeSpace s c v bs).st := .of fun h => by simp [mergeSpace, h]

@[simp] theorem writeSpans_carries (c) : ∀ l (s : State), Carries s (writeSpans c l s).st
  | [], _ => .refl _
  | (v, bs) :: l, s => .of fun h => by simp [writeSpans, writeSpans_carries c l, h]

@[simp] theorem readTake_carries (s : State) (c v n) : Carries s (readTake s c v n).st := .of fun h => by simp [readTake, h]

@[simp] theorem takeSpans_carries (c) : ∀ l (s : State), Carries s (takeSpans c l s).1
  | [], _ => .refl _
  | (v, n) :: l, s => .of fun h => by simp [takeSpans, takeSpans_carries c l, h]

@[simp] theorem stgPut_carries (s : State) (x off bs) : Carries s (stgPut s x off bs) := .of fun h => by simp [stgPut, maps_fields, h]

@[simp] theorem tilePutRow_carries (s : State) (x base i ws) : Carries s (tilePutRow s x base i ws) := .of fun h => by
  simp [tilePutRow, maps_fields, h]

@[simp] theorem tilePutRows_carries (x base) : ∀ i rows (s : State), Carries s (tilePutRows x base i rows s)
  | _, [], _ => .refl _
  | i, r :: rows, s => .of fun h => by simp [tilePutRows, tilePutRows_carries x base (i + 1) rows, h]

@[simp] theorem sramFlip_carries (s : State) (e w d) : Carries s (sramFlip s e w d) := .of fun h => by simp [sramFlip, maps_fields, h]

@[simp] theorem sramMeet_carries (e) (s : State) (w) : Carries s (sramMeet e s w) := .of fun h => by simp [sramMeet, maps_fields, h]

@[simp] theorem sramCount_carries (s : State) (e x) : Carries s (sramCount s e x) :=
  foldl_carries (fun t w => sramMeet_carries e t w) x s

@[simp] theorem tileSpoil_carries (s : State) (x base m n) : Carries s (tileSpoil s x base m n) := .of fun h => by simp [tileSpoil, h]

@[simp] theorem stgSpoil_carries (s : State) (x off pitch row) : ∀ n, Carries s (stgSpoil s x off pitch row n)
  | 0 => .refl _
  | n + 1 => .of fun h => by simp [stgSpoil, stgSpoil_carries s x off pitch row n, h]

@[simp] theorem putCodeRows_carries (x f off pitch n) : ∀ m i codes (s : State), Carries s (putCodeRows x f off pitch n m i codes s)
  | 0, _, _, _ => .refl _
  | m + 1, i, codes, s => .of fun h => by simp [putCodeRows, putCodeRows_carries x f off pitch n m, h]

@[simp] theorem rushDone_carries (s : State) (cid) : Carries s (rushDone s cid) := .of fun h => by
  unfold rushDone
  dsimp only
  split
  · exact h
  · simp [refZero_foldl_tiles_wf, maps_fields, h]

@[simp] theorem mmLose_carries (s : State) (c) : Carries s (mmLose s c) := .of fun h => by simp [mmLose, h]

@[simp] theorem mmSpoil_carries (s : State) (c p) : Carries s (mmSpoil s c p) := .of fun h => by
  simp only [mmSpoil]
  split <;> simp [h]

@[simp] theorem mmStore_carries (s : State) (b r cells rows) : Carries s (mmStore s b r cells rows) := .of fun h => by simp [mmStore, h]

@[simp] theorem mmCompute_carries (s : State) (c b fa fb p overlap) : Carries s (mmCompute s c b fa fb p overlap) := .of fun h => by
  simp [mmCompute, h]

@[simp] theorem mmRun_carries (s : State) (c e p overlap) : Carries s (mmRun s c e p overlap) := .of fun h => by
  simp only [mmRun]
  split <;> simp [h]

@[simp] theorem mmPart_carries (s : State) (c b fa fb chunk row) : Carries s (mmPart s c b fa fb chunk row).1 :=
  .of fun h => by simp [mmPart, h]

@[simp] theorem imageRestore_carries (s : State) (i x withStaging) : Carries s (imageRestore s i x withStaging) := .of fun h => by
  simp [imageRestore, maps_fields, h]

@[simp] theorem saveGet_carries (slot) : ∀ pages off n (s : State), Carries s (saveGet slot pages off n s).1
  | [], _, _, _ => .refl _
  | p :: pages, off, n, s => .of fun h => by simp [saveGet, saveGet_carries slot pages, h]

@[simp] theorem imageStatus_carries (s : State) (i) : Carries s (imageStatus s i).1 := .of fun h => by simp [imageStatus, h]

@[simp] theorem bandWatchdog_carries (engine band) (s : State) : Carries s (bandWatchdog engine band s) := .of fun h => by
  simp only [bandWatchdog]
  split <;> simp [maps_fields, h]

@[simp] theorem vecWriteRow_carries (x b i r) (s : State) : Carries s (vecWriteRow x b i r s) := .of fun h => by simp [vecWriteRow, h]

@[simp] theorem vecWriteRows_carries (x b) : ∀ i rows (s : State), Carries s (vecWriteRows x b i rows s)
  | _, [], _ => .refl _
  | i, r :: rows, s => .of fun h => by simp [vecWriteRows, vecWriteRows_carries x b (i + 1) rows, h]

@[simp] theorem vecSpoil_carries (s : State) (x b) : Carries s (vecSpoil s x b) := .of fun h => by simp [vecSpoil, h]

@[simp] theorem vecGo_carries (s : State) (c b) : Carries s (vecGo s c b) := .of fun h => by simp [vecGo, h]

@[simp] theorem vecRun_carries (s : State) (c e) : Carries s (vecRun s c e) := .of fun h => by
  simp only [vecRun]
  split <;> simp [h]

@[simp] theorem quantGo_carries (s : State) (c b fo) : Carries s (quantGo s c b fo) := .of fun h => by simp [quantGo, h]

@[simp] theorem quantRun_carries (s : State) (c e) : Carries s (quantRun s c e) := .of fun h => by
  simp only [quantRun]
  split <;> simp [h]

@[simp] theorem randGo_carries (s : State) (c b key) : Carries s (randGo s c b key) := .of fun h => by simp [randGo, h]

@[simp] theorem randRun_carries (s : State) (c e) : Carries s (randRun s c e) := .of fun h => by
  simp only [randRun]
  split <;> simp [h]

@[simp] theorem redInitRun_carries (s : State) (c) : Carries s (redInitRun s c) := .of fun h => by
  simp only [redInitRun]
  repeat' split
  all_goals simp [h]

@[simp] theorem redHeader_carries (s : State) (c tgt spans) : Carries s (redHeader s c tgt spans).1 := .of fun h => by
  simp only [redHeader]
  repeat' split
  all_goals simp [h]

@[simp] theorem redSource_carries (s : State) (c b i j) : Carries s (redSource s c b i j).1.st := .of fun h => by
  unfold redSource
  split <;> simp [h]

@[simp] theorem redAddOne_carries (s : State) (c b hd p) : Carries s (redAddOne s c b hd p).1 := .of fun h => by simp [redAddOne, h]

@[simp] theorem redAddAll_carries (c b hd) : ∀ l (s : State), Carries s (redAddAll c b hd l s).1
  | [], _ => .refl _
  | p :: l, s => .of fun h => by simp [redAddAll, redAddAll_carries c b hd l, h]

@[simp] theorem redAddGo_carries (s : State) (c b hd bad) : Carries s (redAddGo s c b hd bad) := .of fun h => by simp [redAddGo, h]

@[simp] theorem redAddRun_carries (s : State) (c e) : Carries s (redAddRun s c e) := .of fun h => by
  simp only [redAddRun]
  repeat' split
  all_goals simp [h]

@[simp] theorem redReadOne_carries (s : State) (c b hd i) : Carries s (redReadOne s c b hd i).1 := .of fun h => by simp [redReadOne, h]

@[simp] theorem redReadAll_carries (c b hd) : ∀ n i t (s : State), Carries s (redReadAll c b hd n i t s).1
  | 0, _, _, _ => .refl _
  | n + 1, i, t, s => .of fun h => by simp [redReadAll, redReadAll_carries c b hd n, h]

@[simp] theorem redReadGo_carries (s : State) (c b hd) : Carries s (redReadGo s c b hd) := .of fun h => by simp [redReadGo, h]

@[simp] theorem redReadRun_carries (s : State) (c) : Carries s (redReadRun s c) := .of fun h => by
  simp only [redReadRun]
  repeat' split
  all_goals simp [h]

@[simp] theorem moveRows_carries (c take) : ∀ l (s : State), Carries s (moveRows c take l s).1
  | [], _ => .refl _
  | (src, dst, n) :: l, s => .of fun h => by
    have ih := moveRows_carries c take l
    cases take <;> simp [moveRows, ih, h]

@[simp] theorem copyRun_carries (s : State) (c) : Carries s (copyRun s c) := .of fun h => by
  simp only [copyRun, afterCheck]
  repeat' split
  all_goals simp [h]

@[simp] theorem stageInRows_carries (c x b share) : ∀ k i (s : State), Carries s (stageInRows c x b share k i s).1
  | 0, _, _ => .refl _
  | k + 1, i, s => .of fun h => by simp [stageInRows, stageInRows_carries c x b share k, h]

@[simp] theorem stageInRun_carries (s : State) (c share) : Carries s (stageInRun s c share) := .of fun h => by
  simp only [stageInRun, afterCheck]
  repeat' split
  all_goals simp [h]

@[simp] theorem stageOutRows_carries (c x b share) : ∀ k i (s : State), Carries s (stageOutRows c x b share k i s).1
  | 0, _, _ => .refl _
  | k + 1, i, s => .of fun h => by simp [stageOutRows, stageOutRows_carries c x b share k, h]

@[simp] theorem stageOutRun_carries (s : State) (c e share) : Carries s (stageOutRun s c e share) := .of fun h => by
  simp only [stageOutRun, afterCheck]
  repeat' split
  all_goals simp [h]

@[simp] theorem transposeRun_carries (s : State) (c) : Carries s (transposeRun s c) := .of fun h => by
  simp only [transposeRun, afterCheck]
  repeat' split
  all_goals simp [h]

@[simp] theorem indexRun_carries (s : State) (c gather) : Carries s (indexRun s c gather) := .of fun h => by
  simp only [indexRun, afterCheck]
  repeat' split
  all_goals simp [h]

@[simp] theorem auxRead_carries (c w aux rows cols) (s : State) : Carries s (auxRead c w aux rows cols s).1 := .of fun h => by
  simp only [auxRead]
  split <;> simp [h]

@[simp] theorem repackRows_carries (c b fs fd a d) : ∀ k done t (s : State), Carries s (repackRows c b fs fd a d k done t s).1
  | 0, _, _, _ => .refl _
  | k + 1, done, t, s => .of fun h => by simp [repackRows, repackRows_carries c b fs fd a d k, h]

@[simp] theorem repackGo_carries (s : State) (c b fs fd) : Carries s (repackGo s c b fs fd) := .of fun h => by simp [repackGo, h]

@[simp] theorem repackRun_carries (s : State) (c) : Carries s (repackRun s c) := .of fun h => by
  simp only [repackRun, afterCheck]
  repeat' split
  all_goals simp [h]

@[simp] theorem releaseRun_carries (s : State) (c) : Carries s (releaseRun s c) := .of fun h => by
  simp only [releaseRun]
  repeat' split
  all_goals simp [h]

@[simp] theorem mergeRetire_carries (s : State) (stack key) : Carries s (mergeRetire s stack key) := .of fun h => by
  simp only [mergeRetire]
  split <;> simp [h]

@[simp] theorem scrubKeyless_carries (s : State) (n a) : Carries s (scrubKeyless s n a).st := .of fun h => by
  have hr := (canonical_iff_wf { s with mem := (readLines true (unitBytes (rangeCfg s n) / 64) (a / 64) s.mem).1 }).mp
    ⟨(readLines_kept _ _ _ _).wf h.mem, h.staging, h.tiles, h.rigBuf, h.dbgBuf⟩
  simp only [scrubKeyless]
  repeat' split
  all_goals simp only [fetchPath_carries, hr, or_true]

@[simp] theorem scrubUnit_carries (w n a v r) : Carries r.1 (scrubUnit w n a v r).1 := .of fun h => by simp [scrubUnit, h]

@[simp] theorem scrubAll_carries (w us r) : Carries r.1 (scrubAll w us r).1 :=
  foldl_fst_carries (fun p _ => scrubUnit_carries w _ _ _ p) us r

@[simp] theorem scrubPart_carries (s : State) (c part) : Carries s (scrubPart s c part) := .of fun h => by simp [scrubPart, maps_fields, h]

@[simp] theorem scrubRun_carries (s : State) (c part) : Carries s (scrubRun s c part) := .of fun h => by
  simp only [scrubRun]
  split <;> simp [h]

@[simp] theorem scrubGo_carries (units) (s : State) : Carries s (scrubGo units s) := .of fun h => by simp [scrubGo, maps_fields, h]

@[simp] theorem spanSpoil_carries (s : State) (slot spans) : Carries s (spanSpoil s slot spans) := .of fun h => by simp [spanSpoil, h]

@[simp] theorem granUpdate_carries (s : State) (c b d k pos j r) : Carries s (granUpdate s c b d k pos j r).1 := .of fun h => by
  simp [granUpdate, h]

@[simp] theorem granRun_carries (c b d k) : ∀ pos l r (s : State), Carries s (granRun c b d k pos l r s).1
  | _, [], _, _ => .refl _
  | pos, j :: l, r, s => .of fun h => by simp [granRun, granRun_carries c b d k (pos + 1) l, h]

@[simp] theorem updFinish_carries (s : State) (c b r) : Carries s (updFinish s c b r) := .of fun h => by simp [updFinish, maps_fields, h]

@[simp] theorem updGo_carries (s : State) (c b d js cell e cut) : Carries s (updGo s c b d js cell e cut) := .of fun h => by
  simp only [updGo]
  repeat' split
  all_goals simp [h]

@[simp] theorem checkRead_carries (s : State) (c v n) : Carries s (checkRead s c v n).st := .of fun h => by
  simp only [checkRead]
  split <;> simp [h]

@[simp] theorem updRest_carries (s : State) (c b d js cell e cut) : Carries s (updRest s c b d js cell e cut) := .of fun h => by
  simp only [updRest]
  repeat' split
  all_goals simp [h]

@[simp] theorem updNorm_carries (s : State) (c b d js e cut) : Carries s (updNorm s c b d js e cut) := .of fun h => by simp [updNorm, h]

@[simp] theorem updRun_carries (s : State) (c e cut) : Carries s (updRun s c e cut) := .of fun h => by simp [updRun, h]

@[simp] theorem normAccRun_carries (s : State) (c) : Carries s (normAccRun s c) := .of fun h => by
  simp only [normAccRun, afterCheck]
  repeat' split
  all_goals simp [h]

@[simp] theorem groupRead_carries (s : State) (c v) : Carries s (groupRead s c v).st := .of fun h => by
  simp only [groupRead]
  repeat' split
  all_goals simp [h]

@[simp] theorem colCheckRest_carries (s : State) (c b g) : Carries s (colCheckRest s c b g).1 := .of fun h => by
  unfold colCheckRest
  extract_lets bad fail k kb u n cell
  have hk : (maps k.st).Wf := by simp [k, h]
  have hu : (maps u.st).Wf := by simp [u, hk]
  have hn : (maps n.st).Wf := by simp [n, hu]
  repeat' split
  all_goals simp [bad, fail, hk, hu, hn]

@[simp] theorem colCheck_carries (s : State) (c) : Carries s (colCheck s c).st := .of fun h => by
  simp only [colCheck]
  repeat' split
  all_goals simp [h]

@[simp] theorem colPut_carries (s : State) (c v bs) : Carries s (colPut s c v bs).1 := .of fun h => by
  simp only [colPut]
  split <;> simp [h]

@[simp] theorem groupPut_carries (s : State) (c group seq) : Carries s (groupPut s c group seq).1 := .of fun h => by simp [groupPut, h]

@[simp] theorem groupNext_carries (s : State) (c group seq) : Carries s (groupNext s c group seq) := .of fun h => by simp [groupNext, h]

@[simp] theorem spoilSpace_carries (s : State) (space v n) : Carries s (spoilSpace s space v n) := .of fun h => by simp [spoilSpace, h]

@[simp] theorem colSpoil_carries (s : State) (x) : Carries s (colSpoil s x) := .of fun h => by simp [colSpoil, h]

@[simp] theorem colFail_carries (s : State) (x r tell) : Carries s (colFail s x r tell) := .of fun h => by
  simp only [colFail]
  split <;> simp [maps_fields, h]

@[simp] theorem colNext_carries (s : State) (x r f) : Carries s (colNext s x r f) := .of fun h => by
  simp only [colNext]
  split <;> simp [h]

theorem landSend_carries (s : State) (x peer idx bs) : ∀ t ∈ landSend s x peer idx bs, Carries s t := fun t ht => .of fun h => by
  unfold landSend at ht
  dsimp only at ht
  repeat' split at ht
  all_goals cases ht
  all_goals simp [h]

theorem landTake_carries (s : State) (x c n f) : ∀ t ∈ landTake s x c n f, Carries s t := fun t ht => .of fun h => by
  unfold landTake at ht
  dsimp only at ht
  repeat' split at ht
  all_goals cases ht
  all_goals simp [h]

theorem finalSend_carries (s : State) (x peer lo bs) : ∀ t ∈ finalSend s x peer lo bs, Carries s t := fun t ht => .of fun h => by
  unfold finalSend at ht
  split at ht <;> cases ht
  simp [h]

theorem colStep_carries (s : State) (x c op) : ∀ t ∈ colStep s x c op, Carries s t := fun t ht => .of fun h => by
  unfold colStep at ht
  cases op with
  | send | sendBlocks | sendSeg => exact (landSend_carries _ _ _ _ _ _ ht).wf h
  | add | addBlocks | takeSeg => exact (landTake_carries _ _ _ _ _ _ ht).wf h
  | readSeg | readOut => simp [← Option.some.inj ht, h]
  | sendOut =>
    dsimp only at ht
    split at ht
    · exact (finalSend_carries _ _ _ _ _ t ht).wf (by simp [h])
    · cases ht
  | sendFinal =>
    dsimp only at ht
    split at ht
    · split at ht
      · simp [← Option.some.inj ht, h]
      · exact (finalSend_carries _ _ _ _ _ t ht).wf (by simp [h])
    · cases ht
  | take =>
    dsimp only at ht
    split at ht
    · simp [← Option.some.inj ht, h]
    · cases ht

@[simp] theorem colPuts_carries (c) : ∀ l (s : State), Carries s (colPuts c l s).1
  | [], s => .refl s
  | (v, bs) :: l, s => .of fun h => by
    have ih := colPuts_carries c l
    unfold colPuts
    dsimp only
    split
    · exact (ih s).wf h
    · split <;> simp [ih, h]

@[simp] theorem colWrites_carries (s : State) (x c) : Carries s (colWrites s x c).1 := .of fun h => by
  simp only [colWrites]
  repeat' split
  all_goals simp [h]

@[simp] theorem colFinish_carries (s : State) (x c) : Carries s (colFinish s x c) := .of fun h => by
  simp only [colFinish]
  repeat' split
  all_goals simp [maps_fields, h]

@[simp] theorem colRun_carries (cid) : ∀ fuel (s : State), Carries s (colRun cid fuel s)
  | 0, s => .refl s
  | fuel + 1, s => .of fun h => by
    have ih := colRun_carries cid fuel
    unfold colRun
    repeat' split
    · exact h
    · exact h
    · simp [h]
    · exact h
    · next hstep => exact (ih _).wf ((colStep_carries _ _ _ _ _ hstep).wf h)
    · exact h

@[simp] theorem colGo_carries (s : State) (cid) : Carries s (colGo s cid) := .of fun h => by
  simp only [colGo]
  split <;> simp [h]

@[simp] theorem putResid_carries (x c rs) (s : State) : Carries s (putResid x c rs s).1 := .of fun h => by simp [putResid, h]

@[simp] theorem colLoad_carries (s : State) (x c) : Carries s (colLoad s x c) := .of fun h => by
  simp only [colLoad]
  repeat' split
  all_goals simp [maps_fields, h]

@[simp] theorem colStart_carries (s : State) (x0 c) : Carries s (colStart s x0 c) := .of fun h => by simp [colStart, maps_fields, h]

@[simp] theorem colSkip_carries (s : State) (c) : Carries s (colSkip s c) := .of fun h => by simp [colSkip, h]

@[simp] theorem colBegin_carries (s : State) (c) : Carries s (colBegin s c) := .of fun h => by
  simp only [colBegin]
  split <;> simp [maps_fields, h]

@[simp] theorem joinReceive_carries (s : State) (src j) : Carries s (joinReceive s src j) := .of fun h => by
  simp only [joinReceive]
  split <;> simp [maps_fields, h]

@[simp] theorem creditReceive_carries (s : State) (src digest seq) : Carries s (creditReceive s src digest seq) := .of fun h => by
  simp only [creditReceive]
  split <;> simp [h]

@[simp] theorem abortReceive_carries (s : State) (src digest seq) : Carries s (abortReceive s src digest seq) := .of fun h => by
  simp only [abortReceive]
  split <;> simp [maps_fields, h]

@[simp] theorem colTimeout_carries (s : State) (cid) : Carries s (colTimeout s cid) := .of fun h => by
  simp only [colTimeout]
  split <;> simp [maps_fields, h]

@[simp] theorem colData_carries (s : State) (src range off n owners) : Carries s (colData s src range off n owners) := .of fun h => by
  simp only [colData]
  repeat' split
  all_goals simp [maps_fields, h]

@[simp] theorem colTxnEnd_carries (s : State) (cid st) : Carries s (colTxnEnd s cid st) := .of fun h => by
  simp only [colTxnEnd]
  split <;> simp [h]

@[simp] theorem colSweep_carries (s : State) : Carries s (colSweep s) :=
  foldl_carries (fun t x => .of fun ht => by
    split
    · split <;> simp [ht]
    · simp [ht]) _ s

@[simp] theorem watchdogCmds_carries (s : State) (f) : Carries s (watchdogCmds s f) :=
  foldl_carries (fun t c => .of fun ht => by split <;> simp [ht]) _ s

@[simp] theorem holdStore_carries (s : State) (place key bs) : Carries s (holdStore s place key bs).1 := .of fun h => by simp [holdStore, h]

@[simp] theorem holdLoad_carries (s : State) (place) : Carries s (holdLoad s place).1 := .of fun h => by simp [holdLoad, h]

@[simp] theorem ownReinit_carries (s : State) (n) : Carries s (ownReinit s n) := .of fun h => by simp [ownReinit, h]

@[simp] theorem holdFails_carries (tell) (s : State) : Carries s (holdFails tell s) := .of fun h => by simp [holdFails, h]

@[simp] theorem putLines_carries (s : State) (ls) : Carries s (putLines s ls).1 :=
  foldl_fst_carries (fun t l => .of fun ht => by simp [ht]) _ (s, [])

@[simp] theorem loadLines_carries (s : State) (m) : Carries s (loadLines s m).1 :=
  foldl_fst_carries (fun t l => .of fun ht => by simp [ht]) _ (s, some [])

@[simp] theorem mirrorFails_carries (s : State) (fs) : Carries s (mirrorFails s fs) := .of fun h => by
  unfold mirrorFails
  split
  · exact h
  · exact (foldl_carries (fun t n => .of fun ht => by simp [ht]) _ _).wf (by simp [h])

@[simp] theorem twinRecover_carries (s : State) : Carries s (twinRecover s) := .of fun h => by
  unfold twinRecover
  dsimp only
  split
  · split
    · exact h
    · exact (foldl_carries (fun t n => .of fun ht => by split <;> simp [ht]) _ _).wf (by split <;> simp [h])
  · exact h

@[simp] theorem applyReady_carries (s : State) : Carries s (applyReady s) := .of fun h => by
  simp only [applyReady]
  split <;> simp [h]

@[simp] theorem holdLine_carries (s : State) (key bs) : Carries s (holdLine s key bs).1 := .of fun h => by simp [holdLine, h]

@[simp] theorem holdLinesGo_carries : ∀ l (s : State), Carries s (holdLinesGo l s).1
  | [], _ => .refl _
  | e :: l, s => .of fun h => by simp [holdLinesGo, holdLinesGo_carries l, h]

@[simp] theorem mirrorReceive_carries (s : State) (range off bs) : Carries s (mirrorReceive s range off bs).1 := .of fun h => by
  simp [mirrorReceive, h]

@[simp] theorem lineValue_carries (s : State) (key) : Carries s (lineValue s key).1 := .of fun h => by
  simp only [lineValue]
  split <;> simp [h]

@[simp] theorem commitSealed_carries (s : State) (gen) : Carries s (commitSealed s gen) := .of fun h => by simp [commitSealed, h]

@[simp] theorem framePlain_carries (s : State) (key) : Carries s (framePlain s key).1 :=
  foldl_fst_carries (fun t l => .of fun ht => by simp [ht]) _ (s, some [])

@[simp] theorem gmacsGo_carries (n) : ∀ left off (s : State), Carries s (gmacsGo n left off s).1
  | 0, _, _ => .refl _
  | left + 1, off, s => .of fun h => by simp [gmacsGo, gmacsGo_carries n left, h]

@[simp] theorem ownDigest_carries (s : State) (n) : Carries s (ownDigest s n).1 := .of fun h => by simp [ownDigest, h]

@[simp] theorem ownDigests_carries (s : State) : Carries s (ownDigests s).1 :=
  foldl_fst_carries (fun t l => .of fun ht => by simp [ht]) _ (s, [])

@[simp] theorem commitReceive_carries (s : State) (gen check) : Carries s (commitReceive s gen check) :=
  .of fun h => by simp [commitReceive, h]

@[simp] theorem printEnd_carries (s : State) (state) : Carries s (printEnd s state) := .of fun h => by simp [printEnd, h]

@[simp] theorem printDrop_carries (s : State) : Carries s (printDrop s) := .of fun h => by simp [printDrop, maps_fields, h]

@[simp] theorem cutEnd_carries (s : State) (k st) : Carries s (cutEnd s k st) := .of fun h => by
  simp only [cutEnd]
  split <;> simp [h]

@[simp] theorem cutAbort_carries (s : State) (k st) : Carries s (cutAbort s k st) := .of fun h => by simp [cutAbort, h]

@[simp] theorem cutDecide_carries (s : State) : Carries s (cutDecide s) := .of fun h => by
  simp only [cutDecide]
  split <;> simp [h]

@[simp] theorem cutVerdict_carries (s : State) (k) : Carries s (cutVerdict s k) := .of fun h => by simp [cutVerdict, h]

@[simp] theorem cutAdvance_carries (s : State) : Carries s (cutAdvance s) := .of fun h => by
  simp only [cutAdvance]
  split <;> simp [h]

@[simp] theorem cutCheck_carries (s : State) (c) : Carries s (cutCheck s c).1 := .of fun h => by simp [cutCheck, h]

@[simp] theorem cutBegin_carries (s : State) (c) : Carries s (cutBegin s c) := .of fun h => by
  simp only [cutBegin]
  split <;> simp [maps_fields, h]

@[simp] theorem cutRelease_carries (s : State) : Carries s (cutRelease s) := .of fun h => by
  simp only [cutRelease]
  split <;> simp [h]

@[simp] theorem sealedReceive_carries (s : State) (gen isSealed) : Carries s (sealedReceive s gen isSealed) := .of fun h => by
  simp only [sealedReceive]
  split <;> simp [h]

@[simp] theorem verdictReceive_carries (s : State) (member gen ready) : Carries s (verdictReceive s member gen ready) := .of fun h => by
  simp only [verdictReceive]
  repeat' split
  all_goals simp [h]

@[simp] theorem commitAck_carries (s : State) (gen ds) : Carries s (commitAck s gen ds) := .of fun h => by
  simp only [commitAck]
  split <;> simp [h]

@[simp] theorem cutTimeout_carries (s : State) (cid) : Carries s (cutTimeout s cid) := .of fun h => by
  simp only [cutTimeout]
  split <;> simp [h]

@[simp] theorem cutTwinLost_carries (s : State) : Carries s (cutTwinLost s) := .of fun h => by
  simp only [cutTwinLost]
  split <;> simp [h]

@[simp] theorem cutSweep_carries (s : State) : Carries s (cutSweep s) := .of fun h => by
  simp only [cutSweep]
  repeat' split
  all_goals simp [h]

@[simp] theorem primaryAlone_carries (s : State) : Carries s (primaryAlone s) := .of fun h => by simp [primaryAlone, h]

@[simp] theorem probeAnswer_carries (s : State) (src) : Carries s (probeAnswer s src) := .of fun h => by simp [probeAnswer, h]

@[simp] theorem depart_carries (s : State) : Carries s (depart s) := .of fun h => by simp [depart, h]

@[simp] theorem detach_carries (s : State) : Carries s (detach s).st := .of fun h => by simp [detach, h]

@[simp] theorem rewindSend_carries (s : State) (key) : Carries s (rewindSend s key) := .of fun h => by simp [rewindSend, h]

@[simp] theorem rewindDone_carries (s : State) (ls) : Carries s (rewindDone s ls) := .of fun h => by
  have hsend := (foldl_carries rewindSend_carries (rewindKeys s ls) s).wf h
  simp [rewindDone, hsend, h]

@[simp] theorem mirrorSend_carries (s : State) : Carries s (mirrorSend s) := .of fun h => by
  simp only [mirrorSend]
  repeat' split
  all_goals simp [h]

@[simp] theorem resilverSend_carries (s : State) : Carries s (resilverSend s) := .of fun h => by
  simp only [resilverSend]
  repeat' split
  all_goals simp [h]

@[simp] theorem streamSend_carries : ∀ n (s : State), Carries s (streamSend n s)
  | 0, _ => .refl _
  | n + 1, s => .of fun h => by simp [streamSend, streamSend_carries n, h]

@[simp] theorem mirrorStream_carries (s : State) (n) : Carries s (mirrorStream s n) := .of fun h => by simp [mirrorStream, h]

@[simp] theorem resilverReceive_carries (s : State) (src link range off bs) : Carries s (resilverReceive s src link range off bs) :=
  .of fun h => by simp [resilverReceive, h]

@[simp] theorem streamTxnEnd_carries (s : State) (addr lines isMirror st) : Carries s (streamTxnEnd s addr lines isMirror st) :=
  .of fun h => by simp [streamTxnEnd, h]

@[simp] theorem settleOne_carries (s : State) (o st) : Carries s (settleOne s o st) := .of fun h => by
  simp only [settleOne]
  split <;> simp [h]

@[simp] theorem settleF_carries : ∀ fuel (s : State), Carries s (settleF fuel s)
  | 0, _ => .refl _
  | fuel + 1, s => .of fun h => by
    have ih := settleF_carries fuel
    unfold settleF
    split <;> simp [ih, maps_fields, h]

@[simp] theorem settle_carries (s : State) : Carries s (settle s) := .of fun h => by simp [settle, h]

@[simp] theorem sweep_carries (s : State) : Carries s (sweep s) := .of fun h => by simp [sweep, h]

@[simp] theorem zeroPages_carries (w) : ∀ l (s : State), Carries s (zeroPages w l s).st
  | [], s => .refl s
  | p :: l, s => .of fun h => by
    rw [zeroPages]
    split
    · exact (zeroPages_carries w l _).wf ((writePhys_carries s w _ _).wf h)
    · exact (writePhys_carries s w _ _).wf h

@[simp] theorem spaceCreateDone_carries (slot) (s : State) : Carries s (spaceCreateDone slot s) := .of fun h => by
  unfold spaceCreateDone
  dsimp only
  split
  · have hz := fun l => (zeroPages_carries { space := slot } l s).wf h
    split
    · exact (withSp_carries _ _).wf (hz _)
    · exact (spcStatus_maps _ _ _).symm ▸ ((withSp_carries _ _).wf (hz _))
  · exact h

@[simp] theorem objAlloc_carries (slot range size addr owner zero) (s : State) :
    Carries s (objAlloc slot range size addr owner zero s).st := .of fun h => by
  simp only [objAlloc]
  repeat' split
  all_goals simp [maps_fields, h]

@[simp] theorem ringRead_carries (s : State) (q i lo n) : Carries s (ringRead s q i lo n).st := .of fun h => by simp [ringRead, h]

@[simp] theorem acceptOne_carries (s : State) (q i) : Carries s (acceptOne s q i) := .of fun h => by
  simp only [acceptOne]
  repeat' split
  all_goals simp [maps_fields, h]

@[simp] theorem acceptRun_carries : ∀ n q i (s : State), Carries s (acceptRun n q i s)
  | 0, _, _, _ => .refl _
  | n + 1, q, i, s => .of fun h => by simp [acceptRun, acceptRun_carries n, h]

@[simp] theorem evalWait_carries (s : State) (cid) : Carries s (evalWait s cid) := .of fun h => by
  simp only [evalWait]
  repeat' split
  all_goals simp [maps_fields, h]

@[simp] theorem evalWaits_carries (s : State) : Carries s (evalWaits s) := foldl_carries evalWait_carries _ s

@[simp] theorem doorbell_carries (slot h j) (s : State) : Carries s (doorbell slot h j s).st := .of fun h => by
  simp only [doorbell]
  split <;> simp [maps_fields, h]

@[simp] theorem putRecord_carries (s : State) (c rec) : Carries s (putRecord s c rec) := .of fun h => by
  simp only [putRecord]
  split <;> simp [maps_fields, h]

@[simp] theorem completeCmd_carries (s : State) (c r busy energyUj) : Carries s (completeCmd s c r busy energyUj) := .of fun h => by
  simp only [completeCmd]
  repeat' split
  all_goals simp [maps_fields, h]

@[simp] theorem commandComplete_carries (cid busy energyUj) (s : State) : Carries s (commandComplete cid busy energyUj s) := .of fun h => by
  simp only [commandComplete]
  repeat' split
  all_goals simp [h]

@[simp] theorem dropImage_carries (s : State) (c) : Carries s (dropImage s c) := .of fun h => by
  simp only [dropImage]
  split <;> simp [maps_fields, h]

@[simp] theorem dropWork_carries (s : State) (f) : Carries s (dropWork s f) := .of fun h => by
  have hdrop := (foldl_carries dropImage_carries (s.sp.cmds.filter f) s).wf h
  simp [dropWork, maps_fields, hdrop]

@[simp] theorem abortRun_carries (s : State) (c) : Carries s (abortRun s c) := .of fun h => by simp [abortRun, h]

@[simp] theorem abortIdle_carries (s : State) (c) : Carries s (abortIdle s c) := .of fun h => by
  simp only [abortIdle]
  split <;> simp [h]

@[simp] theorem abortCmds_carries (s : State) (f) : Carries s (abortCmds s f) := .of fun h => by
  unfold abortCmds
  extract_lets s0 s1 idle t _ s2
  have h0 : (maps s0).Wf := (foldl_carries abortRun_carries _ s).wf h
  have h1 : (maps s1).Wf := by simp [s1, h0]
  have ht : (maps t).Wf := (foldl_carries colSkip_carries idle s1).wf h1
  clear_value t
  have h2 : (maps s2).Wf := by simp [s2, maps_fields, ht]
  exact (foldl_carries abortIdle_carries _ s2).wf h2

@[simp] theorem ctxDestroy_carries (slot id) (s : State) : Carries s (ctxDestroy slot id s).st := .of fun h => by
  simp only [ctxDestroy]
  split <;> simp [maps_fields, h]

@[simp] theorem qDestroy_carries (slot h) (s : State) : Carries s (qDestroy slot h s).st := .of fun h => by
  simp only [qDestroy]
  split <;> simp [maps_fields, h]

@[simp] theorem fenceSignalReq_carries (slot h v) (s : State) : Carries s (fenceSignalReq slot h v s).st := .of fun h => by
  simp only [fenceSignalReq]
  split <;> simp [h]

@[simp] theorem fenceFailReq_carries (slot h) (s : State) : Carries s (fenceFailReq slot h s).st := .of fun h => by
  simp only [fenceFailReq]
  split <;> simp [h]

@[simp] theorem spaceDo_carries (slot r) (s : State) : Carries s (spaceDo slot r s).st := .of fun h => by
  simp only [spaceDo]
  repeat' split
  all_goals simp [h]

@[simp] theorem requestDo_carries (ch r) (s : State) : Carries s (requestDo ch r s) := .of fun h => by simp [requestDo, h]

@[simp] theorem requestTaken_carries (ch r) (s : State) : Carries s (requestTaken ch r s) := .of fun h => by
  simp only [requestTaken]
  repeat' split
  all_goals simp [maps_fields, h]

@[simp] theorem spaceRequest_carries (ch r) (s : State) : Carries s (spaceRequest ch r s) := .of fun h => by
  have htaken := requestTaken_carries ch r
  unfold spaceRequest
  repeat' split
  · exact h
  · simp [h]
  · exact (htaken s).wf h
  · exact (partyTake_carries _ _ htaken s).wf h
  all_goals simp [h]

@[simp] theorem spaceDestroy_carries (slot) (s : State) : Carries s (spaceDestroy slot s).st := .of fun h => by
  simp [spaceDestroy, maps_fields, h]

@[simp] theorem walkDead_carries (s : State) (n a) : Carries s (walkDead s n a) := .of fun h => by
  have hm := deadLines_wf (unitBytes (rangeCfg s n) / 64) (a / 64) h.mem
  exact (canonical_iff_wf (walkDead s n a)).mp ⟨hm, h.staging, h.tiles, h.rigBuf, h.dbgBuf⟩

@[simp] theorem walkRead_carries (s : State) (n a) : Carries s (walkRead s n a).st := .of fun h => by simp [walkRead, h]

@[simp] theorem walkUnit_carries (n a) (s : State) : Carries s (walkUnit n a s) := .of fun h => by
  have hhold : ∀ t, Carries t (mergeHold 512 t (stackOf a) (a / 64) (unitBytes (rangeCfg s n) / 64)) := fun t =>
    .of fun ht => AccessWork.canon (mergeHold_access _ t _ _ _) ((mergeHold_kept _ t _ _ _).wf ht.mem) ht
  unfold walkUnit
  dsimp only
  repeat' split
  all_goals simp [hhold, h]

@[simp] theorem walkEnd_carries (n) (s : State) : Carries s (walkEnd n s) := .of fun h => by
  have hw := (foldl_carries mergeStore_carries (s.mem.merge.filter fun e => rangeAny s (64 * e.key) == some n) s).wf h
  simp [maps_fields, walkEnd, hw]

@[simp] theorem walkStack_carries (n stack units) (s : State) : Carries s (walkStack n stack units s) := .of fun h => by
  unfold walkStack
  extract_lets pos k t
  have ht : (maps t).Wf := (foldl_carries (fun t a => walkUnit_carries n a t) _ s).wf h
  simpa [maps_fields] using ht

@[simp] theorem walkGo_carries (n units) (s : State) : Carries s (walkGo n units s) := .of fun h => by
  unfold walkGo
  extract_lets t done t1
  have ht : (maps t).Wf := (foldl_carries (fun t st => walkStack_carries n st _ t) _ s).wf h
  have ht1 : (maps t1).Wf := by simpa [maps_fields, t1] using ht
  simp [ht1, h]

@[simp] theorem reinit_carries (n) (s : State) : Carries s (reinit n s).st := .of fun h => by
  simp only [reinit]
  repeat' split
  all_goals simp [h]

@[simp] theorem debugRead_carries (s : State) (a) : Carries s (debugRead s a).st := .of fun h => by
  simp only [debugRead]
  repeat' split
  all_goals simp [h]

@[simp] theorem debugWrite_carries (s : State) (a v) : Carries s (debugWrite s a v).st := .of fun h => by
  simp only [debugWrite]
  repeat' split
  all_goals simp [h]

@[simp] theorem winRead_carries (s : State) : Carries s (winRead s).st := .of fun h => by simp [winRead, h]

@[simp] theorem winWrite_carries (v) (s : State) : Carries s (winWrite v s).st := .of fun h => by simp [winWrite, h]

@[simp] theorem winReadTurn_carries (p tag) (s : State) : Carries s (winReadTurn p tag s) := .of fun h => by
  unfold winReadTurn
  split
  · simp [h]
  · exact (mgmtRun_carries p tag winRead_carries s).wf h

@[simp] theorem winWriteTurn_carries (p tag v) (s : State) : Carries s (winWriteTurn p tag v s) := .of fun h => by
  unfold winWriteTurn
  split
  · simp [h]
  · exact (mgmtAgain_carries p tag (winWrite_carries v) s).wf h

@[simp] theorem printChunk_carries (s : State) : Carries s (printChunk s) := .of fun h => by
  simp only [printChunk]
  repeat' split
  all_goals simp [h]

@[simp] theorem printAbandon_carries (s : State) : Carries s (printAbandon s).st := .of fun h => by simp [printAbandon, h]

@[simp] theorem restoreChunk_carries (c) (s : State) : Carries s (restoreChunk c s).st := .of fun h => by
  simp only [restoreChunk]
  repeat' split
  all_goals simp [h]

@[simp] theorem restoreTurn_carries (p tag c) (s : State) : Carries s (restoreTurn p tag c s) := .of fun h => by
  unfold restoreTurn
  split
  · simp [h]
  · exact (mgmtAgain_carries p tag (restoreChunk_carries c) s).wf h

@[simp] theorem addRun_carries (s : State) (p h a) : Carries s (addRun s p h a).1 := .of fun h => by simp [addRun, h]

@[simp] theorem requestRun_carries (s : State) (p a h) : Carries s (requestRun s p a h).st := .of fun h => by
  simp only [requestRun]
  repeat' split
  all_goals simp [h]

@[simp] theorem requestServe_carries (s : State) (link p) : Carries s (requestServe s link p).st := .of fun h => by
  simp only [requestServe]
  repeat' split
  all_goals simp [h]

@[simp] theorem requestAnswer_carries (s : State) (link p) : Carries s (requestAnswer s link p) := .of fun h => by simp [requestAnswer, h]

@[simp] theorem requestCheck_carries (s : State) (link p tagOk buf) : Carries s (requestCheck s link p tagOk buf) := .of fun h => by
  simp [requestCheck, h]

@[simp] theorem requestsGo_carries (s : State) : Carries s (requestsGo s) := .of fun h => by
  unfold requestsGo
  exact (foldl_carries (fun t i => .of fun ht => by split <;> simp [ht]) _ _).wf (by simpa [maps_fields] using h)

@[simp] theorem requestReceive_carries (s : State) (link p tagOk buf) : Carries s (requestReceive s link p tagOk buf) := .of fun h => by
  simp [requestReceive, h]

@[simp] theorem responseCheck_carries (s : State) (p tagOk buf) : Carries s (responseCheck s p tagOk buf) := .of fun h => by
  simp only [responseCheck]
  repeat' split
  all_goals simp [h]

@[simp] theorem responseReceive_carries (s : State) (link p tagOk buf) : Carries s (responseReceive s link p tagOk buf) := .of fun h => by
  simp [responseReceive, h]

@[simp] theorem linkCtrl_carries (n v) (s : State) : Carries s (linkCtrl n v s).st := .of fun h => by simp [linkCtrl, h]

@[simp] theorem rigMod_carries (s : State) (f) (hf : ∀ r, (f r).buf = r.buf) : Carries s (rigMod s f) := .of fun h => by
  simp [rigMod, hf, maps_fields, h]

@[simp] theorem rigAnswer_carries (s : State) (st) : Carries s (rigAnswer s st).st := .of fun h => by simp [rigAnswer, h]

@[simp] theorem rigBufWrite_carries {f} (hf : ∀ r : RigBlock, smWf 0#8 r.buf = true → smWf 0#8 (f r).buf = true) (s : State) :
    Carries s (rigBufWrite f s).st := .of fun h => by
  unfold rigBufWrite
  split
  · simp [h]
  · have hbuf := hf s.rig h.rigBuf
    simp [rigMod, maps_fields, h, hbuf]

@[simp] theorem rigVerify_carries (s : State) : Carries s (rigVerify s).st := .of fun h => by simp [rigVerify, h]

@[simp] theorem rigVerified_carries (s : State) : Carries s (rigVerified s) := .of fun h => by
  simp only [rigVerified]
  repeat' split
  all_goals simp [h]

@[simp] theorem rigDiscard_carries (s : State) : Carries s (rigDiscard s).st := .of fun h => by
  unfold rigDiscard
  split
  · simp [h]
  · simp [rigAnswer, rigMod, maps_fields, h]

@[simp] theorem refillNew_carries (s : State) (n) : Carries s (refillNew s n) := .of fun h => by
  simp only [refillNew]
  repeat' split
  all_goals simp [h]

theorem savePut_carries (slot) : ∀ pages off bs (s : State), ∀ t ∈ savePut slot pages off bs s, Carries s t
  | [], _, _, s, t, ht => .of fun h => by simp_all [savePut]
  | p :: pages, off, bs, s, t, ht => .of fun h => by
    unfold savePut at ht
    dsimp only at ht
    split at ht
    · exact (savePut_carries slot pages _ _ s t ht).wf h
    · split at ht
      · exact (savePut_carries slot pages _ _ _ t ht).wf (by simp [h])
      · cases ht

theorem saveImage_carries (s : State) (i bytes) : ∀ t ∈ saveImage s i bytes, Carries s t := fun t ht => .of fun h => by
  unfold saveImage at ht
  split at ht
  · cases ht
  · obtain ⟨u, hu, rfl⟩ := Option.map_eq_some_iff.1 ht
    simpa [maps_fields] using (savePut_carries _ _ _ _ _ u hu).wf h

@[simp] theorem bandZero_carries (s : State) (x) : Carries s (bandZero s x) := .of fun h => by simp [bandZero, maps_fields, h]

@[simp] theorem mmCut_carries (s : State) (c) : Carries s (mmCut s c).1 := .of fun h => by
  simp only [mmCut]
  split <;> simp [h]

@[simp] theorem preempt_carries (s : State) (c) : Carries s (preempt s c) := .of fun h => by
  unfold preempt
  dsimp only
  split
  · exact h
  · next u hu =>
    have hw := (saveImage_carries _ _ _ u hu).wf (by simp [h])
    simp [maps_fields, hw]

theorem bandSave_carries (s : State) (x) : ∀ t ∈ bandSave s x, Carries s t := fun t ht => .of fun h => by
  unfold bandSave at ht
  dsimp only at ht
  split at ht
  · simp [← Option.some.inj ht, h]
  · obtain ⟨u, hu, rfl⟩ := Option.map_eq_some_iff.1 ht
    have hw := (saveImage_carries _ _ _ u hu).wf h
    simp [hw]

@[simp] theorem imageLost_carries (s : State) (i) : Carries s (imageLost s i) := .of fun h => by
  simp only [imageLost]
  split <;> simp [maps_fields, h]

theorem bandSwitch_carries (s : State) (x ctx) : ∀ t ∈ bandSwitch s x ctx, Carries s t.1 := fun t ht => .of fun h => by
  unfold bandSwitch at ht
  dsimp only at ht
  split at ht
  · simp [← Option.some.inj ht, h]
  · obtain ⟨u, hu, rfl⟩ := Option.map_eq_some_iff.1 ht
    have hw := (bandSave_carries _ _ u hu).wf h
    simp [hw]

@[simp] theorem mmResume_carries (s : State) (c e overlap) : Carries s (mmResume s c e overlap) := .of fun h => by
  unfold mmResume
  dsimp only
  repeat' split
  · exact h
  · simp [maps_fields, h]
  · exact h
  · next t ht => exact (bandSwitch_carries _ _ _ _ ht).wf h
  · next t ht =>
    have hw : (maps t).Wf := (bandSwitch_carries _ _ _ _ ht).wf h
    simp [maps_fields, hw]

theorem saveEngine_carries (s : State) (e) : ∀ t ∈ saveEngine s e, Carries s t := fun t ht => .of fun h => by
  unfold saveEngine at ht
  dsimp only at ht
  split at ht
  · simp [← Option.some.inj ht, h]
  · exact (saveImage_carries _ _ _ t ht).wf h

@[simp] theorem restoreEngine_carries (s : State) (e slot) : Carries s (restoreEngine s e slot).1 := .of fun h => by
  simp only [restoreEngine]
  split <;> simp [h]

theorem handover_carries (s : State) (e slot) : ∀ t ∈ handover s e slot, Carries s t.1 := fun t ht => .of fun h => by
  obtain ⟨u, hu, rfl⟩ := Option.map_eq_some_iff.1 ht
  have hw : (maps u).Wf := by
    split at hu
    · simp [← Option.some.inj hu, h]
    · exact (saveEngine_carries _ _ u hu).wf h
  simp [maps_fields, hw]

@[simp] theorem wakeEngine_carries (s : State) (e) : Carries s (wakeEngine s e).1 := .of fun h => by
  simp only [wakeEngine]
  split <;> simp [maps_fields, h]

@[simp] theorem rushTile_carries (c) (s : State) (t) : Carries s (rushTile c s t) := .of fun h => by
  simp only [rushTile]
  split <;> simp [maps_fields, h]

@[simp] theorem rushAsk_carries (slot) (s : State) : Carries s (rushAsk slot s) :=
  foldl_carries (fun t c => .of fun ht => (foldl_carries (rushTile_carries c) _ _).wf (by simpa [maps_fields] using ht)) _ s

theorem engineReady_carries (s : State) (e slot) : ∀ t ∈ engineReady s e slot, Carries s t.1 := fun t ht => .of fun h => by
  unfold engineReady at ht
  dsimp only at ht
  split at ht
  · obtain ⟨u, hu, rfl⟩ := Option.map_eq_some_iff.1 ht
    have hw := (handover_carries _ _ _ u hu).wf h
    simp [hw]
  · split at ht <;> simp [← Option.some.inj ht, h]

theorem placeReady_carries (s : State) (c e) : ∀ t ∈ placeReady s c e, Carries s t.1 := fun t ht => .of fun h => by
  unfold placeReady at ht
  split at ht
  · next u _ hu _ => exact (bandSwitch_carries _ _ _ t ht).wf ((engineReady_carries _ _ _ _ hu).wf h)
  · exact (engineReady_carries _ _ _ t ht).wf h

@[simp] theorem admitCmd_carries (s : State) (c k) : Carries s (admitCmd s c k) := .of fun h => by
  unfold admitCmd
  dsimp only
  repeat' split
  · simp [maps_fields, h]
  · exact h
  · next t ht =>
    have hw : (maps t).Wf := (placeReady_carries _ _ _ _ ht).wf h
    simp [maps_fields, hw]
  · next t ht =>
    have hw : (maps t).Wf := (placeReady_carries _ _ _ _ ht).wf h
    simp [maps_fields, hw]

@[simp] theorem considerQueue_carries (leftNs slot q) (s : State) : Carries s (considerQueue leftNs slot q s) := .of fun h => by
  simp only [considerQueue]
  repeat' split
  all_goals simp [maps_fields, h]

@[simp] theorem admissionPass_carries (leftNs) (s : State) : Carries s (admissionPass leftNs s) := .of fun h => by
  unfold admissionPass
  refine (foldl_carries (fun t n => .of fun ht => ?_) _ _).wf (by simp [h])
  have hq := (foldl_carries (fun u q => considerQueue_carries leftNs n (Queue.idx q) u) (queueOrder t n) t).wf ht
  simp [hq]

@[simp] theorem ctxLeave_carries (s : State) (x) : Carries s (ctxLeave s x) := .of fun h => by
  have hp := (foldl_carries preempt_carries (s.sp.cmds.filter fun c => c.ctx == x.id && c.opcode == 0x10 && c.phase == .admitted) s).wf h
  simp [maps_fields, ctxLeave, hp]

@[simp] theorem sliceSwap_carries (s : State) : Carries s (sliceSwap s) := .of fun h => by
  unfold sliceSwap
  extract_lets _ aged waiting flight order
  have ha : (maps aged).Wf := by simpa [maps_fields, aged] using h
  split
  · have hl := (foldl_carries ctxLeave_carries (order.take (min 64 waiting)) (freeUse aged (4096 * waiting))).wf (by simp [ha])
    simp [hl]
  · exact ha

@[simp] theorem engineGive_carries (slot e) (s : State) : Carries s (engineGive slot e s) := .of fun h => by
  unfold engineGive
  split
  · exact h
  · split
    · next t ht =>
      have hw : (maps t).Wf := (handover_carries _ _ _ _ ht).wf h
      simp [hw]
    · exact h

@[simp] theorem sliceEngines_carries (s : State) : Carries s (sliceEngines s) := .of fun h => by
  unfold sliceEngines
  split
  · exact (foldl_carries (fun t e => .of fun ht => by cases engineWant t e <;> simp [ht]) _ _).wf (by simp [h])
  · exact h

@[simp] theorem sliceEnd_carries (s : State) : Carries s (sliceEnd s) := .of fun h => by simp [sliceEnd, h]

@[simp] theorem windowEngine_carries (slot e) (s : State) : Carries s (windowEngine slot e s) := .of fun h => by simp [windowEngine, h]

@[simp] theorem strictWindow_carries (slot) (s : State) : Carries s (strictWindow slot s) := .of fun h => by
  unfold strictWindow
  extract_lets t _ u
  have ht : (maps t).Wf := (foldl_carries preempt_carries _ s).wf h
  have hu : (maps u).Wf := by simpa [maps_fields, u] using ht
  have he := (foldl_carries (fun x e => windowEngine_carries slot e x) (slotEngines u slot) u).wf hu
  simp [he, hu]

@[simp] theorem islandSleep_carries (n) (s : State) : Carries s (islandSleep n s) := .of fun h => by
  unfold islandSleep
  dsimp only
  repeat' split
  · exact h
  · next t ht =>
    have hw := (saveEngine_carries _ _ t ht).wf h
    simp [maps_fields, hw]
  all_goals simp [maps_fields, h]

@[simp] theorem gripWatchdog_carries (grip) (s : State) : Carries s (gripWatchdog grip s) := .of fun h => by
  simp [gripWatchdog, maps_fields, h]

@[simp] theorem islandReset_carries (s : State) (n detail ok) : Carries s (islandReset s n detail ok) := .of fun h => by
  simp [islandReset, maps_fields, h]

@[simp] theorem challenge_carries (purpose scope) (s : State) : Carries s (challenge purpose scope s).st := .of fun h => by
  have hbuf : ∀ bs, smWf 0#8 (putBytes [] 0 bs) = true := fun bs => smWf_putBytes [] 0 bs rfl
  unfold challenge
  dsimp only
  repeat' split
  all_goals simp [maps_fields, h, hbuf]

@[simp] theorem challengeDone_carries (s : State) : Carries s (challengeDone s) := .of fun h => by
  unfold challengeDone
  generalize List.replicate 17088 (0 : Byte) = zeros
  dsimp only
  repeat' split
  all_goals simp [maps_fields, h]

@[simp] theorem dbgDataWrite_carries (v) (s : State) : Carries s (dbgDataWrite v s).st :=
  .of fun h => by simp [dbgDataWrite, maps_fields, h]

@[simp] theorem memPortGo_carries (addr write) (s : State) : Carries s (memPortGo addr write s) := .of fun h => by
  simp only [memPortGo]
  split <;> simp [h]

@[simp] theorem memPort_carries (addr write) (s : State) : Carries s (memPort addr write s) := .of fun h => by simp [memPort, h]

@[simp] theorem installRange_carries (s : State) (slot n k) : Carries s (installRange s slot n k) := .of fun h => by simp [installRange, h]

@[simp] theorem installKey_carries (s : State) (m owner origin party key) : Carries s (installKey s m owner origin party key) :=
  .of fun h => by simp [installKey, h]

@[simp] theorem contribute_carries (s : State) (p m) : Carries s (contribute s p m) := .of fun h => by simp [contribute, maps_fields, h]

@[simp] theorem deliver_carries (p m) (s : State) : Carries s (deliver p m s).st := .of fun h => by
  simp only [deliver]
  split <;> simp [h]

@[simp] theorem firmwareImage_carries (p tag image sig) (s : State) : Carries s (firmwareImage p tag image sig s) := .of fun h => by
  unfold firmwareImage
  repeat' split
  · exact (mgmtRun_carries p tag (fun t => .refl t) s).wf h
  · exact h
  · simp [flashStart, maps_fields, h]
  · exact (mgmtRun_carries p tag (fun t => .of fun ht => by simp [ht]) s).wf h

@[simp] theorem read05_carries (s : State) (o) : Carries s (read05 s o).1 := .of fun h => by
  simp only [read05]
  repeat' split
  all_goals simp [h]

@[simp] theorem regRead_carries (s : State) (off) : Carries s (regRead s off).1 := .of fun h => by
  simp only [regRead]
  split <;> simp [h]

@[simp] theorem regReads_carries : ∀ n off (s : State), Carries s (regReads n off s).1
  | 0, _, _ => .refl _
  | n + 1, off, s => .of fun h => by simp [regReads, regReads_carries n, h]

@[simp] theorem regReadReq_carries (off count) (s : State) : Carries s (regReadReq off count s).st := .of fun h => by simp [regReadReq, h]

@[simp] theorem regReadTurn_carries (p tag off count row) (s : State) : Carries s (regReadTurn p tag off count row s) := .of fun h => by
  unfold regReadTurn
  split
  · simp [h]
  · exact (mgmtRun_carries p tag (regReadReq_carries off count) s).wf h

@[simp] theorem write05_carries (o v) (s : State) : Carries s (write05 o v s).st := .of fun h => by simp [write05, maps_fields, h]

@[simp] theorem write09_carries (o v) (s : State) : Carries s (write09 o v s).st := .of fun h => by
  simp only [write09]
  repeat' split
  all_goals simp [maps_fields, h]

@[simp] theorem write0C_carries (o v) (s : State) : Carries s (write0C o v s).st := .of fun h => by
  simp only [write0C]
  repeat' split
  all_goals simp [maps_fields, h]

end Sys2Proof.Machine
end

section
/-! SUPPORT. The operations of restarts, power, strikes, the life cycle and what waited carry canonical maps to canonical maps. -/

namespace Sys2Proof.Machine

/-! ### Lists built anew at their hardware length -/

@[simp] theorem linksStart_carries (s : State) : Carries s (linksStart s) := .of fun h => by
  simp [linksStart, h, maps_fields]

@[simp] theorem holdOthers_carries (s : State) : Carries s (holdOthers s) := .of fun h => by
  simp [holdOthers, h, maps_fields]

@[simp] theorem promote_carries (s : State) : Carries s (promote s) := .of fun h => by
  simp [promote, h, maps_fields]

@[simp] theorem slotStrike_carries (f) (s : State) : Carries s (slotStrike s f) := .of fun h => by
  simp [slotStrike, h, maps_fields]

@[simp] theorem capIslands_carries (s : State) : Carries s (capIslands s) := .of fun h => by
  simp [capIslands, h, maps_fields]

theorem wipeUnkept_wf (m : Mem) (kept) (h : Memory.wf m = true) : Memory.wf (wipeUnkept m kept) = true := by
  obtain ⟨hcells, hfaults, hcounters⟩ := (Memory.wf_iff m).mp h
  exact (Memory.wf_iff _).mpr ⟨smFilter_wf _ hcells, smFilter_wf _ hfaults, smFilter_wf _ hcounters⟩

@[simp] theorem rigRefilled_carries (s : State) : Carries s (rigRefilled s) := .of fun h => by
  unfold rigRefilled
  split
  · exact h
  · split
    · exact h
    · extract_lets old used kept fresh cfg _ s1 _ _ s2
      have h2 : (maps s2).Wf := (canonical_iff_wf s2).mp ⟨wipeUnkept_wf _ _ h.mem, h.staging, h.tiles, h.rigBuf, h.dbgBuf⟩
      have hf : (maps (fresh.foldl refillNew s2)).Wf := (foldl_carries refillNew_carries fresh s2).wf h2
      simp [hf]

theorem mergeFlip_wf {m : Mem} (key x) (h : Memory.wf m = true) : Memory.wf (mergeFlip m key x) = true := by
  obtain ⟨hcells, hfaults, hcounters⟩ := (Memory.wf_iff m).mp h
  refine (Memory.wf_iff _).mpr ⟨List.foldlRecOn (motive := fun c => smWf 0#8 c = true) _ _ hcells fun c hc w _ => ?_, hfaults, hcounters⟩
  split
  · exact hc
  · exact putBytes_wf _ _ hc

theorem mergeUpset_wf {m : Mem} (key x) (h : Memory.wf m = true) : Memory.wf (mergeUpset m key x) = true := by
  unfold mergeUpset
  split
  · exact mergeFlip_wf key x h
  · exact h

@[simp] theorem takeMeasured_carries (m) (s : State) : Carries s (takeMeasured s m) := .of fun h => by
  unfold takeMeasured
  extract_lets s1 t g0 g
  have h1 : (maps s1).Wf := by
    simp only [s1]
    split
    · exact (foldl_carries (f := fun t e => e.2.2.foldl (cacheWord e.1 e.2.1) t)
        (fun t e => foldl_carries (cacheWord_carries e.1 e.2.1) e.2.2 t) m.nodeErr (splitEnergy m s)).wf (by simp [h])
    · exact h
  have ht : (maps t).Wf := by
    simp only [t]
    split
    · have hm : Memory.wf (m.mergeErr.foldl (fun y e => mergeUpset y e.1 e.2) s1.mem) = true :=
        List.foldlRecOn (motive := fun y => Memory.wf y = true) _ _ h1.mem fun y hy e _ => mergeUpset_wf e.1 e.2 hy
      exact (canonical_iff_wf _).mp ⟨hm, h1.staging, h1.tiles, h1.rigBuf, h1.dbgBuf⟩
    · exact h1
  split
  · exact ht
  · exact ht

/-! ### Power-up, resets and strikes -/

@[simp] theorem bootStep5_carries (s : State) : Carries s (bootStep5 s) := .of fun h => by
  unfold bootStep5
  rw [bootDone_maps]
  exact (linksStart_carries _).wf h

@[simp] theorem bootStep9_carries (s : State) : Carries s (bootStep9 s) := .of fun h => by
  simp [bootStep9, h, maps_fields]

@[simp] theorem bootFrom6_carries (b) (s : State) : Carries s (bootFrom6 s b) := .of fun h => by
  simp [bootFrom6, h, maps_fields]

@[simp] theorem bootFrom3_carries (b) (s : State) : Carries s (bootFrom3 s b) := .of fun h => by
  simp [bootFrom3, h, maps_fields]

@[simp] theorem restart_carries (b) (s : State) : Carries s (restart s b) := .of fun h => by
  simp [restart, h]

theorem standbyKeep_wf (s : State) : (maps (standbyKeep s)).Wf := ⟨rfl, rfl, rfl, rfl, rfl, rfl, rfl⟩

@[simp] theorem standbyKeep_carries (s : State) : Carries s (standbyKeep s) := .of fun _ => standbyKeep_wf s

@[simp] theorem stbyGone_carries (s : State) : Carries s (stbyGone s) := .of fun _ => standbyKeep_wf s

@[simp] theorem powerDown_carries (r) (s : State) : Carries s (powerDown r s) := .of fun _ => by
  cases r <;> exact standbyKeep_wf s

@[simp] theorem warmStart_carries (cause) (s : State) : Carries s (warmStart s cause) := .of fun h => by
  simp [warmStart, h, maps_fields]

@[simp] theorem resetAtOnce_carries (cause b) (s : State) : Carries s (resetAtOnce s cause b) := .of fun h => by
  simp [resetAtOnce, h]

@[simp] theorem strike_carries (cause) (s : State) : Carries s (strike s cause) := .of fun h => by
  simp [strike, h, maps_fields]

@[simp] theorem burstFail_carries (d x) (s : State) : Carries s (burstFail s d x) := .of fun h => by
  simp [burstFail, h]

@[simp] theorem islandFault_carries (n detail ok b) (s : State) : Carries s (islandFault s n detail ok b) := .of fun h => by
  simp [islandFault, h, maps_fields]

/-! ### The life cycle and the debug grant -/

@[simp] theorem lcEnd_carries (g) (s : State) : Carries s (lcEnd s g) := .of fun h => by
  simp [lcEnd, h, maps_fields]

@[simp] theorem lcTick_carries (g) (s : State) : Carries s (lcTick s g) := .of fun h => by
  unfold lcTick
  dsimp only
  split
  · simp [h, maps_fields]
  · split
    · simp [h, maps_fields]
    · split
      · simp [h]
      · next e he =>
        have hbuf := lcSteps_buf _ _ e (List.mem_of_getElem? he)
        simp [hbuf, h, maps_fields]

@[simp] theorem tick_carries (s : State) : Carries s (tick s) := .of fun h => by
  unfold tick
  split
  · simp [h]
  · split <;> simp [h]

@[simp] theorem scrapNow_carries (s : State) : Carries s (scrapNow s) := .of fun h => by
  simp [scrapNow, h, maps_fields]

@[simp] theorem lcPort_carries (target confirm b) (s : State) : Carries s (lcPort target confirm b s) := .of fun h => by
  simp [lcPort, h]

@[simp] theorem lcScrap_carries (confirm) (s : State) : Carries s (lcScrap confirm s).st := .of fun h => by
  simp [lcScrap, h]

@[simp] theorem debugStrike_carries (keep b) (hk : ∀ x, (keep x).buf = x.buf) (s : State) : Carries s (debugStrike s keep b) :=
  .of fun h => by simp [debugStrike, hk, maps_fields, h]

@[simp] theorem acceptGo_carries (c b) (s : State) : Carries s (acceptGo s c b).1 := .of fun h => by
  unfold acceptGo
  dsimp only
  repeat' split
  all_goals simp [h, maps_fields, tokenUse]

@[simp] theorem acceptToken_carries (b) (s : State) : Carries s (acceptToken b s).st := .of fun h => by
  unfold acceptToken
  repeat' split
  all_goals simp [h]

/-! ### Keys, rigs and spaces -/

@[simp] theorem zeroizeKey_carries (slot) (s : State) : Carries s (zeroizeKey slot s).st := .of fun h => by
  simp [zeroizeKey, h]

@[simp] theorem partyZeroize_carries (p m) (s : State) : Carries s (partyZeroize p m s).st := .of fun h => by
  simp [partyZeroize, h]

@[simp] theorem keyMsgDo_carries (p m) (s : State) : Carries s (keyMsgDo p m s).st := .of fun h => by
  simp [keyMsgDo, h]

@[simp] theorem commitStart_carries (new) (s : State) : Carries s (commitStart s new) := .of fun h => by
  simp [commitStart, h, maps_fields]

@[simp] theorem rigCommit_carries (s : State) : Carries s (rigCommit s).st := .of fun h => by
  unfold rigCommit
  split
  · simp [h]
  · split <;> simp [h]

@[simp] theorem endCompact_carries (s : State) : Carries s (endCompact s) := .of fun h => by
  simp [endCompact, h, maps_fields]

@[simp] theorem strikeForSpace_carries (party) (s : State) : Carries s (strikeForSpace s party) := .of fun h => by
  simp [strikeForSpace, h]

@[simp] theorem spaceDestroyDone_carries (slot) (s : State) : Carries s (spaceDestroyDone slot s) := .of fun h => by
  simp [spaceDestroyDone, h, maps_fields]

/-! ### Pairing and promotion -/

@[simp] theorem resolve_carries (toCommit) (s : State) : Carries s (resolve toCommit s).st := .of fun h => by
  unfold resolve
  split
  · simp [h]
  · split <;> simp [h]

@[simp] theorem decidePromote_carries (st) (s : State) : Carries s (decidePromote s st) := .of fun h => by
  simp [decidePromote, h]

@[simp] theorem probeTimeout_carries (s : State) : Carries s (probeTimeout s) := .of fun h => by
  simp [probeTimeout, h]

@[simp] theorem leaveReceive_carries (src) (s : State) : Carries s (leaveReceive s src) := .of fun h => by
  simp [leaveReceive, h]

@[simp] theorem offerCheck_carries (o) (s : State) : Carries s (offerCheck s o) := .of fun h => by
  unfold offerCheck
  split
  · simp [h]
  · simp [h, maps_fields]

@[simp] theorem offerReceive_carries (o) (s : State) : Carries s (offerReceive s o) := .of fun h => by
  simp [offerReceive, h]

@[simp] theorem offerSend_carries (quote) (s : State) : Carries s (offerSend quote s) := .of fun h => by
  unfold offerSend
  dsimp only
  split
  · exact h
  · split <;> simp [h]

@[simp] theorem quoteDeliver_carries (r q) (s : State) : Carries s (quoteDeliver s r q) := .of fun h => by
  unfold quoteDeliver
  split <;> simp [h, maps_fields]

@[simp] theorem quoteFinish_carries (s : State) : Carries s (quoteFinish s) := .of fun h => by
  unfold quoteFinish
  split <;> simp [h, maps_fields]

/-! ### Register writes -/

@[simp] theorem write00_carries (o v b) (s : State) : Carries s (write00 o v b s).st := .of fun h => by
  simp [write00, h]

@[simp] theorem write01_carries (o v) (s : State) : Carries s (write01 o v s).st := .of fun h => by
  unfold write01
  have hptr := (rigBufWrite_carries (rigPtr_buf_wf v) s).wf h
  have hdata := (rigBufWrite_carries (rigData_buf_wf v) s).wf h
  have hlen := (rigBufWrite_carries (rigLen_buf_wf v) s).wf h
  simp [hptr, hdata, hlen, h]

@[simp] theorem write06_carries (o v) (s : State) : Carries s (write06 o v s).st := .of fun h => by
  unfold write06
  dsimp only
  repeat' split
  all_goals simp [h, maps_fields]

@[simp] theorem write07_carries (o v b) (s : State) : Carries s (write07 o v b s).st := .of fun h => by
  simp [write07, h]

@[simp] theorem write0B_carries (o v) (s : State) : Carries s (write0B o v s).st := .of fun h => by
  unfold write0B
  dsimp only
  split
  · split <;> simp [h]
  · simp [h, maps_fields]

@[simp] theorem regWrite_carries (p off v b) (s : State) : Carries s (regWrite p off v b s).st := .of fun h => by
  unfold regWrite
  repeat' split
  all_goals simp [h, maps_fields]

@[simp] theorem regWriteTurn_carries (p tag off v b) (s : State) : Carries s (regWriteTurn p tag off v b s) := .of fun h => by
  simp [regWriteTurn, mgmtRun, h]

@[simp] theorem regWriteReq_carries (p tag off v b) (s : State) : Carries s (regWriteReq p tag off v b s) := .of fun h => by
  unfold regWriteReq
  split <;> simp [mgmtDraw, mgmtWrite, mgmtTurn, mgmtAgain, mgmtRun, lockTest, h]

@[simp] theorem regPortGo_carries (off write b) (s : State) : Carries s (regPortGo off write b s) := .of fun h => by
  unfold regPortGo
  split <;> simp [h]

@[simp] theorem regPort_carries (off write b) (s : State) : Carries s (regPort off write b s) := .of fun h => by
  simp [regPort, h]

/-! ### What waited -/

@[simp] theorem rowGo_carries (i) (s : State) : Carries s (rowGo i s) := .of fun h => by
  cases i
  case dbgBufAccess p tag write => cases write <;> simp [rowGo, mgmtAgain, mgmtRun, lockTest, h]
  case rigBufPtrWrite p tag v => exact (mgmtAgain_carries p tag (rigBufWrite_carries (rigPtr_buf_wf v)) s).wf h
  case rigBufDataWrite p tag v => exact (mgmtAgain_carries p tag (rigBufWrite_carries (rigData_buf_wf v)) s).wf h
  case rigBufLenWrite p tag v => exact (mgmtAgain_carries p tag (rigBufWrite_carries (rigLen_buf_wf v)) s).wf h
  all_goals simp [rowGo, mgmtAgain, mgmtRun, lockTest, againSettle, h]

@[simp] theorem rowsGo_carries (s : State) : Carries s (rowsGo s) :=
  .of fun h => (foldl_carries (fun t i => .of fun ht => by simp [ht]) _ _).wf (by simp [maps_fields, h])

@[simp] theorem fillGo_carries (i) (s : State) : Carries s (fillGo i s) := .of fun h => by
  cases i <;> simp [fillGo, mgmtAgain, mgmtRun, lockTest, h]

@[simp] theorem fillDone_carries (n) (s : State) : Carries s (fillDone n s) := .of fun h => by
  unfold fillDone
  extract_lets t _ u
  have hu : (maps u).Wf := by simp [u, t, maps_fields, h]
  have hgo := (foldl_carries (fun v i => fillGo_carries i v) (t.ciph.waiting.filter fun i => !(accessWaits t i)) u).wf hu
  simp [hgo]

@[simp] theorem entropyPass_carries (s : State) : Carries s (entropyPass s) := .of fun h => by
  simp [entropyPass, h, maps_fields]

@[simp] theorem drawTimeout_carries (s : State) : Carries s (drawTimeout s) := .of fun h => by
  unfold drawTimeout
  split
  · exact h
  · split <;> simp [h, maps_fields]

end Sys2Proof.Machine
end

section
/-! CLAIMS. Every step keeps main memory, the staging and the load buffers canonical. -/

namespace Sys2Proof.Machine

/-! ### Every command -/

/-- Every command answers a next state whose maps are canonical where its own are. -/
theorem exec_carries (i : Instr) (s : State) : ∃ t, exec i s = .next t ∧ Carries s t := by
  cases i
  all_goals refine ⟨_, rfl, .of fun h => ?_⟩
  case matmul | matmulResume | vector | quantize | random | redInit | redAdd | redRead | nop | copy | stageIn | stageOut | transpose |
      gather | scatter | repack | releaseCopy | scrub | update | normAcc | cut | takeRecord | collective | normReduce | bridgeBurstReceive =>
    split <;> simp [h]
  case dbgBufAccess =>
    split <;> simp [mgmtRead, mgmtWrite, mgmtTurn, mgmtAgain, mgmtRun, lockTest, h]
  case collectiveSeqReady =>
    split
    · simp [h]
    · split <;> simp [h]
  case pendingPriority =>
    split
    · simp [h]
    · split <;> simp [h, maps_fields]
  case rigBufPtrWrite p tag v => exact (mgmtWrite_carries p tag _ (rigBufWrite_carries (rigPtr_buf_wf v)) s).wf h
  case rigBufDataWrite p tag v => exact (mgmtWrite_carries p tag _ (rigBufWrite_carries (rigData_buf_wf v)) s).wf h
  case rigBufLenWrite p tag v => exact (mgmtWrite_carries p tag _ (rigBufWrite_carries (rigLen_buf_wf v)) s).wf h
  case partyMessage via tag p counter ok inner =>
    cases inner with
    | key m => exact (keyMessage_carries _ _ _ _ (keyMsgDo_carries p m) s).wf h
    | space => simp [h]
  case deliver via tag p m auth => exact (keyMessage_carries _ _ _ _ (deliver_carries p m) s).wf h
  case partyZeroize via tag p m auth => exact (keyMessage_carries _ _ _ _ (partyZeroize_carries p m) s).wf h
  case lcPort target confirm b => exact (jtagRun_carries _ (fun t => .of fun ht => by simp [ht]) s).wf h
  case memPort a write => exact (jtagRun_carries _ (memPort_carries a write) s).wf h
  case regPort off write b =>
    have hrun := (jtagRun_carries 34 (regPort_carries off write b) s).wf h
    simp [hrun]
  all_goals simp [mgmtDraw, mgmtRead, mgmtWrite, mgmtTurn, mgmtAgain, mgmtRun, lockTest, maps_fields, h]

/-- Settles O15: each operation writes the maps by the sparse-map operations alone, which keep the canonical form, so that every command
carries canonical maps to canonical maps; an empty queue runs a tick. -/
theorem everyStepKeepsMemoryCanonical : Obligations.EveryStepKeepsMemoryCanonical := by
  intro s t hs ht
  rw [canonical_iff_wf] at hs ⊢
  cases hq : s.pending with
  | nil =>
    obtain rfl : tick s = t := by simpa [step_empty s hq] using ht
    exact (tick_carries s).wf hs
  | cons c rest =>
    obtain ⟨u, hu, hk⟩ := exec_carries c (s.withQueue rest)
    obtain rfl : u = t := by simpa [step_cons s c rest hq, hu] using ht
    exact hk.wf hs

end Sys2Proof.Machine
end

section
/-! SUPPORT. An instruction of the TAP is loaded, and its data scan runs where it is open. -/

namespace Sys2Proof.Machine

variable {s : State} {ir : Nat} {f : State → State}

theorem jtagLoad_open (hk : jtagKnown ir = true) (ho : jtagOpen s ir = true) :
    jtagLoad ir s = { s with jtag := { s.jtag with ir := BitVec.ofNat 8 ir, driving := decide (ir = 0) } } := by
  simp [jtagLoad, hk, ho]

theorem jtagLoad_closed (hk : jtagKnown ir = true) (ho : jtagOpen s ir = false) :
    jtagLoad ir s =
      { s with jtag := { s.jtag with ir := 0xFF, driving := false }, lc := { s.lc with refused := satAdd 15 s.lc.refused 1 } } := by
  simp [jtagLoad, hk, ho]

theorem jtagLoad_unknown (hk : jtagKnown ir = false) : jtagLoad ir s = { s with jtag := { s.jtag with ir := 0xFF, driving := false } } := by
  simp [jtagLoad, hk]

theorem jtagRun_open (hl : s.power.tapLive = true) (hk : jtagKnown ir = true) (ho : jtagOpen s ir = true) :
    jtagRun ir f s = f { s with jtag := { s.jtag with ir := BitVec.ofNat 8 ir, driving := decide (ir = 0) } } := by
  simp [jtagRun, hl, jtagLoad_open hk ho]

/-- Where the instruction is not open only the bypass register is selected, and the refusal counted. -/
theorem jtagRun_closed (hl : s.power.tapLive = true) (hk : jtagKnown ir = true) (ho : jtagOpen s ir = false)
    (hne : 0xFF#8 ≠ BitVec.ofNat 8 ir) :
    jtagRun ir f s =
      { s with jtag := { s.jtag with ir := 0xFF, driving := false }, lc := { s.lc with refused := satAdd 15 s.lc.refused 1 } } := by
  simp [jtagRun, hl, jtagLoad_closed hk ho, hne]

/-- A load alone: what it leaves is the whole scan. -/
theorem jtagRun_id (hl : s.power.tapLive = true) : jtagRun ir id s = jtagLoad ir s := by simp [jtagRun, hl]

end Sys2Proof.Machine
end

section
/-! CLAIMS. Steps, reset, the budget writes, the debug buffer and the instructions of the TAP. -/

namespace Sys2Proof.Machine

/-- Settles O1: one step is one `exec`, and on an empty queue one `tick`. -/
theorem stepRunsFrontCommand : Obligations.StepRunsFrontCommand := by
  refine ⟨step_cons, fun s hq hg hf => ?idle, fun s g hq hg => ?transition, fun s w hq hg hf => ?flash⟩
  case idle => rw [step_empty s hq, tick_idle s hg hf]
  case transition => simp [step_empty s hq, tick, hg]
  case flash =>
    rw [step_empty s hq]
    simp [tick, hg, hf, flashTick]

/-- GAF_BUDGET reads the budget and its clamped flag. -/
theorem regRead_budget (s : State) :
    regRead s 0x020000 = plain s (packWord [(s.power.budgetW, 12), (b2n s.power.budgetClamped, 1)]) := rfl

/-- Settles O13: every part of the reset state at its defaults; an empty map reads as its default everywhere. -/
theorem resetValues : Obligations.ResetValues := by
  refine ⟨rfl, rfl, rfl, rfl, rfl, (congrArg Prod.snd (regRead_budget State.reset)).trans (by decide), rfl, rfl, rfl, rfl,
    rfl, rfl, rfl, rfl, fun n => ?slots, fun k hk => ?keys, rfl, rfl, fun _ => rfl, ⟨rfl, rfl, rfl, rfl, List.length_replicate, rfl, rfl, rfl⟩, ⟨rfl, rfl, rfl, rfl, rfl⟩⟩
  case slots => exact congrArg Space.state (List.getElem?_getD_replicate_default_eq {} 16 n)
  case keys => exact List.eq_of_mem_replicate hk

/-- A budget clamped to 1,000 to 2,400 W. -/
theorem budget_clamp (v : Nat) : max 1000 (min 2400 v) = if v < 1000 then 1000 else if 2400 < v then 2400 else v := by
  split
  · omega
  · split <;> omega

/-- The budget that a write sets, with the clamped flag. -/
theorem budgetWrite_eq (v : Word) (s : State) :
    budgetWrite (fld v.toNat 0 12) s = { s with power := { s.power with
      budgetW := if v.toNat % 4096 < 1000 then 1000 else if 2400 < v.toNat % 4096 then 2400 else v.toNat % 4096
      budgetClamped := decide (v.toNat % 4096 < 1000) || decide (2400 < v.toNat % 4096) } } := by
  have hfld : fld v.toNat 0 12 = v.toNat % 4096 := by simp [fld]
  rw [budgetWrite, budget_clamp, hfld]

/-- Settles O8: both writes set the budget by the one clamp. -/
theorem budgetWritesClamp : Obligations.BudgetWritesClamp := by
  refine ⟨fun s v hup hscrap => ?scrapped, fun s v hup hscrap => ?sideband, fun s p tag v hmay => ?port⟩
  case scrapped => simp [exec, execI3cBudget, hup, hscrap, i3cRefuse]
  case sideband => simp [exec, execI3cBudget, hup, hscrap, budgetWrite_eq]
  case port => exact congrArg _ ((mgmtWrite_may p tag _ _ s hmay).trans (congrArg (mgmtReply · p tag .ok []) (budgetWrite_eq v s)))

/-- Settles O53: below the limit the access takes 8 bytes at the pointer and moves it on. -/
theorem debugBufferAccess : Obligations.DebugBufferAccess := by
  refine ⟨fun s p tag hmay hin => ?readIn, fun s p tag hmay hout => ?readOut, fun s p tag v hmay hin => ?writeIn,
    fun s p tag v hmay hout => ?writeOut⟩
  case readIn => exact congrArg _ ((mgmtRead_now p tag _ _ s hmay).trans (by simp [dbgDataRead, hin]))
  case readOut => exact congrArg _ ((mgmtRead_now p tag _ _ s hmay).trans (by simp [dbgDataRead, Nat.not_lt.2 hout]))
  case writeIn => exact congrArg _ ((mgmtWrite_may p tag _ _ s hmay).trans (by simp [dbgDataWrite, hin]))
  case writeOut => exact congrArg _ ((mgmtWrite_may p tag _ _ s hmay).trans (by simp [dbgDataWrite, Nat.not_lt.2 hout]))

/-- Settles O54: a row of the TAP is the load of its instruction and, where that is selected, one scan. -/
theorem jtagInstructionsSelect : Obligations.JtagInstructionsSelect := by
  refine ⟨fun s ir hl hk ho => ?opened, fun s ir hl hk ho => ?closed, fun s ir hl hk => ?unknown, fun ir => ?known, fun s l hl => ?extest,
    fun s hl => ?idcode, fun s l hl => ?sample, fun s b hl => ?bypass, fun s hl hscrap => ?scrapped, fun s hl hscrap => ?grant,
    fun s hl => ?reset⟩
  case opened =>
    have hzero : decide (ir.toNat = 0) = (ir == 0) := by
      rw [Bool.eq_iff_iff]
      simp [BitVec.toNat_eq]
    refine congrArg _ ((jtagRun_id hl).trans ?_)
    rw [jtagLoad_open hk ho, BitVec.ofNat_toNat, BitVec.setWidth_eq, hzero]
  case closed => exact congrArg _ ((jtagRun_id hl).trans (jtagLoad_closed hk ho))
  case unknown => exact congrArg _ ((jtagRun_id hl).trans (jtagLoad_unknown hk))
  case known => exact List.contains_iff_mem
  case extest => exact congrArg _ (jtagRun_open hl rfl rfl)
  case idcode => exact congrArg _ (jtagRun_open hl rfl rfl)
  case sample => exact congrArg _ (jtagRun_open hl rfl rfl)
  case bypass => exact congrArg _ (jtagRun_open hl rfl rfl)
  case scrapped => exact congrArg _ (jtagRun_closed hl rfl (by simp [jtagOpen, hscrap]) (by decide))
  case grant => exact congrArg _ (jtagRun_open hl rfl (by simp [jtagOpen, hscrap]))
  case reset => simp [exec, execJtagTestReset, hl]

end Sys2Proof.Machine
end

section
/-! SUPPORT. A challenge, and its signature. -/

namespace Sys2Proof.Machine

variable {s : State} {p : Port}

/-- A management write that draws, taken at once, replies with its answer. -/
theorem next_mgmtDraw (tag : Nat) (row : Instr) {f : State → Answer} {a : Answer} (h : mayWrite s p) (he : s.keys.entropyOk = true)
    (ha : f s = a) :
    (.next (mgmtDraw p tag row f s) : Host.Outcome State Fault Refusal) = .next (mgmtReply a.st p tag a.status a.data) := by
  rw [mgmtDraw_ready _ _ _ _ _ (by simp [drawsWait, he]), next_mgmtWrite tag row h ha]

/-- The challenge that a purpose and a scope ask for, with the next draw. -/
def challengeOf (s : State) (purpose scope : Nat) : Challenge :=
  ⟨purpose, if purpose = 1 then scope % 16 else 0, challengeBody s purpose (if purpose = 1 then scope % 16 else 0) (drawAt s 0), none⟩

/-- A challenge that is taken: what it replaces and what it leaves. -/
theorem challenge_taken {purpose scope : Nat} (h0 : purpose ≠ 0) (h3 : purpose ≤ 3)
    (hroom : (challengeDrop s).keys.quotes.length < 64 ∨ s.keys.vaultOk = false) :
    ∃ u, challenge purpose scope s = ⟨u, .ok, []⟩ ∧ u.lc.chal = some (challengeOf s purpose scope) ∧
      u.lc.buf = putBytes [] 0 (challengeOf s purpose scope).body ∧
      u.keys.quotes = (if s.keys.vaultOk then (challengeDrop s).keys.quotes ++ [⟨0, [], .challenge⟩] else (challengeDrop s).keys.quotes) ∧
      u.draws = s.draws + 1 ∧ u.lc.grant = s.lc.grant ∧ u.keys.slots = s.keys.slots := by
  have hfull : (decide (64 ≤ (challengeDrop s).keys.quotes.length) && s.keys.vaultOk) = false := by
    rcases hroom with h | h <;> simp [h]
  unfold challenge
  dsimp only
  rw [if_neg (by simp; omega), if_neg (by rw [hfull]; simp)]
  refine ⟨_, rfl, ?_⟩
  cases s.keys.vaultOk <;> simp [challengeOf, challengeDrop, dbgStatus, drawUse, quoteAsk]

/-- What the end of a challenge's signature leaves: the signature behind the body, and the digest of both. -/
def challengeSigned (s : State) (c : Challenge) (sig : List Byte) : State :=
  { s with lc := { s.lc with chal := some { c with digest := some (shakeW (c.body ++ sig)) }, buf := putBytes s.lc.buf 128 sig } }

/-- On a module with an identity the challenge's signature takes the next draw and leaves the queue. -/
theorem challengeDone_signs {c : Challenge} {r : QuoteReq} {rest : List QuoteReq} (hc : s.lc.chal = some c) (hd : c.digest = none)
    (he : s.keys.entropyOk = true) (hv : s.keys.vaultOk = true) (hq : s.keys.quotes = r :: rest) (hr : r.dest = .challenge) :
    challengeDone s = challengeSigned (drawUse { s with keys := { s.keys with quotes := rest } } 1) c
      (identitySign (s.keys.slots.getD 0 {}) "nirnus-dbg-challenge" c.body (drawAt s 0)) := by
  simp [challengeDone, hc, hd, challengeNext, hv, hq, hr, drawsWait, he, challengeSigned, drawUse]

/-- On a module with no identity the bytes that are put where the signature would be draw nothing. -/
theorem challengeDone_blank {c : Challenge} (hc : s.lc.chal = some c) (hd : c.digest = none) (hv : s.keys.vaultOk = false) :
    challengeDone s = challengeSigned s c (List.replicate 17088 0) := by
  unfold challengeDone
  generalize List.replicate 17088 (0 : Byte) = zeros
  simp [hc, hd, challengeNext, hv, challengeSigned]

end Sys2Proof.Machine
end

section
/-! CLAIMS. Challenges. -/

namespace Sys2Proof.Machine

/-- Settles O51, by what each command answers where it is taken, refused or waits. -/
theorem challengeIsDrawnAndSigned : Obligations.ChallengeIsDrawnAndSigned := by
  refine ⟨fun s p tag purpose scope q body hmay he h0 h3 hq hroom hbody => ?taken, fun s p tag purpose scope hmay he hp => ?purpose,
    fun s p tag purpose scope hmay he hv h0 h3 hfull => ?full, fun s p tag purpose scope hmay he => ?waits,
    fun s c r rest hc hd he hv hq hr => ?signs, fun s c r rest hc hv hq hr => ?behind, fun s c sig hc hd hv hsig => ?blank⟩
  case taken =>
    subst hq hbody
    obtain ⟨u, hu, hleft⟩ := challenge_taken h0 h3 hroom
    exact ⟨u, next_mgmtDraw tag _ hmay he hu, hleft⟩
  case purpose =>
    have hbad : (decide (purpose = 0) || decide (3 < purpose)) = true := by simpa using hp
    exact next_mgmtDraw tag _ hmay he (a := ⟨dbgStatus s .badDescriptor 0, .badDescriptor, []⟩) (if_pos hbad)
  case full =>
    have hgood : ¬(decide (purpose = 0) || decide (3 < purpose)) = true := by simp; omega
    have hfull' : (decide (64 ≤ (challengeDrop s).keys.quotes.length) && s.keys.vaultOk) = true := by simpa [hv, challengeDrop] using hfull
    exact next_mgmtDraw tag _ hmay he (a := ⟨dbgStatus s .busy 0, .busy, []⟩) ((if_neg hgood).trans (if_pos hfull'))
  case waits => exact congrArg _ (mgmtDraw_waits p tag _ _ s (by simp [drawsWait, he]) hmay)
  case signs => exact ⟨_, _, congrArg Host.Outcome.next (challengeDone_signs hc hd he hv hq hr), rfl, rfl, rfl, rfl, rfl⟩
  case behind => exact congrArg Host.Outcome.next (by simp [challengeDone, hc, challengeNext, hv, hq, hr])
  case blank => exact hsig ▸ congrArg Host.Outcome.next (challengeDone_blank hc hd hv)

end Sys2Proof.Machine
end

section
/-! SUPPORT. Requests of a space: the state that a request acts on, numbers not in use, and what sending notices and evaluating waits leave. -/

namespace Sys2Proof.Machine

/-! ### Numbers not in use (log entry 107) -/

/-- The choice of a number is not in use, where those in use are fewer than the numbers. -/
theorem freeIndex_free (s : State) {bound : Nat} {us : List Nat} {used : Nat → Bool} (hused : ∀ i, used i = true → i ∈ us)
    (hlen : us.length < bound) : freeIndex s bound us.length used < bound ∧ used (freeIndex s bound us.length used) = false := by
  unfold freeIndex
  generalize hl : (List.range (us.length + 1)).map (fun k => ((freeAt s 0).toNat + k) % bound) = l
  have hnodup : l.Nodup := by
    rw [← hl]
    refine List.Nodup.map_on (fun i hi j hj hij => ?_) List.nodup_range
    have hcancel : i ≡ j [MOD bound] := Nat.ModEq.add_left_cancel' _ hij
    exact hcancel.eq_of_lt_of_lt (by simp at hi; omega) (by simp at hj; omega)
  cases hfind : l.find? fun i => !(used i) with
  | none =>
    have hsub : l ⊆ us := fun i hi => hused i (by simpa using List.find?_eq_none.1 hfind i hi)
    have hle := (hnodup.subperm hsub).length_le
    rw [← hl, List.length_map, List.length_range] at hle
    omega
  | some i =>
    have hmem := List.mem_of_find?_eq_some hfind
    rw [← hl] at hmem
    obtain ⟨k, -, rfl⟩ := List.mem_map.1 hmem
    exact ⟨Nat.mod_lt _ (by omega), by simpa using List.find?_some hfind⟩

/-! ### The state that a request acts on -/

/-- The entry of a space after a change of one. -/
theorem spaceGet_spaceMod (s : State) (n slot : Nat) (f : Space → Space) :
    spaceGet { s with sp := spaceMod s.sp n f } slot = if slot = n ∧ n < s.sp.slots.length then f (spaceGet s slot) else spaceGet s slot := by
  simp only [spaceGet, spaceMod]
  split
  · next h =>
    obtain ⟨rfl, hlt⟩ := h
    exact modAt_getD f {} hlt
  · next h =>
    by_cases hs : slot = n
    · subst hs
      have hge : s.sp.slots.length ≤ slot := Nat.le_of_not_lt fun hlt => h ⟨rfl, hlt⟩
      simp [modAt, List.modify_eq_self hge]
    · exact modAt_getD_other _ f {} hs

section Brought

variable (s : State) (ch : Chan)

@[simp] theorem broughtBy_sp : (broughtBy s ch).sp = s.sp := by
  unfold broughtBy
  split <;> rfl

@[simp] theorem broughtBy_mem : (broughtBy s ch).mem = s.mem := by
  unfold broughtBy
  split <;> rfl

@[simp] theorem broughtBy_rig : (broughtBy s ch).rig = s.rig := by
  unfold broughtBy
  split <;> rfl

@[simp] theorem broughtBy_freeCtr : (broughtBy s ch).freeCtr = s.freeCtr := by
  unfold broughtBy
  split <;> rfl

@[simp] theorem asked_rangeCfg (n) : rangeCfg (asked s ch) n = rangeCfg s n := by simp [rangeCfg, holdCfg]

theorem asked_fences : (asked s ch).sp.fences = s.sp.fences := by simp

theorem asked_objs : (asked s ch).sp.objs = s.sp.objs := by simp

theorem asked_doors : (asked s ch).sp.doors = s.sp.doors := by
  show (broughtBy s ch).sp.doors = _
  simp

@[simp] theorem asked_fenceGet (slot h) : fenceGet (asked s ch) slot h = fenceGet s slot h := by simp [fenceGet]

@[simp] theorem asked_objGet (slot h) : objGet (asked s ch) slot h = objGet s slot h := by simp [objGet]

@[simp] theorem asked_ctxGet (id) : ctxGet (asked s ch) id = ctxGet s id := by simp [ctxGet]

@[simp] theorem asked_ownerCheck (slot o) : ownerCheck (asked s ch) slot o = ownerCheck s slot o := by
  simp only [ownerCheck, asked_ctxGet]

@[simp] theorem asked_useOf (slot) : useOf (asked s ch) slot = useOf s slot := by simp [useOf]

@[simp] theorem asked_fenceNamed (f door) : fenceNamed (asked s ch) f door = fenceNamed s f door := by simp [fenceNamed]

/-- The entry of a space, but for the port of its last request. -/
theorem asked_spaceGet (slot) : ∃ port, spaceGet (asked s ch) slot = { spaceGet s slot with port := port } := by
  have hmod := spaceGet_spaceMod (broughtBy s ch) ch.slot slot fun x => { x with port := ch.port }
  rw [spaceGet_broughtBy] at hmod
  refine hmod ▸ ?_
  split
  · exact ⟨_, rfl⟩
  · exact ⟨_, rfl⟩

end Brought

/-! ### What notices and waits leave of the spaces -/

/-- A state after the waits of commands were evaluated: descriptors are read, and commands take their bodies or end. -/
def WaitWork (s t : State) : Prop :=
  ∃ mem ciph err freeCtr col cmds, t = { s with
    mem := mem, ciph := ciph, err := err, freeCtr := freeCtr, col := col, sp := { s.sp with cmds := cmds } }

namespace WaitWork

theorem refl (s : State) : WaitWork s s := ⟨_, _, _, _, _, _, rfl⟩

theorem trans {s t u : State} (h : WaitWork s t) (k : WaitWork t u) : WaitWork s u := by
  obtain ⟨_, _, _, _, _, _, rfl⟩ := h
  obtain ⟨_, _, _, _, _, _, rfl⟩ := k
  exact ⟨_, _, _, _, _, _, rfl⟩

theorem of_read {s t : State} (h : ReadWork s t) : WaitWork s t := by
  obtain ⟨_, _, _, _, rfl⟩ := h
  exact ⟨_, _, _, _, _, _, rfl⟩

theorem fences {s t : State} (h : WaitWork s t) : t.sp.fences = s.sp.fences := by
  obtain ⟨_, _, _, _, _, _, rfl⟩ := h
  rfl

end WaitWork

theorem cmdFail_waits (s : State) (c : Cmd) (r : Result) : WaitWork s (cmdFail s c r) := by
  unfold cmdFail cmdEnd
  split <;> exact ⟨_, _, _, _, _, _, rfl⟩

theorem ringRead_work (s : State) (q : Queue) (i : BitVec 32) (lo n : Nat) : ReadWork s (ringRead s q i lo n).st := by
  unfold ringRead
  dsimp only
  split
  · exact .refl s
  · exact readRuns_work _ _ s

theorem evalWait_waits (s : State) (cid : Nat) : WaitWork s (evalWait s cid) := by
  have hread : ∀ q i, WaitWork s (ringRead s q i 28 36).st := fun q i => .of_read (ringRead_work s q i 28 36)
  unfold evalWait
  dsimp only
  split
  · exact .refl s
  · split
    · split
      · exact .refl s
      · exact cmdFail_waits s _ _
      · split
        · exact .refl s
        · split
          · exact ⟨_, _, _, _, _, _, rfl⟩
          · split
            · exact (hread _ _).trans ⟨_, _, _, _, _, _, rfl⟩
            · exact (hread _ _).trans (cmdFail_waits _ _ _)
    · exact .refl s

theorem evalWaits_waits (s : State) : WaitWork s (evalWaits s) := by
  unfold evalWaits
  generalize s.sp.cmds.map (·.id) = l
  induction l generalizing s with
  | nil => exact .refl s
  | cons cid l ih => exact (evalWait_waits s cid).trans (ih _)

/-- A message under k_out of a channel leaves the spaces, but for the bindings of a channel that it ends. -/
theorem chanSent_sp (s : State) (q : Nat) : ∃ slots, (chanSent s q).sp = { s.sp with slots := slots } := by
  unfold chanSent endChannel
  repeat' split
  all_goals exact ⟨_, rfl⟩

/-- A notice leaves all of the spaces but the notices held, and the bindings of a channel that it ends. -/
theorem sendNotice_sp (s : State) (slot : Nat) (n : Note) :
    ∃ notices slots, (sendNotice s slot n).sp = { s.sp with notices := notices, slots := slots } := by
  have hon : ∀ p, ∃ notices slots, (noticeOn s p slot n).sp = { s.sp with notices := notices, slots := slots } := fun p => by
    unfold noticeOn
    repeat' split
    · exact ⟨_, _, (sendMsg_frame s p _).sp⟩
    · obtain ⟨slots, hslots⟩ := chanSent_sp (sendMsg s p _) _
      exact ⟨_, slots, by rw [hslots, (sendMsg_frame s p _).sp]⟩
    · exact ⟨_, _, rfl⟩
    · exact ⟨_, _, rfl⟩
  unfold sendNotice noticeHold
  dsimp only
  repeat' split
  · exact hon _
  · exact hon _
  · exact ⟨_, _, rfl⟩
  · exact ⟨_, _, rfl⟩

@[simp] theorem sendNotice_fences (s : State) (slot : Nat) (n : Note) : (sendNotice s slot n).sp.fences = s.sp.fences := by
  obtain ⟨_, _, h⟩ := sendNotice_sp s slot n
  rw [h]

theorem sendNotices_fences {α : Type} (slot : Nat) (note : α → Note) : ∀ (l : List α) (s : State),
    (l.foldl (fun t v => sendNotice t slot (note v)) s).sp.fences = s.sp.fences
  | [], _ => rfl
  | v :: l, s => by rw [List.foldl_cons, sendNotices_fences slot note l, sendNotice_fences]

end Sys2Proof.Machine
end

section
/-! SUPPORT. What each fence and object request does to the fences and objects of its space. -/

namespace Sys2Proof.Machine

variable {s : State} {slot : Nat} {h : BitVec 32} {f : Fence}

/-! ### The fence that a handle names -/

theorem fenceGet_mem (hget : fenceGet s slot h = some f) : f ∈ s.sp.fences := by
  unfold fenceGet at hget
  split at hget
  · exact List.mem_of_find?_eq_some hget
  · cases hget

theorem fenceNamedBy_live (hget : fenceGet s slot h = some f) (hs : f.struck = false) : fenceNamedBy s slot h = .ok f := by
  simp [fenceNamedBy, hget, hs]

theorem fenceNamedBy_struck (hget : fenceGet s slot h = some f) (hs : f.struck = true) : fenceNamedBy s slot h = .error .objectStruck := by
  simp [fenceNamedBy, hget, hs]

theorem fenceNamedBy_none (hget : fenceGet s slot h = none) : fenceNamedBy s slot h = .error .badDescriptor := by
  simp [fenceNamedBy, hget]

/-- The fence of a handle after a change that keeps numbers and spaces. -/
theorem fenceGet_map {t : State} {g : Fence → Fence} (hidx : ∀ y ∈ s.sp.fences, (g y).idx = y.idx)
    (hspace : ∀ y ∈ s.sp.fences, (g y).space = y.space) (ht : t.sp.fences = s.sp.fences.map g) :
    fenceGet t slot h = (fenceGet s slot h).map g := by
  unfold fenceGet
  rw [ht, List.find?_map]
  split
  · exact congrArg _ (List.find?_congr fun y hy => by simp [hidx y hy, hspace y hy])
  · rfl

/-! ### Notices that a fence owes -/

/-- The notices that a fence owes. -/
def fenceDue (f : Fence) : List Word := if f.failed then f.notifies else f.notifies.filter fun v => decide (v ≤ f.value)

theorem fenceNotices_fences (s : State) (f : Fence) : (fenceNotices s f).sp.fences = s.sp.fences.map fun y =>
    if y.idx = f.idx then { y with notifies := y.notifies.filter fun v => !((fenceDue f).contains v) } else y :=
  sendNotices_fences f.space _ _ _

/-- A fence without the notices that it owes. -/
def fencePaid (f : Fence) : Fence := { f with notifies := f.notifies.filter fun v => !((fenceDue f).contains v) }

/-- A live fence all of whose notices are above its value owes none. -/
theorem fencePaid_eq (hf : f.failed = false) (hn : ∀ n ∈ f.notifies, f.value < n) : fencePaid f = f := by
  have hdue : fenceDue f = [] := by
    rw [fenceDue, hf]
    exact List.filter_eq_nil_iff.2 fun n hmem => by simpa using hn n hmem
  simp [fencePaid, hdue]

/-- A failed fence owes all of its notices. -/
theorem fencePaid_failed (hf : f.failed = true) : (fencePaid f).notifies = [] := by
  rw [fencePaid, fenceDue, hf]
  exact List.filter_eq_nil_iff.2 fun n hmem => by simpa using hmem

/-! ### A change of one fence, and its notices -/

section Change

variable (hget : fenceGet s slot h = some f) (huniq : ∀ g ∈ s.sp.fences, g.idx = f.idx → g = f) {φ : Fence → Fence}
include huniq

theorem fenceNotices_mod (hidx : (φ f).idx = f.idx) :
    (fenceNotices { s with sp := fenceMod s.sp f.idx φ } (φ f)).sp.fences =
      s.sp.fences.map fun y => if y.idx = f.idx then fencePaid (φ f) else y := by
  rw [fenceNotices_fences]
  simp only [fenceMod, List.map_map]
  refine List.map_congr_left fun y hy => ?_
  by_cases hi : y.idx = f.idx
  · obtain rfl := huniq y hy hi
    simp [hidx, fencePaid]
  · simp [hi, hidx]

include hget

theorem fenceMod_find (hidx : (φ f).idx = f.idx) : (fenceMod s.sp f.idx φ).fences.find? (fun y => y.idx == f.idx) = some (φ f) := by
  have hmod : (fenceMod s.sp f.idx φ).fences = s.sp.fences.map fun y => if y.idx = f.idx then φ y else y := rfl
  cases hfind : (fenceMod s.sp f.idx φ).fences.find? (fun y => y.idx == f.idx) with
  | none =>
    have hmem : φ f ∈ (fenceMod s.sp f.idx φ).fences := hmod ▸ List.mem_map.2 ⟨f, fenceGet_mem hget, if_pos rfl⟩
    exact absurd hidx (by simpa using List.find?_eq_none.1 hfind _ hmem)
  | some g =>
    obtain ⟨y, hy, rfl⟩ := List.mem_map.1 (hmod ▸ List.mem_of_find?_eq_some hfind)
    have hg := List.find?_some hfind
    by_cases hi : y.idx = f.idx
    · rw [if_pos hi, huniq y hy hi]
    · simp [hi] at hg

/-- The fence of a handle after a change of it and its notices. -/
theorem fenceGet_change {t : State} (hidx : (φ f).idx = f.idx) (hspace : (φ f).space = f.space)
    (ht : t.sp.fences = s.sp.fences.map fun y => if y.idx = f.idx then fencePaid (φ f) else y) :
    fenceGet t slot h = some (fencePaid (φ f)) := by
  have hkept : ∀ y ∈ s.sp.fences, y.idx = f.idx → (fencePaid (φ f)).idx = y.idx ∧ (fencePaid (φ f)).space = y.space := fun y hy hi => by
    rw [huniq y hy hi]
    exact ⟨hidx, hspace⟩
  rw [fenceGet_map (fun y hy => ?_) (fun y hy => ?_) ht, hget, Option.map_some, if_pos rfl]
  · split
    · next hi => exact (hkept y hy hi).1
    · rfl
  · split
    · next hi => exact (hkept y hy hi).2
    · rfl

end Change

section Signal

variable (hget : fenceGet s slot h = some f) (huniq : ∀ g ∈ s.sp.fences, g.idx = f.idx → g = f)
include hget huniq

/-- What a signal leaves of the fences: the maximum stands, and the notices owed are sent. -/
theorem fenceSignal_fences (v : Word) (hf : f.failed = false) : (fenceSignal s f.idx v).sp.fences =
    s.sp.fences.map fun y => if y.idx = f.idx then fencePaid { f with value := if v ≤ f.value then f.value else v } else y := by
  have hφ : (if f.failed || decide (v ≤ f.value) then f else { f with value := v }) =
      { f with value := if v ≤ f.value then f.value else v } := by
    by_cases hv : v ≤ f.value
    · simp [hv]
    · simp [hf, hv]
  have hfind := fenceMod_find (φ := fun y => if y.failed || decide (v ≤ y.value) then y else { y with value := v }) hget huniq
    (by split <;> rfl)
  have hmod := fenceNotices_mod (φ := fun y => if y.failed || decide (v ≤ y.value) then y else { y with value := v }) huniq
    (by split <;> rfl)
  rw [hφ] at hmod hfind
  unfold fenceSignal
  dsimp only
  rw [hfind]
  exact hmod

/-- What a failure leaves of the fences. -/
theorem fenceFail_fences (rec : List Byte) (hf : f.failed = false) : (fenceFail s f.idx rec).sp.fences =
    s.sp.fences.map fun y => if y.idx = f.idx then fencePaid { f with failed := true, record := rec } else y := by
  have hφ : (if f.failed then f else { f with failed := true, record := rec }) = { f with failed := true, record := rec } := by simp [hf]
  have hfind := fenceMod_find (φ := fun y => if y.failed then y else { y with failed := true, record := rec }) hget huniq
    (by split <;> rfl)
  have hmod := fenceNotices_mod (φ := fun y => if y.failed then y else { y with failed := true, record := rec }) huniq
    (by split <;> rfl)
  rw [hφ] at hmod hfind
  unfold fenceFail
  dsimp only
  rw [hfind]
  exact hmod

end Signal

/-! ### Requests answered at once -/

/-- A request that is taken and waits for no fill acts and replies. -/
theorem next_spaceRequest {ch : Chan} (r : SpaceReq) {a : Answer} (hmay : mayAsk s ch) (hw : waitingRow s ch r = none)
    (ha : spaceDo ch.slot r (asked s ch) = a) :
    (.next (spaceRequest ch r s) : Host.Outcome State Fault Refusal) = .next (spaceReply a.st ch a.status a.data) := by
  rw [spaceRequest_may ch r s hmay hw, ha]

theorem fenceSignalReq_live {v : Word} (hget : fenceGet s slot h = some f) (hs : f.struck = false) (hf : f.failed = false) :
    fenceSignalReq slot h v s = ⟨evalWaits (fenceSignal s f.idx v), .ok, []⟩ := by
  simp [fenceSignalReq, fenceNamedBy_live hget hs, hf]

theorem fenceSignalReq_failed {v : Word} (hget : fenceGet s slot h = some f) (hs : f.struck = false) (hf : f.failed = true) :
    fenceSignalReq slot h v s = ⟨s, .depFailed, []⟩ := by
  simp [fenceSignalReq, fenceNamedBy_live hget hs, hf]

theorem fenceFailReq_live (hget : fenceGet s slot h = some f) (hs : f.struck = false) :
    fenceFailReq slot h s = ⟨evalWaits (fenceFail s f.idx abortRecord), .ok, []⟩ := by
  simp [fenceFailReq, fenceNamedBy_live hget hs]

theorem fenceNotify_live {v : Word} (hget : fenceGet s slot h = some f) (hs : f.struck = false) : fenceNotify slot h v s =
    ⟨fenceNotices { s with sp := fenceMod s.sp f.idx fun _ => { f with notifies := f.notifies ++ [v] } } { f with notifies := f.notifies ++ [v] },
      .ok, []⟩ := by
  simp [fenceNotify, fenceNamedBy_live hget hs]

theorem fenceDestroyReq_live (hget : fenceGet s slot h = some f) (hs : f.struck = false) :
    fenceDestroyReq slot h s = ⟨fenceDestroy s f, .ok, []⟩ := by
  simp [fenceDestroyReq, fenceNamedBy_live hget hs]

/-- A fence that nothing names and that owes no notice is released. -/
theorem fenceDestroy_free (hnamed : fenceNamed s f s.sp.doors = false) (hn : f.notifies = []) :
    fenceDestroy s f = { s with sp := { s.sp with fences := s.sp.fences.filter fun y => y.idx != f.idx } } := by
  simp [fenceDestroy, hnamed, hn]

/-- A fence that a command names is struck. -/
theorem fenceDestroy_named (hnamed : fenceNamed s f s.sp.doors = true) (hn : f.notifies = []) :
    fenceDestroy s f = { s with sp := fenceMod s.sp f.idx fun y => { y with struck := true, notifies := [], door := s.sp.doors } } := by
  simp [fenceDestroy, hnamed, hn]

/-- A live fence with an owner and a value. -/
def newFence (k slot : Nat) (o : Owner) (v : Word) : Fence :=
  { idx := k, space := slot, owner := o, value := v, failed := false, record := List.replicate 64 0, struck := false, notifies := [] }

/-- FENCE_CREATE below the quota: a live fence under a number not in use. -/
theorem fenceCreate_makes {o : Owner} {v : Word} (ho : ownerCheck s slot o = none) (hq : (useOf s slot).2.2.2 < (spaceGet s slot).qFence)
    (hlen : s.sp.fences.length < 1048576) : ∃ k, k < 2 ^ 28 ∧ (∀ f ∈ s.sp.fences, f.idx ≠ k) ∧
      fenceCreate slot o v s = ⟨{ s with freeCtr := s.freeCtr + 1, sp := { s.sp with fences := s.sp.fences ++ [newFence k slot o v] } },
        .ok, natLe 4 (2 * 2 ^ 28 + k)⟩ := by
  obtain ⟨hlt, hfree⟩ := freeIndex_free s (bound := 2 ^ 28) (us := s.sp.fences.map (·.idx))
    (used := fun i => s.sp.fences.any fun f => f.idx == i) (fun i hi => by simpa using hi) (by simp; omega)
  rw [List.length_map] at hlt hfree
  refine ⟨_, hlt, fun f hf hidx => ?_, ?_⟩
  · simp only [List.any_eq_false, beq_iff_eq] at hfree
    exact hfree f hf hidx
  · rw [fenceCreate, ho]
    exact if_neg (by omega)

/-- The number in a handle of a fence. -/
theorem fenceHandle_parts {k : Nat} (hk : k < 2 ^ 28) :
    (fenceHandle k).toNat = 2 * 2 ^ 28 + k ∧ (fenceHandle k).toNat / 2 ^ 28 = 2 ∧ (fenceHandle k).toNat % 2 ^ 28 = k := by
  have h : (fenceHandle k).toNat = 2 * 2 ^ 28 + k := by
    rw [fenceHandle, BitVec.toNat_ofNat]
    omega
  omega

end Sys2Proof.Machine
end

section
/-! CLAIMS. Fences. -/

namespace Sys2Proof.Machine

/-- An owner of the space passes the check of owners. -/
theorem ownerCheck_ofSpace {s : State} {slot : Nat} {o : Owner}
    (h : o = .space ∨ ∃ id x, o = .ctx id ∧ ctxGet s id = some x ∧ x.space = slot ∧ x.dying = false) : ownerCheck s slot o = none := by
  rcases h with rfl | ⟨id, x, rfl, hget, hspace, hdying⟩
  · rfl
  · simp [ownerCheck, hget, hspace, hdying]

/-- Settles O60: a new fence has a number not in use; a signal changes the fence of its handle alone, by the maximum. -/
theorem fencesOnlyRise : Obligations.FencesOnlyRise := by
  refine ⟨fun s ch o v hmay ho hq hlen => ?create, fun s ch h v f hmay hget hs hf huniq => ?signal,
    fun s ch h v f hmay hget hs hf hv hn huniq => ?below, fun s ch h v f hmay hget hs hf => ?failed⟩
  case create =>
    obtain ⟨port, hspace⟩ := asked_spaceGet s ch ch.slot
    obtain ⟨k, hk, hnew, hmade⟩ := fenceCreate_makes (s := asked s ch) (slot := ch.slot) (o := o) (v := v)
      (by rw [asked_ownerCheck]; exact ownerCheck_ofSpace ho) (by rw [asked_useOf, hspace]; exact hq) (by simpa using hlen)
    obtain ⟨hval, hdiv, hmod⟩ := fenceHandle_parts hk
    have hnew' : ∀ f ∈ s.sp.fences, f.idx ≠ k := by simpa using hnew
    have hnone : s.sp.fences.find? (fun f => f.idx == k && f.space == ch.slot) = none :=
      List.find?_eq_none.2 fun f hf => by simp [hnew' f hf]
    have hgo : exec (.fenceCreate ch o v) s = _ := next_spaceRequest (.fenceCreate o v) hmay rfl hmade
    rw [← hval] at hgo
    refine ⟨_, newFence k ch.slot o v, fenceHandle k, hgo, ?_, ?_, rfl, rfl, rfl, fun g hg => ?_⟩
    · rw [fenceGet, if_pos hdiv, hmod, hnone]
    · rw [fenceGet, if_pos hdiv, hmod]
      simp [hnone, newFence]
    · simpa using Or.inl hg
  case signal =>
    have hget' : fenceGet (asked s ch) ch.slot h = some f := by simpa using hget
    have huniq' : ∀ g ∈ (asked s ch).sp.fences, g.idx = f.idx → g = f := by simpa using huniq
    have hfences := (evalWaits_waits (fenceSignal (asked s ch) f.idx v)).fences
    rw [fenceSignal_fences hget' huniq' v hf] at hfences
    have hgo : exec (.fenceSignal ch h v) s = _ := next_spaceRequest (.fenceSignal h v) hmay rfl (fenceSignalReq_live hget' hs hf)
    have hafter := fenceGet_change (φ := fun _ => { f with value := if v ≤ f.value then f.value else v }) hget' huniq' rfl rfl hfences
    refine ⟨_, _, hgo, hafter, hf, rfl, ?_⟩
    simp only [fencePaid]
    split
    · exact BitVec.le_refl _
    · next hv => exact BitVec.le_of_lt (BitVec.not_le.1 hv)
  case below =>
    have hget' : fenceGet (asked s ch) ch.slot h = some f := by simpa using hget
    have huniq' : ∀ g ∈ (asked s ch).sp.fences, g.idx = f.idx → g = f := by simpa using huniq
    have hgo : exec (.fenceSignal ch h v) s = _ := next_spaceRequest (.fenceSignal h v) hmay rfl (fenceSignalReq_live hget' hs hf)
    refine ⟨_, hgo, ?_⟩
    rw [(evalWaits_waits _).fences, fenceSignal_fences hget' huniq' v hf, if_pos hv, fencePaid_eq hf hn, asked_fences]
    refine (List.map_congr_left fun g hg => ?_).trans (List.map_id _)
    split
    · next hi => exact (huniq g hg hi).symm
    · rfl
  case failed =>
    have hget' : fenceGet (asked s ch) ch.slot h = some f := by simpa using hget
    have hgo : exec (.fenceSignal ch h v) s = _ := next_spaceRequest (.fenceSignal h v) hmay rfl (fenceSignalReq_failed hget' hs hf)
    exact ⟨_, _, hgo, asked_fences s ch⟩

end Sys2Proof.Machine
end

section
/-! SUPPORT. Requests of a space that are discarded, and those on its objects. -/

namespace Sys2Proof.Machine

variable {s : State} {ch : Chan}

/-- Each of the fifteen requests is one request of a space channel. -/
theorem exec_asksIn {i : Instr} (h : asksIn ch i) : ∃ r, ∀ s, exec i s = .next (spaceRequest ch r s) := by
  rcases h with ⟨_, rfl⟩ | ⟨_, rfl⟩ | ⟨_, _, rfl⟩ | ⟨_, rfl⟩ | ⟨_, _, _, _, rfl⟩ | ⟨_, rfl⟩ | ⟨_, _, rfl⟩ | ⟨_, _, _, _, _, rfl⟩ | ⟨_, rfl⟩ |
    ⟨_, _, rfl⟩ | ⟨_, rfl⟩ | ⟨_, _, rfl⟩ | ⟨_, rfl⟩ | ⟨_, rfl⟩ | ⟨_, _, rfl⟩
  all_goals exact ⟨_, fun _ => rfl⟩

theorem spaceRequest_dead (r : SpaceReq) (h : heard s.lmx ch.port = false) : spaceRequest ch r s = s := by simp [spaceRequest, h]

/-- A request without the authority that its space asks for is discarded and counted. -/
theorem spaceRequest_refused (r : SpaceReq) (h : heard s.lmx ch.port = true) (hb : (spaceGet s ch.slot).bound = true)
    (ha : ch.auth.map (·.1) ≠ spaceParty s ch.slot) : spaceRequest ch r s = refuseMsg s ch.port := by
  unfold spaceRequest
  rw [if_neg (by simp [h]), if_neg (by simp [hb])]
  split
  · next hp hn => simp [hp, hn] at ha
  · next q p m hp hs =>
    rw [if_neg fun he => ha (by simp [hp, hs, he])]
  · rfl

/-- A request whose message is not authentic, or old, does nothing. -/
theorem spaceRequest_stale (r : SpaceReq) {q : Nat} {m : MsgAuth} (h : heard s.lmx ch.port = true) (hb : (spaceGet s ch.slot).bound = true)
    (hp : spaceParty s ch.slot = some q) (ha : ch.auth = some (q, m))
    (hm : (chanOf s q).bound = false ∨ m.ok = false ∨ ∃ n, (chanOf s q).lastIn = some n ∧ m.counter ≤ n) : spaceRequest ch r s = s := by
  unfold spaceRequest
  rw [if_neg (by simp [h]), if_neg (by simp [hb])]
  simp only [hp, ha, if_true]
  refine partyTake_stale q m _ s (hm.imp_right (Or.imp_right ?_))
  rintro ⟨n, hn, hle⟩
  rw [show (s.keys.channels.getD q {}).lastIn = some n from hn]
  simpa using hle

/-! ### Objects -/

theorem objAlloc_bad {slot range size addr : Nat} {o : Owner} {z : Bool} (h : size = 0 ∨ size % 2 ^ 21 ≠ 0 ∨ addr % 2 ^ 21 ≠ 0 ∨
    2 ^ 48 < addr + size ∨ 31 < range ∨ (rangeCfg s range).mode = 0) : objAlloc slot range size addr o z s = ⟨s, .badDescriptor, []⟩ := by
  unfold objAlloc
  refine if_pos ?_
  simp only [Bool.or_eq_true, decide_eq_true_eq]
  tauto

/-- The second-level tables of a space do not hang on the numbers of its objects. -/
theorem l2Used_idx (o : Obj) (k : Nat) (l : List Obj) (slot : Nat) : l2Used ({ o with idx := k } :: l) slot = l2Used (o :: l) slot := by
  unfold l2Used l2Regions
  by_cases h : o.space == slot <;> simp [List.filter_cons, h]

/-- OBJ_ALLOC at a free address, with pages and quotas enough. -/
theorem objAlloc_makes {slot range size addr : Nat} (hs : size ≠ 0) (hsize : size % 2 ^ 21 = 0) (ha : addr ≠ 0) (haddr : addr % 2 ^ 21 = 0)
    (hend : addr + size ≤ 2 ^ 48) (hr : range ≤ 31) (hmode : (rangeCfg s range).mode ≠ 0) (hmap : mayMap s slot range = true)
    (hfree : ∀ o ∈ s.sp.objs, o.space = slot → ∀ e ∈ o.pages, runsMeet (addr / 2 ^ 21, addr / 2 ^ 21 + size / 2 ^ 21) (e.vpn, e.vpn + e.n) = false)
    (hq : (useOf s slot).2.2.1 < (spaceGet s slot).qObj) (hpages : size / 2 ^ 21 ≤ (freePages s range).length)
    (hlen : s.sp.objs.length < 1048576)
    (hl2 : l2Used ({ idx := 0, space := slot, owner := .space, range := range, vpn := addr / 2 ^ 21
                     pages := extentsOf (addr / 2 ^ 21) ((freePages s range).take (size / 2 ^ 21)), struck := none } :: s.sp.objs) slot ≤
      (spaceGet s slot).qL2) :
    ∃ k, k < 2 ^ 28 ∧ (∀ o ∈ s.sp.objs, o.idx ≠ k) ∧
      objAlloc slot range size addr .space false s = ⟨{ s with freeCtr := s.freeCtr + 1, sp := { s.sp with objs :=
        { idx := k, space := slot, owner := .space, range := range, vpn := addr / 2 ^ 21
          pages := extentsOf (addr / 2 ^ 21) ((freePages s range).take (size / 2 ^ 21)), struck := none } :: s.sp.objs } },
        .ok, natLe 4 (2 ^ 28 + k) ++ natLe 8 (addr / 2 ^ 21 * 2 ^ 21)⟩ := by
  obtain ⟨hlt, hnew⟩ := freeIndex_free s (bound := 2 ^ 28) (us := s.sp.objs.map (·.idx))
    (used := fun i => s.sp.objs.any fun o => o.idx == i) (fun i hi => by simpa using hi) (by simp; omega)
  rw [List.length_map] at hlt hnew
  refine ⟨_, hlt, fun o ho hidx => ?_, ?_⟩
  · simp only [List.any_eq_false, beq_iff_eq] at hnew
    exact hnew o ho hidx
  · have hlaps : (s.sp.objs.filter fun o => o.space == slot && o.pages.any fun e =>
        runsMeet (addr / 2 ^ 21, addr / 2 ^ 21 + size / 2 ^ 21) (e.vpn, e.vpn + e.n)) = [] :=
      List.filter_eq_nil_iff.2 fun o ho => by
        simp only [Bool.and_eq_true, beq_iff_eq, List.any_eq_true, not_and, not_exists, Bool.not_eq_true]
        exact fun hspace e he => hfree o ho hspace e he
    have hlong : ((freePages s range).take (size / 2 ^ 21)).length = size / 2 ^ 21 := by simp; omega
    unfold objAlloc
    rw [if_neg (by simp [hs, hsize, haddr, hmode, ownerCheck]; omega)]
    simp only [hmap, Bool.not_true, Bool.false_eq_true, if_false, if_neg ha, hlaps, List.any_nil, List.isEmpty_nil, ownerCheck, hlong]
    rw [if_neg]
    · rfl
    · have hl2' := (l2Used_idx _ (freeIndex s (2 ^ 28) s.sp.objs.length fun i => s.sp.objs.any fun o => o.idx == i) _ _).trans_le hl2
      simp only [Option.isSome_none, Bool.false_or, Bool.or_eq_true, decide_eq_true_eq, not_or, not_le, not_lt]
      exact ⟨⟨hq, le_refl _⟩, hl2'⟩

end Sys2Proof.Machine
end

section
/-! CLAIMS. Object and fence requests. -/

namespace Sys2Proof.Machine

/-- Settles O59, request by request: each is answered by the space's state and by what its handle names. -/
theorem objectsAndFenceRequests : Obligations.ObjectsAndFenceRequests := by
  refine ⟨fun s ch i hi => ?taken, fun s ch h v i hmay hget hi => ?noFence, fun s ch range size addr o z hmay hbad => ?allocBad,
    fun s v ch range size addr hmay hv hs hsize ha haddr hend hr hmode hmap hfree hq hpages hlen hl2 => ?alloc,
    fun s ch h hmay hget => ?noObj, fun s ch h o hmay hget hs hheld => ?free, fun s ch h o hmay hget hs hheld => ?strike,
    fun s ch h f hmay hget hs hf huniq => ?fail, fun s ch h f hmay hget => ?query, fun s ch h v f hmay hget hs hf hv hn huniq => ?notify,
    fun s ch h f hmay hget hs hnamed hn => ?destroy, fun s ch h f hmay hget hs hnamed hn => ?held,
    fun s ch h v f hmay hget hs hf => ?failed, fun s ch o v hmay ho hq hlen => ?create, fun s ch h v f i hmay hget hs hi => ?struck⟩
  case taken =>
    obtain ⟨r, hr⟩ := exec_asksIn hi
    refine ⟨fun h => ?_, fun h hb => ?_, fun h hb ha => ?_, fun q m h hb hp ha hm => ?_, fun h hb hstate ha => ?_⟩
    · rw [hr, spaceRequest_dead r h]
    · rw [hr, spaceRequest_unbound ch r s h hb]
    · rw [hr, spaceRequest_refused r h hb ha]
    · rw [hr, spaceRequest_stale r h hb hp ha hm]
    · rw [hr, spaceRequest_dying ch r s h hb ha hstate]
  case noFence =>
    have hnone := fenceNamedBy_none ((asked_fenceGet s ch ch.slot h).trans hget)
    rcases hi with rfl | rfl | rfl | rfl | rfl
    · exact next_spaceRequest (.fenceDestroy h) hmay rfl (a := ⟨_, _, _⟩) (by simp only [spaceDo, fenceDestroyReq, hnone])
    · exact next_spaceRequest (.fenceSignal h v) hmay rfl (a := ⟨_, _, _⟩) (by simp only [spaceDo, fenceSignalReq, hnone])
    · exact next_spaceRequest (.fenceFail h) hmay rfl (a := ⟨_, _, _⟩) (by simp only [spaceDo, fenceFailReq, hnone])
    · exact next_spaceRequest (.fenceQuery h) hmay rfl (a := ⟨_, _, _⟩) (by simp only [spaceDo, fenceQuery, asked_fenceGet, hget])
    · exact next_spaceRequest (.fenceNotify h v) hmay rfl (a := ⟨_, _, _⟩) (by simp only [spaceDo, fenceNotify, hnone])
  case allocBad => exact next_spaceRequest (.objAlloc range size addr o z) hmay rfl (objAlloc_bad (by rw [asked_rangeCfg]; exact hbad))
  case alloc =>
    subst hv
    obtain ⟨port, hspace⟩ := asked_spaceGet s ch ch.slot
    obtain ⟨k, hk, hnew, hmade⟩ := objAlloc_makes (s := asked s ch) (slot := ch.slot) hs hsize ha haddr hend hr
      (by rw [asked_rangeCfg]; exact hmode) hmap (by rw [asked_objs]; exact hfree) (by rw [asked_useOf, hspace]; exact hq) hpages
      (by rw [asked_objs]; exact hlen) (by rw [asked_objs, hspace]; exact hl2)
    rw [asked_objs] at hnew hmade
    exact ⟨k, hk, hnew, next_spaceRequest (.objAlloc range size addr .space false) hmay rfl hmade⟩
  case noObj => exact next_spaceRequest (.objFree h) hmay rfl (a := ⟨_, _, _⟩) (by simp only [spaceDo, asked_objGet, hget])
  case free =>
    have hdo : spaceDo ch.slot (.objFree h) (asked s ch) = ⟨objFree (asked s ch) o, .ok, []⟩ := by simp [spaceDo, asked_objGet, hget, hs]
    rw [objFree, asked_doors, hheld, if_neg Bool.false_ne_true, asked_objs] at hdo
    exact next_spaceRequest (.objFree h) hmay rfl hdo
  case strike =>
    have hdo : spaceDo ch.slot (.objFree h) (asked s ch) = ⟨objFree (asked s ch) o, .ok, []⟩ := by simp [spaceDo, asked_objGet, hget, hs]
    rw [objFree, asked_doors, hheld, if_pos rfl, asked_objs] at hdo
    have hgo : exec (.objFree ch h) s = _ := next_spaceRequest (.objFree h) hmay rfl hdo
    refine ⟨_, hgo, broughtBy_mem s ch, fun y hy hidx => ?_⟩
    obtain ⟨z, -, rfl⟩ := List.mem_map.1 hy
    by_cases hz : z.idx = o.idx
    · rw [if_pos hz]
    · rw [if_neg hz] at hidx
      exact absurd hidx hz
  case fail =>
    have hget' := (asked_fenceGet s ch ch.slot h).trans hget
    have huniq' : ∀ g ∈ (asked s ch).sp.fences, g.idx = f.idx → g = f := by rw [asked_fences]; exact huniq
    have hfences := (evalWaits_waits (fenceFail (asked s ch) f.idx abortRecord)).fences
    rw [fenceFail_fences hget' huniq' abortRecord hf] at hfences
    have hgo : exec (.fenceFail ch h) s = _ := next_spaceRequest (.fenceFail h) hmay rfl (fenceFailReq_live hget' hs)
    have hafter := fenceGet_change (φ := fun _ => { f with failed := true, record := abortRecord }) hget' huniq' rfl rfl hfences
    exact ⟨_, _, hgo, hafter, rfl, rfl, rfl, fencePaid_failed rfl⟩
  case query => exact next_spaceRequest (.fenceQuery h) hmay rfl (a := ⟨_, _, _⟩) (by simp only [spaceDo, fenceQuery, asked_fenceGet, hget])
  case notify =>
    have hget' := (asked_fenceGet s ch ch.slot h).trans hget
    have huniq' : ∀ g ∈ (asked s ch).sp.fences, g.idx = f.idx → g = f := by rw [asked_fences]; exact huniq
    have hfences := fenceNotices_mod (φ := fun _ => { f with notifies := f.notifies ++ [v] }) huniq' rfl
    have hgo : exec (.fenceNotify ch h v) s = _ := next_spaceRequest (.fenceNotify h v) hmay rfl (fenceNotify_live hget' hs)
    have hafter := fenceGet_change (φ := fun _ => { f with notifies := f.notifies ++ [v] }) hget' huniq' rfl rfl hfences
    have habove : ∀ n ∈ f.notifies ++ [v], f.value < n := by simpa [or_imp, forall_and] using And.intro hn hv
    rw [fencePaid_eq (f := { f with notifies := f.notifies ++ [v] }) hf habove] at hafter
    exact ⟨_, _, hgo, hafter, rfl, rfl⟩
  case destroy =>
    have hfree := fenceDestroy_free (s := asked s ch) (f := f) (by rw [asked_doors, asked_fenceNamed]; exact hnamed) hn
    rw [asked_fences] at hfree
    have hdo := fenceDestroyReq_live ((asked_fenceGet s ch ch.slot h).trans hget) hs
    rw [hfree] at hdo
    exact next_spaceRequest (.fenceDestroy h) hmay rfl hdo
  case held =>
    have hstruck := fenceDestroy_named (s := asked s ch) (f := f) (by rw [asked_doors, asked_fenceNamed]; exact hnamed) hn
    rw [asked_doors] at hstruck
    have hdo := fenceDestroyReq_live ((asked_fenceGet s ch ch.slot h).trans hget) hs
    rw [hstruck] at hdo
    have hgo : exec (.fenceDestroy ch h) s = _ := next_spaceRequest (.fenceDestroy h) hmay rfl hdo
    refine ⟨_, hgo, fun g hg hidx => ?_⟩
    obtain ⟨y, -, rfl⟩ := List.mem_map.1 hg
    by_cases hy : y.idx = f.idx
    · rw [if_pos hy]
      exact ⟨rfl, rfl⟩
    · rw [if_neg hy] at hidx
      exact absurd hidx hy
  case failed =>
    exact next_spaceRequest (.fenceSignal h v) hmay rfl (fenceSignalReq_failed ((asked_fenceGet s ch ch.slot h).trans hget) hs hf)
  case create =>
    obtain ⟨port, hspace⟩ := asked_spaceGet s ch ch.slot
    obtain ⟨k, hk, hnew, hmade⟩ := fenceCreate_makes (s := asked s ch) (slot := ch.slot) (o := o) (v := v)
      ((asked_ownerCheck s ch ch.slot o).trans ho) (by rw [asked_useOf, hspace]; exact hq) (by rw [asked_fences]; exact hlen)
    rw [asked_fences] at hnew hmade
    exact ⟨k, hk, hnew, next_spaceRequest (.fenceCreate o v) hmay rfl hmade⟩
  case struck =>
    have hstruck := fenceNamedBy_struck ((asked_fenceGet s ch ch.slot h).trans hget) hs
    rcases hi with rfl | rfl | rfl | rfl
    · exact next_spaceRequest (.fenceSignal h v) hmay rfl (a := ⟨_, _, _⟩) (by simp only [spaceDo, fenceSignalReq, hstruck])
    · exact next_spaceRequest (.fenceFail h) hmay rfl (a := ⟨_, _, _⟩) (by simp only [spaceDo, fenceFailReq, hstruck])
    · exact next_spaceRequest (.fenceNotify h v) hmay rfl (a := ⟨_, _, _⟩) (by simp only [spaceDo, fenceNotify, hstruck])
    · exact next_spaceRequest (.fenceDestroy h) hmay rfl (a := ⟨_, _, _⟩) (by simp only [spaceDo, fenceDestroyReq, hstruck])

end Sys2Proof.Machine
end

section
/-! SUPPORT. The scans of the debug ports. -/

namespace Sys2Proof.Machine

/-- The state in which the scan of a debug port runs: its instruction is loaded, and no pin is driven. -/
def jtagAt (s : State) (ir : BitVec 8) : State := { s with jtag := { s.jtag with ir := ir, driving := false } }

section Scans

variable {s : State}

theorem memPort_now {addr : Nat} {w : Option Word} (hr : s.power.ready = true) (hw : debugWaits s addr = false) :
    memPort addr w s = memPortGo addr w s := by
  simp [memPort, hr, hw]

theorem memPort_waits {addr : Nat} {w : Option Word} (hr : s.power.ready = true) (hw : debugWaits s addr = true) :
    memPort addr w s = holdAccess s (.memPort addr w) := by
  simp [memPort, hr, hw]

theorem memPort_unready {addr : Nat} {w : Option Word} (hr : s.power.ready = false) : memPort addr w s = jtagDone s 0 .busy := by
  simp [memPort, hr]

theorem regPort_read {off : BitVec 24} {b : Boot} (hcut : regPortCut off.toNat = false) (hw : windowWaits s off.toNat 1 = false) :
    regPort off none b s = jtagDone (regRead s off.toNat).1 (regRead s off.toNat).2 .ok := by
  simp [regPort, regPortGo, hcut, hw]

theorem regPort_busy {off : BitVec 24} {v : Word} {b : Boot} (hcut : regPortCut off.toNat = false) (hw : windowWaits s off.toNat 1 = false)
    (hlock : s.lmx.lock ≠ 0) : regPort off (some v) b s = jtagDone s v .busy := by
  simp [regPort, regPortGo, hcut, hw, hlock]

theorem regPort_cut {off : BitVec 24} {w : Option Word} {b : Boot} (hcut : regPortCut off.toNat = true) :
    regPort off w b s = jtagDone s 0 .flowDenied := by
  simp [regPort, hcut]

theorem gripDbg_outside {g : Nat} {o : GripOp} (hg : 80 ≤ g) : gripDbg g o s = jtagDone s 0 .badDescriptor := if_pos hg

theorem gripDbg_inside {g : Nat} (hg : g < 80) :
    gripDbg g .halt s = jtagDone { s with gaf := { s.gaf with haltedGrips := g :: s.gaf.haltedGrips.filter (· != g) } } 0 .ok ∧
      gripDbg g .resume s = jtagDone { s with gaf := { s.gaf with haltedGrips := s.gaf.haltedGrips.filter (· != g) } } 0 .ok ∧
      gripDbg g .step s = jtagDone s 0 .ok ∧ gripDbg g .trace s = jtagDone (freeUse s 1) (freeAt s 0) .ok :=
  have hn : ¬80 ≤ g := Nat.not_le.2 hg
  ⟨if_neg hn, if_neg hn, if_neg hn, if_neg hn⟩

theorem intScan_outside {n : Nat} (hn : 120 ≤ n) : intScan n s = jtagDone s 0 .badDescriptor := if_pos hn

theorem intScan_inside {n : Nat} (hn : n < 120) : intScan n s =
    jtagDone (freeUse { s with gaf := { s.gaf with islands := modAt s.gaf.islands n fun x => { x with stopped := true } } } 1) (freeAt s 0) .ok :=
  if_neg (Nat.not_le.2 hn)

/-- Nothing follows a scan that changes the TAP and the debug status alone. -/
theorem settle_scan (h : settled s) (jtag : Jtag) (lc : LifeCycle) :
    settle { s with jtag := jtag, lc := lc } = { s with jtag := jtag, lc := lc } :=
  settle_idle _ h.1 h.2

end Scans

end Sys2Proof.Machine
end

section
/-! CLAIMS. The debug ports of the TAP. -/

namespace Sys2Proof.Machine

/-- Settles O55: each port is the scan of an instruction, which runs where its scope is open. -/
theorem debugPortsReachWhatIsOpen : Obligations.DebugPortsReachWhatIsOpen := by
  refine ⟨fun s u addr hl ho hr hu hw => ?memRead, fun s u addr v hl ho hr hu hw => ?memWrite, fun s u addr w hl ho hr hu hw => ?memWaits,
    fun s u addr w hl ho hr hu => ?memBusy, fun s u off b hl ho hw hcut hu => ?regRead, fun s u off v b hl ho hs hw hcut hlock hu => ?regBusy,
    fun s u off w b hl ho hs hcut hu => ?regCut, fun s g hl ho hg => ?halt, fun s g hl ho hg => ?resume, fun s u g hl ho hg hu => ?step,
    fun s g n o hl hg hn => ?outside, fun s n hl ho hn hlen => ?scan, fun s c k hl hs hc ho => ?closed⟩
  case memRead =>
    obtain rfl : u = jtagAt s 0x21 := hu
    have hgo := memPort_now (s := jtagAt s 0x21) (w := none) hr hw
    exact congrArg Host.Outcome.next ((jtagRun_open hl rfl ho).trans hgo)
  case memWrite =>
    obtain rfl : u = jtagAt s 0x21 := hu
    have hgo := memPort_now (s := jtagAt s 0x21) (w := some v) hr hw
    exact congrArg Host.Outcome.next ((jtagRun_open hl rfl ho).trans hgo)
  case memWaits =>
    obtain rfl : u = jtagAt s 0x21 := hu
    have hgo := memPort_waits (s := jtagAt s 0x21) (w := w) hr hw
    exact congrArg Host.Outcome.next ((jtagRun_open hl rfl ho).trans hgo)
  case memBusy =>
    obtain rfl : u = jtagAt s 0x21 := hu
    have hgo := memPort_unready (s := jtagAt s 0x21) (addr := addr) (w := w) hr
    exact congrArg Host.Outcome.next ((jtagRun_open hl rfl ho).trans hgo)
  case regRead =>
    obtain rfl : u = jtagAt s 0x22 := hu
    have hgo := regPort_read (s := jtagAt s 0x22) (b := b) hcut hw
    exact congrArg (fun t => Host.Outcome.next (settle t)) ((jtagRun_open hl rfl ho).trans hgo)
  case regBusy =>
    obtain rfl : u = jtagAt s 0x22 := hu
    have hgo := regPort_busy (s := jtagAt s 0x22) (v := v) (b := b) hcut hw hlock
    exact (congrArg (fun t => Host.Outcome.next (settle t)) ((jtagRun_open hl rfl ho).trans hgo)).trans (congrArg _ (settle_scan hs _ s.lc))
  case regCut =>
    obtain rfl : u = jtagAt s 0x22 := hu
    have hgo := regPort_cut (s := jtagAt s 0x22) (w := w) (b := b) hcut
    exact (congrArg (fun t => Host.Outcome.next (settle t)) ((jtagRun_open hl rfl ho).trans hgo)).trans (congrArg _ (settle_scan hs _ s.lc))
  case halt =>
    obtain ⟨hhalt, -⟩ := gripDbg_inside (s := jtagAt s 0x23) hg
    exact ⟨_, congrArg Host.Outcome.next ((jtagRun_open hl rfl ho).trans hhalt), List.mem_cons_self, rfl, rfl⟩
  case resume =>
    obtain ⟨-, hresume, -⟩ := gripDbg_inside (s := jtagAt s 0x23) hg
    refine ⟨_, congrArg Host.Outcome.next ((jtagRun_open hl rfl ho).trans hresume), fun hmem => ?_, rfl, rfl⟩
    exact absurd (List.mem_filter.1 hmem).2 (by simp)
  case step =>
    obtain rfl : u = jtagAt s 0x23 := hu
    obtain ⟨-, -, hstep, htrace⟩ := gripDbg_inside (s := jtagAt s 0x23) hg
    exact ⟨congrArg Host.Outcome.next ((jtagRun_open hl rfl ho).trans hstep), congrArg Host.Outcome.next ((jtagRun_open hl rfl ho).trans htrace)⟩
  case outside =>
    exact ⟨fun ho => congrArg Host.Outcome.next ((jtagRun_open hl rfl ho).trans (gripDbg_outside hg)),
      fun ho => congrArg Host.Outcome.next ((jtagRun_open hl rfl ho).trans (intScan_outside hn))⟩
  case scan =>
    have hstop : ((modAt s.gaf.islands n fun x => { x with stopped := true }).getD n {}).stopped = true := by rw [modAt_getD _ {} hlen]
    exact ⟨_, congrArg Host.Outcome.next ((jtagRun_open hl rfl ho).trans (intScan_inside hn)), hstop, rfl, rfl⟩
  case closed =>
    rcases hc with ⟨rfl, a, w, rfl⟩ | ⟨rfl, o, w, b, rfl⟩ | ⟨rfl, g, o, rfl⟩ | ⟨rfl, n, rfl⟩
    · exact congrArg Host.Outcome.next (jtagRun_closed hl rfl ho (by decide))
    · exact congrArg Host.Outcome.next ((congrArg settle (jtagRun_closed hl rfl ho (by decide))).trans (settle_scan hs _ _))
    · exact congrArg Host.Outcome.next (jtagRun_closed hl rfl ho (by decide))
    · exact congrArg Host.Outcome.next (jtagRun_closed hl rfl ho (by decide))

end Sys2Proof.Machine
end

section
/-! SUPPORT. The output window, key slots that are drawn and zeroized, and what waits for the random source. -/

namespace Sys2Proof.Machine

variable {s : State} {p : Port}

theorem quoteCheck_unidentified (h : s.keys.vaultOk = false) : quoteCheck s = some .keyAbsent := by simp [quoteCheck, h]

theorem quoteCheck_full (hv : s.keys.vaultOk = true) (h : 64 ≤ s.keys.quotes.length) : quoteCheck s = some .busy := by
  simp [quoteCheck, hv, h]

theorem quoteCheck_room (hv : s.keys.vaultOk = true) (h : s.keys.quotes.length < 64) : quoteCheck s = none := by
  simp [quoteCheck, hv, h]

theorem quoteReq_refused {st : Status} (h : quoteCheck s = some st) : quoteReq s = keyStatus s st := by simp [quoteReq, h]

/-- The end of the oldest quote's signing, with an entropy source that is well. -/
theorem quoteFinish_mgmt {r : QuoteReq} {rest : List QuoteReq} (hq : s.keys.quotes = r :: rest) (hr : r.dest = .mgmt)
    (he : s.keys.entropyOk = true) :
    quoteFinish s = { s with draws := s.draws + 1, keys := { s.keys with quotes := rest, drbgReqs := s.keys.drbgReqs + 1, outReady := true,
                                                                            out := quoteOf s r.nonce r.ek } } := by
  simp [quoteFinish, hq, hr, drawsWait, he, quoteDeliver, drawUse]

theorem quoteFinish_waits (he : s.keys.entropyOk = false) : quoteFinish s = s := by
  unfold quoteFinish
  split <;> simp [drawsWait, he]

/-- Below the end of the output window a read answers eight bytes. -/
theorem keyOutRead_within (h : s.keys.outPtr + 8 ≤ s.keys.out.length) :
    keyOutRead s = ⟨{ s with keys := { s.keys with outPtr := (s.keys.outPtr + 8) % 2 ^ 15 } }, .ok, (s.keys.out.drop s.keys.outPtr).take 8⟩ := by
  have hpad : 8 - ((s.keys.out.drop s.keys.outPtr).take 8).length = 0 := by simp; omega
  simp only [keyOutRead, hpad, List.replicate_zero, List.append_nil]

theorem certReq_places {b : Bool} {out : List Byte} (h : certBytes s b = out) :
    certReq b s = keyStatus { s with keys := { s.keys with outPtr := 0, out := out, outReady := true } } .ok := by
  rw [certReq, h]

theorem namedSlot_outside {slot : Nat} (h : slot < 32 ∨ 127 < slot) : namedSlot slot = false := by simp [namedSlot]; omega

theorem namedSlot_within {slot : Nat} (h : 32 ≤ slot) (h' : slot ≤ 127) : namedSlot slot = true := by simp [namedSlot, h, h']

theorem drawKey_draws {slot : Nat} {o : BitVec 8} (hn : namedSlot slot = true) (ho : drawOwnerOk s o = true)
    (hv : (s.keys.slots.getD slot {}).valid = false) :
    drawKey slot o s = keyStatus (drawUse (slotPut s slot { valid := true, use := .kdf, ownerSet := o, origin := 1, key := drawAt s 0 }) 1)
      .ok := by
  simp only [drawKey, hn, ho, hv]
  rfl

/-- A strike of one slot zeroizes it. -/
theorem slotStrike_one (s : State) (slot : Nat) (h : slot < 256) :
    (((slotStrike s fun i _ => i == slot).keys.slots).getD slot {}).valid = false := by
  cases hv : (s.keys.slots.getD slot {}).valid <;> simp_all [slotStrike]

/-- A strike of one slot leaves the others. -/
theorem slotStrike_others (s : State) {slot i : Nat} (h : i < 256) (hne : i ≠ slot) :
    ((slotStrike s fun i _ => i == slot).keys.slots).getD i {} = s.keys.slots.getD i {} := by
  simp [slotStrike, h, hne]

theorem slotStrike_mem (s : State) (f : Nat → KeySlot → Bool) : (slotStrike s f).mem = s.mem := rfl

theorem zeroizeKey_open {slot : Nat} (hn : namedSlot slot = true) (hl : (s.keys.slots.getD slot {}).locked = false)
    (ho : s.rig.active.shared = false ∨ (s.keys.slots.getD slot {}).ownerSet = 0) :
    zeroizeKey slot s = keyStatus (slotStrike s fun i _ => i == slot) .ok := by
  have hmay : ((s.keys.slots.getD slot {}).locked || (isShared s && (s.keys.slots.getD slot {}).ownerSet != 0)) = false := by
    rcases ho with h | h
    · simp only [hl, isShared, h, Bool.false_and, Bool.or_false]
    · simp only [hl, h, bne_self_eq_false, Bool.and_false, Bool.or_false]
  simp only [zeroizeKey, hn, hmay]
  rfl

end Sys2Proof.Machine
end

section
/-! CLAIMS. Quotes, certificates, drawn slots. -/

namespace Sys2Proof.Machine

/-- Settles O46, by what each command answers in each of its cases. -/
theorem quotesCertificatesAndDrawnSlots : Obligations.QuotesCertificatesAndDrawnSlots := by
  refine ⟨fun s p tag hmay hv => ?quoteAbsent, fun s p tag hmay hv hfull => ?quoteBusy, fun s p tag hmay hv hroom => ?quoteAsked,
    fun s r rest hq hr he hset => ?quoted, fun s he hset => ?quoteWaits, fun s p tag b hmay => ?cert,
    fun s p tag hmay hlen => ?outRead, fun s p tag slot o hmay he hslot => ?drawOutside, fun s p tag slot o hmay he hlo hhi ho => ?drawOwner,
    fun s p tag slot o hmay he hlo hhi ho hv => ?drawBusy, fun s p tag slot o hmay he hlo hhi ho hv => ?drawn,
    fun s p tag slot o hmay he => ?drawWaits, fun s p tag slot hmay hslot => ?zeroOutside, fun s p tag slot hmay hlo hhi hl => ?zeroLocked,
    fun s p tag slot hmay hlo hhi hl ho => ?zeroed⟩
  case quoteAbsent => exact next_mgmtWrite tag _ hmay (quoteReq_refused (quoteCheck_unidentified hv))
  case quoteBusy => exact next_mgmtWrite tag _ hmay (quoteReq_refused (quoteCheck_full hv hfull))
  case quoteAsked =>
    exact next_mgmtWrite tag _ hmay (a := ⟨_, .ok, []⟩) (by simp only [quoteReq, quoteCheck_room hv hroom]; rfl)
  case quoted =>
    have hkept : RecoverKept s (quoteFinish s) := by rw [quoteFinish_mgmt hq hr he]; exact ⟨rfl, rfl, rfl, rfl, rfl, rfl⟩
    exact ⟨_, congrArg Host.Outcome.next ((hkept.settle hset).trans (quoteFinish_mgmt hq hr he)), rfl, rfl, rfl, rfl, rfl⟩
  case quoteWaits => exact congrArg Host.Outcome.next (by rw [quoteFinish_waits he, settle_idle s hset.1 hset.2])
  case cert =>
    obtain ⟨out, hout⟩ : ∃ out, certBytes s b = out := ⟨_, rfl⟩
    rw [hout]
    exact next_mgmtWrite tag _ hmay (certReq_places hout)
  case outRead =>
    exact congrArg Host.Outcome.next (by rw [mgmtRead_now p tag _ keyOutRead s hmay, keyOutRead_within hlen])
  case drawOutside => exact next_mgmtDraw tag _ hmay he (a := keyStatus s .badDescriptor) (by simp [drawKey, namedSlot_outside hslot])
  case drawOwner => exact next_mgmtDraw tag _ hmay he (a := keyStatus s .flowDenied) (by simp [drawKey, namedSlot_within hlo hhi, ho])
  case drawBusy => exact next_mgmtDraw tag _ hmay he (a := keyStatus s .busy) (by simp only [drawKey, namedSlot_within hlo hhi, ho, hv]; rfl)
  case drawn => exact next_mgmtDraw tag _ hmay he (drawKey_draws (namedSlot_within hlo hhi) ho hv)
  case drawWaits => exact congrArg _ (mgmtDraw_waits p tag _ _ s (by simp [drawsWait, he]) hmay)
  case zeroOutside => exact next_mgmtWrite tag _ hmay (a := keyStatus s .badDescriptor) (by simp [zeroizeKey, namedSlot_outside hslot])
  case zeroLocked =>
    exact next_mgmtWrite tag _ hmay (a := keyStatus s .flowDenied) (by simp only [zeroizeKey, namedSlot_within hlo hhi, hl]; rfl)
  case zeroed =>
    have hopen := zeroizeKey_open (namedSlot_within hlo hhi) hl ho
    have hone := slotStrike_one s slot (by omega)
    have hothers := fun i (hi : i < 256) (hne : i ≠ slot) => slotStrike_others s hi hne
    have hmem := slotStrike_mem s fun i _ => i == slot
    generalize slotStrike s (fun i _ => i == slot) = v at hopen hone hothers hmem
    exact ⟨(keyStatus v .ok).st, next_mgmtWrite tag _ hmay hopen, hone, hothers, hmem⟩

end Sys2Proof.Machine
end

section
/-! SUPPORT. Fabric key generations, and what waits for the random source. -/

namespace Sys2Proof.Machine

variable {s : State} {p : Port}

/-- A management write's answer that keeps what a settling looks at leaves nothing to settle. -/
theorem settle_mgmtAgain (tag : Nat) {f : State → Answer} (hf : RecoverKept s (f s).st) (hs : settled s) :
    settle (mgmtAgain p tag f s) = mgmtAgain p tag f s := by
  refine RecoverKept.settle (s := s) ?_ hs
  unfold mgmtAgain mgmtRun lockTest
  split
  · refine RecoverKept.trans ?_ (mgmtReply_frame _ p tag _ _).settleKept.recoverKept
    split
    · exact ⟨rfl, rfl, rfl, rfl, rfl, rfl⟩
    · exact hf
  · exact ⟨rfl, rfl, rfl, rfl, rfl, rfl⟩

theorem drawKey_recoverKept (slot : Nat) (o : BitVec 8) : RecoverKept s (drawKey slot o s).st := by
  unfold drawKey
  split
  · exact ⟨rfl, rfl, rfl, rfl, rfl, rfl⟩
  split
  · exact ⟨rfl, rfl, rfl, rfl, rfl, rfl⟩
  split <;> exact ⟨rfl, rfl, rfl, rfl, rfl, rfl⟩

/-- Where nothing waits for a draw, nothing goes on. -/
theorem rowsGo_none (h : s.keys.waiting = []) : rowsGo s = s := by
  calc rowsGo s = { s with keys := { s.keys with waiting := [] } } := by rw [rowsGo, h, List.foldl_nil]
    _ = s := by rw [← h]

/-- A DRAW that waits alone goes on once the source is well. -/
theorem rowsGo_draw {slot tag : Nat} {o : BitVec 8} (he : s.keys.entropyOk = true) (h : s.keys.waiting = [.draw p tag slot o])
    (hheld : mgmtHeld { s with keys := { s.keys with waiting := [] } } = false) :
    rowsGo s = mgmtAgain p tag (drawKey slot o) { s with keys := { s.keys with waiting := [] } } := by
  have hgoes : rowHeld { s with keys := { s.keys with waiting := [] } } (.draw p tag slot o) = false := by
    rw [rowHeld, hheld, drawsWait, he]
    rfl
  rw [rowsGo, h]
  exact if_neg (by rw [hgoes]; decide)

/-- A DRAW that waits alone fails with BUSY when it has waited too long. -/
theorem drawTimeout_draw {slot tag : Nat} {o : BitVec 8} (he : s.keys.entropyOk = false) (hw : s.keys.waiting = [.draw p tag slot o])
    (hheard : heard s.lmx p = true) (hlock : lockedOut s.lmx p = false) :
    drawTimeout s = mgmtReply { s with keys := { s.keys with waiting := [], lastStatus := .busy } } p tag .busy [] := by
  have hrow : drawRequest s (.draw p tag slot o) = true := rfl
  have hfail : drawFail (.draw p tag slot o) { s with keys := { s.keys with waiting := [] } } =
      mgmtReply { s with keys := { s.keys with waiting := [], lastStatus := .busy } } p tag .busy [] := by
    rw [drawFail, mgmtAgain, mgmtRun_live p tag _ _ (by exact hheard)]
    simp only [lockTest, hlock]
    rfl
  have hgone : (mgmtReply { s with keys := { s.keys with waiting := [], lastStatus := .busy } } p tag .busy []).keys.waiting = [] := by
    rw [(mgmtReply_frame _ p tag .busy []).keys]
  rw [drawTimeout, if_neg (by simp [drawsWait, he]), hw]
  simp only [List.find?_cons, hrow, List.eraseP_cons, cond_true]
  rw [hfail, rowsGo_none hgone]

/-- The slots change of a key that becomes current. -/
theorem fabActivate_staged {i : Nat} (ho : s.keys.fabOther = some i) (hst : s.keys.fabStaged = true) :
    ∃ u, fabActivate s = ⟨u, .ok, []⟩ ∧ u.keys.fabCur = some i ∧ u.keys.fabOther = s.keys.fabCur ∧ u.keys.fabStaged = false ∧
      u.keys.fabGen = s.keys.fabOtherGen ∧ u.keys.fabOtherGen = s.keys.fabGen ∧ u.fabric.seq = 0 ∧ u.fabric.windows = [] ∧
      u.mem = s.mem := by
  simp only [fabActivate, ho, hst]
  exact ⟨_, rfl, rfl, rfl, rfl, rfl, rfl, rfl, rfl, by cases s.keys.fabCur <;> rfl⟩

theorem fabActivate_absent (h : s.keys.fabOther = none ∨ s.keys.fabStaged = false) : fabActivate s = keyStatus s .keyAbsent := by
  unfold fabActivate
  split
  · next ho => simp_all
  · rfl

/-- The end of the previous key zeroizes its slot and drops its windows. -/
theorem fabRetire_previous {i : Nat} (ho : s.keys.fabOther = some i) (hst : s.keys.fabStaged = false) :
    ∃ u, fabRetire s = ⟨u, .ok, []⟩ ∧ u.keys.fabOther = none ∧ u.keys.slots.getD i {} = {} ∧ u.keys.fabCur = s.keys.fabCur ∧
      (∀ w ∈ u.fabric.windows, w.1.2 ≠ (s.keys.fabOtherGen % 2 == 1)) ∧ u.mem = s.mem := by
  simp only [fabRetire, ho, hst]
  refine ⟨_, rfl, rfl, ?_, rfl, fun w hw => ?_, rfl⟩
  · by_cases h : i < s.keys.slots.length <;> simp [slotPut, windowsDrop, h]
  · simpa using (List.mem_filter.1 hw).2

theorem fabRetire_idle (h : s.keys.fabOther = none ∨ s.keys.fabStaged = true) : fabRetire s = keyStatus s .ok := by
  unfold fabRetire
  split
  · next ho => simp_all
  · rfl

end Sys2Proof.Machine
end

section
/-! CLAIMS. Fabric key generations, the random source. -/

namespace Sys2Proof.Machine

/-- Settles O47, by what each command answers, and by what goes on or fails where it waits. -/
theorem fabricKeysAndTheRandomSource : Obligations.FabricKeysAndTheRandomSource := by
  refine ⟨fun s p tag i hmay ho hst => ?activated, fun s p tag hmay h => next_mgmtWrite tag _ hmay (fabActivate_absent h),
    fun s p tag i hmay ho hst => ?retired, fun s p tag hmay h => next_mgmtWrite tag _ hmay (fabRetire_idle h),
    fun s hn he => congrArg Host.Outcome.next (if_pos (by simpa [he] using hn)), fun s => rfl, fun s he hw hset => ?passIdle,
    fun s p tag slot o he hw hheld hset => ?passDraw, fun s p tag slot o he hw hheard hlock hset => ?timeoutDraw,
    fun s r hw he hq hr hset => ?timeoutQuote, fun s he hset => ?timeoutIdle⟩
  case activated =>
    obtain ⟨u, hu, hleft⟩ := fabActivate_staged ho hst
    exact ⟨u, next_mgmtWrite tag _ hmay hu, hleft⟩
  case retired =>
    obtain ⟨u, hu, hleft⟩ := fabRetire_previous ho hst
    exact ⟨u, next_mgmtWrite tag _ hmay hu, hleft⟩
  case passIdle =>
    have hpass : entropyPass s = { s with keys := { s.keys with entropyOk := true, waiting := [] } } := by
      rw [entropyPass, if_neg (by simp [he]), ← hw]
      exact rowsGo_none hw
    have hkept : RecoverKept s { s with keys := { s.keys with entropyOk := true, waiting := [] } } := ⟨rfl, rfl, rfl, rfl, rfl, rfl⟩
    exact congrArg Host.Outcome.next (by rw [hpass, hkept.settle hset])
  case passDraw =>
    have hpass : entropyPass s = mgmtAgain p tag (drawKey slot o) { s with keys := { s.keys with entropyOk := true, waiting := [] } } := by
      rw [entropyPass, if_neg (by simp [he])]
      exact rowsGo_draw rfl hw hheld
    exact congrArg Host.Outcome.next (by rw [hpass]; exact settle_mgmtAgain tag (drawKey_recoverKept slot o) hset)
  case timeoutDraw =>
    have hkept : RecoverKept s { s with keys := { s.keys with waiting := [], lastStatus := .busy } } := ⟨rfl, rfl, rfl, rfl, rfl, rfl⟩
    have hreplied := hkept.trans (mgmtReply_frame _ p tag .busy []).settleKept.recoverKept
    exact congrArg Host.Outcome.next (by rw [drawTimeout_draw he hw hheard hlock, hreplied.settle hset])
  case timeoutQuote =>
    have hfail : drawTimeout s = { s with keys := { s.keys with quotes := s.keys.quotes.erase r, lastStatus := .busy } } := by
      simp [drawTimeout, drawsWait, he, hw, hq, quoteFail, hr, keyStatus]
    have hkept : RecoverKept s { s with keys := { s.keys with quotes := s.keys.quotes.erase r, lastStatus := .busy } } :=
      ⟨rfl, rfl, rfl, rfl, rfl, rfl⟩
    exact congrArg Host.Outcome.next (by rw [hfail, hkept.settle hset])
  case timeoutIdle =>
    exact congrArg Host.Outcome.next (by rw [drawTimeout, if_pos (by simp [drawsWait, he]), settle_idle s hset.1 hset.2])

end Sys2Proof.Machine
end

section
/-! SUPPORT. Party channels: their binding, their messages, and the keys that they bring. -/

namespace Sys2Proof.Machine

variable {s : State} {via : Port} {tag q : Nat}

/-! ### BIND and BIND_CONFIRM -/

theorem bindStart_refused {n : W256} {st : Status} (h : bindCheck s q = some st) : bindStart via tag q n s = mgmtReply s via tag st [] := by
  simp [bindStart, h]

/-- A binding that starts keeps its key pair and asks for a quote. -/
theorem bindStart_starts (n : W256) (h : bindCheck s q = none) (hq : q < s.keys.channels.length) :
    chanOf (bindStart via tag q n s) q = { ek := some (kemDraw s).1, dk := (kemDraw s).2, via := via } ∧
      (bindStart via tag q n s).keys.quotes = s.keys.quotes ++ [⟨n, (kemDraw s).1, .bind q via tag⟩] ∧
      (bindStart via tag q n s).draws = s.draws + 2 ∧ (bindStart via tag q n s).keys.slots = s.keys.slots ∧
      (bindStart via tag q n s).mem = s.mem := by
  simp only [bindStart, h]
  generalize kemDraw s = k
  exact ⟨by simp [quoteAsk, drawUse, chanPut, chanOf, hq], rfl, rfl, rfl, rfl⟩

theorem bindConfirm_idle {ct sig : List Byte} (h : (chanOf s q).ek = none ∨ (chanOf s q).bound = true ∨ (chanOf s q).quote = []) :
    bindConfirm q ct sig s = ⟨s, .badDescriptor, []⟩ := by
  unfold bindConfirm
  dsimp only
  split
  · rfl
  · next ek he => exact if_pos (by rcases h with h | h | h <;> simp_all)

/-- A binding under way comes down to its test of the ciphertext and the signature. -/
theorem bindConfirm_test {ct sig ek key : List Byte} {t : W256} (he : (chanOf s q).ek = some ek) (hb : (chanOf s q).bound = false)
    (hquote : (chanOf s q).quote ≠ []) (hkey : partyKey s q = some key)
    (ht : t = shakeW ((chanOf s q).quote ++ ek ++ ct ++ [BitVec.ofNat 8 q])) :
    ∃ k₁ k₂ : List Byte, bindConfirm q ct sig s =
      if decide (ct.length = 1568) && slhVerify slh256s key (ascii "nirnus-bind") (w256Bytes t) sig then
        ⟨chanPut (slotPut (slotPut s (8 + 2 * q) (channelSlot q k₁)) (9 + 2 * q) (channelSlot q k₂)) q
          { bound := true, via := (chanOf s q).via }, .ok, []⟩
      else ⟨chanPut s q {}, .flowDenied, []⟩ := by
  have hunder : ¬((chanOf s q).bound || (chanOf s q).quote.isEmpty) = true := by simp [hb, hquote]
  subst ht
  simp only [bindConfirm, he, hkey, if_neg hunder]
  exact ⟨_, _, rfl⟩

/-! ### Messages -/

/-- A message that is taken is answered where its effect leaves the channel bound. -/
theorem keyMessage_taken {m : MsgAuth} {f : State → Answer} {a : Answer} (h : heard s.lmx via = true) (hm : messageGood s q m)
    (ha : f (messageTaken s q m) = a) (hb : (chanOf a.st q).bound = true) :
    keyMessage via tag q m f s = partyAnswer a.st via tag q a.status a.data := by
  rw [keyMessage, if_pos h, partyTake_good _ _ _ _ hm, ha, partyReply]
  exact if_pos hb

/-- A message that is taken leaves its channel bound. -/
theorem messageTaken_bound {m : MsgAuth} (h : messageGood s q m) : (chanOf (messageTaken s q m) q).bound = true := by
  have hq : q < s.keys.channels.length := by
    by_contra hn
    have hb := h.1
    rw [List.getD_eq_default _ _ (Nat.le_of_not_lt hn)] at hb
    exact Bool.noConfusion hb
  have hb := h.1
  simp only [chanOf, List.getD_eq_getElem?_getD, List.getElem?_set_self hq, Option.getD_some]
  exact hb

/-- A message that changes no channel is answered. -/
theorem next_keyMessage {m : MsgAuth} {f : State → Answer} {u : State} {st : Status} {data : List Byte} (h : heard s.lmx via = true)
    (hm : messageGood s q m) (ha : f (messageTaken s q m) = ⟨u, st, data⟩) (hu : chanOf u q = chanOf (messageTaken s q m) q) :
    (.next (keyMessage via tag q m f s) : Host.Outcome State Fault Refusal) = .next (partyAnswer u via tag q st data) :=
  congrArg Host.Outcome.next (keyMessage_taken h hm ha (hu ▸ messageTaken_bound hm))

/-- A message that is not good is discarded. -/
theorem keyMessage_discarded {k : Nat} {ok : Bool} (f : State → Answer)
    (h : heard s.lmx via = false ∨ (chanOf s q).bound = false ∨ ok = false ∨ ∃ n, (chanOf s q).lastIn = some n ∧ k ≤ n) :
    keyMessage via tag q ⟨k, ok⟩ f s = s := by
  unfold keyMessage
  split
  · next hheard =>
    refine partyTake_stale q ⟨k, ok⟩ _ s ?_
    rcases h with h | h | h | ⟨n, hn, hk⟩
    · simp [h] at hheard
    · exact .inl h
    · exact .inr (.inl h)
    · exact .inr (.inr (by rw [show (s.keys.channels.getD q {}).lastIn = some n from hn]; simpa using hk))
  · rfl

/-- A message whose counter reaches the end ends its channel. -/
theorem keyMessage_ends {k : Nat} (f : State → Answer) (h : heard s.lmx via = true) (hb : (chanOf s q).bound = true)
    (hl : (chanOf s q).lastIn = none) (hk : 2 ^ 64 - 1 ≤ k) : keyMessage via tag q ⟨k, true⟩ f s = endChannel s q := by
  have hgood : ¬(!(s.keys.channels.getD q {}).bound || !true || (s.keys.channels.getD q {}).lastIn.any fun n => decide (k ≤ n)) = true := by
    rw [show (s.keys.channels.getD q {}).bound = true from hb, show (s.keys.channels.getD q {}).lastIn = none from hl]
    simp
  rw [keyMessage, if_pos h, partyTake]
  exact (if_neg hgood).trans (if_pos hk)

theorem endChannel_slots (s : State) (q : Nat) :
    (endChannel s q).keys.slots.getD (8 + 2 * q) {} = {} ∧ (endChannel s q).keys.slots.getD (9 + 2 * q) {} = {} := by
  constructor <;> simp [endChannel, List.getD_eq_getElem?_getD, List.getElem?_set] <;> split <;> simp

/-- A request of a space channel that is unbound, or that another party's message brings, is counted as refused. -/
theorem spaceRequest_foreign {slot : Nat} {m : MsgAuth} (r : SpaceReq) (h : heard s.lmx via = true)
    (hf : (spaceGet s slot).bound = false ∨ spaceParty s slot ≠ some q) :
    spaceRequest ⟨via, slot, tag, some (q, m)⟩ r s = refuseMsg s via := by
  cases hb : (spaceGet s slot).bound
  · exact spaceRequest_unbound _ r s h hb
  · exact spaceRequest_refused r h hb fun he => (hf.resolve_left (by simp [hb])) he.symm

/-! ### DELIVER -/

/-- A key as a delivery makes it. -/
def deliveredKey (m : KeyMsg) (owner : BitVec 8) (origin party : Nat) (key : W256) : KeySlot :=
  { valid := true, use := (useOfCode m.use).getD .kdf, ownerSet := owner, origin := origin
    target := if m.use = 0 then m.target else 0, party := party, key := key }

/-- What a delivered key leaves: its slot, and what it changes of nothing else. -/
structure Installed (s u : State) (slot : Nat) (k : KeySlot) : Prop where
  slot : u.keys.slots.getD slot {} = k
  channels : u.keys.channels = s.keys.channels
  pendings : u.keys.pendings = s.keys.pendings
  sp : u.sp = s.sp

variable {m : KeyMsg} {owner : BitVec 8} {origin party : Nat} {key : W256}

theorem slotPut_same (s : State) {i : Nat} (k : KeySlot) (h : i < s.keys.slots.length) : (slotPut s i k).keys.slots.getD i {} = k := by
  simp [slotPut, h]

theorem installKey_plain (h0 : m.use ≠ 0) (h1 : m.use ≠ 1) :
    installKey s m owner origin party key = slotPut s m.slot (deliveredKey m owner origin party key) := by
  simp only [installKey, if_neg h0, if_neg h1, deliveredKey]

theorem installKey_waiting (h0 : m.use = 0) (hk : (rangeKey s m.target).keyless = false) :
    installKey s m owner origin party key = slotPut s m.slot (deliveredKey m owner origin party key) := by
  simp only [installKey, if_pos h0, installRange, hk, deliveredKey]
  rfl

theorem installKey_range (h0 : m.use = 0) (hk : (rangeKey s m.target).keyless = true) :
    installKey s m owner origin party key =
      fillRange (slotPut s m.slot { deliveredKey m owner origin party key with locked := true }) m.target (some m.slot) 1 := by
  simp only [installKey, if_pos h0, installRange, hk, deliveredKey]
  rfl

theorem installKey_fabric (h1 : m.use = 1) :
    installKey s m owner origin party key = installFabric s m.slot m.generation (deliveredKey m owner origin party key) := by
  simp only [installKey, h1, deliveredKey]
  rfl

theorem installFabric_first {slot gen : Nat} {k : KeySlot} (h : s.keys.fabCur = none) :
    installFabric s slot gen k =
      { slotPut s slot { k with locked := true } with
        keys := { (slotPut s slot { k with locked := true }).keys with fabCur := some slot, fabGen := gen },
        fabric := { s.fabric with seq := 0, windows := [] } } := by
  simp only [installFabric, h]
  rfl

theorem installFabric_staged {slot gen i : Nat} {k : KeySlot} (h : s.keys.fabCur = some i) :
    installFabric s slot gen k =
      { windowsDrop (slotPut s slot { k with locked := true, prev := true }) (gen % 2 == 1) with
        keys := { (slotPut s slot { k with locked := true, prev := true }).keys with
          fabOther := some slot, fabOtherGen := gen, fabStaged := true } } := by
  simp only [installFabric, h]
  rfl

/-- A key that is put into force is in its slot, and nothing else of the keys' waiting parts, the channels and the spaces has changed. -/
theorem installKey_installed (s : State) (m : KeyMsg) (owner : BitVec 8) (origin party : Nat) (key : W256) (h : m.slot < s.keys.slots.length) :
    ∃ l p, Installed s (installKey s m owner origin party key) m.slot
      { deliveredKey m owner origin party key with locked := l, prev := p } := by
  by_cases h0 : m.use = 0
  · cases hk : (rangeKey s m.target).keyless
    · rw [installKey_waiting h0 hk]
      exact ⟨false, false, slotPut_same s _ h, rfl, rfl, rfl⟩
    · rw [installKey_range h0 hk]
      exact ⟨true, false, slotPut_same s _ h, rfl, rfl, rfl⟩
  by_cases h1 : m.use = 1
  · rw [installKey_fabric h1, installFabric]
    split
    · exact ⟨true, false, slotPut_same s _ h, rfl, rfl, rfl⟩
    · exact ⟨true, true, slotPut_same s _ h, rfl, rfl, rfl⟩
  · rw [installKey_plain h0 h1]
    exact ⟨false, false, slotPut_same s _ h, rfl, rfl, rfl⟩

/-- The range of a key that was keyless is filled under it. -/
theorem fillRange_keyed (s : State) {n slot : Nat} (h : n < s.ciph.ranges.length) :
    (rangeKey (fillRange s n (some slot) 1) n).curSlot = slot ∧ (rangeKey (fillRange s n (some slot) 1) n).keyless = false ∧
      (rangeKey (fillRange s n (some slot) 1) n).walk = 1 := by
  simp only [rangeKey, fillRange, rangeKeyMod, drawUse, if_true]
  rw [modAt_getD _ _ h]
  exact ⟨rfl, rfl, rfl⟩

theorem deliverCheck_slot (h : deliverCheck s q m = none) : 32 ≤ m.slot ∧ m.slot ≤ 127 := by
  have hn : namedSlot m.slot = true := by
    by_contra hn
    unfold deliverCheck at h
    dsimp only at h
    rw [if_pos (by simp [hn])] at h
    exact Option.some_ne_none _ h
  simpa [namedSlot] using hn

/-- What a DELIVER's check looks at is not the channel's counter. -/
theorem deliver_refused {a : MsgAuth} {st : Status} (h : deliverCheck s q m = some st) :
    deliver q m (messageTaken s q a) = ⟨messageTaken s q a, st, []⟩ := by
  have ht : deliverCheck (messageTaken s q a) q m = some st := h
  simp only [deliver, ht]

theorem deliver_whole {a : MsgAuth} (h : deliverCheck s q m = none) (hk : m.kind = 0) :
    deliver q m (messageTaken s q a) =
      ⟨installKey (messageTaken s q a) m (if m.use = 1 then compactOwners s else BitVec.ofNat 8 (2 ^ q)) 2 q m.material, .ok, []⟩ := by
  have ht : deliverCheck (messageTaken s q a) q m = none := h
  simp only [deliver, ht, hk]
  rfl

theorem deliver_part {a : MsgAuth} (h : deliverCheck s q m = none) (hk : m.kind = 1) :
    deliver q m (messageTaken s q a) = ⟨contribute (messageTaken s q a) q m, .ok, []⟩ := by
  have ht : deliverCheck (messageTaken s q a) q m = none := h
  simp only [deliver, ht, if_pos hk]

/-- A contribution waits with its derivation, or is the last one and derives the key. -/
theorem contribute_takes (s : State) (q : Nat) (m : KeyMsg) {parts : List (Nat × W256)} {rest : List Derivation}
    (hparts : parts = ((pendingOf s m).map (·.parts)).getD [] ++ [(q, m.material)])
    (hrest : rest = s.keys.pendings.filter fun x => decide (some x ≠ pendingOf s m)) :
    contribute s q m =
      if (derivParties s m).all fun p => parts.any fun x => x.1 == p then
        installKey { s with keys := { s.keys with pendings := rest } } m (if m.use = 0 then (rangeCfg s m.target).ownerSet else compactOwners s)
          3 0 (jointKey s m parts)
      else { s with keys := { s.keys with pendings := rest ++ [⟨m.use, m.slot, m.target, m.generation, parts⟩] } } := by
  subst hparts hrest
  unfold contribute
  cases pendingOf s m with
  | none => simp
  | some d =>
    have hsame : (fun x : Derivation => x != d) = fun x => decide (some x ≠ some d) := by funext x; by_cases hx : x = d <;> simp [hx]
    simp only [hsame]

/-! ### ZEROIZE, QUERY and SPACE_BIND -/

theorem slotMsg_bad (hbad : m.reservedZero = false ∨ useOfCode m.use = none ∨ m.slot < 32 ∨ 127 < m.slot) :
    (!m.reservedZero || (useOfCode m.use).isNone || !namedSlot m.slot) = true := by
  rcases hbad with h | h | h
  · simp [h]
  · simp [h]
  · simp [namedSlot_outside h]

theorem slotMsg_good (hr : m.reservedZero = true) (hu : useOfCode m.use ≠ none) (hlo : 32 ≤ m.slot) (hhi : m.slot ≤ 127) :
    (!m.reservedZero || (useOfCode m.use).isNone || !namedSlot m.slot) = false := by
  simpa [hr, namedSlot_within hlo hhi] using Option.isSome_iff_ne_none.2 hu

theorem partyZeroize_bad (s : State) (q : Nat) (h : (!m.reservedZero || (useOfCode m.use).isNone || !namedSlot m.slot) = true) :
    partyZeroize q m s = ⟨s, .badDescriptor, []⟩ := if_pos h

theorem query_bad (s : State) (q : Nat) (h : (!m.reservedZero || (useOfCode m.use).isNone || !namedSlot m.slot) = true) :
    query q m s = ⟨s, .badDescriptor, []⟩ := if_pos h

theorem partyZeroize_empty (h : (!m.reservedZero || (useOfCode m.use).isNone || !namedSlot m.slot) = false)
    (hv : (s.keys.slots.getD m.slot {}).valid = false) : partyZeroize q m s = ⟨s, .ok, []⟩ := by
  simp only [partyZeroize, h, hv]
  rfl

theorem partyZeroize_denied (h : (!m.reservedZero || (useOfCode m.use).isNone || !namedSlot m.slot) = false)
    (hv : (s.keys.slots.getD m.slot {}).valid = true)
    (hd : (s.keys.slots.getD m.slot {}).ownerSet ≠ BitVec.ofNat 8 (2 ^ q) ∨ (s.keys.slots.getD m.slot {}).locked = true) :
    partyZeroize q m s = ⟨s, .flowDenied, []⟩ := by
  unfold partyZeroize
  dsimp only
  rw [if_neg (by rw [h]; decide), if_neg (by rw [hv]; decide), if_pos (by simpa [bne_iff_ne] using hd)]

theorem partyZeroize_strikes (h : (!m.reservedZero || (useOfCode m.use).isNone || !namedSlot m.slot) = false)
    (hv : (s.keys.slots.getD m.slot {}).valid = true) (ho : (s.keys.slots.getD m.slot {}).ownerSet = BitVec.ofNat 8 (2 ^ q))
    (hl : (s.keys.slots.getD m.slot {}).locked = false) :
    partyZeroize q m s = ⟨slotStrike s fun i _ => i == m.slot, .ok, []⟩ := by
  unfold partyZeroize
  dsimp only
  rw [if_neg (by rw [h]; decide), if_neg (by rw [hv]; decide), if_neg (by rw [ho, hl]; simp)]

theorem query_denied (h : (!m.reservedZero || (useOfCode m.use).isNone || !namedSlot m.slot) = false)
    (hd : (s.keys.slots.getD m.slot {}).valid = false ∨ (s.keys.slots.getD m.slot {}).ownerSet.getLsbD q = false) :
    query q m s = ⟨s, .flowDenied, []⟩ := by
  unfold query
  dsimp only
  rw [if_neg (by rw [h]; decide), if_pos (by rcases hd with hd | hd <;> simp only [hd] <;> simp)]

theorem query_answers (h : (!m.reservedZero || (useOfCode m.use).isNone || !namedSlot m.slot) = false)
    (hv : (s.keys.slots.getD m.slot {}).valid = true) (ho : (s.keys.slots.getD m.slot {}).ownerSet.getLsbD q = true) :
    query q m s = ⟨s, .ok, natLe 8 (keySlotWord (s.keys.slots.getD m.slot {})).toNat⟩ := by
  unfold query
  dsimp only
  rw [if_neg (by rw [h]; decide), if_neg (by rw [hv, ho]; decide)]

/-- What a SPACE_BIND answers, condition by condition (Table 15-5a). -/
theorem spaceBind_eq {s t : State} (q : Nat) (m : KeyMsg) {zero : Bool} (hrig : t.rig = s.rig) (hsp : t.sp = s.sp)
    (hz : zero = (m.reservedZero && decide (m.use = 0 ∧ m.slot = 0 ∧ m.kind = 0 ∧ m.material = 0 ∧ m.generation = 0))) :
    spaceBind q m t =
      if zero = false then ⟨t, .badDescriptor, []⟩
      else if 16 ≤ m.target ∨ (s.rig.active.spaces.getD m.target {}).creatable = false ∨ (s.rig.active.spaces.getD m.target {}).party ≠ q then
        ⟨t, .flowDenied, []⟩
      else if (spaceGet s m.target).state ≠ 1 ∨ (spaceGet s m.target).bound = true then ⟨t, .busy, []⟩
      else ⟨{ t with sp := spaceMod s.sp m.target fun y => { y with bound := true } }, .ok, []⟩ := by
  have hzero : (!m.reservedZero || m.use != 0 || m.slot != 0 || m.kind != 0 || m.material != 0 || m.generation != 0) = !zero := by
    subst hz
    cases m.reservedZero <;> simp [bne, Bool.beq_eq_decide_eq, Bool.or_assoc]
  have hget : spaceGet t m.target = spaceGet s m.target := by rw [spaceGet, hsp, spaceGet]
  unfold spaceBind
  dsimp only
  rw [hzero, hget, hrig, hsp]
  simp only [Bool.not_eq_true', Bool.or_eq_true, decide_eq_true_eq, bne_iff_ne, ne_eq, or_assoc]

/-- A strike of a slot beyond the channels' own leaves every channel. -/
theorem slotStrike_channel (s : State) {slot q : Nat} (hq : q < 8) (hslot : 32 ≤ slot) :
    chanOf (slotStrike s fun i _ => i == slot) q = chanOf s q := by
  have hne : 8 + 2 * q ≠ slot := by omega
  simp [slotStrike, chanOf, hq, hne]

theorem slotStrike_empties (s : State) {slot : Nat} (h : slot < 256) (hv : (s.keys.slots.getD slot {}).valid = true) :
    (slotStrike s fun i _ => i == slot).keys.slots.getD slot {} = {} := by
  simp_all [slotStrike]

end Sys2Proof.Machine
end

section
/-! CLAIMS. Party channels. -/

namespace Sys2Proof.Machine

/-- Settles O48, by what becomes of a message that is taken, and by what each of the four key messages then does. -/
theorem partyChannelsCarryKeys : Obligations.PartyChannelsCarryKeys := by
  refine ⟨fun s via tag q n st hh hc => ?bindRefused, fun s via tag q n hh hc he hq => ?bindStarts, fun s via tag q n hh hc he => ?bindWaits,
    fun s via tag q ct sig hh hidle => ?confirmIdle, fun s via tag q ct sig ek key t hh hq hchans hslots he hb hquote hkey ht => ?confirm,
    fun s via tag q k ok m h => congrArg Host.Outcome.next (keyMessage_discarded _ h),
    fun s via tag q k m hh hb hl hk hq hchans => ?ends, fun s via tag q k ok m => ?rows, fun s via tag q k m hh hgood hop => ?unknown,
    fun s via tag q k slot ok r hh hf => congrArg Host.Outcome.next (spaceRequest_foreign r hh hf),
    fun s via tag q m a hh hgood hq hslots => ⟨fun st hst => ?refused, fun hck hkind => ?whole, fun parts rest hck hkind hparts hrest => ?part⟩,
    fun s via tag q m a hh hgood hq => ⟨fun hbad => ?slotBad, fun hr hu hlo hhi => ⟨fun hv => ?slotEmpty, fun hv hd => ?zeroDenied,
      fun hv ho hl => ?zeroed, fun hv ho => ?queryDenied, fun hv ho => ?queried⟩⟩,
    fun s via tag q m a zero hh hgood hz => ?bindSpace⟩
  case bindRefused =>
    refine congrArg Host.Outcome.next ?_
    rw [if_neg (by simp [hh]), if_neg (by simp [hc]), bindStart_refused hc]
  case bindStarts =>
    refine ⟨_, congrArg Host.Outcome.next ?_, bindStart_starts n hc hq⟩
    rw [if_neg (by simp [hh]), if_neg (by simp [drawsWait, he])]
  case bindWaits =>
    refine congrArg Host.Outcome.next ?_
    rw [if_neg (by simp [hh]), if_pos (by simp [drawsWait, he, hc])]
    rfl
  case confirmIdle =>
    refine congrArg Host.Outcome.next ?_
    rw [if_pos hh, mgmtRun_live _ _ _ _ hh, bindConfirm_idle hidle]
  case confirm =>
    obtain ⟨k₁, k₂, htest⟩ := bindConfirm_test (sig := sig) he hb hquote hkey ht
    have hrun : exec (.bindConfirm via tag q ct sig) s = .next (mgmtReply (bindConfirm q ct sig s).st via tag (bindConfirm q ct sig s).status
        (bindConfirm q ct sig s).data) :=
      congrArg Host.Outcome.next ((if_pos hh).trans (mgmtRun_live _ _ _ _ hh))
    rw [hrun, htest]
    cases decide (ct.length = 1568) && slhVerify slh256s key (ascii "nirnus-bind") (w256Bytes t) sig
    · exact ⟨chanPut s q {}, .flowDenied, rfl, rfl, rfl, by simp [chanPut, chanOf, hchans, hq], rfl⟩
    · have h8 : 8 + 2 * q < s.keys.slots.length := by omega
      have h9 : 9 + 2 * q < s.keys.slots.length := by omega
      refine ⟨_, .ok, rfl, rfl, rfl, by simp [chanPut, slotPut, chanOf, hchans, hq], ?_, ?_, ?_⟩ <;>
        simp [chanPut, slotPut, h8, h9, channelSlot]
  case ends =>
    exact ⟨_, congrArg Host.Outcome.next (keyMessage_ends _ hh hb hl hk), by simp [endChannel, chanOf, hchans, hq], (endChannel_slots s q).1,
      (endChannel_slots s q).2, rfl⟩
  case rows =>
    refine ⟨fun h => ?_, fun h => ?_, fun h => ?_, fun h => ?_⟩ <;>
      exact congrArg (fun f => Host.Outcome.next (keyMessage via tag q ⟨k, ok⟩ f s)) (by funext t; simp [keyMsgDo, h])
  case unknown =>
    refine next_keyMessage hh hgood ?_ rfl
    simp only [keyMsgDo]
    rw [if_neg (by omega), if_neg (by omega), if_neg (by omega), if_neg (by omega)]
  case refused => exact next_keyMessage hh hgood (deliver_refused hst) rfl
  case whole =>
    obtain ⟨hlo, hhi⟩ := deliverCheck_slot hck
    have hlt : m.slot < (messageTaken s q a).keys.slots.length := by change m.slot < s.keys.slots.length; omega
    obtain ⟨l, p, hin⟩ := installKey_installed (messageTaken s q a) m (if m.use = 1 then compactOwners s else BitVec.ofNat 8 (2 ^ q)) 2 q
      m.material hlt
    refine ⟨_, next_keyMessage hh hgood (deliver_whole hck hkind) (by rw [chanOf, hin.channels, chanOf]), hin.channels, hin.pendings, hin.sp,
      fun h5 => ?_, fun h3 => ?_, fun h0 hk => ?_, fun h0 hk hn => ?_, fun h1 hc => ?_, fun h1 hc => ?_⟩
    · rw [installKey_plain (by omega) (by omega), slotPut_same _ _ hlt]
      exact ⟨rfl, by simp [deliveredKey, h5, useOfCode]⟩
    · rw [installKey_plain (by omega) (by omega), slotPut_same _ _ hlt]
      exact ⟨rfl, by simp [deliveredKey, h3, useOfCode]⟩
    · rw [installKey_waiting (s := messageTaken s q a) h0 hk, slotPut_same _ _ hlt]
      exact ⟨rfl, rfl, by simp [deliveredKey, h0, useOfCode]⟩
    · rw [installKey_range (s := messageTaken s q a) h0 hk]
      obtain ⟨hcur, hkeyed, hwalk⟩ := fillRange_keyed (slotPut (messageTaken s q a) m.slot { deliveredKey m
        (if m.use = 1 then compactOwners s else BitVec.ofNat 8 (2 ^ q)) 2 q m.material with locked := true }) (slot := m.slot) hn
      exact ⟨hcur, hkeyed, hwalk, (slotPut_same _ _ hlt).trans (by simp [deliveredKey, h0, useOfCode])⟩
    · rw [installKey_fabric h1, installFabric_first (s := messageTaken s q a) hc]
      exact ⟨rfl, rfl, rfl, rfl, rfl, (slotPut_same _ _ hlt).trans (by simp [deliveredKey, h1, useOfCode])⟩
    · obtain ⟨i, hi⟩ := Option.ne_none_iff_exists'.1 hc
      rw [installKey_fabric h1, installFabric_staged (s := messageTaken s q a) hi]
      exact ⟨rfl, rfl, rfl, rfl, rfl, rfl, (slotPut_same _ _ hlt).trans (by simp [deliveredKey, h1, useOfCode])⟩
  case part =>
    obtain ⟨hlo, hhi⟩ := deliverCheck_slot hck
    have hlt : m.slot < s.keys.slots.length := by omega
    have hdo : deliver q m (messageTaken s q a) = ⟨contribute (messageTaken s q a) q m, .ok, []⟩ := deliver_part hck hkind
    rw [contribute_takes (messageTaken s q a) q m hparts hrest] at hdo
    have hderiv : derivParties (messageTaken s q a) m = derivParties s m := rfl
    rw [hderiv] at hdo
    by_cases hall : ((derivParties s m).all fun p => parts.any fun x => x.1 == p) = true
    · rw [if_pos hall] at hdo
      obtain ⟨l, p, hin⟩ := installKey_installed { messageTaken s q a with keys := { (messageTaken s q a).keys with pendings := rest } } m
        (if m.use = 0 then (rangeCfg s m.target).ownerSet else compactOwners s) 3 0 (jointKey s m parts) hlt
      refine ⟨_, next_keyMessage hh hgood hdo (by exact congrArg (fun l => l.getD q {}) hin.channels), hin.sp, ?_⟩
      rw [if_pos hall]
      have hslot := hin.slot
      exact ⟨hin.pendings, by exact hslot ▸ rfl, by exact hslot ▸ rfl, by exact hslot ▸ rfl⟩
    · rw [if_neg hall] at hdo
      refine ⟨_, next_keyMessage hh hgood hdo rfl, rfl, ?_⟩
      rw [if_neg hall]
      exact ⟨rfl, rfl, rfl⟩
  case slotBad =>
    exact ⟨next_keyMessage hh hgood (partyZeroize_bad _ q (slotMsg_bad hbad)) rfl, next_keyMessage hh hgood (query_bad _ q (slotMsg_bad hbad)) rfl⟩
  case slotEmpty =>
    exact ⟨next_keyMessage hh hgood (partyZeroize_empty (slotMsg_good hr hu hlo hhi) hv) rfl,
      next_keyMessage hh hgood (query_denied (slotMsg_good hr hu hlo hhi) (.inl hv)) rfl⟩
  case zeroDenied => exact next_keyMessage hh hgood (partyZeroize_denied (slotMsg_good hr hu hlo hhi) hv hd) rfl
  case zeroed =>
    exact ⟨_, next_keyMessage hh hgood (partyZeroize_strikes (slotMsg_good hr hu hlo hhi) hv ho hl) (slotStrike_channel _ hq hlo),
      slotStrike_empties (messageTaken s q a) (by omega) hv, rfl, fun i hi hne => slotStrike_others (messageTaken s q a) hi hne⟩
  case queryDenied => exact next_keyMessage hh hgood (query_denied (slotMsg_good hr hu hlo hhi) (.inr ho)) rfl
  case queried => exact next_keyMessage hh hgood (query_answers (slotMsg_good hr hu hlo hhi) hv ho) rfl
  case bindSpace =>
    have hb := spaceBind_eq (s := s) (t := messageTaken s q a) q m rfl rfl hz
    split_ifs at hb ⊢ with h1 h2 h3 <;> exact next_keyMessage hh hgood hb rfl

end Sys2Proof.Machine
end

section
/-! SUPPORT. A restart that reaches READY. -/

namespace Sys2Proof.Machine

variable {s : State} {b : Boot} {k : Nat}

/-- What a restart that reaches READY leaves of the fuses, the challenge, the grant, the causes and the sessions. -/
structure Booted (s t : State) (k : Nat) : Prop where
  ready : isReady t
  state : t.lc.state = k
  vault0 : t.lc.vault0 = s.lc.vault0
  vault1 : t.lc.vault1 = s.lc.vault1
  tokens : t.lc.tokens = s.lc.tokens
  grant : t.lc.grant = s.lc.grant
  chal : t.lc.chal = s.lc.chal
  testOpen : t.lc.testOpen = s.lc.testOpen
  strikeCause : t.keys.strikeCause = s.keys.strikeCause
  vaultOk : t.keys.vaultOk = (vaultSound s.lc && k != 1)
  lastCause : t.err.lastCause = s.err.lastCause
  sessionA : t.lmx.a.session = s.lmx.a.session
  sessionB : t.lmx.b.session = s.lmx.b.session
  house : isShared t = false

/-- Fuses with no record pending have none to finish. -/
theorem pendingRecs_none {x : LifeCycle} (h : x.records.findIdx? recPending = none) : pendingRecs x = [] := by
  have hnone : ∀ r ∈ x.records, recPending r = false := by simpa [List.findIdx?_eq_none_iff] using h
  refine List.filter_eq_nil_iff.2 fun i hi => ?_
  by_cases hlt : i < x.records.length
  · simpa [hlt] using hnone _ (List.getElem_mem hlt)
  · rw [List.getD_eq_default _ _ (Nat.le_of_not_lt hlt)]
    decide

/-- The state that the vote of the fuses leaves. -/
def votedState (s : State) (w : BitVec 16) (agree : BitVec 3) (k : Nat) : State :=
  { s with
    lc := { s.lc with resumed := false, word := w, agree := agree, invalid := false, state := k }
    power := { s.power with bootStep := 3, scrapStop := false, failUnit := 0 } }

/-- Step 3 of a module that starts, with no record pending. -/
theorem bootStep3_starts (h : fuseState s k) (hk : starts k) : ∃ w a, bootStep3 s = (votedState s w a k, true) := by
  obtain ⟨hpend, hvote⟩ := h
  obtain ⟨w, hw, hcode⟩ := Option.bind_eq_some_iff.1 hvote
  have h6 : k ≠ 6 := by unfold starts at hk; omega
  have h0 : k ≠ 0 := by unfold starts at hk; omega
  simp [bootStep3, pendingRecs_none hpend, hw, hcode, h6, h0, votedState]

/-- The state in which step 3 begins. -/
def bootCleared (s : State) : State :=
  { s with power := { s.power with
    bootFailed := false, failUnit := 0, scrapStop := false, selftestOk := false, stackSlow := 0
    idkeyFp := 0, fwVersion := 0, golden := false, fwMeas := 0
    resetHeld := false, strikeHeld := false, bootStep := 2 } }

/-- The state after step 8 of a power-up that goes well. -/
def memoryReady (s : State) (b : Boot) : State :=
  bootDone (bootSelftest (bootDone { s with power := { s.power with stackSlow := b.slow } } 6) b true) 8

theorem bootFrom6_good (s : State) (h : bootGood b) : bootFrom6 s b = bootStep10 (bootStep9 (memoryReady s b)) := by
  obtain ⟨-, -, htrain, hhbm, hcheck, hsram, hfill⟩ := h
  simp [bootFrom6, htrain, hhbm, hcheck, hsram, hfill, memoryReady, bootDone]

/-- Steps 4 to 11, after what step 3 leaves. -/
def bootFrom4 (r : State × Bool) (b : Boot) : State :=
  if !r.2 then r.1
  else if !(bootStep4 r.1).power.strikeN then { bootStep4 r.1 with power := { (bootStep4 r.1).power with strikeHeld := true } }
  else if !b.entropyOk then bootFail (bootStep4 r.1) 5 122
  else bootFrom6 (bootStep5 (bootStep4 r.1)) b

theorem bootFrom3_from4 (hr : s.power.resetN = true) (h : bootGood b) : bootFrom3 s b = bootFrom4 (bootStep3 (bootCleared s)) b :=
  (if_neg (by simp [hr])).trans (if_neg (by simp [h.1]))

/-- With all going well the steps follow one another. -/
theorem bootFrom3_good (hf : fuseState s k) (hk : starts k) (hr : s.power.resetN = true) (hn : s.power.strikeN = true) (h : bootGood b) :
    ∃ w a, bootFrom3 s b = bootStep10 (bootStep9 (memoryReady (bootStep5 (bootStep4 (votedState (bootCleared s) w a k))) b)) := by
  obtain ⟨w, a, h3⟩ := bootStep3_starts (s := bootCleared s) hf hk
  have hstrike : ¬(!(bootStep4 (votedState (bootCleared s) w a k)).power.strikeN) = true := by
    simpa [bootStep4, votedState, bootCleared, bootDone] using hn
  refine ⟨w, a, ?_⟩
  rw [bootFrom3_from4 hr h, h3, bootFrom4, if_neg (by simp), if_neg hstrike, if_neg (by simp [h.2.1]), bootFrom6_good _ h]

/-- The clamp with which the Gaffer may start changes the Gaffer and the log's entries. -/
theorem bootClamp_keeps (s : State) :
    (bootClamp s).power = s.power ∧ (bootClamp s).lc = s.lc ∧ (bootClamp s).keys = s.keys ∧ (bootClamp s).rig = s.rig ∧
      (bootClamp s).lmx = s.lmx ∧ (bootClamp s).err.lastCause = s.err.lastCause := by
  have hmark : ∀ g, (emergencyMark s g).err.lastCause = s.err.lastCause := fun g => by
    simp only [emergencyMark, stLog, logAdd]
    split
    · rfl
    · split <;> rfl
  unfold bootClamp
  split
  · exact ⟨rfl, rfl, rfl, rfl, rfl, hmark _⟩
  · split
    · exact ⟨rfl, rfl, rfl, rfl, rfl, hmark _⟩
    · exact ⟨rfl, rfl, rfl, rfl, rfl, rfl⟩

/-- The state after step 10, but for the clamp. -/
def powerOn (s : State) : State :=
  bootDone { s with
    power := { s.power with ready := true, bypAOpen := true, bypBOpen := true }
    lmx := { s.lmx with a := { s.lmx.a with ring := 1 }, b := { s.lmx.b with ring := 1 } } } 10

/-- What steps 9 and 10 leave of a module whose memory is ready. -/
theorem bootStep10_ready (s : State) (h : s.power.bootFailed = false) : isReady (bootStep10 (bootStep9 s)) := by
  obtain ⟨hpower, -, -, hrig, -⟩ := bootClamp_keeps (powerOn (bootStep9 s))
  have himage : runningImage (bootClamp (powerOn (bootStep9 s))) = s.power.image := by
    rw [runningImage, hpower]
    exact if_neg (by change ¬10 < 4; decide)
  change isReady (bootClamp (powerOn (bootStep9 s)))
  rw [isReady, himage, hpower, hrig]
  exact ⟨rfl, rfl, rfl, rfl, h, rfl⟩

/-- With all going well a restart from step 3 reaches READY. -/
theorem bootFrom3_booted (hf : fuseState s k) (hk : starts k) (hr : s.power.resetN = true) (hn : s.power.strikeN = true) (h : bootGood b) :
    Booted s (bootFrom3 s b) k := by
  obtain ⟨w, a, hboot⟩ := bootFrom3_good hf hk hr hn h
  rw [hboot]
  have hready := bootStep10_ready (memoryReady (bootStep5 (bootStep4 (votedState (bootCleared s) w a k))) b) rfl
  obtain ⟨-, hlc, hkeys, hrig, hlmx, herr⟩ :=
    bootClamp_keeps (powerOn (bootStep9 (memoryReady (bootStep5 (bootStep4 (votedState (bootCleared s) w a k))) b)))
  change Booted s (bootClamp (powerOn (bootStep9 (memoryReady (bootStep5 (bootStep4 (votedState (bootCleared s) w a k))) b)))) k
  refine ⟨hready, ?_, ?_, ?_, ?_, ?_, ?_, ?_, ?_, ?_, herr, ?_, ?_, ?_⟩ <;>
    simp only [hlc, hkeys, hrig, hlmx, isShared] <;> rfl

theorem restart_booted (hf : fuseState s k) (hk : starts k) (hr : s.power.resetN = true) (hn : s.power.strikeN = true) (h : bootGood b) :
    Booted s (restart s b) k := by
  obtain ⟨⟩ := bootFrom3_booted (s := sampleStraps s b.strap) hf hk hr hn h
  constructor <;> assumption

end Sys2Proof.Machine
end

section
/-! SUPPORT. A life-cycle transition, half-step by half-step, and the restart at its end. -/

namespace Sys2Proof.Machine

variable {s : State} {b : Boot} {k n : Nat} {x : LifeCycle} {g : LcRun}

/-- A state in which a transition is under way, with its fuses. -/
def underWay (s : State) (x : LifeCycle) (g : LcRun) : State := { s with lc := { x with going := some g } }

theorem underWay_self (h : s.lc.going = some g) : underWay s s.lc g = s := by rw [underWay, ← h]

/-- With nothing queued a step is a half-step of the transition. -/
theorem run_underWay (hq : s.pending = []) (n : Nat) (x : LifeCycle) (g : LcRun) :
    core.run (n + 1) (underWay s x g) = core.run n (lcTick (underWay s x g) g) := by
  have hstep : core.step (underWay s x g) = .next (lcTick (underWay s x g) g) := step_empty (underWay s x g) hq
  simp [Host.Core.run, hstep]

/-- The steps of a transition on the fuses, each with its mark. -/
def stepsDone (slot : Option Nat) (l : List (Nat × (LifeCycle → LifeCycle))) (x : LifeCycle) : LifeCycle :=
  l.foldl (fun y e => recSet (e.2 y) slot (BitVec.ofNat 16 (2 ^ e.1))) x

/-- A progress record is set whether or not a transition is noted. -/
theorem recSet_going (x : LifeCycle) (slot : Option Nat) (bits : BitVec 16) (r : Option LcRun) :
    recSet { x with going := r } slot bits = { recSet x slot bits with going := r } := by
  cases slot <;> rfl

/-- The first two half-steps write the target code and begun. -/
theorem run_begins (hq : s.pending = []) (n : Nat) (x : LifeCycle) (g : LcRun) (h : g.pos = 0) :
    core.run (n + 2) (underWay s x g) =
      core.run n (underWay s (recSet (recSet x g.slot (BitVec.ofNat 16 g.target)) g.slot 8) { g with pos := 2 }) := by
  have hcode : lcTick (underWay s x g) g = underWay s (recSet x g.slot (BitVec.ofNat 16 g.target)) { g with pos := 1 } := by
    simp only [lcTick, h, underWay, recSet_going]
    rfl
  have hbegun : ∀ y, lcTick (underWay s y { g with pos := 1 }) { g with pos := 1 } = underWay s (recSet y g.slot 8) { g with pos := 2 } :=
    fun y => by
      simp only [lcTick, underWay, recSet_going]
      rfl
  rw [run_underWay hq, hcode, run_underWay hq, hbegun]

/-- An even half-step writes the fuses of its step, but for a vault. -/
theorem lcTick_fuses {i : Nat} {e : Nat × (LifeCycle → LifeCycle)} (h : g.pos = 2 * i + 2)
    (he : (lcSteps g.target (drawAt s 0))[i]? = some e) (h7 : e.1 ≠ 7) :
    lcTick s g = { s with lc := { e.2 s.lc with going := some { g with pos := 2 * i + 3 } } } := by
  have hidx : g.pos / 2 - 1 = i := by omega
  unfold lcTick
  dsimp only
  rw [if_neg (by omega), if_neg (by omega), hidx, he]
  simp only [h7, decide_false, Bool.false_and, Bool.false_eq_true, if_false]
  rw [if_neg (by omega), h]

/-- An odd half-step marks its step. -/
theorem lcTick_marks {i : Nat} {e : Nat × (LifeCycle → LifeCycle)} (h : g.pos = 2 * i + 3)
    (he : (lcSteps g.target (drawAt s 0))[i]? = some e) :
    lcTick s g = { s with lc := { recSet s.lc g.slot (BitVec.ofNat 16 (2 ^ e.1)) with going := some { g with pos := 2 * i + 4 } } } := by
  have hidx : g.pos / 2 - 1 = i := by omega
  have hodd : (g.pos % 2 == 0) = false := by simp; omega
  unfold lcTick
  dsimp only
  rw [if_neg (by omega), if_neg (by omega), hidx, he]
  simp only [hodd, Bool.and_false, Bool.false_eq_true, if_false]
  rw [if_pos (by omega), h]

/-- A vault that holds set bits is passed over. -/
theorem lcTick_passes {i : Nat} {e : Nat × (LifeCycle → LifeCycle)} (h : g.pos = 2 * i + 2)
    (he : (lcSteps g.target (drawAt s 0))[i]? = some e) (h7 : e.1 = 7) (hv : vaultUsed s.lc = true) :
    lcTick s g = { s with lc := { s.lc with going := some { g with pos := 2 * i + 4 } } } := by
  have hidx : g.pos / 2 - 1 = i := by omega
  have heven : (g.pos % 2 == 0) = true := by simp; omega
  unfold lcTick
  dsimp only
  rw [if_neg (by omega), if_neg (by omega), hidx, he]
  simp only [h7, hv, heven, decide_true, Bool.and_self, if_true]
  rw [h]

/-- A blank vault takes the next draw. -/
theorem lcTick_draws {i : Nat} {e : Nat × (LifeCycle → LifeCycle)} (h : g.pos = 2 * i + 2)
    (he : (lcSteps g.target (drawAt s 0))[i]? = some e) (h7 : e.1 = 7) (hv : vaultUsed s.lc = false) (hent : s.keys.entropyOk = true) :
    lcTick s g = drawUse { s with lc := { e.2 s.lc with going := some { g with pos := 2 * i + 3 } } } 1 := by
  have hidx : g.pos / 2 - 1 = i := by omega
  unfold lcTick
  dsimp only
  rw [if_neg (by omega), if_neg (by omega), hidx, he]
  simp only [hv, Bool.and_false, Bool.false_and, Bool.false_eq_true, if_false, drawsWait, hent]
  rw [if_neg (by omega), if_pos h7, h]
  rfl

/-- The fuses of a step, then its mark. -/
theorem run_step (hq : s.pending = []) (n i : Nat) (x : LifeCycle) {e : Nat × (LifeCycle → LifeCycle)} (h : g.pos = 2 * i + 2)
    (he : (lcSteps g.target (drawAt s 0))[i]? = some e) (h7 : e.1 ≠ 7) (hgo : ∀ y r, e.2 { y with going := r } = { e.2 y with going := r }) :
    core.run (n + 2) (underWay s x g) =
      core.run n (underWay s (recSet (e.2 x) g.slot (BitVec.ofNat 16 (2 ^ e.1))) { g with pos := 2 * i + 4 }) := by
  have hfuses : lcTick (underWay s x g) g = underWay s (e.2 x) { g with pos := 2 * i + 3 } := by
    have hlc : e.2 (underWay s x g).lc = { e.2 x with going := some g } := hgo x (some g)
    rw [lcTick_fuses (s := underWay s x g) h he h7, hlc]
    rfl
  have hmark : lcTick (underWay s (e.2 x) { g with pos := 2 * i + 3 }) { g with pos := 2 * i + 3 } =
      underWay s (recSet (e.2 x) g.slot (BitVec.ofNat 16 (2 ^ e.1))) { g with pos := 2 * i + 4 } := by
    rw [lcTick_marks (s := underWay s (e.2 x) { g with pos := 2 * i + 3 }) (g := { g with pos := 2 * i + 3 }) (i := i) rfl he]
    simp only [underWay, recSet_going]
  rw [run_underWay hq, hfuses, run_underWay hq, hmark]

/-- A step that writes no vault, and does not look at the transition under way. -/
def plainStep (e : Nat × (LifeCycle → LifeCycle)) : Prop := e.1 ≠ 7 ∧ ∀ y r, e.2 { y with going := r } = { e.2 y with going := r }

/-- Steps of a transition, one after another. -/
theorem run_steps (hq : s.pending = []) (n : Nat) : ∀ (l : List (Nat × (LifeCycle → LifeCycle))) (i : Nat) (x : LifeCycle) (g : LcRun),
    g.pos = 2 * i + 2 → l <+: (lcSteps g.target (drawAt s 0)).drop i → (∀ e ∈ l, plainStep e) →
    core.run (n + 2 * l.length) (underWay s x g) =
      core.run n (underWay s (stepsDone g.slot l x) { g with pos := 2 * (i + l.length) + 2 }) := by
  intro l
  induction l with
  | nil =>
    intro i x g hpos _ _
    obtain ⟨target, slot, pos, boot⟩ := g
    subst hpos
    rfl
  | cons e l ih =>
    intro i x g hpos hpre hplain
    obtain ⟨rest, hrest⟩ := hpre
    have he : (lcSteps g.target (drawAt s 0))[i]? = some e := by
      have := congrArg (fun l => l[0]?) hrest
      simpa using this.symm
    have hl : l <+: (lcSteps g.target (drawAt s 0)).drop (i + 1) := ⟨rest, by
      have := congrArg (List.drop 1) hrest
      simpa using this⟩
    obtain ⟨h7, hgo⟩ := hplain e (List.mem_cons_self ..)
    have hlen : n + 2 * (e :: l).length = n + 2 * l.length + 2 := by simp; omega
    have hend : 2 * (i + 1 + l.length) + 2 = 2 * (i + (e :: l).length) + 2 := by simp; omega
    rw [hlen, run_step hq _ i x hpos he h7 hgo, ih (i + 1) _ { g with pos := 2 * i + 4 } (by simp; omega) hl fun f hf => hplain f (List.mem_cons_of_mem _ hf)]
    simp only [hend]
    rfl

theorem plainStep_copy (bit : Nat) (h : bit ≠ 7) (code k : Nat) : plainStep (bit, copySet code k) := ⟨h, fun _ _ => rfl⟩

/-- With every step done the transition ends. -/
theorem run_ends (hq : s.pending = []) (x : LifeCycle) (g : LcRun) (h : g.pos = 2 * (lcSteps g.target (drawAt s 0)).length + 2) :
    core.run 1 (underWay s x g) = .next (lcEnd (underWay s x g) g) := by
  have hidx : g.pos / 2 - 1 = (lcSteps g.target (drawAt s 0)).length := by omega
  have hnone : (lcSteps g.target (drawAt (underWay s x g) 0))[g.pos / 2 - 1]? = none := by
    rw [hidx]
    exact List.getElem?_eq_none (Nat.le_refl _)
  have hend : lcTick (underWay s x g) g = lcEnd (underWay s x g) g := by
    unfold lcTick
    dsimp only
    rw [if_neg (by omega), if_neg (by omega), hnone]
  rw [run_underWay hq 0, hend]
  rfl

end Sys2Proof.Machine
end

section
/-! SUPPORT. What the transitions leave in the fuses, and where they end. -/

namespace Sys2Proof.Machine

variable {s : State} {b : Boot} {k n : Nat} {x : LifeCycle} {g : LcRun}

/-! ### Copies -/

theorem lcWord_of_lcCode {w : BitVec 16} (h : lcCode w = some k) : w = lcWord k := by
  unfold lcCode at h
  split_ifs at h <;> cases h <;> simpa [lcWord]

/-- Programming bits into every copy programs them into what the copies vote. -/
theorem lcVote_or {a b c v : BitVec 16} (w : BitVec 16) (h : lcVote [a, b, c] = some v) : lcVote [a ||| w, b ||| w, c ||| w] = some (v ||| w) := by
  unfold lcVote at h ⊢
  dsimp only at h ⊢
  split_ifs at h with h1 h2
  · obtain rfl := Option.some.inj h
    rw [if_pos (by rcases (by simpa using h1 : a = b ∨ a = c) with rfl | rfl <;> simp)]
  · obtain rfl := Option.some.inj h
    subst h2
    split_ifs with h3
    · have : a ||| w = b ||| w := by simpa using h3
      rw [this]
    · rfl
    · next hn => exact absurd rfl hn

theorem lcVote_three {l : List (BitVec 16)} {v : BitVec 16} (h : lcVote l = some v) : ∃ a b c, l = [a, b, c] := by
  unfold lcVote at h
  split at h
  · exact ⟨_, _, _, rfl⟩
  · exact absurd h (by simp)

/-! ### Records -/

theorem recSet_recSet (x : LifeCycle) (slot : Option Nat) (a c : BitVec 16) : recSet (recSet x slot a) slot c = recSet x slot (a ||| c) := by
  cases slot with
  | none => rfl
  | some i =>
    by_cases h : i < x.records.length
    · simp [recSet, h, BitVec.or_assoc]
    · simp [recSet, List.set_eq_of_length_le (Nat.le_of_not_lt h)]

theorem copySet_recSet (code k : Nat) (x : LifeCycle) (slot : Option Nat) (a : BitVec 16) :
    copySet code k (recSet x slot a) = recSet (copySet code k x) slot a := by
  cases slot <;> rfl

/-- The three copies programmed to the word of a state. -/
def copiesSet (code : Nat) (x : LifeCycle) : LifeCycle := copySet code 2 (copySet code 1 (copySet code 0 x))

theorem copiesSet_copies (code : Nat) {x : LifeCycle} {a b c : BitVec 16} (h : x.copies = [a, b, c]) :
    (copiesSet code x).copies = [a ||| lcWord code, b ||| lcWord code, c ||| lcWord code] := by
  simp [copiesSet, copySet, h, modAt]

/-- The steps that program the copies, with their marks. -/
def copySteps (code : Nat) : List (Nat × (LifeCycle → LifeCycle)) := [(4, copySet code 0), (5, copySet code 1), (6, copySet code 2)]

theorem copySteps_plain (code : Nat) : ∀ e ∈ copySteps code, plainStep e := by
  simp only [copySteps, List.forall_mem_cons, List.not_mem_nil, false_implies, implies_true, and_true]
  exact ⟨plainStep_copy 4 (by decide) code 0, plainStep_copy 5 (by decide) code 1, plainStep_copy 6 (by decide) code 2⟩

/-- The record and the copies after the copies' steps. -/
theorem stepsDone_copySteps (code : Nat) (slot : Option Nat) (x : LifeCycle) :
    stepsDone slot (copySteps code) (recSet (recSet x slot (BitVec.ofNat 16 code)) slot 8) =
      recSet (copiesSet code x) slot (BitVec.ofNat 16 code ||| 0x78) := by
  simp only [stepsDone, copySteps, List.foldl_cons, List.foldl_nil, copySet_recSet, recSet_recSet, copiesSet, BitVec.or_assoc]
  rfl

/-- A record that was free holds what the steps set; no other has changed. -/
theorem recSet_free {i : Nat} (h : recFree x = some i) (y : LifeCycle) (hy : y.records = x.records) (bits : BitVec 16) :
    i < x.records.length ∧ (recSet y (some i) bits).records = x.records.set i bits := by
  obtain ⟨hi, hzero, -⟩ := List.findIdx?_eq_some_iff_getElem.1 h
  refine ⟨hi, ?_⟩
  have h0 : x.records.getD i 0 = 0 := by rw [List.getD_eq_getElem _ _ hi]; simpa using hzero
  change y.records.set i (y.records.getD i 0 ||| bits) = _
  rw [hy, h0]
  exact congrArg (x.records.set i) BitVec.zero_or

/-- A record that is not pending leaves none pending. -/
theorem records_set_quiet {l : List (BitVec 16)} {i : Nat} {r : BitVec 16} (h : l.findIdx? recPending = none) (hr : recPending r = false) :
    (l.set i r).findIdx? recPending = none := by
  have hnone : ∀ q ∈ l, recPending q = false := by simpa [List.findIdx?_eq_none_iff] using h
  refine List.findIdx?_eq_none_iff.2 fun q hq => ?_
  rcases List.mem_or_eq_of_mem_set hq with hq | rfl
  · exact hnone q hq
  · exact hr

/-- Fuses that vote one state, their copies programmed to a state above it and the free record finished, vote that state. -/
theorem fuseState_programmed {t : State} {i target : Nat} {r : BitVec 16} (hf : fuseState s k)
    (hr : recPending r = false) (hup : lcCode (lcWord k ||| lcWord target) = some target)
    (hc : t.lc.copies = (copiesSet target s.lc).copies) (hrec : t.lc.records = s.lc.records.set i r) : fuseState t target := by
  obtain ⟨hpend, hvote⟩ := hf
  obtain ⟨w, hw, hcode⟩ := Option.bind_eq_some_iff.1 hvote
  obtain ⟨a, c, d, hl⟩ := lcVote_three hw
  refine ⟨hrec ▸ records_set_quiet hpend hr, ?_⟩
  rw [hc, copiesSet_copies target hl, lcVote_or _ (hl ▸ hw), lcWord_of_lcCode hcode]
  exact hup

/-! ### The warm reset at the end -/

theorem logAbandoned_keeps (s : State) :
    (logAbandoned s).lc = s.lc ∧ (logAbandoned s).power = s.power ∧ (logAbandoned s).keys = s.keys := by
  unfold logAbandoned
  split <;> exact ⟨rfl, rfl, rfl⟩

theorem warmStart_lc (s : State) (cause : Nat) : (warmStart s cause).lc = lcKeep s.lc := congrArg lcKeep (logAbandoned_keeps s).1

theorem warmStart_power (s : State) (cause : Nat) : (warmStart s cause).power = powerKeep s.power :=
  congrArg powerKeep (logAbandoned_keeps s).2.1

/-- A transition's warm reset starts the module in the state that the fuses vote. -/
theorem resetAtOnce_booted (hf : fuseState s k) (hk : starts k) (hr : s.power.resetN = true) (hn : s.power.strikeN = true) (h : bootGood b)
    (cause : Nat) : Booted (warmStart s cause) (resetAtOnce s cause b) k := by
  refine restart_booted ?_ hk ?_ ?_ h
  · simpa only [fuseState, warmStart_lc, lcKeep] using hf
  · rw [warmStart_power]; exact hr
  · rw [warmStart_power]; exact hn

end Sys2Proof.Machine
end

section
/-! SUPPORT. The transitions whole: to TEST_LOCKED, FIELD and RETURN, to STOCK, to SCRAP. -/

namespace Sys2Proof.Machine

variable {s : State} {b : Boot} {k n i : Nat} {g : LcRun} {slot : Option Nat}

theorem lcSteps_plain {target : Nat} (h3 : target ≠ 3) (h6 : target ≠ 6) (secret : W256) :
    lcSteps target secret = copySteps target ++ [(15, id)] := by simp [lcSteps, copySteps, h3, h6]

theorem lcSteps_stock (secret : W256) : lcSteps 3 secret = copySteps 3 ++ [(7, vaultSet secret), (15, id)] := rfl

/-- The steps of a scrap after the copies'. -/
def wipeSteps : List (Nat × (LifeCycle → LifeCycle)) :=
  [(8, vaultWipe), (9, fun x => { x with trimsWiped := true }), (10, flashWipe), (15, id)]

theorem lcSteps_scrap (secret : W256) : lcSteps 6 secret = copySteps 6 ++ wipeSteps := rfl

theorem stepsDone_append (slot : Option Nat) (l m : List (Nat × (LifeCycle → LifeCycle))) (x : LifeCycle) :
    stepsDone slot (l ++ m) x = stepsDone slot m (stepsDone slot l x) := List.foldl_append ..

theorem plainStep_done : plainStep (15, id) := ⟨by decide, fun _ _ => rfl⟩

theorem wipeSteps_plain : ∀ e ∈ wipeSteps, plainStep e := by
  simp only [wipeSteps, List.forall_mem_cons, List.not_mem_nil, false_implies, implies_true, and_true]
  exact ⟨⟨by decide, fun _ _ => rfl⟩, ⟨by decide, fun _ _ => rfl⟩, ⟨by decide, fun _ _ => rfl⟩, plainStep_done⟩

/-- The first eight half-steps of any transition: its record begun, its copies programmed. -/
theorem run_copies (hq : s.pending = []) (n : Nat) (target : Nat) (hgo : s.lc.going = some { target := target, slot := slot, boot := b }) :
    core.run (n + 8) s = core.run n (underWay s (recSet (copiesSet target s.lc) slot (BitVec.ofNat 16 target ||| 0x78))
      { target := target, slot := slot, pos := 8, boot := b }) := by
  have hpre : copySteps target <+: (lcSteps target (drawAt s 0)).drop 0 := ⟨_, (List.append_assoc ..).symm⟩
  have hrun := run_steps hq n (copySteps target) 0 (recSet (recSet s.lc slot (BitVec.ofNat 16 target)) slot 8)
    { target := target, slot := slot, pos := 2, boot := b } rfl hpre (copySteps_plain target)
  rw [stepsDone_copySteps] at hrun
  calc core.run (n + 8) s
      = core.run (n + 6 + 2) (underWay s s.lc { target := target, slot := slot, boot := b }) := by rw [underWay_self hgo]
    _ = _ := run_begins hq (n + 6) s.lc _ rfl
    _ = _ := hrun

/-- To TEST_LOCKED, FIELD or RETURN: the record is done with its copies, and the warm reset follows. -/
theorem run_plain (hq : s.pending = []) {target : Nat} (h3 : target ≠ 3) (h6 : target ≠ 6)
    (hgo : s.lc.going = some { target := target, slot := slot, boot := b }) :
    core.run 11 s = .next (resetAtOnce (underWay s (recSet (copiesSet target s.lc) slot (BitVec.ofNat 16 target ||| 0x8078))
      { target := target, slot := slot, pos := 10, boot := b }) 5 b) := by
  have hsteps := lcSteps_plain h3 h6 (drawAt s 0)
  have hdone := run_step hq 1 3 (recSet (copiesSet target s.lc) slot (BitVec.ofNat 16 target ||| 0x78))
    (g := { target := target, slot := slot, pos := 8, boot := b }) (e := (15, id)) rfl (by rw [hsteps]; rfl) (by decide) fun _ _ => rfl
  have hend := run_ends hq (recSet (copiesSet target s.lc) slot (BitVec.ofNat 16 target ||| 0x8078))
    { target := target, slot := slot, pos := 10, boot := b } (by rw [hsteps]; rfl)
  rw [run_copies hq 3 target hgo, hdone]
  simp only [id, recSet_recSet, BitVec.or_assoc]
  refine hend.trans ?_
  rw [lcEnd, if_neg h6]

theorem vaultUsed_programmed (code : Nat) (slot : Option Nat) (bits : BitVec 16) (x : LifeCycle) :
    vaultUsed (recSet (copiesSet code x) slot bits) = vaultUsed x := by cases slot <;> rfl

theorem vaultSet_recSet (secret : W256) (x : LifeCycle) (slot : Option Nat) (bits : BitVec 16) :
    vaultSet secret (recSet x slot bits) = recSet (vaultSet secret x) slot bits := by cases slot <;> rfl

/-- To STOCK with a blank vault: the root secret is drawn into it, and the warm reset follows. -/
theorem run_stock (hq : s.pending = []) (hgo : s.lc.going = some { target := 3, slot := slot, boot := b }) (hv : vaultUsed s.lc = false)
    (he : s.keys.entropyOk = true) :
    core.run 13 s = .next (resetAtOnce (underWay (drawUse s 1) (recSet (vaultSet (drawAt s 0) (copiesSet 3 s.lc)) slot 0x80FB)
      { target := 3, slot := slot, pos := 12, boot := b }) 5 b) := by
  have hdraw : lcTick (underWay s (recSet (copiesSet 3 s.lc) slot (BitVec.ofNat 16 3 ||| 0x78)) ⟨3, slot, 8, b⟩) ⟨3, slot, 8, b⟩ =
      underWay (drawUse s 1) (recSet (vaultSet (drawAt s 0) (copiesSet 3 s.lc)) slot (BitVec.ofNat 16 3 ||| 0x78)) ⟨3, slot, 9, b⟩ := by
    rw [lcTick_draws (s := underWay s _ _) (g := ⟨3, slot, 8, b⟩) (i := 3) (e := (7, vaultSet (drawAt s 0))) rfl rfl rfl ((vaultUsed_programmed 3 slot _ s.lc) ▸ hv) he]
    rw [← vaultSet_recSet]
    rfl
  have hmark : lcTick (underWay (drawUse s 1) (recSet (vaultSet (drawAt s 0) (copiesSet 3 s.lc)) slot (BitVec.ofNat 16 3 ||| 0x78))
      ⟨3, slot, 9, b⟩) ⟨3, slot, 9, b⟩ =
      underWay (drawUse s 1) (recSet (vaultSet (drawAt s 0) (copiesSet 3 s.lc)) slot 0xFB) ⟨3, slot, 10, b⟩ := by
    rw [lcTick_marks (s := underWay (drawUse s 1) _ _) (g := ⟨3, slot, 9, b⟩) (i := 3) (e := (7, vaultSet (drawAt (drawUse s 1) 0))) rfl rfl]
    simp only [underWay, recSet_going, recSet_recSet]
    rfl
  have hdone := run_step (s := drawUse s 1) hq 1 4 (recSet (vaultSet (drawAt s 0) (copiesSet 3 s.lc)) slot 0xFB)
    (g := ⟨3, slot, 10, b⟩) (e := (15, id)) rfl rfl (by decide) fun _ _ => rfl
  have hend := run_ends (s := drawUse s 1) hq (recSet (vaultSet (drawAt s 0) (copiesSet 3 s.lc)) slot 0x80FB) ⟨3, slot, 12, b⟩ rfl
  rw [run_copies hq 5 3 hgo, run_underWay hq, hdraw, run_underWay (s := drawUse s 1) hq, hmark, hdone]
  simp only [id, recSet_recSet]
  exact hend

/-- To STOCK with a vault that holds set bits: it is passed over, and the warm reset follows. -/
theorem run_stock_used (hq : s.pending = []) (hgo : s.lc.going = some { target := 3, slot := slot, boot := b }) (hv : vaultUsed s.lc = true) :
    core.run 12 s = .next (resetAtOnce (underWay s (recSet (copiesSet 3 s.lc) slot 0x807B)
      { target := 3, slot := slot, pos := 12, boot := b }) 5 b) := by
  have hpass : lcTick (underWay s (recSet (copiesSet 3 s.lc) slot (BitVec.ofNat 16 3 ||| 0x78)) ⟨3, slot, 8, b⟩) ⟨3, slot, 8, b⟩ =
      underWay s (recSet (copiesSet 3 s.lc) slot (BitVec.ofNat 16 3 ||| 0x78)) ⟨3, slot, 10, b⟩ := by
    rw [lcTick_passes (s := underWay s _ _) (g := ⟨3, slot, 8, b⟩) (i := 3) (e := (7, vaultSet (drawAt s 0))) rfl rfl rfl ((vaultUsed_programmed 3 slot _ s.lc) ▸ hv)]
    rfl
  have hdone := run_step hq 1 4 (recSet (copiesSet 3 s.lc) slot (BitVec.ofNat 16 3 ||| 0x78))
    (g := ⟨3, slot, 10, b⟩) (e := (15, id)) rfl rfl (by decide) fun _ _ => rfl
  have hend := run_ends hq (recSet (copiesSet 3 s.lc) slot 0x807B) ⟨3, slot, 12, b⟩ rfl
  rw [run_copies hq 4 3 hgo, run_underWay hq, hpass, hdone]
  simp only [id, recSet_recSet]
  exact hend

/-- To SCRAP: copies, vault, trims and flash are wiped, and the module stops as at step 3. -/
theorem run_scrap (hq : s.pending = []) (hgo : s.lc.going = some { target := 6, slot := slot, boot := b }) :
    core.run 17 s = .next (lcEnd (underWay s (stepsDone slot wipeSteps (recSet (copiesSet 6 s.lc) slot (BitVec.ofNat 16 6 ||| 0x78)))
      ⟨6, slot, 16, b⟩) ⟨6, slot, 16, b⟩) := by
  have hwipe := run_steps hq 1 wipeSteps 3 (recSet (copiesSet 6 s.lc) slot (BitVec.ofNat 16 6 ||| 0x78)) ⟨6, slot, 8, b⟩ rfl
    (List.prefix_rfl (l := wipeSteps)) wipeSteps_plain
  rw [run_copies hq 9 6 hgo]
  exact hwipe.trans (run_ends hq _ _ rfl)

theorem recSet_vaults (x : LifeCycle) (slot : Option Nat) (bits : BitVec 16) :
    (recSet x slot bits).copies = x.copies ∧ (recSet x slot bits).vault0 = x.vault0 ∧ (recSet x slot bits).vault1 = x.vault1 := by
  cases slot <;> exact ⟨rfl, rfl, rfl⟩

/-- The wipe leaves the copies, and nothing of vault, trims and flash. -/
theorem stepsDone_wipeSteps (slot : Option Nat) (x : LifeCycle) :
    (stepsDone slot wipeSteps x).copies = x.copies ∧ (stepsDone slot wipeSteps x).vault0 = BitVec.allOnes 256 ∧
      (stepsDone slot wipeSteps x).vault1 = BitVec.allOnes 256 ∧ (stepsDone slot wipeSteps x).trimsWiped = true ∧
      (stepsDone slot wipeSteps x).flashErased = true ∧ (stepsDone slot wipeSteps x).flashImage = [] := by
  cases slot <;> exact ⟨rfl, rfl, rfl, rfl, rfl, rfl⟩

end Sys2Proof.Machine
end

section
/-! SUPPORT. The ends of the transitions, and the commands that start them. -/

namespace Sys2Proof.Machine

variable {s : State} {b : Boot} {k n i : Nat} {p : Port}

/-- The end of a transition whose record was free: the module restarts in the target's state. -/
theorem transition_booted {v : State} {y : LifeCycle} (r : LcRun) {target : Nat} (bits : BitVec 16) (hf : fuseState s k)
    (hfree : recFree s.lc = some i) (hr : s.power.resetN = true) (hn : s.power.strikeN = true) (hb : bootGood b) (hpower : v.power = s.power)
    (hcopies : y.copies = (copiesSet target s.lc).copies) (hrec : y.records = s.lc.records) (hstarts : starts target)
    (hbits : recPending bits = false) (hup : lcCode (lcWord k ||| lcWord target) = some target) :
    Booted (warmStart (underWay v (recSet y (some i) bits) r) 5) (resetAtOnce (underWay v (recSet y (some i) bits) r) 5 b) target :=
  resetAtOnce_booted (fuseState_programmed (t := underWay v (recSet y (some i) bits) r) hf hbits hup hcopies (recSet_free hfree y hrec bits).2)
    hstarts (hpower ▸ hr) (hpower ▸ hn) hb 5

/-- A STOCK record without the mark of its vault leaves the vault unsound. -/
theorem vaultSound_unmarked {x : LifeCycle} {l : List (BitVec 16)} (hi : i < l.length) (h : x.records = l.set i 0x807B) :
    vaultSound x = false := by
  have hmem : (0x807B : BitVec 16) ∈ x.records := h ▸ List.mem_set hi 0x807B
  have hany : x.records.any recVaultless = true := List.any_eq_true.2 ⟨_, hmem, by decide⟩
  rw [vaultSound, hany]
  simp

end Sys2Proof.Machine
end

section
/-! CLAIMS. Life-cycle transitions. -/

namespace Sys2Proof.Machine

/-- Settles O49, by running each transition's half-steps, and by the fuses' vote in the restart at its end. -/
theorem lifeCycleTransitions : Obligations.LifeCycleTransitions := by
  refine ⟨fun s p tag b hmay hst hfree => ?field, fun s p tag b hmay hno => ?fieldBusy, fun s u k confirm b hl ho hu hk => ?port,
    fun s u confirm b hl ho he hu => ?portWaits, fun s b k g i hq hgo hkg hf hfree hr hn hb => ?plain,
    fun s b i hq hgo hf hfree he hv hr hn hb => ?stock, fun s b i hq hgo hf hfree hv hr hn hb => ?used⟩
  case field => exact next_mgmtWrite tag _ hmay (a := ⟨lcStatus (lcGo s 4 b) .ok, .ok, []⟩) (if_pos (by simp [hst, hfree]))
  case fieldBusy =>
    exact next_mgmtWrite tag _ hmay (a := ⟨lcStatus s .busy, .busy, []⟩) (if_neg (by rcases hno with h | h <;> simp [h]))
  case port =>
    subst hu
    refine congrArg Host.Outcome.next ((jtagRun_open hl rfl ho).trans ?_)
    rcases hk with ⟨rfl, hst, htest⟩ | ⟨rfl, hst, htest, he⟩
    · exact (if_neg (by simp)).trans ((if_neg (by decide)).trans (if_pos (by simp [hst, htest])))
    · exact (if_neg (by simp [drawsWait, he])).trans ((if_neg (by decide)).trans (if_pos (by simp [hst, htest])))
  case portWaits =>
    subst hu
    exact congrArg Host.Outcome.next ((jtagRun_open hl rfl ho).trans (if_pos (by simp [drawsWait, he])))
  case plain =>
    obtain ⟨h3, h6, hs, hbits, hup⟩ : g ≠ 3 ∧ g ≠ 6 ∧ starts g ∧ recPending (BitVec.ofNat 16 g ||| 0x8078) = false ∧
        lcCode (lcWord k ||| lcWord g) = some g := by
      rcases hkg with ⟨rfl, rfl⟩ | ⟨rfl, rfl⟩ | ⟨rfl, rfl⟩ <;> decide
    have hboot := transition_booted (v := s) (y := copiesSet g s.lc) ⟨g, some i, 10, b⟩ (BitVec.ofNat 16 g ||| 0x8078) hf hfree hr hn hb rfl rfl
      rfl hs hbits hup
    exact ⟨_, run_plain hq h3 h6 hgo, hboot.ready, hboot.state, hboot.lastCause, hboot.vault0.trans (by rw [warmStart_lc]; rfl),
      hboot.vault1.trans (by rw [warmStart_lc]; rfl), hboot.sessionA, hboot.sessionB⟩
  case stock =>
    have hboot := transition_booted (v := drawUse s 1) (y := vaultSet (drawAt s 0) (copiesSet 3 s.lc)) (target := 3) ⟨3, some i, 12, b⟩ 0x80FB hf
      hfree hr hn hb rfl rfl rfl (by decide) (by decide) (by decide)
    exact ⟨_, run_stock hq hgo hv he, hboot.ready, hboot.state, hboot.testOpen.trans (by rw [warmStart_lc]; rfl),
      hboot.vault0.trans (by rw [warmStart_lc]; rfl), hboot.vault1.trans (by rw [warmStart_lc]; rfl)⟩
  case used =>
    have hboot := transition_booted (v := s) (y := copiesSet 3 s.lc) (target := 3) ⟨3, some i, 12, b⟩ 0x807B hf hfree hr hn hb rfl rfl rfl
      (by decide) (by decide) (by decide)
    obtain ⟨hi, hrec⟩ := recSet_free hfree (copiesSet 3 s.lc) rfl 0x807B
    refine ⟨_, run_stock_used hq hgo hv, hboot.ready, hboot.state, hboot.vaultOk.trans ?_, hboot.vault0.trans (by rw [warmStart_lc]; rfl),
      hboot.vault1.trans (by rw [warmStart_lc]; rfl)⟩
    rw [warmStart_lc, vaultSound_unmarked (x := lcKeep (underWay s (recSet (copiesSet 3 s.lc) (some i) 0x807B) ⟨3, some i, 12, b⟩).lc) hi hrec]
    rfl

end Sys2Proof.Machine
end

section
/-! SUPPORT. The scrap, and the tokens that restart the module. -/

namespace Sys2Proof.Machine

variable {s : State} {b : Boot} {k n i : Nat} {p : Port}

/-- A state with no live session sends nothing on its ports. -/
theorem sendMsg_dead (s : State) (p : Port) (m : Msg) (h : (portOf s.lmx p).session = 0) : sendMsg s p m = s := by
  have hport : portSet s.lmx p (portOf s.lmx p) = s.lmx := by cases p <;> rfl
  simp [sendMsg, h, lmxSend, portSend, hport]

theorem mgmtReply_dead (s : State) (p : Port) (tag : Nat) (st : Status) (data : List Byte) (h : (portOf s.lmx p).session = 0) :
    mgmtReply s p tag st data = s := sendMsg_dead s p _ h

theorem strike_lc (s : State) (cause : Nat) : (strike s cause).lc = lcKeep s.lc := congrArg lcKeep (logAbandoned_keeps s).1

theorem strike_power (s : State) (cause : Nat) : (strike s cause).power = { powerKeep s.power with strikeHeld := true } :=
  congrArg (fun x : Power => { powerKeep x with strikeHeld := true }) (logAbandoned_keeps s).2.1

theorem strike_sessions (s : State) (cause : Nat) (p : Port) : (portOf (strike s cause).lmx p).session = 0 := by cases p <;> rfl

/-- A scrap strikes every key at once, and its fuse steps follow. -/
theorem scrapNow_strikes (s : State) :
    isStruck (scrapNow s) ∧ (scrapNow s).keys.strikeCause = 9 ∧ (scrapNow s).lc.going = some { target := 6, slot := recFree s.lc } ∧
      (scrapNow s).lc.copies = s.lc.copies := by
  have hlc := strike_lc s 9
  refine ⟨⟨rfl, rfl, rfl, rfl, rfl, rfl, rfl, rfl, rfl, rfl⟩, rfl, ?_, ?_⟩
  · simp only [scrapNow, hlc]
    rfl
  · simp only [scrapNow, hlc]
    rfl

end Sys2Proof.Machine
end

section
/-! CLAIMS. The scrap. -/

namespace Sys2Proof.Machine

/-- Settles O50, by the strike at its start, and by running its half-steps. -/
theorem scrapWipesEverything : Obligations.ScrapWipesEverything := by
  refine ⟨fun s p tag confirm hmay hc => ?scrapped, fun s p tag confirm hmay hc => ?refused, fun s confirm b hl ho hc => ?port,
    fun s confirm b hl ho hc => ?portRefused, fun s b slot hq hgo hcopies => ?wiped⟩
  case scrapped =>
    refine ⟨scrapNow s, (next_mgmtWrite tag _ hmay (a := ⟨scrapNow s, .ok, []⟩) (if_pos (by simpa [confirmOk] using hc))).trans ?_,
      scrapNow_strikes s⟩
    exact congrArg Host.Outcome.next (mgmtReply_dead _ p tag .ok [] (by cases p <;> rfl))
  case refused =>
    exact next_mgmtWrite tag _ hmay (a := ⟨lcStatus s .badDescriptor, .badDescriptor, []⟩) (if_neg (by simpa [confirmOk] using hc))
  case port =>
    exact ⟨_, congrArg Host.Outcome.next ((jtagRun_open hl rfl ho).trans ((if_neg (by simp)).trans ((if_pos rfl).trans
      (if_pos (by simpa [confirmOk] using hc))))), scrapNow_strikes _⟩
  case portRefused =>
    exact congrArg Host.Outcome.next ((jtagRun_open hl rfl ho).trans ((if_neg (by simp)).trans ((if_pos rfl).trans
      (if_neg (by simpa [confirmOk] using hc)))))
  case wiped =>
    obtain ⟨x, y, z, hl⟩ := List.length_eq_three.1 hcopies
    obtain ⟨hcop, hv0, hv1, htrims, hflash, himage⟩ := stepsDone_wipeSteps slot (recSet (copiesSet 6 s.lc) slot (BitVec.ofNat 16 6 ||| 0x78))
    have hones : ∀ w : BitVec 16, w ||| lcWord 6 = 0xFFFF := fun w => BitVec.or_allOnes
    have hcopies' := (recSet_vaults (copiesSet 6 s.lc) slot (BitVec.ofNat 16 6 ||| 0x78)).1.trans (copiesSet_copies 6 hl)
    rw [hones, hones, hones] at hcopies'
    exact ⟨_, run_scrap hq hgo, rfl, hcop.trans hcopies', hv0, hv1, htrims, hflash, himage, rfl, rfl, rfl, rfl, rfl⟩

end Sys2Proof.Machine
end

section
/-! SUPPORT. Tokens, and the restarts of those that take keys. -/

namespace Sys2Proof.Machine

variable {s : State} {b : Boot} {k n i : Nat} {p : Port} {c : Challenge}

/-- A token whose purpose is admitted and that is good takes effect once its challenge is consumed. -/
theorem acceptToken_good (hc : s.lc.chal = some c) (hp : purposeAdmitted (lcNow s.lc) c.purpose = true) (hr : tokenReason s c = none) :
    acceptToken b s =
      ⟨dbgStatus (acceptGo (challengeDrop s) c b).1 (acceptGo (challengeDrop s) c b).2 0, (acceptGo (challengeDrop s) c b).2, []⟩ := by
  simp only [acceptToken, hc, hp, hr]
  rfl

theorem acceptToken_failed {r : Nat} (hc : s.lc.chal = some c) (hp : purposeAdmitted (lcNow s.lc) c.purpose = true)
    (hr : tokenReason s c = some r) : acceptToken b s = ⟨dbgStatus (challengeDrop s) .flowDenied r, .flowDenied, []⟩ := by
  simp only [acceptToken, hc, hp, hr]
  rfl

theorem acceptToken_unadmitted (hc : s.lc.chal = some c) (hp : purposeAdmitted (lcNow s.lc) c.purpose = false) :
    acceptToken b s = ⟨dbgStatus (challengeDrop s) .busy 0, .busy, []⟩ := by
  simp only [acceptToken, hc, hp]
  rfl

theorem acceptToken_none (hc : s.lc.chal = none) : acceptToken b s = ⟨dbgStatus s .busy 0, .busy, []⟩ := by
  simp only [acceptToken, hc]

/-- What a good token of purpose 1 beside a Solo rig, of purpose 2, or of purpose 3 with no token left does. -/
theorem acceptGo_stays (h : (c.purpose = 1 ∧ sharedSoon s = false) ∨ c.purpose = 2 ∨ (c.purpose = 3 ∧ s.lc.tokens = BitVec.allOnes 16)) :
    acceptGo s c b =
      if c.purpose = 1 then ({ s with lc := { s.lc with grant := some (BitVec.ofNat 4 (leNat (dbgBytes s 5 1))) } }, .ok)
      else if c.purpose = 2 ∧ lcFree s = true then (lcGo s 5 b, .ok) else (s, .busy) := by
  rcases h with ⟨h1, hshared⟩ | h2 | ⟨h3, htokens⟩
  · simp [acceptGo, h1, hshared]
  · cases hf : lcFree s <;> simp [acceptGo, h2, hf]
  · have hleft : tokensLeft s.lc = 0 := by rw [tokensLeft, htokens]; decide
    simp [acceptGo, h3, hleft]

/-- A strike over a token reaches READY again, with what is kept across that restart. -/
theorem debugStrike_booted (keep : LifeCycle → LifeCycle) (hkeep : ∀ x, (keep x).records = x.records ∧ (keep x).copies = x.copies)
    (hf : fuseState s k) (hk : starts k) (hr : s.power.resetN = true) (hn : s.power.strikeN = true) (h : bootGood b) :
    Booted { strike s 7 with lc := keep (lcKeep s.lc) } (debugStrike s keep b) k := by
  have hlc := strike_lc s 7
  rw [debugStrike, hlc]
  refine restart_booted ?_ hk ?_ ?_ h
  · obtain ⟨hrec, hcop⟩ := hkeep (lcKeep s.lc)
    simp only [fuseState, hrec, hcop]
    exact hf
  · exact (congrArg Power.resetN (strike_power s 7)).trans hr
  · exact (congrArg Power.strikeN (strike_power s 7)).trans hn

/-- The lowest clear token bit is the one used. -/
theorem tokenUse_lowest {x : LifeCycle} (hi : i < 16) (hclear : x.tokens.getLsbD i = false) (hbelow : ∀ j, j < i → x.tokens.getLsbD j = true) :
    (tokenUse x).tokens = x.tokens ||| BitVec.ofNat 16 (2 ^ i) := by
  have hfind : (List.range 16).find? (fun j => !(x.tokens.getLsbD j)) = some i := by
    rw [List.find?_range_eq_some]
    exact ⟨by simp [hclear], List.mem_range.2 hi, fun j hj => by simp [hbelow j hj]⟩
  simp [tokenUse, hfind]

/-- With a bit clear a token is left. -/
theorem tokensLeft_clear {x : LifeCycle} (hi : i < 16) (hclear : x.tokens.getLsbD i = false) : tokensLeft x ≠ 0 := by
  have hlt : (bitList 16 x.tokens.toNat).length < (List.range 16).length := by
    refine List.length_filter_lt_length_iff_exists.2 ⟨i, List.mem_range.2 hi, ?_⟩
    simpa [BitVec.getLsbD] using hclear
  rw [tokensLeft, popCount]
  simp only [List.length_range] at hlt
  omega

/-- A token that strikes leaves a module that is ready, with no session to reply on. -/
theorem debugStrike_replies (keep : LifeCycle → LifeCycle) (hkeep : ∀ x, (keep x).records = x.records ∧ (keep x).copies = x.copies)
    (hf : fuseState s k) (hk : starts k) (hr : s.power.resetN = true) (hn : s.power.strikeN = true) (h : bootGood b) (p : Port) (tag : Nat) :
    mgmtReply (dbgStatus (debugStrike s keep b) .ok 0) p tag .ok [] = dbgStatus (debugStrike s keep b) .ok 0 := by
  have hboot := debugStrike_booted keep hkeep hf hk hr hn h
  refine mgmtReply_dead _ p tag .ok [] ?_
  cases p
  · exact hboot.sessionA
  · exact hboot.sessionB

end Sys2Proof.Machine
end

section
/-! CLAIMS. Tokens. -/

namespace Sys2Proof.Machine

/-- Settles O52, by what a token that is refused, one that stays and one that strikes do. -/
theorem tokensOpenWhatTheyGrant : Obligations.TokensOpenWhatTheyGrant := by
  refine ⟨fun s p tag b hmay hc => next_mgmtWrite tag _ hmay (acceptToken_none hc), fun s u p tag b c hmay hc hu =>
    ⟨fun hp => ?unadmitted, fun hp hstay => ?stays, fun k hp h1 hshared hf hk hr hn hb => ?grant,
      fun k i hp h3 hi hclear hbelow hf hk hr hn hb => ?test⟩, fun s p tag hmay => next_mgmtWrite tag _ hmay rfl⟩
  all_goals obtain rfl : u = challengeDrop s := hu
  case unadmitted => exact next_mgmtWrite tag _ hmay (acceptToken_unadmitted hc hp)
  case stays =>
    split
    · next r hr => exact next_mgmtWrite tag _ hmay (acceptToken_failed hc hp hr)
    · next hr =>
      have hgood := acceptToken_good (b := b) hc hp hr
      have hfree : lcFree (challengeDrop s) = lcFree s := rfl
      rw [acceptGo_stays (s := challengeDrop s) hstay, hfree] at hgood
      split_ifs at hgood ⊢ with h1 h2
      · exact next_mgmtWrite tag _ hmay hgood
      · exact next_mgmtWrite tag _ hmay hgood
      · exact next_mgmtWrite tag _ hmay hgood
  case grant =>
    cases hreason : tokenReason s c with
    | some r => exact ⟨_, next_mgmtWrite tag _ hmay (acceptToken_failed hc hp hreason), rfl⟩
    | none =>
      have hgo : acceptGo (challengeDrop s) c b = (debugStrike (challengeDrop s) (fun x => { x with grant := some (BitVec.ofNat 4 (leNat
          (dbgBytes s 5 1))) }) b, .ok) := (if_pos h1).trans (if_pos hshared)
      have hgood := acceptToken_good (b := b) hc hp hreason
      rw [hgo] at hgood
      have hboot := debugStrike_booted (s := challengeDrop s) (fun x => { x with grant := some (BitVec.ofNat 4 (leNat (dbgBytes s 5 1))) })
        (fun _ => ⟨rfl, rfl⟩) hf hk hr hn hb
      have hreply := debugStrike_replies (s := challengeDrop s) (fun x => { x with grant := some (BitVec.ofNat 4 (leNat (dbgBytes s 5 1))) })
        (fun _ => ⟨rfl, rfl⟩) hf hk hr hn hb p tag
      exact ⟨_, (next_mgmtWrite tag _ hmay hgood).trans (congrArg Host.Outcome.next hreply), hboot.ready, hboot.strikeCause, hboot.house,
        hboot.grant, hboot.chal⟩
  case test =>
    cases hreason : tokenReason s c with
    | some r => exact ⟨_, next_mgmtWrite tag _ hmay (acceptToken_failed hc hp hreason), rfl⟩
    | none =>
      have hgo : acceptGo (challengeDrop s) c b = (debugStrike { challengeDrop s with lc := tokenUse (challengeDrop s).lc }
          (fun x => { x with testOpen := true }) b, .ok) :=
        (if_neg (by omega)).trans ((if_neg (by omega)).trans (if_neg (tokensLeft_clear hi hclear)))
      have hgood := acceptToken_good (b := b) hc hp hreason
      rw [hgo] at hgood
      have hboot := debugStrike_booted (s := { challengeDrop s with lc := tokenUse (challengeDrop s).lc }) (fun x => { x with testOpen := true })
        (fun _ => ⟨rfl, rfl⟩) hf hk hr hn hb
      have hreply := debugStrike_replies (s := { challengeDrop s with lc := tokenUse (challengeDrop s).lc }) (fun x => { x with testOpen := true })
        (fun _ => ⟨rfl, rfl⟩) hf hk hr hn hb p tag
      exact ⟨_, (next_mgmtWrite tag _ hmay hgood).trans (congrArg Host.Outcome.next hreply), hboot.ready, hboot.testOpen, hboot.strikeCause,
        hboot.tokens.trans (tokenUse_lowest hi hclear hbelow)⟩

end Sys2Proof.Machine
end

section
/-! SUPPORT. Key rotations: what reads and write-backs leave of the walks, and what a walk takes. -/

namespace Sys2Proof.Machine

variable {s t u : State} {n a : Nat}

/-- What a rotation of a range goes by: its walk, how far each controller's is, and the slots. -/
def rotation (k : RangeKey) : Nat × List Nat × Nat × Nat × Bool := (k.walk, k.walkPos, k.curSlot, k.prevSlot, k.prevStruck)

/-- The key slots, the rig and every range's rotation are as they were. -/
structure RotationKept (s t : State) : Prop where
  keys : t.keys = s.keys
  rig : t.rig = s.rig
  ranges : t.ciph.ranges.map rotation = s.ciph.ranges.map rotation

namespace RotationKept

theorem refl (s : State) : RotationKept s s := ⟨rfl, rfl, rfl⟩

theorem trans (h : RotationKept s t) (k : RotationKept t u) : RotationKept s u :=
  ⟨k.keys.trans h.keys, k.rig.trans h.rig, k.ranges.trans h.ranges⟩

theorem after (k : RotationKept t u) (h : RotationKept s t) : RotationKept s u := h.trans k

theorem length (h : RotationKept s t) : t.ciph.ranges.length = s.ciph.ranges.length := by
  simpa using congrArg List.length h.ranges

theorem rotation_eq (h : RotationKept s t) (n : Nat) : rotation (rangeKey t n) = rotation (rangeKey s n) := by
  rw [rangeKey, ← List.getD_map (f := rotation), h.ranges, List.getD_map, rangeKey]

theorem foldl {α : Type} {f : State → α → State} (h : ∀ s x, RotationKept s (f s x)) : ∀ (l : List α) (s : State), RotationKept s (l.foldl f s)
  | [], s => .refl s
  | x :: l, s => (h s x).trans (foldl h l _)

end RotationKept

/-- A change of a range that is none of its rotation. -/
theorem rangeKeyMod_rotation (x : Cipher) (n : Nat) {f : RangeKey → RangeKey} (h : ∀ k, rotation (f k) = rotation k) :
    (rangeKeyMod x n f).ranges.map rotation = x.ranges.map rotation := by
  refine List.ext_getElem? fun i => ?_
  simp only [rangeKeyMod, List.getElem?_map, modAt_getElem?]
  split
  · cases x.ranges[i]? <;> simp [h]
  · rfl

/-! ### Reads -/

theorem cacheAdd_rotation (s : State) (frame : Nat) (x : CacheLine) : RotationKept s (cacheAdd s frame x) := by
  unfold cacheAdd cacheRoom
  dsimp only
  repeat' split
  all_goals exact ⟨rfl, rfl, rfl⟩

theorem cacheCount_rotation (s : State) (stack : Nat) (hit : Bool) : RotationKept s (cacheCount s stack hit) := by
  cases hit <;> exact ⟨rfl, rfl, rfl⟩

theorem fetchNode_rotation (quiet : Bool) (s : State) (n stack frame : Nat) (mac : Bool) (level index : Nat) :
    RotationKept s (fetchNode quiet s n stack frame mac level index).1 := by
  unfold fetchNode
  dsimp only
  split
  · exact ⟨rfl, rfl, rfl⟩
  · exact (cacheAdd_rotation _ _ _).after ⟨rfl, rfl, rfl⟩

theorem ensureNode_rotation (quiet : Bool) (n stack i : Nat) : ∀ (k level : Nat) (s : State),
    RotationKept s (ensureNode quiet n stack i k level s).1
  | 0, _, s => .refl s
  | k + 1, level, s => by
    have habove := ensureNode_rotation quiet n stack i k (level + 1) s
    simp only [ensureNode]
    split
    · exact cacheCount_rotation _ _ _
    · split
      · exact habove.trans (fetchNode_rotation _ _ _ _ _ _ _ _)
      · exact habove

theorem fetchPath_rotation (quiet : Bool) (s : State) (n a : Nat) : RotationKept s (fetchPath quiet s n a).1 := by
  have hnodes := ensureNode_rotation quiet n (stackOf a) (frameIndex (rangeCfg s n) a) (levelsOf (rangeCfg s n)).length 0 s
  unfold fetchPath
  dsimp only
  split
  · exact .refl s
  · split
    · split
      · exact hnodes.trans (cacheCount_rotation _ _ _)
      · split <;> exact hnodes.trans (fetchNode_rotation _ _ _ _ _ _ _ _)
    · exact hnodes

theorem readUnit_rotation (quiet : Bool) (s : State) (n a : Nat) : RotationKept s (readUnit quiet s n a).st := by
  have hpath : ∀ m, RotationKept s (fetchPath quiet { s with mem := m } n a).1 := fun m =>
    (fetchPath_rotation quiet _ n a).after ⟨rfl, rfl, rfl⟩
  unfold readUnit
  dsimp only
  repeat' split
  any_goals exact hpath _
  all_goals exact ⟨rfl, rfl, rfl⟩

theorem failRange_rotation (s : State) (w : Who) (n a : Nat) (st : Status) (level : Nat) : RotationKept s (failRange s w n a st level) := by
  have hcount := rangeKeyMod_rotation s.ciph n (f := fun k => match st with
    | .memIntegrity => { k with macFail := satAdd 16 k.macFail 1 }
    | .memUnverifiable => { k with unver := satAdd 16 k.unver 1 }
    | .counterExhausted => { k with exhausted := satAdd 16 k.exhausted 1 }
    | _ => k) fun k => by cases st <;> rfl
  unfold failRange
  dsimp only
  split <;> exact ⟨rfl, rfl, hcount⟩

/-! ### Write-backs -/

theorem storeUnit_rotation (s : State) (n a : Nat) : RotationKept s (storeUnit s n a) :=
  ⟨rfl, rfl, rangeKeyMod_rotation s.ciph n fun k => by split <;> rfl⟩

theorem mergeStore_rotation (s : State) (e : MergeEntry) : RotationKept s (mergeStore s e) := by
  unfold mergeStore
  split
  · exact (storeUnit_rotation s _ _).trans ⟨rfl, rfl, rfl⟩
  · exact ⟨rfl, rfl, rfl⟩

theorem mergeHold_rotation : ∀ (fuel : Nat) (s : State) (stack key lines : Nat), RotationKept s (mergeHold fuel s stack key lines)
  | 0, _, _, _, _ => ⟨rfl, rfl, rfl⟩
  | fuel + 1, s, stack, key, lines => by
    have holdest : RotationKept s (mergeOldest s stack) := by
      unfold mergeOldest
      split
      · exact .refl s
      · exact mergeStore_rotation s _
    simp only [mergeHold]
    split
    · exact holdest.trans (mergeHold_rotation fuel _ _ _ _)
    · exact ⟨rfl, rfl, rfl⟩

/-! ### The walk's units -/

theorem walkDead_rotation (s : State) (n a : Nat) : RotationKept s (walkDead s n a) :=
  ⟨rfl, rfl, rangeKeyMod_rotation s.ciph n fun _ => rfl⟩

theorem walkRead_rotation (s : State) (n a : Nat) : RotationKept s (walkRead s n a).st := by
  have hread := readUnit_rotation false s n a
  unfold walkRead
  dsimp only
  split
  · exact hread
  · exact (hread.trans (failRange_rotation _ _ _ _ _ _)).trans (readUnit_rotation _ _ _ _)

theorem walkUnit_rotation (n a : Nat) (s : State) : RotationKept s (walkUnit n a s) := by
  have hread := walkRead_rotation s n a
  unfold walkUnit
  dsimp only
  split
  · exact .refl s
  split
  · split
    · exact hread.trans (walkDead_rotation _ _ _)
    · split
      · exact hread.trans (mergeHold_rotation _ _ _ _ _)
      · exact hread.trans ((mergeHold_rotation _ _ _ _ _).after ⟨rfl, rfl, rfl⟩)
  · split
    · exact hread.trans (failRange_rotation _ _ _ _ _ _)
    · exact (hread.trans (failRange_rotation _ _ _ _ _ _)).trans (walkDead_rotation _ _ _)

/-! ### The walks (R325) -/

/-- A walk under way: the walks' places are as given, and all else that a rotation goes by is as it was. -/
structure Walked (s t : State) (n : Nat) (places : List Nat) : Prop where
  keys : t.keys = s.keys
  rig : t.rig = s.rig
  length : t.ciph.ranges.length = s.ciph.ranges.length
  walk : (rangeKey t n).walk = (rangeKey s n).walk
  walkPos : (rangeKey t n).walkPos = places
  curSlot : (rangeKey t n).curSlot = (rangeKey s n).curSlot
  prevSlot : (rangeKey t n).prevSlot = (rangeKey s n).prevSlot
  prevStruck : (rangeKey t n).prevStruck = (rangeKey s n).prevStruck

theorem Walked.refl (s : State) (n : Nat) : Walked s s n (rangeKey s n).walkPos := ⟨rfl, rfl, rfl, rfl, rfl, rfl, rfl, rfl⟩

theorem shareUnits_rig (h : t.rig = s.rig) (n : Nat) : shareUnits t n = shareUnits s n := by
  simp only [shareUnits, unitCount, rangeCfg, h]

/-- A change of one range is read back. -/
theorem rangeKey_rangeKeyMod {x : State} {f : RangeKey → RangeKey} (h : n < x.ciph.ranges.length) :
    (rangeKeyMod x.ciph n f).ranges.getD n {} = f (rangeKey x n) := modAt_getD f {} h

/-- Where one controller's walk has come. -/
def walkPlace (s : State) (n : Nat) (units : List Nat) (stack : Nat) : Nat :=
  (rangeKey s n).walkPos.getD stack 0 + min (units.getD stack 0) (shareUnits s n - (rangeKey s n).walkPos.getD stack 0)

theorem walkStack_walked {places : List Nat} {stack k : Nat} (h : Walked s t n places) (hn : n < s.ciph.ranges.length) :
    Walked s (walkStack n stack k t) n (places.set stack (places.getD stack 0 + min k (shareUnits s n - places.getD stack 0))) := by
  have hunits := RotationKept.foldl (f := fun t a => walkUnit n a t) (fun t a => walkUnit_rotation n a t)
    ((List.range (min k (shareUnits t n - (rangeKey t n).walkPos.getD stack 0))).map fun i => shareUnit t n stack
      ((rangeKey t n).walkPos.getD stack 0 + i)) t
  have hrot := hunits.rotation_eq n
  unfold walkStack
  dsimp only
  generalize ((List.range (min k (shareUnits t n - (rangeKey t n).walkPos.getD stack 0))).map fun i => shareUnit t n stack
      ((rangeKey t n).walkPos.getD stack 0 + i)).foldl (fun t a => walkUnit n a t) t = u at *
  obtain ⟨hwalk, hpos, hcur, hprev, hstruck⟩ : (rangeKey u n).walk = _ ∧ (rangeKey u n).walkPos = _ ∧ (rangeKey u n).curSlot = _ ∧
      (rangeKey u n).prevSlot = _ ∧ (rangeKey u n).prevStruck = _ := by simpa [rotation] using hrot
  have hlen : n < u.ciph.ranges.length := by rw [hunits.length, h.length]; exact hn
  refine ⟨hunits.keys.trans h.keys, hunits.rig.trans h.rig, ?_, ?_, ?_, ?_, ?_, ?_⟩
  · simpa [rangeKeyMod, modAt] using hunits.length.trans h.length
  all_goals rw [rangeKey, rangeKey_rangeKeyMod hlen]
  · exact hwalk.trans h.walk
  · simp only [hpos, h.walkPos, shareUnits_rig h.rig]
  · exact hcur.trans h.curSlot
  · exact hprev.trans h.prevSlot
  · exact hstruck.trans h.prevStruck

/-- The places after the first j controllers' walks. -/
def placesTo (s : State) (n : Nat) (units : List Nat) (j : Nat) : List Nat :=
  (List.range 8).map fun k => if k < j then walkPlace s n units k else (rangeKey s n).walkPos.getD k 0

theorem placesTo_zero (units : List Nat) (h8 : (rangeKey s n).walkPos.length = 8) : placesTo s n units 0 = (rangeKey s n).walkPos :=
  List.ext_getElem (by simp [placesTo, h8]) fun i _ h => by simp [placesTo, h]

theorem placesTo_eight (s : State) (n : Nat) (units : List Nat) : placesTo s n units 8 = (List.range 8).map (walkPlace s n units) :=
  List.map_congr_left fun _ hk => if_pos (List.mem_range.1 hk)

theorem placesTo_next (s : State) (n : Nat) (units : List Nat) {j : Nat} (hj : j < 8) :
    (placesTo s n units j).set j (walkPlace s n units j) = placesTo s n units (j + 1) ∧
      (placesTo s n units j).getD j 0 = (rangeKey s n).walkPos.getD j 0 := by
  refine ⟨List.ext_getElem (by simp [placesTo]) fun i h1 h2 => ?_, by simp [placesTo, hj]⟩
  simp only [placesTo, List.getElem_set, List.getElem_map, List.getElem_range]
  by_cases hij : j = i
  · subst hij
    simp
  · rw [if_neg hij]
    exact if_congr (by omega) rfl rfl

/-- The eight controllers' walks each come to their place. -/
theorem walkStacks_walked (units : List Nat) (hn : n < s.ciph.ranges.length) (h8 : (rangeKey s n).walkPos.length = 8) :
    Walked s ((List.range 8).foldl (fun t st => walkStack n st (units.getD st 0) t) s) n ((List.range 8).map (walkPlace s n units)) := by
  have hto : ∀ j, j ≤ 8 → Walked s ((List.range j).foldl (fun t st => walkStack n st (units.getD st 0) t) s) n (placesTo s n units j) := by
    intro j
    induction j with
    | zero => exact fun _ => placesTo_zero units h8 ▸ .refl s n
    | succ j ih =>
      intro hj
      obtain ⟨hset, hold⟩ := placesTo_next s n units (show j < 8 by omega)
      have hstep := walkStack_walked (stack := j) (k := units.getD j 0) (ih (by omega)) hn
      rw [hold, ← walkPlace, hset] at hstep
      rw [List.range_succ, List.foldl_append]
      exact hstep
  exact placesTo_eight s n units ▸ hto 8 (Nat.le_refl 8)

/-- What a walk's next units leave of its range. -/
theorem walkGo_walks (units : List Nat) (hn : n < s.ciph.ranges.length) (h8 : (rangeKey s n).walkPos.length = 8)
    (h2 : (rangeKey s n).walk = 2) (hopen : systemOpen s = true) :
    ∃ t, Walked s t n ((List.range 8).map (walkPlace s n units)) ∧
      (rangeKey t n).doneMib = ((List.range 8).map (walkPlace s n units)).sum * unitBytes (rangeCfg s n) / 2 ^ 20 ∧
      walkGo n units s = if ((List.range 8).map (walkPlace s n units)).all (· == shareUnits s n) then walkEnd n t else t := by
  have hwalked := walkStacks_walked units hn h8
  have hgo : ((rangeKey s n).walk = 2 && systemOpen s) = true := by simp [h2, hopen]
  generalize hv : (List.range 8).foldl (fun t st => walkStack n st (units.getD st 0) t) s = v at hwalked
  have hlen : n < v.ciph.ranges.length := hwalked.length ▸ hn
  have hplaces := hwalked.walkPos
  generalize (List.range 8).map (walkPlace s n units) = places at *
  refine ⟨{ v with ciph := rangeKeyMod v.ciph n fun x => { x with doneMib := places.sum * unitBytes (rangeCfg s n) / 2 ^ 20 } }, ?_, ?_, ?_⟩
  · refine ⟨hwalked.keys, hwalked.rig, by simpa [rangeKeyMod, modAt] using hwalked.length, ?_, ?_, ?_, ?_, ?_⟩
    all_goals rw [rangeKey, rangeKey_rangeKeyMod hlen]
    · exact hwalked.walk
    · exact hplaces
    · exact hwalked.curSlot
    · exact hwalked.prevSlot
    · exact hwalked.prevStruck
  · rw [rangeKey, rangeKey_rangeKeyMod hlen]
  · unfold walkGo
    rw [if_pos (by simpa using hgo)]
    dsimp only
    rw [hv, hplaces, ← List.sum_eq_foldl]

/-- The end of a rotation zeroizes a previous slot that no strike took. -/
theorem walkEnd_ends (hn : n < t.ciph.ranges.length) (hstruck : (rangeKey t n).prevStruck = false) :
    (rangeKey (walkEnd n t) n).walk = 3 ∧ (rangeKey (walkEnd n t) n).prevValid = false ∧ (rangeKey (walkEnd n t) n).prevSub = [] ∧
      (walkEnd n t).keys.slots.getD (rangeKey t n).prevSlot {} = {} ∧ (rangeKey (walkEnd n t) n).curSlot = (rangeKey t n).curSlot := by
  have hkept := RotationKept.foldl mergeStore_rotation (t.mem.merge.filter fun e => rangeAny t (64 * e.key) == some n) t
  unfold walkEnd
  dsimp only
  rw [hstruck]
  generalize (t.mem.merge.filter fun e => rangeAny t (64 * e.key) == some n).foldl mergeStore t = v at *
  have hrot := hkept.rotation_eq n
  obtain ⟨-, -, hcur, -, -⟩ : (rangeKey v n).walk = _ ∧ (rangeKey v n).walkPos = _ ∧ (rangeKey v n).curSlot = _ ∧
      (rangeKey v n).prevSlot = _ ∧ (rangeKey v n).prevStruck = _ := by simpa [rotation] using hrot
  have hlen : n < (slotPut v (rangeKey t n).prevSlot {}).ciph.ranges.length := by
    change n < v.ciph.ranges.length
    rw [hkept.length]
    exact hn
  have hslot : (slotPut v (rangeKey t n).prevSlot {}).keys.slots.getD (rangeKey t n).prevSlot {} = {} := by
    by_cases h : (rangeKey t n).prevSlot < v.keys.slots.length <;> simp [slotPut, h]
  refine ⟨?_, ?_, ?_, hslot, ?_⟩
  all_goals rw [rangeKey]
  · exact congrArg RangeKey.walk (rangeKey_rangeKeyMod hlen)
  · exact congrArg RangeKey.prevValid (rangeKey_rangeKeyMod hlen)
  · exact congrArg RangeKey.prevSub (rangeKey_rangeKeyMod hlen)
  · exact (congrArg RangeKey.curSlot (rangeKey_rangeKeyMod hlen)).trans hcur

end Sys2Proof.Machine
end

section
/-! SUPPORT. REKEY, REINIT, the end of a fill, and the memory window. -/

namespace Sys2Proof.Machine

variable {s t u : State} {n slot pace k : Nat} {p : Port}

theorem rekey_refused {st : Status} (hn : n < 32) (h : rekeyCheck s n slot = some st) : rekey n slot pace s = ⟨ciphStatus s n st, st, []⟩ := by
  rw [rekey, if_neg (by omega), h]

theorem freeDrawn_slot (h : freeDrawn s = some k) : 128 ≤ k ∧ k < 256 := by
  have hmem := List.mem_of_find?_eq_some h
  simp only [List.mem_map, List.mem_range] at hmem
  omega

/-- A slot that serves a rotation keeps its key, locked. -/
theorem rekeyStart_slot (s : State) (n pace : Nat) {slot : Nat} (h : slot < s.keys.slots.length) :
    ((rekeyStart s n slot pace).keys.slots.getD slot {}).key = (s.keys.slots.getD slot {}).key ∧
      ((rekeyStart s n slot pace).keys.slots.getD slot {}).locked = true := by
  have hlen : slot < (modAt s.keys.slots (rangeKey s n).curSlot fun k => { k with prev := true }).length := by simpa [modAt] using h
  change ((modAt (modAt s.keys.slots (rangeKey s n).curSlot fun k => { k with prev := true }) slot fun k => { k with locked := true }).getD slot
    {}).key = _ ∧ ((modAt (modAt s.keys.slots (rangeKey s n).curSlot fun k => { k with prev := true }) slot fun k =>
    { k with locked := true }).getD slot {}).locked = true
  rw [modAt_getD _ _ hlen]
  refine ⟨?_, rfl⟩
  by_cases hs : slot = (rangeKey s n).curSlot
  · rw [← hs, modAt_getD _ _ h]
  · rw [modAt_getD_other _ _ _ hs]

/-- A rotation that starts: the old slot is the previous one, the walk runs. -/
theorem rekeyStart_range (slot pace : Nat) (hn : n < s.ciph.ranges.length) :
    (rangeKey (rekeyStart s n slot pace) n).curSlot = slot ∧ (rangeKey (rekeyStart s n slot pace) n).prevSlot = (rangeKey s n).curSlot ∧
      (rangeKey (rekeyStart s n slot pace) n).prevValid = true ∧ (rangeKey (rekeyStart s n slot pace) n).walk = 2 ∧
      (rangeKey (rekeyStart s n slot pace) n).gen = (rangeKey s n).gen + 1 := by
  have hget : rangeKey (rekeyStart s n slot pace) n = _ := modAt_getD _ {} (l := s.ciph.ranges) hn
  rw [hget]
  exact ⟨rfl, rfl, rfl, rfl, rfl⟩

theorem rekeyStart_others (s : State) (n slot pace : Nat) {m : Nat} (h : m ≠ n) : rangeKey (rekeyStart s n slot pace) m = rangeKey s m :=
  modAt_getD_other s.ciph.ranges _ {} h

end Sys2Proof.Machine
end

section
/-! SUPPORT. Fills, what waits for them, and the memory window. -/

namespace Sys2Proof.Machine

variable {s t u : State} {n slot pace k : Nat} {p : Port}

/-- A rotation to a drawn key: what it leaves of the range, its slots and the draws. -/
theorem rekey_drawn (hn : n < 32) (hlen : n < s.ciph.ranges.length) (hslots : s.keys.slots.length = 256) (hck : rekeyCheck s n slot = none)
    (hsrc : (rangeCfg s n).keySource = 0) (hfree : freeDrawn s = some k) :
    ∃ u, rekey n slot pace s = ⟨u, .ok, []⟩ ∧ (rangeKey u n).curSlot = k ∧ (rangeKey u n).prevSlot = (rangeKey s n).curSlot ∧
      (rangeKey u n).prevValid = true ∧ (rangeKey u n).walk = 2 ∧ (rangeKey u n).gen = (rangeKey s n).gen + 1 ∧
      (u.keys.slots.getD k {}).key = drawAt s 0 ∧ (u.keys.slots.getD k {}).locked = true ∧ u.draws = s.draws + 1 ∧ u.mem = s.mem ∧
      ∀ m, m ≠ n → rangeKey u m = rangeKey s m := by
  obtain ⟨-, hhi⟩ := freeDrawn_slot hfree
  obtain ⟨v, hdo, hslot, hlength, hdraws, hmem, hciph⟩ : ∃ v, rekey n slot pace s = ⟨ciphStatus (rekeyStart v n k pace) n .ok, .ok, []⟩ ∧
      (v.keys.slots.getD k {}).key = drawAt s 0 ∧ k < v.keys.slots.length ∧ v.draws = s.draws + 1 ∧ v.mem = s.mem ∧ v.ciph = s.ciph := by
    refine ⟨drawUse (slotPut s k (drawnRangeKey (rangeCfg s n).ownerSet n (drawAt s 0))) 1, ?_,
      congrArg KeySlot.key (slotPut_same s _ (by omega)), ?_, rfl, rfl, rfl⟩
    · rw [rekey, if_neg (by omega), hck]
      simp only [if_pos hsrc, hfree, Option.getD_some]
    · simp only [drawUse, slotPut, List.length_set]
      omega
  obtain ⟨hkey, hlocked⟩ := rekeyStart_slot v n pace hlength
  obtain ⟨hcur, hprev, hvalid, hwalk, hgen⟩ := rekeyStart_range (s := v) k pace (hciph ▸ hlen)
  have hrange : ∀ m, rangeKey v m = rangeKey s m := fun m => by simp only [rangeKey, hciph]
  exact ⟨_, hdo, hcur, hprev.trans (by rw [hrange]), hvalid, hwalk, hgen.trans (by rw [hrange]), hkey.trans hslot, hlocked, hdraws, hmem,
    fun m hm => (rekeyStart_others v n k pace hm).trans (hrange m)⟩

/-- A rotation to a delivered key. -/
theorem rekey_delivered (hn : n < 32) (hlen : n < s.ciph.ranges.length) (hslot : slot < s.keys.slots.length)
    (hck : rekeyCheck s n slot = none) (hsrc : (rangeCfg s n).keySource ≠ 0) :
    ∃ u, rekey n slot pace s = ⟨u, .ok, []⟩ ∧ (rangeKey u n).curSlot = slot ∧ (rangeKey u n).prevSlot = (rangeKey s n).curSlot ∧
      (rangeKey u n).walk = 2 ∧ (u.keys.slots.getD slot {}).locked = true ∧
      (u.keys.slots.getD slot {}).key = (s.keys.slots.getD slot {}).key ∧ u.draws = s.draws ∧ u.mem = s.mem := by
  have hdo : rekey n slot pace s = ⟨ciphStatus (rekeyStart s n slot pace) n .ok, .ok, []⟩ := by
    rw [rekey, if_neg (by omega), hck]
    simp only [if_neg hsrc]
  obtain ⟨hkey, hlocked⟩ := rekeyStart_slot s n pace hslot
  obtain ⟨hcur, hprev, -, hwalk, -⟩ := rekeyStart_range slot pace hlen
  exact ⟨_, hdo, hcur, hprev, hwalk, hlocked, hkey, rfl, rfl⟩

/-- A refill is a fill of the range's own lines. -/
theorem refill_fills (s : State) (n : Nat) : ∃ v slot, refill s n = fillRange v n slot 1 ∧ v.mem = s.mem ∧ v.rig = s.rig ∧ v.ciph = s.ciph := by
  unfold refill
  dsimp only
  split
  · split
    · exact ⟨_, _, rfl, by split <;> rfl, by split <;> rfl, by split <;> rfl⟩
    · exact ⟨_, _, rfl, by split <;> rfl, by split <;> rfl, by split <;> rfl⟩
  · exact ⟨_, _, rfl, rfl, rfl, rfl⟩

theorem fillRange_walk (v : State) (slot : Option Nat) (walk : Nat) (h : n < v.ciph.ranges.length) :
    (rangeKey (fillRange v n slot walk) n).walk = walk := by
  have hget : rangeKey (fillRange v n slot walk) n = _ := modAt_getD _ {} (l := v.ciph.ranges) h
  rw [hget]
  rfl

theorem fillRange_others (v : State) (slot : Option Nat) (walk : Nat) {m : Nat} (h : m ≠ n) :
    rangeKey (fillRange v n slot walk) m = rangeKey v m := modAt_getD_other v.ciph.ranges _ {} h

/-- A fill leaves every byte outside its range. -/
theorem fillRange_outside (v : State) (slot : Option Nat) (walk : Nat) {a : Nat}
    (h : a < (rangeCfg v n).base ∨ (rangeCfg v n).base + (rangeCfg v n).size ≤ a) :
    memByte (fillRange v n slot walk) a = memByte v a := by
  change smGet 0 (smDrop v.mem.cells _ _) a = smGet 0 v.mem.cells a
  rw [smGet_smDrop, if_neg (by omega)]

/-- A REINIT that is accepted zeroes its range and starts the fill. -/
theorem reinit_fills (hn : n < 33) (hlen : n < s.ciph.ranges.length) (hck : reinitCheck s n = none) :
    ∃ u, reinit n s = ⟨u, .ok, []⟩ ∧ (rangeKey u n).walk = 1 ∧
      (∀ a, (rangeCfg s n).base ≤ a → a < (rangeCfg s n).base + (rangeCfg s n).size → memByte u a = 0) ∧
      (∀ a, (a < (rangeCfg s n).base ∨ (rangeCfg s n).base + (rangeCfg s n).size ≤ a) → memByte u a = memByte s a) ∧
      ∀ m, m ≠ n → rangeKey u m = rangeKey s m := by
  have hdo : reinit n s = ⟨ciphStatus (refill s n) n .ok, .ok, []⟩ := by rw [reinit, if_neg (by omega), hck]
  obtain ⟨v, slot, hfill, hmem, hrig, hciph⟩ := refill_fills s n
  have hcfg : rangeCfg v n = rangeCfg s n := by simp only [rangeCfg, hrig]
  rw [hfill] at hdo
  refine ⟨_, hdo, fillRange_walk v slot 1 (hciph ▸ hlen), fun a hlo hhi => ?_, fun a ha => ?_, fun m hm => ?_⟩
  · exact fillRange_zero v n slot 1 a (hcfg ▸ hlo) (hcfg ▸ hhi)
  · exact (fillRange_outside v slot 1 (hcfg ▸ ha)).trans (by simp only [memByte, hmem])
  · exact (fillRange_others v slot 1 hm).trans (by simp only [rangeKey, hciph])

/-- Where every accepted command has its body, no wait is left to evaluate. -/
theorem evalWaits_bodies (h : ∀ c ∈ s.sp.cmds, c.phase = .accepted → c.body.isSome = true) : evalWaits s = s := by
  have hone : ∀ cid, evalWait s cid = s := fun cid => by
    unfold evalWait
    split
    · rfl
    · next c hc =>
      have hc' := h c (List.mem_of_find?_eq_some hc)
      exact if_neg fun hw => by
        obtain ⟨hp, hb⟩ : c.phase = .accepted ∧ c.body = none := by simpa using hw
        simpa [hb] using hc' hp
  unfold evalWaits
  generalize s.sp.cmds.map (·.id) = ids
  induction ids with
  | nil => rfl
  | cons cid ids ih => rw [List.foldl_cons, hone, ih]

/-- A range whose fill has ended. -/
def filledUp (s : State) (n : Nat) : State :=
  { s with ciph := rangeKeyMod s.ciph n fun k =>
    { k with gen := if k.keyless then 0 else 1, walk := 3, doneMib := dataSize (rangeCfg s n) / 2 ^ 20 } }

/-- The end of a fill that nothing waits for. -/
theorem fillDone_alone (hw : (rangeKey s n).walk = 1) (he : s.keys.entropyOk = true) (hc : s.ciph.waiting = []) (hk : s.keys.waiting = [])
    (hb : ∀ c ∈ s.sp.cmds, c.phase = .accepted → c.body.isSome = true) : fillDone n s = filledUp s n := by
  have hend : fillFinish n s = filledUp s n := if_pos (by simp [hw, drawsWait, he])
  have hnone : (filledUp s n).ciph.waiting = [] := hc
  have hsame : { filledUp s n with ciph := { (filledUp s n).ciph with waiting := [] } } = filledUp s n := by rw [← hnone]
  unfold fillDone
  dsimp only
  rw [hend, hnone]
  simp only [List.filter_nil, List.foldl_nil]
  rw [hsame, evalWaits_bodies (s := filledUp s n) hb, rowsGo_none (s := filledUp s n) hk]

/-- A Shared rig lets no debug master reach memory. -/
theorem debugCount_shared (h : s.rig.active.shared = true) (a : Nat) : debugReaches s a = false ∧ (debugCount s a).mem = s.mem := by
  have hr : debugReaches s a = false := by simp [debugReaches, isShared, h]
  refine ⟨hr, ?_⟩
  unfold debugCount
  rw [hr]
  split <;> rfl

end Sys2Proof.Machine
end

section
/-! CLAIMS. Range keys. -/

namespace Sys2Proof.Machine

/-- Settles O45, by what each command's check decides, and by the walks' places. -/
theorem rangeKeysRotateAndRefill : Obligations.RangeKeysRotateAndRefill := by
  refine ⟨fun s p tag n slot pace st hmay hsrc hn hck => ?refused, fun s p tag n slot pace k hmay he hn hlen hslots hck hsrc hfree => ?drawn,
    fun s p tag n slot pace hmay hn hlen hslot hck hsrc => ?delivered, fun s p tag n slot pace hmay he hsrc => ?waits,
    fun s n units pos hn hw hopen h8 hpos hleft => ?walks, fun s n units hn hw hstruck h8 hopen hall => ?ends, fun s n units hno => ?still,
    fun s p tag n st hmay he hn hck => ?reinitRefused, fun s p tag n hmay he hn hlen hck => ?reinit,
    fun s n hw he hc hk hset hb => ?filled, fun s p tag hmay hd => ?winRead, fun s p tag v hmay hd => ?winWrite, fun s a v hsh => ?shared⟩
  case refused =>
    by_cases h0 : (rangeCfg s n).keySource = 0
    · exact (congrArg Host.Outcome.next (if_pos h0)).trans
        (next_mgmtDraw tag _ hmay (hsrc.resolve_right (by simp [h0])) (rekey_refused (pace := pace) hn hck))
    · exact (congrArg Host.Outcome.next (if_neg h0)).trans (next_mgmtWrite tag _ hmay (rekey_refused (pace := pace) hn hck))
  case drawn =>
    obtain ⟨u, hu, hleft⟩ := rekey_drawn (pace := pace) hn hlen hslots hck hsrc hfree
    exact ⟨u, (congrArg Host.Outcome.next (if_pos hsrc)).trans (next_mgmtDraw tag _ hmay he hu), hleft⟩
  case delivered =>
    obtain ⟨u, hu, hleft⟩ := rekey_delivered (pace := pace) hn hlen hslot hck hsrc
    exact ⟨u, (congrArg Host.Outcome.next (if_neg hsrc)).trans (next_mgmtWrite tag _ hmay hu), hleft⟩
  case waits =>
    exact congrArg Host.Outcome.next ((if_pos hsrc).trans (mgmtDraw_waits p tag _ _ s (by simp [drawsWait, he]) hmay))
  case walks =>
    obtain ⟨t, ht, hdone, hgo⟩ := walkGo_walks units hn h8 hw hopen
    have hplaces : (List.range 8).map (walkPlace s n units) = pos := hpos.symm
    rw [hplaces] at ht hdone hgo
    obtain ⟨x, hx, hne⟩ := hleft
    rw [if_neg fun h => hne (by simpa using List.all_eq_true.1 h x hx)] at hgo
    exact ⟨t, congrArg Host.Outcome.next hgo, ht.walk.trans hw, ht.walkPos, hdone, ht.keys⟩
  case ends =>
    obtain ⟨t, ht, -, hgo⟩ := walkGo_walks units hn h8 hw hopen
    rw [if_pos (List.all_eq_true.2 fun x hx => by
      obtain ⟨k, hk, rfl⟩ := List.mem_map.1 hx
      exact beq_iff_eq.2 (hall k (List.mem_range.1 hk)))] at hgo
    obtain ⟨hwalk, hvalid, hsub, hslot, hcur⟩ := walkEnd_ends (ht.length ▸ hn) (ht.prevStruck.trans hstruck)
    exact ⟨_, congrArg Host.Outcome.next hgo, hwalk, hvalid, hsub, ht.prevSlot ▸ hslot, hcur.trans ht.curSlot⟩
  case still => exact congrArg Host.Outcome.next (if_neg (by rcases hno with h | h <;> simp [h]))
  case reinitRefused =>
    exact next_mgmtDraw tag _ hmay he (a := ⟨ciphStatus s n st, st, []⟩) (by rw [reinit, if_neg (by omega), hck])
  case reinit =>
    obtain ⟨u, hu, hleft⟩ := reinit_fills hn hlen hck
    exact ⟨u, next_mgmtDraw tag _ hmay he hu, hleft⟩
  case filled =>
    have hkept : RecoverKept s (filledUp s n) := ⟨rfl, rfl, rfl, rfl, rfl, rfl⟩
    exact congrArg Host.Outcome.next (by rw [fillDone_alone hw he hc hk hb, hkept.settle hset]; rfl)
  case winRead =>
    refine congrArg Host.Outcome.next ((mgmtTurn_now _ _ _ _ hmay).trans ?_)
    rw [winReadTurn, if_neg (by simp [hd]), mgmtRun_live _ _ _ _ hmay.1]
    rfl
  case winWrite =>
    refine congrArg Host.Outcome.next ((mgmtTurn_now _ _ _ _ hmay.1).trans ?_)
    rw [winWriteTurn, if_neg (by simp [hd]), mgmtAgain_may tag hmay]
    rfl
  case shared =>
    obtain ⟨hr, hm⟩ := debugCount_shared hsh a
    simp only [debugRead, debugWrite, hr]
    exact ⟨rfl, hm, rfl, hm⟩

end Sys2Proof.Machine
end

section
/-! SUPPORT. What the controllers' reads and write-backs leave: the plaintext, the merge buffer and the management scrub's place. -/

namespace Sys2Proof.Machine

variable {s t u : State} {n a : Nat}

/-- The plaintext, the merge buffer and the management scrub. -/
def standing (m : Mem) : List (Nat × Byte) × List MergeEntry × ScrubRun := (m.cells, m.merge, m.scrub)

theorem standing_eq_iff {m : Mem} {x : List (Nat × Byte) × List MergeEntry × ScrubRun} :
    standing m = x ↔ m.cells = x.1 ∧ m.merge = x.2.1 ∧ m.scrub = x.2.2 := by
  obtain ⟨a, b, c⟩ := x
  simp [standing]

/-! ### Lines -/

theorem linePut_standing (m : Mem) (line : Nat) (f : BitVec 512 × BitVec 64) : standing (linePut m line f) = standing m := by
  unfold linePut
  dsimp only
  split <;> rfl

theorem linesWritten_standing : ∀ (k line : Nat) (m : Mem), standing (linesWritten k line m) = standing m
  | 0, _, _ => rfl
  | k + 1, line, m => (linesWritten_standing k (line + 1) (lineWritten m line)).trans (linePut_standing m line _)

theorem lineRead_standing (quiet : Bool) (m : Mem) (line : Nat) : standing (lineRead quiet m line).1 = standing m := by
  have htag : standing (tagCount m (stackOf (line * 64)) (lineClass (faultOf m line))) = standing m := by
    unfold tagCount
    split <;> rfl
  unfold lineRead
  dsimp only
  generalize tagCount m (stackOf (line * 64)) (lineClass (faultOf m line)) = m1 at htag ⊢
  split
  · exact htag
  split
  · exact htag
  split
  · split
    · exact htag
    · exact (linePut_standing _ _ _).trans htag
  · exact htag

theorem readLines_standing (quiet : Bool) : ∀ (k line : Nat) (m : Mem), standing (readLines quiet k line m).1 = standing m
  | 0, _, _ => rfl
  | k + 1, line, m => (readLines_standing quiet k (line + 1) _).trans (lineRead_standing quiet m line)

/-! ### Paths -/

theorem lineBack_standing (s : State) (x : CacheLine) (m : Mem) : standing (lineBack s x m) = standing m := by
  unfold lineBack badPut
  dsimp only
  split <;> exact linePut_standing _ _ _

theorem cacheAdd_standing (s : State) (frame : Nat) (x : CacheLine) : standing (cacheAdd s frame x).mem = standing s.mem := by
  have hroom : standing (cacheRoom s x.range x.stack frame).mem = standing s.mem := by
    unfold cacheRoom
    dsimp only
    split
    · split
      · change standing (evict _ _).mem = _
        unfold evict
        dsimp only
        split
        · exact lineBack_standing _ _ _
        · rfl
      · rfl
    · rfl
  refine Eq.trans ?_ hroom
  unfold cacheAdd cachePut
  dsimp only
  split <;> rfl

theorem fetchNode_standing (quiet : Bool) (s : State) (n stack frame : Nat) (mac : Bool) (level index : Nat) :
    standing (fetchNode quiet s n stack frame mac level index).1.mem = standing s.mem := by
  have hread := lineRead_standing quiet s.mem (nodeLine (rangeCfg s n) stack mac level index)
  unfold fetchNode
  dsimp only
  split
  · refine Eq.trans ?_ hread
    unfold failNode
    dsimp only
    split <;> rfl
  · exact (cacheAdd_standing _ _ _).trans hread

theorem ensureNode_standing (quiet : Bool) (n stack i : Nat) : ∀ (k level : Nat) (s : State),
    standing (ensureNode quiet n stack i k level s).1.mem = standing s.mem
  | 0, _, _ => rfl
  | k + 1, level, s => by
    have habove := ensureNode_standing quiet n stack i k (level + 1) s
    simp only [ensureNode]
    split
    · rfl
    split
    · exact (fetchNode_standing _ _ _ _ _ _ _ _).trans habove
    · exact habove

theorem fetchPath_standing (quiet : Bool) (s : State) (n a : Nat) : standing (fetchPath quiet s n a).1.mem = standing s.mem := by
  have hnodes := ensureNode_standing quiet n (stackOf a) (frameIndex (rangeCfg s n) a) (levelsOf (rangeCfg s n)).length 0 s
  unfold fetchPath
  dsimp only
  split
  · rfl
  split
  · split
    · exact hnodes
    · split <;> exact (fetchNode_standing _ _ _ _ _ _ _ _).trans hnodes
  · exact hnodes

/-! ### Units -/

theorem readUnit_standing (quiet : Bool) (s : State) (n a : Nat) : standing (readUnit quiet s n a).st.mem = standing s.mem := by
  have hlines := readLines_standing quiet (unitBytes (rangeCfg s n) / 64) (a / 64) s.mem
  have hpath := (fetchPath_standing quiet { s with mem := (readLines quiet (unitBytes (rangeCfg s n) / 64) (a / 64) s.mem).1 } n a).trans hlines
  unfold readUnit
  dsimp only
  repeat' split
  any_goals exact hpath
  all_goals exact hlines

theorem scrubKeyless_standing (s : State) (n a : Nat) : standing (scrubKeyless s n a).st.mem = standing s.mem := by
  have hlines := readLines_standing true (unitBytes (rangeCfg s n) / 64) (a / 64) s.mem
  have hpath := (fetchPath_standing true { s with mem := (readLines true (unitBytes (rangeCfg s n) / 64) (a / 64) s.mem).1 } n a).trans hlines
  unfold scrubKeyless
  dsimp only
  repeat' split
  any_goals exact hpath
  all_goals exact hlines

theorem scrubKeyless_work (s : State) (n a : Nat) : ReadWork s (scrubKeyless s n a).st := by
  have hpath : ∀ m, ReadWork s (fetchPath true { s with mem := m } n a).1 := fun m =>
    ReadWork.trans ⟨_, _, _, _, rfl⟩ (fetchPath_work true _ n a)
  unfold scrubKeyless
  dsimp only
  repeat' split
  any_goals exact hpath _
  all_goals exact ⟨_, _, _, _, rfl⟩

/-! ### Scrubs -/

/-- A state after a scrub's reads. -/
structure ScrubWork (s t : State) : Prop where
  work : ReadWork s t
  standing : standing t.mem = standing s.mem

namespace ScrubWork

theorem trans (h : ScrubWork s t) (k : ScrubWork t u) : ScrubWork s u := ⟨h.work.trans k.work, k.standing.trans h.standing⟩

theorem keys (h : ScrubWork s t) : t.keys = s.keys := by
  obtain ⟨_, _, _, _, rfl⟩ := h.work
  rfl

theorem sp (h : ScrubWork s t) : t.sp = s.sp := by
  obtain ⟨_, _, _, _, rfl⟩ := h.work
  rfl

end ScrubWork

theorem scrubUnit_work (w : Who) (n a v : Nat) (r : State × ScrubSum) : ScrubWork r.1 (scrubUnit w n a v r).1 := by
  have hread : ScrubWork r.1 (if (rangeKey r.1 n).keyless then scrubKeyless r.1 n a else readUnit true r.1 n a).st := by
    split
    · exact ⟨scrubKeyless_work _ _ _, scrubKeyless_standing _ _ _⟩
    · exact ⟨readUnit_work _ _ _ _, readUnit_standing _ _ _ _⟩
  unfold scrubUnit
  dsimp only
  generalize (if (rangeKey r.1 n).keyless then scrubKeyless r.1 n a else readUnit true r.1 n a) = u at hread ⊢
  split
  · exact ⟨.refl _, rfl⟩
  split
  · exact hread
  · exact hread.trans ⟨failRange_work _ _ _ _ _ _, by rw [failRange_mem]⟩

theorem scrubAll_work (w : Who) : ∀ (us : List (Nat × Nat × Nat)) (r : State × ScrubSum), ScrubWork r.1 (scrubAll w us r).1
  | [], _ => ⟨.refl _, rfl⟩
  | x :: us, r => (scrubUnit_work w x.1 x.2.1 x.2.2 r).trans (scrubAll_work w us _)

/-! ### Write-backs -/

theorem storeUnit_standing (s : State) (n a : Nat) :
    standing (storeUnit s n a).mem = (s.mem.cells, s.mem.merge.filter fun e => e.key != a / 64, s.mem.scrub) := by
  have hlines := linesWritten_standing (unitBytes (rangeCfg s n) / 64) (a / 64) { s.mem with merge := s.mem.merge.filter fun e => e.key != a / 64 }
  unfold storeUnit
  dsimp only
  split
  · exact hlines
  · exact hlines

theorem poison_standing (m : Mem) (key : Nat) (x : BufErr) : standing (poison m key x) = standing m := by
  unfold poison
  generalize x.filter bufLost = l
  induction l generalizing m with
  | nil => rfl
  | cons w l ih => exact ih _

/-- A write-back takes the entries of its key out, and nothing else of what stands. -/
theorem mergeStore_standing (s : State) (e : MergeEntry) :
    standing (mergeStore s e).mem = (s.mem.cells, s.mem.merge.filter fun x => x.key != e.key, s.mem.scrub) := by
  unfold mergeStore
  split
  · refine (poison_standing _ _ _).trans ((storeUnit_standing s _ _).trans ?_)
    rw [Nat.mul_div_cancel _ (by decide : 0 < 64)]
  · rfl

theorem mergeStore_work (s : State) (e : MergeEntry) : ReadWork s (mergeStore s e) := by
  unfold mergeStore
  split <;> exact ⟨_, _, _, _, rfl⟩

end Sys2Proof.Machine
end

section
/-! SUPPORT. SCRUB and the management scrub. -/

namespace Sys2Proof.Machine

variable {s : State} {cid : Nat} {c : Cmd}

theorem exec_scrub_runs (part : Option Nat) (h : cmdServed s cid 0x70 scrubNames = some c) :
    exec (.scrub cid part) s = .next (scrubRun s c part) := by
  change Host.Outcome.next (match cmdServed s cid 0x70 scrubNames with | some c => scrubRun s c part | none => s) = _
  rw [h]

theorem scrubRun_refused {part : Option Nat} {st : Status} (hfresh : c.scrubbed = none) (h : scrubCheck s c = some st) :
    scrubRun s c part = cmdEnd s c.id (resultOf st) := by
  simp only [scrubRun, hfresh, Option.isNone_none, if_true, h]

theorem scrubRun_starts {part : Option Nat} (hfresh : c.scrubbed = none) (h : scrubCheck s c = none) :
    scrubRun s c part = scrubPart s c part := by
  simp only [scrubRun, hfresh, Option.isNone_none, if_true, h]

/-- The check of a SCRUB whose fields are in order. -/
theorem scrubCheck_fields {a n sum : Nat} (h0 : fld (cmdBody c) 134 154 = 0) (ha : a = fld (cmdBody c) 0 48)
    (hn : n = fld (cmdBody c) 48 36 + 1) (hs : sum = fld (cmdBody c) 84 48) (hal : a % 64 = 0) (hsl : sum % 64 = 0)
    (hac : addrCheck s c a (64 * n) = none) (hsc : addrCheck s c sum 192 = none)
    (hr : ∀ r ∈ xlateRuns s c.space a (64 * n), (rangeAt s r.1).isSome = true) :
    scrubCheck s c = if scrubDenied s c a (64 * n) then some .flowDenied else none := by
  subst ha hn hs
  have hruns : ((xlateRuns s c.space (fld (cmdBody c) 0 48) (64 * (fld (cmdBody c) 48 36 + 1))).any fun r => (rangeAt s r.1).isNone) = false :=
    List.any_eq_false.2 fun r hmem => by simp [Option.isNone_eq_false_iff.2 (hr r hmem)]
  unfold scrubCheck
  dsimp only
  rw [if_neg (by simp [h0, hal, hsl]), hac, hsc]
  simp only [Option.or_none, hruns]
  rfl

theorem scrubCheck_reserved (h : fld (cmdBody c) 134 154 ≠ 0 ∨ fld (cmdBody c) 0 48 % 64 ≠ 0 ∨ fld (cmdBody c) 84 48 % 64 ≠ 0) :
    scrubCheck s c = some .badDescriptor :=
  if_pos (by simpa [or_assoc] using h)

theorem AccessWork.keys {t : State} (h : AccessWork s t) : t.keys = s.keys := by
  obtain ⟨_, _, _, _, _, _, _, rfl⟩ := h
  rfl

/-- A SCRUB's reads of its units, counted and charged. -/
def scrubRead (s : State) (c : Cmd) (us : List (Nat × Nat × Nat)) : State :=
  chargePj (countHbm (scrubAll (whoOf c) us (s, {})).1 c [] (64 * (scrubAll (whoOf c) us (s, {})).2.lines) 0) c.id
    (18 * (64 * (scrubAll (whoOf c) us (s, {})).2.lines))

theorem scrubRead_charged (s : State) (c : Cmd) (us : List (Nat × Nat × Nat)) : CmdsCharged s (scrubRead s c us) := by
  have hread : CmdsCharged s (scrubAll (whoOf c) us (s, {})).1 := .of_eq (congrArg Spaces.cmds (scrubAll_work _ us (s, {})).sp)
  refine (hread.trans (countHbm_charged _ c [] _ 0)).trans
    ⟨fun d => if d.id = c.id then d.pj + 18 * (64 * (scrubAll (whoOf c) us (s, {})).2.lines) else d.pj, List.map_congr_left fun d _ => ?_⟩
  dsimp only
  split <;> rfl

theorem scrubRead_keys (s : State) (c : Cmd) (us : List (Nat × Nat × Nat)) : (scrubRead s c us).keys = s.keys :=
  (scrubAll_work (whoOf c) us (s, {})).keys

/-- A SCRUB taken whole writes its summary and ends. -/
theorem scrubPart_whole {us : List (Nat × Nat × Nat)} {w : MemWrite}
    (hus : us = scrubUnits s c.space (fld (cmdBody c) 0 48) (fld (cmdBody c) 48 36 + 1)) (hfresh : c.scrubbed = none)
    (hw : w = writeSpace (scrubRead s c us) c (fld (cmdBody c) 84 48) (scrubRecord (scrubAll (whoOf c) us (s, {})).2)) (hok : w.status = .ok) :
    scrubPart s c none = cmdEnd w.st c.id (resultOf .ok) := by
  subst hw
  unfold scrubPart
  dsimp only
  rw [hfresh, ← hus]
  simp only [Option.getD_none, Nat.sub_zero, Nat.min_self, List.drop_zero, List.take_length, Nat.zero_add, if_true]
  exact congrArg (cmdEnd _ c.id) (if_pos hok)

/-- A SCRUB taken in part keeps what it has found. -/
theorem scrubPart_some {us : List (Nat × Nat × Nat)} {k : Nat}
    (hus : us = scrubUnits s c.space (fld (cmdBody c) 0 48) (fld (cmdBody c) 48 36 + 1)) (hfresh : c.scrubbed = none) (hk : k < us.length) :
    scrubPart s c (some k) = { scrubRead s c (us.take k) with
      sp := cmdMod (scrubRead s c (us.take k)).sp c.id fun x => { x with scrubbed := some (k, (scrubAll (whoOf c) (us.take k) (s, {})).2) } } := by
  have hmin : min k us.length = k := Nat.min_eq_left hk.le
  unfold scrubPart
  dsimp only
  rw [hfresh, ← hus]
  simp only [Option.getD_none, Option.getD_some, Nat.sub_zero, hmin, List.drop_zero, Nat.zero_add]
  exact if_neg hk.ne

/-- The management scrub's next units leave plaintext and keys, and move its place. -/
theorem scrubGo_goes {units total k : Nat} (h1 : s.mem.scrub.state = 1) (hf : filling s s.mem.scrub.range = false)
    (htotal : total = if (rangeCfg s s.mem.scrub.range).mode = 0 then 0 else unitCount s s.mem.scrub.range)
    (hk : k = min units (total - s.mem.scrub.pos)) (hopen : systemOpen s = true) :
    (scrubGo units s).mem.scrub.state = (if s.mem.scrub.pos + k = total then 2 else 1) ∧
      (scrubGo units s).mem.scrub.pos = s.mem.scrub.pos + k ∧ (scrubGo units s).mem.scrub.range = s.mem.scrub.range ∧
      (scrubGo units s).mem.cells = s.mem.cells ∧ (scrubGo units s).keys = s.keys := by
  subst htotal hk
  have hgo : (s.mem.scrub.state = 1 && !(filling s s.mem.scrub.range) && systemOpen s) = true := by simp [h1, hf, hopen]
  unfold scrubGo
  dsimp only
  rw [if_pos (by simpa using hgo)]
  have hwork := scrubAll_work {} (rangeUnits s s.mem.scrub.range s.mem.scrub.pos (min units ((if (rangeCfg s s.mem.scrub.range).mode = 0 then 0
    else unitCount s s.mem.scrub.range) - s.mem.scrub.pos))) (s, scrubSoFar s.mem.scrub)
  obtain ⟨hcells, -, hscrub⟩ := standing_eq_iff.1 hwork.standing
  exact ⟨rfl, rfl, (congrArg ScrubRun.range hscrub).trans rfl, hcells, hwork.keys⟩

end Sys2Proof.Machine
end

section
/-! CLAIMS. The merge buffer, the flip registers, scrubs. -/

namespace Sys2Proof.Machine

/-- Settles O44, by what a scrub's reads leave, and by the check and the parts of a SCRUB. -/
theorem memoryScrubAndFlip : Obligations.MemoryScrubAndFlip := by
  refine ⟨fun s k key h => ?back, fun s k key h => ?none, fun s p tag v hmay hsh => ?flip, fun s p tag v hmay hsh hv => ?refused,
    fun s cid c hserved hfresh hbad => ?bad, fun s cid a n sum c hserved hfresh h0 ha hn hs hal hsl hac hsc hr hd => ?denied,
    fun s cid a n sum c r w hserved hfresh h0 ha hn hs hal hsl hac hsc hr hd hreads hw hok => ?whole,
    fun s cid k c us r hserved hfresh hck hus hk hr => ?part, fun s p tag range pace hmay hst hrange => ?start,
    fun s p tag range pace hmay hst => ?running, fun s p tag hmay hst => ?stop,
    fun s units total k h1 hf htotal hk hopen => ⟨_, rfl, scrubGo_goes h1 hf htotal hk hopen⟩, fun s units hno => ?still⟩
  case back =>
    obtain ⟨e, he⟩ := List.find?_isSome.2 (List.any_eq_true.1 h) |> Option.isSome_iff_exists.1
    have hkey : e.key = key := by
      have := List.find?_some he
      simp only [Bool.and_eq_true, beq_iff_eq] at this
      exact this.2
    have hgo : mergeRetire s k key = mergeStore s e := by rw [mergeRetire, he]
    obtain ⟨hcells, hmerge, -⟩ := standing_eq_iff.1 (mergeStore_standing s e)
    obtain ⟨_, _, _, _, hwork⟩ := mergeStore_work s e
    refine ⟨mergeStore s e, congrArg Host.Outcome.next hgo, fun x hx => ?_, hcells, by rw [hwork], by rw [hwork]⟩
    rw [hmerge] at hx
    simpa [hkey] using (List.mem_filter.1 hx).2
  case none =>
    have hno : s.mem.merge.find? (fun e => e.stack == k && e.key == key) = none :=
      List.find?_eq_none.2 fun x hx => by simpa using List.any_eq_false.1 h x hx
    exact congrArg Host.Outcome.next (by rw [mergeRetire, hno])
  case flip =>
    refine next_mgmtWrite tag _ hmay (a := ⟨_, .ok, []⟩) (congrArg (fun x => (⟨x, .ok, []⟩ : Answer)) ?_)
    simp [flipCtrl, isShared, hsh, fld, BitVec.getLsbD]
  case refused =>
    refine next_mgmtWrite tag _ hmay (a := ⟨_, .ok, []⟩) (congrArg (fun x => (⟨x, .ok, []⟩ : Answer)) ?_)
    have h3 : v.toNat.testBit 3 = true := hv
    simp [flipCtrl, isShared, hsh, fld, BitVec.getLsbD, h3]
  case bad =>
    rw [exec_scrub_runs none hserved, scrubRun_refused hfresh (scrubCheck_reserved hbad), (cmdServed_some hserved).1]
  case denied =>
    have hck := scrubCheck_fields h0 ha hn hs hal hsl hac hsc hr
    rw [if_pos hd] at hck
    rw [exec_scrub_runs none hserved, scrubRun_refused hfresh hck, (cmdServed_some hserved).1]
  case whole =>
    have hck := scrubCheck_fields h0 ha hn hs hal hsl hac hsc hr
    rw [if_neg (by simp [hd])] at hck
    obtain ⟨hid, hget, hlive⟩ := cmdServed_some hserved
    obtain ⟨us, hus⟩ : ∃ us, us = scrubUnits s c.space a n := ⟨_, rfl⟩
    rw [← hus] at hreads
    have hwrite : w = writeSpace (scrubRead s c us) c (fld (cmdBody c) 84 48) (scrubRecord (scrubAll (whoOf c) us (s, {})).2) := by
      rw [hw, hreads, hs, scrubRead]
    have hcharged : CmdsCharged s w.st := hwrite ▸ (scrubRead_charged s c us).trans (writeSpace_charged _ _ _ _)
    have hkeys : w.st.keys = s.keys := hwrite ▸ (writeSpace_access _ _ _ _).keys.trans (scrubRead_keys s c us)
    have hrun := scrubPart_whole (s := s) (us := us) (by rw [hus, ha, hn]) hfresh hwrite hok
    refine ⟨cmdEnd w.st c.id (resultOf .ok), (exec_scrub_runs none hserved).trans
      (congrArg Host.Outcome.next ((scrubRun_starts hfresh hck).trans hrun)), ?_, rfl, hkeys⟩
    rw [hid]
    exact hcharged.cmdEnd_ends _ hget hlive
  case part =>
    obtain ⟨hid, hget, hlive⟩ := cmdServed_some hserved
    have hrun := (exec_scrub_runs (some k) hserved).trans (congrArg Host.Outcome.next ((scrubRun_starts hfresh hck).trans
      (scrubPart_some hus hfresh hk)))
    obtain ⟨pj, hpj⟩ := (scrubRead_charged s c (us.take k)).cmdGet hget
    rw [← hr, hid] at hrun
    have hfound := (cmdGet_cmdMod (scrubRead s c (us.take k)) cid (fun x => { x with scrubbed := some (k, r.2) }) fun _ => rfl).trans
      (congrArg (Option.map _) hpj)
    exact ⟨_, _, hrun, hfound, rfl, rfl, by rw [hr]; rfl, scrubRead_keys _ _ _⟩
  case start =>
    have hgo : scrubStart range pace s = { s with mem := { s.mem with scrub := { state := 1, range := range, pace := pace % 4 } } } :=
      if_neg (by simpa [hst] using hrange)
    exact next_mgmtWrite (f := fun t => ⟨scrubStart range pace t, .ok, []⟩) tag _ hmay (congrArg (Answer.mk · .ok []) hgo)
  case running =>
    have hgo : scrubStart range pace s = s := if_pos (by simp [hst])
    exact next_mgmtWrite (f := fun t => ⟨scrubStart range pace t, .ok, []⟩) tag _ hmay (congrArg (Answer.mk · .ok []) hgo)
  case stop =>
    have hgo : scrubStop s = { s with mem := { s.mem with scrub := { s.mem.scrub with state := 3 } } } := if_pos hst
    exact next_mgmtWrite (f := fun t => ⟨scrubStop t, .ok, []⟩) tag _ hmay (congrArg (Answer.mk · .ok []) hgo)
  case still => exact congrArg Host.Outcome.next (if_neg (by rcases hno with h | h | h <;> simp [h]))

end Sys2Proof.Machine
end

section
/-! SUPPORT. What the end of a port's session leaves of the port module (R402, R410, R411), and what pumping a port keeps. -/

namespace Sys2Proof.Machine

/-! ### Pumping a port (R401, R405) -/

@[simp] theorem pumpPort_cntTag (n : Nat) (v : PortSt) : (pumpPort n v).cntTag = v.cntTag := by
  obtain ⟨_, _, h⟩ := pumpPort_frame n v; rw [h]

@[simp] theorem pumpPort_cntRx (n : Nat) (v : PortSt) : (pumpPort n v).cntRx = v.cntRx := by
  obtain ⟨_, _, h⟩ := pumpPort_frame n v; rw [h]

@[simp] theorem pumpPort_cntResent (n : Nat) (v : PortSt) : (pumpPort n v).cntResent = v.cntResent := by
  obtain ⟨_, _, h⟩ := pumpPort_frame n v; rw [h]

/-- Sending the setup frames that wait changes only the credit and the two lists of setup frames. -/
theorem pumpSetup_frame : ∀ (fuel : Nat) (v : PortSt),
    pumpSetup fuel v = { v with
      credit := (pumpSetup fuel v).credit, setup := (pumpSetup fuel v).setup, setupWait := (pumpSetup fuel v).setupWait }
  | 0, _ => rfl
  | fuel + 1, v => by
    unfold pumpSetup
    split
    · rfl
    · split
      · rw [pumpSetup_frame fuel]
      · rfl

/-- Taking a frame's credit keeps all of a port but its credit, the sending counters and the lists of setup frames, and lowers no
sequence number. -/
theorem creditTake_frame (v : PortSt) (h : FrameHdr) : ∃ k, creditTake v h = { v with
    credit := (creditTake v h).credit, setup := (creditTake v h).setup, setupWait := (creditTake v h).setupWait
    txSeq := v.txSeq + k, txHigh := (creditTake v h).txHigh, cntTx := (creditTake v h).cntTx } := by
  have hsetup := pumpSetup_frame v.setupWait.length { v with credit := h.credit }
  obtain ⟨k, -, hport⟩ := pumpPort_frame v.unacked.length (pumpSetup v.setupWait.length { v with credit := h.credit })
  refine ⟨k, ?_⟩
  unfold creditTake
  rw [hport, hsetup]

@[simp] theorem creditTake_session (v : PortSt) (h : FrameHdr) : (creditTake v h).session = v.session := by
  obtain ⟨_, hk⟩ := creditTake_frame v h; rw [hk]

/-- Starting again from the oldest frame that is not acknowledged keeps all of a port but its credit and the sending counters. -/
theorem resend_frame (v : PortSt) : resend v = { v with
    credit := (resend v).credit, txSeq := (resend v).txSeq, txHigh := (resend v).txHigh, cntTx := (resend v).cntTx
    cntResent := (resend v).cntResent } := by
  unfold resend
  split
  case h_1 => rfl
  case h_2 f _ _ =>
    split
    · obtain ⟨_, _, hk⟩ := pumpPort_frame v.unacked.length { v with txSeq := f.seq, cntResent := satAdd 32 v.cntResent 1 }
      rw [hk]
    · rfl

/-! ### What a session that ends leaves behind (R402, R410, R411, R412) -/

/-- Sending the pieces of a print that are held on one port leaves the other port and the lock. -/
theorem sendHeld_leaves (p : Port) : ∀ (l : List Msg) (x : Lemlix),
    portOf (l.foldl (fun (y : Lemlix) m => if portFits (portOf y p) m then lmxSend y p m else { y with held := y.held ++ [m] }) x)
      (otherPort p) = portOf x (otherPort p) ∧
    (l.foldl (fun (y : Lemlix) m => if portFits (portOf y p) m then lmxSend y p m else { y with held := y.held ++ [m] }) x).lock =
      x.lock := by
  intro l
  induction l with
  | nil => exact fun x => ⟨rfl, rfl⟩
  | cons m l ih =>
    intro x
    obtain ⟨hport, hlock⟩ := ih (if portFits (portOf x p) m then lmxSend x p m else { x with held := x.held ++ [m] })
    rw [List.foldl_cons, hport, hlock]
    split
    · exact ⟨portOf_lmxSend_other x p m, lmxSend_lock x p m⟩
    · exact ⟨by cases p <;> rfl, rfl⟩

/-- The pieces of a print that are held go out on a port with a live session alone. -/
theorem flushHeld_leaves (x : Lemlix) (p : Port) (h : (portOf x p).session ≠ 2) :
    portOf (flushHeld x) p = portOf x p ∧ (flushHeld x).lock = x.lock := by
  unfold flushHeld
  dsimp only
  split
  case isTrue ha =>
    cases p with
    | a => exact absurd ha h
    | b => exact sendHeld_leaves .a x.held { x with held := [] }
  case isFalse =>
    split
    case isTrue hb =>
      cases p with
      | a => exact sendHeld_leaves .b x.held { x with held := [] }
      | b => exact absurd hb h
    case isFalse => exact ⟨rfl, rfl⟩

/-- What moving the messages of an ended session keeps: the port but for its count of dropped notices, and the lock. -/
structure PortLeft (p : Port) (s t : State) : Prop where
  port : portOf t.lmx p = { portOf s.lmx p with cntDrop := (portOf t.lmx p).cntDrop }
  lock : t.lmx.lock = s.lmx.lock

theorem PortLeft.trans {p : Port} {a b c : State} (h : PortLeft p a b) (k : PortLeft p b c) : PortLeft p a c :=
  ⟨by rw [k.port, h.port], k.lock.trans h.lock⟩

theorem noticeHold_leaves (s : State) (p : Port) (slot : Nat) (n : Note) : PortLeft p s (noticeHold s p slot n) := by
  unfold noticeHold
  split
  · exact ⟨by simp [dropCount], portSet_lock _ _ _⟩
  · exact ⟨rfl, rfl⟩

theorem moveMsg_leaves (s : State) (p : Port) (m : Msg) (h : (portOf s.lmx p).session ≠ 2) : PortLeft p s (moveMsg s p m) := by
  have hheld : ∀ x : Lemlix, ∀ l, portOf { x with held := l } p = portOf x p := fun x l => by cases p <;> rfl
  unfold moveMsg
  split
  case h_1 stream target data =>
    obtain ⟨hport, hlock⟩ := flushHeld_leaves { s.lmx with held := s.lmx.held ++ [.bulk stream target data] } p (by rwa [hheld])
    exact ⟨by rw [hport, hheld], hlock⟩
  case h_2 =>
    split
    · split
      · exact ⟨by cases p <;> rfl, lmxSend_lock _ _ _⟩
      · exact noticeHold_leaves s p _ _
    · exact ⟨rfl, rfl⟩
  case h_3 => exact ⟨rfl, rfl⟩

theorem moveMsgs_leave (p : Port) : ∀ (l : List Msg) (s : State), (portOf s.lmx p).session ≠ 2 →
    PortLeft p s (l.foldl (fun t m => moveMsg t p m) s) := by
  intro l
  induction l with
  | nil => exact fun s _ => ⟨rfl, rfl⟩
  | cons m l ih =>
    intro s h
    have hfirst := moveMsg_leaves s p m h
    exact hfirst.trans (ih _ (by rw [hfirst.port]; exact h))

theorem moveMsgs_keys (p : Port) : ∀ (l : List Msg) (s : State), (l.foldl (fun t m => moveMsg t p m) s).keys = s.keys := by
  intro l
  induction l with
  | nil => exact fun _ => rfl
  | cons m l ih => exact fun s => (ih _).trans (moveMsg_keys s p m)

/-- A port whose session has just ended. -/
def sessionOver (v : PortSt) : PortSt :=
  { v with
    session := 0, sessionId := 0, ek := [], dk := [], quote := [], rxSeq := 0, txSeq := 0, txHigh := 0, txAck := 0, credit := 0
    unacked := [], setup := [], setupWait := [] }

theorem endSess_idle (s : State) (p : Port) (h : (portOf s.lmx p).session = 0) : endSess s p = s := by simp [endSess, h]

/-- A session that ends: its slots are empty, its port is at rest, and the lock that it held is free. -/
theorem endSess_over (s : State) (p : Port) (h : (portOf s.lmx p).session ≠ 0) :
    portOf (endSess s p).lmx p = { sessionOver (portOf s.lmx p) with cntDrop := (portOf (endSess s p).lmx p).cntDrop } ∧
      (endSess s p).lmx.lock = (if s.lmx.lock = portNum p + 1 then 0 else s.lmx.lock) ∧
      (endSess s p).keys.slots = (s.keys.slots.set (sessionSlot p) {}).set (sessionSlot p + 1) {} := by
  have hport : ∀ (x : Lemlix) (n : Nat), portOf { x with lock := n } p = portOf x p := fun x n => by cases p <;> rfl
  unfold endSess
  dsimp only
  rw [if_neg h]
  refine ⟨?_, ?_, by rw [moveMsgs_keys]⟩
  · refine (moveMsgs_leave p _ _ ?_).port.trans ?_ <;> rw [hport, portOf_portSet]
    · exact Nat.zero_ne_add_one 1
    · rfl
  · refine (moveMsgs_leave p _ _ ?_).lock.trans ?_
    · rw [hport, portOf_portSet]
      exact Nat.zero_ne_add_one 1
    · rw [portSet_lock]

/-- A session that leaves nothing to be sent ends without a trace on the other port and in the spaces. -/
theorem endSess_clean (s : State) (p : Port) (h : leftover (portOf s.lmx p) = []) :
    portOf (endSess s p).lmx (otherPort p) = portOf s.lmx (otherPort p) ∧ (endSess s p).sp = s.sp := by
  unfold endSess
  dsimp only
  split
  · exact ⟨rfl, rfl⟩
  · rw [h]
    exact ⟨by cases p <;> rfl, rfl⟩

theorem endSess_session (s : State) (p : Port) : (portOf (endSess s p).lmx p).session = 0 := by
  by_cases h : (portOf s.lmx p).session = 0
  · rwa [endSess_idle s p h]
  · rw [(endSess_over s p h).1]
    rfl

end Sys2Proof.Machine
end

section
/-! SUPPORT. A session key exchange as it ends (Table 15-3). -/

namespace Sys2Proof.Machine

/-- With nothing held, nothing goes out when a session comes up. -/
theorem flushHeld_empty (x : Lemlix) (h : x.held = []) : flushHeld x = x := by
  have hnil : { x with held := [] } = x := by rw [← h]
  simp [flushHeld, h, hnil]

theorem flushNotices_empty (s : State) (h : s.sp.notices = []) : flushNotices s = s := by
  have hnil : { s with sp := { s.sp with notices := [] } } = s := by rw [← h]
  simp [flushNotices, h, hnil]

/-- A port with a new attempt at a session, of a key pair. -/
def attempt (v : PortSt) (h : FrameHdr) (k : List Byte × List Byte) : PortSt :=
  { v with session := 1, sessionId := h.session, ek := k.1, dk := k.2, quote := [], setup := [], setupWait := [] }

/-- A HELLO that starts an attempt: two draws make its key pair, and its quote is queued. -/
theorem execHello_starts (s : State) (p : Port) (h : FrameHdr) (w : W256) (hheard : setupHeard (portOf s.lmx p) h 3 = true)
    (hent : s.keys.entropyOk = true) (hs : (portOf s.lmx p).session ≠ 2) (hid : s.keys.vaultOk = true)
    (hroom : s.keys.quotes.length < 64) :
    execHello p h w s = .next (quoteAsk (drawUse (portMod (portMod s p fun v => creditTake v h) p fun v => attempt v h (kemDraw s)) 2)
      ⟨w, (kemDraw s).1, .session p⟩) := by
  have hroom' : quoteCheck (portMod s p fun v => creditTake v h) = none := quoteCheck_room hid hroom
  unfold execHello
  rw [if_neg (by simp [hheard])]
  dsimp only
  rw [if_neg (by simp [drawsWait, hent]), hello, if_neg (by simp [hroom', hs])]
  exact congrArg Host.Outcome.next (if_pos hid)

/-- A port whose session has just come up. -/
def sessionUp (v : PortSt) (h : FrameHdr) : PortSt :=
  { v with
    session := 2, dk := [], rxSeq := 0, txSeq := 0, txHigh := 0, txAck := 0, credit := h.credit, unacked := []
    cntSessions := satAdd 32 v.cntSessions 1 }

/-- The slots with a session's two keys. -/
def sessionKeyed (s : State) (p : Port) (ks : List Byte) : State :=
  slotPut (slotPut s (sessionSlot p) (sessionKey (ks.take 32))) (sessionSlot p + 1) (sessionKey (ks.drop 32))

/-- KEM_CT with no notice and no piece of a print held: the two keys are in place and the session is live. -/
theorem kemCt_lives (s : State) (p : Port) (h : FrameHdr) (ct ks : List Byte) (hn : s.sp.notices = []) (hh : s.lmx.held = [])
    (hks : ks = shake256 64 (kemDecaps (portOf s.lmx p).dk ct ++
      w256Bytes (shakeW ((portOf s.lmx p).quote ++ (portOf s.lmx p).ek ++ ct)) ++ ascii "nirnus-lemlix" ++ natLe 1 (portNum p))) :
    kemCt p h ct s = portMod (sessionKeyed s p ks) p fun v => sessionUp v h := by
  unfold kemCt
  dsimp only
  rw [← hks, flushHeld_empty _ (by rw [portMod, portSet_held]; exact hh)]
  exact flushNotices_empty _ hn

/-- A frame of a session whose tag holds: the next in order is taken, and the last number there is ends the session (R402). -/
theorem sessionFrame_good (s : State) (p : Port) (h : FrameHdr) (type : Nat) (f : State → State) (hin : inSession s p h type)
    (hseq : h.seq = (portOf s.lmx p).rxSeq) :
    sessionFrame p h type true f s = if 2 ^ 64 - 1 ≤ (portOf s.lmx p).rxSeq then endSess s p else f s := by
  obtain ⟨hheard, htype, hmine, hlen, hid⟩ := hin
  unfold sessionFrame
  dsimp only
  rw [if_neg (by simp [hheard, htype, hmine, hid]; omega), if_neg (by simp), if_neg (by simp [hseq])]

theorem execClose_ends (s : State) (p : Port) (h : FrameHdr) (hin : inSession s p h 7) (hseq : h.seq = (portOf s.lmx p).rxSeq) :
    exec (.close p h true) s = .next (endSess s p) := by
  refine congrArg Host.Outcome.next ((sessionFrame_good s p h 7 _ hin hseq).trans ?_)
  split <;> rfl

/-- END_SESSION that nothing holds back: the reply goes, then the session ends. -/
theorem endSession_may (s : State) (p q : Port) (tag : Nat) (hmay : mayWrite s p) :
    mgmtTurn p (.endSession p tag q) (endSession p tag q) s = endSess (mgmtReply s p tag .ok []) q := by
  rw [mgmtTurn_now _ _ _ _ hmay.1, endSession, if_neg (by simp [hmay.2]), mgmtAgain_may tag hmay]

end Sys2Proof.Machine
end

section
/-! CLAIMS. Rings and sessions (file 15). -/

namespace Sys2Proof.Machine

/-- Settles O9, the sessions' clauses through what a session that ends leaves behind. -/
theorem ringsLockAndSessionsForm : Obligations.RingsLockAndSessionsForm := by
  unfold Obligations.RingsLockAndSessionsForm
  refine ⟨fun s p h g l n hready hring htype hsrc hdst hlen hroom => ?rollCall, fun s p h g l n hfull => ?full, fun s p hr => ?lost,
    fun s p hr => ?unlocked, fun s p h w hdeaf => ?deaf, fun s p h w hheard hlive => ?busy,
    fun s p h w hheard hent hs hid hroom => ?hello, fun s p h ct ks v hv hheard hone hid hct hrep hn hh hslots hks => ?kemCt,
    fun s p h ct hbad => ?badCt, fun b => ⟨rfl, rfl, rfl⟩, fun s p h ok i hi hs => ?none, fun s p h i hi hslots => ?ends,
    fun s p q tag hmay => ?endSession, fun s p q tag hmay => ?endedSession⟩
  case rollCall =>
    refine ⟨_, congrArg Host.Outcome.next (if_pos ?_), ?_⟩
    · rcases hring with hr | hr <;> simp [hready, hr, htype, hsrc, hdst, hlen, hroom]
    · have hport := portOf_portMod s p fun v => resend { v with
          ring := 2, gen2 := g && !v.genCap, position := l.length + 1, members := n % 16, credit := h.credit
          setup := v.setup ++ [.rollCall s.power.serial] }
      rw [resend_frame] at hport
      dsimp only
      rw [hport]
      exact ⟨rfl, rfl, rfl, rfl, rfl, rfl, rfl, portOf_portMod_other _ _ _, rfl, rfl, rfl⟩
  case full => exact congrArg Host.Outcome.next (if_neg (by simp [Nat.not_lt.2 hfull]))
  case lost => exact congrArg Host.Outcome.next (if_pos hr)
  case unlocked => exact congrArg Host.Outcome.next (if_neg hr)
  case deaf => exact congrArg Host.Outcome.next (if_pos (by simp [hdeaf]))
  case busy =>
    refine congrArg Host.Outcome.next ?_
    simp [hheard, hlive, hello, setupBusy]
  case hello =>
    have hport := portOf_portMod (portMod s p fun v => creditTake v h) p fun v => attempt v h (kemDraw s)
    refine ⟨_, execHello_starts s p h w hheard hent hs hid hroom, ?_⟩
    refine ⟨congrArg PortSt.session hport, congrArg PortSt.sessionId hport, congrArg PortSt.ek hport, congrArg PortSt.dk hport, rfl, rfl,
      rfl, ?_, rfl, rfl⟩
    exact (portOf_portMod_other (portMod s p fun v => creditTake v h) p fun v => attempt v h (kemDraw s)).trans
      (portOf_portMod_other s p fun v => creditTake v h)
  case kemCt =>
    subst hv
    refine ⟨_, congrArg Host.Outcome.next ((if_pos ?_).trans (kemCt_lives s p h ct ks hn hh hks)), ?_⟩
    · simp [hheard, hone, hid, hct, hrep, kemCtLen]
    · have hport := portOf_portMod (sessionKeyed s p ks) p fun v => sessionUp v h
      have hslot := sessionSlot_le p
      refine ⟨congrArg PortSt.session hport, congrArg PortSt.rxSeq hport, congrArg PortSt.txSeq hport, congrArg PortSt.cntSessions hport,
        ?_, ?_, portOf_portMod_other _ p _, rfl, rfl, fun i hfirst hsecond => ?_⟩
      all_goals simp only [portMod_frame, sessionKeyed, slotPut]
      · rw [List.getElem?_set_ne (by omega), List.getElem?_set_self (by omega)]
      · rw [List.getElem?_set_self (by rw [List.length_set]; omega)]
      · rw [List.getElem?_set_ne (Ne.symm hsecond), List.getElem?_set_ne (Ne.symm hfirst)]
  case badCt =>
    refine congrArg Host.Outcome.next (if_neg ?_)
    rcases hbad with hb | hb | hb | hb | hb <;> simp [hb, kemCtLen]
  case none =>
    rcases hi with rfl | rfl
    · exact congrArg Host.Outcome.next (if_pos (by simp [heard, hs]))
    · exact congrArg Host.Outcome.next (endSess_idle s p hs)
  case ends =>
    have hend : exec i s = .next (endSess s p) ∧ (portOf s.lmx p).session ≠ 0 := by
      rcases hi with ⟨rfl, hin, hseq⟩ | ⟨rfl, hs⟩
      · exact ⟨execClose_ends s p h hin hseq, by rw [heard_session _ _ hin.1]; decide⟩
      · exact ⟨rfl, hs⟩
    obtain ⟨hport, hlock, hslot⟩ := endSess_over s p hend.2
    have hframe := endSess_frame s p
    have hslot_le := sessionSlot_le p
    refine ⟨_, hend.1, endSess_session s p, by rw [hport]; rfl, by rw [hport]; rfl, ?_, ?_, hlock, endSess_clean s p, hframe.mem, hframe.sp⟩
    all_goals rw [hslot]
    · rw [List.getElem?_set_ne (by omega), List.getElem?_set_self (by omega)]
    · rw [List.getElem?_set_self (by rw [List.length_set]; omega)]
  case endSession => exact congrArg Host.Outcome.next (endSession_may s p q tag hmay)
  case endedSession =>
    have hreply := mgmtReply_frame s p tag .ok []
    have hframe := hreply.trans (endSess_frame (mgmtReply s p tag .ok []) q)
    exact ⟨_, congrArg Host.Outcome.next (endSession_may s p q tag hmay), endSess_session _ q, hframe.mem, hframe.sp, hframe.rig⟩

end Sys2Proof.Machine
end

section
/-! SUPPORT. A frame of a session as it is taken (R402, R403, R405), and the management lock (R412). -/

namespace Sys2Proof.Machine

theorem sessionFrame_foreign (s : State) (p : Port) (h : FrameHdr) (type : Nat) (k : Bool) (f : State → State)
    (hout : ¬ inSession s p h type) : sessionFrame p h type k f s = s := by
  refine if_pos ?_
  contrapose! hout
  simpa [inSession, and_assoc] using hout

/-- A frame whose tag fails is counted, and ends the attempt that it was to confirm. -/
theorem sessionFrame_forged (s : State) (p : Port) (h : FrameHdr) (type : Nat) (f : State → State) (hin : inSession s p h type) :
    sessionFrame p h type false f s =
      if confirms (portOf s.lmx p) h then endSess (portMod s p fun v => { v with cntTag := satAdd 32 v.cntTag 1 }) p
      else portMod s p fun v => { v with cntTag := satAdd 32 v.cntTag 1 } := by
  obtain ⟨hheard, htype, hmine, hlen, hid⟩ := hin
  exact (if_neg (by simp [hheard, htype, hmine, hid]; omega)).trans (if_pos rfl)

theorem sessionFrame_stale (s : State) (p : Port) (h : FrameHdr) (type : Nat) (f : State → State) (hin : inSession s p h type)
    (hseq : h.seq ≠ (portOf s.lmx p).rxSeq) : sessionFrame p h type true f s = s := by
  obtain ⟨hheard, htype, hmine, hlen, hid⟩ := hin
  exact (if_neg (by simp [hheard, htype, hmine, hid]; omega)).trans ((if_neg (by simp)).trans (if_pos hseq))

/-- An ack frees the frames that it covers, where it names a frame that has gone out (log entry 58), and keeps the counters. -/
theorem ackFrames_frees (v : PortSt) (ack : Nat) :
    (∀ f, f ∈ (ackFrames v ack).unacked ↔ f ∈ v.unacked ∧ (ack < f.seq ∨ v.txHigh ≤ ack)) ∧ v.txSeq ≤ (ackFrames v ack).txSeq ∧
      (ackFrames v ack).session = v.session ∧ (ackFrames v ack).cntTag = v.cntTag := by
  unfold ackFrames
  split
  case isTrue h => exact ⟨fun f => by simp [Nat.not_le.2 h], Nat.le_max_left _ _, rfl, rfl⟩
  case isFalse h => exact ⟨fun f => by simp [Nat.not_lt.1 h], Nat.le_refl _, rfl, rfl⟩

/-- A frame that is taken: the expected number moves on, it is counted, and its ack frees what it covers. -/
theorem frameTake_takes (v : PortSt) (h : FrameHdr) :
    (frameTake v h).session = v.session ∧ (frameTake v h).rxSeq = v.rxSeq + 1 ∧ (frameTake v h).cntRx = (v.cntRx + 1) % 2 ^ 64 ∧
      (frameTake v h).cntTag = v.cntTag ∧
      (∀ f, f ∈ (frameTake v h).unacked ↔ f ∈ v.unacked ∧ (h.ack < f.seq ∨ v.txHigh ≤ h.ack)) ∧ v.txSeq ≤ (frameTake v h).txSeq := by
  obtain ⟨hfrees, hseq, hsession, htag⟩ := ackFrames_frees v h.ack
  obtain ⟨k, hk⟩ := creditTake_frame { ackFrames v h.ack with rxSeq := v.rxSeq + 1, cntRx := (v.cntRx + 1) % 2 ^ 64 } h
  unfold frameTake
  rw [hk]
  exact ⟨hsession, rfl, rfl, htag, hfrees, Nat.le_add_right_of_le hseq⟩

/-- With frames sent and not acknowledged, a resend counts and starts again from the oldest. -/
theorem resend_restarts {v : PortSt} {f : OutFrame} {r : List OutFrame} (hu : v.unacked = f :: r) (hlt : f.seq < v.txSeq) :
    (resend v).cntResent = satAdd 32 v.cntResent 1 ∧ f.seq ≤ (resend v).txSeq := by
  have hrun : resend v = pumpPort v.unacked.length { v with txSeq := f.seq, cntResent := satAdd 32 v.cntResent 1 } := by
    unfold resend
    rw [hu]
    exact if_pos hlt
  rw [hrun]
  exact ⟨pumpPort_cntResent _ _,
    (pumpPort_txSeq_le v.unacked.length { v with txSeq := f.seq, cntResent := satAdd 32 v.cntResent 1 }).1⟩

theorem lockWrite_takes (p : Port) (s : State) (h : s.lmx.lock = 0) :
    lockWrite p 1 s = { s with lmx := { s.lmx with lock := portNum p + 1 } } := by
  have hval : fld (1 : Word).toNat 0 2 = 1 := by decide
  simp only [lockWrite, hval, h, decide_true, Bool.and_self, if_true]

theorem lockWrite_releases (p : Port) (s : State) (h : s.lmx.lock = portNum p + 1) :
    lockWrite p 0 s = { s with lmx := { s.lmx with lock := 0 } } := by
  have hval : fld (0 : Word).toNat 0 2 = 0 := by decide
  simp only [lockWrite, hval, h, decide_true, Bool.and_self, if_true, Nat.zero_ne_add_one, decide_false, Bool.false_and,
    Bool.false_eq_true, if_false]

/-- A port may write while the lock is free or its own, and may not while the other port holds it. -/
theorem lockedOut_free (x : Lemlix) (p : Port) (h : x.lock = 0 ∨ x.lock = portNum p + 1) : lockedOut x p = false := by
  rcases h with h | h <;> simp [lockedOut, h]

theorem lockedOut_other (x : Lemlix) (p : Port) (h : x.lock = portNum (otherPort p) + 1) : lockedOut x p = true := by
  cases p <;> simp [lockedOut, h, otherPort, portNum]

/-- A firmware image that nothing holds back, while no other is written: a good one's write starts; another is refused and logged. -/
theorem firmwareImage_decides (s : State) (p : Port) (tag : Nat) (image sig : List Byte) (hmay : mayWrite s p)
    (hfree : s.lc.flashing = none) :
    firmwareImage p tag image sig s = if imageGood image sig then { s with lc := flashStart s.lc ⟨p, tag, image, sig⟩ } else
      mgmtReply (stLog s { logBlank with kind := 13, unit := 122, status := .rigMismatch, detail := 0xFF }) p tag .rigMismatch [] := by
  unfold firmwareImage
  rw [if_neg (by simp [hmay.2, hfree]), if_neg (by simp [heard_session _ _ hmay.1.1]), mgmtRun_live _ _ _ _ hmay.1.1]

theorem firmwareImage_busy (s : State) (p : Port) (tag : Nat) (image sig : List Byte) (hmay : mayWrite s p) (hbusy : s.lc.flashing ≠ none) :
    firmwareImage p tag image sig s = mgmtReply s p tag .busy [] := by
  unfold firmwareImage
  rw [if_pos (by simp [Option.isSome_iff_ne_none, hbusy]), mgmtRun_live _ _ _ _ hmay.1.1]

end Sys2Proof.Machine
end

section
/-! CLAIMS. Frames, the management lock, system-space requests and firmware images (file 15). -/

namespace Sys2Proof.Machine

/-- Settles O10, a frame's fate by the tests of `sessionFrame` in their order. -/
theorem framesLocksAndFirmwareImages : Obligations.FramesLocksAndFirmwareImages := by
  unfold Obligations.FramesLocksAndFirmwareImages
  refine ⟨fun s p h k hout => ?foreign, fun s p h hin hlater => ?forged, fun s p h hin hzero hfirst => ?confirming,
    fun s p h hin hseq => ?stale, fun s p h hin hseq hlt => ?next, fun s p h hin hseq hle => ?last, fun s p hs => ?quiet,
    fun s p f r hs hu hlt => ?resent, fun s p tag hmay hfree => ?locks, fun s p tag hmay hown => ?unlocks,
    fun s p tag v hmay hother => ?lockedOut, fun s p tag r hmay hw => ?request, fun s p tag h f hmay hget => ?query,
    fun s p tag image sig hmay hfree => ?image, fun s p tag image sig hmay hbusy => ?imageBusy⟩
  case foreign => exact congrArg Host.Outcome.next (sessionFrame_foreign s p h 1 k _ hout)
  case forged =>
    refine congrArg Host.Outcome.next ((sessionFrame_forged s p h 1 _ hin).trans (if_neg ?_))
    rcases hlater with hl | hl <;> simp [confirms, hl]
  case confirming =>
    have hsession := heard_session _ _ hin.1
    have hend : exec (.dataFrame p h false) s =
        .next (endSess (portMod s p fun v => { v with cntTag := satAdd 32 v.cntTag 1 }) p) :=
      congrArg Host.Outcome.next ((sessionFrame_forged s p h 1 _ hin).trans (if_pos (by simp [confirms, hin.2.1, hzero, hfirst])))
    have hframe := endSess_frame (portMod s p fun v => { v with cntTag := satAdd 32 v.cntTag 1 }) p
    refine ⟨_, hend, endSess_session _ p, ?_, hframe.mem, hframe.sp⟩
    rw [(endSess_over _ p (by simp [hsession])).1, portOf_portMod]
    rfl
  case stale => exact congrArg Host.Outcome.next (sessionFrame_stale s p h 1 _ hin hseq)
  case next =>
    obtain ⟨hsession, hrx, hcount, htag, hfrees, htx⟩ := frameTake_takes (portOf s.lmx p) h
    refine ⟨_, congrArg Host.Outcome.next ((sessionFrame_good s p h 1 _ hin hseq).trans (if_neg (by omega))), ?_⟩
    rw [portOf_portMod]
    exact ⟨hsession.trans (heard_session _ _ hin.1), by rw [hrx, hseq], hcount, htag, hfrees, htx, portOf_portMod_other _ _ _, rfl, rfl, rfl⟩
  case last =>
    exact ⟨_, congrArg Host.Outcome.next ((sessionFrame_good s p h 1 _ hin hseq).trans (if_pos (by omega))), endSess_session s p,
      (endSess_frame s p).mem⟩
  case quiet => exact congrArg Host.Outcome.next (if_neg hs)
  case resent =>
    obtain ⟨hcount, htx⟩ := resend_restarts hu hlt
    refine ⟨_, congrArg Host.Outcome.next (if_pos hs), ?_⟩
    rw [portOf_portMod]
    exact ⟨hcount, by rw [resend_frame]; exact hu, htx, by rw [resend_frame]; exact hs, rfl, rfl, rfl⟩
  case locks =>
    have hacts := lockWrite_takes p s hfree
    exact next_mgmtWrite tag _ ⟨hmay, lockedOut_free _ _ (.inl hfree)⟩ (f := fun t => ⟨lockWrite p 1 t, .ok, []⟩) (by rw [hacts])
  case unlocks =>
    have hacts := lockWrite_releases p s hown
    exact next_mgmtWrite tag _ ⟨hmay, lockedOut_free _ _ (.inr hown)⟩ (f := fun t => ⟨lockWrite p 0 t, .ok, []⟩) (by rw [hacts])
  case lockedOut => exact congrArg Host.Outcome.next (mgmtWrite_locked p tag _ _ s hmay (lockedOut_other _ _ hother))
  case request => exact next_spaceRequest r hmay hw rfl
  case query => exact next_spaceRequest (.fenceQuery h) hmay rfl (a := ⟨_, _, _⟩) (by simp only [spaceDo, fenceQuery, asked_fenceGet, hget])
  case image =>
    have hrun : exec (.firmwareImage p tag image sig) s = .next (if imageGood image sig then _ else _) :=
      congrArg Host.Outcome.next ((mgmtTurn_now _ _ _ _ hmay.1).trans (firmwareImage_decides s p tag image sig hmay hfree))
    split
    case h_1 hgood => exact hrun.trans (congrArg Host.Outcome.next (if_pos hgood))
    case h_2 hbad =>
      exact ⟨_, hrun.trans (congrArg Host.Outcome.next (if_neg (Bool.eq_false_iff.1 hbad))), rfl, rfl, rfl⟩
  case imageBusy =>
    exact congrArg Host.Outcome.next ((mgmtTurn_now _ _ _ _ hmay.1).trans (firmwareImage_busy s p tag image sig hmay hbusy))

end Sys2Proof.Machine
end

section
/-! SUPPORT. What evaluating the waits, ending contexts and accepting commands leave of the commands, queues and memory. -/

namespace Sys2Proof.Machine

/-! ### Commands that age -/

/-- A command keeps its number, space, queue and context, and its phase unless it has ended. -/
structure Aged (c d : Cmd) : Prop where
  id : d.id = c.id
  space : d.space = c.space
  queue : d.queue = c.queue
  ctx : d.ctx = c.ctx
  phase : cmdLive d = true → d.phase = c.phase

theorem Aged.refl (c : Cmd) : Aged c c := ⟨rfl, rfl, rfl, rfl, fun _ => rfl⟩

theorem cmdLive_congr {c d : Cmd} (h : d.phase = c.phase) : cmdLive d = cmdLive c := by simp only [cmdLive, h]

theorem Aged.live {c d : Cmd} (h : Aged c d) (hd : cmdLive d = true) : cmdLive c = true := by rwa [← cmdLive_congr (h.phase hd)]

theorem Aged.trans {b c d : Cmd} (h : Aged b c) (k : Aged c d) : Aged b d :=
  ⟨k.id.trans h.id, k.space.trans h.space, k.queue.trans h.queue, k.ctx.trans h.ctx, fun hd => (k.phase hd).trans (h.phase (k.live hd))⟩

/-- The commands of a state have aged, none has come or gone. -/
def CmdsAged (s t : State) : Prop := ∃ g : Cmd → Cmd, t.sp.cmds = s.sp.cmds.map g ∧ ∀ c, Aged c (g c)

theorem CmdsAged.of_eq {s t : State} (h : t.sp.cmds = s.sp.cmds) : CmdsAged s t := ⟨id, by simpa using h, .refl⟩

theorem CmdsAged.trans {s t u : State} (h : CmdsAged s t) (k : CmdsAged t u) : CmdsAged s u := by
  obtain ⟨f, hf, haged⟩ := h
  obtain ⟨g, hg, haged'⟩ := k
  exact ⟨g ∘ f, by rw [hg, hf, List.map_map], fun c => (haged c).trans (haged' (f c))⟩

theorem CmdsCharged.aged {s t : State} (h : CmdsCharged s t) : CmdsAged s t := by
  obtain ⟨pj, hpj⟩ := h
  exact ⟨_, hpj, fun c => ⟨rfl, rfl, rfl, rfl, fun _ => rfl⟩⟩

theorem cmdMod_aged {s t : State} {cid : Nat} {f : Cmd → Cmd} (ht : t.sp.cmds = (cmdMod s.sp cid f).cmds) (hf : ∀ c, Aged c (f c)) :
    CmdsAged s t := by
  refine ⟨_, ht, fun c => ?_⟩
  split
  · exact hf c
  · exact .refl c

theorem cmdEnd_aged (s : State) (cid : Nat) (r : Result) : CmdsAged s (cmdEnd s cid r) := by
  refine cmdMod_aged rfl fun c => ?_
  split
  · exact .refl c
  · exact ⟨rfl, rfl, rfl, rfl, fun hlive => absurd hlive Bool.false_ne_true⟩

theorem cmdFail_aged (s : State) (c : Cmd) (r : Result) : CmdsAged s (cmdFail s c r) := by
  unfold cmdFail
  split
  · exact (CmdsAged.of_eq rfl).trans (cmdEnd_aged _ _ r)
  · exact cmdEnd_aged _ _ r

theorem ringRead_ports (s : State) (q : Queue) (i : BitVec 32) (lo n : Nat) : PortsKept s (ringRead s q i lo n).st := by
  unfold ringRead
  dsimp only
  split
  · exact .refl s
  · exact readRuns_ports _ _ s

theorem ringRead_cells (s : State) (q : Queue) (i : BitVec 32) (lo n : Nat) : (ringRead s q i lo n).st.mem.cells = s.mem.cells := by
  unfold ringRead
  dsimp only
  split
  · rfl
  · exact (readRuns_kept _ _ s).cells

/-! ### Evaluating waits -/

theorem evalWait_aged (s : State) (cid : Nat) : CmdsAged s (evalWait s cid) := by
  have hread : ∀ q i, CmdsAged s (ringRead s q i 28 36).st := fun q i => .of_eq (congrArg Spaces.cmds (ringRead_ports s q i 28 36).sp)
  have hkept : ∀ x y : Cmd, (y.id = x.id ∧ y.space = x.space ∧ y.queue = x.queue ∧ y.ctx = x.ctx ∧ y.phase = x.phase) → Aged x y :=
    fun x y h => ⟨h.1, h.2.1, h.2.2.1, h.2.2.2.1, fun _ => h.2.2.2.2⟩
  unfold evalWait
  dsimp only
  split
  · exact .of_eq rfl
  · split
    · split
      · exact .of_eq rfl
      · exact cmdFail_aged s _ _
      · split
        · exact .of_eq rfl
        · split
          · exact cmdMod_aged rfl fun x => hkept x _ ⟨rfl, rfl, rfl, rfl, rfl⟩
          · split
            · exact (hread _ _).trans (cmdMod_aged rfl fun x => hkept x _ ⟨rfl, rfl, rfl, rfl, rfl⟩)
            · exact (hread _ _).trans (cmdFail_aged _ _ _)
    · exact .of_eq rfl

theorem evalWaits_aged (s : State) : CmdsAged s (evalWaits s) := by
  unfold evalWaits
  generalize s.sp.cmds.map (·.id) = l
  induction l generalizing s with
  | nil => exact .of_eq rfl
  | cons cid l ih => exact (evalWait_aged s cid).trans (ih _)

@[simp] theorem cmdFail_mem (s : State) (c : Cmd) (r : Result) : (cmdFail s c r).mem = s.mem := by
  unfold cmdFail
  split <;> rfl

theorem evalWait_cells (s : State) (cid : Nat) : (evalWait s cid).mem.cells = s.mem.cells := by
  unfold evalWait
  dsimp only
  repeat' split
  all_goals simp [ringRead_cells]

theorem evalWaits_cells (s : State) : (evalWaits s).mem.cells = s.mem.cells := by
  unfold evalWaits
  generalize s.sp.cmds.map (·.id) = l
  induction l generalizing s with
  | nil => rfl
  | cons cid l ih => exact (ih _).trans (evalWait_cells s cid)

/-- Of the spaces, evaluating the waits changes the commands alone. -/
theorem evalWaits_sp (s : State) : ∃ cmds, (evalWaits s).sp = { s.sp with cmds := cmds } := by
  obtain ⟨_, _, _, _, _, cmds, h⟩ := evalWaits_waits s
  exact ⟨cmds, by rw [h]⟩

/-! ### Contexts that end -/

/-- What the end of contexts leaves: main memory, the commands and the queues. -/
structure OwnedGone (s t : State) : Prop where
  mem : t.mem = s.mem
  cmds : t.sp.cmds = s.sp.cmds
  queues : t.sp.queues = s.sp.queues

theorem OwnedGone.refl (s : State) : OwnedGone s s := ⟨rfl, rfl, rfl⟩

theorem OwnedGone.trans {s t u : State} (h : OwnedGone s t) (k : OwnedGone t u) : OwnedGone s u :=
  ⟨k.mem.trans h.mem, k.cmds.trans h.cmds, k.queues.trans h.queues⟩

/-- A state whose memory, commands and queues are those of an earlier one. -/
theorem OwnedGone.since {r s t : State} (h : OwnedGone s t) (hmem : s.mem = r.mem) (hcmds : s.sp.cmds = r.sp.cmds)
    (hqueues : s.sp.queues = r.sp.queues) : OwnedGone r t :=
  ⟨h.mem.trans hmem, h.cmds.trans hcmds, h.queues.trans hqueues⟩

theorem OwnedGone.foldl {α : Type} {f : State → α → State} (h : ∀ t x, OwnedGone t (f t x)) : ∀ (l : List α) (s : State),
    OwnedGone s (l.foldl f s)
  | [], s => .refl s
  | x :: l, s => (h s x).trans (OwnedGone.foldl h l _)

theorem chanSent_mem (s : State) (q : Nat) : (chanSent s q).mem = s.mem := by
  unfold chanSent endChannel
  repeat' split
  all_goals rfl

theorem sendNotice_mem (s : State) (slot : Nat) (n : Note) : (sendNotice s slot n).mem = s.mem := by
  have hon : ∀ p, (noticeOn s p slot n).mem = s.mem := fun p => by
    unfold noticeOn
    repeat' split
    · exact (sendMsg_frame s p _).mem
    · exact (chanSent_mem _ _).trans (sendMsg_frame s p _).mem
    · rfl
    · rfl
  unfold sendNotice noticeHold
  dsimp only
  repeat' split
  · exact hon _
  · exact hon _
  · rfl
  · rfl

theorem sendNotice_owned (s : State) (slot : Nat) (n : Note) : OwnedGone s (sendNotice s slot n) := by
  obtain ⟨_, _, h⟩ := sendNotice_sp s slot n
  exact ⟨sendNotice_mem s slot n, by rw [h], by rw [h]⟩

theorem fenceNotices_owned (s : State) (f : Fence) : OwnedGone s (fenceNotices s f) :=
  (OwnedGone.foldl (fun t _ => sendNotice_owned t f.space _) _ _).since rfl rfl rfl

theorem fenceFail_owned (s : State) (i : Nat) (rec : List Byte) : OwnedGone s (fenceFail s i rec) := by
  unfold fenceFail
  dsimp only
  split
  · exact (fenceNotices_owned _ _).since rfl rfl rfl
  · exact ⟨rfl, rfl, rfl⟩

theorem fenceSignal_owned (s : State) (i : Nat) (v : Word) : OwnedGone s (fenceSignal s i v) := by
  unfold fenceSignal
  dsimp only
  split
  · exact (fenceNotices_owned _ _).since rfl rfl rfl
  · exact ⟨rfl, rfl, rfl⟩

theorem fenceDestroy_owned (s : State) (f : Fence) : OwnedGone s (fenceDestroy s f) := by
  have hsent : OwnedGone s (f.notifies.foldl (fun t v => sendNotice t f.space (.fence (fenceHandle f.idx) v .aborted)) s) :=
    .foldl (fun t _ => sendNotice_owned t f.space _) _ s
  unfold fenceDestroy
  dsimp only
  split
  · split
    · exact hsent.trans ⟨rfl, rfl, rfl⟩
    · exact hsent.trans ⟨rfl, rfl, rfl⟩
  · exact ⟨rfl, rfl, rfl⟩

theorem objFree_owned (s : State) (o : Obj) : OwnedGone s (objFree s o) := by
  unfold objFree
  split <;> exact ⟨rfl, rfl, rfl⟩

theorem ctxGone_owned (s : State) (x : Ctx) : OwnedGone s (ctxGone s x) := by
  have howned : OwnedGone s (ctxOwned s x.id) :=
    (OwnedGone.foldl (fun t (f : Fence) => fenceFail_owned t f.idx abortRecord) _ s).trans
      ((OwnedGone.foldl (fun t (f : Fence) => fenceDestroy_owned t { f with notifies := [] }) _ _).trans (.foldl objFree_owned _ _))
  exact howned.trans ⟨rfl, rfl, rfl⟩

theorem endContexts_owned (s : State) : OwnedGone s (endContexts s) := .foldl ctxGone_owned _ s

/-- With no context dying, none ends. -/
theorem endContexts_none (s : State) (h : ∀ x ∈ s.sp.ctxs, x.dying = false) : endContexts s = s := by
  have hnil : (s.sp.ctxs.filter fun x => x.dying && !(s.sp.cmds.any fun c => c.ctx == x.id && c.space == x.space)) = [] :=
    List.filter_eq_nil_iff.2 fun x hx => by simp [h x hx]
  rw [endContexts, hnil]
  rfl

/-! ### An abort that picks no command -/

theorem colSweep_empty (s : State) (h : s.col.slots = []) : colSweep s = s := by simp [colSweep, h]

theorem cutSweep_none (s : State) (h : s.dly.cut = none) : cutSweep s = s := by simp [cutSweep, h]

theorem sweep_quiet (s : State) (h : quiet s) : sweep s = s := by
  obtain ⟨hslots, hcut, hended, hbroken⟩ := h
  rw [sweep, colSweep_empty s hslots, cutSweep_none s hcut, settle_idle s hended hbroken]

theorem endCmds_none (x : Spaces) (f : Cmd → Bool) (st : Status) (h : ∀ c ∈ x.cmds, f c = false) : endCmds x f st = x := by
  have hmap : (x.cmds.map fun c => if f c && cmdLive c then { c with phase := .finished (resultOf st) } else c) = x.cmds :=
    (List.map_congr_left fun c hc => by simp [h c hc]).trans (List.map_id' _)
  rw [endCmds, hmap]

theorem filter_none {l : List Cmd} {f g : Cmd → Bool} (h : ∀ c ∈ l, f c = false) : (l.filter fun c => f c && g c) = [] :=
  List.filter_eq_nil_iff.2 fun c hc => by simp [h c hc]

theorem dropWork_none (s : State) (f g : Cmd → Bool) (h : ∀ c ∈ s.sp.cmds, f c = false) : dropWork s (fun c => f c && g c) = s := by
  simp [dropWork, filter_none h]

/-- Where no command is picked, nothing is aborted and nothing follows. -/
theorem abortCmds_none (s : State) (f : Cmd → Bool) (h : ∀ c ∈ s.sp.cmds, f c = false) (hq : quiet s) : abortCmds s f = s := by
  have hidle : (s.sp.cmds.filter fun c => f c && cmdLive c && isCollective c && (slotOf s c.id).isNone) = [] :=
    List.filter_eq_nil_iff.2 fun c hc => by simp [h c hc]
  unfold abortCmds
  simp only [filter_none h, List.foldl_nil, dropWork_none s f cmdLive h, hidle, List.length_nil, Nat.add_zero]
  rw [endCmds_none _ _ _ fun c hc => by simp [h c hc]]
  rw [sweep_quiet _ hq, filter_none h]
  rfl

end Sys2Proof.Machine
end

section
/-! SUPPORT. Queues, the commands that a doorbell accepts, and the end of a command (R377, R378, R384, R388). -/

namespace Sys2Proof.Machine

/-! ### The state that a request acts on -/

/-- Of an accepted request, before it acts, the message's counter and the port of the space are all that is noted. -/
theorem asked_eq (s : State) (ch : Chan) :
    ∃ keys, asked s ch = { s with keys := keys, sp := spaceMod s.sp ch.slot fun x => { x with port := ch.port } } := by
  unfold asked broughtBy
  split
  · exact ⟨_, rfl⟩
  · exact ⟨_, rfl⟩

theorem asked_quiet {s : State} (ch : Chan) (h : quiet s) : quiet (asked s ch) := by
  obtain ⟨keys, heq⟩ := asked_eq s ch
  rw [heq]
  exact h

@[simp] theorem asked_queueGet (s : State) (ch : Chan) (slot h) : queueGet (asked s ch) slot h = queueGet s slot h := by simp [queueGet]

@[simp] theorem asked_spanMapped (s : State) (ch : Chan) (slot v n) : spanMapped (asked s ch) slot v n = spanMapped s slot v n := by
  simp [spanMapped, objAt]

@[simp] theorem asked_spanStruck (s : State) (ch : Chan) (slot v n) : spanStruck (asked s ch) slot v n = spanStruck s slot v n := by
  simp [spanStruck, objAt]

/-! ### Q_CREATE -/

/-- A new queue, empty. -/
def newQueue (k slot ra n ca v g : Nat) : Queue :=
  { idx := k, space := slot, ring := ra, entries := n, comp := ca, version := v, producer := 0, doneIdx := 0, doneAhead := [], grip := g }

section Create

variable {s : State} {slot ra n ca v : Nat}

theorem qCreate_bad (h : entriesOk n = false ∨ (v ≠ 1 ∧ v ≠ 2) ∨ ra % 64 ≠ 0 ∨ ca % 64 ≠ 0 ∨
    spanMapped s slot ra (n * 64) = false ∨ spanMapped s slot ca (n * 64) = false) : qCreate slot ra n ca v s = ⟨s, .badDescriptor, []⟩ := by
  refine if_pos ?_
  rcases h with h | h | h | h | h | h <;> simp [h]

variable (hn : entriesOk n = true) (hv : v = 1 ∨ v = 2) (hra : ra % 64 = 0) (hca : ca % 64 = 0)
  (hmr : spanMapped s slot ra (n * 64) = true) (hmc : spanMapped s slot ca (n * 64) = true)
include hn hv hra hca hmr hmc

/-- A request in order goes on to the tests of struck objects and of the quota. -/
theorem qCreate_inOrder : qCreate slot ra n ca v s =
    if spanStruck s slot ra (n * 64) || spanStruck s slot ca (n * 64) then ⟨s, .objectStruck, []⟩
    else if (spaceGet s slot).qQueue ≤ (useOf s slot).2.1 then ⟨s, .busy, []⟩
    else ⟨freeUse { s with sp := { s.sp with queues := s.sp.queues ++ [newQueue
      (freeIndex s 1024 s.sp.queues.length fun i => s.sp.queues.any fun q => q.idx == i) slot ra n ca v ((freeAt s 1).toNat % 80)] } } 2, .ok,
      natLe 4 (3 * 2 ^ 28 + freeIndex s 1024 s.sp.queues.length fun i => s.sp.queues.any fun q => q.idx == i)⟩ := by
  refine if_neg ?_
  rcases hv with rfl | rfl <;> simp [hn, hra, hca, hmr, hmc]

/-- Below the quota a queue takes an index not in use. -/
theorem qCreate_makes (hsr : spanStruck s slot ra (n * 64) = false) (hsc : spanStruck s slot ca (n * 64) = false)
    (hq : (useOf s slot).2.1 < (spaceGet s slot).qQueue) (hlen : s.sp.queues.length < 1024) :
    ∃ k g, k < 1024 ∧ g < 80 ∧ (∀ q ∈ s.sp.queues, q.idx ≠ k) ∧ qCreate slot ra n ca v s =
      ⟨{ s with freeCtr := s.freeCtr + 2, sp := { s.sp with queues := s.sp.queues ++ [newQueue k slot ra n ca v g] } }, .ok,
        natLe 4 (3 * 2 ^ 28 + k)⟩ := by
  obtain ⟨hlt, hfree⟩ := freeIndex_free s (bound := 1024) (us := s.sp.queues.map (·.idx))
    (used := fun i => s.sp.queues.any fun q => q.idx == i) (fun i hi => by simpa using hi) (by simpa using hlen)
  rw [List.length_map] at hlt hfree
  refine ⟨_, (freeAt s 1).toNat % 80, hlt, Nat.mod_lt _ (by decide), fun q hq hidx => ?_, ?_⟩
  · simp only [List.any_eq_false, beq_iff_eq] at hfree
    exact hfree q hq hidx
  · rw [qCreate_inOrder hn hv hra hca hmr hmc, if_neg (by simp [hsr, hsc]), if_neg (Nat.not_le.2 hq)]
    rfl

end Create

/-! ### Q_DESTROY -/

/-- With no command of it, a queue that is destroyed is gone at once. -/
theorem qDestroy_empty {s : State} {slot : Nat} {h : BitVec 32} {q : Queue} (hq : quiet s) (hget : queueGet s slot h = some q)
    (hlive : q.dying = false) (hnone : ∀ c ∈ s.sp.cmds, c.queue ≠ q.idx) :
    ∃ u, qDestroy slot h s = ⟨u, .ok, []⟩ ∧ (∀ x ∈ u.sp.queues, x.idx ≠ q.idx) ∧ u.mem.cells = s.mem.cells := by
  generalize hs1 : ({ s with sp := { s.sp with
    queues := s.sp.queues.map fun x => if x.idx = q.idx then { x with dying := true } else x } } : State) = s1
  have hmem1 : s1.mem = s.mem := by rw [← hs1]
  have hcmds1 : s1.sp.cmds = s.sp.cmds := by rw [← hs1]
  have hquiet1 : quiet s1 := by
    rw [← hs1]
    exact hq
  have hdying : ∀ x ∈ s1.sp.queues, x.idx = q.idx → x.dying = true := by
    rw [← hs1]
    intro x hx hidx
    obtain ⟨y, -, rfl⟩ := List.mem_map.1 hx
    by_cases hy : y.idx = q.idx
    · simp [hy]
    · simp [hy] at hidx
  have habort : abortCmds s1 (fun c => c.queue == q.idx && c.space == slot) = s1 :=
    abortCmds_none s1 _ (fun c hc => by simp [hnone c (hcmds1 ▸ hc)]) hquiet1
  obtain ⟨hmem, hcmds, hqueues⟩ := endContexts_owned s1
  obtain ⟨cmds, hsp⟩ := evalWaits_sp (releaseStruck (endContexts s1))
  refine ⟨evalWaits (releaseStruck (endContexts s1)), ?_, ?_, ?_⟩
  · rw [qDestroy, hget]
    dsimp only
    rw [if_neg (by simp [hlive]), hs1, habort]
  · rw [hsp]
    intro x hx hidx
    obtain ⟨hmemx, hkept⟩ := List.mem_filter.1 hx
    rw [hqueues] at hmemx
    rw [hcmds, hcmds1, hdying x hmemx hidx, hidx] at hkept
    obtain ⟨c, hc, hcq⟩ : ∃ c ∈ s.sp.cmds, c.queue = q.idx := by simpa using hkept
    exact hnone c hc hcq
  · rw [evalWaits_cells]
    exact congrArg Mem.cells (hmem.trans hmem1)

/-! ### DOORBELL -/

/-- The commands that n descriptors of a queue have become, since a state. -/
structure Accepted (q : Queue) (n : Nat) (s t : State) : Prop where
  cmds : ∃ l, t.sp.cmds = s.sp.cmds ++ l ∧ l.length = n ∧ (q.dying = true → ∀ c ∈ l, cmdLive c = false)
  next : t.sp.nextCid = s.sp.nextCid + n
  doors : t.sp.doors = s.sp.doors
  queues : t.sp.queues = s.sp.queues
  cells : t.mem.cells = s.mem.cells

theorem Accepted.trans {q : Queue} {m n : Nat} {s t u : State} (h : Accepted q m s t) (k : Accepted q n t u) : Accepted q (m + n) s u := by
  obtain ⟨l, hl, hlen, hdead⟩ := h.cmds
  obtain ⟨r, hr, hrlen, hrdead⟩ := k.cmds
  refine ⟨⟨l ++ r, by rw [hr, hl, List.append_assoc], by simp [hlen, hrlen], fun hd c hc => ?_⟩, by rw [k.next, h.next, Nat.add_assoc],
    k.doors.trans h.doors, k.queues.trans h.queues, k.cells.trans h.cells⟩
  rcases List.mem_append.1 hc with hc | hc
  · exact hdead hd c hc
  · exact hrdead hd c hc

theorem acceptOne_accepts (s : State) (q : Queue) (i : BitVec 32) : Accepted q 1 s (acceptOne s q i) := by
  have hsp := (ringRead_ports s q i 0 28).sp
  have hcells := ringRead_cells s q i 0 28
  unfold acceptOne
  generalize ringRead s q i 0 28 = r at hsp hcells ⊢
  obtain ⟨st, status, bytes, range⟩ := r
  dsimp only at hsp hcells ⊢
  have hadd : ∀ (t : State) (c : Cmd), t.sp.cmds = st.sp.cmds ++ [c] → t.sp.nextCid = st.sp.nextCid + 1 → t.sp.doors = st.sp.doors →
      t.sp.queues = st.sp.queues → t.mem.cells = st.mem.cells → (q.dying = true → cmdLive c = false) → Accepted q 1 s t := by
    rw [hsp, hcells]
    exact fun t c hcmds hnext hdoors hqueues hmem hdead =>
      ⟨⟨[c], hcmds, rfl, fun hd d hmem => by rw [List.mem_singleton.1 hmem]; exact hdead hd⟩, hnext, hdoors, hqueues, hmem⟩
  by_cases hok : status = .ok
  · rw [if_pos hok]
    split
    case h_1 hnone =>
      have hlive : q.dying ≠ true := fun hd => by simp [hd] at hnone
      split <;> exact hadd _ _ rfl rfl rfl rfl rfl fun hd => absurd hd hlive
    case h_2 =>
      split
      · split <;> exact hadd _ _ rfl rfl rfl rfl rfl (fun _ => rfl)
      · split <;> exact hadd _ _ rfl rfl rfl rfl rfl (fun _ => rfl)
  · rw [if_neg hok]
    exact hadd _ _ rfl rfl rfl rfl rfl fun _ => rfl

theorem acceptRun_accepts (q : Queue) : ∀ (n : Nat) (i : BitVec 32) (s : State), Accepted q n s (acceptRun n q i s)
  | 0, _, s => ⟨⟨[], by simp [acceptRun]⟩, rfl, rfl, rfl, rfl⟩
  | n + 1, i, s => by
    have hrun := (acceptOne_accepts s q i).trans (acceptRun_accepts q n (i + 1) (acceptOne s q i))
    rwa [Nat.add_comm 1 n] at hrun

/-- A doorbell that would reach back, not move or pass the ring's length is refused. -/
theorem doorbell_refused {s : State} {slot : Nat} {h j : BitVec 32} {q : Queue} (hget : queueGet s slot h = some q)
    (hbad : q.entries < (j - q.doneIdx).toNat ∨ j = q.producer ∨ q.entries < (j - q.producer).toNat) :
    doorbell slot h j s = ⟨s, .busy, []⟩ := by
  simp only [doorbell, hget]
  refine if_pos ?_
  simp only [Bool.or_eq_true, decide_eq_true_eq]
  rcases hbad with hback | rfl | hlong
  · exact .inl (.inl hback)
  · exact .inl (.inr (by simp))
  · exact .inr hlong

/-- A doorbell in order moves the producer index on and accepts the commands up to it. -/
theorem doorbell_accepts {s : State} {slot : Nat} {h j : BitVec 32} {q : Queue} (hget : queueGet s slot h = some q)
    (hdone : (j - q.doneIdx).toNat ≤ q.entries) (hmoves : j ≠ q.producer) (hlen : (j - q.producer).toNat ≤ q.entries) :
    ∃ u, doorbell slot h j s = ⟨u, .ok, []⟩ ∧ u.sp.doors = s.sp.doors + 1 ∧
      u.sp.cmds.length = s.sp.cmds.length + (j - q.producer).toNat ∧ u.sp.nextCid = s.sp.nextCid + (j - q.producer).toNat ∧
      (q.dying = true → ∀ c ∈ u.sp.cmds.drop s.sp.cmds.length, cmdLive c = false) ∧
      (∀ x ∈ u.sp.queues, x.idx = q.idx → x.producer = j) ∧ u.mem.cells = s.mem.cells := by
  have hmove : (j - q.producer).toNat ≠ 0 := fun h0 => hmoves (by bv_omega)
  generalize hn : (j - q.producer).toNat = n at hlen hmove
  generalize hs1 : ({ s with sp :=
    { queueMod s.sp q.idx (fun x => { x with producer := j }) with doors := s.sp.doors + 1 } } : State) = s1
  obtain ⟨⟨l, hl, hlength, hdead⟩, hnext, hdoors, hqueues, hcells⟩ := acceptRun_accepts q n q.producer s1
  obtain ⟨g, hg, haged⟩ := evalWaits_aged (acceptRun n q q.producer s1)
  obtain ⟨cmds, hsp⟩ := evalWaits_sp (acceptRun n q q.producer s1)
  have hcmds1 : s1.sp.cmds = s.sp.cmds := by rw [← hs1]; rfl
  refine ⟨evalWaits (acceptRun n q q.producer s1), ?_, ?_, ?_, ?_, fun hd c hc => ?_, ?_, ?_⟩
  · simp only [doorbell, hget, hn, hs1]
    refine if_neg ?_
    simp only [Bool.or_eq_true, decide_eq_true_eq, not_or]
    exact ⟨⟨Nat.not_lt.2 hdone, hmove⟩, Nat.not_lt.2 hlen⟩
  · rw [hsp]
    exact hdoors.trans (by rw [← hs1])
  · rw [hg, hl, List.length_map, List.length_append, hlength, hcmds1]
  · rw [hsp]
    exact hnext.trans (by rw [← hs1]; rfl)
  · rw [hg, hl, hcmds1, List.map_append, ← List.length_map (f := g) (as := s.sp.cmds), List.drop_left] at hc
    obtain ⟨d, hd', rfl⟩ := List.mem_map.1 hc
    have hdead' := hdead hd d hd'
    by_contra hlive
    rw [(haged d).live (by simpa using hlive)] at hdead'
    cases hdead'
  · rw [hsp]
    intro x hx hidx
    rw [hqueues, ← hs1] at hx
    obtain ⟨y, -, rfl⟩ := List.mem_map.1 hx
    by_cases hy : y.idx = q.idx
    · simp [hy]
    · simp [hy] at hidx
  · rw [evalWaits_cells, hcells, ← hs1]

end Sys2Proof.Machine
end

section
/-! SUPPORT. A command that completes (R384, R388, R393, R420): what its completion leaves of the commands, contexts and fences. -/

namespace Sys2Proof.Machine

/-! ### The states of the slots -/

/-- Each slot reads the state that it read. -/
def SlotStates (s t : State) : Prop := ∀ k, (spaceGet t k).state = (spaceGet s k).state

theorem SlotStates.of_eq {s t : State} (h : t.sp.slots = s.sp.slots) : SlotStates s t := fun k => by simp only [spaceGet, h]

theorem SlotStates.trans {s t u : State} (h : SlotStates s t) (k : SlotStates t u) : SlotStates s u := fun i => (k i).trans (h i)

theorem SlotStates.foldl {α : Type} {f : State → α → State} (h : ∀ t x, SlotStates t (f t x)) : ∀ (l : List α) (s : State),
    SlotStates s (l.foldl f s)
  | [], _ => .of_eq rfl
  | x :: l, s => (h s x).trans (SlotStates.foldl h l _)

/-- Changing each slot by a function that keeps states and leaves a free slot free. -/
theorem SlotStates.of_map {s t : State} {f : Space → Space} (ht : t.sp.slots = s.sp.slots.map f) (hf : ∀ x, (f x).state = x.state) :
    SlotStates s t := fun k => by
  simp only [spaceGet, ht, List.getD_eq_getElem?_getD, List.getElem?_map]
  cases s.sp.slots[k]? with
  | none => rfl
  | some x => exact hf x

theorem SlotStates.of_mod {s t : State} {slot : Nat} {f : Space → Space} (ht : t.sp.slots = modAt s.sp.slots slot f)
    (hf : ∀ x, (f x).state = x.state) : SlotStates s t := fun k => by
  have hget := spaceGet_spaceMod s slot k f
  simp only [spaceGet, spaceMod] at hget
  simp only [spaceGet, ht, hget]
  split
  · exact hf _
  · rfl

theorem endChannel_states (s : State) (q : Nat) : SlotStates s (endChannel s q) := .of_map rfl fun x => by split <;> rfl

theorem chanSent_states (s : State) (q : Nat) : SlotStates s (chanSent s q) := by
  unfold chanSent
  split
  · split
    · exact endChannel_states s q
    · exact .of_eq rfl
  · exact .of_eq rfl

theorem sendNotice_states (s : State) (slot : Nat) (n : Note) : SlotStates s (sendNotice s slot n) := by
  have hsent : ∀ p m, SlotStates s (sendMsg s p m) := fun p m => .of_eq (by rw [(sendMsg_frame s p m).sp])
  have hon : ∀ p, SlotStates s (noticeOn s p slot n) := fun p => by
    unfold noticeOn
    split
    · exact hsent _ _
    · split
      · split
        · exact (hsent _ _).trans (chanSent_states _ _)
        · exact .of_eq rfl
      · exact .of_eq rfl
  unfold sendNotice noticeHold
  dsimp only
  repeat' split
  · exact hon _
  · exact hon _
  · exact .of_eq rfl
  · exact .of_eq rfl

/-! ### What notices and changes of fences leave -/

/-- A state in which fences have changed and notices were sent: the commands, the contexts and the slots' states are as they were. -/
structure FenceWork (s t : State) : Prop where
  owned : OwnedGone s t
  ctxs : t.sp.ctxs = s.sp.ctxs
  states : SlotStates s t

theorem FenceWork.of_eq {s t : State} {fences : List Fence} (h : t = { s with sp := { s.sp with fences := fences } }) : FenceWork s t := by
  subst h
  exact ⟨⟨rfl, rfl, rfl⟩, rfl, .of_eq rfl⟩

theorem FenceWork.refl (s : State) : FenceWork s s := .of_eq (fences := s.sp.fences) rfl

theorem FenceWork.trans {s t u : State} (h : FenceWork s t) (k : FenceWork t u) : FenceWork s u :=
  ⟨h.owned.trans k.owned, k.ctxs.trans h.ctxs, h.states.trans k.states⟩

theorem FenceWork.foldl {α : Type} {f : State → α → State} (h : ∀ t x, FenceWork t (f t x)) : ∀ (l : List α) (s : State),
    FenceWork s (l.foldl f s)
  | [], s => .refl s
  | x :: l, s => (h s x).trans (FenceWork.foldl h l _)

theorem sendNotice_work (s : State) (slot : Nat) (n : Note) : FenceWork s (sendNotice s slot n) := by
  obtain ⟨_, _, h⟩ := sendNotice_sp s slot n
  exact ⟨sendNotice_owned s slot n, by rw [h], sendNotice_states s slot n⟩

theorem fenceNotices_work (s : State) (f : Fence) : FenceWork s (fenceNotices s f) :=
  (FenceWork.of_eq rfl).trans (.foldl (fun t _ => sendNotice_work t f.space _) _ _)

theorem fenceFail_work (s : State) (i : Nat) (rec : List Byte) : FenceWork s (fenceFail s i rec) := by
  unfold fenceFail
  dsimp only
  split
  · exact (FenceWork.of_eq rfl).trans (fenceNotices_work _ _)
  · exact .of_eq rfl

theorem fenceSignal_work (s : State) (i : Nat) (v : Word) : FenceWork s (fenceSignal s i v) := by
  unfold fenceSignal
  dsimp only
  split
  · exact (FenceWork.of_eq rfl).trans (fenceNotices_work _ _)
  · exact .of_eq rfl

/-! ### The parts of a completion -/

theorem putRecord_sp (s : State) (c : Cmd) (rec : List Byte) : (putRecord s c rec).sp = s.sp := by
  unfold putRecord
  split
  · rfl
  · dsimp only
    split <;> exact (writeRuns_ports _ _ _ _ s).sp

theorem logCmd_sp (s : State) (c : Cmd) (r : Result) : (logCmd s c r).sp = s.sp := by
  unfold logCmd
  dsimp only
  repeat' split
  all_goals rfl

/-- What a completed command's own step leaves, before waits and destructions are looked at: it is gone, and its energy is its context's. -/
structure Retired (c : Cmd) (energy : Nat) (s u : State) : Prop where
  cmds : u.sp.cmds = s.sp.cmds.filter fun x => x.id != c.id
  ctxs : ∃ g : Ctx → Ctx, u.sp.ctxs = s.sp.ctxs.map g ∧ ∀ x, (g x).id = x.id ∧ (g x).space = x.space ∧ (g x).dying = x.dying ∧
    (g x).energyUj = if x.id = c.ctx then x.energyUj + energy else x.energyUj
  states : SlotStates s u

/-- What a completed command does to the fences: with no live signal fence nothing; else it is signalled, or failed with the record. -/
structure FenceSettled (c : Cmd) (r : Result) (rec : List Byte) (s u : State) : Prop where
  unsigned : (c.noFence = true ∨ c.sigFence = 0 ∨ fenceGet s c.space c.sigFence = none) → u.sp.fences = s.sp.fences
  signed : ∀ f, c.noFence = false → c.sigFence ≠ 0 → fenceGet s c.space c.sigFence = some f → ∃ v, v.sp.fences = s.sp.fences ∧
    u.sp.fences = (if statusGood r.status then fenceSignal v f.idx c.sigValue else fenceFail v f.idx rec).sp.fences

/-- Leaving residency changes one context, and of it neither its number, space and energy nor whether it is dying. -/
theorem leaveResidency_keeps (sp : Spaces) (ctx : Nat) :
    ∃ g : Ctx → Ctx, leaveResidency sp ctx = { sp with ctxs := sp.ctxs.map g } ∧
      ∀ x, (g x).id = x.id ∧ (g x).space = x.space ∧ (g x).dying = x.dying ∧ (g x).energyUj = x.energyUj := by
  unfold leaveResidency
  split
  · exact ⟨id, by rw [List.map_id], fun x => ⟨rfl, rfl, rfl, rfl⟩⟩
  · refine ⟨_, rfl, fun x => ?_⟩
    split
    · dsimp only
      split <;> exact ⟨rfl, rfl, rfl, rfl⟩
    · exact ⟨rfl, rfl, rfl, rfl⟩

theorem completeCmd_steps (s : State) (c : Cmd) (r : Result) (busy uj : Nat) :
    ∃ u, completeCmd s c r busy uj = evalWaits (releaseStruck (endContexts (evalWaits u))) ∧ Retired c uj s u ∧
      FenceSettled c r (recordOf c r busy uj) s u := by
  unfold completeCmd
  extract_lets rec silent s1 s2 sp2 s3 s4 s5 p spCtx spSpace spQueue s6
  have hs2 : s2.sp = s.sp := by
    refine (logCmd_sp s1 c r).trans ?_
    unfold s1
    split
    · rfl
    · exact putRecord_sp s c rec
  have hs3 : s3.sp = { s.sp with cmds := s.sp.cmds.filter fun x => x.id != c.id } := by rw [← hs2]
  have hget : fenceGet s3 c.space c.sigFence = fenceGet s c.space c.sigFence := by simp only [fenceGet, hs3]
  have hs4 : FenceWork s3 s4 := by
    unfold s4
    split
    · exact .refl s3
    · split
      · exact .refl s3
      · split
        · exact fenceSignal_work _ _ _
        · exact fenceFail_work _ _ _
  have hs5 : FenceWork s4 s5 := by
    unfold s5
    split
    · exact sendNotice_work _ _ _
    · exact .refl s4
  have hfences : s5.sp.fences = s4.sp.fences := by
    unfold s5
    split
    · exact sendNotice_fences _ _ _
    · rfl
  have hs35 := hs4.trans hs5
  have hf3 : s3.sp.fences = s.sp.fences := by rw [hs3]
  have hctxs : s5.sp.ctxs = s.sp.ctxs := hs35.ctxs.trans (by rw [hs3])
  obtain ⟨g, hleave, hg⟩ := leaveResidency_keeps spQueue c.ctx
  have hs6 : s6.sp = { spQueue with ctxs := spQueue.ctxs.map g } := hleave
  refine ⟨s6, rfl, ⟨?_, ?_, ?_⟩, ⟨fun hnone => ?_, fun f hhas hsig hf => ?_⟩⟩
  · rw [hs6]
    exact hs35.owned.cmds.trans (by rw [hs3])
  · obtain ⟨f, hf, hcredit⟩ : ∃ f : Ctx → Ctx, spQueue.ctxs = s5.sp.ctxs.map f ∧ ∀ x, (f x).id = x.id ∧ (f x).space = x.space ∧
        (f x).dying = x.dying ∧ (f x).energyUj = if x.id = c.ctx then x.energyUj + uj else x.energyUj := by
      refine ⟨_, rfl, fun x => ?_⟩
      split <;> exact ⟨rfl, rfl, rfl, rfl⟩
    refine ⟨g ∘ f, ?_, fun x => ?_⟩
    · rw [hs6, ← List.map_map, ← hctxs, ← hf]
    · obtain ⟨hid, hspace, hdying, henergy⟩ := hg (f x)
      obtain ⟨hid', hspace', hdying', henergy'⟩ := hcredit x
      exact ⟨hid.trans hid', hspace.trans hspace', hdying.trans hdying', henergy.trans henergy'⟩
  · obtain ⟨f, hf, hstate⟩ : ∃ f, spQueue.slots = modAt s5.sp.slots c.space f ∧ ∀ x, (f x).state = x.state := ⟨_, rfl, fun _ => rfl⟩
    refine (SlotStates.of_eq (t := s3) (by rw [hs3])).trans (hs35.states.trans (.of_mod (slot := c.space) ?_ hstate))
    rw [hs6, ← hf]
  · refine (congrArg Spaces.fences hs6).trans (hfences.trans ?_)
    unfold s4
    split
    · exact hf3
    · next hsig =>
      simp only [Bool.or_eq_true, decide_eq_true_eq, not_or] at hsig
      rw [hget, (hnone.resolve_left hsig.1).resolve_left hsig.2]
      exact hf3
  · refine ⟨s3, hf3, (congrArg Spaces.fences hs6).trans (hfences.trans ?_)⟩
    unfold s4
    have hnamed : ¬(c.noFence || decide (c.sigFence = 0)) = true := by
      rw [hhas, Bool.false_or, decide_eq_true_eq]
      exact hsig
    rw [if_neg hnamed, hget, hf]

end Sys2Proof.Machine
end

section
/-! SUPPORT. What follows the completion of a command: waits, destructions and releases. -/

namespace Sys2Proof.Machine

theorem releaseStruck_sp (s : State) : ∃ objs fences queues, (releaseStruck s).sp = { s.sp with objs := objs, fences := fences, queues := queues } :=
  ⟨_, _, _, rfl⟩

/-- What follows a change of the commands and fences: waits are evaluated, dying contexts end, struck things are released. -/
abbrev followed (u : State) : State := evalWaits (releaseStruck (endContexts (evalWaits u)))

theorem followed_aged (u : State) : CmdsAged u (followed u) :=
  (evalWaits_aged u).trans ((CmdsAged.of_eq (endContexts_owned _).cmds).trans ((CmdsAged.of_eq rfl).trans (evalWaits_aged _)))

/-- With no context dying, the contexts stay, and of the fences only struck ones may go. -/
theorem followed_undying {u : State} (h : ∀ x ∈ u.sp.ctxs, x.dying = false) :
    (followed u).sp.ctxs = u.sp.ctxs ∧ ∃ keep : Fence → Bool, (∀ f, f.struck = false → keep f = true) ∧
      (followed u).sp.fences = u.sp.fences.filter keep := by
  obtain ⟨cmds, hfirst⟩ := evalWaits_sp u
  have hnone : endContexts (evalWaits u) = evalWaits u := endContexts_none _ (by rw [hfirst]; exact h)
  obtain ⟨cmds', hlast⟩ := evalWaits_sp (releaseStruck (evalWaits u))
  unfold followed
  rw [hnone, hlast]
  have hctxs : (evalWaits u).sp.ctxs = u.sp.ctxs := by rw [hfirst]
  have hfences : (evalWaits u).sp.fences = u.sp.fences := by rw [hfirst]
  refine ⟨hctxs, fun f => !f.struck || fenceNamed (evalWaits u) f f.door, fun f hf => by simp [hf], ?_⟩
  rw [← hfences]
  rfl

/-- The first that a test finds is still the first where a filter keeps it. -/
theorem find_filter {α : Type} {p q : α → Bool} {x : α} : ∀ {l : List α}, l.find? q = some x → p x = true → (l.filter p).find? q = some x
  | [], h, _ => nomatch h
  | y :: l, h, hp => by
    by_cases hq : q y = true
    · obtain rfl : y = x := by simpa [hq] using h
      simp [hp, hq]
    · have hrest := find_filter (p := p) (by simpa [hq] using h) hp
      by_cases hy : p y = true <;> simp [hy, hq, hrest]

theorem fenceGet_filter {s t : State} {slot : Nat} {h : BitVec 32} {f : Fence} {keep : Fence → Bool} (hget : fenceGet s slot h = some f)
    (hkeep : keep f = true) (ht : t.sp.fences = s.sp.fences.filter keep) : fenceGet t slot h = some f := by
  unfold fenceGet at hget ⊢
  rw [ht]
  split at hget
  · next hh => rw [if_pos hh, find_filter hget hkeep]
  · cases hget

theorem fenceGet_congr {s t : State} (h : t.sp.fences = s.sp.fences) (slot : Nat) (x : BitVec 32) : fenceGet t slot x = fenceGet s slot x := by
  simp only [fenceGet, h]

/-! ### COMMAND_COMPLETE -/

section Completion

variable {s : State} {cid busy uj : Nat} {c : Cmd} {r : Result} (hget : cmdGet s cid = some c)
include hget

theorem commandComplete_waits (h : cmdLive c = true ∨ (s.array.rush.any fun j => j.cid == cid) = true ∨ recordWaits s c = true) :
    commandComplete cid busy uj s = s := by
  unfold commandComplete
  rw [hget]
  dsimp only
  split
  · next hphase =>
    have hdead : cmdLive c ≠ true := by simp [cmdLive, hphase]
    exact if_pos (by simpa using h.resolve_left hdead)
  · rfl

variable (hphase : c.phase = .finished r) (hrush : (s.array.rush.any fun j => j.cid == cid) = false) (hrec : recordWaits s c = false)
include hphase hrush hrec

/-- A command that has ended, with no check and no fill to wait for, completes. -/
theorem commandComplete_completes : ∃ u, commandComplete cid busy uj s = followed u ∧ Retired c (c.pj / 10 ^ 6 + uj) s u ∧
    FenceSettled c r (recordOf c r busy (c.pj / 10 ^ 6 + uj)) s u := by
  obtain ⟨u, hu, hretired, hfence⟩ := completeCmd_steps s c r busy (c.pj / 10 ^ 6 + uj)
  refine ⟨u, ?_, hretired, hfence⟩
  rw [followed, ← hu, commandComplete, hget]
  dsimp only
  rw [hphase]
  exact if_neg (by simp [hrush, hrec])

omit hphase hrush hrec in
/-- After it no command has its number. -/
theorem Retired.gone {u : State} {energy : Nat} (h : Retired c energy s u) : ∀ x ∈ (followed u).sp.cmds, x.id ≠ cid := by
  obtain ⟨g, hg, haged⟩ := followed_aged u
  have hid : c.id = cid := by simpa using List.find?_some hget
  intro x hx
  rw [hg, h.cmds] at hx
  obtain ⟨y, hy, rfl⟩ := List.mem_map.1 hx
  rw [(haged y).id, ← hid]
  simpa using (List.mem_filter.1 hy).2

end Completion

theorem Retired.undying {s u : State} {c : Cmd} {energy : Nat} (h : Retired c energy s u) (hdying : ∀ x ∈ s.sp.ctxs, x.dying = false) :
    ∀ x ∈ u.sp.ctxs, x.dying = false := by
  obtain ⟨g, hg, hkept⟩ := h.ctxs
  rw [hg]
  intro x hx
  obtain ⟨y, hy, rfl⟩ := List.mem_map.1 hx
  rw [(hkept y).2.2.1]
  exact hdying y hy

/-- The context of the command has its energy added. -/
theorem Retired.energy {s u : State} {c : Cmd} {energy : Nat} {x : Ctx} (h : Retired c energy s u) (hx : ctxGet s c.ctx = some x) :
    ∃ y, ctxGet u c.ctx = some y ∧ y.energyUj = x.energyUj + energy := by
  obtain ⟨g, hg, hkept⟩ := h.ctxs
  have hid : x.id = c.ctx := by simpa using List.find?_some hx
  refine ⟨g x, ?_, by rw [(hkept x).2.2.2, if_pos hid]⟩
  unfold ctxGet at hx ⊢
  have hsame : ((fun y : Ctx => y.id == c.ctx) ∘ g) = fun y => y.id == c.ctx := funext fun y => by simp [(hkept y).1]
  rw [hg, List.find?_map, hsame, hx]
  rfl

/-- A live signal fence of the command after its completion, before the releases. -/
theorem FenceSettled.signal {s u : State} {c : Cmd} {r : Result} {rec : List Byte} {f : Fence} (h : FenceSettled c r rec s u)
    (hhas : c.noFence = false) (hsig : c.sigFence ≠ 0) (hget : fenceGet s c.space c.sigFence = some f) (hf : f.failed = false)
    (huniq : ∀ g ∈ s.sp.fences, g.idx = f.idx → g = f) : fenceGet u c.space c.sigFence = some (fencePaid
      (if statusGood r.status then { f with value := if c.sigValue ≤ f.value then f.value else c.sigValue }
        else { f with failed := true, record := rec })) := by
  obtain ⟨v, hv, hu⟩ := h.signed f hhas hsig hget
  have hgetv : fenceGet v c.space c.sigFence = some f := (fenceGet_congr hv _ _).trans hget
  have huniqv : ∀ g ∈ v.sp.fences, g.idx = f.idx → g = f := by rwa [hv]
  split
  · next hgood =>
    rw [if_pos hgood, fenceSignal_fences hgetv huniqv _ hf] at hu
    exact fenceGet_change (φ := fun _ => { f with value := if c.sigValue ≤ f.value then f.value else c.sigValue }) hgetv huniqv rfl rfl hu
  · next hbad =>
    rw [if_neg hbad, fenceFail_fences hgetv huniqv _ hf] at hu
    exact fenceGet_change (φ := fun _ => { f with failed := true, record := rec }) hgetv huniqv rfl rfl hu

end Sys2Proof.Machine
end

section
/-! CLAIMS. Queues, doorbells and completion (file 14). -/

namespace Sys2Proof.Machine

/-- Settles O58: a doorbell's commands through `acceptRun_accepts`, a completion through what retires and what follows. -/
theorem queuesDoorbellsAndCompletion : Obligations.QueuesDoorbellsAndCompletion := by
  unfold Obligations.QueuesDoorbellsAndCompletion
  refine ⟨fun s ch ra n ca v hmay hn hv hra hca hmr hmc hsr hsc hq hlen => ?create, fun s ch ra n ca v hmay hbad => ?badCreate,
    fun s ch ra n ca v hmay hn hv hra hca hmr hmc => ⟨fun hstruck => ?struck, fun hsr hsc hq => ?quota⟩,
    fun s ch h j i hmay hnone hi => ?noQueue, fun s ch h q hmay hget hdying => ?dying, fun s ch h q hmay hq hget hlive hnone => ?destroy,
    fun s ch h j q hmay hget hfill hbusy => ?busy, fun s ch h j q hmay hget hfill hdone hmoves hlen => ?accept,
    fun s ch h j hmay hfill => ?waits, fun s cid busy uj c r f hget hphase hrush hrec hdying hhas hsig hf hfail hstruck huniq => ?fence,
    fun s cid busy uj c r x hget hphase hrush hrec hdying hx => ?energy, fun s cid busy uj c r hget hphase hrush hrec => ?gone,
    fun s cid busy uj c hget hw => ?held, fun s cid busy uj hnone => ?none⟩
  case create =>
    obtain ⟨port, hspace⟩ := asked_spaceGet s ch ch.slot
    obtain ⟨k, g, hk, hg, hnew, hmade⟩ := qCreate_makes (s := asked s ch) (slot := ch.slot) hn hv hra hca
      (by rwa [asked_spanMapped]) (by rwa [asked_spanMapped]) (by rwa [asked_spanStruck]) (by rwa [asked_spanStruck])
      (by rw [asked_useOf, hspace]; exact hq) (by simpa using hlen)
    have hqueues : (asked s ch).sp.queues = s.sp.queues := by simp
    rw [hqueues] at hnew hmade
    exact ⟨k, g, hk, hg, hnew, next_spaceRequest (.qCreate ra n ca v) hmay rfl hmade⟩
  case badCreate =>
    have hbad' := qCreate_bad (s := asked s ch) (slot := ch.slot) (ra := ra) (n := n) (ca := ca) (v := v)
      (by simpa only [asked_spanMapped] using hbad)
    exact next_spaceRequest (.qCreate ra n ca v) hmay rfl hbad'
  case struck =>
    have hmade := qCreate_inOrder (s := asked s ch) (slot := ch.slot) hn hv hra hca (by rwa [asked_spanMapped]) (by rwa [asked_spanMapped])
    rw [asked_spanStruck, asked_spanStruck, if_pos (by simpa using hstruck)] at hmade
    exact next_spaceRequest (.qCreate ra n ca v) hmay rfl hmade
  case quota =>
    obtain ⟨port, hspace⟩ := asked_spaceGet s ch ch.slot
    have hmade := qCreate_inOrder (s := asked s ch) (slot := ch.slot) hn hv hra hca (by rwa [asked_spanMapped]) (by rwa [asked_spanMapped])
    rw [asked_spanStruck, asked_spanStruck, if_neg (by simp [hsr, hsc]), asked_useOf, if_pos (by rw [hspace]; exact hq)] at hmade
    exact next_spaceRequest (.qCreate ra n ca v) hmay rfl hmade
  case noQueue =>
    rcases hi with rfl | rfl
    · exact next_spaceRequest (.qDestroy h) hmay rfl (a := ⟨_, _, _⟩) (by simp only [spaceDo, qDestroy, asked_queueGet, hnone])
    · exact next_spaceRequest (.doorbell h j) hmay (by simp [waitingRow, ringFills, hnone]) (a := ⟨_, _, _⟩)
        (by simp only [spaceDo, doorbell, asked_queueGet, hnone])
  case dying =>
    exact next_spaceRequest (.qDestroy h) hmay rfl (a := ⟨_, _, _⟩) (by simp only [spaceDo, qDestroy, asked_queueGet, hget, hdying, if_true])
  case destroy =>
    obtain ⟨u, hu, hgone, hcells⟩ := qDestroy_empty (s := asked s ch) (slot := ch.slot) (h := h) (q := q) (asked_quiet ch hq)
      (by rwa [asked_queueGet]) hlive (by simpa using hnone)
    exact ⟨u, next_spaceRequest (.qDestroy h) hmay rfl hu, hgone, by simpa using hcells⟩
  case busy =>
    exact next_spaceRequest (.doorbell h j) hmay (by simp [waitingRow, hfill])
      (doorbell_refused (s := asked s ch) (by rwa [asked_queueGet]) hbusy)
  case accept =>
    obtain ⟨u, hu, hdoors, hlength, hnext, hdead, hqueues, hcells⟩ :=
      doorbell_accepts (s := asked s ch) (slot := ch.slot) (h := h) (by rwa [asked_queueGet]) hdone hmoves hlen
    obtain ⟨keys, heq⟩ := asked_eq s ch
    rw [heq] at hdoors hlength hnext hdead hcells
    exact ⟨u, next_spaceRequest (.doorbell h j) hmay (by simp [waitingRow, hfill]) hu, hdoors, hlength, hnext, hdead, hqueues, hcells⟩
  case waits =>
    obtain ⟨keys, heq⟩ := asked_eq s ch
    refine congrArg Host.Outcome.next ((spaceRequest_waits ch (.doorbell h j) s (.doorbell ch h j) hmay (by simp [waitingRow, hfill])).trans ?_)
    rw [heq]
    rfl
  case fence =>
    obtain ⟨u, hu, hretired, hfence⟩ := commandComplete_completes (busy := busy) (uj := uj) hget hphase hrush hrec
    have hsettled := hfence.signal hhas hsig hf hfail huniq
    obtain ⟨-, keep, hkeep, hfences⟩ := followed_undying (hretired.undying hdying)
    refine ⟨_, _, congrArg Host.Outcome.next hu, hretired.gone hget, fenceGet_filter hsettled (hkeep _ ?_) hfences, fun hgood => ?_,
      fun hok hev => ?_⟩
    · split <;> exact hstruck
    · have hstatus : statusGood r.status = true := by rcases hgood with hg | hg <;> simp [statusGood, hg]
      rw [if_pos hstatus]
      exact ⟨hfail, rfl⟩
    · have hstatus : ¬statusGood r.status = true := by simp [statusGood, hok, hev]
      rw [if_neg hstatus]
      exact ⟨rfl, rfl, rfl⟩
  case energy =>
    obtain ⟨u, hu, hretired, hfence⟩ := commandComplete_completes (busy := busy) (uj := uj) hget hphase hrush hrec
    obtain ⟨y, hy, henergy⟩ := hretired.energy hx
    obtain ⟨hctxs, keep, hkeep, hfences⟩ := followed_undying (hretired.undying hdying)
    refine ⟨_, y, congrArg Host.Outcome.next hu, hretired.gone hget, by rw [ctxGet, hctxs]; exact hy, henergy, fun hnone => ?_⟩
    rw [hfences, hfence.unsigned hnone]
    exact ⟨fun f hf => (List.mem_filter.1 hf).1, fun f hf hs => List.mem_filter.2 ⟨hf, hkeep f hs⟩⟩
  case gone =>
    obtain ⟨u, hu, hretired, -⟩ := commandComplete_completes (busy := busy) (uj := uj) hget hphase hrush hrec
    exact ⟨_, congrArg Host.Outcome.next hu, hretired.gone hget⟩
  case held => exact congrArg Host.Outcome.next (commandComplete_waits hget hw)
  case none =>
    refine congrArg Host.Outcome.next ?_
    simp only [commandComplete, hnone]

end Sys2Proof.Machine
end

section
/-! SUPPORT. Commands that wane: what an abort, and all that follows from it, does to the commands, contexts and slots (R392). -/

namespace Sys2Proof.Machine

/-! ### The spaces' part -/

/-- No command, context or live space has come since a state: commands have aged or gone, contexts are of their space and dying as they were,
slots read the states that they read. -/
structure Waning (s t : State) : Prop where
  cmds : ∀ cid d, cmdGet t cid = some d → ∃ c, cmdGet s cid = some c ∧ Aged c d
  ctxs : ∀ x ∈ t.sp.ctxs, ∃ y ∈ s.sp.ctxs, x.space = y.space ∧ x.dying = y.dying
  states : SlotStates s t

namespace Waning

theorem trans {s t u : State} (h : Waning s t) (k : Waning t u) : Waning s u where
  cmds cid d hd := by
    obtain ⟨c, hc, haged⟩ := k.cmds cid d hd
    obtain ⟨b, hb, haged'⟩ := h.cmds cid c hc
    exact ⟨b, hb, haged'.trans haged⟩
  ctxs x hx := by
    obtain ⟨y, hy, hspace, hdying⟩ := k.ctxs x hx
    obtain ⟨z, hz, hspace', hdying'⟩ := h.ctxs y hy
    exact ⟨z, hz, hspace.trans hspace', hdying.trans hdying'⟩
  states := h.states.trans k.states

theorem foldl {α : Type} {f : State → α → State} (h : ∀ t x, Waning t (f t x)) : ∀ (l : List α) (s : State), Waning s (l.foldl f s)
  | [], _ => ⟨fun _ d hd => ⟨d, hd, .refl d⟩, fun x hx => ⟨x, hx, rfl, rfl⟩, .of_eq rfl⟩
  | x :: l, s => (h s x).trans (Waning.foldl h l _)

/-- Commands that have aged each in its place. -/
theorem of_aged {s t : State} (hcmds : CmdsAged s t) (hctxs : ∀ x ∈ t.sp.ctxs, ∃ y ∈ s.sp.ctxs, x.space = y.space ∧ x.dying = y.dying)
    (hstates : SlotStates s t) : Waning s t := by
  obtain ⟨g, hg, haged⟩ := hcmds
  refine ⟨fun cid d hd => ?_, hctxs, hstates⟩
  have hsame : ((fun c : Cmd => c.id == cid) ∘ g) = fun c => c.id == cid := funext fun c => by simp [(haged c).id]
  unfold Machine.cmdGet at hd
  rw [hg, List.find?_map, hsame] at hd
  obtain ⟨c, hc, rfl⟩ := Option.map_eq_some_iff.1 hd
  exact ⟨c, hc, haged c⟩

/-- Where the contexts and slots are as they were. -/
theorem of_cmds {s t : State} (hcmds : CmdsAged s t) (hctxs : t.sp.ctxs = s.sp.ctxs) (hslots : t.sp.slots = s.sp.slots) : Waning s t :=
  of_aged hcmds (fun x hx => ⟨x, hctxs ▸ hx, rfl, rfl⟩) (.of_eq hslots)

theorem of_sp {s t : State} (h : t.sp = s.sp) : Waning s t := of_cmds (.of_eq (by rw [h])) (by rw [h]) (by rw [h])

theorem refl (s : State) : Waning s s := of_sp rfl

/-- A change of a context that keeps its space and whether it is dying. -/
theorem of_ctxMod {s t : State} {id : Nat} {f : Ctx → Ctx} (ht : t.sp = ctxMod s.sp id f)
    (hf : ∀ x, (f x).space = x.space ∧ (f x).dying = x.dying) : Waning s t := by
  refine of_aged (.of_eq (by rw [ht]; rfl)) (fun x hx => ?_) (.of_eq (by rw [ht]; rfl))
  rw [ht] at hx
  obtain ⟨y, hy, rfl⟩ := List.mem_map.1 hx
  refine ⟨y, hy, ?_⟩
  split
  · exact hf y
  · exact ⟨rfl, rfl⟩

end Waning

/-! ### What follows a completion -/

theorem evalWaits_wanes (s : State) : Waning s (evalWaits s) := by
  obtain ⟨cmds, hsp⟩ := evalWaits_sp s
  exact .of_cmds (evalWaits_aged s) (by rw [hsp]) (by rw [hsp])

theorem fenceDestroy_work (s : State) (f : Fence) : FenceWork s (fenceDestroy s f) := by
  have hsent : FenceWork s (f.notifies.foldl (fun t v => sendNotice t f.space (.fence (fenceHandle f.idx) v .aborted)) s) :=
    .foldl (fun t _ => sendNotice_work t f.space _) _ s
  unfold fenceDestroy
  dsimp only
  split
  · split
    · exact hsent.trans (.of_eq rfl)
    · exact hsent.trans (.of_eq rfl)
  · exact .of_eq rfl

theorem objFree_work (s : State) (o : Obj) : FenceWork s (objFree s o) := by
  refine ⟨objFree_owned s o, ?_, .of_eq ?_⟩ <;> unfold objFree <;> split <;> rfl

theorem ctxOwned_work (s : State) (id : Nat) : FenceWork s (ctxOwned s id) :=
  (FenceWork.foldl (fun t (f : Fence) => fenceFail_work t f.idx abortRecord) _ s).trans
    ((FenceWork.foldl (fun t (f : Fence) => fenceDestroy_work t { f with notifies := [] }) _ _).trans (.foldl objFree_work _ _))

theorem ctxGone_wanes (s : State) (x : Ctx) : Waning s (ctxGone s x) := by
  have hwork := ctxOwned_work s x.id
  refine .of_aged (.of_eq hwork.owned.cmds) (fun y hy => ?_) (hwork.states.trans (.of_eq rfl))
  have hmem : y ∈ (ctxOwned s x.id).sp.ctxs := (List.mem_filter.1 hy).1
  exact ⟨y, hwork.ctxs ▸ hmem, rfl, rfl⟩

theorem endContexts_wanes (s : State) : Waning s (endContexts s) := .foldl ctxGone_wanes _ s

theorem releaseStruck_wanes (s : State) : Waning s (releaseStruck s) := .of_cmds (.of_eq rfl) rfl rfl

theorem Retired.wanes {c : Cmd} {energy : Nat} {s u : State} (h : Retired c energy s u) : Waning s u := by
  refine ⟨fun cid d hd => ⟨d, ?_, .refl d⟩, fun x hx => ?_, h.states⟩
  · by_cases hid : cid = c.id
    · have hmem := List.mem_of_find?_eq_some hd
      have hgone := List.find?_some hd
      rw [h.cmds] at hmem
      have hne := (List.mem_filter.1 hmem).2
      simp_all
    · unfold cmdGet at hd ⊢
      rw [h.cmds, List.find?_filter] at hd
      rw [← hd]
      refine List.find?_congr fun x _ => ?_
      by_cases hx : x.id = cid
      · simp [hx, hid]
      · simp [hx]
  · obtain ⟨g, hg, hkept⟩ := h.ctxs
    rw [hg] at hx
    obtain ⟨y, hy, rfl⟩ := List.mem_map.1 hx
    exact ⟨y, hy, (hkept y).2.1, (hkept y).2.2.1⟩

theorem followed_wanes (u : State) : Waning u (followed u) :=
  (evalWaits_wanes u).trans ((endContexts_wanes _).trans ((releaseStruck_wanes _).trans (evalWaits_wanes _)))

theorem completeCmd_wanes (s : State) (c : Cmd) (r : Result) (busy uj : Nat) : Waning s (completeCmd s c r busy uj) := by
  obtain ⟨u, hu, hretired, -⟩ := completeCmd_steps s c r busy uj
  rw [hu]
  exact hretired.wanes.trans (followed_wanes u)

theorem abortIdle_wanes (s : State) (c : Cmd) : Waning s (abortIdle s c) := by
  unfold abortIdle
  split
  · split
    · exact completeCmd_wanes _ _ _ _ _
    · exact .refl s
  · exact .refl s

/-- An aborted command that had not started is gone. -/
theorem abortIdle_ends {s : State} {c d : Cmd} (h : cmdGet (abortIdle s c) c.id = some d) : d.phase ≠ .accepted := by
  unfold abortIdle at h
  split at h
  · next x hx =>
    split at h
    · obtain ⟨u, hu, hretired, -⟩ := completeCmd_steps s x (resultOf .aborted) 0 0
      rw [hu] at h
      have hid : d.id = c.id := by simpa using List.find?_some h
      exact absurd hid (hretired.gone hx d (List.mem_of_find?_eq_some h))
    · next hphase =>
      rw [hx] at h
      cases h
      exact hphase
  · next hnone =>
    rw [hnone] at h
    cases h

/-- After each of a list has been aborted, none of them that is live is still to start. -/
theorem abortIdles_end {c d : Cmd} (hlive : cmdLive d = true) (l : List Cmd) : ∀ s : State, c ∈ l →
    cmdGet (l.foldl abortIdle s) c.id = some d → d.phase ≠ .accepted := by
  induction l with
  | nil => exact fun s hc => nomatch hc
  | cons b l ih =>
    intro s hc hd
    rw [List.foldl_cons] at hd
    by_cases hcl : c ∈ l
    · exact ih _ hcl hd
    · obtain rfl : c = b := (List.mem_cons.1 hc).resolve_right hcl
      obtain ⟨x, hx, haged⟩ := (Waning.foldl abortIdle_wanes l _).cmds _ d hd
      rw [haged.phase hlive]
      exact abortIdle_ends hx

end Sys2Proof.Machine
end

section
/-! SUPPORT. An abort, up to what the fabric engines do about it (R392, steps 2 and 3). -/

namespace Sys2Proof.Machine

/-- A state on the way of an abort: the spaces wane, and no collective's slot, no cut and no ended transaction has come or gone. -/
structure Aborting (s t : State) : Prop where
  wanes : Waning s t
  slots : t.col.slots = s.col.slots
  cut : t.dly.cut = s.dly.cut
  ended : t.fabric.ended = s.fabric.ended

namespace Aborting

theorem refl (s : State) : Aborting s s := ⟨.refl s, rfl, rfl, rfl⟩

theorem trans {s t u : State} (h : Aborting s t) (k : Aborting t u) : Aborting s u :=
  ⟨h.wanes.trans k.wanes, k.slots.trans h.slots, k.cut.trans h.cut, k.ended.trans h.ended⟩

theorem foldl {α : Type} {f : State → α → State} (h : ∀ t x, Aborting t (f t x)) : ∀ (l : List α) (s : State), Aborting s (l.foldl f s)
  | [], s => .refl s
  | x :: l, s => (h s x).trans (Aborting.foldl h l _)

theorem of_array {s t : State} {array : Array} {n : Nat} (h : t = { s with array := array, freeCtr := n }) : Aborting s t := by
  subst h
  exact ⟨.of_sp rfl, rfl, rfl, rfl⟩

theorem of_access {s t : State} (h : AccessWork s t) (hwanes : Waning s t) : Aborting s t := by
  refine ⟨hwanes, ?_, ?_, ?_⟩ <;> obtain ⟨_, _, _, _, _, _, _, rfl⟩ := h <;> rfl

end Aborting

/-! ### Work on an engine -/

theorem sramCount_aborting (s : State) (e : Nat) (x : SramErr) : Aborting s (sramCount s e x) := by
  refine .foldl (fun t w => ?_) x s
  unfold sramMeet sramFlip
  dsimp only
  repeat' split
  all_goals exact .of_array rfl

theorem holdWrite_aborting (s : State) (c : Cmd) (x : Band) (stg tile : Bool) : Aborting s (holdWrite s c x stg tile) := by
  unfold holdWrite
  split
  · exact .of_array rfl
  · exact .refl s

theorem stgSpoil_aborting (s : State) (x : Band) (off pitch row : Nat) : ∀ m : Nat, Aborting s (stgSpoil s x off pitch row m)
  | 0 => .refl s
  | m + 1 => (stgSpoil_aborting s x off pitch row m).trans (.of_array rfl)

theorem tilePutRows_aborting (x : Band) (base : Nat) : ∀ (i : Nat) (rows : List (List W32)) (s : State),
    Aborting s (tilePutRows x base i rows s)
  | _, [], s => .refl s
  | i, r :: rows, s => (Aborting.of_array (s := s) rfl).trans (tilePutRows_aborting x base (i + 1) rows (tilePutRow s x base i r))

theorem tileSpoil_aborting (s : State) (x : Band) (base m n : Nat) : Aborting s (tileSpoil s x base m n) :=
  (tilePutRows_aborting _ _ _ _ _).trans (.of_array rfl)

theorem mmLose_aborting (s : State) (c : Cmd) : Aborting s (mmLose s c) := by
  have hlost : ∀ x base m n stg, Aborting s (holdWrite (tileSpoil s x base m n) c x stg true) :=
    fun x base m n stg => (tileSpoil_aborting s x base m n).trans (holdWrite_aborting _ c x stg true)
  unfold mmLose
  dsimp only
  split
  · exact hlost _ _ _ _ _
  · exact (hlost _ _ _ _ _).trans (stgSpoil_aborting _ _ _ _ _ _)

theorem mmSpoil_aborting (s : State) (c : Cmd) (p : Progress) : Aborting s (mmSpoil s c p) := by
  unfold mmSpoil
  dsimp only
  split
  · exact (Aborting.of_array (s := s) rfl).trans (mmLose_aborting _ c)
  · exact .refl s

theorem dropImage_aborting (s : State) (c : Cmd) : Aborting s (dropImage s c) := by
  unfold dropImage
  split
  · exact .refl s
  · dsimp only
    split
    · exact (Aborting.of_array (s := s) rfl).trans (mmLose_aborting _ c)
    · exact .of_array rfl

theorem dropWork_aborting (s : State) (f : Cmd → Bool) : Aborting s (dropWork s f) :=
  (Aborting.foldl dropImage_aborting _ s).trans (.of_array rfl)

/-! ### A command's accesses -/

theorem chargePj_wanes (s : State) (cid pj : Nat) : Waning s (chargePj s cid pj) :=
  .of_cmds (cmdMod_aged rfl fun _ => ⟨rfl, rfl, rfl, rfl, fun _ => rfl⟩) rfl rfl

theorem countHbm_wanes (s : State) (c : Cmd) (runs : List (Nat × Nat)) (rd wr : Nat) : Waning s (countHbm s c runs rd wr) :=
  (Waning.of_ctxMod (t := { s with sp := ctxMod s.sp c.ctx fun x => { x with hbmRead := x.hbmRead + rd, hbmWritten := x.hbmWritten + wr } })
    rfl fun _ => ⟨rfl, rfl⟩).trans (chargePj_wanes _ _ _)

theorem addMask_aborting (s : State) (ctx : Nat) (m : BitVec 8) : Aborting s (addMask s ctx m) :=
  ⟨.of_ctxMod rfl fun _ => ⟨rfl, rfl⟩, rfl, rfl, rfl⟩

theorem readSpace_aborting (s : State) (c : Cmd) (v n : Nat) : Aborting s (readSpace s c v n).st :=
  .of_access (readSpace_space s c v n).access ((Waning.of_sp (readRuns_ports _ _ s).sp).trans (countHbm_wanes _ _ _ _ _))

theorem writeSpace_aborting (s : State) (c : Cmd) (v : Nat) (bs : List Byte) : Aborting s (writeSpace s c v bs).st :=
  .of_access (writeSpace_access s c v bs) ((Waning.of_sp (writeRuns_ports false _ _ _ s).sp).trans (countHbm_wanes _ _ _ _ _))

theorem readTake_aborting (s : State) (c : Cmd) (v n : Nat) : Aborting s (readTake s c v n).st :=
  (addMask_aborting s _ _).trans (readSpace_aborting _ c v n)

theorem checkRead_aborting (s : State) (c : Cmd) (v n : Nat) : Aborting s (checkRead s c v n).st := by
  unfold checkRead
  split
  · exact .refl s
  · exact readSpace_aborting s c v n

theorem takeSpans_aborting (c : Cmd) : ∀ (l : List (Nat × Nat)) (s : State), Aborting s (takeSpans c l s).1
  | [], s => .refl s
  | (v, n) :: l, s => by
    have hread := readTake_aborting s c v n
    simp only [takeSpans]
    split
    · exact hread.trans (takeSpans_aborting c l _)
    · exact hread

theorem writeSpans_aborting (c : Cmd) : ∀ (l : List (Nat × List Byte)) (s : State), Aborting s (writeSpans c l s).st
  | [], s => .refl s
  | (v, bs) :: l, s => by
    have hwrite := writeSpace_aborting s c v bs
    simp only [writeSpans]
    split
    · exact hwrite.trans (writeSpans_aborting c l _)
    · exact hwrite

theorem spoilRuns_aborting (s : State) (runs : List (Nat × Nat)) : Aborting s (spoilRuns s runs) :=
  .of_access (spoilRuns_space s runs).access (.of_sp (spoilRuns_ports runs s).sp)

theorem cmdEnd_aborting (s : State) (cid : Nat) (r : Result) : Aborting s (cmdEnd s cid r) :=
  ⟨.of_cmds (cmdEnd_aged s cid r) rfl rfl, rfl, rfl, rfl⟩

/-! ### A running UPDATE that is aborted (R195) -/

theorem granUpdate_aborting (s : State) (c : Cmd) (b : UpdBody) (d : ParamDesc) (k : UpdConst) (pos j : Nat) (r : UpdRun) :
    Aborting s (granUpdate s c b d k pos j r).1 := by
  have hword := readTake_aborting s c (d.steps + 4 * j) 4
  unfold granUpdate
  dsimp only
  split
  · exact .refl s
  · split
    · exact hword
    · split
      · exact hword
      · have hread := hword.trans (takeSpans_aborting c ((d.w + 64 * j * weightBytes d, granuleLen d j * weightBytes d) ::
          (stateSpans d j ++ [granGrad b d j pos])) _)
        split
        · exact hread
        · split
          · exact hread.trans (writeSpans_aborting c _ _)
          · exact (hread.trans (writeSpans_aborting c _ _)).trans (spoilRuns_aborting _ _)

theorem granRun_aborting (c : Cmd) (b : UpdBody) (d : ParamDesc) (k : UpdConst) : ∀ (js : List Nat) (pos : Nat) (r : UpdRun) (s : State),
    Aborting s (granRun c b d k pos js r s).1
  | [], _, _, s => .refl s
  | j :: js, pos, r, s => by
    have hgran := granUpdate_aborting s c b d k pos j r
    simp only [granRun]
    split
    · exact hgran.trans (granRun_aborting c b d k js _ _ _)
    · exact hgran

theorem updFinish_aborting (s : State) (c : Cmd) (b : UpdBody) (r : UpdRun) : Aborting s (updFinish s c b r) := by
  have hwrite := writeSpans_aborting c [(b.pd + 12, natLe 4 b.step), (b.pd + 104, updSummary r)] s
  have hback : ∀ (t : State) (m : Mem), Aborting t { t with mem := m } := fun t m => ⟨.of_sp rfl, rfl, rfl, rfl⟩
  unfold updFinish
  dsimp only
  split
  · exact hwrite.trans (cmdEnd_aborting _ _ _)
  · exact (hwrite.trans (hback _ _)).trans (cmdEnd_aborting _ _ _)

theorem updGo_aborting (s : State) (c : Cmd) (b : UpdBody) (d : ParamDesc) (js : List Nat) (cell : Option NormCell) (e : SramErr)
    (cut : Option Status) : Aborting s (updGo s c b d js cell e cut) := by
  unfold updGo
  extract_lets x s1 s2 done bad f k
  have hmet : Aborting s s2 :=
    ((sramCount_aborting s b.engine e).trans (addMask_aborting _ _ _)).trans (stgSpoil_aborting _ _ _ _ _ _)
  have hdone : ∀ t, Aborting s t → Aborting s (done t) := fun t ht => ht.trans (holdWrite_aborting t c x true false)
  split
  · exact (hdone _ hmet).trans (cmdEnd_aborting _ _ _)
  · split
    · have hrun := (hmet.trans (.of_array (n := s2.freeCtr + 1) rfl)).trans
        (granRun_aborting c b d k (js.take ((freeAt s2 0).toNat % (js.length + 1))) 0 {} (freeUse s2 1))
      split
      · exact (hdone _ hrun).trans (cmdEnd_aborting _ _ _)
      · exact (hdone _ hrun).trans (cmdEnd_aborting _ _ _)
    · have hrun := hmet.trans (granRun_aborting c b d k js 0 {} s2)
      split
      · exact (hdone _ hrun).trans (updFinish_aborting _ _ _ _)
      · exact (hdone _ hrun).trans (cmdEnd_aborting _ _ _)

theorem updRest_aborting (s : State) (c : Cmd) (b : UpdBody) (d : ParamDesc) (js : List Nat) (cell : Option NormCell) (e : SramErr)
    (cut : Option Status) : Aborting s (updRest s c b d js cell e cut) := by
  unfold updRest
  extract_lets bad p
  split
  · exact cmdEnd_aborting _ _ _
  · split
    · exact cmdEnd_aborting _ _ _
    · split
      · exact cmdEnd_aborting _ _ _
      · exact updGo_aborting _ _ _ _ _ _ _ _

theorem updNorm_aborting (s : State) (c : Cmd) (b : UpdBody) (d : ParamDesc) (js : List Nat) (e : SramErr) (cut : Option Status) :
    Aborting s (updNorm s c b d js e cut) := by
  have hcell := checkRead_aborting s c b.norm 64
  unfold updNorm
  dsimp only
  split
  · exact updRest_aborting _ _ _ _ _ _ _ _
  · split
    · exact hcell.trans (updRest_aborting _ _ _ _ _ _ _ _)
    · exact hcell.trans (cmdEnd_aborting _ _ _)

theorem updRun_aborting (s : State) (c : Cmd) (e : SramErr) (cut : Option Status) : Aborting s (updRun s c e cut) := by
  unfold updRun
  extract_lets b p d l js
  have hdesc : Aborting s p.st := checkRead_aborting s c b.pd 128
  have hlist : Aborting s l.st := hdesc.trans (checkRead_aborting _ _ _ _)
  repeat' split
  · exact cmdEnd_aborting _ _ _
  · exact hdesc.trans (cmdEnd_aborting _ _ _)
  · exact hdesc.trans (cmdEnd_aborting _ _ _)
  · exact hlist.trans (cmdEnd_aborting _ _ _)
  · exact hlist.trans (updNorm_aborting _ _ _ _ _ _ _)
  · exact hlist.trans (cmdEnd_aborting _ _ _)
  · exact hdesc.trans (updNorm_aborting _ _ _ _ _ _ _)

theorem abortRun_aborting (s : State) (c : Cmd) : Aborting s (abortRun s c) := by
  unfold abortRun
  split
  · exact updRun_aborting _ _ _ _
  · exact mmSpoil_aborting _ _ _

/-! ### A collective that does not run yet -/

theorem groupRead_aborting (s : State) (c : Cmd) (v : Nat) : Aborting s (groupRead s c v).st := by
  have hheader := checkRead_aborting s c v 64
  unfold groupRead
  dsimp only
  repeat' split
  · exact hheader
  · exact hheader
  · exact hheader.trans (checkRead_aborting _ _ _ _)

theorem groupNext_aborting (s : State) (c : Cmd) (group seq : Nat) : Aborting s (groupNext s c group seq) := by
  show Aborting s (colPut s c _ _).1
  unfold colPut
  split
  · exact .refl s
  · exact writeSpace_aborting _ _ _ _

theorem colSkip_aborting (s : State) (c : Cmd) : Aborting s (colSkip s c) := by
  have hgroup := groupRead_aborting s c (bodyOfCol c).group
  unfold colSkip
  dsimp only
  repeat' split
  · exact hgroup.trans (groupNext_aborting _ _ _ _)
  · exact .refl s
  · exact .refl s

end Sys2Proof.Machine
end

section
/-! SUPPORT. All commands of a space are aborted: none is left to run (R371, R392). -/

namespace Sys2Proof.Machine

theorem endCmds_aged {s t : State} (f : Cmd → Bool) (st : Status) (h : t.sp = endCmds s.sp f st) : CmdsAged s t := by
  refine ⟨_, by rw [h]; rfl, fun c => ?_⟩
  split
  · exact ⟨rfl, rfl, rfl, rfl, fun hlive => absurd hlive Bool.false_ne_true⟩
  · exact .refl c

/-- Of the commands that a test picks, those that are live once it has ended the ones under way are still to start. -/
theorem endCmds_accepted {s t : State} {f : Cmd → Bool} {st : Status} (h : t.sp = endCmds s.sp (fun c => f c && c.phase != .accepted) st)
    {d : Cmd} (hd : d ∈ t.sp.cmds) (hpick : f d = true) (hlive : cmdLive d = true) :
    d.phase = .accepted := by
  rw [h] at hd
  obtain ⟨c, -, rfl⟩ := List.mem_map.1 hd
  by_cases hend : (f c && c.phase != .accepted && cmdLive c) = true
  · rw [if_pos hend] at hlive
    cases hlive
  · rw [if_neg hend] at hpick hlive ⊢
    simpa [hpick, hlive] using hend

/-- With no collective, no cut and no ended transaction, what the fabric engines do about an abort is at most a twin's mending. -/
theorem sweep_mended {s : State} (hslots : s.col.slots = []) (hcut : s.dly.cut = none) (hended : s.fabric.ended = []) : Mended s (sweep s) := by
  rw [sweep, colSweep_empty s hslots, cutSweep_none s hcut]
  exact settle_mended hended

/-- An abort of the commands of a space: the spaces wane, and of the space no command is left to run. -/
theorem abortCmds_ends (s : State) (slot : Nat) (hslots : s.col.slots = []) (hcut : s.dly.cut = none) (hended : s.fabric.ended = []) :
    Waning s (abortCmds s fun c => c.space == slot) ∧
      ∀ cid d, cmdGet (abortCmds s fun c => c.space == slot) cid = some d → d.space = slot → cmdLive d = false := by
  unfold abortCmds
  extract_lets s0 s1 idle t col s2
  have hbefore : Aborting s t :=
    (Aborting.foldl abortRun_aborting _ s).trans ((dropWork_aborting s0 _).trans (.foldl colSkip_aborting idle s1))
  have hdef : s2 = sweep { t with
    sp := endCmds t.sp (fun c => c.space == slot && c.phase != .accepted) .aborted, col := { t.col with failed := t.col.failed + idle.length } } := rfl
  clear_value s2
  generalize hu : ({ t with
    sp := endCmds t.sp (fun c => c.space == slot && c.phase != .accepted) .aborted
    col := { t.col with failed := t.col.failed + idle.length } } : State) = u at hdef
  have husp : u.sp = endCmds t.sp (fun c => c.space == slot && c.phase != .accepted) .aborted := by rw [← hu]
  have hmended : Mended u s2 := by
    rw [hdef]
    refine sweep_mended ?_ ?_ ?_ <;> rw [← hu]
    · exact hbefore.slots.trans hslots
    · exact hbefore.cut.trans hcut
    · exact hbefore.ended.trans hended
  have hwanes2 : Waning s s2 :=
    (hbefore.wanes.trans (.of_cmds (endCmds_aged _ _ husp) (by rw [husp]; rfl) (by rw [husp]; rfl))).trans (.of_sp hmended.sp)
  have hrest : Waning s2 ((s2.sp.cmds.filter fun c => c.space == slot && c.phase == .accepted).foldl abortIdle s2) :=
    .foldl abortIdle_wanes _ s2
  refine ⟨hwanes2.trans hrest, fun cid d hd hspace => ?_⟩
  by_contra hlive
  rw [Bool.not_eq_false] at hlive
  obtain ⟨c, hc, haged⟩ := hrest.cmds cid d hd
  have hcmem := List.mem_of_find?_eq_some hc
  have hcid : c.id = cid := by simpa using List.find?_some hc
  have hcspace : c.space = slot := haged.space.symm.trans hspace
  have hphase : c.phase = .accepted := endCmds_accepted (s := t) (f := fun c => c.space == slot) husp (hmended.sp ▸ hcmem)
    (by simpa using hcspace) (haged.live hlive)
  refine abortIdles_end (c := c) hlive _ s2 (List.mem_filter.2 ⟨hcmem, by simp [hcspace, hphase]⟩) (hcid ▸ hd) ?_
  rw [haged.phase hlive, hphase]

end Sys2Proof.Machine
end

section
/-! SUPPORT. Which bytes of main memory a write changes (R295, R299), and the zero bytes of a new control area (R370). -/

namespace Sys2Proof.Machine

/-! ### A write in one unit -/

theorem readUnit_sealed_open (quiet : Bool) (s : State) (n a : Nat) (h : (rangeCfg s n).mode = 2) : (readUnit quiet s n a).open_ = [] := by
  unfold readUnit
  dsimp only
  simp only [h, if_true]
  repeat' split
  all_goals rfl

theorem mergeBytes_cells (s : State) (n a : Nat) (bs : List Byte) : (mergeBytes s n a bs).mem.cells = putBytes s.mem.cells a bs := by
  unfold mergeBytes
  dsimp only
  rw [markMirror_mem]
  rfl

theorem unitBytesOf_length (s : State) (a size : Nat) (blocks : List Nat) : (unitBytesOf s a size blocks).length = size := by
  simp [unitBytesOf]

/-- The plain bytes after a write in one unit: as they were, where it fails; else with the bytes put in place, where the rest of a line that
has no plaintext was filled first if the line is not written whole. -/
inductive UnitWritten (s : State) (n a : Nat) (bs : List Byte) (whole : Bool) (cells : List Host.Cell) (st : Status) : Prop
  | fails : cells = s.mem.cells → st ≠ .ok → UnitWritten s n a bs whole cells st
  | puts : cells = putBytes s.mem.cells a bs → UnitWritten s n a bs whole cells st
  | fills (l : List Byte) : l.length = 64 → (rangeCfg s n).mode ≠ 2 → whole = false →
      cells = putBytes (putBytes s.mem.cells (a / 64 * 64) l) a bs → UnitWritten s n a bs whole cells st

theorem writeInUnit_written (via : Bool) (s : State) (w : Who) (n a : Nat) (bs : List Byte) :
    UnitWritten s n a bs (decide (bs.length = unitBytes (rangeCfg s n)) && !via) (writeInUnit via s w n a bs).1.mem.cells
      (writeInUnit via s w n a bs).2 := by
  unfold writeInUnit
  extract_lets c u base full held p r filled
  have hp : p.1.mem.cells = s.mem.cells := by
    unfold p
    split
    · exact (fetchPath_kept false s n base).cells
    · rfl
  have hcfg : rangeCfg p.1 n = c := by
    unfold p
    split
    · unfold rangeCfg
      rw [(fetchPath_work false s n base).rig]
      rfl
    · rfl
  have hr : r.st.mem.cells = s.mem.cells := (readUnit_kept false p.1 n base).cells.trans hp
  split
  · exact .puts (mergeBytes_cells s n a bs)
  · split
    · exact .fails ((congrArg Mem.cells (failRange_mem _ _ _ _ _ _)).trans hp) (by nofun)
    · split
      · exact .fails ((congrArg Mem.cells (failRange_mem _ _ _ _ _ _)).trans hp) (by nofun)
      · split
        · refine .puts ?_
          rw [markMirror_mem, (storeUnit_kept _ _ _).cells]
          exact congrArg (fun m => putBytes m a bs) hp
        · next hfull =>
          split
          · by_cases hopen : r.open_.isEmpty = true
            · have hfilled : filled = r.st := if_pos hopen
              refine .puts ?_
              rw [mergeBytes_cells, (mergeHold_kept _ _ _ _ _).cells, hfilled, hr]
            · have hfilled : filled = freeUse (putPlain r.st base (unitBytesOf r.st base u r.open_)) u := if_neg hopen
              have hmode : c.mode ≠ 2 := fun h => hopen (by rw [readUnit_sealed_open false p.1 n base (hcfg ▸ h)]; rfl)
              have hu : u = 64 := if_neg hmode
              refine .fills (unitBytesOf r.st base u r.open_) (by rw [unitBytesOf_length, hu]) hmode (Bool.eq_false_iff.2 hfull) ?_
              rw [mergeBytes_cells, (mergeHold_kept _ _ _ _ _).cells, hfilled, ← hr, ← hu]
              rfl
          · next hbad => exact .fails ((congrArg Mem.cells (failRange_mem _ _ _ _ _ _)).trans hr) hbad

/-! ### Zero bytes -/

/-- A state after zero bytes were written: memory stays canonical, and a byte that was 0 is 0. -/
structure ZeroWork (s t : State) : Prop where
  wf : Memory.wf s.mem = true → Memory.wf t.mem = true
  zero : Memory.wf s.mem = true → ∀ x, memByte s x = 0 → memByte t x = 0

theorem ZeroWork.refl (s : State) : ZeroWork s s := ⟨id, fun _ _ => id⟩

theorem ZeroWork.trans {s t u : State} (h : ZeroWork s t) (k : ZeroWork t u) : ZeroWork s u :=
  ⟨k.wf ∘ h.wf, fun hwf x hx => k.zero (h.wf hwf) x (h.zero hwf x hx)⟩

theorem unitBytes_cases (c : RangeCfg) : unitBytes c = 64 ∨ unitBytes c = 256 := by
  unfold unitBytes
  split
  · exact .inr rfl
  · exact .inl rfl

/-- A line or more of zeros in one unit: nothing but zeros is put anywhere. -/
theorem writeInUnit_zeros (s : State) (w : Who) (n a k : Nat) (hk : unitBytes (rangeCfg s n) = 64 → k = 64) :
    ZeroWork s (writeInUnit false s w n a (List.replicate k 0)).1 ∧
      (Memory.wf s.mem = true → (writeInUnit false s w n a (List.replicate k 0)).2 = .ok →
        ∀ x, a ≤ x → x < a + k → memByte (writeInUnit false s w n a (List.replicate k 0)).1 x = 0) := by
  have hwf := writeInUnit_wf false s w n a (List.replicate k 0)
  have hzeros : ∀ b ∈ List.replicate k (0 : Byte), b = 0 := fun b hb => List.eq_of_mem_replicate hb
  have hcells : ∀ {m : Mem}, Memory.wf m = true → smWf 0 m.cells = true := fun h => ((Memory.wf_iff _).1 h).1
  rcases writeInUnit_written false s w n a (List.replicate k 0) with ⟨hsame, hbad⟩ | hput | ⟨l, hl, hmode, hwhole, -⟩
  · exact ⟨⟨hwf, fun _ x hx => by rw [memByte, hsame]; exact hx⟩, fun _ hok => absurd hok hbad⟩
  · refine ⟨⟨hwf, fun h x hx => ?_⟩, fun h _ x hlo hhi => ?_⟩
    · rw [memByte, hput]
      exact smGet_smPutRun_default 0 hzeros (hcells h) (.inr hx)
    · rw [memByte, hput]
      exact smGet_smPutRun_default 0 hzeros (hcells h) (.inl ⟨hlo, by rwa [List.length_replicate]⟩)
  · have hunit : unitBytes (rangeCfg s n) = 64 := if_neg hmode
    simp [hunit, hk hunit] at hwhole

theorem accessCheck_fails {s : State} {a n : Nat} {st : Status} (h : accessCheck s a n = some st) : st ≠ .ok := by
  unfold accessCheck at h
  dsimp only at h
  repeat' split at h
  all_goals cases h <;> nofun

/-- Lines of zeros from a line's address on. -/
theorem writePhysF_zeros (w : Who) : ∀ (fuel a n : Nat) (s : State), a % 64 = 0 → n % 64 = 0 →
    ZeroWork s (writePhysF false w fuel a (List.replicate n 0) s).st ∧
      (n < fuel → Memory.wf s.mem = true → (writePhysF false w fuel a (List.replicate n 0) s).status = .ok →
        ∀ x, a ≤ x → x < a + n → memByte (writePhysF false w fuel a (List.replicate n 0) s).st x = 0)
  | 0, _, _, s, _, _ => ⟨.refl s, fun h => absurd h (Nat.not_lt_zero _)⟩
  | _ + 1, _, 0, s, _, _ => ⟨.refl s, fun _ _ _ x hlo hhi => absurd hhi (by omega)⟩
  | fuel + 1, a, n + 1, s, ha, hn => by
    simp only [List.replicate_succ, writePhysF]
    split
    case h_1 range _ _ =>
      rw [← List.replicate_succ, List.length_replicate]
      have hunit := unitBytes_cases (rangeCfg s range)
      generalize hk : min (n + 1) (unitBytes (rangeCfg s range) - a % unitBytes (rangeCfg s range)) = k
      have hkn : k ≤ n + 1 ∧ 0 < k ∧ k % 64 = 0 ∧ (unitBytes (rangeCfg s range) = 64 → k = 64) := by
        rcases hunit with hu | hu <;> rw [hu] at hk ⊢ <;> omega
      obtain ⟨hle, hpos, hmod, hline⟩ := hkn
      rw [List.take_replicate, List.drop_replicate, Nat.min_eq_left hle]
      obtain ⟨hwork, hzero⟩ := writeInUnit_zeros s w range a k hline
      split
      · next hok =>
        obtain ⟨hrest, hzrest⟩ := writePhysF_zeros w fuel (a + k) (n + 1 - k) (writeInUnit false s w range a (List.replicate k 0)).1
          (by omega) (by omega)
        refine ⟨hwork.trans hrest, fun hf hwf hst x hlo hhi => ?_⟩
        by_cases hx : x < a + k
        · exact hrest.zero (hwork.wf hwf) x (hzero hwf hok x hlo hx)
        · exact hzrest (by omega) (hwork.wf hwf) hst x (by omega) (by omega)
      · next hbad => exact ⟨hwork, fun _ _ hok => absurd hok hbad⟩
    case h_2 st range hcheck => exact ⟨.refl s, fun _ _ hok => absurd hok (accessCheck_fails hcheck)⟩
    case h_3 => exact ⟨.refl s, fun _ _ hok => nomatch hok⟩

/-- Pages written with zeros, up to the first failure. -/
theorem zeroPages_zeros (w : Who) : ∀ (ps : List Nat) (s : State), ZeroWork s (zeroPages w ps s).st ∧
    (Memory.wf s.mem = true → (zeroPages w ps s).status = .ok →
      ∀ p ∈ ps, ∀ x, p * 2 ^ 21 ≤ x → x < (p + 1) * 2 ^ 21 → memByte (zeroPages w ps s).st x = 0)
  | [], s => ⟨.refl s, fun _ _ p hp => nomatch hp⟩
  | p :: ps, s => by
    obtain ⟨hwork, hzero⟩ := writePhysF_zeros w (2 ^ 21 + 1) (p * 2 ^ 21) (2 ^ 21) s (by omega) (by norm_num)
    have hpage : writePhys s w (p * 2 ^ 21) (List.replicate (2 ^ 21) 0) =
        writePhysF false w (2 ^ 21 + 1) (p * 2 ^ 21) (List.replicate (2 ^ 21) 0) s := by rw [writePhys, List.length_replicate]
    simp only [zeroPages]
    rw [hpage]
    generalize writePhysF false w (2 ^ 21 + 1) (p * 2 ^ 21) (List.replicate (2 ^ 21) 0) s = r at hwork hzero ⊢
    split
    · next hok =>
      obtain ⟨hrest, hzrest⟩ := zeroPages_zeros w ps r.st
      refine ⟨hwork.trans hrest, fun hwf hst q hq x hlo hhi => ?_⟩
      rcases List.mem_cons.1 hq with rfl | hq
      · exact hrest.zero (hwork.wf hwf) x (hzero (by omega) hwf hok x hlo (by omega))
      · exact hzrest (hwork.wf hwf) hst q hq x hlo hhi
    · next hbad => exact ⟨hwork, fun _ hok => absurd hok hbad⟩

theorem zeroPages_ports (w : Who) : ∀ (ps : List Nat) (s : State), PortsKept s (zeroPages w ps s).st
  | [], s => .refl s
  | p :: ps, s => by
    have hpage : PortsKept s (writePhys s w (p * 2 ^ 21) (List.replicate (2 ^ 21) 0)).st := writePhysF_ports false w _ _ _ s
    simp only [zeroPages]
    split
    · exact hpage.trans (zeroPages_ports w ps _)
    · exact hpage

theorem zeroPages_keys (w : Who) : ∀ (ps : List Nat) (s : State), (zeroPages w ps s).st.keys = s.keys
  | [], _ => rfl
  | p :: ps, s => by
    have hpage : (writePhys s w (p * 2 ^ 21) (List.replicate (2 ^ 21) 0)).st.keys = s.keys := AccessWork.keys (writePhysF_access false w _ _ _ s)
    simp only [zeroPages]
    split
    · exact (zeroPages_keys w ps _).trans hpage
    · exact hpage

end Sys2Proof.Machine
end

section
/-! SUPPORT. Spaces and contexts as they are created and as they end (R369 to R371, R391, R392). -/

namespace Sys2Proof.Machine

/-! ### Contexts -/

/-- A new context. -/
def newCtx (k slot : Nat) (r : Rushes) (resident : Bool) : Ctx := { id := k, space := slot, rushes := r, resident := resident }

theorem ctxCreate_makes {s : State} {slot : Nat} {r : Rushes} (hr : rushesOk r = true) (hq : (useOf s slot).1 < (spaceGet s slot).qCtx)
    (hlen : s.sp.ctxs.length < 4096) : ∃ k, k < 4096 ∧ (∀ c ∈ s.sp.ctxs, c.id ≠ k) ∧ ctxCreate slot r s =
      ⟨{ s with freeCtr := s.freeCtr + 1, sp := { s.sp with
        ctxs := s.sp.ctxs ++ [newCtx k slot r (decide ((s.sp.ctxs.filter (·.resident)).length < 64))] } }, .ok, natLe 2 k⟩ := by
  obtain ⟨hlt, hfree⟩ := freeIndex_free s (bound := 4096) (us := s.sp.ctxs.map (·.id))
    (used := fun i => s.sp.ctxs.any fun c => c.id == i) (fun i hi => by simpa using hi) (by simpa using hlen)
  rw [List.length_map] at hlt hfree
  refine ⟨_, hlt, fun c hc hid => ?_, ?_⟩
  · simp only [List.any_eq_false, beq_iff_eq] at hfree
    exact hfree c hc hid
  · exact (if_neg (by simp [hr])).trans (if_neg (Nat.not_le.2 hq))

section Named

variable {s : State} {slot id : Nat} {x : Ctx}

theorem ctxNamed_live (hget : ctxGet s id = some x) (hspace : x.space = slot) (hlive : x.dying = false) : ctxNamed s slot id = .ok x := by
  simp [ctxNamed, hget, hspace, hlive]

theorem ctxNamed_foreign (hget : ctxGet s id = some x) (hspace : x.space ≠ slot) : ctxNamed s slot id = .error .badDescriptor := by
  simp [ctxNamed, hget, hspace]

theorem ctxNamed_none (hget : ctxGet s id = none) : ctxNamed s slot id = .error .badDescriptor := by simp [ctxNamed, hget]

theorem ctxNamed_dying (hget : ctxGet s id = some x) (hspace : x.space = slot) (hdying : x.dying = true) :
    ctxNamed s slot id = .error .busy := by
  simp [ctxNamed, hget, hspace, hdying]

/-- The four requests that name a context which cannot be used answer why. -/
theorem ctxRequest_refused {st : Status} {r : SpaceReq} {f : Rushes} (h : ctxNamed s slot id = .error st)
    (hr : r = .ctxQuery id ∨ r = .ctxDestroy id ∨ (r = .ctxSet id f ∧ (st = .badDescriptor ∨ rushesOk f = true))) :
    spaceDo slot r s = ⟨s, st, []⟩ := by
  rcases hr with rfl | rfl | ⟨rfl, hok⟩
  · simp only [spaceDo, ctxQuery, h]
  · simp only [spaceDo, ctxDestroy, h]
  · simp only [spaceDo, ctxSet, h]
    split
    · next heq => cases heq; rfl
    · next hne heq =>
      cases heq
      exact if_pos (hok.resolve_left fun hbad => hne (by rw [hbad]))
    · next heq => cases heq

end Named

theorem ctxGone_ctxs (s : State) (x : Ctx) : (ctxGone s x).sp.ctxs = s.sp.ctxs.filter fun y => y.id != x.id := by
  rw [← (ctxOwned_work s x.id).ctxs]
  rfl

theorem ctxsGone_ctxs (l : List Ctx) : ∀ s : State, ∀ y ∈ (l.foldl ctxGone s).sp.ctxs, y ∈ s.sp.ctxs ∧ ∀ x ∈ l, y.id ≠ x.id := by
  induction l with
  | nil => exact fun s y hy => ⟨hy, fun x hx => nomatch hx⟩
  | cons b l ih =>
    intro s y hy
    obtain ⟨hmem, hne⟩ := ih (ctxGone s b) y hy
    rw [ctxGone_ctxs] at hmem
    obtain ⟨hmem, hb⟩ := List.mem_filter.1 hmem
    refine ⟨hmem, fun x hx => ?_⟩
    rcases List.mem_cons.1 hx with rfl | hx
    · simpa using hb
    · exact hne x hx

/-- With no command of it, a context that is destroyed is gone at once. -/
theorem ctxDestroy_empty {s : State} {slot id : Nat} {x : Ctx} (hq : quiet s) (hnamed : ctxNamed s slot id = .ok x)
    (hnone : ∀ c ∈ s.sp.cmds, c.ctx ≠ id) :
    ∃ u, ctxDestroy slot id s = ⟨u, .ok, []⟩ ∧ (∀ y ∈ u.sp.ctxs, y.id ≠ id) ∧ u.mem.cells = s.mem.cells := by
  generalize hs1 : ({ s with sp := ctxMod s.sp id fun x => { x with dying := true } } : State) = s1
  have hmem1 : s1.mem = s.mem := by rw [← hs1]
  have hcmds1 : s1.sp.cmds = s.sp.cmds := by rw [← hs1]; rfl
  have hquiet1 : quiet s1 := by
    rw [← hs1]
    exact hq
  have hdying : ∀ y ∈ s1.sp.ctxs, y.id = id → y.dying = true := by
    rw [← hs1]
    intro y hy hid
    obtain ⟨z, -, rfl⟩ := List.mem_map.1 hy
    by_cases hz : z.id = id
    · simp [hz]
    · simp [hz] at hid
  have habort : abortCmds s1 (fun c => c.ctx == id && c.space == slot) = s1 :=
    abortCmds_none s1 _ (fun c hc => by simp [hnone c (hcmds1 ▸ hc)]) hquiet1
  obtain ⟨cmds, hsp⟩ := evalWaits_sp (releaseStruck (endContexts s1))
  refine ⟨evalWaits (releaseStruck (endContexts s1)), ?_, ?_, ?_⟩
  · simp only [ctxDestroy, hnamed, hs1, habort]
  · rw [hsp]
    intro y hy hid
    obtain ⟨hmem, hne⟩ := ctxsGone_ctxs _ s1 y hy
    refine hne y (List.mem_filter.2 ⟨hmem, ?_⟩) rfl
    have hnocmd : (s1.sp.cmds.any fun c => c.ctx == y.id && c.space == y.space) = false := by
      rw [hcmds1, hid]
      exact List.any_eq_false.2 fun c hc => by simp [hnone c hc]
    simp [hdying y hmem hid, hnocmd]
  · rw [evalWaits_cells]
    exact congrArg Mem.cells ((endContexts_owned s1).mem.trans hmem1)

/-! ### SPACE_CREATE -/

/-- A creation that the check refuses: the status is recorded, FLOW_DENIED is logged too. -/
theorem spaceCreate_refused {s : State} {slot : Nat} {st : Status} (h : spaceCreateCheck s slot = some st) :
    ∃ u, spaceCreate slot s = ⟨u, st, []⟩ ∧ u.sp = { s.sp with lastStatus := st, lastSlot := slot } ∧ u.mem = s.mem ∧ u.keys = s.keys ∧
      (st = .flowDenied → ∃ e ∈ u.err.entries, e.kind = 4) := by
  simp only [spaceCreate, h]
  refine ⟨_, rfl, ?_⟩
  split
  · obtain ⟨e, hmem, hkind, -⟩ := logAdd_entry s.err
      { logBlank with status := .flowDenied, kind := 4, unit := 122, space := slot, range := (argSpace s slot).ctlRange }
    exact ⟨rfl, rfl, rfl, fun _ => ⟨e, hmem, hkind⟩⟩
  · next hst => exact ⟨rfl, rfl, rfl, fun hflow => absurd hflow hst⟩

/-- A creation that may go on: the slot reads state 3 with what the arguments say. -/
theorem spaceCreate_starts {s : State} {slot : Nat} (h : spaceCreateCheck s slot = none) (hslot : slot < s.sp.slots.length) :
    ∃ u keep, spaceCreate slot s = ⟨u, .ok, []⟩ ∧ spaceGet u slot = { argSpace s slot with
        reserved := keep, aborted := (spaceGet s slot).aborted, depFailed := (spaceGet s slot).depFailed, refused := (spaceGet s slot).refused } ∧
      (∀ k, k ≠ slot → spaceGet u k = spaceGet s k) ∧ u.mem = s.mem ∧ u.keys = s.keys := by
  simp only [spaceCreate, h]
  generalize (if s.rig.active.strict = true then
    ((freePages s (argSpace s slot).ctlRange).filter fun p => !(runHas [ctlPages s (argSpace s slot)] p)).take (strictPages s slot)
    else []) = keep
  refine ⟨_, keep, rfl, ?_, fun k hk => ?_, rfl, rfl⟩
  · exact (spaceGet_spaceMod s slot slot _).trans (if_pos ⟨rfl, hslot⟩)
  · exact (spaceGet_spaceMod s slot k _).trans (if_neg fun hc => hk hc.1)

/-- The 2 MiB page of an address among those of a run of pages. -/
theorem page_in_run {lo hi a : Nat} (hlo : lo * 2 ^ 21 ≤ a) (hhi : a < hi * 2 ^ 21) :
    ∃ i, i < hi - lo ∧ (lo + i) * 2 ^ 21 ≤ a ∧ a < (lo + i + 1) * 2 ^ 21 := by
  have hle : lo ≤ a / 2 ^ 21 := (Nat.le_div_iff_mul_le (by positivity)).2 hlo
  have hlt : a / 2 ^ 21 < hi := (Nat.div_lt_iff_lt_mul (by positivity)).2 hhi
  refine ⟨a / 2 ^ 21 - lo, Nat.sub_lt_sub_right hle hlt, ?_, ?_⟩ <;> rw [Nat.add_sub_cancel' hle]
  · exact Nat.div_mul_le_self a _
  · exact (Nat.div_lt_iff_lt_mul (by positivity)).1 (Nat.lt_succ_self _)

/-- The pages of a control area are written with zeros: where that succeeds every byte of it is 0. -/
theorem ctlArea_zero {s : State} {slot : Nat} {x : Space} {w : MemWrite} (hwf : Memory.wf s.mem = true)
    (hw : w = zeroPages { space := slot } ((List.range ((ctlPages s x).2 - (ctlPages s x).1)).map ((ctlPages s x).1 + ·)) s)
    (hok : w.status = .ok) (a : Nat) (hlo : (ctlPages s x).1 * 2 ^ 21 ≤ a) (hhi : a < (ctlPages s x).2 * 2 ^ 21) : memByte w.st a = 0 := by
  subst hw
  have hzero := (zeroPages_zeros { space := slot } ((List.range ((ctlPages s x).2 - (ctlPages s x).1)).map ((ctlPages s x).1 + ·)) s).2 hwf hok
  obtain ⟨i, hi, hfirst, hlast⟩ := page_in_run hlo hhi
  exact hzero _ (List.mem_map.2 ⟨i, List.mem_range.2 hi, rfl⟩) a hfirst hlast

/-- The end of a creation, while its range is not being filled. -/
theorem spaceCreateDone_ends {s : State} {slot : Nat} {x : Space} {w : MemWrite} (hx : x = spaceGet s slot) (hstate : x.state = 3)
    (hfill : filling s x.ctlRange = false)
    (hw : w = zeroPages { space := slot } ((List.range ((ctlPages s x).2 - (ctlPages s x).1)).map ((ctlPages s x).1 + ·)) s) :
    spaceCreateDone slot s =
      if w.status = .ok then { w.st with sp := spaceMod w.st.sp slot fun y => { y with state := 1, bound := y.party == 255 } }
      else spcStatus { w.st with
        sp := spaceMod w.st.sp slot fun y => { aborted := y.aborted, depFailed := y.depFailed, refused := y.refused } } slot w.status := by
  subst hx hw
  exact if_pos (by simp [hstate, hfill])

/-! ### SPACE_DESTROY -/

/-- SPACE_DESTROY of a live space: it reads state 2, its contexts are dying, and no command of it is left to run. -/
theorem spaceDestroy_live {s : State} {slot : Nat} (hstate : (spaceGet s slot).state = 1) (hslot : slot < s.sp.slots.length) (hq : quiet s) :
    ∃ u, spaceDestroy slot s = ⟨u, .ok, []⟩ ∧ (spaceGet u slot).state = 2 ∧
      (∀ cid c, cmdGet u cid = some c → c.space = slot → cmdLive c = false) ∧ (∀ x ∈ u.sp.ctxs, x.space = slot → x.dying = true) := by
  obtain ⟨hslots, hcut, hended, -⟩ := hq
  generalize hs1 : spcStatus { s with sp := spaceMod s.sp slot fun y => { y with state := 2 } } slot .ok = s1
  generalize hs2 : ({ s1 with sp := { s1.sp with
    ctxs := s1.sp.ctxs.map fun c => if c.space = slot then { c with dying := true } else c } } : State) = s2
  have hstate2 : (spaceGet s2 slot).state = 2 := by
    have hmod := spaceGet_spaceMod s slot slot fun y => { y with state := 2 }
    rw [if_pos ⟨rfl, hslot⟩] at hmod
    rw [← hs2, ← hs1]
    exact congrArg Space.state hmod
  have hdying2 : ∀ x ∈ s2.sp.ctxs, x.space = slot → x.dying = true := by
    rw [← hs2]
    intro x hx hspace
    obtain ⟨y, -, rfl⟩ := List.mem_map.1 hx
    by_cases hy : y.space = slot
    · simp [hy]
    · simp [hy] at hspace
  obtain ⟨hwanes, hdead⟩ := abortCmds_ends s2 slot (by rw [← hs2, ← hs1]; exact hslots) (by rw [← hs2, ← hs1]; exact hcut)
    (by rw [← hs2, ← hs1]; exact hended)
  have hfollow : Waning (abortCmds s2 fun c => c.space == slot)
      (evalWaits (releaseStruck (endContexts (abortCmds s2 fun c => c.space == slot)))) :=
    (endContexts_wanes _).trans ((releaseStruck_wanes _).trans (evalWaits_wanes _))
  refine ⟨_, ?_, ((hwanes.trans hfollow).states slot).trans hstate2, fun cid d hd hspace => ?_, fun x hx hspace => ?_⟩
  · unfold spaceDestroy
    dsimp only
    rw [if_neg (by omega), if_neg (by omega), hs1, hs2]
  · obtain ⟨c, hc, haged⟩ := hfollow.cmds cid d hd
    by_contra hlive
    have hcdead := hdead cid c hc (haged.space.symm.trans hspace)
    rw [haged.live (by simpa using hlive)] at hcdead
    cases hcdead
  · obtain ⟨y, hy, hsame, hdy⟩ := (hwanes.trans hfollow).ctxs x hx
    rw [hdy]
    exact hdying2 y hy (hsame.symm.trans hspace)

/-- The slot strike of a space's destruction changes, of the spaces, only which channels are bound. -/
theorem strikeForSpace_spaces (s : State) (party : Nat) :
    SlotStates s (strikeForSpace s party) ∧ ∃ slots, (strikeForSpace s party).sp = { s.sp with slots := slots } := by
  have hended : ∀ t : State, t.sp = s.sp → SlotStates s (endChannel t party) ∧ ∃ slots, (endChannel t party).sp = { s.sp with slots := slots } :=
    fun t ht => ⟨(SlotStates.of_eq (by rw [ht])).trans (endChannel_states t party), _, by rw [← ht]; rfl⟩
  unfold strikeForSpace
  split
  · exact ⟨.of_eq rfl, _, rfl⟩
  · obtain ⟨hstates, slots, hsp⟩ := hended (slotStrike s fun _ k => k.ownerSet == BitVec.ofNat 8 (2 ^ party)) rfl
    dsimp only
    split
    · exact ⟨hstates.trans (.of_eq rfl), slots, hsp⟩
    · exact ⟨hstates, slots, hsp⟩

/-- The end of a destruction, with no command of the space left. -/
theorem spaceDestroyDone_ends {s : State} {slot : Nat} (hslot : slot < s.sp.slots.length) (hstate : (spaceGet s slot).state = 2)
    (hnone : ∀ c ∈ s.sp.cmds, c.space ≠ slot) :
    ∃ t, spaceDestroyDone slot s = t ∧ (spaceGet t slot).state = 0 ∧ (∀ x ∈ t.sp.ctxs, x.space ≠ slot) ∧
      (∀ q ∈ t.sp.queues, q.space ≠ slot) ∧ (∀ o ∈ t.sp.objs, o.space ≠ slot) ∧ (∀ f ∈ t.sp.fences, f.space ≠ slot) ∧
      (∀ c ∈ t.sp.cmds, c.space ≠ slot) := by
  refine ⟨_, rfl, ?_⟩
  unfold spaceDestroyDone
  extract_lets x s1 array sp s2
  have hnocmd : (s.sp.cmds.any fun c => c.space == slot) = false := List.any_eq_false.2 fun c hc => by simp [hnone c hc]
  rw [if_pos (by simp [x, hstate, hnocmd])]
  have hwork : FenceWork s s1 := .foldl fenceDestroy_work _ s
  have hlen : slot < s1.sp.slots.length := by
    have houtline : outline s1 = outline s := by simp [s1]
    have hspaces := congrArg Outline.spaces houtline
    exact hspaces.trans_ge hslot
  obtain ⟨hstates, slots, hsp⟩ := strikeForSpace_spaces s2 x.party
  have hfiltered : ∀ {α : Type} {l : List α} {f : α → Nat}, ∀ y ∈ l.filter fun y => f y != slot, f y ≠ slot :=
    fun y hy => by simpa using (List.mem_filter.1 hy).2
  refine ⟨?_, ?_, ?_, ?_, ?_, ?_⟩
  · rw [hstates slot]
    have hmod := spaceGet_spaceMod s1 slot slot fun y => { aborted := y.aborted, depFailed := y.depFailed, refused := y.refused }
    rw [if_pos ⟨rfl, hlen⟩] at hmod
    exact congrArg Space.state hmod
  · rw [hsp]
    exact hfiltered
  · rw [hsp]
    exact hfiltered
  · rw [hsp]
    exact hfiltered
  · rw [hsp]
    exact hfiltered
  · rw [hsp]
    intro c hc
    exact hnone c (hwork.owned.cmds ▸ hc)

end Sys2Proof.Machine
end

section
/-! CLAIMS. Spaces and contexts (file 14). -/

namespace Sys2Proof.Machine

@[simp] theorem asked_ctxNamed (s : State) (ch : Chan) (slot id) : ctxNamed (asked s ch) slot id = ctxNamed s slot id := by
  simp only [ctxNamed, asked_ctxGet]

/-- The requests that name a context which cannot be used, as they arrive. -/
theorem ctxRequests_refused {s : State} {ch : Chan} {id : Nat} {st : Status} {r : Rushes} {i : Instr} (hmay : mayAsk s ch)
    (h : ctxNamed s ch.slot id = .error st) (hr : st = .badDescriptor ∨ rushesOk r = true)
    (hi : i = .ctxQuery ch id ∨ i = .ctxDestroy ch id ∨ i = .ctxSet ch id r) : exec i s = .next (spaceReply (asked s ch) ch st []) := by
  have hnamed : ctxNamed (asked s ch) ch.slot id = .error st := by rwa [asked_ctxNamed]
  rcases hi with rfl | rfl | rfl
  · exact next_spaceRequest (.ctxQuery id) hmay rfl (ctxRequest_refused (f := r) hnamed (.inl rfl))
  · exact next_spaceRequest (.ctxDestroy id) hmay rfl (ctxRequest_refused (f := r) hnamed (.inr (.inl rfl)))
  · exact next_spaceRequest (.ctxSet id r) hmay rfl (ctxRequest_refused hnamed (.inr (.inr ⟨rfl, hr⟩)))

/-- Settles O57: an abort of a space's commands leaves none to run because each that waits for nothing more is completed in turn. -/
theorem spacesAndContextsLiveAndEnd : Obligations.SpacesAndContextsLiveAndEnd := by
  unfold Obligations.SpacesAndContextsLiveAndEnd
  refine ⟨fun s p tag slot st hmay hcheck => ?refused, fun s p tag slot hmay hcheck hslot => ?creates,
    fun s slot x w hslot hx hstate hfill hwf hw => ?created, fun s p tag slot hmay hstate => ?noSpace,
    fun s p tag slot hmay hzero hone => ?busySpace, fun s p tag slot hmay hstate hslot hq => ?destroys,
    fun s slot hsome => ?lingers, fun s slot hslot hstate hnone => ?destroyed, fun s ch r hmay hr hq hlen => ?ctxCreates,
    fun s ch r hmay hr => ?badRushes, fun s ch r hmay hr hq => ?quota, fun s ch id x r hmay hget hspace hlive hr => ?sets,
    fun s ch id x hmay hget hspace hlive => ?queries, fun s ch id x r i hmay hget hspace hr hi => ?foreign,
    fun s ch id r i hmay hget hi => ?unknown, fun s ch id x r i hmay hget hspace hdying hr hi => ?dying,
    fun s ch id x hmay hq hget hspace hlive hnone => ?ctxDestroys⟩
  case refused =>
    obtain ⟨u, hu, hleft⟩ := spaceCreate_refused hcheck
    exact ⟨u, next_mgmtWrite tag _ hmay hu, hleft⟩
  case creates =>
    obtain ⟨u, keep, hu, hget, hothers, hmem, hkeys⟩ := spaceCreate_starts hcheck hslot
    refine ⟨u, next_mgmtWrite tag _ hmay hu, ?_, ?_, ?_, ?_, ?_, hothers, hmem, hkeys⟩ <;> rw [hget] <;> rfl
  case created =>
    have hends := spaceCreateDone_ends hx hstate hfill hw
    have hzero := ctlArea_zero (slot := slot) hwf hw
    have hsp : w.st.sp = s.sp := by rw [hw]; exact (zeroPages_ports _ _ s).sp
    have hkeys : w.st.keys = s.keys := by rw [hw]; exact zeroPages_keys _ _ s
    have hget : ∀ f, spaceGet { w.st with sp := spaceMod w.st.sp slot f } slot = f x := fun f => by
      rw [spaceGet_spaceMod, if_pos ⟨rfl, by rwa [hsp]⟩, hx]
      exact congrArg f (by simp only [spaceGet, hsp])
    have hexec : exec (.spaceCreateDone slot) s = .next (spaceCreateDone slot s) := rfl
    rw [hexec, hends]
    split
    · next hok => exact ⟨_, rfl, hget _, rfl, fun a hlo hhi => hzero hok a hlo hhi, hkeys⟩
    · next hbad => exact ⟨_, rfl, hget _, rfl, rfl, hkeys⟩
  case noSpace =>
    have hdone : spaceDestroy slot s = ⟨spcStatus s slot .badDescriptor, .badDescriptor, []⟩ := if_pos hstate
    exact next_mgmtWrite tag _ hmay hdone
  case busySpace =>
    have hdone : spaceDestroy slot s = ⟨spcStatus s slot .busy, .busy, []⟩ := (if_neg hzero).trans (if_pos hone)
    exact next_mgmtWrite tag _ hmay hdone
  case destroys =>
    obtain ⟨u, hu, hleft⟩ := spaceDestroy_live hstate hslot hq
    exact ⟨u, next_mgmtWrite tag _ hmay hu, hleft⟩
  case lingers =>
    obtain ⟨c, hc, hspace⟩ := hsome
    have hany : (s.sp.cmds.any fun c => c.space == slot) = true := List.any_eq_true.2 ⟨c, hc, by simpa using hspace⟩
    exact congrArg Host.Outcome.next (if_neg (by simp [hany]))
  case destroyed =>
    obtain ⟨t, ht, hleft⟩ := spaceDestroyDone_ends hslot hstate hnone
    exact ⟨t, congrArg Host.Outcome.next ht, hleft⟩
  case ctxCreates =>
    obtain ⟨port, hspace⟩ := asked_spaceGet s ch ch.slot
    obtain ⟨k, hk, hnew, hmade⟩ := ctxCreate_makes (s := asked s ch) (slot := ch.slot) hr (by rw [asked_useOf, hspace]; exact hq)
      (by simpa using hlen)
    have hctxs : (asked s ch).sp.ctxs = s.sp.ctxs := by simp
    rw [hctxs] at hnew hmade
    exact ⟨k, hk, hnew, next_spaceRequest (.ctxCreate r) hmay rfl hmade⟩
  case badRushes => exact next_spaceRequest (.ctxCreate r) hmay rfl (a := ⟨_, _, _⟩) (if_pos (by simp [hr]))
  case quota =>
    obtain ⟨port, hspace⟩ := asked_spaceGet s ch ch.slot
    refine next_spaceRequest (.ctxCreate r) hmay rfl (a := ⟨_, _, _⟩) ((if_neg (by simp [hr])).trans (if_pos ?_))
    rw [asked_useOf, hspace]
    exact hq
  case sets =>
    have hnamed : ctxNamed (asked s ch) ch.slot id = .ok x := by rw [asked_ctxNamed]; exact ctxNamed_live hget hspace hlive
    exact next_spaceRequest (.ctxSet id r) hmay rfl (a := ⟨_, _, _⟩) (by simp only [spaceDo, ctxSet, hnamed, hr, if_true])
  case queries =>
    have hnamed : ctxNamed (asked s ch) ch.slot id = .ok x := by rw [asked_ctxNamed]; exact ctxNamed_live hget hspace hlive
    have hdone : spaceDo ch.slot (.ctxQuery id) (asked s ch) = ⟨asked s ch, .ok, ctxRecord (asked s ch) x⟩ := by
      simp only [spaceDo, ctxQuery, hnamed]
    exact next_spaceRequest (.ctxQuery id) hmay rfl hdone
  case foreign => exact ctxRequests_refused hmay (ctxNamed_foreign hget hspace) (.inl rfl) hi
  case unknown => exact ctxRequests_refused hmay (ctxNamed_none hget) (.inl rfl) hi
  case dying => exact ctxRequests_refused hmay (ctxNamed_dying hget hspace hdying) (.inr hr) hi
  case ctxDestroys =>
    have hnamed : ctxNamed (asked s ch) ch.slot id = .ok x := by rw [asked_ctxNamed]; exact ctxNamed_live hget hspace hlive
    obtain ⟨u, hu, hgone, hcells⟩ := ctxDestroy_empty (asked_quiet ch hq) hnamed (by simpa using hnone)
    exact ⟨u, next_spaceRequest (.ctxDestroy id) hmay rfl hu, hgone, by simpa using hcells⟩

end Sys2Proof.Machine
end
section
/-! CLAIMS. O28: a word of staging whose wrong bits the code does not see keeps them when it is read (R294), so that a STAGE_OUT that meets
one, although no word that it met was uncorrectable, leaves staging otherwise than it found it. -/
namespace Sys2Proof.Machine

/-- A STAGE_OUT of one row of staging. -/
def stageOutOne : Cmd := Tests.cmdOf 9 [(0, 9), (0, 17), (2 ^ 21, 48), (1, 13), (1, 12), (1, 20), (1, 12)]

/-- The first byte of staging after a step. -/
def firstStaged : Host.Outcome State Fault Refusal → Byte
  | .next t => smGet 0 t.array.staging 0
  | _ => 0

/-- The bits of the word that its code does not see stay turned in staging. -/
theorem stageOutOne_turns : firstStaged (exec (.stageOut 1 [unseenWord] []) (Tests.runs1 stageOutOne)) = 3 := by decide +kernel

/-- Refutes O28: a STAGE_OUT that meets `unseenWord` turns the word's bits in staging, which O28 says stays. -/
theorem not_stagingMoves : ¬ Obligations.StagingMoves := by
  unfold Obligations.StagingMoves
  rintro ⟨-, -, -, -, stageOut⟩
  obtain ⟨t, ran, -, -, -, kept, -⟩ := stageOut (Tests.runs1 stageOutOne) 1 stageOutOne _ [unseenWord] [] _ (by decide) (by decide +kernel) rfl
    (by decide +kernel) (by decide +kernel) (by decide +kernel) rfl (by decide +kernel)
  have turned : smGet 0 t.array.staging 0 = 3 := by
    have h := stageOutOne_turns
    rwa [ran] at h
  rw [kept] at turned
  exact absurd turned (by decide +kernel)
end Sys2Proof.Machine
end

section
/-! SUPPORT. The Gaffer's events that choose nothing: the pending priority, a sleeping island, an engine handed over empty, and a strict
window (R426, R431, R432, R435). -/

namespace Sys2Proof.Machine

/-! ### PENDING_PRIORITY (R426) -/

theorem exec_pendingPriority_takes {s : State} {cid : Nat} {c : Cmd} (hget : cmdGet s cid = some c) (hhead : queueHead s c.queue = some c)
    (hid : c.id = cid) (hready : cmdIsReady s c = true) (hpending : (spaceGet s c.space).pending = none) (hconsidered : c.considered = true)
    (halive : islandDead s c = false) (hbest : bestPoint s c = none) :
    exec (.pendingPriority cid) s = .next { s with sp := spaceMod s.sp c.space fun y => { y with pending := some cid } } := by
  show execPendingPriority cid s = _
  simp [execPendingPriority, hget, hhead, hid, hready, hpending, hconsidered, halive, hbest]

theorem exec_pendingPriority_leaves {s : State} {cid : Nat} {c : Cmd} (hget : cmdGet s cid = some c)
    (h : cmdIsReady s c = false ∨ c.considered = false ∨ (spaceGet s c.space).pending ≠ none) :
    exec (.pendingPriority cid) s = .next s := by
  have hnone : (spaceGet s c.space).pending ≠ none → (spaceGet s c.space).pending.isNone = false := fun h => by
    simpa [← Option.not_isSome] using Option.isSome_iff_ne_none.2 h
  show execPendingPriority cid s = _
  rcases h with h | h | h
  · simp [execPendingPriority, hget, h]
  · simp [execPendingPriority, hget, h]
  · simp [execPendingPriority, hget, hnone h]

/-! ### An engine with nothing to keep (R431, R435) -/

section Engine

variable {s : State} {e : Nat}

theorem saveEngine_unwritten (h : (s.array.engines.getD e {}).written = false) : saveEngine s e = some s := by
  rw [saveEngine, engineKept, if_neg (by rw [h]; decide)]

theorem engineZero_tiles (a : Array) (e i : Nat) (h : i < 2 ^ 20) : smGet 0 (engineZero a e).tiles (e * 2 ^ 20 + i) = 0 := by
  rw [engineZero, engineMod_tiles, smGet_smDrop, if_pos (by omega)]

theorem engineZero_staging (a : Array) (e i : Nat) (h : i < 2 ^ 23) : smGet 0 (engineZero a e).staging (e * 2 ^ 23 + i) = 0 := by
  rw [engineZero, engineMod_staging, smGet_smDrop, if_pos (by omega)]

/-- An island awake does not wake. -/
theorem islandWoken_awake (h : (s.gaf.islands.getD e {}).asleep = false) : islandWoken s e = s := by
  have hself : modAt s.gaf.islands e (fun x => if x.asleep then { x with asleep := false, epoch := (x.epoch + 1) % 2 ^ 16 } else x) =
      s.gaf.islands := by
    refine List.ext_getElem? fun i => ?_
    rw [modAt_getElem?]
    split
    · next hi =>
      subst hi
      rw [List.getD_eq_getElem?_getD] at h
      cases hx : s.gaf.islands[e]? with
      | none => rfl
      | some x =>
        rw [hx] at h
        simpa using fun ha => absurd h (by simp [ha])
    · rfl
  rw [islandWoken, hself]

/-- The array as a hand-over to a space leaves it where the engine has nothing to keep and the space no image of it. -/
def handedArray (a : Array) (e slot : Nat) : Array := engineMod (engineZero a e) e fun y => { y with holder := some slot }

theorem handedArray_holder {a : Array} (slot : Nat) (h : e < a.engines.length) :
    ((handedArray a e slot).engines.getD e {}).holder = some slot := by
  rw [handedArray, engineMod_getD _ _ _ _ (by simpa [engineZero] using h), if_pos rfl]

/-- A state after such a hand-over. -/
def handedOver (s : State) (e slot : Nat) : State :=
  { s with array := handedArray s.array e slot, gaf := { s.gaf with handovers := satAdd 32 s.gaf.handovers 1 } }

theorem engineGive_hands {slot : Nat} (hholder : (s.array.engines.getD e {}).holder ≠ some slot)
    (hwritten : (s.array.engines.getD e {}).written = false) (himages : s.array.images = [])
    (hawake : (s.gaf.islands.getD e {}).asleep = false) : engineGive slot e s = handedOver s e slot := by
  have hsaved : (if (s.gaf.islands.getD e {}).asleep then some s else saveEngine s e) = some s := by
    rw [hawake]
    exact saveEngine_unwritten hwritten
  have hnone : (handedArray s.array e slot).images = [] := himages
  have hover : handover s e slot = some (handedOver s e slot, true) := by
    rw [handover, hsaved, Option.map_some, restoreEngine]
    show some (match (handedArray s.array e slot).images.find? _ with | none => _ | some i => _) = _
    rw [hnone]
    rfl
  rw [engineGive, if_neg (by simpa using hholder), hover]
  exact islandWoken_awake hawake

end Engine

/-! ### ISLAND_SLEEP (R435) -/

section Sleep

variable {s : State} {n : Nat}

/-- A state with an island put to sleep. -/
def napped (s : State) (n : Nat) : State :=
  { s with gaf := { s.gaf with
    islands := modAt s.gaf.islands n fun x => { x with asleep := true }, sleeps := satAdd 32 s.gaf.sleeps 1 } }

theorem napped_asleep (h : n < s.gaf.islands.length) : ((napped s n).gaf.islands.getD n {}).asleep = true := by
  rw [napped, modAt_getD _ _ h]

theorem exec_islandSleep_wakes (h : s.power.ready = false ∨ (s.gaf.islands.getD n {}).asleep = true ∨ (64 ≤ n ∧ n < 72) ∨ 120 ≤ n ∨
    (n < 64 ∧ (s.gaf.idleUs = 0 ∨ engineIdle s n = false)) ∨ (72 ≤ n ∧ (linkOf s (n - 72)).state ≠ 3)) :
    exec (.islandSleep n) s = .next s := by
  show Host.Outcome.next (islandSleep n s) = _
  congr 1
  unfold islandSleep
  dsimp only
  split
  · rfl
  · next hup =>
    split
    · next hn =>
      rw [if_neg]
      rcases h with h | h | h | h | ⟨-, h | h⟩ | h
      · exact absurd (by rw [h]; rfl) hup
      · exact absurd (by rw [h, Bool.or_true]) hup
      · omega
      · omega
      · simp [h]
      · simp [h]
      · omega
    · split
      · rfl
      · next hlink =>
        simp only [Bool.or_eq_true, decide_eq_true_eq, not_or] at hlink
        rw [if_neg]
        rcases h with h | h | h | h | h | ⟨-, h⟩
        · exact absurd (by rw [h]; rfl) hup
        · exact absurd (by rw [h, Bool.or_true]) hup
        · omega
        · omega
        · omega
        · exact h

theorem exec_islandSleep_engine (hready : s.power.ready = true) (hn : n < 64) (hawake : (s.gaf.islands.getD n {}).asleep = false)
    (hus : s.gaf.idleUs ≠ 0) (hidle : engineIdle s n = true) (hstopped : (s.gaf.islands.getD n {}).stopped = false)
    (hwritten : (s.array.engines.getD n {}).written = false) :
    exec (.islandSleep n) s = .next (napped { s with array := engineZero s.array n } n) := by
  show Host.Outcome.next (islandSleep n s) = _
  congr 1
  unfold islandSleep
  dsimp only
  rw [if_neg (by rw [hready, hawake]; decide), if_pos hn, if_pos (by rw [hidle, hstopped]; simpa using hus), saveEngine_unwritten hwritten]
  rfl

theorem exec_islandSleep_link (hready : s.power.ready = true) (hlo : 72 ≤ n) (hhi : n < 120)
    (hawake : (s.gaf.islands.getD n {}).asleep = false) (hstate : (linkOf s (n - 72)).state = 3) :
    exec (.islandSleep n) s = .next (napped s n) := by
  show Host.Outcome.next (islandSleep n s) = _
  congr 1
  unfold islandSleep
  dsimp only
  rw [if_neg (by rw [hready, hawake]; decide), if_neg (by omega), if_neg (by simp; omega), if_pos hstate]
  rfl

end Sleep

/-! ### STRICT_WINDOW_START (R432) -/

section Window

variable {s : State} {n : Nat}

theorem exec_strictWindow_other (h : s.rig.active.strict = false ∨ nextWindow s ≠ some n) : exec (.strictWindowStart n) s = .next s := by
  show execStrictWindowStart n s = _
  rw [execStrictWindowStart, if_neg]
  rcases h with h | h
  · simp [h]
  · simp [h]

theorem exec_strictWindow_next (hstrict : s.rig.active.strict = true) (hnext : nextWindow s = some n) :
    exec (.strictWindowStart n) s = .next (settle (rowsGo (strictWindow n s))) := by
  show execStrictWindowStart n s = _
  rw [execStrictWindowStart, if_pos (by simp [hstrict, hnext])]

theorem requestsGo_none (h : s.ciph.waiting = []) : requestsGo s = s := by
  unfold requestsGo
  simp only [h, List.filter_nil, List.foldl_nil]
  rw [← h]

/-- A state in which a window has opened. -/
def windowAt (s : State) (n : Nat) : State := { s with gaf := { s.gaf with window := n } }

/-- A window before which no MATMUL of another space runs. -/
theorem strictWindow_opens (hnone : ∀ c ∈ s.sp.cmds, c.space = n ∨ c.opcode ≠ 0x10 ∨ c.phase ≠ .admitted) :
    strictWindow n s = requestsGo (if (spaceGet s n).state = 1 then
      (slotEngines s n).foldl (fun x e => windowEngine n e x) (windowAt s n) else windowAt s n) := by
  have hfilter : (s.sp.cmds.filter fun c => c.space != n && c.opcode == 0x10 && c.phase == .admitted) = [] := by
    refine List.filter_eq_nil_iff.2 fun c hc => ?_
    rcases hnone c hc with h | h | h
    · simp [h]
    · simp [h]
    · simp [h]
  unfold strictWindow
  rw [hfilter]
  rfl

theorem windowEngine_held {e : Nat} (h : (s.array.engines.getD e {}).holder = some n) : windowEngine n e s = s := by
  unfold windowEngine
  split
  · rfl
  · rw [engineGive, if_pos (by simpa using h)]

theorem windowEngines_held : ∀ (l : List Nat), (∀ e ∈ l, (s.array.engines.getD e {}).holder = some n) →
    l.foldl (fun x e => windowEngine n e x) s = s
  | [], _ => rfl
  | e :: l, h => by
    rw [List.foldl_cons, windowEngine_held (h e (by simp))]
    exact windowEngines_held l fun e he => h e (by simp [he])

/-- A window whose space, if it has one, holds all its engines. -/
theorem strictWindow_held (hnone : ∀ c ∈ s.sp.cmds, c.space = n ∨ c.opcode ≠ 0x10 ∨ c.phase ≠ .admitted)
    (hheld : (spaceGet s n).state ≠ 1 ∨ ∀ e ∈ slotEngines s n, (s.array.engines.getD e {}).holder = some n) :
    strictWindow n s = requestsGo (windowAt s n) := by
  rw [strictWindow_opens hnone]
  split
  · next hlive => rw [windowEngines_held (s := windowAt s n) _ (hheld.resolve_left (not_not_intro hlive))]
  · rfl

/-- The one request that waited for a window, and waits no more, is answered. -/
theorem requestsGo_one {link : Nat} {p : Packet} {ok : Bool} {be : BufErr} (h : s.ciph.waiting = [.requestReceive link p ok be])
    (hgoes : requestWaits s link p = false) :
    requestsGo s = requestAnswer { s with ciph := { s.ciph with waiting := [] } } link p := by
  unfold requestsGo
  simp [h, hgoes]

/-- An engine that a space does not hold yet, at its window: nothing runs on it, and it has nothing to keep. -/
theorem windowEngine_hands {e : Nat} (hcmds : s.sp.cmds = []) (hrush : s.array.rush = []) (himages : s.array.images = [])
    (hholder : (s.array.engines.getD e {}).holder ≠ some n) (hwritten : (s.array.engines.getD e {}).written = false)
    (hawake : (s.gaf.islands.getD e {}).asleep = false) : windowEngine n e s = handedOver s e n := by
  rw [windowEngine, if_neg (by simp [hcmds, refEngine, hrush])]
  exact engineGive_hands hholder hwritten himages hawake

theorem strictWindow_hands {e : Nat} (hlive : (spaceGet s n).state = 1) (hwaiting : s.ciph.waiting = []) (hcmds : s.sp.cmds = [])
    (hrush : s.array.rush = []) (himages : s.array.images = []) (hengines : slotEngines s n = [e])
    (hholder : (s.array.engines.getD e {}).holder ≠ some n) (hwritten : (s.array.engines.getD e {}).written = false)
    (hawake : (s.gaf.islands.getD e {}).asleep = false) : strictWindow n s = handedOver (windowAt s n) e n := by
  rw [strictWindow_opens (by simp [hcmds]), if_pos hlive, hengines, List.foldl_cons, List.foldl_nil]
  rw [windowEngine_hands (s := windowAt s n) hcmds hrush himages hholder hwritten hawake]
  exact requestsGo_none hwaiting

theorem mem_slotEngines {e : Nat} (h : e ∈ slotEngines s n) : e < 64 := List.mem_range.1 (List.mem_filter.1 h).1

end Window

end Sys2Proof.Machine
end

section
/-! SUPPORT. An admission pass over a module with one live space, one queue and one command that waits to be admitted, its context resident
(R421, R425). -/

namespace Sys2Proof.Machine

/-! ### Lists that hold one thing -/

theorem range_filter_one {k n : Nat} {p : Nat → Bool} (hn : n < k) (hp : ∀ m, m < k → (p m = true ↔ m = n)) :
    (List.range k).filter p = [n] := by
  have hsame : (List.range k).filter p = (List.range k).filter (· == n) :=
    List.filter_congr fun m hm => Bool.eq_iff_iff.2 (by simpa using hp m (List.mem_range.1 hm))
  rw [hsame, List.filter_beq, List.count_eq_one_of_mem List.nodup_range (List.mem_range.2 hn)]
  rfl

theorem shuffle_one {α : Type} (s : State) (f : α → Nat) (x : α) : shuffle s f [x] = [x] := rfl

theorem sortBy_one {α : Type} (le : α → α → Bool) (x : α) : sortBy le [x] = [x] := rfl

/-- What the search down from a point finds: the highest point that passes. -/
theorem highest_some {p : Nat → Bool} {k : Nat} : ∀ {top : Nat}, ((List.range (top + 1)).reverse).find? p = some k ↔
    k ≤ top ∧ p k = true ∧ ∀ j, k < j → j ≤ top → p j = false
  | 0 => by
    rw [List.range_one, List.reverse_singleton, List.find?_singleton]
    constructor
    · intro h
      split at h
      · next hp =>
        cases h
        exact ⟨Nat.le_refl 0, hp, fun j hlo hhi => by omega⟩
      · cases h
    · rintro ⟨hk, hp, -⟩
      obtain rfl : k = 0 := by omega
      rw [if_pos hp]
  | top + 1 => by
    rw [List.range_succ, List.reverse_append, List.reverse_singleton, List.singleton_append, List.find?_cons]
    split
    · next hp =>
      rw [Option.some.injEq]
      constructor
      · rintro rfl
        exact ⟨Nat.le_refl _, hp, fun j hlo hhi => by omega⟩
      · rintro ⟨hk, -, habove⟩
        by_contra hne
        exact absurd hp (by rw [habove (top + 1) (by omega) (Nat.le_refl _)]; decide)
    · next hp =>
      rw [highest_some]
      constructor
      · rintro ⟨hk, hpk, habove⟩
        refine ⟨by omega, hpk, fun j hlo hhi => ?_⟩
        by_cases hj : j ≤ top
        · exact habove j hlo hj
        · obtain rfl : j = top + 1 := by omega
          exact hp
      · rintro ⟨hk, hpk, habove⟩
        refine ⟨?_, hpk, fun j hlo hhi => habove j hlo (by omega)⟩
        by_contra hgt
        obtain rfl : k = top + 1 := by omega
        rw [hpk] at hp
        cases hp

theorem highest_none {p : Nat → Bool} {top : Nat} : ((List.range (top + 1)).reverse).find? p = none ↔ ∀ j, j ≤ top → p j = false := by
  rw [List.find?_eq_none]
  exact ⟨fun h j hj => by simpa using h j (by simp; omega), fun h j hj => by simpa using h j (by simp at hj; omega)⟩

/-! ### A slot that alone is live, with one command -/

/-- Slot `n` holds the one live space. -/
structure OneLive (s : State) (n : Nat) : Prop where
  lt : n < 16
  live : ∀ m, m < 16 → ((spaceGet s m).state = 1 ↔ m = n)

theorem OneLive.order {s : State} {n : Nat} (h : OneLive s n) : spaceOrder s = [n] := by
  have hone : ((List.range 16).filter fun m => (spaceGet s m).state == 1) = [n] :=
    range_filter_one h.lt fun m hm => by simpa using h.live m hm
  rw [spaceOrder, hone]
  rfl

theorem OneLive.slot {s : State} {n : Nat} (h : OneLive s n) : n < s.sp.slots.length := by
  by_contra hge
  have hstate := (h.live n h.lt).2 rfl
  rw [spaceGet, List.getD_eq_default _ _ (by omega)] at hstate
  cases hstate

/-- Its one queue holds one command, which waits to be admitted: its body is read, its context resident. -/
structure OneWaits (s : State) (n : Nat) (q : Queue) (c : Cmd) (x : Ctx) : Prop where
  live : OneLive s n
  unsliced : s.rig.active.strict = false
  queues : s.sp.queues = [q]
  queueSpace : q.space = n
  cmds : s.sp.cmds = [c]
  space : c.space = n
  queue : c.queue = q.idx
  body : c.body.isSome = true
  phase : c.phase = .accepted
  ctxs : s.sp.ctxs = [x]
  ctx : x.id = c.ctx
  resident : x.resident = true
  stays : x.leaving = false
  grips : s.gaf.haltedGrips = []
  pending : (spaceGet s n).pending = none
  rush : s.array.rush = []
  unsampled : c.rush = none

namespace OneWaits

variable {s : State} {n : Nat} {q : Queue} {c : Cmd} {x : Ctx}

theorem of_freeUse (h : OneWaits s n q c x) (k : Nat) : OneWaits (freeUse s k) n q c x := { h with live := { h.live with } }

variable (h : OneWaits s n q c x)
include h

theorem get : cmdGet s c.id = some c := by
  rw [cmdGet, h.cmds]
  simp

theorem unread : c.body.isNone = false := Option.isNone_eq_false_iff.2 h.body

theorem ctxHeld : ctxGet s c.ctx = some x := by
  rw [ctxGet, h.ctxs]
  simp [h.ctx]

theorem waits : evalWaits s = s := by
  have hbody : (c.phase = .accepted && c.body.isNone) = false := by simp [h.unread]
  simp only [evalWaits, h.cmds, List.map_cons, List.map_nil, List.foldl_cons, List.foldl_nil, evalWait, h.get, hbody]
  rfl

/-- Nothing waits for residency, so that only free values are used. -/
theorem filled : ∃ k, residencyFill s = freeUse s k := by
  have hnone : (s.sp.ctxs.filter fun y => !y.resident && ctxRunnable s y) = [] := by simp [h.ctxs, h.resident]
  unfold residencyFill
  simp only [hnone]
  refine ⟨4096 * (sortBy (fun (a b : Ctx) => decide (b.age ≤ a.age))
    (shuffle (freeUse s 0) (·.id) (s.sp.ctxs.filter fun y => y.resident && !(ctxRunnable s y)))).length, ?_⟩
  simp [leaveIdle, shuffle, sortBy, freeUse, ctxRunnable]

theorem order : queueOrder s n = [q] := by
  have hmine : (s.sp.queues.filter fun y => y.space == n) = [q] := by simp [h.queues, h.queueSpace]
  unfold queueOrder
  dsimp only
  rw [hmine, sortBy_one]
  by_cases hlast : (spaceGet s n).lastQueue < q.idx
  · simp [hlast, Nat.not_le.2 hlast]
  · simp [hlast, Nat.le_of_not_lt hlast]

/-- The one command is considered; then the checks it asks for are given out. -/
theorem pass (l : Nat) : ∃ k, admissionPass l s = rushAsk n (considerQueue l n q.idx (freeUse s k)) := by
  obtain ⟨k, hk⟩ := h.filled
  refine ⟨k + 16, ?_⟩
  have horder : spaceOrder (freeUse s k) = [n] := (h.of_freeUse k).live.order
  have hopen : windowOpen (freeUse s k) n = true := by simp [windowOpen, freeUse, h.unsliced]
  have hqueue : queueOrder (freeUse (freeUse s k) 16) n = [q] := ((h.of_freeUse k).of_freeUse 16).order
  rw [admissionPass, h.waits, hk, horder, List.filter_cons_of_pos hopen]
  simp only [List.filter_nil, List.foldl_cons, List.foldl_nil, hqueue]
  rfl

theorem head : queueHead s q.idx = some c := by
  have hfind : (s.sp.cmds.find? fun d => d.queue == q.idx && cmdBlocks s d) = some c := by simp [h.cmds, h.queue, cmdBlocks, h.phase]
  have hgrip : gripHalted s q.idx = false := by simp [gripHalted, h.grips]
  rw [queueHead, hfind]
  simp [h.phase, hgrip]

end OneWaits

/-! ### What draws power -/

/-- Where the one command has not begun and no reference runs, nothing is drawn. -/
theorem headroom_undrawn {s : State} {c : Cmd} (hcmds : s.sp.cmds = [c]) (hphase : c.phase = .accepted) (hrush : s.array.rush = [])
    (slot : Nat) : headroomMw s slot = allowanceMw s slot := by
  have hdraw : spaceDraw s = fun _ => 0 := funext fun m => by simp [spaceDraw, hcmds, cmdDraws, cmdRunning, hphase, refDraw, hrush]
  rw [headroomMw, hdraw]
  split
  · rfl
  · rfl

theorem estimateAt_elsewhere {s : State} {c : Cmd} (h : onEngine c.opcode = false) (k : Nat) : estimateAt s c k = estimateMw s c := by
  rw [estimateAt, h]
  rfl

/-! ### What the pass has admitted is asked for its checks (R427) -/

theorem rushAsk_none {s : State} {n : Nat} (h : ∀ c ∈ s.sp.cmds, c.phase ≠ .admitted) : rushAsk n s = s := by
  have hnone : (s.sp.cmds.filter fun c => c.space == n && c.phase == .admitted && !c.asked) = [] :=
    List.filter_eq_nil_iff.2 fun c hc => by simp [h c hc]
  rw [rushAsk, hnone, List.foldl_nil]

/-- A command without samples is marked as asked. -/
theorem rushAsk_unsampled {s : State} {n : Nat} {c : Cmd} (hcmds : s.sp.cmds = [c]) (hspace : c.space = n) (hphase : c.phase = .admitted)
    (hrush : c.rush = none) : rushAsk n s = { s with sp := { s.sp with cmds := [{ c with asked := true }] } } := by
  rw [rushAsk, hcmds]
  cases hasked : c.asked with
  | true =>
    have hself : { c with asked := true } = c := by rw [← hasked]
    have hnone : ([c].filter fun d => d.space == n && d.phase == .admitted && !d.asked) = [] := by simp [hasked]
    rw [hself, hnone, List.foldl_nil, ← hcmds]
  | false => simp [hspace, hphase, hasked, hrush, cmdMod, hcmds]

end Sys2Proof.Machine
end

section
/-! SUPPORT. What an admission pass makes of its one command: refused, failed or admitted (R421, R425, R466). -/

namespace Sys2Proof.Machine

/-! ### A collective that is skipped (R245) -/

/-- A state after accesses of main memory for a command: slots, queues and fences are as they were. -/
structure SkipWork (s t : State) : Prop where
  space : SpaceWork s t
  slots : t.sp.slots = s.sp.slots

namespace SkipWork

theorem refl (s : State) : SkipWork s s := ⟨.refl s, rfl⟩

theorem trans {s t u : State} (h : SkipWork s t) (k : SkipWork t u) : SkipWork s u := ⟨h.space.trans k.space, k.slots.trans h.slots⟩

end SkipWork

theorem countHbm_slots (s : State) (c : Cmd) (runs : List (Nat × Nat)) (rd wr : Nat) : (countHbm s c runs rd wr).sp.slots = s.sp.slots := rfl

theorem checkRead_skip (s : State) (c : Cmd) (v n : Nat) : SkipWork s (checkRead s c v n).st := by
  refine ⟨checkRead_space s c v n, ?_⟩
  unfold checkRead
  split
  · rfl
  · exact (countHbm_slots _ _ _ _ _).trans (congrArg Spaces.slots (readRuns_ports _ _ s).sp)

theorem groupRead_skip (s : State) (c : Cmd) (v : Nat) : SkipWork s (groupRead s c v).st := by
  have hheader := checkRead_skip s c v 64
  unfold groupRead
  dsimp only
  repeat' split
  · exact hheader
  · exact hheader
  · exact hheader.trans (checkRead_skip _ _ _ _)

theorem groupNext_skip (s : State) (c : Cmd) (group seq : Nat) : SkipWork s (groupNext s c group seq) := by
  refine ⟨groupNext_space s c group seq, ?_⟩
  unfold groupNext groupPut colPut
  split
  · rfl
  · exact (countHbm_slots _ _ _ _ _).trans (congrArg Spaces.slots (writeRuns_ports false _ _ _ s).sp)

theorem colSkip_skip (s : State) (c : Cmd) : SkipWork s (colSkip s c) := by
  have hgroup := groupRead_skip s c (bodyOfCol c).group
  unfold colSkip
  dsimp only
  repeat' split
  · exact hgroup.trans (groupNext_skip _ _ _ _)
  · exact .refl s
  · exact .refl s

theorem colSkip_other {c : Cmd} (s : State) (h : isCollective c = false) : colSkip s c = s := by
  rw [colSkip, h]
  rfl

theorem SpaceWork.array {s t : State} (h : SpaceWork s t) : t.array = s.array := by obtain ⟨⟨_, _, _, _, _, _, _, rfl⟩, -⟩ := h; rfl

theorem SpaceWork.gaf {s t : State} (h : SpaceWork s t) : t.gaf = s.gaf := by obtain ⟨⟨_, _, _, _, _, _, _, rfl⟩, -⟩ := h; rfl

/-! ### A command that fails before it begins -/

theorem cmdFail_eq (s : State) (c : Cmd) (r : Result) : ∃ col, cmdFail s c r = { cmdEnd s c.id r with col := col } := by
  unfold cmdFail
  split
  · exact ⟨_, rfl⟩
  · exact ⟨_, rfl⟩

/-- The one command of a state, once it has failed, asks for no check. -/
theorem rushAsk_failed {s : State} {n : Nat} {c d : Cmd} {r : Result} (hcmds : s.sp.cmds = [d]) (hid : d.id = c.id) :
    rushAsk n (cmdFail s c r) = cmdFail s c r := by
  obtain ⟨col, hfail⟩ := cmdFail_eq s c r
  refine rushAsk_none fun e he => ?_
  rw [hfail] at he
  replace he : e ∈ (cmdEnd s c.id r).sp.cmds := he
  simp only [cmdEnd, cmdMod, hcmds, List.map_cons, List.map_nil, List.mem_singleton, if_pos hid] at he
  subst he
  split
  · next hphase => simp [hphase]
  · simp

theorem cmdFail_ends {s : State} {c d : Cmd} {st : Status} (hget : cmdGet s c.id = some d) (hlive : cmdLive d = true) :
    endsWith (cmdFail s c (resultOf st)) c.id st := by
  obtain ⟨col, hfail⟩ := cmdFail_eq s c (resultOf st)
  rw [hfail]
  exact ⟨_, _, cmdGet_cmdEnd s c.id _ d hget hlive, rfl, rfl⟩

/-! ### Whether the unit is free, and whether the engine may be had -/

section Considered

variable {s : State} {n : Nat} {q : Queue} {c : Cmd} {x : Ctx}

/-- The state in which a command has been considered. -/
def considering (s : State) (c : Cmd) : State := { s with sp := cmdMod s.sp c.id fun y => { y with considered := true } }

@[simp] theorem considering_frame (s : State) (c : Cmd) : (considering s c).array = s.array ∧ (considering s c).rig = s.rig ∧
    (considering s c).gaf = s.gaf ∧ (considering s c).col = s.col := ⟨rfl, rfl, rfl, rfl⟩

theorem considering_cmds (h : OneWaits s n q c x) : (considering s c).sp.cmds = [{ c with considered := true }] := by
  simp [considering, cmdMod, h.cmds]

theorem unitFree_considering (h : OneWaits s n q c x) : unitFree (considering s c) c = unitFree s c := by
  simp [unitFree, bandCmd, considering_cmds h, h.cmds, cmdRunning, h.phase, refEngine]

theorem engineFree_considering {s : State} {c : Cmd} (hshared : isShared s = false ∨ (engineOf s c).all fun e =>
      (s.array.engines.getD e {}).holder == some c.space)
    (hstopped : (engineOf s c).all fun e => !(s.gaf.islands.getD e {}).stopped) : engineFree s c = true := by
  unfold engineFree
  split
  · rfl
  · next e he =>
    rw [he] at hshared hstopped
    replace hstopped : (!(s.gaf.islands.getD e {}).stopped) = true := hstopped
    rw [hstopped, Bool.true_and]
    rcases hshared with h | h
    · simp [h]
    · replace h : ((s.array.engines.getD e {}).holder == some c.space) = true := h
      rw [h, Bool.or_true, Bool.true_or]

/-- A command whose unit and engine are free is ready. -/
theorem ready_considering (h : OneWaits s n q c x) (hunit : unitFree s c = true) (hengine : engineFree (considering s c) c = true) :
    cmdIsReady (considering s c) c = true := by
  have hctx : ctxGet (considering s c) c.ctx = some x := h.ctxHeld
  simp [cmdIsReady, h.phase, h.body, considering_cmds h, hctx, h.resident, h.stays, unitFree_considering h, hunit, hengine]

theorem bandKept_considering (h : OneWaits s n q c x) : bandKept (considering s c) c = false := by
  simp [bandKept, considering_cmds h, h.phase]

/-! ### The three ways -/

theorem considerQueue_refuses (h : OneWaits s n q c x) (l : Nat) (hfirst : c.considered = false)
    (hbudget : allowanceMw s n < estimateAt s c 0) : considerQueue l n q.idx s =
      cmdFail { colSkip s c with sp := spaceMod (colSkip s c).sp n fun x => { x with refused := satAdd 23 x.refused 1 } } c
        (resultOf .budgetRefused) := by
  have hrefuses : budgetRefuses s c = true := by simpa [budgetRefuses, h.space] using hbudget
  rw [considerQueue, h.head]
  simp [h.unread, hfirst, hrefuses]

theorem considerQueue_fails (h : OneWaits s n q c x) (l : Nat) (hbudget : estimateAt s c 0 ≤ allowanceMw s n)
    (hdead : islandDead s c = true) : considerQueue l n q.idx s = cmdFail (colSkip (considering s c) c) c (resultOf .watchdog) := by
  have hrefuses : budgetRefuses s c = false := by simpa [budgetRefuses, h.space] using hbudget
  have hdead' : islandDead (considering s c) c = true := hdead
  rw [considerQueue, h.head]
  simp only [h.unread, hrefuses, Bool.and_false, Bool.false_eq_true, if_false]
  exact if_pos hdead'

theorem considerQueue_admits (h : OneWaits s n q c x) (l : Nat) {k : Nat} (hbudget : estimateAt s c 0 ≤ allowanceMw s n)
    (halive : islandDead s c = false) (hready : cmdIsReady (considering s c) c = true) (hbest : bestPoint (considering s c) c = some k) :
    considerQueue l n q.idx s = admitCmd (considering s c) c k := by
  have hrefuses : budgetRefuses s c = false := by simpa [budgetRefuses, h.space] using hbudget
  have halive' : islandDead (considering s c) c = false := halive
  have hpending : (spaceGet (considering s c) n).pending = none := h.pending
  have hfits : windowFits (considering s c) c k l = true := by
    simp [windowFits, h.unsliced]
  rw [considerQueue, h.head]
  simp only [h.unread, hrefuses, Bool.and_false, Bool.false_eq_true, if_false]
  change (if islandDead (considering s c) c then _ else if !(cmdIsReady (considering s c) c) ||
    (spaceGet (considering s c) n).pending.any (· != c.id) || bandKept (considering s c) c then _ else
    match bestPoint (considering s c) c with | none => _ | some k => if windowFits (considering s c) c k l then _ else _) = _
  simp [halive', hready, hpending, bandKept_considering h, hbest, hfits]
  rfl

/-- The highest point that fits the allowance, where nothing else draws. -/
theorem bestPoint_considering (h : OneWaits s n q c x) {top k : Nat}
    (htop : (match engineNamed c with | some e => islandLimit (considering s c) e (onVector c.opcode) | none => 7) = top) (hk : k ≤ top)
    (hfits : estimateAt s c k ≤ allowanceMw s n) (habove : ∀ j, j ≤ top → k < j → allowanceMw s n < estimateAt s c j) :
    bestPoint (considering s c) c = some k := by
  have hroom : headroomMw (considering s c) c.space = allowanceMw s n := by
    rw [headroom_undrawn (considering_cmds h) h.phase h.rush, h.space]
    rfl
  unfold bestPoint
  rw [hroom]
  refine (congrArg (fun m => ((List.range (m + 1)).reverse).find? fun k => decide (estimateAt s c k ≤ allowanceMw s n)) htop).trans ?_
  exact highest_some.2 ⟨hk, decide_eq_true hfits, fun j hlo hhi => decide_eq_false (Nat.not_le.2 (habove j hhi hlo))⟩

theorem islandLimit_considering (h : OneWaits s n q c x) (e : Nat) (vec : Bool) :
    islandLimit (considering s c) e vec = islandLimit s e vec := by
  simp [islandLimit, considering_cmds h, h.cmds, cmdRunning, h.phase, refEngine]

end Considered

/-! ### Admitted -/

section Admit

variable {s : State} {n : Nat} {q : Queue} {c : Cmd} {x : Ctx}

/-- What an admission makes of the spaces: the command runs at a point, its queue is the last admitted. -/
def admittedSp (sp : Spaces) (c : Cmd) (k : Nat) : Spaces :=
  spaceMod (cmdMod sp c.id fun x => { x with phase := .admitted, point := k }) c.space fun x =>
    { x with lastQueue := c.queue, pending := if x.pending = some c.id then none else x.pending }

/-- The state in which a command has been admitted at a point. -/
def admitted (s : State) (c : Cmd) (k : Nat) : State := { s with sp := admittedSp s.sp c k }

theorem sampleRushes_plain {s : State} {c : Cmd} {x : Ctx} (hctx : ctxGet s c.ctx = some x)
    (h : c.opcode = 0x10 → rushEligible (mmBody (cmdBody c)) x.rushes = false) : sampleRushes s c = s := by
  unfold sampleRushes
  dsimp only
  rw [hctx]
  dsimp only
  rw [if_neg]
  intro hall
  simp only [Bool.and_eq_true, decide_eq_true_eq] at hall
  obtain ⟨⟨hop, -⟩, helig⟩ := hall
  rw [h hop] at helig
  cases helig

theorem admitCmd_unnamed (hctx : ctxGet s c.ctx = some x) (hnamed : engineNamed c = none) (k : Nat) :
    admitCmd s c k = admitted s c k := by
  have hplain : c.opcode = 0x10 → rushEligible (mmBody (cmdBody c)) x.rushes = false := fun hop => by
    rw [engineNamed, hop] at hnamed
    cases hnamed
  have hengine : engineOf s c = none := by rw [engineOf, hnamed]; rfl
  rw [admitCmd, hengine]
  exact sampleRushes_plain (s := admitted s c k) hctx hplain

theorem admitCmd_named {e k : Nat} (hctx : ctxGet s c.ctx = some x) (hnamed : engineNamed c = some e)
    (hallows : engineAllows s e c.space = true) (hheld : isShared s = false ∨ (s.array.engines.getD e {}).holder = some c.space)
    (hawake : (s.gaf.islands.getD e {}).asleep = false) (himages : s.array.images = [])
    (hplain : c.opcode = 0x10 → rushEligible (mmBody (cmdBody c)) x.rushes = false) :
    admitCmd s c k = islandRefresh (admitted s c k) e := by
  have hengine : engineOf s c = some e := by rw [engineOf, hnamed]; simp [hallows]
  have hready : engineReady s e c.space = some (s, true) := by
    unfold engineReady
    dsimp only
    rw [if_neg, if_neg (by rw [hawake]; decide)]
    rcases hheld with h | h
    · simp [h]
    · rw [h]
      simp
  have hplace : placeReady s c e = some (s, true) := by
    unfold placeReady
    rw [hready]
    cases bandNamed s c with
    | none => rfl
    | some y =>
      dsimp only
      rw [bandSwitch, himages]
      rfl
  rw [admitCmd, hengine]
  dsimp only
  rw [hplace]
  exact congrArg (fun t => islandRefresh t e) (sampleRushes_plain (s := admitted s c k) hctx hplain)

/-- The lowest point granted to the one command of an engine is its own. -/
theorem lowestGrant_one {e : Nat} (hcmds : s.sp.cmds = [c]) (hrunning : cmdRunning c = true) (hnamed : engineNamed c = some e) :
    lowestGrant s e = some c.point := by
  simp [lowestGrant, hcmds, hrunning, hnamed]

/-- An island with one command runs at its point. -/
theorem islandRefresh_one {e : Nat} (hcmds : s.sp.cmds = [c]) (hrunning : cmdRunning c = true) (hnamed : engineNamed c = some e) :
    islandRefresh s e = { s with gaf := { s.gaf with islands := modAt s.gaf.islands e fun y =>
      { y with granted := c.point, lower := 0, point := loweredPoint s.gaf c.point } } } := by
  rw [islandRefresh, lowestGrant_one hcmds hrunning hnamed]

theorem engineNamed_lt {e : Nat} (h : engineNamed c = some e) : e < 64 := by
  have hfld : ∀ v p, fld v p 6 < 64 := fun v p => Nat.mod_lt _ (by decide)
  rw [engineNamed] at h
  split at h
  · cases h
    exact hfld _ _
  · split at h
    · cases h
      exact hfld _ _
    · cases h

end Admit

end Sys2Proof.Machine
end

section
/-! CLAIMS. An admission pass (R421, R425, R466). -/

namespace Sys2Proof.Machine

variable {s : State} {n : Nat} {q : Queue} {c : Cmd} {x : Ctx}

/-- A command that its space could never fit ends, and is counted, as it is first considered (R421). -/
theorem exec_admissionPass_refuses (h : OneWaits s n q c x) (l : Nat) (hfirst : c.considered = false)
    (hbudget : allowanceMw s n < estimateAt s c 0) :
    ∃ t, exec (.admissionPass l) s = .next t ∧ endsWith t c.id .budgetRefused ∧
      (spaceGet t n).refused = satAdd 23 (spaceGet s n).refused 1 ∧ (isCollective c = false → t.mem = s.mem) ∧ t.array = s.array ∧
      t.gaf = s.gaf := by
  obtain ⟨k, hpass⟩ := h.pass l
  have hu := h.of_freeUse k
  generalize hv : { colSkip (freeUse s k) c with
    sp := spaceMod (colSkip (freeUse s k) c).sp n fun x => { x with refused := satAdd 23 x.refused 1 } } = v
  have hskip := colSkip_skip (freeUse s k) c
  obtain ⟨pj, hpj⟩ := hskip.space.charged
  have hcmds : v.sp.cmds = [{ c with pj := pj c }] := by
    subst hv
    exact hpj.trans (by rw [hu.cmds]; rfl)
  have hget : cmdGet v c.id = some { c with pj := pj c } := by
    rw [cmdGet, hcmds]
    simp
  have hpassed : admissionPass l s = cmdFail v c (resultOf .budgetRefused) := by
    rw [hpass, considerQueue_refuses hu l hfirst hbudget, hv]
    exact rushAsk_failed hcmds rfl
  have hrefused : (spaceGet v n).refused = satAdd 23 (spaceGet s n).refused 1 := by
    have hslot : n < (colSkip (freeUse s k) c).sp.slots.length := by
      rw [hskip.slots]
      exact h.live.slot
    subst hv
    rw [spaceGet_spaceMod, if_pos ⟨rfl, hslot⟩]
    show satAdd 23 (spaceGet (colSkip (freeUse s k) c) n).refused 1 = _
    rw [spaceGet, hskip.slots]
    rfl
  obtain ⟨col, hfail⟩ := cmdFail_eq v c (resultOf .budgetRefused)
  have hlive : cmdLive { c with pj := pj c } = true := by simp [cmdLive, h.phase]
  refine ⟨_, congrArg Host.Outcome.next hpassed, cmdFail_ends hget hlive, ?_, fun hcol => ?_, ?_, ?_⟩
  · rw [hfail]
    exact hrefused
  · rw [hfail]
    subst hv
    show (colSkip (freeUse s k) c).mem = s.mem
    rw [colSkip_other _ hcol]
    rfl
  · rw [hfail]
    subst hv
    exact hskip.space.array
  · rw [hfail]
    subst hv
    exact hskip.space.gaf

/-- A collective names no engine. -/
theorem notCollective_of_named {c : Cmd} {e : Nat} (h : engineNamed c = some e) : isCollective c = false := by
  by_contra hcol
  rw [Bool.not_eq_false, isCollective, Bool.or_eq_true, beq_iff_eq, beq_iff_eq] at hcol
  rcases hcol with hop | hop
  · rw [engineNamed, hop] at h
    cases h
  · rw [engineNamed, hop] at h
    cases h

/-- A command on an engine that an island reset marked failed (R466). -/
theorem exec_admissionPass_fails {e : Nat} (h : OneWaits s n q c x) (l : Nat) (hbudget : estimateAt s c 0 ≤ allowanceMw s n)
    (hnamed : engineNamed c = some e) (hfailed : s.err.islFailed.getLsbD e = true) :
    ∃ t, exec (.admissionPass l) s = .next t ∧ endsWith t c.id .watchdog ∧ t.mem = s.mem ∧ t.array = s.array := by
  obtain ⟨k, hpass⟩ := h.pass l
  have hu := h.of_freeUse k
  have hdead : islandDead (freeUse s k) c = true := by
    rw [islandDead, hnamed]
    exact hfailed
  have hcmds := considering_cmds hu
  have hget : cmdGet (considering (freeUse s k) c) c.id = some { c with considered := true } := by
    rw [cmdGet, hcmds]
    simp
  have hpassed : admissionPass l s = cmdFail (considering (freeUse s k) c) c (resultOf .watchdog) := by
    rw [hpass, considerQueue_fails hu l hbudget hdead, colSkip_other _ (notCollective_of_named hnamed)]
    exact rushAsk_failed hcmds rfl
  obtain ⟨col, hfail⟩ := cmdFail_eq (considering (freeUse s k) c) c (resultOf .watchdog)
  refine ⟨_, congrArg Host.Outcome.next hpassed, cmdFail_ends hget (by simp [cmdLive, h.phase]), ?_, ?_⟩
  · rw [hfail]
    rfl
  · rw [hfail]
    rfl

theorem admitted_cmds (h : OneWaits s n q c x) (k : Nat) :
    (admitted (considering s c) c k).sp.cmds = [{ c with phase := .admitted, point := k, considered := true }] := by
  show (cmdMod (considering s c).sp c.id _).cmds = _
  simp [cmdMod, considering_cmds h]

/-- A command that needs no engine runs at point 7 (R425). -/
theorem exec_admissionPass_unnamed (h : OneWaits s n q c x) (l : Nat) (hnamed : engineNamed c = none) (hunit : unitFree s c = true)
    (hfits : estimateMw s c ≤ allowanceMw s n) :
    ∃ t, exec (.admissionPass l) s = .next t ∧
      cmdGet t c.id = some { c with phase := .admitted, point := 7, considered := true, asked := true } ∧
      (spaceGet t n).lastQueue = c.queue ∧ t.mem = s.mem ∧ t.array = s.array ∧ t.gaf = s.gaf := by
  obtain ⟨k, hpass⟩ := h.pass l
  have hu := h.of_freeUse k
  have hoff : onEngine c.opcode = false := by
    by_contra hon
    rw [engineNamed, if_pos (by simpa using hon)] at hnamed
    cases hnamed
  have hestimate : ∀ j, estimateAt (freeUse s k) c j ≤ allowanceMw (freeUse s k) n := fun j => by
    rw [estimateAt_elsewhere hoff]
    exact hfits
  have halive : islandDead (freeUse s k) c = false := by rw [islandDead, hnamed]; rfl
  have hengine : engineOf (considering (freeUse s k) c) c = none := by rw [engineOf, hnamed]; rfl
  have hready := ready_considering hu hunit
    (engineFree_considering (.inr (by rw [hengine]; rfl)) (by rw [hengine]; rfl))
  have hbest : bestPoint (considering (freeUse s k) c) c = some 7 :=
    bestPoint_considering (top := 7) hu (by rw [hnamed]) (Nat.le_refl 7) (hestimate 7) fun j hhi hlo => by omega
  have hasked := rushAsk_unsampled (n := n) (admitted_cmds hu 7) h.space rfl h.unsampled
  have hadmit : considerQueue l n q.idx (freeUse s k) = admitted (considering (freeUse s k) c) c 7 := by
    rw [considerQueue_admits hu l (hestimate 0) halive hready hbest, admitCmd_unnamed (x := x) _ hnamed]
    exact hu.ctxHeld
  have hpassed := hpass.trans ((congrArg (rushAsk n) hadmit).trans hasked)
  refine ⟨_, congrArg Host.Outcome.next hpassed, ?_, ?_, rfl, rfl, rfl⟩
  · simp [cmdGet]
  · show (spaceGet (admitted (considering (freeUse s k) c) c 7) n).lastQueue = c.queue
    rw [admitted, admittedSp, h.space, spaceGet_spaceMod
      { considering (freeUse s k) c with sp := cmdMod (considering (freeUse s k) c).sp c.id fun x => { x with phase := .admitted, point := 7 } },
      if_pos ⟨rfl, h.live.slot⟩]

/-- A command whose engine is free runs at the highest point within the island's limit that fits (R422, R425). -/
theorem exec_admissionPass_named {e k : Nat} (h : OneWaits s n q c x) (l : Nat) (hnamed : engineNamed c = some e)
    (hallows : engineAllows s e n = true) (hheld : isShared s = false ∨ (s.array.engines.getD e {}).holder = some n)
    (hawake : (s.gaf.islands.getD e {}).asleep = false) (hstopped : (s.gaf.islands.getD e {}).stopped = false)
    (himages : s.array.images = []) (halive : s.err.islFailed.getLsbD e = false) (hunit : unitFree s c = true)
    (hislands : s.gaf.islands.length = 125) (hplain : c.opcode = 0x10 → rushEligible (mmBody (cmdBody c)) x.rushes = false)
    (hk : k ≤ islandLimit s e (onVector c.opcode)) (hfits : estimateAt s c k ≤ allowanceMw s n)
    (hbudget : estimateAt s c 0 ≤ allowanceMw s n)
    (habove : ∀ j, j ≤ islandLimit s e (onVector c.opcode) → k < j → allowanceMw s n < estimateAt s c j) :
    ∃ t d, exec (.admissionPass l) s = .next t ∧ cmdGet t c.id = some d ∧ d.phase = .admitted ∧ d.point = k ∧
      (t.gaf.islands.getD e {}).granted = k ∧ t.mem = s.mem ∧ t.array = s.array := by
  obtain ⟨i, hpass⟩ := h.pass l
  have hu := h.of_freeUse i
  have hdead : islandDead (freeUse s i) c = false := by
    rw [islandDead, hnamed]
    exact halive
  have hengine : engineOf (considering (freeUse s i) c) c = some e := by
    have hmine : engineAllows (considering (freeUse s i) c) e c.space = true := by rw [h.space]; exact hallows
    rw [engineOf, hnamed]
    simp [hmine]
  have hready := ready_considering hu hunit <| engineFree_considering
    (hheld.imp id fun hh => by rw [hengine, h.space]; simpa using hh)
    (by rw [hengine]; simpa using hstopped)
  have hbest : bestPoint (considering (freeUse s i) c) c = some k :=
    bestPoint_considering (top := islandLimit s e (onVector c.opcode)) hu (by rw [hnamed]; exact islandLimit_considering hu e _) hk hfits habove
  have hcmds := admitted_cmds hu k
  have hadmit : considerQueue l n q.idx (freeUse s i) = islandRefresh (admitted (considering (freeUse s i) c) c k) e := by
    rw [considerQueue_admits hu l hbudget hdead hready hbest, admitCmd_named
      (s := considering (freeUse s i) c) (x := x) hu.ctxHeld hnamed
      (by rw [h.space]; exact hallows) (by rw [h.space]; exact hheld) hawake himages hplain]
  rw [islandRefresh_one hcmds rfl hnamed] at hadmit
  have hdone : (considerQueue l n q.idx (freeUse s i)).sp.cmds = [{ c with phase := .admitted, point := k, considered := true }] := by
    rw [hadmit]
    exact hcmds
  have hpassed := rushAsk_unsampled (n := n) hdone h.space rfl h.unsampled
  rw [← hpass, hadmit] at hpassed
  have hisland : e < s.gaf.islands.length := by
    have := engineNamed_lt hnamed
    omega
  refine ⟨_, { c with phase := .admitted, point := k, considered := true, asked := true }, congrArg Host.Outcome.next hpassed, ?_, rfl,
    rfl, ?_, rfl, rfl⟩
  · simp [cmdGet]
  · exact congrArg Island.granted (modAt_getD _ {} hisland)

end Sys2Proof.Machine
end

section
/-! SUPPORT. What a retune measures (R420, R437, R441): of commands the energy charged, of islands their counters and whether an idle one is
held; points, estimates and allowances are as they were. -/

namespace Sys2Proof.Machine

/-! ### What the allowances, estimates and limits rest on -/

/-- A state with the same rig, budget, contexts, references, emergencies and engine memories. -/
structure GafferWork (s t : State) : Prop where
  rig : t.rig = s.rig
  power : t.power = s.power
  ctxs : t.sp.ctxs = s.sp.ctxs
  rush : t.array.rush = s.array.rush
  tiles : t.array.tiles = s.array.tiles
  staging : t.array.staging = s.array.staging
  clamp : clampOn t.gaf = clampOn s.gaf
  overdraw : t.gaf.overdraw = s.gaf.overdraw

namespace GafferWork

theorem trans {s t u : State} (h : GafferWork s t) (k : GafferWork t u) : GafferWork s u :=
  ⟨k.rig.trans h.rig, k.power.trans h.power, k.ctxs.trans h.ctxs, k.rush.trans h.rush, k.tiles.trans h.tiles, k.staging.trans h.staging,
    k.clamp.trans h.clamp, k.overdraw.trans h.overdraw⟩

variable {s t : State} (h : GafferWork s t)
include h

theorem allowance (n : Nat) : allowanceMw t n = allowanceMw s n := by
  simp only [allowanceMw, isShared, poolWatts, baseDraw, h.rig, h.power]
  rfl

theorem estimate (c : Cmd) (k : Nat) : estimateAt t c k = estimateAt s c k := by
  simp only [estimateAt, estimateMw, estimateOf, ctxSamples, ctxGet, h.ctxs]
  rfl

end GafferWork

/-! ### Lines that go wrong in the caches -/

/-- A state after words of resident lines have gone wrong: main memory's bytes are as they were. -/
def CacheWork (s t : State) : Prop := ∃ mem err, t = { s with mem := mem, err := err } ∧ mem.cells = s.mem.cells

namespace CacheWork

theorem refl (s : State) : CacheWork s s := ⟨_, _, rfl, rfl⟩

theorem trans {s t u : State} (h : CacheWork s t) (k : CacheWork t u) : CacheWork s u := by
  obtain ⟨_, _, rfl, hs⟩ := h
  obtain ⟨_, _, rfl, ht⟩ := k
  exact ⟨_, _, rfl, ht.trans hs⟩

theorem foldl {α : Type} {f : State → α → State} (h : ∀ t x, CacheWork t (f t x)) : ∀ (l : List α) (s : State), CacheWork s (l.foldl f s)
  | [], s => .refl s
  | x :: l, s => (h s x).trans (CacheWork.foldl h l _)

end CacheWork

theorem cacheLost_cache (s : State) (stack place : Nat) : CacheWork s (cacheLost s stack place) := by
  unfold cacheLost
  split
  · exact .refl s
  · next x _ =>
    refine ⟨_, _, rfl, ?_⟩
    exact (failNode_kept _ _ _).cells

theorem cacheWord_cache (stack place : Nat) (s : State) (w : Nat × BitVec 256 × BitVec 40) : CacheWork s (cacheWord stack place s w) := by
  unfold cacheWord
  split
  · exact cacheLost_cache s stack place
  · split
    · exact .refl s
    · exact ⟨_, _, rfl, rfl⟩

/-! ### The measurements -/

/-- The commands after the energy of the islands has been divided among them (R420). -/
theorem splitEnergy_charged (m : Measured) (s : State) : ∃ pj : Cmd → Nat,
    splitEnergy m s = { s with sp := { s.sp with cmds := s.sp.cmds.map fun c => { c with pj := pj c } } } := ⟨_, rfl⟩

/-- What a retune's measurements leave. -/
structure MeasureWork (m : Measured) (s t : State) : Prop where
  gaffer : GafferWork s t
  charged : CmdsCharged s t
  states : ∀ n, n < 16 → (spaceGet t n).state = (spaceGet s n).state
  islands : s.gaf.islands.length = 125 → t.gaf.islands.length = 125 ∧ ∀ e,
    (t.gaf.islands.getD e {}).granted = (s.gaf.islands.getD e {}).granted ∧
    (t.gaf.islands.getD e {}).held = (s.gaf.islands.getD e {}).held
  cells : m.mergeErr = [] → t.mem.cells = s.mem.cells

/-- An entry of a list that is mapped with its numbers. -/
theorem zip_range_getD {α : Type} (l : List α) {k e : Nat} (f : Nat × α → α) (d : α) (he : e < k) :
    (((List.range k).zip l).map f).getD e d = if e < l.length then f (e, l.getD e d) else d := by
  split
  · next hl =>
    have hzip : ((List.range k).zip l)[e]? = some (e, l[e]) :=
      List.getElem?_zip_eq_some.2 ⟨List.getElem?_range he, List.getElem?_eq_getElem hl⟩
    rw [List.getD_eq_getElem?_getD, List.getElem?_map, hzip, List.getD_eq_getElem _ _ hl]
    rfl
  · next hl => rw [List.getD_eq_default _ _ (by simp; omega)]

/-- An entry past a list's end reads as the default does. -/
theorem zip_range_getD_same {α β : Type} (l : List α) {k e : Nat} (f : Nat × α → α) (d : α) (g : α → β) (he : e < k)
    (hf : ∀ x, g (f (e, x)) = g x) : g ((((List.range k).zip l).map f).getD e d) = g (l.getD e d) := by
  rw [zip_range_getD l f d he]
  split
  · exact hf _
  · next hl => rw [List.getD_eq_default _ _ (Nat.le_of_not_lt hl)]

theorem takeMeasured_unready {s : State} (m : Measured) (h : s.power.ready = false) : takeMeasured s m = { s with gaf := { s.gaf with
    mainMv := m.mainMv % 2 ^ 16, stbyMv := m.stbyMv % 2 ^ 16, boardDc := m.boardDc } } := by
  simp [takeMeasured, h]

/-- The words of cached lines and of units held that go wrong between two retunes. -/
theorem upsets_cache (m : Measured) (s : State) : ∃ mem err, m.nodeErr.foldl (fun t e => e.2.2.foldl (cacheWord e.1 e.2.1) t) s =
    { s with mem := mem, err := err } ∧ mem.cells = s.mem.cells :=
  CacheWork.foldl (f := fun t (e : Nat × Nat × BufErr) => e.2.2.foldl (cacheWord e.1 e.2.1) t)
    (fun t e => .foldl (cacheWord_cache e.1 e.2.1) e.2.2 t) m.nodeErr s

theorem takeMeasured_work (m : Measured) (s : State) : MeasureWork m s (takeMeasured s m) := by
  cases hready : s.power.ready with
  | false =>
    rw [takeMeasured_unready m hready]
    exact ⟨⟨rfl, rfl, rfl, rfl, rfl, rfl, rfl, rfl⟩, .of_eq rfl, fun _ _ => rfl, fun h => ⟨h, fun _ => ⟨rfl, rfl⟩⟩, fun _ => rfl⟩
  | true =>
    obtain ⟨pj, hpj⟩ := splitEnergy_charged m s
    obtain ⟨mem, err, hcache, hcells⟩ := upsets_cache m (splitEnergy m s)
    rw [hpj] at hcache hcells
    unfold takeMeasured
    simp only [hready, if_true, hpj, hcache]
    refine ⟨⟨rfl, rfl, rfl, rfl, rfl, rfl, rfl, rfl⟩, ⟨pj, rfl⟩, fun n hn => ?_, fun h => ⟨by simp [h], fun e => ?_⟩, fun hm => ?_⟩
    · refine zip_range_getD_same s.sp.slots _ {} Space.state hn fun x => ?_
      dsimp only
      split
      · rfl
      · rfl
    · by_cases he : e < 125
      · exact ⟨zip_range_getD_same s.gaf.islands _ {} Island.granted he fun _ => rfl,
          zip_range_getD_same s.gaf.islands _ {} Island.held he fun _ => rfl⟩
      · constructor
        · rw [List.getD_eq_default _ _ (by simp; omega), List.getD_eq_default _ _ (by omega)]
        · rw [List.getD_eq_default _ _ (by simp; omega), List.getD_eq_default _ _ (by omega)]
    · rw [hm]
      exact hcells

/-! ### Islands on which nothing runs -/

/-- A state after holds of islands have been given up. -/
structure HoldWork (s t : State) : Prop where
  change : ∃ islands, t = { s with gaf := { s.gaf with islands := islands } }
  length : t.gaf.islands.length = s.gaf.islands.length
  granted : ∀ e, (t.gaf.islands.getD e {}).granted = (s.gaf.islands.getD e {}).granted
  held : ∀ e, lowestGrant s e ≠ none → (t.gaf.islands.getD e {}).held = (s.gaf.islands.getD e {}).held

namespace HoldWork

theorem refl (s : State) : HoldWork s s := ⟨⟨_, rfl⟩, rfl, fun _ => rfl, fun _ _ => rfl⟩

theorem lowest {s t : State} (h : HoldWork s t) (e : Nat) : lowestGrant t e = lowestGrant s e := by
  obtain ⟨_, rfl⟩ := h.change
  rfl

theorem trans {s t u : State} (h : HoldWork s t) (k : HoldWork t u) : HoldWork s u where
  change := by
    obtain ⟨_, rfl⟩ := h.change
    obtain ⟨_, rfl⟩ := k.change
    exact ⟨_, rfl⟩
  length := k.length.trans h.length
  granted e := (k.granted e).trans (h.granted e)
  held e he := (k.held e (by rwa [h.lowest])).trans (h.held e he)

theorem foldl {f : State → Nat → State} (h : ∀ t e, HoldWork t (f t e)) : ∀ (l : List Nat) (s : State), HoldWork s (l.foldl f s)
  | [], s => .refl s
  | e :: l, s => (h s e).trans (HoldWork.foldl h l _)

end HoldWork

/-- A field of an entry that a change of another, or of this one, leaves. -/
theorem modAt_getD_same {α β : Type} (l : List α) (i e : Nat) (f : α → α) (d : α) (g : α → β) (hf : i = e → ∀ x, g (f x) = g x) :
    g ((modAt l i f).getD e d) = g (l.getD e d) := by
  rw [List.getD_eq_getElem?_getD, List.getD_eq_getElem?_getD, modAt_getElem?]
  split
  · next hi =>
    cases l[e]? with
    | none => rfl
    | some x => exact hf hi x
  · rfl

theorem freeIdle_hold (s : State) : HoldWork s (freeIdle s) := by
  refine .foldl (fun t e => ?_) (List.range 64) s
  split
  · next hidle =>
    refine ⟨⟨_, rfl⟩, modAt_length _ _ _, fun k => modAt_getD_same _ _ _ _ _ Island.granted fun _ _ => rfl, fun k hk => ?_⟩
    exact modAt_getD_same _ _ _ _ _ Island.held fun hek => absurd (Option.isNone_iff_eq_none.1 hidle) (hek ▸ hk)
  · exact .refl t

end Sys2Proof.Machine
end

section
/-! SUPPORT. A retune of a module with one live space and one command, which runs on an engine (R425): lowered, held or raised. -/

namespace Sys2Proof.Machine

/-- The one command of the one live space runs on an engine, whose island it alone has been granted and which is not held. -/
structure OneRuns (s : State) (n e : Nat) (c : Cmd) : Prop where
  live : OneLive s n
  cmds : s.sp.cmds = [c]
  space : c.space = n
  phase : c.phase = .admitted
  point : c.point ≤ 7
  named : engineNamed c = some e
  onEngine : onEngine c.opcode = true
  islands : s.gaf.islands.length = 125
  granted : grantedOf s e = c.point
  free : (s.gaf.islands.getD e {}).held = false
  rush : s.array.rush = []

/-- A command at another point. -/
def atPoint (c : Cmd) (k : Nat) : Cmd := { c with point := k, lower := if k = c.point then c.lower else 0 }

/-- An island granted a point. -/
def grantTo (g : Gaffer) (k : Nat) (y : Island) : Island := { y with granted := k, lower := 0, point := loweredPoint g k }

/-- A state whose commands, islands and free values alone have changed. -/
def RetuneWork (s t : State) : Prop := ∃ cmds islands k, t = { s with
  sp := { s.sp with cmds := cmds }, gaf := { s.gaf with islands := islands }, freeCtr := k }

namespace RetuneWork

theorem refl (s : State) : RetuneWork s s := ⟨_, _, _, rfl⟩

theorem trans {s t u : State} (h : RetuneWork s t) (k : RetuneWork t u) : RetuneWork s u := by
  obtain ⟨_, _, _, rfl⟩ := h
  obtain ⟨_, _, _, rfl⟩ := k
  exact ⟨_, _, _, rfl⟩

variable {s t : State} (h : RetuneWork s t)
include h

theorem gaffer : GafferWork s t := by
  obtain ⟨_, _, _, rfl⟩ := h
  exact ⟨rfl, rfl, rfl, rfl, rfl, rfl, rfl, rfl⟩

theorem mem : t.mem = s.mem := by
  obtain ⟨_, _, _, rfl⟩ := h
  rfl

theorem live {n : Nat} (hlive : OneLive s n) : OneLive t n := by
  obtain ⟨_, _, _, rfl⟩ := h
  exact ⟨hlive.lt, hlive.live⟩

end RetuneWork

namespace OneRuns

variable {s : State} {n e : Nat} {c : Cmd}

theorem of_freeUse (h : OneRuns s n e c) (k : Nat) : OneRuns (freeUse s k) n e c := { h with live := { h.live with } }

section

variable (h : OneRuns s n e c)
include h

theorem running : cmdRunning c = true := by simp [cmdRunning, h.phase]

theorem engine : e < 64 := engineNamed_lt h.named

theorem get : cmdGet s c.id = some c := by
  rw [cmdGet, h.cmds]
  simp

/-- What the one command draws is the draw of its space. -/
theorem spaceDraw (m : Nat) : spaceDraw s m = if m = n then estimateAt s c c.point else 0 := by
  have hheld : cmdDraws s c = true := by
    have hfld : (c.opcode == 0x10 && (s.gaf.islands.getD (fld (cmdBody c) 0 6) {}).held) = false := by
      have hsame := h.named
      rw [engineNamed, if_pos h.onEngine] at hsame
      rw [Option.some.inj hsame, h.free, Bool.and_false]
    rw [cmdDraws, h.running, hfld]
    rfl
  have href : refDraw s m = 0 := by simp [refDraw, h.rush]
  rw [Machine.spaceDraw, h.cmds, href]
  by_cases hm : m = n
  · simp [hm, h.space, hheld]
  · simp [hm, h.space, Ne.symm hm]

/-- It is the draw against the allowance too, in a Solo rig as in a Shared one. -/
theorem purseDraw : purseDraw s n = estimateAt s c c.point := by
  rw [Machine.purseDraw]
  split
  · rw [h.spaceDraw, if_pos rfl]
  · have hsum : ((List.range 16).map (Machine.spaceDraw s)).sum = (List.range 16).count n • Machine.spaceDraw s n :=
      List.sum_map_eq_nsmul_single n _ fun m hm _ => by rw [h.spaceDraw, if_neg hm]
    rw [List.sum_eq_foldl, List.count_eq_one_of_mem List.nodup_range (List.mem_range.2 h.live.lt), one_nsmul, h.spaceDraw,
      if_pos rfl] at hsum
    exact hsum

theorem exceeds : purseOver s n = decide (allowanceMw s n < estimateAt s c c.point) := by rw [purseOver, h.purseDraw]

theorem engines : purseEngines s n = [e] :=
  range_filter_one h.engine fun m _ => by
    simpa [h.cmds, samePurse, h.space, h.running, h.named] using (eq_comm : e = m ↔ m = e)

/-- A change of the point: the island runs at it. -/
theorem repoint_eq (f : Nat → Nat) : repoint s e f = { s with
    sp := { s.sp with cmds := [atPoint c (f c.point)] }
    gaf := { s.gaf with islands := modAt s.gaf.islands e (grantTo s.gaf (f c.point)) } } := by
  have hmove : (if cmdRunning c && engineNamed c = some e && f c.point ≠ c.point then { c with point := f c.point, lower := 0 } else c) =
      atPoint c (f c.point) := by
    by_cases hpoint : f c.point = c.point
    · simp [hpoint, atPoint]
    · simp [h.running, h.named, hpoint, atPoint]
  unfold repoint
  dsimp only
  rw [h.cmds, List.map_singleton, hmove]
  exact islandRefresh_one (s := { s with sp := { s.sp with cmds := [atPoint c (f c.point)] } }) rfl h.running h.named

theorem repoint_work (f : Nat → Nat) : RetuneWork s (repoint s e f) := by
  rw [h.repoint_eq f]
  exact ⟨_, _, s.freeCtr, rfl⟩

theorem of_repoint (f : Nat → Nat) (hf : f c.point ≤ 7) : OneRuns (repoint s e f) n e (atPoint c (f c.point)) := by
  have hisland : e < s.gaf.islands.length := by
    have := h.islands
    have := h.engine
    omega
  have hwork := h.repoint_work f
  rw [h.repoint_eq f] at hwork ⊢
  exact {
    live := hwork.live h.live
    cmds := rfl
    space := h.space
    phase := h.phase
    point := hf
    named := h.named
    onEngine := h.onEngine
    islands := (modAt_length _ _ _).trans h.islands
    granted := congrArg Island.granted (modAt_getD (grantTo s.gaf (f c.point)) {} hisland)
    free := (modAt_getD_same s.gaf.islands e e (grantTo s.gaf (f c.point)) {} Island.held fun _ _ => rfl).trans h.free
    rush := h.rush }

end

end OneRuns

/-- The estimate at point 0 is the least. -/
theorem estimateAt_zero_le (s : State) (c : Cmd) (k : Nat) : estimateAt s c 0 ≤ estimateAt s c k := by
  have hpower : relPower 0 ≤ relPower k := by
    rcases Nat.lt_or_ge k 8 with hk | hk
    · revert k
      decide
    · rw [relPower, relPower, List.getD_eq_default [280, 350, 430, 520, 630, 820, 1000, 1170] _ hk]
      decide
  unfold estimateAt
  split
  · exact Nat.div_le_div_right (Nat.mul_le_mul_left _ hpower)
  · exact Nat.le_refl _

/-! ### Lowered -/

/-- The lowering stops at the first point that fits, or at point 0. -/
theorem retuneLower_stops {n e : Nat} : ∀ (fuel : Nat) {s : State} {c : Cmd}, OneRuns s n e c → c.point ≤ fuel →
    ∃ j l, OneRuns (retuneLower fuel n s) n e { c with point := j, lower := l } ∧ RetuneWork s (retuneLower fuel n s) ∧ j ≤ c.point ∧
      (estimateAt s c j ≤ allowanceMw s n ∨ j = 0) ∧ (j = c.point ∨ allowanceMw s n < estimateAt s c (j + 1))
  | 0, s, c, h, hfuel => ⟨c.point, c.lower, h, .refl s, Nat.le_refl _, .inr (Nat.le_zero.1 hfuel), .inl rfl⟩
  | fuel + 1, s, c, h, hfuel => by
    rw [retuneLower, h.exceeds]
    split
    · next hover =>
      replace hover := of_decide_eq_true hover
      rw [h.engines, shuffle_one, sortBy_one]
      dsimp only
      rw [h.granted]
      split
      · next hzero => exact ⟨c.point, c.lower, h, .refl s, Nat.le_refl _, .inr hzero, .inl rfl⟩
      · next hpos =>
        have hpoint : min c.point (c.point - 1) = c.point - 1 := Nat.min_eq_right (Nat.sub_le _ _)
        have hdown := h.of_repoint (fun k => min k (c.point - 1)) (by have := h.point; omega)
        have hwork := h.repoint_work fun k => min k (c.point - 1)
        rw [hpoint] at hdown
        obtain ⟨j, l, hruns, hrest, hj, hfits, habove⟩ := retuneLower_stops fuel (hdown.of_freeUse 64) (by dsimp only [atPoint]; omega)
        have hgaffer := hwork.gaffer
        have hallow : allowanceMw (freeUse (repoint s e fun k => min k (c.point - 1)) 64) n = allowanceMw s n := hgaffer.allowance n
        have hest : ∀ k, estimateAt (freeUse (repoint s e fun k => min k (c.point - 1)) 64) (atPoint c (c.point - 1)) k =
          estimateAt s c k := fun k => hgaffer.estimate c k
        rw [hallow, hest] at hfits
        rw [hallow, hest] at habove
        refine ⟨j, l, hruns, (hwork.trans ⟨_, _, _, rfl⟩).trans hrest, Nat.le_trans hj (Nat.sub_le _ _), hfits, .inr ?_⟩
        rcases habove with rfl | habove
        · rwa [show (atPoint c (c.point - 1)).point + 1 = c.point from Nat.sub_add_cancel (Nat.pos_of_ne_zero hpos)]
        · exact habove
    · next hfits => exact ⟨c.point, c.lower, h, .refl s, Nat.le_refl _, .inl (by simpa using hfits), .inl rfl⟩

/-! ### One space retuned -/

section Retune

variable {s : State} {n e : Nat} {c : Cmd}

/-- An island lowered until the command fits. -/
theorem retuneSpace_lowers (h : OneRuns s n e c) (hleast : estimateAt s c 0 ≤ allowanceMw s n)
    (hover : allowanceMw s n < estimateAt s c c.point) :
    ∃ j l, OneRuns (retuneSpace n s) n e { c with point := j, lower := l } ∧ RetuneWork s (retuneSpace n s) ∧ j < c.point ∧
      estimateAt s c j ≤ allowanceMw s n ∧ allowanceMw s n < estimateAt s c (j + 1) := by
  obtain ⟨j, l, hruns, hwork, hj, hfits, habove⟩ := retuneLower_stops 512 h (by have := h.point; omega)
  replace hfits : estimateAt s c j ≤ allowanceMw s n := hfits.elim id fun hzero => hzero ▸ hleast
  have hne : j ≠ c.point := fun hj => by
    rw [hj] at hfits
    omega
  have hdone : purseOver (freeUse (retuneLower 512 n s) 64) n = false := by
    rw [(hruns.of_freeUse 64).exceeds]
    refine decide_eq_false (Nat.not_lt.2 ?_)
    show estimateAt (retuneLower 512 n s) _ j ≤ allowanceMw (retuneLower 512 n s) n
    rw [hwork.gaffer.allowance]
    exact (hwork.gaffer.estimate c j).le.trans hfits
  have hspace : retuneSpace n s = freeUse (retuneLower 512 n s) 64 := by
    rw [retuneSpace, if_pos (by rw [h.exceeds]; exact decide_eq_true hover)]
    dsimp only
    rw [hruns.engines, shuffle_one, retuneHold, hdone]
    rfl
  rw [hspace]
  exact ⟨j, l, hruns.of_freeUse 64, hwork.trans ⟨_, _, _, rfl⟩, by omega, hfits, habove.resolve_left hne⟩

/-- An island held, where the command does not fit even at point 0. -/
theorem retuneSpace_holds (h : OneRuns s n e c) (hover : allowanceMw s n < estimateAt s c 0) :
    ∃ l, (retuneSpace n s).sp.cmds = [{ c with point := 0, lower := l }] ∧ RetuneWork s (retuneSpace n s) ∧
      ((retuneSpace n s).gaf.islands.getD e {}).held = true ∧ grantedOf (retuneSpace n s) e = 0 := by
  obtain ⟨j, l, hruns, hwork, hj, hfits, habove⟩ := retuneLower_stops 512 h (by have := h.point; omega)
  obtain rfl : j = 0 := by
    refine hfits.resolve_left fun hfits => ?_
    have := estimateAt_zero_le s c j
    omega
  have hdone : purseOver (freeUse (retuneLower 512 n s) 64) n = true := by
    rw [(hruns.of_freeUse 64).exceeds]
    refine decide_eq_true ?_
    show allowanceMw (retuneLower 512 n s) n < estimateAt (retuneLower 512 n s) _ 0
    rw [hwork.gaffer.allowance]
    exact hover.trans_eq (hwork.gaffer.estimate c 0).symm
  have hspace : retuneSpace n s = setHeld (freeUse (retuneLower 512 n s) 64) e true := by
    have := estimateAt_zero_le s c c.point
    rw [retuneSpace, if_pos (by rw [h.exceeds]; exact decide_eq_true (by omega))]
    dsimp only
    rw [hruns.engines, shuffle_one, retuneHold, hdone]
    rfl
  have hisland : e < (retuneLower 512 n s).gaf.islands.length := by
    have := hruns.islands
    have := h.engine
    omega
  rw [hspace]
  refine ⟨l, hruns.cmds, hwork.trans ⟨_, _, _, rfl⟩, ?_, ?_⟩
  · exact congrArg Island.held (modAt_getD (fun x : Island => { x with held := true }) {} hisland)
  · exact (modAt_getD_same (retuneLower 512 n s).gaf.islands e e (fun x : Island => { x with held := true }) {} Island.granted
      fun _ _ => rfl).trans hruns.granted

theorem islandLimit_le (s : State) (e : Nat) (vec : Bool) : islandLimit s e vec ≤ 7 := by
  have htop : ∀ b : Bool, (if b then 7 else 6) ≤ 7 := by decide
  unfold islandLimit
  dsimp only
  split
  · exact Nat.zero_le 7
  · split
    · exact (Nat.sub_le _ _).trans ((Nat.min_le_right _ _).trans (htop _))
    · exact (Nat.min_le_right _ _).trans (htop _)

/-- Whether a raise of the island to a point exceeds the allowance. -/
theorem purseOver_raised (h : OneRuns s n e c) {k : Nat} (hlo : c.point ≤ k) (hhi : k ≤ 7) :
    purseOver (repoint s e (max k)) n = decide (allowanceMw s n < estimateAt s c k) := by
  have hmax : max k c.point = k := Nat.max_eq_left hlo
  have hraised := h.of_repoint (max k) (hmax.trans_le hhi)
  have hwork := (h.repoint_work (max k)).gaffer
  rw [hraised.exceeds, hwork.allowance, hwork.estimate, hmax]
  rfl

/-- Where the draw fits, the retune comes to one raise. -/
theorem retuneSpace_fits (h : OneRuns s n e c) (hfits : estimateAt s c c.point ≤ allowanceMw s n) :
    retuneSpace n s = retuneRaise n e (freeUse s 64) := by
  have hengines : ((List.range 64).filter fun m => s.sp.cmds.any fun c => c.space == n && cmdRunning c && engineNamed c == some m) = [e] :=
    range_filter_one h.engine fun m _ => by simpa [h.cmds, h.space, h.running, h.named] using (eq_comm : e = m ↔ m = e)
  have hheld : ((freeUse s 64).gaf.islands.getD e {}).held = false := h.free
  rw [retuneSpace, if_neg (by rw [h.exceeds]; simpa using hfits)]
  dsimp only
  rw [hengines, shuffle_one, retuneFree, hheld]
  rfl

/-- An island raised to the highest point within its limit that fits; it stays where none is higher. -/
theorem retuneRaise_raises (h : OneRuns s n e c) (hfits : estimateAt s c c.point ≤ allowanceMw s n) :
    ∃ k l, OneRuns (retuneRaise n e s) n e { c with point := k, lower := l } ∧ RetuneWork s (retuneRaise n e s) ∧ c.point ≤ k ∧
      (k = c.point ∨ k ≤ islandLimit s e (onVector c.opcode)) ∧ estimateAt s c k ≤ allowanceMw s n ∧
      ∀ j, k < j → j ≤ islandLimit s e (onVector c.opcode) → allowanceMw s n < estimateAt s c j := by
  have hvec : (s.sp.cmds.all fun d => !(cmdRunning d && engineNamed d == some e) || onVector d.opcode) = onVector c.opcode := by
    simp [h.cmds, h.running, h.named]
  have hle := islandLimit_le s e (onVector c.opcode)
  have hpass : ∀ j, c.point < j → j ≤ islandLimit s e (onVector c.opcode) →
      (decide (grantedOf s e < j) && !(purseOver (repoint s e (max j)) n)) = decide (estimateAt s c j ≤ allowanceMw s n) := fun j hlo hhi => by
    rw [h.granted, purseOver_raised h hlo.le (hhi.trans hle), decide_eq_true hlo, Bool.true_and, ← decide_not]
    exact decide_eq_decide.2 Nat.not_lt
  unfold retuneRaise
  dsimp only
  rw [hvec, h.free, if_neg Bool.false_ne_true]
  split
  · next k hk =>
    obtain ⟨hhi, hp, habove⟩ := highest_some.1 hk
    have hlo : c.point < k := by
      rw [Bool.and_eq_true, h.granted] at hp
      exact of_decide_eq_true hp.1
    have hmax : max k c.point = k := Nat.max_eq_left hlo.le
    have hraised := h.of_repoint (max k) (hmax.trans_le (hhi.trans hle))
    rw [hmax] at hraised
    rw [hpass k hlo hhi] at hp
    refine ⟨k, _, hraised, h.repoint_work (max k), hlo.le, .inr hhi, of_decide_eq_true hp, fun j hj hjtop => ?_⟩
    have hj' := habove j hj hjtop
    rw [hpass j (hlo.trans hj) hjtop] at hj'
    exact Nat.not_le.1 (of_decide_eq_false hj')
  · next hnone =>
    refine ⟨c.point, c.lower, h, .refl s, Nat.le_refl _, .inl rfl, hfits, fun j hj hjtop => ?_⟩
    have hj' := highest_none.1 hnone j hjtop
    rw [hpass j hj hjtop] at hj'
    exact Nat.not_le.1 (of_decide_eq_false hj')

end Retune

end Sys2Proof.Machine
end

section
/-! CLAIMS. RETUNE (R420, R425). -/

namespace Sys2Proof.Machine

/-! ### Without a live space -/

theorem spaceOrder_none {s : State} (h : ∀ n, n < 16 → (spaceGet s n).state ≠ 1) : spaceOrder s = [] := by
  have hnone : ((List.range 16).filter fun n => (spaceGet s n).state == 1) = [] :=
    List.filter_eq_nil_iff.2 fun n hn => by simpa using h n (List.mem_range.1 hn)
  rw [spaceOrder, hnone]
  rfl

/-- What a retune has measured, the idle islands let go. -/
def measured (s : State) (m : Measured) : State := freeIdle (takeMeasured s m)

theorem HoldWork.sp {s t : State} (h : HoldWork s t) : t.sp = s.sp := by
  obtain ⟨_, rfl⟩ := h.change
  rfl

theorem measured_state (s : State) (m : Measured) {n : Nat} (hn : n < 16) : (spaceGet (measured s m) n).state = (spaceGet s n).state := by
  rw [spaceGet, measured, (freeIdle_hold _).sp]
  exact (takeMeasured_work m s).states n hn

theorem freeUse_zero (s : State) : freeUse s 0 = s := rfl

theorem exec_retune (s : State) (m : Measured) : exec (.retune m) s = .next
    ((spaceOrder (measured s m)).foldl (fun u n => retuneSpace n u) (freeUse (measured s m) (16 * (spaceOrder (measured s m)).length))) :=
  rfl

theorem exec_retune_none {s : State} {m : Measured} (h : ∀ n, n < 16 → (spaceGet s n).state ≠ 1) :
    exec (.retune m) s = .next (freeIdle (takeMeasured s m)) := by
  rw [exec_retune, spaceOrder_none fun n hn => by rw [measured_state s m hn]; exact h n hn, List.foldl_nil, List.length_nil, Nat.mul_zero,
    freeUse_zero, measured]

/-- Before READY a retune reads the standby sensors alone (R27). -/
theorem exec_retune_unready {s : State} {m : Measured} (hready : s.power.ready = false) (h : ∀ n, n < 16 → (spaceGet s n).state ≠ 1) :
    exec (.retune m) s = .next (freeIdle { s with gaf := { s.gaf with
      mainMv := m.mainMv % 2 ^ 16, stbyMv := m.stbyMv % 2 ^ 16, boardDc := m.boardDc } }) := by
  rw [exec_retune_none h, takeMeasured_unready m hready]

/-! ### With one command -/

section One

variable {s : State} {n e : Nat} {c : Cmd}

theorem HoldWork.gaffer {s t : State} (h : HoldWork s t) : GafferWork s t := by
  obtain ⟨_, rfl⟩ := h.change
  exact ⟨rfl, rfl, rfl, rfl, rfl, rfl, rfl, rfl⟩

theorem HoldWork.mem {s t : State} (h : HoldWork s t) : t.mem = s.mem := by
  obtain ⟨_, rfl⟩ := h.change
  rfl

/-- The one command that runs before the measurements runs after them, some energy charged to it. -/
theorem OneRuns.of_measured {t : State} {m : Measured} (h : OneRuns s n e c) (hwork : MeasureWork m s t) :
    ∃ pj, OneRuns t n e { c with pj := pj } := by
  obtain ⟨pj, hpj⟩ := hwork.charged
  obtain ⟨hlength, hisland⟩ := hwork.islands h.islands
  obtain ⟨hgranted, hheld⟩ := hisland e
  exact ⟨pj c, {
    live := ⟨h.live.lt, fun k hk => by rw [hwork.states k hk]; exact h.live.live k hk⟩
    cmds := by rw [hpj, h.cmds, List.map_singleton]
    space := h.space
    phase := h.phase
    point := h.point
    named := h.named
    onEngine := h.onEngine
    islands := hlength
    granted := hgranted.trans h.granted
    free := hheld.trans h.free
    rush := hwork.gaffer.rush.trans h.rush }⟩

/-- Its island is not idle, and is left as it is. -/
theorem OneRuns.of_hold {t : State} (h : OneRuns s n e c) (hhold : HoldWork s t) : OneRuns t n e c := by
  have hlowest : lowestGrant s e ≠ none := by
    rw [lowestGrant_one h.cmds h.running h.named]
    exact Option.some_ne_none _
  have hsp := hhold.sp
  exact {
    live := ⟨h.live.lt, fun k hk => by rw [spaceGet, hsp]; exact h.live.live k hk⟩
    cmds := by rw [hsp, h.cmds]
    space := h.space
    phase := h.phase
    point := h.point
    named := h.named
    onEngine := h.onEngine
    islands := hhold.length.trans h.islands
    granted := (hhold.granted e).trans h.granted
    free := (hhold.held e hlowest).trans h.free
    rush := hhold.gaffer.rush.trans h.rush }

theorem GafferWork.use {s t : State} (h : GafferWork s t) (k : Nat) : GafferWork s (freeUse t k) :=
  ⟨h.rig, h.power, h.ctxs, h.rush, h.tiles, h.staging, h.clamp, h.overdraw⟩

theorem freeUse_mem (s : State) (k : Nat) : (freeUse s k).mem = s.mem := rfl

/-- A retune is the retune of the one live space after the measurements. -/
theorem OneRuns.retune (h : OneRuns s n e c) (m : Measured) : ∃ u pj, exec (.retune m) s = .next (retuneSpace n u) ∧
    OneRuns u n e { c with pj := pj } ∧ GafferWork s u ∧ (m.mergeErr = [] → u.mem.cells = s.mem.cells) := by
  have hwork := takeMeasured_work m s
  have hhold := freeIdle_hold (takeMeasured s m)
  obtain ⟨pj, hcharged⟩ := h.of_measured hwork
  have hruns : OneRuns (measured s m) n e { c with pj := pj } := hcharged.of_hold hhold
  refine ⟨freeUse (measured s m) 16, pj, ?_, hruns.of_freeUse 16, (hwork.gaffer.trans hhold.gaffer).use 16, fun hm => ?_⟩
  · rw [exec_retune, hruns.live.order, List.foldl_cons, List.foldl_nil, List.length_singleton, Nat.mul_one]
  · rw [freeUse_mem, measured, hhold.mem]
    exact hwork.cells hm

/-- An estimate does not depend on what has been charged. -/
theorem estimateAt_pj (s : State) (c : Cmd) (pj k : Nat) : estimateAt s { c with pj := pj } k = estimateAt s c k := rfl

/-- The limit of the one command's island does not depend on what has been charged. -/
theorem OneRuns.limit {t : State} {pj : Nat} (h : OneRuns s n e c) (k : OneRuns t n e { c with pj := pj }) (hwork : GafferWork s t)
    (vec : Bool) : islandLimit t e vec = islandLimit s e vec := by
  simp only [islandLimit, refEngine, h.cmds, k.cmds, hwork.rig, hwork.rush, hwork.clamp, hwork.overdraw]
  rfl

theorem exec_retune_lowers (h : OneRuns s n e c) (m : Measured) (hleast : estimateAt s c 0 ≤ allowanceMw s n)
    (hover : allowanceMw s n < estimateAt s c c.point) :
    ∃ t j d, exec (.retune m) s = .next t ∧ j < c.point ∧ cmdGet t c.id = some d ∧ d = { c with point := j, lower := d.lower, pj := d.pj } ∧
      estimateAt s c j ≤ allowanceMw s n ∧ allowanceMw s n < estimateAt s c (j + 1) ∧ (t.gaf.islands.getD e {}).granted = j ∧
      (t.gaf.islands.getD e {}).held = false ∧ (m.mergeErr = [] → t.mem.cells = s.mem.cells) ∧ t.array.tiles = s.array.tiles ∧
      t.array.staging = s.array.staging := by
  obtain ⟨u, pj, hexec, hruns, hgaffer, hcells⟩ := h.retune m
  have hest : ∀ k, estimateAt u { c with pj := pj } k = estimateAt s c k := fun k => (estimateAt_pj u c pj k).trans (hgaffer.estimate c k)
  obtain ⟨j, l, hdone, hwork, hj, hfits, habove⟩ := retuneSpace_lowers hruns
    (by rw [hest, hgaffer.allowance]; exact hleast) (by rw [hest, hgaffer.allowance]; exact hover)
  rw [hest, hgaffer.allowance] at hfits habove
  exact ⟨_, j, _, hexec, hj, hdone.get, rfl, hfits, habove, hdone.granted, hdone.free,
    fun hm => (congrArg Mem.cells hwork.mem).trans (hcells hm), hwork.gaffer.tiles.trans hgaffer.tiles,
    hwork.gaffer.staging.trans hgaffer.staging⟩

theorem exec_retune_holds (h : OneRuns s n e c) (m : Measured) (hover : allowanceMw s n < estimateAt s c 0) :
    ∃ t d, exec (.retune m) s = .next t ∧ cmdGet t c.id = some d ∧ d = { c with point := 0, lower := d.lower, pj := d.pj } ∧
      (t.gaf.islands.getD e {}).held = true ∧ (t.gaf.islands.getD e {}).granted = 0 ∧ (m.mergeErr = [] → t.mem.cells = s.mem.cells) ∧
      t.array.tiles = s.array.tiles ∧ t.array.staging = s.array.staging := by
  obtain ⟨u, pj, hexec, hruns, hgaffer, hcells⟩ := h.retune m
  have hest : estimateAt u { c with pj := pj } 0 = estimateAt s c 0 := (estimateAt_pj u c pj 0).trans (hgaffer.estimate c 0)
  obtain ⟨l, hdone, hwork, hheld, hgranted⟩ := retuneSpace_holds hruns (by rw [hest, hgaffer.allowance]; exact hover)
  refine ⟨_, { c with pj := pj, point := 0, lower := l }, hexec, ?_, rfl, hheld, hgranted,
    fun hm => (congrArg Mem.cells hwork.mem).trans (hcells hm), hwork.gaffer.tiles.trans hgaffer.tiles,
    hwork.gaffer.staging.trans hgaffer.staging⟩
  rw [cmdGet, hdone]
  simp

theorem exec_retune_raises (h : OneRuns s n e c) (m : Measured) (hfits : estimateAt s c c.point ≤ allowanceMw s n) :
    ∃ t k d, exec (.retune m) s = .next t ∧ cmdGet t c.id = some d ∧ d = { c with point := k, lower := d.lower, pj := d.pj } ∧ c.point ≤ k ∧
      (k = c.point ∨ k ≤ islandLimit s e (onVector c.opcode)) ∧ estimateAt s c k ≤ allowanceMw s n ∧
      (∀ j, k < j → j ≤ islandLimit s e (onVector c.opcode) → allowanceMw s n < estimateAt s c j) ∧ (t.gaf.islands.getD e {}).held = false ∧
      (m.mergeErr = [] → t.mem.cells = s.mem.cells) ∧ t.array.tiles = s.array.tiles ∧ t.array.staging = s.array.staging := by
  obtain ⟨u, pj, hexec, hruns, hgaffer, hcells⟩ := h.retune m
  have hest : ∀ k, estimateAt u { c with pj := pj } k = estimateAt s c k := fun k => (estimateAt_pj u c pj k).trans (hgaffer.estimate c k)
  have hfits' : estimateAt u { c with pj := pj } c.point ≤ allowanceMw u n := by
    rw [hest, hgaffer.allowance]
    exact hfits
  have hspace := retuneSpace_fits hruns hfits'
  obtain ⟨k, l, hdone, hwork, hk, hlimit, hkfits, habove⟩ := retuneRaise_raises (hruns.of_freeUse 64) hfits'
  replace hlimit : k = c.point ∨ k ≤ islandLimit u e (onVector c.opcode) := hlimit
  replace hkfits : estimateAt u { c with pj := pj } k ≤ allowanceMw u n := hkfits
  replace habove : ∀ j, k < j → j ≤ islandLimit u e (onVector c.opcode) →
    allowanceMw u n < estimateAt u { c with pj := pj } j := habove
  rw [h.limit hruns hgaffer] at hlimit habove
  rw [hest, hgaffer.allowance] at hkfits
  rw [← hspace] at hdone hwork
  refine ⟨_, k, _, hexec, hdone.get, rfl, hk, hlimit, hkfits, fun j hj hjtop => ?_, hdone.free,
    fun hm => (congrArg Mem.cells hwork.mem).trans (hcells hm), hwork.gaffer.tiles.trans hgaffer.tiles,
    hwork.gaffer.staging.trans hgaffer.staging⟩
  have hj' := habove j hj hjtop
  rwa [hest, hgaffer.allowance] at hj'

end One

end Sys2Proof.Machine
end

section
/-! SUPPORT. Residency at a slice end (R429): contexts change by what is done to their entries, and what waits longest comes in first. -/

namespace Sys2Proof.Machine

/-! ### Sorting -/

theorem sortIn_eq {α : Type} (le : α → α → Bool) (x : α) : ∀ l : List α, sortIn le x l = l.orderedInsert (fun a b => le a b = true) x
  | [] => rfl
  | y :: l => by
    rw [sortIn, List.orderedInsert, sortIn_eq le x l]

/-- The model's sort is the library's insertion sort. -/
theorem sortBy_eq {α : Type} (le : α → α → Bool) (l : List α) : sortBy le l = l.insertionSort fun a b => le a b = true := by
  induction l with
  | nil => rfl
  | cons x l ih =>
    rw [List.insertionSort_cons, ← ih, ← sortIn_eq]
    rfl

theorem sortBy_perm {α : Type} (le : α → α → Bool) (l : List α) : (sortBy le l).Perm l := by
  rw [sortBy_eq]
  exact List.perm_insertionSort _ l

theorem shuffle_perm {α : Type} (s : State) (f : α → Nat) (l : List α) : (shuffle s f l).Perm l := sortBy_perm _ l

/-- Contexts sorted by age, the longest waiting first. -/
theorem sortBy_age (l : List Ctx) : (sortBy (fun (a b : Ctx) => decide (b.age ≤ a.age)) l).Pairwise fun a b => b.age ≤ a.age := by
  have htotal : Std.Total fun (a b : Ctx) => decide (b.age ≤ a.age) = true := ⟨fun a b => by
    simpa using Nat.le_total b.age a.age⟩
  have htrans : IsTrans Ctx fun a b => decide (b.age ≤ a.age) = true := ⟨fun a b c hab hbc => by
    simp only [decide_eq_true_eq] at *
    omega⟩
  rw [sortBy_eq]
  exact (List.pairwise_insertionSort _ l).imp fun h => of_decide_eq_true h

/-- Of a list sorted by age the first `k` hold each element for which there are no `k` others as old. -/
theorem mem_take_of_age {l : List Ctx} {x : Ctx} {k : Nat} (hsorted : l.Pairwise fun a b => b.age ≤ a.age) (hx : x ∈ l)
    (hcount : l.countP (fun y => decide (x.age ≤ y.age)) ≤ k) : x ∈ l.take k := by
  by_contra hout
  rw [← List.take_append_drop k l, List.mem_append] at hx
  have hdrop := hx.resolve_left hout
  rw [← List.take_append_drop k l, List.pairwise_append] at hsorted
  obtain ⟨-, -, hbefore⟩ := hsorted
  have hlength : k < l.length := by
    by_contra hge
    rw [List.drop_eq_nil_of_le (Nat.le_of_not_lt hge)] at hdrop
    cases hdrop
  have htake : (l.take k).countP (fun y => decide (x.age ≤ y.age)) = k := by
    rw [List.countP_eq_length.2 fun y hy => decide_eq_true (hbefore y hy x hdrop), List.length_take, Nat.min_eq_left hlength.le]
  have hpos : 0 < (l.drop k).countP (fun y => decide (x.age ≤ y.age)) :=
    List.countP_pos_iff.2 ⟨x, hdrop, decide_eq_true (Nat.le_refl _)⟩
  rw [← List.take_append_drop k l, List.countP_append, htake] at hcount
  omega

/-! ### Entries changed one after another -/

/-- A change of the contexts that a list names: each that it names is changed once. -/
def ctxsMod (s : State) (l : List Ctx) (f : Ctx → Ctx) : State :=
  { s with sp := { s.sp with ctxs := s.sp.ctxs.map fun y => if y.id ∈ l.map (·.id) then f y else y } }

theorem foldl_ctxMod {f : Ctx → Ctx} (hid : ∀ y, (f y).id = y.id) (hagain : ∀ y, f (f y) = f y) : ∀ (l : List Ctx) (s : State),
    l.foldl (fun t x => { t with sp := ctxMod t.sp x.id f }) s = ctxsMod s l f
  | [], s => by simp [ctxsMod]
  | x :: l, s => by
    rw [List.foldl_cons, foldl_ctxMod hid hagain l]
    have hmap : (ctxMod s.sp x.id f).ctxs.map (fun y => if y.id ∈ l.map (·.id) then f y else y) =
        s.sp.ctxs.map fun y => if y.id ∈ (x :: l).map (·.id) then f y else y := by
      rw [ctxMod, List.map_map]
      refine List.map_congr_left fun y _ => ?_
      have hmem : y.id ∈ (x :: l).map (·.id) ↔ y.id = x.id ∨ y.id ∈ l.map (·.id) := List.mem_cons
      by_cases hy : y.id = x.id
      · rw [Function.comp_apply, if_pos hy, if_pos (hmem.2 (.inl hy)), hid, hagain]
        exact ite_self _
      · rw [Function.comp_apply, if_neg hy]
        exact if_congr (by rw [hmem, or_iff_right hy]) rfl rfl
    unfold ctxsMod
    rw [← hmap]
    rfl

section Mod

variable {s : State} {l : List Ctx} {f : Ctx → Ctx}

/-- A context that is not named is as it was. -/
theorem mem_ctxsMod_other {x : Ctx} (hx : x ∈ s.sp.ctxs) (hout : x.id ∉ l.map (·.id)) : x ∈ (ctxsMod s l f).sp.ctxs :=
  List.mem_map.2 ⟨x, hx, if_neg hout⟩

theorem ctxsMod_ids (hid : ∀ y, (f y).id = y.id) : (ctxsMod s l f).sp.ctxs.map (·.id) = s.sp.ctxs.map (·.id) := by
  rw [ctxsMod, List.map_map]
  refine List.map_congr_left fun y _ => ?_
  rw [Function.comp_apply]
  split
  · exact hid y
  · rfl

/-- How many contexts pass a test after a change that makes those named pass it no more. -/
theorem ctxsMod_countP {p : Ctx → Bool} (hf : ∀ y, p (f y) = false) :
    (ctxsMod s l f).sp.ctxs.countP p = s.sp.ctxs.countP fun y => p y && decide (y.id ∉ l.map (·.id)) := by
  rw [ctxsMod, List.countP_map]
  refine List.countP_congr fun y _ => ?_
  rw [Function.comp_apply]
  split
  · next hy => simp [hf, hy]
  · next hy => simp [hy]

end Mod

/-- Of a list that holds the named ones first, as many as are named fail the test of not being named. -/
theorem countP_unnamed (l r : List Ctx) : (l ++ r).countP (fun y => decide (y.id ∉ l.map (·.id))) ≤ r.length := by
  have hnone : l.countP (fun y => decide (y.id ∉ l.map (·.id))) = 0 :=
    List.countP_eq_zero.2 fun y hy => by simpa using ⟨y, hy, rfl⟩
  rw [List.countP_append, hnone, Nat.zero_add]
  exact List.countP_le_length

end Sys2Proof.Machine
end

section
/-! SUPPORT. What a slice end does to residency (R429, log entry 91). -/

namespace Sys2Proof.Machine

/-- A context that has left residency. -/
def leftEntry (y : Ctx) : Ctx := { y with resident := false, leaving := false, age := 0 }

/-- A context that has come into residency. -/
def residentEntry (y : Ctx) : Ctx := { y with resident := true, age := 0 }

theorem leaveIdle_eq (s : State) (n : Nat) : ∃ l k, leaveIdle s n = ctxsMod (freeUse s k) l leftEntry ∧
    ∀ x ∈ l, x ∈ s.sp.ctxs ∧ x.resident = true ∧ ctxRunnable s x = false := by
  refine ⟨_, _, foldl_ctxMod (f := leftEntry) (fun _ => rfl) (fun _ => rfl) _ _, fun x hx => ?_⟩
  have hsorted := List.mem_of_mem_take hx
  rw [(sortBy_perm _ _).mem_iff, (shuffle_perm _ _ _).mem_iff, List.mem_filter, Bool.and_eq_true, Bool.not_eq_true'] at hsorted
  exact hsorted

/-- Of the state the contexts alone have changed, and free values have been used. -/
def ResidencyWork (s t : State) : Prop := ∃ ctxs k, t = { s with sp := { s.sp with ctxs := ctxs }, freeCtr := k }

theorem ResidencyWork.trans {s t u : State} (h : ResidencyWork s t) (k : ResidencyWork t u) : ResidencyWork s u := by
  obtain ⟨_, _, rfl⟩ := h
  obtain ⟨_, _, rfl⟩ := k
  exact ⟨_, _, rfl⟩

/-- The contexts that wait for residency, the longest waiting first. -/
def waitOrder (s : State) : List Ctx := sortBy (fun (a b : Ctx) => decide (b.age ≤ a.age))
  (shuffle s (·.id) (s.sp.ctxs.filter fun x => !x.resident && ctxRunnable s x))

theorem freeUse_freeUse (s : State) (j k : Nat) : freeUse (freeUse s j) k = freeUse s (j + k) := by simp [freeUse, Nat.add_assoc]

/-- The places are filled in the order of waiting, once idle residents have made more of them. -/
theorem residencyFill_eq (s : State) : ∃ l k, residencyFill s = ctxsMod (ctxsMod (freeUse s k) l leftEntry)
      ((waitOrder s).take (64 - residentCount (ctxsMod (freeUse s k) l leftEntry))) residentEntry ∧
    ∀ x ∈ l, x ∈ s.sp.ctxs ∧ x.resident = true ∧ ctxRunnable s x = false := by
  obtain ⟨l, k, hidle, hl⟩ := leaveIdle_eq (freeUse s (4096 * (waitOrder s).length)) ((waitOrder s).length - (64 - residentCount s))
  rw [freeUse_freeUse] at hidle
  refine ⟨l, 4096 * (waitOrder s).length + k, ?_, hl⟩
  rw [← hidle]
  exact foldl_ctxMod (f := residentEntry) (fun _ => rfl) (fun _ => rfl) _ _

theorem residencyFill_work (s : State) : ResidencyWork s (residencyFill s) := by
  obtain ⟨l, k, hfill, -⟩ := residencyFill_eq s
  rw [hfill]
  exact ⟨_, _, rfl⟩

/-- A context comes in where the free places are enough for those that have waited as long. -/
theorem residencyFill_admits {s : State} {x : Ctx} (hids : (s.sp.ctxs.map (·.id)).Nodup) (hx : x ∈ s.sp.ctxs) (hout : x.resident = false)
    (hrun : ctxRunnable s x = true) (hplaces : (s.sp.ctxs.countP fun y => decide (x.age ≤ y.age) && (!y.resident && ctxRunnable s y)) ≤
      64 - residentCount s) : ∃ y ∈ (residencyFill s).sp.ctxs, y.id = x.id ∧ y.resident = true := by
  obtain ⟨l, k, hfill, hl⟩ := residencyFill_eq s
  have hstays : x ∈ (ctxsMod (freeUse s k) l leftEntry).sp.ctxs := mem_ctxsMod_other hx fun hin => by
    obtain ⟨y, hy, hid⟩ := List.mem_map.1 hin
    obtain ⟨hmem, hresident, -⟩ := hl y hy
    rw [List.inj_on_of_nodup_map hids hmem hx hid, hout] at hresident
    cases hresident
  have hfewer : residentCount (ctxsMod (freeUse s k) l leftEntry) ≤ residentCount s := by
    rw [residentCount, residentCount, ← List.countP_eq_length_filter, ← List.countP_eq_length_filter, ctxsMod_countP fun _ => rfl]
    exact List.countP_mono_left fun y _ hy => (Bool.and_eq_true_iff.1 hy).1
  have hwaits : x ∈ waitOrder s := by
    rw [waitOrder, (sortBy_perm _ _).mem_iff, (shuffle_perm _ _ _).mem_iff, List.mem_filter]
    exact ⟨hx, by simp [hout, hrun]⟩
  have hin := mem_take_of_age (k := 64 - residentCount (ctxsMod (freeUse s k) l leftEntry)) (sortBy_age _) hwaits (by
    rw [(sortBy_perm _ _).countP_eq, (shuffle_perm _ _ _).countP_eq, List.countP_filter]
    omega)
  rw [hfill]
  refine ⟨residentEntry x, List.mem_map.2 ⟨x, hstays, if_pos (List.mem_map_of_mem hin)⟩, rfl, rfl⟩

/-! ### Leaving -/

/-- A context with nothing in flight leaves at once. -/
theorem ctxLeave_quiet {s : State} (x : Ctx) (hquiet : ∀ c ∈ s.sp.cmds, cmdBusy c = false) :
    ctxLeave s x = { s with sp := ctxMod s.sp x.id leftEntry } := by
  have hnone : (s.sp.cmds.filter fun c => c.ctx == x.id && c.opcode == 0x10 && c.phase == .admitted) = [] :=
    List.filter_eq_nil_iff.2 fun c hc => by
      have hbusy := hquiet c hc
      have hphase : c.phase ≠ .admitted := fun hp => by simp [cmdBusy, hp] at hbusy
      simp [hphase]
  have hidle : (s.sp.cmds.any fun c => c.ctx == x.id && cmdBusy c) = false :=
    List.any_eq_false.2 fun c hc => by simp [hquiet c hc]
  have hstep : leaveResidency (ctxMod s.sp x.id fun y => { y with leaving := true }) x.id = ctxMod s.sp x.id leftEntry := by
    rw [leaveResidency, if_neg (by simpa [ctxMod] using hidle)]
    simp only [ctxMod, List.map_map]
    refine congrArg (fun l => { s.sp with ctxs := l }) (List.map_congr_left fun y _ => ?_)
    rw [Function.comp_apply]
    by_cases hy : y.id = x.id
    · simp [hy, leftEntry]
    · simp [hy]
  unfold ctxLeave
  rw [hnone, List.foldl_nil]
  exact congrArg (fun sp => { s with sp := sp }) hstep

theorem ctxLeaves_quiet : ∀ (l : List Ctx) {s : State}, (∀ c ∈ s.sp.cmds, cmdBusy c = false) → l.foldl ctxLeave s = ctxsMod s l leftEntry
  | l, s, hquiet => by
    have hfold : ∀ (l : List Ctx) (s : State), (∀ c ∈ s.sp.cmds, cmdBusy c = false) →
        l.foldl ctxLeave s = l.foldl (fun t x => { t with sp := ctxMod t.sp x.id leftEntry }) s := by
      intro l
      induction l with
      | nil => exact fun _ _ => rfl
      | cons x l ih =>
        intro s hquiet
        rw [List.foldl_cons, List.foldl_cons, ctxLeave_quiet x hquiet]
        exact ih _ hquiet
    rw [hfold l s hquiet]
    exact foldl_ctxMod (f := leftEntry) (fun _ => rfl) (fun _ => rfl) l s

/-! ### The slice end -/

/-- Every context has waited, or stayed, a slice longer. -/
def agedState (s : State) : State := { s with sp := { s.sp with ctxs := s.sp.ctxs.map fun x => { x with age := x.age + 1 } } }

theorem agedState_countP (s : State) (p : Ctx → Bool) (hp : ∀ x : Ctx, p { x with age := x.age + 1 } = p x) :
    (agedState s).sp.ctxs.countP p = s.sp.ctxs.countP p := by
  rw [agedState, List.countP_map]
  exact List.countP_congr fun x _ => by rw [Function.comp_apply, hp]

theorem agedState_runnable (s : State) :
    ((agedState s).sp.ctxs.filter (ctxRunnable (agedState s))).length = (s.sp.ctxs.filter (ctxRunnable s)).length := by
  rw [← List.countP_eq_length_filter, ← List.countP_eq_length_filter]
  exact agedState_countP s (ctxRunnable s) fun _ => rfl

theorem sliceSwap_few {s : State} (h : (s.sp.ctxs.filter (ctxRunnable s)).length ≤ 64) : sliceSwap s = agedState s := by
  unfold sliceSwap
  dsimp only
  rw [if_neg]
  · rfl
  · have := agedState_runnable s
    exact Nat.not_lt.2 (this.trans_le h)

theorem sliceEngines_none {s : State} (h : isShared s = false ∨ s.rig.active.strict = true) : sliceEngines s = s := by
  rw [sliceEngines, if_neg]
  rcases h with h | h
  · simp [h]
  · simp [h]

theorem exec_sliceEnd_few {s : State} (h : isShared s = false ∨ s.rig.active.strict = true)
    (hfew : (s.sp.ctxs.filter (ctxRunnable s)).length ≤ 64) : exec .sliceEnd s = .next (agedState s) := by
  show Host.Outcome.next (sliceEngines (sliceSwap s)) = _
  rw [sliceSwap_few hfew, sliceEngines_none (s := agedState s) h]

/-! ### More runnable contexts than places -/

/-- Those that leave at a slice end: as many of the residents, in an order, as wait. -/
theorem sliceSwap_many {s : State} (hmany : 64 < (s.sp.ctxs.filter (ctxRunnable s)).length)
    (hstay : ∀ x ∈ s.sp.ctxs, x.leaving = false) (hquiet : ∀ c ∈ s.sp.cmds, cmdBusy c = false) :
    ∃ l r k, (l ++ r).Perm ((agedState s).sp.ctxs.filter (·.resident)) ∧ 
      l.length = min (min 64 (s.sp.ctxs.countP fun x => !x.resident && ctxRunnable s x)) (s.sp.ctxs.countP (·.resident)) ∧
      sliceSwap s = residencyFill (ctxsMod (freeUse (agedState s) k) l leftEntry) := by
  have hwaiting : ((agedState s).sp.ctxs.filter fun x => !x.resident && ctxRunnable (agedState s) x).length =
      s.sp.ctxs.countP fun x => !x.resident && ctxRunnable s x := by
    rw [← List.countP_eq_length_filter]
    exact agedState_countP s (fun x => !x.resident && ctxRunnable s x) fun _ => rfl
  have hresident : ((agedState s).sp.ctxs.filter fun x => x.resident && !x.leaving) = (agedState s).sp.ctxs.filter (·.resident) := by
    refine List.filter_congr fun x hx => ?_
    obtain ⟨y, hy, rfl⟩ := List.mem_map.1 hx
    simp [hstay y hy]
  have hlength : ((agedState s).sp.ctxs.filter (·.resident)).length = s.sp.ctxs.countP (·.resident) := by
    rw [← List.countP_eq_length_filter]
    exact agedState_countP s (·.resident) fun _ => rfl
  unfold sliceSwap
  extract_lets sp aged waiting flight order
  have hperm : order.Perm ((agedState s).sp.ctxs.filter (·.resident)) := by
    rw [← hresident]
    exact (sortBy_perm _ _).trans (shuffle_perm _ _ _)
  refine ⟨order.take (min 64 waiting), order.drop (min 64 waiting), 4096 * waiting, ?_, ?_, ?_⟩
  · rw [List.take_append_drop]
    exact hperm
  · rw [List.length_take, hperm.length_eq, hlength]
    exact congrArg (fun w => min (min 64 w) _) hwaiting
  · refine (if_pos (hmany.trans_eq (agedState_runnable s).symm)).trans ?_
    exact congrArg residencyFill (ctxLeaves_quiet (order.take (min 64 waiting)) (s := freeUse (agedState s) (4096 * waiting)) hquiet)

theorem exec_sliceEnd_many {s : State} (h : isShared s = false ∨ s.rig.active.strict = true)
    (hmany : 64 < (s.sp.ctxs.filter (ctxRunnable s)).length) (hids : (s.sp.ctxs.map (·.id)).Nodup)
    (hstay : ∀ x ∈ s.sp.ctxs, x.leaving = false) (hplaces : (s.sp.ctxs.filter (·.resident)).length ≤ 64)
    (hwaiting : (s.sp.ctxs.filter fun x => !x.resident && ctxRunnable s x).length ≤ 64) (hquiet : ∀ c ∈ s.sp.cmds, cmdBusy c = false) :
    ∃ t, exec .sliceEnd s = .next t ∧ t.sp.cmds = s.sp.cmds ∧ t.mem = s.mem ∧ t.array = s.array ∧
      ∀ x ∈ s.sp.ctxs, x.resident = false → ctxRunnable s x = true → ∃ y ∈ t.sp.ctxs, y.id = x.id ∧ y.resident = true := by
  obtain ⟨l, r, k, hperm, hlength, hswap⟩ := sliceSwap_many hmany hstay hquiet
  generalize hu : ctxsMod (freeUse (agedState s) k) l leftEntry = u at hswap
  have hwork : ResidencyWork s (sliceSwap s) := by
    rw [hswap]
    refine ResidencyWork.trans ?_ (residencyFill_work u)
    subst hu
    exact ⟨_, _, rfl⟩
  have hexec : exec .sliceEnd s = .next (sliceSwap s) := by
    obtain ⟨ctxs, j, ht⟩ := hwork
    show Host.Outcome.next (sliceEngines (sliceSwap s)) = _
    rw [ht]
    exact congrArg Host.Outcome.next (sliceEngines_none h)
  refine ⟨_, hexec, ?_, ?_, ?_, fun x hx hout hrun => ?_⟩
  · obtain ⟨_, _, ht⟩ := hwork
    rw [ht]
  · obtain ⟨_, _, ht⟩ := hwork
    rw [ht]
  · obtain ⟨_, _, ht⟩ := hwork
    rw [ht]
  · have hagedIds : ((agedState s).sp.ctxs.map (·.id)).Nodup := by
      rw [agedState, List.map_map]
      exact hids
    have haged : { x with age := x.age + 1 } ∈ (agedState s).sp.ctxs := List.mem_map_of_mem hx
    have hin : { x with age := x.age + 1 } ∈ u.sp.ctxs := by
      subst hu
      refine mem_ctxsMod_other (s := freeUse (agedState s) k) haged fun hnamed => ?_
      obtain ⟨y, hy, hid⟩ := List.mem_map.1 hnamed
      obtain ⟨hmem, hresident⟩ := List.mem_filter.1 (hperm.mem_iff.1 (List.mem_append_left r hy))
      rw [List.inj_on_of_nodup_map hagedIds hmem haged hid] at hresident
      exact absurd hresident (by simp [hout])
    have huIds : (u.sp.ctxs.map (·.id)).Nodup := by
      subst hu
      rw [ctxsMod_ids (f := leftEntry) fun _ => rfl]
      exact hagedIds
    have hold : (u.sp.ctxs.countP fun y => decide (x.age + 1 ≤ y.age) && (!y.resident && ctxRunnable u y)) ≤
        s.sp.ctxs.countP fun y => !y.resident && ctxRunnable s y := by
      subst hu
      show (ctxsMod (freeUse (agedState s) k) l leftEntry).sp.ctxs.countP
        (fun y => decide (x.age + 1 ≤ y.age) && (!y.resident && ctxRunnable s y)) ≤ _
      rw [ctxsMod_countP (f := leftEntry) fun y => by simp [leftEntry],
        ← agedState_countP s (fun y => !y.resident && ctxRunnable s y) fun _ => rfl]
      refine List.countP_mono_left fun y _ hy => ?_
      exact (Bool.and_eq_true_iff.1 (Bool.and_eq_true_iff.1 hy).1).2
    have hleft : residentCount u ≤ r.length := by
      subst hu
      rw [residentCount, ← List.countP_eq_length_filter, ctxsMod_countP (f := leftEntry) fun _ => rfl]
      show (agedState s).sp.ctxs.countP _ ≤ _
      simp only [Bool.and_comm (x := Ctx.resident _)]
      rw [← List.countP_filter, ← hperm.countP_eq]
      exact countP_unnamed l r
    have hall : l.length + r.length = s.sp.ctxs.countP (·.resident) := by
      rw [← List.length_append, hperm.length_eq, ← List.countP_eq_length_filter]
      exact agedState_countP s (·.resident) fun _ => rfl
    rw [← List.countP_eq_length_filter] at hplaces hwaiting
    rw [hswap]
    exact residencyFill_admits (x := { x with age := x.age + 1 }) huIds hin hout (by subst hu; exact hrun) (hold.trans (by omega))

end Sys2Proof.Machine
end

section
/-! SUPPORT. The engines of a Shared rig at a slice end, with one command (R431, log entry 135). -/

namespace Sys2Proof.Machine

/-- Of a list of steps that change nothing but for one, that one is left. -/
theorem foldl_one {σ α : Type} {f : σ → α → σ} {P : σ → Prop} {e : α} (hother : ∀ t, P t → ∀ a, a ≠ e → f t a = t) :
    ∀ (l : List α) {s : σ}, P s → P (f s e) → l.Nodup → e ∈ l → l.foldl f s = f s e
  | [], _, _, _, _, hmem => nomatch hmem
  | a :: l, s, hs, hdone, hnodup, hmem => by
    obtain ⟨hnot, hrest⟩ := List.nodup_cons.1 hnodup
    rw [List.foldl_cons]
    by_cases ha : a = e
    · subst ha
      have hnone : ∀ (l : List α) {t : σ}, P t → a ∉ l → l.foldl f t = t := by
        intro l
        induction l with
        | nil => exact fun _ _ => rfl
        | cons b l ih =>
          intro t ht hb
          rw [List.foldl_cons, hother t ht b fun hba => hb (by simp [hba])]
          exact ih ht fun hin => hb (by simp [hin])
      exact hnone l hdone hnot
    · rw [hother s hs a ha]
      exact foldl_one hother l hs hdone hrest ((List.mem_cons.1 hmem).resolve_left (Ne.symm ha))

section Shared

variable {s : State} {n e : Nat} {q : Queue} {c : Cmd} {x : Ctx}

theorem OneWaits.of_aged (h : OneWaits s n q c x) : OneWaits (agedState s) n q c { x with age := x.age + 1 } :=
  { h with
    live := { h.live with }
    ctxs := by rw [agedState, h.ctxs, List.map_singleton] }

theorem OneWaits.of_handed (h : OneWaits s n q c x) : OneWaits (handedOver s e n) n q c x := { h with live := { h.live with } }

/-- The one command wants the engine that it names, once it is ready. -/
theorem OneWaits.want (h : OneWaits s n q c x) (a : Nat) :
    engineWant s a = (some c).filter fun d => engineOf s d == some a && cmdIsReady s d := by
  rw [engineWant, h.live.order, List.findSome?_singleton, h.order, List.findSome?_singleton, h.head]

/-- The slice end over a module that runs one command: the contexts age, and its engine goes to its space. -/
theorem exec_sliceEnd_hands (h : OneWaits s n q c x) (hshared : isShared s = true) (hengine : engineOf s c = some e)
    (hready : cmdIsReady s c = true) (hholder : (s.array.engines.getD e {}).holder ≠ some n)
    (hwritten : (s.array.engines.getD e {}).written = false) (himages : s.array.images = [])
    (hawake : (s.gaf.islands.getD e {}).asleep = false) (hengines : s.array.engines.length = 64) :
    ∃ t, exec .sliceEnd s = .next t ∧ (t.array.engines.getD e {}).holder = some n ∧ t.gaf.handovers = satAdd 32 s.gaf.handovers 1 ∧
      t.sp.cmds = s.sp.cmds ∧ t.mem = s.mem := by
  have he : e < 64 := by
    rw [engineOf, Option.filter_eq_some_iff] at hengine
    exact engineNamed_lt hengine.1
  have hfew : (s.sp.ctxs.filter (ctxRunnable s)).length ≤ 64 := by
    rw [h.ctxs]
    exact (List.length_filter_le _ _).trans (by simp)
  have haged : OneWaits (freeUse (agedState s) 16) n q c { x with age := x.age + 1 } := h.of_aged.of_freeUse 16
  have hready' : cmdIsReady (freeUse (agedState s) 16) c = true := by
    unfold cmdIsReady at hready ⊢
    simp only [Bool.and_eq_true] at hready ⊢
    obtain ⟨⟨⟨hfirst, -⟩, hunit⟩, hfree⟩ := hready
    refine ⟨⟨⟨hfirst, ?_⟩, hunit⟩, hfree⟩
    rw [haged.ctxHeld]
    simp [h.resident, h.stays]
  have hstep : ((engineWant (freeUse (agedState s) 16) e).map fun c => engineGive c.space e (freeUse (agedState s) 16)).getD
      (freeUse (agedState s) 16) = handedOver (freeUse (agedState s) 16) e n := by
    have hthis : engineOf (freeUse (agedState s) 16) c = some e := hengine
    rw [haged.want, Option.filter_some, if_pos (by rw [hthis, hready']; simp), Option.map_some, Option.getD_some, h.space]
    exact engineGive_hands (s := freeUse (agedState s) 16) hholder hwritten himages hawake
  have hfold := foldl_one (f := fun t a => ((engineWant t a).map fun c => engineGive c.space a t).getD t)
    (P := fun t => OneWaits t n q c { x with age := x.age + 1 } ∧ engineOf t c = some e) (e := e)
    (fun t ht a ha => by
      obtain ⟨hwaits, hown⟩ := ht
      have hnone : engineWant t a = none := by
        rw [hwaits.want, Option.filter_some, if_neg (by rw [hown]; simp [Ne.symm ha])]
      rw [hnone]
      rfl)
    (List.range 64) (s := freeUse (agedState s) 16) ⟨haged, hengine⟩
    (by rw [hstep]; exact ⟨haged.of_handed, hengine⟩) List.nodup_range (List.mem_range.2 he)
  have hswap : sliceEnd s = handedOver (freeUse (agedState s) 16) e n := by
    have hrig : (isShared (agedState s) && !(agedState s).rig.active.strict) = true := by
      show (isShared s && !s.rig.active.strict) = true
      rw [hshared, h.unsliced]
      rfl
    rw [sliceEnd, sliceSwap_few hfew, sliceEngines, if_pos hrig, hfold, hstep]
  refine ⟨_, congrArg Host.Outcome.next hswap, handedArray_holder n ?_, rfl, rfl, rfl⟩
  exact he.trans_eq hengines.symm

end Shared

end Sys2Proof.Machine
end

section
/-! CLAIMS. The Gaffer (file 16). -/

namespace Sys2Proof.Machine

/-- Settles O12, clause by clause: an admission pass, a retune and a slice end over one command, a window and a sleep. -/
theorem theGafferAdmitsRetunesAndSleeps : Obligations.TheGafferAdmitsRetunesAndSleeps := by
  have waits : ∀ {s : State} {n : Nat} {q : Queue} {c : Cmd} {x : Ctx}, (n < 16 ∧ (∀ m, m < 16 → ((spaceGet s m).state = 1 ↔ m = n)) ∧
      s.rig.active.strict = false ∧ s.sp.queues = [q] ∧ q.space = n ∧ s.sp.cmds = [c] ∧ c.space = n ∧ c.queue = q.idx ∧
      c.body.isSome = true ∧ c.phase = .accepted ∧ s.sp.ctxs = [x] ∧ x.id = c.ctx ∧ x.resident = true ∧ x.leaving = false ∧
      s.gaf.haltedGrips = [] ∧ (spaceGet s n).pending = none ∧ s.array.rush = [] ∧ c.rush = none) → OneWaits s n q c x :=
    fun ⟨hn, hlive, hstrict, hqueues, hqueue, hcmds, hspace, hq, hbody, hphase, hctxs, hctx, hresident, hleaving, hgrips, hpending, hrush,
      hsampled⟩ => ⟨⟨hn, hlive⟩, hstrict, hqueues, hqueue, hcmds, hspace, hq, hbody, hphase, hctxs, hctx, hresident, hleaving, hgrips,
      hpending, hrush, hsampled⟩
  have runs : ∀ {s : State} {n e : Nat} {c : Cmd}, (n < 16 ∧ (∀ m, m < 16 → ((spaceGet s m).state = 1 ↔ m = n)) ∧ s.sp.cmds = [c] ∧
      c.space = n ∧ c.phase = .admitted ∧ c.point ≤ 7 ∧ engineNamed c = some e ∧ onEngine c.opcode = true ∧ s.gaf.islands.length = 125 ∧
      (s.gaf.islands.getD e {}).granted = c.point ∧ (s.gaf.islands.getD e {}).held = false ∧ s.array.rush = []) → OneRuns s n e c :=
    fun ⟨hn, hlive, hcmds, hspace, hphase, hpoint, hnamed, hon, hislands, hgranted, hheld, hrush⟩ =>
      ⟨⟨hn, hlive⟩, hcmds, hspace, hphase, hpoint, hnamed, hon, hislands, hgranted, hheld, hrush⟩
  unfold Obligations.TheGafferAdmitsRetunesAndSleeps
  refine ⟨fun s n l q c x h => exec_admissionPass_refuses (waits h) l,
    fun s n e l q c x h => exec_admissionPass_fails (waits h) l,
    fun s n l q c x h => exec_admissionPass_unnamed (waits h) l,
    fun s n e k l q c x h => exec_admissionPass_named (waits h) l,
    fun s cid c => exec_pendingPriority_takes,
    fun s cid c => exec_pendingPriority_leaves,
    fun s m => exec_retune_none,
    fun s m => exec_retune_unready,
    fun s m n e c h => exec_retune_lowers (runs h) m,
    fun s m n e c h => exec_retune_holds (runs h) m,
    fun s m n e c h => exec_retune_raises (runs h) m,
    fun s => exec_sliceEnd_few,
    fun s => exec_sliceEnd_many,
    fun s n e q c x h => exec_sliceEnd_hands (waits h),
    fun s n => exec_strictWindow_other,
    fun s n hstrict hnext hsettled hkeys hwaiting hnone hheld => ?window,
    fun s t n link p ok be hstrict hnext hcmds hspace hkeys hwaiting ht hgoes => ?request,
    fun s n e hstrict hnext hlive hsettled hkeys hwaiting hcmds hrush himages hengines hlength hholder hwritten hawake => ?hands,
    fun s n => exec_islandSleep_wakes,
    fun s n hready hn hawake hus hidle hstopped hwritten hislands => ?engine,
    fun s n hready hlo hhi hawake hstate hislands => ?link⟩
  case window =>
    rw [exec_strictWindow_next hstrict hnext, strictWindow_held hnone hheld, requestsGo_none (s := windowAt s n) hwaiting,
      rowsGo_none (s := windowAt s n) hkeys, settle_idle (windowAt s n) hsettled.1 hsettled.2]
    rfl
  case request =>
    have hopens : strictWindow n s = requestsGo (windowAt s n) := strictWindow_held (by simp [hcmds]) (.inl hspace)
    subst ht
    rw [exec_strictWindow_next hstrict hnext, hopens, requestsGo_one (s := windowAt s n) hwaiting hgoes]
    rfl
  case hands =>
    have hengine : e < s.array.engines.length :=
      (mem_slotEngines (s := s) (n := n) (hengines ▸ List.mem_singleton.2 rfl)).trans_eq hlength.symm
    have hwindow := strictWindow_hands hlive hwaiting hcmds hrush himages hengines hholder hwritten hawake
    refine ⟨handedOver (windowAt s n) e n, ?_, rfl, handedArray_holder n hengine, rfl, engineZero_tiles s.array e,
      engineZero_staging s.array e, rfl, rfl⟩
    rw [exec_strictWindow_next hstrict hnext, hwindow, rowsGo_none (s := handedOver (windowAt s n) e n) hkeys,
      settle_idle (handedOver (windowAt s n) e n) hsettled.1 hsettled.2]
  case engine =>
    exact ⟨_, exec_islandSleep_engine hready hn hawake hus hidle hstopped hwritten,
      napped_asleep (s := { s with array := engineZero s.array n }) (hn.trans (by rw [hislands]; decide)), rfl, engineZero_tiles s.array n,
      engineZero_staging s.array n, rfl, rfl⟩
  case link =>
    exact ⟨_, exec_islandSleep_link hready hlo hhi hawake hstate, napped_asleep (hhi.trans (by rw [hislands]; decide)), rfl, rfl, rfl, rfl⟩

end Sys2Proof.Machine
end
